-- ==== Sys2Proof/Word.lean ====
section
/-! DEFINITION. The word types of the block: bytes, 32-bit register words and 80-bit stored codewords. -/

namespace Sys2Proof

/-- One byte (R15). -/
abbrev Byte := BitVec 8

/-- One 32-bit word: a BAR0 register, a slot word, a lane word (R15, R19). -/
abbrev Word := BitVec 32

/-- One stored codeword: 64 data bits, 1 mark bit and 15 check bits (R24, R271). -/
abbrev Codeword := BitVec 80

end Sys2Proof
end

