-- ==== Sys2Proof/Syntax.lean ====
section
/-! DEFINITION. The commands of the block: one constructor per row of spec/opcode_table.json, with the operands
that reach the block from outside (what a read of host memory returned, a reading, a level, a received word). -/

namespace Sys2Proof

/-- The access paths of a register (17, Access paths and ordering) and the BAR2 user window (R540). -/
inductive Path where
  | bar0 | bar2 | smbus | proxy
  deriving DecidableEq, Repr

/-- What SECDED finds of a word in a store of the base die (R303): no error, one bit in error, or more than it corrects. -/
inductive StoreHit where
  | clean | single | double
  deriving DecidableEq, Repr

/-- What one read of host memory gave (R253): data at the first try, data at the second try, or none. -/
inductive Fetch where
  | ok (data : List Byte)
  | retried (data : List Byte)
  | failed
  deriving DecidableEq, Repr

/-- Measured settings of one eyelet (R310, R311): the tap settings (of a sweep) or tap offsets (of a training step) that are not clean,
in each direction. An eyelet that no result names is clean at every setting. -/
structure EyeRes where
  idx : Nat
  downBad : List Int
  upBad : List Int
  deriving DecidableEq, Repr

/-- The bits that one receiver counts in a calibration step, and for a receiver of no data eyelet since the last one (R313, R314): `up`
names the base-die receiver. -/
structure CalRes where
  idx : Nat
  up : Bool
  n : Nat
  o : Nat
  deriving DecidableEq, Repr

/-- How the answers of a slice under test differ from those of sound logic (R520, R521): capture numbers, two for each pattern, with the
bits that differ. -/
abbrev SliceDiff := List (Nat × BitVec 32)

/-- What a maintenance window measures: the eye results of its training step; one list of receiver counts per calibration step, in
which a receiver that is not named counts 112 bits, half of them ones; what the slices run answer, a slice not named being sound; and
the read disturbance of scrubbed codewords. -/
structure MaintIn where
  train : List EyeRes
  cal : List (List CalRes)
  sigs : List SliceDiff
  noise : List Codeword
  deriving DecidableEq, Repr

/-- The strap levels sampled at step 1 (R389, R578). -/
structure Straps where
  x : Nat
  y : Nat
  wM1 : Nat
  hM1 : Nat
  smbAddr : Nat
  pcieEn : Bool
  deriving DecidableEq, Repr

/-- A received beat after 8b/10b (R361, R363, R367): an errored one, one that opens with K28.5 and four data bytes,
or five data bytes as the 40-bit value `{C, s, d}`. -/
inductive RxSymbols where
  | errored
  | comma (s1 s2 s3 s4 : Nat)
  | bytes (value : BitVec 40)
  deriving DecidableEq, Repr

/-- A packet at a torus port (R395, R398): the port it arrives on (4: it starts here), the LSEQ of its first link word,
its link words, whether a word of it is errored, and, for PROXY packets, the ID of the device at the other end of the channel,
which the packet itself does not name. -/
structure PktIn where
  port : Nat
  lseq : Nat
  words : List (BitVec 64)
  errored : Bool
  src : Nat := 0
  deriving DecidableEq, Repr

/-- The readings of one OTP word at the three references (R496): value and complement halves at normal,
margin-low and margin-high. -/
structure OtpReads where
  nv : Word
  nc : Word
  lv : Word
  lc : Word
  hv : Word
  hc : Word
  deriving DecidableEq, Repr

/-- Triggers of a save (R453, R459). -/
inductive SaveCause where
  | pfail | vdd | vddm | vaux | ready
  deriving DecidableEq, Repr

/-- What the checks of a bank read (R446): the codewords of its canaries, whether the signature and T_e match their complements, and by
codeword address of the channel the bits that the fast scrub finds changed. -/
structure BankCheck where
  ch : Nat
  bank : Nat
  canaries : List Codeword
  recordOk : Bool
  noise : List (Nat × Codeword)
  deriving DecidableEq, Repr

/-- What the cold path of R456 finds mismatched in the save image: regions whose CRC fails (1 contexts, 2 journal, 3 checkpoints, 4 fault
log, 5 channels, 6 device), contexts, journal records (context, sequence number), channels whose checkpoint records or channel records
fail, fault-log entries, and whether the device record does; and darn records of the persistent area (channel, place). -/
structure SaveReads where
  regions : List Nat
  ctxs : List Nat
  journal : List (Nat × Nat)
  ckpts : List Nat
  chans : List Nat
  faults : List Nat
  device : Bool
  darns : List (Nat × Nat)
  deriving DecidableEq, Repr

/-- The sources of a warm reset (R477). -/
inductive WarmSrc where
  | perst | devRst
  deriving DecidableEq, Repr

/-- The commands of the block, in the order of spec/opcode_table.json. -/
inductive Instr where
  | nop (ctx : Nat)
  | wait (ctx : Nat)
  | waitDone (ctx : Nat)
  | read (ctx : Nat)
  | write (ctx : Nat) (fetches : List Fetch)
  | fill (ctx : Nat)
  | run (ctx : Nat)
  | runComplete (ch : Nat)
  | loadPricking (ctx : Nat) (image : Fetch) (checkerFault : Bool) (badCkpts : List Nat)
  | funcStart (ctx : Nat) (badCkpt : Bool)
  | funcStop (ctx : Nat)
  | ctxConfig (ctx : Nat)
  | ctxDisable (ctx : Nat)
  | ctxQuery (ctx : Nat)
  | patchTable (ctx : Nat) (table : Fetch)
  | fuseProgram (ctx : Nat) (railsOk vfuse : Bool)
  | powerRequest (ctx : Nat)
  | pendingRequestBegin
  | firmwareLoad (ctx : Nat) (image : Fetch)
  | fwFallback
  | dbNudge (ctx : Nat)
  | dbNudgeAll
  | doorbellPoll
  | doorbellRead (ctx : Nat) (pi piC : Word) (badRecord : Bool)
  | descriptorExamine (ctx : Nat) (bytes : List Byte) (operandFail : Bool)
  | headRefetch (ctx : Nat) (bytes : List Byte)
  | journalConfirm (ctx seq : Nat)
  | msixTimeout (ctx : Nat)
  | dbBaseWrite (value : Word)
  | admcfgCommit (value : Word)
  | admcfgDisable (value : Word)
  | prickingStart (ch : Nat)
  | nopSlot (ch : Nat) (hit : StoreHit)
  | act (ch : Nat)
  | rd (ch : Nat)
  | wr (ch : Nat) (hit : StoreHit)
  | rmw (ch : Nat) (hit : StoreHit)
  | pre (ch : Nat)
  | prea (ch : Nat)
  | refab (ch : Nat)
  | refpb (ch : Nat)
  | openRun (ch : Nat) (noise : List Codeword) (storeFail : Bool)
  | scrub (ch : Nat) (w : MaintIn)
  | train (ch : Nat) (w : MaintIn)
  | cal (ch : Nat) (w : MaintIn)
  | bist (ch : Nat) (w : MaintIn)
  | fetch (ch : Nat)
  | mark (ch : Nat)
  | tierSwitch (ch : Nat)
  | shutDown (ch : Nat)
  | steal (ch : Nat)
  | idleSchedule (ch : Nat) (w : MaintIn) (storeFail : Bool) (hoop : Option Nat)
  | readData (ch : Nat) (noise : List Codeword) (hit : StoreHit) (remapHit : Bool)
  | wordRelease (ch group : Nat)
  | recordComplete (ch group : Nat) (hit : StoreHit)
  | scrubPeriodBoundary (ch : Nat)
  | monitorWindow (ch : Nat)
  | parityFlag (ch : Nat) (word : BitVec 22) (refused : Bool)
  | strobeLoss (ch : Nat) (rstAnswers fckAnswers : Bool)
  | lockstep (ch : Nat) (sigs : List SliceDiff)
  | bistIdleTimer (ch : Nat)
  | heartbeatLoss (ch edge : Nat)
  | selfRefreshExit (ch clean : Nat) (w : MaintIn) (badRemap : List Nat)
  | sensorSample (readings : List Int)
  | sensorRecover (sensor : Nat)
  | bandFall (die : Nat)
  | evaluation
  | rungRestore
  | orderlyTripComplete
  | orderlyTripTimeout
  | tripConditionClear
  | coolDemPeriod (lowReadsHigh releasedReadsLow : Bool)
  | coolStuck
  | coolStuckClear
  | tdConversion (input : Nat) (dvUv v1Uv vrUv : Int)
  | tdFault (input : Nat)
  | tdRecover (input : Nat)
  | coolCfgWrite (value : Word)
  | coldReset
  | regRdy (straps : Straps) (inRange : Bool)
  | oscRdy (inRange : Bool) (reads : List (Nat × OtpReads)) (badHeader : Bool)
  | memRdy (inRange : Bool)
  | logicRdy (inRange : Bool) (sweep : List (Nat × List EyeRes)) (goodRows : List (Nat × Nat × Nat)) (checks : List BankCheck) (bad : SaveReads)
  | seqRail (step : Nat)
  | seqOrder (step : Nat)
  | bringUpComplete
  | saveTrigger (cause : SaveCause)
  | saveCommit
  | warmRestore (checks : List BankCheck)
  | vsaveLow
  | chargeTest (dvMv esrMohm vsaveMv : Nat)
  | chargeTimeout
  | hoopWait (irqPending : Bool)
  | wake (checks : List BankCheck) (w : List (Nat × MaintIn)) (badRemap : List (Nat × Nat))
  | wakeTimer
  | pwrWakeWake (path : Path)
  | pwrWakeSafeExit (path : Path)
  | safeExit (checks : List BankCheck)
  | avsPoll (answered : Bool) (mv : Nat)
  | avsTimeout
  | devRstWarm
  | warmReset (src : WarmSrc)
  | devRstHoop
  | hoopRestart
  | hoopWatchdog
  | hostInterfaceReset
  | hostRecovery (badJournal : List (Nat × Nat))
  | refclkLoss
  | pinReadback (alertLow fatalLow : Bool)
  | fltAck (path : Path) (corrupt : List Nat)
  | fltClear (path : Path) (corrupt : List Nat)
  | fltAckAll (corrupt : List Nat)
  | fltClearAll (corrupt : List Nat)
  | clearLost
  | selftestGo (sigs : List (Nat × List SliceDiff)) (marchFail : List Nat)
  | otpRead (path : Path) (value : Word)
  | otpAudit (path : Path) (reads : List (Nat × OtpReads)) (strengthened : List (Nat × OtpReads))
  | auditTimer (reads : List (Nat × OtpReads)) (strengthened : List (Nat × OtpReads))
  | otpPulseEnd (took railsOk vfuse : Bool)
  | tapInstruction (kind : Nat)
  | chPrivWrite (path : Path) (ch : Nat) (value : Word)
  | chSubstWrite (path : Path) (ch : Nat) (value : Word)
  | chDaRegWrite (path : Path) (ch cls : Nat) (value : Word)
  | calForce (path : Path) (ch : Nat) (value : Word)
  | bistForce (path : Path) (ch : Nat)
  | remapClear (path : Path) (ch : Nat) (value : Word)
  | laneRetrain (path : Path) (value : Word)
  | prbsEnable (path : Path) (value : Word)
  | prbsInject (path : Path) (value : Word)
  | prbsAutoInject (group lane : Nat)
  | prbsSync (group lane : Nat) (bits : List Bool)
  | dcTestDone (rx : Bool) (group : Nat) (outcomes : List Nat)
  | clockLock (group : Nat)
  | laneAlign (group lane : Nat) (inverted : Bool) (sym : RxSymbols)
  | alignTimeout (group : Nat)
  | trainingBeat (group lane : Nat) (sym : RxSymbols)
  | handshakeTimeout (group : Nat)
  | markerBeat (group lane : Nat) (sym : RxSymbols)
  | markerSend (group : Nat)
  | beatLaunch (group lane : Nat) (fifoFail : Bool)
  | receiveBeat (group lane : Nat) (sym : RxSymbols) (lead : Int) (fifoFail : Bool)
  | lossOfSignal (group lane : Nat)
  | lossOfSymbolLock (group lane : Nat)
  | receiveLossOfLock (group : Nat)
  | transmitLossOfLock (group : Nat)
  | ident (port : Nat) (word : BitVec 64)
  | portRetrain (port : Nat)
  | freqCheck (port : Nat) (diff : Nat)
  | lack (port lseq : Nat)
  | lnak (port lseq : Nat)
  | replay (port lseq : Nat)
  | lnakTimeout (port : Nat)
  | replayTimeout (port : Nat)
  | queueTimeout (port : Nat)
  | picotSend
  | picotA (port : Nat) (word : BitVec 64) (arrival : Nat)
  | picotB (port : Nat) (word : BitVec 64)
  | delayReqSend (port : Nat)
  | delayReq (port id turn : Nat)
  | delayRsp (port id turn arrival : Nat)
  | rootElection
  | holdover
  | holdoverRoot
  | fwdRec (pk : PktIn)
  | fwdAck (pk : PktIn)
  | forwardResend (ch tag : Nat)
  | forwardLost (ch tag : Nat)
  | start (pk : PktIn)
  | torStartGo (value : Word)
  | proxyOpen (pk : PktIn)
  | pack (pk : PktIn)
  | regRd (pk : PktIn)
  | regWr (pk : PktIn)
  | regRsp (pk : PktIn)
  | memRd (pk : PktIn) (data : Fetch)
  | memWr (pk : PktIn)
  | memData (pk : PktIn)
  | proxyResend
  | proxyLost
  | proxyBindingTimeout
  | goRd (value : Word)
  | goWr (value : Word)
  | release (value : Word)
  | pxyTimeout
  | timeLoRead (path : Path) (low width : Nat)
  | counterLoRead (path : Path) (n low width : Nat)
  | counterHiRead (path : Path) (n low width : Nat)
  | latchTimeout (path : Path) (n : Nat)
  | counterWindow
  | cntCfgWrite (n : Nat) (value : Word)
  | cntWindowWrite (value : Word)
  | crcStart (unit : Nat) (value : Word)
  | crcFinish (unit : Nat) (value : Word)
  | crcAbort (unit : Nat) (value : Word)
  | feed4 (unit : Nat) (value : Word)
  | feed1 (unit : Nat) (value : Word)
  | crcJobDone (unit : Nat)
  | setAddr (bytes : List Byte) (pecOk : Bool)
  | smbusRead (pec : Bool)
  | smbusWrite (bytes : List Byte) (pecOk : Bool)
  | wstatus (pec : Bool)
  | regAccessTimeout (path : Path) (isRead : Bool)
  | registerWrite (path : Path) (offset width : Nat) (value : Word)
  | warmResetEnd
  | vddlLow
  | vddlReady
  | dramRailLow
  | refclkReturn
  | hoopRunning
  | d3hotEntry
  | tapReset
  | selfRefreshInterval (ch : Nat)
  | vsaveArmedLevel (mv : Nat)
  deriving DecidableEq, Repr

end Sys2Proof
end

