-- ==== Sys2Proof/Machine/Sparse.lean ====
section
/-! DEFINITION. Sparse tables: a list of key and value pairs in one canonical form (keys strictly rising, no
entry equal to the default), for everything the block holds many of (contexts, channels, codewords, counters). -/

namespace Sys2Proof.Sparse

variable {α : Type}

/-- The value at key `k`, `d` where nothing is listed. -/
def get (d : α) : List (Nat × α) → Nat → α
  | [], _ => d
  | (j, v) :: m, k => if k = j then v else get d m k

/-- The entry listed at key `k`, if any. -/
def find? : List (Nat × α) → Nat → Option α
  | [], _ => none
  | (j, v) :: m, k => if k = j then some v else find? m k

/-- Drop the entry of key `k`. -/
def erase (m : List (Nat × α)) (k : Nat) : List (Nat × α) := m.filter fun e => e.1 != k

/-- Enter `v` at key `k`, in key order, replacing an entry of that key. -/
def insert : List (Nat × α) → Nat → α → List (Nat × α)
  | [], k, v => [(k, v)]
  | (j, w) :: m, k, v =>
    if k < j then (k, v) :: (j, w) :: m
    else if k = j then (k, v) :: m
    else (j, w) :: insert m k v

/-- Write `v` at key `k`, keeping the canonical form: writing the default removes the entry. -/
def set [DecidableEq α] (d : α) (m : List (Nat × α)) (k : Nat) (v : α) : List (Nat × α) :=
  if v = d then erase m k else insert m k v

/-- Replace the value at `k` by `f` of it. -/
def modify [DecidableEq α] (d : α) (m : List (Nat × α)) (k : Nat) (f : α → α) : List (Nat × α) :=
  set d m k (f (get d m k))

/-- Every key of `m` lies above `lo` (when given) and the keys rise strictly. -/
def sorted : Option Nat → List (Nat × α) → Bool
  | _, [] => true
  | none, (j, _) :: m => sorted (some j) m
  | some lo, (j, _) :: m => decide (lo < j) && sorted (some j) m

/-- The canonical form: strictly rising keys and no entry equal to the default. -/
def wf [DecidableEq α] (d : α) (m : List (Nat × α)) : Bool :=
  sorted none m && m.all fun e => decide (e.2 ≠ d)

end Sys2Proof.Sparse
end

