-- ==== Sys2Proof/Machine/State.lean ====
section
/-! DEFINITION. The state of the block: everything the spec gives it, as plain data, and its value after reset.
Default values of fields are the reset values; a value marked in a log entry is the model's choice. -/

namespace Sys2Proof.Machine

open Sys2Proof

/-- Why a step stops with a fault: no command of this block ends in one (a fault of the spec is an entry of the fault
log, R460), so the type is empty. Safe: nothing is claimed about a stop. -/
inductive Fault where
  deriving DecidableEq, Repr

/-- Why a step is refused. -/
inductive Refusal where
  /-- A command without a meaning, by its mnemonic. Raised by the dispatch only. Safe: the model stops. -/
  | notModelled (mnemonic : String)
  deriving DecidableEq, Repr

/-! ## Shared small types -/

/-- A value kept once per register access path (R559): index registers and read latches. -/
structure PerPath where
  bar0 : Nat := 0
  smbus : Nat := 0
  proxy : Nat := 0
  deriving DecidableEq, Repr, Inhabited

/-- A verdict of the checker (R94). -/
structure Verdict where
  code : Nat
  sect : Nat := 0
  tier : Nat := 0
  step : Nat := 0
  motif : Nat := 0
  offset : Nat := 0
  detail : Nat := 0
  deriving DecidableEq, Repr, Inhabited

/-- The function of a bobbin (R5). -/
inductive Func where
  | idle | source | capture | direct | retired
  deriving DecidableEq, Repr, Inhabited

/-- CH_STATUS.STATE (R172). -/
inductive ChState where
  | idle | starting | running | stopping | stopped | retired
  deriving DecidableEq, Repr, Inhabited

/-- The device modes (R4). -/
inductive Mode where
  | bringUp | service | retention | maintenance | save | safe
  deriving DecidableEq, Repr, Inhabited

/-! ## Pricking sections (03) -/

/-- An address generator block (R113). -/
structure GenCfg where
  base : Nat := 0
  stride : Nat := 0
  limit : Nat := 4
  hash : Nat := 0
  deriving DecidableEq, Repr, Inhabited

/-- A motif table entry (R107). -/
structure Motif where
  card : Nat := 0
  len : Nat := 16
  staged : Bool := false
  src : Nat := 0
  stageAddr : Nat := 0
  deriving DecidableEq, Repr, Inhabited

/-- A sequence table entry (R109). -/
structure SeqStep where
  motif : Nat := 0
  switch : Nat := 0
  rep : Nat := 1
  deriving DecidableEq, Repr, Inhabited

/-- A tier: its steps and declared power in mW (R105, R106). -/
structure TierDef where
  first : Nat := 0
  count : Nat := 1
  power : Nat := 0
  deriving DecidableEq, Repr, Inhabited

/-- A channel section (R105), with its slot data. -/
structure Section where
  chan : Nat := 0
  func : Func := .direct
  addressed : Bool := false
  loop : Bool := false
  ride : Bool := false
  cover : Nat := 1
  rlsLead : Nat := 0
  scrubFloor : Nat := 0
  distCal : Nat := 0
  distBist : Nat := 0
  distTrain : Nat := 0
  distScrub : Nat := 0
  tiers : List TierDef := []
  gens : List GenCfg := []
  motifs : List Motif := []
  steps : List SeqStep := []
  slots : List Word := []
  bktB : Nat := 0
  bktA : Nat := 0
  intB : Nat := 0
  intA : Nat := 0
  imageId : Nat := 0
  startGroup : Nat := 0
  deriving DecidableEq, Repr, Inhabited

/-- A lane section (R124): `rx` gives its direction; byte `8e + l` of the table assigns lane `l` of entry `e`. -/
structure LaneSection where
  rx : Bool := false
  group : Nat := 0
  periodLog2 : Nat := 4
  table : List Nat := []
  imageId : Nat := 0
  deriving DecidableEq, Repr, Inhabited

/-! ## Channel sequencer and DRAM side (01, 02, 03) -/

/-- A place in the executed stream (R110): tier, step (index in the sequence table), completed repetitions, slot. -/
structure Pos where
  tier : Nat := 0
  step : Nat := 0
  rep : Nat := 0
  off : Nat := 0
  deriving DecidableEq, Repr, Inhabited

/-- A checkpoint record (R117, R200, R243): the global time of its slot, the local ck of it, and its place; `rows` are the rows
the stream holds open after its slot, for R164. -/
structure Ckpt where
  time : Nat := 0
  ck : Nat := 0
  pos : Pos := {}
  gens : List Nat := []
  rows : List (Nat × Nat) := []
  bnd : List Bool := []
  passNo : Nat := 0
  passIdx : Nat := 0
  deriving DecidableEq, Repr, Inhabited

/-- The reader of a read-class command; `bind` is the binding time of a read half that issued no command, and `hoop` the
management core (R288). -/
inductive Reader where
  | src (group id : Nat)
  | merge (id : Nat)
  | bind (id : Nat)
  | ana (pass idx before : Nat)
  | fetch (motif blk : Nat)
  | da (ctx seq idx : Nat)
  | crc (unit idx : Nat)
  | hoop
  deriving DecidableEq, Repr, Inhabited

/-- A displaced column command that make-up owes (R72, R115, R594): its effective address, and the reader of a read, the merge-queue entry of a pair's write, or the data of a WR. -/
structure MakeUp where
  addr : Nat
  reader : Option Reader := none
  pair : Option Nat := none
  data : List Codeword := []
  deriving DecidableEq, Repr

/-- What a lost command word asks for (R320): a read, a write, a change of a bank's row, a refresh, or a command of a
maintenance window with its kind of work. -/
inductive CmdSort where
  | read | write | row | refresh
  | maint (kind : Nat)
  deriving DecidableEq, Repr, Inhabited

/-- A command sent to the region lately (R42, R320): its ck and address, what its write replaced in the array and the remap
table, what it wrote, and the banks it credited. -/
structure CmdRec where
  ck : Nat
  sort : CmdSort
  addr : Nat := 0
  old : List Codeword := []
  oldRm : List (Option (BitVec 64 × Bool)) := []
  data : List Codeword := []
  banks : List Nat := []
  deriving DecidableEq, Repr, Inhabited

/-- The part of a bobbin that executes slots (03). `fills` are the card blocks that FETCH has read and that hold their words from
a later ck on (R118): that ck, the block, its words. `winWork` is the kind of work that the running maintenance window serves, with the
length it has for it (R78). -/
structure Seq where
  sect : Option Section := none
  bound : Bool := false
  card : List (Nat × Word) := []
  cardUnc : Bool := false
  pos : Pos := {}
  gens : List Nat := [0, 0, 0, 0]
  ts : Nat := 0
  slotCk : Nat := 0
  tierSel : Nat := 0
  runOff : Nat := 0
  runLen : Nat := 0
  runReserve : Nat := 0
  runWarden : Bool := false
  winMake : Bool := false
  winWork : Option (Nat × Nat) := none
  fills : List (Nat × Nat × List Word) := []
  atSwitch : Bool := false
  ckpts : List (Nat × Ckpt) := []
  ckptNo : Nat := 0
  stopAt : Option Nat := none
  stopCauseReq : Nat := 0
  deriving DecidableEq, Repr, Inhabited

/-- The DRAM region of a channel as the bobbin sees it: open rows, the last command times rules 2, 13 and 14 need, the commands
of the last 100 ck (newest first), the ck of the last gap of the forward clock (R45), and of the last refresh that the region made
by itself in self-refresh (R43). -/
structure Region where
  openRows : List (Nat × Nat) := []
  lastAct : Nat := 0
  lastRd : Nat := 0
  lastWr : Nat := 0
  lastRef : Nat := 0
  inSr : Bool := false
  autoEntry : Bool := false
  autoCount : Nat := 0
  rowCounter : Nat := 0
  exitAt : Nat := 0
  gapAt : Nat := 0
  srLast : Nat := 0
  cmds : List CmdRec := []
  deriving DecidableEq, Repr, Inhabited

/-- Refresh accounting (R61 to R76): the debts `debt` hold at ck `since`; every ck after adds the band factor. -/
structure Refresh where
  debt : List Int := []
  since : Nat := 0
  band : Nat := 1
  breaks : Nat := 0
  surplus : Nat := 0
  makeup : List MakeUp := []
  lastBreak : Option Nat := none
  deriving DecidableEq, Repr, Inhabited

/-- Pending maintenance work (R77, R78). -/
structure Maint where
  cal : Bool := false
  bist : Bool := false
  train : Bool := false
  deriving DecidableEq, Repr, Inhabited


/-! ## Vector source (05) -/

/-- A granule of a vector stream (R179), numbered in the order of its slots; `sched` is its slot's ck, `target` the anchor's position
(R181), `ready` the ck from which its decoded entry is ready (none: its data have not arrived), `ival` the number of checkpoints issued
before its slot. `entry` is false when its read found the release buffer full, `freed` once it has left the buffer, `counted` once it
counts in DROPS, `late` once a word of it was late. -/
structure SrcGran where
  id : Nat
  sched : Nat := 0
  target : Option Nat := none
  issued : Bool := true
  made : Bool := false
  ready : Option Nat := none
  words : List Word := []
  bad : Bool := false
  starved : Bool := false
  entry : Bool := true
  ival : Nat := 0
  late : Bool := false
  counted : Bool := false
  freed : Bool := false
  deriving DecidableEq, Repr, Inhabited

/-- What a group's expander expects (R185): a header, or the body granules of a LITERAL or of a LOOP that are still to come. -/
inductive SrcMode where
  | header
  | literal (n : Nat)
  | loop (n k : Nat)
  deriving DecidableEq, Repr, Inhabited

/-- What a stretch of placed words is: one vector, the repetitions of a LOOP after its first, or a HOLD. -/
inductive SegKind where
  | one | again | hold
  deriving DecidableEq, Repr, Inhabited

/-- Words of a group placed one after another from position `start` on: `len` words, of which `done` have been handed over. They are the
vectors of the granules `ids` over and over, or for a HOLD the last-vector register; `hdr` is the header that governs them. `counts`
says that the header belongs to a LOOP or a HOLD, and so counts when words are lost (R182). -/
structure SrcSeg where
  kind : SegKind := .one
  start : Nat
  len : Nat
  done : Nat := 0
  ids : List Nat := []
  hdr : Option Nat := none
  counts : Bool := false
  deriving DecidableEq, Repr, Inhabited

/-- One vector stream (R179 to R187): `ptr` counts assigned positions from the first beat of the lane section, `cons` is the first
one that nothing has been handed over for. `store` holds the granules in the release buffer and those whose data are under way, `queue`
those that the expander has not taken, `body` the granules read of the record in progress, `segs` the words placed. `reg` is the
last-vector register: the granules whose words it holds, newest first, each with the number of its words (R186). `marks` are checkpoints
whose boundary bit awaits the granules up to one (R200). -/
structure SrcGroup where
  ptr : Nat := 0
  cons : Nat := 0
  first : Bool := true
  resync : Bool := false
  mode : SrcMode := .header
  hdr : Option Nat := none
  body : List Nat := []
  queue : List Nat := []
  store : List SrcGran := []
  segs : List SrcSeg := []
  reg : List (SrcGran × Nat) := []
  marks : List (Nat × Nat) := []
  deriving DecidableEq, Repr, Inhabited

/-- The SOURCE state of a bobbin. `counts` holds released granules per checkpoint interval, `handed` the deadline of the last word and
the interval of each granule released lately (R201). -/
structure Source where
  coded : Bool := false
  panicCk : Nat := 0x200
  panicScope : Nat := 1
  groups : List (Nat × SrcGroup) := []
  nextId : Nat := 0
  counts : List (Nat × Nat) := []
  handed : List (Nat × Nat) := []
  panic : Bool := false
  panicSince : Nat := 0
  panics : Nat := 0
  lates : Nat := 0
  drops : Nat := 0
  minCover : Nat := 0xFFFF
  deriving DecidableEq, Repr, Inhabited

/-! ## Fail capture and analysis (06) -/

/-- A capture record (R204 to R208): mask words, unknown flag, completion time, interval; addressed ones carry `addr`. -/
structure CapRec where
  group : Nat := 0
  k : Nat := 0
  addr : Nat := 0
  mask : List Word := []
  unknown : Bool := false
  time : Nat := 0
  ival : Nat := 0
  fwd : Option Nat := none
  deriving DecidableEq, Repr, Inhabited

/-- A merge-queue entry (R56, R213 to R216): the pair's granule, the ck its read half issued at, the record bound to it at
`bind`, and its merged data. `fwd` marks a pair whose record is forwarded, `made` one whose read half make-up issues (at `readAt`),
`owed` one whose write make-up issues, `cancelAt` the ck of a cancelling WR, `slotDone` that its write half's slot has passed, `wrote`
that the write issued. -/
structure Merge where
  id : Nat
  addr : Nat
  issue : Nat
  group : Nat := 0
  k : Nat := 0
  tpl : Bool := false
  fwd : Bool := false
  starved : Bool := false
  ival : Nat := 0
  rcd : Option CapRec := none
  bound : Bool := false
  dropped : Bool := false
  cancelAt : Option Nat := none
  made : Bool := false
  readAt : Option Nat := none
  owed : Bool := false
  merged : Option (List Codeword) := none
  slotDone : Bool := false
  wrote : Option Nat := none
  deriving DecidableEq, Repr, Inhabited

/-- A template under way (R219): its ACT slot and the record bound to it. -/
structure Tpl where
  start : Nat
  rcd : Option CapRec := none
  deriving DecidableEq, Repr, Inhabited

/-- A forwarded record awaiting its acknowledgement (R221 to R224, R401). -/
structure Fwd where
  tag : Nat
  tgtX : Nat
  tgtY : Nat
  tgtCh : Nat
  addr : Nat
  mask : List Word
  unknown : Bool
  sends : Nat := 1
  lastSend : Nat := 0
  ival : Nat := 0
  counted : Bool := true
  deriving DecidableEq, Repr, Inhabited

/-- The CAPTURE state of a bobbin. -/
structure Capture where
  acc : List (Nat × List (Nat × Option Word)) := []
  recNo : List (Nat × Nat) := []
  readNo : List (Nat × Nat) := []
  rxq : List CapRec := []
  lostRecs : List (Nat × Nat) := []
  holdMax : Nat := 0
  merges : List Merge := []
  nextId : Nat := 0
  bankq : List CapRec := []
  tplRead : List Tpl := []
  tplPre : List Tpl := []
  recent : List (Nat × Nat) := []
  tatB : List (Nat × Nat) := []
  tatA : Nat := 0
  fwdEn : Bool := false
  fwdAccept : Bool := false
  fwdCh : Nat := 0
  fwdY : Nat := 0
  fwdX : Nat := 0
  fwds : List Fwd := []
  fwdLost : List Nat := []
  rej : List (Nat × Word) := []
  rejects : Nat := 0
  unknowns : Nat := 0
  inputLoss : Bool := false
  counts : List (Nat × Nat) := []
  rejIval : List (Nat × Nat) := []
  lossIval : List Nat := []
  deriving DecidableEq, Repr, Inhabited

/-- One analysis pass under way (R233 to R237): the granules read so far by index (none: unreadable), the rows handled,
and the counts of one set of column counters. -/
structure Pass where
  resumedAt : Nat := 0
  buf : List (Nat × Option (BitVec 256)) := []
  rows : Nat := 0
  cols : List (Nat × Nat) := []
  unkSeg : List (Nat × Nat) := []
  total : Nat := 0
  mustRows : Nat := 0
  unkRows : Nat := 0
  deriving DecidableEq, Repr, Inhabited

/-- A record of the analysis engine on its way to the output queue (R241): one of a pass, or the two summaries of a pass. -/
inductive AnaOut where
  | record (r : BitVec 64)
  | summary (a b : Nat)
  deriving DecidableEq, Repr, Inhabited

/-- The analysis engine (R233 to R243). `due` holds what the output queue takes next, each with its ck and pass; `outq` is the
queue, each entry with the ck it entered at, and `lost` counts the records of each pass that found it full. -/
structure Analysis where
  spareCols : Nat := 0
  spareRows : Nat := 0
  widthM1 : Nat := 0
  rowsM1 : Nat := 0
  colThresh : Nat := 0
  rowThresh : Nat := 0
  passNo : Nat := 0
  slotIdx : Nat := 0
  passes : List (Nat × Pass) := []
  due : List (Nat × Nat × AnaOut) := []
  outq : List (Nat × BitVec 64) := []
  lost : List (Nat × Nat) := []
  sumA : Nat := 0
  sumB : Nat := 0
  deriving DecidableEq, Repr, Inhabited

/-! ## Direct Access (07) -/

/-- One class of a channel (R261 to R264); tokens are held in units of 1/65,536. -/
structure DaClass where
  rate : Nat := 0
  burst : Nat := 0x40
  outM1 : Nat := 3
  tokens : Nat := 0x400000
  lastGain : Nat := 0
  shed : Bool := false
  stalled : Bool := false
  rr : Nat := 0
  deriving DecidableEq, Repr, Inhabited

/-- Direct Access and the floor balance of a bobbin; the balance is held in units of 1/2^24. -/
structure Direct where
  init : BitVec 32 := 0
  map0 : Word := 0
  map1 : Word := 0
  cls : List (Nat × DaClass) := []
  balance : Nat := 0
  balSince : Nat := 0
  lastIdleOp : Nat := 0
  deriving DecidableEq, Repr, Inhabited

/-! ## Stored data integrity (08) -/

/-- STATE of a correction table entry (R287). -/
inductive CorrState where
  | logged | remapped | refused | uncorrectable
  deriving DecidableEq, Repr, Inhabited

/-- A correction table entry (R287). -/
structure Corr where
  valid : Bool := true
  priv : Bool := false
  state : CorrState := .logged
  addr : Nat := 0
  posA : Nat := 0x7F
  posB : Nat := 0x7F
  stamp : Nat := 0
  deriving DecidableEq, Repr, Inhabited

/-- A remap entry (R290): its codeword address, and the data and mark it holds (none: dormant, R292). -/
structure Remap where
  addr : Nat
  data : Option (BitVec 64 × Bool) := none
  deriving DecidableEq, Repr, Inhabited

/-- The rewrite that a scrub operation owes (R294): its granule and words, and whether it ranks with the floor (R247). -/
structure Rewrite where
  gran : Nat
  words : List Codeword
  floor : Bool := false
  deriving DecidableEq, Repr, Inhabited

/-- Stored data integrity of a channel (08). `fixes` counts the single-bit errors corrected in its stores (R303), and `reloadDue` says that
the remap entries are reloaded before the channel serves a read (R292). -/
structure Integrity where
  filter : List (Nat × (Nat × Nat)) := []
  corr : List (Nat × Corr) := []
  auto : Bool := true
  remap : List Remap := []
  fullLogged : Bool := false
  scrubEn : Bool := true
  period : Nat := 0x400
  periodPend : Option Nat := none
  lastBoundary : Nat := 0
  late : Bool := false
  sweep : Nat := 0
  passStart : Nat := 0
  passLate : Bool := false
  targeted : List Nat := []
  rewrite : Option Rewrite := none
  lastIdleScrub : Nat := 0
  scrubbed : Nat := 0
  poisoned : Nat := 0
  uncorr : Nat := 0
  recur : Nat := 0
  fixes : Nat := 0
  reloadDue : Bool := false
  deriving DecidableEq, Repr, Inhabited

/-! ## Eyelets (09) -/

/-- State of an eyelet (R306). -/
inductive EyeState where
  | active | spare | darned | erased | spent
  deriving DecidableEq, Repr, Inhabited

/-- One eyelet (R305, R308, R313, R330, R331). `link` is the LINK field of R330. -/
structure Eyelet where
  state : EyeState := .active
  suspect : Bool := false
  link : Nat := 0x7F
  tx : Nat := 64
  rx : Nat := 64
  eyeW : Nat := 0
  trimUp : Nat := 32
  trimDown : Nat := 32
  failing : Bool := false
  deriving DecidableEq, Repr, Inhabited

/-- What the eyelet monitor keeps of a data role (R318): its count, the last address counted, and the count of the last completed
window (R331). -/
structure Mon where
  cnt : Nat := 0
  lastAddr : Option Nat := none
  corr : Nat := 0
  deriving DecidableEq, Repr, Inhabited

/-- An emergency that waits for its later steps while FCK is stopped: that of failing CA roles (R323), or a strobe loss (R324). -/
inductive Emergency where
  | ca
  | strobe
  deriving DecidableEq, Repr, Inhabited

/-- The eyelets of a channel (09). `mon` is the monitor by data role; `up` and `down` hold n and o of the data receivers, eyelets
0 to 83, at the base die and at the region (R313); `emerg` is an emergency under way; `calTrig` is a calibration run that has been
triggered and has not started, with its step limit (R315). -/
structure Eyes where
  tab : List (Nat × Eyelet) := []
  mon : List (Nat × Mon) := []
  up : List (Nat × Nat) := []
  down : List (Nat × Nat) := []
  emerg : Option Emergency := none
  eyeMin : Nat := 0x0C
  fixed : Bool := false
  idx : PerPath := {}
  decodes : Nat := 0
  parity : List Nat := []
  paritySeen : Bool := false
  darnPend : List Nat := []
  calTrig : Option Nat := none
  calRun : Bool := false
  calSteps : Nat := 0
  calLimit : Nat := 32
  retrig : Nat := 5
  calCount : Nat := 0
  calTemp : Int := 0
  unsettled : Bool := false
  calTime : Nat := 0
  darns : Nat := 0
  epoch : Nat := 0
  repairs : List (Nat × Nat × Nat) := []
  records : List (BitVec 16) := []
  freeRows : List (Nat × Nat) := []
  deriving DecidableEq, Repr, Inhabited

/-! ## A channel -/

/-- A read-class command under way: its effective address, the ck it issued, its reader, and what the array and the remap
table held of the granule when it issued. -/
structure Flight where
  addr : Nat
  issue : Nat
  reader : Reader
  raw : List Codeword := []
  remap : List (Option (BitVec 64 × Bool)) := []
  deriving DecidableEq, Repr, Inhabited

/-- A RUN under way or accepted (R159 to R162): its context and sequence number, its start and end checkpoints. -/
structure RunRec where
  ctx : Nat
  seq : Nat
  startC : Nat
  endC : Nat
  skipped : Bool := false
  deriving DecidableEq, Repr, Inhabited

/-- A FUNC_START held while a channel stops (R176). -/
structure HeldStart where
  ctx : Nat
  seq : Nat
  group : Nat
  resume : Bool
  deriving DecidableEq, Repr, Inhabited

/-- The self-test state of a bobbin (15, R522 to R527). -/
structure Bist where
  retest : Bool := false
  next : Nat := 0
  rounds : Nat := 0
  mismatches : Nat := 0
  roundStart : Nat := 0
  lateLogged : Bool := false
  lastIdle : Nat := 0
  deriving DecidableEq, Repr, Inhabited

/-- One channel: bobbin and DRAM region (R20). `retirePend` is a retirement under way (R300); with `retireAtOnce` Direct Access is
not completed first (R266). `checks` is a fast scrub that follows the exit from self-refresh, with what it finds (R452, R457). -/
structure Chan where
  func : Func := .idle
  state : ChState := .idle
  stopCause : Nat := 0
  starved : Bool := false
  priv : Nat := 0
  substEn : Bool := false
  substTo : Nat := 0
  held : Option HeldStart := none
  starter : Option (Nat × Nat) := none
  startGroup : Nat := 0
  waitGroup : Bool := false
  stoppers : List (Nat × Nat) := []
  stopRunEnd : Bool := false
  stopB : Nat := 0
  retirePend : Bool := false
  retireAtOnce : Bool := false
  runs : List RunRec := []
  lastEnd : Nat := 0
  seq : Seq := {}
  reg : Region := {}
  refr : Refresh := {}
  maint : Maint := {}
  src : Source := {}
  cap : Capture := {}
  ana : Analysis := {}
  da : Direct := {}
  ecc : Integrity := {}
  eyes : Eyes := {}
  bist : Bist := {}
  flights : List Flight := []
  retBanks : Nat := 0
  retLost : BitVec 32 := 0
  checks : Option (List BankCheck) := none
  deriving DecidableEq, Repr, Inhabited

/-- What the registers of a RETIRED channel read (R562): the ck it became RETIRED, the channel as it was, and the two words that
rest on its contexts. -/
structure Frozen where
  at_ : Nat := 0
  chan : Chan := {}
  level : Nat := 0
  started : Nat := 0
  deriving DecidableEq, Repr, Inhabited

/-! ## Contexts (04) -/

/-- STATE of a context record (R138). -/
inductive CtxState where
  | disabled | enabled | halted
  deriving DecidableEq, Repr, Inhabited

/-- Progress of an accepted descriptor: not started, started, or its effect complete (or refused). -/
inductive DPhase where
  | waiting | started | done
  deriving DecidableEq, Repr, Inhabited

/-- An accepted descriptor (R140, R147): its head, its operand bytes 0x10 to 0x3F, its order of acceptance over all
contexts, its outcome, and for Direct Access its channel, class, first granule and granules in all, issued and complete. -/
structure Desc where
  seq : Nat
  op : Nat
  flags : Nat
  opnd : List Byte := []
  accNo : Nat := 0
  phase : DPhase := .waiting
  status : Nat := 0
  info : Nat := 0
  result : Nat := 0
  ch : Nat := 0
  cls : Nat := 0
  first : Nat := 0
  total : Nat := 0
  issued : Nat := 0
  complete : Nat := 0
  poison : Bool := false
  corrected : Bool := false
  shed : Bool := false
  staged : List Byte := []
  parts : List (Nat × Nat × Nat) := []
  deriving DecidableEq, Repr, Inhabited

/-- The selvedge record of a context (R135, R138), with what the device keeps of its doorbell and messages; `fetched`
counts the descriptors from CI on that a read request under way brings (R145), and `disabling` names each ADMIN context that disables
it, with the sequence number of its CTX_DISABLE (none: the admin window). -/
structure Ctx where
  state : CtxState := .disabled
  haltCause : Nat := 0
  dring : Nat := 0
  cring : Nat := 0
  ringLog2 : Nat := 0
  cls : Nat := 0
  prio : Nat := 0
  chan : Nat := 0
  vec : Nat := 0
  irqEn : Bool := false
  coalesce : Nat := 0
  nextSeq : Nat := 0
  frontier : Nat := 0
  ci : Nat := 0
  cwi : Nat := 0
  runCkpt : Nat := 0
  pi : Nat := 0
  mism : Nat := 0
  dupLogged : Bool := false
  refetch : Option Nat := none
  opFail : Bool := false
  acc : List Desc := []
  unsent : Nat := 0
  unsentSince : Nat := 0
  fetched : Nat := 0
  disabling : List (Nat × Option Nat) := []
  deriving DecidableEq, Repr, Inhabited

/-- A journalled completion record (R155, R156): its context, first ring index, sequence number, ring entries as pairs
of 64-bit words, and ring address. -/
structure JRec where
  ctx : Nat
  seq : Nat
  idx : Nat
  ring : Nat
  ringLog2 : Nat
  w0 : Nat
  w1 : Nat
  long : Bool := false
  r0 : Nat := 0
  r1 : Nat := 0
  deriving DecidableEq, Repr, Inhabited

/-- The admin window and the doorbell registers (R137, R143, R144). `admBusy` lists the contexts that a disable of the window waits for. -/
structure HostIf where
  admData : List (Nat × Word) := []
  admSeqLo : Word := 1
  admSeqHi : Nat := 0
  admCtx : Nat := 0
  admErr : Bool := false
  admBusy : List Nat := []
  dbHiHeld : Nat := 0
  dbBase : Nat := 0
  pollEn : Bool := false
  pollUs : Nat := 0x3E8
  lastPoll : Nat := 0
  readReq : List Nat := []
  linkUp : Bool := false
  d3hot : Bool := false
  proxyLost : Bool := false
  nextAcc : Nat := 0
  stageUsed : Nat := 0
  deriving DecidableEq, Repr, Inhabited

/-! ## Fault log (14) -/

/-- An open entry of the fault log (R464). -/
structure FltEntry where
  cls : Nat
  blk : Nat
  cause : Nat
  inst : Nat
  count : Nat := 1
  ack : Bool := false
  active : Bool := false
  escalated : Bool := false
  corrupt : Bool := false
  time : Nat := 0
  d0 : Nat := 0
  d1 : Nat := 0
  d2 : Nat := 0
  lsn : Nat := 0
  deriving DecidableEq, Repr, Inhabited

/-- The fault log and its registers (R464 to R476): `alertLow` to `fatalHigh` count samples of the pins in a row (R473). -/
structure Faults where
  log : List (Nat × FltEntry) := []
  nextLsn : Nat := 1
  alertMin : Nat := 2
  escalate : Bool := false
  lost : Nat := 0
  lostMax : Nat := 0
  alertExt : Bool := false
  fatalExt : Bool := false
  alertLow : Nat := 0
  alertHigh : Nat := 0
  fatalLow : Nat := 0
  fatalHigh : Nat := 0
  idx : PerPath := {}
  result : Nat := 0
  deriving DecidableEq, Repr, Inhabited

/-! ## Counters and CRC units (16) -/

/-- A read latch (R424, R538): the latched high bits and the ck it opened. -/
structure Latch where
  hi : Nat
  since : Nat
  deriving DecidableEq, Repr, Inhabited

/-- A performance counter (R529 to R538). -/
structure Counter where
  cfg : Nat := 0
  pend : Option Nat := none
  val : Nat := 0
  acc : Nat := 0
  ovf : Bool := false
  held : Nat := 0
  cfgAt : Nat := 0
  oldChain : Bool := false
  l0 : Option Latch := none
  l2 : Option Latch := none
  ls : Option Latch := none
  lp : Option Latch := none
  deriving DecidableEq, Repr, Inhabited

/-- A CRC unit (R542 to R549). -/
structure Crc where
  src : Nat := 0
  refin : Bool := false
  refout : Bool := false
  cls : Nat := 3
  wM1 : Nat := 0x1F
  poly : Nat := 0
  init : Nat := 0
  xor : Nat := 0
  addr : Nat := 0
  len : Nat := 0
  res : Nat := 0
  busy : Bool := false
  done : Bool := false
  poison : Bool := false
  abandoned : Bool := false
  mismatch : Bool := false
  owner : Nat := 0
  cause : Nat := 0
  reg : Nat := 0
  issued : Nat := 0
  fed : Nat := 0
  deriving DecidableEq, Repr, Inhabited

/-- Counters, CRC units, the window they count over, and the grants of user windows (R529 to R549). -/
structure Counters where
  tab : List (Nat × Counter) := []
  len : Nat := 0x640000
  lenPend : Option Nat := none
  lastBoundary : Nat := 0
  grants : List (Nat × Word) := []
  crc : List (Nat × Crc) := []
  deriving DecidableEq, Repr, Inhabited

/-! ## Thermal block (10) -/

/-- A DRAM or base-die sensor (R337 to R339): its code in 1/8 °C, its last good samples (newest first), and its state. -/
structure Sensor where
  temp : Int := 0
  failed : Bool := false
  subst : Bool := false
  rate : Int := 0
  hist : List Int := []
  good : Nat := 0
  deriving DecidableEq, Repr, Inhabited

/-- A remote diode input (R353, R354). -/
structure Diode where
  state : Nat := 0
  temp : Int := 0
  fails : Nat := 0
  goods : Nat := 0
  badKind : Nat := 0
  last : Nat := 0
  deriving DecidableEq, Repr, Inhabited

/-- The thermal block (10); `pinHigh` says that COOL_DEM is released (R347, R409). -/
structure Thermal where
  sensors : List (Nat × Sensor) := []
  sensorIdx : PerPath := {}
  lastSample : Nat := 0
  bands : List (Nat × Nat) := []
  falls : List (Nat × Nat) := []
  rung : Nat := 0
  heldP0 : Nat := 0
  coolEvals : Nat := 0
  lastEval : Nat := 0
  riseThr : Nat := 0x0C
  riseWarn : Nat := 0x04
  thrStart : Nat := 0x5D
  thrPend : Option Nat := none
  maxRate : Option (Int × Nat) := none
  coolEn : Bool := true
  pinFunc : Nat := 0
  lead : Nat := 0x32
  dMin : Nat := 0x40
  gain : Nat := 0x202D1023
  pinBusy : Bool := false
  pinHigh : Bool := true
  pinState : Nat := 0
  duty : Nat := 0x100
  dFb : Nat := 0x100
  dFf : Nat := 0
  lastPeriod : Nat := 0
  stuckHiRun : Nat := 0
  stuckLoRun : Nat := 0
  agreeRun : Nat := 0
  tdEn : Nat := 0
  tdRs : Nat := 0
  tdNf : Nat := 8
  td : List (Nat × Diode) := []
  tripActive : Bool := false
  tripOrderly : Option Nat := none
  tripClear : Nat := 0
  tripKind : Nat := 0
  tripSensor : Nat := 0
  tripTemp : Nat := 0
  evWait : List (Nat × Nat × Nat) := []
  evNo : Nat := 0
  otpUsed : Nat := 0
  deriving DecidableEq, Repr, Inhabited

/-! ## Gioth lanes (11) -/

/-- State of a lane group (R372). -/
inductive GrpState where
  | off | detect | clock | align | handshake | sync | up | failed
  deriving DecidableEq, Repr, Inhabited

/-- State of a lane (R385). -/
inductive LaneState where
  | dead | search | aligned | up | prbs
  deriving DecidableEq, Repr, Inhabited

/-- A lane (R374, R377, R378, R381, R385 to R388). `beat` is the index of the last beat handled, `commas`, `goodMarks` and
`badMarks` count in a row, `ready` is the partner's READY, `errAt` holds the indices of its errored beats among the last 256,
`falls` the times it fell to SEARCH. Of its PRBS block: `reg` holds the last bits of the pattern's length, `loaded` how many are
loaded, `run` the correct bits in a row, `bitNo` the bits checked, `errPos` the errors among the last 1,024, `injected` the
bits inverted; `gen` is the generator's register, `genBits` the bits it has sent since the last automatic inversion, and `injDue` the
inversions still to come. -/
structure Lane where
  state : LaneState := .dead
  cause : Nat := 0
  inverted : Bool := false
  logical : Option Nat := none
  corr : Nat := 0
  errb : Nat := 0
  commas : Nat := 0
  ready : Bool := false
  beat : Nat := 0
  goodMarks : Nat := 0
  badMarks : Nat := 0
  errAt : List Nat := []
  falls : List Nat := []
  genEn : Bool := false
  chkEn : Bool := false
  pattern : Nat := 0
  injRate : Nat := 0
  refused : Bool := false
  sync : Bool := false
  errs : Nat := 0
  reg : Nat := 0
  loaded : Nat := 0
  run : Nat := 0
  bitNo : Nat := 0
  errPos : List Nat := []
  injected : Nat := 0
  gen : Nat := 0
  genBits : Nat := 0
  injDue : Nat := 0
  deriving DecidableEq, Repr, Inhabited

/-- A beat on its way to its launch register (R38): logical lane, deadline, the word or the REASON of an idle beat, the
channel it comes from, and the ck it was handed over. -/
structure TxBeat where
  lane : Nat
  deadline : Nat
  word : Option Word
  reason : Nat := 1
  chan : Nat
  sent : Nat := 0
  deriving DecidableEq, Repr, Inhabited

/-- A lane group: 0 to 7 transmit, 8 to 15 receive, 16 to 19 the lanes of torus ports N, E, S, W (R372, R383, R384, R386,
R391). `lastMark` is the ck of its last marker beats. -/
structure LaneGroup where
  state : GrpState := .off
  disable : Bool := false
  unconfirmed : Bool := false
  partner : Nat := 0
  notices : List (Word × Nat) := []
  since : Nat := 0
  firstAligned : Option Nat := none
  minLead : Nat := 0xFF
  maxLead : Nat := 0
  windowErr : Nat := 0
  windowLogged : Bool := false
  lastMark : Nat := 0
  lanes : List (Nat × Lane) := []
  launch : List TxBeat := []
  sect : Option LaneSection := none
  ts : Nat := 0
  deriving DecidableEq, Repr, Inhabited

/-- The lane groups, and the index registers of LN_IDX (R382). -/
structure Lanes where
  groups : List (Nat × LaneGroup) := []
  idx : PerPath := {}
  deriving DecidableEq, Repr, Inhabited

/-! ## Torus (12) -/

/-- State of a torus port (R393, R422). -/
inductive PortState where
  | off | detect | clock | align | identity | up | miscabled | failed
  deriving DecidableEq, Repr, Inhabited

/-- A packet held for transmission (R395 to R399): its link words, and the ck it entered a queue. -/
structure PktQ where
  words : List (BitVec 64)
  since : Nat := 0
  deriving DecidableEq, Repr, Inhabited

/-- A torus port (R390 to R397, R403 to R405, R422): its link and replay buffer (`unacked`, R395), its two queues (R397), the link delay
with the exchange under way (R404), and what its neighbour last sent of picots and of the root (R403, R405). -/
structure Port where
  state : PortState := .off
  live : Nat := 0
  freq : Bool := false
  freqAgree : Nat := 0
  freqAt : Nat := 0
  nbrPort : Nat := 0
  nbrX : Nat := 0
  nbrY : Nat := 0
  delay : Nat := 0
  delays : List Nat := []
  delayReq : Option (Nat × Nat) := none
  delayId : Nat := 0
  lastDelay : Nat := 0
  txSeq : Nat := 0
  unacked : List (Nat × BitVec 64) := []
  lastAdv : Nat := 0
  replays : Nat := 0
  rxSeq : Nat := 0
  ignoring : Bool := false
  lnakAt : Nat := 0
  mgmt : List PktQ := []
  fwdq : List PktQ := []
  heardRoot : Option Nat := none
  heardDist : Nat := 0
  heardFinal : Bool := false
  picotA : Option (BitVec 64) := none
  picotHi : Nat := 0
  lastPicot : Nat := 0
  failedAt : Nat := 0
  deriving DecidableEq, Repr, Inhabited

/-- An unacknowledged proxy packet (R416). -/
structure PxPkt where
  pseq : Nat
  op : Nat
  words : List Word
  deriving DecidableEq, Repr, Inhabited

/-- One proxy channel (R416): whether OPEN has been sent on it, the two directions' next PSEQ, the packets unacknowledged, the
ck from which a resend counts, the ck of the last progress (R417), and the ck of the last packet received (R414). -/
structure PxChan where
  opened : Bool := false
  tx : Nat := 0
  rx : Nat := 0
  unacked : List PxPkt := []
  adv : Nat := 0
  prog : Nat := 0
  heard : Nat := 0
  deriving DecidableEq, Repr, Inhabited

/-- The torus and the time base (R389, R403 to R426): straps, root election, the offset of global time in units of 2^-10 ck, starts
(R411 to R413), and the proxy window with its channels (R414 to R418). -/
structure Torus where
  x : Nat := 0
  y : Nat := 0
  wM1 : Nat := 0
  hM1 : Nat := 0
  pcieEn : Bool := true
  smbAddr : Nat := 0
  strapBad : Bool := false
  final : Bool := false
  isRoot : Bool := false
  candidate : Bool := false
  holdover : Bool := false
  upstream : Option Nat := none
  rootId : Nat := 0
  dist : Nat := 0
  aligned : Nat := 0
  electAt : Nat := 0
  upHeard : Nat := 0
  conflictAt : Option Nat := none
  off : Int := 0
  slewed : Int := 0
  lastPicot : Nat := 0
  ports : List (Nat × Port) := []
  idx : PerPath := {}
  timeLatch : List (Nat × Nat) := []
  startLead : Nat := 8
  startGroup : Nat := 0
  startTab : List (Nat × Nat) := []
  tgt : Nat := 0
  pxData : Word := 0
  pxBusy : Bool := false
  pxResult : Nat := 0
  pxSince : Nat := 0
  pxFor : Nat := 0
  pxRead : Bool := false
  boundTo : Option Nat := none
  px : List (Nat × PxChan) := []
  deriving DecidableEq, Repr, Inhabited

/-! ## Power (13) -/

/-- A running or pending mode change (R434, R436, R438): its target, the descriptor that asked for it (none: a wake
event), the SOURCE code a wake records (R450), its operands, and how far it has come: 0 the firmware steps, 1 the hardware
steps. -/
structure PwrChange where
  target : Mode
  ctx : Option (Nat × Nat) := none
  source : Nat := 1
  timer : Nat := 0
  banks : Nat := 0
  chans : Nat := 0
  stop : Bool := false
  phase : Nat := 0
  deriving DecidableEq, Repr, Inhabited

/-- A voltage change under way (R441, R442): the voltage commanded, the one before it, the point it leads to, the ck of
the write, and the ck from which a confirmed raise may raise the frequencies. -/
structure Avs where
  target : Nat
  prev : Nat
  point : Nat
  start : Nat
  confirmed : Option Nat := none
  deriving DecidableEq, Repr, Inhabited

/-- What the save image holds of a channel (R455): checkpoints with the RUNs and spans they serve, INIT bits, sweep index,
lost and retained banks. -/
structure SavedChan where
  ckpts : List (Nat × Ckpt) := []
  ckptNo : Nat := 0
  runs : List RunRec := []
  lastEnd : Nat := 0
  init : BitVec 32 := 0
  sweep : Nat := 0
  retBanks : Nat := 0
  retLost : BitVec 32 := 0
  deriving DecidableEq, Repr, Inhabited

/-- The save image of the selvedge store (R455): marker 0 absent, 1 STARTED, 2 COMMITTED, 3 CONSUMED. -/
structure SaveImage where
  marker : Nat := 0
  trigger : Nat := 0
  time : Nat := 0
  seqNo : Nat := 0
  ctxs : List (Nat × Ctx) := []
  journal : List JRec := []
  chans : List (Nat × SavedChan) := []
  bands : List (Nat × Nat) := []
  flt : List (Nat × FltEntry) := []
  nextLsn : Nat := 1
  mode : Mode := .bringUp
  wakeRec : Nat := 0
  wakeCfg : Bool × Bool × Bool := (true, true, true)
  deriving DecidableEq, Repr, Inhabited

/-- Power, modes and hold-up (R427 to R459): `step` counts the steps of power-up, `change` and `pendingReq` are the running and the
pending mode change, `canaries` the signature of each retained bank (R445). -/
structure Power where
  mode : Mode := .bringUp
  step : Nat := 0
  change : Option PwrChange := none
  pendingReq : Option PwrChange := none
  superseded : Nat := 0
  avsFail : Bool := false
  point : Nat := 0
  readback : Nat := 0x320
  command : Nat := 0x320
  vddSvc : Nat := 0x2EE
  avs : Option Avs := none
  lastAvs : Nat := 0
  wakeProxy : Bool := true
  wakeReg : Bool := true
  wakeSmb : Bool := true
  wakeRec : Nat := 0
  entries : Nat := 0
  source : Nat := 8
  left : Mode := .bringUp
  exitReq : Option (Nat × Nat) := none
  wakeTimer : Nat := 0
  retEntry : Nat := 0
  canaryTime : Nat := 0
  canaries : List (Nat × Nat) := []
  image : SaveImage := {}
  armed : Bool := false
  capOk : Bool := false
  esrOk : Bool := false
  restored : Bool := false
  dramKept : Bool := false
  dramWatch : Bool := false
  committedAt : Nat := 0
  trigger : Nat := 0
  saveResult : Nat := 0
  vsave : Nat := 0
  capUf : Nat := 0
  esr : Nat := 0
  lastCharge : Option Nat := none
  chargeFailed : Bool := false
  stepOne : Nat := 0
  lostPower : Bool := false
  vddlUp : Bool := false
  deriving DecidableEq, Repr, Inhabited

/-! ## Resets and the hoop (14) -/

/-- The hoop (R477, R482 to R485): `ver` holds the VERSION of a loaded image per bank (none: the ROM image); `load` the
FIRMWARE_LOAD under way (context, sequence number, and the ck by which the new image must report, 0 while the image is read);
`warmAt` the ck at which a warm reset asked for by DEV_RST begins, `warmEnd` the earliest ck at which one under way ends. -/
structure Hoop where
  running : Bool := false
  expiries : List Nat := []
  bank : Nat := 0
  restarts : Nat := 0
  verA : Option Nat := none
  verB : Option Nat := none
  load : Option (Nat × Nat × Nat) := none
  warmAt : Option Nat := none
  warmEnd : Option Nat := none
  deriving DecidableEq, Repr, Inhabited

/-! ## OTP, life-cycle and TAP (15) -/

/-- A fuse word (R494 to R496): value and complement halves as read at the normal, margin-low and margin-high references. -/
structure Fuse where
  nv : Word := 0
  nc : Word := 0
  lv : Word := 0
  lc : Word := 0
  hv : Word := 0
  hc : Word := 0
  deriving DecidableEq, Repr, Inhabited

/-- A word being programmed (R502 to R505): word, target (value half low, complement half high), the fuse under the pulse,
attempts on it, pulses so far, the FUSE_PROGRAM descriptor that owns it (none: the hoop's own record, of a channel's darn or
of the thermal log), when the pulse may have ended, and whether programming stops after it. -/
structure Burn where
  word : Nat
  target : BitVec 64
  bitNo : Nat := 0
  tries : Nat := 0
  pulses : Nat := 0
  owner : Option (Nat × Nat) := none
  darn : Bool := false
  pulseEnd : Nat := 0
  stop : Bool := false
  deriving DecidableEq, Repr, Inhabited

/-- OTP, life-cycle and the full self-test (15). `rails` and `vfuse` are what the monitors last showed of the rails' part of the
programming window and of VFUSE (R503), `readReq` the on-demand reads that wait for a word operation (R500), and `stLive` is the number of
bobbins in a self-test that runs (R527). -/
structure Otp where
  fuses : List (Nat × Fuse) := []
  latched : List (Nat × Word) := []
  empty : List Nat := []
  lifecycle : Nat := 0
  overrides : List (Nat × Word) := []
  ref : PerPath := {}
  word : PerPath := {}
  rdVal : PerPath := {}
  rdComp : PerPath := {}
  sticky : Nat := 0
  perm : Nat := 0
  incomplete : Nat := 0
  lastWord : Nat := 0
  lastAudit : Nat := 0
  auditTemp : Int := 0
  burn : Option Burn := none
  rails : Bool := true
  vfuse : Bool := false
  readReq : List (Path × Nat × Nat) := []
  tapGated : Bool := false
  tapInstr : Nat := 0
  purged : Bool := false
  stResult : Nat := 0
  stRetired : Nat := 0
  stLive : Option Nat := none
  rowPatches : List (Nat × Word) := []
  deriving DecidableEq, Repr, Inhabited

/-! ## SMBus port (17) -/

/-- What SMBus commands return (R568). -/
structure Smbus where
  status : Nat := 5
  data : List Byte := []
  wstatus : Nat := 0
  deriving DecidableEq, Repr, Inhabited

/-! ## What leaves the block -/

/-- Outputs, in the order they leave: posted writes to host memory, MSI-X messages, host-memory reads, the 40-bit values of
transmit beats (R361) and the bytes S1 to S4 of marker and training beats (R367) with their group, lane and beat index,
packets and control link words of a torus port, SMBus bytes, register read data, AVSBus voltages, changes of the COOL_DEM pin, and the
chain of DRAM dies that die wrapper access goes through (R336). -/
inductive Out where
  | write (addr : Nat) (data : List Byte)
  | msix (ctx vec : Nat)
  | read (addr len : Nat)
  | beat (group lane index : Nat) (value : BitVec 40)
  | comma (group lane index s1 s2 s3 s4 : Nat)
  | packet (port lseq : Nat) (words : List (BitVec 64))
  | link (port : Nat) (word : BitVec 64)
  | smbus (data : List Byte)
  | regData (path : Path) (value : Nat)
  | avs (mv : Nat)
  | coolDem (released : Bool)
  | wrapper (chain : List (Option Nat))
  | prbs (group lane index : Nat) (bits : BitVec 50)
  deriving DecidableEq, Repr

/-! ## The stored array -/

/-- The stored array of the device (R24, R25): the codewords written, by device codeword address; for each channel, which banks
hold zero data wherever nothing is listed (bit b: bank b); for each channel that such zero data reached over failing links
(R592), the number of the first free value drawn for them and the failing positions; how often the content of a bank, by its number of 12 bits in the
device, has been lost; and how often the content of all has. -/
structure Memory where
  cells : List (Nat × Codeword) := []
  zeroed : List (Nat × BitVec 32) := []
  dirty : List (Nat × Nat × Codeword) := []
  lost : List (Nat × Nat) := []
  lostAll : Nat := 0
  deriving DecidableEq, Repr, Inhabited

/-! ## The whole state -/

/-- The state of the block. `pending` is the queue of waiting commands, first in, first out; `now` is the local count of ck;
`freeNo` counts free values drawn (the model's own field: no statement rests on its value); `frozen` holds each channel as it
was when its bobbin became RETIRED (R562). -/
structure State where
  pending : List Instr := []
  now : Nat := 0
  freeNo : Nat := 0
  members : Nat := 128
  gradeE : Bool := false
  chans : List (Nat × Chan) := []
  frozen : List (Nat × Frozen) := []
  ctxs : List (Nat × Ctx) := []
  journal : List JRec := []
  dram : Memory := {}
  host : HostIf := {}
  flt : Faults := {}
  cnt : Counters := {}
  thm : Thermal := {}
  lanes : Lanes := {}
  tor : Torus := {}
  pwr : Power := {}
  hoop : Hoop := {}
  otp : Otp := {}
  smb : Smbus := {}
  idDefault : Bool := false
  serial : List (Nat × Word) := []
  out : List Out := []
  deriving DecidableEq, Repr

/-- The state right after reset: every field at its reset value. -/
def State.reset : State := {}

end Sys2Proof.Machine
end

