-- ==== Sys2Proof/Machine/Image.lean ====
section
/-! DEFINITION. Reading a pricking image (03): slot words, sections, the directory and the format checks of R98 to
R126, in the order of R127. -/

namespace Sys2Proof.Machine

open Sys2Proof

/-! Slot words (R111). -/

/-- Bits `[hi:lo]` of a number. -/
def bits (n hi lo : Nat) : Nat := n / 2 ^ lo % 2 ^ (hi + 1 - lo)

/-- Bit `i` of a number. -/
def bit (n i : Nat) : Bool := n / 2 ^ i % 2 = 1

/-- Opcode [31:28] of a slot word. -/
def slotOp (w : Word) : Nat := bits w.toNat 31 28
/-- Bank [27:23]. -/
def slotBank (w : Word) : Nat := bits w.toNat 27 23
/-- Generator select [22:21]. -/
def slotGen (w : Word) : Nat := bits w.toNat 22 21
/-- Bank source, bit 20 of the generator action (R112). -/
def slotBankSrc (w : Word) : Bool := bit w.toNat 20
/-- Generator step [19:18] (R112): 0 USE, 1 ADV, 2 RELOAD. -/
def slotStep (w : Word) : Nat := bits w.toNat 19 18
/-- Datapath action [17:14] (R116). -/
def slotDp (w : Word) : Nat := bits w.toNat 17 14
/-- Queue [13:8]. -/
def slotQueue (w : Word) : Nat := bits w.toNat 13 8
/-- Flags RLS, EOM, CKPT and TSW (R117). -/
def slotRls (w : Word) : Bool := bit w.toNat 7
def slotEom (w : Word) : Bool := bit w.toNat 6
def slotCkpt (w : Word) : Bool := bit w.toNat 5
def slotTsw (w : Word) : Bool := bit w.toNat 4
/-- The lane group named by a queue field, [13:11]. -/
def slotGroup (w : Word) : Nat := slotQueue w / 8
/-- MARK_ID [17:8]. -/
def slotMark (w : Word) : Nat := bits w.toNat 17 8

/-- Codes of the slot opcodes (R111). -/
def opNOP : Nat := 0
def opACT : Nat := 1
def opRD : Nat := 2
def opWR : Nat := 3
def opRMW : Nat := 4
def opPRE : Nat := 5
def opPREA : Nat := 6
def opREFAB : Nat := 7
def opREFPB : Nat := 8
def opOPEN : Nat := 9
def opSCRUB : Nat := 10
def opTRAIN : Nat := 11
def opCAL : Nat := 12
def opBIST : Nat := 13
def opFETCH : Nat := 14
def opMARK : Nat := 15

/-- Codes of the datapath actions (R116). -/
def dpNONE : Nat := 0
def dpSRC : Nat := 1
def dpCAPR : Nat := 2
def dpCAPW : Nat := 3
def dpTCMD : Nat := 4
def dpTRD : Nat := 5
def dpTWR : Nat := 6
def dpANAR : Nat := 7
def dpANAW : Nat := 8
def dpCLEAR : Nat := 9
def dpSTAGE : Nat := 10

/-- A read half of an RMW (R53): CAP_READ or TPL_READ. -/
def isReadHalf (w : Word) : Bool := slotOp w = opRMW && (slotDp w = dpCAPR || slotDp w = dpTRD)
/-- A write half of an RMW. -/
def isWriteHalf (w : Word) : Bool := slotOp w = opRMW && (slotDp w = dpCAPW || slotDp w = dpTWR)
/-- Read-class commands (R53). -/
def isReadClass (w : Word) : Bool := slotOp w = opRD || slotOp w = opFETCH || isReadHalf w
/-- Write-class commands (R53). -/
def isWriteClass (w : Word) : Bool := slotOp w = opWR || isWriteHalf w
/-- Maintenance opcodes: SCRUB, TRAIN, CAL, BIST. -/
def isMaint (w : Word) : Bool := opSCRUB ≤ slotOp w && slotOp w ≤ opBIST
/-- A slot of a template (R116). -/
def isTpl (w : Word) : Bool := slotDp w = dpTCMD && (slotOp w = opACT || slotOp w = opPRE) ||
  slotOp w = opRMW && (slotDp w = dpTRD || slotDp w = dpTWR)
/-- Slots that use a generator: those whose generator field R111 says is used and no template or write half. -/
def usesGen (w : Word) : Bool :=
  (slotOp w = opACT || slotOp w = opRD || slotOp w = opWR || slotOp w = opPRE || slotOp w = opREFPB ||
    slotOp w = opFETCH || isReadHalf w) && !isTpl w

/-! Address generators (R114). -/

/-- The bank hash of R114. -/
def hashFold (addr hash : Nat) : Nat :=
  let x := (addr % 2 ^ 21) &&& hash
  (x % 32) ^^^ (x / 32 % 32) ^^^ (x / 1024 % 32) ^^^ (x / 32768 % 32) ^^^ (x / 1048576 % 2)

/-- The effective address of a slot and the generator's next offset (R114). -/
def genStep (g : GenCfg) (o : Nat) (w : Word) : Nat × Nat :=
  let o := if slotStep w = 2 then 0 else o
  let addr := (g.base + o) % 2 ^ 26
  let bank := if slotBankSrc w then (addr / 2 ^ 21) ^^^ hashFold addr g.hash else slotBank w
  let o' := if slotStep w = 1 then (if o + g.stride ≥ g.limit then o + g.stride - g.limit else o + g.stride) else o
  (bank % 32 * 2 ^ 21 + addr % 2 ^ 21, o')

/-- The address a slot forms and the four generator offsets after it. Slots that use no generator move none. -/
def genSlot (gens : List GenCfg) (o : List Nat) (w : Word) : Nat × List Nat :=
  if usesGen w then
    let n := slotGen w
    let r := genStep (gens.getD n default) (o.getD n 0) w
    (r.1, o.set n r.2)
  else (slotBank w * 2 ^ 21, o)

/-! Bytes of an image. -/

/-- The little-endian number of the `n` bytes at `off` (R15, R98); bytes past the end read as 0. -/
def leAt (b : List Byte) (off n : Nat) : Nat :=
  ((b.drop off).take n).foldr (fun x a => x.toNat + 256 * a) 0

/-- The 32-bit value at `off`. -/
def w32 (b : List Byte) (off : Nat) : Nat := leAt b off 4

/-- The little-endian bytes of a number. -/
def leBytes : Nat → Nat → List Byte
  | 0, _ => []
  | n + 1, v => BitVec.ofNat 8 v :: leBytes n (v / 256)

/-- Complement pairs of `k` bits (R16). -/
def isComp (k a b : Nat) : Bool := a + b = 2 ^ k - 1

/-- One step of a reflected CRC over 32 bits, generator 0x1EDC_6F41 (R104). -/
def crc32cBit (c : BitVec 32) : BitVec 32 :=
  if c.getLsbD 0 then (c >>> 1) ^^^ 0x82F63B78#32 else c >>> 1

/-- CRC-32C after one more byte. -/
def crc32cByte (c : BitVec 32) (x : Byte) : BitVec 32 :=
  let c := c ^^^ x.setWidth 32
  crc32cBit (crc32cBit (crc32cBit (crc32cBit (crc32cBit (crc32cBit (crc32cBit (crc32cBit c)))))))

/-- CRC-32C of R104. -/
def crc32c (b : List Byte) : BitVec 32 := ~~~(b.foldl crc32cByte 0xFFFFFFFF#32)

/-! Verdicts (R94). -/

/-- The 64-bit verdict record (R94). -/
def Verdict.word (v : Verdict) : Nat :=
  v.detail % 2 ^ 16 * 2 ^ 48 + v.offset % 2 ^ 13 * 2 ^ 35 + v.motif % 2 ^ 6 * 2 ^ 29 + v.step % 2 ^ 10 * 2 ^ 19 +
    v.tier % 8 * 2 ^ 16 + v.sect % 256 * 256 + v.code % 256

/-- The verdict ADMITTED (R593). -/
def Verdict.admitted : Verdict := { code := 0, sect := 0xFF }

/-! ## Format checks (R98 to R126), in the order of R127 -/

/-- The inputs of the checker that are not the image (R48), as the load samples them. -/
structure CheckEnv where
  /-- Channels of the member. -/
  nch : Nat
  /-- A channel that is neither RETIRED nor bound. -/
  chanFree : Nat → Bool
  /-- A lane group that no admitted pricking binds. -/
  laneFree : Bool → Nat → Bool
  /-- First codeword address of the channel's privileged region, 2^26 when there is none. -/
  privBase : Nat → Nat
  /-- The current band of the channel's die: 1, 2 or 4. -/
  band : Nat → Nat
  /-- RETIRED channels, for R88. -/
  retired : Nat → Bool
  /-- Admitted sections bound to channels (R88). -/
  admitted : List Section
  /-- Lane sections that stay bound (R491). -/
  boundLanes : List LaneSection
  /-- CH_SUBST: the channel whose beats a bound lane section's bobbin number stands for. -/
  subst : Nat → Nat

/-- A refusal with code 0x01 and a location. -/
def fmtErr (detail : Nat) (sect : Nat := 0) (motif : Nat := 0) (step : Nat := 0) (offset : Nat := 0) : Verdict :=
  { code := 0x01, sect, motif, step, offset, detail }

/-- Refuse when `bad` holds. -/
def refuse (bad : Bool) (v : Verdict) : Except Verdict Unit := if bad then .error v else .ok ()

/-- The first detail of a list of (fault present, detail) pairs whose fault is present; the lists below are ascending. -/
def firstDetail (l : List (Bool × Nat)) : Option Nat := (l.find? (·.1)).map (·.2)

/-- Run a check that answers a detail. -/
def checkDetail (l : List (Bool × Nat)) (v : Nat → Verdict) : Except Verdict Unit :=
  match firstDetail l with
  | some d => .error (v d)
  | none => .ok ()

/-- Ranges `[a, a + n)` that meet. -/
def overlaps (a n b m : Nat) : Bool := n ≠ 0 && m ≠ 0 && a < b + m && b < a + n

/-- A directory entry (R101). -/
structure DirEntry where
  typ : Nat
  idx : Nat
  off : Nat
  len : Nat
  crc : Nat
  deriving DecidableEq, Repr, Inhabited

/-- The SECTION number of an entry (R102). -/
def DirEntry.sect (e : DirEntry) : Nat :=
  if e.typ = 2 then 128 + e.idx else if e.typ = 3 then 136 + e.idx else e.idx

/-- What the header gives. -/
structure Header where
  imageId : Nat
  startGroup : Nat
  dirOff : Nat
  nChan : Nat
  nLane : Nat
  size : Nat
  deriving DecidableEq, Repr, Inhabited

/-- Step 1 of R127: the pairs, then the values in pair order (R99, R100). -/
def checkHeader (b : List Byte) (len : Nat) : Except Verdict Header := do
  let bad (d : Nat) : Verdict := fmtErr d 0xFF
  let val (i : Nat) : Nat := w32 b (8 * i)
  match (List.range 16).find? (fun i => !isComp 32 (val i) (w32 b (8 * i + 4))) with
  | some i => .error { code := 0x03, sect := 0xFF, detail := i }
  | none =>
    refuse (val 0 != 0x474B5250) (bad 1)
    refuse (val 1 % 2 ^ 16 != 1) (bad 2)
    refuse (val 1 / 2 ^ 16 != 0) (bad 6)
    refuse (val 2 != len) (bad 3)
    refuse (val 2 % 8 != 0 || val 2 > 0x8000000) (bad 6)
    let nc := val 3 % 256
    let nl := val 3 / 256 % 256
    refuse (val 3 / 2 ^ 16 != 0 || nc > 128 || nl > 16 || nc + nl == 0) (bad 6)
    refuse (val 5 / 2 ^ 16 != 0) (bad 6)
    checkDetail [(val 6 < 0x80 || val 6 + 32 * (nc + nl) > val 2, 4), (val 6 % 8 != 0, 0x11)] bad
    refuse ((List.range 9).any fun i => val (7 + i) != 0) (bad 6)
    .ok { imageId := val 4, startGroup := val 5, dirOff := val 6, nChan := nc, nLane := nl, size := val 2 }

/-- One directory entry, given the entries before it (R101 to R103). -/
def checkEntry (b : List Byte) (h : Header) (nch : Nat) (n : Nat) (seen : List DirEntry) : Except Verdict DirEntry := do
  let p := h.dirOff + 32 * n
  let bad (d : Nat) : Verdict := fmtErr d 0xFF
  refuse ((List.range 4).any fun i => !isComp 32 (w32 b (p + 8 * i)) (w32 b (p + 8 * i + 4)))
    { code := 0x03, sect := 0xFF, detail := 0x100 + n }
  let id := w32 b p
  let e : DirEntry := { typ := id / 256 % 256, idx := id % 256, off := w32 b (p + 8), len := w32 b (p + 16),
                        crc := w32 b (p + 24) }
  checkDetail
    [ (e.off + e.len > h.size || overlaps e.off e.len 0 0x80 ||
        overlaps e.off e.len h.dirOff (32 * (h.nChan + h.nLane)) ||
        seen.any (fun x => overlaps e.off e.len x.off x.len), 4),
      (e.typ == 0 || e.typ > 3 || (e.typ != 1 && e.idx > 7) || seen.any (fun x => x.typ == e.typ && x.idx == e.idx), 5),
      (id / 2 ^ 16 != 0 || e.len % 8 != 0, 6),
      (e.typ == 1 && e.idx ≥ nch, 0xF),
      (e.off % 8 != 0, 0x11) ] bad
  .ok e

/-- The entries from number `n` on. -/
def checkEntries (b : List Byte) (h : Header) (nch : Nat) : Nat → Nat → List DirEntry → Except Verdict (List DirEntry)
  | 0, _, seen => .ok seen
  | k + 1, n, seen => do
    let e ← checkEntry b h nch n seen
    checkEntries b h nch k (n + 1) (seen ++ [e])

/-- Step 2 of R127: the directory and its counts (R103). -/
def checkDirectory (b : List Byte) (h : Header) (nch : Nat) : Except Verdict (List DirEntry) := do
  let es ← checkEntries b h nch (h.nChan + h.nLane) 0 []
  refuse ((es.filter (·.typ == 1)).length != h.nChan || (es.filter (·.typ != 1)).length != h.nLane) (fmtErr 5 0xFF)
  .ok es

/-- A generator block out of range (R113). -/
def genBad (base stride limit hash : Nat) : Bool :=
  base ≥ 2 ^ 26 || base % 4 != 0 || stride ≥ 2 ^ 26 || stride % 4 != 0 || stride ≥ limit ||
  limit < 4 || limit > 0x4000000 || limit % 4 != 0 || hash ≥ 2 ^ 21

/-- The function code of SEC_CFG (R105). -/
def funcOfCode (c : Nat) : Option Func :=
  if c = 1 then some .source else if c = 2 then some .capture else if c = 3 then some .direct else none

/-- The section header fields in ascending offset (R105, R113). -/
def checkSecHeader (b : List Byte) (sn : Nat) (h : Header) : Except Verdict Section := do
  let bad (d : Nat) : Verdict := fmtErr d sn
  refuse (b.length < 256) (bad 4)
  let cfg := w32 b 0
  let f := funcOfCode (cfg % 8)
  let isCap := f == some Func.capture
  let isSrc := f == some Func.source
  let addressed := bit cfg 3
  checkDetail [(cfg / 256 != 0, 6), (f.isNone || (addressed && !isCap) || bits cfg 7 6 == 3, 7)] bad
  let cnt := w32 b 4
  let nm := cnt % 128
  let nt := bits cnt 10 8 + 1
  let ns := bits cnt 26 16
  refuse (bit cnt 7 || bits cnt 15 11 != 0 || bits cnt 31 27 != 0 || nm == 0 || nm > 64 || ns == 0 || ns > 1024) (bad 6)
  refuse (w32 b 8 % 8 != 0 || w32 b 12 % 8 != 0 || w32 b 16 % 8 != 0) (bad 0x11)
  let lead := w32 b 0x18
  refuse (if isSrc then lead % 2 != 0 || lead < 50 || lead > 4096 else lead != 0) (bad 6)
  refuse ((List.range 8).any fun t => t ≥ nt && w32 b (0x40 + 4 * t) != 0) (bad 6)
  refuse ((List.range 8).any fun t =>
    let x := w32 b (0x60 + 4 * t)
    (t ≥ nt && x != 0) || bits x 15 10 != 0 || bits x 31 27 != 0) (bad 6)
  let g (n o : Nat) : Nat := w32 b (0x80 + 16 * n + 4 * o)
  refuse ((List.range 4).any fun n => genBad (g n 0) (g n 1) (g n 2) (g n 3)) (bad 0xE)
  let bkt := w32 b 0xC0
  refuse (if addressed then bkt % 32 == 0 || bkt % 32 > 16 || bits bkt 7 5 != 0 || bits bkt 14 8 == 0 ||
      bits bkt 14 8 > 64 || bkt / 2 ^ 15 != 0 else bkt != 0) (bad 6)
  refuse (!addressed && (w32 b 0xC4 != 0 || w32 b 0xC8 != 0)) (bad 6)
  refuse ((List.range 13).any fun i => w32 b (0xCC + 4 * i) != 0) (bad 6)
  .ok { chan := sn, func := f.getD .direct, addressed, loop := bit cfg 4, ride := bit cfg 5,
        cover := 2 ^ bits cfg 7 6, rlsLead := lead, scrubFloor := w32 b 0x1C, distCal := leAt b 0x20 8,
        distBist := leAt b 0x28 8, distTrain := leAt b 0x30 8, distScrub := leAt b 0x38 8,
        tiers := (List.range nt).map fun t =>
          { first := w32 b (0x60 + 4 * t) % 1024, count := bits (w32 b (0x60 + 4 * t)) 26 16, power := w32 b (0x40 + 4 * t) },
        gens := (List.range 4).map fun n => { base := g n 0, stride := g n 1, limit := g n 2, hash := g n 3 },
        bktB := bkt % 32, bktA := bits bkt 14 8, intB := w32 b 0xC4, intA := w32 b 0xC8,
        imageId := h.imageId, startGroup := h.startGroup }

/-- A motif entry, given those before it (R107, R108). -/
def motifBad (b : List Byte) (p : Nat) (m : Motif) (seen : List Motif) (slotCount priv : Nat) : Bool :=
  w32 b p ≥ 2 ^ 14 || m.card % 8 != 0 || bits (w32 b (p + 4)) 15 14 != 0 || w32 b (p + 4) ≥ 2 ^ 17 ||
  m.len < 16 || m.len > 8192 || w32 b (p + 12) ≥ 2 ^ 26 || m.stageAddr % 4 != 0 || (!m.staged && m.stageAddr != 0) ||
  m.card + m.len > 16384 || m.src + m.len > slotCount ||
  (!m.staged && seen.any fun x => !x.staged && overlaps m.card m.len x.card x.len) ||
  (m.staged && (m.len % 8 != 0 || m.stageAddr < priv || m.stageAddr + m.len / 2 > 2 ^ 26 ||
    seen.any fun x => x.staged && overlaps m.stageAddr (m.len / 2) x.stageAddr (x.len / 2)))

/-- The motif table entries in motif order. -/
def checkMotifs (b : List Byte) (sn off slotCount priv : Nat) : Nat → Nat → List Motif → Except Verdict (List Motif)
  | 0, _, seen => .ok seen
  | k + 1, n, seen => do
    let p := off + 16 * n
    let m : Motif := { card := w32 b p % 2 ^ 14, len := w32 b (p + 4) % 2 ^ 14, staged := bit (w32 b (p + 4)) 16,
                       src := w32 b (p + 8), stageAddr := w32 b (p + 12) % 2 ^ 26 }
    refuse (motifBad b p m seen slotCount priv) (fmtErr 8 sn n)
    checkMotifs b sn off slotCount priv k (n + 1) (seen ++ [m])

/-- The sequence table entries in step order (R109). -/
def checkSteps (b : List Byte) (sn off nm : Nat) : Nat → Nat → List SeqStep → Except Verdict (List SeqStep)
  | 0, _, seen => .ok seen
  | k + 1, n, seen => do
    let x := w32 b (off + 8 * n)
    let s : SeqStep := { motif := x % 64, switch := bits x 15 8, rep := w32 b (off + 8 * n + 4) }
    refuse (bits x 7 6 != 0 || x / 2 ^ 16 != 0 || s.motif ≥ nm || s.rep == 0) (fmtErr 9 sn 0 n)
    checkSteps b sn off nm k (n + 1) (seen ++ [s])

/-- The tier ranges are disjoint, cover every step, and none is empty (R106). -/
def tiersBad (ts : List TierDef) (ns : Nat) : Bool :=
  ts.any (fun t => t.count == 0 || t.first + t.count > ns) ||
  (List.range ns).any fun i => (ts.filter fun t => t.first ≤ i && i < t.first + t.count).length != 1

/-- Opcodes whose bank and generator fields must be 0, and whose datapath and queue must be 0 (R111). -/
def bankZero (w : Word) : Bool :=
  let o := slotOp w
  o = opNOP || o = opPREA || o = opREFAB || o = opOPEN || isMaint w || o = opMARK || isWriteHalf w ||
  slotDp w = dpTCMD || slotDp w = dpTRD || slotDp w = dpTWR
def dpZero (w : Word) : Bool :=
  let o := slotOp w
  o = opNOP || o = opPREA || o = opREFAB || o = opREFPB || o = opOPEN || isMaint w

/-- A datapath action used with the wrong opcode, function or queue (R116). DESIGN CHOICE (log 140): a STAGE queue that names no
motif of the section counts as a wrong queue. -/
def dpBad (s : Section) (nm : Nat) (w : Word) : Bool :=
  let o := slotOp w
  let d := slotDp w
  let q := slotQueue w
  let src := s.func == .source
  let cap := s.func == .capture
  if o = opMARK || dpZero w then false
  else if o = opACT || o = opPRE then
    !(d = dpNONE && q = 0 || d = dpTCMD && cap && s.addressed && q = 0)
  else if o = opRD then !(d = dpSRC && src && q % 8 = 0 || d = dpANAR && cap && q = 0)
  else if o = opWR then !(d = dpCLEAR && (src || cap) && q = 0 || d = dpANAW && cap && q = 0)
  else if o = opRMW then
    !(cap && (d = dpCAPR && q % 8 = 0 || d = dpCAPW && q = 0 ||
      s.addressed && (d = dpTRD && q % 8 = 0 || d = dpTWR && q = 0)))
  else !(d = dpSTAGE && q < nm)

/-- The receive group of a capture read half, and whether it carries addressed records (R204). -/
def capGroup (w : Word) : Option (Nat × Bool) := if isReadHalf w then some (slotGroup w, slotDp w == dpTRD) else none

/-- An earlier slot word names the receive group of word `i` for records of the other kind (R204). DESIGN CHOICE (log 139): R204
refuses the section, and the model names the later of two such words. -/
def groupMixed (s : Section) (i : Nat) (w : Word) : Bool :=
  match capGroup w with
  | some (g, t) => (s.slots.take i).any fun x => capGroup x == some (g, !t)
  | none => false

/-- The details of slot word `i` (R111, R112, R116, R117, R204). -/
def slotDetail (s : Section) (i : Nat) (w : Word) : Option Nat :=
  let holders := s.motifs.filter fun m => m.src ≤ i && i < m.src + m.len
  let last := holders.filter fun m => i + 1 == m.src + m.len
  firstDetail
    [ ((bankZero w && bits w.toNat 27 18 != 0) || (dpZero w && bits w.toNat 17 8 != 0) || slotStep w == 3 ||
        (slotBankSrc w && slotBank w != 0), 0xA),
      (dpBad s s.motifs.length w || groupMixed s i w, 0xB),
      ((slotRls w && !(slotOp w = opRD && slotDp w = dpSRC)) ||
        (slotEom w != (!last.isEmpty && last.length == holders.length)) || (!last.isEmpty && last.length != holders.length) ||
        (slotTsw w && !slotEom w) || w.toNat % 16 != 0, 0xC) ]

/-- The slot words in ascending index. -/
def checkSlots (s : Section) : Nat → List Word → Except Verdict Unit
  | _, [] => .ok ()
  | i, w :: ws =>
    match slotDetail s i w with
    | some d =>
      let m := s.motifs.findIdx? fun m => m.src ≤ i && i < m.src + m.len
      match m with
      | some k => .error (fmtErr d s.chan k 0 (i - (s.motifs.getD k default).src))
      | none => .error (fmtErr d s.chan)
    | none => checkSlots s (i + 1) ws

/-- The format of a channel section (R105 to R117), `b` its bytes. -/
def checkChanFormat (env : CheckEnv) (b : List Byte) (sn : Nat) (h : Header) : Except Verdict Section := do
  let s ← checkSecHeader b sn h
  let nm := w32 b 4 % 128
  let ns := bits (w32 b 4) 26 16
  let sc := w32 b 0x14
  let mo := w32 b 8
  let so := w32 b 12
  let lo := w32 b 16
  refuse (mo + 16 * nm > b.length || so + 8 * ns > b.length || lo + 4 * sc > b.length ||
    overlaps 0 256 mo (16 * nm) || overlaps 0 256 so (8 * ns) || overlaps 0 256 lo (4 * sc) ||
    overlaps mo (16 * nm) so (8 * ns) || overlaps mo (16 * nm) lo (4 * sc) || overlaps so (8 * ns) lo (4 * sc)) (fmtErr 4 sn)
  let ms ← checkMotifs b sn mo sc (env.privBase sn) nm 0 []
  let ss ← checkSteps b sn so nm ns 0 []
  refuse (tiersBad s.tiers ns) (fmtErr 9 sn)
  let s := { s with motifs := ms, steps := ss, slots := (List.range sc).map fun i => BitVec.ofNat 32 (w32 b (lo + 4 * i)) }
  checkSlots s 0 s.slots
  .ok s

/-- The format of a lane section (R124). The bytes of entry 0 are left to step 5 of R127 (R125). -/
def checkLaneFormat (b : List Byte) (e : DirEntry) (imageId : Nat) : Except Verdict LaneSection := do
  let sn := e.sect
  let c := w32 b 0
  let p := bits c 19 16
  checkDetail
    [(b.length < 8, 4), (bits c 7 3 != 0 || bits c 15 9 != 0 || c / 2 ^ 20 != 0, 6),
     (c % 8 != e.idx || (bit c 8 != (e.typ == 3)) || p < 4 || p > 13, 0x10)] (fun d => fmtErr d sn)
  refuse (w32 b 4 != 0) (fmtErr 6 sn)
  refuse (b.length < 8 + 8 * 2 ^ p) (fmtErr 4 sn)
  let tab := ((b.drop 8).take (8 * 2 ^ p)).map (·.toNat)
  match (tab.drop 8).findIdx? fun x => 0x80 ≤ x && x < 0xFF with
  | some i => .error (fmtErr 0xD sn 0 0 (i / 8 + 1))
  | none => .ok { rx := e.typ == 3, group := e.idx, periodLog2 := p, table := tab, imageId }

/-- CRC-32C of a section of an image. -/
def DirEntry.crcOf (b : List Byte) (e : DirEntry) : Nat := (crc32c ((b.drop e.off).take e.len)).toNat

/-- The section whose CRC the first check computed last: the first that differs, else the last one (R127 step 3). -/
def lastChecked (nch : Nat) (b : List Byte) (len : Nat) : Option (DirEntry) :=
  match checkHeader b len with
  | .error _ => none
  | .ok h =>
    match checkDirectory b h nch with
    | .error _ => none
    | .ok es => (es.find? fun e => e.crcOf b != e.crc).orElse fun _ => es.getLast?

/-- A parsed image: its sections in directory order. -/
structure Image where
  header : Header
  chans : List Section
  lanes : List LaneSection
  entries : List DirEntry
  deriving DecidableEq, Repr, Inhabited

/-- Step 3 of R127 for one section: its CRC, its format, then 0x60 and 0x61. -/
def checkSection (env : CheckEnv) (b : List Byte) (h : Header) (e : DirEntry) :
    Except Verdict (Option Section × Option LaneSection) := do
  let sb := (b.drop e.off).take e.len
  refuse ((crc32c sb).toNat != e.crc) { code := 0x02, sect := e.sect }
  if e.typ == 1 then
    let s ← checkChanFormat env sb e.idx h
    refuse (!env.chanFree e.idx) { code := 0x60, sect := e.sect }
    refuse (env.band e.idx > s.cover) { code := 0x61, sect := e.sect, detail := env.band e.idx }
    .ok (some s, none)
  else
    let l ← checkLaneFormat sb e h.imageId
    refuse (!env.laneFree l.rx l.group) { code := 0x60, sect := e.sect }
    .ok (none, some l)

/-- Every section in directory order. -/
def checkSections (env : CheckEnv) (b : List Byte) (h : Header) :
    List DirEntry → Except Verdict (List Section × List LaneSection)
  | [] => .ok ([], [])
  | e :: es => do
    let r ← checkSection env b h e
    let rest ← checkSections env b h es
    .ok (r.1.toList ++ rest.1, r.2.toList ++ rest.2)

/-- Steps 1 to 3 of R127: the image as read, or the first refusal. -/
def parseImage (env : CheckEnv) (b : List Byte) (len : Nat) : Except Verdict Image := do
  let h ← checkHeader b len
  let es ← checkDirectory b h env.nch
  let r ← checkSections env b h es
  .ok { header := h, chans := r.1, lanes := r.2, entries := es }

end Sys2Proof.Machine
end

