-- ==== Sys2Proof/Machine/Checker.lean ====
section
/-! DEFINITION. The checker of The Schedule Contract (02, 03): the contract rules R54 to R93, R119 to R121 and the
image-wide checks, over the executed stream of every tier, in the order of R127. -/

namespace Sys2Proof.Machine

open Sys2Proof

/-! ## The executed stream (R110, R114) -/

def Section.stepAt (x : Section) (p : Pos) : SeqStep := x.steps.getD p.step default
def Section.motifAt (x : Section) (p : Pos) : Motif := x.motifs.getD (x.stepAt p).motif default
def Section.tierAt (x : Section) (t : Nat) : TierDef := x.tiers.getD t default

/-- The first slot of a tier. -/
def Section.start (x : Section) (t : Nat) : Pos := { tier := t, step := (x.tierAt t).first }

/-- The place after the last slot of the last repetition of a step. -/
def Section.afterStep (x : Section) (p : Pos) : Option Pos :=
  let t := x.tierAt p.tier
  if p.step + 1 < t.first + t.count then some { tier := p.tier, step := p.step + 1 }
  else if x.loop then some (x.start p.tier) else none

/-- The next place of the stream; none at its end (R110). -/
def Section.next (x : Section) (p : Pos) : Option Pos :=
  if p.off + 1 < (x.motifAt p).len then some { p with off := p.off + 1 }
  else if p.rep + 1 < (x.stepAt p).rep then some { p with off := 0, rep := p.rep + 1 }
  else x.afterStep p

/-- `p` ends a repetition of a step whose SWITCH is nonzero (R122). -/
def Section.switchPoint (x : Section) (p : Pos) : Bool := p.off + 1 ≥ (x.motifAt p).len && (x.stepAt p).switch != 0

/-- The first slot of tier `t` after the switch point `p` (R122). -/
def Section.switchTo (x : Section) (p : Pos) (t : Nat) : Option Pos :=
  let w := (x.stepAt p).switch
  let d := x.tierAt t
  match (List.range d.count).find? fun i => (x.steps.getD (d.first + i) default).switch == w with
  | none => x.next p
  | some i =>
    let q : Pos := { tier := t, step := d.first + i, rep := p.rep + 1 }
    if p.rep + 1 < (x.stepAt q).rep then some q else x.afterStep q

/-- The next place with tier `sel` selected. -/
def Section.nextSel (x : Section) (sel : Nat) (p : Pos) : Option Pos :=
  if x.switchPoint p && sel != p.tier then x.switchTo p sel else x.next p

/-- One slot of the executed stream. -/
structure Occ where
  pos : Nat := 0
  step : Nat := 0
  rep : Nat := 0
  motif : Nat := 0
  off : Nat := 0
  w : Word := 0
  addr : Nat := 0
  deriving DecidableEq, Repr, Inhabited

/-- The slots of one repetition of a step. -/
def stepSlots (s : Section) (i rep : Nat) : List Occ :=
  let st := s.steps.getD i default
  let m := s.motifs.getD st.motif default
  ((s.slots.drop m.src).take m.len).zipIdx.map fun x =>
    { step := i, rep, motif := st.motif, off := x.2, w := x.1 }

/-- One pass over a tier's steps. -/
def onePass (s : Section) (t : Nat) : List Occ :=
  let td := s.tiers.getD t default
  (List.range td.count).flatMap fun j =>
    let i := td.first + j
    (List.range (s.steps.getD i default).rep).flatMap fun r => stepSlots s i r

/-- Number the slots from `p` and give each the address its generator forms (R114, R115). -/
def address (gens : List GenCfg) : Nat → List Nat → List Occ → List Occ
  | _, _, [] => []
  | p, o, x :: xs =>
    let r := genSlot gens o x.w
    { x with pos := p, addr := r.1 } :: address gens (p + 1) r.2 xs

/-- The next `n` slots from a place with generator offsets `o`, numbered from `p` (R110, R114). -/
def Section.from (s : Section) : Nat → Nat → Option Pos → List Nat → List Occ
  | 0, _, _, _ => []
  | _, _, none, _ => []
  | n + 1, p, some q, o =>
    let w := s.slots.getD ((s.motifAt q).src + q.off) 0
    let r := genSlot s.gens o w
    { pos := p, step := q.step, rep := q.rep, motif := (s.stepAt q).motif, off := q.off, w, addr := r.1 } ::
      s.from n (p + 1) (s.next q) r.2

/-- Passes after which a generator that starts at `o` comes back to an offset it had at a loop point (R114). -/
def genPeriod (g : GenCfg) (n : Nat) (pass : List Occ) : Nat :=
  if pass.any fun x => usesGen x.w && slotGen x.w == n && slotStep x.w == 2 then 1
  else
    let adv := (pass.filter fun x => usesGen x.w && slotGen x.w == n && slotStep x.w == 1).length
    g.limit / Nat.gcd g.limit (adv * g.stride)

/-- Passes over which every rule of a looping stream shows: the horizon of the longest distance (560 ck), the depth of
the merge queue, and every address the generators form. -/
def passCount (s : Section) (pass : List Occ) : Nat :=
  if s.loop then
    640 / (pass.length + 1) + 20 +
      s.gens.zipIdx.foldl (fun a g => Nat.lcm a (genPeriod g.1 g.2 pass)) 1
  else 1

/-- The executed stream of a tier over `n` passes. -/
def streamN (s : Section) (pass : List Occ) (n : Nat) : List Occ :=
  address s.gens 0 [0, 0, 0, 0] (List.replicate n pass).flatten

/-- The location of a slot (R593). -/
def Occ.at (x : Occ) (s : Section) (tier code detail : Nat) : Verdict :=
  { code, sect := s.chan, tier, step := x.step, motif := x.motif, offset := x.off, detail }

/-- A failed contract rule: the tier, the place in its executed stream, and the verdict. -/
structure Fail where
  tier : Nat
  pos : Nat
  v : Verdict
  deriving DecidableEq, Repr, Inhabited

/-- Step 4 of R127: the lowest tier, then the earliest slot, then the lowest code. -/
def Fail.before (a b : Fail) : Bool :=
  a.tier < b.tier || (a.tier == b.tier && (a.pos < b.pos || (a.pos == b.pos && a.v.code < b.v.code)))

def firstFail (l : List Fail) : Option Fail :=
  l.foldl (fun a x => match a with | none => some x | some y => if x.before y then some x else some y) none

/-! ## Timing, bank state, merge queue, run boundary and privileged regions (R54 to R58, R32, R83) -/

/-- The commands rules 1 to 17 speak of. -/
inductive CmdKind where
  | act | rd | wr | pre | refab | refpb
  deriving DecidableEq, Repr, Inhabited

/-- A command in the stream. Banks 0 to 31 are known; `32 + n` stands for the bank of the n-th template (R83). `banks`
are the banks it names, or for a precharge the banks it closes. -/
structure Cmd where
  pos : Nat
  kind : CmdKind
  banks : List Nat
  deriving DecidableEq, Repr, Inhabited

/-- Two banks of one bank group; a template shares a group with everything (R83). -/
def sameGroup (a b : Nat) : Bool := if a < 32 && b < 32 then a / 4 == b / 4 else true

def CmdKind.isCol : CmdKind → Bool
  | .rd | .wr => true
  | _ => false

/-- The rules of R54 between an earlier command `a` and a later command `b`, with their distances. -/
def ruleDistances (a b : Cmd) : List (Nat × Nat) :=
  let ab := a.banks.headD 0
  let bb := b.banks.headD 0
  let same := b.banks.contains ab
  let grp := sameGroup ab bb
  (if a.kind = .act && b.kind.isCol && same then [(1, 24)] else []) ++
  (if a.kind = .act && b.kind = .pre && same then [(2, 52)] else []) ++
  (if a.kind = .pre && (b.kind = .refab && !a.banks.isEmpty ||
      (b.kind = .act || b.kind = .refpb) && a.banks.contains bb) then [(3, 24)] else []) ++
  (if a.kind = .act && b.kind = .act then
    (if same then [(4, 76)] else []) ++ (if grp then [(6, 6)] else [(5, 4)]) else []) ++
  (if a.kind.isCol && b.kind.isCol then (if grp then [(9, 4)] else [(8, 2)]) else []) ++
  (if a.kind = .rd && b.kind = .wr then [(10, 20)] else []) ++
  (if a.kind = .wr && b.kind = .rd then (if grp then [(12, 26)] else [(11, 22)]) else []) ++
  (if a.kind = .rd && b.kind = .pre && same then [(13, 8)] else []) ++
  (if a.kind = .wr && b.kind = .pre && same then [(14, 38)] else []) ++
  (if a.kind = .refab then [(15, 560)] else []) ++
  (if a.kind = .refpb && (b.kind = .act || b.kind = .refpb) then (if ab = bb then [(16, 224)] else [(17, 8)]) else [])

/-- What the checker carries along a stream. -/
structure Walk where
  openB : List (Nat × Nat) := []
  hist : List Cmd := []
  waiting : List (Nat × Nat × Nat) := []
  tplN : Nat := 0
  tplAct : List (Nat × Occ) := []
  tplCol : List (Nat × Occ) := []
  tplPre : List (Nat × Occ) := []
  prevMaint : Option Nat := none
  deriving Inhabited

/-- The DRAM command of a slot, given the walk so far; the bank of a write half is that of its waiting read half. -/
def slotCmd (k : Walk) (x : Occ) : Option Cmd :=
  let o := slotOp x.w
  let b := x.addr / 2 ^ 21
  if o = opACT then some ⟨x.pos, .act, [if isTpl x.w then 32 + k.tplN else b]⟩
  else if isReadHalf x.w then
    some ⟨x.pos, .rd, [if isTpl x.w then (match k.tplAct with | (n, _) :: _ => 32 + n | [] => 31) else b]⟩
  else if o = opRD || o = opFETCH then some ⟨x.pos, .rd, [b]⟩
  else if o = opWR then some ⟨x.pos, .wr, [b]⟩
  else if isWriteHalf x.w then some ⟨x.pos, .wr, [(k.waiting.headD (0, 0, 0)).1]⟩
  else if o = opPRE then
    some ⟨x.pos, .pre, if isTpl x.w then (match k.tplPre with | (n, _) :: _ => [32 + n] | [] => []) else [b]⟩
  else if o = opPREA then some ⟨x.pos, .pre, k.openB.map (·.1)⟩
  else if o = opREFAB then some ⟨x.pos, .refab, []⟩
  else if o = opREFPB then some ⟨x.pos, .refpb, [b]⟩
  else none

/-- The lowest bank whose state a slot breaks (R55), when one does: the bank of a write half is that of its read half. DESIGN CHOICE
(log 141): a REFab that only an open template breaks names bank 0, for the bank of a template is not known. -/
def bankBroken (k : Walk) (x : Occ) : Option Nat :=
  let o := slotOp x.w
  let b := x.addr / 2 ^ 21
  let row := x.addr / 2 ^ 8 % 2 ^ 13
  let isOpen (b : Nat) : Bool := k.openB.any (·.1 == b)
  if isTpl x.w then none
  else if isWriteHalf x.w then
    match k.waiting with
    | (h, _, a) :: _ => if h ≥ 32 || k.openB.contains (h, a / 2 ^ 8 % 2 ^ 13) then none else some h
    | [] => none
  else if o = opACT then if isOpen b then some b else none
  else if o = opRD || o = opFETCH || o = opWR || isReadHalf x.w then
    if k.openB.contains (b, row) then none else some b
  else if o = opPRE then if isOpen b then none else some b
  else if o = opREFAB then ((List.range 32).find? isOpen).orElse fun _ => if k.openB.isEmpty then none else some 0
  else if o = opREFPB then if isOpen b then some b else none
  else none

/-- The lowest rule of R58 that fails at the first slot of a maintenance run, 0 for an open bank. -/
def runBoundary (k : Walk) (p : Nat) : Option Nat :=
  if !k.openB.isEmpty then some 0
  else
    let bad (kind : CmdKind) (d : Nat) : Bool := k.hist.any fun c => c.kind == kind && p < c.pos + d
    if bad .pre 24 then some 3 else if bad .rd 8 then some 13 else if bad .wr 38 then some 14
    else if bad .refab 560 then some 15 else none

/-- The first slot of the template a command belongs to. -/
def tplFirst (k : Walk) (n : Nat) : Occ :=
  ((k.tplAct ++ k.tplCol ++ k.tplPre).find? (·.1 == n)).elim {} (·.2)

/-- The failures at one slot, by the rules of this section. -/
def slotFails (s : Section) (tier priv : Nat) (k : Walk) (x : Occ) : List Verdict :=
  let cmd := slotCmd k x
  let pairs : List (Cmd × Nat) := match cmd with
    | none => []
    | some c => k.hist.flatMap fun a =>
        ((ruleDistances a c).filter fun r => c.pos < a.pos + r.2).map fun r => (a, r.1)
  let tplPair (a : Cmd) : Bool := match cmd with
    | some c => a.banks.any fun b => 32 ≤ b && c.banks.contains b
    | none => false
  let inTpl := pairs.filter fun q => tplPair q.1 && [1, 2, 13, 14].contains q.2
  let faw : Bool := slotOp x.w = opACT &&
    (k.hist.filter fun a => a.kind = .act && x.pos < a.pos + 32).length ≥ 4
  let lateWr := isWriteHalf x.w && (match k.waiting with | (_, p, _) :: _ => x.pos < p + 36 | [] => false)
  let rules := (pairs.filter fun q => !(tplPair q.1 && [1, 2, 13, 14].contains q.2)).map (·.2) ++
    (if faw then [7] else []) ++ (if lateWr && !isTpl x.w then [18] else [])
  let timing := match rules.min? with
    | some r => [x.at s tier 0x10 r]
    | none => []
  let bank := match bankBroken k x with
    | some b => [x.at s tier 0x11 b]
    | none => []
  let merge := if (isReadHalf x.w && k.waiting.length ≥ 16) || (isWriteHalf x.w && k.waiting.isEmpty)
    then [x.at s tier 0x12 0] else []
  let bnd := if isMaint x.w && k.prevMaint != some (slotOp x.w) then
      (match runBoundary k x.pos with | some r => [x.at s tier 0x13 r] | none => []) else []
  let pv := if (slotOp x.w = opRD || slotOp x.w = opWR || isReadHalf x.w) && !isTpl x.w && x.addr ≥ priv
    then [x.at s tier 0x15 (slotGen x.w)] else []
  let orphan := isTpl x.w && (slotOp x.w = opRMW && slotDp x.w = dpTRD && k.tplAct.isEmpty ||
    slotOp x.w = opRMW && slotDp x.w = dpTWR && k.tplCol.isEmpty || slotOp x.w = opPRE && k.tplPre.isEmpty ||
    slotEom x.w && !(slotOp x.w = opPRE && k.tplAct.isEmpty && k.tplCol.isEmpty && k.tplPre.length == 1)) ||
    slotEom x.w && !isTpl x.w && !(k.tplAct.isEmpty && k.tplCol.isEmpty && k.tplPre.isEmpty)
  let left := (k.tplAct ++ k.tplCol ++ k.tplPre).map (·.2)
  let tplBad := match inTpl.head? with
    | some q => [(tplFirst k ((q.1.banks.headD 32) - 32)).at s tier 0x62 1]
    | none =>
      if lateWr && isTpl x.w then [(tplFirst k ((k.waiting.headD (32, 0, 0)).1 - 32)).at s tier 0x62 1]
      else if orphan then [((if slotEom x.w then left.head? else none).getD x).at s tier 0x62 1] else []
  timing ++ bank ++ merge ++ bnd ++ pv ++ tplBad

/-- The walk after a slot. -/
def walkStep (k : Walk) (x : Occ) : Walk :=
  let cmd := slotCmd k x
  let hist := (cmd.toList ++ k.hist).filter fun c => x.pos < c.pos + 560
  let b := x.addr / 2 ^ 21
  let o := slotOp x.w
  let k := { k with prevMaint := if isMaint x.w then some o else none }
  if isMaint x.w then { k with openB := [], hist := [] }
  else if o = opACT then
    if isTpl x.w then { k with hist, tplN := k.tplN + 1, tplAct := k.tplAct ++ [(k.tplN, x)], openB := (32 + k.tplN, 0) :: k.openB }
    else { k with hist, openB := (b, x.addr / 2 ^ 8 % 2 ^ 13) :: k.openB }
  else if isReadHalf x.w then
    if isTpl x.w then
      match k.tplAct with
      | (n, y) :: r => { k with hist, tplAct := r, tplCol := k.tplCol ++ [(n, y)],
                                waiting := k.waiting ++ [(32 + n, x.pos, x.addr)] }
      | [] => { k with hist, waiting := k.waiting ++ [(31, x.pos, x.addr)] }
    else { k with hist, waiting := k.waiting ++ [(b, x.pos, x.addr)] }
  else if isWriteHalf x.w then
    let k := { k with hist, waiting := k.waiting.tail }
    if isTpl x.w then (match k.tplCol with | q :: r => { k with tplCol := r, tplPre := k.tplPre ++ [q] } | [] => k) else k
  else if o = opPRE then
    if isTpl x.w then
      match k.tplPre with
      | (n, _) :: r => { k with hist, tplPre := r, openB := k.openB.filter (·.1 != 32 + n) }
      | [] => { k with hist }
    else { k with hist, openB := k.openB.filter (·.1 != b) }
  else if o = opPREA then { k with hist, openB := [] }
  else { k with hist }

/-- The first slot at which a rule of this section fails. -/
def walkFails (s : Section) (tier priv : Nat) : Walk → List Occ → List Fail
  | _, [] => []
  | k, x :: xs =>
    match slotFails s tier priv k x with
    | [] => walkFails s tier priv (walkStep k x) xs
    | vs => vs.map fun v => { tier, pos := x.pos, v }

/-! ## Pairs that straddle a tier switch (R54, R56, R58, R122) -/

/-- The place of a slot in one pass of its tier's executed stream. -/
def placeIn (s : Section) (t : Nat) (x : Occ) : Nat :=
  ((onePass s t).findIdx? fun y => y.step == x.step && y.rep == x.rep && y.off == x.off).getD 0

/-- The rules that hold between commands: their failures in the slots that follow a switch into tier `t`. Each is reported at the
place its slot has in that tier. -/
def seamFails (s : Section) (t priv : Nat) (k : Walk) (l : List Occ) : List Fail :=
  ((walkFails s t priv k l).filter fun f => [0x10, 0x12, 0x13].contains f.v.code).map fun f =>
    { f with pos := placeIn s t { step := f.v.step, rep := (l.find? (·.pos == f.pos)).elim 0 (·.rep), off := f.v.offset } }

/-- The failures across every switch out of tier `t`: after each repetition of a step with a SWITCH, the stream goes on in each
other tier with the commands, the merge queue and the generator offsets it has (R122). 1,200 slots hold every pair that starts before
the switch (560 ck). -/
def switchFails (s : Section) (t priv : Nat) : Walk → List Nat → List Occ → List Fail
  | _, _, [] => []
  | k, o, x :: xs =>
    let o' := (genSlot s.gens o x.w).2
    let k' := walkStep k x
    let p : Pos := { tier := t, step := x.step, rep := x.rep, off := x.off }
    let here := if s.switchPoint p then
        (List.range s.tiers.length).flatMap fun u => if u = t then [] else
          seamFails s u priv k' (s.from 1200 (x.pos + 1) (s.switchTo p u) o')
      else []
    here ++ switchFails s t priv k' o' xs

/-! ## Refresh coverage (R66, R67) -/

/-- `v(s)` for `s` from 0 to the motif's length: units accrued less credits to bank `b` below `s`. -/
def debtCurve (kc b : Nat) (ws : List Word) : List Int :=
  let credit (w : Word) : Bool := slotOp w = opREFAB || (slotOp w = opREFPB && !slotBankSrc w && slotBank w = b)
  (ws.foldl (fun (a : List Int × Int) w =>
    let v := a.2 + kc - (if credit w then 24960 else 0)
    (v :: a.1, v)) ([0], 0)).1.reverse

def maxInt (l : List Int) (d : Int) : Int := l.foldl max d

/-- The largest rise over any stretch of a curve. -/
def maxRise (l : List Int) : Int :=
  (l.foldl (fun (a : Int × Int) v => (max a.1 (v - a.2), min a.2 v)) (0, l.headD 0)).1

/-- The quantities of R66 for one step: `dl`, `p`, `q`, `g` and the repeat count. -/
structure StepDebt where
  idx : Nat
  motif : Nat
  rep : Nat
  slots : Nat
  switch : Nat
  dl : Int
  p : Int
  q : Int
  g : Int
  deriving Inhabited

def stepDebt (s : Section) (b i : Nat) : StepDebt :=
  let st := s.steps.getD i default
  let m := s.motifs.getD st.motif default
  let ws := (s.slots.drop m.src).take m.len
  let c := debtCurve s.cover b ws
  let dl := c.getLastD 0
  { idx := i, motif := st.motif, rep := st.rep, slots := m.len * st.rep, switch := st.switch, dl, p := maxInt c 0,
    q := maxInt (c.map (dl - ·)) 0, g := maxRise (c ++ (c.map (dl + ·)).tail) }

/-- The outcome of one pass of R66: the value at its end, the largest value at a switch point, and the first failure as
(step, motif, place, excess). -/
structure PassDebt where
  d : Int
  sw : Option Int := none
  bad : Option (Nat × Nat × Nat × Int) := none
  pos : Nat := 0
  deriving Inhabited

/-- One step of R66. DESIGN CHOICE (log 142): where both of its tests fail, the excess is the larger of the two. -/
def passStep (k : Int) (a : PassDebt) (x : StepDebt) : PassDebt :=
  if a.bad.isSome then a
  else
    let lim : Int := 224639
    let flr : Int := -174720
    let f := flr + k + x.q
    let e := if x.rep = 1 then a.d else max (a.d + (x.rep - 1) * max x.dl 0) f
    let ex := max (e + x.p - lim) (flr + k + x.g - lim)
    if ex > 0 then { a with bad := some (x.idx, x.motif, a.pos, ex) }
    else
      let d := max (a.d + x.rep * x.dl) f
      let atSw := max (max (a.d + x.dl) f) d
      { a with d, pos := a.pos + x.slots,
               sw := if x.switch = 0 then a.sw else some (max atSw (a.sw.getD atSw)) }

/-- R66 for one bank of one tier from the entry value `d0`: the largest value at a switch point, or the failure. -/
def tierDebt (s : Section) (t b : Nat) (d0 : Int) : Except Fail (Option Int) :=
  let td := s.tiers.getD t default
  let xs := (List.range td.count).map fun j => stepDebt s b (td.first + j)
  let refuseAt (x : Nat × Nat × Nat × Int) : Fail :=
    { tier := t, pos := x.2.2.1, v := { code := 0x20, sect := s.chan, step := x.1, motif := x.2.1,
                                         detail := min (x.2.2.2.toNat / 16) 0xFFFF } }
  let p1 := xs.foldl (passStep s.cover) { d := d0 }
  match p1.bad with
  | some x => .error (refuseAt x)
  | none =>
    if !s.loop || p1.d ≤ d0 then .ok p1.sw
    else
      let p2 := xs.foldl (passStep s.cover) { p1 with }
      match p2.bad with
      | some x => .error (refuseAt x)
      | none =>
        if p2.d ≤ p1.d then .ok p2.sw
        else
          let x0 := xs.headD default
          .error { tier := t, pos := 0, v := { code := 0x21, sect := s.chan, step := x0.idx, motif := x0.motif } }

/-- Every bank of every tier from `d0`: the failures and the largest value at a switch point. -/
def sectionDebt (s : Section) (d0 : Int) : List Fail × Option Int :=
  let rs := (List.range s.tiers.length).flatMap fun t => (List.range 32).map fun b => tierDebt s t b d0
  rs.foldl (fun (a : List Fail × Option Int) r => match r with
    | .error f => (a.1 ++ [f], a.2)
    | .ok none => a
    | .ok (some v) => (a.1, some (max v (a.2.getD v)))) ([], none)

/-- The rounds of R67. DESIGN CHOICE (log 143): where they do not settle, STEP is the first step of tier 0. -/
def debtRounds (s : Section) : Nat → Int → List Fail
  | 0, _ =>
    let st := (s.tiers.getD 0 default).first
    [{ tier := 0, pos := 0, v := { code := 0x21, sect := s.chan, step := st,
                                    motif := (s.steps.getD st default).motif, detail := 1 } }]
  | n + 1, d =>
    let r := sectionDebt s d
    if !r.1.isEmpty then r.1
    else match r.2 with
      | none => []
      | some v => if max 24959 v ≤ d then [] else debtRounds s n (max 24959 v)

/-! ## Maintenance and scrub floor (R77, R79) -/

/-- Maximal groups of consecutive slots that `f` maps to one value: (value, start, length). -/
def runsOf {β : Type} [DecidableEq β] (f : Word → β) : List Occ → List (β × Nat × Nat)
  | [] => []
  | x :: xs =>
    match runsOf f xs with
    | (v, p, n) :: r => if v = f x.w then (v, x.pos, n + 1) :: r else (f x.w, x.pos, 1) :: (v, p, n) :: r
    | [] => [(f x.w, x.pos, 1)]

/-- The kinds of work in rank order (R78): minimum window, and the code of R593. -/
def kindMin : Nat → Nat
  | 0 => 128
  | 1 => 32768
  | 2 => 1024
  | _ => 96

/-- The limit of the declared distance (R77). -/
def kindLimit : Nat → Nat
  | 1 => 16000000000
  | 2 => 1600000000
  | _ => 160000000

/-- The kind a maintenance opcode names. -/
def kindOf (op : Nat) : Nat := if op = opCAL then 0 else if op = opBIST then 1 else if op = opTRAIN then 2 else 3

def Section.dist (s : Section) : Nat → Nat
  | 0 => s.distCal
  | 1 => s.distBist
  | 2 => s.distTrain
  | _ => s.distScrub

/-- The first slot at which the distance from a window start to the next exceeds `d`: window starts in order, and the
stream's end. -/
def distExceeded (d : Nat) (stop : Nat) : List Nat → Option Nat
  | [] => none
  | [a] => if stop - a > d then some (a + d + 1) else none
  | a :: b :: r => if b - a > d then some (a + d + 1) else distExceeded d stop (b :: r)

/-- R77 over the executed stream, of which three passes of a loop show every distance and the lack of a window. DESIGN CHOICE
(log 144): a distance that is first exceeded at the end of a stream that does not loop, where no slot lies, is reported at slot 0. -/
def maintFails (s : Section) (tier : Nat) (pass : List Occ) : List Fail :=
  let str := streamN s pass (if s.loop then 3 else 1)
  let n := str.length
  let wins := (runsOf isMaint str).filter (·.1)
  let declared := (List.range 4).flatMap fun k =>
    if s.dist k = 0 || s.dist k > kindLimit k then
      [({ tier := 0, pos := 0, v := { code := 0x30, sect := s.chan, detail := k } } : Fail)] else []
  let far := (List.range 4).flatMap fun k =>
    let starts := 0 :: ((wins.filter fun x => x.2.2 ≥ kindMin k && x.2.1 != 0).map (·.2.1))
    let first := if !s.loop then distExceeded (s.dist k) n starts
      else if starts.length = 1 then some (s.dist k + 1)
      else distExceeded (s.dist k) 0 starts
    match first with
    | some p => (pass[p % pass.length]?).toList.map fun x => ({ tier, pos := p, v := x.at s tier 0x30 k } : Fail)
    | none => []
  let short := wins.flatMap fun x =>
    let inside := (str.drop x.2.1).take x.2.2
    let whole := !s.loop || x.2.1 + x.2.2 < n
    if whole && (inside.all fun y => x.2.2 < kindMin (kindOf (slotOp y.w))) then
      inside.head?.toList.map fun y => ({ tier, pos := x.2.1, v := y.at s tier 0x31 (kindOf (slotOp y.w)) } : Fail)
    else []
  declared ++ far ++ short

/-- Opportunities of an OPEN run of `L` slots (R73, R244). -/
def openCap (l : Nat) : Nat := if l ≥ 72 then (l - 64) / 8 else 0

/-- The floor share of R248. -/
def floorShare (l : Nat) : Nat := openCap l / 8

/-- Runs taken around the loop: (start, length) of every run of `op` that starts in the first pass of length `n`. -/
def cyclicRuns (op : Nat) (two : List Occ) (n : Nat) (loop : Bool) : List (Nat × Nat) :=
  let rs := ((runsOf slotOp (if loop then two else two.take n)).filter (·.1 == op)).map fun x => (x.2.1, min x.2.2 n)
  if loop then (rs.filter fun x => (n ≤ x.1 || x.2 == n) && x.1 < 2 * n).map fun x => (x.1 % n, x.2) else rs

/-- The scrub credit of every slot of a pass, as a rational (R79). -/
def scrubRates (three : List Occ) (n : Nat) (loop : Bool) : List Rat :=
  let opens := cyclicRuns opOPEN three n loop
  (three.take n).zipIdx.map fun x =>
    if slotOp x.1.w = opSCRUB then (1 : Rat) / 96
    else if slotOp x.1.w = opOPEN then
      match opens.find? fun r => (x.2 + n - r.1) % n < r.2 with
      | some r => (floorShare r.2 : Rat) / r.2
      | none => 0
    else 0

/-- The first window of `w` slots of a pass (around the loop when `loop`) whose total is out of range, by `bad`. -/
def badWindow (vals : List Rat) (w : Nat) (loop : Bool) (bad : Rat → Bool) : Option Nat :=
  let n := vals.length
  let total := vals.foldl (· + ·) (0 : Rat)
  let pre : List Rat := (vals ++ vals).foldl (fun a v => (a.headD 0 + v) :: a) [0]
  let arr := pre.reverse.toArray
  let win (p : Nat) : Rat := (w / n : Nat) * total + (arr.getD (p + w % n) 0 - arr.getD p 0)
  (List.range (if loop then n else n + 1 - w)).find? (fun p => bad (win p))

def scrubFails (s : Section) (tier : Nat) (pass : List Occ) : List Fail :=
  let n := pass.length
  let three := ((pass ++ pass ++ pass).zipIdx.map fun x => { x.1 with pos := x.2 })
  let vals := scrubRates three n s.loop
  if !s.loop && n < 2 ^ 24 then
    let total := vals.foldl (· + ·) (0 : Rat)
    if total * 2 ^ 24 < (s.scrubFloor * n : Nat) then [{ tier, pos := 0, v := { code := 0x32, sect := s.chan } }] else []
  else
    match badWindow vals (2 ^ 24) s.loop (fun t => t < s.scrubFloor) with
    | some p => [{ tier, pos := p, v := (pass.getD p default).at s tier 0x32 0 }]
    | none => []

/-! ## Power and tiers (R86 to R89, R121) -/

/-- Energy of a slot in pJ (R86). -/
def slotEnergy (w : Word) : Nat :=
  if slotOp w = opACT then 1200 else if isReadClass w then 550 else if isWriteClass w then 600
  else if slotOp w = opREFAB then 40000 else if slotOp w = opREFPB then 1400
  else if slotOp w = opOPEN || isMaint w then 320 else 0

/-- Power in mW of `e` pJ over `n` ck of 0.625 ns, with the 0.44 W of an active channel. -/
def estimateMw (e : Rat) (n : Nat) : Rat := 440 + e * 8 / (5 * n)

/-- The window of R87. -/
def powerWin : Nat := 1600000

/-- The estimates of every window of a tier: the largest (R88), and the first one above `lim` (R87). -/
def tierPower (s : Section) (pass : List Occ) (lim : Rat) : Rat × Option Nat :=
  let n := pass.length
  let vals := pass.map fun x => (slotEnergy x.w : Rat)
  let total := vals.foldl (· + ·) (0 : Rat)
  if !s.loop && n < powerWin then (estimateMw total n, if estimateMw total n > lim then some 0 else none)
  else
    let arr := ((vals ++ vals).foldl (fun a v => (a.headD 0 + v) :: a) [(0 : Rat)]).reverse.toArray
    let win (p : Nat) : Rat := (powerWin / n : Nat) * total + (arr.getD (p + powerWin % n) 0 - arr.getD p 0)
    let ps := List.range (if s.loop then n else n + 1 - powerWin)
    (ps.foldl (fun a p => max a (estimateMw (win p) powerWin)) 0, ps.find? fun p => estimateMw (win p) powerWin > lim)

def powerFails (s : Section) (tier : Nat) (pass : List Occ) : List Fail :=
  match (tierPower s pass ((s.tiers.getD tier default).power : Rat)).2 with
  | none => []
  | some p =>
    if !s.loop && pass.length < powerWin then [{ tier, pos := 0, v := { code := 0x40, sect := s.chan, tier } }]
    else [{ tier, pos := p, v := (pass.getD p default).at s tier 0x40 0 }]

/-- Ride spans of a pass (R73): step, first place and length of each. -/
def rideSpans (s : Section) (t : Nat) : List (Nat × Nat) :=
  let td := s.tiers.getD t default
  (((List.range td.count).flatMap fun j =>
    let st := s.steps.getD (td.first + j) default
    let l := (s.motifs.getD st.motif default).len
    let g := if l ≥ 4096 then 1 else (4096 + l - 1) / l
    (List.range ((st.rep + g - 1) / g)).map fun i => l * min g (st.rep - i * g)).foldl
      (fun (a : List (Nat × Nat) × Nat) n => (a.1 ++ [(a.2, n)], a.2 + n)) ([], 0)).1

/-- The largest count of slots that `f` selects in any one ride span. -/
def spanMax (s : Section) (t : Nat) (pass : List Occ) (f : Word → Bool) : Nat :=
  (rideSpans s t).foldl (fun a sp => max a (((pass.drop sp.1).take sp.2).filter fun x => f x.w).length) 0

/-- R89: declared power falls strictly, and neither beats nor records per ride span rise. -/
def tierOrderFails (s : Section) (passes : List (List Occ)) : List Fail :=
  (List.range (s.tiers.length - 1)).flatMap fun i =>
    let a := passes.getD i []
    let b := passes.getD (i + 1) []
    let d (f : Word → Bool) : Bool := spanMax s (i + 1) b f > spanMax s i a f
    let mk (k : Nat) : Fail := { tier := i + 1, pos := 0, v := { code := 0x42, sect := s.chan, tier := i + 1, detail := k } }
    if (s.tiers.getD (i + 1) default).power ≥ (s.tiers.getD i default).power then [mk 0]
    else if d (fun w => slotOp w = opRD && slotDp w = dpSRC) then [mk 1]
    else if d isReadHalf then [mk 2] else []

/-- Switch values of a tier in order. -/
def switchList (s : Section) (t : Nat) : List (Nat × Nat) :=
  let td := s.tiers.getD t default
  ((List.range td.count).map fun j => (td.first + j, (s.steps.getD (td.first + j) default).switch)).filter (·.2 != 0)

/-- What is known of a tier at the end of one repetition of a step with a SWITCH: its value, the pass over the tier's steps, the
repetition, the slot, and `what` holds there. -/
structure AtSwitch (α : Type) where
  sw : Nat
  pass : Nat
  rep : Nat
  slot : Occ
  what : α

/-- The switch point that slot `x` of a stream with passes of `n` slots ends, with `what`. -/
def atSwitch {α : Type} (s : Section) (n : Nat) (x : Occ) (what : α) : List (AtSwitch α) :=
  let sw := (s.steps.getD x.step default).switch
  if slotEom x.w && sw != 0 then [⟨sw, x.pos / n, x.rep, x, what⟩] else []

/-- The switch points of `a` (of tier `t`) whose content differs from that of `b` (of tier 0) where a switch joins them (R122): the
repetition reached in one tier, and the same one in the other, or the last of its step when it has fewer. -/
def apartAt {α : Type} (s : Section) (t code : Nat) (same : α → α → Bool) (detail : Nat → Nat) (a b : List (AtSwitch α)) : List Fail :=
  let last (l : List (AtSwitch α)) (x : AtSwitch α) : Nat :=
    (l.filter fun y => y.sw == x.sw && y.pass == x.pass).foldl (fun m y => max m y.rep) 0
  let fail (x : AtSwitch α) : Fail := { tier := t, pos := x.slot.pos, v := x.slot.at s t code (detail x.sw) }
  let pairs := a.flatMap fun x => (b.filter fun y => y.sw == x.sw && y.pass == x.pass &&
    (y.rep == min x.rep (last b x) || x.rep == min y.rep (last a y))).map fun y => (x, y)
  (pairs.filter fun p => !same p.1.what p.2.what).map fun p => fail p.1

/-- Open rows at every switch point of a stream with passes of `n` slots. -/
def switchStates (s : Section) (n : Nat) : Walk → List Occ → List (AtSwitch (List (Nat × Nat)))
  | _, [] => []
  | k, x :: xs => atSwitch s n x (walkStep k x).openB ++ switchStates s n (walkStep k x) xs

/-- R89 and R121: the switch points of every tier. -/
def tierSwitchFails (s : Section) (passes : List (List Occ)) : List Fail :=
  let misplaced := (List.range s.tiers.length).flatMap fun t =>
    (switchList s t).flatMap fun x =>
      let last := (stepSlots s x.1 0).getLast?
      match last with
      | some o => if slotTsw o.w then [] else
          [({ tier := t, pos := (((passes.getD t []).findIdx? fun y => y.step == x.1).getD 0) + o.off,
              v := o.at s t 0x43 x.2 } : Fail)]
      | none => []
  let order := (List.range s.tiers.length).flatMap fun t =>
    let l := (switchList s t).map (·.2)
    if l != (switchList s 0).map (·.2) || !l.Nodup then
      [({ tier := t, pos := 0, v := { code := 0x43, sect := s.chan, tier := t } } : Fail)] else []
  let num := passes.foldl (fun a p => max a (passCount s p)) 1
  let st (t : Nat) : List (AtSwitch (List (Nat × Nat))) :=
    switchStates s (passes.getD t []).length {} (streamN s (passes.getD t []) num)
  let same (a b : List (Nat × Nat)) : Bool := a.all (b.contains ·) && b.all (a.contains ·)
  let state := (List.range (s.tiers.length - 1)).flatMap fun i => apartAt s (i + 1) 0x43 same id (st (i + 1)) (st 0)
  misplaced ++ order ++ state

/-! ## Lane positions, slack and buffers (R80, R81, R91 to R93, R188) -/

/-- The assigned positions of a bobbin in one period of a lane table: (beat, lane) in the order of R117. `who` maps the
bobbin number of a byte to the channel it stands for (R490). -/
def lanePositions (who : Nat → Nat) (ls : LaneSection) (ch : Nat) : List (Nat × Nat) :=
  (ls.table.zipIdx.filter fun x => x.1 != 0xFF && who x.1 == ch).map fun x => (x.2 / 8, x.2 % 8)

/-- Beat and lane of assigned position `k`, counted from the first beat of the lane section (R81). -/
def posBeat (ps : List (Nat × Nat)) (period k : Nat) : Nat × Nat :=
  let p := ps.getD (k % ps.length) (0, 0)
  (k / ps.length * period + p.1, p.2)

/-- The first assigned position whose deadline, relative to T_s, is at least `d` (R117). -/
def firstPos (ps : List (Nat × Nat)) (period d : Nat) : Nat :=
  let beat := (d + 1) / 2
  beat / period * ps.length + (ps.filter fun p => p.1 < beat % period).length

/-- What the slack checks carry: output pointer or record count per group, and release times. -/
structure Slack where
  ptr : List (Nat × Nat) := []
  rel : List Nat := []
  fails : List Fail := []
  deferred : List Fail := []
  deriving Inhabited

/-- The positions of every group for a section: group, positions, period. -/
abbrev GroupPos := List (Nat × List (Nat × Nat) × Nat)

def groupPos (who : Nat → Nat) (lanes : List LaneSection) (rx : Bool) (ch : Nat) : GroupPos :=
  (lanes.filter (·.rx == rx)).filterMap fun l =>
    let ps := lanePositions who l ch
    if ps.isEmpty then none else some (l.group, ps, 2 ^ l.periodLog2)

/-- A SOURCE read at `x` in the RAW model (R80, R93, R188). -/
def srcRead (s : Section) (tier : Nat) (gp : GroupPos) (a : Slack) (x : Occ) : Slack :=
  let g := slotGroup x.w
  match gp.find? (·.1 == g) with
  | none => { a with deferred := a.deferred ++ [{ tier, pos := x.pos, v := x.at s tier 0x50 g }] }
  | some (_, ps, per) =>
    let old := (a.ptr.find? (·.1 == g)).map (·.2)
    let anchor := slotRls x.w || old.isNone
    let tgt := firstPos ps per (x.pos + s.rlsLead)
    let p := if anchor then tgt else old.getD 0
    let trunc := anchor && (match old with | some q => tgt < q | none => false)
    let rel := (2 * (posBeat ps per (p + 7)).1 - 12) :: a.rel.filter fun r => x.pos < r
    { a with
      ptr := (g, p + 8) :: a.ptr.filter (·.1 != g), rel,
      deferred := if trunc then a.deferred ++ [{ tier, pos := x.pos, v := x.at s tier 0x50 g }] else a.deferred,
      fails := a.fails ++
        (if 2 * (posBeat ps per p).1 < x.pos + 50 then [{ tier, pos := x.pos, v := x.at s tier 0x52 0 }] else []) ++
        (if rel.length > 256 then [{ tier, pos := x.pos, v := x.at s tier 0x54 1 }] else []) }

/-- A CAPTURE read half at `x` consumes the next record of its group (R81). -/
def capRead (s : Section) (tier : Nat) (gp : GroupPos) (a : Slack) (x : Occ) : Slack :=
  let g := slotGroup x.w
  match gp.find? (·.1 == g) with
  | none => { a with deferred := a.deferred ++ [{ tier, pos := x.pos, v := x.at s tier 0x50 g }] }
  | some (_, ps, per) =>
    let k := ((a.ptr.find? (·.1 == g)).map (·.2)).getD 0
    { a with
      ptr := (g, k + 1) :: a.ptr.filter (·.1 != g),
      fails := a.fails ++
        (if 2 * (posBeat ps per (8 * k + 7)).1 > x.pos + 20 then [{ tier, pos := x.pos, v := x.at s tier 0x53 0 }] else []) }

/-- Records received and not yet consumed exceed 64 (R81): the earliest arrival at which they do. -/
def recvOver (s : Section) (tier : Nat) (gp : GroupPos) (str reads : List Occ) : List Fail :=
  let cnt (g t : Nat) : Nat := (reads.filter fun x => slotGroup x.w == g && x.pos < t).length
  let tot (g : Nat) : Nat := (reads.filter fun x => slotGroup x.w == g).length
  let arrive (ps : List (Nat × Nat)) (per k : Nat) : Nat := 2 * (posBeat ps per (8 * k + 7)).1 + 10
  let times := gp.flatMap fun q => (List.range (tot q.1)).map fun k => arrive q.2.1 q.2.2 k
  let waitingAt (t : Nat) : Nat := gp.foldl (fun a q =>
    a + (((List.range (tot q.1)).filter fun k => arrive q.2.1 q.2.2 k ≤ t).length - cnt q.1 t)) 0
  match (times.filter fun t => waitingAt t > 64).min? with
  | some t => (str[t]?).toList.map fun x => { tier, pos := t, v := x.at s tier 0x54 2 }
  | none => []

/-- Slack and buffer checks of one tier: the failures, and the 0x50 failures of step 6. -/
def slackFails (who : Nat → Nat) (lanes : List LaneSection) (s : Section) (tier : Nat) (str : List Occ) :
    List Fail × List Fail :=
  match s.func with
  | .source =>
    let gp := groupPos who lanes false s.chan
    let r := (str.filter fun x => slotOp x.w = opRD && slotDp x.w = dpSRC).foldl (srcRead s tier gp) {}
    (r.fails, r.deferred)
  | .capture =>
    let gp := groupPos who lanes true s.chan
    let reads := str.filter fun x => slotOp x.w = opRMW && slotDp x.w = dpCAPR
    let tpl := str.filter fun x => slotOp x.w = opRMW && slotDp x.w = dpTRD
    let r := reads.foldl (capRead s tier gp) {}
    let miss := (tpl.filter fun x => !gp.any (·.1 == slotGroup x.w)).map fun x =>
      ({ tier, pos := x.pos, v := x.at s tier 0x50 (slotGroup x.w) } : Fail)
    (r.fails ++ recvOver s tier gp str reads, r.deferred ++ miss)
  | _ => ([], [])

/-! ## Ride-through (R74) -/

/-- The cks at which make-up issues operations, from `a` on: (first slot + 64 + 8k) over the OPEN runs of `str` (R73). -/
def makeupTimes (str : List Occ) (a stop : Nat) : List Nat :=
  ((runsOf slotOp ((str.drop a).take (stop - a))).filter (·.1 == opOPEN)).flatMap fun r =>
    (List.range (openCap r.2.2)).map fun k => r.2.1 + 64 + 8 * k

/-- The end of the ride span that follows the span holding `a`. -/
def rideReach (spans : List (Nat × Nat)) (n : Nat) (loop : Bool) (a : Nat) : Nat :=
  let i := (spans.findIdx? fun sp => a % n < sp.1 + sp.2).getD 0
  let base := a / n * n
  match spans[i + 1]? with
  | some sp => base + sp.1 + sp.2
  | none => if loop then base + n + (spans.headD (0, 0)).2 else base + n

/-- The slots of read halves and of write halves in order: the k-th of one pairs with the k-th of the other (R56). -/
def rmwPairs (str : List Occ) : List (Occ × Occ) := (str.filter (isReadHalf ·.w)).zip (str.filter (isWriteHalf ·.w))

/-- The operations that a break at `a` owes, in slot order: the displaced column commands, then the writes of displaced read halves
whose own slots lie at or after `a + 928` (R594). -/
def rideOwed (str : List Occ) (a : Nat) : List Occ :=
  let inside (x : Occ) : Bool := a ≤ x.pos && x.pos < a + 928
  ((str.drop a).take 928).filter (fun x => isReadClass x.w || isWriteClass x.w) ++
    ((rmwPairs str).filter fun p => inside p.1 && !inside p.2).map (·.2)

/-- One SOURCE read of a ride: the ck at which it takes its release-buffer entry, and the release of its last word. -/
abbrev Hold := Nat × Nat

/-- The reads up to a break at `a`, the operations `made` with their ck: the entries they hold, and whether a made-up read comes later
than the slack of R80 allows. -/
def rideReads (s : Section) (gp : GroupPos) (made : List (Occ × Nat)) (reads : List Occ) : List Hold × Bool :=
  let r := reads.foldl (fun (acc : List (Nat × Nat) × List Hold × Bool) x =>
    let g := slotGroup x.w
    match gp.find? (·.1 == g) with
    | none => acc
    | some (_, ps, per) =>
      let old := (acc.1.find? (·.1 == g)).map (·.2)
      let p := if slotRls x.w || old.isNone then firstPos ps per (x.pos + s.rlsLead) else old.getD 0
      let at_ := (made.find? fun m => m.1.pos == x.pos).map (·.2)
      let late := match at_ with
        | some t => 2 * (posBeat ps per p).1 < t + 50
        | none => false
      ((g, p + 8) :: acc.1.filter (·.1 != g), (at_.getD x.pos, 2 * (posBeat ps per (p + 7)).1 - 12) :: acc.2.1, acc.2.2 || late))
    (([] : List (Nat × Nat)), ([] : List Hold), false)
  (r.2.1, r.2.2)

/-- The lowest condition of R74 that fails for a break at `a`. -/
def rideBad (who : Nat → Nat) (lanes : List LaneSection) (s : Section) (spans : List (Nat × Nat)) (n : Nat)
    (str : List Occ) (a : Nat) : Option Nat :=
  let stop := min (rideReach spans n s.loop a) str.length
  let owed := rideOwed str a
  let times := makeupTimes str (a + 928) stop
  let made := owed.zip times
  let gp := groupPos who lanes false s.chan
  let src := rideReads s gp made ((str.take stop).filter fun x => slotOp x.w = opRD && slotDp x.w = dpSRC)
  let tooMany : Bool := s.func == .source &&
    src.1.any fun h => (src.1.filter fun y => y.1 ≤ h.1 && h.1 < y.2).length > 256
  let held (t : Nat) : Nat := (made.filter fun m => isReadHalf m.1.w && m.1.pos ≤ t && t < m.2).length
  if times.length < owed.length then some 1
  else if s.func == .source && src.2 then some 2
  else if tooMany || (s.func == .capture && owed.any fun x => held x.pos > 128) then some 3 else none

/-- Passes tooMany which a looping SOURCE or CAPTURE stream shows whether its output keeps pace with its positions. -/
def slackPasses (s : Section) (pass : List Occ) (lanes : List LaneSection) : Nat :=
  if s.loop then
    let per := lanes.foldl (fun a l => Nat.lcm a (2 * 2 ^ l.periodLog2)) 2
    (per / Nat.gcd per pass.length) * 2100 + 2
  else 1

/-- R74 at every position of the executed stream; a loop is taken over as many passes as show every place that its output has against
its lane positions. -/
def rideFails (who : Nat → Nat) (lanes : List LaneSection) (s : Section) (tier : Nat) (pass : List Occ) : List Fail :=
  if !s.ride || s.cover == 4 then []
  else
    let n := pass.length
    let num := slackPasses s pass lanes
    let str := streamN s pass (if s.loop then num + 3 + 10240 / n else 1)
    let spans := rideSpans s tier
    match (List.range (num * n)).find? fun a => (rideBad who lanes s spans n str a).isSome with
    | some a => [{ tier, pos := a, v := (str.getD a default).at s tier 0x23 ((rideBad who lanes s spans n str a).getD 0) }]
    | none => []

/-! ## Addressed capture buckets (R85) and staging (R119) -/

def bucketFails (s : Section) (tier : Nat) (str : List Occ) : List Fail :=
  if !s.addressed then []
  else
    let starts := (str.filter fun x => slotOp x.w = opACT && isTpl x.w).map (·.pos)
    let gapBad : Bool := ((starts.zip starts.tail).any fun p => p.2 - p.1 > s.intA) || starts.headD str.length ≥ s.intA ||
      (match starts.getLast? with | some l => !s.loop && str.length - l > s.intA | none => true)
    if s.intB < 128 || s.intA = 0 || s.intA * 32 > s.intB || gapBad then
      [{ tier, pos := 0, v := { code := 0x62, sect := s.chan, detail := 2 } }] else []

/-- What a card block holds (R119): the motif and block of it, and the ck from which the block holds it. -/
abbrev CardMap := List (Nat × (Nat × Nat × Nat))

/-- Card contents at load: the resident motifs (03, Staging). -/
def cardAtLoad (s : Section) : CardMap :=
  s.motifs.zipIdx.flatMap fun m =>
    if m.1.staged then [] else (List.range ((m.1.len + 7) / 8)).map fun j => (m.1.card / 8 + j, (m.2, j, 0))

/-- Card block a FETCH fills, with its motif, when its address lies in the motif's staged copy (R118). -/
def fetchBlock (s : Section) (w : Word) (addr : Nat) : Option (Nat × Nat × Nat) :=
  let mi := slotQueue w
  let m := s.motifs.getD mi default
  if m.staged && m.stageAddr ≤ addr && addr < m.stageAddr + m.len / 2 then
    let j := (addr - m.stageAddr) / 4
    some (m.card / 8 + j, mi, j)
  else none

/-- Blocks of a motif. -/
def motifBlocks (m : Motif) (blk : Nat) : Bool := m.card / 8 ≤ blk && blk < m.card / 8 + (m.len + 7) / 8

/-- Two cards with the same contents. -/
def sameCard (a b : CardMap) : Bool :=
  let sub (a b : CardMap) : Bool := a.all fun x => b.any fun y => y.1 == x.1 && y.2.1 == x.2.1 && y.2.2.1 == x.2.2.1
  sub a b && sub b a

/-- The staging failures of one stream with passes of `n` slots (R119): a slot whose block does not hold its word, a FETCH into a
motif that runs, and at a loop point (`loop`) a card that differs from the one at load. `ats` are the card contents at its switch
points. -/
def stageFails (s : Section) (tier n : Nat) : CardMap → List Occ → List Fail × List (AtSwitch CardMap)
  | _, [] => ([], [])
  | cm, x :: xs =>
    let m := s.motifs.getD x.motif default
    let blk := m.card / 8 + x.off / 8
    let runBad := match cm.find? (·.1 == blk) with
      | some (_, mi, j, t) => mi != x.motif || j != x.off / 8 || x.pos < t
      | none => true
    let fb := if slotOp x.w = opFETCH then fetchBlock s x.w x.addr else none
    let fetchBad := slotOp x.w = opFETCH && (match fb with
      | none => true
      | some (b, _, _) => ((x :: xs).take 33).any fun y => motifBlocks (s.motifs.getD y.motif default) b)
    let cm' := match fb with
      | some (b, mi, j) => (b, (mi, j, x.pos + 32)) :: cm.filter (·.1 != b)
      | none => cm
    let loopBad := s.loop && (x.pos + 1) % n = 0 && !sameCard cm' (cardAtLoad s)
    if runBad || fetchBad || loopBad then ([{ tier, pos := x.pos, v := x.at s tier 0x70 0 }], atSwitch s n x cm')
    else
      let r := stageFails s tier n cm' xs
      (r.1, atSwitch s n x cm' ++ r.2)

/-- R119 for every tier, over as many passes as show every address its generators form: residency, the loop points, and equal
contents at the tier-switch points. -/
def stagingFails (s : Section) (passes : List (List Occ)) : List Fail :=
  if !(s.motifs.any (·.staged)) && !(s.slots.any fun w => slotOp w = opFETCH) then []
  else
    let num := passes.foldl (fun a p => max a (passCount s p)) 1
    let st (t : Nat) := stageFails s t (passes.getD t []).length (cardAtLoad s) (streamN s (passes.getD t []) num)
    (List.range s.tiers.length).flatMap fun t =>
      (st t).1 ++ (if t = 0 then [] else apartAt s t 0x70 sameCard (fun _ => 0) (st t).2 (st 0).2)

/-! ## One section, then the image (R127) -/

/-- The failed contract rules of a section, and its 0x50 failures (step 4 and step 6 of R127). -/
def contractFails (env : CheckEnv) (who : Nat → Nat) (lanes : List LaneSection) (s : Section) : List Fail × List Fail :=
  let passes := (List.range s.tiers.length).map (onePass s)
  let per := passes.zipIdx.map fun p =>
    let str := streamN s p.1 (passCount s p.1)
    let sl := if s.func == .direct then ([], []) else slackFails who lanes s p.2 (streamN s p.1 (slackPasses s p.1 lanes))
    (walkFails s p.2 (env.privBase s.chan) {} str ++ switchFails s p.2 (env.privBase s.chan) {} [0, 0, 0, 0] str ++ maintFails s p.2 p.1 ++
      scrubFails s p.2 p.1 ++ powerFails s p.2 p.1 ++ rideFails who lanes s p.2 p.1 ++ bucketFails s p.2 str ++ sl.1, sl.2)
  (per.flatMap (·.1) ++ debtRounds s 9 24959 ++ tierOrderFails s passes ++ tierSwitchFails s passes ++
    stagingFails s passes, per.flatMap (·.2))

/-- Step 4: each channel section in directory order. -/
def contractCheck (env : CheckEnv) (who : Nat → Nat) (lanes : List LaneSection) : List Section → Except Verdict Unit
  | [] => .ok ()
  | s :: ss =>
    match firstFail (contractFails env who lanes s).1 with
    | some f => .error f.v
    | none => contractCheck env who lanes ss

/-- The first byte of a lane table that breaks R91, R92 or R125. DESIGN CHOICE (log 145): R92 names the same pricking only for transmit
beats, and a receive byte too must name a bobbin of the image, or one that CH_SUBST points at. `bound` selects the bytes that CH_SUBST points at a
section of the image (R491). -/
def laneConflict (env : CheckEnv) (secs : List Section) (bound : Bool) (l : LaneSection) : Option (Nat × Nat) :=
  let want : Func := if l.rx then .capture else .source
  let bad (i b : Nat) : Bool :=
    if i < 8 then b != 0xFF && !bound
    else if b == 0xFF then false
    else
      let t := env.subst b
      let found := (secs ++ (if t != b then env.admitted else [])).find? (·.chan == t)
      if bound then t != b && (match secs.find? (·.chan == t) with | some s => s.func != want | none => false)
      else match found with | some s => s.func != want | none => true
  (l.table.zipIdx.find? fun x => bad x.2 x.1).map fun x => (x.2 / 8, x.2 % 8)

/-- Step 5 of R127. -/
def laneCheck (env : CheckEnv) (secs : List Section) : List (Bool × LaneSection) → Except Verdict Unit
  | [] => .ok ()
  | (bound, l) :: r =>
    match laneConflict env secs bound l with
    | some (e, lane) => .error { code := 0x51, sect := (if l.rx then 136 else 128) + l.group, offset := e, detail := lane }
    | none => laneCheck env secs r

/-- R88 in mW: the declared sum and the peak sum with the image admitted. -/
def powerDevice (env : CheckEnv) (secs : List Section) : Except Verdict Unit :=
  let all := secs ++ env.admitted.filter fun a => !secs.any fun x => x.chan == a.chan
  let idle := ((List.range env.nch).filter fun c => !env.retired c && !all.any fun x => x.chan == c).length * 60
  let t0 := all.foldl (fun a s => a + (s.tiers.headD default).power) 0
  let peak (s : Section) : Rat :=
    (List.range s.tiers.length).foldl (fun a t => max a (tierPower s (onePass s t) 0).1) 0
  if 45000 + t0 + idle > 165000 then .error { code := 0x41, sect := 0xFF, detail := 1 }
  else if ((45000 + idle : Nat) : Rat) + all.foldl (fun (a : Rat) s => a + peak s) 0 > 180000 then
    .error { code := 0x41, sect := 0xFF, detail := 2 }
  else .ok ()

/-- Lane budget (0x50) of step 6: the first channel section whose output or records do not match. -/
def budgetCheck (env : CheckEnv) (who : Nat → Nat) (lanes : List LaneSection) : List Section → Except Verdict Unit
  | [] => .ok ()
  | s :: ss =>
    match firstFail (contractFails env who lanes s).2 with
    | some f => .error f.v
    | none => budgetCheck env who lanes ss

/-- Lane sections a channel section is checked against: those of the image, and the bound ones that CH_SUBST points at it. -/
def checkLanes (env : CheckEnv) (img : List LaneSection) (chans : List Section) : List LaneSection :=
  img ++ env.boundLanes.filter fun l =>
    !img.any (fun i => i.rx == l.rx && i.group == l.group) &&
      l.table.any fun b => b != 0xFF && env.subst b != b && chans.any (·.chan == env.subst b)

/-- The checker on parsed sections: steps 4 to 6 of R127. -/
def checkSecs (env : CheckEnv) (chans : List Section) (imgLanes : List LaneSection) : Except Verdict Unit := do
  let lanes := checkLanes env imgLanes chans
  contractCheck env env.subst lanes chans
  laneCheck env chans (imgLanes.map (false, ·) ++ (env.boundLanes.map (true, ·)))
  powerDevice env chans
  budgetCheck env env.subst lanes chans

/-- The whole checker (R47, R127): the image as read, or the verdict of the first failure. -/
def checkImage (env : CheckEnv) (b : List Byte) (len : Nat) : Except Verdict Image := do
  let img ← parseImage env b len
  checkSecs env img.chans img.lanes
  .ok img

end Sys2Proof.Machine
end

