-- ==== Sys2Proof/Config.lean ====
section
/-! DEFINITION. The values the spec leaves open, as constants without a body: nothing can evaluate them, so every
statement about the model holds whatever they are. -/

namespace Sys2Proof.Config

/-- The codeword that a location of the stack array holds before anything has written it (R256, 07 Written before
read: its decode is arbitrary): `epoch` numbers the losses of a channel's content. -/
opaque freeCodeword (epoch addr : Nat) : Codeword

/-- What a failing data eyelet carries in one transfer (R592), one bit of the value per eyelet, a fresh one for each `n`. -/
opaque freeLink (n : Nat) : BitVec 80

/-- A byte of a destination buffer whose content the spec leaves undefined (R266). -/
opaque freeByte (n : Nat) : Byte

/-- VERSION of the ROM image of the hoop (R485): each part's own. -/
opaque romVersion : BitVec 16

/-- The word of the base-die ROM that holds the pattern generator's seed of slice `i` (R521). -/
opaque romSeed (i : Nat) : BitVec 32

/-- What the sound logic of slice `i` answers to a pattern in its two capture ck (R520). -/
opaque sliceLogic (i j : Nat) (pattern : BitVec 30) : BitVec 32

end Sys2Proof.Config
end

