-- ==== Sys2Proof/Machine/Slice.lean ====
section
/-! DEFINITION. The slices of the logic self-test (R520, R521): the pattern generator, the signature register, and the ROM of seeds and
golden signatures. -/

namespace Sys2Proof.Machine

open Sys2Proof

/-- One step of a 32-bit LFSR with polynomial x^32 + x^22 + x^2 + x + 1 (R521). DESIGN CHOICE (log 150): it shifts up, bit 31 is its
output, and the output enters at bits 22, 2, 1 and 0. -/
def lfsr32 (x : BitVec 32) : BitVec 32 := (x <<< 1) ^^^ (if x.getLsbD 31 then 0x00400007#32 else 0)

/-- The seed of slice `i` in the ROM: nonzero (R521). -/
def sliceSeed (i : Nat) : BitVec 32 := if Config.romSeed i = 0 then 1 else Config.romSeed i

/-- The 30 ck of shift of one pattern (R520): the bits that the generator gives, and the generator after it. -/
def shiftPattern (g : BitVec 32) : BitVec 30 × BitVec 32 :=
  (List.range 30).foldl (fun x _ => ((x.1 <<< 1) ||| (if x.2.getLsbD 31 then 1 else 0), lfsr32 x.2)) (0, g)

/-- The 2 ck of capture of pattern `n` into the signature register `r` (R520). The slice answers pattern `p` as sound logic does, but
for the differences `d`, which number the captures of a slice from 0. -/
def capturePattern (i : Nat) (d : SliceDiff) (n : Nat) (p : BitVec 30) (r : BitVec 32) : BitVec 32 :=
  let r := lfsr32 r ^^^ (Config.sliceLogic i 0 p ^^^ Sparse.get 0 d (2 * n))
  lfsr32 r ^^^ (Config.sliceLogic i 1 p ^^^ Sparse.get 0 d (2 * n + 1))

/-- Generator and signature register after the patterns `ns` of slice `i`. -/
def slicePatterns (i : Nat) (d : SliceDiff) (ns : List Nat) (x : BitVec 32 × BitVec 32) : BitVec 32 × BitVec 32 :=
  ns.foldl (fun x n => ((shiftPattern x.1).2, capturePattern i d n (shiftPattern x.1).1 x.2)) x

/-- The signature of slice `i` after its 1,000 patterns: the register starts from 0 (R520, R521). -/
def sliceSignature (i : Nat) (d : SliceDiff) : BitVec 32 := (slicePatterns i d (List.range 1000) (sliceSeed i, 0)).2

/-- The golden signature of slice `i` in the ROM: that of sound logic (R521). -/
def goldenSignature (i : Nat) : BitVec 32 := sliceSignature i []

/-- The signature of a run of slice `i` matches (R520, R523). -/
def slicePasses (i : Nat) (d : SliceDiff) : Bool := d.isEmpty || sliceSignature i d == goldenSignature i

end Sys2Proof.Machine
end

