-- ==== Sys2Proof/Machine/Ops.lean ====
section
/-! DEFINITION. Shared operations over the state: channels, contexts, counters, the fault log (R466, R469), stored
codewords and refresh accounting (R61). -/

namespace Sys2Proof.Machine

open Sys2Proof

/-- The outcome of every command of this block. -/
abbrev Res := Host.Outcome State Fault Refusal

/-! ## Channels and contexts -/

/-- Channel `ch` (R20). -/
def State.chan (s : State) (ch : Nat) : Chan := Sparse.get {} s.chans ch

/-- Change channel `ch`. -/
def State.modChan (ch : Nat) (f : Chan → Chan) (s : State) : State :=
  { s with chans := Sparse.modify {} s.chans ch f }

/-- Context `n`. -/
def State.ctx (s : State) (n : Nat) : Ctx := Sparse.get {} s.ctxs n

/-- Change context `n`. -/
def State.modCtx (n : Nat) (f : Ctx → Ctx) (s : State) : State :=
  { s with ctxs := Sparse.modify {} s.ctxs n f }

/-! ## Global time (R35, R406) -/

/-- Global time at local ck `t`: the local count plus the device's offset, which is held in units of 2^-10 ck. -/
def State.gtOf (s : State) (t : Nat) : Nat := (((t : Int) * 1024 + s.tor.off) / 1024).toNat

/-- Global time now. -/
def State.gt (s : State) : Nat := s.gtOf s.now

/-- The first local ck at which global time is at least `g`. -/
def State.localOf (s : State) (g : Nat) : Nat := (((g : Int) * 1024 - s.tor.off + 1023) / 1024).toNat

/-- The local ck of the last multiple of `p` in global time, and of the first one after local ck `t`. -/
def State.lastGrid (s : State) (p : Nat) : Nat := s.localOf (s.gt / p * p)
def State.nextGrid (s : State) (p t : Nat) : Nat := s.localOf ((s.gtOf t / p + 1) * p)

/-- An output leaves the block. -/
def State.emit (o : Out) (s : State) : State := { s with out := s.out ++ [o] }

/-- Saturating sum. -/
def satAdd (cap a b : Nat) : Nat := min (a + b) cap

/-- The channels of the member (R1). -/
def State.channels (s : State) : List Nat := List.range s.members

/-! ## Counters (R531 to R537) -/

/-- Fields of CNT_CFGn (R530). -/
def cfgEn (c : Nat) : Bool := bit c 31
def cfgChain (c : Nat) : Bool := bit c 30
def cfgWindow (c : Nat) : Bool := bit c 29
def cfgZero (c : Nat) : Bool := bit c 28
def cfgQual (c : Nat) : Nat := bits c 27 16
def cfgEvent (c : Nat) : Nat := bits c 11 0

/-- Counter `n` exists on this member (R1): 8 per bobbin from 0 on, and the 64 of the device from 1,024 on. -/
def State.hasCounter (s : State) (n : Nat) : Bool := n < 8 * s.members || (1024 ≤ n && n < 1088)

/-- Some latch of a counter is open (R538). -/
def Counter.latched (c : Counter) : Bool := c.l0.isSome || c.l2.isSome || c.ls.isSome || c.lp.isSome

/-- Add `w` to a counter (R536, R538): the new counter, and whether it passed 2^48 - 1. -/
def Counter.add (c : Counter) (w : Nat) : Counter × Bool :=
  if cfgWindow c.cfg then ({ c with acc := c.acc + w }, false)
  else
    let lo := c.val % 2 ^ 32 + w
    let carry := lo / 2 ^ 32
    let hi := c.val / 2 ^ 32 + (if c.latched then 0 else carry)
    ({ c with val := hi % 2 ^ 16 * 2 ^ 32 + lo % 2 ^ 32, held := if c.latched then c.held + carry else c.held,
              ovf := c.ovf || decide (hi ≥ 2 ^ 16) }, hi ≥ 2 ^ 16)

/-- Apply held carries (R538). -/
def Counter.applyHeld (c : Counter) : Counter × Bool :=
  let hi := c.val / 2 ^ 32 + c.held
  ({ c with val := hi % 2 ^ 16 * 2 ^ 32 + c.val % 2 ^ 32, held := 0, ovf := c.ovf || decide (hi ≥ 2 ^ 16) }, hi ≥ 2 ^ 16)

/-- Whether counter `n` takes an overflow of counter `n - 1` (R536): CHAIN_IN in force, or in force until the new
configuration that took effect in this ck. -/
def Counter.chains (c : Counter) (now : Nat) : Bool :=
  (cfgEn c.cfg && cfgChain c.cfg) || (c.oldChain && c.cfgAt == now)

/-- Put `r` (a counter and its overflow) at `n`, set OVF, and carry into an odd neighbour (R536). The number answered
counts the counters whose OVF was set from clear. -/
def Counters.put (k : Counters) (now n : Nat) (r : Counter × Bool) : Counters × Nat :=
  let old := (Sparse.get {} k.tab n).ovf
  let k1 := { k with tab := Sparse.set {} k.tab n r.1 }
  let logs := if r.2 && !old then 1 else 0
  let up := Sparse.get {} k1.tab (n + 1)
  if r.2 && n % 2 == 0 && up.chains now then
    let u := up.add 1
    ({ k1 with tab := Sparse.set {} k1.tab (n + 1) u.1 }, logs + (if u.2 && !up.ovf then 1 else 0))
  else (k1, logs)

/-- Count an event on every counter that selects it: `q` tests the qualifier, `bob` names the bobbin of a bobbin event. -/
def Counters.count (k : Counters) (now ev : Nat) (q : Nat → Bool) (bob : Option Nat) (w : Nat) : Counters × Nat :=
  (k.tab.map (·.1)).foldl (fun (a : Counters × Nat) n =>
    let c := Sparse.get {} a.1.tab n
    let mine := n ≥ 1024 || bob == some (n / 8)
    if cfgEn c.cfg && !cfgChain c.cfg && cfgEvent c.cfg == ev && q (cfgQual c.cfg) && mine && w != 0 then
      let r := a.1.put now n (c.add w)
      (r.1, a.2 + r.2)
    else a) (k, 0)

/-! ## Fault causes (R463, R550) and the fault log -/

/-- A cause: its class, source block and cause code (R461). -/
structure Cause where
  cls : Nat
  blk : Nat
  code : Nat
  deriving DecidableEq, Repr

def Cause.regAccess : Cause := ⟨0, 0x00, 0x01⟩
def Cause.regWriteIgnored : Cause := ⟨0, 0x00, 0x02⟩
def Cause.gradeExcursion : Cause := ⟨2, 0x00, 0x03⟩
def Cause.reserveLow : Cause := ⟨0, 0x00, 0x04⟩
def Cause.pinReadback : Cause := ⟨2, 0x00, 0x05⟩
def Cause.refclkLoss : Cause := ⟨4, 0x00, 0x06⟩
def Cause.logCorrupt : Cause := ⟨2, 0x01, 0x01⟩
def Cause.sensorFail : Cause := ⟨1, 0x02, 0x01⟩
def Cause.thermalRise : Cause := ⟨1, 0x02, 0x02⟩
def Cause.coolStuckHigh : Cause := ⟨1, 0x02, 0x03⟩
def Cause.coolStuckLow : Cause := ⟨2, 0x02, 0x04⟩
def Cause.tdFault : Cause := ⟨2, 0x02, 0x05⟩
def Cause.thermalTrip : Cause := ⟨4, 0x02, 0x06⟩
def Cause.thermalLogFull : Cause := ⟨1, 0x02, 0x07⟩
def Cause.seqRail : Cause := ⟨2, 0x03, 0x01⟩
def Cause.seqOrder : Cause := ⟨2, 0x03, 0x02⟩
def Cause.avsFail : Cause := ⟨2, 0x03, 0x03⟩
def Cause.canaryNone : Cause := ⟨1, 0x03, 0x04⟩
def Cause.retentionLost : Cause := ⟨2, 0x03, 0x05⟩
def Cause.saveIncomplete : Cause := ⟨3, 0x03, 0x06⟩
def Cause.saveRestored : Cause := ⟨1, 0x03, 0x07⟩
def Cause.holdupFail : Cause := ⟨2, 0x03, 0x08⟩
def Cause.restoreRecord : Cause := ⟨2, 0x03, 0x09⟩
def Cause.otpEmpty : Cause := ⟨2, 0x04, 0x01⟩
def Cause.otpMarginal : Cause := ⟨1, 0x04, 0x02⟩
def Cause.otpStrengthened : Cause := ⟨0, 0x04, 0x03⟩
def Cause.otpVerifyFail : Cause := ⟨2, 0x04, 0x04⟩
def Cause.lockedIncomplete : Cause := ⟨2, 0x04, 0x05⟩
def Cause.lcTransition : Cause := ⟨0, 0x04, 0x06⟩
def Cause.tapGated : Cause := ⟨0, 0x04, 0x07⟩
def Cause.identityEmpty : Cause := ⟨2, 0x04, 0x08⟩
def Cause.overrideFull : Cause := ⟨2, 0x04, 0x09⟩
def Cause.returnedPurge : Cause := ⟨0, 0x04, 0x0A⟩
def Cause.sliceMismatch : Cause := ⟨1, 0x0F, 0x01⟩
def Cause.bobbinRetire : Cause := ⟨3, 0x0F, 0x02⟩
def Cause.lockstep : Cause := ⟨3, 0x0F, 0x03⟩
def Cause.bistLate : Cause := ⟨1, 0x0F, 0x04⟩
def Cause.laneDead : Cause := ⟨2, 0x05, 0x01⟩
def Cause.lanePolarity : Cause := ⟨0, 0x05, 0x02⟩
def Cause.laneOrder : Cause := ⟨0, 0x05, 0x03⟩
def Cause.laneMiswired : Cause := ⟨2, 0x05, 0x04⟩
def Cause.laneGroupDegraded : Cause := ⟨2, 0x05, 0x05⟩
def Cause.laneGroupDown : Cause := ⟨2, 0x05, 0x06⟩
def Cause.rxWindow : Cause := ⟨2, 0x05, 0x07⟩
def Cause.torStrap : Cause := ⟨2, 0x06, 0x01⟩
def Cause.torFreq : Cause := ⟨2, 0x06, 0x02⟩
def Cause.torMiscable : Cause := ⟨2, 0x06, 0x03⟩
def Cause.torLinkFail : Cause := ⟨2, 0x06, 0x04⟩
def Cause.timeAlign : Cause := ⟨2, 0x06, 0x05⟩
def Cause.timeConflict : Cause := ⟨2, 0x06, 0x06⟩
def Cause.timeHoldover : Cause := ⟨2, 0x06, 0x07⟩
def Cause.startDomain : Cause := ⟨2, 0x06, 0x08⟩
def Cause.startLate : Cause := ⟨2, 0x06, 0x09⟩
def Cause.proxyLost : Cause := ⟨2, 0x06, 0x0A⟩
def Cause.cntOverflow : Cause := ⟨0, 0x07, 0x01⟩
def Cause.crcAbandoned : Cause := ⟨0, 0x07, 0x02⟩
def Cause.ctxHalt : Cause := ⟨3, 0x08, 0x01⟩
def Cause.ctxDup : Cause := ⟨1, 0x08, 0x02⟩
def Cause.dbMismatch : Cause := ⟨1, 0x08, 0x03⟩
def Cause.starved : Cause := ⟨0, 0x08, 0x04⟩
def Cause.hostLinkDown : Cause := ⟨2, 0x08, 0x05⟩
def Cause.hoopWatchdog : Cause := ⟨2, 0x09, 0x01⟩
def Cause.hoopFallback : Cause := ⟨2, 0x09, 0x02⟩
def Cause.fwFallback : Cause := ⟨2, 0x09, 0x03⟩
def Cause.checkerInternal : Cause := ⟨2, 0x0A, 0x01⟩
def Cause.contractBreak : Cause := ⟨2, 0x0A, 0x02⟩
def Cause.breakStop : Cause := ⟨3, 0x0A, 0x03⟩
def Cause.beatLate : Cause := ⟨3, 0x0A, 0x04⟩
def Cause.stagingData : Cause := ⟨3, 0x0A, 0x05⟩
def Cause.cardUncorrectable : Cause := ⟨3, 0x0A, 0x06⟩
def Cause.throttleStop : Cause := ⟨3, 0x0A, 0x07⟩
def Cause.releaseOverlap : Cause := ⟨2, 0x0B, 0x01⟩
def Cause.vectorHeader : Cause := ⟨2, 0x0B, 0x02⟩
def Cause.sourceLate : Cause := ⟨2, 0x0B, 0x03⟩
def Cause.vectorOverflow : Cause := ⟨2, 0x0B, 0x04⟩
def Cause.sourcePanic : Cause := ⟨0, 0x0B, 0x05⟩
def Cause.captureReject : Cause := ⟨2, 0x0C, 0x01⟩
def Cause.forwardLost : Cause := ⟨2, 0x0C, 0x02⟩
def Cause.dataUncorrectable : Cause := ⟨2, 0x0D, 0x01⟩
def Cause.recurrentWord : Cause := ⟨1, 0x0D, 0x02⟩
def Cause.privCorrected : Cause := ⟨1, 0x0D, 0x03⟩
def Cause.remapFull : Cause := ⟨2, 0x0D, 0x04⟩
def Cause.remapFullAgain : Cause := ⟨1, 0x0D, 0x04⟩
def Cause.remapEntryLost : Cause := ⟨1, 0x0D, 0x05⟩
def Cause.scrubPoisoned : Cause := ⟨2, 0x0D, 0x06⟩
def Cause.scrubLate : Cause := ⟨1, 0x0D, 0x07⟩
def Cause.erasure : Cause := ⟨2, 0x0D, 0x08⟩
def Cause.erasureLast : Cause := ⟨2, 0x0D, 0x09⟩
def Cause.erasureRetire : Cause := ⟨3, 0x0D, 0x0A⟩
def Cause.storeUncorrectable : Cause := ⟨2, 0x0D, 0x0B⟩
def Cause.remapReload : Cause := ⟨2, 0x0D, 0x0C⟩
def Cause.eyeletSuspect : Cause := ⟨1, 0x0E, 0x01⟩
def Cause.eyeletDarned : Cause := ⟨1, 0x0E, 0x02⟩
def Cause.spareSpent : Cause := ⟨1, 0x0E, 0x03⟩
def Cause.sparesLast : Cause := ⟨2, 0x0E, 0x04⟩
def Cause.darnInvalid : Cause := ⟨1, 0x0E, 0x05⟩
def Cause.darnConflict : Cause := ⟨1, 0x0E, 0x06⟩
def Cause.caFail : Cause := ⟨3, 0x0E, 0x07⟩
def Cause.clockFail : Cause := ⟨3, 0x0E, 0x08⟩
def Cause.rowRepairInvalid : Cause := ⟨2, 0x0E, 0x09⟩
def Cause.calUnsettled : Cause := ⟨1, 0x0E, 0x0A⟩
def Cause.eyeRange : Cause := ⟨1, 0x0E, 0x0B⟩

/-- The causes whose occurrences never merge (R466): CONTRACT_BREAK, CTX_HALT and THERMAL_TRIP. -/
def Cause.noMerge (c : Cause) : Bool :=
  (c.blk == 0x0A && c.code == 0x02) || (c.blk == 0x08 && c.code == 0x01) || (c.blk == 0x02 && c.code == 0x06)

/-- An occurrence: its cause, INSTANCE, TIME and detail words (R464, R465), and whether it holds a condition (R467). -/
structure Occurrence where
  cause : Cause
  inst : Nat := 0
  time : Nat := 0
  d0 : Nat := 0
  d1 : Nat := 0
  d2 : Nat := 0
  active : Bool := false

/-- An entry matches an occurrence (R466): same block, cause and INSTANCE. -/
def FltEntry.matches (e : FltEntry) (o : Occurrence) : Bool :=
  e.blk == o.cause.blk && e.cause == o.cause.code && e.inst == o.inst

/-- The index with the greatest or least LSN among the entries that `f` selects. -/
def pickLsn (newest : Bool) (l : List (Nat × FltEntry)) (f : FltEntry → Bool) : Option (Nat × FltEntry) :=
  (l.filter fun e => f e.2).foldl (fun a e => match a with
    | none => some e
    | some x => if (if newest then x.2.lsn < e.2.lsn else e.2.lsn < x.2.lsn) then some e else some x) none

/-- Enter a new entry of class `cls` (R464, R469): the lowest free index, else in place of the oldest lower entry with
no active cause, else the occurrence is lost. -/
def Faults.newEntry (f : Faults) (o : Occurrence) (cls : Nat) (escalated : Bool) : Faults :=
  let e : FltEntry := { cls, blk := o.cause.blk, cause := o.cause.code, inst := o.inst, active := o.active, escalated,
                        time := o.time, d0 := o.d0, d1 := o.d1, d2 := o.d2, lsn := f.nextLsn }
  match (List.range 128).find? fun i => !f.log.any (·.1 == i) with
  | some i => { f with log := Sparse.insert f.log i e, nextLsn := f.nextLsn + 1 }
  | none =>
    match pickLsn false f.log fun x => x.cls < cls && !x.active with
    | some (i, x) => { f with log := Sparse.insert f.log i e, nextLsn := f.nextLsn + 1, lost := satAdd 0x3FF f.lost 1,
                              lostMax := max f.lostMax x.cls }
    | none => { f with lost := satAdd 0x3FF f.lost 1, lostMax := max f.lostMax cls }

/-- Enter an occurrence (R466). -/
def Faults.enter (f : Faults) (o : Occurrence) : Faults :=
  let own := o.cause.cls
  let f := if o.active then { f with log := f.log.map fun e => if e.2.matches o then (e.1, { e.2 with active := true }) else e }
    else f
  match pickLsn true f.log fun e => e.matches o && !e.ack with
  | none => f.newEntry o own false
  | some (i, e) =>
    if f.escalate then
      let up := max own (e.cls + 1)
      let cls := min up (if own == 4 then 4 else 3)
      f.newEntry o cls (cls > own)
    else if o.cause.noMerge then f.newEntry o own false
    else
      { f with log := Sparse.insert f.log i { e with count := satAdd 0xFFFF e.count 1, cls := max e.cls own,
                                                     active := e.active || o.active } }

/-- The condition of a cause ends (R467). -/
def State.condEnd (blk code inst : Nat) (s : State) : State :=
  { s with flt := { s.flt with log := s.flt.log.map fun e =>
      if e.2.blk == blk && e.2.cause == code && e.2.inst == inst then (e.1, { e.2 with active := false }) else e } }

/-- Enter an occurrence in the log and count it under FAULTS (R531), without the counters' own overflow report. -/
def State.logRaw (o : Occurrence) (s : State) : State :=
  let k := s.cnt.count s.now 0x112 (fun q => bit q 3 || q % 8 == o.cause.cls) none 1
  { s with flt := s.flt.enter { o with time := s.gtOf o.time }, cnt := k.1 }

/-- Log CNT_OVERFLOW once for each of `n` counters (R537). -/
def State.logOverflows : Nat → State → State
  | 0, s => s
  | n + 1, s => State.logOverflows n (s.logRaw { cause := .cntOverflow, time := s.now })

/-- Count an event (R531, R532); a RETIRED bobbin counts nothing. -/
def State.count (ev : Nat) (bob : Option Nat) (w : Nat) (s : State) (q : Nat → Bool := fun _ => true) : State :=
  let dead : Bool := match bob with | some b => (s.chan b).func == .retired | none => false
  if dead then s
  else
    let r := s.cnt.count s.now ev q bob w
    { s with cnt := r.1 }.logOverflows r.2

/-- Log an occurrence (R460, R466), with the local ck of its TIME given. -/
def State.logAt (o : Occurrence) (s : State) : State :=
  let r := s.cnt.count s.now 0x112 (fun q => bit q 3 || q % 8 == o.cause.cls) none 1
  ({ s with flt := s.flt.enter { o with time := s.gtOf o.time }, cnt := r.1 }).logOverflows r.2

/-- Log an occurrence now. -/
def State.log (c : Cause) (inst : Nat) (s : State) (d0 d1 d2 : Nat := 0) (active : Bool := false) : State :=
  s.logAt { cause := c, inst, time := s.now, d0, d1, d2, active }

/-- The slot of an entry of which two halves disagree becomes a LOG_CORRUPT entry (R470). -/
def FltEntry.corrupted (e : FltEntry) : FltEntry := { cls := 2, blk := 0x01, cause := 0x01, inst := 0, count := 0, corrupt := true, lsn := e.lsn }

/-- The entries `l` of the fault log mismatch their complements (R470). -/
def State.corruptLog (l : List Nat) (s : State) : State :=
  { s with flt := { s.flt with log := s.flt.log.map fun e => if l.contains e.1 then (e.1, e.2.corrupted) else e } }

/-- An access over BAR0 that is no aligned 32-bit one (R19): `low` is its offset within a word, `width` its bytes. -/
def badAccess (p : Path) (low width : Nat) : Bool := p == .bar0 && (low != 0 || width != 4)

/-- A read of another width or alignment completes with 0 and is logged (R19). -/
def State.badRead (p : Path) (s : State) : State := (s.log .regAccess 0).emit (.regData p 0)

/-- Log an ignored register write (R463). -/
def State.writeIgnored (s : State) : State := s.log .regWriteIgnored 0

/-! ## The stored array (R24, R256) -/

/-- Device codeword address of a channel codeword address (R26). -/
def devAddr (ch a : Nat) : Nat := ch * 2 ^ 26 + a

/-- The bank of a codeword that the array does not list was last written with zero data, mark 0 (whose codeword is 0, R273), by the
purge of R517. -/
def Memory.zeroBank (m : Memory) (d : Nat) : Bool := (Sparse.get 0 m.zeroed (d / 2 ^ 26)).getLsbD (d / 2 ^ 21 % 32)

/-- A codeword that the array does not list holds zero data, written over sound links. -/
def Memory.holdsZero (m : Memory) (d : Nat) : Bool := m.zeroBank d && (Sparse.find? m.dirty (d / 2 ^ 26)).isNone

/-- The canonical form: device codeword addresses strictly rising, and no entry equal to what an unlisted address reads as. -/
def Memory.wf (m : Memory) : Bool :=
  Sparse.sorted none m.cells && (m.cells.all fun e => !(m.holdsZero e.1 && e.2 == 0)) && Sparse.wf 0 m.zeroed &&
    Sparse.sorted none m.dirty && Sparse.wf 0 m.lost

/-- Zero data that reached address `d` over links of which some fail: a free bit at every failing position (R592). -/
def Memory.zeroWord (m : Memory) (d : Nat) : Codeword :=
  match Sparse.find? m.dirty (d / 2 ^ 26) with
  | some (n, bad) => Config.freeLink (n + d % 2 ^ 26) &&& bad
  | none => 0

/-- The codeword at device codeword address `d`; where nothing has been written since the bank's content was lost, a free
value. -/
def Memory.read (m : Memory) (d : Nat) : Codeword :=
  match Sparse.find? m.cells d with
  | some c => c
  | none => if m.zeroBank d then m.zeroWord d else Config.freeCodeword (m.lostAll + Sparse.get 0 m.lost (d / 2 ^ 21)) d

/-- Store a codeword; in a bank that holds zeros unless written, a zero needs no entry. -/
def Memory.write (m : Memory) (d : Nat) (c : Codeword) : Memory :=
  if m.holdsZero d && c == 0 then { m with cells := Sparse.erase m.cells d } else { m with cells := Sparse.insert m.cells d c }

/-- The `n` codewords from `d` on hold `w i`, for each offset `i`: zero data as the links carried them. -/
def Memory.fill (m : Memory) (d n : Nat) (w : Nat → Codeword) : Memory :=
  let new := ((List.range n).filter fun i => !(m.holdsZero (d + i) && w i == 0)).map fun i => (d + i, w i)
  let below := m.cells.filter fun (x : Nat × Codeword) => decide (x.1 < d)
  let above := m.cells.filter fun (x : Nat × Codeword) => decide (d + n ≤ x.1)
  { m with cells := below ++ (new ++ above) }

/-- The content of channel `ch` is lost: every codeword of banks that `keep` does not name is arbitrary again. -/
def Memory.lose (m : Memory) (ch : Nat) (keep : Nat → Bool) : Memory :=
  let left (z : BitVec 32) : BitVec 32 := BitVec.ofFnLE fun (b : Fin 32) => keep b && z.getLsbD b
  let lose (l : List (Nat × Nat)) (b : Nat) : List (Nat × Nat) := if keep b then l else Sparse.modify 0 l (ch * 32 + b) (· + 1)
  { m with cells := m.cells.filter fun x => !(x.1 / 2 ^ 26 == ch) || keep (x.1 / 2 ^ 21 % 32),
           zeroed := Sparse.modify 0 m.zeroed ch left, lost := (List.range 32).foldl lose m.lost }

/-- The content of the whole array is lost. -/
def Memory.loseAll (m : Memory) : Memory := { lost := m.lost, lostAll := m.lostAll + 1 }

/-- Every codeword of channel `ch` holds zero data, sent over links that fail at the positions `bad`; `n` numbers the free values of
those positions (R592). -/
def Memory.zeroAll (m : Memory) (ch n : Nat) (bad : Codeword) : Memory :=
  { m with cells := m.cells.filter fun x => !(x.1 / 2 ^ 26 == ch), zeroed := Sparse.set 0 m.zeroed ch (BitVec.allOnes 32),
           dirty := if bad = 0 then Sparse.erase m.dirty ch else Sparse.insert m.dirty ch (n, bad) }

/-- The codeword at address `a` of channel `ch`. -/
def State.cell (s : State) (ch a : Nat) : Codeword := s.dram.read (devAddr ch a)

/-- Store a codeword at address `a` of channel `ch`. -/
def State.putCell (ch a : Nat) (c : Codeword) (s : State) : State := { s with dram := s.dram.write (devAddr ch a) c }

/-- The content of a channel is lost, but for the banks that `keep` names. -/
def State.loseCells (ch : Nat) (keep : Nat → Bool) (s : State) : State := { s with dram := s.dram.lose ch keep }

/-- All content is lost. -/
def State.loseAll (s : State) : State := { s with dram := s.dram.loseAll }

/-! ## Privileged regions (R29) -/

/-- Rows of bank 31 in the privileged region. -/
def privRows (size : Nat) : Nat := if size = 0 then 0 else 16 * 2 ^ size

/-- First codeword address of a privileged region, 2^26 when there is none. -/
def privBase (size : Nat) : Nat := 2 ^ 26 - privRows size * 256

/-! ## Refresh accounting (R61 to R63) -/

/-- The value D_b at ck `t`: the value held at `since` plus the band factor per ck (R61). -/
def Refresh.debtAt (r : Refresh) (t b : Nat) : Int :=
  r.debt.getD b 0 + (r.band : Int) * ((t : Int) - (r.since : Int))

/-- Every D_b brought forward to ck `t`. -/
def Refresh.bring (r : Refresh) (t : Nat) : Refresh :=
  { r with debt := (List.range 32).map fun b => r.debtAt t b, since := t }

/-- Whole refreshes bank `b` owes at `t`. -/
def Refresh.owes (r : Refresh) (t b : Nat) : Int := (r.debtAt t b) / 24960

/-- The largest number owed over all banks. -/
def Refresh.maxOwed (r : Refresh) (t : Nat) : Int :=
  (List.range 32).foldl (fun a b => max a (r.owes t b)) (r.owes t 0)

/-- One refresh credit to every bank that `f` names, at ck `t` (R62): the accounting after it, whether some credit was
taken, and whether some was skipped. -/
def Refresh.credit (r : Refresh) (t : Nat) (f : Nat → Bool) : Refresh × Bool × Bool :=
  let r := r.bring t
  let takes (b : Nat) : Bool := f b && decide (r.debt.getD b 0 ≥ -174720)
  let skips (b : Nat) : Bool := f b && decide (r.debt.getD b 0 < -174720)
  ({ r with debt := (List.range 32).map fun b => if takes b then r.debt.getD b 0 - 24960 else r.debt.getD b 0 },
   (List.range 32).any takes, (List.range 32).any skips)

end Sys2Proof.Machine
end

