-- ==== Sys2Proof/Machine/Link.lean ====
section
/-! DEFINITION. Torus links (12): packet forms (R398, R399, R415), routing (R400), the port queues and the replay buffer
(R395 to R397). -/

namespace Sys2Proof.Machine

open Sys2Proof

/-- Port `p`: N 0, E 1, S 2, W 3; 4 stands for a packet that starts here. -/
def State.port (s : State) (p : Nat) : Port := Sparse.get {} s.tor.ports p
def State.modPort (p : Nat) (f : Port → Port) (s : State) : State :=
  { s with tor := { s.tor with ports := Sparse.modify {} s.tor.ports p f } }

def opposite (p : Nat) : Nat := (p + 2) % 4
def isX (p : Nat) : Bool := p % 2 == 1

/-- A port that is not UP is unusable (R393). -/
def State.usable (s : State) (p : Nat) : Bool := p < 4 && (s.port p).state == .up

/-! ## Packet words -/

/-- The link words of a packet of `n` words with its header and payload (R398). -/
def packWords (n hdr : Nat) (payload : List Word) : List (BitVec 64) :=
  let p (i : Nat) : Nat := (payload.getD i 0).toNat
  (List.range n).map fun j =>
    if j = 0 then BitVec.ofNat 64 (hdr * 2 ^ 32 + p 0) else BitVec.ofNat 64 (p (2 * j) * 2 ^ 32 + p (2 * j - 1))

/-- The header of a packet (R398). -/
def packHeader (typ dx dy detour hops tag : Nat) : Nat :=
  typ * 2 ^ 29 + dx * 2 ^ 23 + dy * 2 ^ 17 + detour * 2 ^ 15 + hops * 2 ^ 8 + tag

/-- Header and payload words of link words. -/
def hdrOf (ws : List (BitVec 64)) : Nat := (ws.getD 0 0).toNat / 2 ^ 32
def payOf (ws : List (BitVec 64)) (i : Nat) : Nat :=
  let w := (ws.getD ((i + 1) / 2) 0).toNat
  if i = 0 || i % 2 = 1 then w % 2 ^ 32 else w / 2 ^ 32

def hdrType (h : Nat) : Nat := bits h 31 29
def hdrX (h : Nat) : Nat := bits h 28 23
def hdrY (h : Nat) : Nat := bits h 22 17
def hdrDetour (h : Nat) : Nat := bits h 16 15
def hdrHops (h : Nat) : Nat := bits h 14 8
def hdrTag (h : Nat) : Nat := bits h 7 0

/-- Link words of a PROXY packet (R415). -/
def proxyLen (op : Nat) : Nat := ([1, 2, 2, 2, 2, 3, 11, 10] : List Nat).getD op 1

/-- Link words of a packet, by its header and payload word 0 (R399). -/
def packLen (h p0 : Nat) : Nat :=
  match hdrType h with
  | 1 => 6
  | 2 => 1
  | 3 => 2
  | 4 => proxyLen (p0 / 2 ^ 28)
  | _ => 1

/-! ## Routing (R400) -/

/-- Where a packet goes: delivered here, sent on a port with its DETOUR and HOPS, or discarded. -/
inductive Route where
  | deliver
  | out (port detour hops : Nat)
  | discard
  deriving DecidableEq, Repr

/-- The shortest port of each dimension. -/
def shortX (x w dx : Nat) : Nat := if (dx + w - x) % w ≤ w / 2 then 1 else 3
def shortY (y h dy : Nat) : Nat := if (dy + h - y) % h ≤ h / 2 then 2 else 0

/-- R400, for a packet that arrives on port `a` (4: local). -/
def State.route (s : State) (a hdr : Nat) : Route :=
  let t := s.tor
  let w := t.wM1 + 1
  let h := t.hM1 + 1
  let dx := hdrX hdr
  let dy := hdrY hdr
  let dt := hdrDetour hdr
  if dx = t.x && dy = t.y then .deliver
  else
    let sx := shortX t.x w dx
    let sy := shortY t.y h dy
    let q := if dt = 1 && a < 4 && isX a && t.x != dx then opposite a
      else if dt = 1 && a < 4 && !isX a && t.y != dy then opposite a
      else if t.x != dx && !(dt = 2 && t.y != dy) then sx
      else sy
    let alt := if isX q then [2, 0, opposite q] else [1, 3, opposite q]
    let pick : Option (Nat × Nat) :=
      if s.usable q then some (q, 0)
      else (alt.find? fun p => s.usable p && p != a).map fun p =>
        (p, if p = opposite q then 1 else if !isX q then 2 else 0)
    match pick with
    | none => .discard
    | some (p, d) =>
      if a = 4 then .out p d 0
      else if hdrHops hdr ≥ 95 then .discard
      else .out p d (hdrHops hdr + 1)

/-! ## Sending (R395, R397) -/

/-- A packet is discarded and counted (R397 to R400, R415). -/
def State.discardPacket (s : State) : State := s.count 0x10A none 1

/-- Send a packet's link words on a port: they take LSEQ numbers and enter the replay buffer (R395). -/
def State.launch (p : Nat) (ws : List (BitVec 64)) (s : State) : State :=
  let q := s.port p
  let s := s.modPort p fun q =>
    { q with txSeq := (q.txSeq + ws.length) % 2 ^ 16, lastAdv := if q.unacked.isEmpty then s.now else q.lastAdv,
             unacked := q.unacked ++ ws.zipIdx.map fun x => ((q.txSeq + x.2) % 2 ^ 16, x.1) }
  (s.emit (.packet p q.txSeq ws)).count 0x107 none ws.length fun k => bit k 2 || k % 4 == p

/-- The port may start a packet of `n` link words: UP, its frequency in tolerance (R390), and room in the replay buffer. -/
def Port.ready (q : Port) (n : Nat) : Bool := q.state == .up && !q.freq && q.unacked.length + n ≤ 4096

/-- Start what the queues of port `p` hold and the port can take: the management queue, then the forwarding queue. -/
def State.flushPort : Nat → Nat → State → State
  | 0, _, s => s
  | n + 1, p, s =>
    let q := s.port p
    match q.mgmt, q.fwdq with
    | x :: m, _ =>
      if q.ready x.words.length then State.flushPort n p ((s.modPort p fun q => { q with mgmt := m }).launch p x.words) else s
    | [], x :: f =>
      if q.ready x.words.length then State.flushPort n p ((s.modPort p fun q => { q with fwdq := f }).launch p x.words) else s
    | [], [] => s

/-- A packet enters the queue of its type at port `p` and leaves when the port can take it (R397). -/
def State.enqueue (p : Nat) (ws : List (BitVec 64)) (s : State) : State :=
  let x : PktQ := { words := ws, since := s.now }
  let s := s.modPort p fun q =>
    if hdrType (hdrOf ws) = 1 then { q with fwdq := q.fwdq ++ [x] } else { q with mgmt := q.mgmt ++ [x] }
  let q := s.port p
  State.flushPort (q.mgmt.length + q.fwdq.length) p s

/-- A packet with the header fields of `ws` changed for its next hop. -/
def withHop (ws : List (BitVec 64)) (detour hops : Nat) : List (BitVec 64) :=
  let h := hdrOf ws
  let h' := packHeader (hdrType h) (hdrX h) (hdrY h) detour hops (hdrTag h)
  match ws with
  | [] => []
  | w :: r => BitVec.ofNat 64 (h' * 2 ^ 32 + w.toNat % 2 ^ 32) :: r

/-- Route a packet on (R400). A packet for this device is left to the caller; one that also starts here comes back as a command
with port 4. -/
def State.forwardOn (a : Nat) (ws : List (BitVec 64)) (s : State) : State :=
  match s.route a (hdrOf ws) with
  | .deliver => if a = 4 then s.emit (.packet 4 0 ws) else s
  | .out p d h => s.enqueue p (withHop ws d h)
  | .discard => s.discardPacket

/-- Send a packet that starts here to device (x, y). -/
def State.sendPacket (typ x y tag n : Nat) (payload : List Word) (s : State) : State :=
  s.forwardOn 4 (packWords n (packHeader typ x y 0 0 tag) payload)

/-- Send a START on every UP port but `a` (R412, R413). -/
def State.flood (a : Nat) (ws : List (BitVec 64)) (s : State) : State :=
  (List.range 4).foldl (fun s p => if p != a && s.usable p then s.enqueue p ws else s) s

end Sys2Proof.Machine
end

