-- ==== Sys2Proof/Machine/Commit.lean ====
section
/-! DEFINITION. Host memory accesses (R151, R414) and the commit of completion records (R153 to R156). -/

namespace Sys2Proof.Machine

open Sys2Proof

/-! ## Host memory (R151, R414 to R416) -/

/-- The device may reach host memory now: over its own link, or through the proxy it is bound to (R414, R417). -/
def State.hostUp (s : State) : Bool :=
  s.host.linkUp && !s.host.d3hot && s.pwr.mode != .save && (s.tor.pcieEn || (s.tor.boundTo.isSome && !s.host.proxyLost))

/-- The proxy channel with device `id` (R416). -/
def State.px (s : State) (id : Nat) : PxChan := Sparse.get {} s.tor.px id
def State.modPx (id : Nat) (f : PxChan → PxChan) (s : State) : State :=
  { s with tor := { s.tor with px := Sparse.modify {} s.tor.px id f } }

/-- Send a PROXY packet to device `id` with its payload words. -/
def State.pxPacket (id op : Nat) (ws : List Word) (s : State) : State := s.sendPacket 4 (id % 64) (id / 64) 0 (proxyLen op) ws

/-- Payload word 0 of a PROXY packet (R415). -/
def pxWord (op pseq : Nat) : Word := BitVec.ofNat 32 (op * 2 ^ 28 + pseq)

/-- Send a numbered PROXY packet to device `id` (R415, R416): `ws` are words 1 onward. At most 256 packets are
unacknowledged; further ones wait their turn. -/
def State.pxSend (id op : Nat) (ws : List Word) (s : State) : State :=
  let c := s.px id
  let p : PxPkt := { pseq := c.tx, op, words := pxWord op c.tx :: ws }
  let s := s.modPx id fun c => { c with tx := (c.tx + 1) % 2 ^ 16, unacked := c.unacked ++ [p],
                                        adv := if c.unacked.isEmpty then s.now else c.adv,
                                        prog := if c.unacked.isEmpty then s.now else c.prog }
  if c.unacked.length < 256 then s.pxPacket id op p.words else s

/-- 32-bit words of a byte string, the last one filled with zero bytes. -/
def wordsOf (data : List Byte) : List Word :=
  (List.range ((data.length + 3) / 4)).map fun i => BitVec.ofNat 32 (leAt data (4 * i) 4)

/-- The low and high words of an address. -/
def addrWords (a : Nat) : List Word := [BitVec.ofNat 32 a, BitVec.ofNat 32 (a / 2 ^ 32)]

/-- The writes of a proxied device: MEM_WR packets of at most 64 bytes in address order (R414, R415). -/
def State.proxyWrite (id addr : Nat) (data : List Byte) (s : State) : State :=
  (List.range ((data.length + 63) / 64)).foldl (fun s i =>
    let d := (data.drop (64 * i)).take 64
    s.pxSend id 6 (addrWords (addr + 64 * i) ++ [BitVec.ofNat 32 d.length] ++ wordsOf d)) s

/-- A posted write to host memory (R151, R531). -/
def State.hostWrite (addr : Nat) (data : List Byte) (s : State) : State :=
  if !s.hostUp then s
  else
    let s := if s.tor.pcieEn then s.emit (.write addr data) else s.proxyWrite (s.tor.boundTo.getD 0) addr data
    s.count 0x10D none data.length

/-- A read of host memory leaves the device: a read request, or MEM_RD packets of at most 4 KiB (R414, R416). -/
def State.hostRead (addr len : Nat) (s : State) : State :=
  if s.tor.pcieEn then s.emit (.read addr len)
  else
    (List.range ((len + 4095) / 4096)).foldl (fun s i =>
      s.pxSend (s.tor.boundTo.getD 0) 5
        (addrWords (addr + 4096 * i) ++ [BitVec.ofNat 32 (min 4096 (len - 4096 * i))])) s

/-! ## Completion records (R150 to R156) -/

/-- The 64-bit words of ring entry 0 and, for a 32-byte record, entry 1 (R150). -/
def recW0 (seq status : Nat) : Nat := seq % 2 ^ 48 + status * 2 ^ 48
def recW1 (seq info : Nat) : Nat := (2 ^ 48 - 1 - seq % 2 ^ 48) + info * 2 ^ 48

/-- Opcodes whose record is 32 bytes (R142). -/
def longRecord (op : Nat) : Bool := op == 0x20 || op == 0x40 || op == 0x41

/-- The opcode is READ, WRITE or FILL. -/
def isDaOp (op : Nat) : Bool := op == 0x10 || op == 0x11 || op == 0x12

/-- Host address of entry `i` of a completion ring (R139). -/
def ringAddr (ring ringLog2 i : Nat) : Nat := ring + 16 * (i % 2 ^ (ringLog2 + 1))

/-- Write a journalled record to its completion ring (R151): entry 1 before entry 0. A read of the entry that was written last confirms
it (R156). -/
def State.writeRecord (j : JRec) (s : State) : State :=
  let s := if j.long then
      s.hostWrite (ringAddr j.ring j.ringLog2 (j.idx + 1)) (leBytes 8 j.r0 ++ leBytes 8 j.r1) else s
  let s := s.hostWrite (ringAddr j.ring j.ringLog2 j.idx) (leBytes 8 j.w0 ++ leBytes 8 j.w1)
  if s.hostUp then s.hostRead (ringAddr j.ring j.ringLog2 j.idx) 16 else s

/-- Send the context's MSI-X message (R154). -/
def State.sendMsix (n : Nat) (s : State) : State :=
  if s.hostUp then
    ((s.emit (.msix n (s.ctx n).vec)).modCtx n fun c => { c with unsent := 0 }).count 0x111 none 1
  else s

/-- Granules of accepted descriptors of class `cls` on channel `ch` not yet issued (R269). -/
def State.daWaiting (s : State) (ch cls : Nat) : Nat :=
  s.ctxs.foldl (fun a x => x.2.acc.foldl (fun a d =>
    if isDaOp d.op && d.phase != .done && d.ch == ch && d.cls == cls then a + (d.total - d.issued) else a) a) 0

/-- INFO of a Direct Access record (R268). -/
def State.daInfo (s : State) (d : Desc) : Nat :=
  if d.status = 0 || d.status = 0x0042 then
    if d.status = 0x0042 then 0
    else
      (if d.poison then 1 else 0) + (if d.corrected then 2 else 0) + d.cls * 4 + (if d.shed then 16 else 0) +
        min (s.daWaiting d.ch d.cls / 1024) 0xFF * 256
  else 0

/-- The effect of a FILL commits (R257): one over every unprivileged row of a bank sets
the bank's INIT bit (R257) and ends its RETENTION_LOST (R448). -/
def Chan.fillInit (c : Chan) (first n : Nat) : Chan :=
  let covers (b : Nat) : Bool :=
    let rows := if b = 31 then 8192 - privRows c.priv else 8192
    first ≤ b * 2 ^ 19 && b * 2 ^ 19 + rows * 64 ≤ first + n
  let m : BitVec 32 := (List.range 32).foldl (fun v b => if covers b then v ||| (1#32 <<< b) else v) 0
  { c with da := { c.da with init := c.da.init ||| m }, retLost := c.retLost &&& ~~~m }

/-- The RETENTION_LOST condition of a channel ends with its last lost bank (R467). -/
def State.lostEnds (ch : Nat) (s : State) : State := if (s.chan ch).retLost == 0 then s.condEnd 0x03 0x05 ch else s

/-- What the commit of a descriptor with status 0 brings: the INIT bits that a FILL sets (R257). -/
def State.commitEffect (d : Desc) (s : State) : State :=
  if d.op = 0x12 && d.status = 0 then (s.modChan d.ch fun c => c.fillInit d.first d.total).lostEnds d.ch else s

/-- Commit the oldest accepted descriptor of context `n` when its effect is complete and the journal has room: the
record enters the journal, FRONTIER and CWI advance, and the record leaves for the ring (R153 to R156). -/
def State.commitOne (n : Nat) (s : State) : State :=
  let c := s.ctx n
  match c.acc with
  | [] => s
  | d :: rest =>
    if d.phase != .done || s.journal.length ≥ 2048 then s
    else
      let info := if isDaOp d.op then s.daInfo d else d.info
      let long := longRecord d.op
      let j : JRec := { ctx := n, seq := d.seq, idx := c.cwi, ring := c.cring, ringLog2 := c.ringLog2,
                        w0 := recW0 d.seq d.status, w1 := recW1 d.seq info, long,
                        r0 := d.result, r1 := 2 ^ 64 - 1 - d.result % 2 ^ 64 }
      let s := { s.commitEffect d with journal := s.journal ++ [j] }
      let s := s.modCtx n fun c => { c with acc := rest, frontier := d.seq, cwi := (c.cwi + if long then 2 else 1) % 2 ^ 32,
                                            unsent := c.unsent + 1,
                                            unsentSince := if c.unsent = 0 then s.now else c.unsentSince }
      let s := (s.writeRecord j).count 0x110 none 1 (fun q => q == n)
      let c := s.ctx n
      if c.irqEn && (c.unsent ≥ c.coalesce + 1 || bit d.flags 1) then s.sendMsix n else s

/-- Commit every descriptor of context `n` that can commit, in sequence order. -/
def State.commitAll : Nat → Nat → State → State
  | 0, _, s => s
  | k + 1, n, s => State.commitAll k n (s.commitOne n)

/-- The outcome of one accepted descriptor. -/
def Ctx.finish (c : Ctx) (seq status : Nat) (info result : Nat := 0) : Ctx :=
  { c with acc := c.acc.map fun d =>
      if d.seq == seq && d.phase != .done then { d with phase := .done, status, info, result } else d }

/-- A disable of the context is complete: the window no longer waits, or the CTX_DISABLE that asked for it does (R134, R137). -/
def State.disabled (n : Nat) (x : Nat × Option Nat) (s : State) : State :=
  match x.2 with
  | none => { s with host := { s.host with admBusy := s.host.admBusy.filter (· != n) } }
  | some q => s.modCtx x.1 fun c => c.finish q 0

/-- The disables that waited for the context's records take effect (R134, R137). DESIGN CHOICE (log 160): the halt cause goes with them. -/
def State.settleDisable (n : Nat) (s : State) : State :=
  let c := s.ctx n
  if c.disabling.isEmpty || !c.acc.isEmpty then s
  else
    let s := s.modCtx n fun c => { c with state := .disabled, haltCause := 0, fetched := 0, disabling := [] }
    c.disabling.foldl (fun s x => s.disabled n x) (s.condEnd 0x08 0x01 n)

/-- Commit what can commit on context `n`, then on the admin contexts whose CTX_DISABLE that completes, up to `k` deep. -/
def State.drainBy : Nat → Nat → State → State
  | 0, _, s => s
  | k + 1, n, s =>
    let s := State.commitAll ((s.ctx n).acc.length) n s
    let owners := if (s.ctx n).acc.isEmpty then (s.ctx n).disabling.map (·.1) else []
    owners.foldl (fun s o => State.drainBy k o s) (s.settleDisable n)

/-- Commit what can commit: the admin contexts may wait for one another. -/
def State.drain (n : Nat) (s : State) : State := State.drainBy 17 n s

/-- Complete an accepted descriptor with its outcome and commit what can commit. -/
def State.finish (n seq status : Nat) (s : State) (info result : Nat := 0) : State :=
  (s.modCtx n fun c => c.finish seq status info result).drain n

/-- Commits that waited for room in the journal (R156). -/
def State.drainEvery (s : State) : State := (s.ctxs.map (·.1)).foldl (fun s n => s.drain n) s

/-! ## Halting a context (R134, R138) -/

/-- Halt context `n` with a cause code of R138 and log CTX_HALT. -/
def State.halt (n cause : Nat) (s : State) : State :=
  let ci := (s.ctx n).ci
  (s.modCtx n fun c => { c with state := .halted, haltCause := cause, refetch := none, fetched := 0 }).log .ctxHalt n cause ci 0 true

end Sys2Proof.Machine
end

