-- ==== Sys2Proof/Machine/Operands.lean ====
section
/-! DEFINITION. The operands of descriptors (R140, R159, R166, R168 to R170, R249) and of the configuration block
(R135, R136), with the checks the spec makes on them. -/

namespace Sys2Proof.Machine

open Sys2Proof

/-! ## Descriptor bytes -/

/-- The 64-bit HEAD and its complement of a fetched descriptor (R140). -/
def headOf (b : List Byte) : Nat := leAt b 0 8
def headComp (b : List Byte) : Nat := leAt b 8 8
def headSeq (b : List Byte) : Nat := headOf b % 2 ^ 48
def headOp (b : List Byte) : Nat := bits (headOf b) 55 48
def headFlags (b : List Byte) : Nat := headOf b / 2 ^ 56

/-- The 32-bit and 64-bit operand at descriptor offset `off` (0x10 to 0x3F). -/
def Desc.u32 (d : Desc) (off : Nat) : Nat := leAt d.opnd (off - 0x10) 4
def Desc.u64 (d : Desc) (off : Nat) : Nat := leAt d.opnd (off - 0x10) 8

/-- Bytes `[a, b)` of a descriptor are 0 (R140). -/
def Desc.zero (d : Desc) (a b : Nat) : Bool := ((d.opnd.drop (a - 0x10)).take (b - a)).all (· == 0)

/-- FENCE and IRQ of FLAGS, and its reserved bits (R141). -/
def Desc.fence (d : Desc) : Bool := bit d.flags 0
def flagsReserved (f : Nat) : Bool := f / 4 != 0

/-- The opcode is defined by R142. -/
def opKnown (op : Nat) : Bool :=
  [0x00, 0x01, 0x10, 0x11, 0x12, 0x20, 0x40, 0x41, 0x42, 0x43, 0x44, 0x45, 0x48, 0x49, 0x4A, 0x4B].contains op

/-- The class may post the opcode (R142): class 0 ADMIN, 1 FUNCTION, 2 ACCESS. -/
def opClassOk (op cls : Nat) : Bool :=
  if op ≤ 1 then true
  else if op < 0x20 then cls == 2
  else if op < 0x40 then cls == 1
  else cls == 0

/-- The descriptors a mode serves (R432). -/
def modeServes (m : Mode) (cls op : Nat) : Bool :=
  match m with
  | .bringUp | .save => false
  | .service => true
  | .retention | .safe => cls == 0 && [0x00, 0x01, 0x45, 0x4A].contains op
  | .maintenance => (cls == 0 && op != 0x40 && op != 0x41) || cls == 2

/-- The entries of contexts a mode reads (R432). -/
def modeReads (m : Mode) (n : Nat) : Bool :=
  match m with
  | .bringUp | .service | .maintenance => true
  | .retention | .safe => n < 16
  | .save => false

/-! ## Direct Access operands (R249, R250) -/

def Desc.daAddr (d : Desc) : Nat := d.u64 0x10
def Desc.daLen (d : Desc) : Nat := d.u32 0x28
def Desc.hostAddr (d : Desc) : Nat := d.u64 0x20
def Desc.pattern (d : Desc) : Nat := d.u64 0x20
def Desc.fillPoison (d : Desc) : Bool := bit (d.u64 0x38) 0

/-- The channel of a device byte address and the granule's channel codeword address (R26). -/
def byteChan (a : Nat) : Nat := a / 2 ^ 29 % 128
def byteCw (a : Nat) : Nat := a / 8 % 2 ^ 26

/-- Check 1 of R250: complements, reserved bits and LENGTH. -/
def daFieldBad (d : Desc) : Bool :=
  let a := d.daAddr
  let l := d.daLen
  let (lo, hi) := if d.op = 0x10 then (32, 4 * 2 ^ 20) else if d.op = 0x11 then (32, 65536) else (32, 512 * 2 ^ 20)
  let rest := if d.op = 0x12 then !isComp 64 (d.u64 0x20) (d.u64 0x30) || d.u64 0x38 / 2 != 0
    else !d.zero 0x30 0x40 || d.hostAddr % 32 != 0
  !isComp 64 a (d.u64 0x18) || !isComp 32 l (d.u32 0x2C) || rest || l % 32 != 0 || l < lo || l > hi

/-- Check 2 of R250 for a range: in range, granule-aligned, and within one channel of the member (R27). DESIGN CHOICE (log 159): on a
smaller member an address with a higher bit of the channel field set is out of range (R1). -/
def rangeBad (members a l : Nat) : Bool :=
  a / 2 ^ 36 != 0 || a % 32 != 0 || (a + l - 1) / 2 ^ 36 != 0 || byteChan (a + l - 1) != byteChan a || byteChan a ≥ members

/-- Check 3 of R250: some byte lies in the channel's privileged region (R32). -/
def rangePriv (privSize a l : Nat) : Bool := byteCw (a + l - 1) ≥ privBase privSize

/-- Two Direct Access descriptors overlap, and either writes (R165). -/
def daOverlap (a b : Desc) : Bool :=
  isDaOp a.op && isDaOp b.op && (a.op != 0x10 || b.op != 0x10) &&
    a.daAddr < b.daAddr + b.daLen && b.daAddr < a.daAddr + a.daLen

/-! ## Configuration block (R135, R136) -/

/-- The fields of a configuration block in a context, when R136 does not refuse it on its fields. DESIGN CHOICE (log 158): CFG [7:6], which
R135 gives no field, count as reserved. -/
def parseCfg (b : List Byte) (n : Nat) : Option Ctx :=
  let dring := leAt b 0 8
  let cring := leAt b 8 8
  let cfg := leAt b 16 4
  let irq := leAt b 24 4
  let cls := bits cfg 5 4
  let bad := !isComp 32 cfg (leAt b 20 4) || !isComp 32 irq (leAt b 28 4) || dring % 4096 != 0 || cring % 4096 != 0 ||
    cfg % 16 < 4 || bits cfg 7 6 != 0 || bits cfg 31 23 != 0 || bits irq 14 9 != 0 || bits irq 31 24 != 0 || cls == 3 ||
    ((cls == 0) != (n < 16)) || (cls != 1 && bits cfg 22 16 != 0)
  if bad then none
  else some { state := .enabled, dring, cring, ringLog2 := cfg % 16, cls, prio := bits cfg 15 8, chan := bits cfg 22 16,
              vec := irq % 512, irqEn := bit irq 15, coalesce := bits irq 23 16 }

/-- A FUNCTION context that is ENABLED or HALTED on channel `ch` (R136, R171). -/
def State.functionCtx (s : State) (ch : Nat) : Option Nat :=
  (s.ctxs.find? fun x => x.2.cls == 1 && x.2.state != .disabled && x.2.chan == ch).map (·.1)

/-- Configure context `n` from a block with a START_SEQ (R136, R138): the status of R169, and the new state. A target that is not DISABLED
is REFUSED_STATE, whatever the block holds. -/
def State.configure (n : Nat) (b : List Byte) (startSeq : Nat) (s : State) : Nat × State :=
  if (s.ctx n).state != .disabled then (0x0015, s)
  else
  match parseCfg b n with
  | none => (0x0012, s)
  | some c =>
    if c.cls == 1 && ((s.functionCtx c.chan).isSome || c.chan ≥ s.members) then (0x0012, s)
    else
      let q := startSeq % 2 ^ 48
      (0, s.modCtx n fun _ => { c with nextSeq := q, frontier := (q + 2 ^ 48 - 1) % 2 ^ 48 })

/-! ## The 128-byte context record (R138) -/

/-- A value of `k` bytes with its complement. -/
def withComp (k v : Nat) : List Byte := leBytes k v ++ leBytes k (256 ^ k - 1 - v % 256 ^ k)

def Ctx.cfgWord (c : Ctx) : Nat := c.ringLog2 + c.cls * 16 + c.prio * 256 + c.chan * 2 ^ 16
def Ctx.irqWord (c : Ctx) : Nat := c.vec + (if c.irqEn then 2 ^ 15 else 0) + c.coalesce * 2 ^ 16
def Ctx.stateWord (c : Ctx) : Nat :=
  (match c.state with | .disabled => 0 | .enabled => 1 | .halted => 2) + c.haltCause * 256

/-- The record that CTX_QUERY copies. -/
def Ctx.record (c : Ctx) : List Byte :=
  withComp 8 c.dring ++ withComp 8 c.cring ++ withComp 4 c.cfgWord ++ withComp 4 c.irqWord ++ withComp 8 c.nextSeq ++
    withComp 8 c.frontier ++ withComp 4 c.ci ++ withComp 4 c.cwi ++ withComp 4 c.stateWord ++ withComp 8 c.runCkpt ++
    leBytes 8 0

/-- Sequence numbers compare modulo 2^48 (R147, R166): `f` has reached `q`. -/
def seqReached (f q : Nat) : Bool := (f + 2 ^ 48 - q % 2 ^ 48) % 2 ^ 48 < 2 ^ 47

/-! ## Which descriptor may start (R165, R167) -/

/-- The descriptor may start, given the accepted ones before it that still lack a record. -/
def mayStart (admin : Bool) (d : Desc) (before : List Desc) : Bool :=
  before.all fun e => e.phase != .waiting && !(admin && e.phase != .done) && !(e.op == 1 && e.phase != .done) &&
    !(daOverlap e d && e.phase != .done) && !d.fence

/-- The first accepted descriptor of a context that has not started, when it may start and has opcode `op`. -/
def State.startable (s : State) (n op : Nat) : Option Desc :=
  let c := s.ctx n
  let before := c.acc.takeWhile fun d => d.phase != .waiting
  match c.acc.dropWhile fun d => d.phase != .waiting with
  | d :: _ => if d.op = op && mayStart (c.cls == 0) d before && (c.cls != 0 || s.hoop.running) then some d else none
  | [] => none

/-- A started descriptor of a context with opcode `op`. -/
def State.startedOp (s : State) (n op : Nat) : Option Desc :=
  (s.ctx n).acc.find? fun d => d.op == op && d.phase == .started

/-- Change one accepted descriptor. -/
def State.modDesc (n seq : Nat) (f : Desc → Desc) (s : State) : State :=
  s.modCtx n fun c => { c with acc := c.acc.map fun d => if d.seq == seq then f d else d }

end Sys2Proof.Machine
end

