-- ==== Sys2Proof/Machine/Ecc.lean ====
section
/-! DEFINITION. Stored data integrity (08): the array code (R271 to R277), what the links do to a codeword (R592), the
correction table, the recurrence filter, the remap table, the eyelet monitor's count, and erasures (R299, R300). -/

namespace Sys2Proof.Machine

open Sys2Proof

/-! ## The DEC-TED code (R271 to R277) -/

/-- One step of division by G, 0xC599 (R272): bring the next coefficient `b` into the remainder. -/
def remStep (r : BitVec 15) (b : Bool) : BitVec 15 :=
  (r <<< 1) ^^^ (if r.getLsbD 14 then 0x4599#15 else 0) ^^^ (if b then 1#15 else 0)

/-- The remainder of a word mod G; a word is a codeword when it is 0 (R273). -/
def rem80 (c : Codeword) : BitVec 15 :=
  (List.range 80).foldl (fun r i => remStep r (c.getLsbD (79 - i))) 0

/-- The stored codeword of 64 data bits and a mark bit (R271, R273). -/
def encode64 (d : BitVec 64) (mark : Bool) : Codeword :=
  let info : Codeword := ((if mark then 1#80 else 0) <<< 79) ||| (d.setWidth 80 <<< 15)
  info ||| (rem80 info).setWidth 80

/-- Data and mark of a codeword (R271). -/
def cwData (c : Codeword) : BitVec 64 := (c >>> 15).setWidth 64
def cwMark (c : Codeword) : Bool := c.getLsbD 79

/-- Canonical poison (R280). -/
def canonicalPoison : Codeword := encode64 (BitVec.allOnes 64) true

/-- Errors corrected beside `f` erasures (R276, R299). -/
def corrPower (f : Nat) : Nat := (5 - f) / 2

/-- The word with bit `k` set, and its remainder. -/
def unitWord (k : Nat) : Codeword := 1#80 <<< k

/-- Every subset of the erased positions, as a word. -/
def fills : List Nat → List Codeword
  | [] => [0]
  | k :: ks => (fills ks).flatMap fun m => [m, m ^^^ unitWord k]

/-- Every error pattern of at most `e` of the positions `ps`, fewest first: (word, positions ascending). -/
def errorPatterns (ps : List Nat) (e : Nat) : List (Codeword × List Nat) :=
  (0, []) :: ((if e ≥ 1 then ps.map fun a => (unitWord a, [a]) else []) ++
    (if e ≥ 2 then ps.flatMap fun a => (ps.filter (a < ·)).map fun b => (unitWord a ^^^ unitWord b, [a, b]) else []))

/-- The outcome of a decode (R277). -/
inductive Decoded where
  | correct (d : BitVec 64)
  | corrected (d : BitVec 64) (pos : List Nat)
  | poison (word : Codeword) (pos : List Nat)
  | uncorrectable
  deriving DecidableEq, Repr

/-- The decode of a received word with the erased positions `er` (R276): the codeword that agrees with it outside `er`
but for at most e positions. -/
def decode (er : List Nat) (r : Codeword) : Decoded :=
  if er.length ≥ 5 then .uncorrectable
  else
    let ps := (List.range 80).filter fun k => !er.contains k
    let hits := (errorPatterns ps (corrPower er.length)).findSome? fun p =>
      ((fills er).find? fun m => rem80 (r ^^^ p.1 ^^^ m) = 0).map fun m => (r ^^^ p.1 ^^^ m, p.2)
    match hits with
    | none => .uncorrectable
    | some (c, pos) =>
      if cwMark c then .poison c pos
      else if pos.isEmpty then .correct (cwData c)
      else .corrected (cwData c) pos

/-- The data bits a decode delivers, when it delivers data. -/
def Decoded.data? : Decoded → Option (BitVec 64)
  | .correct d => some d
  | .corrected d _ => some d
  | _ => none

/-- Corrected positions outside E. -/
def Decoded.fixed : Decoded → List Nat
  | .corrected _ p => p
  | .poison _ p => p
  | _ => []

/-! ## Eyelets (R305, R306) -/

/-- The eyelet with index `i` before anything is recorded of it: spares are SPARE, the rest ACTIVE. -/
def eyeInit (i : Nat) : Eyelet :=
  { state := if (80 ≤ i && i ≤ 83) || i = 106 || i = 107 || i = 110 then .spare else .active }

def Eyes.eye (e : Eyes) (i : Nat) : Eyelet := (Sparse.find? e.tab i).getD (eyeInit i)
def Eyes.setEye (e : Eyes) (i : Nat) (x : Eyelet) : Eyes := { e with tab := Sparse.insert e.tab i x }
def Eyes.modEye (e : Eyes) (i : Nat) (f : Eyelet → Eyelet) : Eyes := e.setEye i (f (e.eye i))

/-- The eyelet that carries role `k` (R305, R306). -/
def Eyes.carrier (e : Eyes) (k : Nat) : Nat :=
  let x := e.eye k
  if x.state == .darned then x.link else k

/-- The erased set E (R276): data positions whose eyelet is ERASED. -/
def Eyes.erased (e : Eyes) : List Nat := (e.tab.filter fun x => x.1 < 80 && x.2.state == .erased).map (·.1)

/-- The role an ACTIVE eyelet carries. -/
def Eyes.roleOf (e : Eyes) (i : Nat) : Nat :=
  if (80 ≤ i && i ≤ 83) || i = 106 || i = 107 || i = 110 then (e.eye i).link else i

/-- Data role `k` crosses a failing link (R592): its position is erased, or the eyelet that carries it is failing. -/
def Eyes.badRole (e : Eyes) (k : Nat) : Bool := (e.eye k).state == .erased || (e.eye (e.carrier k)).failing

/-- The word of the data roles that `f` names. -/
def roleWord (f : Nat → Bool) : Codeword := (List.range 80).foldl (fun m k => if f k then m ||| unitWord k else m) 0

/-- Positions whose link carries a value unrelated to the bit sent (R592). -/
def Eyes.badMask (e : Eyes) : Codeword := roleWord e.badRole

/-! ### Scrambling (R307) -/

/-- One UI of a scrambler, x^31 + x^28 + 1. DESIGN CHOICE (log 148): it shifts up, bit 30 is its output, and the new bit 0 is bit 30 xor
bit 27. -/
def lfsrStep (x : BitVec 31) : BitVec 31 := (x <<< 1) ||| (if x.getLsbD 30 != x.getLsbD 27 then 1 else 0)

/-- The output of a scrambler `n` UI after its seed. -/
def lfsrBit (seed : Nat) (n : Nat) : Bool := (Nat.repeat lfsrStep n (BitVec.ofNat 31 seed)).getLsbD 30

/-- The scrambler of role `r`, and the idle sequence of the spare with index `i`, `n` UI after the epoch. -/
def scrambler (r n : Nat) : Bool := lfsrBit (0x5A5A0000 + r + 1) n
def idleBit (i n : Nat) : Bool := lfsrBit (0x5A5B0000 + i + 1) n

/-- What data eyelet `i` is driven with when codeword `c` crosses: the scrambled bit of the role that it carries, the idle sequence of a
spare, else nothing. -/
def Eyes.driven (e : Eyes) (c : Codeword) (n i : Nat) : Bool :=
  match (e.eye i).state with
  | .active => c.getLsbD (e.roleOf i) != scrambler (e.roleOf i) n
  | .spare => idleBit i n
  | _ => false

/-- The bit of role `k` after descrambling: of the eyelet that carries it, or over a failing link of the value `noise` (R592). -/
def Eyes.received (e : Eyes) (c noise : Codeword) (n k : Nat) : Bool :=
  (if e.badRole k then noise.getLsbD k else e.driven c n (e.carrier k)) != scrambler k n

/-- One transfer of a codeword over the channel's data eyelets (R307, R592). Over sound links the scrambling at both ends cancels, and
the word arrives as it was sent. -/
def State.transfer (ch : Nat) (c : Codeword) (s : State) : Codeword × State :=
  let e := (s.chan ch).eyes
  if e.badMask = 0 then (c, s)
  else (roleWord (e.received c (Config.freeLink s.freeNo) (2 * (s.now - e.epoch))), { s with freeNo := s.freeNo + 1 })

/-! ### The receivers' counts (R313) -/

/-- One bit more in n, and in o when it is a one; a receiver stops at n = 65,535. -/
def addBit (x : Nat × Nat) (b : Bool) : Nat × Nat := if x.1 ≥ 65535 then x else (x.1 + 1, x.2 + b.toNat)

/-- The counts of the data receivers after codeword `w` reached them. -/
def Eyes.tally (e : Eyes) (l : List (Nat × Nat)) (w : Codeword) : List (Nat × Nat) :=
  ((List.range 84).zip (l ++ List.replicate (84 - l.length) (0, 0))).map fun x =>
    if (e.eye x.1).state == .active then addBit x.2 (w.getLsbD (e.roleOf x.1)) else x.2

/-- A codeword reached the base die, or the region. -/
def State.countUp (ch : Nat) (w : Codeword) (s : State) : State :=
  s.modChan ch fun c => { c with eyes := { c.eyes with up := c.eyes.tally c.eyes.up w } }
def State.countDown (ch : Nat) (w : Codeword) (s : State) : State :=
  s.modChan ch fun c => { c with eyes := { c.eyes with down := c.eyes.tally c.eyes.down w } }

/-- Spares of a role's group in ascending order (R305). -/
def spareGroup (role : Nat) : List Nat :=
  if role < 80 then [80, 81, 82, 83] else if role < 106 then [106, 107] else [110]

def Eyes.freeSpare (e : Eyes) (role : Nat) : Option Nat := (spareGroup role).find? fun i => (e.eye i).state == .spare

/-- Free data spares, command spares and KS (R332). -/
def Eyes.freeCount (e : Eyes) (l : List Nat) : Nat := (l.filter fun i => (e.eye i).state == .spare).length

/-! ## Correction table (R287) -/

/-- Global time [41:26] (R287). -/
def stampOf (t : Nat) : Nat := t / 2 ^ 26 % 2 ^ 16

/-- Enter an event in the lowest free entry, or count CORR_TABLE_FULL (R287). -/
def State.corrEnter (ch : Nat) (x : Corr) (s : State) : State :=
  let t := (s.chan ch).ecc.corr
  match (List.range 32).find? fun i => !t.any (fun x => x.1 == i && x.2.valid) with
  | some i => s.modChan ch fun c => { c with ecc := { c.ecc with corr := Sparse.insert t i { x with stamp := stampOf s.gt } } }
  | none => s.count 0x017 (some ch) 1

/-- The codeword address lies in the channel's privileged region. -/
def Chan.inPriv (c : Chan) (a : Nat) : Bool := a ≥ privBase c.priv

/-! ## Targeted queue (R295) -/

/-- Queue a granule for a targeted scrub (R295). -/
def State.queueScrub (ch a : Nat) (s : State) : State :=
  s.modChan ch fun c =>
    let g := a / 4 * 4
    if c.ecc.targeted.contains g || c.ecc.targeted.length ≥ 8 then c
    else { c with ecc := { c.ecc with targeted := c.ecc.targeted ++ [g] } }

/-! ## Remap table (R290 to R292) -/

def Integrity.entry (e : Integrity) (a : Nat) : Option Remap := e.remap.find? (·.addr == a)

/-- A write that reaches the codeword of an entry also writes the entry (R290, R292). -/
def Integrity.noteWrite (e : Integrity) (a : Nat) (c : Codeword) : Integrity :=
  { e with remap := e.remap.map fun x => if x.addr == a then { x with data := some (cwData c, cwMark c) } else x }

/-- Offer a codeword to the remap table with the data of the decode (R290, R291): the table, and the STATE of the offer's
correction entry; the fault of a refusal for a full table. -/
def State.offer (ch a : Nat) (data : BitVec 64) (mark : Bool) (pos : List Nat) (s : State) : State :=
  let c := s.chan ch
  let x : Corr := { priv := c.inPriv a, addr := a, posA := pos.getD 0 0x7F, posB := pos.getD 1 0x7F }
  let known := c.ecc.remap.any (·.addr == a)
  if !c.ecc.auto then s.corrEnter ch { x with state := .refused }
  else if known || c.ecc.remap.length < 32 then
    let rm : List Remap := c.ecc.remap.filter (fun r => r.addr != a) ++ [{ addr := a, data := some (data, mark) }]
    let s := s.modChan ch fun c => { c with ecc := { c.ecc with remap := rm, fullLogged := c.ecc.fullLogged && known } }
    s.corrEnter ch { x with state := .remapped }
  else
    let s := if c.ecc.fullLogged then s.log .remapFullAgain ch else s.log .remapFull ch
    let s := s.modChan ch fun c => { c with ecc := { c.ecc with fullLogged := true } }
    s.corrEnter ch { x with state := .refused }

/-! ## Recurrence filter (R285) -/

/-- Index of an address in the filter. -/
def filterIdx (a : Nat) : Nat := (a % 64) ^^^ (a / 64 % 64) ^^^ (a / 4096 % 64) ^^^ (a / 2 ^ 18 % 64) ^^^ (a / 2 ^ 24 % 4)

/-- One event of the filter (R285). -/
def State.filterEvent (ch a : Nat) (data : BitVec 64) (mark : Bool) (pos : List Nat) (s : State) : State :=
  let i := filterIdx a
  let (tag, cnt) := Sparse.get (0, 0) (s.chan ch).ecc.filter i
  let (tag', cnt') := if cnt != 0 && tag == a then (a, cnt + 1) else if cnt ≤ 1 then (a, 1) else (tag, cnt - 1)
  let full := cnt' == 16
  let put (v : Nat × Nat) (s : State) : State := s.modChan ch fun c =>
    { c with ecc := { c.ecc with filter := Sparse.set (0, 0) c.ecc.filter i v } }
  if full then
    let s := s.modChan ch fun c => { c with ecc := { c.ecc with recur := satAdd 0xFF c.ecc.recur 1 } }
    let s := s.log .recurrentWord ch (devAddr ch a % 2 ^ 32) (devAddr ch a / 2 ^ 32)
    put (0, 0) (s.offer ch a data mark pos)
  else put (tag', cnt') s

/-! ## SECDED of the base die's stores (R303) -/

/-- A single-bit error in a store of the bobbin is corrected, written back and counted. -/
def State.noteFix (ch : Nat) (h : StoreHit) (s : State) : State :=
  if h == .single then s.modChan ch fun c => { c with ecc := { c.ecc with fixes := c.ecc.fixes + 1 } } else s

/-- What SECDED finds in a store of the bobbin is counted or logged. -/
def State.storeHit (ch : Nat) (h : StoreHit) (s : State) : State :=
  if h == .double then s.log .storeUncorrectable ch else s.noteFix ch h

/-- A remap entry of the granule at `a` fails SECDED and is dropped (R292): the first that holds data. -/
def State.dropEntry (ch a : Nat) (s : State) : State :=
  match (s.chan ch).ecc.remap.find? fun r => r.addr / 4 == a / 4 && r.data.isSome with
  | some r =>
    (s.modChan ch fun c => { c with ecc := { c.ecc with remap := c.ecc.remap.filter (·.addr != r.addr), fullLogged := false } }).log
      .remapEntryLost ch
  | none => s

/-! ## Stops a fault asks for (R173, R300) -/

/-- Ask a channel to stop at the next motif boundary with a STOP_CAUSE (R173). -/
def State.requestStop (ch cause : Nat) (s : State) : State :=
  s.modChan ch fun c =>
    if c.state == .running then
      { c with state := .stopping, stopRunEnd := false, seq := { c.seq with stopCauseReq := cause } }
    else if c.state == .stopping && c.stopRunEnd then { c with stopRunEnd := false } else c

/-- What an erasure does when f reaches a value (R299). -/
def State.erasureAction (ch : Nat) (s : State) : State :=
  let f := (s.chan ch).eyes.erased.length
  if f ≤ 2 then s.log .erasure ch 0 0 0 true
  else if f = 3 then s.log .erasureLast ch 0 0 0 true
  else if f = 4 then
    let s := (s.log .erasureRetire ch).modChan ch fun c => { c with retirePend := true }
    s.requestStop ch 0x06
  else s.log .erasure ch 0 0 0 true

/-- A darn entry (R326). -/
def darnEntry (failed spare : Nat) : BitVec 16 := BitVec.ofNat 16 (2 ^ 15 + failed * 256 + spare)

/-- Record a darn entry in the selvedge store (R327). -/
def State.recordDarn (ch failed spare : Nat) (s : State) : State :=
  s.modChan ch fun c => { c with eyes := { c.eyes with records := c.eyes.records ++ [darnEntry failed spare] } }

/-- A data role without a spare is erased (R322); `i` is the eyelet that carried it, SPENT when it was a spare. -/
def State.eraseRole (ch role i : Nat) (s : State) : State :=
  let s := s.modChan ch fun c =>
    let ey := c.eyes.modEye role fun y => { y with state := .erased, link := 0x7F, failing := false, suspect := false }
    let ey2 := if i = role then ey else ey.modEye i fun y => { y with state := .spent, link := 0x7F, failing := false, suspect := false }
    { c with eyes := ey2 }
  let s := if i = role then s else s.recordDarn ch i 0x7F
  (s.recordDarn ch role 0x7F).erasureAction ch

/-- A failing data or spare eyelet (R321, R322, R325): a SPARE becomes SPENT, a data role waits for a darn when a spare is
free, and is erased when none is. -/
def State.dataFailing (ch i : Nat) (s : State) : State :=
  let e := (s.chan ch).eyes
  let x := e.eye i
  match x.state with
  | .spare =>
    let s := s.modChan ch fun c => { c with eyes := c.eyes.modEye i fun x => { x with state := .spent, suspect := false } }
    (s.log .spareSpent ch).recordDarn ch i 0x7F
  | .active =>
    let role := e.roleOf i
    if role ≥ 80 then s
    else
      let s := s.modChan ch fun c => { c with eyes := c.eyes.modEye i fun x => { x with failing := true } }
      match e.freeSpare role with
      | some _ => s.modChan ch fun c =>
          let pend := if c.eyes.darnPend.contains role then c.eyes.darnPend else c.eyes.darnPend ++ [role]
          { c with eyes := { c.eyes with darnPend := pend }, maint := { c.maint with train := true } }
      | none => s.eraseRole ch role i
  | _ => s

/-! ## What a decode reports (R277 to R289, R318, R319) -/

/-- Who read the codeword: a demand read, a demand read by FETCH or the hoop, the scrubber, or the reload of a remap entry (R292). -/
inductive ReadKind where
  | demand | privReader | scrub | reload
  deriving DecidableEq, Repr

/-- An eyelet becomes SUSPECT, which makes training work pending (R306, R311). -/
def State.suspectEye (ch i : Nat) (s : State) : State :=
  s.modChan ch fun c => { c with eyes := c.eyes.modEye i fun x => { x with suspect := true },
                                 maint := { c.maint with train := c.maint.train || !(c.eyes.eye i).suspect } }

def Eyes.monOf (e : Eyes) (k : Nat) : Mon := Sparse.get {} e.mon k

/-- The eyelet monitor counts a corrected position (R318, R319). -/
def State.monitorCount (ch a k : Nat) (s : State) : State :=
  let e := (s.chan ch).eyes
  let m := e.monOf k
  if m.lastAddr == some a || (e.eye k).state == .erased then s
  else
    let n := m.cnt + 1
    let s := s.modChan ch fun c => { c with eyes := { c.eyes with mon := Sparse.set {} c.eyes.mon k { m with cnt := n, lastAddr := some a } } }
    if n = 4 then (s.suspectEye ch (e.carrier k)).log .eyeletSuspect ch
    else if n = 64 then s.dataFailing ch (e.carrier k)
    else s

/-- A single-position correction at the position of a SUSPECT eyelet is no recurrence event (R285, R319). -/
def Eyes.suspectPos (e : Eyes) (pos : List Nat) : Bool :=
  match pos with
  | [k] => (e.eye (e.carrier k)).suspect
  | _ => false

/-- Everything a decode of codeword `a` reports. -/
def State.noteDecode (ch a : Nat) (kind : ReadKind) (d : Decoded) (s : State) : State :=
  let c := s.chan ch
  let pos := d.fixed
  let s := s.modChan ch fun c => { c with eyes := { c.eyes with decodes := c.eyes.decodes + 1 } }
  let suspect := c.eyes.suspectPos pos
  let s := if pos.isEmpty then s else
    let s := s.count 0x004 (some ch) 1
    let s := pos.foldl (fun s k => s.monitorCount ch a k) s
    let (data, mark) := match d with
      | .corrected x _ => (x, false)
      | .poison w _ => (cwData w, true)
      | _ => (0, false)
    let s := if suspect || ((s.chan ch).ecc.entry a).any (·.data.isSome) then s else s.filterEvent ch a data mark pos
    if c.inPriv a then
      let known := c.ecc.corr.any fun x => x.2.valid && x.2.priv && x.2.addr == a
      let s := if known then s else
        let s := s.corrEnter ch { priv := true, addr := a, posA := pos.getD 0 0x7F, posB := pos.getD 1 0x7F }
        if kind = .privReader then s.log .privCorrected ch (devAddr ch a % 2 ^ 32) (devAddr ch a / 2 ^ 32) else s
      if kind = .privReader then s.queueScrub ch a else s
    else s
  match d with
  | .uncorrectable =>
    let s := s.count 0x006 (some ch) 1
    if kind = .scrub || kind = .reload then s
    else
      let s := s.log .dataUncorrectable ch (devAddr ch a % 2 ^ 32) (devAddr ch a / 2 ^ 32)
      let s := s.modChan ch fun c => { c with ecc := { c.ecc with uncorr := satAdd 0xFF c.ecc.uncorr 1 } }
      (s.corrEnter ch { priv := c.inPriv a, state := .uncorrectable, addr := a }).queueScrub ch a
  | .poison _ _ => if kind = .scrub || kind = .reload then s else s.count 0x005 (some ch) 1
  | _ => s

/-- Decode codeword `a` of a read that found `raw` in the array and `rm` in the remap table: what its reader receives (R278, R290). A
loaded remap entry stands in place of the decode, which is then neither used nor counted; so does an entry installed while the data
were under way. -/
def State.readCw (ch a : Nat) (kind : ReadKind) (raw : Codeword) (rm : Option (BitVec 64 × Bool)) (s : State) :
    Decoded × State :=
  let (r, s) := s.transfer ch raw
  let s := s.countUp ch r
  match rm.or (((s.chan ch).ecc.entry a).bind (·.data)) with
  | some (d, m) => (if m then .poison (encode64 d true) [] else .correct d, s)
  | none =>
    let d := decode (s.chan ch).eyes.erased r
    (d, s.noteDecode ch a kind d)

/-- What the array and the remap table hold of the granule at `a` now (R25, R290). -/
def State.granRaw (s : State) (ch a : Nat) : List Codeword := (List.range 4).map fun j => s.cell ch (a / 4 * 4 + j)
def State.granRemap (s : State) (ch a : Nat) : List (Option (BitVec 64 × Bool)) :=
  (List.range 4).map fun j => ((s.chan ch).ecc.entry (a / 4 * 4 + j)).bind (·.data)

/-- Decode the four codewords of the granule at `a` in ascending column order (R25), each disturbed by its `noise`. -/
def State.readRaw (ch a : Nat) (kind : ReadKind) (raw : List Codeword) (rm : List (Option (BitVec 64 × Bool)))
    (noise : List Codeword) (s : State) : List Decoded × State :=
  (List.range 4).foldl (fun (r : List Decoded × State) j =>
    let x := r.2.readCw ch (a / 4 * 4 + j) kind (raw.getD j 0 ^^^ noise.getD j 0) (rm.getD j none)
    (r.1 ++ [x.1], x.2)) ([], s.count 0x016 (some ch) 1 fun q => bit q 0)

/-- Read the granule at `a` as it stands now. -/
def State.readGranule (ch a : Nat) (kind : ReadKind) (noise : List Codeword) (s : State) : List Decoded × State :=
  s.readRaw ch a kind (s.granRaw ch a) (s.granRemap ch a) noise

/-- A command that the bobbin sends its region is remembered for 100 ck (R42, R320). -/
def State.sent (ch : Nat) (r : CmdRec) (s : State) : State :=
  s.modChan ch fun c => { c with reg := { c.reg with cmds := r :: c.reg.cmds.filter fun x => r.ck ≤ x.ck + 100 } }

/-- A read-class command issues (R53): its data arrive RL and the burst later (READ_DATA). -/
def State.fly (ch addr issue : Nat) (r : Reader) (s : State) : State :=
  let f : Flight := { addr, issue, reader := r, raw := s.granRaw ch addr, remap := s.granRemap ch addr }
  (s.sent ch { ck := issue, sort := .read, addr }).modChan ch fun c =>
    { c with flights := c.flights ++ [f], reg := { c.reg with lastRd := max c.reg.lastRd issue } }

/-- Write a codeword to the array over the links, and to its remap entry (R290, R592). -/
def State.writeCw (ch a : Nat) (c : Codeword) (s : State) : State :=
  let (w, s) := s.transfer ch c
  ((s.countDown ch w).putCell ch a w).modChan ch fun x => { x with ecc := x.ecc.noteWrite a c }

/-- A write-class command at ck `t` writes a granule (R25). DESIGN CHOICE (log 153): a write whose ck the pricking fixes takes the place of a
rewrite that a scrub owes the granule (R294). -/
def State.writeGranule (ch t a : Nat) (cs : List Codeword) (s : State) : State :=
  let s := s.sent ch { ck := t, sort := .write, addr := a / 4 * 4, old := s.granRaw ch a, oldRm := s.granRemap ch a, data := cs }
  let s := s.modChan ch fun c =>
    { c with reg := { c.reg with lastWr := max c.reg.lastWr t },
             ecc := { c.ecc with rewrite := c.ecc.rewrite.filter fun r => r.gran / 4 != a / 4 } }
  (cs.zipIdx.foldl (fun s x => s.writeCw ch (a / 4 * 4 + x.2) x.1) s).count 0x016 (some ch) 1 fun q => bit q 1

/-- An operation of the bobbin opened its own row for the column command at ck `t` (R73, R244): its ACT came tRCD before. -/
def State.opened (ch t : Nat) (s : State) : State :=
  s.modChan ch fun c => { c with reg := { c.reg with lastAct := max c.reg.lastAct (t - 24) } }

/-- A write that the region never took leaves the granule, and the remap entries of its codewords, as they were (R42, R290, R320). -/
def State.undoWrite (ch : Nat) (r : CmdRec) (s : State) : State :=
  let s := r.old.zipIdx.foldl (fun s x => s.putCell ch (r.addr + x.2) x.1) s
  s.modChan ch fun c =>
    { c with ecc := { c.ecc with remap := c.ecc.remap.map fun e =>
        { e with data := if e.addr / 4 * 4 = r.addr then r.oldRm.getD (e.addr % 4) e.data else e.data } } }

/-! ## Zero data in bulk (R258, R448, R517) -/

/-- A write of zero data reached the entries of the codewords that `f` names (R290). -/
def Integrity.zeroEntries (e : Integrity) (f : Nat → Bool) : Integrity :=
  { e with remap := e.remap.map fun r => if f r.addr then { r with data := some (0, false) } else r }

/-- Codewords `lo` to `lo + n - 1` of channel `ch` are written with zero data, mark 0, over the links as they are (R592). -/
def State.zeroCells (ch lo n : Nat) (s : State) : State :=
  let bad := (s.chan ch).eyes.badMask
  let w (i : Nat) : Codeword := if bad = 0 then 0 else Config.freeLink (s.freeNo + i) &&& bad
  let s := { s with dram := s.dram.fill (devAddr ch lo) n w, freeNo := if bad = 0 then s.freeNo else s.freeNo + n }
  s.modChan ch fun c => { c with ecc := c.ecc.zeroEntries fun a => decide (lo ≤ a) && decide (a < lo + n) }

/-- Every codeword of channel `ch` is written with zero data. -/
def State.zeroChannel (ch : Nat) (s : State) : State :=
  let bad := (s.chan ch).eyes.badMask
  let s := { s with dram := s.dram.zeroAll ch s.freeNo bad, freeNo := if bad = 0 then s.freeNo else s.freeNo + 2 ^ 26 }
  s.modChan ch fun c => { c with ecc := c.ecc.zeroEntries fun _ => true }

/-- A granule of one 64-bit value with a mark. -/
def fillGranule (d : BitVec 64) (mark : Bool) : List Codeword := List.replicate 4 (encode64 d mark)

end Sys2Proof.Machine
end

