-- ==== Sys2Proof/Machine/Capture.lean ====
section
/-! DEFINITION. Fail capture and bitmap analysis (06): records, binding, merges, addressed records, forwarding,
rejections and the analysis engine. -/

namespace Sys2Proof.Machine

open Sys2Proof

/-- Change the capture part of a channel. -/
def State.modCap (ch : Nat) (f : Capture → Capture) (s : State) : State := s.modChan ch fun c => { c with cap := f c.cap }

/-- Checkpoints issued before ck `t`: the interval that holds `t` (R159). -/
def Seq.ivalAt (q : Seq) (t : Nat) : Nat := q.ckptNo - (q.ckpts.filter fun x => x.2.ck ≥ t).length

/-- The section takes addressed records from group `g` (R204): some TPL_READ slot names it. -/
def Section.addressedGroup (x : Section) (g : Nat) : Bool :=
  x.slots.any fun w => slotOp w = opRMW && slotDp w = dpTRD && slotGroup w = g

/-- A zero record (R207). -/
def CapRec.zero (r : CapRec) : Bool := !r.unknown && r.mask.all (· == 0)

/-- A record of interval `ival` is counted in RESULT (R228). -/
def State.consume (ch ival : Nat) (s : State) : State :=
  s.modCap ch fun k => { k with counts := Sparse.modify 0 k.counts ival (· + 1) }

/-- A record of interval `ival` was rejected or unknown (R228, R238). -/
def State.inputLoss (ch ival : Nat) (s : State) : State :=
  s.modCap ch fun k => { k with inputLoss := true,
                                lossIval := if k.lossIval.contains ival then k.lossIval else k.lossIval ++ [ival] }

/-- Log a rejection (R225 to R227). -/
def State.reject (ch reason addr ival : Nat) (s : State) : State :=
  let s := s.modCap ch fun k =>
    let free := (List.range 16).find? fun i => !k.rej.any (fun x => x.1 == i && bit x.2.toNat 31)
    { k with rejects := satAdd 0xFF k.rejects 1, rejIval := Sparse.modify 0 k.rejIval ival (· + 1),
             rej := match free with
               | some i => Sparse.insert k.rej i (BitVec.ofNat 32 (2 ^ 31 + reason * 2 ^ 28 + addr % 2 ^ 26))
               | none => k.rej }
  let s := s.inputLoss ch ival
  let s := s.count 0x00D (some ch) 1 fun q => q % 8 == 0 || q % 8 == reason
  s.log .captureReject ch reason addr

/-! ## Forwarding (R220 to R224, R401) -/

/-- The 11 payload words of a forwarded record (R222). -/
def Fwd.payload (f : Fwd) (x y ch : Nat) : List Word :=
  let w0 := f.tgtCh + ch * 2 ^ 8 + x * 2 ^ 16 + y * 2 ^ 24 + (if f.unknown then 2 ^ 31 else 0)
  BitVec.ofNat 32 w0 :: BitVec.ofNat 32 f.addr :: BitVec.ofNat 32 (2 ^ 32 - 1 - f.addr) ::
    (if f.unknown then List.replicate 8 0 else f.mask)

/-- Send a forwarded record (again) with its tag (R401). -/
def State.sendFwd (ch : Nat) (f : Fwd) (s : State) : State :=
  s.sendPacket 1 f.tgtX f.tgtY f.tag 6 (f.payload s.tor.x s.tor.y ch)

/-- Forward a record at its binding time (R221, R224). `counted` is false for a missed record. -/
def State.forward (ch addr ival : Nat) (r : Option CapRec) (counted : Bool) (s : State) : State :=
  let k := (s.chan ch).cap
  let unknown : Bool := match r with | some x => x.unknown | none => true
  let zero : Bool := match r with | some x => x.zero | none => false
  if zero then (s.consume ch ival).count 0x00C (some ch) 1
  else if k.fwdX = s.tor.x && k.fwdY = s.tor.y then s.reject ch 7 addr ival
  else if k.fwds.length ≥ 256 then s.reject ch 5 addr ival
  else
    match (List.range 256).find? fun t => !k.fwds.any (·.tag == t) with
    | none => s
    | some tag =>
      let f : Fwd := { tag, tgtX := k.fwdX, tgtY := k.fwdY, tgtCh := k.fwdCh, addr, mask := (r.getD {}).mask, unknown,
                       lastSend := s.now, ival, counted }
      let s := s.modCap ch fun k => { k with fwds := k.fwds ++ [f] }
      let s := if unknown then s.inputLoss ch ival else s
      let s := if counted then (s.consume ch ival).count 0x00B (some ch) 1 else s
      s.sendFwd ch f

/-! ## Binding and merging (R209 to R216) -/

def Capture.merge? (k : Capture) (id : Nat) : Option Merge := k.merges.find? (·.id == id)

def State.modMerge (ch id : Nat) (f : Merge → Merge) (s : State) : State :=
  s.modCap ch fun k => { k with merges := k.merges.map fun m => if m.id == id then f m else m }

/-- Records in the hold queue (R212): bound records whose read half was displaced and that wait for its make-up. -/
def Capture.held (k : Capture) : Nat :=
  (k.merges.filter fun m => m.made && m.bound && m.rcd.isSome && m.merged.isNone && !m.dropped && m.cancelAt.isNone).length

/-- Bind the record of a read half at its binding time (R209 to R212, R219, R221, R231). -/
def State.bindMerge (ch id : Nat) (s : State) : State :=
  let k := (s.chan ch).cap
  match k.merge? id with
  | none => s
  | some m =>
    if m.bound then s
    else if m.tpl then
      let s := s.modMerge ch id fun m => { m with bound := true }
      match m.rcd with
      | some r => (s.consume ch r.ival).count 0x00B (some ch) 1
      | none => s
    else
      let mine (r : CapRec) : Bool := r.group == m.group && r.k == m.k
      let r := k.rxq.find? fun r => mine r && decide (r.time ≤ m.issue + 30)
      let lost := k.lostRecs.contains (m.group, m.k)
      let s := s.modCap ch fun k => { k with rxq := k.rxq.filter fun r => !mine r, lostRecs := k.lostRecs.erase (m.group, m.k) }
      let bad := r.isNone && !m.starved
      let s := if bad then s.reject ch (if lost then 5 else 6) m.addr m.ival else s
      let s := if r.any (·.unknown) then s.inputLoss ch m.ival else s
      if m.fwd then
        let s := s.modMerge ch id fun m => { m with bound := true }
        if m.starved then s else s.forward ch m.addr m.ival r (!bad)
      else
        let zero : Bool := match r with | some x => x.zero | none => false
        let full := m.made && !zero && r.isSome && k.held ≥ 128
        let s := if full then s.reject ch 5 m.addr m.ival else s
        let r := if full then none else r
        let s := s.modMerge ch id fun m => { m with bound := true, rcd := r, dropped := m.dropped || zero }
        let s := s.modCap ch fun k => { k with holdMax := max k.holdMax k.held }
        if m.starved then s
        else
          let s := if zero then s.count 0x00C (some ch) 1 else s
          if r.isSome then (s.consume ch m.ival).count 0x00B (some ch) 1 else s

/-- The newest entry for granule `g` whose merged data a read issued at `t` sees (R214, R215): still pending at `t`.
`late` admits an entry that a WR after `t` cancelled. -/
def Capture.pending (k : Capture) (g t own : Nat) (late : Bool) (before : Nat) : Option (List Codeword) :=
  (k.merges.filter fun m => m.addr / 4 == g / 4 && m.id != own && m.id < before && !m.dropped && !m.fwd &&
    (match m.cancelAt with | none => true | some c => late && t < c) &&
    (match m.wrote with | none => true | some w => t < w)).reverse.findSome? (·.merged)

/-- One merged codeword (R213): data or poison, and the 64 mask bits. -/
def mergeWord (d : Option (BitVec 64)) (mask : BitVec 64) : Codeword :=
  match d with
  | some v => encode64 (v ||| mask) false
  | none => canonicalPoison

/-- Mask bits of codeword `j` (R207). -/
def CapRec.mask64 (r : CapRec) (j : Nat) : BitVec 64 := (r.mask.getD (2 * j + 1) 0 ++ r.mask.getD (2 * j) 0 : BitVec 64)

/-- The record of a pair leaves its granule unknown (R209, R211, R213): it is missing, discarded or has a lost word. -/
def Merge.unknown (m : Merge) : Bool := m.rcd.elim true (·.unknown)

/-- The read data of a pair arrive: form its merged data (R213, R214, R216). A made-up read meets the entries pending when it issues;
an entry that a WR cancels keeps its merged data for the reads before that WR (R215). -/
def State.mergeData (ch id : Nat) (ds : List Decoded) (s : State) : State :=
  let s := s.bindMerge ch id
  let k := (s.chan ch).cap
  match k.merge? id with
  | none => s
  | some m =>
    if m.dropped then s
    else
      let pend := k.pending m.addr (m.readAt.getD m.issue) id false k.nextId
      let s := if pend.isSome then s.count 0x00A (some ch) 1 else s
      let base : List (Option (BitVec 64)) := match pend with
        | some cs => cs.map fun c => if cwMark c then none else some (cwData c)
        | none => ds.map (·.data?)
      let merged := if m.unknown then List.replicate 4 canonicalPoison
        else (List.range 4).map fun j => mergeWord (base.getD j none) ((m.rcd.getD {}).mask64 j)
      s.modMerge ch id fun m => { m with merged := some merged }

/-- Make-up still has the read or the write of the pair to do (R72, R594). -/
def Merge.pendingMake (m : Merge) : Bool := (m.made || m.owed) && m.wrote.isNone && !m.dropped && m.cancelAt.isNone

/-- The pair has an effect still to come: its write half, or a made-up write, is outstanding. -/
def Merge.open (m : Merge) : Bool := !m.bound || !m.slotDone || m.pendingMake

/-- A write half issues or drops; an entry with nothing left to do and no read that could still see it leaves. -/
def Capture.prune (k : Capture) (ck : Nat) : Capture :=
  { k with merges := k.merges.filter fun m =>
      m.open || (match m.wrote.or m.cancelAt with | some w => decide (ck ≤ w + 64) | none => false) }

/-- The next write half in slot order: its entry (R56). -/
def Capture.nextWrite (k : Capture) : Option Merge := k.merges.find? fun m => !m.slotDone

/-- The next write half has its merged data or needs none. -/
def Capture.writeReady (k : Capture) : Bool :=
  match k.nextWrite with
  | some m => m.made || m.dropped || m.fwd || m.cancelAt.isSome || m.merged.isSome
  | none => true

/-- The write of entry `m` at ck `t`: its merged data, unless the pair was dropped or cancelled. A pair written as poison for want of its
record counts in UNKNOWN (R227). -/
def State.mergeWrite (ch t : Nat) (m : Merge) (s : State) : State :=
  match m.merged with
  | some cs =>
    if m.dropped || m.cancelAt.isSome then s
    else
      let s := if m.unknown then s.modCap ch fun k => { k with unknowns := satAdd 0xFF k.unknowns 1 } else s
      (s.writeGranule ch t m.addr cs).modMerge ch m.id fun m => { m with wrote := some t }
  | none => s

/-- The write-half slot at ck `t` (R56, R57). The write of a pair whose read half was displaced is left to make-up: the slot sends no
command, and the write takes its place behind the displaced ones (R594). -/
def State.writeHalf (ch t : Nat) (s : State) : State :=
  match (s.chan ch).cap.nextWrite with
  | none => s
  | some m =>
    let s := if !m.made then s.mergeWrite ch t m
      else if !m.pendingMake then s
      else (s.modMerge ch m.id fun m => { m with owed := true }).modChan ch fun c =>
        { c with refr := { c.refr with makeup := c.refr.makeup ++ [{ addr := m.addr, pair := some m.id }] } }
    (s.modMerge ch m.id fun m => { m with slotDone := true }).modCap ch fun k => k.prune t

/-- A WR slot at ck `t` to a granule cancels the entries for it (R215, R216). -/
def State.cancelMerges (ch g t : Nat) (s : State) : State :=
  s.modCap ch fun k => { k with merges := k.merges.map fun m =>
    if m.addr / 4 == g / 4 && m.wrote.isNone && m.cancelAt.isNone then { m with cancelAt := some t } else m }

/-- A read half's place in the merge queue (R56, R209): `m` without its number. Answers the number. -/
def State.pushMerge (ch : Nat) (m : Nat → Merge) (s : State) : Nat × State :=
  let id := (s.chan ch).cap.nextId
  (id, s.modCap ch fun k => { k with nextId := id + 1, merges := k.merges ++ [m id] })

/-! ## Addressed capture (R217 to R219) -/

/-- Theoretical arrival times of R218 before any record: T_s. -/
def Chan.tatB (c : Chan) (b : Nat) : Nat := Sparse.get c.seq.ts c.cap.tatB b
def Chan.tatA (c : Chan) : Nat := max c.cap.tatA c.seq.ts

/-- An addressed record is complete at `t` (R217, R218): the reason of its refusal, 0 when it is accepted. -/
def State.addressed (ch : Nat) (w0 w1 : Option Word) (mask : List Word) (unknown : Bool) (t : Nat) (s : State) :
    Nat × State :=
  let c := s.chan ch
  let ival := c.seq.ivalAt t
  let sec := c.seq.sect.getD {}
  match w0, w1 with
  | some a, some a' =>
    let addr := a.toNat % 2 ^ 26
    let b := addr / 2 ^ 21
    if a' != ~~~a || a.toNat / 2 ^ 26 != 0 || addr % 4 != 0 || c.inPriv addr then (1, s.reject ch 1 addr ival)
    else if t + (sec.bktB - 1) * sec.intB < c.tatB b then (2, s.reject ch 2 addr ival)
    else if t + (sec.bktA - 1) * sec.intA < c.tatA then (3, s.reject ch 3 addr ival)
    else
      let s := s.modCap ch fun k => { k with tatB := Sparse.insert k.tatB b (max t (c.tatB b) + sec.intB),
                                             tatA := max t c.tatA + sec.intA }
      let r : CapRec := { addr, mask, unknown, time := t, ival }
      let s := if unknown then s.inputLoss ch ival else s
      if c.starved then (0, s)
      else if r.zero then (0, (s.consume ch ival).count 0x00C (some ch) 1)
      else if c.cap.bankq.length ≥ 64 then (5, s.reject ch 5 addr ival)
      else (0, s.modCap ch fun k => { k with bankq := k.bankq ++ [r] })
  | some a, none => (1, s.reject ch 1 (a.toNat % 2 ^ 26) ival)
  | none, _ =>
    (1, { s with freeNo := s.freeNo + 1 }.reject ch 1 ((Config.freeLink s.freeNo).toNat % 2 ^ 26) ival)

/-- Queued records in order of completion time, then bank (R219). -/
def recBefore (a b : CapRec) : Bool := a.time < b.time || (a.time == b.time && a.addr / 2 ^ 21 ≤ b.addr / 2 ^ 21)

/-- The record a template takes at its ACT slot `t` (R219), with the records refused on the way. `open_` tests the banks
the pricking holds open at some slot of the template. -/
def pickRecord (recent : Nat → Bool) (open_ : Nat → Bool) : List CapRec → Option CapRec × List CapRec
  | [] => (none, [])
  | r :: l =>
    let b := r.addr / 2 ^ 21
    if recent b then pickRecord recent open_ l
    else if open_ b then
      let x := pickRecord recent open_ l
      (x.1, r :: x.2)
    else (some r, [])

/-- Bind a record to the template whose TPL_CMD ACT is at ck `t` (R84, R219): its bank when it binds one. -/
def State.bindTemplate (ch t : Nat) (open_ : Nat → Bool) (s : State) : Option CapRec × State :=
  let k := (s.chan ch).cap
  let recent (b : Nat) : Bool := k.recent.any fun x => x.1 == b && t ≤ x.2 + 128
  let x := pickRecord recent open_ (k.bankq.mergeSort recBefore)
  let gone (r : CapRec) : Bool := x.2.contains r || x.1 == some r
  let s := s.modCap ch fun k =>
    { k with bankq := k.bankq.filter fun r => !gone r,
             recent := match x.1 with
               | some r => (k.recent.filter fun y => t ≤ y.2 + 128) ++ [(r.addr / 2 ^ 21, t)]
               | none => k.recent,
             tplRead := k.tplRead ++ [{ start := t, rcd := x.1 }], tplPre := k.tplPre ++ [{ start := t, rcd := x.1 }] }
  (x.1, x.2.foldl (fun s r => s.reject ch 4 r.addr r.ival) s)

/-! ## RECORD_COMPLETE (R205, R211) -/

/-- A scheduled record is complete (R209 to R211). -/
def State.scheduledRecord (ch g : Nat) (ws : List (Option Word)) (t : Nat) (s : State) : State :=
  let k := (s.chan ch).cap
  let n := Sparse.get 0 k.recNo g
  let s := s.modCap ch fun k => { k with recNo := Sparse.set 0 k.recNo g (n + 1) }
  let waits := k.merges.any fun m => !m.tpl && m.group == g && m.k == n && !m.bound
  let r : CapRec := { group := g, k := n, mask := ws.map (·.getD 0), unknown := ws.any (·.isNone), time := t }
  if n < Sparse.get 0 k.readNo g && !waits then s
  else if (s.chan ch).seq.stopAt.isSome && !waits then s
  else if k.rxq.length ≥ 64 then s.modCap ch fun k => { k with lostRecs := k.lostRecs ++ [(g, n)] }
  else s.modCap ch fun k => { k with rxq := k.rxq ++ [r] }

/-- A capture record has arrived whole: 8 or 10 words of its group's stream, complete 10 ck after the start of its last
word's beat (R204, R205). One whose queue entry fails SECDED is an unknown record (R303). -/
def execRecordComplete (ch group : Nat) (hit : StoreHit) (s : State) : Res :=
  let c := s.chan ch
  let sec := c.seq.sect.getD {}
  let addressed := sec.addressedGroup group
  let n := if addressed then 10 else 8
  let ws := Sparse.get [] c.cap.acc group
  let t := ((ws.take n).getLast?.elim 0 fun x => x.1 / 8) + 10
  if sec.func != .capture || ws.length < n || s.now < t then .next s
  else
    let s := s.modCap ch fun k => { k with acc := Sparse.set [] k.acc group (ws.drop n) }
    let vs := (ws.take n).map (·.2)
    let s := s.storeHit ch hit
    let spoil (l : List (Option Word)) : List (Option Word) := if hit == .double then l.map fun _ => none else l
    if !addressed then .next (s.scheduledRecord ch group (spoil vs) t)
    else if c.seq.stopAt.isSome then .next s
    else
      let m := spoil (vs.drop 2)
      .next (s.addressed ch (vs.getD 0 none) (vs.getD 1 none) (m.map (·.getD 0)) (m.any (·.isNone)) t).2

/-! ## The analysis engine (R233 to R243) -/

def State.modAna (ch : Nat) (f : Analysis → Analysis) (s : State) : State := s.modChan ch fun c => { c with ana := f c.ana }

def Analysis.width (a : Analysis) : Nat := a.widthM1 + 1

/-- An output record of the common form (R238). -/
def anaRecord (typ pass x y : Nat) : BitVec 64 :=
  BitVec.ofNat 64 (typ * 2 ^ 60 + pass % 16 * 2 ^ 56 + x % 2 ^ 24 * 2 ^ 32 + y % 2 ^ 32)

/-- A record of pass `p` is to enter the output queue at ck `at_` (R241). -/
def Analysis.emit (a : Analysis) (p : Nat) (at_ : Nat) (r : AnaOut) : Analysis := { a with due := a.due ++ [(at_, p, r)] }

/-- An output record enters the queue at ck `t` (R241, R242): a record of a pass finds room below 254 entries or counts in LOST, and
the summaries find room below 256 or are discarded; with SUMMARY_B the registers change. -/
def Analysis.enterOut (a : Analysis) (t p : Nat) : AnaOut → Analysis
  | .record r =>
    if a.outq.length ≥ 254 then { a with lost := Sparse.modify 0 a.lost p (· + 1) } else { a with outq := a.outq ++ [(t, r)] }
  | .summary x y =>
    let y := y + min (Sparse.get 0 a.lost p) 0xFF
    let a := { a with lost := Sparse.erase a.lost p }
    if a.outq.length ≥ 255 then a
    else { a with sumA := x, sumB := y, outq := a.outq ++ [(t, BitVec.ofNat 64 x), (t, BitVec.ofNat 64 y)] }

/-- What is due by ck `t` enters the output queue, in the order of the ck (R241). -/
def Analysis.settle (a : Analysis) (t : Nat) : Analysis :=
  let now := (a.due.filter fun x => x.1 ≤ t).mergeSort fun x y => decide (x.1 ≤ y.1)
  now.foldl (fun a x => a.enterOut x.1 x.2.1 x.2.2) { a with due := a.due.filter fun x => !decide (x.1 ≤ t) }

/-- Column numbers of the 1 bits of a granule. -/
def setBits (v : BitVec 256) : List Nat := (List.range 256).filter fun i => v.getLsbD i

/-- Add granules to the column counters of a pass (R236). -/
def Pass.addCols (p : Pass) (l : List (Nat × BitVec 256)) : Pass :=
  { p with cols := l.foldl (fun m x => (setBits x.2).foldl (fun m i =>
      Sparse.modify 0 m (256 * x.1 + i) (satAdd 0xFFFFFF · 1)) m) p.cols }

/-- Handle a complete row (R235, R236): its granules by segment. -/
def Analysis.row (a : Analysis) (p row at_ : Nat) (gs : List (Nat × Option (BitVec 256))) : Analysis :=
  let good := gs.filterMap fun x => x.2.map fun v => (x.1, v)
  let cnt := good.foldl (fun n x => n + (setBits x.2).length) 0
  let bad := gs.any (·.2.isNone)
  let upd (f : Pass → Pass) (a : Analysis) : Analysis := { a with passes := Sparse.modify {} a.passes p f }
  let a := upd (fun x => { x with rows := x.rows + 1, total := x.total + cnt }) a
  if bad then
    (upd (fun x => { x.addCols good with unkRows := x.unkRows + 1 }) a).emit p at_ (.record (anaRecord 3 p row cnt))
  else if cnt > a.spareCols then
    (upd (fun x => { x with mustRows := x.mustRows + 1 }) a).emit p at_ (.record (anaRecord 2 p row cnt))
  else
    let a := upd (fun x => x.addCols good) a
    if a.rowThresh != 0 && cnt ≥ a.rowThresh then a.emit p at_ (.record (anaRecord 1 p row cnt)) else a

/-- VERDICT of a pass (R240). -/
def Analysis.verdict (a : Analysis) (x : Pass) (mustCols : Nat) (loss : Bool) : Nat :=
  if x.mustRows > a.spareRows || mustCols > a.spareCols then 2
  else if x.resumedAt != 0 then 4
  else if x.unkRows > 0 || loss then 3
  else if x.total > 0 then 1
  else 0

/-- The end of a pass (R237, R238): its records and its summaries, the LOST field of the second to be filled in as it enters. -/
def Analysis.endPass (a : Analysis) (p at_ : Nat) (loss : Bool) : Analysis :=
  let x0 := Sparse.get {} a.passes p
  let m := min x0.mustRows a.spareRows
  let must (n : Nat) : Bool := n > a.spareRows - m
  let mustCols := (x0.cols.filter fun c => must c.2).length
  let a := x0.cols.foldl (fun a c =>
    if must c.2 then a.emit p at_ (.record (anaRecord 5 p c.1 c.2))
    else if a.colThresh != 0 && c.2 ≥ a.colThresh then a.emit p at_ (.record (anaRecord 4 p c.1 c.2)) else a) a
  let a := x0.unkSeg.foldl (fun a c => a.emit p at_ (.record (anaRecord 6 p (256 * c.1) c.2))) a
  let x := Sparse.get {} a.passes p
  let sumA := 7 * 2 ^ 60 + p % 16 * 2 ^ 56 + a.verdict x mustCols loss * 2 ^ 48 + (if loss then 2 ^ 40 else 0) +
    min x.total (2 ^ 40 - 1)
  let sumB := 8 * 2 ^ 60 + p % 16 * 2 ^ 56 + min x.mustRows 0xFFFF * 2 ^ 40 + min mustCols 0xFFFF * 2 ^ 24 +
    min x.unkRows 0xFFFF * 2 ^ 8
  { a with passes := Sparse.erase a.passes p }.emit p at_ (.summary sumA sumB)

/-- Index range of the granules of row `r` that pass `x` reads. -/
def Analysis.rowIdx (a : Analysis) (x : Pass) (r : Nat) : List Nat :=
  (List.range a.width).filterMap fun j => if r * a.width + j ≥ x.resumedAt then some (r * a.width + j) else none

/-- A granule of a pass has been read (none: unreadable) by an ANA_READ issued at `issue`. A pass whose last ANA_READ was not
issued by the last slot is abandoned (R232). -/
def State.anaData (ch p idx issue : Nat) (v : Option (BitVec 256)) (s : State) : State :=
  if (s.chan ch).seq.stopAt.isSome && p ≥ (s.chan ch).ana.passNo then s
  else s.modChan ch fun c =>
    let a := c.ana.settle s.now
    let w := a.width
    let r := idx / w
    let a := { a with passes := Sparse.modify {} a.passes p fun x =>
      { x with buf := Sparse.insert x.buf idx v,
               unkSeg := if v.isNone then Sparse.modify 0 x.unkSeg (idx % w) (· + 1) else x.unkSeg } }
    let x := Sparse.get {} a.passes p
    let ids := a.rowIdx x r
    if !(ids.all fun i => x.buf.any (·.1 == i)) then { c with ana := a }
    else
      let gs := ids.map fun i => (i % w, Sparse.get none x.buf i)
      let a := { a with passes := Sparse.modify {} a.passes p fun x => { x with buf := x.buf.filter fun y => !ids.contains y.1 } }
      let a := a.row p r (issue + 40) gs
      let x := Sparse.get {} a.passes p
      if x.rows + x.resumedAt / w ≥ a.rowsM1 + 1 then
        { c with ana := a.endPass p (issue + 48 + 8 * w) c.cap.inputLoss }
      else { c with ana := a }

/-- An ANA_READ slot takes the next place of its pass (R233): pass number and index. -/
def Analysis.take (a : Analysis) : (Nat × Nat) × Analysis :=
  let n := (a.rowsM1 + 1) * a.width
  ((a.passNo, a.slotIdx),
    if a.slotIdx + 1 ≥ n then { a with passNo := a.passNo + 1, slotIdx := 0 } else { a with slotIdx := a.slotIdx + 1 })

/-- The data of an ANA_READ arrive (R215, R216, R235). -/
def State.anaRead (ch addr p idx before issue : Nat) (ds : List Decoded) (s : State) : State :=
  let k := (s.chan ch).cap
  let later (o : Option Nat) : Bool := match o with | some t => decide (issue < t) | none => true
  let madePending := k.merges.any fun m => m.addr / 4 == addr / 4 && m.id < before && (m.made || m.owed) && !m.dropped &&
    later m.wrote && later m.cancelAt
  let ws : List (Option (BitVec 64)) := match k.pending addr issue k.nextId true before with
    | some cs => cs.map fun c => if cwMark c then none else some (cwData c)
    | none => ds.map (·.data?)
  let v : Option (BitVec 256) := if madePending || ws.any (·.isNone) then none else
    some (BitVec.ofNat 256 (ws.zipIdx.foldl (fun n x => n + (x.1.getD 0).toNat * 2 ^ (64 * x.2)) 0))
  s.anaData ch p idx issue v

/-- The oldest record of the output queue fails SECDED: it is discarded and counted in LOST of its pass (R303). -/
def Analysis.spoilFirst (a : Analysis) : Analysis :=
  match a.outq with
  | [] => a
  | x :: l =>
    let p := a.passNo - (a.passNo + 16 - x.2.toNat / 2 ^ 56 % 16) % 16
    { a with outq := l, lost := Sparse.modify 0 a.lost p (· + 1) }

/-- The granule an ANA_WRITE at ck `t` writes (R241), and the engine after it. -/
def Analysis.writeOut (a : Analysis) (t : Nat) : List Codeword × Analysis :=
  let a := a.settle (t - 1)
  let out := (a.outq.takeWhile fun x => x.1 < t).take 4
  ((List.range 4).map fun j => encode64 ((out.map (·.2)).getD j 0) false, { a with outq := a.outq.drop out.length })

end Sys2Proof.Machine
end

