-- ==== Sys2Proof/Machine/Crc.lean ====
section
/-! DEFINITION. The CRC model of R542, as one register that takes input bytes. -/

namespace Sys2Proof.Machine

open Sys2Proof

/-- Width and mask of a unit. -/
def Crc.width (c : Crc) : Nat := c.wM1 + 1

/-- One input bit shifted in (R542). -/
def crcBit (w poly reg : Nat) (b : Bool) : Nat :=
  let top := reg / 2 ^ (w - 1) % 2 == 1
  let r := reg * 2 % 2 ^ w
  if top != b then r ^^^ (poly % 2 ^ w) else r

/-- One input byte: least significant bit first when REFIN is 1. -/
def Crc.feed (c : Crc) (x : Byte) : Crc :=
  let order := if c.refin then List.range 8 else (List.range 8).reverse
  { c with reg := order.foldl (fun r i => crcBit c.width c.poly r (x.getLsbD i)) c.reg, fed := c.fed + 1 }

/-- Several bytes, in order. -/
def Crc.feedAll (c : Crc) (l : List Byte) : Crc := l.foldl Crc.feed c

/-- The low `w` bits of a number reversed. -/
def reflect (w n : Nat) : Nat := (List.range w).foldl (fun r i => if bit n i then r + 2 ^ (w - 1 - i) else r) 0

/-- The result (R542). -/
def Crc.result (c : Crc) : Nat :=
  let r := if c.refout then reflect c.width c.reg else c.reg
  (r ^^^ (c.xor % 2 ^ c.width)) % 2 ^ c.width

/-- Unit `u`. -/
def State.crc (s : State) (u : Nat) : Crc := Sparse.get {} s.cnt.crc u
def State.modCrc (u : Nat) (f : Crc → Crc) (s : State) : State :=
  { s with cnt := { s.cnt with crc := Sparse.modify {} s.cnt.crc u f } }

/-- An inline job of the loader unit ends (R546, R548): its comparison holds or not, and `res` is what it computed. -/
def State.inlineJob (ok : Bool) (res : Nat) (s : State) : State :=
  s.modCrc 3 fun c => { c with done := true, mismatch := !ok, res }

/-- The running software jobs that `f` selects end ABANDONED (R545). -/
def State.abandonCrc (f : Crc → Bool) (s : State) : State :=
  (List.range 3).foldl (fun s u =>
    if (s.crc u).busy && f (s.crc u) then
      (s.modCrc u fun c => { c with busy := false, abandoned := true, owner := 0 }).log .crcAbandoned 0
    else s) s

end Sys2Proof.Machine
end

