-- ==== Sys2Proof/Machine/Source.lean ====
section
/-! DEFINITION. The vector source (05): streams, positions, the expander, the release buffer, panic, and the hand-over of
words to the lane switch (WORD_RELEASE). -/

namespace Sys2Proof.Machine

open Sys2Proof

/-! ## Positions (R117, R181, R490) -/

/-- The channel that a bobbin number of a bound lane table stands for (R490). -/
def State.laneOwner (s : State) (b : Nat) : Nat :=
  let c := s.chan b
  if c.substEn then c.substTo else b

/-- The lane group of a direction. -/
def State.group (s : State) (rx : Bool) (g : Nat) : LaneGroup := Sparse.get {} s.lanes.groups (if rx then 8 + g else g)

def State.modGroup (rx : Bool) (g : Nat) (f : LaneGroup → LaneGroup) (s : State) : State :=
  { s with lanes := { s.lanes with groups := Sparse.modify {} s.lanes.groups (if rx then 8 + g else g) f } }

/-- The assigned positions of channel `ch` in a bound lane section: positions of one period, period, and first beat's ck. -/
def State.positions (s : State) (rx : Bool) (g ch : Nat) : Option (List (Nat × Nat) × Nat × Nat) :=
  let gr := s.group rx g
  match gr.sect with
  | none => none
  | some l =>
    let ps := lanePositions s.laneOwner l ch
    if ps.isEmpty then none else some (ps, 2 ^ l.periodLog2, gr.ts)

/-! ## Notices (R365) -/

/-- Two control words are notices of the same type and the same bobbin, or the same receive group. -/
def sameNotice (a b : Word) : Bool :=
  bits a.toNat 31 28 == bits b.toNat 31 28 &&
    (if bits a.toNat 31 28 = 1 then bits a.toNat 22 16 == bits b.toNat 22 16 else bits a.toNat 22 20 == bits b.toNat 22 20)

/-- Queue a notice on transmit group `g` (R365): two sends, at most 16 in the queue. -/
def State.notice (g : Nat) (w : Word) (s : State) : State :=
  s.modGroup false g fun x =>
    if x.notices.any fun n => sameNotice n.1 w then
      { x with notices := x.notices.map fun n => if sameNotice n.1 w then (w, 2) else n }
    else { x with notices := (if x.notices.length ≥ 16 then x.notices.drop 1 else x.notices) ++ [(w, 2)] }

/-- A TIER notice goes to every transmit group that is UP (R364, R365). -/
def State.tierNotice (ch tier : Nat) (inForce : Bool) (s : State) : State :=
  (List.range 8).foldl (fun s g =>
    if (s.group false g).state == .up then
      s.notice g (BitVec.ofNat 32 (2 ^ 28 + ch * 2 ^ 16 + tier * 2 ^ 8 + (if inForce then 1 else 0)))
    else s) s

/-! ## Stream bookkeeping -/

def Source.group (c : Source) (g : Nat) : SrcGroup := Sparse.get {} c.groups g

def State.modSrc (ch : Nat) (f : Source → Source) (s : State) : State := s.modChan ch fun c => { c with src := f c.src }

def State.modSrcGroup (ch g : Nat) (f : SrcGroup → SrcGroup) (s : State) : State :=
  s.modSrc ch fun x => { x with groups := Sparse.modify {} x.groups g f }

/-- Granule `id` of a group. -/
def SrcGroup.gran (g : SrcGroup) (id : Nat) : SrcGran := (g.store.find? (·.id == id)).getD { id }

/-- Change granule `id`, and the words it has in the last-vector register. -/
def SrcGroup.modGran (g : SrcGroup) (id : Nat) (f : SrcGran → SrcGran) : SrcGroup :=
  let u (x : SrcGran) : SrcGran := if x.id == id then f x else x
  { g with store := g.store.map u, reg := g.reg.map fun x => (u x.1, x.2) }

/-- Release-buffer entries a group holds (R189): a LOOP's body granule keeps its entry until its last word is handed over. -/
def SrcGroup.level (g : SrcGroup) : Nat := (g.store.filter fun x => x.entry && x.issued && !x.freed).length

/-- Release-buffer entries in use (R203). -/
def Source.level (c : Source) : Nat := c.groups.foldl (fun a x => a + x.2.level) 0

/-- The first word from `w` on, before word `top`, that granule number `j` of the stretch gives. -/
def SrcSeg.firstWord (x : SrcSeg) (j w top : Nat) : Option Nat :=
  let n := x.ids.length
  if n = 0 || w ≥ top then none
  else if w / 8 % n = j then some w
  else
    let v := w / 8 + (j + n - w / 8 % n) % n
    if 8 * v < top then some (8 * v) else none

/-- The granules a stretch still needs: those with a word still to come, and its header. -/
def SrcSeg.needs (x : SrcSeg) : List Nat :=
  if x.done ≥ x.len then []
  else ((x.ids.zipIdx.filter fun i => (x.firstWord i.2 x.done x.len).isSome).map (·.1)) ++ x.hdr.toList

/-- The granules that a group still needs (R189): all others have been released, or are dropped. -/
def SrcGroup.needs (g : SrcGroup) : List Nat :=
  g.queue ++ g.hdr.toList ++ g.body ++ g.segs.flatMap (·.needs)

/-- A granule leaves the stream, released or dropped: it counts in its span unless it was read while starved (R198, R201).
`deadline` is that of the last word it gave, when it gave one. -/
def State.leaveGran (ch : Nat) (deadline : Option Nat) (x : SrcGran) (s : State) : State :=
  let s := s.count 0x00E (some ch) 1
  if x.starved then s
  else s.modSrc ch fun c =>
    { c with counts := Sparse.modify 0 c.counts x.ival (· + 1),
             handed := match deadline with
               | some d => (c.handed.filter fun y => y.1 ≥ s.now) ++ [(d, x.ival)]
               | none => c.handed }

/-- The granules of a group that nothing needs any more leave the release buffer (R189). One whose data are still to come is kept until
they arrive, for R192. -/
def State.sweepGrans (ch g : Nat) (deadline : Option Nat) (s : State) : State :=
  let gr := (s.chan ch).src.group g
  let need := gr.needs
  let left := gr.store.filter fun x => !x.freed && !need.contains x.id
  let gone (x : SrcGran) : Bool := !x.freed && !need.contains x.id
  let s := s.modSrcGroup ch g fun gr =>
    { gr with store := (gr.store.map fun x => if gone x then { x with freed := true } else x).filter fun x =>
        !x.freed || x.ready.isNone }
  left.foldl (fun s x => s.leaveGran ch deadline x) s

/-- Count a granule in CH_SRC_STATUS.DROPS, once (R202). -/
def State.dropGran (ch g id : Nat) (s : State) : State :=
  if (((s.chan ch).src.group g).gran id).counted then s
  else (s.modSrcGroup ch g fun q => q.modGran id fun x => { x with counted := true }).modSrc ch fun c =>
    { c with drops := satAdd 0xFF c.drops 1 }

/-! ## Headers (R184, R185, R187) -/

/-- A valid header's code, N and K (R187). -/
def headerOf (ws : List Word) : Option (Nat × Nat × Nat) :=
  let w (i : Nat) : Nat := (ws.getD i 0).toNat
  let code := w 0 % 16
  let n := bits (w 0) 15 8
  let k := w 1
  let ok := isComp 32 (w 0) (w 2) && isComp 32 (w 1) (w 3) && bits (w 0) 7 4 == 0 && w 0 / 2 ^ 16 == 0 &&
    (List.range 4).all (fun i => w (4 + i) == 0) &&
    (match code with
     | 0 => n == 0 && k == 0
     | 1 => 1 ≤ n && k == 1
     | 2 => n == 0 && 1 ≤ k
     | 3 => 1 ≤ n && n ≤ 64 && 1 ≤ k
     | _ => false)
  if ok then some (code, n, k) else none

/-! ## The expander -/

/-- Events of one step of the expander: granules to count in DROPS, an invalid header, and the anchors that truncated output, by their
slots' ck. -/
structure SrcEvents where
  drops : List Nat := []
  badHdr : Bool := false
  overlaps : List Nat := []
  deriving Inhabited

/-- Place `len` words of the granules `ids` at the pointer, which moves behind them (R181). -/
def SrcGroup.put (g : SrcGroup) (kind : SegKind) (ids : List Nat) (len : Nat) (hdr : Option Nat) (counts : Bool) : SrcGroup :=
  { g with ptr := g.ptr + len, segs := g.segs ++ [{ kind, start := g.ptr, len, ids, hdr, counts }] }

/-- A stretch cut at position `t`: what stays of it, and the granules that lose a word (R182). Words handed over stay. -/
def SrcSeg.cut (t : Nat) (x : SrcSeg) : SrcSeg × List Nat :=
  let len := min x.len (max x.done (t - x.start))
  ({ x with len },
    if len = x.len then []
    else ((x.ids.zipIdx.filter fun i => (x.firstWord i.2 len x.len).isSome).map (·.1)) ++ (if x.counts then x.hdr.toList else []))

/-- The pointer moves to an anchor's target (R181). Earlier output at or after it is discarded, and a LOOP in progress ends (R182):
its header and the granules read of it lose repetitions, and the anchor's own granule is then a header. -/
def SrcGroup.anchorTo (g : SrcGroup) (x : SrcGran) : SrcGroup × SrcEvents :=
  match x.target with
  | none => (g, {})
  | some t =>
    if t ≥ g.ptr then ({ g with ptr := t }, {})
    else
      let r := g.segs.map (·.cut t)
      let segs := (r.map (·.1)).filter fun y => y.done < y.len
      let lost := r.flatMap (·.2)
      match g.mode with
      | .loop _ _ =>
        ({ g with ptr := t, segs, mode := .header, hdr := none, body := [] },
          { drops := lost ++ g.body ++ g.hdr.toList, overlaps := [x.sched] })
      | _ => ({ g with ptr := t, segs }, { drops := lost, overlaps := [x.sched] })

/-- The record in progress ends with the body granules read (R191, R199). -/
def SrcGroup.endRecord (g : SrcGroup) : SrcGroup := { g with mode := .header, hdr := none, body := [] }

/-- A valid header starts its record (R185, R186). After the last slot a LOOP or HOLD has one repetition (R199). -/
def SrcGroup.record (g : SrcGroup) (id code n k : Nat) (stopped : Bool) : SrcGroup :=
  let k := if stopped then 1 else k
  match code with
  | 0 => g
  | 1 => { g with mode := .literal n, hdr := some id, body := [] }
  | 2 => g.put .hold [] (8 * k) (some id) true
  | _ => { g with mode := .loop n k, hdr := some id, body := [] }

/-- A body granule takes its place (R185, R186): the last of a LOOP is followed by the LOOP's further repetitions. -/
def SrcGroup.bodyGran (g : SrcGroup) (id : Nat) (stopped : Bool) : SrcGroup :=
  match g.mode with
  | .header => g
  | .literal n =>
    let g := g.put .one [id] 8 g.hdr false
    if n ≤ 1 then g.endRecord else { g with mode := .literal (n - 1) }
  | .loop n k =>
    let g := g.put .one [id] 8 g.hdr true
    let body := g.body ++ [id]
    if body.length < n then { g with body }
    else
      let g := if k ≤ 1 || stopped then g else g.put .again body (8 * n * (k - 1)) g.hdr true
      g.endRecord

/-- One step of the expander: it takes the next granule of its queue, when its content is not needed or is there. `stopped` holds once
the channel issues no further slot (R199). -/
def SrcGroup.step (g : SrcGroup) (coded stopped : Bool) : Option (SrcGroup × SrcEvents) :=
  match g.queue with
  | [] => if stopped && g.mode != .header then some (g.endRecord, {}) else none
  | id :: q =>
    let x := g.gran id
    let g' := { g with queue := q }
    if !x.entry then some ({ g'.endRecord with resync := true }, {})
    else if g.resync && x.target.isNone then some (g', { drops := [id] })
    else if !coded then
      let r := g'.anchorTo x
      some ({ (r.1.put .one [id] 8 none false) with resync := false }, r.2)
    else
      match g.mode with
      | .header =>
        if x.ready.isNone then none
        else
          let r := if g.resync then (g', {}) else g'.anchorTo x
          if x.bad then some ({ r.1 with resync := true }, { r.2 with drops := id :: r.2.drops })
          else
            match headerOf x.words with
            | none => some ({ r.1 with resync := true }, { r.2 with drops := id :: r.2.drops, badHdr := true })
            | some (code, n, k) =>
              let r := g'.anchorTo x
              some (({ r.1 with resync := false }).record id code n k stopped, r.2)
      | .literal _ =>
        let r := g'.anchorTo x
        some (r.1.bodyGran id stopped, r.2)
      | .loop _ _ =>
        let r := g'.anchorTo x
        if r.1.mode == .header then some ({ r.1 with queue := id :: q }, r.2) else some (r.1.bodyGran id stopped, r.2)

/-- The checkpoints of a group whose boundary bit is decided now (R200): every granule read before them has been taken. -/
def SrcGroup.settled (g : SrcGroup) : List Nat := (g.marks.filter fun m => g.queue.all fun i => m.2 < i).map (·.1)

/-- The expander expects a header (R200). -/
def SrcGroup.atHeader (g : SrcGroup) : Bool := g.mode == .header && !g.resync

/-- Set the boundary bit of group `g` in the checkpoints of a list (R200). -/
def setBnd (l : List Nat) (g : Nat) (v : Bool) (k : Nat × Ckpt) : Nat × Ckpt :=
  if l.contains k.1 then (k.1, { k.2 with bnd := k.2.bnd.set g v }) else k

/-- Decide the boundary bits of group `g` that are due (R200). -/
def State.settleMarks (ch g : Nat) (s : State) : State :=
  let gr := (s.chan ch).src.group g
  let l := gr.settled
  if l.isEmpty then s
  else
    (s.modSrcGroup ch g fun q => { q with marks := q.marks.filter fun m => !l.contains m.1 }).modChan ch fun c =>
      { c with seq := { c.seq with ckpts := c.seq.ckpts.map (setBnd l g gr.atHeader) } }

/-- Apply the events of an expander step to the channel. -/
def State.srcEvents (ch g : Nat) (e : SrcEvents) (s : State) : State :=
  let s := e.drops.foldl (fun s id => s.dropGran ch g id) s
  let s := if e.badHdr then s.log .vectorHeader ch else s
  let s := e.overlaps.foldl (fun s t => s.logAt { cause := .releaseOverlap, inst := ch, time := t, d0 := g }) s
  (s.settleMarks ch g).sweepGrans ch g none

/-- Run the expander of a group as far as it goes. -/
def State.srcPrep : Nat → Nat → Nat → State → State
  | 0, _, _, s => s
  | n + 1, ch, g, s =>
    let c := s.chan ch
    match (c.src.group g).step c.src.coded c.seq.stopAt.isSome with
    | none => s
    | some (gr, e) => State.srcPrep n ch g ((s.modSrcGroup ch g fun _ => gr).srcEvents ch g e)

/-- Steps enough for everything queued: an anchor inside a LOOP takes two. -/
def State.srcExpand (ch g : Nat) (s : State) : State := State.srcPrep (2 * ((s.chan ch).src.group g).queue.length + 1) ch g s

/-! ## A word (R186, R189, R190) -/

/-- Word `w` of the last-vector register with the granule it is of (R186). -/
def SrcGroup.regWord (g : SrcGroup) (w : Nat) : Option SrcGran := (g.reg.find? fun x => w < x.2).map (·.1)

/-- Word `w` of granule `x` has been produced (R186). -/
def SrcGroup.produce (g : SrcGroup) (x : SrcGran) (w : Nat) : SrcGroup :=
  { g with reg := if w = 7 then [(x, 8)]
      else match g.reg with
        | (y, k) :: l => if y.id == x.id && k = w then (x, w + 1) :: l else (x, w + 1) :: g.reg
        | [] => [(x, w + 1)] }

/-- The group with one more word of its first stretch handed over. -/
def SrcGroup.handed (g : SrcGroup) : SrcGroup :=
  match g.segs with
  | [] => g
  | x :: l => { g with cons := max g.cons (x.start + x.done + 1),
                       segs := if x.done + 1 ≥ x.len then l else { x with done := x.done + 1 } :: l }

/-- The entry of `x` is ready at `deadline` minus 12 ck (R189, R190). -/
def SrcGran.readyBy (x : SrcGran) (deadline : Nat) : Bool :=
  match x.ready with
  | some r => r + 12 ≤ deadline
  | none => false

/-- An anchor that the expander has not taken yet names this position or an earlier one (R182): the word is lost to it. -/
def SrcGroup.lostTo (g : SrcGroup) (p : Nat) : Bool :=
  !g.resync && g.queue.any fun i => match (g.gran i).target with | some t => t ≤ p | none => false

/-- The next word of a group is handed to the lane switch 12 ck before its deadline, or is late (R186, R189, R190). One word. -/
def State.releaseWord (ch g : Nat) (s : State) : State :=
  let c := s.chan ch
  let gr := c.src.group g
  match s.positions false g ch, gr.segs with
  | some (ps, per, ts), x :: _ =>
    let o := x.start + x.done
    let p := posBeat ps per o
    let deadline := ts + 2 * p.1
    if s.now + 12 < deadline || gr.lostTo o then s
    else
      let w := x.done % 8
      let hold := x.kind == .hold
      let own := gr.gran (x.ids.getD (x.done / 8 % max 1 x.ids.length) (x.hdr.getD 0))
      let src := if hold then gr.regWord w else some own
      let ready : Bool := own.readyBy deadline && src.all (·.readyBy deadline)
      let starved := own.starved
      let mute := !ready || starved || src.any (·.bad)
      let word : Word := (src.map fun y => y.words.getD w 0).getD 0
      let reason := if starved then 1 else if src.any (·.bad) then 3 else 2
      let s := if o < gr.cons || (mute && deadline < s.now) then s else s.modGroup false g fun q =>
        { q with launch := q.launch ++ [{ lane := p.2, deadline, word := if mute then none else some word, chan := ch, sent := s.now,
                                           reason }] }
      let late : Bool := !ready && !src.any (·.bad)
      let s := if !late then s else
        let s := s.count 0x00F (some ch) 1
        let s := if own.late then s else s.modSrc ch fun c => { c with lates := satAdd 0xFF c.lates 1 }
        if starved then s else s.log .sourceLate ch
      let gr := if late then gr.modGran own.id fun y => { y with late := true } else gr
      let gr := if hold then gr else gr.produce own w
      (s.modSrcGroup ch g fun _ => gr.handed).sweepGrans ch g (some deadline)
  | _, _ => s

/-- At a position's deadline minus 12 ck the bobbin hands over the word, or the word is late (R189, R190). -/
def execWordRelease (ch group : Nat) (s : State) : Res :=
  if (s.chan ch).seq.sect.elim false (·.func == .source) then .next ((s.srcExpand ch group).releaseWord ch group) else .next s

/-! ## Reads (R179, R181, R191) -/

/-- A read that finds the release buffer full takes no entry (R191): it counts in DROPS and is logged. -/
def State.overflow (ch g id : Nat) (s : State) : State := (s.dropGran ch g id).log .vectorOverflow ch

/-- An SRC_LOAD slot takes its place in the stream of its group (R179); `issued` is false for a displaced read, whose
make-up keeps the place. Answers the granule's number. -/
def State.srcRead (ch : Nat) (w : Word) (sched : Nat) (issued : Bool) (s : State) : Nat × State :=
  let c := s.chan ch
  let g := slotGroup w
  let gr := c.src.group g
  let lead := (c.seq.sect.getD {}).rlsLead
  let target := if slotRls w || gr.first then
      (match s.positions false g ch with
       | some (ps, per, ts) => some (firstPos ps per (sched + lead - ts))
       | none => some 0)
    else none
  let full := issued && c.src.level ≥ 256
  let id := c.src.nextId
  let x : SrcGran := { id, sched, target, issued, made := !issued, starved := c.starved, entry := !full, ival := c.seq.ckptNo }
  let s := s.modSrc ch fun c => { c with nextId := id + 1 }
  let s := s.modSrcGroup ch g fun q => { q with first := false, queue := q.queue ++ [id], store := q.store ++ [x] }
  let s := if full then s.overflow ch g id else s
  (id, s.srcExpand ch g)

/-- The make-up read of granule `id` issues (R191, R196): with the buffer full it takes no entry, its positions carry idle beats, and
the group goes into resync, at the granule when the expander has yet to take it. -/
def State.srcIssue (ch g id : Nat) (s : State) : State :=
  let c := s.chan ch
  let gr := c.src.group g
  if c.src.level ≥ 256 && !(gr.gran id).freed then
    let s := s.modSrcGroup ch g fun q =>
      let q := q.modGran id fun x => { x with issued := true, entry := false, bad := true }
      if q.queue.contains id then q else { q.endRecord with resync := true }
    (s.overflow ch g id).srcExpand ch g
  else s.modSrcGroup ch g fun q => q.modGran id fun x => { x with issued := true }

/-- The data of an SRC_LOAD read arrive (R182 to R192): ready 8 ck after the burst, at `issue + 38`. The data of a granule
without an entry are discarded (R191). -/
def State.srcData (ch g id issue : Nat) (ds : List Decoded) (s : State) : State :=
  let bad := ds.any fun d => d.data?.isNone
  let words := ds.flatMap fun d =>
    let v := (d.data?.getD 0).toNat
    [BitVec.ofNat 32 v, BitVec.ofNat 32 (v / 2 ^ 32)]
  let x := ((s.chan ch).src.group g).gran id
  let s := s.modSrcGroup ch g fun q => q.modGran id fun y =>
    if y.entry then { y with ready := some (issue + 38), words, bad } else { y with ready := some (issue + 38) }
  let s := if bad && x.entry then s.dropGran ch g id else s
  let s := s.modSrcGroup ch g fun q => { q with store := q.store.filter fun y => !(y.freed && y.ready.isSome) }
  s.srcExpand ch g

/-! ## Panic (R193 to R195) -/

/-- The first position that waits for make-up data, if any (R193): of the words placed, or the next position of the group for a granule
that the expander has not taken. -/
def SrcGroup.waitingPos (g : SrcGroup) : Option Nat :=
  let waits (id : Nat) : Bool := let x := g.gran id; x.made && x.ready.isNone && x.entry
  let placed := g.segs.flatMap fun x => x.ids.zipIdx.filterMap fun i =>
    if waits i.1 then (x.firstWord i.2 x.done x.len).map (x.start + ·) else none
  (placed ++ (if g.queue.any waits then [g.ptr] else [])).min?

/-- The smallest finite cover of any group at `now`; none when every cover is unlimited. -/
def State.cover (s : State) (ch : Nat) : Option Int :=
  let c := s.chan ch
  (c.src.groups.filterMap fun x =>
    match x.2.waitingPos, s.positions false x.1 ch with
    | some p, some (ps, per, ts) => some ((ts + 2 * (posBeat ps per p).1 : Nat) - 12 - (s.now : Int))
    | _, _ => none).min?

/-- Panic ends (R195): its duration is logged. -/
def State.endPanic (ch : Nat) (s : State) : State :=
  let c := s.chan ch
  if c.src.panic then
    (s.modSrc ch fun c => { c with panic := false }).log .sourcePanic ch (min (s.now - c.src.panicSince) (2 ^ 24 - 1))
  else s

/-- Enter or leave panic (R193, R195) and keep MIN_COVER (R203). -/
def State.updatePanic (ch : Nat) (s : State) : State :=
  let c := s.chan ch
  let cov := s.cover ch
  let s := match cov with
    | some v => s.modSrc ch fun c => { c with minCover := min c.minCover (min v.toNat 0xFFFF) }
    | none => s
  let low (t : Nat) : Bool := match cov with | some v => decide (v < (t : Int)) | none => false
  if !c.src.panic then
    if c.src.panicCk != 0 && low c.src.panicCk then
      s.modSrc ch fun c => { c with panic := true, panicSince := s.now, panics := satAdd 0xFF c.panics 1 }
    else s
  else if c.src.panicCk = 0 || !low (c.src.panicCk + 64) then s.endPanic ch
  else s

/-! ## The last slot (R199) -/

/-- Everything read has been released (R173 step 2, R189). -/
def SrcGroup.empty (g : SrcGroup) : Bool := g.queue.isEmpty && g.segs.isEmpty && g.mode == .header
def Source.empty (c : Source) : Bool := c.groups.all fun x => x.2.empty

/-- `n` rounded up to a multiple of `k`. -/
def roundUp (n k : Nat) : Nat := (n + k - 1) / k * k

/-- A stop ends a LOOP or a HOLD with the repetition under way (R199); a HOLD of which nothing has been handed over has its first. -/
def SrcSeg.stop (x : SrcSeg) : SrcSeg :=
  match x.kind with
  | .one => x
  | .again => { x with len := min x.len (roundUp x.done (8 * x.ids.length)) }
  | .hold => { x with len := min x.len (roundUp (max 1 x.done) 8) }

/-- The stop of a group at the last slot. -/
def SrcGroup.stop (g : SrcGroup) : SrcGroup := { g with segs := (g.segs.map (·.stop)).filter fun x => x.done < x.len }

/-- The streams of a channel stop at the last slot (R199). -/
def State.stopStreams (ch : Nat) (s : State) : State :=
  let s := s.modSrc ch fun c => { c with groups := c.groups.map fun g => (g.1, g.2.stop) }
  ((s.chan ch).src.groups.map (·.1)).foldl (fun s g => (s.sweepGrans ch g none).srcExpand ch g) s

end Sys2Proof.Machine
end

