-- ==== Sys2Proof/Machine/Direct.lean ====
section
/-! DEFINITION. Direct Access (07) and the opportunities of a channel (R73, R247, R263): make-up operations, scrub
operations (R294, R295), Direct Access operations, and the descriptors READ, WRITE and FILL. -/

namespace Sys2Proof.Machine

open Sys2Proof

/-! ## Floor balance and tokens (R248, R262) -/

/-- The floor balance brought to ck `t` (R248), in units of 2^-24. -/
def Chan.bringBalance (t : Nat) (c : Chan) : Chan :=
  let f := (c.seq.sect.getD {}).scrubFloor
  { c with da := { c.da with balance := c.da.balance + f * (t - c.da.balSince), balSince := t } }

/-- One scrub operation at ck `t` leaves the floor balance (R248). -/
def Chan.takeFloor (t : Nat) (c : Chan) : Chan :=
  let c := c.bringBalance t
  { c with da := { c.da with balance := c.da.balance - 2 ^ 24 } }

def Direct.class (d : Direct) (k : Nat) : DaClass := Sparse.get {} d.cls k
def Direct.modClass (d : Direct) (k : Nat) (f : DaClass → DaClass) : Direct := { d with cls := Sparse.modify {} d.cls k f }

/-- A class's bucket gains its tokens up to ck `t` (R262). -/
def DaClass.gain (t : Nat) (k : DaClass) : DaClass :=
  { k with tokens := min (k.tokens + k.rate * (t - k.lastGain)) (k.burst * 65536), lastGain := t }

/-- The gains of the idle schedule, one every 4,096 ck (R262). -/
def DaClass.gainIdle (t : Nat) (k : DaClass) : DaClass := k.gain (k.lastGain + (t - k.lastGain) / 4096 * 4096)

def Direct.gain (t : Nat) (d : Direct) : Direct := (List.range 4).foldl (fun d k => d.modClass k (·.gain t)) d

/-- A bank that the pricking holds closed (R59, R245). -/
def Chan.bankFree (c : Chan) (b : Nat) : Bool := !c.reg.openRows.any (·.1 == b)
def cwBank (a : Nat) : Nat := a / 2 ^ 21 % 32

/-- Derating has reached step 1 of R96 (R247 rank 5): the throttle rung is at least 1. -/
def State.scrubShed (s : State) : Bool := s.thm.rung ≥ 1

/-! ## Make-up (R72, R73, R191, R216, R594) -/

/-- A pair that no longer has an effect. -/
def Capture.gone (k : Capture) (id : Nat) : Bool :=
  match k.merge? id with
  | some m => m.dropped || m.cancelAt.isSome
  | none => true

/-- Make-up operations whose pair was dropped or cancelled need none. -/
def Chan.liveMakeup (c : Chan) : List MakeUp :=
  c.refr.makeup.filter fun m =>
    match m.pair, m.reader with
    | some id, _ => !c.cap.gone id
    | none, some (.merge id) => !c.cap.gone id
    | _, _ => true

/-- A write to granule `a` waits for the rewrite of a scrub (R294). -/
def Chan.rewriteHolds (c : Chan) (a : Nat) : Bool := c.ecc.rewrite.any fun r => r.gran / 4 == a / 4

/-- What a make-up operation needs is there: the merged data of a pair's write, and for a write no rewrite in its way. -/
def Chan.makeupData (c : Chan) (m : MakeUp) : Bool :=
  match m.pair, m.reader with
  | some id, _ => (c.cap.merge? id).any (fun e => e.merged.isSome) && !c.rewriteHolds m.addr
  | none, some _ => true
  | none, none => !c.rewriteHolds m.addr

/-- The make-up operation that may issue: the first in slot order whose bank is closed, once what it needs is there (R73). -/
def Chan.makeupReady (c : Chan) : Option MakeUp :=
  (c.liveMakeup.find? fun m => c.bankFree (cwBank m.addr)).filter c.makeupData

/-- Serve one make-up operation: its column command issues at ck `t`, the write of a pair at ck `tw`. -/
def State.makeupOp (ch t tw : Nat) (m : MakeUp) (s : State) : State :=
  let s := s.modChan ch fun c => { c with refr := { c.refr with makeup := c.liveMakeup.erase m } }
  let s := s.count 0x011 (some ch) 1
  match m.pair, m.reader with
  | some id, _ =>
    match (s.chan ch).cap.merge? id with
    | some e => ((s.mergeWrite ch tw e).modCap ch fun k => k.prune tw).opened ch tw
    | none => s
  | none, some r =>
    let s := (s.fly ch m.addr t r).opened ch t
    match r with
    | .src g id => s.srcIssue ch g id
    | .merge id => s.modMerge ch id fun e => { e with readAt := some t }
    | _ => s
  | none, none => (s.writeGranule ch t m.addr m.data).opened ch t

/-! ## The scrubber (R293 to R298) -/

/-- Address of a sweep index (R294): row, bank, column. -/
def sweepAddr (i : Nat) : Nat := i / 64 % 32 * 2 ^ 21 + i / 2 ^ 11 * 256 + i % 64 * 4

/-- The sweep visits this granule: its bank's INIT bit is 1, or it lies in the privileged region (R257). -/
def Chan.swept (c : Chan) (i : Nat) : Bool := c.da.init.getLsbD (i / 64 % 32) || c.inPriv (sweepAddr i)

/-- The first visited index from `i` on, within `n` steps. -/
def Chan.sweepFrom (c : Chan) : Nat → Nat → Option Nat
  | 0, _ => none
  | n + 1, i => if i ≥ 2 ^ 24 then none else if c.swept i then some i else c.sweepFrom n (i + 1)

/-- The next granule of the sweep from index `i`, within the pass; none when the pass holds no more. -/
def Chan.nextSweep (c : Chan) (i : Nat) : Option Nat :=
  let i := if c.da.init == 0 then max i ((8192 - privRows c.priv) * 2 ^ 11) else i
  if c.da.init == 0 && c.priv = 0 then none else c.sweepFrom 4096 i

/-- The scrub period in force, in ck (R293). -/
def Integrity.periodCk (e : Integrity) : Nat := e.period * 2 ^ 24

/-- A pass that has lasted longer than a period is late, once (R298). No pass is under way while the index is 0. -/
def State.checkLate (ch : Nat) (s : State) : State :=
  let e := (s.chan ch).ecc
  if e.sweep != 0 && !e.passLate && s.now > e.passStart + e.periodCk then
    (s.modChan ch fun c => { c with ecc := { c.ecc with passLate := true, late := true } }).log .scrubLate ch
  else s

/-- What the next scrub operation reads: a targeted granule, or the next granule of the sweep with its index. -/
def Chan.scrubNext (c : Chan) (free : Nat → Bool) : Option (Nat × Option Nat) :=
  match c.ecc.targeted.find? fun a => free (cwBank a) with
  | some a => some (a, none)
  | none =>
    if !c.ecc.scrubEn then none
    else
      match (c.nextSweep c.ecc.sweep).orElse fun _ => c.nextSweep 0 with
      | some i => if free (cwBank (sweepAddr i)) then some (sweepAddr i, some i) else none
      | none => none

/-- The word a scrub rewrites for a decode (R294 step 3). -/
def scrubWord : Decoded → Codeword
  | .correct d => encode64 d false
  | .corrected d _ => encode64 d false
  | .poison w _ => w
  | .uncorrectable => canonicalPoison

/-- The codeword addresses that a scrub poisoned (R294 step 4). -/
def State.scrubPoisoned (ch a : Nat) (s : State) : State :=
  let d := devAddr ch a
  let s := s.log .scrubPoisoned ch (d % 2 ^ 32) (d / 2 ^ 32)
  let s := s.modChan ch fun c => { c with ecc := { c.ecc with poisoned := satAdd 0xFF c.ecc.poisoned 1 } }
  s.corrEnter ch { priv := (s.chan ch).inPriv a, state := .uncorrectable, addr := a }

/-- The rewrite at ck `t` that a scrub read owes (R294). -/
def State.scrubRewrite (ch t : Nat) (g : Nat) (ws : List Codeword) (s : State) : State :=
  let s := s.modChan ch fun c => { c with ecc := { c.ecc with rewrite := none } }
  (s.writeGranule ch t g ws).count 0x008 (some ch) 1

/-- The sweep visits index `i` (R298): a pass starts when none was under way, and ends when no index after `i` is visited. -/
def State.visit (ch i : Nat) (s : State) : State :=
  let e := (s.chan ch).ecc
  let s := s.checkLate ch
  s.modChan ch fun c =>
    let new := e.sweep = 0 || i < e.sweep
    { c with ecc := { c.ecc with sweep := if (c.nextSweep (i + 1)).isSome then i + 1 else 0,
                                 passStart := if new then s.now else e.passStart, passLate := c.ecc.passLate && !new } }

/-- One scrub operation at ck `t` (R294, R295): the rewrite owed when it ranks here, which `mine` tests, else a read of the next granule.
Answers whether the opportunity was used and whether it was a read (which lowers the floor balance, R248). -/
def State.scrubOp (ch t : Nat) (mine : Bool → Bool) (free : Nat → Bool) (noise : List Codeword) (s : State) : Option Bool × State :=
  let c := s.chan ch
  match c.ecc.rewrite with
  | some r =>
    if mine r.floor && free (cwBank r.gran) then (some false, s.scrubRewrite ch t r.gran r.words) else (none, s)
  | none =>
    match c.scrubNext free with
    | none => (none, s)
    | some (a, idx) =>
      let s := match idx with
        | none => s.modChan ch fun c => { c with ecc := { c.ecc with targeted := c.ecc.targeted.erase a } }
        | some i => s.visit ch i
      let s := (s.count 0x007 (some ch) 1).sent ch { ck := t, sort := .read, addr := a }
      let (ds, s) := s.readGranule ch a .scrub noise
      let fix := ds.any fun d => !d.fixed.isEmpty || d == .uncorrectable
      let s := ds.zipIdx.foldl (fun s d => if d.1 == .uncorrectable then s.scrubPoisoned ch (a + d.2) else s) s
      let r : Rewrite := { gran := a, words := ds.map scrubWord, floor := mine true }
      (some true, if fix then s.modChan ch fun c => { c with ecc := { c.ecc with rewrite := some r } } else s)

/-! ## Direct Access operations (R261 to R265) -/

/-- Started Direct Access descriptors of a class on a channel, with their contexts (R262). -/
def State.daStarted (s : State) (ch k : Nat) : List (Nat × Desc) :=
  s.ctxs.flatMap fun x => (x.2.acc.filter fun d =>
    isDaOp d.op && d.phase == .started && d.ch == ch && d.cls == k).map fun d => (x.1, d)

/-- The granules of a descriptor by bank: (first granule, number, issued). -/
def bankParts (first n : Nat) : List (Nat × Nat × Nat) :=
  (List.range 32).filterMap fun b =>
    let lo := max first (b * 2 ^ 19)
    let hi := min (first + n) ((b + 1) * 2 ^ 19)
    if lo < hi then some (lo, hi - lo, 0) else none

/-- The place of a bank's part of a FILL among the others (R254): granules come from the banks in turn, one bank group after another. -/
def fillOrder (p : Nat × Nat × Nat) : Nat := p.2.2 * 32 + p.1 / 2 ^ 19 % 4 * 8 + p.1 / 2 ^ 19 / 4

/-- The next granule of a descriptor whose bank is free. DESIGN CHOICE (log 149): a READ or WRITE takes its granules in order of address. -/
def Desc.nextGran (d : Desc) (free : Nat → Bool) : Option Nat :=
  let l := d.parts.filter fun p => p.2.2 < p.2.1 && free (p.1 / 2 ^ 19)
  let p := if d.op = 0x12 then l.find? fun p => l.all fun x => fillOrder p ≤ fillOrder x else l.head?
  p.map fun p => p.1 + p.2.2

/-- Mark granule `g` issued. -/
def Desc.markGran (d : Desc) (g : Nat) : Desc :=
  { d with issued := d.issued + 1,
           parts := d.parts.map fun p => if p.1 + p.2.2 = g && p.2.2 < p.2.1 then (p.1, p.2.1, p.2.2 + 1) else p }

/-- Round robin over the started descriptors with work: the next by order of acceptance after the last served (R263). -/
def pickDesc (rr : Nat) (l : List (Nat × Desc)) : Option (Nat × Desc) :=
  let least (l : List (Nat × Desc)) : Option (Nat × Desc) :=
    l.foldl (fun a x => match a with
      | none => some x
      | some y => if x.2.accNo < y.2.accNo then some x else a) none
  (least (l.filter fun x => x.2.accNo ≥ rr)).orElse fun _ => least l

/-- One 32-byte granule of staged or host data as four codewords (R252, R253). -/
def granOf (b : List Byte) (i : Nat) : List Codeword :=
  (List.range 4).map fun j => encode64 (BitVec.ofNat 64 (leAt b (32 * i + 8 * j) 8)) false

/-- Status 0 and the release of a WRITE's staging space when every granule is complete. -/
def State.daFinish (n seq : Nat) (s : State) : State :=
  match (s.ctx n).acc.find? fun d => d.seq == seq && d.phase == .started with
  | none => s
  | some d =>
    if d.complete < d.total then s
    else
      let s := if d.op = 0x11 then { s with host := { s.host with stageUsed := s.host.stageUsed - d.daLen } } else s
      s.finish n seq 0

/-- Issue granule `g` of a started descriptor at ck `t`; `fail` is an uncorrectable word of write data in its crossing
(R303). -/
def State.daIssue (ch t n : Nat) (d : Desc) (g : Nat) (fail : Bool) (s : State) : State :=
  let s := s.modDesc n d.seq fun d => d.markGran g
  let s := s.count 0x010 (some ch) 1 fun q => bit q 2 || q % 4 == d.cls
  let i := g - d.first
  let s := s.opened ch t
  if d.op = 0x10 then s.fly ch (4 * g) t (.da n d.seq i)
  else
    let ws := if d.op = 0x12 then fillGranule (BitVec.ofNat 64 d.pattern) d.fillPoison
      else if fail then List.replicate 4 canonicalPoison else granOf d.staged i
    let s := s.writeGranule ch t (4 * g) ws
    (s.modDesc n d.seq fun d => { d with complete := d.complete + 1 }).daFinish n d.seq

/-- The next granule of a device-range CRC job of a class on a channel, when its bank is free (R544). -/
def State.crcPick (s : State) (ch k : Nat) (free : Nat → Bool) : Option (Nat × Nat) :=
  (List.range 3).findSome? fun u =>
    let c := Sparse.get {} s.cnt.crc u
    let a := byteCw c.addr / 4 + c.issued
    if c.busy && c.src = 1 && c.cls = k && byteChan c.addr = ch && 32 * c.issued < c.len && free (cwBank (4 * a)) then some (u, a)
    else none

/-- Issue one granule of a CRC job (R544). -/
def State.crcIssue (ch t k : Nat) (x : Nat × Nat) (s : State) : State :=
  let i := (Sparse.get {} s.cnt.crc x.1).issued
  let s := { s with cnt := { s.cnt with crc := Sparse.modify {} s.cnt.crc x.1 fun c => { c with issued := c.issued + 1 } } }
  ((s.opened ch t).fly ch (4 * x.2) t (.crc x.1 i)).count 0x010 (some ch) 1 fun q => bit q 2 || q % 4 == k

/-- The descriptor has a granule that may go next: its bank is free, and for a write no rewrite is in its way (R294). -/
def Chan.daReady (c : Chan) (free : Nat → Bool) (d : Desc) : Bool :=
  match d.nextGran free with
  | some g => d.op = 0x10 || !c.rewriteHolds (4 * g)
  | none => false

/-- Rank 4 (R263): try classes 0 to 3; answers whether the opportunity was taken. -/
def State.daOp (ch t : Nat) (free : Nat → Bool) (fail : Bool) (s : State) : List Nat → Bool × State
  | [] => (false, s)
  | k :: ks =>
    let c := s.chan ch
    let x := c.da.class k
    let l := (s.daStarted ch k).filter fun d => c.daReady free d.2
    if x.shed then s.daOp ch t free fail ks
    else if x.rate != 0 && x.tokens < 65536 then s.daOp ch t free fail ks
    else
      match pickDesc x.rr l with
      | none =>
        match s.crcPick ch k free with
        | some u => (true, (s.modChan ch fun c => { c with da := c.da.modClass k fun x =>
            { x with tokens := if x.rate = 0 then x.tokens else x.tokens - 65536 } }).crcIssue ch t k u)
        | none => s.daOp ch t free fail ks
      | some (n, d) =>
        let s := s.modChan ch fun c => { c with da := c.da.modClass k fun x =>
          { x with rr := d.accNo + 1, tokens := if x.rate = 0 then x.tokens else x.tokens - 65536 } }
        (true, s.daIssue ch t n d ((d.nextGran free).getD 0) fail)

/-- STALLED of each class (R270): in the OPEN run so far, when `again`, or now the class has a started descriptor with work and no
free bank for any. -/
def State.noteStalled (ch : Nat) (again : Bool) (s : State) : State :=
  let free := (s.chan ch).bankFree
  (List.range 4).foldl (fun s k =>
    let l := (s.daStarted ch k).filter fun d => d.2.issued < d.2.total
    let st := !l.isEmpty && l.all fun d => (d.2.nextGran free).isNone
    s.modChan ch fun c => { c with da := c.da.modClass k fun x => { x with stalled := st || (again && x.stalled) } }) s

/-! ## READ, WRITE and FILL (R249 to R256) -/

/-- The checks of R250, in order. -/
def State.daCheck (s : State) (d : Desc) : Option Nat :=
  if daFieldBad d then some 0x0012
  else if rangeBad s.members d.daAddr d.daLen then some 0x0013
  else if rangePriv (s.chan d.ch).priv d.daAddr d.daLen then some 0x0014
  else if (s.chan d.ch).func == .retired then some 0x0040
  else none

/-- A descriptor of the class accepted earlier could start now (R262, subject to R165). -/
def State.earlierWaits (s : State) (d : Desc) : Bool :=
  (s.ctxs.map (·.1)).any fun n => [0x10, 0x11, 0x12].any fun op =>
    match s.startable n op with
    | some e => e.ch == d.ch && e.cls == d.cls && e.accNo < d.accNo && (s.daCheck e).isNone
    | none => false

/-- The modes that serve Direct Access (R432). -/
def State.daMode (s : State) : Bool := s.pwr.mode == .service || s.pwr.mode == .maintenance

/-- A start place of the descriptor's class is free, none accepted before it is first, and no retirement is under way
(R262, R300). -/
def State.mayTakePlace (s : State) (d : Desc) : Bool :=
  let c := s.chan d.ch
  s.daMode && s.thm.tripOrderly.isNone && (s.daStarted d.ch d.cls).length ≤ (c.da.class d.cls).outM1 && !c.retirePend && !s.earlierWaits d

/-- Start a checked descriptor: it takes a start place (R262). -/
def State.daStart (n : Nat) (d : Desc) (staged : List Byte) (s : State) : State :=
  s.modDesc n d.seq fun d => { d with phase := .started, staged, parts := bankParts d.first d.total,
                                      shed := ((s.chan d.ch).da.class d.cls).shed }

/-- What a READ or FILL does when it is next in its context: it is refused (R250), starts, or waits. -/
def State.startDa (n op : Nat) (s : State) : State :=
  match s.startable n op with
  | none => s
  | some d =>
    match s.daCheck d with
    | some st => s.finish n d.seq st
    | none => if s.mayTakePlace d then s.daStart n d [] else s

/-- READ (R252). -/
def execRead (ctx : Nat) (s : State) : Res := .next (s.startDa ctx 0x10)

/-- FILL (R254). -/
def execFill (ctx : Nat) (s : State) : Res := .next (s.startDa ctx 0x12)

/-- The data of a fetch, when it succeeded at its first or second try (R253). -/
def fetchData : Fetch → Option (List Byte)
  | .ok b => some b
  | .retried b => some b
  | .failed => none

/-- The request did not fail at its first try. -/
def firstTry : Fetch → Bool
  | .ok _ => true
  | _ => false

/-- WRITE (R253): all its data are staged, in requests of at most 4 KiB, each issued once more when it fails,
before it writes any granule. -/
def execWrite (ctx : Nat) (fetches : List Fetch) (s : State) : Res :=
  match s.startable ctx 0x11 with
  | none => .next s
  | some d =>
    match s.daCheck d with
    | some st => .next (s.finish ctx d.seq st)
    | none =>
      if !s.mayTakePlace d || !s.hostUp || s.host.stageUsed + d.daLen > 2 ^ 20 then .next s
      else if fetches.length ≠ (d.daLen + 4095) / 4096 then .next s
      else
        let ask (i : Nat) (s : State) : State := s.hostRead (d.hostAddr + 4096 * i) (min 4096 (d.daLen - 4096 * i))
        let s := fetches.zipIdx.foldl (fun s x => if firstTry x.1 then ask x.2 s else ask x.2 (ask x.2 s)) s
        let got := fetches.filterMap (fetchData)
        let s := s.count 0x10C none (got.foldl (fun a b => a + b.length) 0)
        if fetches.any fun f => (fetchData f).isNone then .next (s.finish ctx d.seq 0x0042)
        else
          let s := { s with host := { s.host with stageUsed := s.host.stageUsed + d.daLen } }
          .next (s.daStart ctx d got.flatten)

end Sys2Proof.Machine
end

