-- ==== Sys2Proof/Machine/Slots.lean ====
section
/-! DEFINITION. The slots of a pricking (02, 03): the executed stream, one meaning per slot opcode, checkpoints, RUNs,
OPEN runs, tier switches and the steal of the refresh warden. -/

namespace Sys2Proof.Machine

open Sys2Proof

/-! ## The executed stream (R110, R122) -/

/-- The card word of a slot. -/
def Seq.wordAt (q : Seq) (p : Pos) : Word := Sparse.get 0 q.card (((q.sect.getD {}).motifAt p).card + p.off)

/-- A slot ahead in the stream: its place, word and effective address. -/
structure SlotAt where
  pos : Pos
  word : Word
  addr : Nat
  deriving Inhabited

/-- The next `n` slots from place `p` with generator offsets `g`. -/
def Seq.ahead (q : Seq) : Nat → Option Pos → List Nat → List SlotAt
  | 0, _, _ => []
  | _, none, _ => []
  | n + 1, some p, g =>
    let x := q.sect.getD {}
    let w := q.wordAt p
    let r := genSlot x.gens g w
    { pos := p, word := w, addr := r.1 } :: Seq.ahead q n (x.nextSel q.tierSel p) r.2

/-- Slots from the current one on. -/
def Seq.upcoming (q : Seq) (n : Nat) : List SlotAt := q.ahead n (some q.pos) q.gens

/-- Runs that matter at run time: OPEN runs and maintenance windows. -/
def runKey (w : Word) : Nat := if isMaint w then 16 else slotOp w

/-- Length of the run or window that `p` starts, at most `n` (R49, R77). -/
def Seq.runFrom (q : Seq) (key : Nat) : Nat → Option Pos → Nat
  | 0, _ => 0
  | _, none => 0
  | n + 1, some p =>
    if runKey (q.wordAt p) = key then 1 + Seq.runFrom q key n ((q.sect.getD {}).nextSel q.tierSel p) else 0

/-- Length of the run of one opcode that `p` starts, at most `n`. -/
def Seq.runOf (q : Seq) (op : Nat) : Nat → Option Pos → Nat
  | 0, _ => 0
  | _, none => 0
  | n + 1, some p =>
    if slotOp (q.wordAt p) = op then 1 + Seq.runOf q op n ((q.sect.getD {}).nextSel q.tierSel p) else 0

/-- Longest run that is looked ahead at once. -/
def runCap : Nat := 2 ^ 24

/-! ## Credits and the warden (R62, R69, R70) -/

def State.modSeq (ch : Nat) (f : Seq → Seq) (s : State) : State := s.modChan ch fun c => { c with seq := f c.seq }
def State.modReg (ch : Nat) (f : Region → Region) (s : State) : State := s.modChan ch fun c => { c with reg := f c.reg }

/-- The banks among those `f` names that take a credit at `t`. -/
def Refresh.takers (r : Refresh) (t : Nat) (f : Nat → Bool) : List Nat :=
  (List.range 32).filter fun b => f b && decide (r.debtAt t b ≥ -174720)

/-- A refresh command of the slot at ck `t` credits the banks `f` names (R62); a skipped credit counts in SURPLUS (R76).
Answers whether the command is sent. -/
def State.refreshAt (ch t : Nat) (f : Nat → Bool) (s : State) : Bool × State :=
  let r := (s.chan ch).refr.credit t f
  let s := s.sent ch { ck := t, sort := .refresh, banks := (s.chan ch).refr.takers t f }
  let sur := if r.2.2 then satAdd 0xFF r.1.surplus 1 else r.1.surplus
  (r.2.1, s.modChan ch fun c =>
    { c with refr := { r.1 with surplus := sur },
             reg := if r.2.1 then { c.reg with lastRef := t, rowCounter := (c.reg.rowCounter + 1) % 2048 } else c.reg })

/-- The warden is active at ck `t` (R69). -/
def Chan.wardenActive (c : Chan) (t : Nat) : Bool :=
  c.refr.band > (c.seq.sect.getD {}).cover || c.refr.maxOwed t ≥ 6

/-- The warden's own REFab at ck `t`: every bank takes its credit where R62 lets it. -/
def State.wardenRefresh (ch t : Nat) (s : State) : State :=
  let r := (s.chan ch).refr.credit t fun _ => true
  let s := s.sent ch { ck := t, sort := .refresh, banks := (s.chan ch).refr.takers t fun _ => true }
  (s.modChan ch fun c => { c with refr := r.1, reg := { c.reg with lastRef := t, rowCounter := (c.reg.rowCounter + 1) % 2048 } }).count
    0x012 (some ch) 1

/-- A refresh-capable run starts at one of the slots `l`, of which the first is slot `j` after a slot of key `prev`
(R69). `open_` counts the pricked banks open. -/
def capableStart : Option Nat → List (Nat × Nat) → List SlotAt → Bool
  | _, _, [] => false
  | prev, rows, x :: l =>
    let k := slotOp x.word
    let starts := (k = opOPEN || k = opSCRUB) && prev != some k && rows.isEmpty &&
      ((x :: l).takeWhile fun y => slotOp y.word = k).length ≥ 640
    let rows' := if k = opACT then (x.addr / 2 ^ 21, 0) :: rows
      else if k = opPRE then rows.filter (·.1 != x.addr / 2 ^ 21)
      else if k = opPREA then [] else rows
    starts || capableStart (some k) rows' l

/-- Some bank owes 9 before one of the slots `l` or after the last, with the credits of the slots passed (R70): `ds` are the debts
at the ck of the first. -/
def debtBreaks (k : Nat) : List Int → List SlotAt → Bool
  | ds, [] => ds.any (· ≥ 224640)
  | ds, x :: l =>
    let op := slotOp x.word
    let take (d : Int) : Int := if d ≥ -174720 then d - 24960 else d
    let after := if op = opREFAB then ds.map take else if op = opREFPB then ds.modify (x.addr / 2 ^ 21) take else ds
    ds.any (· ≥ 224640) || debtBreaks k (after.map (· + (k : Int))) l

/-- The warden starts a steal at the current slot (R70): a bank would owe 9 by 80 ck later, and no refresh-capable run
starts before. -/
def Chan.stealDue (c : Chan) : Bool :=
  let q := c.seq
  let r := c.refr.bring q.slotCk
  if !(r.debt.any fun d => d + 80 * (r.band : Int) ≥ 224640) then false
  else
    let l := q.upcoming 719
    debtBreaks r.band r.debt (l.take 80) &&
      !(capableStart (if q.runOff = 0 then none else some (slotOp (q.wordAt q.pos))) c.reg.openRows l)

/-! ## The current slot -/

/-- The card at ck `t`: the blocks that FETCH has read hold their words from 32 ck after its slot on (R118). -/
def Seq.fillCard (q : Seq) (t : Nat) : Seq :=
  let due := q.fills.filter fun x => x.1 ≤ t
  { q with fills := q.fills.filter fun x => !decide (x.1 ≤ t),
           card := due.foldl (fun m x => x.2.2.zipIdx.foldl (fun m y => Sparse.set 0 m (8 * x.2.1 + y.2) y.1) m) q.card }

/-- The slot of channel `ch` that may issue now, when its opcode is `op`: the channel runs (or stops before its last slot),
its ck has come, no tier switch is pending and no steal starts at it. -/
def State.slotNow (s : State) (ch op : Nat) : Option Word :=
  let c := s.chan ch
  let q := c.seq
  if (c.state == .running || c.state == .stopping) && q.stopAt.isNone && q.sect.isSome && q.slotCk ≤ s.now && !q.atSwitch then
    let w := q.wordAt q.pos
    if slotOp w = op && !c.stealDue then some w else none
  else none

/-- Generator offsets move whether or not the command is sent (R115). -/
def Seq.genNow (q : Seq) (w : Word) : Nat × List Nat := genSlot (q.sect.getD {}).gens q.gens w

/-- STARVED follows the RUNs (R162): no accepted RUN's span holds the interval. One C0 fault per starvation. -/
def State.updateStarved (ch : Nat) (s : State) : State :=
  let c := s.chan ch
  let on := (c.func == .source || c.func == .capture) &&
    !(c.runs.any fun r => r.startC ≤ c.seq.ckptNo && c.seq.ckptNo < r.endC)
  let s2 := s.modChan ch fun c => { c with starved := on }
  if on && !c.starved then s2.log .starved ((s.functionCtx ch).getD 0) else s2

/-- The boundary bit of a transmit group at a checkpoint (R200), when it is decided already: everything read before has been taken. -/
def SrcGroup.boundary (g : SrcGroup) (coded : Bool) : Bool := !coded || (g.queue.isEmpty && g.atHeader)

/-- A CKPT slot records its checkpoint (R117, R200, R243): the place of the slot and the offsets after it. A boundary bit that granules
still to be taken decide is set when they are. -/
def State.checkpoint (ch t : Nat) (p : Pos) (g : List Nat) (s : State) : State :=
  let time := s.gtOf t
  let s := s.modChan ch fun c =>
    let n := c.seq.ckptNo + 1
    let bnd := (List.range 8).map fun i => (c.src.group i).boundary c.src.coded
    let k : Ckpt := { time, ck := t, pos := p, gens := g, rows := c.reg.openRows, bnd, passNo := c.ana.passNo, passIdx := c.ana.slotIdx }
    let mark (x : Nat × SrcGroup) : Nat × SrcGroup :=
      match x.2.queue.getLast? with
      | some id => if c.src.coded then (x.1, { x.2 with marks := x.2.marks ++ [(n, id)] }) else x
      | none => x
    { c with seq := { c.seq with ckptNo := n, ckpts := Sparse.insert c.seq.ckpts n k },
             src := { c.src with groups := c.src.groups.map mark } }
  s.updateStarved ch

/-- The stream has issued its last slot B (R173 steps 1 and 2, R199, R232): the passes whose last ANA_READ has issued go on. -/
def State.lastSlot (ch t : Nat) (s : State) : State :=
  (s.modChan ch fun c =>
    { c with seq := { c.seq with stopAt := some t, fills := [] }, reg := { c.reg with openRows := [] }, cap := { c.cap with bankq := [] },
             ana := { c.ana with passes := c.ana.passes.filter fun x => decide (x.1 < c.ana.passNo) } }).stopStreams ch

/-- The RUNs that are accepted and have not begun complete with a status (R161, R173 step 3, R178). -/
def State.stopWaiting (ch status : Nat) (s : State) : State :=
  match s.functionCtx ch with
  | some n => ((s.ctx n).acc.filter fun d => d.op == 0x20 && d.phase == .waiting).foldl (fun s d => s.finish n d.seq status) s
  | none => s

/-- A non-looping stream ends (R161): the function stops with cause end of stream. RUNs accepted after it are told so; those that waited
before it are stopped. -/
def State.endStream (ch t : Nat) (s : State) : State :=
  ((s.stopWaiting ch 0x0004).modChan ch fun c => { c with state := .stopping, stopRunEnd := false, seq := { c.seq with stopCauseReq := 4 } }).lastSlot ch t

/-- Move to the next place after a slot with word `w` (R110). -/
def State.moveTo (ch t : Nat) (w : Word) (p : Option Pos) (s : State) : State :=
  match p with
  | none => s.endStream ch t
  | some p => s.modSeq ch fun q =>
      let same := runKey w = runKey (q.wordAt p) && (slotOp w = opOPEN || isMaint w) && q.runOff + 1 < runCap
      { q with pos := p, runOff := if same then q.runOff + 1 else 0 }

/-- The rest of every slot at ck `t`: generators, checkpoint, the stop at a motif boundary or at the end checkpoint of the
running span (R173), the pending tier switch (R122), and the next place. -/
def State.advance (ch : Nat) (w : Word) (s : State) : State :=
  let c := s.chan ch
  let q := c.seq
  let t := q.slotCk
  let g := (q.genNow w).2
  let s := s.modSeq ch fun q => { q.fillCard (t + 1) with gens := g, slotCk := t + 1 }
  let s := if slotCkpt w then s.checkpoint ch t q.pos g else s
  let s := s.updatePanic ch
  let c := s.chan ch
  let x := c.seq.sect.getD {}
  let boundary := q.pos.off + 1 ≥ (x.motifAt q.pos).len
  if c.state == .stopping && (if c.stopRunEnd then slotCkpt w && c.seq.ckptNo == c.stopB else boundary) then s.lastSlot ch t
  else if x.switchPoint q.pos && c.seq.tierSel != q.pos.tier then s.modSeq ch fun q => { q with atSwitch := true }
  else s.moveTo ch t w (x.next q.pos)

/-- A slot with word `w` has taken its effect: it counts, and the stream moves on (R531). -/
def State.slotDone (ch : Nat) (w : Word) (s : State) : State :=
  (s.count 0x002 (some ch) 1 fun q => q % 16 == slotOp w).advance ch w

/-- The channel issues slots now: it runs, no tier switch is pending, and the current slot's ck has come. -/
def Chan.issuing (c : Chan) (now : Nat) : Bool :=
  (c.state == .running || c.state == .stopping) && c.seq.stopAt.isNone && c.seq.sect.isSome && c.seq.slotCk ≤ now &&
    !c.seq.atSwitch

/-! ## Slot meanings -/

/-- A pattern card or sequencer store word fails SECDED (R303): no further slot, cause 0x08. -/
def State.cardFail (ch : Nat) (s : State) : State :=
  let t := (s.chan ch).seq.slotCk - 1
  let s := (s.log .cardUncorrectable ch).modChan ch fun c =>
    { c with state := .stopping, stopRunEnd := false, seq := { c.seq with stopCauseReq := 8, cardUnc := true } }
  s.lastSlot ch t

/-- NOP (R111). The word that a slot is read from may fail SECDED whatever its opcode (R303): then the slot has no effect of its own. -/
def execNopSlot (ch : Nat) (hit : StoreHit) (s : State) : Res :=
  if hit == .double then .next (if (s.chan ch).issuing s.now then s.cardFail ch else s)
  else
    match s.slotNow ch opNOP with
    | some w => .next ((s.noteFix ch hit).slotDone ch w)
    | none => .next s

/-- A command that changes a bank's row leaves at ck `t` (R320). -/
def State.sentRow (ch t : Nat) (s : State) : State := s.sent ch { ck := t, sort := .row }

/-- Banks that the pricking opens between the current TPL_CMD ACT and its PRE, those open now included (R219). -/
def Chan.openDuring (c : Chan) : List Nat :=
  let q := c.seq
  let x := q.sect.getD {}
  let left := (x.motifAt q.pos).len - q.pos.off
  let l := (q.upcoming left).drop 1
  let n := c.cap.tplPre.length
  let rec go : Nat → List SlotAt → List Nat
    | _, [] => []
    | k, y :: l =>
      if slotOp y.word = opPRE && slotDp y.word = dpTCMD then (if k = 0 then [] else go (k - 1) l)
      else if slotOp y.word = opACT && slotDp y.word != dpTCMD then y.addr / 2 ^ 21 :: go k l
      else go k l
  c.reg.openRows.map (·.1) ++ go n l

/-- A row opens. -/
def Region.activate (r : Region) (b row t : Nat) : Region :=
  { r with openRows := r.openRows.filter (·.1 != b) ++ [(b, row)], lastAct := t }

/-- ACT opens a row; a TPL_CMD ACT binds a record to its template (R111, R219). -/
def State.actSlot (ch : Nat) (w : Word) (s : State) : State :=
  let c := s.chan ch
  let t := c.seq.slotCk
  if slotDp w = dpTCMD then
    let open_ := c.openDuring
    let r := s.bindTemplate ch t fun b => open_.contains b
    match r.1 with
    | some x => r.2.modReg ch fun g => g.activate (x.addr / 2 ^ 21) (x.addr / 256 % 8192) t
    | none => r.2
  else
    let a := (c.seq.genNow w).1
    s.modReg ch fun g => g.activate (a / 2 ^ 21) (a / 256 % 8192) t

def execAct (ch : Nat) (s : State) : Res :=
  match s.slotNow ch opACT with
  | some w => .next (((s.actSlot ch w).sentRow ch (s.chan ch).seq.slotCk).slotDone ch w)
  | none => .next s

/-- The reader of an RD slot at ck `t` (R179, R233); `sent` is false for a displaced one. -/
def State.rdReader (ch : Nat) (w : Word) (sent : Bool) (s : State) : Reader × State :=
  let t := (s.chan ch).seq.slotCk
  if slotDp w = dpSRC then
    let r := s.srcRead ch w t sent
    (.src (slotGroup w) r.1, r.2)
  else
    let x := (s.chan ch).ana.take
    (.ana x.1.1 x.1.2 (s.chan ch).cap.nextId, s.modAna ch fun _ => x.2)

/-- RD issues a read-class command for SRC_LOAD or ANA_READ (R111). -/
def execRd (ch : Nat) (s : State) : Res :=
  match s.slotNow ch opRD with
  | some w =>
    let q := (s.chan ch).seq
    let r := s.rdReader ch w true
    .next ((r.2.fly ch (q.genNow w).1 q.slotCk r.1).slotDone ch w)
  | none => .next s

/-- The data of a WR slot (R116, R231, R241); none when it writes nothing. The oldest record of the analysis output may fail SECDED
(R303). -/
def State.wrData (ch : Nat) (w : Word) (hit : StoreHit) (s : State) : Option (List Codeword) × State :=
  if slotDp w = dpANAW then
    if (s.chan ch).starved then (none, s)
    else
      let s := (s.storeHit ch hit).modAna ch fun a => if hit == .double then a.spoilFirst else a
      let x := (s.chan ch).ana.writeOut (s.chan ch).seq.slotCk
      (some x.1, s.modAna ch fun _ => x.2)
  else (some (fillGranule 0 false), s)

/-- WR writes a granule and cancels the pending merges for it (R111, R215). -/
def execWr (ch : Nat) (hit : StoreHit) (s : State) : Res :=
  match s.slotNow ch opWR with
  | some w =>
    let q := (s.chan ch).seq
    let a := (q.genNow w).1
    let r := s.wrData ch w hit
    let s := match r.1 with
      | some cs => (r.2.cancelMerges ch a q.slotCk).writeGranule ch q.slotCk a cs
      | none => r.2
    .next (s.slotDone ch w)
  | none => .next s

/-- A read half takes its place in the merge queue (R56, R209, R210, R219, R221, R231): the entry's number, and whether its
column command drops. -/
def State.readHalf (ch : Nat) (w : Word) (made : Bool) (s : State) : (Nat × Bool) × State :=
  let c := s.chan ch
  let t := c.seq.slotCk
  if slotDp w = dpTRD then
    let tp := c.cap.tplRead.head?
    let s := s.modCap ch fun k => { k with tplRead := k.tplRead.drop 1 }
    match tp.bind (·.rcd) with
    | some r =>
      let x := s.pushMerge ch fun id => { id, addr := r.addr, issue := t, tpl := true, rcd := some r, ival := r.ival, made }
      ((x.1, false), x.2)
    | none =>
      let x := s.pushMerge ch fun id => { id, addr := 0, issue := t, tpl := true, bound := true, dropped := true }
      ((x.1, true), x.2)
  else
    let g := slotGroup w
    let k := Sparse.get 0 c.cap.readNo g
    let zero := c.cap.rxq.any fun r => r.group == g && r.k == k && r.zero && r.time ≤ t
    let x := s.pushMerge ch fun id =>
      { id, addr := (c.seq.genNow w).1, issue := t, group := g, k, fwd := c.cap.fwdEn, starved := c.starved,
        ival := c.seq.ckptNo, dropped := zero || c.starved, made := made && !zero && !c.starved && !c.cap.fwdEn }
    ((x.1, zero || c.starved || c.cap.fwdEn), x.2.modCap ch fun q => { q with readNo := Sparse.set 0 q.readNo g (k + 1) })

/-- The address of entry `id`. -/
def Chan.mergeAddr (c : Chan) (id : Nat) : Nat := ((c.cap.merge? id).map (·.addr)).getD 0

/-- A flight without a command: the binding time of a read half comes 30 ck after its slot (R209). -/
def State.flyBind (ch id t : Nat) (s : State) : State :=
  s.modChan ch fun c => { c with flights := c.flights ++ [{ addr := 0, issue := t, reader := .bind id }] }

/-- The merged data of the next write half fail SECDED in the merge queue: the granule is written as poison (R303). -/
def State.spoilMerge (ch : Nat) (hit : StoreHit) (s : State) : State :=
  let s := s.storeHit ch hit
  match (s.chan ch).cap.nextWrite with
  | some m =>
    if hit == .double && m.merged.isSome then s.modMerge ch m.id fun m => { m with merged := some (List.replicate 4 canonicalPoison) } else s
  | none => s

/-- RMW: a read half or a write half (R56, R57). -/
def execRmw (ch : Nat) (hit : StoreHit) (s : State) : Res :=
  match s.slotNow ch opRMW with
  | some w =>
    let t := (s.chan ch).seq.slotCk
    if isReadHalf w then
      let r := s.readHalf ch w false
      let s := if r.1.2 then r.2.flyBind ch r.1.1 t else r.2.fly ch (r.2.chan ch |>.mergeAddr r.1.1) t (.merge r.1.1)
      .next (s.slotDone ch w)
    else if (s.chan ch).cap.writeReady then
      .next ((((s.spoilMerge ch hit).writeHalf ch t).modReg ch fun g => { g with lastWr := max g.lastWr t }).slotDone ch w)
    else .next s
  | none => .next s

/-- PRE closes a bank; a TPL_CMD PRE closes its template's bank (R111). -/
def State.preSlot (ch : Nat) (w : Word) (s : State) : State :=
  let c := s.chan ch
  if slotDp w = dpTCMD then
    let s := s.modCap ch fun k => { k with tplPre := k.tplPre.drop 1 }
    match c.cap.tplPre.head?.bind (·.rcd) with
    | some r => s.modReg ch fun g => { g with openRows := g.openRows.filter (·.1 != r.addr / 2 ^ 21) }
    | none => s
  else s.modReg ch fun g => { g with openRows := g.openRows.filter (·.1 != (c.seq.genNow w).1 / 2 ^ 21) }

def execPre (ch : Nat) (s : State) : Res :=
  match s.slotNow ch opPRE with
  | some w => .next (((s.preSlot ch w).sentRow ch (s.chan ch).seq.slotCk).slotDone ch w)
  | none => .next s

/-- PREA closes every open bank (R53). -/
def execPrea (ch : Nat) (s : State) : Res :=
  match s.slotNow ch opPREA with
  | some w => .next (((s.modReg ch fun g => { g with openRows := [] }).sentRow ch (s.chan ch).seq.slotCk).slotDone ch w)
  | none => .next s

/-- REFab (R62). -/
def execRefab (ch : Nat) (s : State) : Res :=
  match s.slotNow ch opREFAB with
  | some w =>
    let t := (s.chan ch).seq.slotCk
    .next ((s.refreshAt ch t fun _ => true).2.slotDone ch w)
  | none => .next s

/-- REFpb (R62). -/
def execRefpb (ch : Nat) (s : State) : Res :=
  match s.slotNow ch opREFPB with
  | some w =>
    let q := (s.chan ch).seq
    let f (b : Nat) : Bool := b == (q.genNow w).1 / 2 ^ 21
    .next ((s.refreshAt ch q.slotCk f).2.slotDone ch w)
  | none => .next s

/-- The card block a FETCH fills (R118). -/
def Section.fetchBlk (x : Section) (w : Word) (a : Nat) : Nat :=
  let m := x.motifs.getD (slotQueue w) default
  m.card / 8 + (a - m.stageAddr) / 4

/-- FETCH reads a granule of a staged copy (R118). -/
def execFetch (ch : Nat) (s : State) : Res :=
  match s.slotNow ch opFETCH with
  | some w =>
    let q := (s.chan ch).seq
    let a := (q.genNow w).1
    let r : Reader := .fetch (slotQueue w) ((q.sect.getD {}).fetchBlk w a)
    .next ((s.fly ch a q.slotCk r).slotDone ch w)
  | none => .next s

/-- The MARK event of a slot (R111, R531). -/
def State.markEvent (ch : Nat) (w : Word) (s : State) : State :=
  s.count 0x003 (some ch) 1 fun q => bit q 10 || q % 1024 == slotMark w

/-- MARK (R111). -/
def execMark (ch : Nat) (s : State) : Res :=
  match s.slotNow ch opMARK with
  | some w => .next ((s.markEvent ch w).slotDone ch w)
  | none => .next s

/-! ## OPEN runs (R244 to R248, R263, R73, R194) -/

/-- The first slot of an OPEN run at ck `t` (R69, R247, R248, R262): the warden's REFab, the floor reserve, the tokens. -/
def State.openStart (ch : Nat) (s : State) : State :=
  let c := s.chan ch
  let q := c.seq
  let t := q.slotCk
  let l := q.runFrom opOPEN runCap (some q.pos)
  let ward := l ≥ 640 && c.reg.openRows.isEmpty && c.wardenActive t && c.refr.maxOwed t ≥ 1
  let s := if ward then s.wardenRefresh ch t else s
  let s := s.modChan ch fun c =>
    let c := c.bringBalance t
    { c with da := c.da.gain t,
             seq := { c.seq with runLen := if ward then l - 640 else l, runWarden := ward,
                                 runReserve := min (floorShare l) (c.da.balance / 2 ^ 24) } }
  s.noteStalled ch false

/-- Count one deferral of a kind of maintenance work (R78). -/
def State.defer (ch k : Nat) (s : State) : State := s.count 0x009 (some ch) 1 fun q => q % 4 == k

/-- In panic the scrub floor reserves nothing (R194): what the run had reserved is deferred. -/
def State.yieldFloor (ch : Nat) (s : State) : State :=
  let c := s.chan ch
  if c.src.panic && c.seq.runReserve != 0 then (s.modSeq ch fun q => { q with runReserve := 0 }).defer ch 3 else s

/-- Rank 3 of R247 at ck `t`: the rewrite of a read that ranked here, or a read within the floor reserve. -/
def State.floorOp (ch t : Nat) (free : Nat → Bool) (noise : List Codeword) (s : State) : Bool × State :=
  let c := s.chan ch
  if c.ecc.rewrite.isNone && c.seq.runReserve = 0 then (false, s)
  else
    let r := s.scrubOp ch t (fun x => x) free noise
    match r.1 with
    | none => (false, s)
    | some read => (true, r.2.modChan ch fun c => if read then
        { c.takeFloor t with seq := { c.seq with runReserve := c.seq.runReserve - 1 } } else c)

/-- Rank 5 of R247 at ck `t`: scrub beyond the floor. -/
def State.beyondOp (ch t : Nat) (free : Nat → Bool) (noise : List Codeword) (s : State) : Bool × State :=
  if s.scrubShed then (false, s)
  else
    let r := s.scrubOp ch t (fun x => !x) free noise
    match r.1 with
    | none => (false, s)
    | some read => (true, r.2.modChan ch fun c => if read then c.takeFloor t else c)

/-- Use one opportunity of an OPEN run at ck `t` in the order of R247 and R194. Column commands issue 40 ck before the bound that the
rules give the opportunity, and the write of a made-up pair at the bound. -/
def State.openOpp (ch t : Nat) (noise : List Codeword) (fail : Bool) (s : State) : State :=
  let s := (s.noteStalled ch true).yieldFloor ch
  let c := s.chan ch
  let free := c.bankFree
  match c.makeupReady with
  | some m => s.makeupOp ch (t - 40) t m
  | none =>
    let r3 := s.floorOp ch (t - 40) free noise
    if r3.1 then r3.2
    else
      let r4 := if c.src.panic && !c.liveMakeup.isEmpty then (false, s) else s.daOp ch (t - 40) free fail [0, 1, 2, 3]
      if r4.1 then r4.2
      else
        let r5 := s.beyondOp ch (t - 40) free noise
        if r5.1 then r5.2 else s.count 0x015 (some ch) 1

/-- A slot of an OPEN run: its k-th opportunity lies at offset 64 + 8k, for every k below C(L), after a warden REFab counted
from 640 (R244, R247). -/
def State.openSlot (ch : Nat) (noise : List Codeword) (fail : Bool) (s : State) : State :=
  let s := if (s.chan ch).seq.runOff = 0 then s.openStart ch else s
  let q := (s.chan ch).seq
  let base := if q.runWarden then 640 else 0
  let s := if q.runOff > 0 && q.runOff % 4096 = 0 then s.modChan ch fun c => { c with da := c.da.gain q.slotCk } else s
  if q.runOff ≥ base + 64 && (q.runOff - base - 64) % 8 = 0 && (q.runOff - base - 64) / 8 < openCap q.runLen then
    s.openOpp ch q.slotCk noise fail
  else s

/-- OPEN (R247). -/
def execOpenRun (ch : Nat) (noise : List Codeword) (storeFail : Bool) (s : State) : Res :=
  match s.slotNow ch opOPEN with
  | some w => .next ((s.openSlot ch noise storeFail).slotDone ch w)
  | none => .next s

/-! ## TIER_SWITCH (R122, R123) -/

/-- At a switch point with another tier selected, the stream goes on in the selected tier. -/
def execTierSwitch (ch : Nat) (s : State) : Res :=
  let c := s.chan ch
  let q := c.seq
  if !q.atSwitch || q.stopAt.isSome then .next s
  else
    let x := q.sect.getD {}
    let w := q.wordAt q.pos
    let p := if q.tierSel = q.pos.tier then x.next q.pos else x.switchTo q.pos q.tierSel
    let s := s.modSeq ch fun q => { q with atSwitch := false }
    let s := if q.tierSel = q.pos.tier then s else
      let s := s.count 0x014 (some ch) 1
      if c.func == .capture then s.tierNotice ch q.tierSel true else s
    .next (s.moveTo ch (q.slotCk - 1) w p)

/-! ## STEAL (R70 to R75, R594) -/

/-- Kinds of pending work by rank: 0 CAL, 1 BIST, 2 TRAIN, 3 SCRUB (R78). -/
def State.pendingWork (s : State) (ch : Nat) : List Nat :=
  let c := s.chan ch
  (if c.maint.cal then [0] else []) ++ (if c.maint.bist then [1] else []) ++ (if c.maint.train then [2] else []) ++
    (if c.ecc.rewrite.isSome || (c.scrubNext fun _ => true).isSome then [3] else [])

/-- A maintenance window loses its command (R72, R320): at its first slot the work that fits it is deferred, after that the work that
it serves. -/
def State.loseWindow (ch : Nat) (s : State) : State :=
  let q := (s.chan ch).seq
  let lost := if q.runOff = 0 then
      (s.pendingWork ch).filter fun k => q.runFrom 16 runCap (some q.pos) ≥ kindMin k
    else q.winWork.toList.map (·.1)
  (lost.foldl (fun s k => s.defer ch k) s).modSeq ch fun q => { q with winWork := none, winMake := false }

/-- What displaces one slot (R72). -/
def State.displace (ch : Nat) (s : State) : State :=
  let c := s.chan ch
  let q := c.seq
  let t := q.slotCk
  let w := q.wordAt q.pos
  let a := (q.genNow w).1
  let owe (m : MakeUp) (s : State) : State :=
    s.modChan ch fun c => { c with refr := { c.refr with makeup := c.refr.makeup ++ [m] } }
  let op := slotOp w
  let s :=
    if op = opACT then s.actSlot ch w
    else if op = opPRE then s.preSlot ch w
    else if op = opPREA then s.modReg ch fun g => { g with openRows := [] }
    else if op = opRD then
      let r := s.rdReader ch w false
      owe { addr := a, reader := some r.1 } r.2
    else if op = opFETCH then
      owe { addr := a, reader := some (.fetch (slotQueue w) ((q.sect.getD {}).fetchBlk w a)) } s
    else if op = opWR then
      let r := s.wrData ch w .clean
      match r.1 with
      | some cs => owe { addr := a, data := cs } (r.2.cancelMerges ch a t)
      | none => r.2
    else if isReadHalf w then
      let r := s.readHalf ch w true
      let s := r.2.flyBind ch r.1.1 t
      if r.1.2 then s else owe { addr := (s.chan ch).mergeAddr r.1.1, reader := some (.merge r.1.1) } s
    else if isWriteHalf w then
      match c.cap.nextWrite with
      | some m =>
        let s := s.modMerge ch m.id fun m => { m with slotDone := true, owed := true }
        if m.dropped || m.fwd then s else owe { addr := m.addr, pair := some m.id } s
      | none => s
    else if op = opMARK then s.markEvent ch w
    else if isMaint w then s.loseWindow ch
    else s
  s.advance ch w

/-- Pass over a pending tier switch inside a displaced range. -/
def State.passSwitch (ch : Nat) (s : State) : State :=
  if (s.chan ch).seq.atSwitch then
    match execTierSwitch ch s with
    | .next s => s
    | _ => s
  else s

/-- Displace slots until the current one is at ck `r`, or the stream stops. -/
def State.displaceTo (ch r : Nat) : Nat → State → State
  | 0, s => s
  | n + 1, s =>
    let q := (s.chan ch).seq
    if q.slotCk ≥ r || q.stopAt.isSome then s else State.displaceTo ch r n ((s.displace ch).passSwitch ch)

/-- Places of the reopening ACTs (rules 5, 6 and 7): the bank groups of the ACTs so far, newest first, with their ck. -/
def reopenAt (from_ : Nat) (done : List (Nat × Nat)) (b : Nat) : Nat :=
  let p := done.foldl (fun t x => max t (x.2 + (if x.1 / 4 == b / 4 then 6 else 4))) from_
  match done[3]? with
  | some x => max p (x.2 + 32)
  | none => p

/-- Reopen every row in order from ck `from_`: (bank, ck) pairs, newest first. -/
def reopen (from_ : Nat) (banks : List Nat) : List (Nat × Nat) :=
  banks.foldl (fun done b => (b, reopenAt from_ done b) :: done) []

/-- Banks that the templates under way and the pairs whose write half is still to come address: of the reads of the next templates, of
their PREs, and of the write halves, in slot order (bank 32: none). -/
structure Banks where
  reads : List Nat := []
  pres : List Nat := []
  writes : List Nat := []

/-- The slots `l` with the bank each addresses: a write half that of its read half (R56), a template's command that of its record
(R219). The record of a template that has not begun is not bound yet, so its bank is none of those open. -/
def withBanks : Banks → List SlotAt → List (SlotAt × Nat)
  | _, [] => []
  | k, x :: l =>
    let b := x.addr / 2 ^ 21
    if slotOp x.word = opRMW && slotDp x.word = dpTRD then
      let b := k.reads.headD 32
      (x, b) :: withBanks { k with reads := k.reads.drop 1, writes := k.writes ++ [b] } l
    else if isReadHalf x.word then (x, b) :: withBanks { k with writes := k.writes ++ [b] } l
    else if isWriteHalf x.word then (x, k.writes.headD 32) :: withBanks { k with writes := k.writes.drop 1 } l
    else if slotOp x.word = opPRE && slotDp x.word = dpTCMD then (x, k.pres.headD 32) :: withBanks { k with pres := k.pres.drop 1 } l
    else if slotDp x.word = dpTCMD then
      (x, 32) :: withBanks { k with reads := k.reads ++ [32], pres := k.pres ++ [32] } l
    else (x, b) :: withBanks k l

/-- Rules 1, 2, 4 and 7 hold for the reopened banks at every slot from ck `r` on (R70 step 5). -/
def resumeOk (acts : List (Nat × Nat)) (r : Nat) (l : List (SlotAt × Nat)) : Bool :=
  acts.all (fun x => x.2 < r) &&
    l.zipIdx.all fun y =>
      let t := r + y.2
      let w := y.1.1.word
      let b := y.1.2
      let op := slotOp w
      acts.all (fun x =>
        (op = opPREA → t ≥ x.2 + 52) &&
        (x.1 = b → ((op = opRD || op = opWR || op = opFETCH || op = opRMW) → t ≥ x.2 + 24) && (op = opPRE → t ≥ x.2 + 52) &&
          (op = opACT → t ≥ x.2 + 76))) &&
      (op != opACT || ((acts.filter fun x => t < x.2 + 32).length +
        (l.zipIdx.filter fun z => slotOp z.1.1.word = opACT && z.2 ≤ y.2 && t < r + z.2 + 32).length ≤ 4))

/-- The banks of the rows to reopen, ascending. -/
def Chan.toReopen (c : Chan) : List Nat := (List.range 32).filter fun b => c.reg.openRows.any (·.1 == b)

/-- The banks that the slots ahead address without naming them. -/
def Chan.waitingBanks (c : Chan) : Banks :=
  let bank (t : Tpl) : Nat := t.rcd.elim 32 fun r => r.addr / 2 ^ 21
  { reads := c.cap.tplRead.map bank, pres := c.cap.tplPre.map bank,
    writes := (c.cap.merges.filter (!·.slotDone)).map fun m => m.addr / 2 ^ 21 }

/-- The resume slot: the first ck from `ready` on at which R70 step 5 holds, displacing slots up to it. -/
def State.findResume (ch ready : Nat) : Nat → State → State
  | 0, s => s
  | n + 1, s =>
    let c := s.chan ch
    let q := c.seq
    if q.stopAt.isSome then s
    else if resumeOk (reopen ready c.toReopen) q.slotCk (withBanks c.waitingBanks (q.upcoming 80)) then s
    else State.findResume ch ready n ((s.displace ch).passSwitch ch)

/-- First slot of the ride span that holds the current slot (R73). -/
def Seq.spanStart (q : Seq) : Nat :=
  let x := q.sect.getD {}
  let l := (x.motifAt q.pos).len
  let g := if l ≥ 4096 then 1 else (4095 + l) / l
  q.slotCk - (q.pos.rep % g * l + q.pos.off)

/-- A steal at the current slot (R70, R71, R75): PREA when rules 2, 13 and 14 hold, REFab 24 ck later, resume after 560 ck
and the reopening; a contract break is logged. -/
def State.stealNow (ch : Nat) (s : State) : State :=
  let c := s.chan ch
  let q := c.seq
  let a := q.slotCk
  let x := q.sect.getD {}
  let after (t d : Nat) : Nat := if t = 0 then 0 else t + d
  let prea := max (max a (after c.reg.lastAct 52)) (max (after c.reg.lastRd 8) (after c.reg.lastWr 38))
  let span := q.spanStart
  let again := c.refr.lastBreak == some span || !c.liveMakeup.isEmpty
  let s := State.displaceTo ch (prea + 584) 700 s
  let s := State.findResume ch (prea + 584) 400 (s.wardenRefresh ch (prea + 24))
  let last := (s.chan ch).seq.slotCk - 1
  let s := s.modChan ch fun c =>
    { c with refr := { c.refr with breaks := satAdd 0xFF c.refr.breaks 1, lastBreak := some span },
             reg := { c.reg with lastAct := ((reopen (prea + 584) c.toReopen).head?.map (·.2)).getD c.reg.lastAct },
             seq := { c.seq with runOff := if slotOp (c.seq.wordAt c.seq.pos) = opOPEN then 0 else c.seq.runOff } }
  let s := s.count 0x013 (some ch) 1
  let d1 := q.pos.off * 2 ^ 19 + (x.stepAt q.pos).motif * 2 ^ 13 + q.pos.step * 8 + q.pos.tier
  let s := s.logAt { cause := .contractBreak, inst := ch, time := a, d0 := last - a, d1, d2 := x.imageId }
  if (c.func == .source || c.func == .capture) && (again || !x.ride) then (s.log .breakStop ch).requestStop ch 2 else s

/-- The warden steals when no refresh-capable run can keep a bank within 8 owed (R70). -/
def execSteal (ch : Nat) (s : State) : Res :=
  if (s.chan ch).issuing s.now && (s.chan ch).stealDue then .next (s.stealNow ch) else .next s

/-! ## RUN (R158 to R162, R228) -/

/-- A span that a reset interrupted is executed again (R164): it begins at RUN_CKPT, before the spans of the RUNs accepted. -/
def Chan.redoing (c : Chan) (x : Ctx) : Bool := x.runCkpt < c.lastEnd && c.seq.ckptNo < c.lastEnd

/-- RUN authorises a span (R159 to R162). -/
def execRun (ctx : Nat) (s : State) : Res :=
  match s.startable ctx 0x20 with
  | none => .next s
  | some d =>
    let ch := (s.ctx ctx).chan
    let c := s.chan ch
    let e := d.u32 0x10
    if !d.zero 0x14 0x40 then .next (s.finish ctx d.seq 0x0012)
    else if (c.seq.sect.getD {}).func == .direct then .next (s.finish ctx d.seq 0x0015)
    else if e ≤ c.lastEnd then .next (s.finish ctx d.seq 0x0012)
    else if (c.seq.stopCauseReq = 4 && c.seq.stopAt.isSome) || (c.state == .stopped && c.stopCause = 4) then
      .next (s.finish ctx d.seq 0x0005)
    else if !(c.state == .starting || c.state == .running || c.state == .stopping) then .next (s.finish ctx d.seq 0x0004)
    else
      let skip := c.starved && c.state != .starting && c.lastEnd ≤ c.seq.ckptNo
      let r : RunRec := { ctx, seq := d.seq, startC := if skip then c.seq.ckptNo + 1 else c.lastEnd, endC := e, skipped := skip }
      let s := s.modChan ch fun c => { c with runs := c.runs ++ [r], lastEnd := e }
      let s := if c.runs.isEmpty && !c.redoing (s.ctx ctx) then s.modCtx ctx fun x => { x with runCkpt := r.startC } else s
      .next (s.modDesc ctx d.seq fun d => { d with phase := .started })

/-- Sum of per-interval counts over a span. -/
def spanSum (m : List (Nat × Nat)) (r : RunRec) : Nat :=
  m.foldl (fun a x => if r.startC ≤ x.1 && x.1 < r.endC then a + x.2 else a) 0

def RunRec.holds (r : RunRec) (i : Nat) : Bool := r.startC ≤ i && i < r.endC

/-- Nothing of the span is still to be released, written or acknowledged (R158, R228). -/
def Chan.spanDone (c : Chan) (now : Nat) (r : RunRec) : Bool :=
  (c.src.groups.all fun g => g.2.store.all fun x => x.freed || !r.holds x.ival) &&
  (c.src.handed.all fun x => !(r.holds x.2 && now < x.1)) &&
  (c.cap.merges.all fun m => !(m.open && r.holds m.ival)) && (c.cap.bankq.all fun x => !r.holds x.ival) &&
  (c.cap.tplRead.all fun t => t.rcd.all fun x => !r.holds x.ival) &&
  (c.cap.acc.all fun x => !((c.seq.sect.getD {}).addressedGroup x.1 && x.2.length ≥ 10)) && (c.cap.fwds.all fun f => !r.holds f.ival)

/-- RESULT and INFO of a RUN (R159, R228). -/
def Chan.runResult (c : Chan) (r : RunRec) : Nat × Nat :=
  let skip := if r.skipped then 1 else 0
  if (c.seq.sect.getD {}).func == .capture then
    (spanSum c.cap.counts r, skip + (if c.cap.lossIval.any r.holds then 2 else 0) + min (spanSum c.cap.rejIval r) 0xFF * 256)
  else (spanSum c.src.counts r, skip)

/-- Complete the first RUN of a channel with a status. -/
def State.endRun (ch status : Nat) (withResult : Bool) (s : State) : State :=
  let c := s.chan ch
  match c.runs with
  | [] => s
  | r :: rest =>
    let (res, info) := if withResult then c.runResult r else (0, if r.skipped then 1 else 0)
    let lost := c.cap.fwdLost.any r.holds
    let st := if status = 0 && lost then 6 else status
    let s := s.modChan ch fun c => { c with runs := rest }
    let s := if status = 0 then s.modCtx r.ctx fun x => { x with runCkpt := (rest.head?.map (·.startC)).getD r.endC } else s
    s.finish r.ctx r.seq st info res

/-- A RUN commits once its span has passed and is done (R158, R159). -/
def execRunComplete (ch : Nat) (s : State) : Res :=
  let c := s.chan ch
  match c.runs with
  | [] => .next s
  | r :: _ => if c.seq.ckptNo ≥ r.endC && c.spanDone s.now r then .next (s.endRun ch 0 true) else .next s

/-- Every bank owes less than one refresh at ck `t` (R64): the warden has refreshed the channel as often as that takes. -/
def State.refreshBy (ch t : Nat) : Nat → State → State
  | 0, s => s
  | n + 1, s => if (s.chan ch).refr.maxOwed t ≥ 1 then State.refreshBy ch t n (s.wardenRefresh ch (t - 560 * (n + 1))) else s

/-- The rows that a resumed section finds open at T_s: those of its checkpoint record (R164). Their ACTs lie before T_s, where rules 1
and 2 hold at every slot (log 154). -/
def Chan.reopenAtStart (t : Nat) (c : Chan) : Chan :=
  match Sparse.find? c.seq.ckpts c.seq.ckptNo with
  | some k => if k.rows.isEmpty then c else { c with reg := { c.reg with openRows := k.rows, lastAct := t - 52 } }
  | none => c

/-- The first slot of a started section (R50, R64): at T_s the channel is RUNNING. -/
def execPrickingStart (ch : Nat) (s : State) : Res :=
  let c := s.chan ch
  if c.state != .starting || c.waitGroup || s.now < c.seq.ts then .next s
  else
    let s := State.refreshBy ch c.seq.ts 16 s
    let s := s.modChan ch fun c =>
      let c := c.reopenAtStart c.seq.ts
      { c with state := .running, da := { c.da with balance := 0, balSince := c.seq.ts },
               refr := { c.refr.bring c.seq.ts with breaks := 0, surplus := 0, lastBreak := none } }
    let s := s.updateStarved ch
    let x := c.seq.sect.getD {}
    let s := if s.thm.rung ≥ 6 && (x.func == .source || x.func == .capture) then
        { s with thm := { s.thm with heldP0 := s.thm.heldP0 + (x.tiers.headD default).power } } else s
    match c.starter with
    | some (n, q) => .next ((s.modChan ch fun c => { c with starter := none }).finish n q 0 0 (s.gtOf c.seq.ts))
    | none => .next s

end Sys2Proof.Machine
end

