-- ==== Sys2Proof/Machine/Eyelet.lean ====
section
/-! DEFINITION. Eyelets, training and repair (09), retirement (R6, R266, R300, R525) and the DRAM region's self-refresh
(R41 to R46). -/

namespace Sys2Proof.Machine

open Sys2Proof

def State.modEyes (ch : Nat) (f : Eyes → Eyes) (s : State) : State := s.modChan ch fun c => { c with eyes := f c.eyes }
def State.modEye (ch i : Nat) (f : Eyelet → Eyelet) (s : State) : State := s.modEyes ch fun e => e.modEye i f

/-! ## Retirement (R6, R266, R300) -/

/-- Complete every accepted Direct Access descriptor of a channel with CHANNEL_LOST (R266, R300). -/
def State.loseDirect (ch : Nat) (s : State) : State :=
  (s.ctxs.map (·.1)).foldl (fun s n =>
    ((s.ctx n).acc.filter fun d => isDaOp d.op && d.phase != .done && d.ch == ch).foldl (fun s d =>
      let s := if d.op = 0x11 && d.phase == .started then { s with host := { s.host with stageUsed := s.host.stageUsed - d.daLen } }
        else s
      s.finish n d.seq 0x0041) s) s

/-- Complete every RUN of a channel with a status, the first one with its RESULT so far. -/
def State.endRuns (ch status : Nat) (first : Bool) : Nat → State → State
  | 0, s => s
  | n + 1, s => if (s.chan ch).runs.isEmpty then s else State.endRuns ch status false n (s.endRun ch status first)

/-- Complete the FUNC_STOP descriptors that wait for a channel's shut-down. -/
def State.endStops (ch : Nat) (s : State) : State :=
  let l := (s.chan ch).stoppers
  l.foldl (fun s x => s.finish x.1 x.2 0) (s.modChan ch fun c => { c with stoppers := [] })

/-- CH_DA_LEVEL (R269), and the descriptors that hold start places (R270). -/
def State.daLevel (s : State) (ch : Nat) : Nat :=
  (List.range 4).foldl (fun a k => a + min (s.daWaiting ch k / 1024) 0xFF * 2 ^ (8 * k)) 0
def State.daCount (s : State) (ch : Nat) : Nat := (List.range 4).foldl (fun a k => a + (s.daStarted ch k).length) 0

/-- The bobbin becomes RETIRED (R6): Direct Access completes CHANNEL_LOST, a held start is refused, nothing more runs. -/
def State.retire (ch : Nat) (s : State) : State :=
  let s := { s with frozen := Sparse.insert s.frozen ch { at_ := s.now, chan := s.chan ch, level := s.daLevel ch, started := s.daCount ch } }
  let s := (s.loseDirect ch).abandonCrc fun c => c.src = 1 && byteChan c.addr = ch
  let s := State.endRuns ch 0x0004 true (s.chan ch).runs.length s
  let s := s.endStops ch
  let held := (s.chan ch).held
  let s := s.modChan ch fun c =>
    { c with func := .retired, state := .retired, held := none, retirePend := false, starved := false, starter := none,
             waitGroup := false, flights := [], seq := { c.seq with sect := none, bound := false, card := [] },
             refr := { c.refr with makeup := [] }, src := { c.src with groups := [] } }
  match held with
  | some h => s.finish h.ctx h.seq 0x0015
  | none => s

/-- The function issues no further pricked slot: B is the last slot issued, with a STOP_CAUSE (R303, R323, R524). -/
def State.haltSlots (ch cause : Nat) (s : State) : State :=
  let c := s.chan ch
  if (c.state == .running || c.state == .stopping || c.state == .starting) && c.seq.stopAt.isNone then
    (s.modChan ch fun c => { c with state := .stopping, stopRunEnd := false, waitGroup := false,
                                    seq := { c.seq with stopCauseReq := cause } }).lastSlot ch (c.seq.slotCk - 1)
  else s

/-- A failing bobbin is retired at once: Direct Access ends now, and a function that runs shuts down first, with a STOP_CAUSE (R266, R525). -/
def State.retireNow (ch cause : Nat) (s : State) : State :=
  let c := s.chan ch
  if c.state == .running || c.state == .stopping || c.state == .starting then
    ((s.haltSlots ch cause).modChan ch fun c => { c with retirePend := true, retireAtOnce := true }).loseDirect ch
  else s.retire ch

/-! ## Darns (R325 to R328) -/

/-- A role moves to a spare (R325 step 2). The eyelet it leaves becomes DARNED, or SPENT when it was a spare. -/
def Eyes.darn (e : Eyes) (role spare : Nat) : Eyes :=
  let i := e.carrier role
  let e := if i = role then e else e.modEye i fun x => { x with state := .spent, link := 0x7F, failing := false, suspect := false }
  let e := e.modEye role fun x => { x with state := .darned, link := spare, failing := false, suspect := false }
  e.modEye spare fun x => { x with state := .active, link := role }

/-- The last spare of a group has been taken (R325). -/
def Eyes.noSpare (e : Eyes) (role : Nat) : Bool := (e.freeSpare role).isNone

/-- Perform a live darn: its entry is recorded and its faults logged (R325, R327). A spare that was SPENT before is recorded already. -/
def State.liveDarn (ch role spare : Nat) (s : State) : State :=
  let e := (s.chan ch).eyes
  let was := e.carrier role
  let s := s.modEyes ch fun e => { e.darn role spare with darns := satAdd 0xFF e.darns 1 }
  let s := (s.log .eyeletDarned ch).recordDarn ch role spare
  let s := if was ≠ role && (e.eye was).state != .spent then s.recordDarn ch was 0x7F else s
  if (s.chan ch).eyes.noSpare role then s.log .sparesLast ch else s

/-- The darn entry has the form that R328 accepts. -/
def darnValid (failed spare : Nat) : Bool :=
  failed ≤ 110 && (spare == 0x7F || (failed < 80 || (84 ≤ failed && failed < 110)) && (spareGroup failed).contains spare)

/-- A darn entry that records an eyelet out of service (R326, R328). -/
def State.spendEye (ch failed : Nat) (s : State) : State :=
  if (spareGroup 0).contains failed || failed = 106 || failed = 107 || failed = 110 then
    s.modEye ch failed fun x => { x with state := .spent, suspect := false }
  else if failed < 80 then
    (s.modEye ch failed fun x => { x with state := .erased, link := 0x7F, failing := false, suspect := false }).erasureAction ch
  else s

/-- Apply one darn entry and its complement (R328); `live` for an entry of PATCH_TABLE, which counts as a live darn. -/
def State.applyDarn (ch e comp : Nat) (live : Bool) (s : State) : State :=
  let failed := bits e 14 8
  let spare := bits e 6 0
  if !isComp 16 e comp then s.log .darnInvalid ch
  else if !bit e 15 then s
  else if !darnValid failed spare then s.log .darnInvalid ch
  else
    let ey := (s.chan ch).eyes
    if spare != 0x7F && ey.carrier failed == spare then s
    else if spare != 0x7F && ((ey.eye spare).state == .active || (ey.eye spare).state == .spent) then s.log .darnConflict ch
    else if spare = 0x7F then s.spendEye ch failed
    else if live then s.liveDarn ch failed spare
    else s.modEyes ch fun e => e.darn failed spare

/-! ## The forward clock stops (R41, R42) -/

/-- The region enters self-refresh at ck `now`, and its bobbin may end it from ck `due` on (0: not yet) (R42). -/
def Region.enterSr (r : Region) (now due : Nat) : Region :=
  { r with inSr := true, openRows := [], exitAt := due, gapAt := now, srLast := now }

/-- The last edge of the forward clock was at ck `t` (R42): every write burst that the region has not received whole by then is
discarded. A burst ends 14 ck after its command. -/
def State.cutWrites (ch t : Nat) (s : State) : State :=
  ((s.chan ch).reg.cmds.filter fun r => r.sort == .write && t < r.ck + 14).foldl (fun s r => s.undoWrite ch r) s

/-- Heartbeat loss with the last edge at ck `edge` (R42): commands in flight complete, partly received writes are discarded, every bank
closes and the region enters self-refresh. In self-refresh a gap of the clock changes nothing but the 2 µs of clean clock that an exit
waits for (R45). -/
def State.loseClock (ch edge due : Nat) (s : State) : State :=
  if (s.chan ch).reg.inSr then s.modReg ch fun g => { g with gapAt := max g.gapAt s.now }
  else
    (s.cutWrites ch edge).modReg ch fun g =>
      { g.enterSr s.now due with autoEntry := true, autoCount := satAdd 0xFFFF g.autoCount 1 }

/-! ## Failing command, address and clock eyelets (R320 to R324) -/

/-- The channel retires for want of a spare for the command, address or clock roles `roles`, which its darn records name (R326): FCK
stays stopped, so the region stays in self-refresh (R323, R324). -/
def State.noSpareRetire (ch : Nat) (roles : List Nat) (s : State) : State :=
  let s := roles.foldl (fun s r => s.recordDarn ch r 0x7F) ((s.haltSlots ch 9).loseClock ch s.now 0)
  ((s.modReg ch fun g => { g with exitAt := 0 }).modChan ch fun c =>
    { c with stopCause := if c.state == .stopping then c.seq.stopCauseReq else c.stopCause }).retire ch

/-- The CA roles whose eyelet is failing. -/
def Eyes.failingCa (e : Eyes) : List Nat := ((List.range 22).map (84 + ·)).filter fun r => (e.eye (e.carrier r)).failing

/-- Each failing CA role is darned to the lowest free CA spare; one that finds none retires the channel (R323 step 4). -/
def State.darnCa (ch : Nat) (s : State) : State :=
  (s.chan ch).eyes.failingCa.foldl (fun s r =>
    if (s.chan ch).func == .retired then s
    else
      match (s.chan ch).eyes.freeSpare r with
      | some sp => s.liveDarn ch r sp
      | none => s.noSpareRetire ch [r]) s

/-- FCK stops for 640 ck and then runs for the sweep of one direction of the eyelets and the 2 µs before an exit (R310, R323). -/
def State.stopFck (ch : Nat) (why : Emergency) (s : State) : State :=
  ((s.loseClock ch s.now 0).modReg ch fun g => { g with gapAt := s.now + 640, exitAt := s.now + 640 + 16384 + 3200 }).modEyes ch fun e =>
    { e with emerg := some why }

/-- A CA emergency (R323 steps 1 and 2). A failing role known now that finds no spare retires the channel at once. -/
def State.caEmergency (ch : Nat) (s : State) : State :=
  let s := (s.haltSlots ch 9).log .caFail ch
  let e := (s.chan ch).eyes
  if e.failingCa.length > e.freeCount [106, 107] then s.noSpareRetire ch e.failingCa else s.stopFck ch .ca

/-- A CA eyelet is failing: an emergency, but where the clock is stopped already its darn comes with the others (R323). -/
def State.caFailing (ch i : Nat) (s : State) : State :=
  let c := s.chan ch
  let s := s.modEye ch i fun x => { x with failing := true }
  if !c.reg.inSr then s.caEmergency ch
  else if c.eyes.emerg.isNone && c.eyes.failingCa.isEmpty then s.log .caFail ch else s

/-- An eyelet is failing (R321). -/
def State.eyeFailing (ch i : Nat) (s : State) : State :=
  let e := (s.chan ch).eyes
  let x := e.eye i
  if i < 84 then s.dataFailing ch i
  else if x.state == .spare then
    ((s.modEye ch i fun x => { x with state := .spent, suspect := false }).log .spareSpent ch).recordDarn ch i 0x7F
  else if x.state != .active then s
  else
    let role := e.roleOf i
    if role ≤ 105 then s.caFailing ch i
    else if e.noSpare role then (s.log .clockFail ch).noSpareRetire ch [role]
    else s.modChan ch fun c => { c with eyes := { c.eyes with darnPend := c.eyes.darnPend ++ [role] },
                                        maint := { c.maint with train := true } }

/-- A spare that took a role in this training step fails in it: it is SPENT, and its role is darned in the next window, or erased when no
spare is left (R325 step 3). -/
def State.spareFails (ch i : Nat) (s : State) : State :=
  let role := (s.chan ch).eyes.roleOf i
  let s := (s.modEye ch i fun x => { x with state := .spent, link := 0x7F, failing := true, suspect := false }).recordDarn ch i 0x7F
  if (s.chan ch).eyes.noSpare role then (if role < 80 then s.eraseRole ch role role else (s.log .clockFail ch).noSpareRetire ch [role])
  else s.modChan ch fun c => { c with eyes := { c.eyes with darnPend := c.eyes.darnPend ++ [role] }, maint := { c.maint with train := true } }

/-- The entry of the merge queue whose write issued at ck `t` to granule `a`. -/
def Capture.wroteAt (k : Capture) (t a : Nat) : Option Merge := k.merges.find? fun m => m.wrote == some t && m.addr / 4 == a / 4

/-- The region did not execute the command `r` (R320): a read or write is made up, a change of a bank's row is restored by a steal, a
refresh loses its credit, and the work of a maintenance window is deferred. -/
def State.lostCommand (ch : Nat) (r : CmdRec) (s : State) : State :=
  let owe (m : MakeUp) (s : State) : State :=
    s.modChan ch fun c => { c with refr := { c.refr with makeup := c.refr.makeup ++ [m] } }
  match r.sort with
  | .read =>
    match (s.chan ch).flights.find? fun f => f.issue == r.ck && f.addr == r.addr && !(match f.reader with | .bind _ => true | _ => false) with
    | none => s
    | some f =>
      let s := s.modChan ch fun c => { c with flights := c.flights.erase f }
      match f.reader with
      | .merge id => owe { addr := f.addr, reader := some f.reader } ((s.modMerge ch id fun m => { m with made := true }).flyBind ch id f.issue)
      | .src g id => owe { addr := f.addr, reader := some f.reader }
          (s.modSrcGroup ch g fun q => q.modGran id fun x => { x with issued := false, made := true })
      | x => owe { addr := f.addr, reader := some x } s
  | .write =>
    let s := s.undoWrite ch r
    match (s.chan ch).cap.wroteAt r.ck r.addr with
    | some m => owe { addr := m.addr, pair := some m.id } (s.modMerge ch m.id fun m => { m with wrote := none, owed := true })
    | none => owe { addr := r.addr, data := r.data } s
  | .row => if (s.chan ch).issuing s.now then s.stealNow ch else s
  | .refresh =>
    let back (d : List Int) : List Int := (List.range 32).map fun b => if r.banks.contains b then d.getD b 0 + 24960 else d.getD b 0
    s.modChan ch fun c => { c with refr := { c.refr with debt := back c.refr.debt } }
  | .maint _ => s.loseWindow ch

/-- The commands of the word that the region received 10 ck before ck `t` (R320). -/
def Region.sentAt (r : Region) (t : Nat) : List CmdRec := r.cmds.filter fun x => x.ck + 10 = t

/-- The bobbin acts on a flag of the region now: the word of 10 ck before held these commands, or a no-op word of a window. -/
def State.flagged (ch : Nat) (s : State) : State :=
  let c := s.chan ch
  match c.reg.sentAt s.now with
  | [] => if c.seq.winWork.isSome then s.loseWindow ch else s
  | l => l.foldl (fun s r => s.lostCommand ch r) s

/-- A command word as the region received it (R307, R320): `word` holds CA0 to CA21 after descrambling. A word of odd parity is not
executed, and the region flags it; so it does a column command that it `refused` for a wrong bank state, which is no parity error. -/
def execParityFlag (ch : Nat) (word : BitVec 22) (refused : Bool) (s : State) : Res :=
  let c := s.chan ch
  let even := (List.range 22).foldl (fun b i => b != word.getLsbD i) true
  if c.func == .retired || c.reg.inSr || (even && !refused) then .next s
  else if even then .next (s.flagged ch)
  else
    let seen := c.eyes.parity.filter fun t => s.now < t + 65536
    let s := s.modEyes ch fun e => { e with parity := seen ++ [s.now] }
    let s := if c.eyes.paritySeen then s else
      (List.range 22).foldl (fun s i => s.suspectEye ch (c.eyes.carrier (84 + i)))
        (s.modEyes ch fun e => { e with paritySeen := true })
    if seen.length + 1 ≥ 16 then .next ((s.modEyes ch fun e => { e with parity := [] }).caEmergency ch) else .next (s.flagged ch)

/-- Strobe loss (R324): the trials of KS in the RST and then the FCK role. -/
def execStrobeLoss (ch : Nat) (rstAnswers fckAnswers : Bool) (s : State) : Res :=
  let c := s.chan ch
  if c.func == .retired || c.reg.inSr then .next s
  else
    let s := ((s.haltSlots ch 9).log .clockFail ch)
    let free := (c.eyes.eye 110).state == .spare
    if free && rstAnswers then .next ((s.stopFck ch .strobe).liveDarn ch 109 110)
    else if free && fckAnswers then
      .next (((s.stopFck ch .strobe).modReg ch fun g => { g with exitAt := g.exitAt + 16384 + 3200 }).liveDarn ch 108 110)
    else .next (s.noSpareRetire ch [108, 109])

/-! ## Training (R308 to R312) -/

/-- The transmit and receive delays an eyelet has (R308), and its receivers at the base die and at the region (R313). -/
def eyeHasTx (i : Nat) : Bool := i < 108
def Eyes.hasRx (e : Eyes) (i : Nat) : Bool := i < 84 || i = 109 || (i = 110 && (e.eye i).link = 109)
def Eyes.hasDown (e : Eyes) (i : Nat) : Bool := i < 109 || (i = 110 && (e.eye i).link = 108)

/-- The eyelet takes part in measurements: ACTIVE or SPARE (R306, R311). -/
def Eyelet.measured (x : Eyelet) : Bool := x.state == .active || x.state == .spare

/-- The result of eyelet `i`. -/
def eyeRes (l : List EyeRes) (i : Nat) : EyeRes := (l.find? (·.idx == i)).getD { idx := i, downBad := [], upBad := [] }

/-- Clean settings next to offset 0 on one side, of the 12 there, 2 taps apart (R311). -/
def cleanBeside (bad : List Int) (side : Int) : Nat := ((List.range 12).takeWhile fun i => !bad.contains (side * (2 * (i + 1)))).length

/-- A training step in one direction (R311): EYE_W, and the midpoint of the run of clean settings that contains offset 0. -/
def trainRun (bad : List Int) : Option (Nat × Int) :=
  if bad.contains 0 then none
  else some (2 * (cleanBeside bad (-1) + cleanBeside bad 1 + 1), (cleanBeside bad 1 : Int) - cleanBeside bad (-1))

/-- The new delay of a direction: 1 tap toward the midpoint when it is at least 2 taps away (R311). -/
def moveDelay (fixed : Bool) (d : Nat) (r : Option (Nat × Int)) : Nat :=
  match r with
  | none => d
  | some (_, m) => if fixed then d else if m ≥ 2 then min (d + 1) 127 else if m ≤ -2 then d - 1 else d

/-- The longest run of clean settings of a sweep (R310): its length and the setting after it. DESIGN CHOICE (log 151): the lowest of the
longest. -/
def sweepRun (bad : List Int) : Nat × Nat :=
  ((List.range 128).foldl (fun (x : Nat × Nat × Nat) (t : Nat) =>
    let n := if bad.contains (t : Int) then 0 else x.1 + 1
    if n > x.2.1 then (n, n, t + 1) else (n, x.2)) (0, 0, 0)).2

/-- A sweep in one direction: EYE_W, and the delay it sets, the midpoint of the run (log 151: rounded down). -/
def sweepMid (bad : List Int) : Option (Nat × Nat) :=
  let r := sweepRun bad
  if r.1 = 0 then none else some (r.1, (2 * r.2 - r.1 - 1) / 2)

/-- Judge one eyelet's result (R312) with the smaller width `w` and the midpoints of its directions. The rows of the table that apply all
act; `fresh` are the spares that took a role in this step. -/
def State.judgeEye (ch i w : Nat) (mids : List Int) (fresh : List Nat) (s : State) : State :=
  let s := s.modEye ch i fun x => { x with eyeW := w }
  let s := if w < (s.chan ch).eyes.eyeMin then s.suspectEye ch i else s.modEye ch i fun x => { x with suspect := false }
  let s := if mids.any fun m => m ≤ 8 || m ≥ 119 then s.log .eyeRange ch else s
  if w = 0 || mids.any fun m => m < 0 || m > 127 then (if fresh.contains i then s.spareFails ch i else s.eyeFailing ch i) else s

/-- The measurement of one eyelet in a training step (R311). -/
def State.trainEye (ch : Nat) (fresh : List Nat) (r : EyeRes) (s : State) : State :=
  let e := (s.chan ch).eyes
  let x := e.eye r.idx
  let dn := eyeHasTx r.idx
  let up := e.hasRx r.idx
  if !x.measured || !(dn || up) || (s.chan ch).func == .retired then s
  else
    let d := trainRun r.downBad
    let u := trainRun r.upBad
    let ws := (if dn then [(d.map (·.1)).getD 0] else []) ++ (if up then [(u.map (·.1)).getD 0] else [])
    let mids := (if dn then d.toList.map fun y => (x.tx : Int) + y.2 else []) ++ (if up then u.toList.map fun y => (x.rx : Int) + y.2 else [])
    let s := s.modEye ch r.idx fun x =>
      { x with tx := if dn then moveDelay e.fixed x.tx d else x.tx, rx := if up then moveDelay e.fixed x.rx u else x.rx }
    s.judgeEye ch r.idx (ws.min?.getD 0) mids fresh

/-- Execute the darns that wait in the first 64 ck of a training step (R325). -/
def State.runDarns (ch : Nat) (s : State) : State :=
  (s.chan ch).eyes.darnPend.foldl (fun s role =>
    match (s.chan ch).eyes.freeSpare role with
    | some sp => s.liveDarn ch role sp
    | none => if role < 80 then s.dataFailing ch ((s.chan ch).eyes.carrier role) else (s.log .clockFail ch).noSpareRetire ch [role])
    (s.modEyes ch fun e => { e with darnPend := [] })

/-- A training step (R311, R325): the darns that wait, then every measurement. It clears the pending training work. -/
def State.trainStep (ch : Nat) (l : List EyeRes) (s : State) : State :=
  let s := s.modChan ch fun c => { c with maint := { c.maint with train := false } }
  let pend := (s.chan ch).eyes.darnPend
  let s := s.runDarns ch
  let fresh := (pend.map (s.chan ch).eyes.carrier).filter (80 ≤ ·)
  (List.range 111).foldl (fun s i => s.trainEye ch fresh (eyeRes l i)) s

/-- The sweep of one eyelet (R310) in the directions `dn` and `up` that it has: the delay becomes the midpoint of the longest clean run,
EYE_W its length. -/
def State.sweepEye (ch : Nat) (dn up : Bool) (r : EyeRes) (s : State) : State :=
  let e := (s.chan ch).eyes
  let dn := dn && eyeHasTx r.idx
  let up := up && e.hasRx r.idx
  if !(e.eye r.idx).measured || !(dn || up) || (s.chan ch).func == .retired then s
  else
    let d := if dn then sweepMid r.downBad else none
    let u := if up then sweepMid r.upBad else none
    let ws := (if dn then [(d.map (·.1)).getD 0] else []) ++ (if up then [(u.map (·.1)).getD 0] else [])
    let s := s.modEye ch r.idx fun x => { x with tx := (d.map (·.2)).getD x.tx, rx := (u.map (·.2)).getD x.rx }
    s.judgeEye ch r.idx (ws.min?.getD 0) ((d.toList ++ u.toList).map fun y => (y.2 : Int)) []

/-- The sweep of the eyelets `is`, with the results `l`. -/
def State.sweepEyes (ch : Nat) (dn up : Bool) (is : List Nat) (l : List EyeRes) (s : State) : State :=
  is.foldl (fun s i => s.sweepEye ch dn up (eyeRes l i)) s

/-! ## Receiver calibration (R313 to R315) -/

/-- Sum of two counts of a receiver, which stops at n = 65,535 (R313). -/
def addCounts (a b : Nat × Nat) : Nat × Nat := if a.1 ≥ 65535 then a else (min (a.1 + b.1) 65535, min (a.2 + b.2) (min (a.1 + b.1) 65535))

/-- The counts n and o of a receiver at the end of a calibration step: what a data receiver counted before it and in it (R313, R314). -/
def Eyes.stepCount (e : Eyes) (l : List CalRes) (i : Nat) (up : Bool) : Nat × Nat :=
  let r := ((l.find? fun r => r.idx == i && r.up == up).map fun r => (r.n, r.o)).getD (112, 56)
  if i < 84 then addCounts ((if up then e.up else e.down).getD i (0, 0)) r else r

/-- One receiver's decision (R314): whether it moved. -/
def State.calReceiver (ch : Nat) (l : List CalRes) (i : Nat) (up : Bool) (s : State) : Bool × State :=
  let e := (s.chan ch).eyes
  let x := e.eye i
  if !x.measured || !(if up then e.hasRx i else e.hasDown i) || (s.chan ch).func == .retired then (false, s)
  else
    let (n, o) := e.stepCount l i up
    let t := if up then x.trimUp else x.trimDown
    let put (v : Nat) (s : State) : State :=
      s.modEye ch i fun x => if up then { x with trimUp := v } else { x with trimDown := v }
    if 16 * o > 9 * n then if t = 63 then (false, s.eyeFailing ch i) else (true, put (t + 1) s)
    else if 16 * o < 7 * n then if t = 0 then (false, s.eyeFailing ch i) else (true, put (t - 1) s)
    else (false, s)

/-- The hottest reading of a die's four sensors (R339, R340), 1/8 °C. -/
def State.dieHot (s : State) (d : Nat) : Int :=
  let t (q : Nat) : Int := (Sparse.get {} s.thm.sensors (4 * d + q)).temp
  let ok (q : Nat) : Bool := !(Sparse.get {} s.thm.sensors (4 * d + q)).failed ||
    (Sparse.get {} s.thm.sensors (4 * d + q)).subst
  (((List.range 4).filter ok).map t).max?.getD (t 0)

/-- A temperature code in whole °C. -/
def celsius (t : Int) : Int := t / 8

/-- A trigger of a calibration run with its step limit (R315); one during a run leaves it as it is. -/
def State.startCal (ch limit : Nat) (s : State) : State :=
  s.modEyes ch fun e => if e.calRun then e else { e with calTrig := some (max limit (e.calTrig.getD 0)) }

/-- A CAL-fitting window begins: a run that has been triggered starts (R315). -/
def State.beginCal (ch : Nat) (s : State) : State :=
  s.modChan ch fun c =>
    match c.eyes.calTrig with
    | some n => { c with maint := { c.maint with cal := true },
                         eyes := { c.eyes with calTrig := none, calRun := true, calSteps := 0, calLimit := n } }
    | none => c

/-- The run completes (R315, R317). -/
def State.endCal (ch : Nat) (unsettled : Bool) (moved : List Nat) (s : State) : State :=
  let t := celsius (s.dieHot (ch / 8))
  let s := s.modChan ch fun c =>
    { c with maint := { c.maint with cal := false },
             eyes := { c.eyes with calRun := false, calCount := satAdd 0xFFFF c.eyes.calCount 1, calTemp := t, unsettled,
                                   calTime := s.gt / 2 ^ 26 % 2 ^ 32 } }
  if !unsettled then s
  else
    let s := s.log .calUnsettled ch
    moved.foldl (fun s i => s.suspectEye ch i) s

/-- One calibration step (R314, R315): every receiver decides, and the counts start again. -/
def State.calStep (ch : Nat) (l : List CalRes) (s : State) : State :=
  if !(s.chan ch).eyes.calRun then s
  else
    let all := (List.range 111).flatMap fun i => [(i, false), (i, true)]
    let x := all.foldl (fun (a : List Nat × State) r =>
      let y := a.2.calReceiver ch l r.1 r.2
      (if y.1 && !a.1.contains r.1 then a.1 ++ [r.1] else a.1, y.2)) ([], s)
    let s := x.2.modEyes ch fun e => { e with calSteps := e.calSteps + 1, up := [], down := [] }
    let e := (s.chan ch).eyes
    if !x.1.any fun i => (e.eye i).state == .active then s.endCal ch false []
    else if e.calSteps ≥ e.calLimit then s.endCal ch true (x.1.filter fun i => (e.eye i).measured)
    else s

/-- `n` calibration steps back to back, as far as the run goes. -/
def State.calSteps (ch n : Nat) (l : List (List CalRes)) (s : State) : State :=
  (List.range n).foldl (fun s k => s.calStep ch (l.getD k [])) s

/-- At the start of a CAL-fitting window the temperature is sampled, and a run that is due starts (R315). -/
def State.calTrigger (ch : Nat) (s : State) : State :=
  let e := (s.chan ch).eyes
  let d := s.dieHot (ch / 8) - 8 * e.calTemp
  (if d.natAbs ≥ 8 * e.retrig then s.startCal ch 32 else s).beginCal ch

/-! ## Slices (R519 to R526) -/

/-- One slice, with the differences of its answers (R523 to R526). -/
def State.bistSlice (ch : Nat) (d : SliceDiff) (s : State) : State :=
  let b := (s.chan ch).bist
  let put (f : Bist → Bist) (s : State) : State := s.modChan ch fun c => { c with bist := f c.bist }
  let s := s.modChan ch fun c => { c with maint := { c.maint with bist := false } }
  if slicePasses b.next d then
    put (fun b => if b.next = 63 then
        { b with retest := false, next := 0, rounds := satAdd 0xFF b.rounds 1, roundStart := s.now, lateLogged := false }
      else { b with retest := false, next := b.next + 1 }) s
  else
    let s := (put (fun b => { b with mismatches := satAdd 0xFF b.mismatches 1, retest := true }) s).log .sliceMismatch ch
    if b.retest then (s.log .bobbinRetire ch).retireNow ch 6 else s

/-- The bobbin runs no slice any more. -/
def Chan.gone (c : Chan) : Bool := c.func == .retired || c.retirePend

/-- Run `n` slices. -/
def State.bistSlices (ch n : Nat) (l : List SliceDiff) (s : State) : State :=
  (List.range n).foldl (fun s k => if (s.chan ch).gone then s else s.bistSlice ch (l.getD k [])) s

/-- Run slices back to back until slice 63 is done or the bobbin fails. -/
def State.restOfRound (ch : Nat) : List SliceDiff → State → State
  | [], s => s
  | d :: l, s =>
    if (s.chan ch).gone then s
    else
      let s := s.bistSlice ch d
      let b := (s.chan ch).bist
      if b.next = 0 && !b.retest then s else State.restOfRound ch l s

/-- The copies of a duplicated unit disagree (R524): the function stops, and slices 56 to 63 run. The round under way goes on from its
place. -/
def execLockstep (ch : Nat) (sigs : List SliceDiff) (s : State) : Res :=
  let c := s.chan ch
  if c.func == .retired then .next s
  else
    let s := (s.haltSlots ch 8).modChan ch fun c => { c with bist := { c.bist with next := 56, retest := false } }
    let s := State.restOfRound ch (sigs ++ List.replicate 16 []) s
    if (s.chan ch).gone then .next s
    else .next ((s.modChan ch fun d => { d with bist := { c.bist with mismatches := d.bist.mismatches } }).log .lockstep ch)

/-- A round lasts longer than 2^40 ck: it is logged once (R526). -/
def State.bistLate (ch : Nat) (s : State) : State :=
  let c := s.chan ch
  if c.gone || c.bist.lateLogged || s.now ≤ c.bist.roundStart + 2 ^ 40 then s
  else (s.modChan ch fun c => { c with bist := { c.bist with lateLogged := true } }).log .bistLate ch

/-- In the idle schedule BIST work becomes pending every 16,000,000,000 ck (R522). -/
def execBistIdleTimer (ch : Nat) (s : State) : Res :=
  let c := s.chan ch
  if (c.state == .idle || c.state == .stopped || c.state == .starting) && s.now ≥ c.bist.lastIdle + 16000000000 then
    .next (s.modChan ch fun c => { c with maint := { c.maint with bist := true }, bist := { c.bist with lastIdle := s.now } })
  else .next s

/-- A write to a register of channel `ch`'s block (R562): ignored and logged while the bobbin is RETIRED or its island is stopped
in RETENTION. BAR2 reaches no register, and a channel the member lacks has none. -/
def State.chanWrite (path : Path) (ch : Nat) (f : State → State) (s : State) : State :=
  if path == .bar2 || ch ≥ s.members then s
  else if (s.chan ch).func == .retired || s.pwr.mode == .retention then s.writeIgnored
  else f s

/-- CH_BIST.FORCE (R522, R526). -/
def execBistForce (path : Path) (ch : Nat) (s : State) : Res :=
  .next (s.chanWrite path ch fun s => s.modChan ch fun c => { c with maint := { c.maint with bist := true } })

/-- A write to CH_CAL_CFG (R316): RETRIG outside 1 to 20 is ignored; FORCE starts a run. -/
def execCalForce (path : Path) (ch : Nat) (value : Word) (s : State) : Res :=
  let r := value.toNat % 32
  .next (s.chanWrite path ch fun s =>
    if r = 0 || r > 20 then s.writeIgnored
    else
      let s := s.modEyes ch fun e => { e with retrig := r }
      if bit value.toNat 31 then s.startCal ch 32 else s)

/-- A write to CH_REMAP_CFG (R292): AUTO, and CLEAR, which drops every entry. -/
def execRemapClear (path : Path) (ch : Nat) (value : Word) (s : State) : Res :=
  .next (s.chanWrite path ch fun s => s.modChan ch fun c => { c with ecc :=
    { c.ecc with auto := bit value.toNat 31, remap := if bit value.toNat 30 then [] else c.ecc.remap,
                 fullLogged := c.ecc.fullLogged && !bit value.toNat 30 } })

/-! ## Monitor and scrub periods (R286, R293, R318) -/

/-- At the end of a window of 65,536 decodes the monitor's counts restart (R318, R331); the last address counted stays. -/
def execMonitorWindow (ch : Nat) (s : State) : Res :=
  if (s.chan ch).eyes.decodes < 65536 then .next s
  else
    let next (m : Nat × Mon) : Nat × Mon := (m.1, { m.2 with corr := min m.2.cnt 0xFFF, cnt := 0 })
    .next (s.modEyes ch fun e => { e with decodes := e.decodes - 65536, mon := e.mon.map next })

/-- At a scrub period boundary (R286, R293, R298): the filter clears, and a pending PERIOD takes effect. -/
def execScrubPeriodBoundary (ch : Nat) (s : State) : Res :=
  let e := (s.chan ch).ecc
  let last := s.lastGrid e.periodCk
  if e.lastBoundary ≥ last then .next s
  else
    let s := s.checkLate ch
    .next (s.modChan ch fun c => { c with ecc :=
      { c.ecc with filter := [], lastBoundary := last, period := c.ecc.periodPend.getD c.ecc.period, periodPend := none } })

/-! ## Self-refresh of the region (R41 to R46) -/

/-- The region declares heartbeat loss (R41): the last edge of its forward clock was 40 to 50 ns ago, at ck `edge`. The bobbin ends the
self-refresh that follows once the clock has run clean (R45). -/
def execHeartbeatLoss (ch edge : Nat) (s : State) : Res :=
  if ch ≥ s.members || s.now < edge + 64 || edge + 80 < s.now then .next s else .next (s.loseClock ch edge (s.now + 3200))

/-- The band factor of a die in self-refresh, of its hottest sensor: 4 above 95 °C on both grades (R2, R43). -/
def State.srBand (s : State) (d : Nat) : Nat := if s.dieHot d > 8 * 95 then 4 else if s.dieHot d > 8 * 85 then 2 else 1

/-- The least time between two refreshes that a region makes in self-refresh, in ck (R40, R43). DESIGN CHOICE (log 152): its interval is
the longest number of cycles that completes 2,048 refreshes in a refresh window at 85 MHz; at 115 MHz those cycles pass soonest. -/
def srInterval (band : Nat) : Nat := 1328 / band * 1600 / 115

/-- A region in self-refresh refreshes itself (R43): one refresh on its own counter, no sooner than its interval allows. -/
def execSelfRefreshInterval (ch : Nat) (s : State) : Res :=
  let g := (s.chan ch).reg
  if g.inSr && s.now ≥ g.srLast + srInterval (s.srBand (ch / 8)) then
    .next (s.modReg ch fun g => { g with rowCounter := (g.rowCounter + 1) % 2048, srLast := s.now })
  else .next s

/-- The exit command (R44, R45): the scrambler epoch begins, refresh accounting starts at zero, and a calibration run of 64 steps is
triggered (R315). -/
def State.exitSr (ch : Nat) (s : State) : State :=
  ((s.modChan ch fun c =>
    { c with reg := { c.reg with inSr := false, exitAt := 0 },
             refr := { c.refr with debt := List.replicate 32 0, since := s.now },
             eyes := { c.eyes with epoch := s.now, emerg := none } }).startCal ch 64).beginCal ch

end Sys2Proof.Machine
end

