-- ==== Sys2Proof/Machine/Admin.lean ====
section
/-! DEFINITION. Loading, starting and stopping functions (03 Loading and admission, 04 Stop, change and restart, 12
Coordinated start): LOAD_PRICKING, FUNC_START, FUNC_STOP, SHUT_DOWN. -/

namespace Sys2Proof.Machine

open Sys2Proof

/-! ## What the checker reads of the block (R48) -/

/-- STARTING, RUNNING or STOPPING: a section is bound. -/
def Chan.live (c : Chan) : Bool := c.state == .starting || c.state == .running || c.state == .stopping

/-- The lane section placed on a lane group is in use: a bound channel owns some of its positions (R49, R132). -/
def State.laneInUse (s : State) (rx : Bool) (g : Nat) : Bool :=
  match (s.group rx g).sect with
  | none => false
  | some l => l.table.any fun b => b != 0xFF && (s.chan (s.laneOwner b)).live

/-- The lane sections placed on the lane switch. -/
def State.placedLanes (s : State) : List LaneSection := s.lanes.groups.filterMap (·.2.sect)

/-- The inputs of R48. -/
def State.checkEnv (s : State) : CheckEnv :=
  { nch := s.members
    chanFree := fun c => (s.chan c).state == .idle || (s.chan c).state == .stopped
    laneFree := fun rx g => !s.laneInUse rx g && !(s.group rx g).lanes.any fun x => x.2.genEn || x.2.chkEn
    privBase := fun c => privBase (s.chan c).priv
    band := fun c => Sparse.get 1 s.thm.bands (c / 8)
    retired := fun c => (s.chan c).func == .retired
    admitted := s.chans.filterMap fun x => if x.2.live then x.2.seq.sect else none
    boundLanes := s.placedLanes
    subst := s.laneOwner }

/-! ## T_s (R411, R413) -/

/-- The first picot boundary at or after `t` (R50). -/
def picotAt (t : Nat) : Nat := (t + 65535) / 65536 * 65536

/-- The start table's T_s for a group as a local ck, when it leaves the section the time R413 asks for. -/
def State.tableTs (s : State) (g : Nat) : Option Nat :=
  (s.tor.startTab.find? fun x => x.1 == g && x.2 ≥ s.gt + 65536).map fun x => s.localOf x.2

/-- Channel `ch` takes its T_s, and so do the lane sections of its positions that still wait for theirs. -/
def State.takeTs (ch t : Nat) (s : State) : State :=
  let s := s.modChan ch fun c => { c with waitGroup := false, seq := { c.seq with ts := t, slotCk := t } }
  let owns (l : LaneSection) : Bool := l.table.any fun b => b != 0xFF && s.laneOwner b == ch
  { s with lanes := { s.lanes with groups := s.lanes.groups.map fun x =>
      if x.2.ts = 0 && x.2.sect.any owns then (x.1, { x.2 with ts := t }) else x } }

/-- Every section of group `g` that waits without T_s takes `t` (R413 step 5). -/
def State.startSections (g t : Nat) (s : State) : State :=
  (s.chans.filter fun x => x.2.state == .starting && x.2.waitGroup && x.2.startGroup == g).foldl
    (fun s x => s.takeTs x.1 t) s

/-! ## Placing (R130 step 4, R107, R118) -/

/-- The card words of a section's resident motifs. -/
def Section.cardWords (x : Section) : List (Nat × Word) :=
  let l := (x.motifs.filter fun m => !m.staged).flatMap fun m =>
    (List.range m.len).map fun j => (m.card + j, x.slots.getD (m.src + j) 0)
  (l.mergeSort fun a b => a.1 ≤ b.1).filter fun e => e.2 != 0

/-- Write the staged copy of a motif to the privileged region: slot word w in codeword STAGE_ADDR + w / 2. -/
def State.stageMotif (ch : Nat) (x : Section) (m : Motif) (s : State) : State :=
  let word (i : Nat) : Word := x.slots.getD (m.src + i) 0
  (List.range (m.len / 8)).foldl (fun s g =>
    s.writeGranule ch s.now (m.stageAddr + 4 * g) ((List.range 4).map fun j =>
      encode64 (word (8 * g + 2 * j + 1) ++ word (8 * g + 2 * j) : BitVec 64) false)) s

/-- Write a section's staged copies. -/
def State.stageSection (x : Section) (s : State) : State :=
  (x.motifs.filter (·.staged)).foldl (fun s m => s.stageMotif x.chan x m) s

/-! ## Starting a section (R5, R114, R160, R164, R186, R200, R226, R227, R233, R243) -/

/-- The lowest tier under throttle rung 6 or above, T0 otherwise (R344). -/
def State.startTier (s : State) (x : Section) : Nat :=
  if s.thm.rung ≥ 6 && (x.func == .source || x.func == .capture) then x.tiers.length - 1 else 0

/-- The function state of a bobbin at a start: settings stay, everything counted from the start is cleared. -/
def Chan.clearFunction (c : Chan) (x : Section) : Chan :=
  { c with
    src := { coded := c.src.coded, panicCk := c.src.panicCk, panicScope := c.src.panicScope }
    cap := { fwdEn := c.cap.fwdEn, fwdAccept := c.cap.fwdAccept, fwdCh := c.cap.fwdCh, fwdY := c.cap.fwdY,
             fwdX := c.cap.fwdX, rej := if x.func == .capture then [] else c.cap.rej,
             rejects := if x.func == .capture then 0 else c.cap.rejects,
             unknowns := if x.func == .capture then 0 else c.cap.unknowns,
             holdMax := if x.func == .capture then 0 else c.cap.holdMax }
    ana := { c.ana with passNo := 0, slotIdx := 0, passes := [], due := [], outq := [], lost := [] }
    flights := []
    refr := { c.refr with makeup := [], breaks := 0, surplus := 0, lastBreak := none } }

/-- The sequencer at a start from slot 0, or from a checkpoint record with its number (R164). -/
def Section.seqStart (x : Section) (tier : Nat) (k : Option (Nat × Ckpt)) (old : Seq) : Seq :=
  let base : Seq := { sect := some x, bound := true, card := x.cardWords, pos := x.start tier, tierSel := tier }
  match k with
  | none => base
  | some (n, k) => { base with pos := (x.next k.pos).getD (x.start tier), gens := k.gens, ckptNo := n, ckpts := old.ckpts }

/-- The streams of a resumed SOURCE: a group whose boundary bit is 0 starts in resync (R200). -/
def resumeGroups (k : Ckpt) : List (Nat × SrcGroup) :=
  (k.bnd.zipIdx.filter fun x => !x.1).map fun x => (x.2, { resync := true })

/-- RUNs left over from an earlier start, when this one does not resume them, end FUNCTION_STOPPED. -/
def State.dropRuns (ch : Nat) (s : State) : State :=
  State.endRuns ch 0x0004 false (s.chan ch).runs.length s

/-- A channel is uncommitted: function IDLE, and no enabled context requires it (R12). -/
def State.uncommitted (s : State) (ch : Nat) : Bool :=
  (s.chan ch).func == .idle && !(s.ctxs.any fun x => x.2.cls == 1 && x.2.state == .enabled && x.2.chan == ch)

/-- RUN_CKPT of the FUNCTION context of channel `ch` (R138). -/
def State.runCkptOf (s : State) (ch : Nat) : Nat := ((s.functionCtx ch).map fun i => (s.ctx i).runCkpt).getD 0

/-- The function begins anew (R160): its FUNCTION context counts RUN_CKPT from the stream start. -/
def State.freshCkpt (ch : Nat) (s : State) : State :=
  match s.functionCtx ch with
  | some i => s.modCtx i fun x => { x with runCkpt := 0 }
  | none => s

/-- Bind a section to its channel and begin STARTING with its start group (R130 step 6, R164, R411). It resumes when a RUN is unfinished,
or when a span that ended INTERRUPTED is to be executed again. DESIGN CHOICE (log 157): without a checkpoint record it does not. -/
def State.bindSection (x : Section) (group : Nat) (resume : Bool) (s : State) : State :=
  let ch := x.chan
  let n := s.runCkptOf ch
  let resume := resume && (!(s.chan ch).runs.isEmpty || (s.chan ch).lastEnd > n) &&
    (n = 0 || (Sparse.find? (s.chan ch).seq.ckpts n).isSome)
  let s := if resume then s else (s.dropRuns ch).freshCkpt ch
  let k := if resume then (Sparse.find? (s.chan ch).seq.ckpts n).map fun k => (n, k) else none
  let tier := s.startTier x
  let s := s.modChan ch fun c =>
    let c := c.clearFunction x
    { c with func := x.func, state := .starting, starved := false, startGroup := group, waitGroup := true,
             stopRunEnd := false, lastEnd := if resume then c.lastEnd else 0,
             seq := x.seqStart tier k c.seq,
             reg := { c.reg with openRows := [], lastAct := 0, lastRd := 0, lastWr := 0 },
             src := { c.src with groups := (k.map fun k => resumeGroups k.2).getD [] },
             ana := match k with
               | some (_, k) => { c.ana with passNo := k.passNo, slotIdx := k.passIdx,
                                             passes := if k.passIdx = 0 then [] else [(k.passNo, { resumedAt := k.passIdx })] }
               | none => c.ana }
  let s := if (s.channels.filter s.uncommitted).length < 4 then s.log .reserveLow 0 else s
  if group = 0 then s.takeTs ch (s.localOf (picotAt (s.gt + 131072)))
  else
    match s.tableTs group with
    | some t => s.takeTs ch t
    | none => s

/-- The record of checkpoint RUN_CKPT of channel `ch` does not match its complement (R304): the FUNCTION context halts, and the record is
not used. -/
def State.badCheckpoint (ch : Nat) (s : State) : State :=
  let s := s.modChan ch fun c => { c with seq := { c.seq with ckpts := Sparse.erase c.seq.ckpts (s.runCkptOf ch) } }
  match s.functionCtx ch with
  | some n => s.halt n 0x04
  | none => s

/-- Place and bind a lane section (R130 steps 4 and 6). -/
def State.bindLane (l : LaneSection) (s : State) : State :=
  s.modGroup l.rx l.group fun g => { g with sect := some l, ts := 0 }

/-! ## LOAD_PRICKING (R128 to R131, R168) -/

/-- A second read whose section CRC differs from the first (R129): the first such section in directory order. -/
def secondBad (b : List Byte) (es : List DirEntry) : Option DirEntry :=
  es.find? fun e => (crc32c ((b.drop e.off).take e.len)).toNat != e.crc

/-- A failed placement (R131): the cards written before it are empty and their placed copies gone. -/
def State.unplace (es : List DirEntry) (s : State) : State :=
  (es.filter (·.typ == 1)).foldl (fun s e => s.modChan e.idx fun c => { c with seq := { c.seq with sect := none, card := [] } }) s

/-- Bind a whole admitted image. -/
def State.bindImage (img : Image) (resume : Bool) (s : State) : State :=
  let s := img.lanes.foldl (fun s l => s.bindLane l) s
  img.chans.foldl (fun s x => s.bindSection x img.header.startGroup resume) s

/-- No load accepted earlier is still unfinished (R128). -/
def State.firstLoad (s : State) (d : Desc) : Bool :=
  s.ctxs.all fun x => x.2.acc.all fun e => e.op != 0x40 || e.phase == .done || d.accNo ≤ e.accNo

/-- The last section of the image that the first read checked leaves its CRC in the inline unit (R544). -/
def State.inlineChecked (b : List Byte) (len : Nat) (s : State) : State :=
  match lastChecked s.members b len with
  | some e => s.inlineJob (e.crcOf b == e.crc) (e.crcOf b)
  | none => s

/-- A read of the image leaves the device, once more when it fails (R129). -/
def State.readImage (d : Desc) (f : Fetch) (s : State) : State :=
  let ask (s : State) : State := s.hostRead (d.u64 0x10) (d.u32 0x18)
  if firstTry f then ask s else ask (ask s)

/-- Write a channel section to its card and sequencer stores: the placed copy (R130 step 4). -/
def State.placeSection (x : Section) (s : State) : State :=
  (s.stageSection x).modChan x.chan fun c => { c with seq := { c.seq with sect := some x, card := x.cardWords } }

/-- The inputs of R48 as the parser of an image that has passed the checker takes them. -/
def CheckEnv.open_ (env : CheckEnv) : CheckEnv :=
  { env with chanFree := fun _ => true, laneFree := fun _ _ => true, band := fun _ => 1, privBase := fun _ => 0 }

/-- Band and availability of a section before it is bound (R130 step 5). DESIGN CHOICE (log 155): the sections are tested in image order,
and the band before the channel. -/
def CheckEnv.retest (env : CheckEnv) (x : Section) : Option Verdict :=
  if env.band x.chan > x.cover then some { code := 0x61, sect := x.chan, detail := env.band x.chan }
  else if env.retired x.chan || !env.chanFree x.chan then some { code := 0x60, sect := x.chan }
  else none

/-- Complete a load with its verdict (R94, R168). DESIGN CHOICE (log 162): the record of R94 has no field for the IMAGE_ID of R99. -/
def State.finLoad (n : Nat) (d : Desc) (v : Verdict) (s : State) : State := s.finish n d.seq (if v.code = 0 then 0 else 1) 0 v.word

/-- Steps 1 to 3 of a load (R130) with what the first read of the image gave. A checker that faults admits nothing (R95). DESIGN
CHOICE (log 170): where no section can be named, of an image that cannot be read or by a checker that faults, SECTION is 0xFF. -/
def State.checkLoad (n : Nat) (d : Desc) (image : Option (List Byte)) (fault : Bool) (s : State) : State :=
  match image with
  | none => s.finLoad n d { code := 0x02, sect := 0xFF }
  | some b =>
    let s := s.inlineChecked b (d.u32 0x18)
    if fault then (s.log .checkerInternal 0).finLoad n d { code := 0xFF, sect := 0xFF }
    else
      match checkImage s.checkEnv b (d.u32 0x18) with
      | .error v => s.finLoad n d v
      | .ok _ => s.modDesc n d.seq fun d => { d with phase := .started, staged := b }

/-- Steps 4 to 6 of a load (R130, R131) with what the second read gave. DESIGN CHOICE (log 156): a second read that fails is a failed CRC of the
first section of the directory, which SECTION then names (log 170), and only the sections before the failing one, in directory order,
count as written. -/
def State.placeLoad (n : Nat) (d : Desc) (image : Option (List Byte)) (badCkpts : List Nat) (s : State) : State :=
  match parseImage s.checkEnv.open_ d.staged (d.u32 0x18) with
  | .error v => s.finLoad n d v
  | .ok img =>
    let b := image.getD []
    match (if image.isNone then img.entries.head? else secondBad b img.entries) with
    | some e =>
      let before := img.entries.takeWhile fun x => x != e
      let s := s.inlineJob false (e.crcOf b)
      let s := (img.chans.filter fun x => before.any fun y => y.typ == 1 && y.idx == x.chan).foldl (fun s x => s.placeSection x) s
      (s.unplace before).finLoad n d { code := 0x02, sect := e.sect, detail := 1 }
    | none =>
      let s := img.chans.foldl (fun s x => s.placeSection x) s
      match img.chans.findSome? s.checkEnv.retest with
      | some v => (s.unplace img.entries).finLoad n d v
      | none =>
        let resume := bit (d.u32 0x1C) 0
        let bad := if resume then (img.chans.map (·.chan)).filter badCkpts.contains else []
        ((bad.foldl (fun s ch => s.badCheckpoint ch) s).bindImage img resume).finLoad n d Verdict.admitted

/-- LOAD_PRICKING. The image is read twice, and each read is one command: to check it, and to place it (R129, R130). `checkerFault` says
that the checker faulted (R95), `badCkpts` names channels whose checkpoint record does not match (R304). -/
def execLoadPricking (ctx : Nat) (image : Fetch) (checkerFault : Bool) (badCkpts : List Nat) (s : State) : Res :=
  match s.startedOp ctx 0x40 with
  | some d => if s.hostUp then .next ((s.readImage d image).placeLoad ctx d (fetchData image) badCkpts) else .next s
  | none =>
    match s.startable ctx 0x40 with
    | some d =>
      if !s.hostUp || !s.firstLoad d then .next s
      else if d.u64 0x10 % 8 != 0 || d.u32 0x1C / 2 != 0 || !d.zero 0x20 0x40 then .next (s.finish ctx d.seq 0x0012)
      else .next ((s.readImage d image).checkLoad ctx d (fetchData image) checkerFault)
    | none => .next s

/-! ## FUNC_START (R170, R175, R176) -/

/-- A staged copy of a placed section no longer lies in the privileged region (R108, with the size of R48). -/
def stagedOutside (x : Section) (priv : Nat) : Option Nat := x.motifs.findIdx? fun m => m.staged && m.stageAddr < priv

/-- The checker on the section placed on a channel (R170). -/
def State.recheck (s : State) (x : Section) : Except Verdict Unit := do
  let env := s.checkEnv
  match stagedOutside x (env.privBase x.chan) with
  | some k => .error (fmtErr 8 x.chan k)
  | none =>
    refuse (env.band x.chan > x.cover) { code := 0x61, sect := x.chan, detail := env.band x.chan }
    let lanes := env.boundLanes.filter fun l => l.table.any fun b => b != 0xFF && env.subst b == x.chan
    contractCheck env env.subst lanes [x]
    laneCheck env [x] (lanes.map (true, ·))
    powerDevice env [x]
    budgetCheck env env.subst lanes [x]

/-- Start the section placed on channel `ch` for FUNC_START `q` of context `n`. -/
def State.startPlaced (ch n q group : Nat) (resume : Bool) (s : State) : State :=
  match (s.chan ch).seq.sect with
  | none => s.finish n q 0x0015
  | some x =>
    match s.recheck x with
    | .error v => s.finish n q 1 0 v.word
    | .ok _ =>
      let s := (s.bindSection x group resume).modChan ch fun c => { c with starter := some (n, q) }
      s.modDesc n q fun d => { d with phase := .started }

/-- FUNC_START. One whose channel it has brought to STARTING already, run again after a hoop restart (R163), goes on waiting for the first
slot. `badCkpt` says that the checkpoint record of a resume does not match (R304). -/
def execFuncStart (ctx : Nat) (badCkpt : Bool) (s : State) : Res :=
  match s.startable ctx 0x41 with
  | some d =>
    let o := d.u32 0x10
    let ch := o % 128
    let c := s.chan ch
    if bits o 7 7 != 0 || o / 512 != 0 || d.u32 0x14 ≥ 2 ^ 16 || !d.zero 0x18 0x40 || ch ≥ s.members then
      .next (s.finish ctx d.seq 0x0012)
    else if c.state == .starting && c.starter == some (ctx, d.seq) then .next (s.modDesc ctx d.seq fun d => { d with phase := .started })
    else if c.state == .stopped then
      .next ((if badCkpt && bit o 8 then s.badCheckpoint ch else s).startPlaced ch ctx d.seq (d.u32 0x14) (bit o 8))
    else if c.state == .stopping then
      if c.held.isSome then .next (s.finish ctx d.seq 0x0016)
      else
        let h : HeldStart := { ctx, seq := d.seq, group := d.u32 0x14, resume := bit o 8 }
        .next ((s.modChan ch fun c => { c with held := some h }).modDesc ctx d.seq fun d => { d with phase := .started })
    else .next (s.finish ctx d.seq 0x0015)
  | none => .next s

/-! ## SHUT_DOWN (R173) -/

/-- Write halves whose slots lie after B are owed as make-up (R173 step 2). -/
def State.oweHalves (ch : Nat) (s : State) : State :=
  ((s.chan ch).cap.merges.filter fun m => !m.slotDone).foldl (fun s m =>
    let s := s.modMerge ch m.id fun m => { m with slotDone := true, owed := true }
    if m.dropped || m.fwd then s
    else s.modChan ch fun c => { c with refr := { c.refr with
      makeup := c.refr.makeup ++ [{ addr := m.addr, pair := some m.id }] } }) s

/-- Issue make-up operations that can issue, 8 ck apart from ck `t` on. -/
def State.serveMakeup (ch : Nat) : Nat → Nat → State → State
  | 0, _, s => s
  | n + 1, t, s =>
    match (s.chan ch).makeupReady with
    | some m => State.serveMakeup ch n (t + 8)
        ((s.makeupOp ch t t m).modChan ch fun c => { c with da := { c.da with lastIdleOp := t } })
    | none => s

/-- Steps 2 of R173 are done: nothing is owed, under way, unreleased, unwritten or unacknowledged. -/
def Chan.drained (c : Chan) (now : Nat) : Bool :=
  c.liveMakeup.isEmpty && c.flights.isEmpty && c.src.empty && (c.src.handed.all fun x => x.1 ≤ now) && (c.cap.merges.all fun m => !m.open) && c.cap.fwds.isEmpty

/-- The span of a RUN holds the last slot B: it began before it. -/
def Chan.spanHolds (c : Chan) (r : RunRec) : Bool :=
  let k := c.seq.ckptNo
  r.startC < k || (r.startC = k && (k = 0 || (Sparse.find? c.seq.ckpts k).all fun x => some x.ck != c.seq.stopAt))

/-- Step 3 of R173: the RUNs of the stopping function. -/
def State.stopRuns (ch : Nat) : Nat → State → State
  | 0, s => s
  | n + 1, s =>
    let c := s.chan ch
    match c.runs with
    | [] => s
    | r :: _ =>
      let k := c.seq.ckptNo
      State.stopRuns ch n
        (if r.endC ≤ k then s.endRun ch 0 true
         else if c.spanHolds r then s.endRun ch (if c.seq.stopCauseReq = 4 then 0 else 0x0004) true
         else s.endRun ch 0x0004 false)

/-- A FUNC_START that waits for the first slot of a function that will not start is superseded. -/
def State.dropStarter (ch : Nat) (s : State) : State :=
  match (s.chan ch).starter with
  | some (n, q) => (s.modChan ch fun c => { c with starter := none }).finish n q 0x0002
  | none => s

/-- A placed section whose stores failed SECDED is empty and needs a new LOAD_PRICKING (R303). -/
def Seq.dropBad (q : Seq) : Seq := if q.cardUnc then { q with cardUnc := false, sect := none, card := [] } else q

/-- A retirement whose channel has stopped comes about once Direct Access that it must complete is complete (R266, R300). -/
def State.retireIfDone (ch : Nat) (s : State) : State :=
  let c := s.chan ch
  if c.retirePend && (c.state == .idle || c.state == .stopped) && (c.retireAtOnce || s.daCount ch = 0) then s.retire ch else s

/-- Steps 3 to 5 of R173, then the retirement or the held start that waits (R176, R300, R525). -/
def State.stopped (ch : Nat) (s : State) : State :=
  let s := State.stopRuns ch (s.chan ch).runs.length s
  let s := s.stopWaiting ch (if (s.chan ch).seq.stopCauseReq = 4 then 0x0005 else 0x0004)
  let s := (s.dropStarter ch).endPanic ch
  let s := s.modChan ch fun c =>
    { c with state := .stopped, func := .idle, stopCause := c.seq.stopCauseReq, starved := false, waitGroup := false, lastEnd := 0,
             seq := { c.seq with bound := false, stopAt := none, atSwitch := false }.dropBad, src := { c.src with groups := [] },
             reg := { c.reg with openRows := [] } }
  let s := s.endStops ch
  if (s.chan ch).retirePend then s.retireIfDone ch
  else
    match (s.chan ch).held with
    | some h => (s.modChan ch fun c => { c with held := none }).startPlaced ch h.ctx h.seq h.group h.resume
    | none => s

/-- SHUT_DOWN: after B the channel completes pending make-up and output, its RUNs, and becomes STOPPED. -/
def execShutDown (ch : Nat) (s : State) : Res :=
  let c := s.chan ch
  if c.state != .stopping || c.seq.stopAt.isNone then .next s
  else
    let s := s.oweHalves ch
    let c := s.chan ch
    let s := if c.reg.inSr then s else State.serveMakeup ch c.refr.makeup.length (max s.now (c.da.lastIdleOp + 8)) s
    if (s.chan ch).drained s.now then .next (s.stopped ch) else .next s

/-! ## FUNC_STOP (R170, R177, R178) -/

/-- A held FUNC_START is superseded by a FUNC_STOP (R177). -/
def State.supersede (ch : Nat) (s : State) : State :=
  match (s.chan ch).held with
  | some h => (s.modChan ch fun c => { c with held := none }).finish h.ctx h.seq 0x0002
  | none => s

/-- Stop a RUNNING channel: at the next motif boundary, or at the end checkpoint of the running span unless starved. -/
def State.stopRunning (ch : Nat) (atEnd : Bool) (s : State) : State :=
  let c := s.chan ch
  let s := s.requestStop ch 1
  if atEnd && !c.starved then
    match c.runs.find? fun r => r.startC ≤ c.seq.ckptNo && c.seq.ckptNo < r.endC with
    | some r => s.modChan ch fun c => { c with stopRunEnd := true, stopB := r.endC }
    | none => s
  else s

/-- A function that has not started stops at once (R178). -/
def State.stopStarting (ch cause : Nat) (s : State) : State :=
  (s.modChan ch fun c => { c with seq := { c.seq with stopCauseReq := cause } }).stopped ch

/-- What a retirement under way asks of the channel now (R300, R525): a function that has not started stops, and once nothing runs and
started Direct Access is complete the bobbin becomes RETIRED. -/
def State.settleRetire (ch : Nat) (s : State) : State :=
  let c := s.chan ch
  if !c.retirePend then s
  else if c.state == .starting then s.stopStarting ch 6
  else if c.state == .running then s.requestStop ch 6
  else s.retireIfDone ch

/-- FUNC_STOP. -/
def execFuncStop (ctx : Nat) (s : State) : Res :=
  match s.startable ctx 0x42 with
  | some d =>
    let o := d.u32 0x10
    let ch := o % 128
    let c := s.chan ch
    let wait (s : State) : State :=
      (s.modChan ch fun c => { c with stoppers := c.stoppers ++ [(ctx, d.seq)] }).modDesc ctx d.seq fun d =>
        { d with phase := .started }
    if bits o 7 7 != 0 || o / 1024 != 0 || bits o 9 8 ≥ 2 || !d.zero 0x14 0x40 || ch ≥ s.members then
      .next (s.finish ctx d.seq 0x0012)
    else
      match c.state with
      | .idle | .retired => .next (s.finish ctx d.seq 0x0015)
      | .stopped => .next (s.finish ctx d.seq 0)
      | .stopping => .next ((wait s).supersede ch)
      | .starting => .next ((s.stopStarting ch 1).finish ctx d.seq 0)
      | .running => .next ((wait s).stopRunning ch (bit o 8))
  | none => .next s

end Sys2Proof.Machine
end

