-- ==== Sys2Proof/Machine/Context.lean ====
section
/-! DEFINITION. Contexts, rings and doorbells (04): doorbell reads, acceptance (R147), NOP, WAIT, the context opcodes,
the admin window, the journal and messages. -/

namespace Sys2Proof.Machine

open Sys2Proof

/-! ## NOP and WAIT -/

/-- NOP: no effect, one record (R142). -/
def execNop (ctx : Nat) (s : State) : Res :=
  match s.startable ctx 0x00 with
  | some d => .next (s.finish ctx d.seq (if d.zero 0x10 0x40 then 0 else 0x0012))
  | none => .next s

/-- WAIT blocks its context until the target's frontier reaches SEQ (R166). -/
def execWait (ctx : Nat) (s : State) : Res :=
  match s.startable ctx 0x01 with
  | some d =>
    if d.u64 0x10 / 2 ^ 12 != 0 || d.u64 0x18 / 2 ^ 48 != 0 || !d.zero 0x20 0x40 then .next (s.finish ctx d.seq 0x0012)
    else if seqReached (s.ctx (d.u64 0x10)).frontier (d.u64 0x18) then .next (s.finish ctx d.seq 0)
    else .next (s.modDesc ctx d.seq fun d => { d with phase := .started })
  | none => .next s

/-- A waiting WAIT completes when the target frontier has reached SEQ, or is abandoned when the target is no longer
ENABLED (R152, R166). -/
def execWaitDone (ctx : Nat) (s : State) : Res :=
  match s.startedOp ctx 0x01 with
  | some d =>
    let t := s.ctx (d.u64 0x10 % 4096)
    if seqReached t.frontier (d.u64 0x18) then .next (s.finish ctx d.seq 0)
    else if t.state != .enabled then .next (s.finish ctx d.seq 0x0007)
    else .next s
  | none => .next s

/-! ## Doorbells (R143 to R145) -/

/-- A write to DB_NUDGE starts a read of the named entry within 1 µs (R144). -/
def execDbNudge (ctx : Nat) (s : State) : Res :=
  if s.host.dbBase = 0 || !s.hostUp then .next s
  else
    .next ({ s with host := { s.host with readReq := if s.host.readReq.contains ctx then s.host.readReq
                                                     else s.host.readReq ++ [ctx] } }.hostRead (s.host.dbBase + 8 * ctx) 8)

/-- Ask for the whole doorbell page: the entry of every context the selvedge holds a record of (R144). -/
def State.requestPage (s : State) : State :=
  if s.host.dbBase = 0 || !s.hostUp then s
  else { s with host := { s.host with readReq := s.ctxs.map Prod.fst } }.hostRead s.host.dbBase 32768

/-- A write to DB_NUDGE with ALL set starts a read of the whole page (R144). -/
def execDbNudgeAll (s : State) : Res := .next s.requestPage

/-- The poll interval expires (R144): 1 µs is 1,600 ck. -/
def execDoorbellPoll (s : State) : Res :=
  if s.host.pollEn && s.now ≥ s.host.lastPoll + s.host.pollUs * 1600 then
    .next { s.requestPage with host := { s.requestPage.host with lastPoll := s.now } }
  else .next s

/-- The mode and the change under way let the device read entries and descriptors of context `n` (R432, R444 step 2). -/
def State.readsCtx (s : State) (n : Nat) : Bool :=
  modeReads s.pwr.mode n && (n < 16 || !(s.pwr.change.any fun c => c.target == .retention))

/-- The entry of a context is one the device acts on (R145, R432): ENABLED, and for a FUNCTION context its channel is
STARTING or RUNNING. -/
def State.entryServed (s : State) (n : Nat) : Bool :=
  let c := s.ctx n
  let st := (s.chan c.chan).state
  c.state == .enabled && s.readsCtx n && (c.cls != 1 || st == .starting || st == .running)

/-- A read request for descriptors leaves, when none is under way and the ring holds some (R139, R145): from slot CI on, at most 64, to the
end of the ring. -/
def State.fetchRing (n : Nat) (s : State) : State :=
  let c := s.ctx n
  let posted := (c.pi + 2 ^ 32 - c.ci) % 2 ^ 32
  let slot := c.ci % 2 ^ c.ringLog2
  let k := min (min posted 64) (2 ^ c.ringLog2 - slot)
  if c.fetched != 0 || k = 0 || c.state != .enabled || !s.hostUp then s
  else (s.modCtx n fun c => { c with fetched := k }).hostRead (c.dring + 64 * slot) (64 * k)

/-- The slot that CI names is read again (R139, R147, R303). -/
def State.refetchSlot (n : Nat) (s : State) : State :=
  let c := s.ctx n
  s.hostRead (c.dring + 64 * (c.ci % 2 ^ c.ringLog2)) 64

/-- The doorbell entry of a context has been read (R145). `badRecord` says that a pair in the context's record does not match (R138,
R304). -/
def execDoorbellRead (ctx : Nat) (pi piC : Word) (badRecord : Bool) (s : State) : Res :=
  if !s.hostUp || s.host.dbBase = 0 || !s.host.readReq.contains ctx then .next s
  else
    let s := { s with host := { s.host with readReq := s.host.readReq.filter (· != ctx) } }
    if !s.entryServed ctx then .next s
    else if badRecord then .next (s.halt ctx 0x04)
    else if piC != ~~~pi then
      let m := (s.ctx ctx).mism + 1
      let s := s.modCtx ctx fun c => { c with mism := m % 16 }
      .next (if m = 16 then s.log .dbMismatch ctx else s)
    else
      let s := s.modCtx ctx fun c => { c with mism := 0, dupLogged := false }
      let c := s.ctx ctx
      if (pi.toNat + 2 ^ 32 - c.ci) % 2 ^ 32 > 2 ^ c.ringLog2 then .next (s.halt ctx 0x03)
      else .next ((s.modCtx ctx fun c => { c with pi := pi.toNat }).fetchRing ctx)

/-! ## Acceptance (R147, R148) -/

/-- The outcome that acceptance itself fixes: the refusals of R141, R142, R432 and of WAIT on a target that is not
ENABLED (R166). DESIGN CHOICE (log 161): of several that apply, the first in this order. -/
def State.acceptRefusal (s : State) (c : Ctx) (d : Desc) : Option Nat :=
  if !opKnown d.op then some 0x0010
  else if !opClassOk d.op c.cls then some 0x0011
  else if flagsReserved d.flags then some 0x0012
  else if !modeServes s.pwr.mode c.cls d.op then some 0x0015
  else if d.op = 1 && d.u64 0x10 < 4096 && (s.ctx (d.u64 0x10)).state != .enabled then some 0x0015
  else none

/-- Class of the bank of a Direct Access descriptor's first byte (R260). -/
def Chan.classOf (c : Chan) (bank : Nat) : Nat :=
  if bank < 16 then bits c.da.map0.toNat (2 * bank + 1) (2 * bank)
  else bits c.da.map1.toNat (2 * (bank - 16) + 1) (2 * (bank - 16))

/-- Accept the descriptor in the slot that CI names: NEXT_SEQ and CI advance (R147). -/
def State.accept (n : Nat) (b : List Byte) (s : State) : State :=
  let c := s.ctx n
  let d : Desc := { seq := headSeq b, op := headOp b, flags := headFlags b, opnd := (b.drop 16).take 48,
                    accNo := s.host.nextAcc }
  let ch := byteChan d.daAddr
  let d := if isDaOp d.op then
      { d with ch, cls := (s.chan ch).classOf (byteCw d.daAddr / 2 ^ 21), first := byteCw d.daAddr / 4,
               total := d.daLen / 32 } else d
  let d := match s.acceptRefusal c d with
    | some st => { d with phase := .done, status := st, total := 0 }
    | none => d
  let s := { s with host := { s.host with nextAcc := s.host.nextAcc + 1 } }
  let s := s.modCtx n fun c => { c with nextSeq := (c.nextSeq + 1) % 2 ^ 48, ci := (c.ci + 1) % 2 ^ 32,
                                        acc := c.acc ++ [d], refetch := none, opFail := false, fetched := c.fetched - 1 }
  ((s.count 0x10E none 1 fun q => q == n).drain n).fetchRing n

/-- Examine the sequence number of a descriptor whose HEAD matches (R147, R148). -/
def State.examineSeq (n : Nat) (b : List Byte) (s : State) : State :=
  let c := s.ctx n
  let gap := (c.nextSeq + 2 ^ 48 - headSeq b) % 2 ^ 48
  if gap = 0 then s.accept n b
  else if gap ≤ 2 ^ 47 then
    let s := s.modCtx n fun c => { c with ci := (c.ci + 1) % 2 ^ 32, refetch := none, opFail := false, fetched := c.fetched - 1,
                                          dupLogged := true }
    let s := s.count 0x10F none 1 fun q => q == n
    (if c.dupLogged then s else s.log .ctxDup n).fetchRing n
  else s.halt n 0x02

/-- Context `n` has a fetched descriptor to examine. -/
def State.examines (s : State) (n : Nat) : Bool :=
  let c := s.ctx n
  s.hostUp && c.state == .enabled && s.readsCtx n && c.fetched != 0 && c.refetch.isNone

/-- An admin context has one: it is served before all others (R145). -/
def State.adminFirst (s : State) (n : Nat) : Bool := n ≥ 16 && (List.range 16).any s.examines

/-- A fetched descriptor is examined (R147); operands that fail SECDED in their crossing are fetched again, and a second
failure halts the context (R303). -/
def execDescriptorExamine (ctx : Nat) (bytes : List Byte) (operandFail : Bool) (s : State) : Res :=
  let c := s.ctx ctx
  if !s.examines ctx || s.adminFirst ctx then .next s
  else if operandFail then
    if c.opFail then .next (s.halt ctx 0x01)
    else .next (((s.modCtx ctx fun c => { c with opFail := true }).log .storeUncorrectable 0).refetchSlot ctx)
  else if !isComp 64 (headOf bytes) (headComp bytes) then
    .next (s.modCtx ctx fun c => { c with refetch := some (s.now + 1600) })
  else .next (s.examineSeq ctx bytes)

/-- 1 µs after a HEAD mismatch the slot is fetched again; a second mismatch halts the context (R147). -/
def execHeadRefetch (ctx : Nat) (bytes : List Byte) (s : State) : Res :=
  match (s.ctx ctx).refetch with
  | some due =>
    if s.now < due || !s.hostUp || (s.ctx ctx).state != .enabled then .next s
    else
    let s := s.refetchSlot ctx
    if !isComp 64 (headOf bytes) (headComp bytes) then .next (s.halt ctx 0x01)
    else .next ((s.modCtx ctx fun c => { c with refetch := none }).examineSeq ctx bytes)
  | none => .next s

/-! ## Journal and messages (R154, R156) -/

/-- The read that confirms a record's write completes, and its journal slot is freed (R156). -/
def execJournalConfirm (ctx seq : Nat) (s : State) : Res :=
  if s.hostUp && s.journal.any (fun j => j.ctx == ctx && j.seq == seq) then
    .next ({ s with journal := s.journal.filter fun j => !(j.ctx == ctx && j.seq == seq) }.drainEvery)
  else .next s

/-- 6,400 ck after a record that no message has covered (R154). -/
def execMsixTimeout (ctx : Nat) (s : State) : Res :=
  let c := s.ctx ctx
  if c.irqEn && c.unsent > 0 && s.now ≥ c.unsentSince + 6400 then .next (s.sendMsix ctx) else .next s

/-! ## Doorbell base and admin window (R137, R554) -/

/-- The doorbell base is fixed: one is in force and some context is ENABLED or HALTED (R554). -/
def State.dbFixed (s : State) : Bool := s.host.dbBase != 0 && s.ctxs.any fun x => x.2.state != .disabled

/-- A write to DEV_DB_BASE_LO commits the held high word (R554). -/
def execDbBaseWrite (value : Word) (s : State) : Res :=
  if s.dbFixed then .next s.writeIgnored
  else .next { s with host := { s.host with dbBase := s.host.dbHiHeld * 2 ^ 32 + value.toNat / 2 ^ 15 * 2 ^ 15 } }

/-- The block that DEV_ADMCFG_DATA0 to 7 hold. -/
def HostIf.admBlock (h : HostIf) : List Byte := (List.range 8).flatMap fun i => leBytes 4 (Sparse.get 0 h.admData i).toNat

/-- Refuse an admin-window action: ERR and a C0 fault (R137). -/
def State.admRefuse (s : State) : State := { s with host := { s.host with admErr := true } }.writeIgnored

/-- Disable admin context CTX once its accepted descriptors have records (R137). -/
def State.admDisable (n : Nat) (s : State) : State :=
  if (s.ctx n).state == .disabled then s.admRefuse
  else
    let s := { s with host := { s.host with admErr := false, admBusy := s.host.admBusy.filter (· != n) ++ [n] } }
    (s.modCtx n fun c => { c with disabling := c.disabling ++ [(n, none)] }).drain n

/-- A write to DEV_ADMCFG_SEL with COMMIT set (R137). -/
def execAdmcfgCommit (value : Word) (s : State) : Res :=
  let n := value.toNat % 16
  let s := { s with host := { s.host with admCtx := n } }
  if bit value.toNat 29 then .next s.admRefuse
  else
    let r := s.configure n s.host.admBlock (s.host.admSeqLo.toNat + s.host.admSeqHi * 2 ^ 32)
    if r.1 = 0 then .next { r.2 with host := { r.2.host with admErr := false } } else .next s.admRefuse

/-- A write to DEV_ADMCFG_SEL with DISABLE set (R137). -/
def execAdmcfgDisable (value : Word) (s : State) : Res :=
  let n := value.toNat % 16
  let s := { s with host := { s.host with admCtx := n } }
  if bit value.toNat 31 then .next s.admRefuse else .next (s.admDisable n)

/-! ## Context opcodes (R136, R138, R169) -/

/-- CTX_CONFIG checks a block and enables a DISABLED context (R136). -/
def execCtxConfig (ctx : Nat) (s : State) : Res :=
  match s.startable ctx 0x43 with
  | some d =>
    let n := d.u64 0x10
    if n ≥ 4096 || d.u64 0x18 ≥ 2 ^ 48 then .next (s.finish ctx d.seq 0x0012)
    else
      let r := s.configure n (d.opnd.drop 16) (d.u64 0x18)
      .next (r.2.finish ctx d.seq r.1)
  | none => .next s

/-- CTX_DISABLE (R134, R169): refused for a FUNCTION context whose channel is STARTING, RUNNING or STOPPING, and for one
already DISABLED. -/
def execCtxDisable (ctx : Nat) (s : State) : Res :=
  match s.startable ctx 0x44 with
  | some d =>
    let n := d.u64 0x10
    if n ≥ 4096 || !d.zero 0x18 0x40 then .next (s.finish ctx d.seq 0x0012)
    else
      let t := s.ctx n
      let st := (s.chan t.chan).state
      if t.state == .disabled || (t.cls == 1 && (st == .starting || st == .running || st == .stopping)) then
        .next (s.finish ctx d.seq 0x0015)
      else
        let s := s.modDesc ctx d.seq fun d => { d with phase := .started }
        .next ((s.modCtx n fun c => { c with disabling := c.disabling ++ [(ctx, some d.seq)] }).drain n)
  | none => .next s

/-- CTX_QUERY copies the 128-byte record to host memory (R138, R169). -/
def execCtxQuery (ctx : Nat) (s : State) : Res :=
  match s.startable ctx 0x45 with
  | some d =>
    let n := d.u64 0x10
    if !s.hostUp then .next s
    else if n ≥ 4096 || d.u64 0x18 % 128 != 0 || !d.zero 0x20 0x40 then .next (s.finish ctx d.seq 0x0012)
    else .next ((s.hostWrite (d.u64 0x18) (s.ctx n).record).finish ctx d.seq 0)
  | none => .next s

end Sys2Proof.Machine
end

