-- ==== Sys2Proof/Machine/Modes.lean ====
section
/-! DEFINITION. What mode changes and resets share: accepted work that runs again (R163), functions cut short, regions sent
to self-refresh, entry to SAFE (R355, R356, R437, R493) and to SERVICE (R450), and the AVSBus (R441). -/

namespace Sys2Proof.Machine

open Sys2Proof

/-- The code of a mode (R432). -/
def Mode.code : Mode → Nat
  | .bringUp => 0
  | .service => 1
  | .retention => 2
  | .maintenance => 3
  | .save => 4
  | .safe => 5

/-! ## Accepted work that runs again (R163) -/

/-- The opcodes that a reset does not send back to their first step: WAIT goes on waiting, RUN stays accepted, and
FUSE_PROGRAM and POWER_REQUEST are followed where they are performed. -/
def keepsPlace (op : Nat) : Bool := op == 0x01 || op == 0x20 || op == 0x49 || op == 0x4A

/-- A started descriptor runs again from its first step, and so does a Direct Access descriptor whose effect is complete but not
committed: it waits behind one of its context that is not (R155, R267). -/
def Desc.again (d : Desc) : Desc :=
  if (d.phase == .started && !keepsPlace d.op) || (d.phase == .done && isDaOp d.op && d.status = 0) then
    { d with phase := .waiting, issued := 0, complete := 0, poison := false, corrected := false, shed := false,
             staged := [], parts := [] }
  else d

/-- Every accepted descriptor without a committed effect runs again (R163); a disable asked for by CTX_DISABLE is asked
for again. -/
def State.requeue (s : State) : State :=
  let s := { s with ctxs := s.ctxs.map fun (x : Nat × Ctx) =>
    (x.1, { x.2 with acc := x.2.acc.map Desc.again, fetched := 0,
                     disabling := x.2.disabling.filter fun d => d.2.isNone }) }
  { s with host := { s.host with stageUsed := 0 }, hoop := { s.hoop with load := none } }

/-- Write every journal record again (R156). -/
def State.rewriteJournal (s : State) : State := s.journal.foldl (fun s j => s.writeRecord j) s

/-- The admin opcodes that a hoop restart sends back to their first step (R163): LOAD_PRICKING, FUNC_START, FUNC_STOP and CTX_DISABLE are
those that can be under way. -/
def hoopRepeats (op : Nat) : Bool := op == 0x40 || op == 0x41 || op == 0x42 || op == 0x44

/-- The accepted admin descriptors that run again when the hoop restarts. -/
def Ctx.hoopAgain (x : Ctx) : List Nat := (x.acc.filter fun d => d.phase == .started && hoopRepeats d.op).map (·.seq)

/-- The admin descriptors under way run again from their first step (R163): what they wait for no longer knows them. -/
def State.adminAgain (s : State) : State :=
  let back (n q : Nat) : Bool := (s.ctx n).hoopAgain.contains q
  let s1 := { s with ctxs := s.ctxs.map fun (x : Nat × Ctx) =>
    (x.1, { x.2 with acc := x.2.acc.map fun (d : Desc) => if hoopRepeats d.op then d.again else d,
                     disabling := x.2.disabling.filter fun d => d.2.all fun q => !back d.1 q }) }
  { s1 with chans := s1.chans.map fun (x : Nat × Chan) =>
    (x.1, { x.2 with stoppers := x.2.stoppers.filter fun y => !back y.1 y.2,
                     held := x.2.held.filter fun h => !back h.ctx h.seq }) }

/-- The hoop restarts (R482): admin descriptors run again, a FIRMWARE_LOAD that was reading its image among them, while one whose image
was to report goes on waiting for it. Every recurrence filter clears (R286), and the journal's records are written again (R156). -/
def State.restartHoop (s : State) : State :=
  let s := { s.adminAgain with hoop := { s.hoop with running := false, restarts := satAdd 0xFF s.hoop.restarts 1 } }
  let s := { s with chans := s.chans.map fun (x : Nat × Chan) => (x.1, { x.2 with ecc := { x.2.ecc with filter := [] } }) }
  let s := match s.hoop.load with
    | some (n, q, 0) =>
      ({ s with hoop := { s.hoop with load := none } }).modDesc n q fun d => { d with phase := .waiting, staged := [] }
    | _ => s
  if s.hostUp then s.rewriteJournal else s

/-! ## Functions cut short (R163, R478, R490, R493) -/

/-- A granule counts as released at its last word's deadline (R201): those handed over whose deadline has not come leave the counts. -/
def Source.released (x : Source) (now : Nat) : Source :=
  let later := x.handed.filter fun y => now < y.1
  { x with counts := later.foldl (fun m y => Sparse.modify 0 m y.2 (· - 1)) x.counts, handed := [] }

/-- SOURCE RUNs whose span has begun complete INTERRUPTED with the granules released so far (R163). -/
def State.interruptRuns (ch : Nat) : Nat → State → State
  | 0, s => s
  | n + 1, s =>
    match (s.chan ch).runs with
    | [] => s
    | r :: _ => if r.startC ≤ (s.chan ch).seq.ckptNo then State.interruptRuns ch n (s.endRun ch 0x0003 true) else s

/-- Everything a bobbin holds of a running function is gone; checkpoints and accepted RUNs stay in the selvedge. -/
def Chan.cut (c : Chan) (empty : Bool) (cause : Nat) : Chan :=
  { c with func := .idle, state := if empty then .idle else .stopped, stopCause := if c.live then cause else c.stopCause,
           starved := false, held := none, starter := none, waitGroup := false, stoppers := [], stopRunEnd := false,
           flights := [],
           seq := { c.seq with bound := false, stopAt := none, atSwitch := false, fills := [], winWork := none,
                               sect := if empty then none else c.seq.sect, card := if empty then [] else c.seq.card },
           reg := { c.reg with openRows := [] },
           refr := { c.refr with makeup := [] },
           src := { c.src with groups := [], handed := [] },
           cap := { c.cap with merges := [], bankq := [], rxq := [], acc := [], tplRead := [], tplPre := [], lostRecs := [] },
           ana := { c.ana with passes := [], due := [], outq := [], lost := [] },
           ecc := { c.ecc with rewrite := none } }

/-- The function of channel `ch` ends at once with a STOP_CAUSE; `empty` also empties the placed section. -/
def State.cutFunction (ch cause : Nat) (empty : Bool) (s : State) : State :=
  let c := s.chan ch
  if c.func == .retired then s
  else
    let begun := c.live && c.state != .starting && (c.seq.sect.getD {}).func == .source
    let s := if begun then
        State.interruptRuns ch c.runs.length (s.modChan ch fun c => { c with src := c.src.released s.now })
      else s
    let s := if c.live then s.endPanic ch else s
    let s := s.modChan ch fun c => if c.live || (empty && c.state == .stopped) then c.cut empty cause else c
    if c.retirePend then s.retireIfDone ch else s

/-- Every channel's function ends at once. -/
def State.cutAll (cause : Nat) (empty : Bool) (s : State) : State :=
  s.channels.foldl (fun s ch => s.cutFunction ch cause empty) s

/-! ## Channel registers after a warm reset (R478, R564) -/

/-- A bobbin after a warm reset: what R564 does not list as kept takes its reset value. The remap table that is full stays so, and its
report is not repeated (R291). -/
def Chan.warm (now : Nat) (c : Chan) : Chan :=
  if c.func == .retired then c
  else
    { c with func := .idle, state := .idle, stopCause := 7, starved := false, held := none, starter := none, waitGroup := false,
             stoppers := [], stopRunEnd := false, flights := [], checks := none,
             seq := { ckpts := c.seq.ckpts, ckptNo := c.seq.ckptNo }, reg := { c.reg with openRows := [] },
             refr := { band := c.refr.band, since := now }, maint := {}, src := {}, cap := {}, ana := {},
             da := { init := c.da.init },
             ecc := { c.ecc with filter := [], auto := true, targeted := [], rewrite := none },
             eyes := { c.eyes with eyeMin := 0x0C, fixed := false, idx := {}, parity := [], paritySeen := false, darnPend := [],
                                   up := [], down := [], emerg := none, calTrig := none, calRun := false, retrig := 5 } }

/-- The bobbins, the counters and the CRC units are reset (R478). -/
def State.warmBlocks (s : State) : State :=
  let s := (s.cutAll 7 true).abandonCrc fun _ => true
  let s := { s with chans := s.chans.map fun (x : Nat × Chan) => (x.1, x.2.warm s.now) }
  { s with cnt := { lastBoundary := s.lastGrid 0x640000 }, otp := { s.otp with stLive := none },
           lanes := { s.lanes with groups := s.lanes.groups.map fun (x : Nat × LaneGroup) => (x.1, { x.2 with sect := none, launch := [] }) } }

/-! ## Regions (R42, R43) -/

/-- The forward clock of a channel stops: heartbeat loss (R42). The region may leave self-refresh at `due` (0: not yet). -/
def State.loseHeartbeat (ch due : Nat) (s : State) : State := (s.loseClock ch s.now due).modReg ch fun g => { g with exitAt := due }

/-- The bobbin commands self-refresh and stops its clock. A region that is in self-refresh already stays so (R45). -/
def State.commandSr (ch : Nat) (s : State) : State :=
  s.modReg ch fun g => if g.inSr then { g with exitAt := 0, gapAt := s.now } else g.enterSr s.now 0

/-- Every region enters self-refresh, by heartbeat loss or on command. -/
def State.regionsSr (hard : Bool) (s : State) : State :=
  s.channels.foldl (fun s ch => if hard then s.loseHeartbeat ch 0 else s.commandSr ch) s

/-- The channels that are not RETIRED. -/
def State.served (s : State) : List Nat := s.channels.filter fun ch => (s.chan ch).func != .retired

/-- The bobbin runs its region's forward clock from now on, and sends the exit command 2 µs after `wait` ck (R45). -/
def State.leaveSr (ch wait : Nat) (s : State) : State := s.modReg ch fun g => { g with gapAt := s.now, exitAt := s.now + wait + 3200 }

/-- Every served channel is to leave self-refresh; its remap entries are reloaded then, when `reload` asks (R292), and its banks go
through the fast scrub whose results are given (R452, R457). -/
def State.leaveSrAll (wait : Nat) (reload : Bool) (checks : Option (List BankCheck)) (s : State) : State :=
  s.served.foldl (fun s ch => (s.leaveSr ch wait).modChan ch fun c =>
    { c with ecc := { c.ecc with reloadDue := c.ecc.reloadDue || reload },
             checks := checks.map fun l => l.filter fun k => k.ch == ch }) s

/-- The forward clocks of the served channels run again, while the regions stay in self-refresh until the wake goes on (R447). -/
def State.clocksOn (s : State) : State := s.served.foldl (fun s ch => s.modReg ch fun g => { g with gapAt := s.now }) s

/-! ## Lanes -/

/-- A lane starts anew with its group: only the settings and results of its PRBS block stay (R385, R387). -/
def Lane.fresh (l : Lane) : Lane := { pattern := l.pattern, injRate := l.injRate, errs := l.errs, refused := l.refused }

/-- A lane group enters OFF, or DETECT at ck `t` (R372). -/
def LaneGroup.enter (st : GrpState) (t : Nat) (g : LaneGroup) : LaneGroup :=
  { g with state := st, since := t, unconfirmed := false, partner := 0, notices := [], launch := [],
           firstAligned := none, lanes := g.lanes.map fun (x : Nat × Lane) => (x.1, x.2.fresh) }

/-- The lanes stop: every lane group goes OFF (R355, R356, R444). -/
def State.lanesOff (s : State) : State :=
  { s with lanes := { s.lanes with groups := s.lanes.groups.map fun (x : Nat × LaneGroup) =>
      if x.1 < 16 then (x.1, x.2.enter .off s.now) else x } }

/-- Every lane group that is OFF and not DISABLED goes to DETECT (R372). -/
def State.lanesDetect (s : State) : State :=
  (List.range 16).foldl (fun s k =>
    { s with lanes := { s.lanes with groups := Sparse.modify {} s.lanes.groups k fun g =>
        if g.state == .off && !g.disable then g.enter .detect s.now else g } }) s

/-- The torus port can be cabled: coordinates valid, and more than one device in its dimension (R389, R394). -/
def Torus.portUsed (t : Torus) (p : Nat) : Bool := !t.strapBad && (if isX p then t.wM1 != 0 else t.hM1 != 0)

/-- A port starts again: what it held of the link is gone; the last IDENT, the measured delay and FREQ stay (R390, R422). -/
def Port.restart (st : PortState) (q : Port) : Port :=
  { state := st, freq := q.freq, freqAgree := q.freqAgree, freqAt := q.freqAt, nbrPort := q.nbrPort, nbrX := q.nbrX, nbrY := q.nbrY,
    delay := q.delay, delays := q.delays, delayId := q.delayId, lastDelay := q.lastDelay }

/-- A torus port retrains from DETECT; its lanes are group 8 + port of the receive side (R393). -/
def State.portDetect (p : Nat) (s : State) : State :=
  (s.modPort p fun q => q.restart .detect).modGroup true (8 + p) fun g => g.enter .detect s.now

/-- Every torus port that is OFF and may be used goes to DETECT. -/
def State.portsDetect (s : State) : State :=
  (List.range 4).foldl (fun s p => if (s.port p).state == .off && s.tor.portUsed p then s.portDetect p else s) s

/-- The device's torus ID (R389). -/
def Torus.id (t : Torus) : Nat := 64 * t.y + t.x

/-- When every port has left DETECT the device is a candidate for root, and starts global time at 0 (R405). -/
def State.checkCandidate (s : State) : State :=
  let t := s.tor
  if t.final || t.candidate || !s.pwr.vddlUp || (List.range 4).any fun p => (s.port p).state == .detect then s
  else { s with tor := { t with candidate := true, electAt := s.now, rootId := t.id, dist := 0, off := -((s.now : Int) * 1024) } }

/-! ## AVSBus (R441, R442) -/

/-- The device is the AVSBus master and sends a voltage. -/
def State.startAvs (mv point : Nat) (s : State) : State :=
  ({ s with pwr := { s.pwr with avs := some { target := mv, prev := s.pwr.command, point, start := s.now }, command := mv,
                                lastAvs := s.now } }).emit (.avs mv)

/-! ## Mode entries -/

/-- The INIT bits of the banks that were not retained fall on exit from RETENTION (R257). -/
def State.dropUnretained (s : State) : State :=
  s.channels.foldl (fun s ch => s.modChan ch fun c =>
    { c with da := { c.da with init := c.da.init &&& BitVec.ofNat 32 c.retBanks } }) s

/-- Complete a request's descriptor with a status; INFO[2:0] is the mode in force (R434). -/
def State.answerPower (c : Option (Nat × Nat)) (status : Nat) (s : State) : State :=
  match c with
  | some (n, q) => s.finish n q status s.pwr.mode.code
  | none => s

/-- Entry to SAVE or SAFE ends the running change and the pending request (R437). -/
def State.preempt (s : State) : State :=
  let c := s.pwr.change.bind (·.ctx)
  let p := s.pwr.pendingReq.bind (·.ctx)
  let e := s.pwr.exitReq
  let s := { s with pwr := { s.pwr with change := none, pendingReq := none, exitReq := none } }
  ((s.answerPower c 0x0062).answerPower p 0x0062).answerPower e 0x0062

/-- Entry to SAFE (R355, R356, R433, R437, R493): `hard` for a hard trip or another C4 cause, with its STOP_CAUSE. -/
def State.enterSafe (hard : Bool) (cause : Nat) (s : State) : State :=
  if s.pwr.mode == .save || s.pwr.mode == .safe then s
  else
    let s := if hard then (s.cutAll cause false).requeue else s
    let s := if s.pwr.mode == .retention then s.dropUnretained else s
    let s := ((s.regionsSr hard).lanesOff).abandonCrc fun _ => true
    let s := { s with thm := { s.thm with pinFunc := 0, duty := 0x100, tripOrderly := none }, pwr := { s.pwr with mode := .safe } }
    let s := s.preempt
    if s.pwr.point = 2 || s.pwr.avs.isSome then s.startAvs s.pwr.vddSvc 1 else s

/-- Entry to SERVICE after RETENTION, SAFE, SAVE or power-up: PWR_WAKE_REC (R450). -/
def State.enterService (source : Nat) (left : Mode) (s : State) : State :=
  let n := satAdd 0x1FF s.pwr.entries 1
  { s with pwr := { s.pwr with mode := .service, entries := n,
                               wakeRec := source * 2 ^ 28 + left.code * 2 ^ 25 + n * 2 ^ 16 + s.gt / 2 ^ 26 % 2 ^ 16 } }

/-- Every channel is STOPPED, IDLE or RETIRED. -/
def State.quiet (s : State) : Bool := s.chans.all fun x => !x.2.live

/-- No Direct Access descriptor is under way. -/
def State.daIdle (s : State) : Bool := s.ctxs.all fun x => x.2.acc.all fun d => !(isDaOp d.op && d.phase == .started)

end Sys2Proof.Machine
end

