-- ==== Sys2Proof/Machine/Thermal.lean ====
section
/-! DEFINITION. Temperature, refresh bands and cooling (10): sensors, bands, the throttle, the trips, the power forecast,
COOL_DEM and the remote diodes. Temperatures are codes of 1/8 °C. -/

namespace Sys2Proof.Machine

open Sys2Proof

def State.modThm (f : Thermal → Thermal) (s : State) : State := { s with thm := f s.thm }
def State.sensor (s : State) (i : Nat) : Sensor := Sparse.get {} s.thm.sensors i
def State.modSensor (i : Nat) (f : Sensor → Sensor) (s : State) : State :=
  s.modThm fun t => { t with sensors := Sparse.modify {} t.sensors i f }

/-- Dies of the member (R1), and the sensors it has (R337). -/
def State.dies (s : State) : Nat := s.members / 8
def State.sensorList (s : State) : List Nat := List.range (4 * s.dies) ++ (List.range 16).map (64 + ·)

/-- The sensors of one die: a DRAM die's four, or the base die's sixteen (R337). -/
def dieOf (i : Nat) : List Nat := if i < 64 then (List.range 4).map (4 * (i / 4) + ·) else (List.range 16).map (64 + ·)

/-- A 12-bit two's complement code. -/
def tempCode (t : Int) : Nat := (t % 4096).toNat

/-- A sensor with a reading or a substitute that decisions use (R339). -/
def Sensor.usable (x : Sensor) : Bool := !x.failed || x.subst

/-! ## Sampling (R338, R339) -/

/-- Twice the median of a list of readings. -/
def median2 (l : List Int) : Int :=
  let m := l.mergeSort fun a b => a ≤ b
  let n := m.length
  if n % 2 = 1 then 2 * m.getD (n / 2) 0 else m.getD (n / 2 - 1) 0 + m.getD (n / 2) 0

def inRange (t : Int) : Bool := decide (-320 ≤ t ∧ t ≤ 1200)

/-- A reading is good (R339): in range, and within 20 °C of the median of the other valid sensors of its die. -/
def State.goodReading (s : State) (rd : Nat → Int) (i : Nat) : Bool :=
  let others := ((dieOf i).filter fun j => j != i && !(s.sensor j).failed).map rd
  inRange (rd i) && (others.isEmpty || decide ((2 * rd i - median2 others).natAbs ≤ 320))

/-- Take one sensor's reading with its verdict. -/
def State.takeReading (i : Nat) (t : Int) (good : Bool) (s : State) : State :=
  let x := s.sensor i
  let hist := (t :: x.hist).take 65
  let rate : Int := match hist[64]? with | some o => t - o | none => 0
  let y := { x with temp := t, hist, rate, subst := false, failed := x.failed || !good,
                    good := if x.failed && good then x.good + 1 else 0 }
  let s := s.modSensor i fun _ => y
  if !x.failed && !good then s.log .sensorFail i 0 0 0 true else s

/-- The columns of a die carry its readings: some channel of it is in service (R338). -/
def State.dieServed (s : State) (d : Nat) : Bool := (List.range 8).any fun j => (s.chan (8 * d + j)).func != .retired

/-- A DRAM sensor's own reading counts. -/
def State.ownReading (s : State) (i : Nat) : Bool := !(s.sensor i).failed && (i ≥ 64 || s.dieServed (i / 4))

/-- The substitute for sensor `i` (R339): the hottest reading next to it plus 5 °C. -/
def State.substitute (s : State) (i : Nat) : Option Int :=
  let d := i / 4
  let near : List Nat := if i < 64 then (dieOf i).flatMap fun j => [j + 4] ++ (if d = 0 then [] else [j - 4]) else [i + 1, i - 1]
  let ok (j : Nat) : Bool := (if i < 64 then decide (j < 4 * s.dies) else decide (64 ≤ j ∧ j < 80)) && s.ownReading j
  (((near.filter ok).map fun j => (s.sensor j).temp).max?).map (· + 40)

/-- The sensor needs a substitute: a failed base-die sensor, or a DRAM sensor of a die with no reading of its own. -/
def State.needsSubst (s : State) (i : Nat) : Bool :=
  if i < 64 then !((dieOf i).any s.ownReading) else !s.ownReading i

/-- Substitutes for every sensor that needs one, from the readings of this sample. -/
def State.fillSubst (s : State) : State :=
  (s.sensorList.filter s.needsSubst).foldl (fun s2 i =>
    match s.substitute i with
    | some t => s2.modSensor i fun x => { x with temp := t, subst := true }
    | none => s2) s

/-- The hottest usable readings with their sensor, of the DRAM or the base die. -/
def State.hottest (s : State) (base : Bool) : Option (Int × Nat) :=
  (s.sensorList.filter fun i => (decide (i ≥ 64)) == base && (s.sensor i).usable).foldl (fun a i =>
    let t := (s.sensor i).temp
    match a with
    | none => some (t, i)
    | some x => if x.1 < t then some (t, i) else some x) none

/-! ## Thermal event records (R358) -/

/-- A record enters the selvedge store, unless 16 wait there. -/
def State.thermalRecord (kind sensor : Nat) (t : Int) (s : State) : State :=
  s.modThm fun m =>
    let n := m.evNo + 1
    let r := (s.gt / 2 ^ 26 % 2 ^ 32, kind * 2 ^ 29 + sensor * 2 ^ 22 + tempCode t * 2 ^ 10, n % 2 ^ 16 * 2 ^ 16 + m.rung * 2 ^ 11)
    { m with evNo := n, tripKind := kind, tripSensor := sensor, tripTemp := tempCode t,
             evWait := if m.evWait.length < 16 then m.evWait ++ [r] else m.evWait }

/-! ## Refresh bands (R340 to R342) -/

def State.bandOf (s : State) (d : Nat) : Nat := Sparse.get 1 s.thm.bands d

/-- Some die runs in the 4× band. -/
def State.inExcursion (s : State) : Bool := !s.gradeE && (List.range s.dies).any fun d => s.bandOf d == 4

/-- The band of die `d` changes at decision ck `t`: every channel of the die accrues at the new rate from then on (R341). -/
def State.setBand (d k t : Nat) (s : State) : State :=
  let was := s.inExcursion
  let s := s.modThm fun m => { m with bands := Sparse.set 1 m.bands d k, falls := Sparse.set 0 m.falls d 0 }
  let s := (List.range 8).foldl (fun s j =>
    s.modChan (8 * d + j) fun c => { c with refr := { c.refr.bring t with band := k } }) s
  let hot := (s.hottest false).getD (0, 0)
  if s.inExcursion && !was then (s.thermalRecord 4 hot.2 hot.1).log .gradeExcursion 0 0 0 0 true
  else if was && !s.inExcursion then (s.thermalRecord 5 hot.2 hot.1).condEnd 0x00 0x03 0
  else s

/-- The upper edge of the band below `k`, less 2 °C, in codes. -/
def fallLimit (k : Nat) : Int := if k = 4 then 744 else 664

/-- What a sample does to the band of die `d` (R340). -/
def State.bandSample (d t : Nat) (s : State) : State :=
  if !((dieOf (4 * d)).any fun i => (s.sensor i).usable) then s
  else
    let hot := s.dieHot d
    let k := s.bandOf d
    let want := if hot > 760 then 4 else if hot > 680 then 2 else 1
    if want > k then s.setBand d want t
    else
      let n := if k > 1 && decide (hot ≤ fallLimit k) then Sparse.get 0 s.thm.falls d + 1 else 0
      s.modThm fun m => { m with falls := Sparse.set 0 m.falls d n }

/-- 64 consecutive samples at least 2 °C below the lower band's edge: the band falls one step (R340). -/
def execBandFall (die : Nat) (s : State) : Res :=
  if Sparse.get 0 s.thm.falls die ≥ 64 && s.bandOf die > 1 then .next (s.setBand die (s.bandOf die / 2) (s.thm.lastSample + 1600))
  else .next s

/-! ## Trips (R355 to R357) -/

/-- T_trip of a sensor (R355). -/
def State.tripAt (s : State) (i : Nat) : Int := if i ≥ 64 then 920 else if s.gradeE then 880 else 840

/-- Log a trip with its record. -/
def State.logTrip (kind i : Nat) (t : Int) (s : State) : State :=
  (s.thermalRecord kind i t).logAt { cause := .thermalTrip, inst := i, time := s.now, d0 := tempCode t, d1 := i, d2 := kind,
                                     active := true }

/-- A hard trip (R356): no further slot, every forward clock stops, SAFE. -/
def State.hardTrip (i : Nat) (t : Int) (s : State) : State :=
  let s := s.logTrip (if i < 64 then 1 else 3) i t
  (s.modThm fun m => { m with tripActive := true, tripOrderly := none, tripClear := 0 }).enterSafe true 5

/-- An orderly trip (R355 step 1): the rung freezes, functions stop at their next motif boundary, and Direct Access starts
nothing new. -/
def State.orderlyTrip (i : Nat) (t : Int) (s : State) : State :=
  let s := s.logTrip (if i < 64 then 0 else 2) i t
  let s := s.modThm fun m => { m with tripActive := true, tripClear := 0, pinFunc := 0, duty := 0x100,
                                      tripOrderly := if s.pwr.mode == .safe then none else some s.now }
  s.channels.foldl (fun s ch =>
    let c := s.chan ch
    if c.state == .starting then s.stopStarting ch 5 else if c.live then s.requestStop ch 5 else s) s

/-- The hottest usable reading at or above T_trip less `below`. -/
def State.overTrip (s : State) (below : Int) : Option (Int × Nat) :=
  [s.hottest true, s.hottest false].findSome? fun x => x.bind fun y => if y.1 ≥ s.tripAt y.2 - below then some y else none

/-- The trip decisions of a sample. -/
def State.tripSample (s : State) : State :=
  if s.pwr.mode == .save then s
  else
    let s := match s.overTrip 0, s.overTrip 24 with
      | some (t, i), _ => if !s.thm.tripActive || s.thm.tripOrderly.isSome then s.hardTrip i t else s
      | none, some (t, i) => if s.thm.tripActive then s else s.orderlyTrip i t
      | none, none => s
    let cool := s.sensorList.all fun i =>
      !(s.sensor i).usable || decide ((s.sensor i).temp ≤ (if i ≥ 64 then 800 else s.tripAt i - 120))
    s.modThm fun m => { m with tripClear := if m.tripActive && cool then m.tripClear + 1 else 0 }

/-- Every channel is STOPPED or IDLE and Direct Access has completed what it had started: the orderly trip commands
self-refresh, stops the lanes and enters SAFE (R355 step 2). -/
def execOrderlyTripComplete (s : State) : Res :=
  if s.thm.tripOrderly.isSome && s.quiet && s.daIdle then .next (s.enterSafe false 5) else .next s

/-- An orderly trip that has not completed 1 ms after it started becomes a hard trip (R355). -/
def execOrderlyTripTimeout (s : State) : Res :=
  match s.thm.tripOrderly with
  | some t =>
    if s.now < t + 1600000 then .next s
    else .next (s.hardTrip s.thm.tripSensor (if s.thm.tripTemp ≥ 2048 then (s.thm.tripTemp : Int) - 4096 else s.thm.tripTemp))
  | none => .next s

/-- The trip condition ends (R357). -/
def execTripConditionClear (s : State) : Res :=
  if s.thm.tripActive && s.thm.tripOrderly.isNone && s.thm.tripClear ≥ 64 then
    let s := s.modThm fun m => { m with tripActive := false, tripClear := 0 }
    .next { s with flt := { s.flt with log := s.flt.log.map fun e =>
      if e.2.blk == 0x02 && e.2.cause == 0x06 then (e.1, { e.2 with active := false }) else e } }
  else .next s

/-! ## The power forecast (R349) -/

/-- The R86 estimate of a motif over one repetition, in mW: its slots, and refresh at the declared coverage. -/
def Section.motifPower (x : Section) (m : Motif) : Rat :=
  estimateMw ((List.range m.len).foldl (fun (a : Rat) j => a + slotEnergy (x.slots.getD (m.src + j) 0)) 0) m.len

/-- A repetition's place in time: the motif power from `t`, its end, and the next place of the tier's steps. -/
def Section.stepSpan (x : Section) (p : Pos) (t : Nat) : Rat × Nat × Option Pos :=
  let st := x.stepAt p
  let m := x.motifAt p
  (x.motifPower m, t + (m.len - p.off) + (st.rep - p.rep - 1) * m.len, x.afterStep p)

/-- The forecast of one running or starting section as a list of (from, power) pieces over [t, t1], newest last. -/
def Section.pieces (x : Section) : Nat → Option Pos → Nat → Nat → List (Nat × Rat)
  | 0, _, _, _ => []
  | _, none, t, _ => [(t, 60)]
  | n + 1, some p, t, t1 =>
    let r := x.stepSpan p t
    (t, r.1) :: (if r.2.1 > t1 then [] else Section.pieces x n r.2.2 r.2.1 t1)

/-- The pieces of channel `ch` from `t` to `t1` (R349). -/
def State.chanPieces (s : State) (ch t t1 : Nat) : List (Nat × Rat) :=
  let c := s.chan ch
  let x := c.seq.sect.getD {}
  if c.func == .retired then [(t, 0)]
  else if c.live && c.seq.stopAt.isNone && c.seq.bound then
    if c.state == .starting then
      if c.waitGroup || c.seq.ts > t1 then [(t, 60)]
      else (t, 60) :: x.pieces (t1 - t + 2) (some c.seq.pos) (max t c.seq.ts) t1
    else x.pieces (t1 - t + 2) (some c.seq.pos) t t1
  else [(t, 60)]

/-- The power of a list of pieces at `u`. -/
def pieceAt (l : List (Nat × Rat)) (u : Nat) : Rat := l.foldl (fun a x => if x.1 ≤ u then x.2 else a) 0

/-- P̂ in mW (R348, R349): the largest planned power from now to now + LEAD. -/
def State.planPeak (s : State) : Rat :=
  let t1 := s.now + s.thm.lead * 160000000
  let ls := s.channels.map fun ch => s.chanPieces ch s.now t1
  let us := (s.now :: (ls.flatMap fun l => l.map (·.1))).filter (· ≤ t1)
  us.foldl (fun a u => max a (45000 + ls.foldl (fun (b : Rat) l => b + pieceAt l u) 0)) 0

/-! ## Cooling demand (R347 to R352) -/

/-- Fields of THM_COOL_GAIN. -/
def Thermal.ffGain (t : Thermal) : Nat := bits t.gain 31 24
def Thermal.ffP0 (t : Thermal) : Nat := bits t.gain 23 16
def Thermal.fbGain (t : Thermal) : Nat := bits t.gain 15 8
def Thermal.tSet (t : Thermal) : Nat := bits t.gain 7 0

/-- D_ff (R348); it holds its value while the hoop restarts (R349). -/
def State.updateFf (s : State) : State :=
  if !s.hoop.running then s
  else
    let d := ((s.thm.ffGain : Rat) / 16 * max 0 (s.planPeak / 1000 - s.thm.ffP0)).floor.toNat
    s.modThm fun m => { m with dFf := min d 0x1FF }

/-- T_plate (R350). -/
def State.plate (s : State) : Int :=
  let td := (s.thm.td.filter fun x => x.2.state == 1 && bit s.thm.tdEn x.1).map fun x => x.2.temp
  match td.max? with
  | some t => t
  | none => (((s.sensorList.filter s.ownReading).map fun i => (s.sensor i).temp).min?.getD 0) + 80

/-- D_fb (R348), at each sampling instant. -/
def State.updateFb (s : State) : State :=
  let d := ((s.thm.fbGain : Int) * max 0 (s.plate - 8 * (s.thm.tSet : Int)) / 8).toNat
  s.modThm fun m => { m with dFb := d }

/-- The demand code that the terms give (R348). -/
def Thermal.demand (t : Thermal) : Nat := min 256 (max t.dFf (max t.dFb t.dMin))

/-- The demand code in force in the next period (R347, R348): full demand in SAFE and while nothing drives the pin. -/
def State.nextDuty (s : State) : Nat :=
  if s.pwr.mode == .safe || s.thm.tripOrderly.isSome || (!s.thm.coolEn && s.thm.pinFunc = 0) then 256
  else if s.thm.coolEn then s.thm.demand
  else s.thm.duty

/-- COOL_DEM is released now (R347, R409): for full demand, for 1,600 ck from each picot boundary with PIN_FUNC 1, and for 250 ck of each
unit of the demand code at the start of a period. -/
def State.coolReleased (s : State) : Bool :=
  if s.pwr.mode == .safe || s.thm.tripOrderly.isSome || (!s.thm.coolEn && s.thm.pinFunc = 0) then true
  else if s.thm.pinFunc = 1 then s.gt % 65536 < 1600
  else s.gt % 64000 < s.thm.duty * 250

/-- The pin follows; its changes leave the block. -/
def State.driveCool (s : State) : State :=
  if s.thm.pinHigh == s.coolReleased then s
  else (s.modThm fun m => { m with pinHigh := s.coolReleased }).emit (.coolDem s.coolReleased)

/-- The pin is released for at least 1 µs of the period that starts at global time `p`, and driven low for as long (R352). -/
def State.coolReadable (s : State) (p : Nat) : Bool × Bool :=
  if s.thm.pinFunc = 1 then (decide ((p + 65535) / 65536 * 65536 + 1600 ≤ p + 64000), true)
  else (decide (s.thm.duty * 250 ≥ 1600), decide ((256 - s.thm.duty) * 250 ≥ 1600))

/-- Each 64,000 ck: the readback of the period that ends (R352), and the next demand code (R347). -/
def execCoolDemPeriod (lowReadsHigh releasedReadsLow : Bool) (s : State) : Res :=
  let m := s.thm
  let t := s.nextGrid 64000 m.lastPeriod
  if s.now < t then .next s
  else
    let (rel, low) := s.coolReadable (s.gtOf t - 64000)
    let hi := if low then (if lowReadsHigh then m.stuckHiRun + 1 else 0) else m.stuckHiRun
    let lo := if rel then (if releasedReadsLow then m.stuckLoRun + 1 else 0) else m.stuckLoRun
    let bad := (low && lowReadsHigh) || (rel && releasedReadsLow)
    .next (s.modThm fun m => { m with lastPeriod := t, duty := s.nextDuty, stuckHiRun := hi, stuckLoRun := lo,
                                      agreeRun := if bad then 0 else m.agreeRun + 1 })

/-- Three periods of disagreeing readback (R352). -/
def execCoolStuck (s : State) : Res :=
  let m := s.thm
  if m.stuckHiRun ≥ 3 && m.pinState != 1 then
    .next (((s.modThm fun m => { m with pinState := 1 }).condEnd 0x02 0x04 0).log .coolStuckHigh 0 0 0 0 true)
  else if m.stuckHiRun < 3 && m.stuckLoRun ≥ 3 && m.pinState != 2 then
    .next (((s.modThm fun m => { m with pinState := 2 }).condEnd 0x02 0x03 0).log .coolStuckLow 0 0 0 0 true)
  else .next s

/-- 16 periods of agreeing readback (R352). -/
def execCoolStuckClear (s : State) : Res :=
  if s.thm.pinState != 0 && s.thm.agreeRun ≥ 16 then
    .next (((s.modThm fun m => { m with pinState := 0, stuckHiRun := 0, stuckLoRun := 0 }).condEnd 0x02 0x03 0).condEnd 0x02 0x04 0)
  else .next s

/-- A write to THM_COOL_CFG (R351, R352). -/
def execCoolCfgWrite (value : Word) (s : State) : Res :=
  let v := value.toNat
  let en := bit v 31
  let pf := bits v 30 30
  let lead := bits v 24 16
  if (pf = 1 && s.thm.coolEn) || (en && s.thm.pinFunc = 1) || (pf = 1 && en) then
    .next ((s.modThm fun m => { m with pinBusy := true }).writeIgnored)
  else if lead < 5 || lead > 300 || bits v 8 0 > 256 then .next s.writeIgnored
  else .next (s.modThm fun m => { m with coolEn := en, pinFunc := pf, lead, dMin := bits v 8 0 })

/-! ## The sample (R338) -/

/-- The offset trim of sensor `i` (R498); an empty word applies none. -/
def State.sensorTrim (s : State) (i : Nat) : Int :=
  match Sparse.find? s.otp.latched (5 + i) with
  | some w => (w.setWidth 8).toInt
  | none => 0

/-- The readings of the sampling instant `t`, the substitutes, the fastest rise, and the bands decided 1 µs later; `readings` are
the digitised values before the offset trim (R498). -/
def State.takeSample (readings : List Int) (t : Nat) (s : State) : State :=
  let rd (i : Nat) : Int := match readings[i]? with
    | some r => r + s.sensorTrim i
    | none => (s.sensor i).temp
  let read := s.sensorList.filter fun i => i ≥ 64 || s.dieServed (i / 4)
  let vs := read.map fun i => (i, s.goodReading rd i)
  let s := vs.foldl (fun s v => s.takeReading v.1 (rd v.1) v.2) s
  let s := s.fillSubst
  let top := ((List.range (4 * s.dies)).filter s.ownReading).foldl (fun (a : Option (Int × Nat)) i =>
    let r := (s.sensor i).rate
    match a with
    | none => some (r, i)
    | some x => if x.1 < r then some (r, i) else some x) s.thm.maxRate
  let s := s.modThm fun m => { m with lastSample := t, maxRate := top }
  (List.range s.dies).foldl (fun s d => s.bandSample d (t + 1600)) s

/-- A sampling instant and the decisions that rest on it, 1 µs later (R338, R348, R355). -/
def execSensorSample (readings : List Int) (s : State) : Res :=
  let t := s.nextGrid 25600 s.thm.lastSample
  if s.now < t + 1600 then .next s else .next (s.takeSample readings t).tripSample.updateFb

/-- A failed sensor is valid again after 64 consecutive good samples (R339). -/
def execSensorRecover (sensor : Nat) (s : State) : Res :=
  let x := s.sensor sensor
  if x.failed && x.good ≥ 64 then
    .next ((s.modSensor sensor fun x => { x with failed := false, subst := false, good := 0 }).condEnd 0x02 0x01 sensor)
  else .next s

/-! ## The throttle (R343 to R346) -/

/-- The rank of a channel for the throttle (R135): 0 is the highest priority, and of two equal ones the lower context number is
the higher; a channel without a FUNCTION context comes last. -/
def State.chanRank (s : State) (ch : Nat) : Nat :=
  match s.functionCtx ch with
  | some n => (s.ctx n).prio * 4096 + n
  | none => 2 ^ 20 + ch

/-- Running SOURCE and CAPTURE channels with their section and rank (R346). -/
def State.throttled (s : State) : List (Nat × Section × Nat) :=
  (s.chans.filter fun x => x.2.state == .running).filterMap fun x =>
    x.2.seq.sect.bind fun y =>
      if y.func == .source || y.func == .capture then
        some (x.1, y, s.chanRank x.1)
      else none

/-- Declared power of tier `i`, and of the last tier. -/
def Section.tierPow (x : Section) (i : Nat) : Nat := (x.tiers.getD i default).power
def Section.lowPow (x : Section) : Nat := x.tierPow (x.tiers.length - 1)

/-- Select a tier for a channel (R122, R123, R346): a CAPTURE bobbin's change goes out as a TIER notice (R365). -/
def State.selectTier (ch i : Nat) (s : State) : State :=
  let c := s.chan ch
  if c.seq.tierSel = i then s
  else
    let s := s.modSeq ch fun q => { q with tierSel := i }
    if c.func == .capture then s.tierNotice ch i false else s

/-- Tier selection at rung 6 or more (R346): channels that no longer fit stop, lowest priority first; the rest share what
is left, highest priority first. -/
def State.allocate (s : State) : State :=
  let lim := s.thm.heldP0 * (16 - (s.thm.rung - 5)) / 16
  let l := s.throttled.mergeSort fun a b => a.2.2 ≥ b.2.2
  let need := l.foldl (fun a x => a + x.2.1.lowPow) 0
  let r := l.foldl (fun (a : (Nat × List (Nat × Section × Nat)) × State) x =>
    if a.1.1 ≤ lim then ((a.1.1, x :: a.1.2), a.2)
    else ((a.1.1 - x.2.1.lowPow, a.1.2), (a.2.log .throttleStop x.1).requestStop x.1 5)) ((need, []), s)
  (r.1.2.foldl (fun (a : Nat × State) x =>
    let y := x.2.1
    let i := ((List.range y.tiers.length).find? fun i => y.tierPow i - y.lowPow ≤ a.1).getD (y.tiers.length - 1)
    (a.1 - (y.tierPow i - y.lowPow), a.2.selectTier x.1 i)) (lim - r.1.1, r.2)).2

/-- Every running SOURCE and CAPTURE channel selects T0. -/
def State.allTop (s : State) : State := s.throttled.foldl (fun s x => s.selectTier x.1 0) s

/-- Direct Access classes follow the rung (R264, R344): class k is shed from rung 5 - k on. -/
def State.shedClasses (s : State) : State :=
  let shed (k : Nat) : Bool := s.thm.rung ≥ 5 - k
  let s := s.channels.foldl (fun s ch =>
    if ((List.range 4).any fun k => ((s.chan ch).da.class k).shed != shed k) then
      s.modChan ch fun c => { c with da := (List.range 4).foldl (fun d k => d.modClass k fun x => { x with shed := shed k }) c.da }
    else s) s
  let mark (d : Desc) : Desc := if isDaOp d.op && d.phase == .started && shed d.cls then { d with shed := true } else d
  { s with ctxs := s.ctxs.map fun (x : Nat × Ctx) => (x.1, { x.2 with acc := x.2.acc.map mark }) }

/-- The rung becomes `n` at an evaluation (R344): P_T0 is taken when it first reaches 6. -/
def State.setRung (n : Nat) (s : State) : State :=
  let p0 := s.throttled.foldl (fun a x => a + x.2.1.tierPow 0) 0
  let old := s.thm.rung
  let s := s.modThm fun m => { m with rung := n, heldP0 := if old < 6 && n ≥ 6 then p0 else if n ≤ 5 then 0 else m.heldP0 }
  s.shedClasses

/-- What every evaluation with its rung settled does: tiers, and D_ff (R346, R348). -/
def State.settleRung (s : State) : State := (if s.thm.rung ≥ 6 then s.allocate else s.allTop).updateFf

/-- A THM_CFG value written since the last evaluation takes effect (R346). -/
def Thermal.takeCfg (m : Thermal) : Thermal :=
  match m.thrPend with
  | some v => { m with riseThr := bits v 29 24, riseWarn := bits v 21 16, thrStart := bits v 7 0, thrPend := none }
  | none => m

/-- A rate at or above `thr` units of 0.25 °C/ms, times 1.024 (R343). -/
def rateAtLeast (r : Option (Int × Nat)) (thr : Nat) : Bool :=
  match r with
  | some x => decide (x.1 * 1000 ≥ (thr : Int) * 2048)
  | none => false

/-- An evaluation, every 1.024 ms (R343 to R346, R348). -/
def execEvaluation (s : State) : Res :=
  let t := s.nextGrid 1638400 s.thm.lastEval
  if s.now < t + 1600 || s.thm.lastSample < t then .next s
  else
    let s := s.modThm Thermal.takeCfg
    let m := s.thm
    let s := if rateAtLeast m.maxRate m.riseWarn then s.log .thermalRise ((m.maxRate.getD (0, 0)).2) else s
    let hot := ((s.hottest false).map (·.1)).getD (-2048)
    let base := ((s.hottest true).map (·.1)).getD (-2048)
    let above := hot > 8 * (m.thrStart : Int) || base > 864
    let cool := hot ≤ 8 * ((m.thrStart : Int) - 2) && base ≤ 864 && !rateAtLeast m.maxRate m.riseWarn
    let lower := above || rateAtLeast m.maxRate m.riseThr
    let s := s.modThm fun m => { m with lastEval := t, maxRate := none, coolEvals := if cool then m.coolEvals + 1 else 0 }
    let s := if lower && m.tripOrderly.isNone && m.rung < 21 then s.setRung (m.rung + 1) else s
    .next s.settleRung

/-- After 16 consecutive cool and calm evaluations the rung moves up one step at this one (R345). -/
def execRungRestore (s : State) : Res :=
  if s.thm.coolEvals ≥ 16 && s.thm.rung > 0 && s.thm.tripOrderly.isNone then
    .next (((s.setRung (s.thm.rung - 1)).modThm fun m => { m with coolEvals := 15 }).settleRung)
  else .next s

/-! ## Remote diodes (R353, R354) -/

def State.modTd (i : Nat) (f : Diode → Diode) (s : State) : State :=
  s.modThm fun m => { m with td := Sparse.modify {} m.td i f }

/-- The temperature code of a conversion (R353), exact and rounded down. -/
def diodeTemp (dvUv : Int) (rs nf : Nat) : Int :=
  let num := (4 * dvUv - 90 * (rs : Int)) * 4000000
  let den := 4 * (1000 + (nf : Int)) * 19842
  (num - 10926 * den) / (5 * den)

/-- The state a conversion's test gives (R354): 1 OK. -/
def diodeTest (t v1Uv vrUv : Int) : Nat :=
  if v1Uv < 200000 then 2
  else if v1Uv > 1000000 && vrUv > 1000000 then 3
  else if v1Uv > 1000000 && decide (250000 ≤ vrUv ∧ vrUv ≤ 900000) then 4
  else if !inRange t then 5 else 1

/-- A conversion of an enabled input, once per 2^24 ck. -/
def execTdConversion (input : Nat) (dvUv v1Uv vrUv : Int) (s : State) : Res :=
  let d := Sparse.get {} s.thm.td input
  if input > 1 || !bit s.thm.tdEn input || s.now < d.last + 2 ^ 24 then .next s
  else
    let t := diodeTemp dvUv s.thm.tdRs s.thm.tdNf
    let k := diodeTest t v1Uv vrUv
    .next (s.modTd input fun d =>
      if k = 1 then { d with last := s.now, temp := t, fails := 0, goods := d.goods + 1, state := if d.state = 0 then 1 else d.state }
      else { d with last := s.now, fails := d.fails + 1, goods := 0, badKind := k })

/-- Three consecutive failing conversions (R354). -/
def execTdFault (input : Nat) (s : State) : Res :=
  let d := Sparse.get {} s.thm.td input
  if bit s.thm.tdEn input && input ≤ 1 && d.fails ≥ 3 && d.state ≤ 1 then
    .next ((s.modTd input fun d => { d with state := d.badKind }).log .tdFault input d.badKind 0 0 true)
  else .next s

/-- 16 consecutive good conversions (R354). -/
def execTdRecover (input : Nat) (s : State) : Res :=
  let d := Sparse.get {} s.thm.td input
  if d.state ≥ 2 && d.goods ≥ 16 then .next ((s.modTd input fun d => { d with state := 1 }).condEnd 0x02 0x05 input) else .next s

end Sys2Proof.Machine
end

