-- ==== Sys2Proof/Machine/Otp.lean ====
section
/-! DEFINITION. OTP, life-cycle and self-test (15): the boot read, programming, locks, PATCH_TABLE, the margin audit, the
test access port, the purge and the full self-test. -/

namespace Sys2Proof.Machine

open Sys2Proof

def State.modOtp (f : Otp → Otp) (s : State) : State := { s with otp := f s.otp }
def State.fuse (s : State) (w : Nat) : Fuse := Sparse.get {} s.otp.fuses w

/-- The region of a word (R494). -/
def otpRegion (w : Nat) : Nat :=
  if w < 0x100 then 0 else if w < 0x400 then 1 else if w < 0x600 then 2 else if w < 0x700 then 3 else if w < 0x710 then 4 else 5

/-! ## Reading (R495 to R499) -/

/-- Two halves are exact complements. -/
def pairOk (v c : Word) : Bool := c == ~~~v

/-- Every bit of both halves reads 0 at the normal reference. -/
def Fuse.blank (f : Fuse) : Bool := f.nv == 0 && f.nc == 0

/-- The value the boot read latches: at normal, else at margin-high, else at margin-low (R497). -/
def Fuse.bootValue (f : Fuse) : Option Word :=
  if f.blank then none
  else if pairOk f.nv f.nc then some f.nv
  else if pairOk f.hv f.hc then some f.hv
  else if pairOk f.lv f.lc then some f.lv else none

/-- The recovered pair of an audited word (R511): at margin-high, normal, margin-low. -/
def Fuse.recovered (f : Fuse) : Option Word :=
  if pairOk f.hv f.hc then some f.hv
  else if pairOk f.nv f.nc then some f.nv
  else if pairOk f.lv f.lc then some f.lv else none

/-- Valid at all three references. -/
def Fuse.allValid (f : Fuse) : Bool := pairOk f.nv f.nc && pairOk f.lv f.lc && pairOk f.hv f.hc

/-- What three reads of a word show. -/
def OtpReads.fuse (r : OtpReads) : Fuse := { nv := r.nv, nc := r.nc, lv := r.lv, lc := r.lc, hv := r.hv, hc := r.hc }

/-- The words now read as given (fuses drift, R496). -/
def State.readFuses (l : List (Nat × OtpReads)) (s : State) : State :=
  s.modOtp fun o => { o with fuses := l.foldl (fun m x => if x.1 < 2048 then Sparse.set {} m x.1 (OtpReads.fuse x.2) else m) o.fuses }

/-- A latched word; none for an empty one. -/
def State.otpWord (s : State) (w : Nat) : Option Word := Sparse.find? s.otp.latched w

/-- The lock word of region `r` as it reads now, with its COUNT (R506, R507). -/
def lockCount (v : Option Word) : Option Nat :=
  match v with
  | some x => if x.toNat / 2 ^ 16 = 0x4C4B then some (x.toNat % 2 ^ 16) else none
  | none => none

/-- Words of region `r`. -/
def regionWords (r : Nat) : List Nat :=
  let a : List Nat := [0, 0x100, 0x400, 0x600, 0x700, 0x710, 0x800]
  (List.range (a.getD (r + 1) 0 - a.getD r 0)).map (a.getD r 0 + ·)

/-- The life-cycle state at the boot read (R513): 0 BLANK, 1 VENDOR, 2 SHIPPED, 3 FIELD, 4 RETURNED. -/
def State.lcState (s : State) : Nat :=
  let mark (i : Nat) : Bool := s.otpWord (0x700 + i) == some (BitVec.ofNat 32 (0x4C430001 + i))
  if mark 3 then 4 else if mark 2 then 3 else if mark 1 then 2 else if mark 0 then 1 else 0

/-- Members by code (R1, R498). -/
def memberCount (c : Nat) : Nat := ([8, 32, 64, 128] : List Nat).getD c 128

/-- Settings from the identity words (R498). -/
def State.takeIdentity (s : State) : State :=
  let id := (s.otpWord 0).map BitVec.toNat
  let good : Bool := match id with | some v => v % 16 < 4 && bits v 5 4 < 2 | none => false
  let v := id.getD 0
  let s := if good then { s with members := memberCount (v % 16), gradeE := bits v 5 4 == 1, idDefault := false }
    else { s with members := 128, gradeE := false, idDefault := true }.log .identityEmpty 0
  let vdd := match (s.otpWord 4).map BitVec.toNat with | some c => if c ≤ 20 then 700 + 5 * c else 800 | none => 800
  { s with pwr := { s.pwr with vddSvc := vdd }, serial := s.otp.latched.filter fun x => 1 ≤ x.1 && x.1 ≤ 3 }

/-- The boot read of a cold reset (R497, R499, R507, R513). -/
def State.bootRead (s : State) : State :=
  let s := s.otp.fuses.foldl (fun s x =>
    if x.2.blank then s
    else
      match x.2.bootValue with
      | some v => s.modOtp fun o => { o with latched := Sparse.insert o.latched x.1 v }
      | none => (s.modOtp fun o => { o with empty := o.empty ++ [x.1], lastWord := x.1 }).log .otpEmpty 0)
    (s.modOtp fun o => { o with latched := [], empty := [] })
  let s := s.modOtp fun o =>
    { o with latched := o.overrides.foldl (fun m x => Sparse.insert m x.1 x.2) o.latched,
             empty := o.empty.filter fun w => !o.overrides.any (·.1 == w) }
  let locks := ([0, 1, 2, 3, 5] : List Nat).filterMap fun r => (lockCount (s.otpWord (0x704 + r))).map fun n => (r, n)
  let perm := locks.foldl (fun m x => m + 2 ^ x.1) 0
  let bad (x : Nat × Nat) : Bool :=
    let held := (s.otp.latched.filter fun y => otpRegion y.1 == x.1).length
    (x.2 != 0xFFFF && held < x.2) || s.otp.empty.any fun w => otpRegion w == x.1
  let inc := (locks.filter bad).foldl (fun m x => m + 2 ^ x.1) 0
  let s := s.modOtp fun o => { o with perm, incomplete := inc, lifecycle := s.lcState, purged := false }
  let s := (locks.filter bad).foldl (fun s _ => s.log .lockedIncomplete 0) s
  s.takeIdentity

/-- The halves of word `w` at reference `ref` come into the read registers of a path. -/
def State.otpRead (p : Path) (w ref : Nat) (s : State) : State :=
  let f := s.fuse w
  let (a, c) := match ref with | 0 => (f.nv, f.nc) | 1 => (f.lv, f.lc) | _ => (f.hv, f.hc)
  let put (x : PerPath) (n : Nat) : PerPath := match p with
    | .smbus => { x with smbus := n }
    | .proxy => { x with proxy := n }
    | _ => { x with bar0 := n }
  s.modOtp fun o => { o with rdVal := put o.rdVal a.toNat, rdComp := put o.rdComp c.toNat }

/-- The controller has ended a word operation: on-demand reads that wait come next (R500). -/
def State.serveReads (s : State) : State :=
  s.otp.readReq.foldl (fun s r => s.otpRead r.1 r.2.1 r.2.2) (s.modOtp fun o => { o with readReq := [] })

/-- An on-demand read (R500, R512): it waits while a word is being programmed. -/
def execOtpRead (path : Path) (value : Word) (s : State) : Res :=
  let v := value.toNat
  if path == .bar2 then .next s
  else if bits v 29 28 = 3 then .next s.writeIgnored
  else
    let put (p : PerPath) (n : Nat) : PerPath := match path with
      | .smbus => { p with smbus := n }
      | .proxy => { p with proxy := n }
      | _ => { p with bar0 := n }
    let s := s.modOtp fun o => { o with word := put o.word (v % 2048), ref := put o.ref (bits v 29 28) }
    .next (if s.otp.burn.isSome then s.modOtp fun o => { o with readReq := o.readReq ++ [(path, v % 2048, bits v 29 28)] }
      else s.otpRead path (v % 2048) (bits v 29 28))

/-! ## Programming (R501 to R506, R514, R515) -/

/-- The programming window (R503): the rails as the monitors show them, and the hottest valid base-die reading between 0 and 95 °C. -/
def State.otpWindow (s : State) : Bool :=
  s.otp.rails && (match s.hottest true with | some x => decide (0 ≤ x.1 ∧ x.1 ≤ 760) | none => false)

/-- Region `r` is locked, by its sticky bit or by its lock word. -/
def Otp.locked (o : Otp) (r : Nat) : Bool := bit o.sticky r || bit o.perm r

/-- The life-cycle state permits programming region `r` (R515). -/
def lcProgram (st r : Nat) : Bool :=
  match r with
  | 0 => st ≤ 1
  | 3 => st = 2 || st = 3
  | _ => true

/-- FUSE_PROGRAM of a region-4 word is permitted (R506, R514). -/
def Otp.transitionOk (o : Otp) (w v : Nat) : Bool :=
  if w = 0x700 then o.lifecycle = 0 && v = 0x4C430001
  else if w = 0x701 then o.lifecycle = 1 && bit o.perm 0 && v = 0x4C430002
  else if w = 0x702 then o.lifecycle = 2 && v = 0x4C430003
  else if w = 0x703 then o.lifecycle != 4 && v = 0x4C430004
  else if w = 0x708 || w ≥ 0x70A then false
  else o.lifecycle != 4 && v / 2 ^ 16 = 0x4C4B

/-- The target pair of a value. -/
def targetOf (v : Word) : BitVec 64 := (~~~v ++ v : BitVec 64)

/-- What the word reads at a reference, as a pair. -/
def Fuse.low (f : Fuse) : BitVec 64 := (f.lc ++ f.lv : BitVec 64)
def Fuse.normal (f : Fuse) : BitVec 64 := (f.nc ++ f.nv : BitVec 64)
def Fuse.high (f : Fuse) : BitVec 64 := (f.hc ++ f.hv : BitVec 64)

/-- The checks of R502 but the window, in order; 0 when they pass. -/
def State.fuseCheck (s : State) (d : Desc) : Nat :=
  let w := d.u32 0x10
  let v := d.u32 0x18
  let r := otpRegion w
  if !isComp 32 w (d.u32 0x14) || !isComp 32 v (d.u32 0x1C) || !d.zero 0x20 0x40 || w ≥ 2048 then 0x0012
  else if !(if r = 4 then s.otp.transitionOk w v else lcProgram s.otp.lifecycle r) then 0x0070
  else if s.otp.locked r then 0x0071
  else if (s.fuse w).high &&& ~~~(targetOf (BitVec.ofNat 32 v)) != 0 then 0x0073
  else 0

/-- The next fuse to pulse from position `i` on: it is 1 in the target and reads 0 at margin-low (R504). -/
def Fuse.nextBit (f : Fuse) (target : BitVec 64) (i : Nat) : Option Nat :=
  (List.range 64).find? fun k => i ≤ k && target.getLsbD k && !f.low.getLsbD k

/-- One fuse reads 1 at every reference. -/
def Fuse.set (f : Fuse) (k : Nat) : Fuse :=
  let m : Word := 1#32 <<< (k % 32)
  if k < 32 then { f with nv := f.nv ||| m, lv := f.lv ||| m, hv := f.hv ||| m }
  else { f with nc := f.nc ||| m, lc := f.lc ||| m, hc := f.hc ||| m }

/-- A record of the thermal log has been programmed: it leaves the selvedge store (R358). -/
def State.burnThermal (s : State) : State := s.modThm fun m => { m with evWait := m.evWait.drop 1 }

/-- How long a pulse lasts (R503): 10 µs from VFUSE, 50 µs from the pump. -/
def Otp.pulseCk (o : Otp) : Nat := if o.vfuse then 16000 else 80000

/-- Programming of a word ends with a status (R501, R504, R506, R514). -/
def State.burnEnd (b : Burn) (status : Nat) (s : State) : State :=
  let s := (s.modOtp fun o => { o with burn := none }).serveReads
  let s := if status = 0x0074 then s.log .otpVerifyFail 0 else s
  let ok := status = 0
  let s := if ok && 0x700 ≤ b.word && b.word ≤ 0x703 then s.log .lcTransition 0 else s
  let s := if ok && 0x704 ≤ b.word && b.word ≤ 0x709 then
      s.modOtp fun o => { o with perm := if bit o.perm (b.word - 0x704) then o.perm else o.perm + 2 ^ (b.word - 0x704) } else s
  match b.owner with
  | some (n, q) => s.finish n q status (min b.pulses 0xFFFF)
  | none => if ok && otpRegion b.word = 5 && b.word % 3 = (0x710 + 2) % 3 then s.burnThermal else s

/-- Go on with a word: the next fuse's pulse, or the final reads (R504). -/
def State.burnGo (b : Burn) (s : State) : State :=
  let f := s.fuse b.word
  match f.nextBit b.target b.bitNo with
  | some k => s.modOtp fun o => { o with burn := some { b with bitNo := k, tries := 0, pulseEnd := s.now + o.pulseCk } }
  | none => s.burnEnd b (if f.normal == b.target && f.low == b.target && f.high == b.target then 0 else 0x0074)

/-- FUSE_PROGRAM: one word operation at a time (R500); `railsOk` is the rails' part of the window, `vfuse` says that VFUSE is in its
range. -/
def execFuseProgram (ctx : Nat) (railsOk vfuse : Bool) (s : State) : Res :=
  match s.startable ctx 0x49 with
  | none => .next s
  | some d =>
    if s.otp.burn.isSome then .next s
    else
      let s := s.modOtp fun o => { o with rails := railsOk, vfuse }
      let st := s.fuseCheck d
      let w := d.u32 0x10
      let t := targetOf (BitVec.ofNat 32 (d.u32 0x18))
      if st != 0 then .next (s.finish ctx d.seq st)
      else if (s.fuse w).normal == t && (s.fuse w).low == t then .next (s.finish ctx d.seq 0)
      else if !s.otpWindow then .next (s.finish ctx d.seq 0x0072)
      else
        let s := s.modDesc ctx d.seq fun d => { d with phase := .started }
        .next (s.burnGo { word := w, target := t, owner := some (ctx, d.seq) })

/-- A pulse ends by its timer, and its fuse is verified at margin-low (R504, R505): `took` is that read, `railsOk` and `vfuse` show the
rails before the next pulse. -/
def execOtpPulseEnd (took railsOk vfuse : Bool) (s : State) : Res :=
  match s.otp.burn with
  | none => .next s
  | some b =>
    if s.now < b.pulseEnd then .next s
    else
      let s := s.modOtp fun o => { o with rails := railsOk, vfuse }
      let s := if took then s.modOtp fun o => { o with fuses := Sparse.modify {} o.fuses b.word fun f => f.set b.bitNo } else s
      let b := { b with pulses := b.pulses + 1, tries := b.tries + 1 }
      if b.stop then .next (s.modOtp fun o => { o with burn := none }).serveReads
      else if !took && b.tries ≥ 4 then .next (s.burnEnd b 0x0074)
      else if ((s.fuse b.word).nextBit b.target b.bitNo).isSome && !s.otpWindow then .next (s.burnEnd b 0x0072)
      else if took then .next (s.burnGo b)
      else .next (s.modOtp fun o => { o with burn := some { b with pulseEnd := s.now + o.pulseCk } })

/-- A reset or SAVE stops programming after the pulse under way (R505); a host's FUSE_PROGRAM runs again from its first
check. -/
def State.stopBurn (s : State) : State :=
  match s.otp.burn with
  | none => s
  | some b =>
    let s := s.modOtp fun o => { o with burn := some { b with stop := true, owner := none } }
    match b.owner with
    | some (n, q) => s.modDesc n q fun d => { d with phase := .waiting }
    | none => s

/-! ## The hoop's own records (R327, R358) -/

/-- The first free record place of the thermal log (R358). -/
def State.freeRecord (s : State) : Option Nat :=
  (List.range 80).find? fun r => (List.range 3).all fun i => (s.fuse (0x710 + 3 * r + i)).high == 0

/-- The word and value of the next thermal record to program, with the place its words so far have taken. -/
def State.nextThermal (s : State) : Option (Nat × Word) :=
  match s.thm.evWait with
  | [] => none
  | (a, b, c) :: _ =>
    let ws : List Word := [BitVec.ofNat 32 a, BitVec.ofNat 32 b, BitVec.ofNat 32 c]
    let part := (List.range 80).find? fun r =>
      (s.fuse (0x710 + 3 * r + 2)).high == 0 && (s.fuse (0x710 + 3 * r)).high != 0 &&
        (s.fuse (0x710 + 3 * r)).high &&& ~~~(targetOf (ws.getD 0 0)) == 0
    match part.or s.freeRecord with
    | some r =>
      ((List.range 3).find? fun i => (s.fuse (0x710 + 3 * r + i)).low != targetOf (ws.getD i 0)).map fun i =>
        (0x710 + 3 * r + i, ws.getD i 0)
    | none => none

/-- Darn entries that channel `ch`'s OTP words hold now. -/
def State.otpDarns (s : State) (ch : Nat) : List (BitVec 16) :=
  (List.range 6).flatMap fun i =>
    let f := s.fuse (0x100 + 6 * ch + i)
    if pairOk f.nv f.nc then [f.nv.extractLsb' 0 16, f.nv.extractLsb' 16 16] else []

/-- The next darn record to program: the first free word of its channel takes the entry in bits [15:0] (R326, R327). -/
def State.nextDarn (s : State) : Option (Nat × Word) :=
  s.channels.findSome? fun ch =>
    match (s.chan ch).eyes.records.find? fun e => !(s.otpDarns ch).contains e with
    | none => none
    | some e => ((List.range 6).find? fun i => (s.fuse (0x100 + 6 * ch + i)).high == 0).map fun i =>
        (0x100 + 6 * ch + i, e.setWidth 32)

/-- The hoop programs a waiting record when no word operation runs, the window holds and the region is not locked. -/
def State.programRecords (s : State) : State :=
  if s.otp.burn.isSome || !s.hoop.running || s.pwr.mode == .save || !s.otpWindow then s
  else
    match (if s.otp.locked 1 then none else s.nextDarn), (if s.otp.locked 5 then none else s.nextThermal) with
    | some (w, v), _ => s.burnGo { word := w, target := targetOf v, darn := true }
    | none, some (w, v) => s.burnGo { word := w, target := targetOf v }
    | none, none =>
      if !s.thm.evWait.isEmpty && s.freeRecord.isNone && s.thm.otpUsed = 0 then
        (s.modThm fun m => { m with otpUsed := 1 }).log .thermalLogFull 0
      else s

/-! ## Bring-up uses of OTP (R328, R333, R334) -/

/-- Apply a channel's darn entries: the OTP entries in place order, then the selvedge records that OTP does not hold. `bad` are the
places of records that mismatch their complements. -/
def State.bootDarns (ch : Nat) (bad : List Nat) (s : State) : State :=
  let recs := (s.chan ch).eyes.records
  let words := (List.range 6).filterMap fun i => s.otpWord (0x100 + 6 * ch + i)
  let held := words.flatMap fun v => [v.toNat % 2 ^ 16, v.toNat / 2 ^ 16]
  let s := held.foldl (fun s e => s.applyDarn ch e (2 ^ 16 - 1 - e) false) s
  let s := (recs.zipIdx.filter fun e => bad.contains e.2 || !held.contains e.1.toNat).foldl (fun s e =>
    s.applyDarn ch e.1.toNat (if bad.contains e.2 then e.1.toNat else 2 ^ 16 - 1 - e.1.toNat) false) s
  s.modEyes ch fun e => { e with records := recs }

/-- Another row takes the place of a row (R334): what it holds is arbitrary. -/
def State.freeRow (ch b row : Nat) (s : State) : State :=
  { s with dram := s.dram.fill (devAddr ch (b * 2 ^ 21 + row * 256)) 256 fun i => Config.freeLink (s.freeNo + i), freeNo := s.freeNo + 256 }

/-- The row repairs of channel `ch` (R333): the OTP entries, then the stored patches, each on a free spare row. -/
def State.bootRepairs (ch : Nat) (free : List (Nat × Nat × Nat)) (s : State) : State :=
  let otp := (List.range 4).filterMap fun i => s.otpWord (0x400 + 4 * ch + i)
  let pat := (List.range 4).filterMap fun i => Sparse.find? s.otp.rowPatches (0x400 + 4 * ch + i)
  let good := (otp ++ pat).foldl (fun (a : List (Nat × Nat × Nat) × State) v =>
    let n := v.toNat
    let e := (bits n 30 26, bits n 25 13, bits n 12 9)
    if !bit n 31 then a
    else if !free.contains (ch, e.1, e.2.2) || a.1.any (fun x => x.1 == e.1 && (x.2.1 == e.2.1 || x.2.2 == e.2.2)) then
      (a.1, a.2.log .rowRepairInvalid ch)
    else (a.1 ++ [e], a.2)) ([], s)
  let old := (s.chan ch).eyes.repairs
  let gained := good.1.filter fun e => !old.contains e
  let s := gained.foldl (fun s e => s.freeRow ch e.1 e.2.1) (good.2.modEyes ch fun e => { e with repairs := good.1 })
  let mask : BitVec 32 := gained.foldl (fun v b => v &&& ~~~(1#32 <<< b.1)) (BitVec.allOnes 32)
  s.modChan ch fun c => { c with da := { c.da with init := c.da.init &&& mask } }

/-- The purge of R517, before BRING-UP ends: every region has left self-refresh then (R430). -/
def State.purge (s : State) : State :=
  if s.otp.lifecycle != 4 || s.otp.purged then s
  else
    let s := (s.channels.filter fun ch => (s.chan ch).func != .retired).foldl (fun s ch =>
      (s.zeroChannel ch).modChan ch fun c => { c with da := { c.da with init := BitVec.allOnes 32 } }) s
    let s := { s with pwr := { s.pwr with image := { seqNo := s.pwr.image.seqNo } } }
    (s.modOtp fun o => { o with purged := true, overrides := [] }).log .returnedPurge 0

/-! ## PATCH_TABLE (R508, R509) -/

/-- Entry `i` of a patch table is valid, given the words of the entries before it. -/
def State.patchValid (s : State) (b : List Byte) (i : Nat) : Bool :=
  let u (i k : Nat) : Nat := leAt b (16 * i + k) 4
  let w := u i 0
  let r := otpRegion w
  isComp 32 w (u i 4) && isComp 32 (u i 8) (u i 12) && w < 2048 && (r = 1 || r = 2) && bit s.otp.perm r &&
    (s.otpWord w).isNone && (List.range i).all fun j => u j 0 != w

/-- Apply one entry. -/
def State.patchEntry (w : Nat) (v : Nat) (s : State) : State :=
  if otpRegion w = 1 then
    let ch := (w - 0x100) / 6
    let one (e : Nat) (s : State) : State := s.applyDarn ch e (2 ^ 16 - 1 - e) true
    one (v / 2 ^ 16) (one (v % 2 ^ 16) s)
  else s.modOtp fun o => { o with rowPatches := Sparse.insert o.rowPatches w (BitVec.ofNat 32 v) }

/-- PATCH_TABLE with what the read of the table gave. -/
def execPatchTable (ctx : Nat) (table : Fetch) (s : State) : Res :=
  match s.startable ctx 0x48 with
  | none => .next s
  | some d =>
    let n := d.u32 0x18
    if d.u64 0x10 % 16 != 0 || !isComp 32 n (d.u32 0x1C) || n = 0 || n > 256 || !d.zero 0x20 0x40 then
      .next (s.finish ctx d.seq 0x0012)
    else if !s.hostUp then .next s
    else
      let s := s.hostRead (d.u64 0x10) (16 * n)
      match fetchData table with
      | none => .next (s.finish ctx d.seq 0x0042)
      | some b =>
        match (List.range n).find? fun i => !s.patchValid b i with
        | some i => .next (s.finish ctx d.seq 0x0075 i)
        | none =>
          let s := (List.range n).foldl (fun s i => s.patchEntry (leAt b (16 * i) 4) (leAt b (16 * i + 8) 4)) s
          .next (s.finish ctx d.seq 0 n)

/-! ## Margin audit (R510, R511) -/

/-- Keep a recovered value as an override (R511). -/
def State.keepOverride (w : Nat) (v : Word) (s : State) : State :=
  if s.otp.overrides.any (·.1 == w) || s.otp.overrides.length < 64 then
    s.modOtp fun o => { o with overrides := Sparse.insert o.overrides w v }
  else s.log .overrideFull 0

/-- The audit of one word; `after` is what a strengthened word reads. -/
def State.auditWord (w : Nat) (after : Option OtpReads) (s : State) : State :=
  let f := s.fuse w
  if f.blank || f.allValid then s
  else
    let last (s : State) : State := s.modOtp fun o => { o with lastWord := w }
    match f.recovered with
    | none => (last s).log .otpEmpty 0
    | some v =>
      let s := (last s).log .otpMarginal 0
      let r := otpRegion w
      let may := !s.otp.locked r && f.high &&& ~~~(targetOf v) == 0 && (if r = 4 then s.otp.transitionOk w v.toNat else lcProgram s.otp.lifecycle r)
      if may then
        let s := match after with | some x => if s.otpWindow then s.readFuses [(w, x)] else s | none => s
        if (s.fuse w).allValid then s.log .otpStrengthened 0 else s.keepOverride w v
      else s.keepOverride w v

/-- A whole margin audit, in ascending word order. -/
def State.audit (reads after : List (Nat × OtpReads)) (s : State) : State :=
  let s := s.readFuses reads
  let s := s.modOtp fun o => { o with lastAudit := s.now, auditTemp := ((s.hottest true).map (·.1)).getD o.auditTemp }
  (s.otp.fuses.map (·.1)).foldl (fun s w => s.auditWord w ((after.find? (·.1 == w)).map (·.2))) s

/-- OTP_CTL.AUDIT (R510). -/
def execOtpAudit (path : Path) (reads after : List (Nat × OtpReads)) (s : State) : Res :=
  if path == .bar2 || s.pwr.mode == .save then .next s else .next (s.audit reads after)

/-- 24 h after the last audit, or after a move of 10 °C (R510). -/
def execAuditTimer (reads after : List (Nat × OtpReads)) (s : State) : Res :=
  let moved := match s.hottest true with | some x => decide ((x.1 - s.otp.auditTemp).natAbs ≥ 80) | none => false
  if s.pwr.mode != .save && (s.now ≥ s.otp.lastAudit + 138240000000000 || moved) then .next (s.audit reads after) else .next s

/-! ## Test access (R515, R516) -/

/-- The state permits an instruction kind (R515): 0 BYPASS and 1 the other IEEE 1149 instructions, 2 die wrapper access,
3 vendor scan and slice access, 4 vendor array and fuse access, 5 vendor selvedge store access. -/
def Otp.tapOk (o : Otp) (kind : Nat) : Bool :=
  match kind with
  | 0 | 1 => true
  | 2 => o.lifecycle != 3
  | 3 => o.lifecycle ≤ 1 || o.lifecycle = 4
  | 4 => o.lifecycle ≤ 1 || (o.lifecycle = 4 && o.purged)
  | 5 => o.lifecycle = 4 && o.purged
  | _ => false

/-- The channel whose eyelets carry the test signals of each die in the serial chain (R336): its first channel in service; a die without
one is bypassed. -/
def State.dieChain (s : State) : List (Option Nat) :=
  (List.range s.dies).map fun d => ((List.range 8).map (8 * d + ·)).find? fun ch => (s.chan ch).func != .retired

/-- An instruction is loaded into the TAP instruction register: a forbidden one decodes as BYPASS (R516), and die wrapper access goes
through the chain of dies (R336). -/
def execTapInstruction (kind : Nat) (s : State) : Res :=
  if s.otp.tapOk kind then
    let s := s.modOtp fun o => { o with tapInstr := kind }
    .next (if kind = 2 then s.emit (.wrapper s.dieChain) else s)
  else
    let first := !s.otp.tapGated
    let s := s.modOtp fun o => { o with tapInstr := 0, tapGated := true }
    .next (if first then s.log .tapGated 0 else s)

/-- A TAP reset re-arms TAP_GATED (R516). -/
def execTapReset (s : State) : Res := .next (s.modOtp fun o => { o with tapGated := false, tapInstr := 0 })

/-! ## Full self-test (R527) -/

/-- A full self-test is complete once every bobbin that it has not retired has its region out of self-refresh. -/
def State.selftestEnd (s : State) : State :=
  match s.otp.stLive with
  | none => s
  | some n =>
    if s.served.any fun ch => (s.chan ch).reg.inSr then s
    else
      let k := n - s.served.length
      s.modOtp fun o => { o with stLive := none, stResult := if k = 0 then 1 else 2, stRetired := min k 0xFF }

/-- The slices and the march of one bobbin (R527 steps 1 to 3): `ds` are the differences of its slices' answers (a slice past them gives
its golden signature), `march` says that the march finds a word that fails SECDED. Step 4 is the exit from self-refresh. -/
def State.selftestBobbin (ch : Nat) (ds : List SliceDiff) (march : Bool) (s : State) : State :=
  let s := (s.commandSr ch).modChan ch fun c => { c with bist := { c.bist with next := 0, retest := false, roundStart := s.now } }
  let s := State.restOfRound ch (ds ++ List.replicate 128 []) s
  let s := if march && (s.chan ch).func != .retired then (s.log .bobbinRetire ch).retireNow ch 6 else s
  if (s.chan ch).func == .retired then s else s.leaveSr ch 0

/-- DEV_SELFTEST.GO: `sigs` gives each channel's slices, `marchFail` the channels whose march fails. -/
def execSelftestGo (sigs : List (Nat × List SliceDiff)) (marchFail : List Nat) (s : State) : Res :=
  if s.pwr.mode != .maintenance || s.otp.stLive.isSome then .next s.writeIgnored
  else
    let l := s.served
    let s := l.foldl (fun s ch => s.selftestBobbin ch (((sigs.find? (·.1 == ch)).map (·.2)).getD []) (marchFail.contains ch)) s
    .next (s.modOtp fun o => { o with stLive := some l.length }).selftestEnd

end Sys2Proof.Machine
end

