-- ==== Sys2Proof/Machine/Power.lean ====
section
/-! DEFINITION. Power, modes and hold-up (13): power-up, mode changes, RETENTION and wake, SAFE exit, the AVSBus, SAVE and
its restore, and the hold-up capacitor. -/

namespace Sys2Proof.Machine

open Sys2Proof

def State.modPwr (f : Power → Power) (s : State) : State := { s with pwr := f s.pwr }

/-! ## Bringing a channel's content back (R292, R446, R448) -/

/-- Remap entry `a` holds `v` (none: dormant). -/
def Integrity.load (e : Integrity) (a : Nat) (v : Option (BitVec 64 × Bool)) : Integrity :=
  { e with remap := e.remap.map fun r => if r.addr == a then { r with data := v } else r }

/-- Reload the entry of codeword `a` (R292); `bad` says that its address mismatches its complement. -/
def State.reloadEntry (ch a : Nat) (bad : Bool) (s : State) : State :=
  let put (v : BitVec 64 × Bool) (s : State) : State := s.modChan ch fun c => { c with ecc := c.ecc.load a (some v) }
  if bad then
    (s.modChan ch fun c => { c with ecc := { c.ecc with remap := c.ecc.remap.filter (·.addr != a), fullLogged := false } }).log
      .remapEntryLost ch
  else if !(s.chan ch).da.init.getLsbD (cwBank a) then s
  else
    let (x, s) := s.readCw ch a .reload (s.cell ch a) none
    match x with
    | .correct d | .corrected d _ => put (d, false) s
    | .poison w _ => put (cwData w, true) s
    | .uncorrectable =>
      let d := devAddr ch a
      (((put (BitVec.allOnes 64, true) s).log .remapReload ch (d % 2 ^ 32) (d / 2 ^ 32))).corrEnter ch
        { priv := (s.chan ch).inPriv a, state := .uncorrectable, addr := a }

/-- A channel reloads its remap entries (R292); `bad` are the addresses that mismatch their complements. -/
def State.reloadRemap (ch : Nat) (bad : List Nat) (s : State) : State :=
  let l := (s.chan ch).ecc.remap.map (·.addr)
  let s := s.modChan ch fun c =>
    { c with ecc := { c.ecc with reloadDue := false, remap := c.ecc.remap.map fun r => { r with data := none } } }
  l.foldl (fun s a => s.reloadEntry ch a (bad.contains a)) s

/-- The bits that the fast scrub finds changed in the granule at `a`. -/
def checkNoise (k : BankCheck) (a : Nat) : List Codeword :=
  (List.range 4).map fun j => ((k.noise.find? (·.1 == a + j)).map (·.2)).getD 0

/-- The fast scrub of one granule (R446): R294 on it. Answers whether a codeword was uncorrectable. -/
def State.fastGranule (ch : Nat) (k : BankCheck) (a : Nat) (s : State) : Bool × State :=
  let (ds, s) := s.readGranule ch a .scrub (checkNoise k a)
  let s := s.count 0x007 (some ch) 1
  let s := ds.zipIdx.foldl (fun s d => if d.1 == .uncorrectable then s.scrubPoisoned ch (a + d.2) else s) s
  let fix := ds.any fun d => !d.fixed.isEmpty || d == .uncorrectable
  (ds.any (· == .uncorrectable), if fix then s.scrubRewrite ch s.now a (ds.map scrubWord) else s)

/-- Granules of a bank that hold something the array lists or that have changed; every other granule of an initialised bank holds zero
data, which links that failed may have disturbed anywhere (R592). -/
def State.bankGranules (s : State) (ch : Nat) (k : BankCheck) : List Nat :=
  if (Sparse.find? s.dram.dirty ch).isSome then (List.range (2 ^ 19)).map fun i => k.bank * 2 ^ 21 + 4 * i
  else
    let held := (s.dram.cells.filter fun x => x.1 / 2 ^ 21 = ch * 32 + k.bank).map fun x => x.1 % 2 ^ 26 / 4 * 4
    let hit := (k.noise.filter fun x => x.1 / 2 ^ 21 = k.bank).map fun x => x.1 / 4 * 4
    (held ++ hit).eraseDups

/-- The fast scrub of a bank finds an uncorrectable codeword. -/
def State.fastBank (ch : Nat) (k : BankCheck) (s : State) : Bool × State :=
  (s.bankGranules ch k).foldl (fun (a : Bool × State) g =>
    let y := a.2.fastGranule ch k g
    (a.1 || y.1, y.2)) (false, s)

/-- A bank becomes RETENTION_LOST (R448): INIT falls, the fault is logged, and privileged rows of a lost bank 31 are written
with zero data. -/
def State.loseBank (ch b : Nat) (s : State) : State :=
  let m : BitVec 32 := 1#32 <<< b
  let s := s.modChan ch fun c => { c with da := { c.da with init := c.da.init &&& ~~~m }, retLost := c.retLost ||| m }
  let s := if b = 31 then s.zeroCells ch (privBase (s.chan ch).priv) (privRows (s.chan ch).priv * 256) else s
  s.log .retentionLost ch 0 0 0 true

/-- Data of canary `i` (R445). -/
def canaryData (te ch b i : Nat) : Nat :=
  te / 2 ^ 8 % 2 ^ 32 * 2 ^ 32 + ch * 2 ^ 25 + b * 2 ^ 20 + i * 2 ^ 18 + 0x2AAAA

/-- CRC-32C of the data of four canaries (R445). -/
def canaryCrc (l : List Nat) : Nat := (crc32c (l.flatMap fun d => leBytes 8 d)).toNat

/-- The signature of a bank's canaries (R445). -/
def canarySig (te ch b : Nat) : Nat := canaryCrc ((List.range 4).map (canaryData te ch b))

/-- The canaries read as written (R446): each decodes with mark 0 to its data, and their CRC is the signature that the selvedge holds. -/
def State.canariesOk (s : State) (ch : Nat) (k : BankCheck) : Bool :=
  match Sparse.find? s.pwr.canaries (32 * ch + k.bank) with
  | none => true
  | some sig =>
    let ds := k.canaries.map fun c => match decode (s.chan ch).eyes.erased c with
      | .correct d | .corrected d _ => some d.toNat
      | _ => none
    k.recordOk && ds == (List.range 4).map (fun i => some (canaryData s.pwr.canaryTime ch k.bank i)) &&
      canaryCrc (ds.map fun d => d.getD 0) == sig

/-- What the checks of a bank read; a bank that the command does not report reads as it was written. -/
def State.checkOf (s : State) (l : List BankCheck) (ch b : Nat) : BankCheck :=
  let te := s.pwr.canaryTime
  (l.find? fun x => x.ch == ch && x.bank == b).getD
    { ch, bank := b, canaries := (List.range 4).map fun i => encode64 (BitVec.ofNat 64 (canaryData te ch b i)) false, recordOk := true,
      noise := [] }

/-- Judge one bank (R446, R452, R457): its canaries when it has any and `canary` asks, and its fast scrub. -/
def State.checkBank (l : List BankCheck) (canary : Bool) (ch b : Nat) (s : State) : State :=
  let k := s.checkOf l ch b
  let y := s.fastBank ch k
  if (canary && !s.canariesOk ch k) || y.1 then y.2.loseBank ch b else y.2

/-- Judge the banks of a channel that `f` selects. -/
def State.checkBanks (l : List BankCheck) (canary : Bool) (f : Nat → Bool) (ch : Nat) (s : State) : State :=
  ((List.range 32).filter f).foldl (fun s b => s.checkBank l canary ch b) s

/-- Bank `b` of channel `ch` is in the retained set. -/
def retainedBank (s : State) (ch b : Nat) : Bool := (s.chan ch).retBanks / 2 ^ b % 2 = 1

/-! ## Requests (R434 to R437, R449 to R452) -/

/-- The target of a request (R434). -/
def targetMode (t : Nat) : Option Mode :=
  if t = 1 then some .service else if t = 2 then some .retention else if t = 3 then some .maintenance else none

/-- A POWER_REQUEST's operands, when R434 does not refuse them. -/
def parseRequest (n : Nat) (d : Desc) : Option PwrChange :=
  let c := d.u32 0x10
  match targetMode (c % 8) with
  | none => none
  | some t =>
    let ret := t == .retention
    if !isComp 32 c (d.u32 0x14) || bits c 7 3 != 0 || c / 512 != 0 || !d.zero 0x30 0x40 || (!ret && !d.zero 0x18 0x30) then none
    else some { target := t, ctx := some (n, d.seq), timer := d.u32 0x18, banks := d.u32 0x1C, chans := leAt d.opnd 0x10 16,
                stop := bit c 8 }

/-- A SAFE exit is refused: the trip condition holds, or an uncleared C4 entry remains (R451). -/
def State.causeActive (s : State) : Bool := s.thm.tripActive || s.flt.log.any fun e => e.2.cls == 4

/-- The transitions a request may ask for in R433 between its listed modes. -/
def changeAllowed (cur tgt : Mode) : Bool :=
  (cur == .service && (tgt == .retention || tgt == .maintenance)) || (cur == .maintenance && tgt == .service) ||
    (cur == .retention && tgt == .service)

/-- Stop every live channel for a mode change (R443 step 1). -/
def State.stopAll (s : State) : State :=
  s.channels.foldl (fun s ch =>
    match (s.chan ch).state with
    | .starting => s.stopStarting ch 0x0A
    | .running => s.requestStop ch 0x0A
    | _ => s) s

/-- VDD moves to P0 unless it is there (R441). -/
def State.raiseVdd (s : State) : State := if s.pwr.point = 2 && s.pwr.avs.isNone then s.startAvs s.pwr.vddSvc 1 else s

/-- A request begins (R433, R435, R436, R451). -/
def State.beginPower (c : PwrChange) (s : State) : State :=
  if c.target == s.pwr.mode then s.answerPower c.ctx 0
  else if s.pwr.mode == .safe && c.target == .service then
    if s.causeActive then (if c.ctx.isSome then s.answerPower c.ctx 0x0064 else s.writeIgnored)
    else (s.modPwr fun p => { p with change := some { c with phase := 1 } }).raiseVdd
  else if !changeAllowed s.pwr.mode c.target then s.answerPower c.ctx 0x0060
  else if c.target == .service && s.pwr.mode == .retention then
    let s := (s.modPwr fun p => { p with change := some { c with phase := 1 } }).raiseVdd
    if s.pwr.avs.isNone then s.clocksOn else s
  else if !s.quiet && c.target != .service then
    if c.stop then (s.modPwr fun p => { p with change := some c }).stopAll else s.answerPower c.ctx 0x0061
  else s.modPwr fun p => { p with change := some c }

/-- A request arrives (R436). -/
def State.askPower (c : PwrChange) (s : State) : State :=
  if s.pwr.change.isNone && s.pwr.pendingReq.isNone then s.beginPower c
  else
    let old := s.pwr.pendingReq
    let s := s.modPwr fun p => { p with pendingReq := some c,
                                        superseded := if old.isSome then satAdd 0xFF p.superseded 1 else p.superseded }
    match old.bind (·.ctx) with
    | some (n, q) => s.finish n q 0x0002 s.pwr.mode.code
    | none => s

/-- POWER_REQUEST (R434). -/
def execPowerRequest (ctx : Nat) (s : State) : Res :=
  match s.startable ctx 0x4A with
  | none => .next s
  | some d =>
    match parseRequest ctx d with
    | none => .next (s.finish ctx d.seq 0x0012 s.pwr.mode.code)
    | some c => .next ((s.modDesc ctx d.seq fun d => { d with phase := .started }).askPower c)

/-- When the running change has completed, the pending request begins (R436). -/
def execPendingRequestBegin (s : State) : Res :=
  match s.pwr.change, s.pwr.pendingReq with
  | none, some c => .next ((s.modPwr fun p => { p with pendingReq := none }).beginPower c)
  | _, _ => .next s

/-- A register path's wake enable and SOURCE code (R449, R450). -/
def Power.wakePath (p : Power) : Path → Bool × Nat
  | .bar0 | .bar2 => (p.wakeReg, 2)
  | .smbus => (p.wakeSmb, 3)
  | .proxy => (p.wakeProxy, 4)

/-- A wake event (R450); of two that coincide the lower SOURCE code is recorded. -/
def State.wakeEvent (source : Nat) (s : State) : State :=
  if s.pwr.mode != .retention then s
  else
    match s.pwr.change with
    | some c =>
      if c.target == .service && c.ctx.isNone && s.pwr.avs.any (fun a => a.start == s.now) then
        s.modPwr fun p => { p with change := some { c with source := min c.source source } }
      else s.askPower { target := .service, source }
    | none => s.askPower { target := .service, source }

/-- PWR_WAKE.WAKE (R449); a write on a disabled path or in another mode is ignored and logged (R463). -/
def execPwrWakeWake (path : Path) (s : State) : Res :=
  let (en, src) := s.pwr.wakePath path
  if path == .bar2 then .next s
  else if s.pwr.mode != .retention || !en then .next s.writeIgnored
  else .next (s.wakeEvent src)

/-- WAKE_TIMER expires, counted from entry to RETENTION (R450). -/
def execWakeTimer (s : State) : Res :=
  let p := s.pwr
  if p.mode == .retention && p.wakeTimer != 0 && s.now ≥ p.retEntry + p.wakeTimer * 2 ^ 26 then
    .next ((s.modPwr fun p => { p with wakeTimer := 0 }).wakeEvent 5)
  else .next s

/-- PWR_WAKE.SAFE_EXIT (R449, R451); a write on a disabled path or in another mode is ignored and logged (R463). -/
def execPwrWakeSafeExit (path : Path) (s : State) : Res :=
  if path == .bar2 then .next s
  else if s.pwr.mode != .safe || !(s.pwr.wakePath path).1 then .next s.writeIgnored
  else .next (s.askPower { target := .service, source := (s.pwr.wakePath path).2 })

/-! ## RETENTION entry (R444, R445) -/

/-- The highest-numbered spare row of a bank that no repair has taken (R445). -/
def Eyes.canaryRow (e : Eyes) (b : Nat) : Option Nat :=
  ((e.freeRows.filter fun x => x.1 == b && !e.repairs.any fun r => r.1 == b && r.2.2 == x.2).map (·.2)).max?

/-- The retained banks of a request on channel `ch`; a RETIRED channel has none. -/
def State.retained (s : State) (c : PwrChange) (ch : Nat) : Nat :=
  if c.chans / 2 ^ ch % 2 = 1 && (s.chan ch).func != .retired then c.banks else 0

/-- The canaries of every retained bank, with CANARY_NONE for a bank without a free spare row. -/
def State.writeCanaries (s : State) : State :=
  let s := s.modPwr fun p => { p with canaryTime := s.gt, canaries := [] }
  s.served.foldl (fun s ch =>
    ((List.range 32).filter (retainedBank s ch)).foldl (fun s b =>
      match (s.chan ch).eyes.canaryRow b with
      | some _ => s.modPwr fun p => { p with canaries := p.canaries ++ [(32 * ch + b, canarySig p.canaryTime ch b)] }
      | none => s.log .canaryNone ch) s) s

/-- Every placed section becomes empty (R443 step 2). -/
def State.emptySections (s : State) : State :=
  let s := s.channels.foldl (fun s ch => s.modChan ch fun c =>
    { c with state := if c.state == .stopped then .idle else c.state, seq := { c.seq with sect := none, card := [] } }) s
  { s with lanes := { s.lanes with groups := s.lanes.groups.map fun (x : Nat × LaneGroup) => (x.1, { x.2 with sect := none }) } }

/-- No non-admin descriptor lacks its record's confirmation (R444 step 2). -/
def State.nonAdminDone (s : State) : Bool :=
  (s.ctxs.all fun x => x.1 < 16 || x.2.acc.isEmpty) && s.journal.all fun j => j.ctx < 16

/-- The hardware steps of entry to RETENTION begin (R444 steps 3 to 7). -/
def State.startRetention (c : PwrChange) (s : State) : State :=
  let s := s.channels.foldl (fun s ch => s.modChan ch fun x => { x with retBanks := s.retained c ch }) s
  let s := s.writeCanaries.emptySections
  let s := (s.regionsSr false).lanesOff
  let s := s.modPwr fun p => { p with change := some { c with phase := 1 } }
  (s.abandonCrc fun _ => true).startAvs 650 2

/-- MODE reads RETENTION (R444 step 8). -/
def State.enterRetention (c : PwrChange) (s : State) : State :=
  let s := s.channels.foldl (fun s ch => s.loseCells ch fun b => retainedBank s ch b) s
  let s := s.modPwr fun p => { p with mode := .retention, point := 2, change := none, wakeTimer := c.timer, retEntry := s.now }
  s.answerPower c.ctx 0

/-- The hoop's wait instruction (R438, R439, R443, R444). -/
def execHoopWait (irqPending : Bool) (s : State) : Res :=
  match s.pwr.change with
  | none => .next s
  | some c =>
    if c.phase != 0 || irqPending || !s.hoop.running then .next s
    else
      match c.target with
      | .service =>
        .next ((s.modPwr fun p => { p with mode := .service, change := none }).answerPower c.ctx 0)
      | .maintenance =>
        if s.quiet then
          .next ((s.emptySections.modPwr fun p => { p with mode := .maintenance, change := none }).answerPower c.ctx 0)
        else .next s
      | .retention => if s.quiet && s.nonAdminDone then .next (s.startRetention c) else .next s
      | _ => .next s

/-! ## AVSBus (R441, R442) -/

/-- The change under way raises VDD. -/
def Avs.raise (a : Avs) : Bool := a.target > a.prev

/-- A VDD change has come to its point: a lowering once it is confirmed, a raise 20 µs later (R441). -/
def State.settleAvs (s : State) : State :=
  match s.pwr.avs with
  | none => s
  | some a =>
    match a.confirmed with
    | none => s
    | some t =>
      if a.raise && s.now < t + 32000 then s
      else
        let s := s.modPwr fun p => { p with avs := none, point := a.point }
        match s.pwr.change with
        | some c =>
          if c.target == .retention && c.phase = 1 then s.enterRetention c
          else if c.target == .service && s.pwr.mode == .retention then s.clocksOn else s
        | none => s

/-- A VDD change has failed (R441). -/
def State.avsFailed (a : Avs) (s : State) : State :=
  let s := s.modPwr fun p => { p with avs := none, avsFail := true, command := a.prev }
  let s := (if a.raise then s.emit (.avs a.prev) else s).log .avsFail 0
  match s.pwr.change with
  | some c =>
    if c.phase != 1 then s
    else if c.target == .retention then s.enterRetention c
    else (s.modPwr fun p => { p with change := none }).answerPower c.ctx 0x0063
  | none => s

/-- A Voltage read every 10 µs (R442). -/
def execAvsPoll (answered : Bool) (mv : Nat) (s : State) : Res :=
  match s.pwr.avs with
  | none => .next s
  | some a =>
    if a.confirmed.isSome || s.now < s.pwr.lastAvs + 16000 then .next s.settleAvs
    else if !answered then .next (s.avsFailed a)
    else
      let s := s.modPwr fun p => { p with readback := mv % 2 ^ 10, lastAvs := s.now }
      if mv ≤ a.target + 10 && a.target ≤ mv + 10 then
        .next (s.modPwr fun p => { p with avs := some { a with confirmed := some s.now } }).settleAvs
      else .next s

/-- A change not confirmed within 1 ms of its write has failed (R442). -/
def execAvsTimeout (s : State) : Res :=
  match s.pwr.avs with
  | none => .next s
  | some a => if a.confirmed.isNone && s.now ≥ a.start + 1600000 then .next (s.avsFailed a) else .next s

/-! ## Exit from self-refresh (R45, R310, R323, R324, R447, R480) -/

/-- The later steps of an emergency, before the exit: the sweep, the darns of failing CA roles, and a calibration run (R323, R324). -/
def State.mendEyes (ch : Nat) (why : Emergency) (w : MaintIn) (s : State) : State :=
  match why with
  | .ca =>
    let s := (s.sweepEyes ch true false ((List.range 24).map (84 + ·)) w.train).darnCa ch
    ((s.startCal ch 64).beginCal ch).calSteps ch 64 w.cal
  | .strobe =>
    if ((s.chan ch).eyes.eye 110).link = 109 then s.sweepEyes ch false true [110] w.train
    else s.sweepEyes ch true false (List.range 108) w.train

/-- After the exit the channel reloads its remap entries and goes through the fast scrub, as far as they are due (R292, R452, R457). -/
def State.afterExit (ch : Nat) (badRemap : List Nat) (s : State) : State :=
  let s := if (s.chan ch).ecc.reloadDue then s.reloadRemap ch badRemap else s
  match (s.chan ch).checks with
  | some l =>
    let s := s.modChan ch fun c => { c with checks := none }
    s.checkBanks l false (s.chan ch).da.init.getLsbD ch
  | none => s

/-- After 2 µs of clean clock, `clean` ck of it since its last gap, the bobbin sends the exit command (R45). After an emergency its
repairs come first (R323, R324), and else one training step comes before work (R310); `badRemap` are the remap entries whose address
mismatches. -/
def execSelfRefreshExit (ch clean : Nat) (w : MaintIn) (badRemap : List Nat) (s : State) : Res :=
  let c := s.chan ch
  let g := c.reg
  if g.inSr && g.exitAt != 0 && s.now ≥ g.exitAt && clean ≥ 3200 && g.gapAt + clean ≤ s.now && c.func != .retired then
    let s := match c.eyes.emerg with
      | some why => s.mendEyes ch why w
      | none => s
    if (s.chan ch).func == .retired then .next s.selftestEnd
    else
      let s := if c.eyes.emerg.isSome then s.exitSr ch else (s.exitSr ch).trainStep ch w.train
      .next (if (s.chan ch).func == .retired then s else s.afterExit ch badRemap).selftestEnd
  else .next s

/-! ## Wake and SAFE exit (R447, R452) -/

/-- A bobbin's part of a wake (R447 steps 3 to 5): the exit, one training step, a calibration run, and the checks of the retained banks. The
remap entries are reloaded before any read. -/
def State.wakeChannel (ch : Nat) (checks : List BankCheck) (w : MaintIn) (badRemap : List Nat) (s : State) : State :=
  let s := ((s.exitSr ch).trainStep ch w.train).calSteps ch 64 w.cal
  if (s.chan ch).func == .retired then s
  else (s.reloadRemap ch badRemap).checkBanks checks true (retainedBank s ch) ch

/-- A wake from step 3 on, once VDD is at P0 and every forward clock has run for 2 µs (R447). -/
def execWake (checks : List BankCheck) (w : List (Nat × MaintIn)) (badRemap : List (Nat × Nat)) (s : State) : Res :=
  let s := s.settleAvs
  match s.pwr.change with
  | none => .next s
  | some c =>
    if s.pwr.mode != .retention || c.target != .service || s.pwr.point = 2 || s.pwr.avs.isSome ||
        s.served.any (fun ch => s.now < (s.chan ch).reg.gapAt + 3200) then .next s
    else
      let bad (ch : Nat) : List Nat := (badRemap.filter fun x => x.1 == ch).map fun x => x.2
      let res (ch : Nat) : MaintIn := ((w.find? fun x => x.1 == ch).map fun x => x.2).getD ⟨[], [], [], []⟩
      let s := s.dropUnretained
      let s := s.served.foldl (fun s ch => s.wakeChannel ch checks (res ch) (bad ch)) s
      let s := s.lanesDetect.enterService c.source .retention
      .next ((s.modPwr fun p => { p with change := none, wakeTimer := 0 }).answerPower c.ctx 0)

/-- A SAFE exit enters BRING-UP at P0 (R452). -/
def execSafeExit (checks : List BankCheck) (s : State) : Res :=
  let s := s.settleAvs
  match s.pwr.change with
  | none => .next s
  | some c =>
    if s.pwr.mode != .safe || c.target != .service || s.pwr.point = 2 || s.pwr.avs.isSome then .next s
    else
      let s := s.modPwr fun p => { p with mode := .bringUp, change := none, source := c.source, left := .safe, exitReq := c.ctx }
      .next (s.leaveSrAll 0 false (some checks)).lanesDetect

/-! ## Power-up (R428 to R430) -/

/-- REG_RDY rises at the end of step 1: the straps are read, the charger starts and AVSBus opens. -/
def execRegRdy (straps : Straps) (inRange : Bool) (s : State) : Res :=
  if s.pwr.mode != .bringUp || s.pwr.step != 0 || !inRange then .next s
  else
    let bad := straps.x > straps.wM1 || straps.y > straps.hM1
    let s := { s with tor := { s.tor with x := straps.x, y := straps.y, wM1 := straps.wM1, hM1 := straps.hM1,
                                          pcieEn := straps.pcieEn, smbAddr := straps.smbAddr, strapBad := bad } }
    let s := s.modPwr fun p => { p with step := 1, stepOne := s.now }
    .next (if bad then s.log .torStrap 0 else s)

/-- A region whose CRC fails makes each of its records a mismatched one (R456 step 2). -/
def spreadReads (r : SaveReads) (im : SaveImage) : SaveReads :=
  let all (n : Nat) (l k : List Nat) : List Nat := if r.regions.contains n then l else k
  { r with ctxs := all 1 (im.ctxs.map (·.1)) r.ctxs,
           journal := if r.regions.contains 2 then im.journal.map fun j => (j.ctx, j.seq) else r.journal,
           ckpts := all 3 (im.chans.map (·.1)) r.ckpts, faults := all 4 (im.flt.map (·.1)) r.faults,
           chans := all 5 (im.chans.map (·.1)) r.chans,
           device := r.device || r.regions.contains 6 }

/-- What of a mismatched record stays (R456 step 3). -/
def State.badRecords (bad : SaveReads) (s : State) : State :=
  let ns := (bad.ctxs ++ bad.journal.map (·.1)).filter fun n => (s.ctx n).state != .disabled
  let ck := bad.ckpts.filterMap s.functionCtx
  let s := (ns ++ ck).eraseDups.foldl (fun s n => s.halt n 0x04) s
  let s := { s with journal := s.journal.filter fun j => !bad.journal.contains (j.ctx, j.seq) }.corruptLog bad.faults
  let s := bad.chans.foldl (fun s ch => (s.modChan ch fun c =>
    { c with da := { c.da with init := 0 }, ecc := { c.ecc with sweep := 0 }, retBanks := 0, retLost := 0 }).log .restoreRecord ch) s
  if bad.device then
    (s.modPwr fun p => { p with wakeRec := 0, wakeReg := true, wakeSmb := true, wakeProxy := true }).log .restoreRecord 0
  else s

/-- A restored channel (R455, R566): its checkpoints and RUNs, INIT bits, sweep index and lost banks. -/
def Chan.restored (c : Chan) (r : SavedChan) : Chan :=
  { c with stopCause := 7, runs := r.runs, lastEnd := r.lastEnd, retBanks := r.retBanks, retLost := r.retLost,
           seq := { c.seq with ckpts := r.ckpts, ckptNo := r.ckptNo }, da := { c.da with init := r.init },
           ecc := { c.ecc with sweep := r.sweep } }

/-- What a restore leaves when the DRAM content was not kept: no INIT bit, and no bank marked lost (R457). -/
def State.notKept (s : State) : State :=
  s.channels.foldl (fun s ch => s.modChan ch fun c => { c with da := { c.da with init := 0 }, retLost := 0 }) s

/-- The image is consumed, and the restore is reported (R456). -/
def State.consumed (cause : Nat) (kept : Bool) (s : State) : State :=
  let s := s.modPwr fun p => { p with image := { p.image with marker := 3 }, restored := true, dramKept := kept, trigger := cause }
  (if kept then s else s.notKept).log .saveRestored 0 cause

/-- The regions pass unit 3 in order, each a CHECK_STRIP job: MISMATCH is the last one's (R456, R546, R548). The bytes of a region are
not the spec's, so what its CRC computed is a free value. -/
def State.stripRegions (bad : SaveReads) (s : State) : State :=
  { s with freeNo := s.freeNo + 1 }.inlineJob (!bad.regions.contains 6) ((Config.freeLink s.freeNo).toNat % 2 ^ 32)

/-- Steps 2 to 4 of the cold path of a restore (R456), once step 4 of R428 is complete (R547). -/
def State.coldRestore (bad : SaveReads) (s : State) : State :=
  let im := s.pwr.image
  if im.marker != 2 then s
  else
    let kept := s.pwr.dramWatch
    let s := s.stripRegions bad
    let s := { s with ctxs := im.ctxs, journal := im.journal,
                      flt := { s.flt with log := im.flt, nextLsn := im.nextLsn },
                      thm := { s.thm with bands := im.bands } }
    let s := im.chans.foldl (fun s x => s.modChan x.1 fun c => c.restored x.2) s
    let s := im.bands.foldl (fun s x => (List.range 8).foldl (fun s j => s.modChan (8 * x.1 + j) fun c =>
      { c with refr := { c.refr.bring s.now with band := x.2 } }) s) s
    let s := s.channels.foldl (fun s ch => s.modChan ch fun c => { c with stopCause := 7 }) s
    let s := s.modPwr fun p => { p with wakeRec := im.wakeRec, wakeReg := im.wakeCfg.1, wakeSmb := im.wakeCfg.2.1,
                                        wakeProxy := im.wakeCfg.2.2, source := 7, left := .save }
    (s.badRecords (spreadReads bad im)).requeue.consumed im.trigger kept

/-- OSC_RDY rises at the end of step 2 (R428): the hoop boots, OTP is read, and the header of a save image is examined
(R456 step 1). Header pairs that mismatch are no image (`badHeader`). -/
def execOscRdy (inRange : Bool) (reads : List (Nat × OtpReads)) (badHeader : Bool) (s : State) : Res :=
  if s.pwr.mode != .bringUp || s.pwr.step != 1 || !inRange then .next s
  else
    let s := { s with hoop := { s.hoop with running := true } }
    let s := ((s.readFuses reads).bootRead).modPwr fun p =>
      { p with step := 2, image := if badHeader then { p.image with marker := 0 } else p.image }
    .next (if s.pwr.image.marker = 1 then s.log .saveIncomplete 0 else s)

/-- MEM_RDY rises at the end of step 3: the DRAM regions leave power-on reset, in self-refresh. -/
def execMemRdy (inRange : Bool) (s : State) : Res :=
  if s.pwr.mode != .bringUp || s.pwr.step != 2 || !inRange then .next s
  else .next ((s.regionsSr false).modPwr fun p => { p with step := 3 })

/-- The spare rows of a channel that pre-bond repair left free. -/
def freeRowsOf (l : List (Nat × Nat × Nat)) (ch : Nat) : List (Nat × Nat) := (l.filter (·.1 == ch)).map (·.2)

/-- One channel's part of bring-up after step 4: darns, row repairs, and the sweep of every eyelet in both directions, while its region is in
self-refresh. -/
def State.bringChannel (sweep : List EyeRes) (free : List (Nat × Nat × Nat)) (badDarns : List Nat) (ch : Nat) (s : State) : State :=
  let s := (s.bootDarns ch badDarns).bootRepairs ch free
  let s := s.modEyes ch fun e => { e with freeRows := freeRowsOf free ch }
  (s.sweepEyes ch true true (List.range 111) sweep).darnCa ch

/-- LOGIC_RDY rises at the end of step 4 (R428, R310, R333, R440, R457, R547): a save image is restored, VDD_SVC is commanded, lanes and ports start, every
bobbin sweeps for 32,768 ck and then leaves self-refresh, and kept content is scrubbed after that. `goodRows` are the free spare rows
(channel, bank, spare row). -/
def execLogicRdy (inRange : Bool) (sweep : List (Nat × List EyeRes)) (goodRows : List (Nat × Nat × Nat))
    (checks : List BankCheck) (bad : SaveReads) (s : State) : Res :=
  if s.pwr.mode != .bringUp || s.pwr.step != 3 || !inRange then .next s
  else
    let s := (s.coldRestore bad).modPwr fun p => { p with vddlUp := true, dramWatch := false }
    let s := (s.startAvs s.pwr.vddSvc 1).lanesDetect.portsDetect.checkCandidate
    let s := s.served.foldl (fun s ch =>
      s.bringChannel (((sweep.find? (·.1 == ch)).map (·.2)).getD []) goodRows ((bad.darns.filter (·.1 == ch)).map (·.2)) ch) s
    let s := s.leaveSrAll 32768 true (if s.pwr.dramKept then some checks else none)
    .next (s.modPwr fun p => { p with step := 4 })

/-- A ready input rose and its rail is not seen in range within 1 ms (R429). -/
def execSeqRail (step : Nat) (s : State) : Res :=
  if s.pwr.mode == .bringUp && step = s.pwr.step + 1 && step ≤ 4 then .next (s.log .seqRail 0) else .next s

/-- A rail of a later step is in range before an earlier step is complete (R429). -/
def execSeqOrder (step : Nat) (s : State) : Res :=
  if s.pwr.mode == .bringUp && s.pwr.step + 1 < step && step ≤ 4 then .next (s.log .seqOrder 0) else .next s

/-- Bring-up of every bobbin is complete, and no lane group or port is in DETECT (R430). -/
def State.bringUpDone (s : State) : Bool :=
  s.pwr.step = 4 && s.pwr.avs.isNone && s.pwr.point != 2 &&
    (s.served.all fun ch => !(s.chan ch).eyes.calRun && (s.chan ch).eyes.calTrig.isNone && !(s.chan ch).reg.inSr) &&
    (s.tor.final || s.tor.isRoot) && (s.lanes.groups.all fun g => g.1 ≥ 16 || g.2.state != .detect) &&
    (List.range 4).all fun p => (s.port p).state != .detect

/-- BRING-UP ends and the device enters SERVICE (R430, R450), after the purge of a RETURNED part (R517). -/
def execBringUpComplete (s : State) : Res :=
  let s := s.settleAvs
  if s.pwr.mode != .bringUp || !s.bringUpDone then .next s
  else
    let e := s.pwr.exitReq
    let s := (s.purge.enterService s.pwr.source s.pwr.left).modPwr fun p => { p with exitReq := none }
    .next (s.answerPower e 0)

/-! ## SAVE (R453 to R457) -/

/-- TRIGGER codes of PWR_SAVE_STATUS. -/
def saveCode : SaveCause → Nat
  | .pfail => 1
  | .vdd => 2
  | .vddm => 3
  | .vaux => 4
  | .ready => 5

/-- What the save image holds of a channel. -/
def Chan.saved (c : Chan) : SavedChan :=
  { ckpts := c.seq.ckpts, ckptNo := c.seq.ckptNo, runs := c.runs, lastEnd := c.lastEnd, init := c.da.init,
    sweep := c.ecc.sweep, retBanks := c.retBanks, retLost := c.retLost }

/-- What the save image holds (R455). -/
def State.saveImage (s : State) (cause : Nat) : SaveImage :=
  { marker := 1, trigger := cause, time := s.gt, seqNo := s.pwr.image.seqNo + 1,
    ctxs := s.ctxs.filter fun x => x.2.state != .disabled, journal := s.journal,
    chans := s.chans.map fun (x : Nat × Chan) => (x.1, x.2.saved),
    bands := s.thm.bands, flt := s.flt.log, nextLsn := s.flt.nextLsn, mode := s.pwr.mode, wakeRec := s.pwr.wakeRec,
    wakeCfg := (s.pwr.wakeReg, s.pwr.wakeSmb, s.pwr.wakeProxy) }

/-- The load shed at a save trigger (R454). The records of requests that it ends are written after the restore, in BRING-UP
(R434, R437). -/
def State.shedLoad (s : State) : State :=
  let was := s.pwr.mode
  let s := { s with host := { s.host with linkUp := false }, pwr := { s.pwr with mode := .bringUp } }
  let s := if was == .retention then s.dropUnretained else s
  let s := ((s.preempt.cutAll 7 true).requeue.stopBurn).abandonCrc fun _ => true
  let s := (s.regionsSr true).lanesOff
  { s with hoop := { s.hoop with running := false } }

/-- A save trigger (R453 to R455): in BRING-UP before the restore, an existing image stays untouched. -/
def execSaveTrigger (cause : SaveCause) (s : State) : Res :=
  if s.pwr.mode == .save then .next s
  else
    let early := s.pwr.mode == .bringUp && (s.pwr.step < 2 || (s.pwr.step < 4 && s.pwr.image.marker = 2))
    let was := s.pwr.mode
    let s := s.shedLoad
    let s := if cause == .vddm then s.loseAll else s
    let im := { s.saveImage (saveCode cause) with mode := was }
    .next (s.modPwr fun p =>
      if early then { p with mode := .save }
      else { p with mode := .save, image := im, trigger := (saveCode cause), saveResult := 2, dramWatch := cause != .vddm, avs := none })

/-- The selvedge finishes the save image (R455). -/
def execSaveCommit (s : State) : Res :=
  if s.pwr.mode == .save && s.pwr.trigger != 0 && s.pwr.image.marker = 1 && !s.pwr.lostPower then
    .next (s.modPwr fun p => { p with image := { p.image with marker := 2 }, saveResult := 1, committedAt := s.now })
  else .next s

/-- The warm path (R456): every rail and ready input has been in range for 10 ms after the commit, and VAUX has not fallen. -/
def execWarmRestore (checks : List BankCheck) (s : State) : Res :=
  let p := s.pwr
  if p.mode != .save || p.image.marker != 2 || p.lostPower || p.trigger = 0 || p.trigger = 4 || s.now < p.committedAt + 16000000 then .next s
  else
    let kept := p.dramWatch
    let s := s.modPwr fun p => { p with mode := .bringUp, source := 6, left := .save, dramWatch := false }
    let s := s.consumed p.trigger kept
    let s := s.warmBlocks.restartHoop.leaveSrAll 0 true (if kept then some checks else none)
    .next (s.lanesDetect.raiseVdd)

/-- VSAVE falls below 5.0 V: the selvedge shuts down (R456). -/
def execVsaveLow (s : State) : Res :=
  if s.pwr.mode == .save then .next (s.modPwr fun p => { p with lostPower := true, dramWatch := false }) else .next s

/-- The selvedge's watch sees VDDM or VPPM below its threshold (R457). -/
def execDramRailLow (s : State) : Res :=
  if s.pwr.dramWatch then
    .next (s.loseAll.modPwr fun p => { p with dramWatch := false })
  else .next s

/-! ## Cold reset (R477, R478) -/

/-- What of a channel survives a loss of power: the records of the selvedge store (R292, R327) and a retirement's record. -/
def Chan.cold (c : Chan) : Chan :=
  { func := if c.func == .retired then .retired else .idle, state := if c.func == .retired then .retired else .idle,
    ecc := { remap := c.ecc.remap.map fun r => { r with data := none } },
    eyes := { records := c.eyes.records, repairs := c.eyes.repairs } }

/-- A rise of VAUX from below its threshold. The selvedge store, OTP and, while the selvedge watched, the DRAM content stay;
time starts at 0. -/
def execColdReset (s : State) : Res :=
  let kept := s.pwr.mode == .save && s.pwr.dramWatch
  let cold (ch : Nat) : Option (Nat × Chan) :=
    let c := (s.chan ch).cold
    if c = {} then none else some (ch, c)
  let chans := s.channels.filterMap cold
  let fresh : State := State.reset
  .next { fresh with
    pending := s.pending, freeNo := s.freeNo, out := s.out, chans,
    dram := if kept then s.dram else s.dram.loseAll,
    members := s.members, otp := { fuses := s.otp.fuses, overrides := s.otp.overrides, rowPatches := s.otp.rowPatches },
    thm := { evWait := s.thm.evWait, evNo := s.thm.evNo },
    pwr := { image := s.pwr.image, dramWatch := kept } }

/-! ## Hold-up capacitor (R459) -/

/-- Save armed: both parts of the last test passed and VSAVE is at least 9.0 V. -/
def Power.arm (p : Power) : Power := { p with armed := p.capOk && p.esrOk && decide (p.vsave ≥ 9000) }

/-- A failed charge test logs HOLDUP_FAIL; a passed one ends its condition. -/
def State.testResult (ok : Bool) (s : State) : State :=
  if ok then s.condEnd 0x03 0x08 0 else s.log .holdupFail 0 0 0 0 true

/-- The charge test, when VSAVE first reaches 11.4 V after step 1 and every 24 h after that: ΔV in mV, ESR in mΩ and VSAVE. -/
def execChargeTest (dvMv esrMohm vsaveMv : Nat) (s : State) : Res :=
  let p := s.pwr
  let due := match p.lastCharge with | none => decide (vsaveMv ≥ 11400) | some t => decide (s.now ≥ t + 138240000000000)
  if p.mode == .save || p.step = 0 || !due then .next s
  else
    let cap := decide (0 < dvMv ∧ dvMv ≤ 1250)
    let esr := decide (esrMohm ≤ 50)
    let s := s.modPwr fun p => { p with lastCharge := some s.now, capOk := cap, esrOk := esr, chargeFailed := !(cap && esr),
                                        vsave := vsaveMv % 2 ^ 16, capUf := min (1000000 / dvMv) 0xFFFF, esr := min esrMohm 0xFF }
    .next ((s.modPwr Power.arm).testResult (cap && esr))

/-- VSAVE has not reached 11.4 V within 5 s of step 1: the test fails. -/
def execChargeTimeout (s : State) : Res :=
  let p := s.pwr
  if p.mode == .save || p.step = 0 || p.lastCharge.isSome || p.chargeFailed || s.now < p.stepOne + 8000000000 then .next s
  else .next ((s.modPwr fun p => ({ p with capOk := false, esrOk := false, chargeFailed := true }).arm).testResult false)

/-- VSAVE crosses 9.0 V (R459). -/
def execVsaveArmedLevel (mv : Nat) (s : State) : Res := .next (s.modPwr fun p => ({ p with vsave := mv % 2 ^ 16 }).arm)

end Sys2Proof.Machine
end

