-- ==== Sys2Proof/Machine/Reset.lean ====
section
/-! DEFINITION. Faults, resets and recovery (14): warm reset, the host interface, the hoop and its firmware, the fault pins
and the fault log's actions. -/

namespace Sys2Proof.Machine

open Sys2Proof

/-! ## Warm reset (R477 to R480) -/

/-- DEV_RST.WARM: the reset begins 1 µs after the write (R477); in SAVE the source is ignored (R479). -/
def execDevRstWarm (s : State) : Res :=
  if s.pwr.mode == .save then .next s
  else .next { s with hoop := { s.hoop with warmAt := some (s.hoop.warmAt.getD (s.now + 1600)) } }

/-- The registers of the admin window take their reset values (R564); the host interface is down until it recovers. -/
def HostIf.warm (h : HostIf) : HostIf :=
  { h with admData := [], admSeqLo := 1, admSeqHi := 0, admCtx := 0, admErr := false, admBusy := [], readReq := [],
           linkUp := false, stageUsed := 0 }

/-- What a warm reset does at its start (R163, R478, R479). The thermal block runs on, and the classes that its rung sheds stay shed
(R264). -/
def State.warmStart (s : State) : State :=
  let s := (s.warmBlocks.requeue.stopBurn.shedClasses).regionsSr true
  let s := { s with host := s.host.warm }
  let s := if s.pwr.mode == .bringUp then s.modPwr fun p => { p with step := min p.step 2 } else s
  s.restartHoop

/-- The source of a warm reset is present: PERST_L low with PCIE_EN 1, or DEV_RST.WARM 1 µs ago. -/
def State.warmDue (s : State) : WarmSrc → Bool
  | .perst => s.tor.pcieEn
  | .devRst => match s.hoop.warmAt with | some t => decide (s.now ≥ t) | none => false

/-- A warm reset begins (R478). -/
def execWarmReset (src : WarmSrc) (s : State) : Res :=
  if s.pwr.mode == .save || !s.warmDue src then .next s
  else
    let s := { s with hoop := { s.hoop with warmAt := none, warmEnd := some (s.now + 16000) } }
    .next s.warmStart

/-- A READ starts its delivery again (R481). -/
def Desc.redeliver (d : Desc) : Desc :=
  if d.op == 0x10 && d.phase == .started then
    { d with issued := 0, complete := 0, poison := false, corrected := false, parts := bankParts d.first d.total } else d

/-- Reads under way for a READ that starts again deliver nothing. -/
def Flight.hosted (f : Flight) : Bool := match f.reader with | .da _ _ _ => true | _ => false

/-- The image reads of a LOAD_PRICKING or FIRMWARE_LOAD under way leave the device again: none of them completed (R481). -/
def State.readAgain (s : State) : State :=
  let back (n : Nat) (d : Desc) : Bool :=
    d.phase == .started && (d.op == 0x40 || (d.op == 0x4B && s.hoop.load == some (n, d.seq, 0)))
  s.ctxs.foldl (fun s x => (x.2.acc.filter (back x.1)).foldl (fun s d => s.hostRead (d.u64 0x10) (d.u32 0x18)) s) s

/-- Journal records `l` mismatch their complements (R304): nothing of them is written, and their contexts are HALTED with cause RECORD. -/
def State.badJournal (l : List (Nat × Nat)) (s : State) : State :=
  let bad := s.journal.filter fun j => l.contains (j.ctx, j.seq)
  let s := (((bad.map (·.ctx)).eraseDups.filter fun n => (s.ctx n).state != .disabled).foldl (fun s n => s.halt n 0x04) s)
  { s with journal := s.journal.filter fun j => !l.contains (j.ctx, j.seq) }

/-- The recovery of the host interface (R144, R156, R481). -/
def State.recoverHost (s : State) : State :=
  let s := { s with host := { s.host with linkUp := true, d3hot := false, proxyLost := false },
                    ctxs := s.ctxs.map fun (x : Nat × Ctx) => (x.1, { x.2 with acc := x.2.acc.map Desc.redeliver }),
                    chans := s.chans.map fun (x : Nat × Chan) => (x.1, { x.2 with flights := x.2.flights.filter fun f => !f.hosted }) }
  (s.rewriteJournal.requestPage.readAgain).drainEvery

/-- A warm reset ends 10 µs after PERST_L rises or after it began (R477): the regions are returned to service (R480), unless
the mode holds them in self-refresh, and the remap entries are reloaded after the exit (R292). A wake that is under way has its clocks
again (R447). The host interface of a proxied device
recovers here; that of another one when its link is up again (R481). -/
def execWarmResetEnd (s : State) : Res :=
  match s.hoop.warmEnd with
  | none => .next s
  | some t =>
    if s.now < t then .next s
    else
      let s := { s with hoop := { s.hoop with warmEnd := none } }
      let s := if !s.tor.pcieEn && s.tor.boundTo.isSome then s.recoverHost else s
      if s.pwr.mode == .service || s.pwr.mode == .maintenance || (s.pwr.mode == .bringUp && s.pwr.step = 4) then
        .next (s.leaveSrAll 0 true none)
      else if s.pwr.mode == .retention && (s.pwr.change.any fun c => c.target == .service) && s.pwr.avs.isNone then .next s.clocksOn
      else .next s

/-! ## Host interface (R477, R481, R587) -/

/-- PCI Express hot reset, link down or Function Level Reset (R477, R481): the requests to host memory that have not completed are lost. -/
def execHostInterfaceReset (s : State) : Res :=
  if s.pwr.mode == .save || !s.tor.pcieEn then .next s
  else
    let s := { s with host := { s.host with linkUp := false, readReq := [] },
                      ctxs := s.ctxs.map fun (x : Nat × Ctx) => (x.1, { x.2 with fetched := 0 }) }
    .next ((s.log .hostLinkDown 0).count 0x113 none 1)

/-- The link is in L0 and Bus Master Enable is set (R481). `badJournal` names the journal records that mismatch when they are to be
written again (R304). -/
def execHostRecovery (badJournal : List (Nat × Nat)) (s : State) : Res :=
  if s.pwr.mode == .save || !s.tor.pcieEn || s.hoop.warmEnd.isSome || s.pwr.step < 4 then .next s
  else .next (s.badJournal badJournal).recoverHost

/-- The PCI Express function enters D3hot: host requests stop (R587). -/
def execD3hotEntry (s : State) : Res :=
  if s.tor.pcieEn then .next { s with host := { s.host with d3hot := true } } else .next s

/-! ## The hoop (R482 to R485) -/

/-- DEV_RST.HOOP. In SAVE the hoop is halted (R454). -/
def execDevRstHoop (s : State) : Res := if s.pwr.mode == .save then .next s else .next s.restartHoop

/-- A hoop restart (R482). -/
def execHoopRestart (s : State) : Res := if s.pwr.mode == .save then .next s else .next s.restartHoop

/-- The watchdog expires; the third expiry within 10 s restarts the ROM image from bank A (R483). DESIGN CHOICE (log 163): a loaded image
whose report is awaited then did not start, and its FIRMWARE_LOAD completes FW_FALLBACK. -/
def execHoopWatchdog (s : State) : Res :=
  if s.pwr.mode == .save || s.pwr.step < 2 then .next s
  else
    let l := (s.hoop.expiries.filter fun t => s.now < t + 16000000000) ++ [s.now]
    let s := (s.log .hoopWatchdog 0).restartHoop
    if l.length ≥ 3 then
      let q := s.hoop.load
      let s := { s with hoop := { s.hoop with expiries := [], bank := 0, verA := none, load := none } }.log .hoopFallback 0
      .next (match q with
        | some (n, q, _) => (s.log .fwFallback 0).finish n q 0x83
        | none => s)
    else .next { s with hoop := { s.hoop with expiries := l } }

/-- The image in the bank in use reports that it is running (R482, R484). -/
def execHoopRunning (s : State) : Res :=
  if s.hoop.running || s.pwr.mode == .save || s.pwr.step < 2 then .next s
  else
    let l := s.hoop.load
    let s := { s with hoop := { s.hoop with running := true, load := none } }
    match l with
    | some (n, q, _) => .next (s.finish n q 0)
    | none => .next s

/-- The operands of FIRMWARE_LOAD have a form that R484 and R140 refuse. -/
def loadFieldBad (d : Desc) : Bool :=
  let l := d.u32 0x18
  d.u64 0x10 % 8 != 0 || !isComp 32 l (d.u32 0x1C) || l % 8 != 0 || l < 64 || l > 131072 ||
    !isComp 32 (d.u32 0x20) (d.u32 0x24) || !d.zero 0x28 0x40

/-- Check an image (R484, R485): its status, or its version. -/
def checkFirmware (b : List Byte) (len crc : Nat) : Except Nat Nat :=
  let v (i : Nat) : Nat := leAt b (8 * i) 4
  let pairs := (List.range 4).all fun i => isComp 32 (v i) (leAt b (8 * i + 4) 4)
  if !pairs || v 0 != 0x484F4F50 || v 2 != len || v 3 % 4 != 0 || v 3 ≥ len then .error 0x80
  else if (crc32c b).toNat != crc then .error 0x81
  else .ok (v 1 % 2 ^ 16)

/-- Put the version of an image in the bank that is not in use, and run that bank. -/
def Hoop.runOther (h : Hoop) (v : Nat) : Hoop :=
  if h.bank = 0 then { h with bank := 1, verB := some v } else { h with bank := 0, verA := some v }

/-- FIRMWARE_LOAD. The row stands for the start of the load, at which the read of the image leaves, and for the arrival of
what it gave, a failed part having been read once more. A load that starts while another runs completes FW_BUSY. -/
def execFirmwareLoad (ctx : Nat) (image : Fetch) (s : State) : Res :=
  let reading := match s.hoop.load with | some (n, _, 0) => n == ctx | _ => false
  match (if reading then s.startedOp ctx 0x4B else none), s.startable ctx 0x4B with
  | some d, _ =>
    if !s.hostUp || !s.hoop.running then .next s
    else
      let s := if firstTry image then s else s.hostRead (d.u64 0x10) (d.u32 0x18)
      let fail (st : Nat) : Res := .next ({ s with hoop := { s.hoop with load := none } }.finish ctx d.seq st)
      match fetchData image with
      | none => fail 0x82
      | some b =>
        let got := (crc32c (b.take (d.u32 0x18))).toNat
        let s := s.inlineJob (got = d.u32 0x20) got
        let fail (st : Nat) : Res := .next ({ s with hoop := { s.hoop with load := none } }.finish ctx d.seq st)
        match checkFirmware (b.take (d.u32 0x18)) (d.u32 0x18) (d.u32 0x20) with
        | .error st => fail st
        | .ok v =>
          let h := s.hoop.runOther v
          .next ({ s with hoop := { h with load := some (ctx, d.seq, s.now + 1600000000) } }.restartHoop)
  | none, some d =>
    if loadFieldBad d then .next (s.finish ctx d.seq 0x0012)
    else if s.hoop.load.isSome then .next (s.finish ctx d.seq 0x84)
    else if !s.hostUp then .next s
    else
      let s := s.modDesc ctx d.seq fun d => { d with phase := .started }
      .next ({ s with hoop := { s.hoop with load := some (ctx, d.seq, 0) } }.hostRead (d.u64 0x10) (d.u32 0x18))
  | none, none => .next s

/-- The new image has not reported within 1 s: the hoop restarts from the previous bank (R484). -/
def execFwFallback (s : State) : Res :=
  match s.hoop.load with
  | some (n, q, t) =>
    if t = 0 || s.now < t || s.hoop.running then .next s
    else
      let s := { s with hoop := { s.hoop with load := none, bank := 1 - s.hoop.bank } }.restartHoop
      .next ((s.log .fwFallback 0).finish n q 0x83)
  | none => .next s

/-! ## REFCLK (R463, R467) -/

/-- REFCLK is absent or off frequency for 10 µs: a C4 fault, and SAFE (R433, R493). -/
def execRefclkLoss (s : State) : Res := .next ((s.log .refclkLoss 0 0 0 0 true).enterSafe true 7)

/-- 1 ms after REFCLK returned within range (R467). -/
def execRefclkReturn (s : State) : Res := .next (s.condEnd 0x00 0x06 0)

/-! ## Fault pins (R471, R472) -/

/-- ALERT_L is driven (R471). -/
def Faults.alert (f : Faults) : Bool :=
  (f.log.any fun e => e.2.cls ≥ f.alertMin || (e.2.blk = 0x0D && e.2.cause = 0x09)) || (f.lost != 0 && f.lostMax ≥ f.alertMin)

/-- FATAL_L is driven (R471). -/
def Faults.fatal (f : Faults) : Bool := (f.log.any fun e => e.2.cls == 4) || (f.lost != 0 && f.lostMax == 4)

/-- One sample of a released pin: its runs of low and high samples, and whether it is held low externally. -/
def pinSample (low : Bool) (p : Nat × Nat × Bool) : Nat × Nat × Bool :=
  if low then (p.1 + 1, 0, p.2.2 || p.1 + 1 ≥ 3) else (0, p.2.1 + 1, p.2.2 && p.2.1 + 1 < 16)

/-- PIN_READBACK begins or ends for pin `i` (0 ALERT_L, 1 FATAL_L). -/
def State.pinChange (i : Nat) (was now : Bool) (s : State) : State :=
  if now && !was then s.log .pinReadback i 0 0 0 true
  else if was && !now then s.condEnd 0x00 0x05 i
  else s

/-- The selvedge samples each released pin (R472). -/
def execPinReadback (alertLow fatalLow : Bool) (s : State) : Res :=
  let f := s.flt
  let a := if f.alert then (f.alertLow, f.alertHigh, f.alertExt) else pinSample alertLow (f.alertLow, f.alertHigh, f.alertExt)
  let b := if f.fatal then (f.fatalLow, f.fatalHigh, f.fatalExt) else pinSample fatalLow (f.fatalLow, f.fatalHigh, f.fatalExt)
  let s := { s with flt := { f with alertLow := a.1, alertHigh := a.2.1, alertExt := a.2.2,
                                    fatalLow := b.1, fatalHigh := b.2.1, fatalExt := b.2.2 } }
  .next ((s.pinChange 0 f.alertExt a.2.2).pinChange 1 f.fatalExt b.2.2)

/-! ## FLT_CTL (R468, R476) -/

/-- The copy of an index register that a path uses (R559). -/
def PerPath.get (p : PerPath) : Path → Nat
  | .smbus => p.smbus
  | .proxy => p.proxy
  | _ => p.bar0

def PerPath.put (p : PerPath) (path : Path) (n : Nat) : PerPath :=
  match path with
  | .smbus => { p with smbus := n }
  | .proxy => { p with proxy := n }
  | _ => { p with bar0 := n }

/-- Acknowledge entry `i`. -/
def Faults.ackOne (f : Faults) (i : Nat) : Faults :=
  match Sparse.find? f.log i with
  | some e => { f with log := Sparse.insert f.log i { e with ack := true }, result := 0 }
  | none => { f with result := 3 }

/-- Clear entry `i`: it is refused unless acknowledged and its cause inactive. -/
def Faults.clearOne (f : Faults) (i : Nat) : Faults :=
  match Sparse.find? f.log i with
  | none => { f with result := 3 }
  | some e =>
    if !e.ack then { f with result := 2 }
    else if e.active then { f with result := 1 }
    else { f with log := Sparse.erase f.log i, result := 0 }

def Faults.ackAll (f : Faults) : Faults := { f with log := f.log.map fun (x : Nat × FltEntry) => (x.1, { x.2 with ack := true }) }
def Faults.clearAll (f : Faults) : Faults := { f with log := f.log.filter fun x => !(x.2.ack && !x.2.active) }
def Faults.clearLost (f : Faults) : Faults := { f with lost := 0, lostMax := 0 }

def State.modFlt (f : Faults → Faults) (s : State) : State := { s with flt := f s.flt }

/-- FLT_CTL.ACK. BAR2 reaches no register of the fault block. `corrupt` names the entries that mismatch when the fault block reads its
log: each becomes a LOG_CORRUPT entry before anything else (R470). -/
def execFltAck (path : Path) (corrupt : List Nat) (s : State) : Res :=
  if path == .bar2 then .next s else .next ((s.corruptLog corrupt).modFlt fun f => f.ackOne (f.idx.get path))

/-- FLT_CTL.CLEAR. -/
def execFltClear (path : Path) (corrupt : List Nat) (s : State) : Res :=
  if path == .bar2 then .next s else .next ((s.corruptLog corrupt).modFlt fun f => f.clearOne (f.idx.get path))

def execFltAckAll (corrupt : List Nat) (s : State) : Res := .next ((s.corruptLog corrupt).modFlt Faults.ackAll)
def execFltClearAll (corrupt : List Nat) (s : State) : Res := .next ((s.corruptLog corrupt).modFlt Faults.clearAll)
def execClearLost (s : State) : Res := .next (s.modFlt Faults.clearLost)

end Sys2Proof.Machine
end

