-- ==== Sys2Proof/Machine/Lanes.lean ====
section
/-! DEFINITION. Gioth lanes (11): bring-up, markers, the beats of lane sections, detectors, and the pattern generators and
checkers. Receive groups 8 to 11 of a command are the lanes of torus ports N, E, S, W (R391, R393). -/

namespace Sys2Proof.Machine

open Sys2Proof

/-! ## The beat code (R302, R361, R362) -/

/-- The columns H[0] to H[31] of R302. -/
def secCols : List Nat :=
  [0x07, 0x0B, 0x0D, 0x0E, 0x13, 0x15, 0x16, 0x19, 0x1A, 0x1C, 0x23, 0x25, 0x26, 0x29, 0x2A, 0x2C] ++
    [0x31, 0x32, 0x34, 0x38, 0x43, 0x45, 0x46, 0x49, 0x4A, 0x4C, 0x51, 0x52, 0x54, 0x58, 0x61, 0x62]

/-- The check bits of a word and the control flag, whose column is 0x64 (R362). -/
def secCheck (d : Word) (c : Bool) : Nat :=
  (secCols.zipIdx.foldl (fun a x => if d.getLsbD x.2 then a ^^^ x.1 else a) 0) ^^^ (if c then 0x64 else 0)

/-- The 40-bit value of a data or control beat (R361). -/
def beatValue (d : Word) (c : Bool) : BitVec 40 :=
  BitVec.ofNat 40 ((if c then 2 ^ 39 else 0) + secCheck d c * 2 ^ 32 + d.toNat)

/-- The kinds of a received beat (R363); `fixed` tells a single-bit correction. -/
inductive RxKind where
  | errored
  | marker (group lane mn : Nat)
  | training (group lane rxok : Nat) (ready : Bool)
  | data (word : Word) (fixed : Bool)
  | control (word : Word) (fixed : Bool)
  deriving DecidableEq, Repr

/-- A beat of five data characters: SECDED over {C, d} (R302, R362). -/
def classifyBytes (v : BitVec 40) : RxKind :=
  let d : Word := v.setWidth 32
  let c := v.getLsbD 39
  let kind (d : Word) (c fixed : Bool) : RxKind := if c then .control d fixed else .data d fixed
  let syn := (v >>> 32).toNat % 128 ^^^ secCheck d c
  if syn = 0 then kind d c false
  else if [1, 2, 4, 8, 16, 32, 64].contains syn then kind d c true
  else if syn = 0x64 then kind d (!c) true
  else
    match secCols.findIdx? (· == syn) with
    | some i => kind (d ^^^ (1#32 <<< i)) c true
    | none => .errored

/-- Classify a received beat (R363, R367). -/
def classify : RxSymbols → RxKind
  | .errored => .errored
  | .bytes v => classifyBytes v
  | .comma s1 s2 s3 s4 =>
    if s4 != (s1 ^^^ s2 ^^^ s3) ^^^ 0xFF || s1 > 255 || s2 > 255 || s3 > 255 then .errored
    else if s1 / 64 = 2 then .marker (s1 / 8 % 8) (s1 % 8) (s3 * 256 + s2)
    else if s1 / 64 = 1 then .training (s1 / 8 % 8) (s1 % 8) s2 (s3 ≥ 128)
    else .errored

/-- The group number that its markers and training beats carry (R367, R391). -/
def groupField (g : Nat) : Nat := if g < 8 then g else g - 4

/-- A beat that opens with a comma leaves the block: `kind` 2 for a marker, 1 for a training beat (R367). -/
def State.sendComma (kind g l idx s2 s3 : Nat) (s : State) : State :=
  let s1 := kind * 64 + groupField g * 8 + l
  s.emit (.comma g l idx s1 s2 s3 ((s1 ^^^ s2 ^^^ s3) ^^^ 0xFF))

/-! ## Lanes of a group -/

/-- Lane `l` of a group; the default's LOGICAL is the physical number (R385). -/
def LaneGroup.lane (g : LaneGroup) (l : Nat) : Lane := Sparse.get {} g.lanes l
def LaneGroup.modLane (g : LaneGroup) (l : Nat) (f : Lane → Lane) : LaneGroup := { g with lanes := Sparse.modify {} g.lanes l f }
def State.modLane (rx : Bool) (g l : Nat) (f : Lane → Lane) (s : State) : State := s.modGroup rx g fun x => x.modLane l f
def State.lane (s : State) (rx : Bool) (g l : Nat) : Lane := (s.group rx g).lane l
def Lane.number (x : Lane) (l : Nat) : Nat := x.logical.getD l

/-- Data lanes of a group: 8, or 2 of a torus port. -/
def dataLanes (g : Nat) : List Nat := List.range (if g < 8 then 8 else 2)

/-- INSTANCE of block 0x05 (R461); a torus port's lanes stand under group 4 + port, as in its markers (R391). -/
def laneInst (rx : Bool) (g l : Nat) : Nat := (if rx then 128 else 0) + (if g < 8 then g else g - 4) * 16 + l

/-- A lane is live: aligned, or UP. -/
def Lane.live (x : Lane) : Bool := x.state == .aligned || x.state == .up
def LaneGroup.liveLanes (x : LaneGroup) (g : Nat) : List Nat := (dataLanes g).filter fun l => (x.lane l).live

/-- LIVE of LN_GRP_STATUS: the logical lanes that are UP (R384). -/
def LaneGroup.liveSet (x : LaneGroup) (g : Nat) : Nat :=
  ((dataLanes g).filter fun l => (x.lane l).state == .up).foldl (fun a l => a ||| 2 ^ (x.lane l).number l) 0

/-- RXOK that the device sends: the logical lanes it has aligned (R373). -/
def LaneGroup.rxok (x : LaneGroup) (g : Nat) : Nat :=
  (x.liveLanes g).foldl (fun a l => a ||| 2 ^ (x.lane l).number l) 0

/-- Lanes run while VDDL is up and the mode lets them (R355, R356, R444, R454). -/
def State.lanesRun (s : State) : Bool :=
  s.pwr.vddlUp && (s.pwr.mode == .service || s.pwr.mode == .maintenance || s.pwr.mode == .bringUp)

/-- What follows a change of a group's LIVE set: a notice on the paired transmit group, LANE_GROUP_DEGRADED when it shrank
while the group is UP (R365, R376), and LIVE of a torus port (R422). -/
def State.liveChange (rx : Bool) (g was : Nat) (s : State) : State :=
  let x := s.group rx g
  let now := x.liveSet g
  if g ≥ 8 then s.modPort (g - 8) fun p => { p with live := now }
  else if now = was then s
  else
    let s := if rx then s.notice g (BitVec.ofNat 32 (2 * 2 ^ 28 + g * 2 ^ 20 + now)) else s
    if x.state == .up && now &&& was != was then s.log .laneGroupDegraded (laneInst rx g 15) else s

/-- Apply a change to a group and what follows from its LIVE set. -/
def State.onGroup (rx : Bool) (g : Nat) (f : State → State) (s : State) : State :=
  (f s).liveChange rx g ((s.group rx g).liveSet g)

/-- A group reaches a state at this ck. -/
def State.groupTo (rx : Bool) (g : Nat) (st : GrpState) (s : State) : State :=
  s.modGroup rx g fun x => { x with state := st, since := s.now }

/-- A torus port fails (R393, R396): its replay buffer and queues are gone. -/
def State.failPort (p : Nat) (s : State) : State :=
  (((s.modPort p fun q => { q.restart .failed with failedAt := s.now }).groupTo true (8 + p) .failed)).log .torLinkFail p

/-- A lane is DEAD no more: the condition of its entries ends (R467). -/
def State.undead (rx : Bool) (g l : Nat) (s : State) : State :=
  (s.condEnd 0x05 0x01 (laneInst rx g l)).condEnd 0x05 0x04 (laneInst rx g l)

/-! ## LN_CTL (R383) -/

/-- The selected group and lane of a path (R382). -/
def lnSel (idx : Nat) : Bool × Nat × Nat := (bit idx 7, bits idx 6 4, bits idx 3 0)

/-- A write to LN_CTL. -/
def execLaneRetrain (path : Path) (value : Word) (s : State) : Res :=
  let (rx, g, _) := lnSel (s.lanes.idx.get path)
  let v := value.toNat
  if path == .bar2 then .next s
  else if s.laneInUse rx g then .next s.writeIgnored
  else
    let s := s.modGroup rx g fun x => { x with disable := bit v 30 }
    let off := (s.group rx g).state == .off
    let undead (s : State) : State := (List.range 9).foldl (fun s l => s.undead rx g l) s
    if bit v 30 then .next (s.onGroup rx g fun s => s.modGroup rx g fun x => x.enter .off s.now)
    else if bit v 31 then
      .next (s.onGroup rx g fun s => undead (s.modGroup rx g fun x => x.enter (if s.lanesRun then .detect else .off) s.now))
    else if off && s.lanesRun then .next (s.modGroup rx g fun x => x.enter .detect s.now)
    else .next s

/-! ## DETECT and CLOCK (R372, R375) -/

/-- The lanes' results of the DC test. -/
def State.dcLanes (rx : Bool) (g : Nat) (outcomes : List Nat) (s : State) : State :=
  (dataLanes g ++ [8]).foldl (fun s l =>
    let o := outcomes.getD l 0
    if 1 ≤ o && o ≤ 4 then
      (s.modLane rx g l fun x => { x with state := .dead, cause := o }).log .laneDead (laneInst rx g l) 0 0 0 true
    else (s.modLane rx g l fun x => { x with state := if rx then .search else .aligned, cause := 0 }).undead rx g l) s

/-- The 2 µs DC test ends (R375): the group goes to CLOCK or FAILED. A transmit group leaves CLOCK and ALIGN at once, having
nothing to lock or search. -/
def execDcTestDone (rx : Bool) (group : Nat) (outcomes : List Nat) (s : State) : Res :=
  let port := group ≥ 8
  if (s.group rx group).state != .detect || group ≥ 12 || (port && !rx) || s.now < (s.group rx group).since + 3200 then .next s
  else
    let s := s.dcLanes rx group outcomes
    let x := s.group rx group
    let bad := (x.lane 8).state == .dead || (dataLanes group).all fun l => (x.lane l).state == .dead
    let s := s.groupTo rx group (if bad then .failed else if rx then .clock else .handshake)
    let s := if port then s.modPort (group - 8) fun p => { p with state := if bad then .failed else .clock, failedAt := s.now }
      else if bad && s.laneInUse rx group then s.log .laneGroupDown (laneInst rx group 15) else s
    .next s.checkCandidate

/-- A receive group's forwarded clock locks (R372). -/
def execClockLock (group : Nat) (s : State) : Res :=
  if (s.group true group).state != .clock || group ≥ 12 then .next s
  else
    let s := s.modGroup true group fun x => { x with state := .align, since := s.now, firstAligned := none }
    .next (if group ≥ 8 then s.modPort (group - 8) fun p => { p with state := .align } else s)

/-! ## ALIGN and HANDSHAKE (R372 to R374) -/

/-- Every lane that is not DEAD is ALIGNED: the group leaves ALIGN, a port's for IDENTITY (R393). -/
def State.alignExit (g : Nat) (s : State) : State :=
  let s := s.groupTo true g (if g ≥ 8 then .sync else .handshake)
  if g ≥ 8 then
    let s := (dataLanes g).foldl (fun s l => s.modLane true g l fun x => if x.state == .aligned then { x with state := .up } else x) s
    (s.liveChange true g 0).modPort (g - 8) fun p => { p with state := .identity }
  else s

/-- No lane of the group searches any more. -/
def LaneGroup.alignDone (x : LaneGroup) (g : Nat) : Bool := (dataLanes g).all fun l => (x.lane l).state != .search

/-- The lane becomes DEAD with cause MISWIRED (R374). -/
def State.miswired (g l : Nat) (s : State) : State := s.modLane true g l fun x => { x with state := .dead, cause := 6 }

/-- A training beat of R374 names group `sg` and lane `sl`; the lane aligns or is miswired. -/
def State.alignLane (g l : Nat) (inverted : Bool) (sg sl : Nat) (s : State) : State :=
  let s := if inverted && !(s.lane true g l).inverted then
    (s.modLane true g l fun x => { x with inverted := true }).log .lanePolarity (laneInst true g l) else s
  if sg != groupField g then (s.miswired g l).log .laneMiswired (laneInst true g l) 0 0 0 true
  else
    let s := if sl != l then s.log .laneOrder (laneInst true g l) else s
    let rival := (dataLanes g).find? fun j => j != l && (s.lane true g j).live && (s.lane true g j).number j == sl
    let s := match rival with
      | some j => if j < l then s.miswired g l else s.miswired g j
      | none => s
    if (s.lane true g l).state == .dead then s
    else
      (s.modLane true g l fun x => { x with state := .aligned, logical := some sl }).modGroup true g fun x =>
        { x with firstAligned := some (x.firstAligned.getD s.now) }

/-- A beat on a lane that searches in ALIGN (R374): comma lock takes three commas in a row. -/
def execLaneAlign (group lane : Nat) (inverted : Bool) (sym : RxSymbols) (s : State) : Res :=
  let x := s.group true group
  if x.state != .align || group ≥ 12 || !(dataLanes group).contains lane || (x.lane lane).state != .search then .next s
  else
    let n := match sym with | .comma _ _ _ _ => (x.lane lane).commas + 1 | _ => 0
    let s := s.modLane true group lane fun y => { y with commas := n }
    if n < 3 then .next s
    else
      match classify sym with
      | .training sg sl _ _ =>
        let s := s.alignLane group lane inverted sg sl
        .next (if (s.group true group).alignDone group then s.alignExit group else s)
      | _ => .next s

/-- 1 ms after the first lane aligned, lanes still searching become DEAD with cause NO_ALIGN (R372). -/
def execAlignTimeout (group : Nat) (s : State) : Res :=
  let x := s.group true group
  match x.firstAligned with
  | some t =>
    if x.state != .align || s.now < t + 1600000 then .next s
    else
      let s := (dataLanes group).foldl (fun s l => s.modLane true group l fun y =>
        if y.state == .search then { y with state := .dead, cause := 5 } else y) s
      .next (s.alignExit group)
  | none => .next s

/-- A transmit group in HANDSHAKE whose lanes are all confirmed goes to SYNC (R373). -/
def State.confirmTx (g : Nat) (s : State) : State :=
  let x := s.group false g
  if x.state == .handshake && (dataLanes g).all fun l => !(x.lane l).live || bit x.partner l then s.groupTo false g .sync else s

/-- A received training beat (R373): RXOK names the transmit lanes the tester has aligned, READY 1 on every live lane ends the
receive group's HANDSHAKE. -/
def execTrainingBeat (group lane : Nat) (sym : RxSymbols) (s : State) : Res :=
  let x := s.group true group
  match classify sym with
  | .training _ _ rxok ready =>
    if group ≥ 8 || !(x.lane lane).live || !(x.state == .align || x.state == .handshake || x.state == .sync) then .next s
    else
      let s := s.modGroup false group fun y => { y with partner := rxok }
      let s := s.modLane true group lane fun y => { y with ready := y.ready || (ready && x.state == .handshake) }
      let x := s.group true group
      let done := x.state == .handshake && (x.liveLanes group).all fun l => (x.lane l).ready
      .next ((if done then s.groupTo true group .sync else s).confirmTx group)
  | _ => .next s

/-- 1 ms into HANDSHAKE (R373): unconfirmed transmit lanes become DEAD, unless the receive group has no live lane. -/
def execHandshakeTimeout (group : Nat) (s : State) : Res :=
  let x := s.group false group
  if group ≥ 8 || x.state != .handshake || s.now < x.since + 1600000 then .next s
  else
    let s := if ((s.group true group).liveLanes group).isEmpty then s.modGroup false group fun y => { y with unconfirmed := true }
      else (dataLanes group).foldl (fun s l => s.modLane false group l fun y =>
        if y.live && !bit x.partner l then { y with state := .dead, cause := 7 } else y) s
    .next (s.groupTo false group .sync)

/-! ## Markers (R367 to R369, R371, R372, R377) -/

/-- The beat index that a marker's MN names, nearest to beat index `near` (R369). -/
def markerIndex (mn near : Nat) : Nat :=
  let x : Int := mn * 16384
  (x + ((near : Int) + 2 ^ 29 - x) / 2 ^ 30 * 2 ^ 30).toNat

/-- Every live lane of a receive group in SYNC has had a valid marker, and global time is final: the group comes UP (R372). -/
def State.syncDone (g : Nat) (s : State) : State :=
  let x := s.group true g
  if x.state == .sync && s.tor.final && (x.liveLanes g).all fun l => (x.lane l).goodMarks ≥ 1 then
    s.onGroup true g fun s => (s.groupTo true g .up).modGroup true g fun y =>
      { (dataLanes g).foldl (fun y l => y.modLane l fun z => if z.live then { z with state := .up, corr := 0, errb := 0 } else z) y with
        minLead := 0xFF, maxLead := 0, windowErr := 0, windowLogged := false }
  else s

/-- A received marker beat on a lane that is not UP (R369, R372, R377): in SYNC it numbers the lane, in SEARCH two valid
markers in a row bring the lane back. -/
def execMarkerBeat (group lane : Nat) (sym : RxSymbols) (s : State) : Res :=
  let x := s.group true group
  let y := x.lane lane
  let comma := match sym with | .comma _ _ _ _ => true | _ => false
  if group ≥ 12 || !(dataLanes group).contains lane then .next s
  else if y.state == .search && (x.state == .up || (group ≥ 8 && x.state == .sync)) then
    let n := if comma then y.commas + 1 else 0
    let s := s.modLane true group lane fun z => { z with commas := n }
    match classify sym with
    | .marker sg sl mn =>
      let idx := markerIndex mn (s.gt / 2)
      if n < 3 then .next s
      else if sg != groupField group || sl != y.number lane then .next (s.modLane true group lane fun z => { z with goodMarks := 0 })
      else if y.goodMarks ≥ 1 && idx = y.beat + 16384 then
        .next (s.onGroup true group fun s => s.modLane true group lane fun z =>
          { z with state := .up, beat := idx, goodMarks := 0, badMarks := 0, errAt := [], commas := 0 })
      else .next (s.modLane true group lane fun z => { z with beat := idx, goodMarks := 1 })
    | _ => .next (s.modLane true group lane fun z => { z with goodMarks := 0 })
  else if group < 8 && x.state == .sync && y.live then
    match classify sym with
    | .marker sg sl mn =>
      if sg != group || sl != y.number lane then .next s
      else
        .next ((s.modLane true group lane fun z =>
          { z with beat := markerIndex mn (s.gt / 2), goodMarks := 1, badMarks := 0, errAt := [] }).syncDone group)
    | _ => .next s
  else .next s

/-- Markers of a torus port that sends link words, on both lanes (R391). -/
def State.portMarkers (group : Nat) (s : State) : State :=
  let t := s.lastGrid 32768
  let st := (s.port (group - 8)).state
  let mn := s.gt / 32768 % 2 ^ 16
  if group ≥ 12 || !(st == .identity || st == .up || st == .miscabled) || t ≤ (s.group true group).lastMark then s
  else
    (dataLanes group).foldl (fun s l => s.sendComma 2 group l (s.gt / 32768 * 16384) (mn % 256) (mn / 256))
      (s.modGroup true group fun y => { y with lastMark := t })

/-- At each multiple of 32,768 ck every lane of a transmit group that is UP sends a marker beat; a group in SYNC comes UP at
the first one after global time is final (R368, R372). -/
def execMarkerSend (group : Nat) (s : State) : Res :=
  let x := s.group false group
  let t := s.lastGrid 32768
  let mn := s.gt / 32768 % 2 ^ 16
  if group ≥ 8 then .next (s.portMarkers group)
  else if !(x.state == .up || (x.state == .sync && s.tor.final)) || t ≤ x.lastMark || t < x.since then .next s
  else
    let s := s.onGroup false group fun s =>
      (if x.state == .sync then s.groupTo false group .up else s).modGroup false group fun y =>
        { (dataLanes group).foldl (fun y l => y.modLane l fun z => if z.state == .aligned then { z with state := .up } else z) y with
          lastMark := t }
    .next ((dataLanes group).foldl (fun s l =>
      if (s.lane false group l).state == .up then s.sendComma 2 group l (s.gt / 32768 * 16384) (mn % 256) (mn / 256) else s) s)

/-! ## Transmit beats (R38, R364, R365, R370) -/

/-- The bobbin that owns logical lane `l` at the beat that starts at local ck `t` of a bound lane section. -/
def State.ownerAt (s : State) (rx : Bool) (g l t : Nat) : Option Nat :=
  let x := s.group rx g
  match x.sect with
  | some y =>
    if !s.laneInUse rx g || x.ts = 0 || t < x.ts then none
    else
      let b := y.table.getD (8 * ((t - x.ts) / 2 % 2 ^ y.periodLog2) + l) 0xFF
      if b = 0xFF then none else some (s.laneOwner b)
  | none => none

/-- An IDLE control word (R364). -/
def idleWord (reason bobbin : Nat) : Word := BitVec.ofNat 32 (reason * 2 ^ 24 + bobbin * 2 ^ 16)

/-- A control beat leaves. -/
def State.sendCtrl (g l idx : Nat) (w : Word) (s : State) : State := s.emit (.beat g l idx (beatValue w true))

/-- The REASON of an assigned position for which no word came: shut-down or stop of its bobbin, else no data, of a stream that has ended
too. -/
def State.idleReason (s : State) (ch : Nat) : Nat :=
  let c := s.chan ch
  let ended := if c.state == .stopping then c.seq.stopCauseReq = 4 else c.stopCause = 4
  if (c.state == .stopping || c.state == .stopped || c.state == .retired) && !ended then 4 else 1

/-- An unassigned position sends the oldest notice, or IDLE with REASON 0 (R365). -/
def State.sendNotice (g l idx : Nat) (s : State) : State :=
  match (s.group false g).notices with
  | [] => s.sendCtrl g l idx (idleWord 0 0x7F)
  | (w, n) :: r =>
    (s.modGroup false g fun x => { x with notices := if n ≤ 1 then r else (w, n - 1) :: r }).sendCtrl g l idx w

/-- Length, second tap and output inversion of a pattern (R379). -/
def prbsForm (p : Nat) : Nat × Nat × Bool :=
  match p with
  | 0 => (7, 6, false)
  | 1 => (15, 14, true)
  | 2 => (23, 18, true)
  | _ => (31, 28, true)

/-- The next bit of a pattern's register, and the register after it (R379). -/
def prbsNext (p r : Nat) : Bool × Nat :=
  let (n, m, _) := prbsForm p
  let v := bit r (n - 1) != bit r (m - 1)
  (v, (2 * r + (if v then 1 else 0)) % 2 ^ n)

/-- The 50 bits of a PRBS lane in place of a beat, first bit lowest, with the inversions that are due (R379, R381), and the lane after
them. -/
def Lane.prbsBeat (x : Lane) : BitVec 50 × Lane :=
  let inv := (prbsForm x.pattern).2.2
  let r := (List.range 50).foldl (fun (a : Nat × Nat) i =>
    let y := prbsNext x.pattern a.2
    (if (y.1 != inv) != decide (i < x.injDue) then a.1 + 2 ^ i else a.1, y.2)) (0, x.gen)
  (BitVec.ofNat 50 r.1, { x with gen := r.2, genBits := x.genBits + 50, injDue := x.injDue - 50 })

/-- A lane whose group or own state sends no beats of R370 (R370, R372, R379): words released for it are lost. -/
def State.offBeat (g l idx : Nat) (due : List TxBeat) (s : State) : State :=
  let x := s.group false g
  let y := x.lane l
  let s := due.foldl (fun s b => if b.word.isSome then s.count 0x106 none 1 else s) s
  if y.state == .prbs then
    if idx ≤ y.beat then s
    else
      let r := y.prbsBeat
      (s.modLane false g l fun _ => { r.2 with beat := idx }).emit (.prbs g l idx r.1)
  else if x.state == .up && y.state == .dead && y.cause = 7 then s.sendCtrl g l idx (idleWord 0 0x7F)
  else if y.state != .dead && (x.state == .handshake || x.state == .sync) then
    s.sendComma 1 g l idx ((s.group true g).rxok g) 128
  else s

/-- The index at which a beat is to launch. -/
def State.beatIndex (s : State) (b : TxBeat) : Nat := s.gtOf b.deadline / 2

/-- A beat came to its launch register after its deadline, or after the lane has sent that index (R38): a word so lost is a C3 fault of
its bobbin, and an idle beat goes in its place unless the index has gone already. -/
def State.lateBeat (g l : Nat) (b : TxBeat) (s : State) : State :=
  let i := s.beatIndex b
  let s := if b.word.isSome then s.log .beatLate b.chan else s
  if i ≤ (s.lane false g l).beat then s
  else (s.modLane false g l fun z => { z with beat := i }).sendCtrl g l i (idleWord (if b.word.isSome then 2 else b.reason) b.chan)

/-- A beat launches at its deadline (R370). -/
def State.launchBeat (g l : Nat) (b : TxBeat) (fifoFail : Bool) (s : State) : State :=
  let i := s.beatIndex b
  let s := s.modGroup false g fun x => { x.modLane l fun z => { z with beat := i } with launch := x.launch.erase b }
  match b.word with
  | some w =>
    if fifoFail then (s.log .storeUncorrectable b.chan).sendCtrl g l i (idleWord 3 b.chan)
    else (s.emit (.beat g l i (beatValue w false))).count 0x100 none 1 fun q => bit q 3 || q % 8 == g
  | none => s.sendCtrl g l i (idleWord b.reason b.chan)

/-- The beat of one lane at this index (R370): the word handed over, an idle beat, a notice, or a training beat while the group
comes up. `fifoFail` is an uncorrectable word in the crossing (R303). -/
def execBeatLaunch (group lane : Nat) (fifoFail : Bool) (s : State) : Res :=
  let x := s.group false group
  let y := x.lane lane
  let idx := s.gt / 2
  if group ≥ 8 || lane ≥ 8 then .next s
  else
    let due := x.launch.filter fun b => b.lane == lane && b.deadline ≤ s.now
    let late (b : TxBeat) : Bool := b.sent > b.deadline || s.beatIndex b ≤ y.beat
    let gone (b : TxBeat) : Bool := if x.state != .up || y.state != .up then due.contains b else due.contains b && late b
    let s := s.modGroup false group fun x => { x with launch := x.launch.filter fun b => !gone b }
    if x.state != .up || y.state != .up then .next (s.offBeat group lane idx due)
    else
      let s := (due.filter late).foldl (fun s b => s.lateBeat group lane b) s
      match due.find? fun b => !late b with
      | some b => .next (s.launchBeat group lane b fifoFail)
      | none =>
        if idx ≤ (s.lane false group lane).beat || idx % 16384 = 0 then .next s
        else
          let s := s.modLane false group lane fun z => { z with beat := idx }
          match s.ownerAt false group lane (s.lastGrid 2) with
          | some ch => .next (s.sendCtrl group lane idx (idleWord (s.idleReason ch) ch))
          | none => .next (s.sendNotice group lane idx)

/-! ## Receive beats (R204 to R206, R366, R369, R371, R377, R378) -/

/-- Insert a word by its place: start ck and logical lane. -/
def insertWord : List (Nat × Option Word) → Nat → Option Word → List (Nat × Option Word)
  | [], k, w => [(k, w)]
  | x :: l, k, w => if k < x.1 then (k, w) :: x :: l else x :: insertWord l k w

/-- A word, or a lost one, of logical lane `l` at beat `idx` goes to the bobbin that owns the position. Answers whether some
bobbin does. -/
def State.giveWord (g l idx : Nat) (w : Option Word) (s : State) : Bool × State :=
  let t := s.localOf (2 * idx)
  match s.ownerAt true g l t with
  | none => (false, s)
  | some ch =>
    (true, if (s.chan ch).func != .capture then s else s.modChan ch fun c =>
      { c with cap := { c.cap with acc := Sparse.set [] c.cap.acc g (insertWord (Sparse.get [] c.cap.acc g) (8 * t + l) w) } })

/-- A lane falls to SEARCH at ck `t` (R377); eight falls within 2^31 ck make it DEAD with cause UNSTABLE. -/
def Lane.fall (t : Nat) (x : Lane) : Lane :=
  let f := (x.falls.filter fun u => t < u + 2 ^ 31) ++ [t]
  { x with state := if f.length ≥ 8 then .dead else .search, cause := if f.length ≥ 8 then 8 else x.cause, falls := f,
           commas := 0, goodMarks := 0, badMarks := 0, errAt := [] }

/-- A receive lane that is UP falls to SEARCH (R377). -/
def State.fallSearch (g l : Nat) (s : State) : State := s.onGroup true g fun s => s.modLane true g l (Lane.fall s.now)

/-- An errored beat is counted (R363, R385). -/
def State.countErrored (g l idx : Nat) (s : State) : State :=
  (s.modLane true g l fun x => { x with errb := satAdd 0xFF x.errb 1,
                                        errAt := (x.errAt.filter fun i => idx < i + 256) ++ [idx] }).count 0x103 none 1 fun q =>
    bit q 3 || q % 8 == g

/-- A single-bit correction is counted. -/
def State.countFixed (g l : Nat) (fixed : Bool) (s : State) : State :=
  if fixed then (s.modLane true g l fun x => { x with corr := satAdd 0xFF x.corr 1 }).count 0x102 none 1 fun q =>
    bit q 3 || q % 8 == g
  else s

/-- The beat at an index that carries a marker (R371). -/
def State.rxMarker (g l idx : Nat) (k : RxKind) (s : State) : State :=
  let bad (s : State) : State :=
    let s := s.countErrored g l idx
    let n := (s.lane true g l).badMarks + 1
    if n ≥ 2 then s.fallSearch g l else s.modLane true g l fun x => { x with badMarks := n }
  match k with
  | .marker sg sl mn =>
    if sg != g || sl != (s.lane true g l).number l then bad s
    else if mn != idx / 16384 % 2 ^ 16 then s.fallSearch g l
    else s.modLane true g l fun x => { x with badMarks := 0 }
  | _ => bad s

/-- A beat at any other index (R366, R371). -/
def State.rxBeat (g l idx : Nat) (k : RxKind) (lost : Bool) (s : State) : State :=
  let lg := (s.lane true g l).number l
  match k with
  | .data w fixed =>
    let s := (s.countFixed g l fixed).count 0x101 none 1 fun q => bit q 3 || q % 8 == g
    let r := s.giveWord g lg idx (if lost then none else some w)
    if r.1 then r.2 else r.2.count 0x104 none 1
  | .control w fixed =>
    let s := s.countFixed g l fixed
    let s := if bits w.toNat 31 28 ≥ 3 then s.count 0x105 none 1 else s
    if lost then (s.giveWord g lg idx none).2 else s
  | _ => ((s.countErrored g l idx).giveWord g lg idx none).2

/-- The arrival window of a beat (R369, R386): `lead` is 2n minus the arrival of its last bit, in ck. -/
def State.rxLead (g l : Nat) (lead : Int) (s : State) : State :=
  let v := min lead.toNat 255
  let out := lead < 6 || lead > 250
  let first := out && !(s.group true g).windowLogged
  let s := s.modGroup true g fun x =>
    { x with minLead := min x.minLead v, maxLead := max x.maxLead v, windowErr := if out then satAdd 0xFF x.windowErr 1 else x.windowErr,
             windowLogged := x.windowLogged || out }
  if first then s.log .rxWindow (laneInst true g l) else s

/-- A beat is released from the deskew buffer at its start time (R369, R371). `fifoFail` is an uncorrectable word in the
crossing (R303). On a lane or a group that is not UP the position gives a lost word. -/
def execReceiveBeat (group lane : Nat) (sym : RxSymbols) (lead : Int) (fifoFail : Bool) (s : State) : Res :=
  let x := s.group true group
  let y := x.lane lane
  if group ≥ 8 || lane ≥ 8 then .next s
  else if x.state == .up && y.state == .up then
    let idx := y.beat + 1
    if s.gt < 2 * idx then .next s
    else
      let s := (s.modLane true group lane fun z => { z with beat := idx }).rxLead group lane lead
      let s := match (if fifoFail && idx % 16384 != 0 then s.ownerAt true group (y.number lane) (s.localOf (2 * idx)) else none) with
        | some ch => s.log .storeUncorrectable ch
        | none => s
      if idx % 16384 = 0 then .next (s.rxMarker group lane idx (classify sym))
      else .next (s.rxBeat group lane idx (classify sym) (fifoFail || lead < 6 || lead > 250))
  else
    let idx := s.gt / 2
    if idx ≤ y.beat || idx % 16384 = 0 then .next s
    else
      let s := if y.state == .search && y.goodMarks ≥ 1 then s else s.modLane true group lane fun z => { z with beat := idx }
      .next (s.giveWord group (y.number lane) idx none).2

/-! ## Detectors (R378) -/

/-- A lane when its group's forwarded clock or PLL has lost lock: a receive lane falls to SEARCH, which counts when it was UP
(R377, R378). -/
def Lane.unlocked (rx : Bool) (t : Nat) (z : Lane) : Lane :=
  if z.state == .dead || z.state == .prbs then z
  else
    let y := { z.fresh with state := if rx then .search else .aligned, falls := z.falls }
    if rx && z.state == .up then y.fall t else y

/-- The group's forwarded clock or PLL has lost lock (R377, R378): it returns to CLOCK and brings up again. -/
def State.lockLost (rx : Bool) (g : Nat) (s : State) : State :=
  if g ≥ 8 then s.failPort (g - 8)
  else
    let s := s.onGroup rx g fun s => (s.modGroup rx g fun x =>
      { x with state := if rx then .clock else .handshake, since := s.now, unconfirmed := false, partner := if rx then x.partner else 0,
               lanes := x.lanes.map fun (z : Nat × Lane) => (z.1, z.2.unlocked rx s.now) })
    s.log .laneGroupDown (laneInst rx g 15)

/-- The group is past CLOCK. -/
def GrpState.running (g : GrpState) : Bool := g == .align || g == .handshake || g == .sync || g == .up

def execReceiveLossOfLock (group : Nat) (s : State) : Res :=
  if group < 12 && (s.group true group).state.running then .next (s.lockLost true group) else .next s

def execTransmitLossOfLock (group : Nat) (s : State) : Res :=
  if group < 8 && (s.group false group).state.running then .next (s.lockLost false group)
  else if 8 ≤ group && group < 12 && (s.group true group).state.running then .next (s.lockLost true group) else .next s

/-- Amplitude below the threshold for 100 ns: a data lane falls to SEARCH, the forwarded-clock lane loses lock. -/
def execLossOfSignal (group lane : Nat) (s : State) : Res :=
  if group ≥ 12 then .next s
  else if lane = 8 then execReceiveLossOfLock group s
  else if (s.lane true group lane).state == .up then .next (s.fallSearch group lane) else .next s

/-- 8 errored beats within 256 beats (R378). -/
def execLossOfSymbolLock (group lane : Nat) (s : State) : Res :=
  let y := s.lane true group lane
  if y.state == .up && (group ≥ 8 || (y.errAt.filter fun i => y.beat < i + 256).length ≥ 8) then .next (s.fallSearch group lane)
  else .next s

/-! ## PRBS (R379 to R381, R387) -/

/-- A lane runs PRBS. -/
def Lane.runs (rx : Bool) (x : Lane) : Bool := if rx then x.chkEn else x.genEn

/-- The write may not start PRBS on the lane (R380). -/
def State.prbsRefused (s : State) (rx : Bool) (g l : Nat) : Bool :=
  let st := (s.group rx g).state
  s.laneInUse rx g || (s.lane rx g l).state == .dead || (rx && !st.running)

/-- One more bit of a generator's pattern is inverted (R381). -/
def Lane.inject (x : Lane) : Lane := { x with injected := x.injected + 1, injDue := x.injDue + 1 }

/-- The fields of a write to LN_PRBS_CTL that is not refused. DESIGN CHOICE (log 166): a generator starts with its register full of ones. -/
def Lane.prbsWrite (rx : Bool) (v : Nat) (x : Lane) : Lane :=
  let y := { x with genEn := bit v 31, chkEn := bit v 30, pattern := bits v 29 28, injRate := bits v 19 16,
                    refused := x.refused && !bit v 25 }
  let y := if y.chkEn && !x.chkEn then { y with errs := 0, sync := false, loaded := 0, reg := 0, run := 0, bitNo := 0, errPos := [] } else y
  let y := if y.genEn && !x.genEn then { y with injected := 0, gen := 2 ^ 31 - 1, genBits := 0, injDue := 0 } else y
  if y.runs rx && !x.runs rx then { y with state := .prbs }
  else if x.runs rx && !y.runs rx then
    { y with state := if rx then .search else .aligned, commas := 0, goodMarks := 0, sync := false }
  else y

/-- One write to LN_PRBS_CTL (R380, R387); INJECT inverts one bit of a generator that runs. -/
def State.prbsCtl (path : Path) (value : Word) (s : State) : State :=
  let (rx, g, l) := lnSel (s.lanes.idx.get path)
  let v := value.toNat
  if path == .bar2 then s
  else if l ≥ 8 then s.writeIgnored
  else if (bit v 31 || bit v 30) && s.prbsRefused rx g l && !(s.lane rx g l).runs rx then
    (s.modLane rx g l fun x => { x with refused := true }).writeIgnored
  else
    let s := s.onGroup rx g fun s => s.modLane rx g l fun x => x.prbsWrite rx v
    if bit v 27 && !rx && (s.lane rx g l).genEn then s.modLane rx g l Lane.inject else s

/-- A write that sets or clears GEN_EN or CHK_EN. -/
def execPrbsEnable (path : Path) (value : Word) (s : State) : Res := .next (s.prbsCtl path value)

/-- A write of 1 to INJECT (R381), with the other fields it carries. -/
def execPrbsInject (path : Path) (value : Word) (s : State) : Res := .next (s.prbsCtl path (value ||| (1#32 <<< 27)))

/-- Every 2^(INJ_RATE + 10) bits one bit is inverted (R381). -/
def execPrbsAutoInject (group lane : Nat) (s : State) : Res :=
  let y := s.lane false group lane
  let n := 2 ^ (y.injRate + 10)
  if y.genEn && y.injRate != 0 && group < 8 && y.genBits ≥ n then
    .next (s.modLane false group lane fun x => { x.inject with genBits := x.genBits - n })
  else .next s

/-- One received bit at a checker (R381). -/
def Lane.prbsBit (x : Lane) (b : Bool) : Lane :=
  let (n, _, inv) := prbsForm x.pattern
  let b := b != inv
  if x.loaded < n then { x with loaded := x.loaded + 1, reg := (2 * x.reg + (if b then 1 else 0)) % 2 ^ n }
  else
    let (want, reg) := prbsNext x.pattern x.reg
    let x := { x with reg, bitNo := x.bitNo + 1 }
    if b == want then { x with run := x.run + 1, sync := x.sync || x.run + 1 ≥ 1024 }
    else
      let e := (x.errPos.filter fun i => x.bitNo < i + 1024) ++ [x.bitNo]
      let x := { x with run := 0, errPos := e, errs := if x.sync then satAdd 0xFFFFFFFF x.errs 1 else x.errs }
      if e.length ≥ 64 then { x with sync := false, loaded := 0, reg := 0, errPos := [] } else x

/-- Received bits at the checker of a lane (R381). -/
def execPrbsSync (group lane : Nat) (bits : List Bool) (s : State) : Res :=
  if (s.lane true group lane).chkEn && group < 8 && lane < 8 then
    .next (s.modLane true group lane fun x => bits.foldl Lane.prbsBit x)
  else .next s

end Sys2Proof.Machine
end

