-- ==== Sys2Proof/Machine/Torus.lean ====
section
/-! DEFINITION. Torus and time base (12): ports and link words, picots and global time, forwarded records, coordinated start,
and the proxy channel (its register accesses stand with the registers). -/

namespace Sys2Proof.Machine

open Sys2Proof

def State.modTor (f : Torus → Torus) (s : State) : State := { s with tor := f s.tor }

/-! ## Control link words (R392) -/

/-- A control link word of a type with its lower bits. -/
def ctrlWord (typ low : Nat) : BitVec 64 := BitVec.ofNat 64 (typ * 2 ^ 60 + low)
def ctrlType (w : BitVec 64) : Nat := bits w.toNat 63 60

/-- A control link word leaves port `p`. -/
def State.linkCtrl (p typ low : Nat) (s : State) : State := s.emit (.link p (ctrlWord typ low))

/-- A received control link word of a reserved type is ignored and counted. -/
def State.reservedCtrl (w : BitVec 64) (s : State) : State := if ctrlType w ≥ 9 then s.count 0x10B none 1 else s

/-- The port is up and its link is trained. -/
def Port.up (q : Port) : Bool := q.state == .up

/-! ## IDENT and retraining (R389, R390, R393, R394) -/

/-- The IDENT word of port `p`. -/
def Torus.identWord (t : Torus) (p : Nat) : Nat :=
  t.x * 2 ^ 42 + t.y * 2 ^ 36 + t.wM1 * 2 ^ 30 + t.hM1 * 2 ^ 24 + p * 2 ^ 22

/-- The coordinates of the device that port `p` leads to (R389). -/
def Torus.neighbour (t : Torus) (p : Nat) : Nat × Nat :=
  let w := t.wM1 + 1
  let h := t.hM1 + 1
  match p with
  | 0 => (t.x, (t.y + h - 1) % h)
  | 1 => ((t.x + 1) % w, t.y)
  | 2 => (t.x, (t.y + 1) % h)
  | _ => ((t.x + w - 1) % w, t.y)

/-- An IDENT names the expected neighbour of port `p` (R394). -/
def Torus.expected (t : Torus) (p w : Nat) : Bool :=
  (bits w 47 42, bits w 41 36) == t.neighbour p && bits w 35 30 == t.wM1 && bits w 29 24 == t.hM1 && bits w 23 22 == opposite p

/-- A received IDENT (R394). -/
def execIdent (port : Nat) (word : BitVec 64) (s : State) : Res :=
  let st := (s.port port).state
  let v := word.toNat
  if port ≥ 4 || !(st == .identity || st == .miscabled || st == .up) then .next s
  else if ctrlType word != 6 then .next (s.reservedCtrl word)
  else
    let s := s.modPort port fun q => { q with nbrX := bits v 47 42, nbrY := bits v 41 36, nbrPort := bits v 23 22 }
    if st == .up then .next s
    else if s.tor.expected port v then
      .next ((s.modPort port fun q =>
        { q with state := .up, txSeq := 0, rxSeq := 0, unacked := [], replays := 0, ignoring := false, lastAdv := s.now }).condEnd 0x06 0x03 port)
    else if st == .miscabled then .next s
    else
      .next ((s.modPort port fun q => { q with state := .miscabled }).log .torMiscable port
        (bits v 23 22 * 2 ^ 12 + bits v 41 36 * 2 ^ 6 + bits v 47 42) 0 0 true)

/-- A FAILED port retrains from DETECT every 2^24 ck (R393). -/
def execPortRetrain (port : Nat) (s : State) : Res :=
  let q := s.port port
  if port ≥ 4 || q.state != .failed || s.now < q.failedAt + 2 ^ 24 then .next s else .next (s.portDetect port)

/-- The comparison of beat counts over 2^24 ck, 2^23 beats (R390): `diff` beats apart. -/
def execFreqCheck (port diff : Nat) (s : State) : Res :=
  let q := s.port port
  let locked := q.state == .align || q.state == .identity || q.state == .up || q.state == .miscabled
  if port ≥ 4 || !locked || s.now < q.freqAt + 2 ^ 24 then .next s
  else
    let s := s.modPort port fun q => { q with freqAt := s.now }
    if diff * 1000000 > 2 * 2 ^ 23 then
      let s := s.modPort port fun q => { q with freq := true, freqAgree := 0 }
      .next (if q.freq then s else s.log .torFreq port 0 0 0 true)
    else if !q.freq then .next s
    else if q.freqAgree + 1 ≥ 16 then
      let s := (s.modPort port fun q => { q with freq := false, freqAgree := 0 }).condEnd 0x06 0x02 port
      .next (State.flushPort (q.mgmt.length + q.fwdq.length) port s)
    else .next (s.modPort port fun q => { q with freqAgree := q.freqAgree + 1 })

/-- IDENT words that are due: a port in IDENTITY or MISCABLED sends one every 64 link words (R391, R393). -/
def State.sendIdents (s : State) : State :=
  (List.range 4).foldl (fun s p =>
    let q := s.port p
    let period := if q.live = 3 then 128 else 256
    if (q.state == .identity || q.state == .miscabled) && s.now % period = 0 then s.linkCtrl p 6 (s.tor.identWord p) else s) s

/-! ## Link reliability (R395 to R397) -/

/-- Place of an LSEQ among the unacknowledged words; none when the buffer does not reach it. -/
def Port.place (q : Port) (lseq : Nat) : Option Nat :=
  let first := match q.unacked with | x :: _ => x.1 | [] => q.txSeq
  let k := (lseq + 2 ^ 16 - first) % 2 ^ 16
  if k ≤ q.unacked.length then some k else none

/-- Start every packet the port can take. -/
def State.flushAll (p : Nat) (s : State) : State :=
  let q := s.port p
  State.flushPort (q.mgmt.length + q.fwdq.length) p s

/-- A received LACK. -/
def execLack (port lseq : Nat) (s : State) : Res :=
  let q := s.port port
  match q.place lseq with
  | some k =>
    if port ≥ 4 || !q.up || k = 0 then .next s
    else
      .next ((s.modPort port fun q => { q with unacked := q.unacked.drop k, lastAdv := s.now, replays := 0 }).flushAll port)
  | none => .next s

/-- Send REPLAY and resend from place `k` of the buffer. -/
def State.resendFrom (p k : Nat) (s : State) : State :=
  let ws := (s.port p).unacked.drop k
  match ws with
  | [] => s
  | x :: _ =>
    ((s.linkCtrl p 5 x.1).emit (.packet p x.1 (ws.map (·.2)))).count 0x109 none ws.length fun v => bit v 2 || v % 4 == p

/-- A received LNAK. While FREQ is set the port carries no packet, so nothing is resent (R390). -/
def execLnak (port lseq : Nat) (s : State) : Res :=
  let q := s.port port
  match q.place lseq with
  | some k => if port ≥ 4 || !q.up || q.freq then .next s else .next (s.resendFrom port k)
  | none => .next s

/-- A received REPLAY: acceptance resumes at its LSEQ. A receiver that was not waiting for it acknowledges again. -/
def execReplay (port lseq : Nat) (s : State) : Res :=
  let q := s.port port
  if port ≥ 4 || !q.up then .next s
  else if q.ignoring then
    .next (if lseq = q.rxSeq then s.modPort port fun q => { q with ignoring := false } else s)
  else .next (s.linkCtrl port 3 q.rxSeq)

/-- No REPLAY within 1,024 ck: the LNAK is sent again. -/
def execLnakTimeout (port : Nat) (s : State) : Res :=
  let q := s.port port
  if port ≥ 4 || !q.up || !q.ignoring || s.now < q.lnakAt + 1024 then .next s
  else .next ((s.modPort port fun q => { q with lnakAt := s.now }).linkCtrl port 4 q.rxSeq)

/-- No LACK advance for 2,048 ck: the sender replays; the fourth such replay fails the link (R396). While FREQ is set the port
carries no packet, and nothing is replayed (R390). -/
def execReplayTimeout (port : Nat) (s : State) : Res :=
  let q := s.port port
  if port ≥ 4 || !q.up || q.freq || q.unacked.isEmpty || s.now < q.lastAdv + 2048 then .next s
  else
    let s := (s.modPort port fun q => { q with replays := q.replays + 1, lastAdv := s.now }).resendFrom port 0
    if q.replays + 1 ≥ 4 then .next (s.failPort port) else .next s

/-- Packets that have waited 1,024 ck in a queue are discarded (R397). -/
def execQueueTimeout (port : Nat) (s : State) : Res :=
  let old (x : PktQ) : Bool := decide (x.since + 1024 ≤ s.now)
  let q := s.port port
  let n := (q.mgmt.filter old).length + (q.fwdq.filter old).length
  if port ≥ 4 || n = 0 then .next s
  else
    let s := (s.modPort port fun q => { q with mgmt := q.mgmt.filter fun x => !old x, fwdq := q.fwdq.filter fun x => !old x })
    .next ((s.count 0x10A none n).flushAll port)

/-! ## Packets that arrive (R395, R398 to R400) -/

/-- What the link does with an arriving packet: whether it accepts it. -/
def State.takePacket (pk : PktIn) (s : State) : Bool × State :=
  if pk.port = 4 then (true, s)
  else
    let q := s.port pk.port
    if pk.port > 4 || !q.up || q.freq || q.ignoring then (false, s)
    else if pk.errored then
      (false, (s.modPort pk.port fun q => { q with ignoring := true, lnakAt := s.now }).linkCtrl pk.port 4 q.rxSeq)
    else if pk.lseq != q.rxSeq then (false, s)
    else
      let n := pk.words.length
      let s := s.modPort pk.port fun q => { q with rxSeq := (q.rxSeq + n) % 2 ^ 16 }
      (true, (s.linkCtrl pk.port 3 ((q.rxSeq + n) % 2 ^ 16)).count 0x108 none n fun v => bit v 2 || v % 4 == pk.port)

/-- OP and PSEQ of a PROXY packet. -/
def pkOp (pk : PktIn) : Nat := bits (payOf pk.words 0) 31 28
def pkSeq (pk : PktIn) : Nat := bits (payOf pk.words 0) 15 0

/-- The packet is one the router discards: a reserved TYPE or OP, or DETOUR 0b11 (R398, R399, R415). -/
def pkReserved (pk : PktIn) : Bool :=
  let h := hdrOf pk.words
  hdrType h = 0 || hdrType h ≥ 5 || (hdrType h != 3 && hdrDetour h = 3) || (hdrType h = 4 && pkOp pk ≥ 8)

/-- A packet of TYPE `typ` (and, for PROXY, of OP `op`) arrives: whether it is delivered here. Others are routed on. -/
def State.arrive (typ op : Nat) (pk : PktIn) (s : State) : Bool × State :=
  let h := hdrOf pk.words
  let mine := hdrType h = typ && (typ != 4 || pkOp pk = op)
  if pk.words.length != packLen h (payOf pk.words 0) || !(mine || pkReserved pk) then (false, s)
  else
    let r := s.takePacket pk
    if !r.1 then r
    else if pkReserved pk then (false, r.2.discardPacket)
    else if typ = 3 then (true, r.2)
    else
      match r.2.route pk.port h with
      | .deliver => (true, r.2)
      | _ => (false, r.2.forwardOn pk.port pk.words)

/-! ## Picots and global time (R403 to R407) -/

/-- The heard root of a port counts while the port is UP and has sent a picot within 3 intervals. -/
def State.offers (s : State) (p : Nat) : Option (Nat × Nat) :=
  let q := s.port p
  match q.heardRoot with
  | some r => if q.up && s.now < q.lastPicot + 3 * 65536 && q.heardDist < 127 then some (r, q.heardDist) else none
  | none => none

/-- The port with the least DIST among those that announce root `r`, in port order (R405). -/
def State.bestPort (s : State) (r : Nat) : Option (Nat × Nat) :=
  (List.range 4).foldl (fun (a : Option (Nat × Nat)) p =>
    match s.offers p with
    | some (r', d) =>
      if r' != r then a
      else match a with
        | some (_, d0) => if d < d0 then some (p, d) else a
        | none => some (p, d)
    | none => a) none

/-- Take root `r` from the best port that announces it. -/
def State.adopt (r : Nat) (s : State) : State :=
  match s.bestPort r with
  | some (p, d) =>
    let same := s.tor.rootId = r && s.tor.upstream == some p
    let s := if s.tor.holdover then s.condEnd 0x06 0x07 0 else s
    s.modTor fun t => { t with rootId := r, dist := d + 1, upstream := some p, isRoot := false, holdover := false,
                               aligned := if same then t.aligned else 0 }
  | none => s

/-- Step time by `-e` (R406); `e` is in units of 2^-10 ck. -/
def State.stepTime (e : Int) (s : State) : State := s.modTor fun t => { t with off := t.off - e }

/-- Slew by at most 16 units toward `e = 0` (R406): no slot and no beat index moves. -/
def State.slewTime (e : Int) (s : State) : State :=
  let s := s.modTor fun t => { t with slewed := t.slewed + max (-16) (min 16 (-e)) }
  if e > 2048 || e < -2048 then s.log .timeAlign 0 else s

/-- The low and high bits of the picot number: the high bits are those of the last PICOT_B, carried on when the low bits
have wrapped since (R392). -/
def Port.picotNo (q : Port) (low : Nat) : Nat :=
  let wrapped : Bool := match q.picotA with | some w => decide (low < w.toNat % 2 ^ 24) | none => false
  (q.picotHi + if wrapped then 1 else 0) * 2 ^ 24 + low

/-- A device whose time is not final handles a picot (R405, R406). -/
def State.picotBefore (p : Nat) (e : Int) (s : State) : State :=
  let root := (List.range 4).foldl (fun a p => match s.offers p with | some (r, _) => min a r | none => a) s.tor.id
  let s := if (s.port p).heardRoot.any (decide <| · < s.tor.id) then s.modTor fun t => { t with electAt := s.now } else s
  let s := if root < s.tor.id then s.adopt root else s
  if root < s.tor.id && s.tor.upstream == some p then
    let n := if -64 ≤ e && e ≤ 64 then s.tor.aligned + 1 else 0
    let fin := n ≥ 4 && (s.port p).heardFinal
    (s.stepTime e).modTor fun t => { t with aligned := n, final := fin, upHeard := s.now }
  else s

/-- A device whose time is final handles a picot (R405 to R407). -/
def State.picotAfter (p : Nat) (e : Int) (s : State) : State :=
  let q := s.port p
  let r := q.heardRoot.getD 4096
  if r < s.tor.rootId && q.heardFinal then
    if -65536 ≤ e && e ≤ 65536 then ((s.adopt r).slewTime e).modTor fun t => { t with upHeard := s.now }
    else if s.quiet then ((s.adopt r).stepTime e).modTor fun t => { t with upHeard := s.now }
    else
      let new := s.tor.conflictAt.isNone
      let s := s.modTor fun t => { t with conflictAt := some s.now }
      if new then s.log .timeConflict 0 0 0 0 true else s
  else if r = s.tor.rootId && !s.tor.isRoot then
    let s := s.adopt r
    if s.tor.upstream == some p then (s.slewTime e).modTor fun t => { t with upHeard := s.now } else s
  else s

/-- A received PICOT_A (R405 to R407): `arrival` is the device's own time at its first bit, in units of 2^-10 ck. -/
def execPicotA (port : Nat) (word : BitVec 64) (arrival : Nat) (s : State) : Res :=
  let q := s.port port
  let v := word.toNat
  if port ≥ 4 || !q.up || q.freq then .next s
  else if ctrlType word != 1 then .next (s.reservedCtrl word)
  else
    let pn := q.picotNo (v % 2 ^ 24)
    let e : Int := (arrival : Int) - ((pn * 65536 + 7) * 1024 : Nat) - (q.delay : Int)
    let s := s.modPort port fun q =>
      { q with heardRoot := some (bits v 50 39), heardDist := bits v 57 51, heardFinal := bit v 59, lastPicot := s.now, picotA := some word }
    .next (if s.tor.final then s.picotAfter port e else if s.tor.candidate then s.picotBefore port e else s)

/-- A received PICOT_B. -/
def execPicotB (port : Nat) (word : BitVec 64) (s : State) : Res :=
  let q := s.port port
  if port ≥ 4 || !q.up || q.freq then .next s
  else if ctrlType word != 2 then .next (s.reservedCtrl word)
  else .next (s.modPort port fun q => { q with picotHi := word.toNat % 2 ^ 24, picotA := q.picotA })

/-- No conflicting root has been heard for 16 intervals (R423). -/
def State.settleConflict (s : State) : State :=
  match s.tor.conflictAt with
  | some t =>
    if s.now ≥ t + 16 * 65536 then (s.modTor fun t => { t with conflictAt := none }).condEnd 0x06 0x06 0 else s
  | none => s

/-- Picots leave every UP port at a picot boundary, each from the device's own time (R403). -/
def execPicotSend (s : State) : Res :=
  let t := s.lastGrid 65536
  if !(s.tor.final || s.tor.candidate) || t ≤ s.tor.lastPicot then .next s
  else
    let pn := s.gtOf t / 65536
    let s := (s.modTor fun x => { x with lastPicot := t }).settleConflict
    let x := s.tor
    let a := (if x.final then 2 ^ 59 else 0) + x.dist * 2 ^ 51 + x.rootId * 2 ^ 39 + pn % 2 ^ 24
    .next ((List.range 4).foldl (fun s p =>
      if s.usable p && !(s.port p).freq then (s.linkCtrl p 1 a).linkCtrl p 2 (pn / 2 ^ 24 % 2 ^ 24) else s) s)

/-- Own time in units of 2^-10 ck. -/
def State.fineTime (s : State) : Nat := ((s.now : Int) * 1024 + s.tor.off).toNat

/-- Every 4,096 ck a port sends DELAY_REQ (R404). -/
def execDelayReqSend (port : Nat) (s : State) : Res :=
  let q := s.port port
  if port ≥ 4 || !q.up || s.now < q.lastDelay + 4096 then .next s
  else
    let s := s.modPort port fun q =>
      { q with delayReq := some (q.delayId, s.fineTime), delayId := (q.delayId + 1) % 2 ^ 16, lastDelay := s.now }
    .next (s.linkCtrl port 7 q.delayId)

/-- A received DELAY_REQ is answered; `turn` is the time from its arrival to the departure of the answer. -/
def execDelayReq (port id turn : Nat) (s : State) : Res :=
  if port ≥ 4 || !(s.port port).up then .next s else .next (s.linkCtrl port 8 (id % 2 ^ 16 * 2 ^ 32 + turn % 2 ^ 32))

/-- The average of exchanges. -/
def mean (l : List Nat) : Nat := if l.isEmpty then 0 else l.foldl (· + ·) 0 / l.length

/-- A received DELAY_RSP (R404): d of the exchange, and the average over the last 1,024. -/
def execDelayRsp (port id turn arrival : Nat) (s : State) : Res :=
  let q := s.port port
  match q.delayReq with
  | some (i, t1) =>
    if port ≥ 4 || !q.up || id != i then .next s
    else
      let d := (arrival - t1 - turn) / 2
      let l := (q.delays ++ [d]).drop (q.delays.length + 1 - 1024)
      .next (s.modPort port fun q => { q with delayReq := none, delays := l, delay := mean l })
  | none => .next s

/-- The device becomes root with its own ID. -/
def State.becomeRoot (s : State) : State :=
  s.modTor fun t => { t with isRoot := true, final := true, rootId := t.id, dist := 0, upstream := none, holdover := false }

/-- A candidate that heard no lower ROOT for 16 intervals becomes root (R405). -/
def execRootElection (s : State) : Res :=
  if !s.tor.candidate || s.tor.final || s.now < s.tor.electAt + 16 * 65536 then .next s else .next s.becomeRoot

/-- Holdover (R407). -/
def execHoldover (s : State) : Res :=
  let t := s.tor
  if !t.final || t.isRoot || t.holdover || s.now < t.upHeard + 3 * 65536 || (s.bestPort t.rootId).isSome then .next s
  else .next ((s.modTor fun t => { t with holdover := true, upHeard := s.now }).log .timeHoldover 0 0 0 0 true)

/-- After 16 intervals in holdover the device becomes root and keeps its time (R407). -/
def execHoldoverRoot (s : State) : Res :=
  if !s.tor.holdover || s.now < s.tor.upHeard + 16 * 65536 then .next s else .next (s.becomeRoot.condEnd 0x06 0x07 0)

/-! ## Forwarded records (R223, R401, R419) -/

/-- Answer a FWD_REC. -/
def State.ackFwd (w0 tag reason : Nat) (s : State) : State :=
  s.sendPacket 2 (bits w0 21 16) (bits w0 29 24) tag 1 [BitVec.ofNat 32 (reason * 2 ^ 8 + bits w0 14 8)]

/-- A received FWD_REC: routed on, or handled as an addressed record and answered. -/
def execFwdRec (pk : PktIn) (s : State) : Res :=
  let r := s.arrive 1 0 pk
  if !r.1 then .next r.2
  else
    let s := r.2
    let w (i : Nat) : Word := BitVec.ofNat 32 (payOf pk.words i)
    let w0 := payOf pk.words 0
    let ch := w0 % 128
    let c := s.chan ch
    let tag := hdrTag (hdrOf pk.words)
    let sec := c.seq.sect.getD {}
    if ch ≥ s.members || c.state != .running || c.func != .capture || !sec.addressed || !c.cap.fwdAccept then .next (s.ackFwd w0 tag 7)
    else
      let a := s.addressed ch (some (w 1)) (some (w 2)) ((List.range 8).map fun i => w (3 + i)) (bit w0 31) s.now
      .next (a.2.ackFwd w0 tag a.1)

/-- A record that its target refused is rejected, and counted in RESULT no more (R225, R228). -/
def State.fwdRefused (ch reason : Nat) (f : Fwd) (s : State) : State :=
  let s := if f.counted then s.modCap ch fun k => { k with counts := Sparse.modify 0 k.counts f.ival (· - 1) } else s
  s.reject ch reason f.addr f.ival

/-- A received FWD_ACK: routed on, or it frees the record's tag (R401). -/
def execFwdAck (pk : PktIn) (s : State) : Res :=
  let r := s.arrive 2 0 pk
  if !r.1 then .next r.2
  else
    let s := r.2
    let w0 := payOf pk.words 0
    let ch := w0 % 128
    let tag := hdrTag (hdrOf pk.words)
    match (s.chan ch).cap.fwds.find? (·.tag == tag) with
    | none => .next s
    | some f =>
      let s := s.modCap ch fun k => { k with fwds := k.fwds.filter (·.tag != tag) }
      let reason := bits w0 10 8
      .next (if reason = 0 then s else s.fwdRefused ch reason f)

/-- A record unanswered 262,144 ck after a send is sent again, at most 3 times (R401). -/
def execForwardResend (ch tag : Nat) (s : State) : Res :=
  match (s.chan ch).cap.fwds.find? (·.tag == tag) with
  | none => .next s
  | some f =>
    if f.sends ≥ 4 || s.now < f.lastSend + 262144 then .next s
    else
      let s := s.modCap ch fun k => { k with fwds := k.fwds.map fun g =>
        if g.tag == tag then { g with sends := g.sends + 1, lastSend := s.now } else g }
      .next (s.sendFwd ch f)

/-- A record unanswered 1,048,576 ck after its fourth send is lost (R401). -/
def execForwardLost (ch tag : Nat) (s : State) : Res :=
  match (s.chan ch).cap.fwds.find? (·.tag == tag) with
  | none => .next s
  | some f =>
    if f.sends < 4 || s.now < f.lastSend + 1048576 then .next s
    else
      let s := s.modCap ch fun k => { k with fwds := k.fwds.filter (·.tag != tag), fwdLost := k.fwdLost ++ [f.ival] }
      .next ((s.inputLoss ch f.ival).log .forwardLost ch)

/-! ## Coordinated start (R411 to R413) -/

/-- Steps 1 to 5 of R413 for a START of group `g` at global time `ts`, heard from port `a` (4: from this device). -/
def State.handleStart (a root g ts : Nat) (ws : List (BitVec 64)) (s : State) : State :=
  let t := s.tor
  if !t.final || root != t.rootId then s.log .startDomain 0
  else if t.startTab.contains (g, ts) then s
  else
    let rest := t.startTab.filter fun x => x.1 != g
    let rest := if rest.length ≥ 16 then rest.drop 1 else rest
    let s := (s.modTor fun t => { t with startTab := rest ++ [(g, ts)] }).flood a ws
    if ts ≥ s.gt + 65536 then s.startSections g (s.localOf ts) else s.log .startLate 0

/-- A received START. -/
def execStart (pk : PktIn) (s : State) : Res :=
  let r := s.arrive 3 0 pk
  if !r.1 then .next r.2
  else
    let p (i : Nat) : Nat := payOf pk.words i
    let pn := p 1 + p 2 % 2 ^ 16 * 2 ^ 32
    .next (r.2.handleStart pk.port (bits (p 0) 27 16) (p 0 % 2 ^ 16) (pn * 65536) pk.words)

/-- The START packet of this device. -/
def startWords (root g pn : Nat) : List (BitVec 64) :=
  packWords 2 (packHeader 3 0 0 0 0 0) [BitVec.ofNat 32 (root * 2 ^ 16 + g), BitVec.ofNat 32 pn, BitVec.ofNat 32 (pn / 2 ^ 32 % 2 ^ 16)]

/-- A write to TOR_START (R412, R425). -/
def State.writeStart (v : Nat) (s : State) : State :=
  let lead := bits v 23 16
  let g := v % 2 ^ 16
  if lead < 2 || (bit v 31 && g = 0) then s.writeIgnored
  else
    let s := s.modTor fun t => { t with startLead := lead, startGroup := g }
    if !bit v 31 then s
    else
      let pn := (s.gt + lead * 65536 + 65535) / 65536
      s.handleStart 4 s.tor.rootId g (pn * 65536) (startWords s.tor.rootId g pn)

/-- TOR_START.GO. -/
def execTorStartGo (value : Word) (s : State) : Res := .next (s.writeStart (value.toNat % 2 ^ 31 + 2 ^ 31))

/-! ## The proxy channel (R414 to R419) -/

/-- The host of a proxied device is its proxy's: the interface recovers unless the mode or a reset holds it (R417, R481). -/
def State.proxyRecover (s : State) : State :=
  if s.tor.pcieEn || s.pwr.mode == .save || s.hoop.warmEnd.isSome then s else s.recoverHost

/-- A request binds an unbound device to its sender (R414). -/
def State.bindProxy (id : Nat) (s : State) : State :=
  if s.tor.boundTo.isNone then (s.modTor fun t => { t with boundTo := some id }).modPx id fun c => { c with heard := s.now } else s

/-- A PROXY packet is received: PACK answers it, and it is accepted when its PSEQ is the one expected (R416, R419). -/
def State.pxAccept (pk : PktIn) (s : State) : Bool × State :=
  let c := s.px pk.src
  let ok := pkSeq pk = c.rx
  let n := if ok then (c.rx + 1) % 2 ^ 16 else c.rx
  let s := s.modPx pk.src fun c => { c with rx := n, heard := s.now }
  (ok, s.pxPacket pk.src 1 [pxWord 1 0, BitVec.ofNat 32 n])

/-- A numbered PROXY packet arrives for this device. -/
def State.pxArrive (op : Nat) (pk : PktIn) (s : State) : Bool × State :=
  let r := s.arrive 4 op pk
  if r.1 then r.2.pxAccept pk else r

/-- OPEN starts both directions of the sender's channel again; the proxy's own OPEN recovers the host interface (R416, R417). -/
def execProxyOpen (pk : PktIn) (s : State) : Res :=
  let r := s.arrive 4 0 pk
  if !r.1 then .next r.2
  else
    let s := r.2.bindProxy pk.src
    let bound := s.tor.boundTo == some pk.src
    let s := s.modPx pk.src fun _ => { heard := s.now }
    .next (if bound then s.proxyRecover else s)

/-- Send again the packets of a channel from place `a` up to place `b` of those unacknowledged. -/
def State.pxResend (id a b : Nat) (s : State) : State :=
  (((s.px id).unacked.take b).drop a).foldl (fun s p => s.pxPacket id p.op p.words) s

/-- PACK: packets before its PSEQ are acknowledged, and packets that waited for room leave (R416). -/
def execPack (pk : PktIn) (s : State) : Res :=
  let r := s.arrive 4 1 pk
  if !r.1 then .next r.2
  else
    let s := r.2.modPx pk.src fun c => { c with heard := r.2.now }
    let c := s.px pk.src
    let first := match c.unacked with | p :: _ => p.pseq | [] => c.tx
    let k := (payOf pk.words 1 % 2 ^ 16 + 2 ^ 16 - first) % 2 ^ 16
    if k = 0 || k > min 256 c.unacked.length then .next s
    else
      let s := s.modPx pk.src fun c => { c with unacked := c.unacked.drop k, adv := s.now, prog := s.now }
      .next (s.pxResend pk.src (256 - k) 256)

/-- No PACK advance for 262,144 ck: resend from the oldest (R416). -/
def execProxyResend (s : State) : Res :=
  .next ((s.tor.px.map (·.1)).foldl (fun s id =>
    let c := s.px id
    if c.unacked.isEmpty || s.now < c.adv + 262144 then s
    else (s.modPx id fun c => { c with adv := s.now }).pxResend id 0 256) s)

/-- No progress for 2^24 ck while packets are outstanding: the host interface is lost (R417). -/
def execProxyLost (s : State) : Res :=
  match s.tor.boundTo with
  | some id =>
    let c := s.px id
    if s.tor.pcieEn || s.host.proxyLost || c.unacked.isEmpty || s.now < c.prog + 2 ^ 24 then .next s
    else .next ({ s with host := { s.host with proxyLost := true } }.log .proxyLost 0)
  | none => .next s

/-- 2^31 ck with no packet from the proxy end the binding (R414). -/
def execProxyBindingTimeout (s : State) : Res :=
  match s.tor.boundTo with
  | some id => if s.now < (s.px id).heard + 2 ^ 31 then .next s else .next (s.modTor fun t => { t with boundTo := none })
  | none => .next s

/-- REG_RSP completes the window's request (R418). -/
def execRegRsp (pk : PktIn) (s : State) : Res :=
  let r := s.pxArrive 4 pk
  if !r.1 || !r.2.tor.pxBusy || r.2.tor.pxFor != pk.src then .next r.2
  else
    let st := payOf pk.words 2 % 4
    .next (r.2.modTor fun t => { t with pxBusy := false, pxResult := st,
                                        pxData := if t.pxRead && st = 0 then BitVec.ofNat 32 (payOf pk.words 1) else t.pxData })

/-- A 64-bit address in payload words 1 and 2. -/
def pkAddr (pk : PktIn) : Nat := payOf pk.words 1 + payOf pk.words 2 * 2 ^ 32

/-- The proxy performs a MEM_RD on its own port and returns MEM_DATA packets in offset order; `data` is what the read gave. -/
def execMemRd (pk : PktIn) (data : Fetch) (s : State) : Res :=
  let r := s.pxArrive 5 pk
  if !r.1 then .next r.2
  else
    let s := r.2
    let n := payOf pk.words 3 % 2 ^ 13
    let got : Option (List Byte) := match data with
      | .ok b => if s.host.linkUp then some b else none
      | _ => none
    let s := if s.host.linkUp then s.emit (.read (pkAddr pk) n) else s
    .next ((List.range ((n + 63) / 64)).foldl (fun s i =>
      let b := match got with | some b => ((b.take n).drop (64 * i)).take 64 | none => []
      s.pxSend pk.src 7 (BitVec.ofNat 32 (64 * i + if got.isNone then 2 ^ 16 else 0) :: BitVec.ofNat 32 (pkSeq pk) :: wordsOf b)) s)

/-- The proxy performs a MEM_WR as a posted write (R416). -/
def execMemWr (pk : PktIn) (s : State) : Res :=
  let r := s.pxArrive 6 pk
  if !r.1 then .next r.2
  else
    let n := min 64 (payOf pk.words 3 % 2 ^ 7)
    let b := ((List.range 16).flatMap fun i => leBytes 4 (payOf pk.words (4 + i))).take n
    .next (if r.2.host.linkUp then (r.2.emit (.write (pkAddr pk) b)).count 0x10D none n else r.2)

/-- The device can serve what its own functions must serve (R419): not in SAVE, not under a warm reset, its islands up. -/
def State.serves (s : State) : Bool := s.pwr.mode != .save && s.hoop.warmEnd.isNone && s.pwr.step ≥ 2

/-- MEM_DATA brings the data of a host read to the proxied device, which the command that uses them takes as its operand; a
device that cannot serve it discards it (R419). -/
def execMemData (pk : PktIn) (s : State) : Res :=
  let r := s.pxArrive 7 pk
  if !r.1 || !r.2.serves || r.2.tor.boundTo != some pk.src || bit (payOf pk.words 1) 16 then .next r.2
  else .next (r.2.count 0x10C none 64)

/-! ## The proxy window (R418, R426) -/

def Torus.tgtId (t : Torus) : Nat := bits t.tgt 31 26 + 64 * bits t.tgt 25 20

/-- Open the channel with a target that has none open. -/
def State.openChannel (id : Nat) (s : State) : State :=
  if (s.px id).opened then s
  else (s.modPx id fun c => { opened := true, heard := c.heard }).pxPacket id 0 [pxWord 0 0]

/-- Send a request of the window. -/
def State.pxRequest (rd : Bool) (s : State) : State :=
  let id := s.tor.tgtId
  let off : Word := BitVec.ofNat 32 (s.tor.tgt % 2 ^ 20)
  let s := (s.modTor fun t => { t with pxBusy := true, pxSince := s.now, pxFor := id, pxRead := rd }).openChannel id
  if rd then s.pxSend id 2 [off] else s.pxSend id 3 [off, s.tor.pxData]

/-- End the binding with the target: it is told by a REG_WR of its own RELEASE bit. -/
def State.pxRelease (s : State) : State :=
  let id := s.tor.tgtId
  let s := (s.openChannel id).pxSend id 3 [0x18028#32, 0x20000000#32]
  s.modPx id fun c => { c with opened := false }

/-- A write to TOR_PXY_CMD: a GO while BUSY, or after another GO of the same write, makes the whole write ignored (R418, R561). -/
def State.writePxyCmd (v : Nat) (s : State) : State :=
  let rd := bit v 31
  let wr := bit v 30
  if (rd && wr) || ((rd || wr) && s.tor.pxBusy) then s.writeIgnored
  else
    let s := if rd then s.pxRequest true else if wr then s.pxRequest false else s
    if bit v 29 then s.pxRelease else s

def execGoRd (value : Word) (s : State) : Res := .next (s.writePxyCmd (value ||| 0x80000000#32).toNat)
def execGoWr (value : Word) (s : State) : Res := .next (s.writePxyCmd (value ||| 0x40000000#32).toNat)
def execRelease (value : Word) (s : State) : Res := .next (s.writePxyCmd (value ||| 0x20000000#32).toNat)

/-- 2^24 ck without an answer (R418). -/
def execPxyTimeout (s : State) : Res :=
  if !s.tor.pxBusy || s.now < s.tor.pxSince + 2 ^ 24 then .next s
  else
    .next ((s.modTor fun t => { t with pxBusy := false, pxResult := 3 }).modPx s.tor.pxFor fun c => { c with opened := false })

/-! ## Time registers (R424) -/

/-- The key of a path's own latches (R559). -/
def Path.key : Path → Nat
  | .bar0 => 0
  | .bar2 => 1
  | .smbus => 2
  | .proxy => 3

/-- A read of TOR_TIME_LO: its value, and the latch it leaves. -/
def State.readTimeLo (path : Path) (s : State) : Nat × State :=
  (s.gt % 2 ^ 32, s.modTor fun t => { t with timeLatch := Sparse.insert t.timeLatch (Path.key path) (s.gt / 2 ^ 32 % 2 ^ 32) })

/-- A read of TOR_TIME_HI: the latched word, once. -/
def State.readTimeHi (path : Path) (s : State) : Nat × State :=
  match Sparse.find? s.tor.timeLatch (Path.key path) with
  | some h => (h, s.modTor fun t => { t with timeLatch := Sparse.erase t.timeLatch (Path.key path) })
  | none => (s.gt / 2 ^ 32 % 2 ^ 32, s)

def execTimeLoRead (path : Path) (low width : Nat) (s : State) : Res :=
  if path == .bar2 then .next s
  else if badAccess path low width then .next (s.badRead path)
  else
    let r := s.readTimeLo path
    .next (r.2.emit (.regData path r.1))

/-! ## VDDL (R372, R410, R427) -/

/-- The torus ports, the router, the proxy endpoints and global time are reset; the straps stay. -/
def Torus.cold (t : Torus) (now : Nat) : Torus :=
  { x := t.x, y := t.y, wM1 := t.wM1, hM1 := t.hM1, pcieEn := t.pcieEn, smbAddr := t.smbAddr, strapBad := t.strapBad,
    off := -((now : Int) * 1024) }

/-- VDDL falls below 0.84 V: the lanes and ports stop. -/
def execVddlLow (s : State) : Res :=
  let s := (s.lanesOff.modPwr fun p => { p with vddlUp := false }).modTor fun t => t.cold s.now
  let s := { s with lanes := { s.lanes with groups := s.lanes.groups.map fun (x : Nat × LaneGroup) => (x.1, x.2.enter .off s.now) } }
  let s := (List.range 4).foldl (fun s p => (s.condEnd 0x06 0x02 p).condEnd 0x06 0x03 p) s
  .next ((s.condEnd 0x06 0x06 0).condEnd 0x06 0x07 0)

/-- VDDL is ready again. -/
def execVddlReady (s : State) : Res :=
  if s.pwr.vddlUp || s.pwr.step < 4 then .next s
  else
    let s := s.modPwr fun p => { p with vddlUp := true }
    let s := if s.lanesRun then s.lanesDetect else s
    .next (s.portsDetect.checkCandidate)

end Sys2Proof.Machine
end

