-- ==== Sys2Proof/Machine/Counters.lean ====
section
/-! DEFINITION. Counters and check values (16): the windows, configuration and reads of the counters, and the jobs of the CRC
units. -/

namespace Sys2Proof.Machine

open Sys2Proof

/-! ## Configuration (R530 to R535) -/

/-- QUAL takes a value the event's row allows (R531). -/
def qualOk (ev q : Nat) : Bool :=
  if ev = 0x002 || (0x100 ≤ ev && ev ≤ 0x103) then q < 16
  else if ev = 0x003 then q < 2048
  else if ev = 0x009 then q < 4
  else if ev = 0x00D || ev = 0x010 || (0x107 ≤ ev && ev ≤ 0x109) then q < 8
  else if ev = 0x016 then 1 ≤ q && q ≤ 3
  else if 0x10E ≤ ev && ev ≤ 0x110 then true
  else if ev = 0x112 then q < 5 || (8 ≤ q && q < 16)
  else q = 0

/-- The event is defined, and a counter of this kind may select it (R531). -/
def eventOk (n ev : Nat) : Bool := ev ≤ 0x017 || (0x100 ≤ ev && ev ≤ 0x113 && n ≥ 1024)

/-- A configuration that R531 or R535 refuses. -/
def cfgRefused (n v : Nat) : Bool :=
  !eventOk n (cfgEvent v) || !qualOk (cfgEvent v) (cfgQual v) || (cfgChain v && (n % 2 = 0 || cfgWindow v))

def State.counter (s : State) (n : Nat) : Counter := Sparse.get {} s.cnt.tab n
def State.modCounter (n : Nat) (f : Counter → Counter) (s : State) : State :=
  { s with cnt := { s.cnt with tab := Sparse.modify {} s.cnt.tab n f } }

/-- A write to CNT_CFGn (R534): it waits for the next window boundary. A counter that the member lacks is no register (R1, R18). -/
def State.writeCntCfg (n v : Nat) (s : State) : State :=
  if !s.hasCounter n then s
  else if cfgRefused n v then s.writeIgnored
  else s.modCounter n fun c => { c with pend := some (bits v 31 16 * 2 ^ 16 + v % 2 ^ 12) }

/-- A write to CNT_WINDOW (R533). -/
def State.writeCntWindow (v : Nat) (s : State) : State :=
  let l := v % 2 ^ 31
  if l < 1600 || l > 2 ^ 30 then s.writeIgnored else { s with cnt := { s.cnt with lenPend := some l } }

def execCntCfgWrite (n : Nat) (value : Word) (s : State) : Res := .next (s.writeCntCfg n value.toNat)
def execCntWindowWrite (value : Word) (s : State) : Res := .next (s.writeCntWindow value.toNat)

/-- A counter at a window boundary (R534, R535). -/
def Counter.boundary (now : Nat) (c : Counter) : Counter :=
  let c := if cfgWindow c.cfg then { c with val := c.acc, acc := 0 } else c
  match c.pend with
  | none => c
  | some v =>
    let old := cfgEn c.cfg && cfgChain c.cfg
    let c := { c with cfg := v, pend := none, cfgAt := now, oldChain := old }
    if cfgZero v then { c with val := 0, acc := 0, ovf := false, held := 0 }
    else if cfgWindow v then { c with val := 0, acc := 0 }
    else { c with acc := 0 }

/-- A window boundary of global time (R533). -/
def execCounterWindow (s : State) : Res :=
  let t := s.lastGrid s.cnt.len
  if t ≤ s.cnt.lastBoundary then .next s
  else
    let k := s.cnt
    let tab := k.tab.map fun (x : Nat × Counter) => (x.1, x.2.boundary s.now)
    .next { s with cnt := { k with tab := tab.filter fun x => x.2 != {}, lastBoundary := t, len := k.lenPend.getD k.len, lenPend := none } }

/-! ## Reading (R538, R541) -/

/-- The latch of a path. -/
def Counter.latch (c : Counter) : Path → Option Latch
  | .bar0 => c.l0
  | .bar2 => c.l2
  | .smbus => c.ls
  | .proxy => c.lp

def Counter.setLatch (c : Counter) (p : Path) (l : Option Latch) : Counter :=
  match p with
  | .bar0 => { c with l0 := l }
  | .bar2 => { c with l2 := l }
  | .smbus => { c with ls := l }
  | .proxy => { c with lp := l }

/-- A path's latch closes; the held carries apply once no latch is open. -/
def State.closeLatch (p : Path) (n : Nat) (s : State) : State :=
  let s := s.modCounter n fun c => c.setLatch p none
  let c := s.counter n
  if c.latched || c.held = 0 then s
  else
    let r := s.cnt.put s.now n c.applyHeld
    ({ s with cnt := r.1 }).logOverflows r.2

/-- A read of CNT_LOn: its value, and the latch it opens. -/
def State.readCntLo (p : Path) (n : Nat) (s : State) : Nat × State :=
  let s := if ((s.counter n).latch p).isSome then s.closeLatch p n else s
  let v := (s.counter n).val
  (v % 2 ^ 32, s.modCounter n fun c => c.setLatch p (some { hi := v / 2 ^ 32, since := s.now }))

/-- A latch that has waited 16,000 ck for its read of CNT_HIn closes by itself (R538). -/
def State.expireLatch (p : Path) (n : Nat) (s : State) : State :=
  match (s.counter n).latch p with
  | some l => if s.now < l.since + 16000 then s else s.closeLatch p n
  | none => s

/-- A read of CNT_HIn: the latched bits, or the current ones. -/
def State.readCntHi (p : Path) (n : Nat) (s : State) : Nat × State :=
  let s := s.expireLatch p n
  match (s.counter n).latch p with
  | some l => (l.hi, s.closeLatch p n)
  | none => ((s.counter n).val / 2 ^ 32, s)

/-- Some slot of BAR2 shows the counter (R540). -/
def State.granted (s : State) (n : Nat) : Bool := s.cnt.grants.any fun x => bit x.2.toNat 31 && x.2.toNat % 32 == n / 64

/-- The path reaches counter `n`. -/
def State.reaches (s : State) (p : Path) (n : Nat) : Bool := s.hasCounter n && (p != .bar2 || s.granted n)

/-- A read of BAR2 of a width or alignment other than the two R541 gives returns 0 and is logged nowhere; `w8` admits the aligned
8-byte form. -/
def badUser (path : Path) (low width : Nat) (w8 : Bool) : Bool :=
  path == .bar2 && (low != 0 || !(width == 4 || (w8 && width == 8)))

/-- A read of CNT_LOn; through BAR2 an aligned 8-byte read returns the whole value of one ck (R541). -/
def execCounterLoRead (path : Path) (n low width : Nat) (s : State) : Res :=
  if badAccess path low width then .next (s.badRead path)
  else if badUser path low width true then .next (s.emit (.regData path 0))
  else if path == .bar2 && width == 8 && s.reaches path n then .next (s.emit (.regData path (s.counter n).val))
  else if s.reaches path n then
    let r := s.readCntLo path n
    .next (r.2.emit (.regData path r.1))
  else .next (if path == .bar2 then s.emit (.regData path 0) else s)

/-- A read of CNT_HIn. -/
def execCounterHiRead (path : Path) (n low width : Nat) (s : State) : Res :=
  if badAccess path low width then .next (s.badRead path)
  else if badUser path low width false then .next (s.emit (.regData path 0))
  else if s.reaches path n then
    let r := s.readCntHi path n
    .next (r.2.emit (.regData path r.1))
  else .next (if path == .bar2 then s.emit (.regData path 0) else s)

/-- A latch without a read of CNT_HIn for 16,000 ck closes by itself. -/
def execLatchTimeout (path : Path) (n : Nat) (s : State) : Res := .next (s.expireLatch path n)

/-! ## CRC units (R542 to R549) -/

/-- The configuration fields of CTL. -/
def Crc.config (v : Nat) (c : Crc) : Crc :=
  { c with src := bits v 28 27, refin := bit v 26, refout := bit v 25, cls := bits v 24 23, wM1 := v % 64 }

/-- A job starts: results and flags of the last one are cleared, and the register takes INIT (R542, R548). -/
def Crc.begin (c : Crc) : Crc :=
  { c with busy := true, owner := 1, done := false, poison := false, abandoned := false, mismatch := false, cause := 0,
           reg := c.init % 2 ^ c.width, issued := 0, fed := 0 }

/-- The unit stops. -/
def Crc.idle (c : Crc) : Crc := { c with busy := false, owner := 0 }

/-- The job completes with its result. -/
def Crc.complete (c : Crc) : Crc := { c.idle with done := true, res := c.result }

/-- CAUSE of a device range: the checks of R250 with LEN from 32 bytes to 512 MiB (R544). -/
def State.crcCause (s : State) (c : Crc) : Nat :=
  let ch := byteChan c.addr
  if c.len % 32 != 0 || c.len < 32 || c.len > 512 * 2 ^ 20 then 1
  else if rangeBad s.members c.addr c.len then 2
  else if rangePriv (s.chan ch).priv c.addr c.len then 3
  else if (s.chan ch).func == .retired then 4
  else 0

/-- START of unit `u`, whose configuration stands (R544). -/
def State.crcBegin (u : Nat) (s : State) : State :=
  let s := s.modCrc u Crc.begin
  let c := s.crc u
  if c.src = 0 then s
  else
    let k := s.crcCause c
    if k != 0 then s.modCrc u fun c => { c.idle with cause := k }
    else
      let other (f : Flight) : Bool := match f.reader with | .crc v _ => v != u | _ => true
      { s with chans := s.chans.map fun (x : Nat × Chan) => (x.1, { x.2 with flights := x.2.flights.filter other }) }

/-- FINISH ends a feed-register job. -/
def State.crcFinish (u : Nat) (s : State) : State :=
  if (s.crc u).busy && (s.crc u).src = 0 then s.modCrc u Crc.complete else s

/-- ABORT abandons the running software job. -/
def State.crcAbort (u : Nat) (s : State) : State :=
  if (s.crc u).busy then (s.modCrc u fun c => { c.idle with abandoned := true }).log .crcAbandoned 0 else s

/-- A write to CNT_CRCu_CTL (R543, R544, R548, R561). -/
def State.writeCrcCtl (u v : Nat) (s : State) : State :=
  let start := bit v 31
  let busy := (s.crc u).busy
  if u ≥ 3 then s.writeIgnored
  else if start && (busy || bits v 28 27 ≥ 2 || !s.daMode) then s.writeIgnored
  else
    let s := if busy then s else s.modCrc u fun c => c.config v
    let s := if start then s.crcBegin u else s
    let s := if bit v 30 then s.crcFinish u else s
    if bit v 29 then s.crcAbort u else s

/-- Bytes written to a feed register; a feed write without an SRC 0b00 job is ignored and logged (R544, R463). -/
def State.crcFeed (u : Nat) (l : List Byte) (s : State) : State :=
  if u < 3 && (s.crc u).busy && (s.crc u).src = 0 then s.modCrc u fun c => c.feedAll l else s.writeIgnored

def execCrcStart (unit : Nat) (value : Word) (s : State) : Res := .next (s.writeCrcCtl unit (value ||| 0x80000000#32).toNat)
def execCrcFinish (unit : Nat) (value : Word) (s : State) : Res := .next (s.writeCrcCtl unit (value ||| 0x40000000#32).toNat)
def execCrcAbort (unit : Nat) (value : Word) (s : State) : Res := .next (s.writeCrcCtl unit (value ||| 0x20000000#32).toNat)
def execFeed4 (unit : Nat) (value : Word) (s : State) : Res := .next (s.crcFeed unit (leBytes 4 value.toNat))
def execFeed1 (unit : Nat) (value : Word) (s : State) : Res := .next (s.crcFeed unit (leBytes 1 (value.toNat % 256)))

/-- A device-range job has taken its last byte (R544). -/
def execCrcJobDone (unit : Nat) (s : State) : Res :=
  let c := s.crc unit
  if unit < 3 && c.busy && c.src = 1 && c.fed ≥ c.len then .next (s.modCrc unit Crc.complete) else .next s

end Sys2Proof.Machine
end

