-- ==== Sys2Proof/Machine/Flags.lean ====
section
/-! DEFINITION. What the registers read (17 Register Reference): the word of every register of BAR0, by block. -/

namespace Sys2Proof.Machine

open Sys2Proof

/-- Bit `i` of a word. -/
def fbit (i : Nat) (b : Bool) : Nat := if b then 2 ^ i else 0

/-! ## Device block (R553) -/

/-- The boot read of step 2 has been made (R563). -/
def State.booted (s : State) : Bool := s.pwr.step ≥ 2 || s.pwr.mode != .bringUp

def memberCode (n : Nat) : Nat := if n = 8 then 0 else if n = 32 then 1 else if n = 64 then 2 else 3

def State.hoopVersion (s : State) : Option Nat := if s.hoop.bank = 0 then s.hoop.verA else s.hoop.verB

def State.serialWord (s : State) (i : Nat) : Nat := if s.booted then ((Sparse.find? s.serial i).getD 0).toNat else 0

def State.devReg (s : State) (off : Nat) : Nat :=
  let h := s.host
  if off = 0x00 then
    0x10000 + (if s.booted then fbit 31 s.idDefault + fbit 8 s.gradeE + memberCode s.members * 16 else 0)
  else if off = 0x04 then s.serialWord 1
  else if off = 0x08 then s.serialWord 2
  else if off = 0x14 then
    fbit 31 s.hoopVersion.isSome + s.hoop.bank * 2 ^ 30 + s.hoop.restarts * 2 ^ 16 +
      s.hoopVersion.getD Config.romVersion.toNat
  else if off = 0x18 then fbit 30 s.otp.stLive.isSome + s.otp.stResult * 2 ^ 28 + s.otp.stRetired
  else if off = 0x20 then h.dbBase % 2 ^ 32
  else if off = 0x24 then h.dbHiHeld
  else if off = 0x28 then fbit 31 h.pollEn + h.pollUs
  else if 0x40 ≤ off && off ≤ 0x5C then (Sparse.get 0 h.admData ((off - 0x40) / 4)).toNat
  else if off = 0x60 then fbit 30 h.admErr + fbit 28 (!h.admBusy.isEmpty) + h.admCtx
  else if off = 0x64 then h.admSeqLo.toNat
  else if off = 0x68 then h.admSeqHi
  else 0

/-! ## Fault block (R464, R473 to R476) -/

/-- Words 0 to 7 of an entry (R464). -/
def FltEntry.word (e : FltEntry) (n : Nat) : Nat :=
  match n with
  | 0 => (e.cls * 2 ^ 13 + e.blk * 2 ^ 8 + e.cause) * 2 ^ 16 + e.inst
  | 1 => e.count * 2 ^ 16 + 2 ^ 15 + fbit 14 e.ack + fbit 13 e.active + fbit 12 e.escalated + fbit 11 e.corrupt
  | 2 => e.time % 2 ^ 32
  | 3 => e.time / 2 ^ 32 % 2 ^ 32
  | 4 => e.d0
  | 5 => e.d1
  | 6 => e.d2
  | _ => e.lsn

/-- FLT_STATUS (R474). -/
def Faults.status (f : Faults) : Nat :=
  fbit 31 (!f.log.isEmpty) + (f.log.foldl (fun a x => max a x.2.cls) 0) * 2 ^ 28 + f.log.length * 2 ^ 20 +
    fbit 15 (f.lost != 0) + f.lostMax * 2 ^ 12 + fbit 11 f.alertExt + fbit 10 f.fatalExt + f.lost

def State.fltReg (s : State) (p : Path) (off : Nat) : Nat :=
  let f := s.flt
  if off = 0x4000 then f.alertMin * 2 + fbit 0 f.escalate
  else if off = 0x4004 then f.status
  else if off = 0x4008 then f.idx.get p
  else if off = 0x400C then f.result
  else if 0x4020 ≤ off && off ≤ 0x403C then
    match Sparse.find? f.log (f.idx.get p) with
    | some e => e.word ((off - 0x4020) / 4)
    | none => 0
  else 0

/-! ## Thermal and power (10, 13) -/

def State.thmReg (s : State) (p : Path) (off : Nat) : Nat :=
  let m := s.thm
  let td (i : Nat) : Nat := let d := Sparse.get {} m.td i; d.state * 2 ^ 29 + tempCode d.temp
  if off = 0x8000 then m.sensorIdx.get p
  else if off = 0x8004 then
    let i := m.sensorIdx.get p
    let x := s.sensor i
    if i ≥ 80 then 0
    else fbit 31 x.failed + fbit 30 x.subst + tempCode x.rate * 2 ^ 16 + tempCode x.temp
  else if off = 0x8008 then (List.range 16).foldl (fun a d => a + s.bandOf d / 2 * 4 ^ d) 0
  else if off = 0x800C then m.thrPend.getD (m.riseThr * 2 ^ 24 + m.riseWarn * 2 ^ 16 + m.thrStart)
  else if off = 0x8010 then
    m.rung * 2 ^ 27 + tempCode (((s.hottest false).map (·.1)).getD 0) * 2 ^ 12 + tempCode (((s.hottest true).map (·.1)).getD 0)
  else if off = 0x8014 then
    fbit 31 m.tripActive + m.tripKind * 2 ^ 28 + m.tripSensor * 2 ^ 21 + m.evWait.length * 2 ^ 16 + m.tripTemp
  else if off = 0x8020 then fbit 31 m.coolEn + m.pinFunc * 2 ^ 30 + m.lead * 2 ^ 16 + m.dMin
  else if off = 0x8024 then m.gain
  else if off = 0x8028 then m.pinState * 2 ^ 30 + fbit 29 m.pinBusy + m.duty * 2 ^ 16 + m.dFf
  else if off = 0x8030 then m.tdEn * 2 ^ 16 + m.tdRs * 2 ^ 8 + m.tdNf
  else if off = 0x8034 then td 0
  else if off = 0x8038 then td 1
  else 0

/-- PWR_MODE (R439). -/
def Power.modeWord (p : Power) : Nat :=
  let t (c : Option PwrChange) : Nat := match c with | some x => x.target.code | none => 0
  p.mode.code * 2 ^ 29 + fbit 28 p.change.isSome + t p.change * 2 ^ 25 + fbit 24 p.pendingReq.isSome + t p.pendingReq * 2 ^ 21 +
    p.superseded * 2 ^ 8

def State.pwrReg (s : State) (off : Nat) : Nat :=
  let p := s.pwr
  if off = 0x8100 then p.modeWord
  else if off = 0x8104 then fbit 31 p.avsFail + p.point * 2 ^ 29 + p.readback % 1024 * 2 ^ 16 + p.command % 1024
  else if off = 0x810C then fbit 3 p.wakeProxy + fbit 2 p.wakeSmb + fbit 1 p.wakeReg
  else if off = 0x8110 then p.wakeRec
  else if off = 0x8114 then
    fbit 31 p.armed + fbit 30 p.capOk + fbit 29 p.esrOk + fbit 28 p.restored + fbit 27 p.dramKept + p.trigger * 2 ^ 24 +
      p.saveResult * 2 ^ 22 + p.vsave
  else if off = 0x8118 then p.capUf * 2 ^ 16 + min p.esr 0xFF * 2 ^ 8
  else 0

/-! ## OTP and life-cycle (R512, R518) -/

def State.otpReg (s : State) (p : Path) (off : Nat) : Nat :=
  let o := s.otp
  if off = 0xC000 then o.ref.get p * 2 ^ 28 + o.word.get p
  else if off = 0xC004 then o.rdVal.get p
  else if off = 0xC008 then o.rdComp.get p
  else if off = 0xC00C then o.perm * 2 ^ 16 + o.sticky
  else if off = 0xC010 then fbit 30 o.burn.isSome + o.incomplete * 2 ^ 24 + o.lastWord * 2 ^ 13 + o.overrides.length
  else if off = 0xC100 then fbit 31 o.purged + o.lifecycle
  else 0

/-! ## Lanes (R382 to R388) -/

def GrpState.code : GrpState → Nat
  | .off => 0
  | .detect => 1
  | .clock => 2
  | .align => 3
  | .handshake => 4
  | .sync => 5
  | .up => 6
  | .failed => 7

def LaneState.code : LaneState → Nat
  | .dead => 0
  | .search => 1
  | .aligned => 2
  | .up => 3
  | .prbs => 4

def State.lnReg (s : State) (p : Path) (off : Nat) : Nat :=
  let i := s.lanes.idx.get p
  let (rx, g, l) := lnSel i
  let x := s.group rx g
  let y := x.lane l
  if off = 0x10000 then i
  else if off = 0x10004 then fbit 30 x.disable
  else if off = 0x10008 then
    x.state.code * 2 ^ 28 + fbit 27 x.unconfirmed + fbit 26 (s.laneInUse rx g) + x.liveSet g * 2 ^ 16 +
      if rx then 0 else x.partner * 2 ^ 8
  else if off = 0x10010 then if rx then x.minLead * 2 ^ 16 + x.maxLead * 2 ^ 8 + x.windowErr else 0
  else if l > 8 then 0
  else if off = 0x1000C then
    y.state.code * 2 ^ 29 + y.cause * 2 ^ 25 + fbit 24 y.inverted + y.number l * 2 ^ 20 + y.corr * 2 ^ 8 + y.errb
  else if off = 0x10014 then
    fbit 31 y.genEn + fbit 30 y.chkEn + y.pattern * 2 ^ 28 + fbit 26 y.sync + fbit 25 y.refused + y.injRate * 2 ^ 16
  else if off = 0x10018 then if rx then y.errs else 0
  else 0

/-! ## Torus (R420 to R426) -/

def PortState.code : PortState → Nat
  | .off => 0
  | .detect => 1
  | .clock => 2
  | .align => 3
  | .identity => 4
  | .up => 5
  | .miscabled => 6
  | .failed => 7

/-- TOR_TIME_STATUS (R423). -/
def State.timeStatus (s : State) : Nat :=
  let t := s.tor
  let conflict : Bool := match t.conflictAt with | some c => decide (s.now < c + 16 * 65536) | none => false
  fbit 31 t.final + fbit 30 t.isRoot + fbit 29 t.holdover + fbit 28 conflict + t.upstream.getD 0 * 2 ^ 26 + t.dist * 2 ^ 18 + t.rootId

def State.torReg (s : State) (p : Path) (off : Nat) : Nat :=
  let t := s.tor
  let q := s.port (t.idx.get p)
  if off = 0x18000 then
    if s.pwr.step = 0 && s.pwr.mode == .bringUp then 0
    else fbit 31 t.pcieEn + t.hM1 * 2 ^ 18 + t.wM1 * 2 ^ 12 + t.y * 2 ^ 6 + t.x
  else if off = 0x18004 then t.idx.get p
  else if off = 0x18008 then
    q.state.code * 2 ^ 29 + q.live * 2 ^ 27 + fbit 26 q.freq + q.nbrPort * 2 ^ 24 + q.nbrX * 2 ^ 18 + q.nbrY * 2 ^ 12
  else if off = 0x1800C then q.delay % 2 ^ 32
  else if off = 0x18010 then s.timeStatus
  else if off = 0x1801C then t.startLead * 2 ^ 16 + t.startGroup
  else if off = 0x18020 then t.tgt
  else if off = 0x18024 then t.pxData.toNat
  else if off = 0x18028 then fbit 2 t.pxBusy + t.pxResult
  else 0

/-! ## Counters and CRC units (R530, R533, R538, R540, R548, R549) -/

/-- A register of CRC unit `u`. -/
def State.crcReg (s : State) (u off : Nat) : Nat :=
  let c := s.crc u
  let half (n i : Nat) : Nat := n / 2 ^ (32 * i) % 2 ^ 32
  if off = 0x00 then c.src * 2 ^ 27 + fbit 26 c.refin + fbit 25 c.refout + c.cls * 2 ^ 23 + c.wM1
  else if off = 0x04 then
    fbit 31 c.busy + fbit 30 c.done + fbit 29 c.poison + fbit 28 c.abandoned + fbit 27 c.mismatch + c.owner * 2 ^ 25 + c.cause
  else if off = 0x08 || off = 0x0C then half c.poly ((off - 0x08) / 4)
  else if off = 0x10 || off = 0x14 then half c.init ((off - 0x10) / 4)
  else if off = 0x18 || off = 0x1C then half c.xor ((off - 0x18) / 4)
  else if off = 0x20 || off = 0x24 then half c.addr ((off - 0x20) / 4)
  else if off = 0x28 then c.len
  else if off = 0x34 || off = 0x38 then half c.res ((off - 0x34) / 4)
  else 0

def State.cntReg (s : State) (off : Nat) : Nat :=
  let o := off - 0x20000
  if o = 0 then s.cnt.lenPend.getD s.cnt.len
  else if 0x20 ≤ o && o < 0x40 then (Sparse.get 0 s.cnt.grants ((o - 0x20) / 4)).toNat
  else if 0x100 ≤ o && o < 0x200 then s.crcReg ((o - 0x100) / 0x40) (o % 0x40)
  else if 0x1000 ≤ o && o < 0x1000 + 16 * 1088 then
    let c := if s.hasCounter ((o - 0x1000) / 16) then s.counter ((o - 0x1000) / 16) else {}
    if o % 16 = 0 then c.pend.getD c.cfg
    else if o % 16 = 4 then fbit 31 c.ovf + fbit 30 c.pend.isSome + fbit 29 (c.held != 0)
    else 0
  else 0

/-! ## Channel block (R557) -/

def Func.code : Func → Nat
  | .idle => 0
  | .source => 1
  | .capture => 2
  | .direct => 3
  | .retired => 7

def ChState.code : ChState → Nat
  | .idle => 0
  | .starting => 1
  | .running => 2
  | .stopping => 3
  | .stopped => 4
  | .retired => 5

def CorrState.code : CorrState → Nat
  | .logged => 0
  | .remapped => 1
  | .refused => 2
  | .uncorrectable => 3

def EyeState.code : EyeState → Nat
  | .active => 0
  | .spare => 1
  | .darned => 2
  | .erased => 3
  | .spent => 4

/-- CH_REF_STATUS at ck `t` (R76). A region in self-refresh has no accounting, and owes nothing (R44). -/
def Chan.refStatus (c : Chan) (t : Nat) : Nat :=
  let owed : Int := if c.reg.inSr then 0 else max (-8) (min 8 (c.refr.maxOwed t))
  c.refr.breaks * 2 ^ 24 + c.refr.surplus * 2 ^ 16 + c.refr.band / 2 * 2 ^ 8 + fbit 7 (c.wardenActive t && c.live) +
    fbit 6 (!c.liveMakeup.isEmpty) + (owed % 32).toNat

/-- CH_CORR_An and CH_CORR_Bn (R287). -/
def Corr.wordA (x : Corr) : Nat := fbit 31 x.valid + fbit 30 x.priv + x.state.code * 2 ^ 28 + x.addr
def Corr.wordB (x : Corr) : Nat := x.posB * 2 ^ 24 + x.posA * 2 ^ 16 + x.stamp

/-- CH_EYE_CTL and CH_EYE_MARGIN of eyelet `i` (R329 to R331). -/
def Eyes.ctlWord (e : Eyes) (i : Nat) : Nat :=
  let x := e.eye i
  x.state.code * 2 ^ 29 + fbit 28 x.suspect + x.link * 2 ^ 21 + (if eyeHasTx i then x.tx * 2 ^ 7 else 0) + if e.hasRx i then x.rx else 0
def Eyes.marginWord (e : Eyes) (i : Nat) : Nat :=
  let x := e.eye i
  x.eyeW * 2 ^ 24 + (if e.hasRx i then x.trimUp * 2 ^ 18 else 0) + (if e.hasDown i then x.trimDown * 2 ^ 12 else 0) +
    if i < 80 then (e.monOf i).corr else 0

/-- The registers of a channel, of its state `c` at ck `t`, but those that read live contexts (R171, R269, R270). -/
def Chan.regWord (c : Chan) (t : Nat) (p : Path) (off : Nat) : Nat :=
  let e := c.ecc
  let k := c.cap
  let src := c.func == .source
  if off = 0x004 then
    c.stopCause * 2 ^ 16 + fbit 8 c.starved + fbit 7 c.held.isSome + c.state.code
  else if off = 0x008 then c.priv
  else if off = 0x00C then c.reg.autoCount * 2 ^ 16 + fbit 1 c.reg.autoEntry + fbit 0 c.reg.inSr
  else if off = 0x010 then c.refStatus t
  else if off = 0x014 then fbit 31 c.substEn + c.substTo * 2 ^ 16
  else if off = 0x018 then c.retLost.toNat
  else if off = 0x01C then fbit 30 c.bist.retest + c.bist.next * 2 ^ 24 + c.bist.rounds * 2 ^ 16 + c.bist.mismatches * 2 ^ 8
  else if off = 0x040 then c.src.panicCk * 2 ^ 8 + c.src.panicScope * 4 + fbit 0 c.src.coded
  else if off = 0x044 then
    if src then
      c.src.panics * 2 ^ 24 + c.src.lates * 2 ^ 16 + c.src.drops * 2 ^ 8 +
        (c.src.groups.foldl (fun a x => a + fbit x.1 x.2.resync) 0) else 0
  else if off = 0x048 then
    if src then fbit 31 c.src.panic + c.src.level * 2 ^ 16 + c.src.minCover else 0xFFFF
  else if off = 0x080 then fbit 31 k.fwdEn + fbit 30 k.fwdAccept + k.fwdCh * 2 ^ 16 + k.fwdY * 2 ^ 8 + k.fwdX
  else if off = 0x084 then k.rejects * 2 ^ 24 + k.unknowns * 2 ^ 16 + k.holdMax * 2 ^ 8 + k.rxq.length
  else if 0x0C0 ≤ off && off ≤ 0x0FC then ((Sparse.find? k.rej ((off - 0x0C0) / 4)).getD 0).toNat
  else if off = 0x100 then c.ana.spareCols * 2 ^ 16 + c.ana.spareRows * 2 ^ 8 + c.ana.widthM1
  else if off = 0x104 then c.ana.rowsM1
  else if off = 0x108 then c.ana.colThresh * 2 ^ 16 + c.ana.rowThresh
  else if off = 0x110 then c.ana.sumA % 2 ^ 32
  else if off = 0x114 then c.ana.sumA / 2 ^ 32
  else if off = 0x118 then c.ana.sumB % 2 ^ 32
  else if off = 0x11C then c.ana.sumB / 2 ^ 32
  else if off = 0x140 then c.da.init.toNat
  else if off = 0x144 then c.da.map0.toNat
  else if off = 0x148 then c.da.map1.toNat
  else if 0x160 ≤ off && off ≤ 0x16C then
    let x := c.da.class ((off - 0x160) / 4)
    x.rate * 2 ^ 16 + x.burst * 16 + x.outM1
  else if off = 0x180 then
    let f := c.eyes.erased.length
    min f 7 * 2 ^ 26 + corrPower f * 2 ^ 24 + e.poisoned * 2 ^ 16 + e.uncorr * 2 ^ 8 + e.recur
  else if off = 0x184 then fbit 31 e.auto + e.remap.length
  else if off = 0x188 then fbit 31 e.scrubEn + e.periodPend.getD e.period
  else if off = 0x18C then fbit 31 e.late + e.targeted.length * 2 ^ 24 + e.sweep
  else if 0x200 ≤ off && off ≤ 0x27C then
    match Sparse.find? e.corr ((off - 0x200) / 4) with | some x => x.wordA | none => 0
  else if 0x280 ≤ off && off ≤ 0x2FC then
    match Sparse.find? e.corr ((off - 0x280) / 4) with | some x => x.wordB | none => ({} : Corr).wordB
  else if off = 0x300 then c.eyes.eyeMin * 2 ^ 8 + fbit 0 c.eyes.fixed
  else if off = 0x304 then c.eyes.retrig
  else if off = 0x308 then
    c.eyes.calCount * 2 ^ 16 + (c.eyes.calTemp % 256).toNat * 2 ^ 8 + fbit 1 c.eyes.unsettled + fbit 0 c.eyes.calRun
  else if off = 0x30C then c.eyes.calTime
  else if off = 0x310 then c.eyes.idx.get p
  else if off = 0x314 then if c.eyes.idx.get p > 110 then 0 else c.eyes.ctlWord (c.eyes.idx.get p)
  else if off = 0x318 then if c.eyes.idx.get p > 110 then 0 else c.eyes.marginWord (c.eyes.idx.get p)
  else if off = 0x31C then
    c.eyes.darns * 2 ^ 16 + c.eyes.freeCount [80, 81, 82, 83] * 2 ^ 4 + c.eyes.freeCount [106, 107] * 2 ^ 2 +
      c.eyes.freeCount [110] * 2
  else 0

/-- STALLED and SHED of CH_DA_STATUS (R270). -/
def Chan.daFlags (c : Chan) : Nat :=
  (List.range 4).foldl (fun a k => a + fbit (4 + k) (c.da.class k).stalled + fbit k (c.da.class k).shed) 0

/-- What a read of channel `ch`'s block returns (R562): a RETIRED channel reads as it was, but for its live registers and its
path's own index; a stopped island reads as it was when it stopped. -/
def State.chReg (s : State) (p : Path) (ch off : Nat) : Nat :=
  let c := s.chan ch
  if ch ≥ s.members then 0
  else if off = 0x000 then (s.functionCtx ch).getD 0 * 2 ^ 16 + c.func.code
  else if c.func == .retired && off != 0x004 && off != 0x014 then
    let z := (Sparse.find? s.frozen ch).getD { chan := c }
    if off = 0x14C then z.level
    else if off = 0x150 then z.started * 2 ^ 16 + z.chan.daFlags
    else z.chan.regWord z.at_ p off
  else if off = 0x14C then s.daLevel ch
  else if off = 0x150 then s.daCount ch * 2 ^ 16 + c.daFlags
  else c.regWord (if s.pwr.mode == .retention then s.pwr.retEntry else s.now) p off

/-! ## A read (R18, R19, R552) -/

/-- The word of the register at an aligned offset, for a path. -/
def State.regVal (s : State) (p : Path) (off : Nat) : Nat :=
  if off < 0x4000 then s.devReg off
  else if off < 0x8000 then s.fltReg p off
  else if off < 0x8100 then s.thmReg p off
  else if off < 0xC000 then s.pwrReg off
  else if off < 0x10000 then s.otpReg p off
  else if off < 0x18000 then s.lnReg p off
  else if off < 0x20000 then s.torReg p off
  else if off < 0x40000 then s.cntReg off
  else if off < 0x80000 then s.chReg p ((off - 0x40000) / 0x800) (off % 0x800)
  else 0

/-- A read of a register, with its side effects (R424, R538). An unaligned one returns 0 and is logged (R19). -/
def State.readReg (p : Path) (off : Nat) (s : State) : Nat × State :=
  let n := (off - 0x21000) / 16
  if off % 4 != 0 then (0, s.log .regAccess 0)
  else if off = 0x18014 then s.readTimeLo p
  else if off = 0x18018 then s.readTimeHi p
  else if 0x21000 ≤ off && s.hasCounter n && off % 16 = 8 then s.readCntLo p n
  else if 0x21000 ≤ off && s.hasCounter n && off % 16 = 12 then s.readCntHi p n
  else (s.regVal p off, s)

end Sys2Proof.Machine
end

