-- ==== Sys2Proof/Machine/Regs.lean ====
section
/-! DEFINITION. Writes to the registers (17 Register Reference), the register accesses of the proxy channel, and the SMBus
port. -/

namespace Sys2Proof.Machine

open Sys2Proof

/-- The state a meaning answers: a register write has the effect of the command that names it. -/
def Res.after (s : State) (r : Res) : State := match r with | .next t => t | _ => s

/-! ## Device block (R137, R143, R144, R477, R527, R554) -/

/-- DEV_RST: both bits may act, WARM first (R561). -/
def State.writeRst (v : Nat) (s : State) : State :=
  let s := if bit v 31 then Res.after s (execDevRstWarm s) else s
  if bit v 30 then Res.after s (execDevRstHoop s) else s

/-- DEV_DB_POLL. -/
def State.writePoll (v : Nat) (s : State) : State :=
  let n := bits v 9 0
  if n = 0 || n > 1000 then s.writeIgnored else { s with host := { s.host with pollEn := bit v 31, pollUs := n } }

/-- DEV_ADMCFG_SEL: a commit, a disable, or only the choice of a context. -/
def State.writeAdmSel (w : Word) (s : State) : State :=
  if bit w.toNat 31 then Res.after s (execAdmcfgCommit w s)
  else if bit w.toNat 29 then Res.after s (execAdmcfgDisable w s)
  else { s with host := { s.host with admCtx := w.toNat % 16 } }

/-- A write to the device block. -/
def State.writeDev (off : Nat) (w : Word) (s : State) : State :=
  let v := w.toNat
  if off = 0x10 then s.writeRst v
  else if off = 0x18 then if bit v 31 then Res.after s (execSelftestGo [] [] s) else s
  else if off = 0x20 then Res.after s (execDbBaseWrite w s)
  else if off = 0x24 then if s.dbFixed then s.writeIgnored else { s with host := { s.host with dbHiHeld := v } }
  else if off = 0x28 then s.writePoll v
  else if 0x40 ≤ off && off ≤ 0x5C then { s with host := { s.host with admData := Sparse.set 0 s.host.admData ((off - 0x40) / 4) w } }
  else if off = 0x60 then s.writeAdmSel w
  else if off = 0x64 then { s with host := { s.host with admSeqLo := w } }
  else if off = 0x68 then { s with host := { s.host with admSeqHi := v % 2 ^ 16 } }
  else if off = 0x1000 then if bit v 31 then s.requestPage else Res.after s (execDbNudge (v % 2 ^ 12) s)
  else s

/-! ## Fault block (R473 to R476, R561) -/

/-- FLT_CTL: when ACK or CLEAR is refused RESULT says why and no bit of the write acts. -/
def Faults.writeCtl (f : Faults) (i v : Nat) : Faults :=
  let a := if bit v 31 then f.ackOne i else f
  let c := if bit v 30 then a.clearOne i else a
  if (bit v 31 && a.result != 0) then { f with result := a.result }
  else if (bit v 30 && c.result != 0) then { f with result := c.result }
  else
    let c := if bit v 29 then c.ackAll else c
    let c := if bit v 28 then c.clearAll else c
    if bit v 27 then c.clearLost else c

def State.writeFlt (p : Path) (off v : Nat) (s : State) : State :=
  if off = 0x4000 then
    if bits v 3 1 ≥ 5 then s.writeIgnored else s.modFlt fun f => { f with alertMin := bits v 3 1, escalate := bit v 0 }
  else if off = 0x4008 then s.modFlt fun f => { f with idx := f.idx.put p (v % 128) }
  else if off = 0x400C then s.modFlt fun f => f.writeCtl (f.idx.get p) v
  else s

/-! ## Thermal and power blocks (R339, R346, R352, R354, R442, R449) -/

/-- THM_CFG takes effect at the next evaluation. -/
def State.writeThmCfg (v : Nat) (s : State) : State :=
  let r := bits v 29 24
  let w := bits v 21 16
  let t := bits v 7 0
  if r < 1 || r > 32 || w < 1 || w > 32 || t < 80 || t > 100 then s.writeIgnored
  else s.modThm fun m => { m with thrPend := some (r * 2 ^ 24 + w * 2 ^ 16 + t) }

/-- THM_TD_CFG: an input that is disabled is OFF and raises nothing. -/
def State.writeTdCfg (v : Nat) (s : State) : State :=
  let en := bits v 17 16
  let s := s.modThm fun m => { m with tdEn := en, tdRs := bits v 15 8, tdNf := bits v 7 0 }
  (List.range 2).foldl (fun s i =>
    if bit en i then s
    else (s.modTd i fun d => { d with state := 0, fails := 0, goods := 0 }).condEnd 0x02 0x05 i) s

def State.writeThm (p : Path) (off : Nat) (w : Word) (s : State) : State :=
  let v := w.toNat
  if off = 0x8000 then s.modThm fun m => { m with sensorIdx := m.sensorIdx.put p (v % 128) }
  else if off = 0x800C then s.writeThmCfg v
  else if off = 0x8020 then Res.after s (execCoolCfgWrite w s)
  else if off = 0x8024 then s.modThm fun m => { m with gain := v }
  else if off = 0x8028 then s.modThm fun m => { m with pinBusy := m.pinBusy && !bit v 29 }
  else if off = 0x8030 then s.writeTdCfg v
  else s

/-- PWR_WAKE: with both bits set, one of them is in another mode than its own, and the whole write is ignored (R449, R561). -/
def State.writeWake (p : Path) (v : Nat) (s : State) : State :=
  if bit v 31 && bit v 30 then s.writeIgnored
  else if bit v 31 then Res.after s (execPwrWakeWake p s)
  else if bit v 30 then Res.after s (execPwrWakeSafeExit p s)
  else s

def State.writePwr (p : Path) (off v : Nat) (s : State) : State :=
  if off = 0x8104 then s.modPwr fun q => { q with avsFail := q.avsFail && !bit v 31 }
  else if off = 0x8108 then s.writeWake p v
  else if off = 0x810C then s.modPwr fun q => { q with wakeProxy := bit v 3, wakeSmb := bit v 2, wakeReg := bit v 1 }
  else s

/-! ## OTP, lanes and torus (R382, R383, R387, R421, R425, R426, R512) -/

/-- OTP_CTL: the choice of word and reference, then READ and AUDIT. -/
def State.writeOtpCtl (p : Path) (w : Word) (s : State) : State :=
  let v := w.toNat
  if bits v 29 28 = 3 then s.writeIgnored
  else
    let s := s.modOtp fun o => { o with word := o.word.put p (v % 2048), ref := o.ref.put p (bits v 29 28) }
    let s := if bit v 31 then Res.after s (execOtpRead p w s) else s
    if bit v 30 then Res.after s (execOtpAudit p [] [] s) else s

def State.writeOtp (p : Path) (off : Nat) (w : Word) (s : State) : State :=
  if off = 0xC000 then s.writeOtpCtl p w
  else if off = 0xC00C then s.modOtp fun o => { o with sticky := o.sticky ||| w.toNat % 64 }
  else s

def State.writeLn (p : Path) (off : Nat) (w : Word) (s : State) : State :=
  if off = 0x10000 then { s with lanes := { s.lanes with idx := s.lanes.idx.put p (w.toNat % 256) } }
  else if off = 0x10004 then Res.after s (execLaneRetrain p w s)
  else if off = 0x10014 then s.prbsCtl p w
  else s

/-- TOR_PXY_CMD. The RELEASE that ends this device's own binding comes from its proxy. -/
def State.pxyCmd (p : Path) (v : Nat) (s : State) : State :=
  if p == .proxy && bits v 31 29 = 1 then s.modTor fun t => { t with boundTo := none } else s.writePxyCmd v

def State.writeTor (p : Path) (off : Nat) (w : Word) (s : State) : State :=
  let v := w.toNat
  if off = 0x18004 then s.modTor fun t => { t with idx := t.idx.put p (v % 4) }
  else if off = 0x1801C then s.writeStart v
  else if off = 0x18020 then s.modTor fun t => { t with tgt := v / 4 * 4 }
  else if off = 0x18024 then s.modTor fun t => { t with pxData := w }
  else if off = 0x18028 then s.pxyCmd p v
  else s

/-! ## Counters and CRC units (R533, R538, R540, R548, R549) -/

/-- CNT_GRANTg. -/
def State.writeGrant (g v : Nat) (s : State) : State :=
  if v % 32 > 16 then s.writeIgnored
  else
    let w : Word := BitVec.ofNat 32 (fbit 31 (bit v 31) + v % 32)
    { s with cnt := { s.cnt with grants := Sparse.set 0 s.cnt.grants g w } }

/-- One half of a 64-bit register takes a word. -/
def putHalf (old i v : Nat) : Nat := if i = 0 then old / 2 ^ 32 * 2 ^ 32 + v else old % 2 ^ 32 + v * 2 ^ 32

/-- The configuration registers of a unit besides CTL. -/
def Crc.putReg (off v : Nat) (c : Crc) : Crc :=
  if off = 0x08 || off = 0x0C then { c with poly := putHalf c.poly ((off - 0x08) / 4) v }
  else if off = 0x10 || off = 0x14 then { c with init := putHalf c.init ((off - 0x10) / 4) v }
  else if off = 0x18 || off = 0x1C then { c with xor := putHalf c.xor ((off - 0x18) / 4) v }
  else if off = 0x20 || off = 0x24 then { c with addr := putHalf c.addr ((off - 0x20) / 4) v }
  else if off = 0x28 then { c with len := v }
  else c

/-- A register of CRC unit `u`. -/
def State.writeCrc (u off v : Nat) (s : State) : State :=
  if off = 0x00 then s.writeCrcCtl u v
  else if off = 0x04 then s.modCrc u fun c => { c with done := c.done && !bit v 30, abandoned := c.abandoned && !bit v 28 }
  else if off = 0x2C then s.crcFeed u (leBytes 4 v)
  else if off = 0x30 then s.crcFeed u (leBytes 1 (v % 256))
  else if (s.crc u).busy then s
  else s.modCrc u (Crc.putReg off v)

def State.writeCnt (off v : Nat) (s : State) : State :=
  let o := off - 0x20000
  if o = 0 then s.writeCntWindow v
  else if 0x20 ≤ o && o < 0x40 then s.writeGrant ((o - 0x20) / 4) v
  else if 0x100 ≤ o && o < 0x200 then s.writeCrc ((o - 0x100) / 0x40) (o % 0x40) v
  else if 0x1000 ≤ o && o < 0x1000 + 16 * 1088 then
    let n := (o - 0x1000) / 16
    if o % 16 = 0 then s.writeCntCfg n v
    else if o % 16 = 4 && bit v 31 && s.hasCounter n then s.modCounter n fun c => { c with ovf := false }
    else s
  else s

/-! ## Channel block (R30, R31, R258 to R261, R490, R557, R562) -/

/-- The bobbin is IDLE or STOPPED, where most of its settings may change (R31). -/
def Chan.resting (c : Chan) : Bool := c.state == .idle || c.state == .stopped

/-- A setting that changes only while the bobbin rests. -/
def State.setRest (ch : Nat) (f : Chan → Chan) (s : State) : State :=
  if (s.chan ch).resting then s.modChan ch f else s.writeIgnored

/-- The placed section has FETCH slots, which read the privileged region (R31). -/
def Chan.fetches (c : Chan) : Bool :=
  match c.seq.sect with
  | some x => x.slots.any fun w => slotOp w = opFETCH
  | none => false

/-- CH_PRIV: the rows that a larger region gains are written with zero data first (R258). -/
def State.writePriv (ch v : Nat) (s : State) : State :=
  let n := v % 8
  let old := (s.chan ch).priv
  if n = old then s
  else if n > 4 || !(s.chan ch).resting || (s.chan ch).fetches then s.writeIgnored
  else
    let s := if privBase n < privBase old then s.zeroCells ch (privBase n) (privBase old - privBase n) else s
    s.modChan ch fun c => { c with priv := n }

/-- A lane section in use assigns a beat to the channel. -/
def State.assigned (s : State) (ch : Nat) : Bool :=
  s.lanes.groups.any fun x =>
    match x.2.sect with
    | some l => l.table.any (fun b => b == ch) && s.laneInUse (8 ≤ x.1) (x.1 % 8)
    | none => false

/-- CH_SUBST (R490). -/
def State.writeSubst (ch v : Nat) (s : State) : State :=
  let c := s.chan ch
  let t := bits v 22 16
  let ok := (c.func == .retired || c.state == .stopped) && t != ch && t < s.members && (s.chan t).resting && !s.assigned t
  let drop := bit v 31 || !c.substEn || (s.chan c.substTo).resting
  if ok && drop then s.modChan ch fun c => { c with substEn := bit v 31, substTo := t } else s.writeIgnored

/-- CH_DA_REGk: the bucket fills to BURST (R261). -/
def State.writeDaReg (ch k v : Nat) (s : State) : State :=
  let b := bits v 15 4
  if b = 0 then s.writeIgnored
  else s.modChan ch fun c => { c with da := c.da.modClass k fun x =>
    { x with rate := bits v 31 16, burst := b, outM1 := v % 16, tokens := b * 2 ^ 16, lastGain := s.now } }

/-- CH_SRC_CFG (R183). -/
def State.writeSrcCfg (ch v : Nat) (s : State) : State :=
  if bits v 3 2 = 3 then s.writeIgnored
  else s.setRest ch fun c => { c with src := { c.src with panicCk := bits v 23 8, panicScope := bits v 3 2, coded := bit v 0 } }

/-- CH_CAP_FWD (R220). -/
def Chan.putFwd (v : Nat) (c : Chan) : Chan :=
  { c with cap := { c.cap with fwdEn := bit v 31, fwdAccept := bit v 30, fwdCh := bits v 22 16, fwdY := bits v 13 8, fwdX := v % 64 } }

/-- CH_ANA_CFG, CH_ANA_ROWS and CH_ANA_THRESH (R234). -/
def State.writeAna (ch off v : Nat) (s : State) : State :=
  let a := (s.chan ch).ana
  let n :=
    if off = 0x100 then { a with spareCols := bits v 23 16, spareRows := bits v 15 8, widthM1 := v % 64 }
    else if off = 0x104 then { a with rowsM1 := v % 2 ^ 24 }
    else { a with colThresh := bits v 31 16, rowThresh := v % 2 ^ 16 }
  if (n.rowsM1 + 1) * (n.widthM1 + 1) > 2 ^ 24 then s.writeIgnored else s.setRest ch fun c => { c with ana := n }

/-- CH_SCRUB_CFG: EN at once, PERIOD at the next boundary (R293). -/
def State.writeScrub (ch v : Nat) (s : State) : State :=
  if v % 2 ^ 16 < 64 then s.writeIgnored
  else s.modChan ch fun c => { c with ecc := { c.ecc with scrubEn := bit v 31, periodPend := some (v % 2 ^ 16) } }

/-- CH_TRAIN_MODE (R309). -/
def State.writeTrain (ch v : Nat) (s : State) : State :=
  let m := bits v 15 8
  if v % 4 ≥ 2 || m = 0 || m > 50 then s.writeIgnored
  else s.setRest ch fun c => { c with eyes := { c.eyes with eyeMin := m, fixed := bit v 0 } }

/-- The delays of an eyelet: a delay it does not have is not written (R330). -/
def Eyes.putDelays (e : Eyes) (i v : Nat) : Eyes :=
  e.modEye i fun x => { x with tx := if eyeHasTx i then bits v 13 7 else x.tx, rx := if e.hasRx i then v % 128 else x.rx }

/-- CH_EYE_CTL of the eyelet a path has selected (R309, R329, R330). -/
def State.writeEye (p : Path) (ch v : Nat) (s : State) : State :=
  let i := (s.chan ch).eyes.idx.get p
  if i > 110 then s.writeIgnored else s.setRest ch fun c => { c with eyes := c.eyes.putDelays i v }

/-- The W1C bits of a channel (R46, R226, R287, R298). -/
def Chan.clearBits (off v : Nat) (c : Chan) : Chan :=
  let valid : Word := 0x7FFFFFFF#32
  if off = 0x00C then if bit v 1 then { c with reg := { c.reg with autoEntry := false } } else c
  else if 0x0C0 ≤ off && off ≤ 0x0FC then
    let i := (off - 0x0C0) / 4
    let clr (x : Nat × Word) : Nat × Word := if x.1 = i then (x.1, x.2 &&& valid) else x
    if bit v 31 then { c with cap := { c.cap with rej := c.cap.rej.map clr } } else c
  else if off = 0x18C then if bit v 31 then { c with ecc := { c.ecc with late := false } } else c
  else if 0x200 ≤ off && off ≤ 0x27C then
    let i := (off - 0x200) / 4
    let clr (x : Nat × Corr) : Nat × Corr := if x.1 = i then (x.1, { x.2 with valid := false }) else x
    if bit v 31 then { c with ecc := { c.ecc with corr := c.ecc.corr.map clr } } else c
  else c

/-- The register has W1C fields. -/
def chClears (off : Nat) : Bool :=
  off = 0x00C || (0x0C0 ≤ off && off ≤ 0x0FC) || off = 0x18C || (0x200 ≤ off && off ≤ 0x27C)

/-- The offset in a channel block holds a register (R557). -/
def chListed (off : Nat) : Bool :=
  off ≤ 0x01C || (0x040 ≤ off && off ≤ 0x048) || off = 0x080 || off = 0x084 || (0x0C0 ≤ off && off ≤ 0x0FC) ||
    (0x100 ≤ off && off ≤ 0x108) || (0x110 ≤ off && off ≤ 0x11C) || (0x140 ≤ off && off ≤ 0x150) ||
    (0x160 ≤ off && off ≤ 0x16C) || (0x180 ≤ off && off ≤ 0x18C) || (0x200 ≤ off && off ≤ 0x2FC) || (0x300 ≤ off && off ≤ 0x31C)

/-- A write to a channel that is neither RETIRED nor on a stopped island. -/
def State.writeLive (p : Path) (ch off : Nat) (w : Word) (s : State) : State :=
  let v := w.toNat
  if off = 0x008 then s.writePriv ch v
  else if off = 0x01C then if bit v 31 then Res.after s (execBistForce p ch s) else s
  else if off = 0x040 then s.writeSrcCfg ch v
  else if off = 0x080 then s.setRest ch (Chan.putFwd v)
  else if off = 0x100 || off = 0x104 || off = 0x108 then s.writeAna ch off v
  else if off = 0x144 then s.modChan ch fun c => { c with da := { c.da with map0 := w } }
  else if off = 0x148 then s.modChan ch fun c => { c with da := { c.da with map1 := w } }
  else if 0x160 ≤ off && off ≤ 0x16C then s.writeDaReg ch ((off - 0x160) / 4) v
  else if off = 0x184 then Res.after s (execRemapClear p ch w s)
  else if off = 0x188 then s.writeScrub ch v
  else if off = 0x300 then s.writeTrain ch v
  else if off = 0x304 then Res.after s (execCalForce p ch w s)
  else if off = 0x310 then s.modEyes ch fun e => { e with idx := e.idx.put p (v % 128) }
  else if off = 0x314 then s.writeEye p ch v
  else s.modChan ch (Chan.clearBits off v)

/-- A write to a channel's block (R562). -/
def State.writeCh (p : Path) (ch off : Nat) (w : Word) (s : State) : State :=
  if ch ≥ s.members || !chListed off then s
  else if off = 0x014 then s.writeSubst ch w.toNat
  else if s.pwr.mode == .retention then s.writeIgnored
  else if (s.chan ch).func == .retired then
    if chClears off then
      { s with frozen := Sparse.modify {} s.frozen ch fun z => { z with chan := z.chan.clearBits off w.toNat } }
    else s.writeIgnored
  else s.writeLive p ch off w

def execChPrivWrite (path : Path) (ch : Nat) (value : Word) (s : State) : Res :=
  .next (s.chanWrite path ch fun s => s.writePriv ch value.toNat)

/-- CH_SUBST is written in every state of its channel (R562). -/
def execChSubstWrite (path : Path) (ch : Nat) (value : Word) (s : State) : Res :=
  if path == .bar2 || ch ≥ s.members then .next s else .next (s.writeSubst ch value.toNat)

def execChDaRegWrite (path : Path) (ch cls : Nat) (value : Word) (s : State) : Res :=
  if cls ≥ 4 then .next s else .next (s.chanWrite path ch fun s => s.writeDaReg ch cls value.toNat)

/-! ## A write (R17 to R19, R552, R559 to R561) -/

/-- A write of the register at an aligned offset. Reserved bits, RO fields and offsets without a register take nothing. -/
def State.writeReg (p : Path) (off : Nat) (w : Word) (s : State) : State :=
  if off % 4 != 0 then s.log .regAccess 0
  else if off < 0x4000 then s.writeDev off w
  else if off < 0x8000 then s.writeFlt p off w.toNat
  else if off < 0x8100 then s.writeThm p off w
  else if off < 0xC000 then s.writePwr p off w.toNat
  else if off < 0x10000 then s.writeOtp p off w
  else if off < 0x18000 then s.writeLn p off w
  else if off < 0x20000 then s.writeTor p off w
  else if off < 0x40000 then s.writeCnt off w.toNat
  else if off < 0x80000 then s.writeCh p ((off - 0x40000) / 0x800) (off % 0x800) w
  else s

/-- The selvedge set (R569). -/
def selvedgeSet (off : Nat) : Bool :=
  off = 0x00 || off = 0x10 || (0x4000 ≤ off && off ≤ 0x400C) || (0x4020 ≤ off && off ≤ 0x403C) || off = 0x8000 || off = 0x8004 ||
    off = 0x8008 || off = 0x8010 || off = 0x8014 || off = 0x8100 || off = 0x8108 || off = 0x8114

/-- The step of R428 after which the island of a register has its supplies (R427): the fault, thermal, power and OTP blocks run
from VAUX. -/
def poweredAt (off : Nat) : Nat := if 0x4000 ≤ off && off < 0x10000 then 1 else 4

/-- The island that holds the register answers (R410, R427, R454, R478): none in SAVE or without its supplies, and under a warm
reset those that run through it. -/
def State.answers (s : State) (off : Nat) : Bool :=
  off ≥ 0x80000 || (s.pwr.mode != .save && s.pwr.step ≥ poweredAt off && (s.hoop.warmEnd.isNone || (0x4000 ≤ off && off < 0x20000)))

/-- The write of a register that has no row of its own (R17): its fields change by their access types. A write of another width or
alignment is discarded and logged (R19); writes over BAR2 are discarded. -/
def execRegisterWrite (path : Path) (offset width : Nat) (value : Word) (s : State) : Res :=
  if path == .bar2 || (path == .bar0 && !s.tor.pcieEn) || !s.answers offset then .next s
  else if width != 4 then .next (s.log .regAccess 0)
  else .next (s.writeReg path offset value)

/-! ## Proxied accesses (R414, R415, R419) -/

/-- A numbered request arrives from a proxy, which binds an unbound device: whether this device is to serve it. -/
def State.pxServe (op : Nat) (pk : PktIn) (s : State) : Bool × State :=
  let r := s.pxArrive op pk
  if !r.1 then r
  else
    let s := r.2.bindProxy pk.src
    if s.tor.boundTo == some pk.src then (true, s) else (false, s.pxSend pk.src 4 [0#32, 1#32])

/-- The BAR0 offset a request names. -/
def pkOffset (pk : PktIn) : Nat := payOf pk.words 1 % 2 ^ 20

/-- REG_RD reads a register and returns REG_RSP. -/
def execRegRd (pk : PktIn) (s : State) : Res :=
  let r := s.pxServe 2 pk
  if !r.1 then .next r.2
  else if !r.2.answers (pkOffset pk) then .next (r.2.pxSend pk.src 4 [0#32, 2#32])
  else
    let x := r.2.readReg .proxy (pkOffset pk)
    .next (x.2.pxSend pk.src 4 [BitVec.ofNat 32 x.1, 0#32])

/-- REG_WR writes a register and returns REG_RSP. -/
def execRegWr (pk : PktIn) (s : State) : Res :=
  let r := s.pxServe 3 pk
  if !r.1 then .next r.2
  else if !r.2.answers (pkOffset pk) then .next (r.2.pxSend pk.src 4 [0#32, 2#32])
  else .next ((r.2.writeReg .proxy (pkOffset pk) (BitVec.ofNat 32 (payOf pk.words 2))).pxSend pk.src 4 [0#32, 0#32])

/-! ## The SMBus port (R567 to R569) -/

def State.modSmb (f : Smbus → Smbus) (s : State) : State := { s with smb := f s.smb }

/-- The previous operation of the port reports BUSY. -/
def Smbus.busy (b : Smbus) : Bool := b.status = 1 || b.wstatus = 1

/-- The offset and the status of a block write of `n` bytes before it is performed: 0, PEC_ERROR or BAD_OFFSET. -/
def smbCheck (n : Nat) (bytes : List Byte) (pecOk : Bool) : Nat × Nat :=
  let off := leAt bytes 0 3
  (off, if !pecOk then 3 else if bytes.length != n || off % 4 != 0 || off ≥ 2 ^ 20 then 2 else 0)

/-- SET_ADDR: one register read at the stop condition; it waits where the island does not answer. -/
def execSetAddr (bytes : List Byte) (pecOk : Bool) (s : State) : Res :=
  let (off, st) := smbCheck 3 bytes pecOk
  if s.smb.busy then .next s
  else if st != 0 then .next (s.modSmb fun b => { b with status := st, data := [] })
  else if selvedgeSet off || s.answers off then
    let x := s.readReg .smbus off
    .next (x.2.modSmb fun b => { b with status := 0, data := leBytes 4 x.1 })
  else .next (s.modSmb fun b => { b with status := 1, data := [] })

/-- The PEC of a transaction's bytes (R567). PRESUMED (log 165): the CRC-8 of SMBus, x^8 + x^2 + x + 1 from 0, over all its bytes. -/
def smbPec (l : List Byte) : Byte :=
  BitVec.ofNat 8 (l.foldl (fun r x => (List.range 8).reverse.foldl (fun r i => crcBit 8 7 r (x.getLsbD i)) r) 0)

/-- What the device returns to a read of command `cmd` (R568), with the PEC when the master reads one byte more (R567). -/
def State.smbReply (s : State) (cmd : Nat) (l : List Byte) (pec : Bool) : List Byte :=
  let a := 2 * (0x58 + s.tor.smbAddr)
  if pec then l ++ [smbPec ([BitVec.ofNat 8 a, BitVec.ofNat 8 cmd, BitVec.ofNat 8 (a + 1)] ++ l)] else l

/-- READ returns its count, the status byte and the data; where the status says nothing of the data they are free. -/
def execSmbusRead (pec : Bool) (s : State) : Res :=
  let b := s.smb
  let d := if b.data = [] then (List.range 4).map fun i => Config.freeByte (s.freeNo + i) else b.data
  let s := if b.data = [] then { s with freeNo := s.freeNo + 4 } else s
  .next (s.emit (.smbus (s.smbReply 0x11 (5 :: BitVec.ofNat 8 b.status :: d) pec)))

/-- WRITE is performed at its stop condition. -/
def execSmbusWrite (bytes : List Byte) (pecOk : Bool) (s : State) : Res :=
  let (off, st) := smbCheck 7 bytes pecOk
  if s.smb.busy then .next s
  else if st != 0 then .next (s.modSmb fun b => { b with wstatus := st })
  else if selvedgeSet off || s.answers off then
    .next ((s.writeReg .smbus off (BitVec.ofNat 32 (leAt bytes 3 4))).modSmb fun b => { b with wstatus := 0 })
  else .next (s.modSmb fun b => { b with wstatus := 1 })

/-- WSTATUS returns the status of the last WRITE. -/
def execWstatus (pec : Bool) (s : State) : Res := .next (s.emit (.smbus (s.smbReply 0x13 [BitVec.ofNat 8 s.smb.wstatus] pec)))

/-- An access whose island has not answered for 100 µs (R560): a read over BAR0 returns all ones, a write is discarded, and an
operation of the SMBus port is WEDGED. -/
def execRegAccessTimeout (path : Path) (isRead : Bool) (s : State) : Res :=
  let waits : Bool := if isRead then s.smb.status = 1 else s.smb.wstatus = 1
  if path == .bar2 || (path == .smbus && !waits) then .next s
  else
    let s := s.log .regAccess 0
    let s := if path == .bar0 && isRead then s.emit (.regData .bar0 0xFFFFFFFF) else s
    let wedge (b : Smbus) : Smbus :=
      if isRead then { b with status := 4, data := leBytes 4 0 } else { b with wstatus := 4 }
    .next (if path == .smbus then s.modSmb wedge else s)

end Sys2Proof.Machine
end

