-- ==== Sys2Proof/Machine/Window.lean ====
section
/-! DEFINITION. Maintenance windows (R77, R78), the idle schedule (R246) and the arrival of read data (R278). -/

namespace Sys2Proof.Machine

open Sys2Proof

/-! ## Maintenance windows -/

/-- At least floor(L / 96) scrub operations of a window from ck `t` on (R296), every bank being closed. -/
def State.scrubMany (ch t : Nat) (noise : List Codeword) : Nat → State → State
  | 0, s => s
  | n + 1, s =>
    let i := (s.chan ch).ecc.scrubbed
    let r := s.scrubOp ch (t + 96 * i) (fun _ => true) (fun _ => true) ((noise.drop (4 * i)).take 4)
    match r.1 with
    | none => r.2
    | some read =>
      State.scrubMany ch t noise n (r.2.modChan ch fun c =>
        let c := if read then c.takeFloor (t + 96 * i) else c
        { c with ecc := { c.ecc with scrubbed := i + 1 } })

/-- Do one kind of work in a window of `l` ck from ck `t` on (R311, R314, R520, R296). -/
def State.doWork (ch k t l : Nat) (w : MaintIn) (s : State) : State :=
  match k with
  | 0 => s.calSteps ch (l / 128) w.cal
  | 1 => s.bistSlices ch (l / 32768) w.sigs
  | 2 => s.trainStep ch w.train
  | _ => State.scrubMany ch t w.noise (l / 96) (s.modChan ch fun c => { c with ecc := { c.ecc with scrubbed := 0 } })

/-- In panic, make-up takes a window of opcode `op` (R194). -/
def Chan.panicTakes (c : Chan) (op : Nat) : Bool :=
  c.src.panic && !c.liveMakeup.isEmpty &&
    ((op = opSCRUB && (c.src.panicScope = 1 || c.src.panicScope = 2)) ||
     ((op = opTRAIN || op = opBIST) && c.src.panicScope = 2))

/-- A window of `l` ck, of which `m` are left, gives them to the pending work of the highest rank that fits, unless make-up takes them;
work that fits the window and loses is deferred (R78, R194). -/
def State.chooseWork (ch l m : Nat) (take : Bool) (s : State) : State :=
  let p := s.pendingWork ch
  let k := if take then none else p.find? fun k => m ≥ kindMin k
  let losers := p.filter fun j => l ≥ kindMin j && k != some j
  (losers.foldl (fun s j => s.defer ch j) s).modSeq ch fun q => { q with winWork := k.map fun k => (k, m) }

/-- The first slot of a maintenance window (R69, R78, R194, R311, R315, R522): TRAIN and BIST work becomes pending, the temperature is
sampled in a window that fits CAL, the warden takes the first 640 ck of a refresh-capable run, and the rest goes to the pending work. -/
def State.windowStart (ch : Nat) (s : State) : State :=
  let q := (s.chan ch).seq
  let t := q.slotCk
  let op := slotOp (q.wordAt q.pos)
  let l := q.runFrom 16 runCap (some q.pos)
  let own := q.runOf op runCap (some q.pos)
  let s := s.modChan ch fun c => { c with maint := { c.maint with train := c.maint.train || op = opTRAIN,
                                                                  bist := c.maint.bist || op = opBIST } }
  let s := if l ≥ 128 then s.calTrigger ch else s
  let c := s.chan ch
  let ward := op = opSCRUB && own ≥ 640 && c.wardenActive t && c.refr.maxOwed t ≥ 1
  let m := if ward then l - 640 else l
  let take := c.panicTakes op && openCap m > 0
  let s := if ward then s.wardenRefresh ch t else s
  (s.modSeq ch fun q => { q with runLen := m, runWarden := ward, winMake := take }).chooseWork ch l m take

/-- The next slot belongs to no maintenance window: this one ends the window. -/
def Seq.windowEnds (q : Seq) : Bool := q.runFrom 16 2 (some q.pos) < 2

/-- The last slot of a maintenance window: the work that it served is done. -/
def State.windowEnd (ch : Nat) (w : MaintIn) (s : State) : State :=
  let q := (s.chan ch).seq
  match q.winWork with
  | some (k, m) => (s.doWork ch k (q.slotCk + 1 - m) m w).modSeq ch fun q => { q with winWork := none }
  | none => s

/-- What a slot of a maintenance window does: make-up or the window's work. -/
def State.windowSlot (ch : Nat) (w : MaintIn) (s : State) : State :=
  let s := if (s.chan ch).seq.runOff = 0 then s.windowStart ch else s
  let q := (s.chan ch).seq
  let off := q.runOff - (if q.runWarden then 640 else 0)
  let s := if q.winMake && off ≥ 64 && (off - 64) % 8 = 0 && (off - 64) / 8 < openCap q.runLen then
      match (s.chan ch).makeupReady with
      | some m => s.makeupOp ch (q.slotCk - 40) q.slotCk m
      | none => s
    else s
  if q.windowEnds then s.windowEnd ch w else s

/-- A maintenance slot of opcode `op`; the work it completes may have stopped the bobbin. -/
def State.maintSlot (ch op : Nat) (w : MaintIn) (s : State) : State :=
  match s.slotNow ch op with
  | some x =>
    let s := s.windowSlot ch w
    if (s.chan ch).func == .retired || (s.chan ch).seq.stopAt.isSome then s else s.slotDone ch x
  | none => s

/-- SCRUB (R78). -/
def execScrub (ch : Nat) (w : MaintIn) (s : State) : Res := .next (s.maintSlot ch opSCRUB w)

/-- TRAIN (R78, R311). -/
def execTrain (ch : Nat) (w : MaintIn) (s : State) : Res := .next (s.maintSlot ch opTRAIN w)

/-- CAL (R78). -/
def execCal (ch : Nat) (w : MaintIn) (s : State) : Res := .next (s.maintSlot ch opCAL w)

/-- BIST (R78, R522). -/
def execBist (ch : Nat) (w : MaintIn) (s : State) : Res := .next (s.maintSlot ch opBIST w)

/-! ## The idle schedule (R246) -/

/-- The channel runs the idle schedule now (R246): IDLE, STOPPED, or STARTING before its T_s, out of self-refresh. -/
def Chan.idle (c : Chan) : Bool :=
  c.func != .retired && !c.reg.inSr && (c.state == .idle || c.state == .stopped || c.state == .starting)

/-- ck between scrub operations in the idle schedule (R296). -/
def Integrity.idleGap (e : Integrity) : Nat := 2 ^ 24 / ((2 ^ 24 + e.period - 1) / e.period)

/-- Work of `l` ck that starts at ck `t` leaves the channel ready for its T_s (R55, R246). -/
def Chan.fitsStart (c : Chan) (t l : Nat) : Bool := c.state != .starting || c.waitGroup || t + l ≤ c.seq.ts

/-- The hoop reads a granule of the privileged region (R32, R288), when it runs. DESIGN CHOICE (log 164): the spec gives its reads no
place among the work of a channel, and here they take one of the idle schedule's Direct Access operations. -/
def State.hoopOp (ch : Nat) (a : Option Nat) (s : State) : Bool × State :=
  match a with
  | some a => if s.hoop.running && (s.chan ch).inPriv a && a < 2 ^ 26 then (true, s.fly ch (a / 4 * 4) s.now .hoop) else (false, s)
  | none => (false, s)

/-- One Direct Access operation of the idle schedule, at most one in any 128 ck and none in the 128 ck before T_s (R246). -/
def State.idleDirect (ch : Nat) (fail : Bool) (hoop : Option Nat) (s : State) : State :=
  let c := s.chan ch
  if s.now < c.da.lastIdleOp + 128 || !c.fitsStart s.now 129 then s
  else
    let h := s.hoopOp ch hoop
    let r := if h.1 then h else if s.daMode then s.daOp ch s.now (fun _ => true) fail [0, 1, 2, 3] else (false, s)
    if r.1 then r.2.modChan ch fun c => { c with da := { c.da with lastIdleOp := s.now } } else r.2

/-- Length of a piece of idle maintenance work (R311, R314, R520): a calibration run has at most 64 steps. -/
def idleLen (k : Nat) : Nat := if k = 0 then 64 * 128 else if k = 1 then 32768 else 1024

/-- The buckets gain every 4,096 ck in the idle schedule (R262). -/
def Direct.gainIdle (t : Nat) (d : Direct) : Direct :=
  (List.range 4).foldl (fun d k => if t ≥ (d.class k).lastGain + 4096 then d.modClass k (·.gainIdle t) else d) d

/-- The idle schedule serves the first rank with work: refresh, maintenance, scrub, Direct Access (R246). Its maintenance
windows are as long as the work. A refresh is due when some bank would owe one at the next ck (R64). -/
def execIdleSchedule (ch : Nat) (w : MaintIn) (storeFail : Bool) (hoop : Option Nat) (s : State) : Res :=
  if !(s.chan ch).idle || ch ≥ s.members then .next s
  else
    let s := s.modChan ch fun c => { c with da := c.da.gainIdle s.now }
    let c := s.chan ch
    if c.refr.maxOwed (s.now + 1) ≥ 1 && s.now ≥ c.reg.lastRef + 560 && c.fitsStart s.now 560 then .next (s.wardenRefresh ch s.now)
    else
      let s := s.calTrigger ch
      match (s.pendingWork ch).find? fun k => k < 3 && c.fitsStart s.now (idleLen k) with
      | some k => .next (s.doWork ch k s.now (idleLen k) w)
      | none =>
        if s.now ≥ c.ecc.lastIdleScrub + c.ecc.idleGap && c.fitsStart s.now 129 &&
            (c.ecc.rewrite.isSome || (c.scrubNext fun _ => true).isSome) then
          let s := s.modChan ch fun c => { c with ecc := { c.ecc with lastIdleScrub := s.now } }
          .next (s.scrubOp ch s.now (fun _ => true) (fun _ => true) (w.noise.take 4)).2
        else .next (s.idleDirect ch storeFail hoop)

/-! ## READ_DATA (R278) -/

/-- Bytes that a READ delivers for a granule (R252). -/
def daBytes (ds : List Decoded) (fail : Bool) : List Byte :=
  ds.flatMap fun d => match (if fail then none else d.data?) with
    | some v => leBytes 8 v.toNat
    | none => List.replicate 8 0xFF

/-- A granule of a READ reaches the host (R252, R303). While the host interface is down it does not: the READ is delivered
again in full after recovery (R481). -/
def State.daData (ch n q i : Nat) (ds : List Decoded) (fail : Bool) (s : State) : State :=
  match (s.ctx n).acc.find? fun d => d.seq == q && d.phase == .started && d.op == 0x10 && d.ch == ch with
  | none => s
  | some d =>
    if !s.hostUp then s
    else
    let bad := fail || ds.any fun x => x.data?.isNone
    let fixed := ds.any fun x => match x with | .corrected _ _ => true | _ => false
    let s := s.hostWrite (d.hostAddr + 32 * i) (daBytes ds fail)
    (s.modDesc n q fun d => { d with complete := d.complete + 1, poison := d.poison || bad, corrected := d.corrected || fixed }).daFinish n q

/-- The data of a FETCH that issued at ck `issue` fill a card block 32 ck after its slot, or stop the function (R118, R120). -/
def State.fetchBlockData (ch blk issue : Nat) (ds : List Decoded) (s : State) : State :=
  if ds.any fun d => d.data?.isNone then (s.log .stagingData ch).requestStop ch 3
  else
    let ws := ds.flatMap fun d =>
      let v := (d.data?.getD 0).toNat
      [BitVec.ofNat 32 v, BitVec.ofNat 32 (v / 2 ^ 32)]
    s.modSeq ch fun q => { q with fills := q.fills ++ [(issue + 32, blk, ws)] }.fillCard q.slotCk

/-- A device-range job of a CRC unit takes a granule (R544). -/
def State.crcGranule (unit : Nat) (ds : List Decoded) (s : State) : State :=
  { s with cnt := { s.cnt with crc := Sparse.modify {} s.cnt.crc unit fun c =>
      if c.busy && c.src = 1 then
        { c.feedAll (daBytes ds false) with poison := c.poison || ds.any fun d => d.data?.isNone } else c } }

/-- What the remap table holds for a flight; when `hit`, an entry of its granule fails SECDED and is dropped (R292). -/
def State.flightRemap (ch : Nat) (f : Flight) (hit : Bool) (s : State) : List (Option (BitVec 64 × Bool)) × State :=
  if hit then
    let s := s.dropEntry ch f.addr
    ((List.range 4).map fun j => if ((s.chan ch).ecc.entry (f.addr / 4 * 4 + j)).isSome then f.remap.getD j none else none, s)
  else (f.remap, s)

/-- Read data arrive: RL and the burst after the oldest read-class command; the granule is decoded and handed to its reader.
`hit` is what SECDED finds in the store or crossing that carries it (R303), `remapHit` that a remap entry of the granule fails (R292). -/
def execReadData (ch : Nat) (noise : List Codeword) (hit : StoreHit) (remapHit : Bool) (s : State) : Res :=
  match (s.chan ch).flights with
  | [] => .next s
  | f :: rest =>
    if s.now < f.issue + 30 then .next s
    else
      let s := s.modChan ch fun c => { c with flights := rest }
      match f.reader with
      | .bind id => .next (s.bindMerge ch id)
      | r =>
        let kind : ReadKind := match r with | .fetch _ _ => .privReader | .hoop => .privReader | _ => .demand
        let (rm, s) := s.flightRemap ch f remapHit
        let (ds, s) := s.readRaw ch f.addr kind f.raw rm noise
        let s := s.storeHit ch hit
        let lost := (s.chan ch).retLost.getLsbD (cwBank f.addr) && !(s.chan ch).inPriv f.addr
        let ds := if lost then List.replicate 4 (.poison canonicalPoison []) else ds
        let bad := if hit == .double then List.replicate 4 Decoded.uncorrectable else ds
        match r with
        | .src g id => .next (s.srcData ch g id f.issue bad)
        | .merge id => .next (s.mergeData ch id bad)
        | .ana p i b => .next (s.anaRead ch f.addr p i b f.issue bad)
        | .fetch _ b => .next (s.fetchBlockData ch b f.issue bad)
        | .da n q i => .next (s.daData ch n q i ds (hit == .double))
        | .crc u _ => .next (s.crcGranule u bad)
        | _ => .next s

end Sys2Proof.Machine
end

