-- ==== Sys2Proof/Machine/Dispatch.lean ====
section
/-! DEFINITION. The dispatch: one arm per command, each one direct call of its meaning. -/

namespace Sys2Proof.Machine

open Sys2Proof

/-- The effect of one command on everything but the queue. -/
def exec (i : Instr) (s : State) : Host.Outcome State Fault Refusal :=
  match i with
  | .nop ctx => Sys2Proof.Machine.execNop ctx s
  | .wait ctx => Sys2Proof.Machine.execWait ctx s
  | .waitDone ctx => Sys2Proof.Machine.execWaitDone ctx s
  | .read ctx => Sys2Proof.Machine.execRead ctx s
  | .write ctx fetches => Sys2Proof.Machine.execWrite ctx fetches s
  | .fill ctx => Sys2Proof.Machine.execFill ctx s
  | .run ctx => Sys2Proof.Machine.execRun ctx s
  | .runComplete ch => Sys2Proof.Machine.execRunComplete ch s
  | .loadPricking ctx image checkerFault badCkpts => Sys2Proof.Machine.execLoadPricking ctx image checkerFault badCkpts s
  | .funcStart ctx badCkpt => Sys2Proof.Machine.execFuncStart ctx badCkpt s
  | .funcStop ctx => Sys2Proof.Machine.execFuncStop ctx s
  | .ctxConfig ctx => Sys2Proof.Machine.execCtxConfig ctx s
  | .ctxDisable ctx => Sys2Proof.Machine.execCtxDisable ctx s
  | .ctxQuery ctx => Sys2Proof.Machine.execCtxQuery ctx s
  | .patchTable ctx table => Sys2Proof.Machine.execPatchTable ctx table s
  | .fuseProgram ctx railsOk vfuse => Sys2Proof.Machine.execFuseProgram ctx railsOk vfuse s
  | .powerRequest ctx => Sys2Proof.Machine.execPowerRequest ctx s
  | .pendingRequestBegin => Sys2Proof.Machine.execPendingRequestBegin s
  | .firmwareLoad ctx image => Sys2Proof.Machine.execFirmwareLoad ctx image s
  | .fwFallback => Sys2Proof.Machine.execFwFallback s
  | .dbNudge ctx => Sys2Proof.Machine.execDbNudge ctx s
  | .dbNudgeAll => Sys2Proof.Machine.execDbNudgeAll s
  | .doorbellPoll => Sys2Proof.Machine.execDoorbellPoll s
  | .doorbellRead ctx pi piC badRecord => Sys2Proof.Machine.execDoorbellRead ctx pi piC badRecord s
  | .descriptorExamine ctx bytes operandFail => Sys2Proof.Machine.execDescriptorExamine ctx bytes operandFail s
  | .headRefetch ctx bytes => Sys2Proof.Machine.execHeadRefetch ctx bytes s
  | .journalConfirm ctx seq => Sys2Proof.Machine.execJournalConfirm ctx seq s
  | .msixTimeout ctx => Sys2Proof.Machine.execMsixTimeout ctx s
  | .dbBaseWrite value => Sys2Proof.Machine.execDbBaseWrite value s
  | .admcfgCommit value => Sys2Proof.Machine.execAdmcfgCommit value s
  | .admcfgDisable value => Sys2Proof.Machine.execAdmcfgDisable value s
  | .prickingStart ch => Sys2Proof.Machine.execPrickingStart ch s
  | .nopSlot ch hit => Sys2Proof.Machine.execNopSlot ch hit s
  | .act ch => Sys2Proof.Machine.execAct ch s
  | .rd ch => Sys2Proof.Machine.execRd ch s
  | .wr ch hit => Sys2Proof.Machine.execWr ch hit s
  | .rmw ch hit => Sys2Proof.Machine.execRmw ch hit s
  | .pre ch => Sys2Proof.Machine.execPre ch s
  | .prea ch => Sys2Proof.Machine.execPrea ch s
  | .refab ch => Sys2Proof.Machine.execRefab ch s
  | .refpb ch => Sys2Proof.Machine.execRefpb ch s
  | .openRun ch noise storeFail => Sys2Proof.Machine.execOpenRun ch noise storeFail s
  | .scrub ch w => Sys2Proof.Machine.execScrub ch w s
  | .train ch w => Sys2Proof.Machine.execTrain ch w s
  | .cal ch w => Sys2Proof.Machine.execCal ch w s
  | .bist ch w => Sys2Proof.Machine.execBist ch w s
  | .fetch ch => Sys2Proof.Machine.execFetch ch s
  | .mark ch => Sys2Proof.Machine.execMark ch s
  | .tierSwitch ch => Sys2Proof.Machine.execTierSwitch ch s
  | .shutDown ch => Sys2Proof.Machine.execShutDown ch s
  | .steal ch => Sys2Proof.Machine.execSteal ch s
  | .idleSchedule ch w storeFail hoop => Sys2Proof.Machine.execIdleSchedule ch w storeFail hoop s
  | .readData ch noise hit remapHit => Sys2Proof.Machine.execReadData ch noise hit remapHit s
  | .wordRelease ch group => Sys2Proof.Machine.execWordRelease ch group s
  | .recordComplete ch group hit => Sys2Proof.Machine.execRecordComplete ch group hit s
  | .scrubPeriodBoundary ch => Sys2Proof.Machine.execScrubPeriodBoundary ch s
  | .monitorWindow ch => Sys2Proof.Machine.execMonitorWindow ch s
  | .parityFlag ch word refused => Sys2Proof.Machine.execParityFlag ch word refused s
  | .strobeLoss ch rstAnswers fckAnswers => Sys2Proof.Machine.execStrobeLoss ch rstAnswers fckAnswers s
  | .lockstep ch sigs => Sys2Proof.Machine.execLockstep ch sigs s
  | .bistIdleTimer ch => Sys2Proof.Machine.execBistIdleTimer ch s
  | .heartbeatLoss ch edge => Sys2Proof.Machine.execHeartbeatLoss ch edge s
  | .selfRefreshExit ch clean w badRemap => Sys2Proof.Machine.execSelfRefreshExit ch clean w badRemap s
  | .sensorSample readings => Sys2Proof.Machine.execSensorSample readings s
  | .sensorRecover sensor => Sys2Proof.Machine.execSensorRecover sensor s
  | .bandFall die => Sys2Proof.Machine.execBandFall die s
  | .evaluation => Sys2Proof.Machine.execEvaluation s
  | .rungRestore => Sys2Proof.Machine.execRungRestore s
  | .orderlyTripComplete => Sys2Proof.Machine.execOrderlyTripComplete s
  | .orderlyTripTimeout => Sys2Proof.Machine.execOrderlyTripTimeout s
  | .tripConditionClear => Sys2Proof.Machine.execTripConditionClear s
  | .coolDemPeriod lowReadsHigh releasedReadsLow => Sys2Proof.Machine.execCoolDemPeriod lowReadsHigh releasedReadsLow s
  | .coolStuck => Sys2Proof.Machine.execCoolStuck s
  | .coolStuckClear => Sys2Proof.Machine.execCoolStuckClear s
  | .tdConversion input dvUv v1Uv vrUv => Sys2Proof.Machine.execTdConversion input dvUv v1Uv vrUv s
  | .tdFault input => Sys2Proof.Machine.execTdFault input s
  | .tdRecover input => Sys2Proof.Machine.execTdRecover input s
  | .coolCfgWrite value => Sys2Proof.Machine.execCoolCfgWrite value s
  | .coldReset => Sys2Proof.Machine.execColdReset s
  | .regRdy straps inRange => Sys2Proof.Machine.execRegRdy straps inRange s
  | .oscRdy inRange reads badHeader => Sys2Proof.Machine.execOscRdy inRange reads badHeader s
  | .memRdy inRange => Sys2Proof.Machine.execMemRdy inRange s
  | .logicRdy inRange sweep goodRows checks bad => Sys2Proof.Machine.execLogicRdy inRange sweep goodRows checks bad s
  | .seqRail step => Sys2Proof.Machine.execSeqRail step s
  | .seqOrder step => Sys2Proof.Machine.execSeqOrder step s
  | .bringUpComplete => Sys2Proof.Machine.execBringUpComplete s
  | .saveTrigger cause => Sys2Proof.Machine.execSaveTrigger cause s
  | .saveCommit => Sys2Proof.Machine.execSaveCommit s
  | .warmRestore checks => Sys2Proof.Machine.execWarmRestore checks s
  | .vsaveLow => Sys2Proof.Machine.execVsaveLow s
  | .chargeTest dvMv esrMohm vsaveMv => Sys2Proof.Machine.execChargeTest dvMv esrMohm vsaveMv s
  | .chargeTimeout => Sys2Proof.Machine.execChargeTimeout s
  | .hoopWait irqPending => Sys2Proof.Machine.execHoopWait irqPending s
  | .wake checks w badRemap => Sys2Proof.Machine.execWake checks w badRemap s
  | .wakeTimer => Sys2Proof.Machine.execWakeTimer s
  | .pwrWakeWake path => Sys2Proof.Machine.execPwrWakeWake path s
  | .pwrWakeSafeExit path => Sys2Proof.Machine.execPwrWakeSafeExit path s
  | .safeExit checks => Sys2Proof.Machine.execSafeExit checks s
  | .avsPoll answered mv => Sys2Proof.Machine.execAvsPoll answered mv s
  | .avsTimeout => Sys2Proof.Machine.execAvsTimeout s
  | .devRstWarm => Sys2Proof.Machine.execDevRstWarm s
  | .warmReset src => Sys2Proof.Machine.execWarmReset src s
  | .devRstHoop => Sys2Proof.Machine.execDevRstHoop s
  | .hoopRestart => Sys2Proof.Machine.execHoopRestart s
  | .hoopWatchdog => Sys2Proof.Machine.execHoopWatchdog s
  | .hostInterfaceReset => Sys2Proof.Machine.execHostInterfaceReset s
  | .hostRecovery badJournal => Sys2Proof.Machine.execHostRecovery badJournal s
  | .refclkLoss => Sys2Proof.Machine.execRefclkLoss s
  | .pinReadback alertLow fatalLow => Sys2Proof.Machine.execPinReadback alertLow fatalLow s
  | .fltAck path corrupt => Sys2Proof.Machine.execFltAck path corrupt s
  | .fltClear path corrupt => Sys2Proof.Machine.execFltClear path corrupt s
  | .fltAckAll corrupt => Sys2Proof.Machine.execFltAckAll corrupt s
  | .fltClearAll corrupt => Sys2Proof.Machine.execFltClearAll corrupt s
  | .clearLost => Sys2Proof.Machine.execClearLost s
  | .selftestGo sigs marchFail => Sys2Proof.Machine.execSelftestGo sigs marchFail s
  | .otpRead path value => Sys2Proof.Machine.execOtpRead path value s
  | .otpAudit path reads strengthened => Sys2Proof.Machine.execOtpAudit path reads strengthened s
  | .auditTimer reads strengthened => Sys2Proof.Machine.execAuditTimer reads strengthened s
  | .otpPulseEnd took railsOk vfuse => Sys2Proof.Machine.execOtpPulseEnd took railsOk vfuse s
  | .tapInstruction kind => Sys2Proof.Machine.execTapInstruction kind s
  | .chPrivWrite path ch value => Sys2Proof.Machine.execChPrivWrite path ch value s
  | .chSubstWrite path ch value => Sys2Proof.Machine.execChSubstWrite path ch value s
  | .chDaRegWrite path ch cls value => Sys2Proof.Machine.execChDaRegWrite path ch cls value s
  | .calForce path ch value => Sys2Proof.Machine.execCalForce path ch value s
  | .bistForce path ch => Sys2Proof.Machine.execBistForce path ch s
  | .remapClear path ch value => Sys2Proof.Machine.execRemapClear path ch value s
  | .laneRetrain path value => Sys2Proof.Machine.execLaneRetrain path value s
  | .prbsEnable path value => Sys2Proof.Machine.execPrbsEnable path value s
  | .prbsInject path value => Sys2Proof.Machine.execPrbsInject path value s
  | .prbsAutoInject group lane => Sys2Proof.Machine.execPrbsAutoInject group lane s
  | .prbsSync group lane bits => Sys2Proof.Machine.execPrbsSync group lane bits s
  | .dcTestDone rx group outcomes => Sys2Proof.Machine.execDcTestDone rx group outcomes s
  | .clockLock group => Sys2Proof.Machine.execClockLock group s
  | .laneAlign group lane inverted sym => Sys2Proof.Machine.execLaneAlign group lane inverted sym s
  | .alignTimeout group => Sys2Proof.Machine.execAlignTimeout group s
  | .trainingBeat group lane sym => Sys2Proof.Machine.execTrainingBeat group lane sym s
  | .handshakeTimeout group => Sys2Proof.Machine.execHandshakeTimeout group s
  | .markerBeat group lane sym => Sys2Proof.Machine.execMarkerBeat group lane sym s
  | .markerSend group => Sys2Proof.Machine.execMarkerSend group s
  | .beatLaunch group lane fifoFail => Sys2Proof.Machine.execBeatLaunch group lane fifoFail s
  | .receiveBeat group lane sym lead fifoFail => Sys2Proof.Machine.execReceiveBeat group lane sym lead fifoFail s
  | .lossOfSignal group lane => Sys2Proof.Machine.execLossOfSignal group lane s
  | .lossOfSymbolLock group lane => Sys2Proof.Machine.execLossOfSymbolLock group lane s
  | .receiveLossOfLock group => Sys2Proof.Machine.execReceiveLossOfLock group s
  | .transmitLossOfLock group => Sys2Proof.Machine.execTransmitLossOfLock group s
  | .ident port word => Sys2Proof.Machine.execIdent port word s
  | .portRetrain port => Sys2Proof.Machine.execPortRetrain port s
  | .freqCheck port diff => Sys2Proof.Machine.execFreqCheck port diff s
  | .lack port lseq => Sys2Proof.Machine.execLack port lseq s
  | .lnak port lseq => Sys2Proof.Machine.execLnak port lseq s
  | .replay port lseq => Sys2Proof.Machine.execReplay port lseq s
  | .lnakTimeout port => Sys2Proof.Machine.execLnakTimeout port s
  | .replayTimeout port => Sys2Proof.Machine.execReplayTimeout port s
  | .queueTimeout port => Sys2Proof.Machine.execQueueTimeout port s
  | .picotSend => Sys2Proof.Machine.execPicotSend s
  | .picotA port word arrival => Sys2Proof.Machine.execPicotA port word arrival s
  | .picotB port word => Sys2Proof.Machine.execPicotB port word s
  | .delayReqSend port => Sys2Proof.Machine.execDelayReqSend port s
  | .delayReq port id turn => Sys2Proof.Machine.execDelayReq port id turn s
  | .delayRsp port id turn arrival => Sys2Proof.Machine.execDelayRsp port id turn arrival s
  | .rootElection => Sys2Proof.Machine.execRootElection s
  | .holdover => Sys2Proof.Machine.execHoldover s
  | .holdoverRoot => Sys2Proof.Machine.execHoldoverRoot s
  | .fwdRec pk => Sys2Proof.Machine.execFwdRec pk s
  | .fwdAck pk => Sys2Proof.Machine.execFwdAck pk s
  | .forwardResend ch tag => Sys2Proof.Machine.execForwardResend ch tag s
  | .forwardLost ch tag => Sys2Proof.Machine.execForwardLost ch tag s
  | .start pk => Sys2Proof.Machine.execStart pk s
  | .torStartGo value => Sys2Proof.Machine.execTorStartGo value s
  | .proxyOpen pk => Sys2Proof.Machine.execProxyOpen pk s
  | .pack pk => Sys2Proof.Machine.execPack pk s
  | .regRd pk => Sys2Proof.Machine.execRegRd pk s
  | .regWr pk => Sys2Proof.Machine.execRegWr pk s
  | .regRsp pk => Sys2Proof.Machine.execRegRsp pk s
  | .memRd pk data => Sys2Proof.Machine.execMemRd pk data s
  | .memWr pk => Sys2Proof.Machine.execMemWr pk s
  | .memData pk => Sys2Proof.Machine.execMemData pk s
  | .proxyResend => Sys2Proof.Machine.execProxyResend s
  | .proxyLost => Sys2Proof.Machine.execProxyLost s
  | .proxyBindingTimeout => Sys2Proof.Machine.execProxyBindingTimeout s
  | .goRd value => Sys2Proof.Machine.execGoRd value s
  | .goWr value => Sys2Proof.Machine.execGoWr value s
  | .release value => Sys2Proof.Machine.execRelease value s
  | .pxyTimeout => Sys2Proof.Machine.execPxyTimeout s
  | .timeLoRead path low width => Sys2Proof.Machine.execTimeLoRead path low width s
  | .counterLoRead path n low width => Sys2Proof.Machine.execCounterLoRead path n low width s
  | .counterHiRead path n low width => Sys2Proof.Machine.execCounterHiRead path n low width s
  | .latchTimeout path n => Sys2Proof.Machine.execLatchTimeout path n s
  | .counterWindow => Sys2Proof.Machine.execCounterWindow s
  | .cntCfgWrite n value => Sys2Proof.Machine.execCntCfgWrite n value s
  | .cntWindowWrite value => Sys2Proof.Machine.execCntWindowWrite value s
  | .crcStart unit value => Sys2Proof.Machine.execCrcStart unit value s
  | .crcFinish unit value => Sys2Proof.Machine.execCrcFinish unit value s
  | .crcAbort unit value => Sys2Proof.Machine.execCrcAbort unit value s
  | .feed4 unit value => Sys2Proof.Machine.execFeed4 unit value s
  | .feed1 unit value => Sys2Proof.Machine.execFeed1 unit value s
  | .crcJobDone unit => Sys2Proof.Machine.execCrcJobDone unit s
  | .setAddr bytes pecOk => Sys2Proof.Machine.execSetAddr bytes pecOk s
  | .smbusRead pec => Sys2Proof.Machine.execSmbusRead pec s
  | .smbusWrite bytes pecOk => Sys2Proof.Machine.execSmbusWrite bytes pecOk s
  | .wstatus pec => Sys2Proof.Machine.execWstatus pec s
  | .regAccessTimeout path isRead => Sys2Proof.Machine.execRegAccessTimeout path isRead s
  | .registerWrite path offset width value => Sys2Proof.Machine.execRegisterWrite path offset width value s
  | .warmResetEnd => Sys2Proof.Machine.execWarmResetEnd s
  | .vddlLow => Sys2Proof.Machine.execVddlLow s
  | .vddlReady => Sys2Proof.Machine.execVddlReady s
  | .dramRailLow => Sys2Proof.Machine.execDramRailLow s
  | .refclkReturn => Sys2Proof.Machine.execRefclkReturn s
  | .hoopRunning => Sys2Proof.Machine.execHoopRunning s
  | .d3hotEntry => Sys2Proof.Machine.execD3hotEntry s
  | .tapReset => Sys2Proof.Machine.execTapReset s
  | .selfRefreshInterval ch => Sys2Proof.Machine.execSelfRefreshInterval ch s
  | .vsaveArmedLevel mv => Sys2Proof.Machine.execVsaveArmedLevel mv s

end Sys2Proof.Machine
end

