-- ==== Sys2Proof/Machine/Tick.lean ====
section
/-! DEFINITION. One ck of the core clock, which passes when no command waits. -/

namespace Sys2Proof.Machine

open Sys2Proof

/-- The event CK of every bobbin that is not RETIRED (R531). -/
def State.countCk (s : State) : State := s.channels.foldl (fun s b => s.count 0x001 (some b) 1) s

/-- What one ck brings a bobbin: a round of slices or a pass of the scrubber becomes late (R298, R526), the cover of its vector source and
panic are computed (R193 to R195), records of the analysis that are due enter its output queue (R241), and a retirement goes on (R300). -/
def State.channelTick (ch : Nat) (s : State) : State :=
  let s := (s.bistLate ch).checkLate ch
  let s := if (s.chan ch).src.groups.isEmpty && !(s.chan ch).src.panic then s else s.updatePanic ch
  let s := if (s.chan ch).ana.due.any fun x => x.1 ≤ s.now then s.modAna ch fun a => a.settle s.now else s
  s.settleRetire ch

/-- One ck: time advances, the event CK counts, the bobbins go on, a raise of VDD comes to its point (R441), the hoop programs a record
that waits (R327, R358), IDENT words that are due leave (R391), and COOL_DEM follows its demand (R347, R409). Everything else that
happens in time is a command of its own. -/
def State.tick (s : State) : State :=
  let s := { s with now := s.now + 1 }.countCk
  let s := (s.channels.foldl (fun s ch => s.channelTick ch) s).settleAvs
  s.programRecords.sendIdents.driveCool

end Sys2Proof.Machine
end

