-- ==== Sys2Proof/Safety.lean ====
section
/-! DEFINITION. What a safe run is, and what every state of a run satisfies. -/

namespace Sys2Proof

/-- A step that answers a next state. -/
def Safe (s : Machine.State) : Prop := ∃ t, Machine.step s = .next t

/-- The stored array has its canonical form. -/
def memOk (s : Machine.State) : Prop := s.dram.wf = true

/-- A fault log of R464: entries at distinct indices below 128. -/
def logOk (l : List (Nat × Machine.FltEntry)) : Prop := Sparse.sorted none l = true ∧ ∀ e ∈ l, e.1 < 128

/-- The fault log, and the one that a save image holds, have that form. -/
def logsOk (s : Machine.State) : Prop := logOk s.flt.log ∧ logOk s.pwr.image.flt

/-- The descriptor of context `n` with sequence number `q` has its outcome `st`: the context still holds it with that status, or
its record is in the journal (R153, R156). -/
def Answered (n q st : Nat) (t : Machine.State) : Prop :=
  (∃ d ∈ (t.ctx n).acc, d.seq = q ∧ d.phase = .done ∧ d.status = st) ∨
    ∃ j ∈ t.journal, j.ctx = n ∧ j.seq = q ∧ j.w0 = Machine.recW0 q st

/-- The descriptor of context `n` with sequence number `q` has started and has no outcome yet. -/
def Begun (n q : Nat) (t : Machine.State) : Prop := ∃ d ∈ (t.ctx n).acc, d.seq = q ∧ d.phase = .started

/-- From `s` to `t` an occurrence of a cause with an INSTANCE has been entered in the fault log (R464), or lost for want of room
(R469). -/
def Logged (c : Machine.Cause) (inst : Nat) (s t : Machine.State) : Prop :=
  (∃ e ∈ t.flt.log, e.2.blk = c.blk ∧ e.2.cause = c.code ∧ e.2.inst = inst) ∨ s.flt.lost < t.flt.lost ∨ 0x3FF ≤ t.flt.lost

/-- A write of `v` to the register at an offset, by a path, has had its effect, for the registers that hold what is written to
them and the index registers of the path (chapters 4 to 15). -/
def RegWritten (p : Path) (o : Nat) (v : Word) (s t : Machine.State) : Prop :=
  let n := v.toNat
  (o = 0x0064 → t.host.admSeqLo = v) ∧ (o = 0x0068 → t.host.admSeqHi = n % 2 ^ 16) ∧
    (o = 0x4000 → t.flt.alertMin = if Machine.bits n 3 1 < 5 then Machine.bits n 3 1 else s.flt.alertMin) ∧
    (o = 0x4008 → t.flt.idx.get p = n % 128) ∧ (o = 0x8000 → t.thm.sensorIdx.get p = n % 128) ∧
    (o = 0x810C → t.pwr.wakeProxy = Machine.bit n 3 ∧ t.pwr.wakeSmb = Machine.bit n 2 ∧ t.pwr.wakeReg = Machine.bit n 1) ∧
    (o = 0xC00C → t.otp.sticky = s.otp.sticky ||| n % 64) ∧ (o = 0x10000 → t.lanes.idx.get p = n % 256) ∧
    (o = 0x18004 → t.tor.idx.get p = n % 4) ∧ (o = 0x18020 → t.tor.tgt = n / 4 * 4) ∧ (o = 0x18024 → t.tor.pxData = v)

/-- A packet of a type is accepted at its port: it is whole and of no reserved form, and comes from the block itself or is the
next word of a port that is UP (R395, R399). -/
def Accepted (typ : Nat) (pk : PktIn) (s : Machine.State) : Prop :=
  let h := Machine.hdrOf pk.words
  let q := s.port pk.port
  Machine.hdrType h = typ ∧ pk.words.length = Machine.packLen h (Machine.payOf pk.words 0) ∧ Machine.pkReserved pk = false ∧
    (pk.port = 4 ∨ (pk.port < 4 ∧ q.state = .up ∧ q.freq = false ∧ q.ignoring = false ∧ pk.errored = false ∧ pk.lseq = q.rxSeq))

/-- An accepted packet of a type whose destination is this device (R400). -/
def Arrives (typ : Nat) (pk : PktIn) (s : Machine.State) : Prop :=
  let h := Machine.hdrOf pk.words
  Accepted typ pk s ∧ Machine.hdrX h = s.tor.x ∧ Machine.hdrY h = s.tor.y

/-- From `s` to `t` the stream of channel `ch` has moved on from a slot with word `w`: the next slot lies one ck later, and the
generator offsets are those after the slot (R110, R115). -/
def SlotMoved (ch : Nat) (w : Word) (s t : Machine.State) : Prop :=
  (t.chan ch).seq.slotCk = (s.chan ch).seq.slotCk + 1 ∧ (t.chan ch).seq.gens = ((s.chan ch).seq.genNow w).2

/-- Kinds of state: one field for each part of the state but the queue. -/
structure Writes where
  now : Bool := false
  freeNo : Bool := false
  members : Bool := false
  gradeE : Bool := false
  chans : Bool := false
  frozen : Bool := false
  ctxs : Bool := false
  journal : Bool := false
  dram : Bool := false
  host : Bool := false
  flt : Bool := false
  cnt : Bool := false
  thm : Bool := false
  lanes : Bool := false
  tor : Bool := false
  pwr : Bool := false
  hoop : Bool := false
  otp : Bool := false
  smb : Bool := false
  idDefault : Bool := false
  serial : Bool := false
  out : Bool := false
  deriving DecidableEq, Repr

/-- From `s` to `t` nothing changes but the kinds of state that `m` names. -/
structure Only (m : Writes) (s t : Machine.State) : Prop where
  pending : t.pending = s.pending
  now : m.now = true ∨ t.now = s.now
  freeNo : m.freeNo = true ∨ t.freeNo = s.freeNo
  members : m.members = true ∨ t.members = s.members
  gradeE : m.gradeE = true ∨ t.gradeE = s.gradeE
  chans : m.chans = true ∨ t.chans = s.chans
  frozen : m.frozen = true ∨ t.frozen = s.frozen
  ctxs : m.ctxs = true ∨ t.ctxs = s.ctxs
  journal : m.journal = true ∨ t.journal = s.journal
  dram : m.dram = true ∨ t.dram = s.dram
  host : m.host = true ∨ t.host = s.host
  flt : m.flt = true ∨ t.flt = s.flt
  cnt : m.cnt = true ∨ t.cnt = s.cnt
  thm : m.thm = true ∨ t.thm = s.thm
  lanes : m.lanes = true ∨ t.lanes = s.lanes
  tor : m.tor = true ∨ t.tor = s.tor
  pwr : m.pwr = true ∨ t.pwr = s.pwr
  hoop : m.hoop = true ∨ t.hoop = s.hoop
  otp : m.otp = true ∨ t.otp = s.otp
  smb : m.smb = true ∨ t.smb = s.smb
  idDefault : m.idDefault = true ∨ t.idDefault = s.idDefault
  serial : m.serial = true ∨ t.serial = s.serial
  out : m.out = true ∨ t.out = s.out

/-- The kinds of state that a command may write. What a command counts or reports goes to the counters and the fault log; what it
commits, to the contexts, the journal and, through the host interface, out of the block or on the proxy's links. -/
def Instr.writes : Instr → Writes
  | .monitorWindow .. | .bistIdleTimer .. | .selfRefreshInterval .. => { chans := true }
  | .counterWindow .. | .crcJobDone .. => { cnt := true }
  | .fltAck .. | .fltClear .. | .fltAckAll .. | .fltClearAll .. | .clearLost .. | .refclkReturn .. => { flt := true }
  | .devRstWarm .. => { hoop := true }
  | .d3hotEntry .. => { host := true }
  | .prbsAutoInject .. | .prbsSync .. | .trainingBeat .. | .handshakeTimeout .. => { lanes := true }
  | .tapReset .. => { otp := true }
  | .delayReq .. | .wstatus .. => { out := true }
  | .saveCommit .. | .vsaveLow .. | .vsaveArmedLevel .. => { pwr := true }
  | .coolDemPeriod .. | .tdConversion .. => { thm := true }
  | .delayRsp .. | .rootElection .. | .proxyBindingTimeout .. | .pxyTimeout .. => { tor := true }
  | .heartbeatLoss .. => { chans := true, dram := true }
  | .dramRailLow .. => { dram := true, pwr := true }
  | .seqRail .. | .seqOrder .. | .pinReadback .. | .latchTimeout .. | .cntCfgWrite .. | .cntWindowWrite .. | .feed4 ..
  | .feed1 .. => { flt := true, cnt := true }
  | .sensorRecover .. | .tripConditionClear .. | .coolStuckClear .. | .tdRecover .. => { flt := true, thm := true }
  | .holdoverRoot .. => { flt := true, tor := true }
  | .smbusRead .. => { freeNo := true, out := true }
  | .clockLock .. | .portRetrain .. => { lanes := true, tor := true }
  | .replay .. | .lnakTimeout .. | .delayReqSend .. => { tor := true, out := true }
  | .memRdy .. => { chans := true, dram := true, pwr := true }
  | .scrubPeriodBoundary .. | .chSubstWrite .. | .chDaRegWrite .. | .calForce .. | .bistForce .. | .remapClear ..
  | .forwardLost .. | .crcStart .. | .crcFinish .. | .crcAbort .. => { chans := true, flt := true, cnt := true }
  | .otpRead .. | .otpAudit .. | .auditTimer .. => { flt := true, cnt := true, otp := true }
  | .lnak .. | .counterLoRead .. | .counterHiRead .. => { flt := true, cnt := true, out := true }
  | .chargeTest .. | .chargeTimeout .. => { flt := true, cnt := true, pwr := true }
  | .coolStuck .. | .tdFault .. | .coolCfgWrite .. => { flt := true, cnt := true, thm := true }
  | .ident .. | .picotA .. | .picotB .. | .holdover .. => { flt := true, cnt := true, tor := true }
  | .picotSend .. => { flt := true, tor := true, out := true }
  | .dbBaseWrite .. | .proxyLost .. => { host := true, flt := true, cnt := true }
  | .vddlReady .. => { lanes := true, tor := true, pwr := true }
  | .wordRelease .. => { chans := true, flt := true, cnt := true, lanes := true }
  | .bandFall .. => { chans := true, flt := true, cnt := true, thm := true }
  | .msixTimeout .. => { ctxs := true, flt := true, cnt := true, out := true }
  | .admcfgCommit .. | .hostInterfaceReset .. => { ctxs := true, host := true, flt := true, cnt := true }
  | .beatLaunch .. => { flt := true, cnt := true, lanes := true, out := true }
  | .laneRetrain .. | .prbsEnable .. | .prbsInject .. | .dcTestDone .. | .laneAlign .. | .alignTimeout .. | .markerBeat ..
  | .lossOfSignal .. | .lossOfSymbolLock .. | .receiveLossOfLock .. | .transmitLossOfLock .. =>
    { flt := true, cnt := true, lanes := true, tor := true }
  | .tapInstruction .. => { flt := true, cnt := true, otp := true, out := true }
  | .regAccessTimeout .. => { flt := true, cnt := true, smb := true, out := true }
  | .freqCheck .. | .lack .. | .queueTimeout .. | .pack .. | .regRd .. | .regRsp .. | .memRd .. | .memWr .. | .memData ..
  | .proxyResend .. | .goRd .. | .goWr .. | .release .. | .timeLoRead .. =>
    { flt := true, cnt := true, tor := true, out := true }
  | .regRdy .. => { flt := true, cnt := true, tor := true, pwr := true }
  | .setAddr .. => { flt := true, cnt := true, tor := true, smb := true }
  | .vddlLow .. => { flt := true, lanes := true, tor := true, pwr := true }
  | .recordComplete .. => { freeNo := true, chans := true, flt := true, cnt := true }
  | .receiveBeat .. => { chans := true, flt := true, cnt := true, lanes := true, tor := true }
  | .fwdAck .. | .forwardResend .. => { chans := true, flt := true, cnt := true, tor := true, out := true }
  | .markerSend .. | .replayTimeout .. => { flt := true, cnt := true, lanes := true, tor := true, out := true }
  | .chPrivWrite .. => { freeNo := true, chans := true, dram := true, flt := true, cnt := true }
  | .dbNudge .. | .dbNudgeAll .. | .doorbellPoll .. => { host := true, flt := true, cnt := true, tor := true, out := true }
  | .evaluation .. | .rungRestore .. => { chans := true, ctxs := true, flt := true, cnt := true, thm := true, lanes := true }
  | .start .. | .torStartGo .. => { chans := true, flt := true, cnt := true, lanes := true, tor := true, out := true }
  | .doorbellRead .. => { ctxs := true, host := true, flt := true, cnt := true, tor := true, out := true }
  | .fwdRec .. => { freeNo := true, chans := true, flt := true, cnt := true, tor := true, out := true }
  | .devRstHoop .. | .hoopRestart .. =>
    { chans := true, ctxs := true, flt := true, cnt := true, tor := true, hoop := true, out := true }
  | .nop .. | .wait .. | .waitDone .. | .read .. | .write .. | .fill .. | .run .. | .runComplete .. | .ctxConfig ..
  | .ctxDisable .. | .ctxQuery .. | .descriptorExamine .. | .headRefetch .. | .journalConfirm .. | .admcfgDisable ..
  | .nopSlot .. | .act .. | .rd .. | .pre .. | .prea .. | .refab .. | .refpb .. | .fetch .. | .mark .. | .hostRecovery ..
  | .proxyOpen .. =>
    { chans := true, ctxs := true, journal := true, host := true, flt := true, cnt := true, tor := true, out := true }
  | .funcStart .. | .tierSwitch .. | .steal .. =>
    { chans := true, ctxs := true, journal := true, host := true, flt := true, cnt := true, lanes := true, tor := true,
      out := true }
  | .prickingStart .. =>
    { chans := true, ctxs := true, journal := true, host := true, flt := true, cnt := true, thm := true, tor := true,
      out := true }
  | .firmwareLoad .. | .fwFallback .. | .hoopWatchdog .. | .warmResetEnd .. | .hoopRunning .. =>
    { chans := true, ctxs := true, journal := true, host := true, flt := true, cnt := true, tor := true, hoop := true,
      out := true }
  | .patchTable .. =>
    { chans := true, ctxs := true, journal := true, host := true, flt := true, cnt := true, tor := true, otp := true,
      out := true }
  | .lockstep .. =>
    { chans := true, frozen := true, ctxs := true, journal := true, host := true, flt := true, cnt := true, tor := true,
      out := true }
  | .readData .. =>
    { freeNo := true, chans := true, ctxs := true, journal := true, host := true, flt := true, cnt := true, tor := true,
      out := true }
  | .oscRdy .. =>
    { members := true, gradeE := true, flt := true, cnt := true, pwr := true, hoop := true, otp := true, idDefault := true,
      serial := true }
  | .avsPoll .. | .avsTimeout .. =>
    { chans := true, ctxs := true, journal := true, dram := true, host := true, flt := true, cnt := true, tor := true,
      pwr := true, out := true }
  | .fuseProgram .. | .otpPulseEnd .. =>
    { chans := true, ctxs := true, journal := true, host := true, flt := true, cnt := true, thm := true, tor := true,
      otp := true, out := true }
  | .strobeLoss .. =>
    { chans := true, frozen := true, ctxs := true, journal := true, dram := true, host := true, flt := true, cnt := true,
      tor := true, out := true }
  | .funcStop .. =>
    { chans := true, frozen := true, ctxs := true, journal := true, host := true, flt := true, cnt := true, lanes := true,
      tor := true, out := true }
  | .selftestGo .. =>
    { chans := true, frozen := true, ctxs := true, journal := true, host := true, flt := true, cnt := true, tor := true,
      otp := true, out := true }
  | .wr .. | .rmw .. | .openRun .. =>
    { freeNo := true, chans := true, ctxs := true, journal := true, dram := true, host := true, flt := true, cnt := true,
      tor := true, out := true }
  | .hoopWait .. | .safeExit .. =>
    { chans := true, ctxs := true, journal := true, dram := true, host := true, flt := true, cnt := true, lanes := true,
      tor := true, pwr := true, out := true }
  | .parityFlag .. =>
    { chans := true, frozen := true, ctxs := true, journal := true, dram := true, host := true, flt := true, cnt := true,
      lanes := true, tor := true, out := true }
  | .powerRequest .. | .pendingRequestBegin .. | .wakeTimer .. | .pwrWakeWake .. | .pwrWakeSafeExit .. =>
    { chans := true, frozen := true, ctxs := true, journal := true, host := true, flt := true, cnt := true, lanes := true,
      tor := true, pwr := true, out := true }
  | .loadPricking .. =>
    { freeNo := true, chans := true, ctxs := true, journal := true, dram := true, host := true, flt := true, cnt := true,
      lanes := true, tor := true, out := true }
  | .scrub .. | .train .. | .cal .. | .bist .. | .idleSchedule .. =>
    { freeNo := true, chans := true, frozen := true, ctxs := true, journal := true, dram := true, host := true, flt := true,
      cnt := true, tor := true, out := true }
  | .bringUpComplete .. =>
    { freeNo := true, chans := true, ctxs := true, journal := true, dram := true, host := true, flt := true, cnt := true,
      tor := true, pwr := true, otp := true, out := true }
  | .shutDown .. =>
    { freeNo := true, chans := true, frozen := true, ctxs := true, journal := true, dram := true, host := true, flt := true,
      cnt := true, lanes := true, tor := true, out := true }
  | .selfRefreshExit .. =>
    { freeNo := true, chans := true, frozen := true, ctxs := true, journal := true, dram := true, host := true, flt := true,
      cnt := true, tor := true, otp := true, out := true }
  | .warmRestore .. =>
    { chans := true, frozen := true, ctxs := true, journal := true, host := true, flt := true, cnt := true, lanes := true,
      tor := true, pwr := true, hoop := true, otp := true, out := true }
  | .wake .. =>
    { freeNo := true, chans := true, frozen := true, ctxs := true, journal := true, dram := true, host := true, flt := true,
      cnt := true, lanes := true, tor := true, pwr := true, out := true }
  | .saveTrigger .. | .warmReset .. =>
    { chans := true, frozen := true, ctxs := true, journal := true, dram := true, host := true, flt := true, cnt := true,
      lanes := true, tor := true, pwr := true, hoop := true, otp := true, out := true }
  | .sensorSample .. | .orderlyTripComplete .. | .orderlyTripTimeout .. | .refclkLoss .. =>
    { chans := true, frozen := true, ctxs := true, journal := true, dram := true, host := true, flt := true, cnt := true,
      thm := true, lanes := true, tor := true, pwr := true, hoop := true, out := true }
  | .logicRdy .. =>
    { freeNo := true, chans := true, frozen := true, ctxs := true, journal := true, dram := true, host := true, flt := true,
      cnt := true, thm := true, lanes := true, tor := true, pwr := true, hoop := true, out := true }
  | .regWr .. | .registerWrite .. =>
    { freeNo := true, chans := true, frozen := true, ctxs := true, journal := true, dram := true, host := true, flt := true,
      cnt := true, thm := true, lanes := true, tor := true, pwr := true, hoop := true, otp := true, out := true }
  | .smbusWrite .. =>
    { freeNo := true, chans := true, frozen := true, ctxs := true, journal := true, dram := true, host := true, flt := true,
      cnt := true, thm := true, lanes := true, tor := true, pwr := true, hoop := true, otp := true, smb := true, out := true }
  | .coldReset .. =>
    { now := true, freeNo := true, members := true, gradeE := true, chans := true, frozen := true, ctxs := true,
      journal := true, dram := true, host := true, flt := true, cnt := true, thm := true, lanes := true, tor := true,
      pwr := true, hoop := true, otp := true, smb := true, idDefault := true, serial := true, out := true }

end Sys2Proof
end

