-- ==== Sys2Proof/WellFormed.lean ====
section
/-! DEFINITION. Which operands a command can carry: numbers inside the ranges that the spec gives the things they name. A
meaning is total and needs none of this; a sender outside the block sends only well-formed commands. -/

namespace Sys2Proof

/-- Context numbers 0 to 4,095 (R133). -/
def ctxOk (n : Nat) : Bool := n < 4096

/-- Channel numbers 0 to 127 (R22). -/
def chOk (n : Nat) : Bool := n < 128

/-- A port of the torus, 0 to 3 (R389). -/
def portOk (n : Nat) : Bool := n < 4

/-- A lane group of the vector lanes, 0 to 7, a lane 0 to 8 of it (R359). -/
def laneOk (g l : Nat) : Bool := g < 8 && l < 9

/-- A receive group: a group of the vector lanes, or 8 and a port's number (R359, R389). -/
def rxGroupOk (g : Nat) : Bool := g < 12

/-- A byte of a received beat. -/
def symOk (n : Nat) : Bool := n < 256

/-- A sweep tries the tap settings 0 to 127 of an eyelet 0 to 110 (R305, R310). -/
def EyeRes.sweepOk (e : EyeRes) : Bool :=
  e.idx < 111 && (e.downBad ++ e.upBad).all fun x => decide (0 ≤ x) && decide (x ≤ 127)

/-- A training step tries the even tap offsets -24 to 24 of an eyelet 0 to 110 (R305, R311). -/
def EyeRes.stepOk (e : EyeRes) : Bool :=
  e.idx < 111 && (e.downBad ++ e.upBad).all fun x => decide (-24 ≤ x) && decide (x ≤ 24) && x % 2 == 0

/-- No receiver counts more ones than bits (R313). -/
def CalRes.wf (c : CalRes) : Bool := c.idx < 111 && c.o ≤ c.n

/-- A slice answers 1,000 patterns in two captures each (R520). -/
def sliceOk (d : SliceDiff) : Bool := d.all fun x => x.1 < 2000

/-- What the window of a maintenance slot measures: 16 slices at most in a round (R523). -/
def MaintIn.wf (w : MaintIn) : Bool :=
  w.train.all EyeRes.stepOk && (w.cal.all fun l => l.all CalRes.wf) && w.sigs.all sliceOk

/-- Six straps each for X, Y, W - 1 and H - 1, and three for the SMBus address (R389, R578). -/
def Straps.wf (s : Straps) : Bool := s.x < 64 && s.y < 64 && s.wM1 < 64 && s.hM1 < 64 && s.smbAddr < 8

def RxSymbols.wf : RxSymbols → Bool
  | .comma a b c d => symOk a && symOk b && symOk c && symOk d
  | _ => true

/-- A packet has at most 11 link words and a 16-bit LSEQ, and comes from a device of a 12-bit ID (R389, R395, R399, R415). -/
def PktIn.wf (p : PktIn) : Bool := p.port ≤ 4 && p.lseq < 2 ^ 16 && p.words.length ≤ 11 && p.src < 4096

/-- OTP words 0 to 2,047 (R494). -/
def otpIdx {α : Type} (l : List (Nat × α)) : Bool := l.all fun x => x.1 < 2048

/-- What leaving self-refresh measures: a training step, or after an emergency a sweep (R311, R323). -/
def MaintIn.exitOk (w : MaintIn) : Bool :=
  (w.train.all fun e => e.stepOk || e.sweepOk) && (w.cal.all fun l => l.all CalRes.wf) && w.sigs.all sliceOk

/-- A bank of a channel (R22), read at codeword addresses of that channel. -/
def BankCheck.wf (b : BankCheck) : Bool := chOk b.ch && b.bank < 32 && b.noise.all fun x => x.1 < 2 ^ 26

/-- The records of a save image and of the persistent area that a restore finds mismatched: six regions, contexts, channels (R455). -/
def SaveReads.wf (r : SaveReads) : Bool :=
  (r.regions.all fun n => 1 ≤ n && n ≤ 6) && r.ctxs.all ctxOk && (r.journal.all fun x => ctxOk x.1) && r.ckpts.all chOk &&
    r.chans.all chOk && r.darns.all fun x => chOk x.1

/-- Widths of an access in bytes (R19, R541). -/
def widthOk (w : Nat) : Bool := w == 1 || w == 2 || w == 4 || w == 8

/-- What the command can carry. -/
def Instr.wf : Instr → Bool
  | .nop c | .wait c | .waitDone c | .read c | .fill c | .run c | .funcStop c | .ctxConfig c | .ctxDisable c
  | .ctxQuery c | .powerRequest c | .dbNudge c | .msixTimeout c => ctxOk c
  | .write c fs => ctxOk c && fs.length ≤ 65536
  | .loadPricking c _ _ bad => ctxOk c && bad.all chOk
  | .patchTable c _ | .funcStart c _ => ctxOk c
  | .fuseProgram c _ _ => ctxOk c
  | .firmwareLoad c _ => ctxOk c
  | .doorbellRead c _ _ _ => ctxOk c
  | .descriptorExamine c b _ => ctxOk c && b.length == 64
  | .headRefetch c b => ctxOk c && b.length == 64
  | .journalConfirm c q => ctxOk c && q < 2 ^ 48
  | .runComplete ch | .prickingStart ch | .act ch | .rd ch | .pre ch | .prea ch | .refab ch | .refpb ch
  | .fetch ch | .mark ch | .tierSwitch ch | .shutDown ch | .steal ch | .scrubPeriodBoundary ch | .monitorWindow ch
  | .bistIdleTimer ch | .selfRefreshInterval ch => chOk ch
  | .nopSlot ch _ | .wr ch _ | .rmw ch _ => chOk ch
  | .openRun ch _ _ => chOk ch
  | .readData ch ns _ _ => chOk ch && ns.length ≤ 4
  | .scrub ch w | .train ch w | .cal ch w | .bist ch w => chOk ch && w.wf
  | .selfRefreshExit ch _ w bad => chOk ch && w.exitOk && bad.all (· < 32)
  | .idleSchedule ch w _ hoop => chOk ch && w.wf && hoop.all (· < 2 ^ 24)
  | .wordRelease ch g => chOk ch && g < 8
  | .recordComplete ch g _ => chOk ch && g < 8
  | .parityFlag ch _ _ => chOk ch
  | .strobeLoss ch _ _ => chOk ch
  | .lockstep ch sigs => chOk ch && sigs.all sliceOk
  | .heartbeatLoss ch _ => chOk ch
  | .sensorSample rs => rs.length ≤ 80
  | .sensorRecover n => n < 80
  | .bandFall d => d < 16
  | .tdConversion i _ _ _ => i < 2
  | .tdFault i | .tdRecover i => i < 2
  | .regRdy st _ => st.wf
  | .oscRdy _ rs _ => otpIdx rs
  | .logicRdy _ sw rows checks bad =>
    (sw.all fun x => chOk x.1 && x.2.all EyeRes.sweepOk) && (rows.all fun x => chOk x.1 && x.2.1 < 32) && checks.all BankCheck.wf &&
      bad.wf
  | .seqRail n | .seqOrder n => 1 ≤ n && n ≤ 4
  | .warmRestore cs | .safeExit cs => cs.all BankCheck.wf
  | .wake cs ws bad => cs.all BankCheck.wf && (ws.all fun x => chOk x.1 && x.2.exitOk) && bad.all fun x => chOk x.1 && x.2 < 32
  | .chargeTest d e v => d < 2 ^ 16 && e < 2 ^ 16 && v < 2 ^ 16
  | .vsaveArmedLevel v => v < 2 ^ 16
  | .avsPoll _ mv => mv < 2 ^ 10
  | .selftestGo sg mf => (sg.all fun x => chOk x.1 && x.2.all sliceOk) && mf.all fun n => chOk n
  | .otpAudit _ rs st | .auditTimer rs st => otpIdx rs && otpIdx st
  | .tapInstruction k => k < 6
  | .chPrivWrite _ ch _ | .chSubstWrite _ ch _ | .calForce _ ch _ | .remapClear _ ch _ => chOk ch
  | .bistForce _ ch => chOk ch
  | .chDaRegWrite _ ch k _ => chOk ch && k < 4
  | .prbsAutoInject g l | .lossOfSymbolLock g l => laneOk g l
  | .lossOfSignal g l => rxGroupOk g && l < 9
  | .prbsSync g l _ => laneOk g l
  | .dcTestDone rx g os => (if rx then rxGroupOk g else g < 8) && os.length ≤ 9 && os.all (· ≤ 4)
  | .clockLock g | .receiveLossOfLock g => rxGroupOk g
  | .alignTimeout g | .handshakeTimeout g | .markerSend g | .transmitLossOfLock g => g < 8
  | .laneAlign g l _ sym | .trainingBeat g l sym | .markerBeat g l sym => laneOk g l && sym.wf
  | .beatLaunch g l _ => laneOk g l
  | .receiveBeat g l sym _ _ => laneOk g l && sym.wf
  | .ident p _ | .picotB p _ => portOk p
  | .portRetrain p | .lnakTimeout p | .replayTimeout p | .queueTimeout p | .delayReqSend p => portOk p
  | .freqCheck p _ => portOk p
  | .lack p q | .lnak p q | .replay p q => portOk p && q < 2 ^ 16
  | .picotA p _ _ => portOk p
  | .delayReq p i t => portOk p && i < 2 ^ 16 && t < 2 ^ 32
  | .delayRsp p i t _ => portOk p && i < 2 ^ 16 && t < 2 ^ 32
  | .fwdRec pk | .fwdAck pk | .start pk | .proxyOpen pk | .pack pk | .regRd pk | .regWr pk | .regRsp pk | .memWr pk | .memData pk =>
    pk.wf
  | .memRd pk _ => pk.wf
  | .forwardResend ch t | .forwardLost ch t => chOk ch && t < 256
  | .counterLoRead _ n low w | .counterHiRead _ n low w => n < 1088 && low < 4 && widthOk w
  | .latchTimeout _ n => n < 1088
  | .timeLoRead _ low w => low < 4 && widthOk w
  | .hostRecovery bad => bad.all fun x => ctxOk x.1
  | .cntCfgWrite n _ => n < 1088
  | .crcStart u _ | .crcFinish u _ | .crcAbort u _ | .feed4 u _ | .feed1 u _ => u < 4
  | .crcJobDone u => u < 4
  | .setAddr b _ | .smbusWrite b _ => b.length ≤ 255
  | .registerWrite _ o w _ => o < 2 ^ 20 && widthOk w
  | .pendingRequestBegin | .fwFallback | .dbNudgeAll | .doorbellPoll | .dbBaseWrite _ | .admcfgCommit _ | .admcfgDisable _
  | .evaluation | .rungRestore | .orderlyTripComplete | .orderlyTripTimeout | .tripConditionClear | .coolDemPeriod _ _
  | .coolStuck | .coolStuckClear | .coolCfgWrite _ | .coldReset | .memRdy _ | .bringUpComplete | .saveTrigger _ | .saveCommit
  | .vsaveLow | .chargeTimeout | .hoopWait _ | .wakeTimer | .pwrWakeWake _ | .pwrWakeSafeExit _ | .avsTimeout | .devRstWarm
  | .warmReset _ | .devRstHoop | .hoopRestart | .hoopWatchdog | .hostInterfaceReset | .refclkLoss
  | .pinReadback _ _ | .fltAck _ _ | .fltClear _ _ | .fltAckAll _ | .fltClearAll _ | .clearLost | .otpRead _ _ | .otpPulseEnd _ _ _
  | .laneRetrain _ _ | .prbsEnable _ _ | .prbsInject _ _ | .picotSend | .rootElection | .holdover | .holdoverRoot
  | .torStartGo _ | .proxyResend | .proxyLost | .proxyBindingTimeout | .goRd _ | .goWr _ | .release _ | .pxyTimeout
  | .counterWindow | .cntWindowWrite _ | .smbusRead _ | .wstatus _ | .regAccessTimeout _ _ | .warmResetEnd
  | .vddlLow | .vddlReady | .dramRailLow | .refclkReturn | .hoopRunning | .d3hotEntry | .tapReset => true

end Sys2Proof
end

