-- ==== Sys2Proof/Certificates/Slice0/Obligations.lean ====
section
/-! DEFINITION. The statements for the provers. -/

open Sys2Proof Sys2Proof.Machine

/-- NOP gets its outcome, status 0 unless a reserved bit is set. A WAIT whose operands are bad gets REFUSED_FIELD; one whose
target frontier has reached SEQ gets status 0; any other waits. A waiting WAIT gets status 0 once the frontier has reached
SEQ and WAIT_ABANDONED when its target is no longer ENABLED. A context with no such descriptor to start stays as it is. -/
def Obligations.NopWaitComplete : Prop :=
  (∀ n s d, s.startable n 0x00 = some d →
    ∃ t, exec (.nop n) s = .next t ∧ Answered n d.seq (if d.zero 0x10 0x40 then 0 else 0x0012) t) ∧
  (∀ n s d, s.startable n 0x01 = some d → ∃ t, exec (.wait n) s = .next t ∧
    if d.u64 0x10 / 2 ^ 12 ≠ 0 ∨ d.u64 0x18 / 2 ^ 48 ≠ 0 ∨ d.zero 0x20 0x40 = false then Answered n d.seq 0x0012 t
    else if seqReached (s.ctx (d.u64 0x10)).frontier (d.u64 0x18) = true then Answered n d.seq 0 t
    else Begun n d.seq t) ∧
  (∀ n s d, s.startedOp n 0x01 = some d → ∃ t, exec (.waitDone n) s = .next t ∧
    let c := s.ctx (d.u64 0x10 % 4096)
    if seqReached c.frontier (d.u64 0x18) = true then Answered n d.seq 0 t
    else if c.state ≠ .enabled then Answered n d.seq 0x0007 t
    else t = s) ∧
  (∀ n s, (s.startable n 0x00 = none → exec (.nop n) s = .next s) ∧ (s.startable n 0x01 = none → exec (.wait n) s = .next s) ∧
    (s.startedOp n 0x01 = none → exec (.waitDone n) s = .next s))

/-- A READ, FILL or WRITE that fails a check of R250 gets the status of the first check it fails; one that passes starts
once a start place is free, and waits until then. A WRITE asks for its data in requests of at most 4 KiB, each once more
when it fails, and starts with all of them staged; without room for them or without a host interface it waits, and it is
refused when a request failed twice. -/
def Obligations.DirectAccessStarts : Prop :=
  (∀ n s d, s.startable n 0x10 = some d → ∃ t, exec (.read n) s = .next t ∧
    (∀ st, s.daCheck d = some st → Answered n d.seq st t) ∧
    (s.daCheck d = none → s.mayTakePlace d = true → Begun n d.seq t) ∧ (s.daCheck d = none → s.mayTakePlace d = false → t = s)) ∧
  (∀ n s d, s.startable n 0x12 = some d → ∃ t, exec (.fill n) s = .next t ∧
    (∀ st, s.daCheck d = some st → Answered n d.seq st t) ∧
    (s.daCheck d = none → s.mayTakePlace d = true → Begun n d.seq t) ∧ (s.daCheck d = none → s.mayTakePlace d = false → t = s)) ∧
  (∀ n fs s d st, s.startable n 0x11 = some d → s.daCheck d = some st →
    ∃ t, exec (.write n fs) s = .next t ∧ Answered n d.seq st t) ∧
  (∀ n fs s d, s.startable n 0x11 = some d → s.daCheck d = none → fs.length = (d.daLen + 4095) / 4096 →
    ∃ t, exec (.write n fs) s = .next t ∧
      if s.mayTakePlace d = false ∨ s.hostUp = false ∨ 2 ^ 20 < s.host.stageUsed + d.daLen then t = s
      else if ∃ f ∈ fs, fetchData f = none then Answered n d.seq 0x0042 t
      else t.host.stageUsed = s.host.stageUsed + d.daLen ∧
        (∃ e ∈ (t.ctx n).acc, e.seq = d.seq ∧ e.phase = .started ∧ e.staged = (fs.filterMap fetchData).flatten) ∧
        (s.tor.pcieEn = true → t.out = s.out ++ fs.zipIdx.flatMap fun x =>
          List.replicate (if firstTry x.1 then 1 else 2)
            (.read (d.hostAddr + 4096 * x.2) (min 4096 (d.daLen - 4096 * x.2))))) ∧
  (∀ n fs s, (s.startable n 0x10 = none → exec (.read n) s = .next s) ∧ (s.startable n 0x12 = none → exec (.fill n) s = .next s) ∧
    (s.startable n 0x11 = none → exec (.write n fs) s = .next s))

/-- A RUN that R160 to R162 refuse gets its status; any other starts and its span joins the channel's spans, skipping to the
next checkpoint when the channel is starved there; once the checkpoints of the first span have passed and its work is done,
the span leaves and its RUN is answered; a starting channel whose T_s has come runs, and answers the FUNC_START that waits
for it. -/
def Obligations.SpansRunAndComplete : Prop :=
  (∀ n s d, s.startable n 0x20 = some d →
    let c := s.chan (s.ctx n).chan
    let skip := c.starved && c.state != .starting && c.lastEnd ≤ c.seq.ckptNo
    ∃ t, exec (.run n) s = .next t ∧
      if d.zero 0x14 0x40 = false then Answered n d.seq 0x0012 t
      else if (c.seq.sect.getD {}).func = .direct then Answered n d.seq 0x0015 t
      else if d.u32 0x10 ≤ c.lastEnd then Answered n d.seq 0x0012 t
      else if (c.seq.stopCauseReq = 4 ∧ c.seq.stopAt.isSome) ∨ (c.state = .stopped ∧ c.stopCause = 4) then Answered n d.seq 0x0005 t
      else if c.state = .starting ∨ c.state = .running ∨ c.state = .stopping then
        Begun n d.seq t ∧ (t.chan (s.ctx n).chan).lastEnd = d.u32 0x10 ∧ (t.chan (s.ctx n).chan).runs =
          c.runs ++ [{ ctx := n, seq := d.seq, startC := if skip then c.seq.ckptNo + 1 else c.lastEnd, endC := d.u32 0x10, skipped := skip }]
      else Answered n d.seq 0x0004 t) ∧
  (∀ ch s r rest, (s.chan ch).runs = r :: rest → ∃ t, exec (.runComplete ch) s = .next t ∧
    if r.endC ≤ (s.chan ch).seq.ckptNo ∧ (s.chan ch).spanDone s.now r = true then
      (t.chan ch).runs = rest ∧ ∀ d ∈ (s.ctx r.ctx).acc, d.seq = r.seq → d.phase ≠ .done →
        Answered r.ctx r.seq (if (s.chan ch).cap.fwdLost.any r.holds then 6 else 0) t
    else t = s) ∧
  (∀ ch s, (s.chan ch).state = .starting → (s.chan ch).waitGroup = false → (s.chan ch).seq.ts ≤ s.now →
    ∃ t, exec (.prickingStart ch) s = .next t ∧ (t.chan ch).state = .running ∧
      ∀ n q d, (s.chan ch).starter = some (n, q) → d ∈ (s.ctx n).acc → d.seq = q → d.phase ≠ .done → Answered n q 0 t) ∧
  (∀ n ch s, (s.startable n 0x20 = none → exec (.run n) s = .next s) ∧ ((s.chan ch).runs = [] → exec (.runComplete ch) s = .next s) ∧
    ((s.chan ch).state ≠ .starting ∨ (s.chan ch).waitGroup = true ∨ s.now < (s.chan ch).seq.ts → exec (.prickingStart ch) s = .next s))

/-- A LOAD_PRICKING with bad operands is refused; the first read of a good one checks the image, whose verdict answers the
load when it is not "admitted", as an unreadable image and a checker that faults do; the second read, alike, leaves every
channel section STARTING. FUNC_START starts the section placed on a STOPPED channel when the checker admits it again.
FUNC_STOP makes a RUNNING channel STOPPING and waits for it, stops a STARTING one at once, and is answered at once on a
STOPPED one. SHUT_DOWN leaves a STOPPING channel that has nothing left to do STOPPED with its cause. -/
def Obligations.FunctionsStartAndStop : Prop :=
  (∀ n f x k s d, s.startedOp n 0x40 = none → s.startable n 0x40 = some d → s.hostUp = true → s.firstLoad d = true →
    ∃ t, exec (.loadPricking n f x k) s = .next t ∧
      if d.u64 0x10 % 8 ≠ 0 ∨ d.u32 0x1C / 2 ≠ 0 ∨ d.zero 0x20 0x40 = false then Answered n d.seq 0x0012 t
      else (fetchData f = none → Answered n d.seq 1 t) ∧
        (∀ b, fetchData f = some b → (x = true → logsOk s → Answered n d.seq 1 t ∧ Logged .checkerInternal 0 s t) ∧
          (∀ v, x = false → checkImage s.checkEnv b (d.u32 0x18) = .error v → v.code ≠ 0 → Answered n d.seq 1 t) ∧
          (∀ img, x = false → checkImage s.checkEnv b (d.u32 0x18) = .ok img →
            ∃ e ∈ (t.ctx n).acc, e.seq = d.seq ∧ e.phase = .started ∧ e.staged = b))) ∧
  (∀ n f x k s d img b, s.startedOp n 0x40 = some d → s.hostUp = true → parseImage s.checkEnv.open_ d.staged (d.u32 0x18) = .ok img →
    fetchData f = some b → secondBad b img.entries = none → (∀ y ∈ img.chans, s.checkEnv.retest y = none) →
    ∃ t, exec (.loadPricking n f x k) s = .next t ∧ ∀ y ∈ img.chans, (t.chan y.chan).state = .starting) ∧
  (∀ n b s d, s.startable n 0x41 = some d → ∃ t, exec (.funcStart n b) s = .next t ∧
    let ch := d.u32 0x10 % 128
    let c := s.chan ch
    if bits (d.u32 0x10) 7 7 ≠ 0 ∨ d.u32 0x10 / 512 ≠ 0 ∨ 2 ^ 16 ≤ d.u32 0x14 ∨ d.zero 0x18 0x40 = false ∨ s.members ≤ ch then
      Answered n d.seq 0x0012 t
    else if c.state = .stopped then
      (c.seq.sect = none → Answered n d.seq 0x0015 t) ∧
      (∀ x, c.seq.sect = some x → x.chan = ch →
        (s.recheck x = .ok () → (t.chan ch).state = .starting ∧ (t.chan ch).func = x.func ∧ (t.chan ch).starter = some (n, d.seq)) ∧
        (∀ v, s.recheck x = .error v → Answered n d.seq 1 t))
    else c.state = .idle ∨ c.state = .retired → Answered n d.seq 0x0015 t) ∧
  (∀ n s d, s.startable n 0x42 = some d → ∃ t, exec (.funcStop n) s = .next t ∧
    let ch := d.u32 0x10 % 128
    let c := s.chan ch
    if bits (d.u32 0x10) 7 7 ≠ 0 ∨ d.u32 0x10 / 1024 ≠ 0 ∨ 2 ≤ bits (d.u32 0x10) 9 8 ∨ d.zero 0x14 0x40 = false ∨ s.members ≤ ch then
      Answered n d.seq 0x0012 t
    else (c.state = .running → (t.chan ch).state = .stopping ∧ Begun n d.seq t) ∧
      (c.state = .stopping → (t.chan ch).state = .stopping ∧ (n, d.seq) ∈ (t.chan ch).stoppers) ∧
      (c.state = .stopped → Answered n d.seq 0 t) ∧ (c.state = .idle ∨ c.state = .retired → Answered n d.seq 0x0015 t) ∧
      (c.state = .starting → c.held = none → c.retirePend = false → (t.chan ch).state = .stopped)) ∧
  (∀ ch s, (s.chan ch).state = .stopping → (s.chan ch).seq.stopAt.isSome → (s.chan ch).refr.makeup = [] → (s.chan ch).cap.merges = [] →
    (s.chan ch).flights = [] → (s.chan ch).src.empty = true → (∀ x ∈ (s.chan ch).src.handed, x.1 ≤ s.now) → (s.chan ch).cap.fwds = [] →
    (s.chan ch).retirePend = false → (s.chan ch).held = none →
    ∃ t, exec (.shutDown ch) s = .next t ∧ (t.chan ch).state = .stopped ∧ (t.chan ch).func = .idle ∧
      (t.chan ch).stopCause = (s.chan ch).seq.stopCauseReq) ∧
  (∀ ch s, ((s.chan ch).state ≠ .stopping ∨ (s.chan ch).seq.stopAt = none → exec (.shutDown ch) s = .next s) ∧
    ((s.chan ch).state = .stopping → (s.chan ch).flights ≠ [] →
      ∃ t, exec (.shutDown ch) s = .next t ∧ (t.chan ch).state = .stopping))

/-- CTX_CONFIG and the admin window enable a DISABLED context with the sequence number given, and refuse a bad block and one
for a context that is not DISABLED. CTX_DISABLE and the admin window disable one that has no accepted descriptor and wait
for the records of one that has. CTX_QUERY copies the 128-byte record to host memory. A write to DEV_DB_BASE_LO commits the
doorbell base unless it is fixed. -/
def Obligations.ContextsChangeState : Prop :=
  (∀ n s d, s.startable n 0x43 = some d → ∃ t, exec (.ctxConfig n) s = .next t ∧
    let m := d.u64 0x10
    if 4096 ≤ m ∨ 2 ^ 48 ≤ d.u64 0x18 then Answered n d.seq 0x0012 t
    else if (s.ctx m).state ≠ .disabled then Answered n d.seq 0x0015 t
    else (parseCfg (d.opnd.drop 16) m = none → Answered n d.seq 0x0012 t) ∧
      ∀ c, parseCfg (d.opnd.drop 16) m = some c →
        if c.cls = 1 ∧ (s.functionCtx c.chan ≠ none ∨ s.members ≤ c.chan) then Answered n d.seq 0x0012 t
        else m ≠ n → Answered n d.seq 0 t ∧ (t.ctx m).state = .enabled ∧ (t.ctx m).nextSeq = d.u64 0x18) ∧
  (∀ n s d, s.startable n 0x44 = some d → ∃ t, exec (.ctxDisable n) s = .next t ∧
    let m := d.u64 0x10
    let st := (s.chan (s.ctx m).chan).state
    if 4096 ≤ m ∨ d.zero 0x18 0x40 = false then Answered n d.seq 0x0012 t
    else if (s.ctx m).state = .disabled ∨ ((s.ctx m).cls = 1 ∧ (st = .starting ∨ st = .running ∨ st = .stopping)) then
      Answered n d.seq 0x0015 t
    else ((s.ctx m).acc = [] → Answered n d.seq 0 t ∧ (t.ctx m).state = .disabled) ∧
      (∀ e r, m ≠ n → (s.ctx m).acc = e :: r → e.phase ≠ .done → Begun n d.seq t ∧ (t.ctx m).state = (s.ctx m).state ∧
        (n, some d.seq) ∈ (t.ctx m).disabling)) ∧
  (∀ n s d, s.startable n 0x45 = some d → s.hostUp = true → ∃ t, exec (.ctxQuery n) s = .next t ∧
    if 4096 ≤ d.u64 0x10 ∨ d.u64 0x18 % 128 ≠ 0 ∨ d.zero 0x20 0x40 = false then Answered n d.seq 0x0012 t
    else Answered n d.seq 0 t ∧ (s.tor.pcieEn = true → .write (d.u64 0x18) (s.ctx (d.u64 0x10)).record ∈ t.out)) ∧
  (∀ v s, ∃ t, exec (.admcfgCommit v) s = .next t ∧
    let n := v.toNat % 16
    if bit v.toNat 29 = true ∨ (s.ctx n).state ≠ .disabled ∨ parseCfg s.host.admBlock n = none then
      t.host.admErr = true ∧ t.ctxs = s.ctxs ∧ (logsOk s → Logged .regWriteIgnored 0 s t)
    else t.host.admErr = false ∧ (t.ctx n).state = .enabled ∧
      (t.ctx n).nextSeq = (s.host.admSeqLo.toNat + s.host.admSeqHi * 2 ^ 32) % 2 ^ 48) ∧
  (∀ v s, ∃ t, exec (.admcfgDisable v) s = .next t ∧
    let n := v.toNat % 16
    if bit v.toNat 31 = true ∨ (s.ctx n).state = .disabled then
      t.host.admErr = true ∧ t.ctxs = s.ctxs ∧ (logsOk s → Logged .regWriteIgnored 0 s t)
    else ((s.ctx n).acc = [] → (t.ctx n).state = .disabled ∧ n ∉ t.host.admBusy) ∧
      (∀ e r, (s.ctx n).acc = e :: r → e.phase ≠ .done → (t.ctx n).state = (s.ctx n).state ∧ n ∈ t.host.admBusy)) ∧
  (∀ v s, ∃ t, exec (.dbBaseWrite v) s = .next t ∧
    if s.dbFixed = true then t.host = s.host ∧ (logsOk s → Logged .regWriteIgnored 0 s t)
    else t.host = { s.host with dbBase := s.host.dbHiHeld * 2 ^ 32 + v.toNat / 2 ^ 15 * 2 ^ 15 }) ∧
  (∀ n s, (s.startable n 0x43 = none → exec (.ctxConfig n) s = .next s) ∧ (s.startable n 0x44 = none → exec (.ctxDisable n) s = .next s) ∧
    (s.startable n 0x45 = none ∨ s.hostUp = false → exec (.ctxQuery n) s = .next s))

/-- A nudge asks for the entry it names, a poll and ALL for the page. A read entry becomes PI when its complement holds and
the ring allows its distance; the sixteenth mismatch in a row is logged, and a distance too large halts the context. A
fetched descriptor whose HEAD matches is accepted when its sequence number is the next one, skipped when it is an earlier
one, and halts the context when it is a later one; a HEAD or operands that fail are read again, and halt the context when
they fail again. A confirmed record leaves the journal. A message leaves 6,400 ck after an uncovered record. -/
def Obligations.DoorbellsAndDescriptors : Prop :=
  (∀ n s, s.host.dbBase ≠ 0 → s.hostUp = true →
    ∃ t, exec (.dbNudge n) s = .next t ∧ n ∈ t.host.readReq ∧
      (s.tor.pcieEn = true → t.out = s.out ++ [.read (s.host.dbBase + 8 * n) 8])) ∧
  (∀ s, s.host.dbBase ≠ 0 → s.hostUp = true →
    ∃ t, exec .dbNudgeAll s = .next t ∧ t.host.readReq = s.ctxs.map Prod.fst ∧
      (s.tor.pcieEn = true → t.out = s.out ++ [.read s.host.dbBase 32768])) ∧
  (∀ s, s.host.pollEn = true → s.host.lastPoll + s.host.pollUs * 1600 ≤ s.now →
    ∃ t, exec .doorbellPoll s = .next t ∧ t.host.lastPoll = s.now ∧
      (s.host.dbBase ≠ 0 → s.hostUp = true → t.host.readReq = s.ctxs.map Prod.fst)) ∧
  (∀ n pi s, s.hostUp = true → s.host.dbBase ≠ 0 → n ∈ s.host.readReq → s.entryServed n = true →
    ∃ t, exec (.doorbellRead n pi (~~~pi) false) s = .next t ∧
      if (pi.toNat + 2 ^ 32 - (s.ctx n).ci) % 2 ^ 32 ≤ 2 ^ (s.ctx n).ringLog2
      then (t.ctx n).pi = pi.toNat ∧ (t.ctx n).mism = 0 ∧ (t.ctx n).state = .enabled
      else (t.ctx n).state = .halted ∧ (t.ctx n).haltCause = 3 ∧ (logsOk s → Logged .ctxHalt n s t)) ∧
  (∀ n pi c s, s.hostUp = true → s.host.dbBase ≠ 0 → n ∈ s.host.readReq → s.entryServed n = true → c ≠ ~~~pi →
    ∃ t, exec (.doorbellRead n pi c false) s = .next t ∧ (t.ctx n).pi = (s.ctx n).pi ∧
      (t.ctx n).mism = ((s.ctx n).mism + 1) % 16 ∧ ((s.ctx n).mism = 15 → logsOk s → Logged .dbMismatch n s t)) ∧
  (∀ n pi c s, s.hostUp = true → s.host.dbBase ≠ 0 → n ∈ s.host.readReq → s.entryServed n = true →
    ∃ t, exec (.doorbellRead n pi c true) s = .next t ∧ (t.ctx n).state = .halted ∧ (t.ctx n).haltCause = 4) ∧
  (∀ n b s, s.examines n = true → s.adminFirst n = false → isComp 64 (headOf b) (headComp b) = true →
    ∃ t, exec (.descriptorExamine n b false) s = .next t ∧
      let gap := ((s.ctx n).nextSeq + 2 ^ 48 - headSeq b) % 2 ^ 48
      if gap = 0 then (t.ctx n).nextSeq = ((s.ctx n).nextSeq + 1) % 2 ^ 48 ∧ (t.ctx n).ci = ((s.ctx n).ci + 1) % 2 ^ 32 ∧
        (opKnown (headOp b) = false → Answered n (headSeq b) 0x0010 t)
      else if gap ≤ 2 ^ 47 then (t.ctx n).nextSeq = (s.ctx n).nextSeq ∧ (t.ctx n).ci = ((s.ctx n).ci + 1) % 2 ^ 32 ∧
        (t.ctx n).acc = (s.ctx n).acc ∧ ((s.ctx n).dupLogged = false → logsOk s → Logged .ctxDup n s t)
      else (t.ctx n).state = .halted ∧ (t.ctx n).haltCause = 2) ∧
  (∀ n b s, s.examines n = true → s.adminFirst n = false →
    (isComp 64 (headOf b) (headComp b) = false →
      ∃ t, exec (.descriptorExamine n b false) s = .next t ∧ (t.ctx n).refetch = some (s.now + 1600) ∧ (t.ctx n).ci = (s.ctx n).ci) ∧
    ∃ t, exec (.descriptorExamine n b true) s = .next t ∧ (t.ctx n).ci = (s.ctx n).ci ∧
      if (s.ctx n).opFail = true then (t.ctx n).state = .halted ∧ (t.ctx n).haltCause = 1 else (t.ctx n).opFail = true) ∧
  (∀ n b s due, s.hostUp = true → (s.ctx n).state = .enabled → (s.ctx n).refetch = some due → due ≤ s.now →
    ∃ t, exec (.headRefetch n b) s = .next t ∧
      if isComp 64 (headOf b) (headComp b) = false then (t.ctx n).state = .halted ∧ (t.ctx n).haltCause = 1
      else headSeq b = (s.ctx n).nextSeq → (t.ctx n).nextSeq = ((s.ctx n).nextSeq + 1) % 2 ^ 48 ∧
        (t.ctx n).ci = ((s.ctx n).ci + 1) % 2 ^ 32) ∧
  (∀ n q s, s.hostUp = true → (∃ j ∈ s.journal, j.ctx = n ∧ j.seq = q) → (∀ d ∈ (s.ctx n).acc, d.seq ≠ q) →
    ∃ t, exec (.journalConfirm n q) s = .next t ∧ (∀ j ∈ t.journal, ¬ (j.ctx = n ∧ j.seq = q)) ∧
      ∀ j ∈ s.journal, ¬ (j.ctx = n ∧ j.seq = q) → j ∈ t.journal) ∧
  (∀ n s, s.hostUp = true → (s.ctx n).irqEn = true → 0 < (s.ctx n).unsent → (s.ctx n).unsentSince + 6400 ≤ s.now →
    ∃ t, exec (.msixTimeout n) s = .next t ∧ (t.ctx n).unsent = 0 ∧ t.out = s.out ++ [.msix n (s.ctx n).vec]) ∧
  (∀ n s, (s.host.dbBase = 0 ∨ s.hostUp = false → exec (.dbNudge n) s = .next s ∧ exec .dbNudgeAll s = .next s) ∧
    (s.host.pollEn = false ∨ s.now < s.host.lastPoll + s.host.pollUs * 1600 → exec .doorbellPoll s = .next s) ∧
    (s.hostUp = false → ∀ q, exec (.journalConfirm n q) s = .next s) ∧
    ((s.ctx n).irqEn = false ∨ (s.ctx n).unsent = 0 ∨ s.now < (s.ctx n).unsentSince + 6400 → exec (.msixTimeout n) s = .next s) ∧
    (∀ b x, s.examines n = false ∨ s.adminFirst n = true → exec (.descriptorExamine n b x) s = .next s) ∧
    ∀ b, (s.ctx n).refetch = none → exec (.headRefetch n b) s = .next s)

/-- A PATCH_TABLE with bad operands is refused, one whose table cannot be read gets REFUSED_HOST and one with an invalid
entry status 0x75, and none of them patches anything; one whose entries are all valid completes, and every entry of a row
repair holds its value in the patch store. FUSE_PROGRAM gets the status of the first check it fails, status 0 for a word
that already holds the value, status 0x72 outside the window, status 0x74 when no pulse can give it the value, and otherwise
starts the pulse of the first fuse to be set; it waits while another word operation runs. -/
def Obligations.TablesAndFuses : Prop :=
  (∀ n f s d, s.startable n 0x48 = some d →
    let k := d.u32 0x18
    if d.u64 0x10 % 16 ≠ 0 ∨ isComp 32 k (d.u32 0x1C) = false ∨ k = 0 ∨ 256 < k ∨ d.zero 0x20 0x40 = false then
      ∃ t, exec (.patchTable n f) s = .next t ∧ Answered n d.seq 0x0012 t ∧ t.otp = s.otp
    else if s.hostUp = false then exec (.patchTable n f) s = .next s
    else ∃ t, exec (.patchTable n f) s = .next t ∧ (fetchData f = none → Answered n d.seq 0x0042 t ∧ t.otp = s.otp) ∧
      ∀ b, fetchData f = some b →
        if ∀ i < k, s.patchValid b i = true then
          Answered n d.seq 0 t ∧ ∀ i < k, otpRegion (leAt b (16 * i) 4) = 2 →
            Sparse.find? t.otp.rowPatches (leAt b (16 * i) 4) = some (BitVec.ofNat 32 (leAt b (16 * i + 8) 4))
        else Answered n d.seq 0x0075 t ∧ t.otp = s.otp) ∧
  (∀ n r v s d, s.startable n 0x49 = some d → s.otp.burn = none →
    let w := d.u32 0x10
    let x := targetOf (BitVec.ofNat 32 (d.u32 0x18))
    ∃ t, exec (.fuseProgram n r v) s = .next t ∧
      if s.fuseCheck d ≠ 0 then Answered n d.seq (s.fuseCheck d) t ∧ t.otp.fuses = s.otp.fuses
      else if (s.fuse w).normal = x ∧ (s.fuse w).low = x then Answered n d.seq 0 t ∧ t.otp.fuses = s.otp.fuses
      else if (s.modOtp fun o => { o with rails := r }).otpWindow = false then Answered n d.seq 0x0072 t ∧ t.otp.fuses = s.otp.fuses
      else ((s.fuse w).nextBit x 0 = none → Answered n d.seq 0x0074 t) ∧ ∀ k, (s.fuse w).nextBit x 0 = some k → Begun n d.seq t ∧
        t.otp.burn = some { word := w, target := x, bitNo := k, owner := some (n, d.seq), pulseEnd := s.now + if v then 16000 else 80000 }) ∧
  (∀ n f r v s, (s.startable n 0x48 = none → exec (.patchTable n f) s = .next s) ∧
    (s.startable n 0x49 = none ∨ s.otp.burn.isSome → exec (.fuseProgram n r v) s = .next s))

/-- A FIRMWARE_LOAD with bad operands is refused, one during another load gets status 0x84, and any other asks for its
image. A good image goes to the other bank, which then runs; an image that fails a check gets its status; and when the new
image has not reported in time the hoop restarts from the previous bank and the load gets status 0x83. -/
def Obligations.FirmwareLoads : Prop :=
  (∀ n f s d, s.startable n 0x4B = some d → (∀ q, s.hoop.load ≠ some (n, q, 0)) → ∃ t, exec (.firmwareLoad n f) s = .next t ∧
    if loadFieldBad d = true then Answered n d.seq 0x0012 t
    else if s.hoop.load.isSome then Answered n d.seq 0x84 t
    else if s.hostUp = false then t = s
    else Begun n d.seq t ∧ t.hoop.load = some (n, d.seq, 0) ∧
      (s.tor.pcieEn = true → t.out = s.out ++ [.read (d.u64 0x10) (d.u32 0x18)])) ∧
  (∀ n f s d q, s.startedOp n 0x4B = some d → s.hoop.load = some (n, q, 0) → s.hostUp = true → s.hoop.running = true →
    ∃ t, exec (.firmwareLoad n f) s = .next t ∧
      (∀ b v, fetchData f = some b → checkFirmware (b.take (d.u32 0x18)) (d.u32 0x18) (d.u32 0x20) = .ok v →
        t.hoop.running = false ∧ t.hoop.bank = (if s.hoop.bank = 0 then 1 else 0) ∧
          t.hoop.load = some (n, d.seq, s.now + 1600000000)) ∧
      (∀ b st, fetchData f = some b → checkFirmware (b.take (d.u32 0x18)) (d.u32 0x18) (d.u32 0x20) = .error st →
        t.hoop = { s.hoop with load := none } ∧ Answered n d.seq st t) ∧
      (fetchData f = none → Answered n d.seq 0x82 t)) ∧
  (∀ s n q due, s.hoop.load = some (n, q, due) → 0 < due → due ≤ s.now → s.hoop.running = false →
    ∃ t, exec .fwFallback s = .next t ∧ t.hoop.bank = 1 - s.hoop.bank ∧ t.hoop.load = none ∧
      (logsOk s → Logged .fwFallback 0 s t) ∧
      ∀ d ∈ (s.ctx n).acc, d.seq = q → d.phase ≠ .done → Answered n q 0x83 t) ∧
  (∀ s, s.hoop.load = none ∨ s.hoop.running = true → exec .fwFallback s = .next s)

/-- A malformed POWER_REQUEST gets status 0x12. One made while a change runs becomes the pending request and supersedes an
older one. Otherwise one for the mode in force completes, one the table of changes does not allow gets status 0x60, one that
needs quiet channels and does not stop them gets 0x61, and any other becomes the running change. When the running change has
ended the pending request begins in the same way. -/
def Obligations.PowerRequests : Prop :=
  (∀ n s d, s.startable n 0x4A = some d → parseRequest n d = none →
    ∃ t, exec (.powerRequest n) s = .next t ∧ Answered n d.seq 0x0012 t ∧ t.pwr = s.pwr) ∧
  (∀ n s d c, s.startable n 0x4A = some d → parseRequest n d = some c → s.pwr.change.isSome ∨ s.pwr.pendingReq.isSome →
    ∃ t, exec (.powerRequest n) s = .next t ∧ t.pwr.pendingReq = some c ∧ t.pwr.change = s.pwr.change ∧
      ∀ o m q, s.pwr.pendingReq = some o → o.ctx = some (m, q) → m ≠ n → ∀ e ∈ (s.ctx m).acc, e.seq = q → e.phase ≠ .done →
        Answered m q 0x0002 t) ∧
  (∀ n s d c, s.startable n 0x4A = some d → parseRequest n d = some c → s.pwr.change = none → s.pwr.pendingReq = none →
    ∃ t, exec (.powerRequest n) s = .next t ∧
      if c.target = s.pwr.mode then Answered n d.seq 0 t ∧ t.pwr = s.pwr
      else if s.pwr.mode = .safe ∧ c.target = .service then
        if s.causeActive = true then Answered n d.seq 0x0064 t ∧ t.pwr = s.pwr else t.pwr.change = some { c with phase := 1 }
      else if changeAllowed s.pwr.mode c.target = false then Answered n d.seq 0x0060 t ∧ t.pwr = s.pwr
      else if c.target ≠ .service ∧ s.quiet = false ∧ c.stop = false then Answered n d.seq 0x0061 t ∧ t.pwr = s.pwr
      else t.pwr.change = some (if s.pwr.mode = .retention ∧ c.target = .service then { c with phase := 1 } else c)) ∧
  (∀ s c, s.pwr.change = none → s.pwr.pendingReq = some c → ∃ t, exec .pendingRequestBegin s = .next t ∧ t.pwr.pendingReq = none ∧
    if c.target = s.pwr.mode then t.pwr.change = none
    else if s.pwr.mode = .safe ∧ c.target = .service then t.pwr.change = if s.causeActive then none else some { c with phase := 1 }
    else if changeAllowed s.pwr.mode c.target = false then t.pwr.change = none
    else if c.target ≠ .service ∧ s.quiet = false ∧ c.stop = false then t.pwr.change = none
    else t.pwr.change = some (if s.pwr.mode = .retention ∧ c.target = .service then { c with phase := 1 } else c)) ∧
  (∀ n s, (s.startable n 0x4A = none → exec (.powerRequest n) s = .next s) ∧
    (s.pwr.change.isSome ∨ s.pwr.pendingReq = none → exec .pendingRequestBegin s = .next s))

/-- A cold reset leaves every register at its reset value, keeps OTP and the selvedge store and starts time at 0; REG_RDY,
OSC_RDY, MEM_RDY and LOGIC_RDY each end one step of power-up, in order, and a level out of range ends none; a rail late or
early is logged; and a complete BRING-UP enters SERVICE. -/
def Obligations.BringUpAdvances : Prop :=
  (∀ s, ∃ t, exec .coldReset s = .next t ∧ t.now = 0 ∧ t.pwr.mode = .bringUp ∧ t.pwr.step = 0 ∧ t.ctxs = [] ∧ t.journal = [] ∧
    t.host = {} ∧ t.flt = {} ∧ t.cnt = {} ∧ t.lanes = {} ∧ t.tor = {} ∧ t.otp.fuses = s.otp.fuses ∧
    t.otp.overrides = s.otp.overrides ∧ t.pwr.image = s.pwr.image ∧ t.pending = s.pending ∧ t.out = s.out) ∧
  (∀ x s, s.pwr.mode = .bringUp → s.pwr.step = 0 →
    ∃ t, exec (.regRdy x true) s = .next t ∧ t.pwr.step = 1 ∧ t.tor.x = x.x ∧ t.tor.y = x.y ∧ t.tor.pcieEn = x.pcieEn ∧
      t.tor.strapBad = (x.x > x.wM1 || x.y > x.hM1)) ∧
  (∀ r h s, s.pwr.mode = .bringUp → s.pwr.step = 1 →
    ∃ t, exec (.oscRdy true r h) s = .next t ∧ t.pwr.step = 2 ∧ t.hoop.running = true ∧ (h = true → t.pwr.image.marker = 0)) ∧
  (∀ s, s.pwr.mode = .bringUp → s.pwr.step = 2 →
    ∃ t, exec (.memRdy true) s = .next t ∧ t.pwr.step = 3 ∧ ∀ ch ∈ s.served, (t.chan ch).reg.inSr = true) ∧
  (∀ w g c b s, s.pwr.mode = .bringUp → s.pwr.step = 3 → ∃ t, exec (.logicRdy true w g c b) s = .next t ∧ t.pwr.step = 4) ∧
  (∀ k s, s.pwr.mode = .bringUp → k = s.pwr.step + 1 → k ≤ 4 →
    ∃ t, exec (.seqRail k) s = .next t ∧ t.pwr = s.pwr ∧ (logsOk s → Logged .seqRail 0 s t)) ∧
  (∀ k s, s.pwr.mode = .bringUp → s.pwr.step + 1 < k → k ≤ 4 →
    ∃ t, exec (.seqOrder k) s = .next t ∧ t.pwr = s.pwr ∧ (logsOk s → Logged .seqOrder 0 s t)) ∧
  (∀ s, s.pwr.mode = .bringUp → s.bringUpDone = true →
    ∃ t, exec .bringUpComplete s = .next t ∧ t.pwr.mode = .service ∧ t.pwr.exitReq = none ∧
      t.pwr.entries = satAdd 0x1FF s.pwr.entries 1) ∧
  (∀ x y r h w g c b s,
    (s.pwr.mode ≠ .bringUp ∨ s.pwr.step ≠ 0 ∨ y = false → exec (.regRdy x y) s = .next s) ∧
    (s.pwr.mode ≠ .bringUp ∨ s.pwr.step ≠ 1 ∨ y = false → exec (.oscRdy y r h) s = .next s) ∧
    (s.pwr.mode ≠ .bringUp ∨ s.pwr.step ≠ 2 ∨ y = false → exec (.memRdy y) s = .next s) ∧
    (s.pwr.mode ≠ .bringUp ∨ s.pwr.step ≠ 3 ∨ y = false → exec (.logicRdy y w g c b) s = .next s))

/-- The hoop's wait instruction ends a change to SERVICE or MAINTENANCE and begins the hardware steps of entry to RETENTION,
unless an interrupt is pending; a wake event in RETENTION, or a SAFE exit, becomes the running change when none runs; with
VDD at P0 and every region's clock back for 2 µs a wake enters SERVICE, and a SAFE exit enters BRING-UP. -/
def Obligations.ModeChangesComplete : Prop :=
  (∀ s c, s.pwr.change = some c → c.phase = 0 → s.hoop.running = true → c.target = .service →
    ∃ t, exec (.hoopWait false) s = .next t ∧ t.pwr = { s.pwr with mode := .service, change := none }) ∧
  (∀ s c, s.pwr.change = some c → c.phase = 0 → s.hoop.running = true → c.target = .maintenance → s.quiet = true →
    ∃ t, exec (.hoopWait false) s = .next t ∧ t.pwr = { s.pwr with mode := .maintenance, change := none }) ∧
  (∀ s c, s.pwr.change = some c → c.phase = 0 → s.hoop.running = true → c.target = .retention → s.quiet = true →
    s.nonAdminDone = true → ∃ t, exec (.hoopWait false) s = .next t ∧ t.pwr.change = some { c with phase := 1 } ∧
      t.pwr.avs.map (·.target) = some 650) ∧
  (∀ k w b s c, s.pwr.avs = none → s.pwr.change = some c → s.pwr.mode = .retention → c.target = .service → s.pwr.point ≠ 2 →
    (∀ ch ∈ s.served, (s.chan ch).reg.gapAt + 3200 ≤ s.now) →
    ∃ t, exec (.wake k w b) s = .next t ∧ t.pwr.mode = .service ∧ t.pwr.change = none ∧ t.pwr.wakeTimer = 0) ∧
  (∀ s, s.pwr.mode = .retention → s.pwr.wakeTimer ≠ 0 → s.pwr.retEntry + s.pwr.wakeTimer * 2 ^ 26 ≤ s.now →
    ∃ t, exec .wakeTimer s = .next t ∧ t.pwr.wakeTimer = 0 ∧ (s.pwr.change = none → s.pwr.pendingReq = none →
      t.pwr.change = some { target := .service, source := 5, phase := 1 })) ∧
  (∀ p s, p ≠ .bar2 → s.pwr.mode = .retention → (s.pwr.wakePath p).1 = true → s.pwr.change = none → s.pwr.pendingReq = none →
    ∃ t, exec (.pwrWakeWake p) s = .next t ∧
      t.pwr.change = some { target := .service, source := (s.pwr.wakePath p).2, phase := 1 }) ∧
  (∀ p s, p ≠ .bar2 → s.pwr.mode ≠ .retention ∨ (s.pwr.wakePath p).1 = false →
    ∃ t, exec (.pwrWakeWake p) s = .next t ∧ t.pwr = s.pwr ∧ (logsOk s → Logged .regWriteIgnored 0 s t)) ∧
  (∀ p s, p ≠ .bar2 → s.pwr.mode = .safe → (s.pwr.wakePath p).1 = true → s.causeActive = false → s.pwr.change = none →
    s.pwr.pendingReq = none →
    ∃ t, exec (.pwrWakeSafeExit p) s = .next t ∧
      t.pwr.change = some { target := .service, source := (s.pwr.wakePath p).2, phase := 1 }) ∧
  (∀ p s, p ≠ .bar2 → s.pwr.mode ≠ .safe ∨ (s.pwr.wakePath p).1 = false →
    ∃ t, exec (.pwrWakeSafeExit p) s = .next t ∧ t.pwr = s.pwr ∧ (logsOk s → Logged .regWriteIgnored 0 s t)) ∧
  (∀ k s c, s.pwr.avs = none → s.pwr.change = some c → s.pwr.mode = .safe → c.target = .service → s.pwr.point ≠ 2 →
    ∃ t, exec (.safeExit k) s = .next t ∧ t.pwr.mode = .bringUp ∧ t.pwr.change = none) ∧
  (∀ s x, (s.pwr.change = none ∨ x = true ∨ s.hoop.running = false → exec (.hoopWait x) s = .next s) ∧
    (s.pwr.mode ≠ .retention ∨ s.pwr.wakeTimer = 0 ∨ s.now < s.pwr.retEntry + s.pwr.wakeTimer * 2 ^ 26 → exec .wakeTimer s = .next s) ∧
    exec (.pwrWakeWake .bar2) s = .next s ∧ exec (.pwrWakeSafeExit .bar2) s = .next s ∧
    ∀ k w b, s.pwr.avs = none → s.pwr.change = none → exec (.wake k w b) s = .next s ∧ exec (.safeExit k) s = .next s)

/-- A voltage read within 10 mV of the target confirms a change and records the readback, and one that lowers VDD is then
complete; one further away leaves the change as it is; a device that does not answer, or does not confirm within 1 ms, fails
the change and is logged. -/
def Obligations.VoltageChanges : Prop :=
  (∀ mv s a, s.pwr.avs = some a → a.confirmed = none → s.pwr.lastAvs + 16000 ≤ s.now → mv ≤ a.target + 10 → a.target ≤ mv + 10 →
    ∃ t, exec (.avsPoll true mv) s = .next t ∧ t.pwr.readback = mv % 1024 ∧
      if a.prev < a.target then t.pwr.avs = some { a with confirmed := some s.now }
      else s.pwr.change = none → t.pwr.avs = none ∧ t.pwr.point = a.point) ∧
  (∀ mv s a, s.pwr.avs = some a → a.confirmed = none → s.pwr.lastAvs + 16000 ≤ s.now → a.target + 10 < mv ∨ mv + 10 < a.target →
    ∃ t, exec (.avsPoll true mv) s = .next t ∧ t.pwr = { s.pwr with readback := mv % 1024, lastAvs := s.now }) ∧
  (∀ mv s a, s.pwr.avs = some a → a.confirmed = none → s.pwr.lastAvs + 16000 ≤ s.now → s.pwr.change = none →
    ∃ t, exec (.avsPoll false mv) s = .next t ∧ t.pwr = { s.pwr with avs := none, avsFail := true, command := a.prev } ∧
      (logsOk s → Logged .avsFail 0 s t)) ∧
  (∀ s a, s.pwr.avs = some a → a.confirmed = none → a.start + 1600000 ≤ s.now → s.pwr.change = none →
    ∃ t, exec .avsTimeout s = .next t ∧ t.pwr = { s.pwr with avs := none, avsFail := true, command := a.prev } ∧
      (logsOk s → Logged .avsFail 0 s t)) ∧
  (∀ x mv s, s.pwr.avs = none → exec (.avsPoll x mv) s = .next s ∧ exec .avsTimeout s = .next s)

/-- A save trigger outside SAVE enters SAVE and, once the restore of an older image is done, begins an image that names the
trigger; the selvedge commits it; 10 ms later a warm restore returns to BRING-UP when power was never lost; a low VSAVE
shuts the selvedge down; and a low DRAM rail loses the content that was watched. A charge test that is due records its
results; SAVE is armed exactly when capacitance and ESR pass and VSAVE is at least 9.0 V; a failed or overdue test is
logged. -/
def Obligations.SavePathsRun : Prop :=
  (∀ c s, s.pwr.mode ≠ .save → ∃ t, exec (.saveTrigger c) s = .next t ∧ t.pwr.mode = .save ∧
    if s.pwr.mode = .bringUp ∧ (s.pwr.step < 2 ∨ (s.pwr.step < 4 ∧ s.pwr.image.marker = 2)) then t.pwr.image = s.pwr.image
    else t.pwr.image.marker = 1 ∧ t.pwr.image.trigger = saveCode c ∧ t.pwr.trigger = saveCode c ∧ t.pwr.image.mode = s.pwr.mode) ∧
  (∀ s, s.pwr.mode = .save → s.pwr.trigger ≠ 0 → s.pwr.image.marker = 1 → s.pwr.lostPower = false →
    ∃ t, exec .saveCommit s = .next t ∧ t.pwr.image = { s.pwr.image with marker := 2 } ∧ t.pwr.saveResult = 1 ∧
      t.pwr.committedAt = s.now) ∧
  (∀ k s, s.pwr.mode = .save → s.pwr.image.marker = 2 → s.pwr.lostPower = false → s.pwr.trigger ≠ 0 → s.pwr.trigger ≠ 4 →
    s.pwr.committedAt + 16000000 ≤ s.now →
    ∃ t, exec (.warmRestore k) s = .next t ∧ t.pwr.mode = .bringUp ∧ t.pwr.image.marker = 3 ∧ t.pwr.restored = true) ∧
  (∀ s, s.pwr.mode = .save → ∃ t, exec .vsaveLow s = .next t ∧ t.pwr.lostPower = true ∧ t.pwr.dramWatch = false) ∧
  (∀ s, s.pwr.dramWatch = true → ∃ t, exec .dramRailLow s = .next t ∧ t.dram = s.dram.loseAll ∧ t.pwr.dramWatch = false) ∧
  (∀ dv esr mv s, s.pwr.mode ≠ .save → s.pwr.step ≠ 0 → (if s.pwr.lastCharge = none then 11400 ≤ mv else s.pwr.lastCharge.getD 0 + 138240000000000 ≤ s.now) →
    ∃ t, exec (.chargeTest dv esr mv) s = .next t ∧ t.pwr.lastCharge = some s.now ∧ t.pwr.capOk = decide (0 < dv ∧ dv ≤ 1250) ∧
      t.pwr.esrOk = decide (esr ≤ 50) ∧ t.pwr.armed = decide (0 < dv ∧ dv ≤ 1250 ∧ esr ≤ 50 ∧ 9000 ≤ mv % 2 ^ 16) ∧
      (¬ (0 < dv ∧ dv ≤ 1250 ∧ esr ≤ 50) → logsOk s → Logged .holdupFail 0 s t)) ∧
  (∀ s, s.pwr.mode ≠ .save → s.pwr.step ≠ 0 → s.pwr.lastCharge = none → s.pwr.chargeFailed = false →
    s.pwr.stepOne + 8000000000 ≤ s.now →
    ∃ t, exec .chargeTimeout s = .next t ∧ t.pwr.armed = false ∧ t.pwr.chargeFailed = true ∧ (logsOk s → Logged .holdupFail 0 s t)) ∧
  (∀ mv s, ∃ t, exec (.vsaveArmedLevel mv) s = .next t ∧
    t.pwr.armed = (s.pwr.capOk && s.pwr.esrOk && decide (9000 ≤ mv % 2 ^ 16))) ∧
  (∀ c k s, (s.pwr.mode = .save → exec (.saveTrigger c) s = .next s ∧ exec .chargeTimeout s = .next s) ∧
    (s.pwr.mode ≠ .save → exec .saveCommit s = .next s ∧ exec (.warmRestore k) s = .next s ∧ exec .vsaveLow s = .next s) ∧
    (s.pwr.dramWatch = false → exec .dramRailLow s = .next s))

/-- DEV_RST.WARM begins a warm reset 1 µs later; the reset holds the host interface and the hoop down and ends 10 µs after
it began; DEV_RST.HOOP, a hoop restart and the watchdog stop the hoop, the third expiry within 10 s falling back to the ROM
image of bank A; and a hoop that reports runs, completing the load that waited for it. In SAVE none of them does anything.
-/
def Obligations.ResetsRun : Prop :=
  (∀ s, s.pwr.mode ≠ .save → ∃ t, exec .devRstWarm s = .next t ∧ t.hoop.warmAt = some (s.hoop.warmAt.getD (s.now + 1600))) ∧
  (∀ x s, s.pwr.mode ≠ .save → s.warmDue x = true →
    ∃ t, exec (.warmReset x) s = .next t ∧ t.hoop.warmEnd = some (s.now + 16000) ∧ t.hoop.warmAt = none ∧
      t.hoop.running = false ∧ t.host.linkUp = false) ∧
  (∀ s due, s.hoop.warmEnd = some due → due ≤ s.now → ∃ t, exec .warmResetEnd s = .next t ∧ t.hoop.warmEnd = none) ∧
  (∀ s, s.pwr.mode ≠ .save → ∃ t, exec .devRstHoop s = .next t ∧ t.hoop.running = false ∧
    t.hoop.restarts = satAdd 0xFF s.hoop.restarts 1) ∧
  (∀ s, s.pwr.mode ≠ .save → ∃ t, exec .hoopRestart s = .next t ∧ t.hoop.running = false ∧
    t.hoop.restarts = satAdd 0xFF s.hoop.restarts 1) ∧
  (∀ s, s.pwr.mode ≠ .save → 2 ≤ s.pwr.step →
    let l := (s.hoop.expiries.filter fun t => s.now < t + 16000000000) ++ [s.now]
    ∃ t, exec .hoopWatchdog s = .next t ∧ t.hoop.running = false ∧
      if 3 ≤ l.length then t.hoop.bank = 0 ∧ t.hoop.verA = none ∧ t.hoop.expiries = [] ∧ (logsOk s → Logged .hoopFallback 0 s t)
      else t.hoop.expiries = l ∧ (logsOk s → Logged .hoopWatchdog 0 s t)) ∧
  (∀ s, s.hoop.running = false → s.pwr.mode ≠ .save → 2 ≤ s.pwr.step →
    ∃ t, exec .hoopRunning s = .next t ∧ t.hoop = { s.hoop with running := true, load := none } ∧
      ∀ n q x d, s.hoop.load = some (n, q, x) → d ∈ (s.ctx n).acc → d.seq = q → d.phase ≠ .done → Answered n q 0 t) ∧
  (∀ x s, (s.pwr.mode = .save → exec .devRstWarm s = .next s ∧ exec (.warmReset x) s = .next s ∧ exec .devRstHoop s = .next s ∧
      exec .hoopRestart s = .next s ∧ exec .hoopWatchdog s = .next s ∧ exec .hoopRunning s = .next s) ∧
    (s.warmDue x = false → exec (.warmReset x) s = .next s) ∧ (s.hoop.warmEnd = none → exec .warmResetEnd s = .next s) ∧
    (s.hoop.running = true → exec .hoopRunning s = .next s))

/-- A reset of the host interface takes the link down, forgets the fetches under way and is logged; D3hot stops host
requests; recovery brings the link up again; and the loss of REFCLK enters SAFE, its return ending the condition. -/
def Obligations.HostLinkFallsAndRecovers : Prop :=
  (∀ s, s.pwr.mode ≠ .save → s.tor.pcieEn = true →
    ∃ t, exec .hostInterfaceReset s = .next t ∧ t.host = { s.host with linkUp := false, readReq := [] } ∧
      (∀ x ∈ t.ctxs, x.2.fetched = 0) ∧ (logsOk s → Logged .hostLinkDown 0 s t)) ∧
  (∀ k s, s.pwr.mode ≠ .save → s.tor.pcieEn = true → s.hoop.warmEnd = none → 4 ≤ s.pwr.step →
    ∃ t, exec (.hostRecovery k) s = .next t ∧ t.host.linkUp = true ∧ t.host.d3hot = false) ∧
  (∀ s, s.tor.pcieEn = true → ∃ t, exec .d3hotEntry s = .next t ∧ t.host = { s.host with d3hot := true }) ∧
  (∀ s, s.pwr.mode ≠ .save → ∃ t, exec .refclkLoss s = .next t ∧ t.pwr.mode = .safe) ∧
  (∀ s, ∃ t, exec .refclkReturn s = .next t ∧
    ∀ e ∈ t.flt.log, e.2.blk = 0x00 → e.2.cause = 0x06 → e.2.inst = 0 → e.2.active = false) ∧
  (∀ k s, s.tor.pcieEn = false →
    exec .hostInterfaceReset s = .next s ∧ exec (.hostRecovery k) s = .next s ∧ exec .d3hotEntry s = .next s)

/-- ACK sets ACK of the entry at the index, CLEAR removes an acknowledged entry whose cause is inactive and refuses any
other, ACK_ALL and CLEAR_ALL do so for every entry, and CLEAR_LOST clears the loss count; an entry whose halves disagree is
marked before. A released ALERT_L or FATAL_L that reads low in three samples in a row is held low externally, which is
logged; sixteen high samples in a row end it. -/
def Obligations.FaultLogActions : Prop :=
  (∀ p k s, p ≠ .bar2 → let i := s.flt.idx.get p
    ∃ t, exec (.fltAck p k) s = .next t ∧
      (∀ e, Sparse.find? s.flt.log i = some e → t.flt.result = 0 ∧
        Sparse.find? t.flt.log i = some { (if i ∈ k then e.corrupted else e) with ack := true }) ∧
      (Sparse.find? s.flt.log i = none → t.flt.result = 3 ∧ t.flt.log.map Prod.fst = s.flt.log.map Prod.fst)) ∧
  (∀ p k s, p ≠ .bar2 → let i := s.flt.idx.get p
    ∃ t, exec (.fltClear p k) s = .next t ∧
      (∀ e, Sparse.find? s.flt.log i = some e → let e' := if i ∈ k then e.corrupted else e
        if e'.ack = true ∧ e'.active = false then Sparse.find? t.flt.log i = none ∧ t.flt.result = 0
        else Sparse.find? t.flt.log i = some e' ∧ t.flt.result = if e'.ack then 1 else 2) ∧
      (Sparse.find? s.flt.log i = none → t.flt.result = 3 ∧ t.flt.log.map Prod.fst = s.flt.log.map Prod.fst)) ∧
  (∀ k s, ∃ t, exec (.fltAckAll k) s = .next t ∧ t.flt.log.map Prod.fst = s.flt.log.map Prod.fst ∧ ∀ e ∈ t.flt.log, e.2.ack = true) ∧
  (∀ s, ∃ t, exec (.fltClearAll []) s = .next t ∧
    ∀ e, e ∈ t.flt.log ↔ e ∈ s.flt.log ∧ ¬ (e.2.ack = true ∧ e.2.active = false)) ∧
  (∀ k s, ∃ t, exec (.fltClearAll k) s = .next t ∧ ∀ e ∈ t.flt.log, ¬ (e.2.ack = true ∧ e.2.active = false)) ∧
  (∀ s, ∃ t, exec .clearLost s = .next t ∧ t.flt = { s.flt with lost := 0, lostMax := 0 }) ∧
  (∀ x s, s.flt.alert = false → 2 ≤ s.flt.alertLow → ∃ t, exec (.pinReadback true x) s = .next t ∧ t.flt.alertExt = true ∧
    (s.flt.alertExt = false → logsOk s → Logged .pinReadback 0 s t)) ∧
  (∀ x s, s.flt.fatal = false → 2 ≤ s.flt.fatalLow → ∃ t, exec (.pinReadback x true) s = .next t ∧ t.flt.fatalExt = true ∧
    (s.flt.fatalExt = false → logsOk s → Logged .pinReadback 1 s t)) ∧
  (∀ x s, s.flt.alert = false → 15 ≤ s.flt.alertHigh → ∃ t, exec (.pinReadback false x) s = .next t ∧ t.flt.alertExt = false) ∧
  (∀ x s, s.flt.fatal = false → 15 ≤ s.flt.fatalHigh → ∃ t, exec (.pinReadback x false) s = .next t ∧ t.flt.fatalExt = false)

/-- An on-demand read puts the word's value and complement halves at the chosen reference in the path's registers, at once
when no word operation runs; a pulse that did not take is tried again, the fourth such one ending the word with status 0x74;
one that took sets its fuse and moves to the next; outside the window the word ends with status 0x72; an audit records its
time, on command, by its timer, and after a move of 10 °C. -/
def Obligations.FusesReadAndPulse : Prop :=
  (∀ p v s, p ≠ .bar2 → bits v.toNat 29 28 < 3 → s.otp.burn = none →
    ∃ t, exec (.otpRead p v) s = .next t ∧
      let f := s.fuse (v.toNat % 2048)
      (bits v.toNat 29 28 = 0 → t.otp.rdVal.get p = f.nv.toNat ∧ t.otp.rdComp.get p = f.nc.toNat) ∧
      (bits v.toNat 29 28 = 1 → t.otp.rdVal.get p = f.lv.toNat ∧ t.otp.rdComp.get p = f.lc.toNat) ∧
      (bits v.toNat 29 28 = 2 → t.otp.rdVal.get p = f.hv.toNat ∧ t.otp.rdComp.get p = f.hc.toNat)) ∧
  (∀ p v s, p ≠ .bar2 → bits v.toNat 29 28 = 3 →
    ∃ t, exec (.otpRead p v) s = .next t ∧ t.otp = s.otp ∧ (logsOk s → Logged .regWriteIgnored 0 s t)) ∧
  (∀ v s b, s.otp.burn = some b → b.pulseEnd ≤ s.now → b.stop = false → b.tries < 3 →
    (s.modOtp fun o => { o with rails := true }).otpWindow = true →
    ∃ t, exec (.otpPulseEnd false true v) s = .next t ∧ t.otp.fuses = s.otp.fuses ∧ t.otp.burn =
      some { b with pulses := b.pulses + 1, tries := b.tries + 1, pulseEnd := s.now + if v then 16000 else 80000 }) ∧
  (∀ v s b k, s.otp.burn = some b → b.pulseEnd ≤ s.now → b.stop = false →
    (s.modOtp fun o => { o with rails := true }).otpWindow = true → ((s.fuse b.word).set b.bitNo).nextBit b.target b.bitNo = some k →
    ∃ t, exec (.otpPulseEnd true true v) s = .next t ∧ t.fuse b.word = (s.fuse b.word).set b.bitNo ∧
      t.otp.burn = some { b with pulses := b.pulses + 1, bitNo := k, tries := 0, pulseEnd := s.now + if v then 16000 else 80000 }) ∧
  (∀ x r v s b n q d, s.otp.burn = some b → b.pulseEnd ≤ s.now → b.stop = false → b.owner = some (n, q) →
    d ∈ (s.ctx n).acc → d.seq = q → d.phase ≠ .done →
    (x = false → 3 ≤ b.tries → ∃ t, exec (.otpPulseEnd x r v) s = .next t ∧ Answered n q 0x0074 t) ∧
    (x = true → ∀ k, ((s.fuse b.word).set b.bitNo).nextBit b.target b.bitNo = some k →
      ∃ t, exec (.otpPulseEnd x false v) s = .next t ∧ Answered n q 0x0072 t)) ∧
  (∀ p r a s, p ≠ .bar2 → s.pwr.mode ≠ .save → ∃ t, exec (.otpAudit p r a) s = .next t ∧ t.otp.lastAudit = s.now) ∧
  (∀ r a s, s.pwr.mode ≠ .save → s.otp.lastAudit + 138240000000000 ≤ s.now →
    ∃ t, exec (.auditTimer r a) s = .next t ∧ t.otp.lastAudit = s.now) ∧
  (∀ r a s h, s.pwr.mode ≠ .save → s.hottest true = some h → 80 ≤ (h.1 - s.otp.auditTemp).natAbs →
    ∃ t, exec (.auditTimer r a) s = .next t ∧ t.otp.lastAudit = s.now) ∧
  (∀ x r v a b s, (s.otp.burn = none → exec (.otpPulseEnd x r v) s = .next s) ∧
    (s.pwr.mode = .save → exec (.auditTimer a b) s = .next s ∧ ∀ p, exec (.otpAudit p a b) s = .next s))

/-- An instruction the life-cycle permits is loaded; a TAP reset arms the report of a forbidden one again; and a full
self-test in MAINTENANCE with no other under way ends, once every region is out of self-refresh, with a result that says
whether it retired a channel. It is ignored in every other mode. -/
def Obligations.TestAccess : Prop :=
  (∀ k s, s.otp.tapOk k = true → ∃ t, exec (.tapInstruction k) s = .next t ∧ t.otp = { s.otp with tapInstr := k }) ∧
  (∀ k s, s.otp.tapOk k = false → ∃ t, exec (.tapInstruction k) s = .next t ∧ t.otp = { s.otp with tapInstr := 0, tapGated := true } ∧
    (s.otp.tapGated = false → logsOk s → Logged .tapGated 0 s t)) ∧
  (∀ s, ∃ t, exec .tapReset s = .next t ∧ t.otp = { s.otp with tapGated := false, tapInstr := 0 }) ∧
  (∀ g m s, s.pwr.mode = .maintenance → s.otp.stLive = none → ∃ t, exec (.selftestGo g m) s = .next t ∧
    if ∃ ch ∈ t.served, (t.chan ch).reg.inSr = true then t.otp.stLive = some s.served.length
    else t.otp.stLive = none ∧ t.otp.stResult = (if s.served.length = t.served.length then 1 else 2) ∧
      t.otp.stRetired = min (s.served.length - t.served.length) 0xFF) ∧
  (∀ g m s, s.pwr.mode ≠ .maintenance ∨ s.otp.stLive.isSome → ∃ t, exec (.selftestGo g m) s = .next t ∧ t.otp = s.otp ∧
    (logsOk s → Logged .regWriteIgnored 0 s t))

/-- A sampling instant records itself and sets the feedback demand; an evaluation moves the rung down one step exactly when
a limit or the rise limit is passed and no orderly trip is under way; after 16 cool evaluations the rung moves up one step.
-/
def Obligations.SamplesAndEvaluations : Prop :=
  (∀ r s, s.nextGrid 25600 s.thm.lastSample + 1600 ≤ s.now →
    ∃ t, exec (.sensorSample r) s = .next t ∧ t.thm.lastSample = s.nextGrid 25600 s.thm.lastSample ∧
      t.thm.dFb = ((t.thm.fbGain : Int) * max 0 (t.plate - 8 * (t.thm.tSet : Int)) / 8).toNat) ∧
  (∀ s, s.nextGrid 1638400 s.thm.lastEval + 1600 ≤ s.now → s.nextGrid 1638400 s.thm.lastEval ≤ s.thm.lastSample →
    let m := s.thm.takeCfg
    let up := decide (((s.hottest false).map (·.1)).getD (-2048) > 8 * (m.thrStart : Int)) ||
      decide (((s.hottest true).map (·.1)).getD (-2048) > 864) || rateAtLeast m.maxRate m.riseThr
    ∃ t, exec .evaluation s = .next t ∧ t.thm.lastEval = s.nextGrid 1638400 s.thm.lastEval ∧ t.thm.maxRate = none ∧
      t.thm.rung = if up && m.tripOrderly.isNone && decide (m.rung < 21) then m.rung + 1 else m.rung) ∧
  (∀ s, 16 ≤ s.thm.coolEvals → 0 < s.thm.rung → s.thm.tripOrderly = none →
    ∃ t, exec .rungRestore s = .next t ∧ t.thm.rung = s.thm.rung - 1 ∧ t.thm.coolEvals = 15) ∧
  (∀ r s, (s.now < s.nextGrid 25600 s.thm.lastSample + 1600 → exec (.sensorSample r) s = .next s) ∧
    (s.now < s.nextGrid 1638400 s.thm.lastEval + 1600 ∨ s.thm.lastSample < s.nextGrid 1638400 s.thm.lastEval →
      exec .evaluation s = .next s) ∧
    (s.thm.coolEvals < 16 ∨ s.thm.rung = 0 ∨ s.thm.tripOrderly.isSome → exec .rungRestore s = .next s))

/-- A sample puts a die whose hottest usable sensor is above 95 °C in the 4× band and one above 85 °C at least in the 2×
band; after 64 samples at least 2 °C below the lower edge the band falls one step; and a failed sensor is valid again after
64 good samples. -/
def Obligations.BandsFollowTheSensors : Prop :=
  (∀ d k s, ((dieOf (4 * d)).any fun i => (s.sensor i).usable) = true → s.bandOf d ≤ 4 → 760 < s.dieHot d →
    (State.bandSample d k s).bandOf d = 4) ∧
  (∀ d k s, ((dieOf (4 * d)).any fun i => (s.sensor i).usable) = true → 680 < s.dieHot d → 2 ≤ (State.bandSample d k s).bandOf d) ∧
  (∀ d s, 64 ≤ Sparse.get 0 s.thm.falls d → 1 < s.bandOf d →
    ∃ t, exec (.bandFall d) s = .next t ∧ t.bandOf d = s.bandOf d / 2 ∧
      ∀ j < 8, (t.chan (8 * d + j)).refr.band = s.bandOf d / 2) ∧
  (∀ i s, (s.sensor i).failed = true → 64 ≤ (s.sensor i).good →
    ∃ t, exec (.sensorRecover i) s = .next t ∧ (t.sensor i).failed = false ∧
      ∀ e ∈ t.flt.log, e.2.blk = 0x02 → e.2.cause = 0x01 → e.2.inst = i → e.2.active = false) ∧
  (∀ d i s, (Sparse.get 0 s.thm.falls d < 64 ∨ s.bandOf d ≤ 1 → exec (.bandFall d) s = .next s) ∧
    ((s.sensor i).failed = false ∨ (s.sensor i).good < 64 → exec (.sensorRecover i) s = .next s))

/-- An orderly trip with every channel quiet and Direct Access idle enters SAFE; one that has not completed in 1 ms becomes
a hard trip; and after 64 cool samples the trip condition ends. -/
def Obligations.TripsRun : Prop :=
  (∀ s, s.thm.tripOrderly.isSome → s.quiet = true → s.daIdle = true → s.pwr.mode ≠ .save → s.pwr.mode ≠ .safe →
    ∃ t, exec .orderlyTripComplete s = .next t ∧ t.pwr.mode = .safe ∧ t.thm.tripOrderly = none ∧ t.thm.duty = 0x100) ∧
  (∀ s b, s.thm.tripOrderly = some b → b + 1600000 ≤ s.now → s.pwr.mode ≠ .save →
    ∃ t, exec .orderlyTripTimeout s = .next t ∧ t.pwr.mode = .safe ∧ t.thm.tripActive = true ∧ t.thm.tripOrderly = none) ∧
  (∀ s, s.thm.tripActive = true → s.thm.tripOrderly = none → 64 ≤ s.thm.tripClear →
    ∃ t, exec .tripConditionClear s = .next t ∧ t.thm.tripActive = false ∧
      ∀ e ∈ t.flt.log, e.2.blk = 0x02 → e.2.cause = 0x06 → e.2.active = false) ∧
  (∀ s, (s.thm.tripOrderly = none ∨ s.quiet = false ∨ s.daIdle = false → exec .orderlyTripComplete s = .next s) ∧
    (s.thm.tripOrderly = none → exec .orderlyTripTimeout s = .next s) ∧
    (s.thm.tripActive = false ∨ s.thm.tripOrderly.isSome ∨ s.thm.tripClear < 64 → exec .tripConditionClear s = .next s))

/-- Each period of COOL_DEM takes the demand code in force; three periods of a wrong readback are a stuck pin, which is
logged, and sixteen right ones end it; and a write to THM_COOL_CFG with good fields sets them all, one with a bad LEAD or
D_MIN none, and one that would use the pin for both functions only sets PIN_BUSY. -/
def Obligations.CoolingDemand : Prop :=
  (∀ x y s, s.nextGrid 64000 s.thm.lastPeriod ≤ s.now →
    ∃ t, exec (.coolDemPeriod x y) s = .next t ∧ t.thm.duty = s.nextDuty ∧ t.thm.lastPeriod = s.nextGrid 64000 s.thm.lastPeriod) ∧
  (∀ s, 3 ≤ s.thm.stuckHiRun → s.thm.pinState ≠ 1 →
    ∃ t, exec .coolStuck s = .next t ∧ t.thm.pinState = 1 ∧ (logsOk s → Logged .coolStuckHigh 0 s t)) ∧
  (∀ s, s.thm.stuckHiRun < 3 → 3 ≤ s.thm.stuckLoRun → s.thm.pinState ≠ 2 →
    ∃ t, exec .coolStuck s = .next t ∧ t.thm.pinState = 2 ∧ (logsOk s → Logged .coolStuckLow 0 s t)) ∧
  (∀ s, s.thm.pinState ≠ 0 → 16 ≤ s.thm.agreeRun → ∃ t, exec .coolStuckClear s = .next t ∧ t.thm.pinState = 0) ∧
  (∀ v s, ∃ t, exec (.coolCfgWrite v) s = .next t ∧
    if (bits v.toNat 30 30 = 1 ∧ (s.thm.coolEn = true ∨ bit v.toNat 31 = true)) ∨ (bit v.toNat 31 = true ∧ s.thm.pinFunc = 1) then
      t.thm = { s.thm with pinBusy := true } ∧ (logsOk s → Logged .regWriteIgnored 0 s t)
    else if bits v.toNat 24 16 < 5 ∨ 300 < bits v.toNat 24 16 ∨ 256 < bits v.toNat 8 0 then
      t.thm = s.thm ∧ (logsOk s → Logged .regWriteIgnored 0 s t)
    else t.thm = { s.thm with coolEn := bit v.toNat 31, pinFunc := bits v.toNat 30 30, lead := bits v.toNat 24 16, dMin := bits v.toNat 8 0 }
      ∧ t.flt = s.flt) ∧
  (∀ x y s, (s.now < s.nextGrid 64000 s.thm.lastPeriod → exec (.coolDemPeriod x y) s = .next s) ∧
    (s.thm.stuckHiRun < 3 → s.thm.stuckLoRun < 3 → exec .coolStuck s = .next s) ∧
    (s.thm.pinState = 0 ∨ s.thm.agreeRun < 16 → exec .coolStuckClear s = .next s))

/-- A conversion whose test passes records the temperature and counts as good; one that fails counts as failing; three
failing ones fault the input, which is logged, and sixteen good ones restore it. -/
def Obligations.RemoteDiodes : Prop :=
  (∀ i dv v1 vr s, i ≤ 1 → bit s.thm.tdEn i = true → (Sparse.get {} s.thm.td i).last + 2 ^ 24 ≤ s.now →
    let x := diodeTemp dv s.thm.tdRs s.thm.tdNf
    ∃ t, exec (.tdConversion i dv v1 vr) s = .next t ∧ (Sparse.get {} t.thm.td i).last = s.now ∧
      if diodeTest x v1 vr = 1
      then (Sparse.get {} t.thm.td i).temp = x ∧ (Sparse.get {} t.thm.td i).goods = (Sparse.get {} s.thm.td i).goods + 1
      else (Sparse.get {} t.thm.td i).badKind = diodeTest x v1 vr ∧
        (Sparse.get {} t.thm.td i).fails = (Sparse.get {} s.thm.td i).fails + 1) ∧
  (∀ i s, i ≤ 1 → bit s.thm.tdEn i = true → 3 ≤ (Sparse.get {} s.thm.td i).fails → (Sparse.get {} s.thm.td i).state ≤ 1 →
    ∃ t, exec (.tdFault i) s = .next t ∧ (Sparse.get {} t.thm.td i).state = (Sparse.get {} s.thm.td i).badKind ∧
      (logsOk s → Logged .tdFault i s t)) ∧
  (∀ i s, 2 ≤ (Sparse.get {} s.thm.td i).state → 16 ≤ (Sparse.get {} s.thm.td i).goods →
    ∃ t, exec (.tdRecover i) s = .next t ∧ (Sparse.get {} t.thm.td i).state = 1) ∧
  (∀ i dv v1 vr s, (1 < i ∨ bit s.thm.tdEn i = false →
      exec (.tdConversion i dv v1 vr) s = .next s ∧ exec (.tdFault i) s = .next s) ∧
    ((Sparse.get {} s.thm.td i).goods < 16 → exec (.tdRecover i) s = .next s))

/-- At its ck a slot of each opcode moves the stream on by one slot and has the effect of its opcode: ACT opens its row and
a template ACT begins a template; RD and FETCH send a read; WR stores its granule, zeros or the next words of the analysis
output, and a starved analysis write stores nothing; the read half of an RMW enters the merge queue and its write half is
done with; PRE and PREA close rows; REFab and REFpb credit the banks they name; MARK counts; OPEN begins its run and serves
make-up that is ready; a maintenance slot makes its work pending and gives the window to pending calibration. A word that
fails SECDED stops the function before its slot. A slot whose ck has not come, or of another opcode, does nothing. -/
def Obligations.SlotsTakeEffect : Prop :=
  (∀ ch w h s, s.slotNow ch opNOP = some w → h ≠ .double → ∃ t, exec (.nopSlot ch h) s = .next t ∧ SlotMoved ch w s t ∧
    t.dram = s.dram ∧ (t.chan ch).flights = (s.chan ch).flights) ∧
  (∀ ch s, (s.chan ch).issuing s.now = true → ∃ t, exec (.nopSlot ch .double) s = .next t ∧ (t.chan ch).state = .stopping ∧
    (t.chan ch).seq.stopCauseReq = 8 ∧ (t.chan ch).seq.stopAt = some ((s.chan ch).seq.slotCk - 1) ∧ t.dram = s.dram ∧
    (logsOk s → Logged .cardUncorrectable ch s t)) ∧
  (∀ ch w s, s.slotNow ch opACT = some w → ∃ t, exec (.act ch) s = .next t ∧ SlotMoved ch w s t ∧
    let a := ((s.chan ch).seq.genNow w).1
    if slotDp w = dpTCMD then (t.chan ch).cap.tplPre.length = (s.chan ch).cap.tplPre.length + 1
    else (t.chan ch).reg.lastAct = (s.chan ch).seq.slotCk ∧ ((t.chan ch).seq.stopAt = none → (t.chan ch).reg.openRows =
      ((s.chan ch).reg.openRows.filter fun x => x.1 != a / 2 ^ 21) ++ [(a / 2 ^ 21, a / 256 % 8192)])) ∧
  (∀ ch w s, s.slotNow ch opRD = some w → ∃ t, exec (.rd ch) s = .next t ∧ SlotMoved ch w s t ∧
    (t.chan ch).flights.length = (s.chan ch).flights.length + 1 ∧
    ∃ f ∈ (t.chan ch).flights, f.addr = ((s.chan ch).seq.genNow w).1 ∧ f.issue = (s.chan ch).seq.slotCk) ∧
  (∀ ch w h s, s.slotNow ch opWR = some w → ∃ t, exec (.wr ch h) s = .next t ∧ SlotMoved ch w s t ∧
    let a := ((s.chan ch).seq.genNow w).1
    if slotDp w = dpANAW then
      ((s.chan ch).starved = true → t.dram = s.dram) ∧
      ((s.chan ch).starved = false → h ≠ .double → (s.chan ch).eyes.badMask = 0 →
        ∀ j < 4, t.cell ch (a / 4 * 4 + j) = ((s.chan ch).ana.writeOut (s.chan ch).seq.slotCk).1.getD j 0)
    else (s.chan ch).eyes.badMask = 0 → ∀ j < 4, t.cell ch (a / 4 * 4 + j) = (fillGranule 0 false).getD j 0) ∧
  (∀ ch w h s, s.slotNow ch opRMW = some w → isReadHalf w = true → ∃ t, exec (.rmw ch h) s = .next t ∧ SlotMoved ch w s t ∧
    t.dram = s.dram ∧ (t.chan ch).flights.length = (s.chan ch).flights.length + 1 ∧
    (t.chan ch).cap.nextId = (s.chan ch).cap.nextId + 1 ∧
    ∃ m ∈ (t.chan ch).cap.merges, m.id = (s.chan ch).cap.nextId ∧ m.issue = (s.chan ch).seq.slotCk ∧
      (slotDp w ≠ dpTRD → m.addr = ((s.chan ch).seq.genNow w).1)) ∧
  (∀ ch w h s, s.slotNow ch opRMW = some w → isReadHalf w = false →
    if (s.chan ch).cap.writeReady = true then ∃ t, exec (.rmw ch h) s = .next t ∧ SlotMoved ch w s t ∧
      ∀ m, (s.chan ch).cap.nextWrite = some m → ∀ x ∈ (t.chan ch).cap.merges, x.id = m.id → x.slotDone = true
    else exec (.rmw ch h) s = .next s) ∧
  (∀ ch w s, s.slotNow ch opPRE = some w → ∃ t, exec (.pre ch) s = .next t ∧ SlotMoved ch w s t ∧
    if slotDp w = dpTCMD then (t.chan ch).cap.tplPre = (s.chan ch).cap.tplPre.drop 1
    else (t.chan ch).seq.stopAt = none → (t.chan ch).reg.openRows =
      (s.chan ch).reg.openRows.filter fun x => x.1 != ((s.chan ch).seq.genNow w).1 / 2 ^ 21) ∧
  (∀ ch w s, s.slotNow ch opPREA = some w → ∃ t, exec (.prea ch) s = .next t ∧ SlotMoved ch w s t ∧ (t.chan ch).reg.openRows = []) ∧
  (∀ ch w s, s.slotNow ch opREFAB = some w → ∃ t, exec (.refab ch) s = .next t ∧ SlotMoved ch w s t ∧
    let u := (s.chan ch).seq.slotCk
    ∀ b < 32, (t.chan ch).refr.debtAt u b =
      if -174720 ≤ (s.chan ch).refr.debtAt u b then (s.chan ch).refr.debtAt u b - 24960 else (s.chan ch).refr.debtAt u b) ∧
  (∀ ch w s, s.slotNow ch opREFPB = some w → ∃ t, exec (.refpb ch) s = .next t ∧ SlotMoved ch w s t ∧
    let u := (s.chan ch).seq.slotCk
    ∀ b < 32, (t.chan ch).refr.debtAt u b =
      if b = ((s.chan ch).seq.genNow w).1 / 2 ^ 21 ∧ -174720 ≤ (s.chan ch).refr.debtAt u b
      then (s.chan ch).refr.debtAt u b - 24960 else (s.chan ch).refr.debtAt u b) ∧
  (∀ ch w s, s.slotNow ch opFETCH = some w → ∃ t, exec (.fetch ch) s = .next t ∧ SlotMoved ch w s t ∧
    (t.chan ch).flights.length = (s.chan ch).flights.length + 1 ∧
    ∃ f ∈ (t.chan ch).flights, f.addr = ((s.chan ch).seq.genNow w).1 ∧ f.issue = (s.chan ch).seq.slotCk) ∧
  (∀ ch w s, s.slotNow ch opMARK = some w → ∃ t, exec (.mark ch) s = .next t ∧ SlotMoved ch w s t ∧ t.dram = s.dram ∧
    ∀ n < 1024, n / 8 = ch → (s.chan ch).func ≠ .retired → Sparse.sorted none s.cnt.tab = true → let c := s.counter n
      cfgEn c.cfg = true → cfgChain c.cfg = false → cfgWindow c.cfg = true → cfgEvent c.cfg = 0x003 →
      bit (cfgQual c.cfg) 10 = true ∨ cfgQual c.cfg % 1024 = slotMark w → (t.counter n).acc = c.acc + 1) ∧
  (∀ ch w n f s, s.slotNow ch opOPEN = some w → ∃ t, exec (.openRun ch n f) s = .next t ∧ SlotMoved ch w s t ∧
    let q := (s.chan ch).seq
    (q.runOff = 0 → (s.chan ch).wardenActive q.slotCk = false →
      (t.chan ch).seq.runLen = q.runFrom opOPEN runCap (some q.pos) ∧ (t.chan ch).seq.runWarden = false) ∧
    (∀ m, 0 < q.runOff → q.runWarden = false → 64 ≤ q.runOff → (q.runOff - 64) % 8 = 0 → (q.runOff - 64) / 8 < openCap q.runLen →
      (s.chan ch).makeupReady = some m → m.pair = none → (t.chan ch).refr.makeup = (s.chan ch).liveMakeup.erase m)) ∧
  (∀ ch op c w m s, (op, c) ∈ [(opSCRUB, Instr.scrub ch m), (opTRAIN, .train ch m), (opCAL, .cal ch m), (opBIST, .bist ch m)] →
    s.slotNow ch op = some w → ∃ t, exec c s = .next t ∧
      ((s.chan ch).seq.windowEnds = false → SlotMoved ch w s t ∧
        ((s.chan ch).seq.runOff = 0 → (op = opTRAIN → (t.chan ch).maint.train = true) ∧ (op = opBIST → (t.chan ch).maint.bist = true) ∧
          ((s.chan ch).maint.cal = true → (s.chan ch).src.panic = false → (s.chan ch).wardenActive (s.chan ch).seq.slotCk = false →
            let l := (s.chan ch).seq.runFrom 16 runCap (some (s.chan ch).seq.pos)
            128 ≤ l → (t.chan ch).seq.winWork = some (0, l)))) ∧
      ((s.chan ch).seq.windowEnds = true → (t.chan ch).func ≠ .retired → (t.chan ch).seq.stopAt = none → SlotMoved ch w s t)) ∧
  (∀ ch h n f m s op c, (op, c) ∈ [(opNOP, Instr.nopSlot ch h), (opACT, .act ch), (opRD, .rd ch), (opWR, .wr ch h), (opRMW, .rmw ch h),
      (opPRE, .pre ch), (opPREA, .prea ch), (opREFAB, .refab ch), (opREFPB, .refpb ch), (opFETCH, .fetch ch), (opMARK, .mark ch),
      (opOPEN, .openRun ch n f), (opSCRUB, .scrub ch m), (opTRAIN, .train ch m), (opCAL, .cal ch m), (opBIST, .bist ch m)] →
    (op = opNOP → h ≠ .double) → s.slotNow ch op = none → exec c s = .next s)

/-- After every slot the channel's next slot lies one ck later, the generator offsets are those after it, and a slot with
CKPT raises the checkpoint number by one and records its place. -/
def Obligations.SlotsAdvanceTheStream : Prop :=
  ∀ (ch : Nat) (w : Word) (s : State), SlotMoved ch w s (s.slotDone ch w) ∧
    let q := (s.chan ch).seq
    let r := ((s.slotDone ch w).chan ch).seq
    r.ckptNo = q.ckptNo + (if slotCkpt w then 1 else 0) ∧
      (slotCkpt w = true → ∃ k, Sparse.find? r.ckpts (q.ckptNo + 1) = some k ∧ k.ck = q.slotCk ∧ k.pos = q.pos ∧ k.gens = r.gens)

/-- ACT opens its row in place of the bank's open one, PRE closes its bank and leaves every other; a refresh brings every
debt forward and takes one refresh of credit from each bank it names that owes more than the limit. -/
def Obligations.RowsAndRefreshes : Prop :=
  (∀ (ch : Nat) (w : Word) (s : State), slotDp w ≠ dpTCMD → let a := ((s.chan ch).seq.genNow w).1
    ((s.actSlot ch w).chan ch).reg.openRows =
      ((s.chan ch).reg.openRows.filter fun x => x.1 != a / 2 ^ 21) ++ [(a / 2 ^ 21, a / 256 % 8192)]) ∧
  (∀ (ch : Nat) (w : Word) (s : State), slotDp w ≠ dpTCMD → let a := ((s.chan ch).seq.genNow w).1
    ∀ x, x ∈ ((s.preSlot ch w).chan ch).reg.openRows ↔ x ∈ (s.chan ch).reg.openRows ∧ x.1 ≠ a / 2 ^ 21) ∧
  (∀ (ch u : Nat) (f : Nat → Bool) (s : State) (b : Nat), b < 32 → let r := ((s.refreshAt ch u f).2.chan ch).refr
    let d := (s.chan ch).refr.debtAt u b
    r.since = u ∧ r.debtAt u b = (if f b = true ∧ -174720 ≤ d then d - 24960 else d))

/-- A pending tier switch moves the stream to the selected tier, and stops it where no place follows. A due steal counts a
contract break, which it logs, and refreshes the channel 24 ck after the first ck at which every row may close. An idle
channel that would owe a refresh sends one; otherwise it does its pending maintenance work, a scrub operation when the scrub
interval has passed, and Direct Access. The oldest read in flight leaves when its data arrive. -/
def Obligations.StreamControl : Prop :=
  (∀ ch s, let q := (s.chan ch).seq
    q.atSwitch = true → q.stopAt = none → ∃ t, exec (.tierSwitch ch) s = .next t ∧ (t.chan ch).seq.atSwitch = false ∧
      (t.chan ch).seq.slotCk = q.slotCk ∧
      match (if q.tierSel = q.pos.tier then (q.sect.getD {}).next q.pos else (q.sect.getD {}).switchTo q.pos q.tierSel) with
      | some p => (t.chan ch).seq.pos = p
      | none => (t.chan ch).state = .stopping ∧ (t.chan ch).seq.stopAt = some (q.slotCk - 1)) ∧
  (∀ ch s, (s.chan ch).issuing s.now = true → (s.chan ch).stealDue = true →
    let c := s.chan ch
    let after (u d : Nat) : Nat := if u = 0 then 0 else u + d
    let prea := max (max c.seq.slotCk (after c.reg.lastAct 52)) (max (after c.reg.lastRd 8) (after c.reg.lastWr 38))
    ∃ t, exec (.steal ch) s = .next t ∧ (t.chan ch).refr.breaks = satAdd 0xFF c.refr.breaks 1 ∧
      (t.chan ch).refr.lastBreak = some c.seq.spanStart ∧ (t.chan ch).reg.lastRef = prea + 24 ∧
      (logsOk s → Logged .contractBreak ch s t)) ∧
  (∀ ch w f h s, (s.chan ch).idle = true → ch < s.members → let c := s.chan ch
    ∃ t, exec (.idleSchedule ch w f h) s = .next t ∧
      if 1 ≤ c.refr.maxOwed (s.now + 1) ∧ c.reg.lastRef + 560 ≤ s.now ∧ c.fitsStart s.now 560 = true then
        (t.chan ch).reg.lastRef = s.now ∧ ∀ b < 32, (t.chan ch).refr.debtAt s.now b =
          if -174720 ≤ c.refr.debtAt s.now b then c.refr.debtAt s.now b - 24960 else c.refr.debtAt s.now b
      else (t.chan ch).reg.lastRef = c.reg.lastRef ∧
        (c.maint.train = true → c.maint.bist = false → c.maint.cal = false → c.eyes.calTrig = none → c.eyes.calRun = false →
          c.fitsStart s.now 1024 = true → ((s.dieHot (ch / 8) - 8 * c.eyes.calTemp).natAbs : Int) < 8 * c.eyes.retrig →
          (t.chan ch).maint.train = false) ∧
        (c.maint = {} → c.eyes.calTrig = none → c.eyes.calRun = false →
          ((s.dieHot (ch / 8) - 8 * c.eyes.calTemp).natAbs : Int) < 8 * c.eyes.retrig →
          c.ecc.lastIdleScrub + c.ecc.idleGap ≤ s.now → c.fitsStart s.now 129 = true → c.ecc.targeted ≠ [] →
          (t.chan ch).ecc.lastIdleScrub = s.now)) ∧
  (∀ ch n h r s x rest, (s.chan ch).flights = x :: rest → x.issue + 30 ≤ s.now →
    ∃ t, exec (.readData ch n h r) s = .next t ∧ (t.chan ch).flights = rest) ∧
  (∀ ch w f g h n r s, ((s.chan ch).seq.atSwitch = false ∨ (s.chan ch).seq.stopAt.isSome → exec (.tierSwitch ch) s = .next s) ∧
    ((s.chan ch).issuing s.now = false ∨ (s.chan ch).stealDue = false → exec (.steal ch) s = .next s) ∧
    ((s.chan ch).idle = false ∨ s.members ≤ ch → exec (.idleSchedule ch w f g) s = .next s) ∧
    ((s.chan ch).flights = [] ∨ (∀ x ∈ (s.chan ch).flights, s.now < x.issue + 30) → exec (.readData ch n h r) s = .next s))

/-- Twelve ck before its deadline a word is handed to the lane switch: the word of its granule when that was ready in time
and is good, an idle beat when it is not, which is logged as late. A whole record leaves the words of its group once the
last one has crossed: a scheduled one counts for its group, and an addressed one that is valid, in range and within its rate
joins the queue of its bank unless it is zero. -/
def Obligations.WordsAndRecords : Prop :=
  (∀ ch g s sec ps per ts x r, (s.chan ch).seq.sect = some sec → sec.func = .source → (s.chan ch).seq.stopAt = none →
    s.positions false g ch = some (ps, per, ts) → ((s.chan ch).src.group g).queue = [] → ((s.chan ch).src.group g).segs = x :: r →
    let gr := (s.chan ch).src.group g
    let p := posBeat ps per (x.start + x.done)
    let y := gr.gran (x.ids.getD (x.done / 8 % max 1 x.ids.length) (x.hdr.getD 0))
    x.kind ≠ .hold → gr.cons ≤ x.start + x.done → y.starved = false → y.bad = false → ∃ t, exec (.wordRelease ch g) s = .next t ∧
      let b : TxBeat := { lane := p.2, deadline := ts + 2 * p.1, word := none, chan := ch, sent := s.now, reason := 2 }
      if s.now + 12 < b.deadline then (t.group false g).launch = (s.group false g).launch
      else if y.readyBy b.deadline = true then
        (t.group false g).launch = (s.group false g).launch ++ [{ b with word := some (y.words.getD (x.done % 8) 0) }]
      else (s.now ≤ b.deadline → (t.group false g).launch = (s.group false g).launch ++ [b]) ∧ (logsOk s → Logged .sourceLate ch s t)) ∧
  (∀ ch g h s x, (s.chan ch).seq.sect = some x → x.func = .capture →
    let n := if x.addressedGroup g then 10 else 8
    let ws := Sparse.get [] (s.chan ch).cap.acc g
    let due := ((ws.take n).getLast?.elim 0 fun y => y.1 / 8) + 10
    n ≤ ws.length → due ≤ s.now →
    ∃ t, exec (.recordComplete ch g h) s = .next t ∧ Sparse.get [] (t.chan ch).cap.acc g = ws.drop n ∧
      (x.addressedGroup g = false → Sparse.get 0 (t.chan ch).cap.recNo g = Sparse.get 0 (s.chan ch).cap.recNo g + 1) ∧
      ∀ a u b, x.addressedGroup g = true → h ≠ .double → (s.chan ch).seq.stopAt = none → (s.chan ch).starved = false →
        ws.getD 0 (0, none) = (u, some a) → ws.getD 1 (0, none) = (b, some (~~~a)) → a.toNat < 2 ^ 26 → a.toNat % 4 = 0 →
        (s.chan ch).inPriv a.toNat = false → (s.chan ch).tatB (a.toNat / 2 ^ 21) ≤ due → (s.chan ch).tatA ≤ due →
        (∃ i < 8, (ws.getD (2 + i) (0, none)).2.getD 0 ≠ 0) → (s.chan ch).cap.bankq.length < 64 →
        (t.chan ch).cap.bankq.length = (s.chan ch).cap.bankq.length + 1) ∧
  (∀ ch g h s, ((s.chan ch).seq.sect = none → exec (.wordRelease ch g) s = .next s ∧ exec (.recordComplete ch g h) s = .next s) ∧
    (∀ x, (s.chan ch).seq.sect = some x → (x.func ≠ .source → exec (.wordRelease ch g) s = .next s) ∧
      (x.func ≠ .capture ∨ (Sparse.get [] (s.chan ch).cap.acc g).length < 8 → exec (.recordComplete ch g h) s = .next s)))

/-- A scrub period boundary clears the filter and takes a pending period; a full monitor window restarts its counts; the
idle timer makes self-test work pending; and a bobbin whose copies disagree stops its function, or is retired when its
self-test fails. -/
def Obligations.MaintenanceEvents : Prop :=
  (∀ ch s, (s.chan ch).ecc.lastBoundary < s.lastGrid (s.chan ch).ecc.periodCk →
    ∃ t, exec (.scrubPeriodBoundary ch) s = .next t ∧ (t.chan ch).ecc.filter = [] ∧ (t.chan ch).ecc.periodPend = none ∧
      (t.chan ch).ecc.period = (s.chan ch).ecc.periodPend.getD (s.chan ch).ecc.period ∧
      (t.chan ch).ecc.lastBoundary = s.lastGrid (s.chan ch).ecc.periodCk) ∧
  (∀ ch s, 65536 ≤ (s.chan ch).eyes.decodes →
    ∃ t, exec (.monitorWindow ch) s = .next t ∧ (t.chan ch).eyes.decodes = (s.chan ch).eyes.decodes - 65536 ∧
      ∀ x ∈ (t.chan ch).eyes.mon, x.2.cnt = 0) ∧
  (∀ ch s, (s.chan ch).state = .idle ∨ (s.chan ch).state = .stopped ∨ (s.chan ch).state = .starting →
    (s.chan ch).bist.lastIdle + 16000000000 ≤ s.now →
    ∃ t, exec (.bistIdleTimer ch) s = .next t ∧ (t.chan ch).maint.bist = true ∧ (t.chan ch).bist.lastIdle = s.now) ∧
  (∀ ch g s, (s.chan ch).func ≠ .retired → (s.chan ch).state = .running → (s.chan ch).seq.stopAt = none → (s.chan ch).retirePend = false →
    ∃ t, exec (.lockstep ch g) s = .next t ∧ (t.chan ch).state = .stopping ∧
      (t.chan ch).seq.stopAt = some ((s.chan ch).seq.slotCk - 1) ∧
      (g = [] → (t.chan ch).retirePend = (s.chan ch).retirePend ∧ (logsOk s → Logged .lockstep ch s t))) ∧
  (∀ ch g s, ((s.chan ch).ecc.lastBoundary ≥ s.lastGrid (s.chan ch).ecc.periodCk → exec (.scrubPeriodBoundary ch) s = .next s) ∧
    ((s.chan ch).eyes.decodes < 65536 → exec (.monitorWindow ch) s = .next s) ∧
    ((s.chan ch).state = .running ∨ (s.chan ch).state = .stopping ∨ (s.chan ch).state = .retired ∨
      s.now < (s.chan ch).bist.lastIdle + 16000000000 → exec (.bistIdleTimer ch) s = .next s) ∧
    ((s.chan ch).func = .retired → exec (.lockstep ch g) s = .next s))

/-- A parity flag is remembered, and the sixteenth within 65,536 ck is a CA emergency that stops the function and sends the
region to self-refresh, as strobe loss does; heartbeat loss enters self-refresh, closes every row and counts; a region in
self-refresh refreshes itself at its interval; and once its clock has been back long enough its exit begins a new scrambler
epoch. -/
def Obligations.RegionEvents : Prop :=
  (∀ ch v r s, (s.chan ch).func ≠ .retired → (s.chan ch).reg.inSr = false →
    (List.range 22).foldl (fun b i => b != v.getLsbD i) true = false →
    let seen := (s.chan ch).eyes.parity.filter fun u => s.now < u + 65536
    ∃ t, exec (.parityFlag ch v r) s = .next t ∧
      if seen.length < 15 then (t.chan ch).eyes.parity = seen ++ [s.now] ∧ (t.chan ch).eyes.paritySeen = true
      else (t.chan ch).eyes.parity = [] ∧ (t.chan ch).reg.inSr = true ∧ (logsOk s → Logged .caFail ch s t)) ∧
  (∀ ch x y s, (s.chan ch).func ≠ .retired → (s.chan ch).reg.inSr = false →
    ∃ t, exec (.strobeLoss ch x y) s = .next t ∧ (t.chan ch).reg.inSr = true ∧ (logsOk s → Logged .clockFail ch s t)) ∧
  (∀ ch e s, ch < s.members → e + 64 ≤ s.now → s.now ≤ e + 80 → (s.chan ch).reg.inSr = false →
    ∃ t, exec (.heartbeatLoss ch e) s = .next t ∧ (t.chan ch).reg.inSr = true ∧ (t.chan ch).reg.openRows = [] ∧
      (t.chan ch).reg.exitAt = s.now + 3200 ∧ (t.chan ch).reg.autoEntry = true ∧
      (t.chan ch).reg.autoCount = satAdd 0xFFFF (s.chan ch).reg.autoCount 1) ∧
  (∀ ch s, (s.chan ch).reg.inSr = true → (s.chan ch).reg.srLast + srInterval (s.srBand (ch / 8)) ≤ s.now →
    ∃ t, exec (.selfRefreshInterval ch) s = .next t ∧
      (t.chan ch).reg = { (s.chan ch).reg with rowCounter := ((s.chan ch).reg.rowCounter + 1) % 2048, srLast := s.now }) ∧
  (∀ ch c w b s, (s.chan ch).reg.inSr = true → (s.chan ch).reg.exitAt ≠ 0 → (s.chan ch).reg.exitAt ≤ s.now → 3200 ≤ c →
    (s.chan ch).reg.gapAt + c ≤ s.now → (s.chan ch).func ≠ .retired → (s.chan ch).eyes.emerg = none →
    ∃ t, exec (.selfRefreshExit ch c w b) s = .next t ∧ (t.chan ch).eyes.epoch = s.now ∧
      ((t.chan ch).func ≠ .retired → (t.chan ch).reg.inSr = false)) ∧
  (∀ ch v r x y e c w b s,
    ((s.chan ch).func = .retired ∨ (s.chan ch).reg.inSr = true →
      exec (.parityFlag ch v r) s = .next s ∧ exec (.strobeLoss ch x y) s = .next s) ∧
    (s.members ≤ ch ∨ s.now < e + 64 ∨ e + 80 < s.now → exec (.heartbeatLoss ch e) s = .next s) ∧
    ((s.chan ch).reg.inSr = false → exec (.selfRefreshInterval ch) s = .next s ∧ exec (.selfRefreshExit ch c w b) s = .next s))

/-- On a channel of the device that is in service, outside RETENTION, CH_PRIV moves the region and zeroes the rows it gains,
CH_DA_REG sets a class and fills its bucket, CH_CAL_CFG sets RETRIG and asks for a run, CH_BIST makes a slice pending, and
CH_REMAP_CFG sets AUTO and drops every entry; a value that the register refuses is ignored and logged, as every such write
is on a RETIRED channel and in RETENTION. CH_SUBST binds a substitute to a RETIRED or STOPPED channel. -/
def Obligations.ChannelSettings : Prop :=
  (∀ p ch v s, p ≠ .bar2 → ch < s.members → (s.chan ch).func ≠ .retired → s.pwr.mode ≠ .retention →
    ∃ t, exec (.chPrivWrite p ch v) s = .next t ∧ let k := v.toNat % 8
      if k = (s.chan ch).priv then t = s
      else if 4 < k ∨ (s.chan ch).resting = false ∨ (s.chan ch).fetches = true then
        t.chans = s.chans ∧ t.dram = s.dram ∧ (logsOk s → Logged .regWriteIgnored 0 s t)
      else (t.chan ch).priv = k ∧ ((s.chan ch).eyes.badMask = 0 →
        ∀ a, privBase k ≤ a → a < privBase (s.chan ch).priv → t.cell ch a = 0)) ∧
  (∀ p ch v s, p ≠ .bar2 → ch < s.members → ∃ t, exec (.chSubstWrite p ch v) s = .next t ∧ let c := s.chan ch
    let y := bits v.toNat 22 16
    if (c.func = .retired ∨ c.state = .stopped) ∧ y ≠ ch ∧ y < s.members ∧ (s.chan y).resting = true ∧ s.assigned y = false ∧
      (bit v.toNat 31 = true ∨ c.substEn = false ∨ (s.chan c.substTo).resting = true)
    then (t.chan ch).substEn = bit v.toNat 31 ∧ (t.chan ch).substTo = y
    else t.chans = s.chans ∧ (logsOk s → Logged .regWriteIgnored 0 s t)) ∧
  (∀ p ch k v s, p ≠ .bar2 → ch < s.members → (s.chan ch).func ≠ .retired → s.pwr.mode ≠ .retention → k < 4 →
    ∃ t, exec (.chDaRegWrite p ch k v) s = .next t ∧ let x := (t.chan ch).da.class k
      if bits v.toNat 15 4 = 0 then t.chans = s.chans ∧ (logsOk s → Logged .regWriteIgnored 0 s t)
      else x.rate = bits v.toNat 31 16 ∧ x.burst = bits v.toNat 15 4 ∧ x.outM1 = v.toNat % 16 ∧ x.tokens = x.burst * 2 ^ 16) ∧
  (∀ p ch v s, p ≠ .bar2 → ch < s.members → (s.chan ch).func ≠ .retired → s.pwr.mode ≠ .retention →
    ∃ t, exec (.calForce p ch v) s = .next t ∧
      if v.toNat % 32 = 0 ∨ 20 < v.toNat % 32 then t.chans = s.chans ∧ (logsOk s → Logged .regWriteIgnored 0 s t)
      else (t.chan ch).eyes.retrig = v.toNat % 32 ∧
        (bit v.toNat 31 = true → (t.chan ch).eyes.calRun = true ∨ (t.chan ch).eyes.calTrig.isSome)) ∧
  (∀ p ch s, p ≠ .bar2 → ch < s.members → (s.chan ch).func ≠ .retired → s.pwr.mode ≠ .retention →
    ∃ t, exec (.bistForce p ch) s = .next t ∧ (t.chan ch).maint.bist = true) ∧
  (∀ p ch v s, p ≠ .bar2 → ch < s.members → (s.chan ch).func ≠ .retired → s.pwr.mode ≠ .retention →
    ∃ t, exec (.remapClear p ch v) s = .next t ∧ (t.chan ch).ecc.auto = bit v.toNat 31 ∧
      (t.chan ch).ecc.remap = if bit v.toNat 30 then [] else (s.chan ch).ecc.remap) ∧
  (∀ p ch k v s c, p ≠ .bar2 → ch < s.members → (s.chan ch).func = .retired ∨ s.pwr.mode = .retention → k < 4 →
    c ∈ [Instr.chPrivWrite p ch v, .chDaRegWrite p ch k v, .calForce p ch v, .bistForce p ch, .remapClear p ch v] →
    ∃ t, exec c s = .next t ∧ t.chans = s.chans ∧ t.dram = s.dram ∧ (logsOk s → Logged .regWriteIgnored 0 s t)) ∧
  (∀ p ch k v s c, p = .bar2 ∨ s.members ≤ ch →
    c ∈ [Instr.chPrivWrite p ch v, .chSubstWrite p ch v, .chDaRegWrite p ch k v, .calForce p ch v, .bistForce p ch, .remapClear p ch v] →
    exec c s = .next s)

/-- A four-byte write of a register whose island answers takes its effect, one of another width is discarded and logged, and
one that reaches no register does nothing; an access without an answer is logged, and the waiting reader gets its value;
SET_ADDR reads a register into the port, READ returns it behind its length and status, WRITE writes one, WSTATUS returns its
status, and a bad PEC, a bad argument and a register that does not answer are reported; a reply with PEC ends with the check
byte over the whole message. -/
def Obligations.RegisterAccess : Prop :=
  (∀ p o v s, p ≠ .bar2 → (p = .bar0 → s.tor.pcieEn = true) → s.answers o = true →
    ∃ t, exec (.registerWrite p o 4 v) s = .next t ∧ RegWritten p o v s t) ∧
  (∀ p o n v s, p ≠ .bar2 → (p = .bar0 → s.tor.pcieEn = true) → s.answers o = true → n ≠ 4 →
    ∃ t, exec (.registerWrite p o n v) s = .next t ∧ t.chans = s.chans ∧ t.dram = s.dram ∧ t.lanes = s.lanes ∧ t.tor = s.tor ∧
      (logsOk s → Logged .regAccess 0 s t)) ∧
  (∀ p o n v s, p = .bar2 ∨ (p = .bar0 ∧ s.tor.pcieEn = false) ∨ s.answers o = false →
    exec (.registerWrite p o n v) s = .next s) ∧
  (∀ p r s, if p = .bar2 ∨ (p = .smbus ∧ (if r = true then s.smb.status else s.smb.wstatus) ≠ 1)
    then exec (.regAccessTimeout p r) s = .next s
    else ∃ t, exec (.regAccessTimeout p r) s = .next t ∧ (logsOk s → Logged .regAccess 0 s t) ∧
      t.out = s.out ++ (if p = .bar0 ∧ r = true then [.regData .bar0 0xFFFFFFFF] else []) ∧
      (p = .smbus → if r = true then t.smb.status = 4 ∧ t.smb.data = leBytes 4 0 else t.smb.wstatus = 4)) ∧
  (∀ b ok s, s.smb.busy = false → let o := leAt b 0 3
    ∃ t, exec (.setAddr b ok) s = .next t ∧
      if ok = false then t.smb.status = 3 ∧ t.smb.data = []
      else if b.length ≠ 3 ∨ o % 4 ≠ 0 ∨ 2 ^ 20 ≤ o then t.smb.status = 2 ∧ t.smb.data = []
      else if selvedgeSet o = true ∨ s.answers o = true then
        t.smb.status = 0 ∧ t.smb.data = leBytes 4 (s.readReg .smbus o).1
      else t.smb.status = 1 ∧ t.smb.data = []) ∧
  (∀ k s, ∃ t, exec (.smbusRead k) s = .next t ∧
    let d := if s.smb.data = [] then (List.range 4).map fun i => Config.freeByte (s.freeNo + i) else s.smb.data
    let l := (5 : Byte) :: BitVec.ofNat 8 s.smb.status :: d
    let a := 2 * (0x58 + s.tor.smbAddr)
    t.smb = s.smb ∧ t.out = s.out ++
      [.smbus (if k = true then l ++ [smbPec (BitVec.ofNat 8 a :: (0x11 : Byte) :: BitVec.ofNat 8 (a + 1) :: l)] else l)]) ∧
  (∀ b ok s, s.smb.busy = false → let o := leAt b 0 3
    ∃ t, exec (.smbusWrite b ok) s = .next t ∧
      if ok = false then t.smb.wstatus = 3 ∧ t.chans = s.chans
      else if b.length ≠ 7 ∨ o % 4 ≠ 0 ∨ 2 ^ 20 ≤ o then t.smb.wstatus = 2 ∧ t.chans = s.chans
      else if selvedgeSet o = true ∨ s.answers o = true then
        t.smb.wstatus = 0 ∧ RegWritten .smbus o (BitVec.ofNat 32 (leAt b 3 4)) s t
      else t.smb.wstatus = 1 ∧ t.chans = s.chans) ∧
  (∀ k s, ∃ t, exec (.wstatus k) s = .next t ∧ let x : Byte := BitVec.ofNat 8 s.smb.wstatus
    let a := 2 * (0x58 + s.tor.smbAddr)
    t.smb = s.smb ∧ t.out = s.out ++
      [.smbus (if k = true then [x, smbPec [BitVec.ofNat 8 a, 0x13, BitVec.ofNat 8 (a + 1), x]] else [x])]) ∧
  (∀ b ok s, s.smb.busy = true → exec (.setAddr b ok) s = .next s ∧ exec (.smbusWrite b ok) s = .next s)

/-- A good configuration waits for the next boundary, a bad one is ignored and logged, and a counter that the member does
not have takes none; a new window length waits too, and one out of its range is ignored; a boundary takes them; a read of
CNT_LO returns the low word and latches the high bits, which the next read of CNT_HI returns; an eight-byte read through the
user window returns the whole value; a read of another width or alignment returns 0, and on the register window is logged;
an unread latch closes after 16,000 ck. -/
def Obligations.CountersRead : Prop :=
  (∀ n v s, if n < 8 * s.members ∨ (1024 ≤ n ∧ n < 1088) then ∃ t, exec (.cntCfgWrite n v) s = .next t ∧
      (t.counter n).cfg = (s.counter n).cfg ∧
      if cfgRefused n v.toNat = true then (t.counter n).pend = (s.counter n).pend ∧ (logsOk s → Logged .regWriteIgnored 0 s t)
      else (t.counter n).pend = some (bits v.toNat 31 16 * 2 ^ 16 + v.toNat % 2 ^ 12)
    else exec (.cntCfgWrite n v) s = .next s) ∧
  (∀ v s, let l := v.toNat % 2 ^ 31
    ∃ t, exec (.cntWindowWrite v) s = .next t ∧ t.cnt.len = s.cnt.len ∧
      if 1600 ≤ l ∧ l ≤ 2 ^ 30 then t.cnt.lenPend = some l
      else t.cnt.lenPend = s.cnt.lenPend ∧ (logsOk s → Logged .regWriteIgnored 0 s t)) ∧
  (∀ s, (s.lastGrid s.cnt.len ≤ s.cnt.lastBoundary → exec .counterWindow s = .next s) ∧
    (s.cnt.lastBoundary < s.lastGrid s.cnt.len → ∃ t, exec .counterWindow s = .next t ∧
      t.cnt.lastBoundary = s.lastGrid s.cnt.len ∧ t.cnt.len = s.cnt.lenPend.getD s.cnt.len ∧ t.cnt.lenPend = none ∧
      ∀ n, Sparse.sorted none s.cnt.tab = true → let c := s.counter n
        c.pend = none → t.counter n = if cfgWindow c.cfg = true then { c with val := c.acc, acc := 0 } else c)) ∧
  (∀ s n v, s.cnt.lastBoundary < s.lastGrid s.cnt.len → Sparse.sorted none s.cnt.tab = true → (s.counter n).pend = some v →
    ∃ t, exec .counterWindow s = .next t ∧ (t.counter n).cfg = v ∧ (t.counter n).pend = none ∧ (t.counter n).acc = 0 ∧
      (cfgZero v = true ∨ cfgWindow v = true → (t.counter n).val = 0)) ∧
  (∀ p n low k s, if p = .bar0 ∧ (low ≠ 0 ∨ k ≠ 4) then
      ∃ t, exec (.counterLoRead p n low k) s = .next t ∧ t.out = s.out ++ [.regData p 0] ∧ (logsOk s → Logged .regAccess 0 s t)
    else if p = .bar2 ∧ (low ≠ 0 ∨ (k ≠ 4 ∧ k ≠ 8) ∨ s.reaches p n = false) then
      ∃ t, exec (.counterLoRead p n low k) s = .next t ∧ t.out = s.out ++ [.regData p 0] ∧ t.cnt = s.cnt
    else if s.reaches p n = false then exec (.counterLoRead p n low k) s = .next s
    else if p = .bar2 ∧ k = 8 then
      ∃ t, exec (.counterLoRead p n low k) s = .next t ∧ t.out = s.out ++ [.regData p (s.counter n).val] ∧ t.cnt = s.cnt
    else (s.counter n).latch p = none → ∃ t, exec (.counterLoRead p n low k) s = .next t ∧
      t.out = s.out ++ [.regData p ((s.counter n).val % 2 ^ 32)] ∧
      (t.counter n).latch p = some { hi := (s.counter n).val / 2 ^ 32, since := s.now }) ∧
  (∀ p n low k s, if p = .bar0 ∧ (low ≠ 0 ∨ k ≠ 4) then
      ∃ t, exec (.counterHiRead p n low k) s = .next t ∧ t.out = s.out ++ [.regData p 0] ∧ (logsOk s → Logged .regAccess 0 s t)
    else if p = .bar2 ∧ (low ≠ 0 ∨ k ≠ 4 ∨ s.reaches p n = false) then
      ∃ t, exec (.counterHiRead p n low k) s = .next t ∧ t.out = s.out ++ [.regData p 0] ∧ t.cnt = s.cnt
    else if s.reaches p n = false then exec (.counterHiRead p n low k) s = .next s
    else ((s.counter n).latch p = none → ∃ t, exec (.counterHiRead p n low k) s = .next t ∧
        t.out = s.out ++ [.regData p ((s.counter n).val / 2 ^ 32)]) ∧
      (∀ l, (s.counter n).latch p = some l → s.now < l.since + 16000 → ∃ t, exec (.counterHiRead p n low k) s = .next t ∧
        t.out = s.out ++ [.regData p l.hi] ∧ (t.counter n).latch p = none)) ∧
  (∀ p n s, ((s.counter n).latch p = none → exec (.latchTimeout p n) s = .next s) ∧
    (∀ l, (s.counter n).latch p = some l →
      if s.now < l.since + 16000 then exec (.latchTimeout p n) s = .next s
      else ∃ t, exec (.latchTimeout p n) s = .next t ∧ (t.counter n).latch p = none ∧
        ((s.counter n).held = 0 → (t.counter n).val = (s.counter n).val)))

/-- START of an idle unit of DA mode takes its source and form and begins with INIT in the register, a device-range job only
when its range is legal, and is ignored otherwise; the feed registers shift in their bytes, least significant byte first,
and are ignored without a feed-register job; FINISH gives the result of a feed-register job; ABORT abandons a running job
and is logged; bits written together act in the order START, FINISH, ABORT; and a device-range job completes when its last
byte has been fed. -/
def Obligations.CheckValues : Prop :=
  (∀ u v s, let x := (v ||| 0x80000000#32).toNat
    if 3 ≤ u ∨ (s.crc u).busy = true ∨ 2 ≤ bits x 28 27 ∨ s.daMode = false then
      ∃ t, exec (.crcStart u v) s = .next t ∧ (∀ k, t.crc k = s.crc k) ∧ (logsOk s → Logged .regWriteIgnored 0 s t)
    else ∃ t, exec (.crcStart u v) s = .next t ∧
      let c := { s.crc u with src := bits x 28 27, refin := bit x 26, refout := bit x 25, cls := bits x 24 23, wM1 := x % 64 }
      let k := s.crcCause (s.crc u)
      (t.crc u).src = c.src ∧ (t.crc u).refin = c.refin ∧ (t.crc u).refout = c.refout ∧ (t.crc u).wM1 = c.wM1 ∧
        if bits x 28 27 = 1 ∧ k ≠ 0 then (t.crc u).busy = false ∧ (t.crc u).cause = k ∧ (t.crc u).done = false
        else if bit x 30 = true ∧ bits x 28 27 = 0 then (t.crc u).busy = false ∧ (t.crc u).done = true
        else if bit x 29 = true then (t.crc u).busy = false ∧ (t.crc u).abandoned = true ∧ (logsOk s → Logged .crcAbandoned 0 s t)
        else (t.crc u).busy = true ∧ (t.crc u).reg = c.init % 2 ^ c.width ∧ (t.crc u).fed = 0 ∧ (t.crc u).done = false) ∧
  (∀ u v s, u < 3 → bit v.toNat 31 = false → bit v.toNat 29 = false → let c := s.crc u
    ∃ t, exec (.crcFinish u v) s = .next t ∧
      if c.busy = true ∧ c.src = 0 then
        (t.crc u).busy = false ∧ (t.crc u).done = true ∧ (t.crc u).res = c.result
      else if c.busy = true then t.crc u = c
      else (t.crc u).busy = false ∧ (t.crc u).done = c.done ∧ (t.crc u).wM1 = v.toNat % 64) ∧
  (∀ u v s, u < 3 → bit v.toNat 31 = false → bit v.toNat 30 = false → let c := s.crc u
    ∃ t, exec (.crcAbort u v) s = .next t ∧
      if c.busy = true then t.crc u = { c with busy := false, owner := 0, abandoned := true } ∧ (logsOk s → Logged .crcAbandoned 0 s t)
      else (t.crc u).busy = false ∧ (t.crc u).abandoned = c.abandoned ∧ (t.crc u).wM1 = v.toNat % 64) ∧
  (∀ u v s, (bit v.toNat 31 = true → exec (.crcFinish u v) s = exec (.crcStart u (v ||| 0x40000000#32)) s ∧
      exec (.crcAbort u v) s = exec (.crcStart u (v ||| 0x20000000#32)) s) ∧
    (bit v.toNat 29 = true → exec (.crcFinish u v) s = exec (.crcAbort u (v ||| 0x40000000#32)) s)) ∧
  (∀ u v s, if u < 3 ∧ (s.crc u).busy = true ∧ (s.crc u).src = 0 then
      (∃ t, exec (.feed4 u v) s = .next t ∧ t.crc u = (leBytes 4 v.toNat).foldl Crc.feed (s.crc u)) ∧
        ∃ t, exec (.feed1 u v) s = .next t ∧ t.crc u = (s.crc u).feed (BitVec.ofNat 8 v.toNat)
    else ∀ c, c ∈ [Instr.feed4 u v, .feed1 u v] →
      ∃ t, exec c s = .next t ∧ (∀ k, t.crc k = s.crc k) ∧ (logsOk s → Logged .regWriteIgnored 0 s t)) ∧
  (∀ u s, let c := s.crc u
    if u < 3 ∧ c.busy = true ∧ c.src = 1 ∧ c.len ≤ c.fed then
      ∃ t, exec (.crcJobDone u) s = .next t ∧ (t.crc u).busy = false ∧ (t.crc u).done = true ∧ (t.crc u).res = c.result
    else exec (.crcJobDone u) s = .next s)

/-- RETRAIN starts a group at DETECT, DISABLE takes it OFF, and a write on a group in use is ignored; the DC test kills the
lanes that fail it and sends the group on to CLOCK, or to HANDSHAKE for a transmit group, or to FAILED; a locked clock
starts ALIGN; the third comma in a row with a training beat aligns its lane under the number it carries, unless it names
another group or a lane already taken; the time-outs end ALIGN and HANDSHAKE; a training beat brings RXOK; valid markers
number a lane in SYNC and bring a lane in SEARCH back; and markers bring a transmit group in SYNC up. -/
def Obligations.LaneGroupsComeUp : Prop :=
  (∀ p v s, p ≠ .bar2 → let rx := (lnSel (s.lanes.idx.get p)).1
    let g := (lnSel (s.lanes.idx.get p)).2.1
    if s.laneInUse rx g = true then
      ∃ t, exec (.laneRetrain p v) s = .next t ∧ t.lanes = s.lanes ∧ (logsOk s → Logged .regWriteIgnored 0 s t)
    else ∃ t, exec (.laneRetrain p v) s = .next t ∧ (t.group rx g).disable = bit v.toNat 30 ∧
      (t.group rx g).state = if bit v.toNat 30 = true then .off
        else if bit v.toNat 31 = true then (if s.lanesRun = true then .detect else .off)
        else if (s.group rx g).state = .off ∧ s.lanesRun = true then .detect else (s.group rx g).state) ∧
  (∀ rx g o s, let n := if g < 8 then 8 else 2
    let bad (l : Nat) : Bool := decide (1 ≤ o.getD l 0) && decide (o.getD l 0 ≤ 4)
    let down : Bool := bad 8 || (List.range n).all bad
    if (s.group rx g).state = .detect ∧ g < 12 ∧ (g < 8 ∨ rx = true) ∧ (s.group rx g).since + 3200 ≤ s.now then
      ∃ t, exec (.dcTestDone rx g o) s = .next t ∧
        (t.group rx g).state = (if down = true then .failed else if rx = true then .clock else .handshake) ∧
        (8 ≤ g → (t.port (g - 8)).state = if down = true then .failed else .clock) ∧
        ∀ l < n, if bad l = true then (t.lane rx g l).state = .dead ∧ (t.lane rx g l).cause = o.getD l 0
          else (t.lane rx g l).state = if rx = true then .search else .aligned
    else exec (.dcTestDone rx g o) s = .next s) ∧
  (∀ g s, if (s.group true g).state = .clock ∧ g < 12 then
      ∃ t, exec (.clockLock g) s = .next t ∧ (t.group true g).state = .align ∧ (8 ≤ g → (t.port (g - 8)).state = .align)
    else exec (.clockLock g) s = .next s) ∧
  (∀ g l i x s, let y := s.lane true g l
    let n := match x with | .comma _ _ _ _ => y.commas + 1 | _ => 0
    let taken (sl j : Nat) : Prop := j ≠ l ∧ (s.lane true g j).live = true ∧ (s.lane true g j).number j = sl
    if (s.group true g).state = .align ∧ g < 12 ∧ l < (if g < 8 then 8 else 2) ∧ y.state = .search then
      ∃ t, exec (.laneAlign g l i x) s = .next t ∧ (t.lane true g l).commas = n ∧
        match classify x with
        | .training sg sl _ _ =>
          if n < 3 then (t.lane true g l).state = .search
          else if sg ≠ groupField g ∨ ∃ j < l, taken sl j then (t.lane true g l).state = .dead ∧ (t.lane true g l).cause = 6
          else (t.lane true g l).live = true ∧ (t.lane true g l).logical = some sl ∧ (g < 8 → (t.lane true g l).state = .aligned)
        | _ => (t.lane true g l).state = .search
    else exec (.laneAlign g l i x) s = .next s) ∧
  (∀ g s, if (s.group true g).state = .align ∧ (∃ b ∈ (s.group true g).firstAligned, b + 1600000 ≤ s.now) then
      ∃ t, exec (.alignTimeout g) s = .next t ∧ (t.group true g).state = (if g < 8 then .handshake else .sync) ∧
        ∀ l < (if g < 8 then 8 else 2), (s.lane true g l).state = .search →
          (t.lane true g l).state = .dead ∧ (t.lane true g l).cause = 5
    else exec (.alignTimeout g) s = .next s) ∧
  (∀ g l x s, let st := (s.group true g).state
    match classify x with
    | .training _ _ k _ =>
      if g < 8 ∧ (s.lane true g l).live = true ∧ (st = .align ∨ st = .handshake ∨ st = .sync) then
        ∃ t, exec (.trainingBeat g l x) s = .next t ∧ (t.group false g).partner = k ∧
          ((t.group true g).state = st ∨ (st = .handshake ∧ (t.group true g).state = .sync))
      else exec (.trainingBeat g l x) s = .next s
    | _ => exec (.trainingBeat g l x) s = .next s) ∧
  (∀ g s, let c := s.group false g
    if g < 8 ∧ c.state = .handshake ∧ c.since + 1600000 ≤ s.now then
      ∃ t, exec (.handshakeTimeout g) s = .next t ∧ (t.group false g).state = .sync ∧
        if (List.range 8).all (fun l => !(s.lane true g l).live) = true then (t.group false g).unconfirmed = true
        else ∀ l < 8, (c.lane l).live = true → bit c.partner l = false →
          (t.lane false g l).state = .dead ∧ (t.lane false g l).cause = 7
    else exec (.handshakeTimeout g) s = .next s) ∧
  (∀ g l x s, let c := s.group true g
    let y := s.lane true g l
    if g < 12 ∧ l < (if g < 8 then 8 else 2) ∧ y.state = .search ∧ (c.state = .up ∨ (8 ≤ g ∧ c.state = .sync)) then
      ∃ t, exec (.markerBeat g l x) s = .next t ∧
        match classify x with
        | .marker sg sl k => if y.commas < 2 then (t.lane true g l).state = .search
          else if sg ≠ groupField g ∨ sl ≠ y.number l then (t.lane true g l).state = .search ∧ (t.lane true g l).goodMarks = 0
          else (t.lane true g l).beat = markerIndex k (s.gt / 2) ∧
            if 1 ≤ y.goodMarks ∧ markerIndex k (s.gt / 2) = y.beat + 16384 then (t.lane true g l).state = .up
            else (t.lane true g l).state = .search ∧ (t.lane true g l).goodMarks = 1
        | _ => (t.lane true g l).state = .search ∧ (t.lane true g l).goodMarks = 0
    else if g < 8 ∧ l < 8 ∧ c.state = .sync ∧ y.live = true then
      match classify x with
      | .marker sg sl k => if sg = g ∧ sl = y.number l then ∃ t, exec (.markerBeat g l x) s = .next t ∧
            (t.lane true g l).beat = markerIndex k (s.gt / 2) ∧ (t.lane true g l).goodMarks = 1
          else exec (.markerBeat g l x) s = .next s
      | _ => exec (.markerBeat g l x) s = .next s
    else exec (.markerBeat g l x) s = .next s) ∧
  (∀ g s, let c := s.group false g
    let u := s.lastGrid 32768
    let ps := (s.port (g - 8)).state
    if g < 8 ∧ (c.state = .up ∨ (c.state = .sync ∧ s.tor.final = true)) ∧ c.lastMark < u ∧ c.since ≤ u then
      ∃ t, exec (.markerSend g) s = .next t ∧ (t.group false g).state = .up ∧ (t.group false g).lastMark = u ∧
        ∀ l < 8, (c.lane l).state = .aligned → (t.lane false g l).state = .up
    else if 8 ≤ g ∧ g < 12 ∧ (ps = .identity ∨ ps = .up ∨ ps = .miscabled) ∧ (s.group true g).lastMark < u then
      ∃ t, exec (.markerSend g) s = .next t ∧ (t.group true g).lastMark = u
    else exec (.markerSend g) s = .next s)

/-- On a lane that is UP a word handed over in time leaves as its data beat, or as an idle beat when its store fails; a late
word is reported and dropped; an empty position of a bobbin leaves as its idle beat and any other as a notice or an
unassigned idle beat; training beats and patterns leave on lanes that are not UP. A received data beat reaches the capturing
bobbin that owns its position, unknown when it came outside the window or its store failed, and an errored one is unknown.
Loss of lock sends the group back and is logged; and a lane without signal or symbol lock falls to SEARCH, or dies at the
eighth fall. -/
def Obligations.BeatsCross : Prop :=
  (∀ g l f s, g < 8 → l < 8 → (s.group false g).state = .up → (s.lane false g l).state = .up →
    let c := s.group false g
    (∀ b ∈ c.launch, b.lane = l → b.deadline ≤ s.now → b.sent ≤ b.deadline ∧ (s.lane false g l).beat < s.gtOf b.deadline / 2) →
    ∃ t, exec (.beatLaunch g l f) s = .next t ∧
      match c.launch.find? fun b => b.lane == l && decide (b.deadline ≤ s.now) with
      | some b => (t.group false g).launch = c.launch.erase b ∧ (t.lane false g l).beat = s.gtOf b.deadline / 2 ∧
        t.out = s.out ++ [.beat g l (s.gtOf b.deadline / 2) (match b.word with
          | some w => if f = true then beatValue (idleWord 3 b.chan) true else beatValue w false
          | none => beatValue (idleWord b.reason b.chan) true)]
      | none => (t.group false g).launch = c.launch ∧ t.out = s.out ++
        (if s.gt / 2 ≤ (s.lane false g l).beat ∨ s.gt / 2 % 16384 = 0 then []
         else [.beat g l (s.gt / 2) (beatValue (match s.ownerAt false g l (s.lastGrid 2) with
           | some ch => idleWord (s.idleReason ch) ch
           | none => match c.notices with | (w, _) :: _ => w | [] => idleWord 0 0x7F) true)])) ∧
  (∀ g l f s b, g < 8 → l < 8 → (s.group false g).state = .up → (s.lane false g l).state = .up → b ∈ (s.group false g).launch →
    b.lane = l → b.deadline < b.sent → b.deadline ≤ s.now → b.word.isSome → ∃ t, exec (.beatLaunch g l f) s = .next t ∧
      b ∉ (t.group false g).launch ∧ (logsOk s → Logged .beatLate b.chan s t)) ∧
  (∀ g l f s, g < 8 → l < 8 → (s.group false g).state ≠ .up ∨ (s.lane false g l).state ≠ .up →
    let y := s.lane false g l
    let st := (s.group false g).state
    ∃ t, exec (.beatLaunch g l f) s = .next t ∧
      if y.state = .prbs then (if s.gt / 2 ≤ y.beat then t.out = s.out
        else t.out.length = s.out.length + 1 ∧ (t.lane false g l).beat = s.gt / 2)
      else t.out = s.out ++ (if st = .up ∧ y.state = .dead ∧ y.cause = 7 then [.beat g l (s.gt / 2) (beatValue (idleWord 0 0x7F) true)]
        else if y.state ≠ .dead ∧ (st = .handshake ∨ st = .sync) then
          let a := 64 + groupField g * 8 + l
          let k := (s.group true g).rxok g
          [.comma g l (s.gt / 2) a k 128 ((a ^^^ k ^^^ 128) ^^^ 0xFF)]
        else [])) ∧
  (∀ g l x d f s, let y := s.lane true g l
    let i := y.beat + 1
    let lost : Prop := f = true ∨ d < 6 ∨ 250 < d
    g < 8 → l < 8 → (s.group true g).state = .up → y.state = .up →
    if s.gt < 2 * i then exec (.receiveBeat g l x d f) s = .next s
    else if i % 16384 = 0 then
      (∀ n, classify x = .marker g (y.number l) n → n = i / 16384 % 2 ^ 16 → ∃ t, exec (.receiveBeat g l x d f) s = .next t ∧
        (t.lane true g l).beat = i ∧ (t.lane true g l).badMarks = 0 ∧ (t.lane true g l).state = .up)
    else ∃ t, exec (.receiveBeat g l x d f) s = .next t ∧ (t.lane true g l).beat = i ∧
      match s.ownerAt true g (y.number l) (s.localOf (2 * i)) with
      | none => t.chans = s.chans
      | some ch => (s.chan ch).func = .capture →
        let a := Sparse.get [] (s.chan ch).cap.acc g
        let put (w : Option Word) : Prop := Sparse.get [] (t.chan ch).cap.acc g = insertWord a (8 * s.localOf (2 * i) + y.number l) w
        match classify x with
        | .data w _ => (lost → put none) ∧ (¬lost → put (some w))
        | .control _ _ => (lost → put none) ∧ (¬lost → t.chans = s.chans)
        | _ => put none) ∧
  (∀ g l x d f s, g < 8 → l < 8 → (s.group true g).state ≠ .up ∨ (s.lane true g l).state ≠ .up →
    let i := s.gt / 2
    if i ≤ (s.lane true g l).beat ∨ i % 16384 = 0 then exec (.receiveBeat g l x d f) s = .next s
    else ∃ t, exec (.receiveBeat g l x d f) s = .next t ∧
      match s.ownerAt true g ((s.lane true g l).number l) (s.localOf (2 * i)) with
      | none => t.chans = s.chans
      | some ch => (s.chan ch).func = .capture → Sparse.get [] (t.chan ch).cap.acc g =
          insertWord (Sparse.get [] (s.chan ch).cap.acc g) (8 * s.localOf (2 * i) + (s.lane true g l).number l) none) ∧
  (∀ g s, if g < 12 ∧ (s.group true g).state.running = true then ∃ t, exec (.receiveLossOfLock g) s = .next t ∧
      if g < 8 then (t.group true g).state = .clock ∧ (logsOk s → Logged .laneGroupDown (laneInst true g 15) s t)
      else (t.port (g - 8)).state = .failed ∧ (t.group true g).state = .failed ∧ (logsOk s → Logged .torLinkFail (g - 8) s t)
    else exec (.receiveLossOfLock g) s = .next s) ∧
  (∀ g s, if g < 8 ∧ (s.group false g).state.running = true then ∃ t, exec (.transmitLossOfLock g) s = .next t ∧
      (t.group false g).state = .handshake ∧ (logsOk s → Logged .laneGroupDown (laneInst false g 15) s t)
    else if 8 ≤ g ∧ g < 12 ∧ (s.group true g).state.running = true then ∃ t, exec (.transmitLossOfLock g) s = .next t ∧
      (t.port (g - 8)).state = .failed ∧ (logsOk s → Logged .torLinkFail (g - 8) s t)
    else exec (.transmitLossOfLock g) s = .next s) ∧
  (∀ g l s, let y := s.lane true g l
    let n := (y.falls.filter fun u => decide (s.now < u + 2 ^ 31)).length
    (g < 12 → l = 8 → exec (.lossOfSignal g l) s = exec (.receiveLossOfLock g) s) ∧
    (l ≠ 8 → if g < 12 ∧ y.state = .up then ∃ t, exec (.lossOfSignal g l) s = .next t ∧
        if n < 7 then (t.lane true g l).state = .search else (t.lane true g l).state = .dead ∧ (t.lane true g l).cause = 8
      else exec (.lossOfSignal g l) s = .next s) ∧
    (if y.state = .up ∧ (8 ≤ g ∨ 8 ≤ (y.errAt.filter fun i => decide (y.beat < i + 256)).length) then
        ∃ t, exec (.lossOfSymbolLock g l) s = .next t ∧
          if n < 7 then (t.lane true g l).state = .search else (t.lane true g l).state = .dead ∧ (t.lane true g l).cause = 8
      else exec (.lossOfSymbolLock g l) s = .next s)) ∧
  (∀ g l x d f s, 8 ≤ g ∨ 8 ≤ l → exec (.beatLaunch g l f) s = .next s ∧ exec (.receiveBeat g l x d f) s = .next s) ∧
  (∀ l s, exec (.lossOfSignal 12 l) s = .next s)

/-- A write to LN_PRBS_CTL that is not refused sets the lane's generator, checker, pattern and injection rate; one that is
refused, or that selects no data lane, is ignored; INJECT and the automatic injection invert one bit of a running generator;
and a checker takes the received bits in order. -/
def Obligations.PatternsRun : Prop :=
  (∀ p v s, p ≠ .bar2 → let rx := (lnSel (s.lanes.idx.get p)).1
    let g := (lnSel (s.lanes.idx.get p)).2.1
    let l := (lnSel (s.lanes.idx.get p)).2.2
    let n := v.toNat
    if 8 ≤ l then ∃ t, exec (.prbsEnable p v) s = .next t ∧ t.lanes = s.lanes ∧ (logsOk s → Logged .regWriteIgnored 0 s t)
    else if (bit n 31 = true ∨ bit n 30 = true) ∧ s.prbsRefused rx g l = true ∧ (s.lane rx g l).runs rx = false then
      ∃ t, exec (.prbsEnable p v) s = .next t ∧ t.lane rx g l = { s.lane rx g l with refused := true } ∧
        (logsOk s → Logged .regWriteIgnored 0 s t)
    else ∃ t, exec (.prbsEnable p v) s = .next t ∧ let y := t.lane rx g l
      y.genEn = bit n 31 ∧ y.chkEn = bit n 30 ∧ y.pattern = bits n 29 28 ∧ y.injRate = bits n 19 16 ∧
        (y.runs rx = true → (s.lane rx g l).runs rx = false → y.state = .prbs)) ∧
  (∀ p v s, exec (.prbsInject p v) s = exec (.prbsEnable p (v ||| 0x08000000#32)) s) ∧
  (∀ p v s, p ≠ .bar2 → let g := (lnSel (s.lanes.idx.get p)).2.1
    let l := (lnSel (s.lanes.idx.get p)).2.2
    (lnSel (s.lanes.idx.get p)).1 = false → l < 8 → (s.lane false g l).genEn = true → bit v.toNat 31 = true →
    ∃ t, exec (.prbsInject p v) s = .next t ∧ (t.lane false g l).injected = (s.lane false g l).injected + 1 ∧
      (t.lane false g l).injDue = (s.lane false g l).injDue + 1) ∧
  (∀ g l s, let y := s.lane false g l
    if g < 8 ∧ y.genEn = true ∧ y.injRate ≠ 0 ∧ 2 ^ (y.injRate + 10) ≤ y.genBits then
      ∃ t, exec (.prbsAutoInject g l) s = .next t ∧ (t.lane false g l).injected = y.injected + 1 ∧
        (t.lane false g l).injDue = y.injDue + 1 ∧ (t.lane false g l).genBits = y.genBits - 2 ^ (y.injRate + 10)
    else exec (.prbsAutoInject g l) s = .next s) ∧
  (∀ g l b s, if g < 8 ∧ l < 8 ∧ (s.lane true g l).chkEn = true then
      ∃ t, exec (.prbsSync g l b) s = .next t ∧ t.lane true g l = b.foldl Lane.prbsBit (s.lane true g l)
    else exec (.prbsSync g l b) s = .next s) ∧
  (∀ v s, exec (.prbsEnable .bar2 v) s = .next s ∧ exec (.laneRetrain .bar2 v) s = .next s)

/-- The expected IDENT takes a port in IDENTITY or MISCABLED to UP with both link sequence numbers at 0; another one takes a
port in IDENTITY to MISCABLED, which is logged; in UP it only refreshes the neighbour's fields, and another control word
changes no port; a FAILED port retrains after 2^24 ck; and the comparison of beat counts sets FREQ and clears it after 16
comparisons in tolerance. -/
def Obligations.PortsComeUp : Prop :=
  (∀ p w s, let q := s.port p
    if p < 4 ∧ (q.state = .identity ∨ q.state = .miscabled ∨ q.state = .up) then ∃ t, exec (.ident p w) s = .next t ∧
      if ctrlType w ≠ 6 then t.port p = q
      else (t.port p).nbrX = bits w.toNat 47 42 ∧ (t.port p).nbrY = bits w.toNat 41 36 ∧ (t.port p).nbrPort = bits w.toNat 23 22 ∧
        if q.state = .up then (t.port p).state = .up ∧ (t.port p).txSeq = q.txSeq ∧ (t.port p).rxSeq = q.rxSeq
        else if s.tor.expected p w.toNat = true then (t.port p).state = .up ∧ (t.port p).txSeq = 0 ∧ (t.port p).rxSeq = 0
        else (t.port p).state = .miscabled ∧ (q.state = .identity → logsOk s → Logged .torMiscable p s t)
    else exec (.ident p w) s = .next s) ∧
  (∀ p s, if p < 4 ∧ (s.port p).state = .failed ∧ (s.port p).failedAt + 2 ^ 24 ≤ s.now then
      ∃ t, exec (.portRetrain p) s = .next t ∧ (t.port p).state = .detect
    else exec (.portRetrain p) s = .next s) ∧
  (∀ p d s, let q := s.port p
    if p < 4 ∧ (q.state = .align ∨ q.state = .identity ∨ q.state = .up ∨ q.state = .miscabled) ∧ q.freqAt + 2 ^ 24 ≤ s.now then
      ∃ t, exec (.freqCheck p d) s = .next t ∧ (t.port p).freqAt = s.now ∧ (t.port p).state = q.state ∧
        if 2 * 2 ^ 23 < d * 1000000 then (t.port p).freq = true ∧ (t.port p).freqAgree = 0 ∧
          (q.freq = false → logsOk s → Logged .torFreq p s t)
        else if q.freq = false then (t.port p).freq = false
        else if 15 ≤ q.freqAgree then (t.port p).freq = false ∧ (t.port p).freqAgree = 0
        else (t.port p).freq = true ∧ (t.port p).freqAgree = q.freqAgree + 1
    else exec (.freqCheck p d) s = .next s)

/-- LACK removes the acknowledged words from the replay buffer; LNAK makes the sender announce and send again from the word
it names; REPLAY ends the wait for it, and is acknowledged where none was waited for; the time-outs send LNAK again and
replay, the fourth replay without an advance fails the link; and packets that have waited too long leave their queue. On a
port that is not UP, or before the time is out, nothing happens. -/
def Obligations.LinkReliability : Prop :=
  (∀ p q s, let c := s.port p
    if p < 4 ∧ c.state = .up ∧ (∃ k ∈ c.place q, k ≠ 0) then ∃ t, exec (.lack p q) s = .next t ∧
      (t.port p).replays = 0 ∧ (t.port p).lastAdv = s.now ∧ c.unacked.drop ((c.place q).getD 0) <+: (t.port p).unacked
    else exec (.lack p q) s = .next s) ∧
  (∀ p q s, let c := s.port p
    if p < 4 ∧ c.state = .up ∧ c.freq = false ∧ (c.place q).isSome then
      match c.unacked.drop ((c.place q).getD 0) with
      | x :: r => ∃ t, exec (.lnak p q) s = .next t ∧ t.out = s.out ++ [.link p (ctrlWord 5 x.1), .packet p x.1 (x.2 :: r.map (·.2))] ∧
        (t.port p).unacked = c.unacked
      | [] => exec (.lnak p q) s = .next s
    else exec (.lnak p q) s = .next s) ∧
  (∀ p q s, let c := s.port p
    if p < 4 ∧ c.state = .up then ∃ t, exec (.replay p q) s = .next t ∧
      if c.ignoring = true then (t.port p).ignoring = decide (q ≠ c.rxSeq) ∧ t.out = s.out
      else t.out = s.out ++ [.link p (ctrlWord 3 c.rxSeq)]
    else exec (.replay p q) s = .next s) ∧
  (∀ p s, let c := s.port p
    if p < 4 ∧ c.state = .up ∧ c.ignoring = true ∧ c.lnakAt + 1024 ≤ s.now then
      ∃ t, exec (.lnakTimeout p) s = .next t ∧ t.out = s.out ++ [.link p (ctrlWord 4 c.rxSeq)] ∧ (t.port p).lnakAt = s.now
    else exec (.lnakTimeout p) s = .next s) ∧
  (∀ (p : Nat) (s : State), let c := s.port p
    match c.unacked with
    | x :: r => if p < 4 ∧ c.state = .up ∧ c.freq = false ∧ c.lastAdv + 2048 ≤ s.now then ∃ t, exec (.replayTimeout p) s = .next t ∧
        t.out = s.out ++ [.link p (ctrlWord 5 x.1), .packet p x.1 (x.2 :: r.map (·.2))] ∧
        if c.replays < 3 then (t.port p).state = .up ∧ (t.port p).replays = c.replays + 1 ∧ (t.port p).lastAdv = s.now
        else (t.port p).state = .failed ∧ (logsOk s → Logged .torLinkFail p s t)
      else exec (.replayTimeout p) s = .next s
    | [] => exec (.replayTimeout p) s = .next s) ∧
  (∀ p s, let c := s.port p
    if p < 4 ∧ (∃ x ∈ c.mgmt ++ c.fwdq, x.since + 1024 ≤ s.now) then ∃ t, exec (.queueTimeout p) s = .next t ∧
      ∀ y ∈ (t.port p).mgmt ++ (t.port p).fwdq, y ∈ c.mgmt ++ c.fwdq ∧ s.now < y.since + 1024
    else exec (.queueTimeout p) s = .next s)

/-- A PICOT_A is taken down with its root, distance and time; PICOT_B brings the high bits; another control word changes no
port; picots leave at a boundary with this device's root; the delay exchange is asked for, answered and averaged; a
candidate that hears no lower root becomes root; a device that no longer hears its root goes to holdover and then becomes
root; and a read of TOR_TIME_LO latches the high word. Before its time, or on a port that is not UP, none of them has an
effect. -/
def Obligations.TimeBase : Prop :=
  (∀ p w a s, let q := s.port p
    if p < 4 ∧ q.state = .up ∧ q.freq = false then
      (∃ t, exec (.picotA p w a) s = .next t ∧ if ctrlType w = 1 then (t.port p).heardRoot = some (bits w.toNat 50 39) ∧
        (t.port p).heardDist = bits w.toNat 57 51 ∧ (t.port p).heardFinal = bit w.toNat 59 ∧ (t.port p).lastPicot = s.now
        else t.tor = s.tor) ∧
      ∃ t, exec (.picotB p w) s = .next t ∧ if ctrlType w = 2 then (t.port p).picotHi = w.toNat % 2 ^ 24 else t.tor = s.tor
    else exec (.picotA p w a) s = .next s ∧ exec (.picotB p w) s = .next s) ∧
  (∀ s, if (s.tor.final = true ∨ s.tor.candidate = true) ∧ s.tor.lastPicot < s.lastGrid 65536 then
      ∃ t, exec .picotSend s = .next t ∧ t.tor.lastPicot = s.lastGrid 65536 ∧
        (s.tor.final = true → ∀ p < 4, (s.port p).state = .up → (s.port p).freq = false →
          (.link p (ctrlWord 1 (2 ^ 59 + s.tor.dist * 2 ^ 51 + s.tor.rootId * 2 ^ 39 + s.gtOf (s.lastGrid 65536) / 65536 % 2 ^ 24)) : Out) ∈ t.out)
    else exec .picotSend s = .next s) ∧
  (∀ p s, let q := s.port p
    if p < 4 ∧ q.state = .up ∧ q.lastDelay + 4096 ≤ s.now then ∃ t, exec (.delayReqSend p) s = .next t ∧
      t.out = s.out ++ [.link p (ctrlWord 7 q.delayId)] ∧ (t.port p).delayReq = some (q.delayId, s.fineTime) ∧
      (t.port p).delayId = (q.delayId + 1) % 2 ^ 16 ∧ (t.port p).lastDelay = s.now
    else exec (.delayReqSend p) s = .next s) ∧
  (∀ p i d s, if p < 4 ∧ (s.port p).state = .up then ∃ t, exec (.delayReq p i d) s = .next t ∧
      t.out = s.out ++ [.link p (ctrlWord 8 (i % 2 ^ 16 * 2 ^ 32 + d % 2 ^ 32))]
    else exec (.delayReq p i d) s = .next s) ∧
  (∀ p i d a s, let q := s.port p
    if p < 4 ∧ q.state = .up ∧ (∃ r ∈ q.delayReq, r.1 = i) then ∃ t, exec (.delayRsp p i d a) s = .next t ∧
      (t.port p).delayReq = none ∧ let m := (a - (q.delayReq.getD (0, 0)).2 - d) / 2
      (t.port p).delays = (q.delays ++ [m]).drop (q.delays.length + 1 - 1024) ∧ (q.delays = [] → (t.port p).delay = m)
    else exec (.delayRsp p i d a) s = .next s) ∧
  (∀ s, if s.tor.candidate = true ∧ s.tor.final = false ∧ s.tor.electAt + 16 * 65536 ≤ s.now then
      ∃ t, exec .rootElection s = .next t ∧ t.tor.isRoot = true ∧ t.tor.final = true ∧ t.tor.rootId = s.tor.id ∧ t.tor.dist = 0 ∧
        t.tor.off = s.tor.off
    else exec .rootElection s = .next s) ∧
  (∀ s, let x := s.tor
    (x.final = true → x.isRoot = false → x.holdover = false → x.upHeard + 3 * 65536 ≤ s.now → (∀ p < 4, (s.port p).state ≠ .up) →
      ∃ t, exec .holdover s = .next t ∧ t.tor.holdover = true ∧ t.tor.off = x.off ∧ (logsOk s → Logged .timeHoldover 0 s t)) ∧
    (x.final = false ∨ x.isRoot = true ∨ x.holdover = true ∨ s.now < x.upHeard + 3 * 65536 → exec .holdover s = .next s)) ∧
  (∀ s, if s.tor.holdover = true ∧ s.tor.upHeard + 16 * 65536 ≤ s.now then
      ∃ t, exec .holdoverRoot s = .next t ∧ t.tor.isRoot = true ∧ t.tor.rootId = s.tor.id ∧ t.tor.holdover = false ∧ t.tor.off = s.tor.off
    else exec .holdoverRoot s = .next s) ∧
  (∀ p low k s, if p = .bar2 then exec (.timeLoRead p low k) s = .next s
    else if p = .bar0 ∧ (low ≠ 0 ∨ k ≠ 4) then ∃ t, exec (.timeLoRead p low k) s = .next t ∧ t.out = s.out ++ [.regData p 0] ∧
      t.tor = s.tor ∧ (logsOk s → Logged .regAccess 0 s t)
    else ∃ t, exec (.timeLoRead p low k) s = .next t ∧ t.out = s.out ++ [.regData p (s.gt % 2 ^ 32)] ∧
      Sparse.find? t.tor.timeLatch (Path.key p) = some (s.gt / 2 ^ 32 % 2 ^ 32))

/-- A FWD_REC for this device is an addressed record of the channel it names, where that channel runs CAPTURE on addressed
data and accepts forwards, and is refused otherwise; an answer frees the record's tag; an unanswered one is sent again and
at last reported lost; a START of this device's root enters the start table and one of another root is logged; and
TOR_START.GO starts a group. A packet for another device is passed on without an effect here, and one that its port does not
take has none. -/
def Obligations.ForwardsAndStarts : Prop :=
  (∀ pk s, Arrives 1 pk s → let w := payOf pk.words
    let ch := w 0 % 128
    let c := s.chan ch
    let sec := c.seq.sect.getD {}
    ∃ t, exec (.fwdRec pk) s = .next t ∧
      (s.members ≤ ch ∨ c.state ≠ .running ∨ c.func ≠ .capture ∨ sec.addressed = false ∨ c.cap.fwdAccept = false → t.chans = s.chans) ∧
      (ch < s.members → c.state = .running → c.func = .capture → sec.addressed = true → c.cap.fwdAccept = true → c.starved = false →
        BitVec.ofNat 32 (w 2) = ~~~(BitVec.ofNat 32 (w 1)) → w 1 < 2 ^ 26 → w 1 % 4 = 0 → c.inPriv (w 1) = false →
        c.tatB (w 1 / 2 ^ 21) ≤ s.now → c.tatA ≤ s.now → bit (w 0) 31 = false → (∃ i < 8, BitVec.ofNat 32 (w (3 + i)) ≠ 0) →
        c.cap.bankq.length < 64 → (t.chan ch).cap.bankq.length = c.cap.bankq.length + 1)) ∧
  (∀ pk s, Arrives 2 pk s → let ch := payOf pk.words 0 % 128
    ∃ t, exec (.fwdAck pk) s = .next t ∧
      (t.chan ch).cap.fwds = (s.chan ch).cap.fwds.filter fun f => f.tag != hdrTag (hdrOf pk.words)) ∧
  (∀ (ch g : Nat) (s : State), match (s.chan ch).cap.fwds.find? (·.tag == g) with
    | some f => (if f.sends < 4 ∧ f.lastSend + 262144 ≤ s.now then ∃ t, exec (.forwardResend ch g) s = .next t ∧
          { f with sends := f.sends + 1, lastSend := s.now } ∈ (t.chan ch).cap.fwds
        else exec (.forwardResend ch g) s = .next s) ∧
      (if 4 ≤ f.sends ∧ f.lastSend + 1048576 ≤ s.now then ∃ t, exec (.forwardLost ch g) s = .next t ∧
          (∀ h ∈ (t.chan ch).cap.fwds, h.tag ≠ g) ∧ (logsOk s → Logged .forwardLost ch s t)
        else exec (.forwardLost ch g) s = .next s)
    | none => exec (.forwardResend ch g) s = .next s ∧ exec (.forwardLost ch g) s = .next s) ∧
  (∀ pk s, Accepted 3 pk s → let w := payOf pk.words
    let e := (w 0 % 2 ^ 16, (w 1 + w 2 % 2 ^ 16 * 2 ^ 32) * 65536)
    ∃ t, exec (.start pk) s = .next t ∧
      if s.tor.final = true ∧ bits (w 0) 27 16 = s.tor.rootId then e ∈ t.tor.startTab
      else t.tor.startTab = s.tor.startTab ∧ (logsOk s → Logged .startDomain 0 s t)) ∧
  (∀ v s, let lead := bits v.toNat 23 16
    let g := v.toNat % 2 ^ 16
    ∃ t, exec (.torStartGo v) s = .next t ∧
      if lead < 2 ∨ g = 0 then t.tor = s.tor ∧ (logsOk s → Logged .regWriteIgnored 0 s t)
      else t.tor.startLead = lead ∧ t.tor.startGroup = g ∧
        if s.tor.final = true then (g, (s.gt + lead * 65536 + 65535) / 65536 * 65536) ∈ t.tor.startTab
        else t.tor.startTab = s.tor.startTab ∧ (logsOk s → Logged .startDomain 0 s t)) ∧
  (∀ pk s, hdrX (hdrOf pk.words) ≠ s.tor.x ∨ hdrY (hdrOf pk.words) ≠ s.tor.y →
    (Accepted 1 pk s → ∃ t, exec (.fwdRec pk) s = .next t ∧ t.chans = s.chans) ∧
    (Accepted 2 pk s → ∃ t, exec (.fwdAck pk) s = .next t ∧ t.chans = s.chans)) ∧
  (∀ pk s c, pk.port ≠ 4 → 4 < pk.port ∨ (s.port pk.port).state ≠ .up ∨ (s.port pk.port).freq = true ∨ (s.port pk.port).ignoring = true →
    c ∈ [Instr.fwdRec pk, .fwdAck pk, .start pk, .proxyOpen pk, .pack pk, .regRd pk, .regWr pk, .regRsp pk, .memWr pk, .memData pk] →
    exec c s = .next s)

/-- OPEN binds an unbound device to its sender and starts the channel's sequence numbers anew; PACK removes what it
acknowledges; a request in sequence is taken and one out of it is not; register requests of the bound host are performed by
the path they came by and answered, and those of another are answered with a refusal; a memory read is made and answered in
packets of 64 bytes; a memory write is posted; an answer ends the window's request; and MEM_DATA is taken. -/
def Obligations.ProxyRequests : Prop :=
  (∀ pk s, Arrives 4 pk s → pkOp pk = 0 → ∃ t, exec (.proxyOpen pk) s = .next t ∧ (t.px pk.src).rx = 0 ∧
    t.tor.boundTo = some (s.tor.boundTo.getD pk.src)) ∧
  (∀ pk s, Arrives 4 pk s → pkOp pk = 1 → let l := (s.px pk.src).unacked
    let k := (payOf pk.words 1 % 2 ^ 16 + 2 ^ 16 - (match l with | p :: _ => p.pseq | [] => (s.px pk.src).tx)) % 2 ^ 16
    ∃ t, exec (.pack pk) s = .next t ∧ (t.px pk.src).unacked = if k ≤ min 256 l.length then l.drop k else l) ∧
  (∀ pk f s c n, (n, c) ∈ [(2, Instr.regRd pk), (3, .regWr pk), (4, .regRsp pk), (5, .memRd pk f), (6, .memWr pk), (7, .memData pk)] →
    Arrives 4 pk s → pkOp pk = n → pkSeq pk ≠ (s.px pk.src).rx → ∃ t, exec c s = .next t ∧ (t.px pk.src).rx = (s.px pk.src).rx ∧
      (t.px pk.src).unacked = (s.px pk.src).unacked ∧ t.tor.pxBusy = s.tor.pxBusy ∧ t.tor.boundTo = s.tor.boundTo) ∧
  (∀ pk s, Arrives 4 pk s → pkOp pk = 2 → pkSeq pk = (s.px pk.src).rx → let c := s.px pk.src
    let st := if s.tor.boundTo.getD pk.src ≠ pk.src then 1 else if s.answers (pkOffset pk) = false then 2 else 0
    ∃ t, exec (.regRd pk) s = .next t ∧ (t.px pk.src).rx = (c.rx + 1) % 2 ^ 16 ∧ c.unacked <+: (t.px pk.src).unacked ∧
      (t.px pk.src).unacked.length = c.unacked.length + 1 ∧
      ∃ p ∈ (t.px pk.src).unacked, p.pseq = c.tx ∧ p.op = 4 ∧ p.words.length = 3 ∧ p.words.getD 2 0 = BitVec.ofNat 32 st ∧
        (st = 0 → 0x8000 ≤ pkOffset pk → pkOffset pk < 0x8100 → pkOffset pk % 4 = 0 →
          p.words.getD 1 0 = BitVec.ofNat 32 (s.regVal .proxy (pkOffset pk)))) ∧
  (∀ pk s, Arrives 4 pk s → pkOp pk = 3 → pkSeq pk = (s.px pk.src).rx → pkOffset pk ≠ 0x18028 → let c := s.px pk.src
    let st := if s.tor.boundTo.getD pk.src ≠ pk.src then 1 else if s.answers (pkOffset pk) = false then 2 else 0
    ∃ t, exec (.regWr pk) s = .next t ∧ (t.px pk.src).rx = (c.rx + 1) % 2 ^ 16 ∧
      (t.px pk.src).unacked = c.unacked ++ [{ pseq := c.tx, op := 4, words := [pxWord 4 c.tx, 0, BitVec.ofNat 32 st] }] ∧
      (st = 0 → RegWritten .proxy (pkOffset pk) (BitVec.ofNat 32 (payOf pk.words 2)) s t)) ∧
  (∀ pk s, Arrives 4 pk s → pkOp pk = 4 → pkSeq pk = (s.px pk.src).rx → ∃ t, exec (.regRsp pk) s = .next t ∧
    (t.px pk.src).rx = ((s.px pk.src).rx + 1) % 2 ^ 16 ∧
    if s.tor.pxBusy = true ∧ s.tor.pxFor = pk.src then t.tor.pxBusy = false ∧ t.tor.pxResult = payOf pk.words 2 % 4 ∧
      t.tor.pxData = if s.tor.pxRead = true ∧ payOf pk.words 2 % 4 = 0 then BitVec.ofNat 32 (payOf pk.words 1) else s.tor.pxData
    else t.tor.pxBusy = s.tor.pxBusy ∧ t.tor.pxResult = s.tor.pxResult) ∧
  (∀ pk f s, Arrives 4 pk s → pkOp pk = 5 → pkSeq pk = (s.px pk.src).rx → let n := payOf pk.words 3 % 2 ^ 13
    ∃ t, exec (.memRd pk f) s = .next t ∧ (t.px pk.src).rx = ((s.px pk.src).rx + 1) % 2 ^ 16 ∧
      (s.host.linkUp = true → (.read (pkAddr pk) n : Out) ∈ t.out) ∧
      (t.px pk.src).unacked.length = (s.px pk.src).unacked.length + (n + 63) / 64) ∧
  (∀ pk s, Arrives 4 pk s → pkOp pk = 6 → pkSeq pk = (s.px pk.src).rx → let n := min 64 (payOf pk.words 3 % 2 ^ 7)
    ∃ t, exec (.memWr pk) s = .next t ∧ (t.px pk.src).rx = ((s.px pk.src).rx + 1) % 2 ^ 16 ∧
      (s.host.linkUp = true →
        (.write (pkAddr pk) (((List.range 16).flatMap fun i => leBytes 4 (payOf pk.words (4 + i))).take n) : Out) ∈ t.out)) ∧
  (∀ pk s, Arrives 4 pk s → pkOp pk = 7 → pkSeq pk = (s.px pk.src).rx → ∃ t, exec (.memData pk) s = .next t ∧
    (t.px pk.src).rx = ((s.px pk.src).rx + 1) % 2 ^ 16 ∧ (t.px pk.src).unacked = (s.px pk.src).unacked ∧ t.chans = s.chans ∧
    t.ctxs = s.ctxs) ∧
  (∀ pk f s c, pk.port ≠ 4 → 4 < pk.port ∨ (s.port pk.port).state ≠ .up → c = .memRd pk f → exec c s = .next s)

/-- GO_RD and GO_WR make the window busy with the target, and are ignored while it is busy or when both are written; RELEASE
closes its channel; unacknowledged packets, a lost host interface, an idle binding and an unanswered request have their
time-outs, and before them nothing happens; and VDDL stops the lanes and ports and lets them start again. -/
def Obligations.ProxyWindowAndSupplies : Prop :=
  (∀ v s rd, let c : Instr := if rd = true then .goRd v else .goWr v
    ∃ t, exec c s = .next t ∧
      if s.tor.pxBusy = true ∨ bit v.toNat (if rd = true then 30 else 31) = true then
        t.tor = s.tor ∧ (logsOk s → Logged .regWriteIgnored 0 s t)
      else t.tor.pxBusy = true ∧ t.tor.pxRead = rd ∧ t.tor.pxFor = s.tor.tgtId ∧ t.tor.pxSince = s.now ∧
        (t.px s.tor.tgtId).opened = !bit v.toNat 29) ∧
  (∀ v s, (bit v.toNat 31 = true → exec (.release v) s = exec (.goRd (v ||| 0x20000000#32)) s) ∧
    (bit v.toNat 30 = true → exec (.release v) s = exec (.goWr (v ||| 0x20000000#32)) s) ∧
    (bit v.toNat 31 = false → bit v.toNat 30 = false → ∃ t, exec (.release v) s = .next t ∧ (t.px s.tor.tgtId).opened = false ∧
      t.tor.pxBusy = s.tor.pxBusy)) ∧
  (∀ s, (∀ i, i ∈ s.tor.px.map (·.1) → (s.px i).unacked ≠ [] → (s.px i).adv + 262144 ≤ s.now →
      ∃ t, exec .proxyResend s = .next t ∧ (t.px i).adv = s.now ∧ (t.px i).unacked = (s.px i).unacked) ∧
    ((∀ i ∈ s.tor.px.map (·.1), (s.px i).unacked = [] ∨ s.now < (s.px i).adv + 262144) → exec .proxyResend s = .next s)) ∧
  (∀ s : State, match s.tor.boundTo with
    | some i => (if s.tor.pcieEn = false ∧ s.host.proxyLost = false ∧ (s.px i).unacked ≠ [] ∧ (s.px i).prog + 2 ^ 24 ≤ s.now then
          ∃ t, exec .proxyLost s = .next t ∧ t.host.proxyLost = true ∧ (logsOk s → Logged .proxyLost 0 s t)
        else exec .proxyLost s = .next s) ∧
      (if (s.px i).heard + 2 ^ 31 ≤ s.now then ∃ t, exec .proxyBindingTimeout s = .next t ∧ t.tor.boundTo = none
        else exec .proxyBindingTimeout s = .next s)
    | none => exec .proxyLost s = .next s ∧ exec .proxyBindingTimeout s = .next s) ∧
  (∀ s, if s.tor.pxBusy = true ∧ s.tor.pxSince + 2 ^ 24 ≤ s.now then ∃ t, exec .pxyTimeout s = .next t ∧ t.tor.pxBusy = false ∧
      t.tor.pxResult = 3 ∧ (t.px s.tor.pxFor).opened = false
    else exec .pxyTimeout s = .next s) ∧
  (∀ s, ∃ t, exec .vddlLow s = .next t ∧ t.pwr.vddlUp = false ∧ t.tor.final = false ∧ t.tor.ports = [] ∧
    (∀ rx g, (t.group rx g).state = .off) ∧ t.tor.x = s.tor.x ∧ t.tor.y = s.tor.y) ∧
  (∀ s, if s.pwr.vddlUp = false ∧ 4 ≤ s.pwr.step then ∃ t, exec .vddlReady s = .next t ∧ t.pwr.vddlUp = true
    else exec .vddlReady s = .next s)

/-- When a command waits, a step is that command's exec on the state with the queue's rest. -/
def Obligations.StepTakesFront : Prop :=
  ∀ (c : Instr) (rest : List Instr) (s : State), s.pending = c :: rest → step s = exec c { s with pending := rest }

/-- On an empty queue a step answers the state one ck later, in which the queue, the free values, the hoop, the SMBus port
and the identity are as they were, nothing that had left the block is taken back, where no change of VDD runs the stored
array is as it was, and where no channel waits to be retired the lanes are as they were. That a step on an empty queue is a
ck is the model's choice (log entry 1). -/
def Obligations.IdleTick : Prop :=
  ∀ s : State, s.pending = [] → ∃ t, step s = .next t ∧ t.now = s.now + 1 ∧ t.pending = [] ∧ t.hoop = s.hoop ∧
    t.smb = s.smb ∧ t.freeNo = s.freeNo ∧ t.members = s.members ∧ t.gradeE = s.gradeE ∧ t.serial = s.serial ∧ s.out <+: t.out ∧
    (s.pwr.avs = none → t.dram = s.dram) ∧ ((∀ ch, (s.chan ch).retirePend = false) → t.lanes = s.lanes)

/-- Right after reset the stored array and the fault logs have their canonical form and no command waits. -/
def Obligations.ResetInvariant : Prop :=
  memOk State.reset ∧ logsOk State.reset ∧ State.reset.pending = []

/-- From every state whose stored array has the canonical form, a step answers a state whose stored array has it. -/
def Obligations.MemoryCanonical : Prop :=
  ∀ s t : State, memOk s → step s = .next t → memOk t

/-- From every state whose fault log and saved fault log hold entries at distinct indices below 128, a step answers such a
state. -/
def Obligations.LogsCanonical : Prop :=
  ∀ s t : State, logsOk s → step s = .next t → logsOk t

/-- Every command, in every state and with every operand, answers a next state; the queue is as it was and nothing that had
left the block is taken back. -/
def Obligations.EveryCommandCompletes : Prop :=
  ∀ (c : Instr) (s : State), ∃ t, exec c s = .next t ∧ t.pending = s.pending ∧ s.out <+: t.out

/-- Every command leaves every kind of state unchanged but the ones that its row of the table of write sets names. -/
def Obligations.EveryCommandFrame : Prop :=
  ∀ (c : Instr) (s : State), ∃ t, exec c s = .next t ∧ Only c.writes s t

/-- A WR slot stores its codewords from the granule of its generated address on and changes no other codeword, and none
where it drives no data; the write half of an RMW changes no codeword but those of the merge entry it writes; and a command
whose write set does not hold the array changes no codeword. -/
def Obligations.StoresStayInPlace : Prop :=
  (∀ (ch : Nat) (w : Word) (h : StoreHit) (s : State) (cs : List Codeword), s.slotNow ch opWR = some w → (s.wrData ch w h).1 = some cs →
    ∃ t, exec (.wr ch h) s = .next t ∧ ∀ c a, (∀ j < cs.length, devAddr c a ≠ devAddr ch (((s.chan ch).seq.genNow w).1 / 4 * 4 + j)) →
      t.cell c a = s.cell c a) ∧
  (∀ (ch : Nat) (w : Word) (h : StoreHit) (s : State), s.slotNow ch opWR = some w → (s.wrData ch w h).1 = none →
    ∃ t, exec (.wr ch h) s = .next t ∧ t.dram = s.dram) ∧
  (∀ (ch : Nat) (w : Word) (h : StoreHit) (s : State), s.slotNow ch opRMW = some w → isReadHalf w = false →
    (s.chan ch).cap.writeReady = true → ∃ t, exec (.rmw ch h) s = .next t ∧ ∀ c a, (∀ m cs, (s.chan ch).cap.nextWrite = some m → m.merged = some cs →
        ∀ j < cs.length, devAddr c a ≠ devAddr ch (m.addr / 4 * 4 + j)) → t.cell c a = s.cell c a) ∧
  (∀ (c : Instr) (s : State), c.writes.dram = false → ∃ t, exec c s = .next t ∧ ∀ ch a, t.cell ch a = s.cell ch a)

/-- Right after reset the block is at the first step of BRING-UP in mode BRING-UP, every channel is IDLE, every context is
DISABLED, no fault is logged, every counter is 0, no lane group, port, burn or change runs, and registers read their reset
values. -/
def Obligations.ResetValues : Prop :=
  State.reset.pwr.mode = .bringUp ∧ State.reset.pwr.step = 0 ∧ State.reset.pwr.change = none ∧
    (∀ ch, (State.reset.chan ch).state = .idle ∧ (State.reset.chan ch).func = .idle ∧ (State.reset.chan ch).eyes.retrig = 5) ∧
    (∀ n, (State.reset.ctx n).state = .disabled) ∧ State.reset.journal = [] ∧ State.reset.flt.log = [] ∧ State.reset.flt.lost = 0 ∧
    State.reset.host.pollUs = 0x3E8 ∧ State.reset.host.pollEn = false ∧ State.reset.otp.burn = none ∧ State.reset.out = [] ∧
    (∀ off, off ∈ [0x40304, 0x40310] → State.reset.regVal .bar0 off = if off = 0x40304 then 5 else 0)

/-- A READ, WRITE or FILL whose device byte address has a bit of [63:36] set, or that is not aligned to a granule, is
refused: it completes with a status that is not OK, and nothing is stored. -/
def Obligations.DirectAddressesAreChecked : Prop :=
  ∀ (n : Nat) (fs : List Fetch) (s : State) (d : Desc), d.daAddr / 2 ^ 36 ≠ 0 ∨ d.daAddr % 32 ≠ 0 →
    (s.startable n 0x10 = some d → ∃ t st, exec (.read n) s = .next t ∧ st ≠ 0 ∧ Answered n d.seq st t ∧ t.dram = s.dram) ∧
    (s.startable n 0x11 = some d → ∃ t st, exec (.write n fs) s = .next t ∧ st ≠ 0 ∧ Answered n d.seq st t ∧ t.dram = s.dram) ∧
    (s.startable n 0x12 = some d → ∃ t st, exec (.fill n) s = .next t ∧ st ≠ 0 ∧ Answered n d.seq st t ∧ t.dram = s.dram)

/-- A read of TOR_TIME_LO returns global time [31:0] and leaves the path a latch of [63:32] as it is then; the path's next
read of TOR_TIME_HI returns the latch and drops it, whatever global time has become; without a latch TOR_TIME_HI returns
[63:32]; and at reset the time is 0. -/
def Obligations.TimeIsLatched : Prop :=
  (∀ (p : Path) (s : State), (s.readReg p 0x18014).1 = s.gt % 2 ^ 32) ∧
  (∀ (p : Path) (s u : State), u.tor.timeLatch = (s.readReg p 0x18014).2.tor.timeLatch →
    (u.readReg p 0x18018).1 = s.gt / 2 ^ 32 % 2 ^ 32 ∧
      ((u.readReg p 0x18018).2.readReg p 0x18018).1 = u.gt / 2 ^ 32 % 2 ^ 32) ∧
  (∀ (p : Path) (s : State), Sparse.find? s.tor.timeLatch (Path.key p) = none →
    (s.readReg p 0x18018).1 = s.gt / 2 ^ 32 % 2 ^ 32) ∧ State.reset.gt = 0

/-- A FUNC_START on a RUNNING channel, or on a STARTING one that it did not start itself, gets REFUSED_STATE and leaves the
channel alone; an image whose section names a STOPPING channel draws verdict 0x60, on the first read and on the second. -/
def Obligations.StartsAreRefused : Prop :=
  (∀ n b s d, s.startable n 0x41 = some d → bits (d.u32 0x10) 7 7 = 0 → d.u32 0x10 / 512 = 0 → d.u32 0x14 < 2 ^ 16 →
    d.zero 0x18 0x40 = true → let ch := d.u32 0x10 % 128
    ch < s.members → (s.chan ch).state = .running ∨ ((s.chan ch).state = .starting ∧ (s.chan ch).starter ≠ some (n, d.seq)) →
    ∃ t, exec (.funcStart n b) s = .next t ∧ Answered n d.seq 0x0015 t ∧ t.chans = s.chans) ∧
  (∀ n f k s d b h pre e post r x, s.startedOp n 0x40 = none → s.startable n 0x40 = some d → s.hostUp = true → s.firstLoad d = true → d.u64 0x10 % 8 = 0 →
    d.u32 0x1C / 2 = 0 → d.zero 0x20 0x40 = true → fetchData f = some b → checkHeader b (d.u32 0x18) = .ok h →
    checkDirectory b h s.members = .ok (pre ++ e :: post) → checkSections s.checkEnv b h pre = .ok r → e.typ = 1 →
    e.crcOf b = e.crc → checkChanFormat s.checkEnv ((b.drop e.off).take e.len) e.idx h = .ok x → (s.chan e.idx).state = .stopping →
    checkImage s.checkEnv b (d.u32 0x18) = .error { code := 0x60, sect := e.sect } ∧
      ∃ t, exec (.loadPricking n f false k) s = .next t ∧ Answered n d.seq 1 t) ∧
  (∀ n f x k s d img b y, s.startedOp n 0x40 = some d → s.hostUp = true → parseImage s.checkEnv.open_ d.staged (d.u32 0x18) = .ok img →
    fetchData f = some b → secondBad b img.entries = none → y ∈ img.chans → (s.chan y.chan).state = .stopping → s.checkEnv.band y.chan ≤ y.cover →
    (∃ v, s.checkEnv.retest y = some v ∧ v.code = 0x60) ∧ ∃ t, exec (.loadPricking n f x k) s = .next t ∧ Answered n d.seq 1 t)

/-- A FUNC_START on a STOPPING channel is held; a second one gets REFUSED_REARM; and a FUNC_STOP while a start is held
completes the held FUNC_START with SUPERSEDED, leaves no start held and waits for the shut-down that runs. -/
def Obligations.HeldStarts : Prop :=
  (∀ n b s d, s.startable n 0x41 = some d → bits (d.u32 0x10) 7 7 = 0 → d.u32 0x10 / 512 = 0 → d.u32 0x14 < 2 ^ 16 →
    d.zero 0x18 0x40 = true → let ch := d.u32 0x10 % 128
    ch < s.members → (s.chan ch).state = .stopping →
    ((s.chan ch).held = none → ∃ t, exec (.funcStart n b) s = .next t ∧ Begun n d.seq t ∧
      (t.chan ch).held = some { ctx := n, seq := d.seq, group := d.u32 0x14, resume := bit (d.u32 0x10) 8 } ∧
      (t.chan ch).state = .stopping) ∧
    ((s.chan ch).held.isSome → ∃ t, exec (.funcStart n b) s = .next t ∧ Answered n d.seq 0x0016 t ∧ t.chans = s.chans)) ∧
  (∀ n s d h e, s.startable n 0x42 = some d → bits (d.u32 0x10) 7 7 = 0 → d.u32 0x10 / 1024 = 0 → bits (d.u32 0x10) 9 8 < 2 →
    d.zero 0x14 0x40 = true → let ch := d.u32 0x10 % 128
    ch < s.members → (s.chan ch).state = .stopping → (s.chan ch).held = some h →
    e ∈ (s.ctx h.ctx).acc → e.seq = h.seq → e.phase ≠ .done → h.ctx ≠ n →
    ∃ t, exec (.funcStop n) s = .next t ∧ Answered h.ctx h.seq 0x0002 t ∧ (t.chan ch).held = none ∧
      (t.chan ch).state = .stopping ∧ (n, d.seq) ∈ (t.chan ch).stoppers)

/-- An instruction that the life-cycle state forbids leaves BYPASS in the instruction register; the first one after a TAP
reset is logged as TAP_GATED at class C0, and the next ones are not. -/
def Obligations.ForbiddenTapInstructions : Prop :=
  ∀ (k : Nat) (s : State), s.otp.tapOk k = false → logsOk s →
    (∃ t u, exec .tapReset s = .next t ∧ exec (.tapInstruction k) t = .next u ∧ u.otp.tapInstr = 0 ∧ Logged .tapGated 0 t u ∧
      ∃ v, exec (.tapInstruction k) u = .next v ∧ v.otp.tapInstr = 0 ∧ v.flt = u.flt) ∧
    (∃ u, exec (.tapInstruction k) s = .next u ∧ u.otp.tapInstr = 0) ∧ Cause.tapGated.cls = 0

/-- In SAFE a request for SERVICE gets POWER_CAUSE_ACTIVE, and a PWR_WAKE.SAFE_EXIT logs a C0 fault, while the trip
condition is active or a C4 entry remains, and neither begins a change; without a cause each of them begins the SAFE exit.
-/
def Obligations.SafeExitsAreRefused : Prop :=
  (∀ n s d c, s.startable n 0x4A = some d → parseRequest n d = some c → c.target = .service → s.pwr.mode = .safe →
    s.pwr.change = none → s.pwr.pendingReq = none →
    if s.thm.tripActive = true ∨ ∃ e ∈ s.flt.log, e.2.cls = 4
    then ∃ t, exec (.powerRequest n) s = .next t ∧ Answered n d.seq 0x0064 t ∧ t.pwr = s.pwr
    else ∃ t, exec (.powerRequest n) s = .next t ∧ Begun n d.seq t ∧ t.pwr.change = some { c with phase := 1 }) ∧
  (∀ p s, p ≠ .bar2 → s.pwr.mode = .safe → (s.pwr.wakePath p).1 = true → s.pwr.change = none → s.pwr.pendingReq = none → logsOk s →
    if s.thm.tripActive = true ∨ ∃ e ∈ s.flt.log, e.2.cls = 4
    then ∃ t, exec (.pwrWakeSafeExit p) s = .next t ∧ t.pwr = s.pwr ∧ Logged .regWriteIgnored 0 s t ∧ Cause.regWriteIgnored.cls = 0
    else ∃ t, exec (.pwrWakeSafeExit p) s = .next t ∧
      t.pwr.change = some { target := .service, source := (s.pwr.wakePath p).2, phase := 1 })

/-- A port whose fourth time-out replay passes without a LACK advance, or that loses lock, discards its replay buffer and
its queues, goes FAILED and logs TOR_LINK_FAIL at class C2; from then on routing does not use it. -/
def Obligations.ReplaysFailTheLink : Prop :=
  (∀ p s, p < 4 → (s.port p).state = .up → (s.port p).freq = false → (s.port p).unacked ≠ [] → (s.port p).lastAdv + 2048 ≤ s.now → 3 ≤ (s.port p).replays →
    logsOk s → ∃ t, exec (.replayTimeout p) s = .next t ∧ (t.port p).state = .failed ∧ (t.port p).unacked = [] ∧
      (t.port p).mgmt = [] ∧ (t.port p).fwdq = [] ∧ Logged .torLinkFail p s t ∧ (t.port p).up = false) ∧
  (∀ p s, p < 4 → (s.group true (8 + p)).state.running = true → logsOk s →
    ∃ t, exec (.receiveLossOfLock (8 + p)) s = .next t ∧ (t.port p).state = .failed ∧ (t.port p).unacked = [] ∧
      (t.port p).mgmt = [] ∧ (t.port p).fwdq = [] ∧ Logged .torLinkFail p s t ∧ (t.port p).up = false) ∧
  Cause.torLinkFail.cls = 2

/-- An occurrence without an open, unacknowledged matching entry takes a new entry at its own class; with one, under MERGE
the newest of them takes COUNT + 1 and the higher class, except for CONTRACT_BREAK, CTX_HALT and THERMAL_TRIP, which take a
new entry; under ESCALATE it takes a new entry at the higher of its own class and one above the newest such entry, never C4
unless its own is, marked ESCALATED when that is above its own class. A new entry takes the lowest free index when there is
one; when the log is full it replaces an entry of a class below its own with no active cause, which adds 1 to LOST; and
without such an entry the occurrence is lost, which does the same. -/
def Obligations.OccurrencesEnterTheLog : Prop :=
  (∀ (f : Faults) (o : Occurrence), o.active = false →
    ((∀ e ∈ f.log, e.2.matches o = true → e.2.ack = true) → f.enter o = f.newEntry o o.cause.cls false) ∧
    (∀ i e, pickLsn true f.log (fun e => e.matches o && !e.ack) = some (i, e) →
      (f.escalate = false → o.cause.noMerge = true → f.enter o = f.newEntry o o.cause.cls false) ∧
      (f.escalate = false → o.cause.noMerge = false → Sparse.find? (f.enter o).log i =
          some { e with count := satAdd 0xFFFF e.count 1, cls := max e.cls o.cause.cls } ∧ (f.enter o).lost = f.lost) ∧
      (f.escalate = true → f.enter o = f.newEntry o (min (max o.cause.cls (e.cls + 1)) (if o.cause.cls = 4 then 4 else 3))
        (decide (o.cause.cls < min (max o.cause.cls (e.cls + 1)) (if o.cause.cls = 4 then 4 else 3)))))) ∧
  (∀ (f : Faults) (o : Occurrence) (c : Nat) (x : Bool), logOk f.log →
    (∀ i, i < 128 → (∀ j < i, ∃ e ∈ f.log, e.1 = j) → (∀ e ∈ f.log, e.1 ≠ i) → ∃ e, Sparse.find? (f.newEntry o c x).log i = some e ∧
      e.cls = c ∧ e.blk = o.cause.blk ∧ e.cause = o.cause.code ∧ e.inst = o.inst ∧ e.time = o.time ∧ e.lsn = f.nextLsn ∧
      e.ack = false ∧ (f.newEntry o c x).lost = f.lost) ∧
    ((∀ i < 128, ∃ e ∈ f.log, e.1 = i) → (∀ e ∈ f.log, c ≤ e.2.cls ∨ e.2.active = true) →
      (f.newEntry o c x).log = f.log ∧ (f.newEntry o c x).lost = satAdd 0x3FF f.lost 1 ∧ (f.newEntry o c x).lostMax = max f.lostMax c) ∧
    ((∀ i < 128, ∃ e ∈ f.log, e.1 = i) → (∃ e ∈ f.log, e.2.cls < c ∧ e.2.active = false) →
      (f.newEntry o c x).lost = satAdd 0x3FF f.lost 1 ∧ ∃ i e, Sparse.find? f.log i = some e ∧ e.cls < c ∧ e.active = false ∧
        ∃ n, Sparse.find? (f.newEntry o c x).log i = some n ∧ n.lsn = f.nextLsn ∧ n.cls = c))
end

