-- ==== Sys2Proof/Laws/Sparse.lean ====
section
/-! SUPPORT. Laws of the sparse tables: a read after a write, and the canonical form under every operation. -/

namespace Sys2Proof.Laws

open Sys2Proof

variable {α : Type}

/-! ## A read after a write -/

theorem find?_insert (m : List (Nat × α)) (k j : Nat) (v : α) :
    Sparse.find? (Sparse.insert m k v) j = if j = k then some v else Sparse.find? m j := by
  induction m with
  | nil => simp only [Sparse.insert, Sparse.find?]
  | cons e m ih =>
    obtain ⟨i, w⟩ := e
    simp only [Sparse.insert]
    split
    · simp only [Sparse.find?]
    · split
      · rename_i h; subst h
        simp only [Sparse.find?]; split <;> simp_all
      · simp only [Sparse.find?, ih]
        split
        · split <;> simp_all
        · rfl

theorem get_insert (d : α) (m : List (Nat × α)) (k j : Nat) (v : α) :
    Sparse.get d (Sparse.insert m k v) j = if j = k then v else Sparse.get d m j := by
  induction m with
  | nil => simp only [Sparse.insert, Sparse.get]
  | cons e m ih =>
    obtain ⟨i, w⟩ := e
    simp only [Sparse.insert]
    split
    · simp only [Sparse.get]
    · split
      · rename_i h; subst h
        simp only [Sparse.get]; split <;> simp_all
      · simp only [Sparse.get, ih]
        split
        · split <;> simp_all
        · rfl

/-! ## The canonical form -/

/-- The keys rise strictly. -/
def Rising (m : List (Nat × α)) : Prop := (m.map (·.1)).Pairwise (· < ·)

theorem sorted_some (m : List (Nat × α)) (lo : Nat) :
    Sparse.sorted (some lo) m = true ↔ (∀ e ∈ m, lo < e.1) ∧ Rising m := by
  induction m generalizing lo with
  | nil => simp [Sparse.sorted, Rising]
  | cons e m ih =>
    obtain ⟨i, w⟩ := e
    simp only [Sparse.sorted, Bool.and_eq_true, decide_eq_true_eq, ih, Rising, List.map_cons, List.pairwise_cons,
      List.forall_mem_map, List.forall_mem_cons]
    constructor
    · rintro ⟨h, h1, h2⟩
      exact ⟨⟨h, fun x hx => Nat.lt_trans h (h1 x hx)⟩, h1, h2⟩
    · rintro ⟨⟨h, _⟩, h1, h2⟩
      exact ⟨h, h1, h2⟩

theorem sorted_none (m : List (Nat × α)) : Sparse.sorted none m = true ↔ Rising m := by
  cases m with
  | nil => simp [Sparse.sorted, Rising]
  | cons e m =>
    obtain ⟨i, w⟩ := e
    simp only [Sparse.sorted, sorted_some, Rising, List.map_cons, List.pairwise_cons, List.forall_mem_map]

theorem rising_nil : Rising ([] : List (Nat × α)) := List.Pairwise.nil

theorem rising_filter (f : Nat × α → Bool) {m : List (Nat × α)} (h : Rising m) : Rising (m.filter f) :=
  List.Pairwise.sublist (List.Sublist.map _ List.filter_sublist) h

theorem mem_erase {m : List (Nat × α)} {k : Nat} {e : Nat × α} (h : e ∈ Sparse.erase m k) : e ∈ m := (List.mem_filter.1 h).1

theorem rising_erase {m : List (Nat × α)} (k : Nat) (h : Rising m) : Rising (Sparse.erase m k) := rising_filter _ h

theorem mem_insert {m : List (Nat × α)} {k : Nat} {v : α} {e : Nat × α} (h : e ∈ Sparse.insert m k v) :
    e = (k, v) ∨ e ∈ m := by
  induction m with
  | nil => simpa [Sparse.insert] using h
  | cons x m ih =>
    obtain ⟨i, w⟩ := x
    simp only [Sparse.insert] at h
    split at h
    · simpa using h
    · split at h
      · rcases List.mem_cons.1 h with h | h
        · exact .inl h
        · exact .inr (List.mem_cons_of_mem _ h)
      · rcases List.mem_cons.1 h with h | h
        · exact .inr (h ▸ List.mem_cons_self)
        · exact (ih h).imp id (List.mem_cons_of_mem _)

theorem rising_insert {m : List (Nat × α)} (k : Nat) (v : α) (h : Rising m) : Rising (Sparse.insert m k v) := by
  induction m with
  | nil => simp [Sparse.insert, Rising]
  | cons x m ih =>
    obtain ⟨i, w⟩ := x
    simp only [Rising, List.map_cons, List.pairwise_cons, List.forall_mem_map] at h
    simp only [Sparse.insert]
    split
    · rename_i hk
      simp only [Rising, List.map_cons, List.pairwise_cons, List.forall_mem_map, List.forall_mem_cons]
      exact ⟨⟨hk, fun e he => Nat.lt_trans hk (h.1 e he)⟩, h.1, h.2⟩
    · split
      · rename_i hk; subst hk
        simp only [Rising, List.map_cons, List.pairwise_cons, List.forall_mem_map]
        exact h
      · simp only [Rising, List.map_cons, List.pairwise_cons, List.forall_mem_map]
        refine ⟨fun e he => ?_, ih h.2⟩
        rcases mem_insert he with rfl | he
        · omega
        · exact h.1 e he

theorem rising_set [DecidableEq α] (d : α) {m : List (Nat × α)} (k : Nat) (v : α) (h : Rising m) :
    Rising (Sparse.set d m k v) := by
  unfold Sparse.set
  split
  · exact rising_erase k h
  · exact rising_insert k v h

theorem rising_modify [DecidableEq α] (d : α) {m : List (Nat × α)} (k : Nat) (f : α → α) (h : Rising m) :
    Rising (Sparse.modify d m k f) := rising_set d k _ h

theorem rising_map {m : List (Nat × α)} (f : Nat × α → Nat × α) (hf : ∀ e, (f e).1 = e.1) (h : Rising m) :
    Rising (m.map f) := by
  unfold Rising at *
  simpa [List.map_map, Function.comp_def, hf] using h

theorem sorted_insert {m : List (Nat × α)} (k : Nat) (v : α) (h : Sparse.sorted none m = true) :
    Sparse.sorted none (Sparse.insert m k v) = true := (sorted_none _).2 (rising_insert k v ((sorted_none _).1 h))

theorem sorted_erase {m : List (Nat × α)} (k : Nat) (h : Sparse.sorted none m = true) :
    Sparse.sorted none (Sparse.erase m k) = true := (sorted_none _).2 (rising_erase k ((sorted_none _).1 h))

theorem sorted_filter {m : List (Nat × α)} (f : Nat × α → Bool) (h : Sparse.sorted none m = true) :
    Sparse.sorted none (m.filter f) = true := (sorted_none _).2 (rising_filter f ((sorted_none _).1 h))

/-- The canonical form of a table outlives a write (the default drops its entry). -/
theorem wf_set [DecidableEq α] (d : α) {m : List (Nat × α)} (k : Nat) (v : α) (h : Sparse.wf d m = true) :
    Sparse.wf d (Sparse.set d m k v) = true := by
  simp only [Sparse.wf, Bool.and_eq_true, sorted_none, List.all_eq_true, decide_eq_true_eq] at h ⊢
  refine ⟨rising_set d k v h.1, fun e he => ?_⟩
  unfold Sparse.set at he
  split at he
  · exact h.2 e (mem_erase he)
  · rcases mem_insert he with rfl | he
    · assumption
    · exact h.2 e he

theorem wf_modify [DecidableEq α] (d : α) {m : List (Nat × α)} (k : Nat) (f : α → α) (h : Sparse.wf d m = true) :
    Sparse.wf d (Sparse.modify d m k f) = true := wf_set d k _ h

theorem find?_mem {m : List (Nat × α)} {k : Nat} {v : α} (h : Sparse.find? m k = some v) : (k, v) ∈ m := by
  induction m with
  | nil => exact nomatch h
  | cons e m ih =>
    obtain ⟨j, w⟩ := e
    unfold Sparse.find? at h
    split at h
    · rename_i hk
      cases h
      rw [hk]
      exact List.mem_cons_self
    · exact List.mem_cons_of_mem _ (ih h)

theorem get_erase (d : α) (m : List (Nat × α)) (k j : Nat) :
    Sparse.get d (Sparse.erase m k) j = if j = k then d else Sparse.get d m j := by
  induction m with
  | nil => simp [Sparse.erase, Sparse.get]
  | cons x m ih =>
    obtain ⟨i, w⟩ := x
    simp only [Sparse.erase, List.filter_cons] at ih ⊢
    split
    · rename_i hk
      simp only [bne_iff_ne, ne_eq] at hk
      simp only [Sparse.get, ih]
      split <;> split <;> simp_all
    · rename_i hk
      simp only [bne_iff_ne, ne_eq, Decidable.not_not] at hk
      subst hk
      rw [ih]
      simp only [Sparse.get]
      split <;> rfl

theorem find?_erase (m : List (Nat × α)) (k j : Nat) :
    Sparse.find? (Sparse.erase m k) j = if j = k then none else Sparse.find? m j := by
  induction m with
  | nil => simp [Sparse.erase, Sparse.find?]
  | cons x m ih =>
    obtain ⟨i, w⟩ := x
    simp only [Sparse.erase, List.filter_cons] at ih ⊢
    split
    · rename_i hk
      simp only [bne_iff_ne, ne_eq] at hk
      simp only [Sparse.find?, ih]
      split <;> split <;> simp_all
    · rename_i hk
      simp only [bne_iff_ne, ne_eq, Decidable.not_not] at hk
      subst hk
      rw [ih]
      simp only [Sparse.find?]
      split <;> rfl

/-- A read after a write. -/
theorem get_set [DecidableEq α] (d : α) (m : List (Nat × α)) (k j : Nat) (v : α) :
    Sparse.get d (Sparse.set d m k v) j = if j = k then v else Sparse.get d m j := by
  unfold Sparse.set
  split
  · rename_i hv; subst hv
    exact get_erase v m k j
  · exact get_insert d m k j v

theorem get_modify [DecidableEq α] (d : α) (m : List (Nat × α)) (k j : Nat) (f : α → α) :
    Sparse.get d (Sparse.modify d m k f) j = if j = k then f (Sparse.get d m k) else Sparse.get d m j :=
  get_set d m k j _

@[simp] theorem get_modify_same [DecidableEq α] (d : α) (m : List (Nat × α)) (k : Nat) (f : α → α) :
    Sparse.get d (Sparse.modify d m k f) k = f (Sparse.get d m k) := by simp [get_modify]

end Sys2Proof.Laws
end

