-- ==== Sys2Proof/Laws/State.lean ====
section
/-! SUPPORT. Every field of the state after every basic update, and what the accessors read after one. -/

namespace Sys2Proof.Laws

open Sys2Proof Sys2Proof.Machine

/-! `State.modChan` changes `chans`. -/

@[simp] theorem modChan_pending (ch : Nat) (f : Chan → Chan) (s : State) : (s.modChan ch f).pending = s.pending := rfl
@[simp] theorem modChan_now (ch : Nat) (f : Chan → Chan) (s : State) : (s.modChan ch f).now = s.now := rfl
@[simp] theorem modChan_freeNo (ch : Nat) (f : Chan → Chan) (s : State) : (s.modChan ch f).freeNo = s.freeNo := rfl
@[simp] theorem modChan_members (ch : Nat) (f : Chan → Chan) (s : State) : (s.modChan ch f).members = s.members := rfl
@[simp] theorem modChan_gradeE (ch : Nat) (f : Chan → Chan) (s : State) : (s.modChan ch f).gradeE = s.gradeE := rfl
@[simp] theorem modChan_chans (ch : Nat) (f : Chan → Chan) (s : State) :
    (s.modChan ch f).chans = Sparse.modify {} s.chans ch f := rfl
@[simp] theorem modChan_frozen (ch : Nat) (f : Chan → Chan) (s : State) : (s.modChan ch f).frozen = s.frozen := rfl
@[simp] theorem modChan_ctxs (ch : Nat) (f : Chan → Chan) (s : State) : (s.modChan ch f).ctxs = s.ctxs := rfl
@[simp] theorem modChan_journal (ch : Nat) (f : Chan → Chan) (s : State) : (s.modChan ch f).journal = s.journal := rfl
@[simp] theorem modChan_dram (ch : Nat) (f : Chan → Chan) (s : State) : (s.modChan ch f).dram = s.dram := rfl
@[simp] theorem modChan_host (ch : Nat) (f : Chan → Chan) (s : State) : (s.modChan ch f).host = s.host := rfl
@[simp] theorem modChan_flt (ch : Nat) (f : Chan → Chan) (s : State) : (s.modChan ch f).flt = s.flt := rfl
@[simp] theorem modChan_cnt (ch : Nat) (f : Chan → Chan) (s : State) : (s.modChan ch f).cnt = s.cnt := rfl
@[simp] theorem modChan_thm (ch : Nat) (f : Chan → Chan) (s : State) : (s.modChan ch f).thm = s.thm := rfl
@[simp] theorem modChan_lanes (ch : Nat) (f : Chan → Chan) (s : State) : (s.modChan ch f).lanes = s.lanes := rfl
@[simp] theorem modChan_tor (ch : Nat) (f : Chan → Chan) (s : State) : (s.modChan ch f).tor = s.tor := rfl
@[simp] theorem modChan_pwr (ch : Nat) (f : Chan → Chan) (s : State) : (s.modChan ch f).pwr = s.pwr := rfl
@[simp] theorem modChan_hoop (ch : Nat) (f : Chan → Chan) (s : State) : (s.modChan ch f).hoop = s.hoop := rfl
@[simp] theorem modChan_otp (ch : Nat) (f : Chan → Chan) (s : State) : (s.modChan ch f).otp = s.otp := rfl
@[simp] theorem modChan_smb (ch : Nat) (f : Chan → Chan) (s : State) : (s.modChan ch f).smb = s.smb := rfl
@[simp] theorem modChan_idDefault (ch : Nat) (f : Chan → Chan) (s : State) : (s.modChan ch f).idDefault = s.idDefault := rfl
@[simp] theorem modChan_serial (ch : Nat) (f : Chan → Chan) (s : State) : (s.modChan ch f).serial = s.serial := rfl
@[simp] theorem modChan_out (ch : Nat) (f : Chan → Chan) (s : State) : (s.modChan ch f).out = s.out := rfl

/-! `State.modCtx` changes `ctxs`. -/

@[simp] theorem modCtx_pending (n : Nat) (f : Ctx → Ctx) (s : State) : (s.modCtx n f).pending = s.pending := rfl
@[simp] theorem modCtx_now (n : Nat) (f : Ctx → Ctx) (s : State) : (s.modCtx n f).now = s.now := rfl
@[simp] theorem modCtx_freeNo (n : Nat) (f : Ctx → Ctx) (s : State) : (s.modCtx n f).freeNo = s.freeNo := rfl
@[simp] theorem modCtx_members (n : Nat) (f : Ctx → Ctx) (s : State) : (s.modCtx n f).members = s.members := rfl
@[simp] theorem modCtx_gradeE (n : Nat) (f : Ctx → Ctx) (s : State) : (s.modCtx n f).gradeE = s.gradeE := rfl
@[simp] theorem modCtx_chans (n : Nat) (f : Ctx → Ctx) (s : State) : (s.modCtx n f).chans = s.chans := rfl
@[simp] theorem modCtx_frozen (n : Nat) (f : Ctx → Ctx) (s : State) : (s.modCtx n f).frozen = s.frozen := rfl
@[simp] theorem modCtx_ctxs (n : Nat) (f : Ctx → Ctx) (s : State) : (s.modCtx n f).ctxs = Sparse.modify {} s.ctxs n f := rfl
@[simp] theorem modCtx_journal (n : Nat) (f : Ctx → Ctx) (s : State) : (s.modCtx n f).journal = s.journal := rfl
@[simp] theorem modCtx_dram (n : Nat) (f : Ctx → Ctx) (s : State) : (s.modCtx n f).dram = s.dram := rfl
@[simp] theorem modCtx_host (n : Nat) (f : Ctx → Ctx) (s : State) : (s.modCtx n f).host = s.host := rfl
@[simp] theorem modCtx_flt (n : Nat) (f : Ctx → Ctx) (s : State) : (s.modCtx n f).flt = s.flt := rfl
@[simp] theorem modCtx_cnt (n : Nat) (f : Ctx → Ctx) (s : State) : (s.modCtx n f).cnt = s.cnt := rfl
@[simp] theorem modCtx_thm (n : Nat) (f : Ctx → Ctx) (s : State) : (s.modCtx n f).thm = s.thm := rfl
@[simp] theorem modCtx_lanes (n : Nat) (f : Ctx → Ctx) (s : State) : (s.modCtx n f).lanes = s.lanes := rfl
@[simp] theorem modCtx_tor (n : Nat) (f : Ctx → Ctx) (s : State) : (s.modCtx n f).tor = s.tor := rfl
@[simp] theorem modCtx_pwr (n : Nat) (f : Ctx → Ctx) (s : State) : (s.modCtx n f).pwr = s.pwr := rfl
@[simp] theorem modCtx_hoop (n : Nat) (f : Ctx → Ctx) (s : State) : (s.modCtx n f).hoop = s.hoop := rfl
@[simp] theorem modCtx_otp (n : Nat) (f : Ctx → Ctx) (s : State) : (s.modCtx n f).otp = s.otp := rfl
@[simp] theorem modCtx_smb (n : Nat) (f : Ctx → Ctx) (s : State) : (s.modCtx n f).smb = s.smb := rfl
@[simp] theorem modCtx_idDefault (n : Nat) (f : Ctx → Ctx) (s : State) : (s.modCtx n f).idDefault = s.idDefault := rfl
@[simp] theorem modCtx_serial (n : Nat) (f : Ctx → Ctx) (s : State) : (s.modCtx n f).serial = s.serial := rfl
@[simp] theorem modCtx_out (n : Nat) (f : Ctx → Ctx) (s : State) : (s.modCtx n f).out = s.out := rfl

/-! `State.emit` changes `out`. -/

@[simp] theorem emit_pending (o : Out) (s : State) : (s.emit o).pending = s.pending := rfl
@[simp] theorem emit_now (o : Out) (s : State) : (s.emit o).now = s.now := rfl
@[simp] theorem emit_freeNo (o : Out) (s : State) : (s.emit o).freeNo = s.freeNo := rfl
@[simp] theorem emit_members (o : Out) (s : State) : (s.emit o).members = s.members := rfl
@[simp] theorem emit_gradeE (o : Out) (s : State) : (s.emit o).gradeE = s.gradeE := rfl
@[simp] theorem emit_chans (o : Out) (s : State) : (s.emit o).chans = s.chans := rfl
@[simp] theorem emit_frozen (o : Out) (s : State) : (s.emit o).frozen = s.frozen := rfl
@[simp] theorem emit_ctxs (o : Out) (s : State) : (s.emit o).ctxs = s.ctxs := rfl
@[simp] theorem emit_journal (o : Out) (s : State) : (s.emit o).journal = s.journal := rfl
@[simp] theorem emit_dram (o : Out) (s : State) : (s.emit o).dram = s.dram := rfl
@[simp] theorem emit_host (o : Out) (s : State) : (s.emit o).host = s.host := rfl
@[simp] theorem emit_flt (o : Out) (s : State) : (s.emit o).flt = s.flt := rfl
@[simp] theorem emit_cnt (o : Out) (s : State) : (s.emit o).cnt = s.cnt := rfl
@[simp] theorem emit_thm (o : Out) (s : State) : (s.emit o).thm = s.thm := rfl
@[simp] theorem emit_lanes (o : Out) (s : State) : (s.emit o).lanes = s.lanes := rfl
@[simp] theorem emit_tor (o : Out) (s : State) : (s.emit o).tor = s.tor := rfl
@[simp] theorem emit_pwr (o : Out) (s : State) : (s.emit o).pwr = s.pwr := rfl
@[simp] theorem emit_hoop (o : Out) (s : State) : (s.emit o).hoop = s.hoop := rfl
@[simp] theorem emit_otp (o : Out) (s : State) : (s.emit o).otp = s.otp := rfl
@[simp] theorem emit_smb (o : Out) (s : State) : (s.emit o).smb = s.smb := rfl
@[simp] theorem emit_idDefault (o : Out) (s : State) : (s.emit o).idDefault = s.idDefault := rfl
@[simp] theorem emit_serial (o : Out) (s : State) : (s.emit o).serial = s.serial := rfl
@[simp] theorem emit_out (o : Out) (s : State) : (s.emit o).out = s.out ++ [o] := rfl

/-! `State.putCell` changes `dram`. -/

@[simp] theorem putCell_pending (ch a : Nat) (c : Codeword) (s : State) :
    (s.putCell ch a c).pending = s.pending := by unfold State.putCell; rfl
@[simp] theorem putCell_now (ch a : Nat) (c : Codeword) (s : State) :
    (s.putCell ch a c).now = s.now := by unfold State.putCell; rfl
@[simp] theorem putCell_freeNo (ch a : Nat) (c : Codeword) (s : State) :
    (s.putCell ch a c).freeNo = s.freeNo := by unfold State.putCell; rfl
@[simp] theorem putCell_members (ch a : Nat) (c : Codeword) (s : State) :
    (s.putCell ch a c).members = s.members := by unfold State.putCell; rfl
@[simp] theorem putCell_gradeE (ch a : Nat) (c : Codeword) (s : State) :
    (s.putCell ch a c).gradeE = s.gradeE := by unfold State.putCell; rfl
@[simp] theorem putCell_chans (ch a : Nat) (c : Codeword) (s : State) :
    (s.putCell ch a c).chans = s.chans := by unfold State.putCell; rfl
@[simp] theorem putCell_frozen (ch a : Nat) (c : Codeword) (s : State) :
    (s.putCell ch a c).frozen = s.frozen := by unfold State.putCell; rfl
@[simp] theorem putCell_ctxs (ch a : Nat) (c : Codeword) (s : State) :
    (s.putCell ch a c).ctxs = s.ctxs := by unfold State.putCell; rfl
@[simp] theorem putCell_journal (ch a : Nat) (c : Codeword) (s : State) :
    (s.putCell ch a c).journal = s.journal := by unfold State.putCell; rfl
@[simp] theorem putCell_dram (ch a : Nat) (c : Codeword) (s : State) :
    (s.putCell ch a c).dram = s.dram.write (devAddr ch a) c := by unfold State.putCell; rfl
@[simp] theorem putCell_host (ch a : Nat) (c : Codeword) (s : State) :
    (s.putCell ch a c).host = s.host := by unfold State.putCell; rfl
@[simp] theorem putCell_flt (ch a : Nat) (c : Codeword) (s : State) :
    (s.putCell ch a c).flt = s.flt := by unfold State.putCell; rfl
@[simp] theorem putCell_cnt (ch a : Nat) (c : Codeword) (s : State) :
    (s.putCell ch a c).cnt = s.cnt := by unfold State.putCell; rfl
@[simp] theorem putCell_thm (ch a : Nat) (c : Codeword) (s : State) :
    (s.putCell ch a c).thm = s.thm := by unfold State.putCell; rfl
@[simp] theorem putCell_lanes (ch a : Nat) (c : Codeword) (s : State) :
    (s.putCell ch a c).lanes = s.lanes := by unfold State.putCell; rfl
@[simp] theorem putCell_tor (ch a : Nat) (c : Codeword) (s : State) :
    (s.putCell ch a c).tor = s.tor := by unfold State.putCell; rfl
@[simp] theorem putCell_pwr (ch a : Nat) (c : Codeword) (s : State) :
    (s.putCell ch a c).pwr = s.pwr := by unfold State.putCell; rfl
@[simp] theorem putCell_hoop (ch a : Nat) (c : Codeword) (s : State) :
    (s.putCell ch a c).hoop = s.hoop := by unfold State.putCell; rfl
@[simp] theorem putCell_otp (ch a : Nat) (c : Codeword) (s : State) :
    (s.putCell ch a c).otp = s.otp := by unfold State.putCell; rfl
@[simp] theorem putCell_smb (ch a : Nat) (c : Codeword) (s : State) :
    (s.putCell ch a c).smb = s.smb := by unfold State.putCell; rfl
@[simp] theorem putCell_idDefault (ch a : Nat) (c : Codeword) (s : State) :
    (s.putCell ch a c).idDefault = s.idDefault := by unfold State.putCell; rfl
@[simp] theorem putCell_serial (ch a : Nat) (c : Codeword) (s : State) :
    (s.putCell ch a c).serial = s.serial := by unfold State.putCell; rfl
@[simp] theorem putCell_out (ch a : Nat) (c : Codeword) (s : State) :
    (s.putCell ch a c).out = s.out := by unfold State.putCell; rfl

/-! `State.loseCells` changes `dram`. -/

@[simp] theorem loseCells_pending (ch : Nat) (k : Nat → Bool) (s : State) : (s.loseCells ch k).pending = s.pending := rfl
@[simp] theorem loseCells_now (ch : Nat) (k : Nat → Bool) (s : State) : (s.loseCells ch k).now = s.now := rfl
@[simp] theorem loseCells_freeNo (ch : Nat) (k : Nat → Bool) (s : State) : (s.loseCells ch k).freeNo = s.freeNo := rfl
@[simp] theorem loseCells_members (ch : Nat) (k : Nat → Bool) (s : State) : (s.loseCells ch k).members = s.members := rfl
@[simp] theorem loseCells_gradeE (ch : Nat) (k : Nat → Bool) (s : State) : (s.loseCells ch k).gradeE = s.gradeE := rfl
@[simp] theorem loseCells_chans (ch : Nat) (k : Nat → Bool) (s : State) : (s.loseCells ch k).chans = s.chans := rfl
@[simp] theorem loseCells_frozen (ch : Nat) (k : Nat → Bool) (s : State) : (s.loseCells ch k).frozen = s.frozen := rfl
@[simp] theorem loseCells_ctxs (ch : Nat) (k : Nat → Bool) (s : State) : (s.loseCells ch k).ctxs = s.ctxs := rfl
@[simp] theorem loseCells_journal (ch : Nat) (k : Nat → Bool) (s : State) : (s.loseCells ch k).journal = s.journal := rfl
@[simp] theorem loseCells_dram (ch : Nat) (k : Nat → Bool) (s : State) : (s.loseCells ch k).dram = s.dram.lose ch k := rfl
@[simp] theorem loseCells_host (ch : Nat) (k : Nat → Bool) (s : State) : (s.loseCells ch k).host = s.host := rfl
@[simp] theorem loseCells_flt (ch : Nat) (k : Nat → Bool) (s : State) : (s.loseCells ch k).flt = s.flt := rfl
@[simp] theorem loseCells_cnt (ch : Nat) (k : Nat → Bool) (s : State) : (s.loseCells ch k).cnt = s.cnt := rfl
@[simp] theorem loseCells_thm (ch : Nat) (k : Nat → Bool) (s : State) : (s.loseCells ch k).thm = s.thm := rfl
@[simp] theorem loseCells_lanes (ch : Nat) (k : Nat → Bool) (s : State) : (s.loseCells ch k).lanes = s.lanes := rfl
@[simp] theorem loseCells_tor (ch : Nat) (k : Nat → Bool) (s : State) : (s.loseCells ch k).tor = s.tor := rfl
@[simp] theorem loseCells_pwr (ch : Nat) (k : Nat → Bool) (s : State) : (s.loseCells ch k).pwr = s.pwr := rfl
@[simp] theorem loseCells_hoop (ch : Nat) (k : Nat → Bool) (s : State) : (s.loseCells ch k).hoop = s.hoop := rfl
@[simp] theorem loseCells_otp (ch : Nat) (k : Nat → Bool) (s : State) : (s.loseCells ch k).otp = s.otp := rfl
@[simp] theorem loseCells_smb (ch : Nat) (k : Nat → Bool) (s : State) : (s.loseCells ch k).smb = s.smb := rfl
@[simp] theorem loseCells_idDefault (ch : Nat) (k : Nat → Bool) (s : State) :
    (s.loseCells ch k).idDefault = s.idDefault := rfl
@[simp] theorem loseCells_serial (ch : Nat) (k : Nat → Bool) (s : State) : (s.loseCells ch k).serial = s.serial := rfl
@[simp] theorem loseCells_out (ch : Nat) (k : Nat → Bool) (s : State) : (s.loseCells ch k).out = s.out := rfl

/-! `State.loseAll` changes `dram`. -/

@[simp] theorem loseAll_pending (s : State) : (s.loseAll).pending = s.pending := rfl
@[simp] theorem loseAll_now (s : State) : (s.loseAll).now = s.now := rfl
@[simp] theorem loseAll_freeNo (s : State) : (s.loseAll).freeNo = s.freeNo := rfl
@[simp] theorem loseAll_members (s : State) : (s.loseAll).members = s.members := rfl
@[simp] theorem loseAll_gradeE (s : State) : (s.loseAll).gradeE = s.gradeE := rfl
@[simp] theorem loseAll_chans (s : State) : (s.loseAll).chans = s.chans := rfl
@[simp] theorem loseAll_frozen (s : State) : (s.loseAll).frozen = s.frozen := rfl
@[simp] theorem loseAll_ctxs (s : State) : (s.loseAll).ctxs = s.ctxs := rfl
@[simp] theorem loseAll_journal (s : State) : (s.loseAll).journal = s.journal := rfl
@[simp] theorem loseAll_dram (s : State) : (s.loseAll).dram = s.dram.loseAll := rfl
@[simp] theorem loseAll_host (s : State) : (s.loseAll).host = s.host := rfl
@[simp] theorem loseAll_flt (s : State) : (s.loseAll).flt = s.flt := rfl
@[simp] theorem loseAll_cnt (s : State) : (s.loseAll).cnt = s.cnt := rfl
@[simp] theorem loseAll_thm (s : State) : (s.loseAll).thm = s.thm := rfl
@[simp] theorem loseAll_lanes (s : State) : (s.loseAll).lanes = s.lanes := rfl
@[simp] theorem loseAll_tor (s : State) : (s.loseAll).tor = s.tor := rfl
@[simp] theorem loseAll_pwr (s : State) : (s.loseAll).pwr = s.pwr := rfl
@[simp] theorem loseAll_hoop (s : State) : (s.loseAll).hoop = s.hoop := rfl
@[simp] theorem loseAll_otp (s : State) : (s.loseAll).otp = s.otp := rfl
@[simp] theorem loseAll_smb (s : State) : (s.loseAll).smb = s.smb := rfl
@[simp] theorem loseAll_idDefault (s : State) : (s.loseAll).idDefault = s.idDefault := rfl
@[simp] theorem loseAll_serial (s : State) : (s.loseAll).serial = s.serial := rfl
@[simp] theorem loseAll_out (s : State) : (s.loseAll).out = s.out := rfl

/-! `State.modThm` changes `thm`. -/

@[simp] theorem modThm_pending (f : Thermal → Thermal) (s : State) : (s.modThm f).pending = s.pending := rfl
@[simp] theorem modThm_now (f : Thermal → Thermal) (s : State) : (s.modThm f).now = s.now := rfl
@[simp] theorem modThm_freeNo (f : Thermal → Thermal) (s : State) : (s.modThm f).freeNo = s.freeNo := rfl
@[simp] theorem modThm_members (f : Thermal → Thermal) (s : State) : (s.modThm f).members = s.members := rfl
@[simp] theorem modThm_gradeE (f : Thermal → Thermal) (s : State) : (s.modThm f).gradeE = s.gradeE := rfl
@[simp] theorem modThm_chans (f : Thermal → Thermal) (s : State) : (s.modThm f).chans = s.chans := rfl
@[simp] theorem modThm_frozen (f : Thermal → Thermal) (s : State) : (s.modThm f).frozen = s.frozen := rfl
@[simp] theorem modThm_ctxs (f : Thermal → Thermal) (s : State) : (s.modThm f).ctxs = s.ctxs := rfl
@[simp] theorem modThm_journal (f : Thermal → Thermal) (s : State) : (s.modThm f).journal = s.journal := rfl
@[simp] theorem modThm_dram (f : Thermal → Thermal) (s : State) : (s.modThm f).dram = s.dram := rfl
@[simp] theorem modThm_host (f : Thermal → Thermal) (s : State) : (s.modThm f).host = s.host := rfl
@[simp] theorem modThm_flt (f : Thermal → Thermal) (s : State) : (s.modThm f).flt = s.flt := rfl
@[simp] theorem modThm_cnt (f : Thermal → Thermal) (s : State) : (s.modThm f).cnt = s.cnt := rfl
@[simp] theorem modThm_thm (f : Thermal → Thermal) (s : State) : (s.modThm f).thm = f s.thm := rfl
@[simp] theorem modThm_lanes (f : Thermal → Thermal) (s : State) : (s.modThm f).lanes = s.lanes := rfl
@[simp] theorem modThm_tor (f : Thermal → Thermal) (s : State) : (s.modThm f).tor = s.tor := rfl
@[simp] theorem modThm_pwr (f : Thermal → Thermal) (s : State) : (s.modThm f).pwr = s.pwr := rfl
@[simp] theorem modThm_hoop (f : Thermal → Thermal) (s : State) : (s.modThm f).hoop = s.hoop := rfl
@[simp] theorem modThm_otp (f : Thermal → Thermal) (s : State) : (s.modThm f).otp = s.otp := rfl
@[simp] theorem modThm_smb (f : Thermal → Thermal) (s : State) : (s.modThm f).smb = s.smb := rfl
@[simp] theorem modThm_idDefault (f : Thermal → Thermal) (s : State) : (s.modThm f).idDefault = s.idDefault := rfl
@[simp] theorem modThm_serial (f : Thermal → Thermal) (s : State) : (s.modThm f).serial = s.serial := rfl
@[simp] theorem modThm_out (f : Thermal → Thermal) (s : State) : (s.modThm f).out = s.out := rfl

/-! `State.modOtp` changes `otp`. -/

@[simp] theorem modOtp_pending (f : Otp → Otp) (s : State) : (s.modOtp f).pending = s.pending := rfl
@[simp] theorem modOtp_now (f : Otp → Otp) (s : State) : (s.modOtp f).now = s.now := rfl
@[simp] theorem modOtp_freeNo (f : Otp → Otp) (s : State) : (s.modOtp f).freeNo = s.freeNo := rfl
@[simp] theorem modOtp_members (f : Otp → Otp) (s : State) : (s.modOtp f).members = s.members := rfl
@[simp] theorem modOtp_gradeE (f : Otp → Otp) (s : State) : (s.modOtp f).gradeE = s.gradeE := rfl
@[simp] theorem modOtp_chans (f : Otp → Otp) (s : State) : (s.modOtp f).chans = s.chans := rfl
@[simp] theorem modOtp_frozen (f : Otp → Otp) (s : State) : (s.modOtp f).frozen = s.frozen := rfl
@[simp] theorem modOtp_ctxs (f : Otp → Otp) (s : State) : (s.modOtp f).ctxs = s.ctxs := rfl
@[simp] theorem modOtp_journal (f : Otp → Otp) (s : State) : (s.modOtp f).journal = s.journal := rfl
@[simp] theorem modOtp_dram (f : Otp → Otp) (s : State) : (s.modOtp f).dram = s.dram := rfl
@[simp] theorem modOtp_host (f : Otp → Otp) (s : State) : (s.modOtp f).host = s.host := rfl
@[simp] theorem modOtp_flt (f : Otp → Otp) (s : State) : (s.modOtp f).flt = s.flt := rfl
@[simp] theorem modOtp_cnt (f : Otp → Otp) (s : State) : (s.modOtp f).cnt = s.cnt := rfl
@[simp] theorem modOtp_thm (f : Otp → Otp) (s : State) : (s.modOtp f).thm = s.thm := rfl
@[simp] theorem modOtp_lanes (f : Otp → Otp) (s : State) : (s.modOtp f).lanes = s.lanes := rfl
@[simp] theorem modOtp_tor (f : Otp → Otp) (s : State) : (s.modOtp f).tor = s.tor := rfl
@[simp] theorem modOtp_pwr (f : Otp → Otp) (s : State) : (s.modOtp f).pwr = s.pwr := rfl
@[simp] theorem modOtp_hoop (f : Otp → Otp) (s : State) : (s.modOtp f).hoop = s.hoop := rfl
@[simp] theorem modOtp_otp (f : Otp → Otp) (s : State) : (s.modOtp f).otp = f s.otp := rfl
@[simp] theorem modOtp_smb (f : Otp → Otp) (s : State) : (s.modOtp f).smb = s.smb := rfl
@[simp] theorem modOtp_idDefault (f : Otp → Otp) (s : State) : (s.modOtp f).idDefault = s.idDefault := rfl
@[simp] theorem modOtp_serial (f : Otp → Otp) (s : State) : (s.modOtp f).serial = s.serial := rfl
@[simp] theorem modOtp_out (f : Otp → Otp) (s : State) : (s.modOtp f).out = s.out := rfl

/-! `State.modPwr` changes `pwr`. -/

@[simp] theorem modPwr_pending (f : Power → Power) (s : State) : (s.modPwr f).pending = s.pending := rfl
@[simp] theorem modPwr_now (f : Power → Power) (s : State) : (s.modPwr f).now = s.now := rfl
@[simp] theorem modPwr_freeNo (f : Power → Power) (s : State) : (s.modPwr f).freeNo = s.freeNo := rfl
@[simp] theorem modPwr_members (f : Power → Power) (s : State) : (s.modPwr f).members = s.members := rfl
@[simp] theorem modPwr_gradeE (f : Power → Power) (s : State) : (s.modPwr f).gradeE = s.gradeE := rfl
@[simp] theorem modPwr_chans (f : Power → Power) (s : State) : (s.modPwr f).chans = s.chans := rfl
@[simp] theorem modPwr_frozen (f : Power → Power) (s : State) : (s.modPwr f).frozen = s.frozen := rfl
@[simp] theorem modPwr_ctxs (f : Power → Power) (s : State) : (s.modPwr f).ctxs = s.ctxs := rfl
@[simp] theorem modPwr_journal (f : Power → Power) (s : State) : (s.modPwr f).journal = s.journal := rfl
@[simp] theorem modPwr_dram (f : Power → Power) (s : State) : (s.modPwr f).dram = s.dram := rfl
@[simp] theorem modPwr_host (f : Power → Power) (s : State) : (s.modPwr f).host = s.host := rfl
@[simp] theorem modPwr_flt (f : Power → Power) (s : State) : (s.modPwr f).flt = s.flt := rfl
@[simp] theorem modPwr_cnt (f : Power → Power) (s : State) : (s.modPwr f).cnt = s.cnt := rfl
@[simp] theorem modPwr_thm (f : Power → Power) (s : State) : (s.modPwr f).thm = s.thm := rfl
@[simp] theorem modPwr_lanes (f : Power → Power) (s : State) : (s.modPwr f).lanes = s.lanes := rfl
@[simp] theorem modPwr_tor (f : Power → Power) (s : State) : (s.modPwr f).tor = s.tor := rfl
@[simp] theorem modPwr_pwr (f : Power → Power) (s : State) : (s.modPwr f).pwr = f s.pwr := rfl
@[simp] theorem modPwr_hoop (f : Power → Power) (s : State) : (s.modPwr f).hoop = s.hoop := rfl
@[simp] theorem modPwr_otp (f : Power → Power) (s : State) : (s.modPwr f).otp = s.otp := rfl
@[simp] theorem modPwr_smb (f : Power → Power) (s : State) : (s.modPwr f).smb = s.smb := rfl
@[simp] theorem modPwr_idDefault (f : Power → Power) (s : State) : (s.modPwr f).idDefault = s.idDefault := rfl
@[simp] theorem modPwr_serial (f : Power → Power) (s : State) : (s.modPwr f).serial = s.serial := rfl
@[simp] theorem modPwr_out (f : Power → Power) (s : State) : (s.modPwr f).out = s.out := rfl

/-! `State.modFlt` changes `flt`. -/

@[simp] theorem modFlt_pending (f : Faults → Faults) (s : State) : (s.modFlt f).pending = s.pending := rfl
@[simp] theorem modFlt_now (f : Faults → Faults) (s : State) : (s.modFlt f).now = s.now := rfl
@[simp] theorem modFlt_freeNo (f : Faults → Faults) (s : State) : (s.modFlt f).freeNo = s.freeNo := rfl
@[simp] theorem modFlt_members (f : Faults → Faults) (s : State) : (s.modFlt f).members = s.members := rfl
@[simp] theorem modFlt_gradeE (f : Faults → Faults) (s : State) : (s.modFlt f).gradeE = s.gradeE := rfl
@[simp] theorem modFlt_chans (f : Faults → Faults) (s : State) : (s.modFlt f).chans = s.chans := rfl
@[simp] theorem modFlt_frozen (f : Faults → Faults) (s : State) : (s.modFlt f).frozen = s.frozen := rfl
@[simp] theorem modFlt_ctxs (f : Faults → Faults) (s : State) : (s.modFlt f).ctxs = s.ctxs := rfl
@[simp] theorem modFlt_journal (f : Faults → Faults) (s : State) : (s.modFlt f).journal = s.journal := rfl
@[simp] theorem modFlt_dram (f : Faults → Faults) (s : State) : (s.modFlt f).dram = s.dram := rfl
@[simp] theorem modFlt_host (f : Faults → Faults) (s : State) : (s.modFlt f).host = s.host := rfl
@[simp] theorem modFlt_flt (f : Faults → Faults) (s : State) : (s.modFlt f).flt = f s.flt := rfl
@[simp] theorem modFlt_cnt (f : Faults → Faults) (s : State) : (s.modFlt f).cnt = s.cnt := rfl
@[simp] theorem modFlt_thm (f : Faults → Faults) (s : State) : (s.modFlt f).thm = s.thm := rfl
@[simp] theorem modFlt_lanes (f : Faults → Faults) (s : State) : (s.modFlt f).lanes = s.lanes := rfl
@[simp] theorem modFlt_tor (f : Faults → Faults) (s : State) : (s.modFlt f).tor = s.tor := rfl
@[simp] theorem modFlt_pwr (f : Faults → Faults) (s : State) : (s.modFlt f).pwr = s.pwr := rfl
@[simp] theorem modFlt_hoop (f : Faults → Faults) (s : State) : (s.modFlt f).hoop = s.hoop := rfl
@[simp] theorem modFlt_otp (f : Faults → Faults) (s : State) : (s.modFlt f).otp = s.otp := rfl
@[simp] theorem modFlt_smb (f : Faults → Faults) (s : State) : (s.modFlt f).smb = s.smb := rfl
@[simp] theorem modFlt_idDefault (f : Faults → Faults) (s : State) : (s.modFlt f).idDefault = s.idDefault := rfl
@[simp] theorem modFlt_serial (f : Faults → Faults) (s : State) : (s.modFlt f).serial = s.serial := rfl
@[simp] theorem modFlt_out (f : Faults → Faults) (s : State) : (s.modFlt f).out = s.out := rfl

/-! `State.modTor` changes `tor`. -/

@[simp] theorem modTor_pending (f : Torus → Torus) (s : State) : (s.modTor f).pending = s.pending := rfl
@[simp] theorem modTor_now (f : Torus → Torus) (s : State) : (s.modTor f).now = s.now := rfl
@[simp] theorem modTor_freeNo (f : Torus → Torus) (s : State) : (s.modTor f).freeNo = s.freeNo := rfl
@[simp] theorem modTor_members (f : Torus → Torus) (s : State) : (s.modTor f).members = s.members := rfl
@[simp] theorem modTor_gradeE (f : Torus → Torus) (s : State) : (s.modTor f).gradeE = s.gradeE := rfl
@[simp] theorem modTor_chans (f : Torus → Torus) (s : State) : (s.modTor f).chans = s.chans := rfl
@[simp] theorem modTor_frozen (f : Torus → Torus) (s : State) : (s.modTor f).frozen = s.frozen := rfl
@[simp] theorem modTor_ctxs (f : Torus → Torus) (s : State) : (s.modTor f).ctxs = s.ctxs := rfl
@[simp] theorem modTor_journal (f : Torus → Torus) (s : State) : (s.modTor f).journal = s.journal := rfl
@[simp] theorem modTor_dram (f : Torus → Torus) (s : State) : (s.modTor f).dram = s.dram := rfl
@[simp] theorem modTor_host (f : Torus → Torus) (s : State) : (s.modTor f).host = s.host := rfl
@[simp] theorem modTor_flt (f : Torus → Torus) (s : State) : (s.modTor f).flt = s.flt := rfl
@[simp] theorem modTor_cnt (f : Torus → Torus) (s : State) : (s.modTor f).cnt = s.cnt := rfl
@[simp] theorem modTor_thm (f : Torus → Torus) (s : State) : (s.modTor f).thm = s.thm := rfl
@[simp] theorem modTor_lanes (f : Torus → Torus) (s : State) : (s.modTor f).lanes = s.lanes := rfl
@[simp] theorem modTor_tor (f : Torus → Torus) (s : State) : (s.modTor f).tor = f s.tor := rfl
@[simp] theorem modTor_pwr (f : Torus → Torus) (s : State) : (s.modTor f).pwr = s.pwr := rfl
@[simp] theorem modTor_hoop (f : Torus → Torus) (s : State) : (s.modTor f).hoop = s.hoop := rfl
@[simp] theorem modTor_otp (f : Torus → Torus) (s : State) : (s.modTor f).otp = s.otp := rfl
@[simp] theorem modTor_smb (f : Torus → Torus) (s : State) : (s.modTor f).smb = s.smb := rfl
@[simp] theorem modTor_idDefault (f : Torus → Torus) (s : State) : (s.modTor f).idDefault = s.idDefault := rfl
@[simp] theorem modTor_serial (f : Torus → Torus) (s : State) : (s.modTor f).serial = s.serial := rfl
@[simp] theorem modTor_out (f : Torus → Torus) (s : State) : (s.modTor f).out = s.out := rfl

/-! `State.modSmb` changes `smb`. -/

@[simp] theorem modSmb_pending (f : Smbus → Smbus) (s : State) : (s.modSmb f).pending = s.pending := rfl
@[simp] theorem modSmb_now (f : Smbus → Smbus) (s : State) : (s.modSmb f).now = s.now := rfl
@[simp] theorem modSmb_freeNo (f : Smbus → Smbus) (s : State) : (s.modSmb f).freeNo = s.freeNo := rfl
@[simp] theorem modSmb_members (f : Smbus → Smbus) (s : State) : (s.modSmb f).members = s.members := rfl
@[simp] theorem modSmb_gradeE (f : Smbus → Smbus) (s : State) : (s.modSmb f).gradeE = s.gradeE := rfl
@[simp] theorem modSmb_chans (f : Smbus → Smbus) (s : State) : (s.modSmb f).chans = s.chans := rfl
@[simp] theorem modSmb_frozen (f : Smbus → Smbus) (s : State) : (s.modSmb f).frozen = s.frozen := rfl
@[simp] theorem modSmb_ctxs (f : Smbus → Smbus) (s : State) : (s.modSmb f).ctxs = s.ctxs := rfl
@[simp] theorem modSmb_journal (f : Smbus → Smbus) (s : State) : (s.modSmb f).journal = s.journal := rfl
@[simp] theorem modSmb_dram (f : Smbus → Smbus) (s : State) : (s.modSmb f).dram = s.dram := rfl
@[simp] theorem modSmb_host (f : Smbus → Smbus) (s : State) : (s.modSmb f).host = s.host := rfl
@[simp] theorem modSmb_flt (f : Smbus → Smbus) (s : State) : (s.modSmb f).flt = s.flt := rfl
@[simp] theorem modSmb_cnt (f : Smbus → Smbus) (s : State) : (s.modSmb f).cnt = s.cnt := rfl
@[simp] theorem modSmb_thm (f : Smbus → Smbus) (s : State) : (s.modSmb f).thm = s.thm := rfl
@[simp] theorem modSmb_lanes (f : Smbus → Smbus) (s : State) : (s.modSmb f).lanes = s.lanes := rfl
@[simp] theorem modSmb_tor (f : Smbus → Smbus) (s : State) : (s.modSmb f).tor = s.tor := rfl
@[simp] theorem modSmb_pwr (f : Smbus → Smbus) (s : State) : (s.modSmb f).pwr = s.pwr := rfl
@[simp] theorem modSmb_hoop (f : Smbus → Smbus) (s : State) : (s.modSmb f).hoop = s.hoop := rfl
@[simp] theorem modSmb_otp (f : Smbus → Smbus) (s : State) : (s.modSmb f).otp = s.otp := rfl
@[simp] theorem modSmb_smb (f : Smbus → Smbus) (s : State) : (s.modSmb f).smb = f s.smb := rfl
@[simp] theorem modSmb_idDefault (f : Smbus → Smbus) (s : State) : (s.modSmb f).idDefault = s.idDefault := rfl
@[simp] theorem modSmb_serial (f : Smbus → Smbus) (s : State) : (s.modSmb f).serial = s.serial := rfl
@[simp] theorem modSmb_out (f : Smbus → Smbus) (s : State) : (s.modSmb f).out = s.out := rfl

/-! `State.modPort` changes `tor`. -/

@[simp] theorem modPort_pending (p : Nat) (f : Port → Port) (s : State) : (s.modPort p f).pending = s.pending := rfl
@[simp] theorem modPort_now (p : Nat) (f : Port → Port) (s : State) : (s.modPort p f).now = s.now := rfl
@[simp] theorem modPort_freeNo (p : Nat) (f : Port → Port) (s : State) : (s.modPort p f).freeNo = s.freeNo := rfl
@[simp] theorem modPort_members (p : Nat) (f : Port → Port) (s : State) : (s.modPort p f).members = s.members := rfl
@[simp] theorem modPort_gradeE (p : Nat) (f : Port → Port) (s : State) : (s.modPort p f).gradeE = s.gradeE := rfl
@[simp] theorem modPort_chans (p : Nat) (f : Port → Port) (s : State) : (s.modPort p f).chans = s.chans := rfl
@[simp] theorem modPort_frozen (p : Nat) (f : Port → Port) (s : State) : (s.modPort p f).frozen = s.frozen := rfl
@[simp] theorem modPort_ctxs (p : Nat) (f : Port → Port) (s : State) : (s.modPort p f).ctxs = s.ctxs := rfl
@[simp] theorem modPort_journal (p : Nat) (f : Port → Port) (s : State) : (s.modPort p f).journal = s.journal := rfl
@[simp] theorem modPort_dram (p : Nat) (f : Port → Port) (s : State) : (s.modPort p f).dram = s.dram := rfl
@[simp] theorem modPort_host (p : Nat) (f : Port → Port) (s : State) : (s.modPort p f).host = s.host := rfl
@[simp] theorem modPort_flt (p : Nat) (f : Port → Port) (s : State) : (s.modPort p f).flt = s.flt := rfl
@[simp] theorem modPort_cnt (p : Nat) (f : Port → Port) (s : State) : (s.modPort p f).cnt = s.cnt := rfl
@[simp] theorem modPort_thm (p : Nat) (f : Port → Port) (s : State) : (s.modPort p f).thm = s.thm := rfl
@[simp] theorem modPort_lanes (p : Nat) (f : Port → Port) (s : State) : (s.modPort p f).lanes = s.lanes := rfl
@[simp] theorem modPort_tor (p : Nat) (f : Port → Port) (s : State) :
    (s.modPort p f).tor = { s.tor with ports := Sparse.modify {} s.tor.ports p f } := rfl
@[simp] theorem modPort_pwr (p : Nat) (f : Port → Port) (s : State) : (s.modPort p f).pwr = s.pwr := rfl
@[simp] theorem modPort_hoop (p : Nat) (f : Port → Port) (s : State) : (s.modPort p f).hoop = s.hoop := rfl
@[simp] theorem modPort_otp (p : Nat) (f : Port → Port) (s : State) : (s.modPort p f).otp = s.otp := rfl
@[simp] theorem modPort_smb (p : Nat) (f : Port → Port) (s : State) : (s.modPort p f).smb = s.smb := rfl
@[simp] theorem modPort_idDefault (p : Nat) (f : Port → Port) (s : State) : (s.modPort p f).idDefault = s.idDefault := rfl
@[simp] theorem modPort_serial (p : Nat) (f : Port → Port) (s : State) : (s.modPort p f).serial = s.serial := rfl
@[simp] theorem modPort_out (p : Nat) (f : Port → Port) (s : State) : (s.modPort p f).out = s.out := rfl

/-! `State.modPx` changes `tor`. -/

@[simp] theorem modPx_pending (i : Nat) (f : PxChan → PxChan) (s : State) : (s.modPx i f).pending = s.pending := rfl
@[simp] theorem modPx_now (i : Nat) (f : PxChan → PxChan) (s : State) : (s.modPx i f).now = s.now := rfl
@[simp] theorem modPx_freeNo (i : Nat) (f : PxChan → PxChan) (s : State) : (s.modPx i f).freeNo = s.freeNo := rfl
@[simp] theorem modPx_members (i : Nat) (f : PxChan → PxChan) (s : State) : (s.modPx i f).members = s.members := rfl
@[simp] theorem modPx_gradeE (i : Nat) (f : PxChan → PxChan) (s : State) : (s.modPx i f).gradeE = s.gradeE := rfl
@[simp] theorem modPx_chans (i : Nat) (f : PxChan → PxChan) (s : State) : (s.modPx i f).chans = s.chans := rfl
@[simp] theorem modPx_frozen (i : Nat) (f : PxChan → PxChan) (s : State) : (s.modPx i f).frozen = s.frozen := rfl
@[simp] theorem modPx_ctxs (i : Nat) (f : PxChan → PxChan) (s : State) : (s.modPx i f).ctxs = s.ctxs := rfl
@[simp] theorem modPx_journal (i : Nat) (f : PxChan → PxChan) (s : State) : (s.modPx i f).journal = s.journal := rfl
@[simp] theorem modPx_dram (i : Nat) (f : PxChan → PxChan) (s : State) : (s.modPx i f).dram = s.dram := rfl
@[simp] theorem modPx_host (i : Nat) (f : PxChan → PxChan) (s : State) : (s.modPx i f).host = s.host := rfl
@[simp] theorem modPx_flt (i : Nat) (f : PxChan → PxChan) (s : State) : (s.modPx i f).flt = s.flt := rfl
@[simp] theorem modPx_cnt (i : Nat) (f : PxChan → PxChan) (s : State) : (s.modPx i f).cnt = s.cnt := rfl
@[simp] theorem modPx_thm (i : Nat) (f : PxChan → PxChan) (s : State) : (s.modPx i f).thm = s.thm := rfl
@[simp] theorem modPx_lanes (i : Nat) (f : PxChan → PxChan) (s : State) : (s.modPx i f).lanes = s.lanes := rfl
@[simp] theorem modPx_tor (i : Nat) (f : PxChan → PxChan) (s : State) :
    (s.modPx i f).tor = { s.tor with px := Sparse.modify {} s.tor.px i f } := rfl
@[simp] theorem modPx_pwr (i : Nat) (f : PxChan → PxChan) (s : State) : (s.modPx i f).pwr = s.pwr := rfl
@[simp] theorem modPx_hoop (i : Nat) (f : PxChan → PxChan) (s : State) : (s.modPx i f).hoop = s.hoop := rfl
@[simp] theorem modPx_otp (i : Nat) (f : PxChan → PxChan) (s : State) : (s.modPx i f).otp = s.otp := rfl
@[simp] theorem modPx_smb (i : Nat) (f : PxChan → PxChan) (s : State) : (s.modPx i f).smb = s.smb := rfl
@[simp] theorem modPx_idDefault (i : Nat) (f : PxChan → PxChan) (s : State) : (s.modPx i f).idDefault = s.idDefault := rfl
@[simp] theorem modPx_serial (i : Nat) (f : PxChan → PxChan) (s : State) : (s.modPx i f).serial = s.serial := rfl
@[simp] theorem modPx_out (i : Nat) (f : PxChan → PxChan) (s : State) : (s.modPx i f).out = s.out := rfl

/-! `State.modGroup` changes `lanes`. -/

@[simp] theorem modGroup_pending (rx : Bool) (g : Nat) (f : LaneGroup → LaneGroup) (s : State) :
    (s.modGroup rx g f).pending = s.pending := rfl
@[simp] theorem modGroup_now (rx : Bool) (g : Nat) (f : LaneGroup → LaneGroup) (s : State) :
    (s.modGroup rx g f).now = s.now := rfl
@[simp] theorem modGroup_freeNo (rx : Bool) (g : Nat) (f : LaneGroup → LaneGroup) (s : State) :
    (s.modGroup rx g f).freeNo = s.freeNo := rfl
@[simp] theorem modGroup_members (rx : Bool) (g : Nat) (f : LaneGroup → LaneGroup) (s : State) :
    (s.modGroup rx g f).members = s.members := rfl
@[simp] theorem modGroup_gradeE (rx : Bool) (g : Nat) (f : LaneGroup → LaneGroup) (s : State) :
    (s.modGroup rx g f).gradeE = s.gradeE := rfl
@[simp] theorem modGroup_chans (rx : Bool) (g : Nat) (f : LaneGroup → LaneGroup) (s : State) :
    (s.modGroup rx g f).chans = s.chans := rfl
@[simp] theorem modGroup_frozen (rx : Bool) (g : Nat) (f : LaneGroup → LaneGroup) (s : State) :
    (s.modGroup rx g f).frozen = s.frozen := rfl
@[simp] theorem modGroup_ctxs (rx : Bool) (g : Nat) (f : LaneGroup → LaneGroup) (s : State) :
    (s.modGroup rx g f).ctxs = s.ctxs := rfl
@[simp] theorem modGroup_journal (rx : Bool) (g : Nat) (f : LaneGroup → LaneGroup) (s : State) :
    (s.modGroup rx g f).journal = s.journal := rfl
@[simp] theorem modGroup_dram (rx : Bool) (g : Nat) (f : LaneGroup → LaneGroup) (s : State) :
    (s.modGroup rx g f).dram = s.dram := rfl
@[simp] theorem modGroup_host (rx : Bool) (g : Nat) (f : LaneGroup → LaneGroup) (s : State) :
    (s.modGroup rx g f).host = s.host := rfl
@[simp] theorem modGroup_flt (rx : Bool) (g : Nat) (f : LaneGroup → LaneGroup) (s : State) :
    (s.modGroup rx g f).flt = s.flt := rfl
@[simp] theorem modGroup_cnt (rx : Bool) (g : Nat) (f : LaneGroup → LaneGroup) (s : State) :
    (s.modGroup rx g f).cnt = s.cnt := rfl
@[simp] theorem modGroup_thm (rx : Bool) (g : Nat) (f : LaneGroup → LaneGroup) (s : State) :
    (s.modGroup rx g f).thm = s.thm := rfl
@[simp] theorem modGroup_lanes (rx : Bool) (g : Nat) (f : LaneGroup → LaneGroup) (s : State) :
    (s.modGroup rx g f).lanes = { s.lanes with groups := Sparse.modify {} s.lanes.groups (if rx then 8 + g else g) f } := rfl
@[simp] theorem modGroup_tor (rx : Bool) (g : Nat) (f : LaneGroup → LaneGroup) (s : State) :
    (s.modGroup rx g f).tor = s.tor := rfl
@[simp] theorem modGroup_pwr (rx : Bool) (g : Nat) (f : LaneGroup → LaneGroup) (s : State) :
    (s.modGroup rx g f).pwr = s.pwr := rfl
@[simp] theorem modGroup_hoop (rx : Bool) (g : Nat) (f : LaneGroup → LaneGroup) (s : State) :
    (s.modGroup rx g f).hoop = s.hoop := rfl
@[simp] theorem modGroup_otp (rx : Bool) (g : Nat) (f : LaneGroup → LaneGroup) (s : State) :
    (s.modGroup rx g f).otp = s.otp := rfl
@[simp] theorem modGroup_smb (rx : Bool) (g : Nat) (f : LaneGroup → LaneGroup) (s : State) :
    (s.modGroup rx g f).smb = s.smb := rfl
@[simp] theorem modGroup_idDefault (rx : Bool) (g : Nat) (f : LaneGroup → LaneGroup) (s : State) :
    (s.modGroup rx g f).idDefault = s.idDefault := rfl
@[simp] theorem modGroup_serial (rx : Bool) (g : Nat) (f : LaneGroup → LaneGroup) (s : State) :
    (s.modGroup rx g f).serial = s.serial := rfl
@[simp] theorem modGroup_out (rx : Bool) (g : Nat) (f : LaneGroup → LaneGroup) (s : State) :
    (s.modGroup rx g f).out = s.out := rfl

/-! `State.modCounter` changes `cnt`. -/

@[simp] theorem modCounter_pending (n : Nat) (f : Counter → Counter) (s : State) :
    (s.modCounter n f).pending = s.pending := rfl
@[simp] theorem modCounter_now (n : Nat) (f : Counter → Counter) (s : State) : (s.modCounter n f).now = s.now := rfl
@[simp] theorem modCounter_freeNo (n : Nat) (f : Counter → Counter) (s : State) : (s.modCounter n f).freeNo = s.freeNo := rfl
@[simp] theorem modCounter_members (n : Nat) (f : Counter → Counter) (s : State) :
    (s.modCounter n f).members = s.members := rfl
@[simp] theorem modCounter_gradeE (n : Nat) (f : Counter → Counter) (s : State) : (s.modCounter n f).gradeE = s.gradeE := rfl
@[simp] theorem modCounter_chans (n : Nat) (f : Counter → Counter) (s : State) : (s.modCounter n f).chans = s.chans := rfl
@[simp] theorem modCounter_frozen (n : Nat) (f : Counter → Counter) (s : State) : (s.modCounter n f).frozen = s.frozen := rfl
@[simp] theorem modCounter_ctxs (n : Nat) (f : Counter → Counter) (s : State) : (s.modCounter n f).ctxs = s.ctxs := rfl
@[simp] theorem modCounter_journal (n : Nat) (f : Counter → Counter) (s : State) :
    (s.modCounter n f).journal = s.journal := rfl
@[simp] theorem modCounter_dram (n : Nat) (f : Counter → Counter) (s : State) : (s.modCounter n f).dram = s.dram := rfl
@[simp] theorem modCounter_host (n : Nat) (f : Counter → Counter) (s : State) : (s.modCounter n f).host = s.host := rfl
@[simp] theorem modCounter_flt (n : Nat) (f : Counter → Counter) (s : State) : (s.modCounter n f).flt = s.flt := rfl
@[simp] theorem modCounter_cnt (n : Nat) (f : Counter → Counter) (s : State) :
    (s.modCounter n f).cnt = { s.cnt with tab := Sparse.modify {} s.cnt.tab n f } := rfl
@[simp] theorem modCounter_thm (n : Nat) (f : Counter → Counter) (s : State) : (s.modCounter n f).thm = s.thm := rfl
@[simp] theorem modCounter_lanes (n : Nat) (f : Counter → Counter) (s : State) : (s.modCounter n f).lanes = s.lanes := rfl
@[simp] theorem modCounter_tor (n : Nat) (f : Counter → Counter) (s : State) : (s.modCounter n f).tor = s.tor := rfl
@[simp] theorem modCounter_pwr (n : Nat) (f : Counter → Counter) (s : State) : (s.modCounter n f).pwr = s.pwr := rfl
@[simp] theorem modCounter_hoop (n : Nat) (f : Counter → Counter) (s : State) : (s.modCounter n f).hoop = s.hoop := rfl
@[simp] theorem modCounter_otp (n : Nat) (f : Counter → Counter) (s : State) : (s.modCounter n f).otp = s.otp := rfl
@[simp] theorem modCounter_smb (n : Nat) (f : Counter → Counter) (s : State) : (s.modCounter n f).smb = s.smb := rfl
@[simp] theorem modCounter_idDefault (n : Nat) (f : Counter → Counter) (s : State) :
    (s.modCounter n f).idDefault = s.idDefault := rfl
@[simp] theorem modCounter_serial (n : Nat) (f : Counter → Counter) (s : State) : (s.modCounter n f).serial = s.serial := rfl
@[simp] theorem modCounter_out (n : Nat) (f : Counter → Counter) (s : State) : (s.modCounter n f).out = s.out := rfl

/-! `State.modCrc` changes `cnt`. -/

@[simp] theorem modCrc_pending (u : Nat) (f : Crc → Crc) (s : State) : (s.modCrc u f).pending = s.pending := rfl
@[simp] theorem modCrc_now (u : Nat) (f : Crc → Crc) (s : State) : (s.modCrc u f).now = s.now := rfl
@[simp] theorem modCrc_freeNo (u : Nat) (f : Crc → Crc) (s : State) : (s.modCrc u f).freeNo = s.freeNo := rfl
@[simp] theorem modCrc_members (u : Nat) (f : Crc → Crc) (s : State) : (s.modCrc u f).members = s.members := rfl
@[simp] theorem modCrc_gradeE (u : Nat) (f : Crc → Crc) (s : State) : (s.modCrc u f).gradeE = s.gradeE := rfl
@[simp] theorem modCrc_chans (u : Nat) (f : Crc → Crc) (s : State) : (s.modCrc u f).chans = s.chans := rfl
@[simp] theorem modCrc_frozen (u : Nat) (f : Crc → Crc) (s : State) : (s.modCrc u f).frozen = s.frozen := rfl
@[simp] theorem modCrc_ctxs (u : Nat) (f : Crc → Crc) (s : State) : (s.modCrc u f).ctxs = s.ctxs := rfl
@[simp] theorem modCrc_journal (u : Nat) (f : Crc → Crc) (s : State) : (s.modCrc u f).journal = s.journal := rfl
@[simp] theorem modCrc_dram (u : Nat) (f : Crc → Crc) (s : State) : (s.modCrc u f).dram = s.dram := rfl
@[simp] theorem modCrc_host (u : Nat) (f : Crc → Crc) (s : State) : (s.modCrc u f).host = s.host := rfl
@[simp] theorem modCrc_flt (u : Nat) (f : Crc → Crc) (s : State) : (s.modCrc u f).flt = s.flt := rfl
@[simp] theorem modCrc_cnt (u : Nat) (f : Crc → Crc) (s : State) :
    (s.modCrc u f).cnt = { s.cnt with crc := Sparse.modify {} s.cnt.crc u f } := rfl
@[simp] theorem modCrc_thm (u : Nat) (f : Crc → Crc) (s : State) : (s.modCrc u f).thm = s.thm := rfl
@[simp] theorem modCrc_lanes (u : Nat) (f : Crc → Crc) (s : State) : (s.modCrc u f).lanes = s.lanes := rfl
@[simp] theorem modCrc_tor (u : Nat) (f : Crc → Crc) (s : State) : (s.modCrc u f).tor = s.tor := rfl
@[simp] theorem modCrc_pwr (u : Nat) (f : Crc → Crc) (s : State) : (s.modCrc u f).pwr = s.pwr := rfl
@[simp] theorem modCrc_hoop (u : Nat) (f : Crc → Crc) (s : State) : (s.modCrc u f).hoop = s.hoop := rfl
@[simp] theorem modCrc_otp (u : Nat) (f : Crc → Crc) (s : State) : (s.modCrc u f).otp = s.otp := rfl
@[simp] theorem modCrc_smb (u : Nat) (f : Crc → Crc) (s : State) : (s.modCrc u f).smb = s.smb := rfl
@[simp] theorem modCrc_idDefault (u : Nat) (f : Crc → Crc) (s : State) : (s.modCrc u f).idDefault = s.idDefault := rfl
@[simp] theorem modCrc_serial (u : Nat) (f : Crc → Crc) (s : State) : (s.modCrc u f).serial = s.serial := rfl
@[simp] theorem modCrc_out (u : Nat) (f : Crc → Crc) (s : State) : (s.modCrc u f).out = s.out := rfl

/-! What the accessors read. -/

theorem chan_modChan (ch c : Nat) (f : Chan → Chan) (s : State) :
    (s.modChan ch f).chan c = if c = ch then f (s.chan ch) else s.chan c := get_modify ({} : Chan) s.chans ch c f
theorem ctx_modCtx (n k : Nat) (f : Ctx → Ctx) (s : State) :
    (s.modCtx n f).ctx k = if k = n then f (s.ctx n) else s.ctx k := get_modify ({} : Ctx) s.ctxs n k f
theorem port_modPort (p q : Nat) (f : Port → Port) (s : State) :
    (s.modPort p f).port q = if q = p then f (s.port p) else s.port q := get_modify ({} : Port) s.tor.ports p q f
theorem px_modPx (i j : Nat) (f : PxChan → PxChan) (s : State) :
    (s.modPx i f).px j = if j = i then f (s.px i) else s.px j := get_modify ({} : PxChan) s.tor.px i j f
theorem counter_modCounter (n k : Nat) (f : Counter → Counter) (s : State) :
    (s.modCounter n f).counter k = if k = n then f (s.counter n) else s.counter k := get_modify ({} : Counter) s.cnt.tab n k f
theorem crc_modCrc (u v : Nat) (f : Crc → Crc) (s : State) :
    (s.modCrc u f).crc v = if v = u then f (s.crc u) else s.crc v := get_modify ({} : Crc) s.cnt.crc u v f

@[simp] theorem chan_modChan_same (ch : Nat) (f : Chan → Chan) (s : State) : (s.modChan ch f).chan ch = f (s.chan ch) :=
  get_modify_same ({} : Chan) s.chans ch f
@[simp] theorem ctx_modCtx_same (n : Nat) (f : Ctx → Ctx) (s : State) : (s.modCtx n f).ctx n = f (s.ctx n) :=
  get_modify_same ({} : Ctx) s.ctxs n f
@[simp] theorem port_modPort_same (p : Nat) (f : Port → Port) (s : State) : (s.modPort p f).port p = f (s.port p) :=
  get_modify_same ({} : Port) s.tor.ports p f
@[simp] theorem px_modPx_same (i : Nat) (f : PxChan → PxChan) (s : State) : (s.modPx i f).px i = f (s.px i) :=
  get_modify_same ({} : PxChan) s.tor.px i f
@[simp] theorem group_modGroup_same (rx : Bool) (g : Nat) (f : LaneGroup → LaneGroup) (s : State) :
    (s.modGroup rx g f).group rx g = f (s.group rx g) := get_modify_same ({} : LaneGroup) s.lanes.groups _ f
@[simp] theorem counter_modCounter_same (n : Nat) (f : Counter → Counter) (s : State) :
    (s.modCounter n f).counter n = f (s.counter n) := get_modify_same ({} : Counter) s.cnt.tab n f
@[simp] theorem crc_modCrc_same (u : Nat) (f : Crc → Crc) (s : State) : (s.modCrc u f).crc u = f (s.crc u) :=
  get_modify_same ({} : Crc) s.cnt.crc u f

@[simp] theorem chan_modCtx (n c : Nat) (f : Ctx → Ctx) (s : State) : (s.modCtx n f).chan c = s.chan c := rfl
@[simp] theorem ctx_modChan (ch n : Nat) (f : Chan → Chan) (s : State) : (s.modChan ch f).ctx n = s.ctx n := rfl
@[simp] theorem chan_emit (o : Out) (c : Nat) (s : State) : (s.emit o).chan c = s.chan c := rfl
@[simp] theorem ctx_emit (o : Out) (n : Nat) (s : State) : (s.emit o).ctx n = s.ctx n := rfl

end Sys2Proof.Laws
end

