-- ==== Sys2Proof/Laws/Frames.lean ====
section
/-! SUPPORT. What logging, counting and sending leave alone: logging and counting (R460, R531) change the fault log and the
counters only; sending a packet or a host-memory access changes those, the torus state and the outputs. -/

namespace Sys2Proof.Laws

open Sys2Proof Sys2Proof.Machine

/-- Only the fault log and the counters differ. -/
def OnlyLog (s t : State) : Prop := ∃ f k, t = { s with flt := f, cnt := k }

/-- Only the outputs, the torus state, the fault log and the counters differ. -/
def OnlyNet (s t : State) : Prop := ∃ o r f k, t = { s with out := o, tor := r, flt := f, cnt := k }

theorem OnlyLog.refl (s : State) : OnlyLog s s := ⟨s.flt, s.cnt, rfl⟩
theorem OnlyNet.refl (s : State) : OnlyNet s s := ⟨s.out, s.tor, s.flt, s.cnt, rfl⟩

theorem OnlyLog.trans {a b c : State} (h : OnlyLog a b) (k : OnlyLog b c) : OnlyLog a c := by
  obtain ⟨_, _, rfl⟩ := h
  obtain ⟨_, _, rfl⟩ := k
  exact ⟨_, _, rfl⟩

theorem OnlyNet.trans {a b c : State} (h : OnlyNet a b) (k : OnlyNet b c) : OnlyNet a c := by
  obtain ⟨_, _, _, _, rfl⟩ := h
  obtain ⟨_, _, _, _, rfl⟩ := k
  exact ⟨_, _, _, _, rfl⟩

theorem OnlyLog.net {a b : State} (h : OnlyLog a b) : OnlyNet a b := by
  obtain ⟨_, _, rfl⟩ := h
  exact ⟨a.out, a.tor, _, _, rfl⟩

theorem OnlyLog.foldl {α : Type} {f : State → α → State} {l : List α} {s : State} (hf : ∀ s x, OnlyLog s (f s x)) :
    OnlyLog s (l.foldl f s) := by
  induction l generalizing s with
  | nil => exact .refl _
  | cons x l ih => exact (hf s x).trans ih

theorem OnlyNet.foldl {α : Type} {f : State → α → State} {l : List α} {s : State} (hf : ∀ s x, OnlyNet s (f s x)) :
    OnlyNet s (l.foldl f s) := by
  induction l generalizing s with
  | nil => exact .refl _
  | cons x l ih => exact (hf s x).trans ih

theorem logRaw_only (o : Occurrence) (s : State) : OnlyLog s (s.logRaw o) := ⟨_, _, rfl⟩

theorem logOverflows_only (n : Nat) (s : State) : OnlyLog s (State.logOverflows n s) := by
  induction n generalizing s with
  | zero => exact .refl _
  | succ n ih => exact (logRaw_only _ s).trans (ih _)

theorem count_only (ev : Nat) (bob : Option Nat) (w : Nat) (s : State) (q : Nat → Bool) : OnlyLog s (s.count ev bob w q) := by
  have run : OnlyLog s (State.logOverflows (s.cnt.count s.now ev q bob w).2 { s with cnt := (s.cnt.count s.now ev q bob w).1 }) :=
    OnlyLog.trans ⟨s.flt, _, rfl⟩ (logOverflows_only _ _)
  unfold State.count
  cases bob with
  | none => exact run
  | some b =>
    dsimp only
    split
    · exact .refl _
    · exact run

theorem logAt_only (o : Occurrence) (s : State) : OnlyLog s (s.logAt o) := OnlyLog.trans ⟨_, _, rfl⟩ (logOverflows_only _ _)

theorem log_only (c : Cause) (i : Nat) (s : State) (d0 d1 d2 : Nat) (act : Bool) : OnlyLog s (s.log c i d0 d1 d2 act) := logAt_only _ s

theorem writeIgnored_only (s : State) : OnlyLog s (s.writeIgnored) := log_only _ _ s _ _ _ _

theorem condEnd_only (b c i : Nat) (s : State) : OnlyLog s (s.condEnd b c i) := ⟨_, s.cnt, rfl⟩

theorem discardPacket_only (s : State) : OnlyNet s (s.discardPacket) := (count_only _ _ _ s _).net

theorem launch_only (p : Nat) (w : List (BitVec 64)) (s : State) : OnlyNet s (s.launch p w) := by
  unfold State.launch
  exact OnlyNet.trans ⟨_, _, s.flt, s.cnt, rfl⟩ (count_only _ _ _ _ _).net

theorem flushPort_only (n p : Nat) (s : State) : OnlyNet s (State.flushPort n p s) := by
  induction n generalizing s with
  | zero => exact .refl _
  | succ n ih =>
    unfold State.flushPort
    dsimp only
    split
    · split
      · exact OnlyNet.trans (.trans ⟨s.out, _, s.flt, s.cnt, rfl⟩ (launch_only _ _ _)) (ih _)
      · exact .refl _
    · split
      · exact OnlyNet.trans (.trans ⟨s.out, _, s.flt, s.cnt, rfl⟩ (launch_only _ _ _)) (ih _)
      · exact .refl _
    · exact .refl _

theorem enqueue_only (p : Nat) (w : List (BitVec 64)) (s : State) : OnlyNet s (s.enqueue p w) := OnlyNet.trans ⟨s.out, _, s.flt, s.cnt, rfl⟩ (flushPort_only _ _ _)

theorem forwardOn_only (a : Nat) (w : List (BitVec 64)) (s : State) : OnlyNet s (s.forwardOn a w) := by
  unfold State.forwardOn
  split
  · split
    · exact ⟨_, s.tor, s.flt, s.cnt, rfl⟩
    · exact .refl _
  · exact enqueue_only _ _ _
  · exact discardPacket_only _

theorem sendPacket_only (y x z t n : Nat) (w : List Word) (s : State) : OnlyNet s (s.sendPacket y x z t n w) := forwardOn_only _ _ s

theorem flood_only (a : Nat) (w : List (BitVec 64)) (s : State) : OnlyNet s (s.flood a w) := OnlyNet.foldl fun s p => by
  split
  · exact enqueue_only _ _ _
  · exact .refl _

theorem pxPacket_only (i o : Nat) (w : List Word) (s : State) : OnlyNet s (s.pxPacket i o w) := sendPacket_only _ _ _ _ _ _ s

theorem pxSend_only (i o : Nat) (w : List Word) (s : State) : OnlyNet s (s.pxSend i o w) := by
  unfold State.pxSend
  dsimp only
  split
  · exact OnlyNet.trans ⟨s.out, _, s.flt, s.cnt, rfl⟩ (pxPacket_only _ _ _ _)
  · exact ⟨s.out, _, s.flt, s.cnt, rfl⟩

theorem proxyWrite_only (i a : Nat) (d : List Byte) (s : State) : OnlyNet s (s.proxyWrite i a d) := OnlyNet.foldl fun _ _ => pxSend_only _ _ _ _

theorem hostWrite_only (a : Nat) (d : List Byte) (s : State) : OnlyNet s (s.hostWrite a d) := by
  unfold State.hostWrite
  split
  · exact .refl _
  · split
    · exact OnlyNet.trans ⟨_, s.tor, s.flt, s.cnt, rfl⟩ (count_only _ _ _ _ _).net
    · exact (proxyWrite_only _ _ _ _).trans (count_only _ _ _ _ _).net

theorem hostRead_only (a n : Nat) (s : State) : OnlyNet s (s.hostRead a n) := by
  unfold State.hostRead
  split
  · exact ⟨_, s.tor, s.flt, s.cnt, rfl⟩
  · exact OnlyNet.foldl fun _ _ => pxSend_only _ _ _ _

theorem writeRecord_only (j : JRec) (s : State) : OnlyNet s (s.writeRecord j) := by
  have read (a n : Nat) (s t : State) (h : OnlyNet s t) : OnlyNet s (if t.hostUp then t.hostRead a n else t) := by
    split
    · exact h.trans (hostRead_only _ _ _)
    · exact h
  unfold State.writeRecord
  dsimp only
  refine read _ _ _ _ (OnlyNet.trans ?_ (hostWrite_only _ _ _))
  split
  · exact hostWrite_only _ _ _
  · exact .refl _

/-! `State.logRaw`. -/

@[simp] theorem logRaw_pending (o : Occurrence) (s : State) :
    (s.logRaw o).pending = s.pending := by
  obtain ⟨_, _, h⟩ := logRaw_only o s
  rw [h]
@[simp] theorem logRaw_now (o : Occurrence) (s : State) :
    (s.logRaw o).now = s.now := by
  obtain ⟨_, _, h⟩ := logRaw_only o s
  rw [h]
@[simp] theorem logRaw_freeNo (o : Occurrence) (s : State) :
    (s.logRaw o).freeNo = s.freeNo := by
  obtain ⟨_, _, h⟩ := logRaw_only o s
  rw [h]
@[simp] theorem logRaw_members (o : Occurrence) (s : State) :
    (s.logRaw o).members = s.members := by
  obtain ⟨_, _, h⟩ := logRaw_only o s
  rw [h]
@[simp] theorem logRaw_gradeE (o : Occurrence) (s : State) :
    (s.logRaw o).gradeE = s.gradeE := by
  obtain ⟨_, _, h⟩ := logRaw_only o s
  rw [h]
@[simp] theorem logRaw_chans (o : Occurrence) (s : State) :
    (s.logRaw o).chans = s.chans := by
  obtain ⟨_, _, h⟩ := logRaw_only o s
  rw [h]
@[simp] theorem logRaw_frozen (o : Occurrence) (s : State) :
    (s.logRaw o).frozen = s.frozen := by
  obtain ⟨_, _, h⟩ := logRaw_only o s
  rw [h]
@[simp] theorem logRaw_ctxs (o : Occurrence) (s : State) :
    (s.logRaw o).ctxs = s.ctxs := by
  obtain ⟨_, _, h⟩ := logRaw_only o s
  rw [h]
@[simp] theorem logRaw_journal (o : Occurrence) (s : State) :
    (s.logRaw o).journal = s.journal := by
  obtain ⟨_, _, h⟩ := logRaw_only o s
  rw [h]
@[simp] theorem logRaw_dram (o : Occurrence) (s : State) :
    (s.logRaw o).dram = s.dram := by
  obtain ⟨_, _, h⟩ := logRaw_only o s
  rw [h]
@[simp] theorem logRaw_host (o : Occurrence) (s : State) :
    (s.logRaw o).host = s.host := by
  obtain ⟨_, _, h⟩ := logRaw_only o s
  rw [h]
@[simp] theorem logRaw_thm (o : Occurrence) (s : State) :
    (s.logRaw o).thm = s.thm := by
  obtain ⟨_, _, h⟩ := logRaw_only o s
  rw [h]
@[simp] theorem logRaw_lanes (o : Occurrence) (s : State) :
    (s.logRaw o).lanes = s.lanes := by
  obtain ⟨_, _, h⟩ := logRaw_only o s
  rw [h]
@[simp] theorem logRaw_tor (o : Occurrence) (s : State) :
    (s.logRaw o).tor = s.tor := by
  obtain ⟨_, _, h⟩ := logRaw_only o s
  rw [h]
@[simp] theorem logRaw_pwr (o : Occurrence) (s : State) :
    (s.logRaw o).pwr = s.pwr := by
  obtain ⟨_, _, h⟩ := logRaw_only o s
  rw [h]
@[simp] theorem logRaw_hoop (o : Occurrence) (s : State) :
    (s.logRaw o).hoop = s.hoop := by
  obtain ⟨_, _, h⟩ := logRaw_only o s
  rw [h]
@[simp] theorem logRaw_otp (o : Occurrence) (s : State) :
    (s.logRaw o).otp = s.otp := by
  obtain ⟨_, _, h⟩ := logRaw_only o s
  rw [h]
@[simp] theorem logRaw_smb (o : Occurrence) (s : State) :
    (s.logRaw o).smb = s.smb := by
  obtain ⟨_, _, h⟩ := logRaw_only o s
  rw [h]
@[simp] theorem logRaw_idDefault (o : Occurrence) (s : State) :
    (s.logRaw o).idDefault = s.idDefault := by
  obtain ⟨_, _, h⟩ := logRaw_only o s
  rw [h]
@[simp] theorem logRaw_serial (o : Occurrence) (s : State) :
    (s.logRaw o).serial = s.serial := by
  obtain ⟨_, _, h⟩ := logRaw_only o s
  rw [h]
@[simp] theorem logRaw_out (o : Occurrence) (s : State) :
    (s.logRaw o).out = s.out := by
  obtain ⟨_, _, h⟩ := logRaw_only o s
  rw [h]
@[simp] theorem logRaw_chan (o : Occurrence) (s : State) (k : Nat) : (s.logRaw o).chan k = s.chan k := by
  unfold State.chan; simp
@[simp] theorem logRaw_ctx (o : Occurrence) (s : State) (k : Nat) : (s.logRaw o).ctx k = s.ctx k := by
  unfold State.ctx; simp
@[simp] theorem logRaw_cell (o : Occurrence) (s : State) (k z : Nat) : (s.logRaw o).cell k z = s.cell k z := by
  unfold State.cell; simp

/-! `State.logOverflows`. -/

@[simp] theorem logOverflows_pending (n : Nat) (s : State) :
    (State.logOverflows n s).pending = s.pending := by
  obtain ⟨_, _, h⟩ := logOverflows_only n s
  rw [h]
@[simp] theorem logOverflows_now (n : Nat) (s : State) :
    (State.logOverflows n s).now = s.now := by
  obtain ⟨_, _, h⟩ := logOverflows_only n s
  rw [h]
@[simp] theorem logOverflows_freeNo (n : Nat) (s : State) :
    (State.logOverflows n s).freeNo = s.freeNo := by
  obtain ⟨_, _, h⟩ := logOverflows_only n s
  rw [h]
@[simp] theorem logOverflows_members (n : Nat) (s : State) :
    (State.logOverflows n s).members = s.members := by
  obtain ⟨_, _, h⟩ := logOverflows_only n s
  rw [h]
@[simp] theorem logOverflows_gradeE (n : Nat) (s : State) :
    (State.logOverflows n s).gradeE = s.gradeE := by
  obtain ⟨_, _, h⟩ := logOverflows_only n s
  rw [h]
@[simp] theorem logOverflows_chans (n : Nat) (s : State) :
    (State.logOverflows n s).chans = s.chans := by
  obtain ⟨_, _, h⟩ := logOverflows_only n s
  rw [h]
@[simp] theorem logOverflows_frozen (n : Nat) (s : State) :
    (State.logOverflows n s).frozen = s.frozen := by
  obtain ⟨_, _, h⟩ := logOverflows_only n s
  rw [h]
@[simp] theorem logOverflows_ctxs (n : Nat) (s : State) :
    (State.logOverflows n s).ctxs = s.ctxs := by
  obtain ⟨_, _, h⟩ := logOverflows_only n s
  rw [h]
@[simp] theorem logOverflows_journal (n : Nat) (s : State) :
    (State.logOverflows n s).journal = s.journal := by
  obtain ⟨_, _, h⟩ := logOverflows_only n s
  rw [h]
@[simp] theorem logOverflows_dram (n : Nat) (s : State) :
    (State.logOverflows n s).dram = s.dram := by
  obtain ⟨_, _, h⟩ := logOverflows_only n s
  rw [h]
@[simp] theorem logOverflows_host (n : Nat) (s : State) :
    (State.logOverflows n s).host = s.host := by
  obtain ⟨_, _, h⟩ := logOverflows_only n s
  rw [h]
@[simp] theorem logOverflows_thm (n : Nat) (s : State) :
    (State.logOverflows n s).thm = s.thm := by
  obtain ⟨_, _, h⟩ := logOverflows_only n s
  rw [h]
@[simp] theorem logOverflows_lanes (n : Nat) (s : State) :
    (State.logOverflows n s).lanes = s.lanes := by
  obtain ⟨_, _, h⟩ := logOverflows_only n s
  rw [h]
@[simp] theorem logOverflows_tor (n : Nat) (s : State) :
    (State.logOverflows n s).tor = s.tor := by
  obtain ⟨_, _, h⟩ := logOverflows_only n s
  rw [h]
@[simp] theorem logOverflows_pwr (n : Nat) (s : State) :
    (State.logOverflows n s).pwr = s.pwr := by
  obtain ⟨_, _, h⟩ := logOverflows_only n s
  rw [h]
@[simp] theorem logOverflows_hoop (n : Nat) (s : State) :
    (State.logOverflows n s).hoop = s.hoop := by
  obtain ⟨_, _, h⟩ := logOverflows_only n s
  rw [h]
@[simp] theorem logOverflows_otp (n : Nat) (s : State) :
    (State.logOverflows n s).otp = s.otp := by
  obtain ⟨_, _, h⟩ := logOverflows_only n s
  rw [h]
@[simp] theorem logOverflows_smb (n : Nat) (s : State) :
    (State.logOverflows n s).smb = s.smb := by
  obtain ⟨_, _, h⟩ := logOverflows_only n s
  rw [h]
@[simp] theorem logOverflows_idDefault (n : Nat) (s : State) :
    (State.logOverflows n s).idDefault = s.idDefault := by
  obtain ⟨_, _, h⟩ := logOverflows_only n s
  rw [h]
@[simp] theorem logOverflows_serial (n : Nat) (s : State) :
    (State.logOverflows n s).serial = s.serial := by
  obtain ⟨_, _, h⟩ := logOverflows_only n s
  rw [h]
@[simp] theorem logOverflows_out (n : Nat) (s : State) :
    (State.logOverflows n s).out = s.out := by
  obtain ⟨_, _, h⟩ := logOverflows_only n s
  rw [h]
@[simp] theorem logOverflows_chan (n : Nat) (s : State) (k : Nat) : (State.logOverflows n s).chan k = s.chan k := by
  unfold State.chan; simp
@[simp] theorem logOverflows_ctx (n : Nat) (s : State) (k : Nat) : (State.logOverflows n s).ctx k = s.ctx k := by
  unfold State.ctx; simp
@[simp] theorem logOverflows_cell (n : Nat) (s : State) (k z : Nat) : (State.logOverflows n s).cell k z = s.cell k z := by
  unfold State.cell; simp

/-! `State.count`. -/

@[simp] theorem count_pending (ev : Nat) (bob : Option Nat) (w : Nat) (s : State) (q : Nat → Bool) :
    (s.count ev bob w q).pending = s.pending := by
  obtain ⟨_, _, h⟩ := count_only ev bob w s q
  rw [h]
@[simp] theorem count_now (ev : Nat) (bob : Option Nat) (w : Nat) (s : State) (q : Nat → Bool) :
    (s.count ev bob w q).now = s.now := by
  obtain ⟨_, _, h⟩ := count_only ev bob w s q
  rw [h]
@[simp] theorem count_freeNo (ev : Nat) (bob : Option Nat) (w : Nat) (s : State) (q : Nat → Bool) :
    (s.count ev bob w q).freeNo = s.freeNo := by
  obtain ⟨_, _, h⟩ := count_only ev bob w s q
  rw [h]
@[simp] theorem count_members (ev : Nat) (bob : Option Nat) (w : Nat) (s : State) (q : Nat → Bool) :
    (s.count ev bob w q).members = s.members := by
  obtain ⟨_, _, h⟩ := count_only ev bob w s q
  rw [h]
@[simp] theorem count_gradeE (ev : Nat) (bob : Option Nat) (w : Nat) (s : State) (q : Nat → Bool) :
    (s.count ev bob w q).gradeE = s.gradeE := by
  obtain ⟨_, _, h⟩ := count_only ev bob w s q
  rw [h]
@[simp] theorem count_chans (ev : Nat) (bob : Option Nat) (w : Nat) (s : State) (q : Nat → Bool) :
    (s.count ev bob w q).chans = s.chans := by
  obtain ⟨_, _, h⟩ := count_only ev bob w s q
  rw [h]
@[simp] theorem count_frozen (ev : Nat) (bob : Option Nat) (w : Nat) (s : State) (q : Nat → Bool) :
    (s.count ev bob w q).frozen = s.frozen := by
  obtain ⟨_, _, h⟩ := count_only ev bob w s q
  rw [h]
@[simp] theorem count_ctxs (ev : Nat) (bob : Option Nat) (w : Nat) (s : State) (q : Nat → Bool) :
    (s.count ev bob w q).ctxs = s.ctxs := by
  obtain ⟨_, _, h⟩ := count_only ev bob w s q
  rw [h]
@[simp] theorem count_journal (ev : Nat) (bob : Option Nat) (w : Nat) (s : State) (q : Nat → Bool) :
    (s.count ev bob w q).journal = s.journal := by
  obtain ⟨_, _, h⟩ := count_only ev bob w s q
  rw [h]
@[simp] theorem count_dram (ev : Nat) (bob : Option Nat) (w : Nat) (s : State) (q : Nat → Bool) :
    (s.count ev bob w q).dram = s.dram := by
  obtain ⟨_, _, h⟩ := count_only ev bob w s q
  rw [h]
@[simp] theorem count_host (ev : Nat) (bob : Option Nat) (w : Nat) (s : State) (q : Nat → Bool) :
    (s.count ev bob w q).host = s.host := by
  obtain ⟨_, _, h⟩ := count_only ev bob w s q
  rw [h]
@[simp] theorem count_thm (ev : Nat) (bob : Option Nat) (w : Nat) (s : State) (q : Nat → Bool) :
    (s.count ev bob w q).thm = s.thm := by
  obtain ⟨_, _, h⟩ := count_only ev bob w s q
  rw [h]
@[simp] theorem count_lanes (ev : Nat) (bob : Option Nat) (w : Nat) (s : State) (q : Nat → Bool) :
    (s.count ev bob w q).lanes = s.lanes := by
  obtain ⟨_, _, h⟩ := count_only ev bob w s q
  rw [h]
@[simp] theorem count_tor (ev : Nat) (bob : Option Nat) (w : Nat) (s : State) (q : Nat → Bool) :
    (s.count ev bob w q).tor = s.tor := by
  obtain ⟨_, _, h⟩ := count_only ev bob w s q
  rw [h]
@[simp] theorem count_pwr (ev : Nat) (bob : Option Nat) (w : Nat) (s : State) (q : Nat → Bool) :
    (s.count ev bob w q).pwr = s.pwr := by
  obtain ⟨_, _, h⟩ := count_only ev bob w s q
  rw [h]
@[simp] theorem count_hoop (ev : Nat) (bob : Option Nat) (w : Nat) (s : State) (q : Nat → Bool) :
    (s.count ev bob w q).hoop = s.hoop := by
  obtain ⟨_, _, h⟩ := count_only ev bob w s q
  rw [h]
@[simp] theorem count_otp (ev : Nat) (bob : Option Nat) (w : Nat) (s : State) (q : Nat → Bool) :
    (s.count ev bob w q).otp = s.otp := by
  obtain ⟨_, _, h⟩ := count_only ev bob w s q
  rw [h]
@[simp] theorem count_smb (ev : Nat) (bob : Option Nat) (w : Nat) (s : State) (q : Nat → Bool) :
    (s.count ev bob w q).smb = s.smb := by
  obtain ⟨_, _, h⟩ := count_only ev bob w s q
  rw [h]
@[simp] theorem count_idDefault (ev : Nat) (bob : Option Nat) (w : Nat) (s : State) (q : Nat → Bool) :
    (s.count ev bob w q).idDefault = s.idDefault := by
  obtain ⟨_, _, h⟩ := count_only ev bob w s q
  rw [h]
@[simp] theorem count_serial (ev : Nat) (bob : Option Nat) (w : Nat) (s : State) (q : Nat → Bool) :
    (s.count ev bob w q).serial = s.serial := by
  obtain ⟨_, _, h⟩ := count_only ev bob w s q
  rw [h]
@[simp] theorem count_out (ev : Nat) (bob : Option Nat) (w : Nat) (s : State) (q : Nat → Bool) :
    (s.count ev bob w q).out = s.out := by
  obtain ⟨_, _, h⟩ := count_only ev bob w s q
  rw [h]
@[simp] theorem count_chan (ev : Nat) (bob : Option Nat) (w : Nat) (s : State) (q : Nat → Bool) (k : Nat) : (s.count ev bob w q).chan k = s.chan k := by
  unfold State.chan; simp
@[simp] theorem count_ctx (ev : Nat) (bob : Option Nat) (w : Nat) (s : State) (q : Nat → Bool) (k : Nat) : (s.count ev bob w q).ctx k = s.ctx k := by
  unfold State.ctx; simp
@[simp] theorem count_cell (ev : Nat) (bob : Option Nat) (w : Nat) (s : State) (q : Nat → Bool) (k z : Nat) : (s.count ev bob w q).cell k z = s.cell k z := by
  unfold State.cell; simp

/-! `State.logAt`. -/

@[simp] theorem logAt_pending (o : Occurrence) (s : State) :
    (s.logAt o).pending = s.pending := by
  obtain ⟨_, _, h⟩ := logAt_only o s
  rw [h]
@[simp] theorem logAt_now (o : Occurrence) (s : State) :
    (s.logAt o).now = s.now := by
  obtain ⟨_, _, h⟩ := logAt_only o s
  rw [h]
@[simp] theorem logAt_freeNo (o : Occurrence) (s : State) :
    (s.logAt o).freeNo = s.freeNo := by
  obtain ⟨_, _, h⟩ := logAt_only o s
  rw [h]
@[simp] theorem logAt_members (o : Occurrence) (s : State) :
    (s.logAt o).members = s.members := by
  obtain ⟨_, _, h⟩ := logAt_only o s
  rw [h]
@[simp] theorem logAt_gradeE (o : Occurrence) (s : State) :
    (s.logAt o).gradeE = s.gradeE := by
  obtain ⟨_, _, h⟩ := logAt_only o s
  rw [h]
@[simp] theorem logAt_chans (o : Occurrence) (s : State) :
    (s.logAt o).chans = s.chans := by
  obtain ⟨_, _, h⟩ := logAt_only o s
  rw [h]
@[simp] theorem logAt_frozen (o : Occurrence) (s : State) :
    (s.logAt o).frozen = s.frozen := by
  obtain ⟨_, _, h⟩ := logAt_only o s
  rw [h]
@[simp] theorem logAt_ctxs (o : Occurrence) (s : State) :
    (s.logAt o).ctxs = s.ctxs := by
  obtain ⟨_, _, h⟩ := logAt_only o s
  rw [h]
@[simp] theorem logAt_journal (o : Occurrence) (s : State) :
    (s.logAt o).journal = s.journal := by
  obtain ⟨_, _, h⟩ := logAt_only o s
  rw [h]
@[simp] theorem logAt_dram (o : Occurrence) (s : State) :
    (s.logAt o).dram = s.dram := by
  obtain ⟨_, _, h⟩ := logAt_only o s
  rw [h]
@[simp] theorem logAt_host (o : Occurrence) (s : State) :
    (s.logAt o).host = s.host := by
  obtain ⟨_, _, h⟩ := logAt_only o s
  rw [h]
@[simp] theorem logAt_thm (o : Occurrence) (s : State) :
    (s.logAt o).thm = s.thm := by
  obtain ⟨_, _, h⟩ := logAt_only o s
  rw [h]
@[simp] theorem logAt_lanes (o : Occurrence) (s : State) :
    (s.logAt o).lanes = s.lanes := by
  obtain ⟨_, _, h⟩ := logAt_only o s
  rw [h]
@[simp] theorem logAt_tor (o : Occurrence) (s : State) :
    (s.logAt o).tor = s.tor := by
  obtain ⟨_, _, h⟩ := logAt_only o s
  rw [h]
@[simp] theorem logAt_pwr (o : Occurrence) (s : State) :
    (s.logAt o).pwr = s.pwr := by
  obtain ⟨_, _, h⟩ := logAt_only o s
  rw [h]
@[simp] theorem logAt_hoop (o : Occurrence) (s : State) :
    (s.logAt o).hoop = s.hoop := by
  obtain ⟨_, _, h⟩ := logAt_only o s
  rw [h]
@[simp] theorem logAt_otp (o : Occurrence) (s : State) :
    (s.logAt o).otp = s.otp := by
  obtain ⟨_, _, h⟩ := logAt_only o s
  rw [h]
@[simp] theorem logAt_smb (o : Occurrence) (s : State) :
    (s.logAt o).smb = s.smb := by
  obtain ⟨_, _, h⟩ := logAt_only o s
  rw [h]
@[simp] theorem logAt_idDefault (o : Occurrence) (s : State) :
    (s.logAt o).idDefault = s.idDefault := by
  obtain ⟨_, _, h⟩ := logAt_only o s
  rw [h]
@[simp] theorem logAt_serial (o : Occurrence) (s : State) :
    (s.logAt o).serial = s.serial := by
  obtain ⟨_, _, h⟩ := logAt_only o s
  rw [h]
@[simp] theorem logAt_out (o : Occurrence) (s : State) :
    (s.logAt o).out = s.out := by
  obtain ⟨_, _, h⟩ := logAt_only o s
  rw [h]
@[simp] theorem logAt_chan (o : Occurrence) (s : State) (k : Nat) : (s.logAt o).chan k = s.chan k := by
  unfold State.chan; simp
@[simp] theorem logAt_ctx (o : Occurrence) (s : State) (k : Nat) : (s.logAt o).ctx k = s.ctx k := by
  unfold State.ctx; simp
@[simp] theorem logAt_cell (o : Occurrence) (s : State) (k z : Nat) : (s.logAt o).cell k z = s.cell k z := by
  unfold State.cell; simp

/-! `State.log`. -/

@[simp] theorem log_pending (c : Cause) (i : Nat) (s : State) (d0 d1 d2 : Nat) (act : Bool) :
    (s.log c i d0 d1 d2 act).pending = s.pending := by
  obtain ⟨_, _, h⟩ := log_only c i s d0 d1 d2 act
  rw [h]
@[simp] theorem log_now (c : Cause) (i : Nat) (s : State) (d0 d1 d2 : Nat) (act : Bool) :
    (s.log c i d0 d1 d2 act).now = s.now := by
  obtain ⟨_, _, h⟩ := log_only c i s d0 d1 d2 act
  rw [h]
@[simp] theorem log_freeNo (c : Cause) (i : Nat) (s : State) (d0 d1 d2 : Nat) (act : Bool) :
    (s.log c i d0 d1 d2 act).freeNo = s.freeNo := by
  obtain ⟨_, _, h⟩ := log_only c i s d0 d1 d2 act
  rw [h]
@[simp] theorem log_members (c : Cause) (i : Nat) (s : State) (d0 d1 d2 : Nat) (act : Bool) :
    (s.log c i d0 d1 d2 act).members = s.members := by
  obtain ⟨_, _, h⟩ := log_only c i s d0 d1 d2 act
  rw [h]
@[simp] theorem log_gradeE (c : Cause) (i : Nat) (s : State) (d0 d1 d2 : Nat) (act : Bool) :
    (s.log c i d0 d1 d2 act).gradeE = s.gradeE := by
  obtain ⟨_, _, h⟩ := log_only c i s d0 d1 d2 act
  rw [h]
@[simp] theorem log_chans (c : Cause) (i : Nat) (s : State) (d0 d1 d2 : Nat) (act : Bool) :
    (s.log c i d0 d1 d2 act).chans = s.chans := by
  obtain ⟨_, _, h⟩ := log_only c i s d0 d1 d2 act
  rw [h]
@[simp] theorem log_frozen (c : Cause) (i : Nat) (s : State) (d0 d1 d2 : Nat) (act : Bool) :
    (s.log c i d0 d1 d2 act).frozen = s.frozen := by
  obtain ⟨_, _, h⟩ := log_only c i s d0 d1 d2 act
  rw [h]
@[simp] theorem log_ctxs (c : Cause) (i : Nat) (s : State) (d0 d1 d2 : Nat) (act : Bool) :
    (s.log c i d0 d1 d2 act).ctxs = s.ctxs := by
  obtain ⟨_, _, h⟩ := log_only c i s d0 d1 d2 act
  rw [h]
@[simp] theorem log_journal (c : Cause) (i : Nat) (s : State) (d0 d1 d2 : Nat) (act : Bool) :
    (s.log c i d0 d1 d2 act).journal = s.journal := by
  obtain ⟨_, _, h⟩ := log_only c i s d0 d1 d2 act
  rw [h]
@[simp] theorem log_dram (c : Cause) (i : Nat) (s : State) (d0 d1 d2 : Nat) (act : Bool) :
    (s.log c i d0 d1 d2 act).dram = s.dram := by
  obtain ⟨_, _, h⟩ := log_only c i s d0 d1 d2 act
  rw [h]
@[simp] theorem log_host (c : Cause) (i : Nat) (s : State) (d0 d1 d2 : Nat) (act : Bool) :
    (s.log c i d0 d1 d2 act).host = s.host := by
  obtain ⟨_, _, h⟩ := log_only c i s d0 d1 d2 act
  rw [h]
@[simp] theorem log_thm (c : Cause) (i : Nat) (s : State) (d0 d1 d2 : Nat) (act : Bool) :
    (s.log c i d0 d1 d2 act).thm = s.thm := by
  obtain ⟨_, _, h⟩ := log_only c i s d0 d1 d2 act
  rw [h]
@[simp] theorem log_lanes (c : Cause) (i : Nat) (s : State) (d0 d1 d2 : Nat) (act : Bool) :
    (s.log c i d0 d1 d2 act).lanes = s.lanes := by
  obtain ⟨_, _, h⟩ := log_only c i s d0 d1 d2 act
  rw [h]
@[simp] theorem log_tor (c : Cause) (i : Nat) (s : State) (d0 d1 d2 : Nat) (act : Bool) :
    (s.log c i d0 d1 d2 act).tor = s.tor := by
  obtain ⟨_, _, h⟩ := log_only c i s d0 d1 d2 act
  rw [h]
@[simp] theorem log_pwr (c : Cause) (i : Nat) (s : State) (d0 d1 d2 : Nat) (act : Bool) :
    (s.log c i d0 d1 d2 act).pwr = s.pwr := by
  obtain ⟨_, _, h⟩ := log_only c i s d0 d1 d2 act
  rw [h]
@[simp] theorem log_hoop (c : Cause) (i : Nat) (s : State) (d0 d1 d2 : Nat) (act : Bool) :
    (s.log c i d0 d1 d2 act).hoop = s.hoop := by
  obtain ⟨_, _, h⟩ := log_only c i s d0 d1 d2 act
  rw [h]
@[simp] theorem log_otp (c : Cause) (i : Nat) (s : State) (d0 d1 d2 : Nat) (act : Bool) :
    (s.log c i d0 d1 d2 act).otp = s.otp := by
  obtain ⟨_, _, h⟩ := log_only c i s d0 d1 d2 act
  rw [h]
@[simp] theorem log_smb (c : Cause) (i : Nat) (s : State) (d0 d1 d2 : Nat) (act : Bool) :
    (s.log c i d0 d1 d2 act).smb = s.smb := by
  obtain ⟨_, _, h⟩ := log_only c i s d0 d1 d2 act
  rw [h]
@[simp] theorem log_idDefault (c : Cause) (i : Nat) (s : State) (d0 d1 d2 : Nat) (act : Bool) :
    (s.log c i d0 d1 d2 act).idDefault = s.idDefault := by
  obtain ⟨_, _, h⟩ := log_only c i s d0 d1 d2 act
  rw [h]
@[simp] theorem log_serial (c : Cause) (i : Nat) (s : State) (d0 d1 d2 : Nat) (act : Bool) :
    (s.log c i d0 d1 d2 act).serial = s.serial := by
  obtain ⟨_, _, h⟩ := log_only c i s d0 d1 d2 act
  rw [h]
@[simp] theorem log_out (c : Cause) (i : Nat) (s : State) (d0 d1 d2 : Nat) (act : Bool) :
    (s.log c i d0 d1 d2 act).out = s.out := by
  obtain ⟨_, _, h⟩ := log_only c i s d0 d1 d2 act
  rw [h]
@[simp] theorem log_chan (c : Cause) (i : Nat) (s : State) (d0 d1 d2 : Nat) (act : Bool) (k : Nat) : (s.log c i d0 d1 d2 act).chan k = s.chan k := by
  unfold State.chan; simp
@[simp] theorem log_ctx (c : Cause) (i : Nat) (s : State) (d0 d1 d2 : Nat) (act : Bool) (k : Nat) : (s.log c i d0 d1 d2 act).ctx k = s.ctx k := by
  unfold State.ctx; simp
@[simp] theorem log_cell (c : Cause) (i : Nat) (s : State) (d0 d1 d2 : Nat) (act : Bool) (k z : Nat) : (s.log c i d0 d1 d2 act).cell k z = s.cell k z := by
  unfold State.cell; simp

/-! `State.writeIgnored`. -/

@[simp] theorem writeIgnored_pending (s : State) :
    (s.writeIgnored).pending = s.pending := by
  obtain ⟨_, _, h⟩ := writeIgnored_only s
  rw [h]
@[simp] theorem writeIgnored_now (s : State) :
    (s.writeIgnored).now = s.now := by
  obtain ⟨_, _, h⟩ := writeIgnored_only s
  rw [h]
@[simp] theorem writeIgnored_freeNo (s : State) :
    (s.writeIgnored).freeNo = s.freeNo := by
  obtain ⟨_, _, h⟩ := writeIgnored_only s
  rw [h]
@[simp] theorem writeIgnored_members (s : State) :
    (s.writeIgnored).members = s.members := by
  obtain ⟨_, _, h⟩ := writeIgnored_only s
  rw [h]
@[simp] theorem writeIgnored_gradeE (s : State) :
    (s.writeIgnored).gradeE = s.gradeE := by
  obtain ⟨_, _, h⟩ := writeIgnored_only s
  rw [h]
@[simp] theorem writeIgnored_chans (s : State) :
    (s.writeIgnored).chans = s.chans := by
  obtain ⟨_, _, h⟩ := writeIgnored_only s
  rw [h]
@[simp] theorem writeIgnored_frozen (s : State) :
    (s.writeIgnored).frozen = s.frozen := by
  obtain ⟨_, _, h⟩ := writeIgnored_only s
  rw [h]
@[simp] theorem writeIgnored_ctxs (s : State) :
    (s.writeIgnored).ctxs = s.ctxs := by
  obtain ⟨_, _, h⟩ := writeIgnored_only s
  rw [h]
@[simp] theorem writeIgnored_journal (s : State) :
    (s.writeIgnored).journal = s.journal := by
  obtain ⟨_, _, h⟩ := writeIgnored_only s
  rw [h]
@[simp] theorem writeIgnored_dram (s : State) :
    (s.writeIgnored).dram = s.dram := by
  obtain ⟨_, _, h⟩ := writeIgnored_only s
  rw [h]
@[simp] theorem writeIgnored_host (s : State) :
    (s.writeIgnored).host = s.host := by
  obtain ⟨_, _, h⟩ := writeIgnored_only s
  rw [h]
@[simp] theorem writeIgnored_thm (s : State) :
    (s.writeIgnored).thm = s.thm := by
  obtain ⟨_, _, h⟩ := writeIgnored_only s
  rw [h]
@[simp] theorem writeIgnored_lanes (s : State) :
    (s.writeIgnored).lanes = s.lanes := by
  obtain ⟨_, _, h⟩ := writeIgnored_only s
  rw [h]
@[simp] theorem writeIgnored_tor (s : State) :
    (s.writeIgnored).tor = s.tor := by
  obtain ⟨_, _, h⟩ := writeIgnored_only s
  rw [h]
@[simp] theorem writeIgnored_pwr (s : State) :
    (s.writeIgnored).pwr = s.pwr := by
  obtain ⟨_, _, h⟩ := writeIgnored_only s
  rw [h]
@[simp] theorem writeIgnored_hoop (s : State) :
    (s.writeIgnored).hoop = s.hoop := by
  obtain ⟨_, _, h⟩ := writeIgnored_only s
  rw [h]
@[simp] theorem writeIgnored_otp (s : State) :
    (s.writeIgnored).otp = s.otp := by
  obtain ⟨_, _, h⟩ := writeIgnored_only s
  rw [h]
@[simp] theorem writeIgnored_smb (s : State) :
    (s.writeIgnored).smb = s.smb := by
  obtain ⟨_, _, h⟩ := writeIgnored_only s
  rw [h]
@[simp] theorem writeIgnored_idDefault (s : State) :
    (s.writeIgnored).idDefault = s.idDefault := by
  obtain ⟨_, _, h⟩ := writeIgnored_only s
  rw [h]
@[simp] theorem writeIgnored_serial (s : State) :
    (s.writeIgnored).serial = s.serial := by
  obtain ⟨_, _, h⟩ := writeIgnored_only s
  rw [h]
@[simp] theorem writeIgnored_out (s : State) :
    (s.writeIgnored).out = s.out := by
  obtain ⟨_, _, h⟩ := writeIgnored_only s
  rw [h]
@[simp] theorem writeIgnored_chan (s : State) (k : Nat) : (s.writeIgnored).chan k = s.chan k := by
  unfold State.chan; simp
@[simp] theorem writeIgnored_ctx (s : State) (k : Nat) : (s.writeIgnored).ctx k = s.ctx k := by
  unfold State.ctx; simp
@[simp] theorem writeIgnored_cell (s : State) (k z : Nat) : (s.writeIgnored).cell k z = s.cell k z := by
  unfold State.cell; simp

/-! `State.condEnd`. -/

@[simp] theorem condEnd_pending (b c i : Nat) (s : State) : (s.condEnd b c i).pending = s.pending := rfl
@[simp] theorem condEnd_now (b c i : Nat) (s : State) : (s.condEnd b c i).now = s.now := rfl
@[simp] theorem condEnd_freeNo (b c i : Nat) (s : State) : (s.condEnd b c i).freeNo = s.freeNo := rfl
@[simp] theorem condEnd_members (b c i : Nat) (s : State) : (s.condEnd b c i).members = s.members := rfl
@[simp] theorem condEnd_gradeE (b c i : Nat) (s : State) : (s.condEnd b c i).gradeE = s.gradeE := rfl
@[simp] theorem condEnd_chans (b c i : Nat) (s : State) : (s.condEnd b c i).chans = s.chans := rfl
@[simp] theorem condEnd_frozen (b c i : Nat) (s : State) : (s.condEnd b c i).frozen = s.frozen := rfl
@[simp] theorem condEnd_ctxs (b c i : Nat) (s : State) : (s.condEnd b c i).ctxs = s.ctxs := rfl
@[simp] theorem condEnd_journal (b c i : Nat) (s : State) : (s.condEnd b c i).journal = s.journal := rfl
@[simp] theorem condEnd_dram (b c i : Nat) (s : State) : (s.condEnd b c i).dram = s.dram := rfl
@[simp] theorem condEnd_host (b c i : Nat) (s : State) : (s.condEnd b c i).host = s.host := rfl
@[simp] theorem condEnd_cnt (b c i : Nat) (s : State) : (s.condEnd b c i).cnt = s.cnt := rfl
@[simp] theorem condEnd_thm (b c i : Nat) (s : State) : (s.condEnd b c i).thm = s.thm := rfl
@[simp] theorem condEnd_lanes (b c i : Nat) (s : State) : (s.condEnd b c i).lanes = s.lanes := rfl
@[simp] theorem condEnd_tor (b c i : Nat) (s : State) : (s.condEnd b c i).tor = s.tor := rfl
@[simp] theorem condEnd_pwr (b c i : Nat) (s : State) : (s.condEnd b c i).pwr = s.pwr := rfl
@[simp] theorem condEnd_hoop (b c i : Nat) (s : State) : (s.condEnd b c i).hoop = s.hoop := rfl
@[simp] theorem condEnd_otp (b c i : Nat) (s : State) : (s.condEnd b c i).otp = s.otp := rfl
@[simp] theorem condEnd_smb (b c i : Nat) (s : State) : (s.condEnd b c i).smb = s.smb := rfl
@[simp] theorem condEnd_idDefault (b c i : Nat) (s : State) : (s.condEnd b c i).idDefault = s.idDefault := rfl
@[simp] theorem condEnd_serial (b c i : Nat) (s : State) : (s.condEnd b c i).serial = s.serial := rfl
@[simp] theorem condEnd_out (b c i : Nat) (s : State) : (s.condEnd b c i).out = s.out := rfl
@[simp] theorem condEnd_chan (b c i : Nat) (s : State) (k : Nat) : (s.condEnd b c i).chan k = s.chan k := by
  unfold State.chan; simp
@[simp] theorem condEnd_ctx (b c i : Nat) (s : State) (k : Nat) : (s.condEnd b c i).ctx k = s.ctx k := by
  unfold State.ctx; simp
@[simp] theorem condEnd_cell (b c i : Nat) (s : State) (k z : Nat) : (s.condEnd b c i).cell k z = s.cell k z := by
  unfold State.cell; simp

/-! `State.discardPacket`. -/

@[simp] theorem discardPacket_pending (s : State) :
    (s.discardPacket).pending = s.pending := by
  obtain ⟨_, _, _, _, h⟩ := discardPacket_only s
  rw [h]
@[simp] theorem discardPacket_now (s : State) :
    (s.discardPacket).now = s.now := by
  obtain ⟨_, _, _, _, h⟩ := discardPacket_only s
  rw [h]
@[simp] theorem discardPacket_freeNo (s : State) :
    (s.discardPacket).freeNo = s.freeNo := by
  obtain ⟨_, _, _, _, h⟩ := discardPacket_only s
  rw [h]
@[simp] theorem discardPacket_members (s : State) :
    (s.discardPacket).members = s.members := by
  obtain ⟨_, _, _, _, h⟩ := discardPacket_only s
  rw [h]
@[simp] theorem discardPacket_gradeE (s : State) :
    (s.discardPacket).gradeE = s.gradeE := by
  obtain ⟨_, _, _, _, h⟩ := discardPacket_only s
  rw [h]
@[simp] theorem discardPacket_chans (s : State) :
    (s.discardPacket).chans = s.chans := by
  obtain ⟨_, _, _, _, h⟩ := discardPacket_only s
  rw [h]
@[simp] theorem discardPacket_frozen (s : State) :
    (s.discardPacket).frozen = s.frozen := by
  obtain ⟨_, _, _, _, h⟩ := discardPacket_only s
  rw [h]
@[simp] theorem discardPacket_ctxs (s : State) :
    (s.discardPacket).ctxs = s.ctxs := by
  obtain ⟨_, _, _, _, h⟩ := discardPacket_only s
  rw [h]
@[simp] theorem discardPacket_journal (s : State) :
    (s.discardPacket).journal = s.journal := by
  obtain ⟨_, _, _, _, h⟩ := discardPacket_only s
  rw [h]
@[simp] theorem discardPacket_dram (s : State) :
    (s.discardPacket).dram = s.dram := by
  obtain ⟨_, _, _, _, h⟩ := discardPacket_only s
  rw [h]
@[simp] theorem discardPacket_host (s : State) :
    (s.discardPacket).host = s.host := by
  obtain ⟨_, _, _, _, h⟩ := discardPacket_only s
  rw [h]
@[simp] theorem discardPacket_thm (s : State) :
    (s.discardPacket).thm = s.thm := by
  obtain ⟨_, _, _, _, h⟩ := discardPacket_only s
  rw [h]
@[simp] theorem discardPacket_lanes (s : State) :
    (s.discardPacket).lanes = s.lanes := by
  obtain ⟨_, _, _, _, h⟩ := discardPacket_only s
  rw [h]
@[simp] theorem discardPacket_pwr (s : State) :
    (s.discardPacket).pwr = s.pwr := by
  obtain ⟨_, _, _, _, h⟩ := discardPacket_only s
  rw [h]
@[simp] theorem discardPacket_hoop (s : State) :
    (s.discardPacket).hoop = s.hoop := by
  obtain ⟨_, _, _, _, h⟩ := discardPacket_only s
  rw [h]
@[simp] theorem discardPacket_otp (s : State) :
    (s.discardPacket).otp = s.otp := by
  obtain ⟨_, _, _, _, h⟩ := discardPacket_only s
  rw [h]
@[simp] theorem discardPacket_smb (s : State) :
    (s.discardPacket).smb = s.smb := by
  obtain ⟨_, _, _, _, h⟩ := discardPacket_only s
  rw [h]
@[simp] theorem discardPacket_idDefault (s : State) :
    (s.discardPacket).idDefault = s.idDefault := by
  obtain ⟨_, _, _, _, h⟩ := discardPacket_only s
  rw [h]
@[simp] theorem discardPacket_serial (s : State) :
    (s.discardPacket).serial = s.serial := by
  obtain ⟨_, _, _, _, h⟩ := discardPacket_only s
  rw [h]
@[simp] theorem discardPacket_chan (s : State) (k : Nat) : (s.discardPacket).chan k = s.chan k := by
  unfold State.chan; simp
@[simp] theorem discardPacket_ctx (s : State) (k : Nat) : (s.discardPacket).ctx k = s.ctx k := by
  unfold State.ctx; simp
@[simp] theorem discardPacket_cell (s : State) (k z : Nat) : (s.discardPacket).cell k z = s.cell k z := by
  unfold State.cell; simp

/-! `State.launch`. -/

@[simp] theorem launch_pending (p : Nat) (w : List (BitVec 64)) (s : State) :
    (s.launch p w).pending = s.pending := by
  obtain ⟨_, _, _, _, h⟩ := launch_only p w s
  rw [h]
@[simp] theorem launch_now (p : Nat) (w : List (BitVec 64)) (s : State) :
    (s.launch p w).now = s.now := by
  obtain ⟨_, _, _, _, h⟩ := launch_only p w s
  rw [h]
@[simp] theorem launch_freeNo (p : Nat) (w : List (BitVec 64)) (s : State) :
    (s.launch p w).freeNo = s.freeNo := by
  obtain ⟨_, _, _, _, h⟩ := launch_only p w s
  rw [h]
@[simp] theorem launch_members (p : Nat) (w : List (BitVec 64)) (s : State) :
    (s.launch p w).members = s.members := by
  obtain ⟨_, _, _, _, h⟩ := launch_only p w s
  rw [h]
@[simp] theorem launch_gradeE (p : Nat) (w : List (BitVec 64)) (s : State) :
    (s.launch p w).gradeE = s.gradeE := by
  obtain ⟨_, _, _, _, h⟩ := launch_only p w s
  rw [h]
@[simp] theorem launch_chans (p : Nat) (w : List (BitVec 64)) (s : State) :
    (s.launch p w).chans = s.chans := by
  obtain ⟨_, _, _, _, h⟩ := launch_only p w s
  rw [h]
@[simp] theorem launch_frozen (p : Nat) (w : List (BitVec 64)) (s : State) :
    (s.launch p w).frozen = s.frozen := by
  obtain ⟨_, _, _, _, h⟩ := launch_only p w s
  rw [h]
@[simp] theorem launch_ctxs (p : Nat) (w : List (BitVec 64)) (s : State) :
    (s.launch p w).ctxs = s.ctxs := by
  obtain ⟨_, _, _, _, h⟩ := launch_only p w s
  rw [h]
@[simp] theorem launch_journal (p : Nat) (w : List (BitVec 64)) (s : State) :
    (s.launch p w).journal = s.journal := by
  obtain ⟨_, _, _, _, h⟩ := launch_only p w s
  rw [h]
@[simp] theorem launch_dram (p : Nat) (w : List (BitVec 64)) (s : State) :
    (s.launch p w).dram = s.dram := by
  obtain ⟨_, _, _, _, h⟩ := launch_only p w s
  rw [h]
@[simp] theorem launch_host (p : Nat) (w : List (BitVec 64)) (s : State) :
    (s.launch p w).host = s.host := by
  obtain ⟨_, _, _, _, h⟩ := launch_only p w s
  rw [h]
@[simp] theorem launch_thm (p : Nat) (w : List (BitVec 64)) (s : State) :
    (s.launch p w).thm = s.thm := by
  obtain ⟨_, _, _, _, h⟩ := launch_only p w s
  rw [h]
@[simp] theorem launch_lanes (p : Nat) (w : List (BitVec 64)) (s : State) :
    (s.launch p w).lanes = s.lanes := by
  obtain ⟨_, _, _, _, h⟩ := launch_only p w s
  rw [h]
@[simp] theorem launch_pwr (p : Nat) (w : List (BitVec 64)) (s : State) :
    (s.launch p w).pwr = s.pwr := by
  obtain ⟨_, _, _, _, h⟩ := launch_only p w s
  rw [h]
@[simp] theorem launch_hoop (p : Nat) (w : List (BitVec 64)) (s : State) :
    (s.launch p w).hoop = s.hoop := by
  obtain ⟨_, _, _, _, h⟩ := launch_only p w s
  rw [h]
@[simp] theorem launch_otp (p : Nat) (w : List (BitVec 64)) (s : State) :
    (s.launch p w).otp = s.otp := by
  obtain ⟨_, _, _, _, h⟩ := launch_only p w s
  rw [h]
@[simp] theorem launch_smb (p : Nat) (w : List (BitVec 64)) (s : State) :
    (s.launch p w).smb = s.smb := by
  obtain ⟨_, _, _, _, h⟩ := launch_only p w s
  rw [h]
@[simp] theorem launch_idDefault (p : Nat) (w : List (BitVec 64)) (s : State) :
    (s.launch p w).idDefault = s.idDefault := by
  obtain ⟨_, _, _, _, h⟩ := launch_only p w s
  rw [h]
@[simp] theorem launch_serial (p : Nat) (w : List (BitVec 64)) (s : State) :
    (s.launch p w).serial = s.serial := by
  obtain ⟨_, _, _, _, h⟩ := launch_only p w s
  rw [h]
@[simp] theorem launch_chan (p : Nat) (w : List (BitVec 64)) (s : State) (k : Nat) : (s.launch p w).chan k = s.chan k := by
  unfold State.chan; simp
@[simp] theorem launch_ctx (p : Nat) (w : List (BitVec 64)) (s : State) (k : Nat) : (s.launch p w).ctx k = s.ctx k := by
  unfold State.ctx; simp
@[simp] theorem launch_cell (p : Nat) (w : List (BitVec 64)) (s : State) (k z : Nat) : (s.launch p w).cell k z = s.cell k z := by
  unfold State.cell; simp

/-! `State.flushPort`. -/

@[simp] theorem flushPort_pending (n p : Nat) (s : State) :
    (State.flushPort n p s).pending = s.pending := by
  obtain ⟨_, _, _, _, h⟩ := flushPort_only n p s
  rw [h]
@[simp] theorem flushPort_now (n p : Nat) (s : State) :
    (State.flushPort n p s).now = s.now := by
  obtain ⟨_, _, _, _, h⟩ := flushPort_only n p s
  rw [h]
@[simp] theorem flushPort_freeNo (n p : Nat) (s : State) :
    (State.flushPort n p s).freeNo = s.freeNo := by
  obtain ⟨_, _, _, _, h⟩ := flushPort_only n p s
  rw [h]
@[simp] theorem flushPort_members (n p : Nat) (s : State) :
    (State.flushPort n p s).members = s.members := by
  obtain ⟨_, _, _, _, h⟩ := flushPort_only n p s
  rw [h]
@[simp] theorem flushPort_gradeE (n p : Nat) (s : State) :
    (State.flushPort n p s).gradeE = s.gradeE := by
  obtain ⟨_, _, _, _, h⟩ := flushPort_only n p s
  rw [h]
@[simp] theorem flushPort_chans (n p : Nat) (s : State) :
    (State.flushPort n p s).chans = s.chans := by
  obtain ⟨_, _, _, _, h⟩ := flushPort_only n p s
  rw [h]
@[simp] theorem flushPort_frozen (n p : Nat) (s : State) :
    (State.flushPort n p s).frozen = s.frozen := by
  obtain ⟨_, _, _, _, h⟩ := flushPort_only n p s
  rw [h]
@[simp] theorem flushPort_ctxs (n p : Nat) (s : State) :
    (State.flushPort n p s).ctxs = s.ctxs := by
  obtain ⟨_, _, _, _, h⟩ := flushPort_only n p s
  rw [h]
@[simp] theorem flushPort_journal (n p : Nat) (s : State) :
    (State.flushPort n p s).journal = s.journal := by
  obtain ⟨_, _, _, _, h⟩ := flushPort_only n p s
  rw [h]
@[simp] theorem flushPort_dram (n p : Nat) (s : State) :
    (State.flushPort n p s).dram = s.dram := by
  obtain ⟨_, _, _, _, h⟩ := flushPort_only n p s
  rw [h]
@[simp] theorem flushPort_host (n p : Nat) (s : State) :
    (State.flushPort n p s).host = s.host := by
  obtain ⟨_, _, _, _, h⟩ := flushPort_only n p s
  rw [h]
@[simp] theorem flushPort_thm (n p : Nat) (s : State) :
    (State.flushPort n p s).thm = s.thm := by
  obtain ⟨_, _, _, _, h⟩ := flushPort_only n p s
  rw [h]
@[simp] theorem flushPort_lanes (n p : Nat) (s : State) :
    (State.flushPort n p s).lanes = s.lanes := by
  obtain ⟨_, _, _, _, h⟩ := flushPort_only n p s
  rw [h]
@[simp] theorem flushPort_pwr (n p : Nat) (s : State) :
    (State.flushPort n p s).pwr = s.pwr := by
  obtain ⟨_, _, _, _, h⟩ := flushPort_only n p s
  rw [h]
@[simp] theorem flushPort_hoop (n p : Nat) (s : State) :
    (State.flushPort n p s).hoop = s.hoop := by
  obtain ⟨_, _, _, _, h⟩ := flushPort_only n p s
  rw [h]
@[simp] theorem flushPort_otp (n p : Nat) (s : State) :
    (State.flushPort n p s).otp = s.otp := by
  obtain ⟨_, _, _, _, h⟩ := flushPort_only n p s
  rw [h]
@[simp] theorem flushPort_smb (n p : Nat) (s : State) :
    (State.flushPort n p s).smb = s.smb := by
  obtain ⟨_, _, _, _, h⟩ := flushPort_only n p s
  rw [h]
@[simp] theorem flushPort_idDefault (n p : Nat) (s : State) :
    (State.flushPort n p s).idDefault = s.idDefault := by
  obtain ⟨_, _, _, _, h⟩ := flushPort_only n p s
  rw [h]
@[simp] theorem flushPort_serial (n p : Nat) (s : State) :
    (State.flushPort n p s).serial = s.serial := by
  obtain ⟨_, _, _, _, h⟩ := flushPort_only n p s
  rw [h]
@[simp] theorem flushPort_chan (n p : Nat) (s : State) (k : Nat) : (State.flushPort n p s).chan k = s.chan k := by
  unfold State.chan; simp
@[simp] theorem flushPort_ctx (n p : Nat) (s : State) (k : Nat) : (State.flushPort n p s).ctx k = s.ctx k := by
  unfold State.ctx; simp
@[simp] theorem flushPort_cell (n p : Nat) (s : State) (k z : Nat) : (State.flushPort n p s).cell k z = s.cell k z := by
  unfold State.cell; simp

/-! `State.enqueue`. -/

@[simp] theorem enqueue_pending (p : Nat) (w : List (BitVec 64)) (s : State) :
    (s.enqueue p w).pending = s.pending := by
  obtain ⟨_, _, _, _, h⟩ := enqueue_only p w s
  rw [h]
@[simp] theorem enqueue_now (p : Nat) (w : List (BitVec 64)) (s : State) :
    (s.enqueue p w).now = s.now := by
  obtain ⟨_, _, _, _, h⟩ := enqueue_only p w s
  rw [h]
@[simp] theorem enqueue_freeNo (p : Nat) (w : List (BitVec 64)) (s : State) :
    (s.enqueue p w).freeNo = s.freeNo := by
  obtain ⟨_, _, _, _, h⟩ := enqueue_only p w s
  rw [h]
@[simp] theorem enqueue_members (p : Nat) (w : List (BitVec 64)) (s : State) :
    (s.enqueue p w).members = s.members := by
  obtain ⟨_, _, _, _, h⟩ := enqueue_only p w s
  rw [h]
@[simp] theorem enqueue_gradeE (p : Nat) (w : List (BitVec 64)) (s : State) :
    (s.enqueue p w).gradeE = s.gradeE := by
  obtain ⟨_, _, _, _, h⟩ := enqueue_only p w s
  rw [h]
@[simp] theorem enqueue_chans (p : Nat) (w : List (BitVec 64)) (s : State) :
    (s.enqueue p w).chans = s.chans := by
  obtain ⟨_, _, _, _, h⟩ := enqueue_only p w s
  rw [h]
@[simp] theorem enqueue_frozen (p : Nat) (w : List (BitVec 64)) (s : State) :
    (s.enqueue p w).frozen = s.frozen := by
  obtain ⟨_, _, _, _, h⟩ := enqueue_only p w s
  rw [h]
@[simp] theorem enqueue_ctxs (p : Nat) (w : List (BitVec 64)) (s : State) :
    (s.enqueue p w).ctxs = s.ctxs := by
  obtain ⟨_, _, _, _, h⟩ := enqueue_only p w s
  rw [h]
@[simp] theorem enqueue_journal (p : Nat) (w : List (BitVec 64)) (s : State) :
    (s.enqueue p w).journal = s.journal := by
  obtain ⟨_, _, _, _, h⟩ := enqueue_only p w s
  rw [h]
@[simp] theorem enqueue_dram (p : Nat) (w : List (BitVec 64)) (s : State) :
    (s.enqueue p w).dram = s.dram := by
  obtain ⟨_, _, _, _, h⟩ := enqueue_only p w s
  rw [h]
@[simp] theorem enqueue_host (p : Nat) (w : List (BitVec 64)) (s : State) :
    (s.enqueue p w).host = s.host := by
  obtain ⟨_, _, _, _, h⟩ := enqueue_only p w s
  rw [h]
@[simp] theorem enqueue_thm (p : Nat) (w : List (BitVec 64)) (s : State) :
    (s.enqueue p w).thm = s.thm := by
  obtain ⟨_, _, _, _, h⟩ := enqueue_only p w s
  rw [h]
@[simp] theorem enqueue_lanes (p : Nat) (w : List (BitVec 64)) (s : State) :
    (s.enqueue p w).lanes = s.lanes := by
  obtain ⟨_, _, _, _, h⟩ := enqueue_only p w s
  rw [h]
@[simp] theorem enqueue_pwr (p : Nat) (w : List (BitVec 64)) (s : State) :
    (s.enqueue p w).pwr = s.pwr := by
  obtain ⟨_, _, _, _, h⟩ := enqueue_only p w s
  rw [h]
@[simp] theorem enqueue_hoop (p : Nat) (w : List (BitVec 64)) (s : State) :
    (s.enqueue p w).hoop = s.hoop := by
  obtain ⟨_, _, _, _, h⟩ := enqueue_only p w s
  rw [h]
@[simp] theorem enqueue_otp (p : Nat) (w : List (BitVec 64)) (s : State) :
    (s.enqueue p w).otp = s.otp := by
  obtain ⟨_, _, _, _, h⟩ := enqueue_only p w s
  rw [h]
@[simp] theorem enqueue_smb (p : Nat) (w : List (BitVec 64)) (s : State) :
    (s.enqueue p w).smb = s.smb := by
  obtain ⟨_, _, _, _, h⟩ := enqueue_only p w s
  rw [h]
@[simp] theorem enqueue_idDefault (p : Nat) (w : List (BitVec 64)) (s : State) :
    (s.enqueue p w).idDefault = s.idDefault := by
  obtain ⟨_, _, _, _, h⟩ := enqueue_only p w s
  rw [h]
@[simp] theorem enqueue_serial (p : Nat) (w : List (BitVec 64)) (s : State) :
    (s.enqueue p w).serial = s.serial := by
  obtain ⟨_, _, _, _, h⟩ := enqueue_only p w s
  rw [h]
@[simp] theorem enqueue_chan (p : Nat) (w : List (BitVec 64)) (s : State) (k : Nat) : (s.enqueue p w).chan k = s.chan k := by
  unfold State.chan; simp
@[simp] theorem enqueue_ctx (p : Nat) (w : List (BitVec 64)) (s : State) (k : Nat) : (s.enqueue p w).ctx k = s.ctx k := by
  unfold State.ctx; simp
@[simp] theorem enqueue_cell (p : Nat) (w : List (BitVec 64)) (s : State) (k z : Nat) : (s.enqueue p w).cell k z = s.cell k z := by
  unfold State.cell; simp

/-! `State.forwardOn`. -/

@[simp] theorem forwardOn_pending (a : Nat) (w : List (BitVec 64)) (s : State) :
    (s.forwardOn a w).pending = s.pending := by
  obtain ⟨_, _, _, _, h⟩ := forwardOn_only a w s
  rw [h]
@[simp] theorem forwardOn_now (a : Nat) (w : List (BitVec 64)) (s : State) :
    (s.forwardOn a w).now = s.now := by
  obtain ⟨_, _, _, _, h⟩ := forwardOn_only a w s
  rw [h]
@[simp] theorem forwardOn_freeNo (a : Nat) (w : List (BitVec 64)) (s : State) :
    (s.forwardOn a w).freeNo = s.freeNo := by
  obtain ⟨_, _, _, _, h⟩ := forwardOn_only a w s
  rw [h]
@[simp] theorem forwardOn_members (a : Nat) (w : List (BitVec 64)) (s : State) :
    (s.forwardOn a w).members = s.members := by
  obtain ⟨_, _, _, _, h⟩ := forwardOn_only a w s
  rw [h]
@[simp] theorem forwardOn_gradeE (a : Nat) (w : List (BitVec 64)) (s : State) :
    (s.forwardOn a w).gradeE = s.gradeE := by
  obtain ⟨_, _, _, _, h⟩ := forwardOn_only a w s
  rw [h]
@[simp] theorem forwardOn_chans (a : Nat) (w : List (BitVec 64)) (s : State) :
    (s.forwardOn a w).chans = s.chans := by
  obtain ⟨_, _, _, _, h⟩ := forwardOn_only a w s
  rw [h]
@[simp] theorem forwardOn_frozen (a : Nat) (w : List (BitVec 64)) (s : State) :
    (s.forwardOn a w).frozen = s.frozen := by
  obtain ⟨_, _, _, _, h⟩ := forwardOn_only a w s
  rw [h]
@[simp] theorem forwardOn_ctxs (a : Nat) (w : List (BitVec 64)) (s : State) :
    (s.forwardOn a w).ctxs = s.ctxs := by
  obtain ⟨_, _, _, _, h⟩ := forwardOn_only a w s
  rw [h]
@[simp] theorem forwardOn_journal (a : Nat) (w : List (BitVec 64)) (s : State) :
    (s.forwardOn a w).journal = s.journal := by
  obtain ⟨_, _, _, _, h⟩ := forwardOn_only a w s
  rw [h]
@[simp] theorem forwardOn_dram (a : Nat) (w : List (BitVec 64)) (s : State) :
    (s.forwardOn a w).dram = s.dram := by
  obtain ⟨_, _, _, _, h⟩ := forwardOn_only a w s
  rw [h]
@[simp] theorem forwardOn_host (a : Nat) (w : List (BitVec 64)) (s : State) :
    (s.forwardOn a w).host = s.host := by
  obtain ⟨_, _, _, _, h⟩ := forwardOn_only a w s
  rw [h]
@[simp] theorem forwardOn_thm (a : Nat) (w : List (BitVec 64)) (s : State) :
    (s.forwardOn a w).thm = s.thm := by
  obtain ⟨_, _, _, _, h⟩ := forwardOn_only a w s
  rw [h]
@[simp] theorem forwardOn_lanes (a : Nat) (w : List (BitVec 64)) (s : State) :
    (s.forwardOn a w).lanes = s.lanes := by
  obtain ⟨_, _, _, _, h⟩ := forwardOn_only a w s
  rw [h]
@[simp] theorem forwardOn_pwr (a : Nat) (w : List (BitVec 64)) (s : State) :
    (s.forwardOn a w).pwr = s.pwr := by
  obtain ⟨_, _, _, _, h⟩ := forwardOn_only a w s
  rw [h]
@[simp] theorem forwardOn_hoop (a : Nat) (w : List (BitVec 64)) (s : State) :
    (s.forwardOn a w).hoop = s.hoop := by
  obtain ⟨_, _, _, _, h⟩ := forwardOn_only a w s
  rw [h]
@[simp] theorem forwardOn_otp (a : Nat) (w : List (BitVec 64)) (s : State) :
    (s.forwardOn a w).otp = s.otp := by
  obtain ⟨_, _, _, _, h⟩ := forwardOn_only a w s
  rw [h]
@[simp] theorem forwardOn_smb (a : Nat) (w : List (BitVec 64)) (s : State) :
    (s.forwardOn a w).smb = s.smb := by
  obtain ⟨_, _, _, _, h⟩ := forwardOn_only a w s
  rw [h]
@[simp] theorem forwardOn_idDefault (a : Nat) (w : List (BitVec 64)) (s : State) :
    (s.forwardOn a w).idDefault = s.idDefault := by
  obtain ⟨_, _, _, _, h⟩ := forwardOn_only a w s
  rw [h]
@[simp] theorem forwardOn_serial (a : Nat) (w : List (BitVec 64)) (s : State) :
    (s.forwardOn a w).serial = s.serial := by
  obtain ⟨_, _, _, _, h⟩ := forwardOn_only a w s
  rw [h]
@[simp] theorem forwardOn_chan (a : Nat) (w : List (BitVec 64)) (s : State) (k : Nat) : (s.forwardOn a w).chan k = s.chan k := by
  unfold State.chan; simp
@[simp] theorem forwardOn_ctx (a : Nat) (w : List (BitVec 64)) (s : State) (k : Nat) : (s.forwardOn a w).ctx k = s.ctx k := by
  unfold State.ctx; simp
@[simp] theorem forwardOn_cell (a : Nat) (w : List (BitVec 64)) (s : State) (k z : Nat) : (s.forwardOn a w).cell k z = s.cell k z := by
  unfold State.cell; simp

/-! `State.sendPacket`. -/

@[simp] theorem sendPacket_pending (y x z t n : Nat) (w : List Word) (s : State) :
    (s.sendPacket y x z t n w).pending = s.pending := by
  obtain ⟨_, _, _, _, h⟩ := sendPacket_only y x z t n w s
  rw [h]
@[simp] theorem sendPacket_now (y x z t n : Nat) (w : List Word) (s : State) :
    (s.sendPacket y x z t n w).now = s.now := by
  obtain ⟨_, _, _, _, h⟩ := sendPacket_only y x z t n w s
  rw [h]
@[simp] theorem sendPacket_freeNo (y x z t n : Nat) (w : List Word) (s : State) :
    (s.sendPacket y x z t n w).freeNo = s.freeNo := by
  obtain ⟨_, _, _, _, h⟩ := sendPacket_only y x z t n w s
  rw [h]
@[simp] theorem sendPacket_members (y x z t n : Nat) (w : List Word) (s : State) :
    (s.sendPacket y x z t n w).members = s.members := by
  obtain ⟨_, _, _, _, h⟩ := sendPacket_only y x z t n w s
  rw [h]
@[simp] theorem sendPacket_gradeE (y x z t n : Nat) (w : List Word) (s : State) :
    (s.sendPacket y x z t n w).gradeE = s.gradeE := by
  obtain ⟨_, _, _, _, h⟩ := sendPacket_only y x z t n w s
  rw [h]
@[simp] theorem sendPacket_chans (y x z t n : Nat) (w : List Word) (s : State) :
    (s.sendPacket y x z t n w).chans = s.chans := by
  obtain ⟨_, _, _, _, h⟩ := sendPacket_only y x z t n w s
  rw [h]
@[simp] theorem sendPacket_frozen (y x z t n : Nat) (w : List Word) (s : State) :
    (s.sendPacket y x z t n w).frozen = s.frozen := by
  obtain ⟨_, _, _, _, h⟩ := sendPacket_only y x z t n w s
  rw [h]
@[simp] theorem sendPacket_ctxs (y x z t n : Nat) (w : List Word) (s : State) :
    (s.sendPacket y x z t n w).ctxs = s.ctxs := by
  obtain ⟨_, _, _, _, h⟩ := sendPacket_only y x z t n w s
  rw [h]
@[simp] theorem sendPacket_journal (y x z t n : Nat) (w : List Word) (s : State) :
    (s.sendPacket y x z t n w).journal = s.journal := by
  obtain ⟨_, _, _, _, h⟩ := sendPacket_only y x z t n w s
  rw [h]
@[simp] theorem sendPacket_dram (y x z t n : Nat) (w : List Word) (s : State) :
    (s.sendPacket y x z t n w).dram = s.dram := by
  obtain ⟨_, _, _, _, h⟩ := sendPacket_only y x z t n w s
  rw [h]
@[simp] theorem sendPacket_host (y x z t n : Nat) (w : List Word) (s : State) :
    (s.sendPacket y x z t n w).host = s.host := by
  obtain ⟨_, _, _, _, h⟩ := sendPacket_only y x z t n w s
  rw [h]
@[simp] theorem sendPacket_thm (y x z t n : Nat) (w : List Word) (s : State) :
    (s.sendPacket y x z t n w).thm = s.thm := by
  obtain ⟨_, _, _, _, h⟩ := sendPacket_only y x z t n w s
  rw [h]
@[simp] theorem sendPacket_lanes (y x z t n : Nat) (w : List Word) (s : State) :
    (s.sendPacket y x z t n w).lanes = s.lanes := by
  obtain ⟨_, _, _, _, h⟩ := sendPacket_only y x z t n w s
  rw [h]
@[simp] theorem sendPacket_pwr (y x z t n : Nat) (w : List Word) (s : State) :
    (s.sendPacket y x z t n w).pwr = s.pwr := by
  obtain ⟨_, _, _, _, h⟩ := sendPacket_only y x z t n w s
  rw [h]
@[simp] theorem sendPacket_hoop (y x z t n : Nat) (w : List Word) (s : State) :
    (s.sendPacket y x z t n w).hoop = s.hoop := by
  obtain ⟨_, _, _, _, h⟩ := sendPacket_only y x z t n w s
  rw [h]
@[simp] theorem sendPacket_otp (y x z t n : Nat) (w : List Word) (s : State) :
    (s.sendPacket y x z t n w).otp = s.otp := by
  obtain ⟨_, _, _, _, h⟩ := sendPacket_only y x z t n w s
  rw [h]
@[simp] theorem sendPacket_smb (y x z t n : Nat) (w : List Word) (s : State) :
    (s.sendPacket y x z t n w).smb = s.smb := by
  obtain ⟨_, _, _, _, h⟩ := sendPacket_only y x z t n w s
  rw [h]
@[simp] theorem sendPacket_idDefault (y x z t n : Nat) (w : List Word) (s : State) :
    (s.sendPacket y x z t n w).idDefault = s.idDefault := by
  obtain ⟨_, _, _, _, h⟩ := sendPacket_only y x z t n w s
  rw [h]
@[simp] theorem sendPacket_serial (y x z t n : Nat) (w : List Word) (s : State) :
    (s.sendPacket y x z t n w).serial = s.serial := by
  obtain ⟨_, _, _, _, h⟩ := sendPacket_only y x z t n w s
  rw [h]
@[simp] theorem sendPacket_chan (y x z t n : Nat) (w : List Word) (s : State) (k : Nat) : (s.sendPacket y x z t n w).chan k = s.chan k := by
  unfold State.chan; simp
@[simp] theorem sendPacket_ctx (y x z t n : Nat) (w : List Word) (s : State) (k : Nat) : (s.sendPacket y x z t n w).ctx k = s.ctx k := by
  unfold State.ctx; simp
@[simp] theorem sendPacket_cell (y x z t n : Nat) (w : List Word) (s : State) (k c : Nat) : (s.sendPacket y x z t n w).cell k c = s.cell k c := by
  unfold State.cell; simp

/-! `State.flood`. -/

@[simp] theorem flood_pending (a : Nat) (w : List (BitVec 64)) (s : State) :
    (s.flood a w).pending = s.pending := by
  obtain ⟨_, _, _, _, h⟩ := flood_only a w s
  rw [h]
@[simp] theorem flood_now (a : Nat) (w : List (BitVec 64)) (s : State) :
    (s.flood a w).now = s.now := by
  obtain ⟨_, _, _, _, h⟩ := flood_only a w s
  rw [h]
@[simp] theorem flood_freeNo (a : Nat) (w : List (BitVec 64)) (s : State) :
    (s.flood a w).freeNo = s.freeNo := by
  obtain ⟨_, _, _, _, h⟩ := flood_only a w s
  rw [h]
@[simp] theorem flood_members (a : Nat) (w : List (BitVec 64)) (s : State) :
    (s.flood a w).members = s.members := by
  obtain ⟨_, _, _, _, h⟩ := flood_only a w s
  rw [h]
@[simp] theorem flood_gradeE (a : Nat) (w : List (BitVec 64)) (s : State) :
    (s.flood a w).gradeE = s.gradeE := by
  obtain ⟨_, _, _, _, h⟩ := flood_only a w s
  rw [h]
@[simp] theorem flood_chans (a : Nat) (w : List (BitVec 64)) (s : State) :
    (s.flood a w).chans = s.chans := by
  obtain ⟨_, _, _, _, h⟩ := flood_only a w s
  rw [h]
@[simp] theorem flood_frozen (a : Nat) (w : List (BitVec 64)) (s : State) :
    (s.flood a w).frozen = s.frozen := by
  obtain ⟨_, _, _, _, h⟩ := flood_only a w s
  rw [h]
@[simp] theorem flood_ctxs (a : Nat) (w : List (BitVec 64)) (s : State) :
    (s.flood a w).ctxs = s.ctxs := by
  obtain ⟨_, _, _, _, h⟩ := flood_only a w s
  rw [h]
@[simp] theorem flood_journal (a : Nat) (w : List (BitVec 64)) (s : State) :
    (s.flood a w).journal = s.journal := by
  obtain ⟨_, _, _, _, h⟩ := flood_only a w s
  rw [h]
@[simp] theorem flood_dram (a : Nat) (w : List (BitVec 64)) (s : State) :
    (s.flood a w).dram = s.dram := by
  obtain ⟨_, _, _, _, h⟩ := flood_only a w s
  rw [h]
@[simp] theorem flood_host (a : Nat) (w : List (BitVec 64)) (s : State) :
    (s.flood a w).host = s.host := by
  obtain ⟨_, _, _, _, h⟩ := flood_only a w s
  rw [h]
@[simp] theorem flood_thm (a : Nat) (w : List (BitVec 64)) (s : State) :
    (s.flood a w).thm = s.thm := by
  obtain ⟨_, _, _, _, h⟩ := flood_only a w s
  rw [h]
@[simp] theorem flood_lanes (a : Nat) (w : List (BitVec 64)) (s : State) :
    (s.flood a w).lanes = s.lanes := by
  obtain ⟨_, _, _, _, h⟩ := flood_only a w s
  rw [h]
@[simp] theorem flood_pwr (a : Nat) (w : List (BitVec 64)) (s : State) :
    (s.flood a w).pwr = s.pwr := by
  obtain ⟨_, _, _, _, h⟩ := flood_only a w s
  rw [h]
@[simp] theorem flood_hoop (a : Nat) (w : List (BitVec 64)) (s : State) :
    (s.flood a w).hoop = s.hoop := by
  obtain ⟨_, _, _, _, h⟩ := flood_only a w s
  rw [h]
@[simp] theorem flood_otp (a : Nat) (w : List (BitVec 64)) (s : State) :
    (s.flood a w).otp = s.otp := by
  obtain ⟨_, _, _, _, h⟩ := flood_only a w s
  rw [h]
@[simp] theorem flood_smb (a : Nat) (w : List (BitVec 64)) (s : State) :
    (s.flood a w).smb = s.smb := by
  obtain ⟨_, _, _, _, h⟩ := flood_only a w s
  rw [h]
@[simp] theorem flood_idDefault (a : Nat) (w : List (BitVec 64)) (s : State) :
    (s.flood a w).idDefault = s.idDefault := by
  obtain ⟨_, _, _, _, h⟩ := flood_only a w s
  rw [h]
@[simp] theorem flood_serial (a : Nat) (w : List (BitVec 64)) (s : State) :
    (s.flood a w).serial = s.serial := by
  obtain ⟨_, _, _, _, h⟩ := flood_only a w s
  rw [h]
@[simp] theorem flood_chan (a : Nat) (w : List (BitVec 64)) (s : State) (k : Nat) : (s.flood a w).chan k = s.chan k := by
  unfold State.chan; simp
@[simp] theorem flood_ctx (a : Nat) (w : List (BitVec 64)) (s : State) (k : Nat) : (s.flood a w).ctx k = s.ctx k := by
  unfold State.ctx; simp
@[simp] theorem flood_cell (a : Nat) (w : List (BitVec 64)) (s : State) (k z : Nat) : (s.flood a w).cell k z = s.cell k z := by
  unfold State.cell; simp

/-! `State.pxPacket`. -/

@[simp] theorem pxPacket_pending (i o : Nat) (w : List Word) (s : State) :
    (s.pxPacket i o w).pending = s.pending := by
  obtain ⟨_, _, _, _, h⟩ := pxPacket_only i o w s
  rw [h]
@[simp] theorem pxPacket_now (i o : Nat) (w : List Word) (s : State) :
    (s.pxPacket i o w).now = s.now := by
  obtain ⟨_, _, _, _, h⟩ := pxPacket_only i o w s
  rw [h]
@[simp] theorem pxPacket_freeNo (i o : Nat) (w : List Word) (s : State) :
    (s.pxPacket i o w).freeNo = s.freeNo := by
  obtain ⟨_, _, _, _, h⟩ := pxPacket_only i o w s
  rw [h]
@[simp] theorem pxPacket_members (i o : Nat) (w : List Word) (s : State) :
    (s.pxPacket i o w).members = s.members := by
  obtain ⟨_, _, _, _, h⟩ := pxPacket_only i o w s
  rw [h]
@[simp] theorem pxPacket_gradeE (i o : Nat) (w : List Word) (s : State) :
    (s.pxPacket i o w).gradeE = s.gradeE := by
  obtain ⟨_, _, _, _, h⟩ := pxPacket_only i o w s
  rw [h]
@[simp] theorem pxPacket_chans (i o : Nat) (w : List Word) (s : State) :
    (s.pxPacket i o w).chans = s.chans := by
  obtain ⟨_, _, _, _, h⟩ := pxPacket_only i o w s
  rw [h]
@[simp] theorem pxPacket_frozen (i o : Nat) (w : List Word) (s : State) :
    (s.pxPacket i o w).frozen = s.frozen := by
  obtain ⟨_, _, _, _, h⟩ := pxPacket_only i o w s
  rw [h]
@[simp] theorem pxPacket_ctxs (i o : Nat) (w : List Word) (s : State) :
    (s.pxPacket i o w).ctxs = s.ctxs := by
  obtain ⟨_, _, _, _, h⟩ := pxPacket_only i o w s
  rw [h]
@[simp] theorem pxPacket_journal (i o : Nat) (w : List Word) (s : State) :
    (s.pxPacket i o w).journal = s.journal := by
  obtain ⟨_, _, _, _, h⟩ := pxPacket_only i o w s
  rw [h]
@[simp] theorem pxPacket_dram (i o : Nat) (w : List Word) (s : State) :
    (s.pxPacket i o w).dram = s.dram := by
  obtain ⟨_, _, _, _, h⟩ := pxPacket_only i o w s
  rw [h]
@[simp] theorem pxPacket_host (i o : Nat) (w : List Word) (s : State) :
    (s.pxPacket i o w).host = s.host := by
  obtain ⟨_, _, _, _, h⟩ := pxPacket_only i o w s
  rw [h]
@[simp] theorem pxPacket_thm (i o : Nat) (w : List Word) (s : State) :
    (s.pxPacket i o w).thm = s.thm := by
  obtain ⟨_, _, _, _, h⟩ := pxPacket_only i o w s
  rw [h]
@[simp] theorem pxPacket_lanes (i o : Nat) (w : List Word) (s : State) :
    (s.pxPacket i o w).lanes = s.lanes := by
  obtain ⟨_, _, _, _, h⟩ := pxPacket_only i o w s
  rw [h]
@[simp] theorem pxPacket_pwr (i o : Nat) (w : List Word) (s : State) :
    (s.pxPacket i o w).pwr = s.pwr := by
  obtain ⟨_, _, _, _, h⟩ := pxPacket_only i o w s
  rw [h]
@[simp] theorem pxPacket_hoop (i o : Nat) (w : List Word) (s : State) :
    (s.pxPacket i o w).hoop = s.hoop := by
  obtain ⟨_, _, _, _, h⟩ := pxPacket_only i o w s
  rw [h]
@[simp] theorem pxPacket_otp (i o : Nat) (w : List Word) (s : State) :
    (s.pxPacket i o w).otp = s.otp := by
  obtain ⟨_, _, _, _, h⟩ := pxPacket_only i o w s
  rw [h]
@[simp] theorem pxPacket_smb (i o : Nat) (w : List Word) (s : State) :
    (s.pxPacket i o w).smb = s.smb := by
  obtain ⟨_, _, _, _, h⟩ := pxPacket_only i o w s
  rw [h]
@[simp] theorem pxPacket_idDefault (i o : Nat) (w : List Word) (s : State) :
    (s.pxPacket i o w).idDefault = s.idDefault := by
  obtain ⟨_, _, _, _, h⟩ := pxPacket_only i o w s
  rw [h]
@[simp] theorem pxPacket_serial (i o : Nat) (w : List Word) (s : State) :
    (s.pxPacket i o w).serial = s.serial := by
  obtain ⟨_, _, _, _, h⟩ := pxPacket_only i o w s
  rw [h]
@[simp] theorem pxPacket_chan (i o : Nat) (w : List Word) (s : State) (k : Nat) : (s.pxPacket i o w).chan k = s.chan k := by
  unfold State.chan; simp
@[simp] theorem pxPacket_ctx (i o : Nat) (w : List Word) (s : State) (k : Nat) : (s.pxPacket i o w).ctx k = s.ctx k := by
  unfold State.ctx; simp
@[simp] theorem pxPacket_cell (i o : Nat) (w : List Word) (s : State) (k z : Nat) : (s.pxPacket i o w).cell k z = s.cell k z := by
  unfold State.cell; simp

/-! `State.pxSend`. -/

@[simp] theorem pxSend_pending (i o : Nat) (w : List Word) (s : State) :
    (s.pxSend i o w).pending = s.pending := by
  obtain ⟨_, _, _, _, h⟩ := pxSend_only i o w s
  rw [h]
@[simp] theorem pxSend_now (i o : Nat) (w : List Word) (s : State) :
    (s.pxSend i o w).now = s.now := by
  obtain ⟨_, _, _, _, h⟩ := pxSend_only i o w s
  rw [h]
@[simp] theorem pxSend_freeNo (i o : Nat) (w : List Word) (s : State) :
    (s.pxSend i o w).freeNo = s.freeNo := by
  obtain ⟨_, _, _, _, h⟩ := pxSend_only i o w s
  rw [h]
@[simp] theorem pxSend_members (i o : Nat) (w : List Word) (s : State) :
    (s.pxSend i o w).members = s.members := by
  obtain ⟨_, _, _, _, h⟩ := pxSend_only i o w s
  rw [h]
@[simp] theorem pxSend_gradeE (i o : Nat) (w : List Word) (s : State) :
    (s.pxSend i o w).gradeE = s.gradeE := by
  obtain ⟨_, _, _, _, h⟩ := pxSend_only i o w s
  rw [h]
@[simp] theorem pxSend_chans (i o : Nat) (w : List Word) (s : State) :
    (s.pxSend i o w).chans = s.chans := by
  obtain ⟨_, _, _, _, h⟩ := pxSend_only i o w s
  rw [h]
@[simp] theorem pxSend_frozen (i o : Nat) (w : List Word) (s : State) :
    (s.pxSend i o w).frozen = s.frozen := by
  obtain ⟨_, _, _, _, h⟩ := pxSend_only i o w s
  rw [h]
@[simp] theorem pxSend_ctxs (i o : Nat) (w : List Word) (s : State) :
    (s.pxSend i o w).ctxs = s.ctxs := by
  obtain ⟨_, _, _, _, h⟩ := pxSend_only i o w s
  rw [h]
@[simp] theorem pxSend_journal (i o : Nat) (w : List Word) (s : State) :
    (s.pxSend i o w).journal = s.journal := by
  obtain ⟨_, _, _, _, h⟩ := pxSend_only i o w s
  rw [h]
@[simp] theorem pxSend_dram (i o : Nat) (w : List Word) (s : State) :
    (s.pxSend i o w).dram = s.dram := by
  obtain ⟨_, _, _, _, h⟩ := pxSend_only i o w s
  rw [h]
@[simp] theorem pxSend_host (i o : Nat) (w : List Word) (s : State) :
    (s.pxSend i o w).host = s.host := by
  obtain ⟨_, _, _, _, h⟩ := pxSend_only i o w s
  rw [h]
@[simp] theorem pxSend_thm (i o : Nat) (w : List Word) (s : State) :
    (s.pxSend i o w).thm = s.thm := by
  obtain ⟨_, _, _, _, h⟩ := pxSend_only i o w s
  rw [h]
@[simp] theorem pxSend_lanes (i o : Nat) (w : List Word) (s : State) :
    (s.pxSend i o w).lanes = s.lanes := by
  obtain ⟨_, _, _, _, h⟩ := pxSend_only i o w s
  rw [h]
@[simp] theorem pxSend_pwr (i o : Nat) (w : List Word) (s : State) :
    (s.pxSend i o w).pwr = s.pwr := by
  obtain ⟨_, _, _, _, h⟩ := pxSend_only i o w s
  rw [h]
@[simp] theorem pxSend_hoop (i o : Nat) (w : List Word) (s : State) :
    (s.pxSend i o w).hoop = s.hoop := by
  obtain ⟨_, _, _, _, h⟩ := pxSend_only i o w s
  rw [h]
@[simp] theorem pxSend_otp (i o : Nat) (w : List Word) (s : State) :
    (s.pxSend i o w).otp = s.otp := by
  obtain ⟨_, _, _, _, h⟩ := pxSend_only i o w s
  rw [h]
@[simp] theorem pxSend_smb (i o : Nat) (w : List Word) (s : State) :
    (s.pxSend i o w).smb = s.smb := by
  obtain ⟨_, _, _, _, h⟩ := pxSend_only i o w s
  rw [h]
@[simp] theorem pxSend_idDefault (i o : Nat) (w : List Word) (s : State) :
    (s.pxSend i o w).idDefault = s.idDefault := by
  obtain ⟨_, _, _, _, h⟩ := pxSend_only i o w s
  rw [h]
@[simp] theorem pxSend_serial (i o : Nat) (w : List Word) (s : State) :
    (s.pxSend i o w).serial = s.serial := by
  obtain ⟨_, _, _, _, h⟩ := pxSend_only i o w s
  rw [h]
@[simp] theorem pxSend_chan (i o : Nat) (w : List Word) (s : State) (k : Nat) : (s.pxSend i o w).chan k = s.chan k := by
  unfold State.chan; simp
@[simp] theorem pxSend_ctx (i o : Nat) (w : List Word) (s : State) (k : Nat) : (s.pxSend i o w).ctx k = s.ctx k := by
  unfold State.ctx; simp
@[simp] theorem pxSend_cell (i o : Nat) (w : List Word) (s : State) (k z : Nat) : (s.pxSend i o w).cell k z = s.cell k z := by
  unfold State.cell; simp

/-! `State.proxyWrite`. -/

@[simp] theorem proxyWrite_pending (i a : Nat) (d : List Byte) (s : State) :
    (s.proxyWrite i a d).pending = s.pending := by
  obtain ⟨_, _, _, _, h⟩ := proxyWrite_only i a d s
  rw [h]
@[simp] theorem proxyWrite_now (i a : Nat) (d : List Byte) (s : State) :
    (s.proxyWrite i a d).now = s.now := by
  obtain ⟨_, _, _, _, h⟩ := proxyWrite_only i a d s
  rw [h]
@[simp] theorem proxyWrite_freeNo (i a : Nat) (d : List Byte) (s : State) :
    (s.proxyWrite i a d).freeNo = s.freeNo := by
  obtain ⟨_, _, _, _, h⟩ := proxyWrite_only i a d s
  rw [h]
@[simp] theorem proxyWrite_members (i a : Nat) (d : List Byte) (s : State) :
    (s.proxyWrite i a d).members = s.members := by
  obtain ⟨_, _, _, _, h⟩ := proxyWrite_only i a d s
  rw [h]
@[simp] theorem proxyWrite_gradeE (i a : Nat) (d : List Byte) (s : State) :
    (s.proxyWrite i a d).gradeE = s.gradeE := by
  obtain ⟨_, _, _, _, h⟩ := proxyWrite_only i a d s
  rw [h]
@[simp] theorem proxyWrite_chans (i a : Nat) (d : List Byte) (s : State) :
    (s.proxyWrite i a d).chans = s.chans := by
  obtain ⟨_, _, _, _, h⟩ := proxyWrite_only i a d s
  rw [h]
@[simp] theorem proxyWrite_frozen (i a : Nat) (d : List Byte) (s : State) :
    (s.proxyWrite i a d).frozen = s.frozen := by
  obtain ⟨_, _, _, _, h⟩ := proxyWrite_only i a d s
  rw [h]
@[simp] theorem proxyWrite_ctxs (i a : Nat) (d : List Byte) (s : State) :
    (s.proxyWrite i a d).ctxs = s.ctxs := by
  obtain ⟨_, _, _, _, h⟩ := proxyWrite_only i a d s
  rw [h]
@[simp] theorem proxyWrite_journal (i a : Nat) (d : List Byte) (s : State) :
    (s.proxyWrite i a d).journal = s.journal := by
  obtain ⟨_, _, _, _, h⟩ := proxyWrite_only i a d s
  rw [h]
@[simp] theorem proxyWrite_dram (i a : Nat) (d : List Byte) (s : State) :
    (s.proxyWrite i a d).dram = s.dram := by
  obtain ⟨_, _, _, _, h⟩ := proxyWrite_only i a d s
  rw [h]
@[simp] theorem proxyWrite_host (i a : Nat) (d : List Byte) (s : State) :
    (s.proxyWrite i a d).host = s.host := by
  obtain ⟨_, _, _, _, h⟩ := proxyWrite_only i a d s
  rw [h]
@[simp] theorem proxyWrite_thm (i a : Nat) (d : List Byte) (s : State) :
    (s.proxyWrite i a d).thm = s.thm := by
  obtain ⟨_, _, _, _, h⟩ := proxyWrite_only i a d s
  rw [h]
@[simp] theorem proxyWrite_lanes (i a : Nat) (d : List Byte) (s : State) :
    (s.proxyWrite i a d).lanes = s.lanes := by
  obtain ⟨_, _, _, _, h⟩ := proxyWrite_only i a d s
  rw [h]
@[simp] theorem proxyWrite_pwr (i a : Nat) (d : List Byte) (s : State) :
    (s.proxyWrite i a d).pwr = s.pwr := by
  obtain ⟨_, _, _, _, h⟩ := proxyWrite_only i a d s
  rw [h]
@[simp] theorem proxyWrite_hoop (i a : Nat) (d : List Byte) (s : State) :
    (s.proxyWrite i a d).hoop = s.hoop := by
  obtain ⟨_, _, _, _, h⟩ := proxyWrite_only i a d s
  rw [h]
@[simp] theorem proxyWrite_otp (i a : Nat) (d : List Byte) (s : State) :
    (s.proxyWrite i a d).otp = s.otp := by
  obtain ⟨_, _, _, _, h⟩ := proxyWrite_only i a d s
  rw [h]
@[simp] theorem proxyWrite_smb (i a : Nat) (d : List Byte) (s : State) :
    (s.proxyWrite i a d).smb = s.smb := by
  obtain ⟨_, _, _, _, h⟩ := proxyWrite_only i a d s
  rw [h]
@[simp] theorem proxyWrite_idDefault (i a : Nat) (d : List Byte) (s : State) :
    (s.proxyWrite i a d).idDefault = s.idDefault := by
  obtain ⟨_, _, _, _, h⟩ := proxyWrite_only i a d s
  rw [h]
@[simp] theorem proxyWrite_serial (i a : Nat) (d : List Byte) (s : State) :
    (s.proxyWrite i a d).serial = s.serial := by
  obtain ⟨_, _, _, _, h⟩ := proxyWrite_only i a d s
  rw [h]
@[simp] theorem proxyWrite_chan (i a : Nat) (d : List Byte) (s : State) (k : Nat) : (s.proxyWrite i a d).chan k = s.chan k := by
  unfold State.chan; simp
@[simp] theorem proxyWrite_ctx (i a : Nat) (d : List Byte) (s : State) (k : Nat) : (s.proxyWrite i a d).ctx k = s.ctx k := by
  unfold State.ctx; simp
@[simp] theorem proxyWrite_cell (i a : Nat) (d : List Byte) (s : State) (k z : Nat) : (s.proxyWrite i a d).cell k z = s.cell k z := by
  unfold State.cell; simp

/-! `State.hostWrite`. -/

@[simp] theorem hostWrite_pending (a : Nat) (d : List Byte) (s : State) :
    (s.hostWrite a d).pending = s.pending := by
  obtain ⟨_, _, _, _, h⟩ := hostWrite_only a d s
  rw [h]
@[simp] theorem hostWrite_now (a : Nat) (d : List Byte) (s : State) :
    (s.hostWrite a d).now = s.now := by
  obtain ⟨_, _, _, _, h⟩ := hostWrite_only a d s
  rw [h]
@[simp] theorem hostWrite_freeNo (a : Nat) (d : List Byte) (s : State) :
    (s.hostWrite a d).freeNo = s.freeNo := by
  obtain ⟨_, _, _, _, h⟩ := hostWrite_only a d s
  rw [h]
@[simp] theorem hostWrite_members (a : Nat) (d : List Byte) (s : State) :
    (s.hostWrite a d).members = s.members := by
  obtain ⟨_, _, _, _, h⟩ := hostWrite_only a d s
  rw [h]
@[simp] theorem hostWrite_gradeE (a : Nat) (d : List Byte) (s : State) :
    (s.hostWrite a d).gradeE = s.gradeE := by
  obtain ⟨_, _, _, _, h⟩ := hostWrite_only a d s
  rw [h]
@[simp] theorem hostWrite_chans (a : Nat) (d : List Byte) (s : State) :
    (s.hostWrite a d).chans = s.chans := by
  obtain ⟨_, _, _, _, h⟩ := hostWrite_only a d s
  rw [h]
@[simp] theorem hostWrite_frozen (a : Nat) (d : List Byte) (s : State) :
    (s.hostWrite a d).frozen = s.frozen := by
  obtain ⟨_, _, _, _, h⟩ := hostWrite_only a d s
  rw [h]
@[simp] theorem hostWrite_ctxs (a : Nat) (d : List Byte) (s : State) :
    (s.hostWrite a d).ctxs = s.ctxs := by
  obtain ⟨_, _, _, _, h⟩ := hostWrite_only a d s
  rw [h]
@[simp] theorem hostWrite_journal (a : Nat) (d : List Byte) (s : State) :
    (s.hostWrite a d).journal = s.journal := by
  obtain ⟨_, _, _, _, h⟩ := hostWrite_only a d s
  rw [h]
@[simp] theorem hostWrite_dram (a : Nat) (d : List Byte) (s : State) :
    (s.hostWrite a d).dram = s.dram := by
  obtain ⟨_, _, _, _, h⟩ := hostWrite_only a d s
  rw [h]
@[simp] theorem hostWrite_host (a : Nat) (d : List Byte) (s : State) :
    (s.hostWrite a d).host = s.host := by
  obtain ⟨_, _, _, _, h⟩ := hostWrite_only a d s
  rw [h]
@[simp] theorem hostWrite_thm (a : Nat) (d : List Byte) (s : State) :
    (s.hostWrite a d).thm = s.thm := by
  obtain ⟨_, _, _, _, h⟩ := hostWrite_only a d s
  rw [h]
@[simp] theorem hostWrite_lanes (a : Nat) (d : List Byte) (s : State) :
    (s.hostWrite a d).lanes = s.lanes := by
  obtain ⟨_, _, _, _, h⟩ := hostWrite_only a d s
  rw [h]
@[simp] theorem hostWrite_pwr (a : Nat) (d : List Byte) (s : State) :
    (s.hostWrite a d).pwr = s.pwr := by
  obtain ⟨_, _, _, _, h⟩ := hostWrite_only a d s
  rw [h]
@[simp] theorem hostWrite_hoop (a : Nat) (d : List Byte) (s : State) :
    (s.hostWrite a d).hoop = s.hoop := by
  obtain ⟨_, _, _, _, h⟩ := hostWrite_only a d s
  rw [h]
@[simp] theorem hostWrite_otp (a : Nat) (d : List Byte) (s : State) :
    (s.hostWrite a d).otp = s.otp := by
  obtain ⟨_, _, _, _, h⟩ := hostWrite_only a d s
  rw [h]
@[simp] theorem hostWrite_smb (a : Nat) (d : List Byte) (s : State) :
    (s.hostWrite a d).smb = s.smb := by
  obtain ⟨_, _, _, _, h⟩ := hostWrite_only a d s
  rw [h]
@[simp] theorem hostWrite_idDefault (a : Nat) (d : List Byte) (s : State) :
    (s.hostWrite a d).idDefault = s.idDefault := by
  obtain ⟨_, _, _, _, h⟩ := hostWrite_only a d s
  rw [h]
@[simp] theorem hostWrite_serial (a : Nat) (d : List Byte) (s : State) :
    (s.hostWrite a d).serial = s.serial := by
  obtain ⟨_, _, _, _, h⟩ := hostWrite_only a d s
  rw [h]
@[simp] theorem hostWrite_chan (a : Nat) (d : List Byte) (s : State) (k : Nat) : (s.hostWrite a d).chan k = s.chan k := by
  unfold State.chan; simp
@[simp] theorem hostWrite_ctx (a : Nat) (d : List Byte) (s : State) (k : Nat) : (s.hostWrite a d).ctx k = s.ctx k := by
  unfold State.ctx; simp
@[simp] theorem hostWrite_cell (a : Nat) (d : List Byte) (s : State) (k z : Nat) : (s.hostWrite a d).cell k z = s.cell k z := by
  unfold State.cell; simp

/-! `State.hostRead`. -/

@[simp] theorem hostRead_pending (a n : Nat) (s : State) :
    (s.hostRead a n).pending = s.pending := by
  obtain ⟨_, _, _, _, h⟩ := hostRead_only a n s
  rw [h]
@[simp] theorem hostRead_now (a n : Nat) (s : State) :
    (s.hostRead a n).now = s.now := by
  obtain ⟨_, _, _, _, h⟩ := hostRead_only a n s
  rw [h]
@[simp] theorem hostRead_freeNo (a n : Nat) (s : State) :
    (s.hostRead a n).freeNo = s.freeNo := by
  obtain ⟨_, _, _, _, h⟩ := hostRead_only a n s
  rw [h]
@[simp] theorem hostRead_members (a n : Nat) (s : State) :
    (s.hostRead a n).members = s.members := by
  obtain ⟨_, _, _, _, h⟩ := hostRead_only a n s
  rw [h]
@[simp] theorem hostRead_gradeE (a n : Nat) (s : State) :
    (s.hostRead a n).gradeE = s.gradeE := by
  obtain ⟨_, _, _, _, h⟩ := hostRead_only a n s
  rw [h]
@[simp] theorem hostRead_chans (a n : Nat) (s : State) :
    (s.hostRead a n).chans = s.chans := by
  obtain ⟨_, _, _, _, h⟩ := hostRead_only a n s
  rw [h]
@[simp] theorem hostRead_frozen (a n : Nat) (s : State) :
    (s.hostRead a n).frozen = s.frozen := by
  obtain ⟨_, _, _, _, h⟩ := hostRead_only a n s
  rw [h]
@[simp] theorem hostRead_ctxs (a n : Nat) (s : State) :
    (s.hostRead a n).ctxs = s.ctxs := by
  obtain ⟨_, _, _, _, h⟩ := hostRead_only a n s
  rw [h]
@[simp] theorem hostRead_journal (a n : Nat) (s : State) :
    (s.hostRead a n).journal = s.journal := by
  obtain ⟨_, _, _, _, h⟩ := hostRead_only a n s
  rw [h]
@[simp] theorem hostRead_dram (a n : Nat) (s : State) :
    (s.hostRead a n).dram = s.dram := by
  obtain ⟨_, _, _, _, h⟩ := hostRead_only a n s
  rw [h]
@[simp] theorem hostRead_host (a n : Nat) (s : State) :
    (s.hostRead a n).host = s.host := by
  obtain ⟨_, _, _, _, h⟩ := hostRead_only a n s
  rw [h]
@[simp] theorem hostRead_thm (a n : Nat) (s : State) :
    (s.hostRead a n).thm = s.thm := by
  obtain ⟨_, _, _, _, h⟩ := hostRead_only a n s
  rw [h]
@[simp] theorem hostRead_lanes (a n : Nat) (s : State) :
    (s.hostRead a n).lanes = s.lanes := by
  obtain ⟨_, _, _, _, h⟩ := hostRead_only a n s
  rw [h]
@[simp] theorem hostRead_pwr (a n : Nat) (s : State) :
    (s.hostRead a n).pwr = s.pwr := by
  obtain ⟨_, _, _, _, h⟩ := hostRead_only a n s
  rw [h]
@[simp] theorem hostRead_hoop (a n : Nat) (s : State) :
    (s.hostRead a n).hoop = s.hoop := by
  obtain ⟨_, _, _, _, h⟩ := hostRead_only a n s
  rw [h]
@[simp] theorem hostRead_otp (a n : Nat) (s : State) :
    (s.hostRead a n).otp = s.otp := by
  obtain ⟨_, _, _, _, h⟩ := hostRead_only a n s
  rw [h]
@[simp] theorem hostRead_smb (a n : Nat) (s : State) :
    (s.hostRead a n).smb = s.smb := by
  obtain ⟨_, _, _, _, h⟩ := hostRead_only a n s
  rw [h]
@[simp] theorem hostRead_idDefault (a n : Nat) (s : State) :
    (s.hostRead a n).idDefault = s.idDefault := by
  obtain ⟨_, _, _, _, h⟩ := hostRead_only a n s
  rw [h]
@[simp] theorem hostRead_serial (a n : Nat) (s : State) :
    (s.hostRead a n).serial = s.serial := by
  obtain ⟨_, _, _, _, h⟩ := hostRead_only a n s
  rw [h]
@[simp] theorem hostRead_chan (a n : Nat) (s : State) (k : Nat) : (s.hostRead a n).chan k = s.chan k := by
  unfold State.chan; simp
@[simp] theorem hostRead_ctx (a n : Nat) (s : State) (k : Nat) : (s.hostRead a n).ctx k = s.ctx k := by
  unfold State.ctx; simp
@[simp] theorem hostRead_cell (a n : Nat) (s : State) (k z : Nat) : (s.hostRead a n).cell k z = s.cell k z := by
  unfold State.cell; simp

/-! `State.writeRecord`. -/

@[simp] theorem writeRecord_pending (j : JRec) (s : State) :
    (s.writeRecord j).pending = s.pending := by
  obtain ⟨_, _, _, _, h⟩ := writeRecord_only j s
  rw [h]
@[simp] theorem writeRecord_now (j : JRec) (s : State) :
    (s.writeRecord j).now = s.now := by
  obtain ⟨_, _, _, _, h⟩ := writeRecord_only j s
  rw [h]
@[simp] theorem writeRecord_freeNo (j : JRec) (s : State) :
    (s.writeRecord j).freeNo = s.freeNo := by
  obtain ⟨_, _, _, _, h⟩ := writeRecord_only j s
  rw [h]
@[simp] theorem writeRecord_members (j : JRec) (s : State) :
    (s.writeRecord j).members = s.members := by
  obtain ⟨_, _, _, _, h⟩ := writeRecord_only j s
  rw [h]
@[simp] theorem writeRecord_gradeE (j : JRec) (s : State) :
    (s.writeRecord j).gradeE = s.gradeE := by
  obtain ⟨_, _, _, _, h⟩ := writeRecord_only j s
  rw [h]
@[simp] theorem writeRecord_chans (j : JRec) (s : State) :
    (s.writeRecord j).chans = s.chans := by
  obtain ⟨_, _, _, _, h⟩ := writeRecord_only j s
  rw [h]
@[simp] theorem writeRecord_frozen (j : JRec) (s : State) :
    (s.writeRecord j).frozen = s.frozen := by
  obtain ⟨_, _, _, _, h⟩ := writeRecord_only j s
  rw [h]
@[simp] theorem writeRecord_ctxs (j : JRec) (s : State) :
    (s.writeRecord j).ctxs = s.ctxs := by
  obtain ⟨_, _, _, _, h⟩ := writeRecord_only j s
  rw [h]
@[simp] theorem writeRecord_journal (j : JRec) (s : State) :
    (s.writeRecord j).journal = s.journal := by
  obtain ⟨_, _, _, _, h⟩ := writeRecord_only j s
  rw [h]
@[simp] theorem writeRecord_dram (j : JRec) (s : State) :
    (s.writeRecord j).dram = s.dram := by
  obtain ⟨_, _, _, _, h⟩ := writeRecord_only j s
  rw [h]
@[simp] theorem writeRecord_host (j : JRec) (s : State) :
    (s.writeRecord j).host = s.host := by
  obtain ⟨_, _, _, _, h⟩ := writeRecord_only j s
  rw [h]
@[simp] theorem writeRecord_thm (j : JRec) (s : State) :
    (s.writeRecord j).thm = s.thm := by
  obtain ⟨_, _, _, _, h⟩ := writeRecord_only j s
  rw [h]
@[simp] theorem writeRecord_lanes (j : JRec) (s : State) :
    (s.writeRecord j).lanes = s.lanes := by
  obtain ⟨_, _, _, _, h⟩ := writeRecord_only j s
  rw [h]
@[simp] theorem writeRecord_pwr (j : JRec) (s : State) :
    (s.writeRecord j).pwr = s.pwr := by
  obtain ⟨_, _, _, _, h⟩ := writeRecord_only j s
  rw [h]
@[simp] theorem writeRecord_hoop (j : JRec) (s : State) :
    (s.writeRecord j).hoop = s.hoop := by
  obtain ⟨_, _, _, _, h⟩ := writeRecord_only j s
  rw [h]
@[simp] theorem writeRecord_otp (j : JRec) (s : State) :
    (s.writeRecord j).otp = s.otp := by
  obtain ⟨_, _, _, _, h⟩ := writeRecord_only j s
  rw [h]
@[simp] theorem writeRecord_smb (j : JRec) (s : State) :
    (s.writeRecord j).smb = s.smb := by
  obtain ⟨_, _, _, _, h⟩ := writeRecord_only j s
  rw [h]
@[simp] theorem writeRecord_idDefault (j : JRec) (s : State) :
    (s.writeRecord j).idDefault = s.idDefault := by
  obtain ⟨_, _, _, _, h⟩ := writeRecord_only j s
  rw [h]
@[simp] theorem writeRecord_serial (j : JRec) (s : State) :
    (s.writeRecord j).serial = s.serial := by
  obtain ⟨_, _, _, _, h⟩ := writeRecord_only j s
  rw [h]
@[simp] theorem writeRecord_chan (j : JRec) (s : State) (k : Nat) : (s.writeRecord j).chan k = s.chan k := by
  unfold State.chan; simp
@[simp] theorem writeRecord_ctx (j : JRec) (s : State) (k : Nat) : (s.writeRecord j).ctx k = s.ctx k := by
  unfold State.ctx; simp
@[simp] theorem writeRecord_cell (j : JRec) (s : State) (k z : Nat) : (s.writeRecord j).cell k z = s.cell k z := by
  unfold State.cell; simp

/-! `State.sendMsix`. -/

@[simp] theorem sendMsix_pending (n : Nat) (s : State) : (s.sendMsix n).pending = s.pending := by
  unfold State.sendMsix; split <;> simp
@[simp] theorem sendMsix_now (n : Nat) (s : State) : (s.sendMsix n).now = s.now := by
  unfold State.sendMsix; split <;> simp
@[simp] theorem sendMsix_freeNo (n : Nat) (s : State) : (s.sendMsix n).freeNo = s.freeNo := by
  unfold State.sendMsix; split <;> simp
@[simp] theorem sendMsix_members (n : Nat) (s : State) : (s.sendMsix n).members = s.members := by
  unfold State.sendMsix; split <;> simp
@[simp] theorem sendMsix_gradeE (n : Nat) (s : State) : (s.sendMsix n).gradeE = s.gradeE := by
  unfold State.sendMsix; split <;> simp
@[simp] theorem sendMsix_chans (n : Nat) (s : State) : (s.sendMsix n).chans = s.chans := by
  unfold State.sendMsix; split <;> simp
@[simp] theorem sendMsix_frozen (n : Nat) (s : State) : (s.sendMsix n).frozen = s.frozen := by
  unfold State.sendMsix; split <;> simp
@[simp] theorem sendMsix_journal (n : Nat) (s : State) : (s.sendMsix n).journal = s.journal := by
  unfold State.sendMsix; split <;> simp
@[simp] theorem sendMsix_dram (n : Nat) (s : State) : (s.sendMsix n).dram = s.dram := by
  unfold State.sendMsix; split <;> simp
@[simp] theorem sendMsix_host (n : Nat) (s : State) : (s.sendMsix n).host = s.host := by
  unfold State.sendMsix; split <;> simp
@[simp] theorem sendMsix_thm (n : Nat) (s : State) : (s.sendMsix n).thm = s.thm := by
  unfold State.sendMsix; split <;> simp
@[simp] theorem sendMsix_lanes (n : Nat) (s : State) : (s.sendMsix n).lanes = s.lanes := by
  unfold State.sendMsix; split <;> simp
@[simp] theorem sendMsix_tor (n : Nat) (s : State) : (s.sendMsix n).tor = s.tor := by
  unfold State.sendMsix; split <;> simp
@[simp] theorem sendMsix_pwr (n : Nat) (s : State) : (s.sendMsix n).pwr = s.pwr := by
  unfold State.sendMsix; split <;> simp
@[simp] theorem sendMsix_hoop (n : Nat) (s : State) : (s.sendMsix n).hoop = s.hoop := by
  unfold State.sendMsix; split <;> simp
@[simp] theorem sendMsix_otp (n : Nat) (s : State) : (s.sendMsix n).otp = s.otp := by
  unfold State.sendMsix; split <;> simp
@[simp] theorem sendMsix_smb (n : Nat) (s : State) : (s.sendMsix n).smb = s.smb := by
  unfold State.sendMsix; split <;> simp
@[simp] theorem sendMsix_idDefault (n : Nat) (s : State) : (s.sendMsix n).idDefault = s.idDefault := by
  unfold State.sendMsix; split <;> simp
@[simp] theorem sendMsix_serial (n : Nat) (s : State) : (s.sendMsix n).serial = s.serial := by
  unfold State.sendMsix; split <;> simp

theorem sendMsix_ctx (n k : Nat) (s : State) : (s.sendMsix n).ctx k = s.ctx k ∨
    k = n ∧ (s.sendMsix n).ctx k = { s.ctx k with unsent := 0 } := by
  unfold State.sendMsix
  split
  · by_cases h : k = n
    · exact .inr ⟨h, by simp [h]⟩
    · exact .inl (by simp [ctx_modCtx, h])
  · exact .inl rfl

end Sys2Proof.Laws
end

