-- ==== Sys2Proof/Laws/Records.lean ====
section
/-! SUPPORT. An outcome given to a descriptor stays: what ends it and what commits it lead to its record (R153 to R156). -/

namespace Sys2Proof.Laws

open Sys2Proof Sys2Proof.Machine

/-- What a startable descriptor is. -/
theorem startable_spec {s : State} {n op : Nat} {d : Desc} (h : s.startable n op = some d) :
    d ∈ (s.ctx n).acc ∧ d.phase = .waiting ∧ d.op = op := by
  unfold State.startable at h
  dsimp only at h
  split at h
  · next x l e =>
    split at h
    · next g =>
      obtain rfl : x = d := by simpa using h
      have hm : x ∈ (s.ctx n).acc := (List.dropWhile_suffix _).subset (e ▸ List.mem_cons_self)
      have hw := List.head?_dropWhile_not (fun (y : Desc) => y.phase != .waiting) (s.ctx n).acc
      rw [e] at hw
      simp only [Bool.and_eq_true, decide_eq_true_eq] at g
      exact ⟨hm, by simpa using hw, g.1.1⟩
    · simp at h
  · simp at h

/-- What a started descriptor is. -/
theorem startedOp_spec {s : State} {n op : Nat} {d : Desc} (h : s.startedOp n op = some d) :
    d ∈ (s.ctx n).acc ∧ d.phase = .started ∧ d.op = op := by
  unfold State.startedOp at h
  have a := List.mem_of_find?_eq_some h
  have b := List.find?_some h
  simp only [Bool.and_eq_true, beq_iff_eq] at b
  exact ⟨a, b.2, b.1⟩

/-- A context that keeps its finished descriptors, and a journal that keeps its records, keep the outcome. -/
theorem answered_mono {n q st : Nat} {s t : State}
    (hc : ∀ d ∈ (s.ctx n).acc, d.phase = .done → d ∈ (t.ctx n).acc) (hj : ∀ j ∈ s.journal, j ∈ t.journal)
    (h : Answered n q st s) : Answered n q st t := by
  rcases h with ⟨d, hd, hq, hp, hs⟩ | ⟨j, hm, hj'⟩
  · exact .inl ⟨d, hc d hd hp, hq, hp, hs⟩
  · exact .inr ⟨j, hj j hm, hj'⟩

theorem Ctx.finish_keeps (c : Ctx) (q st i r : Nat) {d : Desc} (hd : d ∈ c.acc) (hp : d.phase = .done) :
    d ∈ (c.finish q st i r).acc := by
  unfold Ctx.finish
  exact List.mem_map.2 ⟨d, hd, by simp [hp]⟩

theorem sendMsix_acc (n k : Nat) (s : State) : ((s.sendMsix n).ctx k).acc = (s.ctx k).acc := by
  rcases sendMsix_ctx n k s with h | ⟨_, h⟩ <;> rw [h]

theorem commitEffect_ctxs (d : Desc) (s : State) : (s.commitEffect d).ctxs = s.ctxs := by
  unfold State.commitEffect State.lostEnds
  split
  · split <;> simp
  · rfl

theorem commitOne_answered {n q st : Nat} {s : State} (k : Nat) (h : Answered n q st s) : Answered n q st (s.commitOne k) := by
  unfold State.commitOne
  dsimp only
  split
  · exact h
  · next d rest e =>
    split
    · exact h
    · next g =>
      have fin (t : State) (ha : ∀ m, (t.ctx m).acc = if m = k then rest else (s.ctx m).acc)
          (hj : ∃ j, t.journal = s.journal ++ [j] ∧ j.ctx = k ∧ j.seq = d.seq ∧ j.w0 = recW0 d.seq d.status) :
          Answered n q st t := by
        obtain ⟨j, hj, hc, hq, hw⟩ := hj
        rcases h with ⟨x, hx, hxq, hxp, hxs⟩ | ⟨y, hy, hy'⟩
        · by_cases hn : n = k
          · subst hn
            rw [e] at hx
            rcases List.mem_cons.1 hx with rfl | hx
            · exact .inr ⟨j, by simp [hj], hc, hq.trans hxq, by rw [hw, hxq, hxs]⟩
            · exact .inl ⟨x, by simpa [ha] using hx, hxq, hxp, hxs⟩
          · exact .inl ⟨x, by simpa [ha, hn] using hx, hxq, hxp, hxs⟩
        · exact .inr ⟨y, by simp [hj, hy], hy'⟩
      generalize (if isDaOp d.op = true then s.daInfo d else d.info) = info
      generalize (if longRecord d.op = true then 2 else 1) = step
      split
      · refine fin _ (fun m => ?_) ⟨_, (sendMsix_journal _ _).trans ((count_journal _ _ _ _ _).trans ((writeRecord_journal _ _).trans rfl)), rfl, rfl, rfl⟩
        rw [sendMsix_acc]
        by_cases hm : m = k <;> simp [hm, ctx_modCtx]
        exact congrArg (fun l => (Sparse.get {} l m).acc) (commitEffect_ctxs d s)
      · refine fin _ (fun m => ?_) ⟨_, (count_journal _ _ _ _ _).trans ((writeRecord_journal _ _).trans rfl), rfl, rfl, rfl⟩
        by_cases hm : m = k <;> simp [hm, ctx_modCtx]
        exact congrArg (fun l => (Sparse.get {} l m).acc) (commitEffect_ctxs d s)

theorem commitAll_answered {n q st : Nat} (i k : Nat) {s : State} (h : Answered n q st s) :
    Answered n q st (State.commitAll i k s) := by
  induction i generalizing s with
  | zero => exact h
  | succ i ih => exact ih (commitOne_answered k h)

/-- The answer of a disable keeps every outcome. -/
theorem disabled_answered {n q st : Nat} (k : Nat) (x : Nat × Option Nat) {s : State} (h : Answered n q st s) :
    Answered n q st (s.disabled k x) := by
  unfold State.disabled
  split
  · exact h
  · refine answered_mono (s := s) (fun d hd hp => ?_) (fun j hj => hj) h
    rw [ctx_modCtx]
    split
    · next e => subst e; exact Ctx.finish_keeps _ _ _ _ _ hd hp
    · exact hd

theorem answered_foldl {α : Type} {n q st : Nat} {f : State → α → State} {l : List α} {s : State}
    (hf : ∀ s x, Answered n q st s → Answered n q st (f s x)) (h : Answered n q st s) : Answered n q st (l.foldl f s) := by
  induction l generalizing s with
  | nil => exact h
  | cons x l ih => exact ih (hf s x h)

theorem settleDisable_answered {n q st : Nat} (k : Nat) {s : State} (h : Answered n q st s) :
    Answered n q st (s.settleDisable k) := by
  unfold State.settleDisable
  dsimp only
  split
  · exact h
  · refine answered_foldl (fun s x h => disabled_answered k x h) (answered_mono (s := s) (fun d hd _ => ?_) (fun j hj => by simpa using hj) h)
    rw [condEnd_ctx, ctx_modCtx]
    split
    · next e => subst e; exact hd
    · exact hd

theorem drainBy_answered {n q st : Nat} (i k : Nat) {s : State} (h : Answered n q st s) :
    Answered n q st (State.drainBy i k s) := by
  induction i generalizing k s with
  | zero => exact h
  | succ i ih => exact answered_foldl (fun _ o h => ih o h) (settleDisable_answered _ (commitAll_answered _ _ h))

theorem drain_answered {n q st : Nat} (k : Nat) {s : State} (h : Answered n q st s) : Answered n q st (s.drain k) :=
  drainBy_answered 17 k h

theorem drainEvery_answered {n q st : Nat} {s : State} (h : Answered n q st s) : Answered n q st s.drainEvery := by
  unfold State.drainEvery
  generalize s.ctxs.map (·.1) = l
  induction l generalizing s with
  | nil => exact h
  | cons x l ih => exact ih (drain_answered x h)

/-- A descriptor without an outcome gets the one it is given. -/
theorem finish_answered {n : Nat} {s : State} {d : Desc} (hd : d ∈ (s.ctx n).acc) (hp : d.phase ≠ .done) (st info result : Nat) :
    Answered n d.seq st (s.finish n d.seq st info result) := by
  refine drain_answered n (.inl ⟨{ d with phase := .done, status := st, info, result }, ?_, rfl, rfl, rfl⟩)
  rw [ctx_modCtx_same]
  unfold Ctx.finish
  exact List.mem_map.2 ⟨d, hd, by simp [hp]⟩

/-- An outcome stays when another descriptor gets its own. -/
theorem finish_keeps_answered {n q st k p st' i r : Nat} {s : State} (h : Answered n q st s) :
    Answered n q st (s.finish k p st' i r) := by
  refine drain_answered k (answered_mono (fun d hd hp => ?_) (fun j hj => by simpa using hj) h)
  rw [ctx_modCtx]
  split
  · next e => subst e; exact Ctx.finish_keeps _ _ _ _ _ hd hp
  · exact hd

/-- A descriptor that a change marks as started is begun. -/
theorem modDesc_begun {n : Nat} {s : State} {d : Desc} (hd : d ∈ (s.ctx n).acc) (f : Desc → Desc) (hq : (f d).seq = d.seq)
    (hf : (f d).phase = .started) : Begun n d.seq (s.modDesc n d.seq f) := by
  refine ⟨f d, ?_, hq, hf⟩
  unfold State.modDesc
  rw [ctx_modCtx_same]
  exact List.mem_map.2 ⟨d, hd, by simp⟩

end Sys2Proof.Laws
end

