-- ==== Sys2Proof/Laws/Commits.lean ====
section
/-! SUPPORT. What completing and committing descriptors leave alone (R153 to R156): only channels (INIT), contexts, the journal, the host
interface, the torus state, the outputs, the fault log and the counters change. -/

namespace Sys2Proof.Laws

open Sys2Proof Sys2Proof.Machine

/-- Only what a commit touches differs. -/
def OnlyCommit (s t : State) : Prop :=
  ∃ b c j h o r f k, t = { s with chans := b, ctxs := c, journal := j, host := h, out := o, tor := r, flt := f, cnt := k }

theorem OnlyCommit.refl (s : State) : OnlyCommit s s := ⟨s.chans, s.ctxs, s.journal, s.host, s.out, s.tor, s.flt, s.cnt, rfl⟩

theorem OnlyCommit.trans {a b c : State} (h : OnlyCommit a b) (k : OnlyCommit b c) : OnlyCommit a c := by
  obtain ⟨_, _, _, _, _, _, _, _, rfl⟩ := h
  obtain ⟨_, _, _, _, _, _, _, _, rfl⟩ := k
  exact ⟨_, _, _, _, _, _, _, _, rfl⟩

theorem OnlyNet.commit {a b : State} (h : OnlyNet a b) : OnlyCommit a b := by
  obtain ⟨_, _, _, _, rfl⟩ := h
  exact ⟨a.chans, a.ctxs, a.journal, a.host, _, _, _, _, rfl⟩

theorem modCtx_commit (n : Nat) (f : Ctx → Ctx) (s : State) : OnlyCommit s (s.modCtx n f) :=
  ⟨s.chans, _, s.journal, s.host, s.out, s.tor, s.flt, s.cnt, rfl⟩

theorem OnlyCommit.foldl {α : Type} {f : State → α → State} {l : List α} {s : State} (hf : ∀ s x, OnlyCommit s (f s x)) :
    OnlyCommit s (l.foldl f s) := by
  induction l generalizing s with
  | nil => exact .refl _
  | cons x l ih => exact (hf s x).trans ih

theorem modDesc_commit (n q : Nat) (f : Desc → Desc) (s : State) : OnlyCommit s (s.modDesc n q f) := modCtx_commit _ _ s

theorem sendMsix_commit (n : Nat) (s : State) : OnlyCommit s (s.sendMsix n) := by
  unfold State.sendMsix
  split
  · refine OnlyCommit.trans ?_ (count_only _ _ _ _ _).net.commit
    exact OnlyCommit.trans ⟨s.chans, s.ctxs, s.journal, s.host, _, s.tor, s.flt, s.cnt, rfl⟩ (modCtx_commit _ _ _)
  · exact .refl _

theorem commitEffect_commit (d : Desc) (s : State) : OnlyCommit s (s.commitEffect d) := by
  unfold State.commitEffect State.lostEnds
  split
  · refine OnlyCommit.trans (b := s.modChan d.ch fun c => c.fillInit d.first d.total) ?_ ?_
    · exact ⟨_, s.ctxs, s.journal, s.host, s.out, s.tor, s.flt, s.cnt, rfl⟩
    · split
      · exact (condEnd_only _ _ _ _).net.commit
      · exact .refl _
  · exact .refl _

theorem commitOne_commit (n : Nat) (s : State) : OnlyCommit s (s.commitOne n) := by
  unfold State.commitOne
  dsimp only
  split
  · exact .refl _
  · next d rest e =>
    split
    · exact .refl _
    · have put (s t : State) (j : JRec) (ht : OnlyCommit s t) :
          OnlyCommit s ((t.writeRecord j).count 0x110 none 1 fun q => q == n) :=
        ht.trans ((writeRecord_only _ _).commit.trans (count_only _ _ _ _ _).net.commit)
      generalize (if isDaOp d.op = true then s.daInfo d else d.info) = info
      generalize (if longRecord d.op = true then 2 else 1) = step
      have ef := commitEffect_commit d s
      generalize s.commitEffect d = e at ef
      have jo (j : List JRec) : OnlyCommit s { e with journal := j } :=
        ef.trans ⟨e.chans, e.ctxs, _, e.host, e.out, e.tor, e.flt, e.cnt, rfl⟩
      split
      · exact OnlyCommit.trans (put s _ _ (OnlyCommit.trans (jo _) (modCtx_commit _ _ _))) (sendMsix_commit _ _)
      · exact put s _ _ (OnlyCommit.trans (jo _) (modCtx_commit _ _ _))

theorem commitAll_commit (k n : Nat) (s : State) : OnlyCommit s (State.commitAll k n s) := by
  induction k generalizing s with
  | zero => exact .refl _
  | succ k ih => exact (commitOne_commit n s).trans (ih _)

theorem disabled_commit (n : Nat) (x : Nat × Option Nat) (s : State) : OnlyCommit s (s.disabled n x) := by
  unfold State.disabled
  split
  · exact ⟨s.chans, s.ctxs, s.journal, _, s.out, s.tor, s.flt, s.cnt, rfl⟩
  · exact modCtx_commit _ _ _

theorem settleDisable_commit (n : Nat) (s : State) : OnlyCommit s (s.settleDisable n) := by
  unfold State.settleDisable
  dsimp only
  split
  · exact .refl _
  · exact ((modCtx_commit _ _ _).trans (condEnd_only _ _ _ _).net.commit).trans (OnlyCommit.foldl fun _ _ => disabled_commit _ _ _)

theorem drainBy_commit (k n : Nat) (s : State) : OnlyCommit s (State.drainBy k n s) := by
  induction k generalizing n s with
  | zero => exact .refl _
  | succ k ih =>
    exact ((commitAll_commit _ _ _).trans (settleDisable_commit _ _)).trans (OnlyCommit.foldl fun _ _ => ih _ _)

theorem drain_commit (n : Nat) (s : State) : OnlyCommit s (s.drain n) := drainBy_commit 17 n s

theorem finish_commit (n q st i r : Nat) (s : State) : OnlyCommit s (s.finish n q st i r) :=
  (modCtx_commit _ _ _).trans (drain_commit _ _)

theorem drainEvery_commit (s : State) : OnlyCommit s s.drainEvery := OnlyCommit.foldl fun _ _ => drain_commit _ _

@[simp] theorem modDesc_pending (n q : Nat) (f : Desc → Desc) (s : State) : (s.modDesc n q f).pending = s.pending := by
  obtain ⟨_, _, _, _, _, _, _, _, h⟩ := modDesc_commit n q f s
  rw [h]
@[simp] theorem modDesc_now (n q : Nat) (f : Desc → Desc) (s : State) : (s.modDesc n q f).now = s.now := by
  obtain ⟨_, _, _, _, _, _, _, _, h⟩ := modDesc_commit n q f s
  rw [h]
@[simp] theorem modDesc_freeNo (n q : Nat) (f : Desc → Desc) (s : State) : (s.modDesc n q f).freeNo = s.freeNo := by
  obtain ⟨_, _, _, _, _, _, _, _, h⟩ := modDesc_commit n q f s
  rw [h]
@[simp] theorem modDesc_members (n q : Nat) (f : Desc → Desc) (s : State) : (s.modDesc n q f).members = s.members := by
  obtain ⟨_, _, _, _, _, _, _, _, h⟩ := modDesc_commit n q f s
  rw [h]
@[simp] theorem modDesc_gradeE (n q : Nat) (f : Desc → Desc) (s : State) : (s.modDesc n q f).gradeE = s.gradeE := by
  obtain ⟨_, _, _, _, _, _, _, _, h⟩ := modDesc_commit n q f s
  rw [h]
@[simp] theorem modDesc_frozen (n q : Nat) (f : Desc → Desc) (s : State) : (s.modDesc n q f).frozen = s.frozen := by
  obtain ⟨_, _, _, _, _, _, _, _, h⟩ := modDesc_commit n q f s
  rw [h]
@[simp] theorem modDesc_dram (n q : Nat) (f : Desc → Desc) (s : State) : (s.modDesc n q f).dram = s.dram := by
  obtain ⟨_, _, _, _, _, _, _, _, h⟩ := modDesc_commit n q f s
  rw [h]
@[simp] theorem modDesc_thm (n q : Nat) (f : Desc → Desc) (s : State) : (s.modDesc n q f).thm = s.thm := by
  obtain ⟨_, _, _, _, _, _, _, _, h⟩ := modDesc_commit n q f s
  rw [h]
@[simp] theorem modDesc_lanes (n q : Nat) (f : Desc → Desc) (s : State) : (s.modDesc n q f).lanes = s.lanes := by
  obtain ⟨_, _, _, _, _, _, _, _, h⟩ := modDesc_commit n q f s
  rw [h]
@[simp] theorem modDesc_pwr (n q : Nat) (f : Desc → Desc) (s : State) : (s.modDesc n q f).pwr = s.pwr := by
  obtain ⟨_, _, _, _, _, _, _, _, h⟩ := modDesc_commit n q f s
  rw [h]
@[simp] theorem modDesc_hoop (n q : Nat) (f : Desc → Desc) (s : State) : (s.modDesc n q f).hoop = s.hoop := by
  obtain ⟨_, _, _, _, _, _, _, _, h⟩ := modDesc_commit n q f s
  rw [h]
@[simp] theorem modDesc_otp (n q : Nat) (f : Desc → Desc) (s : State) : (s.modDesc n q f).otp = s.otp := by
  obtain ⟨_, _, _, _, _, _, _, _, h⟩ := modDesc_commit n q f s
  rw [h]
@[simp] theorem modDesc_smb (n q : Nat) (f : Desc → Desc) (s : State) : (s.modDesc n q f).smb = s.smb := by
  obtain ⟨_, _, _, _, _, _, _, _, h⟩ := modDesc_commit n q f s
  rw [h]
@[simp] theorem modDesc_idDefault (n q : Nat) (f : Desc → Desc) (s : State) : (s.modDesc n q f).idDefault = s.idDefault := by
  obtain ⟨_, _, _, _, _, _, _, _, h⟩ := modDesc_commit n q f s
  rw [h]
@[simp] theorem modDesc_serial (n q : Nat) (f : Desc → Desc) (s : State) : (s.modDesc n q f).serial = s.serial := by
  obtain ⟨_, _, _, _, _, _, _, _, h⟩ := modDesc_commit n q f s
  rw [h]
@[simp] theorem modDesc_cell (n q : Nat) (f : Desc → Desc) (s : State) (k z : Nat) : (s.modDesc n q f).cell k z = s.cell k z := by
  unfold State.cell; simp

@[simp] theorem settleDisable_pending (n : Nat) (s : State) : (s.settleDisable n).pending = s.pending := by
  obtain ⟨_, _, _, _, _, _, _, _, h⟩ := settleDisable_commit n s
  rw [h]
@[simp] theorem settleDisable_now (n : Nat) (s : State) : (s.settleDisable n).now = s.now := by
  obtain ⟨_, _, _, _, _, _, _, _, h⟩ := settleDisable_commit n s
  rw [h]
@[simp] theorem settleDisable_freeNo (n : Nat) (s : State) : (s.settleDisable n).freeNo = s.freeNo := by
  obtain ⟨_, _, _, _, _, _, _, _, h⟩ := settleDisable_commit n s
  rw [h]
@[simp] theorem settleDisable_members (n : Nat) (s : State) : (s.settleDisable n).members = s.members := by
  obtain ⟨_, _, _, _, _, _, _, _, h⟩ := settleDisable_commit n s
  rw [h]
@[simp] theorem settleDisable_gradeE (n : Nat) (s : State) : (s.settleDisable n).gradeE = s.gradeE := by
  obtain ⟨_, _, _, _, _, _, _, _, h⟩ := settleDisable_commit n s
  rw [h]
@[simp] theorem settleDisable_frozen (n : Nat) (s : State) : (s.settleDisable n).frozen = s.frozen := by
  obtain ⟨_, _, _, _, _, _, _, _, h⟩ := settleDisable_commit n s
  rw [h]
@[simp] theorem settleDisable_dram (n : Nat) (s : State) : (s.settleDisable n).dram = s.dram := by
  obtain ⟨_, _, _, _, _, _, _, _, h⟩ := settleDisable_commit n s
  rw [h]
@[simp] theorem settleDisable_thm (n : Nat) (s : State) : (s.settleDisable n).thm = s.thm := by
  obtain ⟨_, _, _, _, _, _, _, _, h⟩ := settleDisable_commit n s
  rw [h]
@[simp] theorem settleDisable_lanes (n : Nat) (s : State) : (s.settleDisable n).lanes = s.lanes := by
  obtain ⟨_, _, _, _, _, _, _, _, h⟩ := settleDisable_commit n s
  rw [h]
@[simp] theorem settleDisable_pwr (n : Nat) (s : State) : (s.settleDisable n).pwr = s.pwr := by
  obtain ⟨_, _, _, _, _, _, _, _, h⟩ := settleDisable_commit n s
  rw [h]
@[simp] theorem settleDisable_hoop (n : Nat) (s : State) : (s.settleDisable n).hoop = s.hoop := by
  obtain ⟨_, _, _, _, _, _, _, _, h⟩ := settleDisable_commit n s
  rw [h]
@[simp] theorem settleDisable_otp (n : Nat) (s : State) : (s.settleDisable n).otp = s.otp := by
  obtain ⟨_, _, _, _, _, _, _, _, h⟩ := settleDisable_commit n s
  rw [h]
@[simp] theorem settleDisable_smb (n : Nat) (s : State) : (s.settleDisable n).smb = s.smb := by
  obtain ⟨_, _, _, _, _, _, _, _, h⟩ := settleDisable_commit n s
  rw [h]
@[simp] theorem settleDisable_idDefault (n : Nat) (s : State) : (s.settleDisable n).idDefault = s.idDefault := by
  obtain ⟨_, _, _, _, _, _, _, _, h⟩ := settleDisable_commit n s
  rw [h]
@[simp] theorem settleDisable_serial (n : Nat) (s : State) : (s.settleDisable n).serial = s.serial := by
  obtain ⟨_, _, _, _, _, _, _, _, h⟩ := settleDisable_commit n s
  rw [h]
@[simp] theorem settleDisable_cell (n : Nat) (s : State) (k z : Nat) : (s.settleDisable n).cell k z = s.cell k z := by
  unfold State.cell; simp

@[simp] theorem drain_pending (n : Nat) (s : State) : (s.drain n).pending = s.pending := by
  obtain ⟨_, _, _, _, _, _, _, _, h⟩ := drain_commit n s
  rw [h]
@[simp] theorem drain_now (n : Nat) (s : State) : (s.drain n).now = s.now := by
  obtain ⟨_, _, _, _, _, _, _, _, h⟩ := drain_commit n s
  rw [h]
@[simp] theorem drain_freeNo (n : Nat) (s : State) : (s.drain n).freeNo = s.freeNo := by
  obtain ⟨_, _, _, _, _, _, _, _, h⟩ := drain_commit n s
  rw [h]
@[simp] theorem drain_members (n : Nat) (s : State) : (s.drain n).members = s.members := by
  obtain ⟨_, _, _, _, _, _, _, _, h⟩ := drain_commit n s
  rw [h]
@[simp] theorem drain_gradeE (n : Nat) (s : State) : (s.drain n).gradeE = s.gradeE := by
  obtain ⟨_, _, _, _, _, _, _, _, h⟩ := drain_commit n s
  rw [h]
@[simp] theorem drain_frozen (n : Nat) (s : State) : (s.drain n).frozen = s.frozen := by
  obtain ⟨_, _, _, _, _, _, _, _, h⟩ := drain_commit n s
  rw [h]
@[simp] theorem drain_dram (n : Nat) (s : State) : (s.drain n).dram = s.dram := by
  obtain ⟨_, _, _, _, _, _, _, _, h⟩ := drain_commit n s
  rw [h]
@[simp] theorem drain_thm (n : Nat) (s : State) : (s.drain n).thm = s.thm := by
  obtain ⟨_, _, _, _, _, _, _, _, h⟩ := drain_commit n s
  rw [h]
@[simp] theorem drain_lanes (n : Nat) (s : State) : (s.drain n).lanes = s.lanes := by
  obtain ⟨_, _, _, _, _, _, _, _, h⟩ := drain_commit n s
  rw [h]
@[simp] theorem drain_pwr (n : Nat) (s : State) : (s.drain n).pwr = s.pwr := by
  obtain ⟨_, _, _, _, _, _, _, _, h⟩ := drain_commit n s
  rw [h]
@[simp] theorem drain_hoop (n : Nat) (s : State) : (s.drain n).hoop = s.hoop := by
  obtain ⟨_, _, _, _, _, _, _, _, h⟩ := drain_commit n s
  rw [h]
@[simp] theorem drain_otp (n : Nat) (s : State) : (s.drain n).otp = s.otp := by
  obtain ⟨_, _, _, _, _, _, _, _, h⟩ := drain_commit n s
  rw [h]
@[simp] theorem drain_smb (n : Nat) (s : State) : (s.drain n).smb = s.smb := by
  obtain ⟨_, _, _, _, _, _, _, _, h⟩ := drain_commit n s
  rw [h]
@[simp] theorem drain_idDefault (n : Nat) (s : State) : (s.drain n).idDefault = s.idDefault := by
  obtain ⟨_, _, _, _, _, _, _, _, h⟩ := drain_commit n s
  rw [h]
@[simp] theorem drain_serial (n : Nat) (s : State) : (s.drain n).serial = s.serial := by
  obtain ⟨_, _, _, _, _, _, _, _, h⟩ := drain_commit n s
  rw [h]
@[simp] theorem drain_cell (n : Nat) (s : State) (k z : Nat) : (s.drain n).cell k z = s.cell k z := by
  unfold State.cell; simp

@[simp] theorem finish_pending (n q st i r : Nat) (s : State) : (s.finish n q st i r).pending = s.pending := by
  obtain ⟨_, _, _, _, _, _, _, _, h⟩ := finish_commit n q st i r s
  rw [h]
@[simp] theorem finish_now (n q st i r : Nat) (s : State) : (s.finish n q st i r).now = s.now := by
  obtain ⟨_, _, _, _, _, _, _, _, h⟩ := finish_commit n q st i r s
  rw [h]
@[simp] theorem finish_freeNo (n q st i r : Nat) (s : State) : (s.finish n q st i r).freeNo = s.freeNo := by
  obtain ⟨_, _, _, _, _, _, _, _, h⟩ := finish_commit n q st i r s
  rw [h]
@[simp] theorem finish_members (n q st i r : Nat) (s : State) : (s.finish n q st i r).members = s.members := by
  obtain ⟨_, _, _, _, _, _, _, _, h⟩ := finish_commit n q st i r s
  rw [h]
@[simp] theorem finish_gradeE (n q st i r : Nat) (s : State) : (s.finish n q st i r).gradeE = s.gradeE := by
  obtain ⟨_, _, _, _, _, _, _, _, h⟩ := finish_commit n q st i r s
  rw [h]
@[simp] theorem finish_frozen (n q st i r : Nat) (s : State) : (s.finish n q st i r).frozen = s.frozen := by
  obtain ⟨_, _, _, _, _, _, _, _, h⟩ := finish_commit n q st i r s
  rw [h]
@[simp] theorem finish_dram (n q st i r : Nat) (s : State) : (s.finish n q st i r).dram = s.dram := by
  obtain ⟨_, _, _, _, _, _, _, _, h⟩ := finish_commit n q st i r s
  rw [h]
@[simp] theorem finish_thm (n q st i r : Nat) (s : State) : (s.finish n q st i r).thm = s.thm := by
  obtain ⟨_, _, _, _, _, _, _, _, h⟩ := finish_commit n q st i r s
  rw [h]
@[simp] theorem finish_lanes (n q st i r : Nat) (s : State) : (s.finish n q st i r).lanes = s.lanes := by
  obtain ⟨_, _, _, _, _, _, _, _, h⟩ := finish_commit n q st i r s
  rw [h]
@[simp] theorem finish_pwr (n q st i r : Nat) (s : State) : (s.finish n q st i r).pwr = s.pwr := by
  obtain ⟨_, _, _, _, _, _, _, _, h⟩ := finish_commit n q st i r s
  rw [h]
@[simp] theorem finish_hoop (n q st i r : Nat) (s : State) : (s.finish n q st i r).hoop = s.hoop := by
  obtain ⟨_, _, _, _, _, _, _, _, h⟩ := finish_commit n q st i r s
  rw [h]
@[simp] theorem finish_otp (n q st i r : Nat) (s : State) : (s.finish n q st i r).otp = s.otp := by
  obtain ⟨_, _, _, _, _, _, _, _, h⟩ := finish_commit n q st i r s
  rw [h]
@[simp] theorem finish_smb (n q st i r : Nat) (s : State) : (s.finish n q st i r).smb = s.smb := by
  obtain ⟨_, _, _, _, _, _, _, _, h⟩ := finish_commit n q st i r s
  rw [h]
@[simp] theorem finish_idDefault (n q st i r : Nat) (s : State) : (s.finish n q st i r).idDefault = s.idDefault := by
  obtain ⟨_, _, _, _, _, _, _, _, h⟩ := finish_commit n q st i r s
  rw [h]
@[simp] theorem finish_serial (n q st i r : Nat) (s : State) : (s.finish n q st i r).serial = s.serial := by
  obtain ⟨_, _, _, _, _, _, _, _, h⟩ := finish_commit n q st i r s
  rw [h]
@[simp] theorem finish_cell (n q st i r : Nat) (s : State) (k z : Nat) : (s.finish n q st i r).cell k z = s.cell k z := by
  unfold State.cell; simp

@[simp] theorem drainEvery_pending (s : State) : (s.drainEvery).pending = s.pending := by
  obtain ⟨_, _, _, _, _, _, _, _, h⟩ := drainEvery_commit s
  rw [h]
@[simp] theorem drainEvery_now (s : State) : (s.drainEvery).now = s.now := by
  obtain ⟨_, _, _, _, _, _, _, _, h⟩ := drainEvery_commit s
  rw [h]
@[simp] theorem drainEvery_freeNo (s : State) : (s.drainEvery).freeNo = s.freeNo := by
  obtain ⟨_, _, _, _, _, _, _, _, h⟩ := drainEvery_commit s
  rw [h]
@[simp] theorem drainEvery_members (s : State) : (s.drainEvery).members = s.members := by
  obtain ⟨_, _, _, _, _, _, _, _, h⟩ := drainEvery_commit s
  rw [h]
@[simp] theorem drainEvery_gradeE (s : State) : (s.drainEvery).gradeE = s.gradeE := by
  obtain ⟨_, _, _, _, _, _, _, _, h⟩ := drainEvery_commit s
  rw [h]
@[simp] theorem drainEvery_frozen (s : State) : (s.drainEvery).frozen = s.frozen := by
  obtain ⟨_, _, _, _, _, _, _, _, h⟩ := drainEvery_commit s
  rw [h]
@[simp] theorem drainEvery_dram (s : State) : (s.drainEvery).dram = s.dram := by
  obtain ⟨_, _, _, _, _, _, _, _, h⟩ := drainEvery_commit s
  rw [h]
@[simp] theorem drainEvery_thm (s : State) : (s.drainEvery).thm = s.thm := by
  obtain ⟨_, _, _, _, _, _, _, _, h⟩ := drainEvery_commit s
  rw [h]
@[simp] theorem drainEvery_lanes (s : State) : (s.drainEvery).lanes = s.lanes := by
  obtain ⟨_, _, _, _, _, _, _, _, h⟩ := drainEvery_commit s
  rw [h]
@[simp] theorem drainEvery_pwr (s : State) : (s.drainEvery).pwr = s.pwr := by
  obtain ⟨_, _, _, _, _, _, _, _, h⟩ := drainEvery_commit s
  rw [h]
@[simp] theorem drainEvery_hoop (s : State) : (s.drainEvery).hoop = s.hoop := by
  obtain ⟨_, _, _, _, _, _, _, _, h⟩ := drainEvery_commit s
  rw [h]
@[simp] theorem drainEvery_otp (s : State) : (s.drainEvery).otp = s.otp := by
  obtain ⟨_, _, _, _, _, _, _, _, h⟩ := drainEvery_commit s
  rw [h]
@[simp] theorem drainEvery_smb (s : State) : (s.drainEvery).smb = s.smb := by
  obtain ⟨_, _, _, _, _, _, _, _, h⟩ := drainEvery_commit s
  rw [h]
@[simp] theorem drainEvery_idDefault (s : State) : (s.drainEvery).idDefault = s.idDefault := by
  obtain ⟨_, _, _, _, _, _, _, _, h⟩ := drainEvery_commit s
  rw [h]
@[simp] theorem drainEvery_serial (s : State) : (s.drainEvery).serial = s.serial := by
  obtain ⟨_, _, _, _, _, _, _, _, h⟩ := drainEvery_commit s
  rw [h]
@[simp] theorem drainEvery_cell (s : State) (k z : Nat) : (s.drainEvery).cell k z = s.cell k z := by
  unfold State.cell; simp

end Sys2Proof.Laws
end

