-- ==== Sys2Proof/Laws/Memory.lean ====
section
/-! SUPPORT. The laws of the stored array: every operation keeps its canonical form, a read after a write gives what was
written, and a write leaves every other address alone. -/

namespace Sys2Proof.Laws

open Sys2Proof Sys2Proof.Machine

/-- The canonical form, in parts. -/
theorem wf_iff (m : Memory) : m.wf = true ↔ Sparse.sorted none m.cells = true ∧
    (∀ e ∈ m.cells, m.holdsZero e.1 = true → e.2 ≠ 0) ∧ Sparse.wf 0 m.zeroed = true ∧ Sparse.sorted none m.dirty = true ∧
    Sparse.wf 0 m.lost = true := by
  unfold Memory.wf
  simp only [Bool.and_eq_true, List.all_eq_true, and_assoc, Bool.not_eq_true', Bool.and_eq_false_imp, beq_eq_false_iff_ne, ne_eq]

theorem wf_write (m : Memory) (d : Nat) (c : Codeword) (h : m.wf = true) : (m.write d c).wf = true := by
  obtain ⟨h1, h2, h3, hd, h4⟩ := (wf_iff m).1 h
  unfold Memory.write
  split
  · exact (wf_iff _).2 ⟨sorted_erase d h1, fun e he => h2 e (mem_erase he), h3, hd, h4⟩
  · rename_i hc
    refine (wf_iff _).2 ⟨sorted_insert d c h1, fun e he hz => ?_, h3, hd, h4⟩
    rcases mem_insert he with rfl | he
    · intro h0
      exact hc (by rw [Bool.and_eq_true]; exact ⟨hz, beq_iff_eq.2 h0⟩)
    · exact h2 e he hz

/-- A read after a write: the word written, and every other address as before. -/
theorem read_write (m : Memory) (d e : Nat) (c : Codeword) : (m.write d c).read e = if e = d then c else m.read e := by
  unfold Memory.write
  split
  · rename_i hc
    rw [Bool.and_eq_true] at hc
    unfold Memory.read
    simp only [find?_erase]
    by_cases he : e = d
    · subst he
      have h0 := hc.1
      unfold Memory.holdsZero at h0
      rw [Bool.and_eq_true, Option.isNone_iff_eq_none] at h0
      have hz : c = 0 := by simpa using hc.2
      have hb : Memory.zeroBank { m with cells := Sparse.erase m.cells e } e = true := h0.1
      simp only [if_true, hb, hz]
      unfold Memory.zeroWord
      rw [h0.2]
    · simp only [if_neg he]
      rfl
  · unfold Memory.read
    simp only [find?_insert]
    by_cases he : e = d
    · simp only [if_pos he]
    · simp only [if_neg he]
      rfl

theorem wf_loseAll (m : Memory) (h : m.wf = true) : m.loseAll.wf = true :=
  (wf_iff _).2 ⟨rfl, fun _ he => absurd he List.not_mem_nil, rfl, rfl, ((wf_iff m).1 h).2.2.2.2⟩

theorem getLsbD_ofFnLE (f : Fin 32 → Bool) (i : Nat) (h : i < 32) : (BitVec.ofFnLE f).getLsbD i = f ⟨i, h⟩ := by
  simp [h]

theorem wf_lose (m : Memory) (ch : Nat) (keep : Nat → Bool) (h : m.wf = true) : (m.lose ch keep).wf = true := by
  obtain ⟨h1, h2, h3, hd, h4⟩ := (wf_iff m).1 h
  refine (wf_iff _).2 ⟨sorted_filter _ h1, fun e he hz => h2 e (List.mem_filter.1 he).1 ?_, ?_, hd, ?_⟩
  · unfold Memory.lose Memory.holdsZero Memory.zeroBank at hz
    unfold Memory.holdsZero Memory.zeroBank
    dsimp only at hz
    rw [get_modify] at hz
    by_cases hc : e.1 / 2 ^ 26 = ch
    · rw [if_pos hc] at hz
      rw [getLsbD_ofFnLE _ _ (Nat.mod_lt _ (by omega)), Bool.and_eq_true, Bool.and_eq_true] at hz
      rw [hc] at hz ⊢
      rw [Bool.and_eq_true]
      exact ⟨hz.1.2, hz.2⟩
    · rw [if_neg hc] at hz
      exact hz
  · unfold Memory.lose
    dsimp only
    apply wf_modify
    exact h3
  · unfold Memory.lose
    dsimp only
    generalize List.range 32 = l
    generalize m.lost = x at h4
    induction l generalizing x with
    | nil => exact h4
    | cons b l ih =>
      refine ih _ ?_
      dsimp only
      split
      · exact h4
      · exact wf_modify 0 _ _ h4

theorem wf_zeroAll (m : Memory) (ch n : Nat) (bad : Codeword) (h : m.wf = true) : (m.zeroAll ch n bad).wf = true := by
  obtain ⟨h1, h2, h3, hd, h4⟩ := (wf_iff m).1 h
  refine (wf_iff _).2 ⟨sorted_filter _ h1, fun e he hz => ?_, ?_, ?_, h4⟩
  case refine_2 => unfold Memory.zeroAll; dsimp only; apply wf_set; exact h3
  case refine_3 =>
    unfold Memory.zeroAll
    dsimp only
    split
    · exact sorted_erase ch hd
    · exact sorted_insert ch _ hd
  obtain ⟨he, hk⟩ := List.mem_filter.1 he
  have hne : e.1 / 2 ^ 26 ≠ ch := by simpa using hk
  refine h2 e he ?_
  unfold Memory.zeroAll Memory.holdsZero Memory.zeroBank at hz
  unfold Memory.holdsZero Memory.zeroBank
  dsimp only at hz
  rw [get_set, if_neg hne] at hz
  rw [Bool.and_eq_true] at hz ⊢
  refine ⟨hz.1, ?_⟩
  have hd := hz.2
  split at hd
  · rw [find?_erase, if_neg hne] at hd
    exact hd
  · rw [find?_insert, if_neg hne] at hd
    exact hd

/-- The entries that `fill` lists. -/
theorem mem_fills {m : Memory} {d n : Nat} {w : Nat → Codeword} {e : Nat × Codeword}
    (he : e ∈ ((List.range n).filter fun i => !(m.holdsZero (d + i) && w i == 0)).map fun i => (d + i, w i)) :
    d ≤ e.1 ∧ e.1 < d + n ∧ (m.holdsZero e.1 = true → e.2 ≠ 0) := by
  obtain ⟨i, hi, rfl⟩ := List.mem_map.1 he
  obtain ⟨hi, hz⟩ := List.mem_filter.1 hi
  refine ⟨Nat.le_add_right _ _, Nat.add_lt_add_left (List.mem_range.1 hi) _, fun h => ?_⟩
  rw [h] at hz
  simpa using hz

theorem wf_fill (m : Memory) (d n : Nat) (w : Nat → Codeword) (h : m.wf = true) : (m.fill d n w).wf = true := by
  obtain ⟨h1, h2, h3, hd, h4⟩ := (wf_iff m).1 h
  have hr : Rising m.cells := (sorted_none _).1 h1
  refine (wf_iff _).2 ⟨(sorted_none _).2 ?_, fun e he hz => ?_, h3, hd, h4⟩
  · unfold Memory.fill Rising
    dsimp only
    rw [List.map_append, List.map_append]
    refine List.pairwise_append.2 ⟨rising_filter _ hr, List.pairwise_append.2 ⟨?_, rising_filter _ hr, ?_⟩, ?_⟩
    · rw [List.map_map]
      refine List.pairwise_map.2 (List.Pairwise.filter _ ?_)
      exact (List.pairwise_lt_range).imp fun h => Nat.add_lt_add_left h _
    · intro x hx y hy
      obtain ⟨u, hu, rfl⟩ := List.mem_map.1 hx
      obtain ⟨v, hv, rfl⟩ := List.mem_map.1 hy
      exact Nat.lt_of_lt_of_le (mem_fills hu).2.1 (of_decide_eq_true (List.mem_filter.1 hv).2)
    · intro x hx y hy
      obtain ⟨u, hu, rfl⟩ := List.mem_map.1 hx
      have hu := of_decide_eq_true (List.mem_filter.1 hu).2
      rcases List.mem_append.1 hy with hy | hy <;> obtain ⟨v, hv, rfl⟩ := List.mem_map.1 hy
      · exact Nat.lt_of_lt_of_le hu (mem_fills hv).1
      · exact Nat.lt_of_lt_of_le hu (Nat.le_trans (Nat.le_add_right _ _) (of_decide_eq_true (List.mem_filter.1 hv).2))
  · rcases List.mem_append.1 he with he | he
    · exact h2 e (List.mem_filter.1 he).1 hz
    · rcases List.mem_append.1 he with he | he
      · exact (mem_fills he).2.2 hz
      · exact h2 e (List.mem_filter.1 he).1 hz

/-- The canonical form of the state's array, through each operation. -/
theorem memOk_putCell (ch a : Nat) (c : Codeword) (s : State) (h : memOk s) : memOk (s.putCell ch a c) := wf_write _ _ _ h
theorem memOk_loseCells (ch : Nat) (keep : Nat → Bool) (s : State) (h : memOk s) : memOk (s.loseCells ch keep) := wf_lose _ _ _ h
theorem memOk_loseAll (s : State) (h : memOk s) : memOk s.loseAll := wf_loseAll _ h
theorem memOk_zeroChannel (ch : Nat) (s : State) (h : memOk s) : memOk (s.zeroChannel ch) := wf_zeroAll _ _ _ _ h

/-- A codeword read after a codeword written. -/
theorem cell_putCell (s : State) (ch a ch' a' : Nat) (c : Codeword) :
    (s.putCell ch a c).cell ch' a' = if devAddr ch' a' = devAddr ch a then c else s.cell ch' a' := read_write _ _ _ _

end Sys2Proof.Laws
end

