-- ==== Sys2Proof/Laws/Keeps.lean ====
section
/-! SUPPORT. What no operation breaks: the queue of waiting commands is left alone, what has left the block stays as it left,
and the canonical forms of the stored array and of the fault logs are kept. Every operation over the state has a lemma
that says so, in the order of the model's files. -/

namespace Sys2Proof.Laws

open Sys2Proof Sys2Proof.Machine

/-- `s` comes from `a` by operations of the block. -/
def Keeps (a s : State) : Prop :=
  s.pending = a.pending ∧ a.out <+: s.out ∧ (memOk a → memOk s) ∧ (logsOk a → logsOk s)

/-- The state of a pair. -/
def KeepsP {α : Type} (a : State) (p : α × State) : Prop := Keeps a p.2

/-- A meaning answers a next state. -/
def KeepsR (a : State) (r : Res) : Prop := ∃ t, r = .next t ∧ Keeps a t

theorem Keeps.refl (a : State) : Keeps a a := ⟨rfl, List.prefix_rfl, id, id⟩

theorem Keeps.trans {a b c : State} (h : Keeps a b) (k : Keeps b c) : Keeps a c :=
  ⟨k.1.trans h.1, h.2.1.trans k.2.1, k.2.2.1 ∘ h.2.2.1, k.2.2.2 ∘ h.2.2.2⟩

theorem KeepsR.next {a t : State} (h : Keeps a t) : KeepsR a (.next t) := ⟨t, rfl, h⟩

theorem KeepsP.of_eq {α : Type} {a t : State} {p : α × State} {x : α} (e : p = (x, t)) (h : KeepsP a p) : Keeps a t := by
  subst e; exact h

theorem KeepsP.mk {α : Type} {a t : State} {x : α} (h : Keeps a t) : KeepsP a (x, t) := h

theorem KeepsP.snd {α : Type} {a : State} {p : α × State} (h : KeepsP a p) : Keeps a p.2 := h

/-- Keep a fact about a state that a `let` names. -/
theorem Keeps.cut {a x : State} {P : Prop} (h : Keeps a x) (k : Keeps a x → P) : P := k h

theorem KeepsP.cut {α : Type} {a : State} {x : α × State} {P : Prop} (h : KeepsP a x) (k : KeepsP a x → P) : P := k h

theorem Keeps.ite {a s t : State} {c : Prop} [Decidable c] (h : Keeps a s) (k : Keeps a t) : Keeps a (if c then s else t) := by
  split <;> assumption

theorem KeepsP.ite {α : Type} {a : State} {p q : α × State} {c : Prop} [Decidable c] (h : KeepsP a p) (k : KeepsP a q) :
    KeepsP a (if c then p else q) := by
  split <;> assumption

theorem KeepsR.ite {a : State} {p q : Res} {c : Prop} [Decidable c] (h : KeepsR a p) (k : KeepsR a q) :
    KeepsR a (if c then p else q) := by
  split <;> assumption

/-- The fields that carry the four facts. -/
theorem Keeps.of_fields {a s t : State} (h : Keeps a s) (hp : t.pending = s.pending) (ho : t.out = s.out) (hd : t.dram = s.dram)
    (hl : t.flt.log = s.flt.log) (hi : t.pwr.image.flt = s.pwr.image.flt) : Keeps a t :=
  ⟨hp.trans h.1, ho ▸ h.2.1, fun k => by unfold memOk; rw [hd]; exact h.2.2.1 k,
    fun k => by unfold logsOk; rw [hl, hi]; exact h.2.2.2 k⟩

/-- Marks a `let` that names an operation. -/
theorem useFun {P : Prop} (_ : State → State) (k : P) : P := k

theorem useRes {α : Type} {P : Prop} (_ : α → Res) (k : P) : P := k

theorem useVal {α : Type} {P : Prop} (_ : α) (k : P) : P := k

theorem useFun₂ {α : Type} {P : Prop} (_ : α → State → State) (k : P) : P := k

theorem useFun₃ {α β : Type} {P : Prop} (_ : α → β → State → State) (k : P) : P := k

theorem Keeps.foldl {α : Type} {a : State} {f : State → α → State} {l : List α} {s : State} (hs : Keeps a s)
    (hf : ∀ s x, Keeps a s → Keeps a (f s x)) : Keeps a (l.foldl f s) := by
  induction l generalizing s with
  | nil => exact hs
  | cons x l ih => exact ih (hf s x hs)

theorem KeepsP.foldl {α β : Type} {a : State} {f : β × State → α → β × State} {l : List α} {p : β × State} (hs : KeepsP a p)
    (hf : ∀ p x, KeepsP a p → KeepsP a (f p x)) : KeepsP a (l.foldl f p) := by
  induction l generalizing p with
  | nil => exact hs
  | cons x l ih => exact ih (hf p x hs)

end Sys2Proof.Laws
end

