-- ==== Sys2Proof/Laws/KeepsOps.lean ====
section
/-! SUPPORT. What the operations of Machine/Ops.lean keep. -/

set_option linter.unusedTactic false
set_option linter.unreachableTactic false
set_option linter.unusedVariables false
set_option linter.tactic.unusedName false

namespace Sys2Proof.Laws

open Sys2Proof Sys2Proof.Machine

theorem modChan_keeps {σ : State} (ch : ℕ) (f : Chan → Chan) (s : State) (h : Keeps σ s) : Keeps σ (State.modChan ch f s) := by
  unfold State.modChan
  assumption

theorem modCtx_keeps {σ : State} (n : ℕ) (f : Ctx → Ctx) (s : State) (h : Keeps σ s) : Keeps σ (State.modCtx n f s) := by
  unfold State.modCtx
  assumption

theorem emit_keeps {a : State} (o : Out) (s : State) (h : Keeps a s) : Keeps a (State.emit o s) :=
  ⟨h.1, h.2.1.trans (List.prefix_append _ _), h.2.2⟩

/-- A map that changes no index keeps a fault log. -/
theorem logOk_map {l : List (Nat × FltEntry)} (f : Nat × FltEntry → Nat × FltEntry) (hf : ∀ e, (f e).1 = e.1) (h : logOk l) :
    logOk (l.map f) := by
  refine ⟨(sorted_none _).2 (rising_map f hf ((sorted_none _).1 h.1)), fun e he => ?_⟩
  obtain ⟨x, hx, rfl⟩ := List.mem_map.1 he
  rw [hf]; exact h.2 x hx

theorem logOk_insert {l : List (Nat × FltEntry)} {i : Nat} (e : FltEntry) (hi : i < 128) (h : logOk l) :
    logOk (Sparse.insert l i e) := by
  refine ⟨sorted_insert i e h.1, fun x hx => ?_⟩
  rcases mem_insert hx with rfl | hx
  · exact hi
  · exact h.2 x hx

theorem logOk_filter {l : List (Nat × FltEntry)} (f : Nat × FltEntry → Bool) (h : logOk l) : logOk (l.filter f) :=
  ⟨sorted_filter f h.1, fun x hx => h.2 x (List.mem_filter.1 hx).1⟩

theorem logOk_erase {l : List (Nat × FltEntry)} (i : Nat) (h : logOk l) : logOk (Sparse.erase l i) := logOk_filter _ h

/-- A choice among the elements of a list comes from the list. -/
theorem foldl_mem {β : Type} (g : Option β → β → Option β) (hg : ∀ a e y, g a e = some y → y = e ∨ a = some y) (m : List β)
    (a : Option β) (y : β) (h : m.foldl g a = some y) : y ∈ m ∨ a = some y := by
  induction m generalizing a with
  | nil => exact .inr h
  | cons z m ih =>
    rcases ih _ h with h | h
    · exact .inl (List.mem_cons_of_mem _ h)
    · rcases hg _ _ _ h with rfl | h
      · exact .inl List.mem_cons_self
      · exact .inr h

theorem pickLsn_mem {n : Bool} {l : List (Nat × FltEntry)} {f : FltEntry → Bool} {x : Nat × FltEntry}
    (h : pickLsn n l f = some x) : x ∈ l := by
  unfold pickLsn at h
  have key := foldl_mem _ ?_ _ _ _ h
  · rcases key with h | h
    · exact (List.mem_filter.1 h).1
    · exact absurd h (by simp)
  · intro a e y hy
    cases a with
    | none => exact .inl (Option.some.inj hy).symm
    | some w =>
      dsimp only at hy
      split at hy <;> split at hy <;> first | exact .inl (Option.some.inj hy).symm | exact .inr hy

theorem newEntry_ok (f : Faults) (o : Occurrence) (c : Nat) (b : Bool) (h : logOk f.log) : logOk (f.newEntry o c b).log := by
  unfold Faults.newEntry
  extract_lets e
  split
  · rename_i i hi
    exact logOk_insert e (List.mem_range.1 (List.mem_of_find?_eq_some hi)) h
  · split
    · rename_i i x hx
      exact logOk_insert e (h.2 _ (pickLsn_mem hx)) h
    · exact h

/-- Every occurrence keeps the fault log's form (R464, R466, R469). -/
theorem enter_ok (f : Faults) (o : Occurrence) (h : logOk f.log) : logOk (f.enter o).log := by
  unfold Faults.enter
  extract_lets own g
  have hg : logOk g.log := by
    unfold g
    split
    · exact logOk_map _ (fun e => by split <;> rfl) h
    · exact h
  clear_value g
  split
  · exact newEntry_ok _ _ _ _ hg
  · rename_i i e hx
    split
    · exact newEntry_ok _ _ _ _ hg
    · split
      · exact newEntry_ok _ _ _ _ hg
      · exact logOk_insert _ (hg.2 _ (pickLsn_mem hx)) hg

/-- A change of the fault block that keeps its log's form. -/
theorem flt_keeps {a s : State} (f : Faults) (hf : logOk s.flt.log → logOk f.log) (h : Keeps a s) : Keeps a { s with flt := f } :=
  ⟨h.1, h.2.1, h.2.2.1, fun k => ⟨hf (h.2.2.2 k).1, (h.2.2.2 k).2⟩⟩

/-- A change of the stored array that keeps its form. -/
theorem dram_keeps {a s : State} (m : Memory) (hm : s.dram.wf = true → m.wf = true) (h : Keeps a s) :
    Keeps a { s with dram := m } := ⟨h.1, h.2.1, fun k => hm (h.2.2.1 k), h.2.2.2⟩

/-- A change of the power block that leaves the save image's fault log alone. -/
theorem pwr_keeps {a s : State} (p : Power) (hp : p.image.flt = s.pwr.image.flt) (h : Keeps a s) : Keeps a { s with pwr := p } :=
  ⟨h.1, h.2.1, h.2.2.1, fun k => ⟨(h.2.2.2 k).1, hp ▸ (h.2.2.2 k).2⟩⟩

theorem condEnd_keeps {a : State} (blk : Nat) (code : Nat) (inst : Nat) (s : State) (h : Keeps a s) :
    Keeps a (State.condEnd blk code inst s) :=
  flt_keeps _ (logOk_map _ fun e => by split <;> rfl) h

theorem logRaw_keeps {a : State} (o : Occurrence) (s : State) (h : Keeps a s) : Keeps a (State.logRaw o s) :=
  flt_keeps (s := { s with cnt := _ }) _ (fun k => enter_ok _ _ k) h

theorem logOverflows_keeps {a : State} (n : Nat) (s : State) (h : Keeps a s) : Keeps a (State.logOverflows n s) := by
  induction n generalizing s with
  | zero => exact h
  | succ n ih => exact ih _ (logRaw_keeps _ _ h)

theorem count_keeps {σ : State} (ev : ℕ) (bob : Option ℕ) (w : ℕ) (s : State) (q : ℕ → Bool) (h : Keeps σ s) : Keeps σ (State.count ev bob w s q) := by
  unfold State.count
  (repeat' first
    | with_reducible assumption
    | (extract_lets +onlyGivenNames x; clear_value x; rename' x => x')
    | with_reducible first
        | apply logOverflows_keeps | apply Keeps.ite
    | assumption)

theorem logAt_keeps {a : State} (o : Occurrence) (s : State) (h : Keeps a s) : Keeps a (State.logAt o s) := by
  unfold State.logAt
  exact logOverflows_keeps _ _ (flt_keeps (s := { s with cnt := _ }) _ (fun k => enter_ok _ _ k) h)

theorem log_keeps {σ : State} (c : Cause) (inst : ℕ) (s : State) (d0 : ℕ) (d1 : ℕ) (d2 : ℕ) (active : Bool) (h : Keeps σ s) : Keeps σ (State.log c inst s d0 d1 d2 active) := by
  unfold State.log
  (repeat' with_reducible first
      | assumption | apply logAt_keeps)

theorem corruptLog_keeps {σ : State} (l : List ℕ) (s : State) (h : Keeps σ s) : Keeps σ (State.corruptLog l s) := by
  unfold State.corruptLog
  (repeat' first
    | with_reducible assumption
    | (extract_lets +onlyGivenNames x; refine useVal (α := Faults) x ?_; subst x)
    | refine flt_keeps _ (logOk_map _ fun e => by split <;> rfl) ?_)

theorem badRead_keeps {σ : State} (p : Path) (s : State) (h : Keeps σ s) : Keeps σ (State.badRead p s) := by
  unfold State.badRead
  (repeat' with_reducible first
      | assumption | apply emit_keeps | apply log_keeps)

theorem writeIgnored_keeps {σ : State} (s : State) (h : Keeps σ s) : Keeps σ (State.writeIgnored s) := by
  unfold State.writeIgnored
  (repeat' with_reducible first
      | assumption | apply log_keeps)

theorem putCell_keeps {a : State} (ch : Nat) (x : Nat) (c : Codeword) (s : State) (h : Keeps a s) :
    Keeps a (State.putCell ch x c s) := dram_keeps _ (wf_write _ _ _) h

theorem loseCells_keeps {a : State} (ch : Nat) (keep : Nat → Bool) (s : State) (h : Keeps a s) :
    Keeps a (State.loseCells ch keep s) := dram_keeps _ (wf_lose _ _ _) h

theorem loseAll_keeps {a : State} (s : State) (h : Keeps a s) : Keeps a (State.loseAll s) := dram_keeps _ (wf_loseAll _) h

end Sys2Proof.Laws
end

