-- ==== Sys2Proof/Laws/KeepsLink.lean ====
section
/-! SUPPORT. What the operations of Machine/Link.lean keep. -/

set_option linter.unusedTactic false
set_option linter.unreachableTactic false
set_option linter.unusedVariables false
set_option linter.tactic.unusedName false

namespace Sys2Proof.Laws

open Sys2Proof Sys2Proof.Machine

theorem modPort_keeps {σ : State} (p : ℕ) (f : Port → Port) (s : State) (h : Keeps σ s) : Keeps σ (State.modPort p f s) := by
  unfold State.modPort
  (repeat' first
    | (extract_lets +onlyGivenNames x; clear_value x; rename' x => x')
    | assumption)

theorem discardPacket_keeps {σ : State} (s : State) (h : Keeps σ s) : Keeps σ (State.discardPacket s) := by
  unfold State.discardPacket
  (repeat' with_reducible first
      | assumption | apply count_keeps)

theorem launch_keeps {σ : State} (p : ℕ) (ws : List (BitVec 64)) (s : State) (h : Keeps σ s) : Keeps σ (State.launch p ws s) := by
  unfold State.launch
  (repeat' first
    | with_reducible assumption
    | (extract_lets +onlyGivenNames x; first
      | (refine Keeps.cut (a := σ) (x := x) ?_ (fun hx => ?_); (on_goal 1 => subst x); (on_goal 2 => (clear_value x; rename' x => x')))
      | (clear_value x; rename' x => x'))
    | with_reducible first
        | apply modPort_keeps | apply count_keeps | apply emit_keeps)

theorem flushPort_keeps {σ : State} (y0 : ℕ) (y1 : ℕ) (y2 : State) (h : Keeps σ y2) : Keeps σ (State.flushPort y0 y1 y2) := by
  induction y0 generalizing y1 y2 with
  | zero =>
    unfold State.flushPort
    with_reducible assumption
  | succ n ih =>
    unfold State.flushPort
    (repeat' first
      | with_reducible assumption
      | (extract_lets +onlyGivenNames x; clear_value x; rename' x => x')
      | with_reducible first
          | apply launch_keeps | apply modPort_keeps | apply ih | apply Keeps.ite
      | split)

theorem enqueue_keeps {σ : State} (p : ℕ) (ws : List (BitVec 64)) (s : State) (h : Keeps σ s) : Keeps σ (State.enqueue p ws s) := by
  unfold State.enqueue
  (repeat' first
    | with_reducible assumption
    | (extract_lets +onlyGivenNames x; first
      | (refine Keeps.cut (a := σ) (x := x) ?_ (fun hx => ?_); (on_goal 1 => subst x); (on_goal 2 => (clear_value x; rename' x => x')))
      | (clear_value x; rename' x => x'))
    | with_reducible first
        | apply modPort_keeps | apply flushPort_keeps)

theorem forwardOn_keeps {σ : State} (a : ℕ) (ws : List (BitVec 64)) (s : State) (h : Keeps σ s) : Keeps σ (State.forwardOn a ws s) := by
  unfold State.forwardOn
  (repeat' first
    | with_reducible first
        | assumption | apply emit_keeps | apply enqueue_keeps | apply discardPacket_keeps | apply Keeps.ite
    | split)

theorem sendPacket_keeps {σ : State} (typ : ℕ) (x : ℕ) (y : ℕ) (tag : ℕ) (n : ℕ) (payload : List Word) (s : State) (h : Keeps σ s) : Keeps σ (State.sendPacket typ x y tag n payload s) := by
  unfold State.sendPacket
  (repeat' with_reducible first
      | assumption | apply forwardOn_keeps)

theorem flood_keeps {σ : State} (a : ℕ) (ws : List (BitVec 64)) (s : State) (h : Keeps σ s) : Keeps σ (State.flood a ws s) := by
  unfold State.flood
  (repeat' with_reducible first
      | assumption | (intro _) | apply enqueue_keeps | apply Keeps.ite | apply Keeps.foldl)

end Sys2Proof.Laws
end

