-- ==== Sys2Proof/Laws/KeepsCommit.lean ====
section
/-! SUPPORT. What the operations of Machine/Commit.lean keep. -/

set_option linter.unusedTactic false
set_option linter.unreachableTactic false
set_option linter.unusedVariables false
set_option linter.tactic.unusedName false

namespace Sys2Proof.Laws

open Sys2Proof Sys2Proof.Machine

theorem modPx_keeps {σ : State} (id : ℕ) (f : PxChan → PxChan) (s : State) (h : Keeps σ s) : Keeps σ (State.modPx id f s) := by
  unfold State.modPx
  (repeat' first
    | (extract_lets +onlyGivenNames x; clear_value x; rename' x => x')
    | assumption)

theorem pxPacket_keeps {σ : State} (id : ℕ) (op : ℕ) (ws : List Word) (s : State) (h : Keeps σ s) : Keeps σ (State.pxPacket id op ws s) := by
  unfold State.pxPacket
  (repeat' with_reducible first
      | assumption | apply sendPacket_keeps)

theorem pxSend_keeps {σ : State} (id : ℕ) (op : ℕ) (ws : List Word) (s : State) (h : Keeps σ s) : Keeps σ (State.pxSend id op ws s) := by
  unfold State.pxSend
  (repeat' first
    | with_reducible assumption
    | (extract_lets +onlyGivenNames x; first
      | (refine Keeps.cut (a := σ) (x := x) ?_ (fun hx => ?_); (on_goal 1 => subst x); (on_goal 2 => (clear_value x; rename' x => x')))
      | (clear_value x; rename' x => x'))
    | with_reducible first
        | apply modPx_keeps | apply pxPacket_keeps | apply Keeps.ite)

theorem proxyWrite_keeps {σ : State} (id : ℕ) (addr : ℕ) (data : List Byte) (s : State) (h : Keeps σ s) : Keeps σ (State.proxyWrite id addr data s) := by
  unfold State.proxyWrite
  (repeat' first
    | with_reducible first
        | assumption | (intro _)
    | (extract_lets +onlyGivenNames x; clear_value x; rename' x => x')
    | with_reducible first
        | apply pxSend_keeps | apply Keeps.foldl)

theorem hostWrite_keeps {σ : State} (addr : ℕ) (data : List Byte) (s : State) (h : Keeps σ s) : Keeps σ (State.hostWrite addr data s) := by
  unfold State.hostWrite
  (repeat' first
    | with_reducible assumption
    | (extract_lets +onlyGivenNames x; refine Keeps.cut (a := σ) (x := x) ?_ (fun hx => ?_); (on_goal 1 => subst x); (on_goal 2 => (clear_value x; rename' x => x')))
    | with_reducible first
        | apply emit_keeps | apply proxyWrite_keeps | apply count_keeps | apply Keeps.ite)

theorem hostRead_keeps {σ : State} (addr : ℕ) (len : ℕ) (s : State) (h : Keeps σ s) : Keeps σ (State.hostRead addr len s) := by
  unfold State.hostRead
  (repeat' with_reducible first
      | assumption | (intro _) | apply emit_keeps | apply pxSend_keeps | apply Keeps.ite | apply Keeps.foldl)

theorem writeRecord_keeps {σ : State} (j : JRec) (s : State) (h : Keeps σ s) : Keeps σ (State.writeRecord j s) := by
  unfold State.writeRecord
  (repeat' first
    | with_reducible assumption
    | (extract_lets +onlyGivenNames x; refine Keeps.cut (a := σ) (x := x) ?_ (fun hx => ?_); (on_goal 1 => subst x); (on_goal 2 => (clear_value x; rename' x => x')))
    | with_reducible first
        | apply hostWrite_keeps | apply hostRead_keeps | apply Keeps.ite)

theorem sendMsix_keeps {σ : State} (n : ℕ) (s : State) (h : Keeps σ s) : Keeps σ (State.sendMsix n s) := by
  unfold State.sendMsix
  (repeat' with_reducible first
      | assumption | apply count_keeps | apply modCtx_keeps | apply emit_keeps | apply Keeps.ite)

theorem lostEnds_keeps {σ : State} (ch : ℕ) (s : State) (h : Keeps σ s) : Keeps σ (State.lostEnds ch s) := by
  unfold State.lostEnds
  (repeat' with_reducible first
      | assumption | apply condEnd_keeps | apply Keeps.ite)

theorem commitEffect_keeps {σ : State} (d : Desc) (s : State) (h : Keeps σ s) : Keeps σ (State.commitEffect d s) := by
  unfold State.commitEffect
  (repeat' with_reducible first
      | assumption | apply lostEnds_keeps | apply modChan_keeps | apply Keeps.ite)

theorem commitOne_keeps {σ : State} (n : ℕ) (s : State) (h : Keeps σ s) : Keeps σ (State.commitOne n s) := by
  unfold State.commitOne
  (repeat' first
    | with_reducible assumption
    | (extract_lets +onlyGivenNames x; first
      | (refine Keeps.cut (a := σ) (x := x) ?_ (fun hx => ?_); (on_goal 1 => subst x); (on_goal 2 => (clear_value x; rename' x => x')))
      | (clear_value x; rename' x => x'))
    | with_reducible first
        | apply commitEffect_keeps | apply modCtx_keeps | apply count_keeps | apply writeRecord_keeps | apply sendMsix_keeps
        | apply Keeps.ite
    | split
    | assumption)

theorem commitAll_keeps {σ : State} (y0 : ℕ) (y1 : ℕ) (y2 : State) (h : Keeps σ y2) : Keeps σ (State.commitAll y0 y1 y2) := by
  induction y0 generalizing y1 y2 with
  | zero =>
    unfold State.commitAll
    with_reducible assumption
  | succ n ih =>
    unfold State.commitAll
    (repeat' with_reducible first
        | assumption | apply commitOne_keeps | apply ih)

theorem disabled_keeps {σ : State} (n : ℕ) (x : ℕ × Option ℕ) (s : State) (h : Keeps σ s) : Keeps σ (State.disabled n x s) := by
  unfold State.disabled
  (repeat' first
    | with_reducible assumption
    | (extract_lets +onlyGivenNames x; clear_value x; rename' x => x')
    | with_reducible apply modCtx_keeps
    | split
    | assumption)

theorem settleDisable_keeps {σ : State} (n : ℕ) (s : State) (h : Keeps σ s) : Keeps σ (State.settleDisable n s) := by
  unfold State.settleDisable
  (repeat' first
    | with_reducible first
        | assumption | (intro _)
    | (extract_lets +onlyGivenNames x; first
      | (refine Keeps.cut (a := σ) (x := x) ?_ (fun hx => ?_); (on_goal 1 => subst x); (on_goal 2 => (clear_value x; rename' x => x')))
      | (clear_value x; rename' x => x'))
    | with_reducible first
        | apply modCtx_keeps | apply disabled_keeps | apply condEnd_keeps | apply Keeps.ite | apply Keeps.foldl)

theorem drainBy_keeps {σ : State} (y0 : ℕ) (y1 : ℕ) (y2 : State) (h : Keeps σ y2) : Keeps σ (State.drainBy y0 y1 y2) := by
  induction y0 generalizing y1 y2 with
  | zero =>
    unfold State.drainBy
    with_reducible assumption
  | succ n ih =>
    unfold State.drainBy
    (repeat' first
      | with_reducible first
          | assumption | (intro _)
      | (extract_lets +onlyGivenNames x; first
        | (refine Keeps.cut (a := σ) (x := x) ?_ (fun hx => ?_); (on_goal 1 => subst x); (on_goal 2 => (clear_value x; rename' x => x')))
        | (clear_value x; rename' x => x'))
      | with_reducible first
          | apply commitAll_keeps | apply settleDisable_keeps | apply ih | apply Keeps.foldl)

theorem drain_keeps {σ : State} (n : ℕ) (s : State) (h : Keeps σ s) : Keeps σ (State.drain n s) := by
  unfold State.drain
  (repeat' with_reducible first
      | assumption | apply drainBy_keeps)

theorem finish_keeps {σ : State} (n : ℕ) (seq : ℕ) (status : ℕ) (s : State) (info : ℕ) (result : ℕ) (h : Keeps σ s) : Keeps σ (State.finish n seq status s info result) := by
  unfold State.finish
  (repeat' with_reducible first
      | assumption | apply drain_keeps | apply modCtx_keeps)

theorem drainEvery_keeps {σ : State} (s : State) (h : Keeps σ s) : Keeps σ (State.drainEvery s) := by
  unfold State.drainEvery
  (repeat' with_reducible first
      | assumption | (intro _) | apply drain_keeps | apply Keeps.foldl)

theorem halt_keeps {σ : State} (n : ℕ) (cause : ℕ) (s : State) (h : Keeps σ s) : Keeps σ (State.halt n cause s) := by
  unfold State.halt
  (repeat' first
    | with_reducible assumption
    | (extract_lets +onlyGivenNames x; clear_value x; rename' x => x')
    | with_reducible first
        | apply log_keeps | apply modCtx_keeps)

end Sys2Proof.Laws
end

