-- ==== Sys2Proof/Laws/KeepsOperands.lean ====
section
/-! SUPPORT. What the operations of Machine/Operands.lean keep. -/

set_option linter.unusedTactic false
set_option linter.unreachableTactic false
set_option linter.unusedVariables false
set_option linter.tactic.unusedName false

namespace Sys2Proof.Laws

open Sys2Proof Sys2Proof.Machine

theorem configure_keeps {σ : State} (n : ℕ) (b : List Byte) (startSeq : ℕ) (s : State) (h : Keeps σ s) : KeepsP σ (State.configure n b startSeq s) := by
  unfold State.configure
  (repeat' first
    | with_reducible assumption
    | (extract_lets +onlyGivenNames x; clear_value x; rename' x => x')
    | with_reducible first
        | apply modCtx_keeps | apply KeepsP.ite
    | split
    | with_reducible apply KeepsP.mk)

theorem modDesc_keeps {σ : State} (n : ℕ) (seq : ℕ) (f : Desc → Desc) (s : State) (h : Keeps σ s) : Keeps σ (State.modDesc n seq f s) := by
  unfold State.modDesc
  (repeat' with_reducible first
      | assumption | apply modCtx_keeps)

end Sys2Proof.Laws
end

