-- ==== Sys2Proof/Laws/KeepsEcc.lean ====
section
/-! SUPPORT. What the operations of Machine/Ecc.lean keep. -/

set_option linter.unusedTactic false
set_option linter.unreachableTactic false
set_option linter.unusedVariables false
set_option linter.tactic.unusedName false

namespace Sys2Proof.Laws

open Sys2Proof Sys2Proof.Machine

theorem transfer_keeps {σ : State} (ch : ℕ) (c : Codeword) (s : State) (h : Keeps σ s) : KeepsP σ (State.transfer ch c s) := by
  unfold State.transfer
  (repeat' first
    | with_reducible assumption
    | (extract_lets +onlyGivenNames x; clear_value x; rename' x => x')
    | with_reducible first
        | apply KeepsP.ite | apply KeepsP.mk
    | assumption)

theorem countUp_keeps {σ : State} (ch : ℕ) (w : Codeword) (s : State) (h : Keeps σ s) : Keeps σ (State.countUp ch w s) := by
  unfold State.countUp
  (repeat' with_reducible first
      | assumption | apply modChan_keeps)

theorem countDown_keeps {σ : State} (ch : ℕ) (w : Codeword) (s : State) (h : Keeps σ s) : Keeps σ (State.countDown ch w s) := by
  unfold State.countDown
  (repeat' with_reducible first
      | assumption | apply modChan_keeps)

theorem corrEnter_keeps {σ : State} (ch : ℕ) (x : Corr) (s : State) (h : Keeps σ s) : Keeps σ (State.corrEnter ch x s) := by
  unfold State.corrEnter
  (repeat' first
    | with_reducible assumption
    | (extract_lets +onlyGivenNames x; clear_value x; rename' x => x')
    | with_reducible first
        | apply modChan_keeps | apply count_keeps
    | split)

theorem queueScrub_keeps {σ : State} (ch : ℕ) (a : ℕ) (s : State) (h : Keeps σ s) : Keeps σ (State.queueScrub ch a s) := by
  unfold State.queueScrub
  (repeat' first
    | with_reducible assumption
    | (extract_lets +onlyGivenNames x; clear_value x; rename' x => x')
    | with_reducible apply modChan_keeps)

theorem offer_keeps {σ : State} (ch : ℕ) (a : ℕ) (data : BitVec 64) (mark : Bool) (pos : List ℕ) (s : State) (h : Keeps σ s) : Keeps σ (State.offer ch a data mark pos s) := by
  unfold State.offer
  (repeat' first
    | with_reducible assumption
    | (extract_lets +onlyGivenNames x; first
      | (refine Keeps.cut (a := σ) (x := x) ?_ (fun hx => ?_); (on_goal 1 => subst x); (on_goal 2 => (clear_value x; rename' x => x')))
      | (clear_value x; rename' x => x'))
    | with_reducible first
        | apply corrEnter_keeps | apply modChan_keeps | apply log_keeps | apply Keeps.ite)

theorem filterEvent_keeps {σ : State} (ch : ℕ) (a : ℕ) (data : BitVec 64) (mark : Bool) (pos : List ℕ) (s : State) (h : Keeps σ s) : Keeps σ (State.filterEvent ch a data mark pos s) := by
  unfold State.filterEvent
  (repeat' first
    | with_reducible assumption
    | (extract_lets +onlyGivenNames x; first
      | (refine Keeps.cut (a := σ) (x := x) ?_ (fun hx => ?_); (on_goal 1 => subst x); (on_goal 2 => (clear_value x; rename' x => x')))
      | (refine useFun₂ x ?_; subst x; try beta_reduce)
      | (clear_value x; rename' x => x'))
    | with_reducible first
        | apply modChan_keeps | apply log_keeps | apply offer_keeps | apply Keeps.ite)

theorem noteFix_keeps {σ : State} (ch : ℕ) (y1 : StoreHit) (s : State) (h : Keeps σ s) : Keeps σ (State.noteFix ch y1 s) := by
  unfold State.noteFix
  (repeat' with_reducible first
      | assumption | apply modChan_keeps | apply Keeps.ite)

theorem storeHit_keeps {σ : State} (ch : ℕ) (y1 : StoreHit) (s : State) (h : Keeps σ s) : Keeps σ (State.storeHit ch y1 s) := by
  unfold State.storeHit
  (repeat' with_reducible first
      | assumption | apply log_keeps | apply noteFix_keeps | apply Keeps.ite)

theorem dropEntry_keeps {σ : State} (ch : ℕ) (a : ℕ) (s : State) (h : Keeps σ s) : Keeps σ (State.dropEntry ch a s) := by
  unfold State.dropEntry
  (repeat' first
    | with_reducible first
        | assumption | apply log_keeps | apply modChan_keeps
    | split)

theorem requestStop_keeps {σ : State} (ch : ℕ) (cause : ℕ) (s : State) (h : Keeps σ s) : Keeps σ (State.requestStop ch cause s) := by
  unfold State.requestStop
  (repeat' with_reducible first
      | assumption | apply modChan_keeps)

theorem erasureAction_keeps {σ : State} (ch : ℕ) (s : State) (h : Keeps σ s) : Keeps σ (State.erasureAction ch s) := by
  unfold State.erasureAction
  (repeat' first
    | with_reducible assumption
    | (extract_lets +onlyGivenNames x; first
      | (refine Keeps.cut (a := σ) (x := x) ?_ (fun hx => ?_); (on_goal 1 => subst x); (on_goal 2 => (clear_value x; rename' x => x')))
      | (clear_value x; rename' x => x'))
    | with_reducible first
        | apply log_keeps | apply modChan_keeps | apply requestStop_keeps | apply Keeps.ite)

theorem recordDarn_keeps {σ : State} (ch : ℕ) (failed : ℕ) (spare : ℕ) (s : State) (h : Keeps σ s) : Keeps σ (State.recordDarn ch failed spare s) := by
  unfold State.recordDarn
  (repeat' with_reducible first
      | assumption | apply modChan_keeps)

theorem eraseRole_keeps {σ : State} (ch : ℕ) (role : ℕ) (i : ℕ) (s : State) (h : Keeps σ s) : Keeps σ (State.eraseRole ch role i s) := by
  unfold State.eraseRole
  (repeat' first
    | with_reducible assumption
    | (extract_lets +onlyGivenNames x; refine Keeps.cut (a := σ) (x := x) ?_ (fun hx => ?_); (on_goal 1 => subst x); (on_goal 2 => (clear_value x; rename' x => x')))
    | with_reducible first
        | apply modChan_keeps | apply recordDarn_keeps | apply erasureAction_keeps | apply Keeps.ite)

theorem dataFailing_keeps {σ : State} (ch : ℕ) (i : ℕ) (s : State) (h : Keeps σ s) : Keeps σ (State.dataFailing ch i s) := by
  unfold State.dataFailing
  (repeat' first
    | with_reducible assumption
    | (extract_lets +onlyGivenNames x; first
      | (refine Keeps.cut (a := σ) (x := x) ?_ (fun hx => ?_); (on_goal 1 => subst x); (on_goal 2 => (clear_value x; rename' x => x')))
      | (clear_value x; rename' x => x'))
    | with_reducible first
        | apply modChan_keeps | apply recordDarn_keeps | apply log_keeps | apply eraseRole_keeps | apply Keeps.ite
    | split)

theorem suspectEye_keeps {σ : State} (ch : ℕ) (i : ℕ) (s : State) (h : Keeps σ s) : Keeps σ (State.suspectEye ch i s) := by
  unfold State.suspectEye
  (repeat' with_reducible first
      | assumption | apply modChan_keeps)

theorem monitorCount_keeps {σ : State} (ch : ℕ) (a : ℕ) (k : ℕ) (s : State) (h : Keeps σ s) : Keeps σ (State.monitorCount ch a k s) := by
  unfold State.monitorCount
  (repeat' first
    | with_reducible assumption
    | (extract_lets +onlyGivenNames x; first
      | (refine Keeps.cut (a := σ) (x := x) ?_ (fun hx => ?_); (on_goal 1 => subst x); (on_goal 2 => (clear_value x; rename' x => x')))
      | (clear_value x; rename' x => x'))
    | with_reducible first
        | apply modChan_keeps | apply log_keeps | apply suspectEye_keeps | apply dataFailing_keeps | apply Keeps.ite)

theorem noteDecode_keeps {σ : State} (ch : ℕ) (a : ℕ) (kind : ReadKind) (d : Decoded) (s : State) (h : Keeps σ s) : Keeps σ (State.noteDecode ch a kind d s) := by
  unfold State.noteDecode
  (repeat' first
    | with_reducible first
        | assumption | (intro _)
    | (extract_lets +onlyGivenNames x; first
      | (refine Keeps.cut (a := σ) (x := x) ?_ (fun hx => ?_); (on_goal 1 => subst x); (on_goal 2 => (clear_value x; rename' x => x')))
      | (clear_value x; rename' x => x'))
    | with_reducible first
        | apply modChan_keeps | apply count_keeps | apply monitorCount_keeps | apply filterEvent_keeps | apply corrEnter_keeps
        | apply log_keeps | apply queueScrub_keeps | apply Keeps.ite | apply Keeps.foldl
    | split)

theorem readCw_keeps {σ : State} (ch : ℕ) (a : ℕ) (kind : ReadKind) (raw : Codeword) (rm : Option (BitVec 64 × Bool)) (s : State) (h : Keeps σ s) : KeepsP σ (State.readCw ch a kind raw rm s) := by
  unfold State.readCw
  (repeat' first
    | with_reducible assumption
    | (extract_lets +onlyGivenNames x; first
      | (refine Keeps.cut (a := σ) (x := x) ?_ (fun hx => ?_); (on_goal 1 => subst x); (on_goal 2 => (clear_value x; rename' x => x')))
      | (clear_value x; rename' x => x'))
    | with_reducible first
        | apply transfer_keeps | apply countUp_keeps | apply noteDecode_keeps
    | split
    | with_reducible apply KeepsP.mk
    | refine KeepsP.of_eq (by assumption) ?_)

theorem readRaw_keeps {σ : State} (ch : ℕ) (a : ℕ) (kind : ReadKind) (raw : List Codeword) (rm : List (Option (BitVec 64 × Bool))) (noise : List Codeword) (s : State) (h : Keeps σ s) : KeepsP σ (State.readRaw ch a kind raw rm noise s) := by
  unfold State.readRaw
  (repeat' first
    | with_reducible first
        | assumption | (intro _)
    | (extract_lets +onlyGivenNames x; refine KeepsP.cut (a := σ) (x := x) ?_ (fun hx => ?_); (on_goal 1 => subst x); (on_goal 2 => (clear_value x; rename' x => x')))
    | with_reducible first
        | apply readCw_keeps | apply count_keeps | apply KeepsP.foldl | apply KeepsP.snd | apply KeepsP.mk)

theorem readGranule_keeps {σ : State} (ch : ℕ) (a : ℕ) (kind : ReadKind) (noise : List Codeword) (s : State) (h : Keeps σ s) : KeepsP σ (State.readGranule ch a kind noise s) := by
  unfold State.readGranule
  (repeat' with_reducible first
      | assumption | apply readRaw_keeps)

theorem sent_keeps {σ : State} (ch : ℕ) (r : CmdRec) (s : State) (h : Keeps σ s) : Keeps σ (State.sent ch r s) := by
  unfold State.sent
  (repeat' with_reducible first
      | assumption | apply modChan_keeps)

theorem fly_keeps {σ : State} (ch : ℕ) (addr : ℕ) (issue : ℕ) (r : Reader) (s : State) (h : Keeps σ s) : Keeps σ (State.fly ch addr issue r s) := by
  unfold State.fly
  (repeat' first
    | with_reducible assumption
    | (extract_lets +onlyGivenNames x; clear_value x; rename' x => x')
    | with_reducible first
        | apply modChan_keeps | apply sent_keeps)

theorem writeCw_keeps {σ : State} (ch : ℕ) (a : ℕ) (c : Codeword) (s : State) (h : Keeps σ s) : Keeps σ (State.writeCw ch a c s) := by
  unfold State.writeCw
  (repeat' with_reducible first
      | assumption | apply transfer_keeps | apply modChan_keeps | apply putCell_keeps | apply countDown_keeps
      | apply KeepsP.snd)

theorem writeGranule_keeps {σ : State} (ch : ℕ) (t : ℕ) (a : ℕ) (cs : List Codeword) (s : State) (h : Keeps σ s) : Keeps σ (State.writeGranule ch t a cs s) := by
  unfold State.writeGranule
  (repeat' first
    | with_reducible first
        | assumption | (intro _)
    | (extract_lets +onlyGivenNames x; refine Keeps.cut (a := σ) (x := x) ?_ (fun hx => ?_); (on_goal 1 => subst x); (on_goal 2 => (clear_value x; rename' x => x')))
    | with_reducible first
        | apply sent_keeps | apply modChan_keeps | apply count_keeps | apply writeCw_keeps | apply Keeps.foldl)

theorem opened_keeps {σ : State} (ch : ℕ) (t : ℕ) (s : State) (h : Keeps σ s) : Keeps σ (State.opened ch t s) := by
  unfold State.opened
  (repeat' with_reducible first
      | assumption | apply modChan_keeps)

theorem undoWrite_keeps {σ : State} (ch : ℕ) (r : CmdRec) (s : State) (h : Keeps σ s) : Keeps σ (State.undoWrite ch r s) := by
  unfold State.undoWrite
  (repeat' first
    | with_reducible first
        | assumption | (intro _)
    | (extract_lets +onlyGivenNames x; refine Keeps.cut (a := σ) (x := x) ?_ (fun hx => ?_); (on_goal 1 => subst x); (on_goal 2 => (clear_value x; rename' x => x')))
    | with_reducible first
        | apply putCell_keeps | apply modChan_keeps | apply Keeps.foldl)

theorem zeroCells_keeps {σ : State} (ch lo n : ℕ) (s : State) (h : Keeps σ s) : Keeps σ (State.zeroCells ch lo n s) :=
  modChan_keeps _ _ _ (dram_keeps (s := { s with freeNo := _ }) _ (wf_fill _ _ _ _) h)

theorem zeroChannel_keeps {σ : State} (ch : Nat) (s : State) (h : Keeps σ s) : Keeps σ (State.zeroChannel ch s) :=
  modChan_keeps _ _ _ (dram_keeps (s := { s with freeNo := _ }) _ (wf_zeroAll _ _ _ _) h)

end Sys2Proof.Laws
end

