-- ==== Sys2Proof/Laws/KeepsCapture.lean ====
section
/-! SUPPORT. What the operations of Machine/Capture.lean keep. -/

set_option linter.unusedTactic false
set_option linter.unreachableTactic false
set_option linter.unusedVariables false
set_option linter.tactic.unusedName false

namespace Sys2Proof.Laws

open Sys2Proof Sys2Proof.Machine

theorem modCap_keeps {σ : State} (ch : ℕ) (f : Capture → Capture) (s : State) (h : Keeps σ s) : Keeps σ (State.modCap ch f s) := by
  unfold State.modCap
  (repeat' with_reducible first
      | assumption | apply modChan_keeps)

theorem consume_keeps {σ : State} (ch : ℕ) (ival : ℕ) (s : State) (h : Keeps σ s) : Keeps σ (State.consume ch ival s) := by
  unfold State.consume
  (repeat' with_reducible first
      | assumption | apply modCap_keeps)

theorem inputLoss_keeps {σ : State} (ch : ℕ) (ival : ℕ) (s : State) (h : Keeps σ s) : Keeps σ (State.inputLoss ch ival s) := by
  unfold State.inputLoss
  (repeat' with_reducible first
      | assumption | apply modCap_keeps)

theorem reject_keeps {σ : State} (ch : ℕ) (reason : ℕ) (addr : ℕ) (ival : ℕ) (s : State) (h : Keeps σ s) : Keeps σ (State.reject ch reason addr ival s) := by
  unfold State.reject
  (repeat' first
    | with_reducible assumption
    | (extract_lets +onlyGivenNames x; refine Keeps.cut (a := σ) (x := x) ?_ (fun hx => ?_); (on_goal 1 => subst x); (on_goal 2 => (clear_value x; rename' x => x')))
    | with_reducible first
        | apply modCap_keeps | apply inputLoss_keeps | apply count_keeps | apply log_keeps)

theorem sendFwd_keeps {σ : State} (ch : ℕ) (f : Fwd) (s : State) (h : Keeps σ s) : Keeps σ (State.sendFwd ch f s) := by
  unfold State.sendFwd
  (repeat' with_reducible first
      | assumption | apply sendPacket_keeps)

theorem forward_keeps {σ : State} (ch : ℕ) (addr : ℕ) (ival : ℕ) (r : Option CapRec) (counted : Bool) (s : State) (h : Keeps σ s) : Keeps σ (State.forward ch addr ival r counted s) := by
  unfold State.forward
  (repeat' first
    | with_reducible assumption
    | (extract_lets +onlyGivenNames x; first
      | (refine Keeps.cut (a := σ) (x := x) ?_ (fun hx => ?_); (on_goal 1 => subst x); (on_goal 2 => (clear_value x; rename' x => x')))
      | (clear_value x; rename' x => x'))
    | with_reducible first
        | apply count_keeps | apply consume_keeps | apply reject_keeps | apply modCap_keeps | apply inputLoss_keeps
        | apply sendFwd_keeps | apply Keeps.ite
    | split)

theorem modMerge_keeps {σ : State} (ch : ℕ) (id : ℕ) (f : Merge → Merge) (s : State) (h : Keeps σ s) : Keeps σ (State.modMerge ch id f s) := by
  unfold State.modMerge
  (repeat' with_reducible first
      | assumption | apply modCap_keeps)

theorem bindMerge_keeps {σ : State} (ch : ℕ) (id : ℕ) (s : State) (h : Keeps σ s) : Keeps σ (State.bindMerge ch id s) := by
  unfold State.bindMerge
  (repeat' first
    | with_reducible assumption
    | (extract_lets +onlyGivenNames x; first
      | (refine Keeps.cut (a := σ) (x := x) ?_ (fun hx => ?_); (on_goal 1 => subst x); (on_goal 2 => (clear_value x; rename' x => x')))
      | (clear_value x; rename' x => x'))
    | with_reducible first
        | apply modMerge_keeps | apply count_keeps | apply consume_keeps | apply modCap_keeps | apply reject_keeps
        | apply inputLoss_keeps | apply forward_keeps | apply Keeps.ite
    | split)

theorem mergeData_keeps {σ : State} (ch : ℕ) (id : ℕ) (ds : List Decoded) (s : State) (h : Keeps σ s) : Keeps σ (State.mergeData ch id ds s) := by
  unfold State.mergeData
  (repeat' first
    | with_reducible assumption
    | (extract_lets +onlyGivenNames x; first
      | (refine Keeps.cut (a := σ) (x := x) ?_ (fun hx => ?_); (on_goal 1 => subst x); (on_goal 2 => (clear_value x; rename' x => x')))
      | (clear_value x; rename' x => x'))
    | with_reducible first
        | apply bindMerge_keeps | apply count_keeps | apply modMerge_keeps | apply Keeps.ite
    | split)

theorem mergeWrite_keeps {σ : State} (ch : ℕ) (t : ℕ) (m : Merge) (s : State) (h : Keeps σ s) : Keeps σ (State.mergeWrite ch t m s) := by
  unfold State.mergeWrite
  (repeat' first
    | with_reducible assumption
    | (extract_lets +onlyGivenNames x; refine Keeps.cut (a := σ) (x := x) ?_ (fun hx => ?_); (on_goal 1 => subst x); (on_goal 2 => (clear_value x; rename' x => x')))
    | with_reducible first
        | apply modCap_keeps | apply modMerge_keeps | apply writeGranule_keeps | apply Keeps.ite
    | split)

theorem writeHalf_keeps {σ : State} (ch : ℕ) (t : ℕ) (s : State) (h : Keeps σ s) : Keeps σ (State.writeHalf ch t s) := by
  unfold State.writeHalf
  (repeat' first
    | with_reducible assumption
    | (extract_lets +onlyGivenNames x; refine Keeps.cut (a := σ) (x := x) ?_ (fun hx => ?_); (on_goal 1 => subst x); (on_goal 2 => (clear_value x; rename' x => x')))
    | with_reducible first
        | apply mergeWrite_keeps | apply modChan_keeps | apply modMerge_keeps | apply modCap_keeps | apply Keeps.ite
    | split)

theorem cancelMerges_keeps {σ : State} (ch : ℕ) (g : ℕ) (t : ℕ) (s : State) (h : Keeps σ s) : Keeps σ (State.cancelMerges ch g t s) := by
  unfold State.cancelMerges
  (repeat' with_reducible first
      | assumption | apply modCap_keeps)

theorem pushMerge_keeps {σ : State} (ch : ℕ) (m : ℕ → Merge) (s : State) (h : Keeps σ s) : KeepsP σ (State.pushMerge ch m s) := by
  unfold State.pushMerge
  (repeat' first
    | with_reducible assumption
    | (extract_lets +onlyGivenNames x; clear_value x; rename' x => x')
    | with_reducible first
        | apply modCap_keeps | apply KeepsP.mk)

theorem addressed_keeps {σ : State} (ch : ℕ) (w0 : Option Word) (w1 : Option Word) (mask : List Word) (unknown : Bool) (t : ℕ) (s : State) (h : Keeps σ s) : KeepsP σ (State.addressed ch w0 w1 mask unknown t s) := by
  unfold State.addressed
  (repeat' first
    | with_reducible assumption
    | (extract_lets +onlyGivenNames x; first
      | (refine Keeps.cut (a := σ) (x := x) ?_ (fun hx => ?_); (on_goal 1 => subst x); (on_goal 2 => (clear_value x; rename' x => x')))
      | (clear_value x; rename' x => x'))
    | with_reducible first
        | apply reject_keeps | apply modCap_keeps | apply inputLoss_keeps | apply count_keeps | apply consume_keeps
        | apply Keeps.ite | apply KeepsP.ite
    | split
    | with_reducible apply KeepsP.mk
    | assumption)

theorem bindTemplate_keeps {σ : State} (ch : ℕ) (t : ℕ) (open_ : ℕ → Bool) (s : State) (h : Keeps σ s) : KeepsP σ (State.bindTemplate ch t open_ s) := by
  unfold State.bindTemplate
  (repeat' first
    | with_reducible first
        | assumption | (intro _)
    | (extract_lets +onlyGivenNames x; first
      | (refine Keeps.cut (a := σ) (x := x) ?_ (fun hx => ?_); (on_goal 1 => subst x); (on_goal 2 => (clear_value x; rename' x => x')))
      | (clear_value x; rename' x => x'))
    | with_reducible first
        | apply modCap_keeps | apply reject_keeps | apply Keeps.foldl | apply KeepsP.mk)

theorem scheduledRecord_keeps {σ : State} (ch : ℕ) (g : ℕ) (ws : List (Option Word)) (t : ℕ) (s : State) (h : Keeps σ s) : Keeps σ (State.scheduledRecord ch g ws t s) := by
  unfold State.scheduledRecord
  (repeat' first
    | with_reducible assumption
    | (extract_lets +onlyGivenNames x; first
      | (refine Keeps.cut (a := σ) (x := x) ?_ (fun hx => ?_); (on_goal 1 => subst x); (on_goal 2 => (clear_value x; rename' x => x')))
      | (clear_value x; rename' x => x'))
    | with_reducible first
        | apply modCap_keeps | apply Keeps.ite)

theorem execRecordComplete_keeps {σ : State} (ch : ℕ) (group : ℕ) (hit : StoreHit) (s : State) (h : Keeps σ s) : KeepsR σ (execRecordComplete ch group hit s) := by
  unfold execRecordComplete
  (repeat' first
    | with_reducible assumption
    | (extract_lets +onlyGivenNames x; first
      | (refine Keeps.cut (a := σ) (x := x) ?_ (fun hx => ?_); (on_goal 1 => subst x); (on_goal 2 => (clear_value x; rename' x => x')))
      | (clear_value x; rename' x => x'))
    | with_reducible first
        | apply modCap_keeps | apply storeHit_keeps | apply scheduledRecord_keeps | apply addressed_keeps | apply KeepsR.ite
        | apply KeepsR.next | apply KeepsP.snd)

theorem modAna_keeps {σ : State} (ch : ℕ) (f : Analysis → Analysis) (s : State) (h : Keeps σ s) : Keeps σ (State.modAna ch f s) := by
  unfold State.modAna
  (repeat' with_reducible first
      | assumption | apply modChan_keeps)

theorem anaData_keeps {σ : State} (ch : ℕ) (p : ℕ) (idx : ℕ) (issue : ℕ) (v : Option (BitVec 256)) (s : State) (h : Keeps σ s) : Keeps σ (State.anaData ch p idx issue v s) := by
  unfold State.anaData
  (repeat' with_reducible first
      | assumption | apply modChan_keeps | apply Keeps.ite)

theorem anaRead_keeps {σ : State} (ch : ℕ) (addr : ℕ) (p : ℕ) (idx : ℕ) (before : ℕ) (issue : ℕ) (ds : List Decoded) (s : State) (h : Keeps σ s) : Keeps σ (State.anaRead ch addr p idx before issue ds s) := by
  unfold State.anaRead
  (repeat' first
    | with_reducible assumption
    | (extract_lets +onlyGivenNames x; clear_value x; rename' x => x')
    | with_reducible apply anaData_keeps)

end Sys2Proof.Laws
end

