-- ==== Sys2Proof/Laws/KeepsSource.lean ====
section
/-! SUPPORT. What the operations of Machine/Source.lean keep. -/

set_option linter.unusedTactic false
set_option linter.unreachableTactic false
set_option linter.unusedVariables false
set_option linter.tactic.unusedName false

namespace Sys2Proof.Laws

open Sys2Proof Sys2Proof.Machine

theorem modGroup_keeps {σ : State} (rx : Bool) (g : ℕ) (f : LaneGroup → LaneGroup) (s : State) (h : Keeps σ s) : Keeps σ (State.modGroup rx g f s) := by
  unfold State.modGroup
  (repeat' first
    | (extract_lets +onlyGivenNames x; clear_value x; rename' x => x')
    | split
    | assumption)

theorem notice_keeps {σ : State} (g : ℕ) (w : Word) (s : State) (h : Keeps σ s) : Keeps σ (State.notice g w s) := by
  unfold State.notice
  (repeat' with_reducible first
      | assumption | apply modGroup_keeps)

theorem tierNotice_keeps {σ : State} (ch : ℕ) (tier : ℕ) (inForce : Bool) (s : State) (h : Keeps σ s) : Keeps σ (State.tierNotice ch tier inForce s) := by
  unfold State.tierNotice
  (repeat' with_reducible first
      | assumption | (intro _) | apply notice_keeps | apply Keeps.ite | apply Keeps.foldl)

theorem modSrc_keeps {σ : State} (ch : ℕ) (f : Source → Source) (s : State) (h : Keeps σ s) : Keeps σ (State.modSrc ch f s) := by
  unfold State.modSrc
  (repeat' with_reducible first
      | assumption | apply modChan_keeps)

theorem modSrcGroup_keeps {σ : State} (ch : ℕ) (g : ℕ) (f : SrcGroup → SrcGroup) (s : State) (h : Keeps σ s) : Keeps σ (State.modSrcGroup ch g f s) := by
  unfold State.modSrcGroup
  (repeat' with_reducible first
      | assumption | apply modSrc_keeps)

theorem leaveGran_keeps {σ : State} (ch : ℕ) (deadline : Option ℕ) (x : SrcGran) (s : State) (h : Keeps σ s) : Keeps σ (State.leaveGran ch deadline x s) := by
  unfold State.leaveGran
  (repeat' first
    | with_reducible assumption
    | (extract_lets +onlyGivenNames x; refine Keeps.cut (a := σ) (x := x) ?_ (fun hx => ?_); (on_goal 1 => subst x); (on_goal 2 => (clear_value x; rename' x => x')))
    | with_reducible first
        | apply count_keeps | apply modSrc_keeps | apply Keeps.ite)

theorem sweepGrans_keeps {σ : State} (ch : ℕ) (g : ℕ) (deadline : Option ℕ) (s : State) (h : Keeps σ s) : Keeps σ (State.sweepGrans ch g deadline s) := by
  unfold State.sweepGrans
  (repeat' first
    | with_reducible first
        | assumption | (intro _)
    | (extract_lets +onlyGivenNames x; first
      | (refine Keeps.cut (a := σ) (x := x) ?_ (fun hx => ?_); (on_goal 1 => subst x); (on_goal 2 => (clear_value x; rename' x => x')))
      | (clear_value x; rename' x => x'))
    | with_reducible first
        | apply modSrcGroup_keeps | apply leaveGran_keeps | apply Keeps.foldl)

theorem dropGran_keeps {σ : State} (ch : ℕ) (g : ℕ) (id : ℕ) (s : State) (h : Keeps σ s) : Keeps σ (State.dropGran ch g id s) := by
  unfold State.dropGran
  (repeat' with_reducible first
      | assumption | apply modSrc_keeps | apply modSrcGroup_keeps | apply Keeps.ite)

theorem settleMarks_keeps {σ : State} (ch : ℕ) (g : ℕ) (s : State) (h : Keeps σ s) : Keeps σ (State.settleMarks ch g s) := by
  unfold State.settleMarks
  (repeat' first
    | with_reducible assumption
    | (extract_lets +onlyGivenNames x; clear_value x; rename' x => x')
    | with_reducible first
        | apply modChan_keeps | apply modSrcGroup_keeps | apply Keeps.ite)

theorem srcEvents_keeps {σ : State} (ch : ℕ) (g : ℕ) (e : SrcEvents) (s : State) (h : Keeps σ s) : Keeps σ (State.srcEvents ch g e s) := by
  unfold State.srcEvents
  (repeat' first
    | with_reducible first
        | assumption | (intro _)
    | (extract_lets +onlyGivenNames x; refine Keeps.cut (a := σ) (x := x) ?_ (fun hx => ?_); (on_goal 1 => subst x); (on_goal 2 => (clear_value x; rename' x => x')))
    | with_reducible first
        | apply dropGran_keeps | apply log_keeps | apply logAt_keeps | apply sweepGrans_keeps | apply settleMarks_keeps
        | apply Keeps.ite | apply Keeps.foldl)

theorem srcPrep_keeps {σ : State} (y0 : ℕ) (y1 : ℕ) (y2 : ℕ) (y3 : State) (h : Keeps σ y3) : Keeps σ (State.srcPrep y0 y1 y2 y3) := by
  induction y0 generalizing y1 y2 y3 with
  | zero =>
    unfold State.srcPrep
    with_reducible assumption
  | succ n ih =>
    unfold State.srcPrep
    (repeat' first
      | with_reducible assumption
      | (extract_lets +onlyGivenNames x; clear_value x; rename' x => x')
      | with_reducible first
          | apply srcEvents_keeps | apply modSrcGroup_keeps | apply ih
      | split)

theorem srcExpand_keeps {σ : State} (ch : ℕ) (g : ℕ) (s : State) (h : Keeps σ s) : Keeps σ (State.srcExpand ch g s) := by
  unfold State.srcExpand
  (repeat' with_reducible first
      | assumption | apply srcPrep_keeps)

theorem releaseWord_keeps {σ : State} (ch : ℕ) (g : ℕ) (s : State) (h : Keeps σ s) : Keeps σ (State.releaseWord ch g s) := by
  unfold State.releaseWord
  (repeat' first
    | with_reducible assumption
    | (extract_lets +onlyGivenNames x; first
      | (refine Keeps.cut (a := σ) (x := x) ?_ (fun hx => ?_); (on_goal 1 => subst x); (on_goal 2 => (clear_value x; rename' x => x')))
      | (clear_value x; rename' x => x'))
    | with_reducible first
        | apply modGroup_keeps | apply count_keeps | apply modSrc_keeps | apply log_keeps | apply sweepGrans_keeps
        | apply modSrcGroup_keeps | apply Keeps.ite
    | split)

theorem execWordRelease_keeps {σ : State} (ch : ℕ) (group : ℕ) (s : State) (h : Keeps σ s) : KeepsR σ (execWordRelease ch group s) := by
  unfold execWordRelease
  (repeat' with_reducible first
      | assumption | apply releaseWord_keeps | apply srcExpand_keeps | apply KeepsR.ite | apply KeepsR.next)

theorem overflow_keeps {σ : State} (ch : ℕ) (g : ℕ) (id : ℕ) (s : State) (h : Keeps σ s) : Keeps σ (State.overflow ch g id s) := by
  unfold State.overflow
  (repeat' with_reducible first
      | assumption | apply log_keeps | apply dropGran_keeps)

theorem srcRead_keeps {σ : State} (ch : ℕ) (w : Word) (sched : ℕ) (issued : Bool) (s : State) (h : Keeps σ s) : KeepsP σ (State.srcRead ch w sched issued s) := by
  unfold State.srcRead
  (repeat' first
    | with_reducible assumption
    | (extract_lets +onlyGivenNames x; first
      | (refine Keeps.cut (a := σ) (x := x) ?_ (fun hx => ?_); (on_goal 1 => subst x); (on_goal 2 => (clear_value x; rename' x => x')))
      | (clear_value x; rename' x => x'))
    | with_reducible first
        | apply modSrc_keeps | apply modSrcGroup_keeps | apply overflow_keeps | apply srcExpand_keeps | apply Keeps.ite
        | apply KeepsP.mk)

theorem srcIssue_keeps {σ : State} (ch : ℕ) (g : ℕ) (id : ℕ) (s : State) (h : Keeps σ s) : Keeps σ (State.srcIssue ch g id s) := by
  unfold State.srcIssue
  (repeat' first
    | with_reducible assumption
    | (extract_lets +onlyGivenNames x; first
      | (refine Keeps.cut (a := σ) (x := x) ?_ (fun hx => ?_); (on_goal 1 => subst x); (on_goal 2 => (clear_value x; rename' x => x')))
      | (clear_value x; rename' x => x'))
    | with_reducible first
        | apply modSrcGroup_keeps | apply srcExpand_keeps | apply overflow_keeps | apply Keeps.ite)

theorem srcData_keeps {σ : State} (ch : ℕ) (g : ℕ) (id : ℕ) (issue : ℕ) (ds : List Decoded) (s : State) (h : Keeps σ s) : Keeps σ (State.srcData ch g id issue ds s) := by
  unfold State.srcData
  (repeat' first
    | with_reducible assumption
    | (extract_lets +onlyGivenNames x; first
      | (refine Keeps.cut (a := σ) (x := x) ?_ (fun hx => ?_); (on_goal 1 => subst x); (on_goal 2 => (clear_value x; rename' x => x')))
      | (clear_value x; rename' x => x'))
    | with_reducible first
        | apply modSrcGroup_keeps | apply dropGran_keeps | apply srcExpand_keeps | apply Keeps.ite)

theorem endPanic_keeps {σ : State} (ch : ℕ) (s : State) (h : Keeps σ s) : Keeps σ (State.endPanic ch s) := by
  unfold State.endPanic
  (repeat' first
    | with_reducible assumption
    | (extract_lets +onlyGivenNames x; clear_value x; rename' x => x')
    | with_reducible first
        | apply log_keeps | apply modSrc_keeps | apply Keeps.ite)

theorem updatePanic_keeps {σ : State} (ch : ℕ) (s : State) (h : Keeps σ s) : Keeps σ (State.updatePanic ch s) := by
  unfold State.updatePanic
  (repeat' first
    | with_reducible assumption
    | (extract_lets +onlyGivenNames x; first
      | (refine Keeps.cut (a := σ) (x := x) ?_ (fun hx => ?_); (on_goal 1 => subst x); (on_goal 2 => (clear_value x; rename' x => x')))
      | (clear_value x; rename' x => x'))
    | with_reducible first
        | apply modSrc_keeps | apply endPanic_keeps | apply Keeps.ite
    | split)

theorem stopStreams_keeps {σ : State} (ch : ℕ) (s : State) (h : Keeps σ s) : Keeps σ (State.stopStreams ch s) := by
  unfold State.stopStreams
  (repeat' first
    | with_reducible first
        | assumption | (intro _)
    | (extract_lets +onlyGivenNames x; refine Keeps.cut (a := σ) (x := x) ?_ (fun hx => ?_); (on_goal 1 => subst x); (on_goal 2 => (clear_value x; rename' x => x')))
    | with_reducible first
        | apply modSrc_keeps | apply srcExpand_keeps | apply sweepGrans_keeps | apply Keeps.foldl)

end Sys2Proof.Laws
end

