-- ==== Sys2Proof/Laws/KeepsCrc.lean ====
section
/-! SUPPORT. What the operations of Machine/Crc.lean keep. -/

set_option linter.unusedTactic false
set_option linter.unreachableTactic false
set_option linter.unusedVariables false
set_option linter.tactic.unusedName false

namespace Sys2Proof.Laws

open Sys2Proof Sys2Proof.Machine

theorem modCrc_keeps {σ : State} (u : ℕ) (f : Crc → Crc) (s : State) (h : Keeps σ s) : Keeps σ (State.modCrc u f s) := by
  unfold State.modCrc
  (repeat' first
    | (extract_lets +onlyGivenNames x; clear_value x; rename' x => x')
    | assumption)

theorem inlineJob_keeps {σ : State} (ok : Bool) (res : ℕ) (s : State) (h : Keeps σ s) : Keeps σ (State.inlineJob ok res s) := by
  unfold State.inlineJob
  (repeat' with_reducible first
      | assumption | apply modCrc_keeps)

theorem abandonCrc_keeps {σ : State} (f : Crc → Bool) (s : State) (h : Keeps σ s) : Keeps σ (State.abandonCrc f s) := by
  unfold State.abandonCrc
  (repeat' with_reducible first
      | assumption | (intro _) | apply log_keeps | apply modCrc_keeps | apply Keeps.ite | apply Keeps.foldl)

end Sys2Proof.Laws
end

