-- ==== Sys2Proof/Laws/KeepsDirect.lean ====
section
/-! SUPPORT. What the operations of Machine/Direct.lean keep. -/

set_option linter.unusedTactic false
set_option linter.unreachableTactic false
set_option linter.unusedVariables false
set_option linter.tactic.unusedName false

namespace Sys2Proof.Laws

open Sys2Proof Sys2Proof.Machine

theorem makeupOp_keeps {σ : State} (ch : ℕ) (t : ℕ) (tw : ℕ) (m : MakeUp) (s : State) (h : Keeps σ s) : Keeps σ (State.makeupOp ch t tw m s) := by
  unfold State.makeupOp
  (repeat' first
    | with_reducible assumption
    | (extract_lets +onlyGivenNames x; refine Keeps.cut (a := σ) (x := x) ?_ (fun hx => ?_); (on_goal 1 => subst x); (on_goal 2 => (clear_value x; rename' x => x')))
    | with_reducible first
        | apply modChan_keeps | apply count_keeps | apply opened_keeps | apply modCap_keeps | apply mergeWrite_keeps
        | apply fly_keeps | apply srcIssue_keeps | apply modMerge_keeps | apply writeGranule_keeps
    | split)

theorem checkLate_keeps {σ : State} (ch : ℕ) (s : State) (h : Keeps σ s) : Keeps σ (State.checkLate ch s) := by
  unfold State.checkLate
  (repeat' first
    | with_reducible assumption
    | (extract_lets +onlyGivenNames x; clear_value x; rename' x => x')
    | with_reducible first
        | apply log_keeps | apply modChan_keeps | apply Keeps.ite)

theorem scrubPoisoned_keeps {σ : State} (ch : ℕ) (a : ℕ) (s : State) (h : Keeps σ s) : Keeps σ (State.scrubPoisoned ch a s) := by
  unfold State.scrubPoisoned
  (repeat' first
    | with_reducible assumption
    | (extract_lets +onlyGivenNames x; first
      | (refine Keeps.cut (a := σ) (x := x) ?_ (fun hx => ?_); (on_goal 1 => subst x); (on_goal 2 => (clear_value x; rename' x => x')))
      | (clear_value x; rename' x => x'))
    | with_reducible first
        | apply log_keeps | apply modChan_keeps | apply corrEnter_keeps)

theorem scrubRewrite_keeps {σ : State} (ch : ℕ) (t : ℕ) (g : ℕ) (ws : List Codeword) (s : State) (h : Keeps σ s) : Keeps σ (State.scrubRewrite ch t g ws s) := by
  unfold State.scrubRewrite
  (repeat' first
    | with_reducible assumption
    | (extract_lets +onlyGivenNames x; refine Keeps.cut (a := σ) (x := x) ?_ (fun hx => ?_); (on_goal 1 => subst x); (on_goal 2 => (clear_value x; rename' x => x')))
    | with_reducible first
        | apply modChan_keeps | apply count_keeps | apply writeGranule_keeps)

theorem visit_keeps {σ : State} (ch : ℕ) (i : ℕ) (s : State) (h : Keeps σ s) : Keeps σ (State.visit ch i s) := by
  unfold State.visit
  (repeat' first
    | with_reducible assumption
    | (extract_lets +onlyGivenNames x; first
      | (refine Keeps.cut (a := σ) (x := x) ?_ (fun hx => ?_); (on_goal 1 => subst x); (on_goal 2 => (clear_value x; rename' x => x')))
      | (clear_value x; rename' x => x'))
    | with_reducible first
        | apply checkLate_keeps | apply modChan_keeps)

theorem scrubOp_keeps {σ : State} (ch : ℕ) (t : ℕ) (mine : Bool → Bool) (free : ℕ → Bool) (noise : List Codeword) (s : State) (h : Keeps σ s) : KeepsP σ (State.scrubOp ch t mine free noise s) := by
  unfold State.scrubOp
  (repeat' first
    | with_reducible first
        | assumption | (intro _)
    | (extract_lets +onlyGivenNames x; first
      | (refine Keeps.cut (a := σ) (x := x) ?_ (fun hx => ?_); (on_goal 1 => subst x); (on_goal 2 => (clear_value x; rename' x => x')))
      | (clear_value x; rename' x => x'))
    | with_reducible first
        | apply scrubRewrite_keeps | apply modChan_keeps | apply visit_keeps | apply sent_keeps | apply count_keeps
        | apply readGranule_keeps | apply scrubPoisoned_keeps | apply Keeps.ite | apply KeepsP.ite | apply Keeps.foldl
    | split
    | with_reducible apply KeepsP.mk
    | refine KeepsP.of_eq (by assumption) ?_)

theorem daFinish_keeps {σ : State} (n : ℕ) (seq : ℕ) (s : State) (h : Keeps σ s) : Keeps σ (State.daFinish n seq s) := by
  unfold State.daFinish
  (repeat' first
    | with_reducible assumption
    | (extract_lets +onlyGivenNames x; first
      | (refine Keeps.cut (a := σ) (x := x) ?_ (fun hx => ?_); (on_goal 1 => subst x); (on_goal 2 => (clear_value x; rename' x => x')))
      | (clear_value x; rename' x => x'))
    | with_reducible first
        | apply finish_keeps | apply Keeps.ite
    | split
    | assumption)

theorem daIssue_keeps {σ : State} (ch : ℕ) (t : ℕ) (n : ℕ) (d : Desc) (g : ℕ) (fail : Bool) (s : State) (h : Keeps σ s) : Keeps σ (State.daIssue ch t n d g fail s) := by
  unfold State.daIssue
  (repeat' first
    | with_reducible assumption
    | (extract_lets +onlyGivenNames x; first
      | (refine Keeps.cut (a := σ) (x := x) ?_ (fun hx => ?_); (on_goal 1 => subst x); (on_goal 2 => (clear_value x; rename' x => x')))
      | (clear_value x; rename' x => x'))
    | with_reducible first
        | apply modDesc_keeps | apply count_keeps | apply opened_keeps | apply fly_keeps | apply writeGranule_keeps
        | apply daFinish_keeps | apply Keeps.ite)

theorem crcIssue_keeps {σ : State} (ch : ℕ) (t : ℕ) (k : ℕ) (x : ℕ × ℕ) (s : State) (h : Keeps σ s) : Keeps σ (State.crcIssue ch t k x s) := by
  unfold State.crcIssue
  (repeat' first
    | with_reducible assumption
    | (extract_lets +onlyGivenNames x; first
      | (refine Keeps.cut (a := σ) (x := x) ?_ (fun hx => ?_); (on_goal 1 => subst x); (on_goal 2 => (clear_value x; rename' x => x')))
      | (clear_value x; rename' x => x'))
    | with_reducible first
        | apply count_keeps | apply fly_keeps | apply opened_keeps
    | assumption)

theorem daOp_keeps {σ : State} (ch : ℕ) (t : ℕ) (free : ℕ → Bool) (fail : Bool) (s : State) (y5 : List ℕ) (h : Keeps σ s) : KeepsP σ (State.daOp ch t free fail s y5) := by
  induction y5 generalizing ch t free fail s with
  | nil =>
    unfold State.daOp
    (repeat' with_reducible first
        | assumption | apply KeepsP.mk)
  | cons x l ih =>
    unfold State.daOp
    (repeat' first
      | with_reducible assumption
      | (extract_lets +onlyGivenNames x; first
        | (refine Keeps.cut (a := σ) (x := x) ?_ (fun hx => ?_); (on_goal 1 => subst x); (on_goal 2 => (clear_value x; rename' x => x')))
        | (clear_value x; rename' x => x'))
      | with_reducible first
          | apply crcIssue_keeps | apply modChan_keeps | apply daIssue_keeps | apply ih | apply KeepsP.ite
      | split
      | with_reducible apply KeepsP.mk)

theorem noteStalled_keeps {σ : State} (ch : ℕ) (again : Bool) (s : State) (h : Keeps σ s) : Keeps σ (State.noteStalled ch again s) := by
  unfold State.noteStalled
  (repeat' first
    | with_reducible first
        | assumption | (intro _)
    | (extract_lets +onlyGivenNames x; clear_value x; rename' x => x')
    | with_reducible first
        | apply modChan_keeps | apply Keeps.foldl)

theorem daStart_keeps {σ : State} (n : ℕ) (d : Desc) (staged : List Byte) (s : State) (h : Keeps σ s) : Keeps σ (State.daStart n d staged s) := by
  unfold State.daStart
  (repeat' with_reducible first
      | assumption | apply modDesc_keeps)

theorem startDa_keeps {σ : State} (n : ℕ) (op : ℕ) (s : State) (h : Keeps σ s) : Keeps σ (State.startDa n op s) := by
  unfold State.startDa
  (repeat' first
    | with_reducible first
        | assumption | apply finish_keeps | apply daStart_keeps | apply Keeps.ite
    | split)

theorem execRead_keeps {σ : State} (ctx : ℕ) (s : State) (h : Keeps σ s) : KeepsR σ (execRead ctx s) := by
  unfold execRead
  (repeat' with_reducible first
      | assumption | apply startDa_keeps | apply KeepsR.next)

theorem execFill_keeps {σ : State} (ctx : ℕ) (s : State) (h : Keeps σ s) : KeepsR σ (execFill ctx s) := by
  unfold execFill
  (repeat' with_reducible first
      | assumption | apply startDa_keeps | apply KeepsR.next)

theorem execWrite_keeps {σ : State} (ctx : ℕ) (fetches : List Fetch) (s : State) (h : Keeps σ s) : KeepsR σ (execWrite ctx fetches s) := by
  unfold execWrite
  (repeat' first
    | with_reducible first
        | assumption | (intro _)
    | (extract_lets +onlyGivenNames x; first
      | (refine Keeps.cut (a := σ) (x := x) ?_ (fun hx => ?_); (on_goal 1 => subst x); (on_goal 2 => (clear_value x; rename' x => x')))
      | (refine useFun₂ x ?_; subst x; try beta_reduce)
      | (clear_value x; rename' x => x'))
    | with_reducible first
        | apply finish_keeps | apply hostRead_keeps | apply count_keeps | apply daStart_keeps | apply Keeps.ite
        | apply KeepsR.ite | apply Keeps.foldl | apply KeepsR.next
    | split
    | assumption)

end Sys2Proof.Laws
end

