-- ==== Sys2Proof/Laws/KeepsSlots.lean ====
section
/-! SUPPORT. What the operations of Machine/Slots.lean keep. -/

set_option linter.unusedTactic false
set_option linter.unreachableTactic false
set_option linter.unusedVariables false
set_option linter.tactic.unusedName false

namespace Sys2Proof.Laws

open Sys2Proof Sys2Proof.Machine

theorem modSeq_keeps {σ : State} (ch : ℕ) (f : Seq → Seq) (s : State) (h : Keeps σ s) : Keeps σ (State.modSeq ch f s) := by
  unfold State.modSeq
  (repeat' with_reducible first
      | assumption | apply modChan_keeps)

theorem modReg_keeps {σ : State} (ch : ℕ) (f : Region → Region) (s : State) (h : Keeps σ s) : Keeps σ (State.modReg ch f s) := by
  unfold State.modReg
  (repeat' with_reducible first
      | assumption | apply modChan_keeps)

theorem refreshAt_keeps {σ : State} (ch : ℕ) (t : ℕ) (f : ℕ → Bool) (s : State) (h : Keeps σ s) : KeepsP σ (State.refreshAt ch t f s) := by
  unfold State.refreshAt
  (repeat' first
    | with_reducible assumption
    | (extract_lets +onlyGivenNames x; first
      | (refine Keeps.cut (a := σ) (x := x) ?_ (fun hx => ?_); (on_goal 1 => subst x); (on_goal 2 => (clear_value x; rename' x => x')))
      | (clear_value x; rename' x => x'))
    | with_reducible first
        | apply sent_keeps | apply modChan_keeps
    | split
    | with_reducible apply KeepsP.mk)

theorem wardenRefresh_keeps {σ : State} (ch : ℕ) (t : ℕ) (s : State) (h : Keeps σ s) : Keeps σ (State.wardenRefresh ch t s) := by
  unfold State.wardenRefresh
  (repeat' first
    | with_reducible assumption
    | (extract_lets +onlyGivenNames x; first
      | (refine Keeps.cut (a := σ) (x := x) ?_ (fun hx => ?_); (on_goal 1 => subst x); (on_goal 2 => (clear_value x; rename' x => x')))
      | (clear_value x; rename' x => x'))
    | with_reducible first
        | apply sent_keeps | apply count_keeps | apply modChan_keeps)

theorem updateStarved_keeps {σ : State} (ch : ℕ) (s : State) (h : Keeps σ s) : Keeps σ (State.updateStarved ch s) := by
  unfold State.updateStarved
  (repeat' first
    | with_reducible assumption
    | (extract_lets +onlyGivenNames x; first
      | (refine Keeps.cut (a := σ) (x := x) ?_ (fun hx => ?_); (on_goal 1 => subst x); (on_goal 2 => (clear_value x; rename' x => x')))
      | (clear_value x; rename' x => x'))
    | with_reducible first
        | apply modChan_keeps | apply log_keeps | apply Keeps.ite)

theorem checkpoint_keeps {σ : State} (ch : ℕ) (t : ℕ) (p : Pos) (g : List ℕ) (s : State) (h : Keeps σ s) : Keeps σ (State.checkpoint ch t p g s) := by
  unfold State.checkpoint
  (repeat' first
    | with_reducible assumption
    | (extract_lets +onlyGivenNames x; first
      | (refine Keeps.cut (a := σ) (x := x) ?_ (fun hx => ?_); (on_goal 1 => subst x); (on_goal 2 => (clear_value x; rename' x => x')))
      | (clear_value x; rename' x => x'))
    | with_reducible first
        | apply modChan_keeps | apply updateStarved_keeps)

theorem lastSlot_keeps {σ : State} (ch : ℕ) (t : ℕ) (s : State) (h : Keeps σ s) : Keeps σ (State.lastSlot ch t s) := by
  unfold State.lastSlot
  (repeat' with_reducible first
      | assumption | apply stopStreams_keeps | apply modChan_keeps)

theorem stopWaiting_keeps {σ : State} (ch : ℕ) (status : ℕ) (s : State) (h : Keeps σ s) : Keeps σ (State.stopWaiting ch status s) := by
  unfold State.stopWaiting
  (repeat' first
    | with_reducible first
        | assumption | (intro _) | apply finish_keeps | apply Keeps.foldl
    | split)

theorem endStream_keeps {σ : State} (ch : ℕ) (t : ℕ) (s : State) (h : Keeps σ s) : Keeps σ (State.endStream ch t s) := by
  unfold State.endStream
  (repeat' with_reducible first
      | assumption | apply lastSlot_keeps | apply modChan_keeps | apply stopWaiting_keeps)

theorem moveTo_keeps {σ : State} (ch : ℕ) (t : ℕ) (w : Word) (p : Option Pos) (s : State) (h : Keeps σ s) : Keeps σ (State.moveTo ch t w p s) := by
  unfold State.moveTo
  (repeat' first
    | with_reducible first
        | assumption | apply endStream_keeps | apply modSeq_keeps
    | split)

theorem advance_keeps {σ : State} (ch : ℕ) (w : Word) (s : State) (h : Keeps σ s) : Keeps σ (State.advance ch w s) := by
  unfold State.advance
  (repeat' first
    | with_reducible assumption
    | (extract_lets +onlyGivenNames x; first
      | (refine Keeps.cut (a := σ) (x := x) ?_ (fun hx => ?_); (on_goal 1 => subst x); (on_goal 2 => (clear_value x; rename' x => x')))
      | (clear_value x; rename' x => x')
      | (subst x; try beta_reduce))
    | with_reducible first
        | apply modSeq_keeps | apply checkpoint_keeps | apply updatePanic_keeps | apply lastSlot_keeps | apply moveTo_keeps
        | apply Keeps.ite)

theorem slotDone_keeps {σ : State} (ch : ℕ) (w : Word) (s : State) (h : Keeps σ s) : Keeps σ (State.slotDone ch w s) := by
  unfold State.slotDone
  (repeat' with_reducible first
      | assumption | apply advance_keeps | apply count_keeps)

theorem cardFail_keeps {σ : State} (ch : ℕ) (s : State) (h : Keeps σ s) : Keeps σ (State.cardFail ch s) := by
  unfold State.cardFail
  (repeat' first
    | with_reducible assumption
    | (extract_lets +onlyGivenNames x; first
      | (refine Keeps.cut (a := σ) (x := x) ?_ (fun hx => ?_); (on_goal 1 => subst x); (on_goal 2 => (clear_value x; rename' x => x')))
      | (clear_value x; rename' x => x'))
    | with_reducible first
        | apply modChan_keeps | apply log_keeps | apply lastSlot_keeps)

theorem execNopSlot_keeps {σ : State} (ch : ℕ) (hit : StoreHit) (s : State) (h : Keeps σ s) : KeepsR σ (execNopSlot ch hit s) := by
  unfold execNopSlot
  (repeat' first
    | with_reducible first
        | assumption | apply cardFail_keeps | apply slotDone_keeps | apply noteFix_keeps | apply Keeps.ite | apply KeepsR.ite
        | apply KeepsR.next
    | split)

theorem sentRow_keeps {σ : State} (ch : ℕ) (t : ℕ) (s : State) (h : Keeps σ s) : Keeps σ (State.sentRow ch t s) := by
  unfold State.sentRow
  (repeat' with_reducible first
      | assumption | apply sent_keeps)

theorem actSlot_keeps {σ : State} (ch : ℕ) (w : Word) (s : State) (h : Keeps σ s) : Keeps σ (State.actSlot ch w s) := by
  unfold State.actSlot
  (repeat' first
    | with_reducible assumption
    | (extract_lets +onlyGivenNames x; first
      | (refine KeepsP.cut (a := σ) (x := x) ?_ (fun hx => ?_); (on_goal 1 => subst x); (on_goal 2 => (clear_value x; rename' x => x')))
      | (clear_value x; rename' x => x'))
    | with_reducible first
        | apply bindTemplate_keeps | apply modReg_keeps | apply Keeps.ite | apply KeepsP.snd
    | split)

theorem execAct_keeps {σ : State} (ch : ℕ) (s : State) (h : Keeps σ s) : KeepsR σ (execAct ch s) := by
  unfold execAct
  (repeat' first
    | with_reducible first
        | assumption | apply slotDone_keeps | apply sentRow_keeps | apply actSlot_keeps | apply KeepsR.next
    | split)

theorem rdReader_keeps {σ : State} (ch : ℕ) (w : Word) (sent : Bool) (s : State) (h : Keeps σ s) : KeepsP σ (State.rdReader ch w sent s) := by
  unfold State.rdReader
  (repeat' first
    | with_reducible assumption
    | (extract_lets +onlyGivenNames x; first
      | (refine KeepsP.cut (a := σ) (x := x) ?_ (fun hx => ?_); (on_goal 1 => subst x); (on_goal 2 => (clear_value x; rename' x => x')))
      | (clear_value x; rename' x => x'))
    | with_reducible first
        | apply srcRead_keeps | apply modAna_keeps | apply KeepsP.ite | apply KeepsP.snd | apply KeepsP.mk)

theorem execRd_keeps {σ : State} (ch : ℕ) (s : State) (h : Keeps σ s) : KeepsR σ (execRd ch s) := by
  unfold execRd
  (repeat' first
    | with_reducible assumption
    | (extract_lets +onlyGivenNames x; first
      | (refine KeepsP.cut (a := σ) (x := x) ?_ (fun hx => ?_); (on_goal 1 => subst x); (on_goal 2 => (clear_value x; rename' x => x')))
      | (clear_value x; rename' x => x'))
    | with_reducible first
        | apply rdReader_keeps | apply slotDone_keeps | apply fly_keeps | apply KeepsR.next | apply KeepsP.snd
    | split)

theorem wrData_keeps {σ : State} (ch : ℕ) (w : Word) (hit : StoreHit) (s : State) (h : Keeps σ s) : KeepsP σ (State.wrData ch w hit s) := by
  unfold State.wrData
  (repeat' first
    | with_reducible assumption
    | (extract_lets +onlyGivenNames x; first
      | (refine Keeps.cut (a := σ) (x := x) ?_ (fun hx => ?_); (on_goal 1 => subst x); (on_goal 2 => (clear_value x; rename' x => x')))
      | (clear_value x; rename' x => x'))
    | with_reducible first
        | apply modAna_keeps | apply storeHit_keeps | apply KeepsP.ite | apply KeepsP.mk)

theorem execWr_keeps {σ : State} (ch : ℕ) (hit : StoreHit) (s : State) (h : Keeps σ s) : KeepsR σ (execWr ch hit s) := by
  unfold execWr
  (repeat' first
    | with_reducible assumption
    | (extract_lets +onlyGivenNames x; first
      | (refine Keeps.cut (a := σ) (x := x) ?_ (fun hx => ?_); (on_goal 1 => subst x); (on_goal 2 => (clear_value x; rename' x => x')))
      | (refine KeepsP.cut (a := σ) (x := x) ?_ (fun hx => ?_); (on_goal 1 => subst x); (on_goal 2 => (clear_value x; rename' x => x')))
      | (clear_value x; rename' x => x'))
    | with_reducible first
        | apply wrData_keeps | apply writeGranule_keeps | apply cancelMerges_keeps | apply slotDone_keeps | apply KeepsR.next
        | apply KeepsP.snd
    | split)

theorem readHalf_keeps {σ : State} (ch : ℕ) (w : Word) (made : Bool) (s : State) (h : Keeps σ s) : KeepsP σ (State.readHalf ch w made s) := by
  unfold State.readHalf
  (repeat' first
    | with_reducible assumption
    | (extract_lets +onlyGivenNames x; first
      | (refine Keeps.cut (a := σ) (x := x) ?_ (fun hx => ?_); (on_goal 1 => subst x); (on_goal 2 => (clear_value x; rename' x => x')))
      | (refine KeepsP.cut (a := σ) (x := x) ?_ (fun hx => ?_); (on_goal 1 => subst x); (on_goal 2 => (clear_value x; rename' x => x')))
      | (clear_value x; rename' x => x'))
    | with_reducible first
        | apply modCap_keeps | apply pushMerge_keeps | apply KeepsP.ite | apply KeepsP.snd
    | split
    | with_reducible apply KeepsP.mk)

theorem flyBind_keeps {σ : State} (ch : ℕ) (id : ℕ) (t : ℕ) (s : State) (h : Keeps σ s) : Keeps σ (State.flyBind ch id t s) := by
  unfold State.flyBind
  (repeat' with_reducible first
      | assumption | apply modChan_keeps)

theorem spoilMerge_keeps {σ : State} (ch : ℕ) (hit : StoreHit) (s : State) (h : Keeps σ s) : Keeps σ (State.spoilMerge ch hit s) := by
  unfold State.spoilMerge
  (repeat' first
    | with_reducible assumption
    | (extract_lets +onlyGivenNames x; refine Keeps.cut (a := σ) (x := x) ?_ (fun hx => ?_); (on_goal 1 => subst x); (on_goal 2 => (clear_value x; rename' x => x')))
    | with_reducible first
        | apply storeHit_keeps | apply modMerge_keeps | apply Keeps.ite
    | split)

theorem execRmw_keeps {σ : State} (ch : ℕ) (hit : StoreHit) (s : State) (h : Keeps σ s) : KeepsR σ (execRmw ch hit s) := by
  unfold execRmw
  (repeat' first
    | with_reducible assumption
    | (extract_lets +onlyGivenNames x; first
      | (refine Keeps.cut (a := σ) (x := x) ?_ (fun hx => ?_); (on_goal 1 => subst x); (on_goal 2 => (clear_value x; rename' x => x')))
      | (refine KeepsP.cut (a := σ) (x := x) ?_ (fun hx => ?_); (on_goal 1 => subst x); (on_goal 2 => (clear_value x; rename' x => x')))
      | (clear_value x; rename' x => x'))
    | with_reducible first
        | apply readHalf_keeps | apply flyBind_keeps | apply fly_keeps | apply slotDone_keeps | apply modReg_keeps
        | apply writeHalf_keeps | apply spoilMerge_keeps | apply Keeps.ite | apply KeepsR.ite | apply KeepsR.next
        | apply KeepsP.snd
    | split)

theorem preSlot_keeps {σ : State} (ch : ℕ) (w : Word) (s : State) (h : Keeps σ s) : Keeps σ (State.preSlot ch w s) := by
  unfold State.preSlot
  (repeat' first
    | with_reducible assumption
    | (extract_lets +onlyGivenNames x; first
      | (refine Keeps.cut (a := σ) (x := x) ?_ (fun hx => ?_); (on_goal 1 => subst x); (on_goal 2 => (clear_value x; rename' x => x')))
      | (clear_value x; rename' x => x'))
    | with_reducible first
        | apply modCap_keeps | apply modReg_keeps | apply Keeps.ite
    | split)

theorem execPre_keeps {σ : State} (ch : ℕ) (s : State) (h : Keeps σ s) : KeepsR σ (execPre ch s) := by
  unfold execPre
  (repeat' first
    | with_reducible first
        | assumption | apply slotDone_keeps | apply sentRow_keeps | apply preSlot_keeps | apply KeepsR.next
    | split)

theorem execPrea_keeps {σ : State} (ch : ℕ) (s : State) (h : Keeps σ s) : KeepsR σ (execPrea ch s) := by
  unfold execPrea
  (repeat' first
    | with_reducible first
        | assumption | apply slotDone_keeps | apply sentRow_keeps | apply modReg_keeps | apply KeepsR.next
    | split)

theorem execRefab_keeps {σ : State} (ch : ℕ) (s : State) (h : Keeps σ s) : KeepsR σ (execRefab ch s) := by
  unfold execRefab
  (repeat' first
    | with_reducible assumption
    | (extract_lets +onlyGivenNames x; clear_value x; rename' x => x')
    | with_reducible first
        | apply slotDone_keeps | apply refreshAt_keeps | apply KeepsR.next | apply KeepsP.snd
    | split)

theorem execRefpb_keeps {σ : State} (ch : ℕ) (s : State) (h : Keeps σ s) : KeepsR σ (execRefpb ch s) := by
  unfold execRefpb
  (repeat' first
    | with_reducible assumption
    | (extract_lets +onlyGivenNames x; clear_value x; rename' x => x')
    | with_reducible first
        | apply slotDone_keeps | apply refreshAt_keeps | apply KeepsR.next | apply KeepsP.snd
    | split)

theorem execFetch_keeps {σ : State} (ch : ℕ) (s : State) (h : Keeps σ s) : KeepsR σ (execFetch ch s) := by
  unfold execFetch
  (repeat' first
    | with_reducible assumption
    | (extract_lets +onlyGivenNames x; clear_value x; rename' x => x')
    | with_reducible first
        | apply slotDone_keeps | apply fly_keeps | apply KeepsR.next
    | split)

theorem markEvent_keeps {σ : State} (ch : ℕ) (w : Word) (s : State) (h : Keeps σ s) : Keeps σ (State.markEvent ch w s) := by
  unfold State.markEvent
  (repeat' with_reducible first
      | assumption | apply count_keeps)

theorem execMark_keeps {σ : State} (ch : ℕ) (s : State) (h : Keeps σ s) : KeepsR σ (execMark ch s) := by
  unfold execMark
  (repeat' first
    | with_reducible first
        | assumption | apply slotDone_keeps | apply markEvent_keeps | apply KeepsR.next
    | split)

theorem openStart_keeps {σ : State} (ch : ℕ) (s : State) (h : Keeps σ s) : Keeps σ (State.openStart ch s) := by
  unfold State.openStart
  (repeat' first
    | with_reducible assumption
    | (extract_lets +onlyGivenNames x; first
      | (refine Keeps.cut (a := σ) (x := x) ?_ (fun hx => ?_); (on_goal 1 => subst x); (on_goal 2 => (clear_value x; rename' x => x')))
      | (clear_value x; rename' x => x'))
    | with_reducible first
        | apply wardenRefresh_keeps | apply modChan_keeps | apply noteStalled_keeps | apply Keeps.ite)

theorem defer_keeps {σ : State} (ch : ℕ) (k : ℕ) (s : State) (h : Keeps σ s) : Keeps σ (State.defer ch k s) := by
  unfold State.defer
  (repeat' with_reducible first
      | assumption | apply count_keeps)

theorem yieldFloor_keeps {σ : State} (ch : ℕ) (s : State) (h : Keeps σ s) : Keeps σ (State.yieldFloor ch s) := by
  unfold State.yieldFloor
  (repeat' first
    | with_reducible assumption
    | (extract_lets +onlyGivenNames x; clear_value x; rename' x => x')
    | with_reducible first
        | apply defer_keeps | apply modSeq_keeps | apply Keeps.ite)

theorem floorOp_keeps {σ : State} (ch : ℕ) (t : ℕ) (free : ℕ → Bool) (noise : List Codeword) (s : State) (h : Keeps σ s) : KeepsP σ (State.floorOp ch t free noise s) := by
  unfold State.floorOp
  (repeat' first
    | with_reducible assumption
    | (extract_lets +onlyGivenNames x; first
      | (refine KeepsP.cut (a := σ) (x := x) ?_ (fun hx => ?_); (on_goal 1 => subst x); (on_goal 2 => (clear_value x; rename' x => x')))
      | (clear_value x; rename' x => x'))
    | with_reducible first
        | apply scrubOp_keeps | apply modChan_keeps | apply KeepsP.ite | apply KeepsP.snd
    | split
    | with_reducible apply KeepsP.mk)

theorem beyondOp_keeps {σ : State} (ch : ℕ) (t : ℕ) (free : ℕ → Bool) (noise : List Codeword) (s : State) (h : Keeps σ s) : KeepsP σ (State.beyondOp ch t free noise s) := by
  unfold State.beyondOp
  (repeat' first
    | with_reducible assumption
    | (extract_lets +onlyGivenNames x; refine KeepsP.cut (a := σ) (x := x) ?_ (fun hx => ?_); (on_goal 1 => subst x); (on_goal 2 => (clear_value x; rename' x => x')))
    | with_reducible first
        | apply scrubOp_keeps | apply modChan_keeps | apply KeepsP.ite | apply KeepsP.snd
    | split
    | with_reducible apply KeepsP.mk)

theorem openOpp_keeps {σ : State} (ch : ℕ) (t : ℕ) (noise : List Codeword) (fail : Bool) (s : State) (h : Keeps σ s) : Keeps σ (State.openOpp ch t noise fail s) := by
  unfold State.openOpp
  (repeat' first
    | with_reducible assumption
    | (extract_lets +onlyGivenNames x; first
      | (refine Keeps.cut (a := σ) (x := x) ?_ (fun hx => ?_); (on_goal 1 => subst x); (on_goal 2 => (clear_value x; rename' x => x')))
      | (refine KeepsP.cut (a := σ) (x := x) ?_ (fun hx => ?_); (on_goal 1 => subst x); (on_goal 2 => (clear_value x; rename' x => x')))
      | (clear_value x; rename' x => x'))
    | with_reducible first
        | apply yieldFloor_keeps | apply noteStalled_keeps | apply makeupOp_keeps | apply floorOp_keeps | apply daOp_keeps
        | apply beyondOp_keeps | apply count_keeps | apply Keeps.ite | apply KeepsP.ite | apply KeepsP.snd
    | split
    | with_reducible apply KeepsP.mk)

theorem openSlot_keeps {σ : State} (ch : ℕ) (noise : List Codeword) (fail : Bool) (s : State) (h : Keeps σ s) : Keeps σ (State.openSlot ch noise fail s) := by
  unfold State.openSlot
  (repeat' first
    | with_reducible assumption
    | (extract_lets +onlyGivenNames x; first
      | (refine Keeps.cut (a := σ) (x := x) ?_ (fun hx => ?_); (on_goal 1 => subst x); (on_goal 2 => (clear_value x; rename' x => x')))
      | (clear_value x; rename' x => x'))
    | with_reducible first
        | apply openStart_keeps | apply modChan_keeps | apply openOpp_keeps | apply Keeps.ite)

theorem execOpenRun_keeps {σ : State} (ch : ℕ) (noise : List Codeword) (storeFail : Bool) (s : State) (h : Keeps σ s) : KeepsR σ (execOpenRun ch noise storeFail s) := by
  unfold execOpenRun
  (repeat' first
    | with_reducible first
        | assumption | apply slotDone_keeps | apply openSlot_keeps | apply KeepsR.next
    | split)

theorem execTierSwitch_keeps {σ : State} (ch : ℕ) (s : State) (h : Keeps σ s) : KeepsR σ (execTierSwitch ch s) := by
  unfold execTierSwitch
  (repeat' first
    | with_reducible assumption
    | (extract_lets +onlyGivenNames x; first
      | (refine Keeps.cut (a := σ) (x := x) ?_ (fun hx => ?_); (on_goal 1 => subst x); (on_goal 2 => (clear_value x; rename' x => x')))
      | (clear_value x; rename' x => x'))
    | with_reducible first
        | apply modSeq_keeps | apply count_keeps | apply tierNotice_keeps | apply moveTo_keeps | apply Keeps.ite
        | apply KeepsR.ite | apply KeepsR.next)

theorem loseWindow_keeps {σ : State} (ch : ℕ) (s : State) (h : Keeps σ s) : Keeps σ (State.loseWindow ch s) := by
  unfold State.loseWindow
  (repeat' first
    | with_reducible first
        | assumption | (intro _)
    | (extract_lets +onlyGivenNames x; clear_value x; rename' x => x')
    | with_reducible first
        | apply modSeq_keeps | apply defer_keeps | apply Keeps.foldl)

theorem displace_keeps {σ : State} (ch : ℕ) (s : State) (h : Keeps σ s) : Keeps σ (State.displace ch s) := by
  unfold State.displace
  (repeat' first
    | with_reducible assumption
    | (extract_lets +onlyGivenNames x; first
      | (refine Keeps.cut (a := σ) (x := x) ?_ (fun hx => ?_); (on_goal 1 => subst x); (on_goal 2 => (clear_value x; rename' x => x')))
      | (refine KeepsP.cut (a := σ) (x := x) ?_ (fun hx => ?_); (on_goal 1 => subst x); (on_goal 2 => (clear_value x; rename' x => x')))
      | (refine useFun₂ x ?_; subst x; try beta_reduce)
      | (clear_value x; rename' x => x'))
    | with_reducible first
        | apply modChan_keeps | apply actSlot_keeps | apply preSlot_keeps | apply modReg_keeps | apply rdReader_keeps
        | apply wrData_keeps | apply cancelMerges_keeps | apply readHalf_keeps | apply flyBind_keeps | apply modMerge_keeps
        | apply markEvent_keeps | apply loseWindow_keeps | apply advance_keeps | apply Keeps.ite | apply KeepsP.snd
    | split)

theorem passSwitch_keeps {σ : State} (ch : ℕ) (s : State) (h : Keeps σ s) : Keeps σ (State.passSwitch ch s) := by
  unfold State.passSwitch
  obtain ⟨t, ht, k⟩ := execTierSwitch_keeps ch s h
  rw [ht]
  exact Keeps.ite k h

theorem displaceTo_keeps {σ : State} (ch : ℕ) (r : ℕ) (y2 : ℕ) (y3 : State) (h : Keeps σ y3) : Keeps σ (State.displaceTo ch r y2 y3) := by
  induction y2 generalizing ch r y3 with
  | zero =>
    unfold State.displaceTo
    with_reducible assumption
  | succ n ih =>
    unfold State.displaceTo
    (repeat' first
      | with_reducible assumption
      | (extract_lets +onlyGivenNames x; clear_value x; rename' x => x')
      | with_reducible first
          | apply passSwitch_keeps | apply displace_keeps | apply ih | apply Keeps.ite)

theorem findResume_keeps {σ : State} (ch : ℕ) (ready : ℕ) (y2 : ℕ) (y3 : State) (h : Keeps σ y3) : Keeps σ (State.findResume ch ready y2 y3) := by
  induction y2 generalizing ch ready y3 with
  | zero =>
    unfold State.findResume
    with_reducible assumption
  | succ n ih =>
    unfold State.findResume
    (repeat' first
      | with_reducible assumption
      | (extract_lets +onlyGivenNames x; clear_value x; rename' x => x')
      | with_reducible first
          | apply passSwitch_keeps | apply displace_keeps | apply ih | apply Keeps.ite)

theorem stealNow_keeps {σ : State} (ch : ℕ) (s : State) (h : Keeps σ s) : Keeps σ (State.stealNow ch s) := by
  unfold State.stealNow
  (repeat' first
    | with_reducible assumption
    | (extract_lets +onlyGivenNames x; first
      | (refine Keeps.cut (a := σ) (x := x) ?_ (fun hx => ?_); (on_goal 1 => subst x); (on_goal 2 => (clear_value x; rename' x => x')))
      | (clear_value x; rename' x => x'))
    | with_reducible first
        | apply displaceTo_keeps | apply findResume_keeps | apply wardenRefresh_keeps | apply modChan_keeps
        | apply count_keeps | apply logAt_keeps | apply requestStop_keeps | apply log_keeps | apply Keeps.ite)

theorem execSteal_keeps {σ : State} (ch : ℕ) (s : State) (h : Keeps σ s) : KeepsR σ (execSteal ch s) := by
  unfold execSteal
  (repeat' with_reducible first
      | assumption | apply stealNow_keeps | apply KeepsR.ite | apply KeepsR.next)

theorem execRun_keeps {σ : State} (ctx : ℕ) (s : State) (h : Keeps σ s) : KeepsR σ (execRun ctx s) := by
  unfold execRun
  (repeat' first
    | with_reducible assumption
    | (extract_lets +onlyGivenNames x; first
      | (refine Keeps.cut (a := σ) (x := x) ?_ (fun hx => ?_); (on_goal 1 => subst x); (on_goal 2 => (clear_value x; rename' x => x')))
      | (clear_value x; rename' x => x'))
    | with_reducible first
        | apply finish_keeps | apply modChan_keeps | apply modCtx_keeps | apply modDesc_keeps | apply Keeps.ite
        | apply KeepsR.ite | apply KeepsR.next
    | split)

theorem endRun_keeps {σ : State} (ch : ℕ) (status : ℕ) (withResult : Bool) (s : State) (h : Keeps σ s) : Keeps σ (State.endRun ch status withResult s) := by
  unfold State.endRun
  (repeat' first
    | with_reducible assumption
    | (extract_lets +onlyGivenNames x; first
      | (refine Keeps.cut (a := σ) (x := x) ?_ (fun hx => ?_); (on_goal 1 => subst x); (on_goal 2 => (clear_value x; rename' x => x')))
      | (clear_value x; rename' x => x'))
    | with_reducible first
        | apply modChan_keeps | apply modCtx_keeps | apply finish_keeps | apply Keeps.ite
    | split)

theorem execRunComplete_keeps {σ : State} (ch : ℕ) (s : State) (h : Keeps σ s) : KeepsR σ (execRunComplete ch s) := by
  unfold execRunComplete
  (repeat' first
    | with_reducible assumption
    | (extract_lets +onlyGivenNames x; clear_value x; rename' x => x')
    | with_reducible first
        | apply endRun_keeps | apply KeepsR.ite | apply KeepsR.next
    | split)

theorem refreshBy_keeps {σ : State} (ch : ℕ) (t : ℕ) (y2 : ℕ) (y3 : State) (h : Keeps σ y3) : Keeps σ (State.refreshBy ch t y2 y3) := by
  induction y2 generalizing ch t y3 with
  | zero =>
    unfold State.refreshBy
    with_reducible assumption
  | succ n ih =>
    unfold State.refreshBy
    (repeat' with_reducible first
        | assumption | apply wardenRefresh_keeps | apply ih | apply Keeps.ite)

theorem execPrickingStart_keeps {σ : State} (ch : ℕ) (s : State) (h : Keeps σ s) : KeepsR σ (execPrickingStart ch s) := by
  unfold execPrickingStart
  (repeat' first
    | with_reducible assumption
    | (extract_lets +onlyGivenNames x; first
      | (refine Keeps.cut (a := σ) (x := x) ?_ (fun hx => ?_); (on_goal 1 => subst x); (on_goal 2 => (clear_value x; rename' x => x')))
      | (clear_value x; rename' x => x'))
    | with_reducible first
        | apply refreshBy_keeps | apply modChan_keeps | apply updateStarved_keeps | apply finish_keeps | apply Keeps.ite
        | apply KeepsR.ite | apply KeepsR.next
    | split
    | assumption)

end Sys2Proof.Laws
end

