-- ==== Sys2Proof/Laws/KeepsEyelet.lean ====
section
/-! SUPPORT. What the operations of Machine/Eyelet.lean keep. -/

set_option linter.unusedTactic false
set_option linter.unreachableTactic false
set_option linter.unusedVariables false
set_option linter.tactic.unusedName false

namespace Sys2Proof.Laws

open Sys2Proof Sys2Proof.Machine

theorem modEyes_keeps {σ : State} (ch : ℕ) (f : Eyes → Eyes) (s : State) (h : Keeps σ s) : Keeps σ (State.modEyes ch f s) := by
  unfold State.modEyes
  (repeat' with_reducible first
      | assumption | apply modChan_keeps)

theorem modEye_keeps {σ : State} (ch : ℕ) (i : ℕ) (f : Eyelet → Eyelet) (s : State) (h : Keeps σ s) : Keeps σ (State.modEye ch i f s) := by
  unfold State.modEye
  (repeat' with_reducible first
      | assumption | apply modEyes_keeps)

theorem loseDirect_keeps {σ : State} (ch : ℕ) (s : State) (h : Keeps σ s) : Keeps σ (State.loseDirect ch s) := by
  unfold State.loseDirect
  (repeat' first
    | with_reducible first
        | assumption | (intro _)
    | (extract_lets +onlyGivenNames x; first
      | (refine Keeps.cut (a := σ) (x := x) ?_ (fun hx => ?_); (on_goal 1 => subst x); (on_goal 2 => (clear_value x; rename' x => x')))
      | (clear_value x; rename' x => x'))
    | with_reducible first
        | apply finish_keeps | apply Keeps.ite | apply Keeps.foldl
    | assumption)

theorem endRuns_keeps {σ : State} (ch : ℕ) (status : ℕ) (first : Bool) (y3 : ℕ) (y4 : State) (h : Keeps σ y4) : Keeps σ (State.endRuns ch status first y3 y4) := by
  induction y3 generalizing ch status first y4 with
  | zero =>
    unfold State.endRuns
    with_reducible assumption
  | succ n ih =>
    unfold State.endRuns
    (repeat' with_reducible first
        | assumption | apply endRun_keeps | apply ih | apply Keeps.ite)

theorem endStops_keeps {σ : State} (ch : ℕ) (s : State) (h : Keeps σ s) : Keeps σ (State.endStops ch s) := by
  unfold State.endStops
  (repeat' first
    | with_reducible first
        | assumption | (intro _)
    | (extract_lets +onlyGivenNames x; clear_value x; rename' x => x')
    | with_reducible first
        | apply finish_keeps | apply modChan_keeps | apply Keeps.foldl)

theorem retire_keeps {σ : State} (ch : ℕ) (s : State) (h : Keeps σ s) : Keeps σ (State.retire ch s) := by
  unfold State.retire
  (repeat' first
    | with_reducible assumption
    | (extract_lets +onlyGivenNames x; first
      | (refine Keeps.cut (a := σ) (x := x) ?_ (fun hx => ?_); (on_goal 1 => subst x); (on_goal 2 => (clear_value x; rename' x => x')))
      | (clear_value x; rename' x => x'))
    | with_reducible first
        | apply abandonCrc_keeps | apply loseDirect_keeps | apply endRuns_keeps | apply endStops_keeps | apply modChan_keeps
        | apply finish_keeps
    | split
    | assumption)

theorem haltSlots_keeps {σ : State} (ch : ℕ) (cause : ℕ) (s : State) (h : Keeps σ s) : Keeps σ (State.haltSlots ch cause s) := by
  unfold State.haltSlots
  (repeat' first
    | with_reducible assumption
    | (extract_lets +onlyGivenNames x; clear_value x; rename' x => x')
    | with_reducible first
        | apply lastSlot_keeps | apply modChan_keeps | apply Keeps.ite)

theorem retireNow_keeps {σ : State} (ch : ℕ) (cause : ℕ) (s : State) (h : Keeps σ s) : Keeps σ (State.retireNow ch cause s) := by
  unfold State.retireNow
  (repeat' first
    | with_reducible assumption
    | (extract_lets +onlyGivenNames x; clear_value x; rename' x => x')
    | with_reducible first
        | apply loseDirect_keeps | apply modChan_keeps | apply haltSlots_keeps | apply retire_keeps | apply Keeps.ite)

theorem liveDarn_keeps {σ : State} (ch : ℕ) (role : ℕ) (spare : ℕ) (s : State) (h : Keeps σ s) : Keeps σ (State.liveDarn ch role spare s) := by
  unfold State.liveDarn
  (repeat' first
    | with_reducible assumption
    | (extract_lets +onlyGivenNames x; first
      | (refine Keeps.cut (a := σ) (x := x) ?_ (fun hx => ?_); (on_goal 1 => subst x); (on_goal 2 => (clear_value x; rename' x => x')))
      | (clear_value x; rename' x => x'))
    | with_reducible first
        | apply modEyes_keeps | apply recordDarn_keeps | apply log_keeps | apply Keeps.ite)

theorem spendEye_keeps {σ : State} (ch : ℕ) (failed : ℕ) (s : State) (h : Keeps σ s) : Keeps σ (State.spendEye ch failed s) := by
  unfold State.spendEye
  (repeat' with_reducible first
      | assumption | apply modEye_keeps | apply erasureAction_keeps | apply Keeps.ite)

theorem applyDarn_keeps {σ : State} (ch : ℕ) (e : ℕ) (comp : ℕ) (live : Bool) (s : State) (h : Keeps σ s) : Keeps σ (State.applyDarn ch e comp live s) := by
  unfold State.applyDarn
  (repeat' first
    | with_reducible assumption
    | (extract_lets +onlyGivenNames x; clear_value x; rename' x => x')
    | with_reducible first
        | apply log_keeps | apply spendEye_keeps | apply liveDarn_keeps | apply modEyes_keeps | apply Keeps.ite)

theorem cutWrites_keeps {σ : State} (ch : ℕ) (t : ℕ) (s : State) (h : Keeps σ s) : Keeps σ (State.cutWrites ch t s) := by
  unfold State.cutWrites
  (repeat' with_reducible first
      | assumption | (intro _) | apply undoWrite_keeps | apply Keeps.foldl)

theorem loseClock_keeps {σ : State} (ch : ℕ) (edge : ℕ) (due : ℕ) (s : State) (h : Keeps σ s) : Keeps σ (State.loseClock ch edge due s) := by
  unfold State.loseClock
  (repeat' with_reducible first
      | assumption | apply modReg_keeps | apply cutWrites_keeps | apply Keeps.ite)

theorem noSpareRetire_keeps {σ : State} (ch : ℕ) (roles : List ℕ) (s : State) (h : Keeps σ s) : Keeps σ (State.noSpareRetire ch roles s) := by
  unfold State.noSpareRetire
  (repeat' first
    | with_reducible first
        | assumption | (intro _)
    | (extract_lets +onlyGivenNames x; refine Keeps.cut (a := σ) (x := x) ?_ (fun hx => ?_); (on_goal 1 => subst x); (on_goal 2 => (clear_value x; rename' x => x')))
    | with_reducible first
        | apply recordDarn_keeps | apply loseClock_keeps | apply haltSlots_keeps | apply retire_keeps | apply modChan_keeps
        | apply modReg_keeps | apply Keeps.foldl)

theorem darnCa_keeps {σ : State} (ch : ℕ) (s : State) (h : Keeps σ s) : Keeps σ (State.darnCa ch s) := by
  unfold State.darnCa
  (repeat' first
    | with_reducible first
        | assumption | (intro _) | apply liveDarn_keeps | apply noSpareRetire_keeps | apply Keeps.ite | apply Keeps.foldl
    | split)

theorem stopFck_keeps {σ : State} (ch : ℕ) (why : Emergency) (s : State) (h : Keeps σ s) : Keeps σ (State.stopFck ch why s) := by
  unfold State.stopFck
  (repeat' with_reducible first
      | assumption | apply modEyes_keeps | apply modReg_keeps | apply loseClock_keeps)

theorem caEmergency_keeps {σ : State} (ch : ℕ) (s : State) (h : Keeps σ s) : Keeps σ (State.caEmergency ch s) := by
  unfold State.caEmergency
  (repeat' first
    | with_reducible assumption
    | (extract_lets +onlyGivenNames x; first
      | (refine Keeps.cut (a := σ) (x := x) ?_ (fun hx => ?_); (on_goal 1 => subst x); (on_goal 2 => (clear_value x; rename' x => x')))
      | (clear_value x; rename' x => x'))
    | with_reducible first
        | apply log_keeps | apply haltSlots_keeps | apply noSpareRetire_keeps | apply stopFck_keeps | apply Keeps.ite)

theorem caFailing_keeps {σ : State} (ch : ℕ) (i : ℕ) (s : State) (h : Keeps σ s) : Keeps σ (State.caFailing ch i s) := by
  unfold State.caFailing
  (repeat' first
    | with_reducible assumption
    | (extract_lets +onlyGivenNames x; first
      | (refine Keeps.cut (a := σ) (x := x) ?_ (fun hx => ?_); (on_goal 1 => subst x); (on_goal 2 => (clear_value x; rename' x => x')))
      | (clear_value x; rename' x => x'))
    | with_reducible first
        | apply modEye_keeps | apply caEmergency_keeps | apply log_keeps | apply Keeps.ite)

theorem eyeFailing_keeps {σ : State} (ch : ℕ) (i : ℕ) (s : State) (h : Keeps σ s) : Keeps σ (State.eyeFailing ch i s) := by
  unfold State.eyeFailing
  (repeat' first
    | with_reducible assumption
    | (extract_lets +onlyGivenNames x; clear_value x; rename' x => x')
    | with_reducible first
        | apply dataFailing_keeps | apply recordDarn_keeps | apply log_keeps | apply modEye_keeps | apply caFailing_keeps
        | apply noSpareRetire_keeps | apply modChan_keeps | apply Keeps.ite)

theorem spareFails_keeps {σ : State} (ch : ℕ) (i : ℕ) (s : State) (h : Keeps σ s) : Keeps σ (State.spareFails ch i s) := by
  unfold State.spareFails
  (repeat' first
    | with_reducible assumption
    | (extract_lets +onlyGivenNames x; first
      | (refine Keeps.cut (a := σ) (x := x) ?_ (fun hx => ?_); (on_goal 1 => subst x); (on_goal 2 => (clear_value x; rename' x => x')))
      | (clear_value x; rename' x => x'))
    | with_reducible first
        | apply recordDarn_keeps | apply modEye_keeps | apply eraseRole_keeps | apply noSpareRetire_keeps | apply log_keeps
        | apply modChan_keeps | apply Keeps.ite)

theorem lostCommand_keeps {σ : State} (ch : ℕ) (r : CmdRec) (s : State) (h : Keeps σ s) : Keeps σ (State.lostCommand ch r s) := by
  unfold State.lostCommand
  (repeat' first
    | with_reducible assumption
    | (extract_lets +onlyGivenNames x; first
      | (refine Keeps.cut (a := σ) (x := x) ?_ (fun hx => ?_); (on_goal 1 => subst x); (on_goal 2 => (clear_value x; rename' x => x')))
      | (refine useFun₂ x ?_; subst x; try beta_reduce)
      | (clear_value x; rename' x => x'))
    | with_reducible first
        | apply modChan_keeps | apply flyBind_keeps | apply modMerge_keeps | apply modSrcGroup_keeps | apply undoWrite_keeps
        | apply stealNow_keeps | apply loseWindow_keeps | apply Keeps.ite
    | split)

theorem flagged_keeps {σ : State} (ch : ℕ) (s : State) (h : Keeps σ s) : Keeps σ (State.flagged ch s) := by
  unfold State.flagged
  (repeat' first
    | with_reducible first
        | assumption | (intro _)
    | (extract_lets +onlyGivenNames x; clear_value x; rename' x => x')
    | with_reducible first
        | apply loseWindow_keeps | apply lostCommand_keeps | apply Keeps.ite | apply Keeps.foldl
    | split)

theorem execParityFlag_keeps {σ : State} (ch : ℕ) (word : BitVec 22) (refused : Bool) (s : State) (h : Keeps σ s) : KeepsR σ (execParityFlag ch word refused s) := by
  unfold execParityFlag
  (repeat' first
    | with_reducible first
        | assumption | (intro _)
    | (extract_lets +onlyGivenNames x; first
      | (refine Keeps.cut (a := σ) (x := x) ?_ (fun hx => ?_); (on_goal 1 => subst x); (on_goal 2 => (clear_value x; rename' x => x')))
      | (clear_value x; rename' x => x'))
    | with_reducible first
        | apply flagged_keeps | apply modEyes_keeps | apply suspectEye_keeps | apply caEmergency_keeps | apply Keeps.ite
        | apply KeepsR.ite | apply Keeps.foldl | apply KeepsR.next)

theorem execStrobeLoss_keeps {σ : State} (ch : ℕ) (rstAnswers : Bool) (fckAnswers : Bool) (s : State) (h : Keeps σ s) : KeepsR σ (execStrobeLoss ch rstAnswers fckAnswers s) := by
  unfold execStrobeLoss
  (repeat' first
    | with_reducible assumption
    | (extract_lets +onlyGivenNames x; first
      | (refine Keeps.cut (a := σ) (x := x) ?_ (fun hx => ?_); (on_goal 1 => subst x); (on_goal 2 => (clear_value x; rename' x => x')))
      | (clear_value x; rename' x => x'))
    | with_reducible first
        | apply log_keeps | apply haltSlots_keeps | apply liveDarn_keeps | apply stopFck_keeps | apply modReg_keeps
        | apply noSpareRetire_keeps | apply KeepsR.ite | apply KeepsR.next)

theorem judgeEye_keeps {σ : State} (ch : ℕ) (i : ℕ) (w : ℕ) (mids : List ℤ) (fresh : List ℕ) (s : State) (h : Keeps σ s) : Keeps σ (State.judgeEye ch i w mids fresh s) := by
  unfold State.judgeEye
  (repeat' first
    | with_reducible assumption
    | (extract_lets +onlyGivenNames x; refine Keeps.cut (a := σ) (x := x) ?_ (fun hx => ?_); (on_goal 1 => subst x); (on_goal 2 => (clear_value x; rename' x => x')))
    | with_reducible first
        | apply modEye_keeps | apply suspectEye_keeps | apply log_keeps | apply spareFails_keeps | apply eyeFailing_keeps
        | apply Keeps.ite)

theorem trainEye_keeps {σ : State} (ch : ℕ) (fresh : List ℕ) (r : EyeRes) (s : State) (h : Keeps σ s) : Keeps σ (State.trainEye ch fresh r s) := by
  unfold State.trainEye
  (repeat' first
    | with_reducible assumption
    | (extract_lets +onlyGivenNames x; first
      | (refine Keeps.cut (a := σ) (x := x) ?_ (fun hx => ?_); (on_goal 1 => subst x); (on_goal 2 => (clear_value x; rename' x => x')))
      | (clear_value x; rename' x => x'))
    | with_reducible first
        | apply modEye_keeps | apply judgeEye_keeps | apply Keeps.ite)

theorem runDarns_keeps {σ : State} (ch : ℕ) (s : State) (h : Keeps σ s) : Keeps σ (State.runDarns ch s) := by
  unfold State.runDarns
  (repeat' first
    | with_reducible first
        | assumption | (intro _) | apply liveDarn_keeps | apply dataFailing_keeps | apply noSpareRetire_keeps
        | apply log_keeps | apply modEyes_keeps | apply Keeps.ite | apply Keeps.foldl
    | split)

theorem trainStep_keeps {σ : State} (ch : ℕ) (l : List EyeRes) (s : State) (h : Keeps σ s) : Keeps σ (State.trainStep ch l s) := by
  unfold State.trainStep
  (repeat' first
    | with_reducible first
        | assumption | (intro _)
    | (extract_lets +onlyGivenNames x; first
      | (refine Keeps.cut (a := σ) (x := x) ?_ (fun hx => ?_); (on_goal 1 => subst x); (on_goal 2 => (clear_value x; rename' x => x')))
      | (clear_value x; rename' x => x'))
    | with_reducible first
        | apply modChan_keeps | apply runDarns_keeps | apply trainEye_keeps | apply Keeps.foldl)

theorem sweepEye_keeps {σ : State} (ch : ℕ) (dn : Bool) (up : Bool) (r : EyeRes) (s : State) (h : Keeps σ s) : Keeps σ (State.sweepEye ch dn up r s) := by
  unfold State.sweepEye
  (repeat' first
    | with_reducible assumption
    | (extract_lets +onlyGivenNames x; first
      | (refine Keeps.cut (a := σ) (x := x) ?_ (fun hx => ?_); (on_goal 1 => subst x); (on_goal 2 => (clear_value x; rename' x => x')))
      | (clear_value x; rename' x => x'))
    | with_reducible first
        | apply modEye_keeps | apply judgeEye_keeps | apply Keeps.ite)

theorem sweepEyes_keeps {σ : State} (ch : ℕ) (dn : Bool) (up : Bool) (is : List ℕ) (l : List EyeRes) (s : State) (h : Keeps σ s) : Keeps σ (State.sweepEyes ch dn up is l s) := by
  unfold State.sweepEyes
  (repeat' with_reducible first
      | assumption | (intro _) | apply sweepEye_keeps | apply Keeps.foldl)

theorem calReceiver_keeps {σ : State} (ch : ℕ) (l : List CalRes) (i : ℕ) (up : Bool) (s : State) (h : Keeps σ s) : KeepsP σ (State.calReceiver ch l i up s) := by
  unfold State.calReceiver
  (repeat' first
    | with_reducible assumption
    | (extract_lets +onlyGivenNames x; first
      | (refine useFun₂ x ?_; subst x; try beta_reduce)
      | (clear_value x; rename' x => x'))
    | with_reducible first
        | apply modEye_keeps | apply eyeFailing_keeps | apply KeepsP.ite
    | split
    | with_reducible apply KeepsP.mk)

theorem startCal_keeps {σ : State} (ch : ℕ) (limit : ℕ) (s : State) (h : Keeps σ s) : Keeps σ (State.startCal ch limit s) := by
  unfold State.startCal
  (repeat' with_reducible first
      | assumption | apply modEyes_keeps)

theorem beginCal_keeps {σ : State} (ch : ℕ) (s : State) (h : Keeps σ s) : Keeps σ (State.beginCal ch s) := by
  unfold State.beginCal
  (repeat' with_reducible first
      | assumption | apply modChan_keeps)

theorem endCal_keeps {σ : State} (ch : ℕ) (unsettled : Bool) (moved : List ℕ) (s : State) (h : Keeps σ s) : Keeps σ (State.endCal ch unsettled moved s) := by
  unfold State.endCal
  (repeat' first
    | with_reducible first
        | assumption | (intro _)
    | (extract_lets +onlyGivenNames x; first
      | (refine Keeps.cut (a := σ) (x := x) ?_ (fun hx => ?_); (on_goal 1 => subst x); (on_goal 2 => (clear_value x; rename' x => x')))
      | (clear_value x; rename' x => x'))
    | with_reducible first
        | apply modChan_keeps | apply log_keeps | apply suspectEye_keeps | apply Keeps.ite | apply Keeps.foldl)

theorem calStep_keeps {σ : State} (ch : ℕ) (l : List CalRes) (s : State) (h : Keeps σ s) : Keeps σ (State.calStep ch l s) := by
  unfold State.calStep
  (repeat' first
    | with_reducible first
        | assumption | (intro _)
    | (extract_lets +onlyGivenNames x; first
      | (refine Keeps.cut (a := σ) (x := x) ?_ (fun hx => ?_); (on_goal 1 => subst x); (on_goal 2 => (clear_value x; rename' x => x')))
      | (refine KeepsP.cut (a := σ) (x := x) ?_ (fun hx => ?_); (on_goal 1 => subst x); (on_goal 2 => (clear_value x; rename' x => x')))
      | (clear_value x; rename' x => x'))
    | with_reducible first
        | apply calReceiver_keeps | apply modEyes_keeps | apply endCal_keeps | apply Keeps.ite | apply KeepsP.foldl
        | apply KeepsP.snd
    | split
    | with_reducible apply KeepsP.mk)

theorem calSteps_keeps {σ : State} (ch : ℕ) (n : ℕ) (l : List (List CalRes)) (s : State) (h : Keeps σ s) : Keeps σ (State.calSteps ch n l s) := by
  unfold State.calSteps
  (repeat' with_reducible first
      | assumption | (intro _) | apply calStep_keeps | apply Keeps.foldl)

theorem calTrigger_keeps {σ : State} (ch : ℕ) (s : State) (h : Keeps σ s) : Keeps σ (State.calTrigger ch s) := by
  unfold State.calTrigger
  (repeat' first
    | with_reducible assumption
    | (extract_lets +onlyGivenNames x; clear_value x; rename' x => x')
    | with_reducible first
        | apply beginCal_keeps | apply startCal_keeps | apply Keeps.ite)

theorem bistSlice_keeps {σ : State} (ch : ℕ) (d : SliceDiff) (s : State) (h : Keeps σ s) : Keeps σ (State.bistSlice ch d s) := by
  unfold State.bistSlice
  (repeat' first
    | with_reducible assumption
    | (extract_lets +onlyGivenNames x; first
      | (refine Keeps.cut (a := σ) (x := x) ?_ (fun hx => ?_); (on_goal 1 => subst x); (on_goal 2 => (clear_value x; rename' x => x')))
      | (refine useFun₂ x ?_; subst x; try beta_reduce)
      | (clear_value x; rename' x => x'))
    | with_reducible first
        | apply modChan_keeps | apply log_keeps | apply retireNow_keeps | apply Keeps.ite)

theorem bistSlices_keeps {σ : State} (ch : ℕ) (n : ℕ) (l : List SliceDiff) (s : State) (h : Keeps σ s) : Keeps σ (State.bistSlices ch n l s) := by
  unfold State.bistSlices
  (repeat' with_reducible first
      | assumption | (intro _) | apply bistSlice_keeps | apply Keeps.ite | apply Keeps.foldl)

theorem restOfRound_keeps {σ : State} (ch : ℕ) (y1 : List SliceDiff) (y2 : State) (h : Keeps σ y2) : Keeps σ (State.restOfRound ch y1 y2) := by
  induction y1 generalizing ch y2 with
  | nil =>
    unfold State.restOfRound
    with_reducible assumption
  | cons x l ih =>
    unfold State.restOfRound
    (repeat' first
      | with_reducible assumption
      | (extract_lets +onlyGivenNames x; first
        | (refine Keeps.cut (a := σ) (x := x) ?_ (fun hx => ?_); (on_goal 1 => subst x); (on_goal 2 => (clear_value x; rename' x => x')))
        | (clear_value x; rename' x => x'))
      | with_reducible first
          | apply bistSlice_keeps | apply ih | apply Keeps.ite)

theorem execLockstep_keeps {σ : State} (ch : ℕ) (sigs : List SliceDiff) (s : State) (h : Keeps σ s) : KeepsR σ (execLockstep ch sigs s) := by
  unfold execLockstep
  (repeat' first
    | with_reducible assumption
    | (extract_lets +onlyGivenNames x; first
      | (refine Keeps.cut (a := σ) (x := x) ?_ (fun hx => ?_); (on_goal 1 => subst x); (on_goal 2 => (clear_value x; rename' x => x')))
      | (clear_value x; rename' x => x'))
    | with_reducible first
        | apply modChan_keeps | apply haltSlots_keeps | apply restOfRound_keeps | apply log_keeps | apply KeepsR.ite
        | apply KeepsR.next)

theorem bistLate_keeps {σ : State} (ch : ℕ) (s : State) (h : Keeps σ s) : Keeps σ (State.bistLate ch s) := by
  unfold State.bistLate
  (repeat' first
    | with_reducible assumption
    | (extract_lets +onlyGivenNames x; clear_value x; rename' x => x')
    | with_reducible first
        | apply log_keeps | apply modChan_keeps | apply Keeps.ite)

theorem execBistIdleTimer_keeps {σ : State} (ch : ℕ) (s : State) (h : Keeps σ s) : KeepsR σ (execBistIdleTimer ch s) := by
  unfold execBistIdleTimer
  (repeat' first
    | with_reducible assumption
    | (extract_lets +onlyGivenNames x; clear_value x; rename' x => x')
    | with_reducible first
        | apply modChan_keeps | apply KeepsR.ite | apply KeepsR.next)

theorem chanWrite_keeps {σ : State} (path : Path) (ch : ℕ) (f : State → State) (s : State) (hf : ∀ s, Keeps σ s → Keeps σ (f s)) (h : Keeps σ s) : Keeps σ (State.chanWrite path ch f s) := by
  unfold State.chanWrite
  (repeat' with_reducible first
      | assumption | apply writeIgnored_keeps | apply hf | apply Keeps.ite)

theorem execBistForce_keeps {σ : State} (path : Path) (ch : ℕ) (s : State) (h : Keeps σ s) : KeepsR σ (execBistForce path ch s) := by
  unfold execBistForce
  (repeat' with_reducible first
      | assumption | (intro _) | apply chanWrite_keeps | apply modChan_keeps | apply KeepsR.next)

theorem execCalForce_keeps {σ : State} (path : Path) (ch : ℕ) (value : Word) (s : State) (h : Keeps σ s) : KeepsR σ (execCalForce path ch value s) := by
  unfold execCalForce
  (repeat' first
    | with_reducible first
        | assumption | (intro _)
    | (extract_lets +onlyGivenNames x; first
      | (refine Keeps.cut (a := σ) (x := x) ?_ (fun hx => ?_); (on_goal 1 => subst x); (on_goal 2 => (clear_value x; rename' x => x')))
      | (clear_value x; rename' x => x'))
    | with_reducible first
        | apply chanWrite_keeps | apply writeIgnored_keeps | apply modEyes_keeps | apply startCal_keeps | apply Keeps.ite
        | apply KeepsR.next)

theorem execRemapClear_keeps {σ : State} (path : Path) (ch : ℕ) (value : Word) (s : State) (h : Keeps σ s) : KeepsR σ (execRemapClear path ch value s) := by
  unfold execRemapClear
  (repeat' with_reducible first
      | assumption | (intro _) | apply chanWrite_keeps | apply modChan_keeps | apply KeepsR.next)

theorem execMonitorWindow_keeps {σ : State} (ch : ℕ) (s : State) (h : Keeps σ s) : KeepsR σ (execMonitorWindow ch s) := by
  unfold execMonitorWindow
  (repeat' first
    | with_reducible assumption
    | (extract_lets +onlyGivenNames x; clear_value x; rename' x => x')
    | with_reducible first
        | apply modEyes_keeps | apply KeepsR.ite | apply KeepsR.next)

theorem execScrubPeriodBoundary_keeps {σ : State} (ch : ℕ) (s : State) (h : Keeps σ s) : KeepsR σ (execScrubPeriodBoundary ch s) := by
  unfold execScrubPeriodBoundary
  (repeat' first
    | with_reducible assumption
    | (extract_lets +onlyGivenNames x; first
      | (refine Keeps.cut (a := σ) (x := x) ?_ (fun hx => ?_); (on_goal 1 => subst x); (on_goal 2 => (clear_value x; rename' x => x')))
      | (clear_value x; rename' x => x'))
    | with_reducible first
        | apply checkLate_keeps | apply modChan_keeps | apply KeepsR.ite | apply KeepsR.next)

theorem execHeartbeatLoss_keeps {σ : State} (ch : ℕ) (edge : ℕ) (s : State) (h : Keeps σ s) : KeepsR σ (execHeartbeatLoss ch edge s) := by
  unfold execHeartbeatLoss
  (repeat' with_reducible first
      | assumption | apply loseClock_keeps | apply KeepsR.ite | apply KeepsR.next)

theorem execSelfRefreshInterval_keeps {σ : State} (ch : ℕ) (s : State) (h : Keeps σ s) : KeepsR σ (execSelfRefreshInterval ch s) := by
  unfold execSelfRefreshInterval
  (repeat' first
    | with_reducible assumption
    | (extract_lets +onlyGivenNames x; clear_value x; rename' x => x')
    | with_reducible first
        | apply modReg_keeps | apply KeepsR.ite | apply KeepsR.next)

theorem exitSr_keeps {σ : State} (ch : ℕ) (s : State) (h : Keeps σ s) : Keeps σ (State.exitSr ch s) := by
  unfold State.exitSr
  (repeat' with_reducible first
      | assumption | apply beginCal_keeps | apply startCal_keeps | apply modChan_keeps)

end Sys2Proof.Laws
end

