-- ==== Sys2Proof/Laws/KeepsAdmin.lean ====
section
/-! SUPPORT. What the operations of Machine/Admin.lean keep. -/

set_option linter.unusedTactic false
set_option linter.unreachableTactic false
set_option linter.unusedVariables false
set_option linter.tactic.unusedName false

namespace Sys2Proof.Laws

open Sys2Proof Sys2Proof.Machine

theorem takeTs_keeps {σ : State} (ch : ℕ) (t : ℕ) (s : State) (h : Keeps σ s) : Keeps σ (State.takeTs ch t s) := by
  unfold State.takeTs
  (repeat' first
    | with_reducible assumption
    | (extract_lets +onlyGivenNames x; first
      | (refine Keeps.cut (a := σ) (x := x) ?_ (fun hx => ?_); (on_goal 1 => subst x); (on_goal 2 => (clear_value x; rename' x => x')))
      | (clear_value x; rename' x => x'))
    | with_reducible apply modChan_keeps
    | assumption)

theorem startSections_keeps {σ : State} (g : ℕ) (t : ℕ) (s : State) (h : Keeps σ s) : Keeps σ (State.startSections g t s) := by
  unfold State.startSections
  (repeat' with_reducible first
      | assumption | (intro _) | apply takeTs_keeps | apply Keeps.foldl)

theorem stageMotif_keeps {σ : State} (ch : ℕ) (x : Section) (m : Motif) (s : State) (h : Keeps σ s) : Keeps σ (State.stageMotif ch x m s) := by
  unfold State.stageMotif
  (repeat' first
    | with_reducible first
        | assumption | (intro _)
    | (extract_lets +onlyGivenNames x; clear_value x; rename' x => x')
    | with_reducible first
        | apply writeGranule_keeps | apply Keeps.foldl)

theorem stageSection_keeps {σ : State} (x : Section) (s : State) (h : Keeps σ s) : Keeps σ (State.stageSection x s) := by
  unfold State.stageSection
  (repeat' with_reducible first
      | assumption | (intro _) | apply stageMotif_keeps | apply Keeps.foldl)

theorem dropRuns_keeps {σ : State} (ch : ℕ) (s : State) (h : Keeps σ s) : Keeps σ (State.dropRuns ch s) := by
  unfold State.dropRuns
  (repeat' with_reducible first
      | assumption | apply endRuns_keeps)

theorem freshCkpt_keeps {σ : State} (ch : ℕ) (s : State) (h : Keeps σ s) : Keeps σ (State.freshCkpt ch s) := by
  unfold State.freshCkpt
  (repeat' first
    | with_reducible first
        | assumption | apply modCtx_keeps
    | split)

theorem bindSection_keeps {σ : State} (x : Section) (group : ℕ) (resume : Bool) (s : State) (h : Keeps σ s) : Keeps σ (State.bindSection x group resume s) := by
  unfold State.bindSection
  (repeat' first
    | with_reducible assumption
    | (extract_lets +onlyGivenNames x; first
      | (refine Keeps.cut (a := σ) (x := x) ?_ (fun hx => ?_); (on_goal 1 => subst x); (on_goal 2 => (clear_value x; rename' x => x')))
      | (clear_value x; rename' x => x'))
    | with_reducible first
        | apply freshCkpt_keeps | apply dropRuns_keeps | apply modChan_keeps | apply log_keeps | apply takeTs_keeps
        | apply Keeps.ite
    | split)

theorem badCheckpoint_keeps {σ : State} (ch : ℕ) (s : State) (h : Keeps σ s) : Keeps σ (State.badCheckpoint ch s) := by
  unfold State.badCheckpoint
  (repeat' first
    | with_reducible assumption
    | (extract_lets +onlyGivenNames x; refine Keeps.cut (a := σ) (x := x) ?_ (fun hx => ?_); (on_goal 1 => subst x); (on_goal 2 => (clear_value x; rename' x => x')))
    | with_reducible first
        | apply modChan_keeps | apply halt_keeps
    | split)

theorem bindLane_keeps {σ : State} (l : LaneSection) (s : State) (h : Keeps σ s) : Keeps σ (State.bindLane l s) := by
  unfold State.bindLane
  (repeat' with_reducible first
      | assumption | apply modGroup_keeps)

theorem unplace_keeps {σ : State} (es : List DirEntry) (s : State) (h : Keeps σ s) : Keeps σ (State.unplace es s) := by
  unfold State.unplace
  (repeat' with_reducible first
      | assumption | (intro _) | apply modChan_keeps | apply Keeps.foldl)

theorem bindImage_keeps {σ : State} (img : Image) (resume : Bool) (s : State) (h : Keeps σ s) : Keeps σ (State.bindImage img resume s) := by
  unfold State.bindImage
  (repeat' first
    | with_reducible first
        | assumption | (intro _)
    | (extract_lets +onlyGivenNames x; refine Keeps.cut (a := σ) (x := x) ?_ (fun hx => ?_); (on_goal 1 => subst x); (on_goal 2 => (clear_value x; rename' x => x')))
    | with_reducible first
        | apply bindLane_keeps | apply bindSection_keeps | apply Keeps.foldl)

theorem inlineChecked_keeps {σ : State} (b : List Byte) (len : ℕ) (s : State) (h : Keeps σ s) : Keeps σ (State.inlineChecked b len s) := by
  unfold State.inlineChecked
  (repeat' first
    | with_reducible first
        | assumption | apply inlineJob_keeps
    | split)

theorem readImage_keeps {σ : State} (d : Desc) (f : Fetch) (s : State) (h : Keeps σ s) : Keeps σ (State.readImage d f s) := by
  unfold State.readImage
  (repeat' first
    | with_reducible assumption
    | (extract_lets +onlyGivenNames x; refine useFun x ?_; subst x; try beta_reduce)
    | with_reducible first
        | apply hostRead_keeps | apply Keeps.ite)

theorem placeSection_keeps {σ : State} (x : Section) (s : State) (h : Keeps σ s) : Keeps σ (State.placeSection x s) := by
  unfold State.placeSection
  (repeat' with_reducible first
      | assumption | apply modChan_keeps | apply stageSection_keeps)

theorem finLoad_keeps {σ : State} (n : ℕ) (d : Desc) (v : Verdict) (s : State) (h : Keeps σ s) : Keeps σ (State.finLoad n d v s) := by
  unfold State.finLoad
  (repeat' with_reducible first
      | assumption | apply finish_keeps)

theorem checkLoad_keeps {σ : State} (n : ℕ) (d : Desc) (image : Option (List Byte)) (fault : Bool) (s : State) (h : Keeps σ s) : Keeps σ (State.checkLoad n d image fault s) := by
  unfold State.checkLoad
  (repeat' first
    | with_reducible assumption
    | (extract_lets +onlyGivenNames x; refine Keeps.cut (a := σ) (x := x) ?_ (fun hx => ?_); (on_goal 1 => subst x); (on_goal 2 => (clear_value x; rename' x => x')))
    | with_reducible first
        | apply finLoad_keeps | apply inlineChecked_keeps | apply log_keeps | apply modDesc_keeps | apply Keeps.ite
    | split)

theorem placeLoad_keeps {σ : State} (n : ℕ) (d : Desc) (image : Option (List Byte)) (badCkpts : List ℕ) (s : State) (h : Keeps σ s) : Keeps σ (State.placeLoad n d image badCkpts s) := by
  unfold State.placeLoad
  (repeat' first
    | with_reducible first
        | assumption | (intro _)
    | (extract_lets +onlyGivenNames x; first
      | (refine Keeps.cut (a := σ) (x := x) ?_ (fun hx => ?_); (on_goal 1 => subst x); (on_goal 2 => (clear_value x; rename' x => x')))
      | (clear_value x; rename' x => x'))
    | with_reducible first
        | apply finLoad_keeps | apply inlineJob_keeps | apply placeSection_keeps | apply unplace_keeps | apply bindImage_keeps
        | apply badCheckpoint_keeps | apply Keeps.foldl
    | split)

theorem execLoadPricking_keeps {σ : State} (ctx : ℕ) (image : Fetch) (checkerFault : Bool) (badCkpts : List ℕ) (s : State) (h : Keeps σ s) : KeepsR σ (execLoadPricking ctx image checkerFault badCkpts s) := by
  unfold execLoadPricking
  (repeat' first
    | with_reducible first
        | assumption | apply placeLoad_keeps | apply readImage_keeps | apply finish_keeps | apply checkLoad_keeps
        | apply KeepsR.ite | apply KeepsR.next
    | split)

theorem startPlaced_keeps {σ : State} (ch : ℕ) (n : ℕ) (q : ℕ) (group : ℕ) (resume : Bool) (s : State) (h : Keeps σ s) : Keeps σ (State.startPlaced ch n q group resume s) := by
  unfold State.startPlaced
  (repeat' first
    | with_reducible assumption
    | (extract_lets +onlyGivenNames x; refine Keeps.cut (a := σ) (x := x) ?_ (fun hx => ?_); (on_goal 1 => subst x); (on_goal 2 => (clear_value x; rename' x => x')))
    | with_reducible first
        | apply finish_keeps | apply modChan_keeps | apply bindSection_keeps | apply modDesc_keeps
    | split)

theorem execFuncStart_keeps {σ : State} (ctx : ℕ) (badCkpt : Bool) (s : State) (h : Keeps σ s) : KeepsR σ (execFuncStart ctx badCkpt s) := by
  unfold execFuncStart
  (repeat' first
    | with_reducible assumption
    | (extract_lets +onlyGivenNames x; clear_value x; rename' x => x')
    | with_reducible first
        | apply finish_keeps | apply modDesc_keeps | apply startPlaced_keeps | apply badCheckpoint_keeps | apply modChan_keeps
        | apply Keeps.ite | apply KeepsR.ite | apply KeepsR.next
    | split)

theorem oweHalves_keeps {σ : State} (ch : ℕ) (s : State) (h : Keeps σ s) : Keeps σ (State.oweHalves ch s) := by
  unfold State.oweHalves
  (repeat' first
    | with_reducible first
        | assumption | (intro _)
    | (extract_lets +onlyGivenNames x; refine Keeps.cut (a := σ) (x := x) ?_ (fun hx => ?_); (on_goal 1 => subst x); (on_goal 2 => (clear_value x; rename' x => x')))
    | with_reducible first
        | apply modMerge_keeps | apply modChan_keeps | apply Keeps.ite | apply Keeps.foldl)

theorem serveMakeup_keeps {σ : State} (ch : ℕ) (y1 : ℕ) (y2 : ℕ) (y3 : State) (h : Keeps σ y3) : Keeps σ (State.serveMakeup ch y1 y2 y3) := by
  induction y1 generalizing ch y2 y3 with
  | zero =>
    unfold State.serveMakeup
    with_reducible assumption
  | succ n ih =>
    unfold State.serveMakeup
    (repeat' first
      | with_reducible first
          | assumption | apply modChan_keeps | apply makeupOp_keeps | apply ih
      | split)

theorem stopRuns_keeps {σ : State} (ch : ℕ) (y1 : ℕ) (y2 : State) (h : Keeps σ y2) : Keeps σ (State.stopRuns ch y1 y2) := by
  induction y1 generalizing ch y2 with
  | zero =>
    unfold State.stopRuns
    with_reducible assumption
  | succ n ih =>
    unfold State.stopRuns
    (repeat' first
      | with_reducible assumption
      | (extract_lets +onlyGivenNames x; clear_value x; rename' x => x')
      | with_reducible first
          | apply endRun_keeps | apply ih | apply Keeps.ite
      | split)

theorem dropStarter_keeps {σ : State} (ch : ℕ) (s : State) (h : Keeps σ s) : Keeps σ (State.dropStarter ch s) := by
  unfold State.dropStarter
  (repeat' first
    | with_reducible first
        | assumption | apply finish_keeps | apply modChan_keeps
    | split)

theorem retireIfDone_keeps {σ : State} (ch : ℕ) (s : State) (h : Keeps σ s) : Keeps σ (State.retireIfDone ch s) := by
  unfold State.retireIfDone
  (repeat' first
    | with_reducible assumption
    | (extract_lets +onlyGivenNames x; clear_value x; rename' x => x')
    | with_reducible first
        | apply retire_keeps | apply Keeps.ite)

theorem stopped_keeps {σ : State} (ch : ℕ) (s : State) (h : Keeps σ s) : Keeps σ (State.stopped ch s) := by
  unfold State.stopped
  (repeat' first
    | with_reducible assumption
    | (extract_lets +onlyGivenNames x; refine Keeps.cut (a := σ) (x := x) ?_ (fun hx => ?_); (on_goal 1 => subst x); (on_goal 2 => (clear_value x; rename' x => x')))
    | with_reducible first
        | apply stopRuns_keeps | apply stopWaiting_keeps | apply endPanic_keeps | apply dropStarter_keeps
        | apply modChan_keeps | apply endStops_keeps | apply retireIfDone_keeps | apply startPlaced_keeps | apply Keeps.ite
    | split)

theorem execShutDown_keeps {σ : State} (ch : ℕ) (s : State) (h : Keeps σ s) : KeepsR σ (execShutDown ch s) := by
  unfold execShutDown
  (repeat' first
    | with_reducible assumption
    | (extract_lets +onlyGivenNames x; first
      | (refine Keeps.cut (a := σ) (x := x) ?_ (fun hx => ?_); (on_goal 1 => subst x); (on_goal 2 => (clear_value x; rename' x => x')))
      | (clear_value x; rename' x => x'))
    | with_reducible first
        | apply oweHalves_keeps | apply serveMakeup_keeps | apply stopped_keeps | apply Keeps.ite | apply KeepsR.ite
        | apply KeepsR.next)

theorem supersede_keeps {σ : State} (ch : ℕ) (s : State) (h : Keeps σ s) : Keeps σ (State.supersede ch s) := by
  unfold State.supersede
  (repeat' first
    | with_reducible first
        | assumption | apply finish_keeps | apply modChan_keeps
    | split)

theorem stopRunning_keeps {σ : State} (ch : ℕ) (atEnd : Bool) (s : State) (h : Keeps σ s) : Keeps σ (State.stopRunning ch atEnd s) := by
  unfold State.stopRunning
  (repeat' first
    | with_reducible assumption
    | (extract_lets +onlyGivenNames x; first
      | (refine Keeps.cut (a := σ) (x := x) ?_ (fun hx => ?_); (on_goal 1 => subst x); (on_goal 2 => (clear_value x; rename' x => x')))
      | (clear_value x; rename' x => x'))
    | with_reducible first
        | apply requestStop_keeps | apply modChan_keeps | apply Keeps.ite
    | split)

theorem stopStarting_keeps {σ : State} (ch : ℕ) (cause : ℕ) (s : State) (h : Keeps σ s) : Keeps σ (State.stopStarting ch cause s) := by
  unfold State.stopStarting
  (repeat' with_reducible first
      | assumption | apply stopped_keeps | apply modChan_keeps)

theorem settleRetire_keeps {σ : State} (ch : ℕ) (s : State) (h : Keeps σ s) : Keeps σ (State.settleRetire ch s) := by
  unfold State.settleRetire
  (repeat' first
    | with_reducible assumption
    | (extract_lets +onlyGivenNames x; clear_value x; rename' x => x')
    | with_reducible first
        | apply stopStarting_keeps | apply requestStop_keeps | apply retireIfDone_keeps | apply Keeps.ite)

theorem execFuncStop_keeps {σ : State} (ctx : ℕ) (s : State) (h : Keeps σ s) : KeepsR σ (execFuncStop ctx s) := by
  unfold execFuncStop
  (repeat' first
    | with_reducible assumption
    | (extract_lets +onlyGivenNames x; first
      | (refine useFun x ?_; subst x; try beta_reduce)
      | (clear_value x; rename' x => x'))
    | with_reducible first
        | apply modDesc_keeps | apply modChan_keeps | apply finish_keeps | apply supersede_keeps | apply stopStarting_keeps
        | apply stopRunning_keeps | apply KeepsR.ite | apply KeepsR.next
    | split)

end Sys2Proof.Laws
end

