-- ==== Sys2Proof/Laws/KeepsContext.lean ====
section
/-! SUPPORT. What the operations of Machine/Context.lean keep. -/

set_option linter.unusedTactic false
set_option linter.unreachableTactic false
set_option linter.unusedVariables false
set_option linter.tactic.unusedName false

namespace Sys2Proof.Laws

open Sys2Proof Sys2Proof.Machine

theorem execNop_keeps {σ : State} (ctx : ℕ) (s : State) (h : Keeps σ s) : KeepsR σ (execNop ctx s) := by
  unfold execNop
  (repeat' first
    | with_reducible first
        | assumption | apply finish_keeps | apply KeepsR.next
    | split)

theorem execWait_keeps {σ : State} (ctx : ℕ) (s : State) (h : Keeps σ s) : KeepsR σ (execWait ctx s) := by
  unfold execWait
  (repeat' first
    | with_reducible first
        | assumption | apply finish_keeps | apply modDesc_keeps | apply KeepsR.ite | apply KeepsR.next
    | split)

theorem execWaitDone_keeps {σ : State} (ctx : ℕ) (s : State) (h : Keeps σ s) : KeepsR σ (execWaitDone ctx s) := by
  unfold execWaitDone
  (repeat' first
    | with_reducible assumption
    | (extract_lets +onlyGivenNames x; clear_value x; rename' x => x')
    | with_reducible first
        | apply finish_keeps | apply KeepsR.ite | apply KeepsR.next
    | split)

theorem execDbNudge_keeps {σ : State} (ctx : ℕ) (s : State) (h : Keeps σ s) : KeepsR σ (execDbNudge ctx s) := by
  unfold execDbNudge
  (repeat' first
    | with_reducible assumption
    | (extract_lets +onlyGivenNames x; clear_value x; rename' x => x')
    | with_reducible first
        | apply hostRead_keeps | apply KeepsR.ite | apply KeepsR.next
    | split
    | assumption)

theorem requestPage_keeps {σ : State} (s : State) (h : Keeps σ s) : Keeps σ (State.requestPage s) := by
  unfold State.requestPage
  (repeat' first
    | with_reducible assumption
    | (extract_lets +onlyGivenNames x; clear_value x; rename' x => x')
    | with_reducible first
        | apply hostRead_keeps | apply Keeps.ite
    | assumption)

theorem execDbNudgeAll_keeps {σ : State} (s : State) (h : Keeps σ s) : KeepsR σ (execDbNudgeAll s) := by
  unfold execDbNudgeAll
  (repeat' with_reducible first
      | assumption | apply requestPage_keeps | apply KeepsR.next)

theorem execDoorbellPoll_keeps {σ : State} (s : State) (h : Keeps σ s) : KeepsR σ (execDoorbellPoll s) := by
  unfold execDoorbellPoll
  (repeat' first
    | with_reducible assumption
    | (extract_lets +onlyGivenNames x; first
      | (refine Keeps.cut (a := σ) (x := x) ?_ (fun hx => ?_); (on_goal 1 => subst x); (on_goal 2 => (clear_value x; rename' x => x')))
      | (clear_value x; rename' x => x'))
    | with_reducible first
        | apply requestPage_keeps | apply KeepsR.ite | apply KeepsR.next
    | assumption)

theorem fetchRing_keeps {σ : State} (n : ℕ) (s : State) (h : Keeps σ s) : Keeps σ (State.fetchRing n s) := by
  unfold State.fetchRing
  (repeat' first
    | with_reducible assumption
    | (extract_lets +onlyGivenNames x; clear_value x; rename' x => x')
    | with_reducible first
        | apply hostRead_keeps | apply modCtx_keeps | apply Keeps.ite)

theorem refetchSlot_keeps {σ : State} (n : ℕ) (s : State) (h : Keeps σ s) : Keeps σ (State.refetchSlot n s) := by
  unfold State.refetchSlot
  (repeat' first
    | with_reducible assumption
    | (extract_lets +onlyGivenNames x; clear_value x; rename' x => x')
    | with_reducible apply hostRead_keeps)

theorem execDoorbellRead_keeps {σ : State} (ctx : ℕ) (pi : Word) (piC : Word) (badRecord : Bool) (s : State) (h : Keeps σ s) : KeepsR σ (execDoorbellRead ctx pi piC badRecord s) := by
  unfold execDoorbellRead
  (repeat' first
    | with_reducible assumption
    | (extract_lets +onlyGivenNames x; first
      | (refine Keeps.cut (a := σ) (x := x) ?_ (fun hx => ?_); (on_goal 1 => subst x); (on_goal 2 => (clear_value x; rename' x => x')))
      | (clear_value x; rename' x => x'))
    | with_reducible first
        | apply halt_keeps | apply modCtx_keeps | apply log_keeps | apply fetchRing_keeps | apply Keeps.ite | apply KeepsR.ite
        | apply KeepsR.next
    | assumption)

theorem accept_keeps {σ : State} (n : ℕ) (b : List Byte) (s : State) (h : Keeps σ s) : Keeps σ (State.accept n b s) := by
  unfold State.accept
  (repeat' first
    | with_reducible assumption
    | (extract_lets +onlyGivenNames x; first
      | (refine Keeps.cut (a := σ) (x := x) ?_ (fun hx => ?_); (on_goal 1 => subst x); (on_goal 2 => (clear_value x; rename' x => x')))
      | (clear_value x; rename' x => x'))
    | with_reducible first
        | apply modCtx_keeps | apply fetchRing_keeps | apply drain_keeps | apply count_keeps
    | assumption)

theorem examineSeq_keeps {σ : State} (n : ℕ) (b : List Byte) (s : State) (h : Keeps σ s) : Keeps σ (State.examineSeq n b s) := by
  unfold State.examineSeq
  (repeat' first
    | with_reducible assumption
    | (extract_lets +onlyGivenNames x; first
      | (refine Keeps.cut (a := σ) (x := x) ?_ (fun hx => ?_); (on_goal 1 => subst x); (on_goal 2 => (clear_value x; rename' x => x')))
      | (subst x; try beta_reduce))
    | with_reducible first
        | apply accept_keeps | apply modCtx_keeps | apply count_keeps | apply fetchRing_keeps | apply log_keeps
        | apply halt_keeps | apply Keeps.ite)

theorem execDescriptorExamine_keeps {σ : State} (ctx : ℕ) (bytes : List Byte) (operandFail : Bool) (s : State) (h : Keeps σ s) : KeepsR σ (execDescriptorExamine ctx bytes operandFail s) := by
  unfold execDescriptorExamine
  (repeat' first
    | with_reducible assumption
    | (extract_lets +onlyGivenNames x; clear_value x; rename' x => x')
    | with_reducible first
        | apply halt_keeps | apply refetchSlot_keeps | apply log_keeps | apply modCtx_keeps | apply examineSeq_keeps
        | apply KeepsR.ite | apply KeepsR.next)

theorem execHeadRefetch_keeps {σ : State} (ctx : ℕ) (bytes : List Byte) (s : State) (h : Keeps σ s) : KeepsR σ (execHeadRefetch ctx bytes s) := by
  unfold execHeadRefetch
  (repeat' first
    | with_reducible assumption
    | (extract_lets +onlyGivenNames x; refine Keeps.cut (a := σ) (x := x) ?_ (fun hx => ?_); (on_goal 1 => subst x); (on_goal 2 => (clear_value x; rename' x => x')))
    | with_reducible first
        | apply refetchSlot_keeps | apply halt_keeps | apply examineSeq_keeps | apply modCtx_keeps | apply KeepsR.ite
        | apply KeepsR.next
    | split)

theorem execJournalConfirm_keeps {σ : State} (ctx : ℕ) (seq : ℕ) (s : State) (h : Keeps σ s) : KeepsR σ (execJournalConfirm ctx seq s) := by
  unfold execJournalConfirm
  (repeat' first
    | with_reducible first
        | assumption | apply drainEvery_keeps | apply KeepsR.ite | apply KeepsR.next
    | assumption)

theorem execMsixTimeout_keeps {σ : State} (ctx : ℕ) (s : State) (h : Keeps σ s) : KeepsR σ (execMsixTimeout ctx s) := by
  unfold execMsixTimeout
  (repeat' first
    | with_reducible assumption
    | (extract_lets +onlyGivenNames x; clear_value x; rename' x => x')
    | with_reducible first
        | apply sendMsix_keeps | apply KeepsR.ite | apply KeepsR.next)

theorem execDbBaseWrite_keeps {σ : State} (value : Word) (s : State) (h : Keeps σ s) : KeepsR σ (execDbBaseWrite value s) := by
  unfold execDbBaseWrite
  (repeat' first
    | with_reducible assumption
    | (extract_lets +onlyGivenNames x; clear_value x; rename' x => x')
    | with_reducible first
        | apply writeIgnored_keeps | apply KeepsR.ite | apply KeepsR.next
    | assumption)

theorem admRefuse_keeps {σ : State} (s : State) (h : Keeps σ s) : Keeps σ (State.admRefuse s) := by
  unfold State.admRefuse
  (repeat' first
    | (extract_lets +onlyGivenNames x; clear_value x; rename' x => x')
    | with_reducible apply writeIgnored_keeps
    | assumption)

theorem admDisable_keeps {σ : State} (n : ℕ) (s : State) (h : Keeps σ s) : Keeps σ (State.admDisable n s) := by
  unfold State.admDisable
  (repeat' first
    | with_reducible assumption
    | (extract_lets +onlyGivenNames x; first
      | (refine Keeps.cut (a := σ) (x := x) ?_ (fun hx => ?_); (on_goal 1 => subst x); (on_goal 2 => (clear_value x; rename' x => x')))
      | (clear_value x; rename' x => x'))
    | with_reducible first
        | apply admRefuse_keeps | apply drain_keeps | apply modCtx_keeps | apply Keeps.ite
    | assumption)

/-- A change of the host interface. -/
theorem host_keeps {σ s : State} (x : HostIf) (h : Keeps σ s) : Keeps σ { s with host := x } := h

theorem execAdmcfgCommit_keeps {σ : State} (value : Word) (s : State) (h : Keeps σ s) : KeepsR σ (execAdmcfgCommit value s) := by
  unfold execAdmcfgCommit
  refine KeepsR.ite (KeepsR.next (admRefuse_keeps _ (host_keeps _ h))) ?_
  refine KeepsR.ite (KeepsR.next (host_keeps _ (configure_keeps _ _ _ _ (host_keeps _ h)))) (KeepsR.next (admRefuse_keeps _ (host_keeps _ h)))

theorem execAdmcfgDisable_keeps {σ : State} (value : Word) (s : State) (h : Keeps σ s) : KeepsR σ (execAdmcfgDisable value s) := by
  unfold execAdmcfgDisable
  (repeat' first
    | with_reducible assumption
    | (extract_lets +onlyGivenNames x; first
      | (refine Keeps.cut (a := σ) (x := x) ?_ (fun hx => ?_); (on_goal 1 => subst x); (on_goal 2 => (clear_value x; rename' x => x')))
      | (clear_value x; rename' x => x'))
    | with_reducible first
        | apply admRefuse_keeps | apply admDisable_keeps | apply KeepsR.ite | apply KeepsR.next
    | assumption)

theorem execCtxConfig_keeps {σ : State} (ctx : ℕ) (s : State) (h : Keeps σ s) : KeepsR σ (execCtxConfig ctx s) := by
  unfold execCtxConfig
  (repeat' first
    | with_reducible assumption
    | (extract_lets +onlyGivenNames x; first
      | (refine KeepsP.cut (a := σ) (x := x) ?_ (fun hx => ?_); (on_goal 1 => subst x); (on_goal 2 => (clear_value x; rename' x => x')))
      | (clear_value x; rename' x => x'))
    | with_reducible first
        | apply finish_keeps | apply configure_keeps | apply KeepsR.ite | apply KeepsR.next | apply KeepsP.snd
    | split)

theorem execCtxDisable_keeps {σ : State} (ctx : ℕ) (s : State) (h : Keeps σ s) : KeepsR σ (execCtxDisable ctx s) := by
  unfold execCtxDisable
  (repeat' first
    | with_reducible assumption
    | (extract_lets +onlyGivenNames x; first
      | (refine Keeps.cut (a := σ) (x := x) ?_ (fun hx => ?_); (on_goal 1 => subst x); (on_goal 2 => (clear_value x; rename' x => x')))
      | (clear_value x; rename' x => x'))
    | with_reducible first
        | apply finish_keeps | apply modDesc_keeps | apply drain_keeps | apply modCtx_keeps | apply KeepsR.ite
        | apply KeepsR.next
    | split)

theorem execCtxQuery_keeps {σ : State} (ctx : ℕ) (s : State) (h : Keeps σ s) : KeepsR σ (execCtxQuery ctx s) := by
  unfold execCtxQuery
  (repeat' first
    | with_reducible assumption
    | (extract_lets +onlyGivenNames x; clear_value x; rename' x => x')
    | with_reducible first
        | apply finish_keeps | apply hostWrite_keeps | apply KeepsR.ite | apply KeepsR.next
    | split)

end Sys2Proof.Laws
end

