-- ==== Sys2Proof/Laws/KeepsModes.lean ====
section
/-! SUPPORT. What the operations of Machine/Modes.lean keep. -/

set_option linter.unusedTactic false
set_option linter.unreachableTactic false
set_option linter.unusedVariables false
set_option linter.tactic.unusedName false

namespace Sys2Proof.Laws

open Sys2Proof Sys2Proof.Machine

theorem requeue_keeps {σ : State} (s : State) (h : Keeps σ s) : Keeps σ (State.requeue s) := by
  unfold State.requeue
  (repeat' first
    | (extract_lets +onlyGivenNames x; first
      | (refine Keeps.cut (a := σ) (x := x) ?_ (fun hx => ?_); (on_goal 1 => subst x); (on_goal 2 => (clear_value x; rename' x => x')))
      | (clear_value x; rename' x => x'))
    | assumption)

theorem rewriteJournal_keeps {σ : State} (s : State) (h : Keeps σ s) : Keeps σ (State.rewriteJournal s) := by
  unfold State.rewriteJournal
  (repeat' with_reducible first
      | assumption | (intro _) | apply writeRecord_keeps | apply Keeps.foldl)

theorem adminAgain_keeps {σ : State} (s : State) (h : Keeps σ s) : Keeps σ (State.adminAgain s) := by
  unfold State.adminAgain
  (repeat' first
    | (extract_lets +onlyGivenNames x; first
      | (refine Keeps.cut (a := σ) (x := x) ?_ (fun hx => ?_); (on_goal 1 => subst x); (on_goal 2 => (clear_value x; rename' x => x')))
      | (clear_value x; rename' x => x'))
    | assumption)

theorem restartHoop_keeps {σ : State} (s : State) (h : Keeps σ s) : Keeps σ (State.restartHoop s) := by
  unfold State.restartHoop
  (repeat' first
    | with_reducible assumption
    | (extract_lets +onlyGivenNames x; first
      | (refine Keeps.cut (a := σ) (x := x) ?_ (fun hx => ?_); (on_goal 1 => subst x); (on_goal 2 => (clear_value x; rename' x => x')))
      | (clear_value x; rename' x => x'))
    | with_reducible first
        | apply adminAgain_keeps | apply modDesc_keeps | apply rewriteJournal_keeps | apply Keeps.ite
    | split
    | assumption)

theorem interruptRuns_keeps {σ : State} (ch : ℕ) (y1 : ℕ) (y2 : State) (h : Keeps σ y2) : Keeps σ (State.interruptRuns ch y1 y2) := by
  induction y1 generalizing ch y2 with
  | zero =>
    unfold State.interruptRuns
    with_reducible assumption
  | succ n ih =>
    unfold State.interruptRuns
    (repeat' first
      | with_reducible first
          | assumption | apply endRun_keeps | apply ih | apply Keeps.ite
      | split)

theorem cutFunction_keeps {σ : State} (ch : ℕ) (cause : ℕ) (empty : Bool) (s : State) (h : Keeps σ s) : Keeps σ (State.cutFunction ch cause empty s) := by
  unfold State.cutFunction
  (repeat' first
    | with_reducible assumption
    | (extract_lets +onlyGivenNames x; first
      | (refine Keeps.cut (a := σ) (x := x) ?_ (fun hx => ?_); (on_goal 1 => subst x); (on_goal 2 => (clear_value x; rename' x => x')))
      | (clear_value x; rename' x => x'))
    | with_reducible first
        | apply interruptRuns_keeps | apply modChan_keeps | apply endPanic_keeps | apply retireIfDone_keeps | apply Keeps.ite)

theorem cutAll_keeps {σ : State} (cause : ℕ) (empty : Bool) (s : State) (h : Keeps σ s) : Keeps σ (State.cutAll cause empty s) := by
  unfold State.cutAll
  (repeat' with_reducible first
      | assumption | (intro _) | apply cutFunction_keeps | apply Keeps.foldl)

theorem warmBlocks_keeps {σ : State} (s : State) (h : Keeps σ s) : Keeps σ (State.warmBlocks s) := by
  unfold State.warmBlocks
  (repeat' first
    | with_reducible assumption
    | (extract_lets +onlyGivenNames x; first
      | (refine Keeps.cut (a := σ) (x := x) ?_ (fun hx => ?_); (on_goal 1 => subst x); (on_goal 2 => (clear_value x; rename' x => x')))
      | (clear_value x; rename' x => x'))
    | with_reducible first
        | apply abandonCrc_keeps | apply cutAll_keeps
    | assumption)

theorem loseHeartbeat_keeps {σ : State} (ch : ℕ) (due : ℕ) (s : State) (h : Keeps σ s) : Keeps σ (State.loseHeartbeat ch due s) := by
  unfold State.loseHeartbeat
  (repeat' with_reducible first
      | assumption | apply modReg_keeps | apply loseClock_keeps)

theorem commandSr_keeps {σ : State} (ch : ℕ) (s : State) (h : Keeps σ s) : Keeps σ (State.commandSr ch s) := by
  unfold State.commandSr
  (repeat' with_reducible first
      | assumption | apply modReg_keeps)

theorem regionsSr_keeps {σ : State} (hard : Bool) (s : State) (h : Keeps σ s) : Keeps σ (State.regionsSr hard s) := by
  unfold State.regionsSr
  (repeat' with_reducible first
      | assumption | (intro _) | apply loseHeartbeat_keeps | apply commandSr_keeps | apply Keeps.ite | apply Keeps.foldl)

theorem leaveSr_keeps {σ : State} (ch : ℕ) (wait : ℕ) (s : State) (h : Keeps σ s) : Keeps σ (State.leaveSr ch wait s) := by
  unfold State.leaveSr
  (repeat' with_reducible first
      | assumption | apply modReg_keeps)

theorem leaveSrAll_keeps {σ : State} (wait : ℕ) (reload : Bool) (checks : Option (List BankCheck)) (s : State) (h : Keeps σ s) : Keeps σ (State.leaveSrAll wait reload checks s) := by
  unfold State.leaveSrAll
  (repeat' with_reducible first
      | assumption | (intro _) | apply modChan_keeps | apply leaveSr_keeps | apply Keeps.foldl)

theorem clocksOn_keeps {σ : State} (s : State) (h : Keeps σ s) : Keeps σ (State.clocksOn s) := by
  unfold State.clocksOn
  (repeat' with_reducible first
      | assumption | (intro _) | apply modReg_keeps | apply Keeps.foldl)

theorem lanesOff_keeps {σ : State} (s : State) (h : Keeps σ s) : Keeps σ (State.lanesOff s) := by
  unfold State.lanesOff
  (repeat' first
    | (extract_lets +onlyGivenNames x; clear_value x; rename' x => x')
    | assumption)

theorem lanesDetect_keeps {σ : State} (s : State) (h : Keeps σ s) : Keeps σ (State.lanesDetect s) := by
  unfold State.lanesDetect
  (repeat' first
    | with_reducible first
        | assumption | (intro _)
    | (extract_lets +onlyGivenNames x; clear_value x; rename' x => x')
    | with_reducible apply Keeps.foldl
    | assumption)

theorem portDetect_keeps {σ : State} (p : ℕ) (s : State) (h : Keeps σ s) : Keeps σ (State.portDetect p s) := by
  unfold State.portDetect
  (repeat' with_reducible first
      | assumption | apply modGroup_keeps | apply modPort_keeps)

theorem portsDetect_keeps {σ : State} (s : State) (h : Keeps σ s) : Keeps σ (State.portsDetect s) := by
  unfold State.portsDetect
  (repeat' with_reducible first
      | assumption | (intro _) | apply portDetect_keeps | apply Keeps.ite | apply Keeps.foldl)

theorem checkCandidate_keeps {σ : State} (s : State) (h : Keeps σ s) : Keeps σ (State.checkCandidate s) := by
  unfold State.checkCandidate
  (repeat' first
    | with_reducible assumption
    | (extract_lets +onlyGivenNames x; clear_value x; rename' x => x')
    | with_reducible apply Keeps.ite
    | assumption)

theorem startAvs_keeps {σ : State} (mv : ℕ) (point : ℕ) (s : State) (h : Keeps σ s) : Keeps σ (State.startAvs mv point s) := by
  unfold State.startAvs
  (repeat' first
    | (extract_lets +onlyGivenNames x; refine useVal (α := Power) x ?_; subst x)
    | with_reducible apply emit_keeps
    | assumption)

theorem dropUnretained_keeps {σ : State} (s : State) (h : Keeps σ s) : Keeps σ (State.dropUnretained s) := by
  unfold State.dropUnretained
  (repeat' with_reducible first
      | assumption | (intro _) | apply modChan_keeps | apply Keeps.foldl)

theorem answerPower_keeps {σ : State} (c : Option (ℕ × ℕ)) (status : ℕ) (s : State) (h : Keeps σ s) : Keeps σ (State.answerPower c status s) := by
  unfold State.answerPower
  (repeat' first
    | with_reducible first
        | assumption | apply finish_keeps
    | split)

theorem preempt_keeps {σ : State} (s : State) (h : Keeps σ s) : Keeps σ (State.preempt s) := by
  unfold State.preempt
  (repeat' first
    | with_reducible assumption
    | (extract_lets +onlyGivenNames x; first
      | (refine Keeps.cut (a := σ) (x := x) ?_ (fun hx => ?_); (on_goal 1 => subst x); (on_goal 2 => (clear_value x; rename' x => x')))
      | (refine useVal (α := Power) x ?_; subst x)
      | (clear_value x; rename' x => x'))
    | with_reducible apply answerPower_keeps
    | assumption)

theorem enterSafe_keeps {σ : State} (hard : Bool) (cause : ℕ) (s : State) (h : Keeps σ s) : Keeps σ (State.enterSafe hard cause s) := by
  unfold State.enterSafe
  (repeat' first
    | with_reducible assumption
    | (extract_lets +onlyGivenNames x; first
      | (refine Keeps.cut (a := σ) (x := x) ?_ (fun hx => ?_); (on_goal 1 => subst x); (on_goal 2 => (clear_value x; rename' x => x')))
      | (refine useVal (α := Power) x ?_; subst x)
      | (clear_value x; rename' x => x'))
    | with_reducible first
        | apply requeue_keeps | apply cutAll_keeps | apply dropUnretained_keeps | apply abandonCrc_keeps
        | apply lanesOff_keeps | apply regionsSr_keeps | apply preempt_keeps | apply startAvs_keeps | apply Keeps.ite
    | assumption)

theorem enterService_keeps {σ : State} (source : ℕ) (left : Mode) (s : State) (h : Keeps σ s) : Keeps σ (State.enterService source left s) := by
  unfold State.enterService
  (repeat' first
    | (extract_lets +onlyGivenNames x; first
      | (refine useVal (α := Power) x ?_; subst x)
      | (clear_value x; rename' x => x'))
    | assumption)

end Sys2Proof.Laws
end

