-- ==== Sys2Proof/Laws/KeepsThermal.lean ====
section
/-! SUPPORT. What the operations of Machine/Thermal.lean keep. -/

set_option linter.unusedTactic false
set_option linter.unreachableTactic false
set_option linter.unusedVariables false
set_option linter.tactic.unusedName false

namespace Sys2Proof.Laws

open Sys2Proof Sys2Proof.Machine

theorem modThm_keeps {σ : State} (f : Thermal → Thermal) (s : State) (h : Keeps σ s) : Keeps σ (State.modThm f s) := by
  unfold State.modThm
  assumption

theorem modSensor_keeps {σ : State} (i : ℕ) (f : Sensor → Sensor) (s : State) (h : Keeps σ s) : Keeps σ (State.modSensor i f s) := by
  unfold State.modSensor
  (repeat' with_reducible first
      | assumption | apply modThm_keeps)

theorem takeReading_keeps {σ : State} (i : ℕ) (t : ℤ) (good : Bool) (s : State) (h : Keeps σ s) : Keeps σ (State.takeReading i t good s) := by
  unfold State.takeReading
  (repeat' first
    | with_reducible assumption
    | (extract_lets +onlyGivenNames x; first
      | (refine Keeps.cut (a := σ) (x := x) ?_ (fun hx => ?_); (on_goal 1 => subst x); (on_goal 2 => (clear_value x; rename' x => x')))
      | (clear_value x; rename' x => x'))
    | with_reducible first
        | apply modSensor_keeps | apply log_keeps | apply Keeps.ite)

theorem fillSubst_keeps {σ : State} (s : State) (h : Keeps σ s) : Keeps σ (State.fillSubst s) := by
  unfold State.fillSubst
  (repeat' first
    | with_reducible first
        | assumption | (intro _) | apply modSensor_keeps | apply Keeps.foldl
    | split)

theorem thermalRecord_keeps {σ : State} (kind : ℕ) (sensor : ℕ) (t : ℤ) (s : State) (h : Keeps σ s) : Keeps σ (State.thermalRecord kind sensor t s) := by
  unfold State.thermalRecord
  (repeat' with_reducible first
      | assumption | apply modThm_keeps)

theorem setBand_keeps {σ : State} (d : ℕ) (k : ℕ) (t : ℕ) (s : State) (h : Keeps σ s) : Keeps σ (State.setBand d k t s) := by
  unfold State.setBand
  (repeat' first
    | with_reducible first
        | assumption | (intro _)
    | (extract_lets +onlyGivenNames x; first
      | (refine Keeps.cut (a := σ) (x := x) ?_ (fun hx => ?_); (on_goal 1 => subst x); (on_goal 2 => (clear_value x; rename' x => x')))
      | (clear_value x; rename' x => x'))
    | with_reducible first
        | apply modThm_keeps | apply modChan_keeps | apply log_keeps | apply thermalRecord_keeps | apply condEnd_keeps
        | apply Keeps.ite | apply Keeps.foldl)

theorem bandSample_keeps {σ : State} (d : ℕ) (t : ℕ) (s : State) (h : Keeps σ s) : Keeps σ (State.bandSample d t s) := by
  unfold State.bandSample
  (repeat' first
    | with_reducible assumption
    | (extract_lets +onlyGivenNames x; clear_value x; rename' x => x')
    | with_reducible first
        | apply setBand_keeps | apply modThm_keeps | apply Keeps.ite)

theorem execBandFall_keeps {σ : State} (die : ℕ) (s : State) (h : Keeps σ s) : KeepsR σ (execBandFall die s) := by
  unfold execBandFall
  (repeat' with_reducible first
      | assumption | apply setBand_keeps | apply KeepsR.ite | apply KeepsR.next)

theorem logTrip_keeps {σ : State} (kind : ℕ) (i : ℕ) (t : ℤ) (s : State) (h : Keeps σ s) : Keeps σ (State.logTrip kind i t s) := by
  unfold State.logTrip
  (repeat' with_reducible first
      | assumption | apply logAt_keeps | apply thermalRecord_keeps)

theorem hardTrip_keeps {σ : State} (i : ℕ) (t : ℤ) (s : State) (h : Keeps σ s) : Keeps σ (State.hardTrip i t s) := by
  unfold State.hardTrip
  (repeat' first
    | with_reducible assumption
    | (extract_lets +onlyGivenNames x; refine Keeps.cut (a := σ) (x := x) ?_ (fun hx => ?_); (on_goal 1 => subst x); (on_goal 2 => (clear_value x; rename' x => x')))
    | with_reducible first
        | apply logTrip_keeps | apply enterSafe_keeps | apply modThm_keeps)

theorem orderlyTrip_keeps {σ : State} (i : ℕ) (t : ℤ) (s : State) (h : Keeps σ s) : Keeps σ (State.orderlyTrip i t s) := by
  unfold State.orderlyTrip
  (repeat' first
    | with_reducible first
        | assumption | (intro _)
    | (extract_lets +onlyGivenNames x; first
      | (refine Keeps.cut (a := σ) (x := x) ?_ (fun hx => ?_); (on_goal 1 => subst x); (on_goal 2 => (clear_value x; rename' x => x')))
      | (clear_value x; rename' x => x'))
    | with_reducible first
        | apply logTrip_keeps | apply modThm_keeps | apply stopStarting_keeps | apply requestStop_keeps | apply Keeps.ite
        | apply Keeps.foldl)

theorem tripSample_keeps {σ : State} (s : State) (h : Keeps σ s) : Keeps σ (State.tripSample s) := by
  unfold State.tripSample
  (repeat' first
    | with_reducible assumption
    | (extract_lets +onlyGivenNames x; first
      | (refine Keeps.cut (a := σ) (x := x) ?_ (fun hx => ?_); (on_goal 1 => subst x); (on_goal 2 => (clear_value x; rename' x => x')))
      | (clear_value x; rename' x => x'))
    | with_reducible first
        | apply hardTrip_keeps | apply orderlyTrip_keeps | apply modThm_keeps | apply Keeps.ite
    | split)

theorem execOrderlyTripComplete_keeps {σ : State} (s : State) (h : Keeps σ s) : KeepsR σ (execOrderlyTripComplete s) := by
  unfold execOrderlyTripComplete
  (repeat' with_reducible first
      | assumption | apply enterSafe_keeps | apply KeepsR.ite | apply KeepsR.next)

theorem execOrderlyTripTimeout_keeps {σ : State} (s : State) (h : Keeps σ s) : KeepsR σ (execOrderlyTripTimeout s) := by
  unfold execOrderlyTripTimeout
  (repeat' first
    | with_reducible first
        | assumption | apply hardTrip_keeps | apply KeepsR.ite | apply KeepsR.next
    | split)

theorem execTripConditionClear_keeps {σ : State} (s : State) (h : Keeps σ s) : KeepsR σ (execTripConditionClear s) := by
  unfold execTripConditionClear
  (repeat' first
    | with_reducible assumption
    | (extract_lets +onlyGivenNames x; first
      | (refine Keeps.cut (a := σ) (x := x) ?_ (fun hx => ?_); (on_goal 1 => subst x); (on_goal 2 => (clear_value x; rename' x => x')))
      | (refine useVal (α := Faults) x ?_; subst x))
    | with_reducible first
        | apply modThm_keeps | apply KeepsR.ite | apply KeepsR.next
    | refine flt_keeps _ (logOk_map _ fun e => by split <;> rfl) ?_)

theorem updateFf_keeps {σ : State} (s : State) (h : Keeps σ s) : Keeps σ (State.updateFf s) := by
  unfold State.updateFf
  (repeat' first
    | with_reducible assumption
    | (extract_lets +onlyGivenNames x; clear_value x; rename' x => x')
    | with_reducible first
        | apply modThm_keeps | apply Keeps.ite)

theorem updateFb_keeps {σ : State} (s : State) (h : Keeps σ s) : Keeps σ (State.updateFb s) := by
  unfold State.updateFb
  (repeat' first
    | with_reducible assumption
    | (extract_lets +onlyGivenNames x; clear_value x; rename' x => x')
    | with_reducible apply modThm_keeps)

theorem driveCool_keeps {σ : State} (s : State) (h : Keeps σ s) : Keeps σ (State.driveCool s) := by
  unfold State.driveCool
  (repeat' with_reducible first
      | assumption | apply emit_keeps | apply modThm_keeps | apply Keeps.ite)

theorem execCoolDemPeriod_keeps {σ : State} (lowReadsHigh : Bool) (releasedReadsLow : Bool) (s : State) (h : Keeps σ s) : KeepsR σ (execCoolDemPeriod lowReadsHigh releasedReadsLow s) := by
  unfold execCoolDemPeriod
  (repeat' first
    | with_reducible assumption
    | (extract_lets +onlyGivenNames x; clear_value x; rename' x => x')
    | with_reducible first
        | apply modThm_keeps | apply KeepsR.ite | apply KeepsR.next)

theorem execCoolStuck_keeps {σ : State} (s : State) (h : Keeps σ s) : KeepsR σ (execCoolStuck s) := by
  unfold execCoolStuck
  (repeat' first
    | with_reducible assumption
    | (extract_lets +onlyGivenNames x; clear_value x; rename' x => x')
    | with_reducible first
        | apply log_keeps | apply condEnd_keeps | apply modThm_keeps | apply KeepsR.ite | apply KeepsR.next)

theorem execCoolStuckClear_keeps {σ : State} (s : State) (h : Keeps σ s) : KeepsR σ (execCoolStuckClear s) := by
  unfold execCoolStuckClear
  (repeat' with_reducible first
      | assumption | apply condEnd_keeps | apply modThm_keeps | apply KeepsR.ite | apply KeepsR.next)

theorem execCoolCfgWrite_keeps {σ : State} (value : Word) (s : State) (h : Keeps σ s) : KeepsR σ (execCoolCfgWrite value s) := by
  unfold execCoolCfgWrite
  (repeat' first
    | with_reducible assumption
    | (extract_lets +onlyGivenNames x; clear_value x; rename' x => x')
    | with_reducible first
        | apply writeIgnored_keeps | apply modThm_keeps | apply KeepsR.ite | apply KeepsR.next)

theorem takeSample_keeps {σ : State} (readings : List ℤ) (t : ℕ) (s : State) (h : Keeps σ s) : Keeps σ (State.takeSample readings t s) := by
  unfold State.takeSample
  (repeat' first
    | with_reducible first
        | assumption | (intro _)
    | (extract_lets +onlyGivenNames x; first
      | (refine Keeps.cut (a := σ) (x := x) ?_ (fun hx => ?_); (on_goal 1 => subst x); (on_goal 2 => (clear_value x; rename' x => x')))
      | (clear_value x; rename' x => x'))
    | with_reducible first
        | apply takeReading_keeps | apply fillSubst_keeps | apply modThm_keeps | apply bandSample_keeps | apply Keeps.foldl)

theorem execSensorSample_keeps {σ : State} (readings : List ℤ) (s : State) (h : Keeps σ s) : KeepsR σ (execSensorSample readings s) := by
  unfold execSensorSample
  (repeat' first
    | with_reducible assumption
    | (extract_lets +onlyGivenNames x; clear_value x; rename' x => x')
    | with_reducible first
        | apply updateFb_keeps | apply tripSample_keeps | apply takeSample_keeps | apply KeepsR.ite | apply KeepsR.next)

theorem execSensorRecover_keeps {σ : State} (sensor : ℕ) (s : State) (h : Keeps σ s) : KeepsR σ (execSensorRecover sensor s) := by
  unfold execSensorRecover
  (repeat' first
    | with_reducible assumption
    | (extract_lets +onlyGivenNames x; clear_value x; rename' x => x')
    | with_reducible first
        | apply condEnd_keeps | apply modSensor_keeps | apply KeepsR.ite | apply KeepsR.next)

theorem selectTier_keeps {σ : State} (ch : ℕ) (i : ℕ) (s : State) (h : Keeps σ s) : Keeps σ (State.selectTier ch i s) := by
  unfold State.selectTier
  (repeat' first
    | with_reducible assumption
    | (extract_lets +onlyGivenNames x; first
      | (refine Keeps.cut (a := σ) (x := x) ?_ (fun hx => ?_); (on_goal 1 => subst x); (on_goal 2 => (clear_value x; rename' x => x')))
      | (clear_value x; rename' x => x'))
    | with_reducible first
        | apply modSeq_keeps | apply tierNotice_keeps | apply Keeps.ite)

theorem allocate_keeps {σ : State} (s : State) (h : Keeps σ s) : Keeps σ (State.allocate s) := by
  unfold State.allocate
  (repeat' first
    | with_reducible first
        | assumption | (intro _)
    | (extract_lets +onlyGivenNames x; first
      | (refine KeepsP.cut (a := σ) (x := x) ?_ (fun hx => ?_); (on_goal 1 => subst x); (on_goal 2 => (clear_value x; rename' x => x')))
      | (clear_value x; rename' x => x'))
    | with_reducible first
        | apply requestStop_keeps | apply log_keeps | apply selectTier_keeps | apply KeepsP.ite | apply KeepsP.foldl
        | apply KeepsP.snd | apply KeepsP.mk)

theorem allTop_keeps {σ : State} (s : State) (h : Keeps σ s) : Keeps σ (State.allTop s) := by
  unfold State.allTop
  (repeat' with_reducible first
      | assumption | (intro _) | apply selectTier_keeps | apply Keeps.foldl)

theorem shedClasses_keeps {σ : State} (s : State) (h : Keeps σ s) : Keeps σ (State.shedClasses s) := by
  unfold State.shedClasses
  (repeat' first
    | with_reducible first
        | assumption | (intro _)
    | (extract_lets +onlyGivenNames x; first
      | (refine Keeps.cut (a := σ) (x := x) ?_ (fun hx => ?_); (on_goal 1 => subst x); (on_goal 2 => (clear_value x; rename' x => x')))
      | (clear_value x; rename' x => x'))
    | with_reducible first
        | apply modChan_keeps | apply Keeps.ite | apply Keeps.foldl
    | assumption)

theorem setRung_keeps {σ : State} (n : ℕ) (s : State) (h : Keeps σ s) : Keeps σ (State.setRung n s) := by
  unfold State.setRung
  (repeat' first
    | with_reducible assumption
    | (extract_lets +onlyGivenNames x; first
      | (refine Keeps.cut (a := σ) (x := x) ?_ (fun hx => ?_); (on_goal 1 => subst x); (on_goal 2 => (clear_value x; rename' x => x')))
      | (clear_value x; rename' x => x'))
    | with_reducible first
        | apply modThm_keeps | apply shedClasses_keeps)

theorem settleRung_keeps {σ : State} (s : State) (h : Keeps σ s) : Keeps σ (State.settleRung s) := by
  unfold State.settleRung
  (repeat' with_reducible first
      | assumption | apply updateFf_keeps | apply allocate_keeps | apply allTop_keeps | apply Keeps.ite)

theorem execEvaluation_keeps {σ : State} (s : State) (h : Keeps σ s) : KeepsR σ (execEvaluation s) := by
  unfold execEvaluation
  (repeat' first
    | with_reducible assumption
    | (extract_lets +onlyGivenNames x; first
      | (refine Keeps.cut (a := σ) (x := x) ?_ (fun hx => ?_); (on_goal 1 => subst x); (on_goal 2 => (clear_value x; rename' x => x')))
      | (clear_value x; rename' x => x'))
    | with_reducible first
        | apply modThm_keeps | apply log_keeps | apply setRung_keeps | apply settleRung_keeps | apply Keeps.ite
        | apply KeepsR.ite | apply KeepsR.next)

theorem execRungRestore_keeps {σ : State} (s : State) (h : Keeps σ s) : KeepsR σ (execRungRestore s) := by
  unfold execRungRestore
  (repeat' with_reducible first
      | assumption | apply settleRung_keeps | apply modThm_keeps | apply setRung_keeps | apply KeepsR.ite | apply KeepsR.next)

theorem modTd_keeps {σ : State} (i : ℕ) (f : Diode → Diode) (s : State) (h : Keeps σ s) : Keeps σ (State.modTd i f s) := by
  unfold State.modTd
  (repeat' with_reducible first
      | assumption | apply modThm_keeps)

theorem execTdConversion_keeps {σ : State} (input : ℕ) (dvUv : ℤ) (v1Uv : ℤ) (vrUv : ℤ) (s : State) (h : Keeps σ s) : KeepsR σ (execTdConversion input dvUv v1Uv vrUv s) := by
  unfold execTdConversion
  (repeat' first
    | with_reducible assumption
    | (extract_lets +onlyGivenNames x; clear_value x; rename' x => x')
    | with_reducible first
        | apply modTd_keeps | apply KeepsR.ite | apply KeepsR.next)

theorem execTdFault_keeps {σ : State} (input : ℕ) (s : State) (h : Keeps σ s) : KeepsR σ (execTdFault input s) := by
  unfold execTdFault
  (repeat' first
    | with_reducible assumption
    | (extract_lets +onlyGivenNames x; clear_value x; rename' x => x')
    | with_reducible first
        | apply log_keeps | apply modTd_keeps | apply KeepsR.ite | apply KeepsR.next)

theorem execTdRecover_keeps {σ : State} (input : ℕ) (s : State) (h : Keeps σ s) : KeepsR σ (execTdRecover input s) := by
  unfold execTdRecover
  (repeat' first
    | with_reducible assumption
    | (extract_lets +onlyGivenNames x; clear_value x; rename' x => x')
    | with_reducible first
        | apply condEnd_keeps | apply modTd_keeps | apply KeepsR.ite | apply KeepsR.next)

end Sys2Proof.Laws
end

