-- ==== Sys2Proof/Laws/KeepsOtp.lean ====
section
/-! SUPPORT. What the operations of Machine/Otp.lean keep. -/

set_option linter.unusedTactic false
set_option linter.unreachableTactic false
set_option linter.unusedVariables false
set_option linter.tactic.unusedName false

namespace Sys2Proof.Laws

open Sys2Proof Sys2Proof.Machine

/-- A change of the power block that empties the save image's fault log. -/
theorem pwrNil_keeps {a s : State} (p : Power) (hp : p.image.flt = []) (h : Keeps a s) : Keeps a { s with pwr := p } :=
  ⟨h.1, h.2.1, h.2.2.1, fun k => ⟨(h.2.2.2 k).1, by
    show logOk p.image.flt
    rw [hp]
    exact ⟨rfl, fun e he => nomatch he⟩⟩⟩

theorem modOtp_keeps {σ : State} (f : Otp → Otp) (s : State) (h : Keeps σ s) : Keeps σ (State.modOtp f s) := by
  unfold State.modOtp
  assumption

theorem readFuses_keeps {σ : State} (l : List (ℕ × OtpReads)) (s : State) (h : Keeps σ s) : Keeps σ (State.readFuses l s) := by
  unfold State.readFuses
  (repeat' with_reducible first
      | assumption | apply modOtp_keeps)

theorem takeIdentity_keeps {σ : State} (s : State) (h : Keeps σ s) : Keeps σ (State.takeIdentity s) := by
  unfold State.takeIdentity
  (repeat' first
    | (extract_lets +onlyGivenNames x; first
      | (refine Keeps.cut (a := σ) (x := x) ?_ (fun hx => ?_); (on_goal 1 => subst x); (on_goal 2 => (clear_value x; rename' x => x')))
      | (refine useVal (α := Power) x ?_; subst x)
      | (clear_value x; rename' x => x'))
    | with_reducible first
        | apply log_keeps | apply Keeps.ite
    | assumption)

theorem bootRead_keeps {σ : State} (s : State) (h : Keeps σ s) : Keeps σ (State.bootRead s) := by
  unfold State.bootRead
  (repeat' first
    | with_reducible first
        | assumption | (intro _)
    | (extract_lets +onlyGivenNames x; first
      | (refine Keeps.cut (a := σ) (x := x) ?_ (fun hx => ?_); (on_goal 1 => subst x); (on_goal 2 => (clear_value x; rename' x => x')))
      | (clear_value x; rename' x => x'))
    | with_reducible first
        | apply modOtp_keeps | apply log_keeps | apply takeIdentity_keeps | apply Keeps.ite | apply Keeps.foldl
    | split)

theorem otpRead_keeps {σ : State} (p : Path) (w : ℕ) (ref : ℕ) (s : State) (h : Keeps σ s) : Keeps σ (State.otpRead p w ref s) := by
  unfold State.otpRead
  (repeat' first
    | with_reducible assumption
    | (extract_lets +onlyGivenNames x; clear_value x; rename' x => x')
    | with_reducible apply modOtp_keeps)

theorem serveReads_keeps {σ : State} (s : State) (h : Keeps σ s) : Keeps σ (State.serveReads s) := by
  unfold State.serveReads
  (repeat' first
    | exact fun _ k => k
    | with_reducible first
        | assumption | (intro _) | apply modOtp_keeps | apply Keeps.foldl)

theorem execOtpRead_keeps {σ : State} (path : Path) (value : Word) (s : State) (h : Keeps σ s) : KeepsR σ (execOtpRead path value s) := by
  unfold execOtpRead
  (repeat' first
    | with_reducible assumption
    | (extract_lets +onlyGivenNames x; first
      | (refine Keeps.cut (a := σ) (x := x) ?_ (fun hx => ?_); (on_goal 1 => subst x); (on_goal 2 => (clear_value x; rename' x => x')))
      | (clear_value x; rename' x => x'))
    | with_reducible first
        | apply writeIgnored_keeps | apply modOtp_keeps | apply otpRead_keeps | apply Keeps.ite | apply KeepsR.ite
        | apply KeepsR.next)

theorem burnThermal_keeps {σ : State} (s : State) (h : Keeps σ s) : Keeps σ (State.burnThermal s) := by
  unfold State.burnThermal
  (repeat' with_reducible first
      | assumption | apply modThm_keeps)

theorem burnEnd_keeps {σ : State} (b : Burn) (status : ℕ) (s : State) (h : Keeps σ s) : Keeps σ (State.burnEnd b status s) := by
  unfold State.burnEnd
  (repeat' first
    | with_reducible assumption
    | (extract_lets +onlyGivenNames x; first
      | (refine Keeps.cut (a := σ) (x := x) ?_ (fun hx => ?_); (on_goal 1 => subst x); (on_goal 2 => (clear_value x; rename' x => x')))
      | (subst x; try beta_reduce))
    | with_reducible first
        | apply serveReads_keeps | apply modOtp_keeps | apply log_keeps | apply finish_keeps | apply burnThermal_keeps
        | apply Keeps.ite
    | split)

theorem burnGo_keeps {σ : State} (b : Burn) (s : State) (h : Keeps σ s) : Keeps σ (State.burnGo b s) := by
  unfold State.burnGo
  (repeat' first
    | with_reducible assumption
    | (extract_lets +onlyGivenNames x; clear_value x; rename' x => x')
    | with_reducible first
        | apply modOtp_keeps | apply burnEnd_keeps
    | split)

theorem execFuseProgram_keeps {σ : State} (ctx : ℕ) (railsOk : Bool) (vfuse : Bool) (s : State) (h : Keeps σ s) : KeepsR σ (execFuseProgram ctx railsOk vfuse s) := by
  unfold execFuseProgram
  (repeat' first
    | with_reducible assumption
    | (extract_lets +onlyGivenNames x; first
      | (refine Keeps.cut (a := σ) (x := x) ?_ (fun hx => ?_); (on_goal 1 => subst x); (on_goal 2 => (clear_value x; rename' x => x')))
      | (clear_value x; rename' x => x'))
    | with_reducible first
        | apply modOtp_keeps | apply finish_keeps | apply modDesc_keeps | apply burnGo_keeps | apply KeepsR.ite
        | apply KeepsR.next
    | split)

theorem execOtpPulseEnd_keeps {σ : State} (took : Bool) (railsOk : Bool) (vfuse : Bool) (s : State) (h : Keeps σ s) : KeepsR σ (execOtpPulseEnd took railsOk vfuse s) := by
  unfold execOtpPulseEnd
  (repeat' first
    | with_reducible assumption
    | (extract_lets +onlyGivenNames x; first
      | (refine Keeps.cut (a := σ) (x := x) ?_ (fun hx => ?_); (on_goal 1 => subst x); (on_goal 2 => (clear_value x; rename' x => x')))
      | (clear_value x; rename' x => x'))
    | with_reducible first
        | apply modOtp_keeps | apply serveReads_keeps | apply burnEnd_keeps | apply burnGo_keeps | apply Keeps.ite
        | apply KeepsR.ite | apply KeepsR.next
    | split)

theorem stopBurn_keeps {σ : State} (s : State) (h : Keeps σ s) : Keeps σ (State.stopBurn s) := by
  unfold State.stopBurn
  (repeat' first
    | with_reducible assumption
    | (extract_lets +onlyGivenNames x; refine Keeps.cut (a := σ) (x := x) ?_ (fun hx => ?_); (on_goal 1 => subst x); (on_goal 2 => (clear_value x; rename' x => x')))
    | with_reducible first
        | apply modOtp_keeps | apply modDesc_keeps
    | split)

theorem programRecords_keeps {σ : State} (s : State) (h : Keeps σ s) : Keeps σ (State.programRecords s) := by
  unfold State.programRecords
  (repeat' first
    | with_reducible first
        | assumption | apply burnGo_keeps | apply log_keeps | apply modThm_keeps | apply Keeps.ite
    | split)

theorem bootDarns_keeps {σ : State} (ch : ℕ) (bad : List ℕ) (s : State) (h : Keeps σ s) : Keeps σ (State.bootDarns ch bad s) := by
  unfold State.bootDarns
  (repeat' first
    | with_reducible first
        | assumption | (intro _)
    | (extract_lets +onlyGivenNames x; first
      | (refine Keeps.cut (a := σ) (x := x) ?_ (fun hx => ?_); (on_goal 1 => subst x); (on_goal 2 => (clear_value x; rename' x => x')))
      | (clear_value x; rename' x => x'))
    | with_reducible first
        | apply applyDarn_keeps | apply modEyes_keeps | apply Keeps.foldl)

theorem freeRow_keeps {σ : State} (ch b row : ℕ) (s : State) (h : Keeps σ s) : Keeps σ (State.freeRow ch b row s) :=
  dram_keeps (s := { s with freeNo := _ }) _ (wf_fill _ _ _ _) h

theorem bootRepairs_keeps {σ : State} (ch : ℕ) (free : List (ℕ × ℕ × ℕ)) (s : State) (h : Keeps σ s) : Keeps σ (State.bootRepairs ch free s) := by
  unfold State.bootRepairs
  (repeat' first
    | with_reducible first
        | assumption | (intro _)
    | (extract_lets +onlyGivenNames x; first
      | (refine Keeps.cut (a := σ) (x := x) ?_ (fun hx => ?_); (on_goal 1 => subst x); (on_goal 2 => (clear_value x; rename' x => x')))
      | (refine KeepsP.cut (a := σ) (x := x) ?_ (fun hx => ?_); (on_goal 1 => subst x); (on_goal 2 => (clear_value x; rename' x => x')))
      | (clear_value x; rename' x => x'))
    | with_reducible first
        | apply log_keeps | apply freeRow_keeps | apply modEyes_keeps | apply modChan_keeps | apply KeepsP.ite
        | apply Keeps.foldl | apply KeepsP.foldl | apply KeepsP.snd | apply KeepsP.mk)

theorem purge_keeps {σ : State} (s : State) (h : Keeps σ s) : Keeps σ (State.purge s) := by
  unfold State.purge
  (repeat' first
    | with_reducible first
        | assumption | (intro _)
    | (extract_lets +onlyGivenNames x; first
      | (refine Keeps.cut (a := σ) (x := x) ?_ (fun hx => ?_); (on_goal 1 => subst x); (on_goal 2 => (clear_value x; rename' x => x')))
      | (refine useVal (α := Power) x ?_; subst x))
    | with_reducible first
        | apply modChan_keeps | apply zeroChannel_keeps | apply log_keeps | apply modOtp_keeps | apply Keeps.ite
        | apply Keeps.foldl
    | refine pwrNil_keeps _ rfl ?_)

theorem patchEntry_keeps {σ : State} (w : ℕ) (v : ℕ) (s : State) (h : Keeps σ s) : Keeps σ (State.patchEntry w v s) := by
  unfold State.patchEntry
  (repeat' first
    | with_reducible assumption
    | (extract_lets +onlyGivenNames x; first
      | (refine useFun₂ x ?_; subst x; try beta_reduce)
      | (clear_value x; rename' x => x'))
    | with_reducible first
        | apply applyDarn_keeps | apply modOtp_keeps | apply Keeps.ite)

theorem execPatchTable_keeps {σ : State} (ctx : ℕ) (table : Fetch) (s : State) (h : Keeps σ s) : KeepsR σ (execPatchTable ctx table s) := by
  unfold execPatchTable
  (repeat' first
    | with_reducible first
        | assumption | (intro _)
    | (extract_lets +onlyGivenNames x; first
      | (refine Keeps.cut (a := σ) (x := x) ?_ (fun hx => ?_); (on_goal 1 => subst x); (on_goal 2 => (clear_value x; rename' x => x')))
      | (clear_value x; rename' x => x'))
    | with_reducible first
        | apply finish_keeps | apply hostRead_keeps | apply patchEntry_keeps | apply KeepsR.ite | apply Keeps.foldl
        | apply KeepsR.next
    | split)

theorem keepOverride_keeps {σ : State} (w : ℕ) (v : Word) (s : State) (h : Keeps σ s) : Keeps σ (State.keepOverride w v s) := by
  unfold State.keepOverride
  (repeat' with_reducible first
      | assumption | apply modOtp_keeps | apply log_keeps | apply Keeps.ite)

theorem auditWord_keeps {σ : State} (w : ℕ) (after : Option OtpReads) (s : State) (h : Keeps σ s) : Keeps σ (State.auditWord w after s) := by
  unfold State.auditWord
  (repeat' first
    | with_reducible assumption
    | (extract_lets +onlyGivenNames x; first
      | (refine Keeps.cut (a := σ) (x := x) ?_ (fun hx => ?_); (on_goal 1 => subst x); (on_goal 2 => (clear_value x; rename' x => x')))
      | (refine useFun x ?_; subst x; try beta_reduce)
      | (clear_value x; rename' x => x'))
    | with_reducible first
        | apply modOtp_keeps | apply log_keeps | apply readFuses_keeps | apply keepOverride_keeps | apply Keeps.ite
    | split)

theorem audit_keeps {σ : State} (reads : List (ℕ × OtpReads)) (after : List (ℕ × OtpReads)) (s : State) (h : Keeps σ s) : Keeps σ (State.audit reads after s) := by
  unfold State.audit
  (repeat' first
    | with_reducible first
        | assumption | (intro _)
    | (extract_lets +onlyGivenNames x; refine Keeps.cut (a := σ) (x := x) ?_ (fun hx => ?_); (on_goal 1 => subst x); (on_goal 2 => (clear_value x; rename' x => x')))
    | with_reducible first
        | apply readFuses_keeps | apply modOtp_keeps | apply auditWord_keeps | apply Keeps.foldl)

theorem execOtpAudit_keeps {σ : State} (path : Path) (reads : List (ℕ × OtpReads)) (after : List (ℕ × OtpReads)) (s : State) (h : Keeps σ s) : KeepsR σ (execOtpAudit path reads after s) := by
  unfold execOtpAudit
  (repeat' with_reducible first
      | assumption | apply audit_keeps | apply KeepsR.ite | apply KeepsR.next)

theorem execAuditTimer_keeps {σ : State} (reads : List (ℕ × OtpReads)) (after : List (ℕ × OtpReads)) (s : State) (h : Keeps σ s) : KeepsR σ (execAuditTimer reads after s) := by
  unfold execAuditTimer
  (repeat' first
    | with_reducible assumption
    | (extract_lets +onlyGivenNames x; clear_value x; rename' x => x')
    | with_reducible first
        | apply audit_keeps | apply KeepsR.ite | apply KeepsR.next)

theorem execTapInstruction_keeps {σ : State} (kind : ℕ) (s : State) (h : Keeps σ s) : KeepsR σ (execTapInstruction kind s) := by
  unfold execTapInstruction
  (repeat' first
    | with_reducible assumption
    | (extract_lets +onlyGivenNames x; first
      | (refine Keeps.cut (a := σ) (x := x) ?_ (fun hx => ?_); (on_goal 1 => subst x); (on_goal 2 => (clear_value x; rename' x => x')))
      | (clear_value x; rename' x => x'))
    | with_reducible first
        | apply modOtp_keeps | apply emit_keeps | apply log_keeps | apply Keeps.ite | apply KeepsR.ite | apply KeepsR.next)

theorem execTapReset_keeps {σ : State} (s : State) (h : Keeps σ s) : KeepsR σ (execTapReset s) := by
  unfold execTapReset
  (repeat' with_reducible first
      | assumption | apply modOtp_keeps | apply KeepsR.next)

theorem selftestEnd_keeps {σ : State} (s : State) (h : Keeps σ s) : Keeps σ (State.selftestEnd s) := by
  unfold State.selftestEnd
  (repeat' first
    | with_reducible assumption
    | (extract_lets +onlyGivenNames x; clear_value x; rename' x => x')
    | with_reducible first
        | apply modOtp_keeps | apply Keeps.ite
    | split)

theorem selftestBobbin_keeps {σ : State} (ch : ℕ) (ds : List SliceDiff) (march : Bool) (s : State) (h : Keeps σ s) : Keeps σ (State.selftestBobbin ch ds march s) := by
  unfold State.selftestBobbin
  (repeat' first
    | with_reducible assumption
    | (extract_lets +onlyGivenNames x; refine Keeps.cut (a := σ) (x := x) ?_ (fun hx => ?_); (on_goal 1 => subst x); (on_goal 2 => (clear_value x; rename' x => x')))
    | with_reducible first
        | apply modChan_keeps | apply commandSr_keeps | apply restOfRound_keeps | apply retireNow_keeps | apply log_keeps
        | apply leaveSr_keeps | apply Keeps.ite)

theorem execSelftestGo_keeps {σ : State} (sigs : List (ℕ × List SliceDiff)) (marchFail : List ℕ) (s : State) (h : Keeps σ s) : KeepsR σ (execSelftestGo sigs marchFail s) := by
  unfold execSelftestGo
  (repeat' first
    | with_reducible first
        | assumption | (intro _)
    | (extract_lets +onlyGivenNames x; first
      | (refine Keeps.cut (a := σ) (x := x) ?_ (fun hx => ?_); (on_goal 1 => subst x); (on_goal 2 => (clear_value x; rename' x => x')))
      | (clear_value x; rename' x => x'))
    | with_reducible first
        | apply writeIgnored_keeps | apply selftestBobbin_keeps | apply selftestEnd_keeps | apply modOtp_keeps
        | apply KeepsR.ite | apply Keeps.foldl | apply KeepsR.next)

end Sys2Proof.Laws
end

