-- ==== Sys2Proof/Laws/KeepsPower.lean ====
section
/-! SUPPORT. What the operations of Machine/Power.lean keep. -/

set_option linter.unusedTactic false
set_option linter.unreachableTactic false
set_option linter.unusedVariables false
set_option linter.tactic.unusedName false

namespace Sys2Proof.Laws

open Sys2Proof Sys2Proof.Machine

theorem modPwr_keeps {σ : State} (f : Power → Power) (s : State) (hf : ∀ p, (f p).image.flt = p.image.flt) (h : Keeps σ s) :
    Keeps σ (State.modPwr f s) := pwr_keeps _ (hf _) h

theorem reloadEntry_keeps {σ : State} (ch : ℕ) (a : ℕ) (bad : Bool) (s : State) (h : Keeps σ s) : Keeps σ (State.reloadEntry ch a bad s) := by
  unfold State.reloadEntry
  (repeat' first
    | with_reducible assumption
    | (extract_lets +onlyGivenNames x; first
      | (refine useFun₂ x ?_; subst x; try beta_reduce)
      | (clear_value x; rename' x => x'))
    | with_reducible first
        | apply modChan_keeps | apply log_keeps | apply readCw_keeps | apply corrEnter_keeps | apply Keeps.ite
    | split
    | refine KeepsP.of_eq (by assumption) ?_)

theorem reloadRemap_keeps {σ : State} (ch : ℕ) (bad : List ℕ) (s : State) (h : Keeps σ s) : Keeps σ (State.reloadRemap ch bad s) := by
  unfold State.reloadRemap
  (repeat' first
    | with_reducible first
        | assumption | (intro _)
    | (extract_lets +onlyGivenNames x; first
      | (refine Keeps.cut (a := σ) (x := x) ?_ (fun hx => ?_); (on_goal 1 => subst x); (on_goal 2 => (clear_value x; rename' x => x')))
      | (clear_value x; rename' x => x'))
    | with_reducible first
        | apply modChan_keeps | apply reloadEntry_keeps | apply Keeps.foldl)

theorem fastGranule_keeps {σ : State} (ch : ℕ) (k : BankCheck) (a : ℕ) (s : State) (h : Keeps σ s) : KeepsP σ (State.fastGranule ch k a s) := by
  unfold State.fastGranule
  (repeat' first
    | with_reducible first
        | assumption | (intro _)
    | (extract_lets +onlyGivenNames x; first
      | (refine Keeps.cut (a := σ) (x := x) ?_ (fun hx => ?_); (on_goal 1 => subst x); (on_goal 2 => (clear_value x; rename' x => x')))
      | (clear_value x; rename' x => x'))
    | with_reducible first
        | apply readGranule_keeps | apply count_keeps | apply scrubPoisoned_keeps | apply scrubRewrite_keeps | apply Keeps.ite
        | apply Keeps.foldl
    | split
    | with_reducible apply KeepsP.mk
    | refine KeepsP.of_eq (by assumption) ?_)

theorem fastBank_keeps {σ : State} (ch : ℕ) (k : BankCheck) (s : State) (h : Keeps σ s) : KeepsP σ (State.fastBank ch k s) := by
  unfold State.fastBank
  (repeat' first
    | with_reducible first
        | assumption | (intro _)
    | (extract_lets +onlyGivenNames x; refine KeepsP.cut (a := σ) (x := x) ?_ (fun hx => ?_); (on_goal 1 => subst x); (on_goal 2 => (clear_value x; rename' x => x')))
    | with_reducible first
        | apply fastGranule_keeps | apply KeepsP.foldl | apply KeepsP.snd | apply KeepsP.mk)

theorem loseBank_keeps {σ : State} (ch : ℕ) (b : ℕ) (s : State) (h : Keeps σ s) : Keeps σ (State.loseBank ch b s) := by
  unfold State.loseBank
  (repeat' first
    | with_reducible assumption
    | (extract_lets +onlyGivenNames x; first
      | (refine Keeps.cut (a := σ) (x := x) ?_ (fun hx => ?_); (on_goal 1 => subst x); (on_goal 2 => (clear_value x; rename' x => x')))
      | (clear_value x; rename' x => x'))
    | with_reducible first
        | apply modChan_keeps | apply zeroCells_keeps | apply log_keeps | apply Keeps.ite)

theorem checkBank_keeps {σ : State} (l : List BankCheck) (canary : Bool) (ch : ℕ) (b : ℕ) (s : State) (h : Keeps σ s) : Keeps σ (State.checkBank l canary ch b s) := by
  unfold State.checkBank
  (repeat' first
    | with_reducible assumption
    | (extract_lets +onlyGivenNames x; first
      | (refine KeepsP.cut (a := σ) (x := x) ?_ (fun hx => ?_); (on_goal 1 => subst x); (on_goal 2 => (clear_value x; rename' x => x')))
      | (clear_value x; rename' x => x'))
    | with_reducible first
        | apply fastBank_keeps | apply loseBank_keeps | apply Keeps.ite | apply KeepsP.snd)

theorem checkBanks_keeps {σ : State} (l : List BankCheck) (canary : Bool) (f : ℕ → Bool) (ch : ℕ) (s : State) (h : Keeps σ s) : Keeps σ (State.checkBanks l canary f ch s) := by
  unfold State.checkBanks
  (repeat' with_reducible first
      | assumption | (intro _) | apply checkBank_keeps | apply Keeps.foldl)

theorem stopAll_keeps {σ : State} (s : State) (h : Keeps σ s) : Keeps σ (State.stopAll s) := by
  unfold State.stopAll
  (repeat' first
    | with_reducible first
        | assumption | (intro _) | apply stopStarting_keeps | apply requestStop_keeps | apply Keeps.foldl
    | split)

theorem raiseVdd_keeps {σ : State} (s : State) (h : Keeps σ s) : Keeps σ (State.raiseVdd s) := by
  unfold State.raiseVdd
  (repeat' with_reducible first
      | assumption | apply startAvs_keeps | apply Keeps.ite)

theorem beginPower_keeps {σ : State} (c : PwrChange) (s : State) (h : Keeps σ s) : Keeps σ (State.beginPower c s) := by
  unfold State.beginPower
  (repeat' first
    | exact fun _ => rfl
    | with_reducible assumption
    | (extract_lets +onlyGivenNames x; refine Keeps.cut (a := σ) (x := x) ?_ (fun hx => ?_); (on_goal 1 => subst x); (on_goal 2 => (clear_value x; rename' x => x')))
    | with_reducible first
        | apply answerPower_keeps | apply writeIgnored_keeps | apply raiseVdd_keeps | apply modPwr_keeps
        | apply clocksOn_keeps | apply stopAll_keeps | apply Keeps.ite)

theorem askPower_keeps {σ : State} (c : PwrChange) (s : State) (h : Keeps σ s) : Keeps σ (State.askPower c s) := by
  unfold State.askPower
  (repeat' first
    | exact fun _ => rfl
    | with_reducible assumption
    | (extract_lets +onlyGivenNames x; first
      | (refine Keeps.cut (a := σ) (x := x) ?_ (fun hx => ?_); (on_goal 1 => subst x); (on_goal 2 => (clear_value x; rename' x => x')))
      | (clear_value x; rename' x => x'))
    | with_reducible first
        | apply beginPower_keeps | apply modPwr_keeps | apply finish_keeps | apply Keeps.ite
    | split)

theorem execPowerRequest_keeps {σ : State} (ctx : ℕ) (s : State) (h : Keeps σ s) : KeepsR σ (execPowerRequest ctx s) := by
  unfold execPowerRequest
  (repeat' first
    | with_reducible first
        | assumption | apply finish_keeps | apply askPower_keeps | apply modDesc_keeps | apply KeepsR.next
    | split)

theorem execPendingRequestBegin_keeps {σ : State} (s : State) (h : Keeps σ s) : KeepsR σ (execPendingRequestBegin s) := by
  unfold execPendingRequestBegin
  (repeat' first
    | exact fun _ => rfl
    | with_reducible first
        | assumption | apply beginPower_keeps | apply modPwr_keeps | apply KeepsR.next
    | split)

theorem wakeEvent_keeps {σ : State} (source : ℕ) (s : State) (h : Keeps σ s) : Keeps σ (State.wakeEvent source s) := by
  unfold State.wakeEvent
  (repeat' first
    | exact fun _ => rfl
    | with_reducible first
        | assumption | apply modPwr_keeps | apply askPower_keeps | apply Keeps.ite
    | split)

theorem execPwrWakeWake_keeps {σ : State} (path : Path) (s : State) (h : Keeps σ s) : KeepsR σ (execPwrWakeWake path s) := by
  unfold execPwrWakeWake
  (repeat' with_reducible first
      | assumption | apply writeIgnored_keeps | apply wakeEvent_keeps | apply KeepsR.ite | apply KeepsR.next)

theorem execWakeTimer_keeps {σ : State} (s : State) (h : Keeps σ s) : KeepsR σ (execWakeTimer s) := by
  unfold execWakeTimer
  (repeat' first
    | exact fun _ => rfl
    | with_reducible assumption
    | (extract_lets +onlyGivenNames x; refine useVal (α := Power) x ?_; subst x)
    | with_reducible first
        | apply wakeEvent_keeps | apply modPwr_keeps | apply KeepsR.ite | apply KeepsR.next)

theorem execPwrWakeSafeExit_keeps {σ : State} (path : Path) (s : State) (h : Keeps σ s) : KeepsR σ (execPwrWakeSafeExit path s) := by
  unfold execPwrWakeSafeExit
  (repeat' with_reducible first
      | assumption | apply writeIgnored_keeps | apply askPower_keeps | apply KeepsR.ite | apply KeepsR.next)

theorem writeCanaries_keeps {σ : State} (s : State) (h : Keeps σ s) : Keeps σ (State.writeCanaries s) := by
  unfold State.writeCanaries
  (repeat' first
    | exact fun _ => rfl
    | with_reducible first
        | assumption | (intro _)
    | (extract_lets +onlyGivenNames x; refine Keeps.cut (a := σ) (x := x) ?_ (fun hx => ?_); (on_goal 1 => subst x); (on_goal 2 => (clear_value x; rename' x => x')))
    | with_reducible first
        | apply modPwr_keeps | apply log_keeps | apply Keeps.foldl
    | split)

theorem emptySections_keeps {σ : State} (s : State) (h : Keeps σ s) : Keeps σ (State.emptySections s) := by
  unfold State.emptySections
  (repeat' first
    | exact fun _ k => k
    | with_reducible first
        | assumption | (intro _)
    | (extract_lets +onlyGivenNames x; first
      | (refine Keeps.cut (a := σ) (x := x) ?_ (fun hx => ?_); (on_goal 1 => subst x); (on_goal 2 => (clear_value x; rename' x => x')))
      | (clear_value x; rename' x => x'))
    | with_reducible apply Keeps.foldl
    | assumption)

theorem startRetention_keeps {σ : State} (c : PwrChange) (s : State) (h : Keeps σ s) : Keeps σ (State.startRetention c s) := by
  unfold State.startRetention
  (repeat' first
    | exact fun _ => rfl
    | exact fun _ k => k
    | with_reducible first
        | assumption | (intro _)
    | (extract_lets +onlyGivenNames x; refine Keeps.cut (a := σ) (x := x) ?_ (fun hx => ?_); (on_goal 1 => subst x); (on_goal 2 => (clear_value x; rename' x => x')))
    | with_reducible first
        | apply emptySections_keeps | apply writeCanaries_keeps | apply lanesOff_keeps | apply regionsSr_keeps
        | apply modPwr_keeps | apply startAvs_keeps | apply abandonCrc_keeps | apply Keeps.foldl)

theorem enterRetention_keeps {σ : State} (c : PwrChange) (s : State) (h : Keeps σ s) : Keeps σ (State.enterRetention c s) := by
  unfold State.enterRetention
  (repeat' first
    | exact fun _ => rfl
    | with_reducible first
        | assumption | (intro _)
    | (extract_lets +onlyGivenNames x; refine Keeps.cut (a := σ) (x := x) ?_ (fun hx => ?_); (on_goal 1 => subst x); (on_goal 2 => (clear_value x; rename' x => x')))
    | with_reducible first
        | apply loseCells_keeps | apply modPwr_keeps | apply answerPower_keeps | apply Keeps.foldl)

theorem execHoopWait_keeps {σ : State} (irqPending : Bool) (s : State) (h : Keeps σ s) : KeepsR σ (execHoopWait irqPending s) := by
  unfold execHoopWait
  (repeat' first
    | exact fun _ => rfl
    | with_reducible first
        | assumption | apply answerPower_keeps | apply modPwr_keeps | apply emptySections_keeps | apply startRetention_keeps
        | apply KeepsR.ite | apply KeepsR.next
    | split)

theorem settleAvs_keeps {σ : State} (s : State) (h : Keeps σ s) : Keeps σ (State.settleAvs s) := by
  unfold State.settleAvs
  (repeat' first
    | exact fun _ => rfl
    | with_reducible assumption
    | (extract_lets +onlyGivenNames x; refine Keeps.cut (a := σ) (x := x) ?_ (fun hx => ?_); (on_goal 1 => subst x); (on_goal 2 => (clear_value x; rename' x => x')))
    | with_reducible first
        | apply modPwr_keeps | apply enterRetention_keeps | apply clocksOn_keeps | apply Keeps.ite
    | split)

theorem avsFailed_keeps {σ : State} (a : Avs) (s : State) (h : Keeps σ s) : Keeps σ (State.avsFailed a s) := by
  unfold State.avsFailed
  (repeat' first
    | exact fun _ => rfl
    | with_reducible assumption
    | (extract_lets +onlyGivenNames x; refine Keeps.cut (a := σ) (x := x) ?_ (fun hx => ?_); (on_goal 1 => subst x); (on_goal 2 => (clear_value x; rename' x => x')))
    | with_reducible first
        | apply modPwr_keeps | apply log_keeps | apply emit_keeps | apply enterRetention_keeps | apply answerPower_keeps
        | apply Keeps.ite
    | split)

theorem execAvsPoll_keeps {σ : State} (answered : Bool) (mv : ℕ) (s : State) (h : Keeps σ s) : KeepsR σ (execAvsPoll answered mv s) := by
  unfold execAvsPoll
  (repeat' first
    | exact fun _ => rfl
    | with_reducible assumption
    | (extract_lets +onlyGivenNames x; refine Keeps.cut (a := σ) (x := x) ?_ (fun hx => ?_); (on_goal 1 => subst x); (on_goal 2 => (clear_value x; rename' x => x')))
    | with_reducible first
        | apply settleAvs_keeps | apply avsFailed_keeps | apply modPwr_keeps | apply KeepsR.ite | apply KeepsR.next
    | split)

theorem execAvsTimeout_keeps {σ : State} (s : State) (h : Keeps σ s) : KeepsR σ (execAvsTimeout s) := by
  unfold execAvsTimeout
  (repeat' first
    | with_reducible first
        | assumption | apply avsFailed_keeps | apply KeepsR.ite | apply KeepsR.next
    | split)

theorem mendEyes_keeps {σ : State} (ch : ℕ) (why : Emergency) (w : MaintIn) (s : State) (h : Keeps σ s) : Keeps σ (State.mendEyes ch why w s) := by
  unfold State.mendEyes
  (repeat' first
    | with_reducible assumption
    | (extract_lets +onlyGivenNames x; refine Keeps.cut (a := σ) (x := x) ?_ (fun hx => ?_); (on_goal 1 => subst x); (on_goal 2 => (clear_value x; rename' x => x')))
    | with_reducible first
        | apply darnCa_keeps | apply sweepEyes_keeps | apply calSteps_keeps | apply beginCal_keeps | apply startCal_keeps
        | apply Keeps.ite
    | split)

theorem afterExit_keeps {σ : State} (ch : ℕ) (badRemap : List ℕ) (s : State) (h : Keeps σ s) : Keeps σ (State.afterExit ch badRemap s) := by
  unfold State.afterExit
  (repeat' first
    | with_reducible assumption
    | (extract_lets +onlyGivenNames x; refine Keeps.cut (a := σ) (x := x) ?_ (fun hx => ?_); (on_goal 1 => subst x); (on_goal 2 => (clear_value x; rename' x => x')))
    | with_reducible first
        | apply reloadRemap_keeps | apply modChan_keeps | apply checkBanks_keeps | apply Keeps.ite
    | split)

theorem execSelfRefreshExit_keeps {σ : State} (ch : ℕ) (clean : ℕ) (w : MaintIn) (badRemap : List ℕ) (s : State) (h : Keeps σ s) : KeepsR σ (execSelfRefreshExit ch clean w badRemap s) := by
  unfold execSelfRefreshExit
  (repeat' first
    | with_reducible assumption
    | (extract_lets +onlyGivenNames x; first
      | (refine Keeps.cut (a := σ) (x := x) ?_ (fun hx => ?_); (on_goal 1 => subst x); (on_goal 2 => (clear_value x; rename' x => x')))
      | (clear_value x; rename' x => x'))
    | with_reducible first
        | apply mendEyes_keeps | apply selftestEnd_keeps | apply exitSr_keeps | apply trainStep_keeps | apply afterExit_keeps
        | apply Keeps.ite | apply KeepsR.ite | apply KeepsR.next
    | split)

theorem wakeChannel_keeps {σ : State} (ch : ℕ) (checks : List BankCheck) (w : MaintIn) (badRemap : List ℕ) (s : State) (h : Keeps σ s) : Keeps σ (State.wakeChannel ch checks w badRemap s) := by
  unfold State.wakeChannel
  (repeat' first
    | with_reducible assumption
    | (extract_lets +onlyGivenNames x; refine Keeps.cut (a := σ) (x := x) ?_ (fun hx => ?_); (on_goal 1 => subst x); (on_goal 2 => (clear_value x; rename' x => x')))
    | with_reducible first
        | apply calSteps_keeps | apply trainStep_keeps | apply exitSr_keeps | apply checkBanks_keeps | apply reloadRemap_keeps
        | apply Keeps.ite)

theorem execWake_keeps {σ : State} (checks : List BankCheck) (w : List (ℕ × MaintIn)) (badRemap : List (ℕ × ℕ)) (s : State)
    (h : Keeps σ s) : KeepsR σ (execWake checks w badRemap s) := by
  unfold execWake
  extract_lets s0 bad res s1 s2
  have h0 : Keeps σ s0 := settleAvs_keeps _ h
  split
  · exact KeepsR.next h0
  · refine KeepsR.ite (KeepsR.next h0) ?_
    extract_lets s3
    have h1 : Keeps σ s1 := dropUnretained_keeps _ h0
    have h2 : Keeps σ s2 := Keeps.foldl h1 fun _ _ k => wakeChannel_keeps _ _ _ _ _ k
    have h3 : Keeps σ s3 := enterService_keeps _ _ _ (lanesDetect_keeps _ h2)
    exact KeepsR.next (answerPower_keeps _ _ _ (modPwr_keeps _ _ (fun _ => rfl) h3))

theorem execSafeExit_keeps {σ : State} (checks : List BankCheck) (s : State) (h : Keeps σ s) : KeepsR σ (execSafeExit checks s) := by
  unfold execSafeExit
  (repeat' first
    | exact fun _ => rfl
    | with_reducible assumption
    | (extract_lets +onlyGivenNames x; refine Keeps.cut (a := σ) (x := x) ?_ (fun hx => ?_); (on_goal 1 => subst x); (on_goal 2 => (clear_value x; rename' x => x')))
    | with_reducible first
        | apply settleAvs_keeps | apply modPwr_keeps | apply lanesDetect_keeps | apply leaveSrAll_keeps | apply KeepsR.ite
        | apply KeepsR.next
    | split)

theorem execRegRdy_keeps {σ : State} (straps : Straps) (inRange : Bool) (s : State) (h : Keeps σ s) : KeepsR σ (execRegRdy straps inRange s) := by
  unfold execRegRdy
  (repeat' first
    | exact fun _ => rfl
    | with_reducible assumption
    | (extract_lets +onlyGivenNames x; first
      | (refine Keeps.cut (a := σ) (x := x) ?_ (fun hx => ?_); (on_goal 1 => subst x); (on_goal 2 => (clear_value x; rename' x => x')))
      | (clear_value x; rename' x => x'))
    | with_reducible first
        | apply modPwr_keeps | apply log_keeps | apply Keeps.ite | apply KeepsR.ite | apply KeepsR.next
    | assumption)

theorem badRecords_keeps {σ : State} (bad : SaveReads) (s : State) (h : Keeps σ s) : Keeps σ (State.badRecords bad s) := by
  unfold State.badRecords
  (repeat' first
    | exact fun _ => rfl
    | with_reducible first
        | assumption | (intro _)
    | (extract_lets +onlyGivenNames x; first
      | (refine Keeps.cut (a := σ) (x := x) ?_ (fun hx => ?_); (on_goal 1 => subst x); (on_goal 2 => (clear_value x; rename' x => x')))
      | (clear_value x; rename' x => x'))
    | with_reducible first
        | apply halt_keeps | apply corruptLog_keeps | apply log_keeps | apply modChan_keeps | apply modPwr_keeps
        | apply Keeps.ite | apply Keeps.foldl
    | assumption)

theorem notKept_keeps {σ : State} (s : State) (h : Keeps σ s) : Keeps σ (State.notKept s) := by
  unfold State.notKept
  (repeat' first
    | exact fun _ k => k
    | with_reducible first
        | assumption | (intro _) | apply Keeps.foldl)

theorem consumed_keeps {σ : State} (cause : ℕ) (kept : Bool) (s : State) (h : Keeps σ s) : Keeps σ (State.consumed cause kept s) := by
  unfold State.consumed
  (repeat' first
    | exact fun _ => rfl
    | with_reducible assumption
    | (extract_lets +onlyGivenNames x; refine Keeps.cut (a := σ) (x := x) ?_ (fun hx => ?_); (on_goal 1 => subst x); (on_goal 2 => (clear_value x; rename' x => x')))
    | with_reducible first
        | apply modPwr_keeps | apply log_keeps | apply notKept_keeps | apply Keeps.ite)

theorem stripRegions_keeps {σ : State} (bad : SaveReads) (s : State) (h : Keeps σ s) : Keeps σ (State.stripRegions bad s) := by
  unfold State.stripRegions
  (repeat' first
    | with_reducible apply inlineJob_keeps
    | assumption)

theorem coldRestore_keeps {σ : State} (bad : SaveReads) (s : State) (h : Keeps σ s) : Keeps σ (State.coldRestore bad s) := by
  unfold State.coldRestore
  refine Keeps.ite h (consumed_keeps _ _ _ (requeue_keeps _ (badRecords_keeps _ _ (modPwr_keeps _ _ (fun _ => rfl) ?_))))
  refine Keeps.foldl (Keeps.foldl (Keeps.foldl ?_ fun _ _ k => modChan_keeps _ _ _ k) fun _ _ k =>
    Keeps.foldl k fun _ _ k => modChan_keeps _ _ _ k) fun _ _ k => modChan_keeps _ _ _ k
  exact ⟨h.1, h.2.1, h.2.2.1, fun k => ⟨(h.2.2.2 k).2, (h.2.2.2 k).2⟩⟩

theorem execOscRdy_keeps {σ : State} (inRange : Bool) (reads : List (ℕ × OtpReads)) (badHeader : Bool) (s : State) (h : Keeps σ s) :
    KeepsR σ (execOscRdy inRange reads badHeader s) := by
  unfold execOscRdy
  refine KeepsR.ite (KeepsR.next h) ?_
  extract_lets src s1 s2
  have h1 : Keeps σ s1 := h
  have h2 : Keeps σ s2 := modPwr_keeps _ _ (fun p => by dsimp only; split <;> rfl) (bootRead_keeps _ (readFuses_keeps _ _ h1))
  exact KeepsR.next (Keeps.ite (log_keeps _ _ _ _ _ _ _ h2) h2)

theorem execMemRdy_keeps {σ : State} (inRange : Bool) (s : State) (h : Keeps σ s) : KeepsR σ (execMemRdy inRange s) := by
  unfold execMemRdy
  (repeat' first
    | exact fun _ => rfl
    | with_reducible first
        | assumption | apply modPwr_keeps | apply regionsSr_keeps | apply KeepsR.ite | apply KeepsR.next)

theorem bringChannel_keeps {σ : State} (sweep : List EyeRes) (free : List (ℕ × ℕ × ℕ)) (badDarns : List ℕ) (ch : ℕ) (s : State) (h : Keeps σ s) : Keeps σ (State.bringChannel sweep free badDarns ch s) := by
  unfold State.bringChannel
  (repeat' first
    | with_reducible assumption
    | (extract_lets +onlyGivenNames x; refine Keeps.cut (a := σ) (x := x) ?_ (fun hx => ?_); (on_goal 1 => subst x); (on_goal 2 => (clear_value x; rename' x => x')))
    | with_reducible first
        | apply bootRepairs_keeps | apply bootDarns_keeps | apply modEyes_keeps | apply darnCa_keeps | apply sweepEyes_keeps)

theorem execLogicRdy_keeps {σ : State} (inRange : Bool) (sweep : List (ℕ × List EyeRes)) (goodRows : List (ℕ × ℕ × ℕ))
    (checks : List BankCheck) (bad : SaveReads) (s : State) (h : Keeps σ s) :
    KeepsR σ (execLogicRdy inRange sweep goodRows checks bad s) := by
  unfold execLogicRdy
  refine KeepsR.ite (KeepsR.next h) ?_
  extract_lets s1 s2 s3 s4
  have h1 : Keeps σ s1 := modPwr_keeps _ _ (fun _ => rfl) (coldRestore_keeps _ _ h)
  have h2 : Keeps σ s2 := checkCandidate_keeps _ (portsDetect_keeps _ (lanesDetect_keeps _ (startAvs_keeps _ _ _ h1)))
  have h3 : Keeps σ s3 := Keeps.foldl h2 fun _ _ k => bringChannel_keeps _ _ _ _ _ k
  exact KeepsR.next (modPwr_keeps _ _ (fun _ => rfl) (leaveSrAll_keeps _ _ _ _ h3))

theorem execSeqRail_keeps {σ : State} (step : ℕ) (s : State) (h : Keeps σ s) : KeepsR σ (execSeqRail step s) := by
  unfold execSeqRail
  (repeat' with_reducible first
      | assumption | apply log_keeps | apply KeepsR.ite | apply KeepsR.next)

theorem execSeqOrder_keeps {σ : State} (step : ℕ) (s : State) (h : Keeps σ s) : KeepsR σ (execSeqOrder step s) := by
  unfold execSeqOrder
  (repeat' with_reducible first
      | assumption | apply log_keeps | apply KeepsR.ite | apply KeepsR.next)

theorem execBringUpComplete_keeps {σ : State} (s : State) (h : Keeps σ s) : KeepsR σ (execBringUpComplete s) := by
  unfold execBringUpComplete
  (repeat' first
    | exact fun _ => rfl
    | with_reducible assumption
    | (extract_lets +onlyGivenNames x; first
      | (refine Keeps.cut (a := σ) (x := x) ?_ (fun hx => ?_); (on_goal 1 => subst x); (on_goal 2 => (clear_value x; rename' x => x')))
      | (clear_value x; rename' x => x'))
    | with_reducible first
        | apply settleAvs_keeps | apply modPwr_keeps | apply enterService_keeps | apply purge_keeps | apply answerPower_keeps
        | apply KeepsR.ite | apply KeepsR.next)

theorem shedLoad_keeps {σ : State} (s : State) (h : Keeps σ s) : Keeps σ (State.shedLoad s) := by
  unfold State.shedLoad
  (repeat' first
    | with_reducible assumption
    | (extract_lets +onlyGivenNames x; first
      | (refine Keeps.cut (a := σ) (x := x) ?_ (fun hx => ?_); (on_goal 1 => subst x); (on_goal 2 => (clear_value x; rename' x => x')))
      | (refine useVal (α := Power) x ?_; subst x)
      | (clear_value x; rename' x => x'))
    | with_reducible first
        | apply dropUnretained_keeps | apply abandonCrc_keeps | apply stopBurn_keeps | apply requeue_keeps
        | apply cutAll_keeps | apply preempt_keeps | apply lanesOff_keeps | apply regionsSr_keeps | apply Keeps.ite
    | assumption)

theorem execSaveTrigger_keeps {σ : State} (cause : SaveCause) (s : State) (h : Keeps σ s) : KeepsR σ (execSaveTrigger cause s) := by
  unfold execSaveTrigger
  refine KeepsR.ite (KeepsR.next h) ?_
  extract_lets early was t u im
  have ht : Keeps σ t := shedLoad_keeps _ h
  have hu : Keeps σ u := Keeps.ite (loseAll_keeps _ ht) ht
  refine KeepsR.next ⟨hu.1, hu.2.1, hu.2.2.1, fun k => ⟨(hu.2.2.2 k).1, ?_⟩⟩
  unfold State.modPwr
  dsimp only
  split
  · exact (hu.2.2.2 k).2
  · exact (hu.2.2.2 k).1

theorem execSaveCommit_keeps {σ : State} (s : State) (h : Keeps σ s) : KeepsR σ (execSaveCommit s) := by
  unfold execSaveCommit
  (repeat' first
    | exact fun _ => rfl
    | with_reducible first
        | assumption | apply modPwr_keeps | apply KeepsR.ite | apply KeepsR.next)

theorem execWarmRestore_keeps {σ : State} (checks : List BankCheck) (s : State) (h : Keeps σ s) : KeepsR σ (execWarmRestore checks s) := by
  unfold execWarmRestore
  (repeat' first
    | exact fun _ => rfl
    | with_reducible assumption
    | (extract_lets +onlyGivenNames x; first
      | (refine Keeps.cut (a := σ) (x := x) ?_ (fun hx => ?_); (on_goal 1 => subst x); (on_goal 2 => (clear_value x; rename' x => x')))
      | (refine useVal (α := Power) x ?_; subst x)
      | (clear_value x; rename' x => x'))
    | with_reducible first
        | apply modPwr_keeps | apply consumed_keeps | apply leaveSrAll_keeps | apply restartHoop_keeps
        | apply warmBlocks_keeps | apply raiseVdd_keeps | apply lanesDetect_keeps | apply KeepsR.ite | apply KeepsR.next)

theorem execVsaveLow_keeps {σ : State} (s : State) (h : Keeps σ s) : KeepsR σ (execVsaveLow s) := by
  unfold execVsaveLow
  (repeat' first
    | exact fun _ => rfl
    | with_reducible first
        | assumption | apply modPwr_keeps | apply KeepsR.ite | apply KeepsR.next)

theorem execDramRailLow_keeps {σ : State} (s : State) (h : Keeps σ s) : KeepsR σ (execDramRailLow s) := by
  unfold execDramRailLow
  (repeat' first
    | exact fun _ => rfl
    | with_reducible first
        | assumption | apply modPwr_keeps | apply loseAll_keeps | apply KeepsR.ite | apply KeepsR.next)

theorem execColdReset_keeps {σ : State} (s : State) (h : Keeps σ s) : KeepsR σ (execColdReset s) := by
  refine KeepsR.next ⟨h.1, h.2.1, fun k => ?_, fun k => ⟨⟨rfl, fun _ he => nomatch he⟩, (h.2.2.2 k).2⟩⟩
  show Memory.wf (if _ then _ else _) = true
  split
  · exact h.2.2.1 k
  · exact wf_loseAll _ (h.2.2.1 k)

theorem testResult_keeps {σ : State} (ok : Bool) (s : State) (h : Keeps σ s) : Keeps σ (State.testResult ok s) := by
  unfold State.testResult
  (repeat' with_reducible first
      | assumption | apply condEnd_keeps | apply log_keeps | apply Keeps.ite)

theorem execChargeTest_keeps {σ : State} (dvMv : ℕ) (esrMohm : ℕ) (vsaveMv : ℕ) (s : State) (h : Keeps σ s) : KeepsR σ (execChargeTest dvMv esrMohm vsaveMv s) := by
  unfold execChargeTest
  (repeat' first
    | exact fun _ => rfl
    | with_reducible assumption
    | (extract_lets +onlyGivenNames x; first
      | (refine Keeps.cut (a := σ) (x := x) ?_ (fun hx => ?_); (on_goal 1 => subst x); (on_goal 2 => (clear_value x; rename' x => x')))
      | (refine useVal (α := Power) x ?_; subst x)
      | (clear_value x; rename' x => x'))
    | with_reducible first
        | apply modPwr_keeps | apply testResult_keeps | apply KeepsR.ite | apply KeepsR.next)

theorem execChargeTimeout_keeps {σ : State} (s : State) (h : Keeps σ s) : KeepsR σ (execChargeTimeout s) := by
  unfold execChargeTimeout
  (repeat' first
    | exact fun _ => rfl
    | with_reducible assumption
    | (extract_lets +onlyGivenNames x; refine useVal (α := Power) x ?_; subst x)
    | with_reducible first
        | apply testResult_keeps | apply modPwr_keeps | apply KeepsR.ite | apply KeepsR.next)

theorem execVsaveArmedLevel_keeps {σ : State} (mv : ℕ) (s : State) (h : Keeps σ s) : KeepsR σ (execVsaveArmedLevel mv s) := by
  unfold execVsaveArmedLevel
  (repeat' first
    | exact fun _ => rfl
    | with_reducible first
        | assumption | apply modPwr_keeps | apply KeepsR.next)

end Sys2Proof.Laws
end

