-- ==== Sys2Proof/Laws/KeepsReset.lean ====
section
/-! SUPPORT. What the operations of Machine/Reset.lean keep. -/

set_option linter.unusedTactic false
set_option linter.unreachableTactic false
set_option linter.unusedVariables false
set_option linter.tactic.unusedName false

namespace Sys2Proof.Laws

open Sys2Proof Sys2Proof.Machine

theorem execDevRstWarm_keeps {σ : State} (s : State) (h : Keeps σ s) : KeepsR σ (execDevRstWarm s) := by
  unfold execDevRstWarm
  (repeat' first
    | with_reducible assumption
    | (extract_lets +onlyGivenNames x; clear_value x; rename' x => x')
    | with_reducible first
        | apply KeepsR.ite | apply KeepsR.next
    | assumption)

theorem warmStart_keeps {σ : State} (s : State) (h : Keeps σ s) : Keeps σ (State.warmStart s) := by
  unfold State.warmStart
  (repeat' first
    | exact fun _ => rfl
    | with_reducible assumption
    | (extract_lets +onlyGivenNames x; refine Keeps.cut (a := σ) (x := x) ?_ (fun hx => ?_); (on_goal 1 => subst x); (on_goal 2 => (clear_value x; rename' x => x')))
    | with_reducible first
        | apply regionsSr_keeps | apply shedClasses_keeps | apply stopBurn_keeps | apply requeue_keeps
        | apply warmBlocks_keeps | apply modPwr_keeps | apply restartHoop_keeps | apply Keeps.ite
    | assumption)

theorem execWarmReset_keeps {σ : State} (src : WarmSrc) (s : State) (h : Keeps σ s) : KeepsR σ (execWarmReset src s) := by
  unfold execWarmReset
  (repeat' first
    | with_reducible assumption
    | (extract_lets +onlyGivenNames x; first
      | (refine Keeps.cut (a := σ) (x := x) ?_ (fun hx => ?_); (on_goal 1 => subst x); (on_goal 2 => (clear_value x; rename' x => x')))
      | (clear_value x; rename' x => x'))
    | with_reducible first
        | apply warmStart_keeps | apply KeepsR.ite | apply KeepsR.next
    | assumption)

theorem readAgain_keeps {σ : State} (s : State) (h : Keeps σ s) : Keeps σ (State.readAgain s) := by
  unfold State.readAgain
  (repeat' first
    | with_reducible first
        | assumption | (intro _)
    | (extract_lets +onlyGivenNames x; clear_value x; rename' x => x')
    | with_reducible first
        | apply hostRead_keeps | apply Keeps.foldl)

theorem badJournal_keeps {σ : State} (l : List (ℕ × ℕ)) (s : State) (h : Keeps σ s) : Keeps σ (State.badJournal l s) := by
  unfold State.badJournal
  (repeat' first
    | with_reducible first
        | assumption | (intro _)
    | (extract_lets +onlyGivenNames x; first
      | (refine Keeps.cut (a := σ) (x := x) ?_ (fun hx => ?_); (on_goal 1 => subst x); (on_goal 2 => (clear_value x; rename' x => x')))
      | (clear_value x; rename' x => x'))
    | with_reducible first
        | apply halt_keeps | apply Keeps.foldl
    | assumption)

theorem recoverHost_keeps {σ : State} (s : State) (h : Keeps σ s) : Keeps σ (State.recoverHost s) := by
  unfold State.recoverHost
  (repeat' first
    | with_reducible assumption
    | (extract_lets +onlyGivenNames x; first
      | (refine Keeps.cut (a := σ) (x := x) ?_ (fun hx => ?_); (on_goal 1 => subst x); (on_goal 2 => (clear_value x; rename' x => x')))
      | (clear_value x; rename' x => x'))
    | with_reducible first
        | apply drainEvery_keeps | apply readAgain_keeps | apply requestPage_keeps | apply rewriteJournal_keeps
    | assumption)

theorem execWarmResetEnd_keeps {σ : State} (s : State) (h : Keeps σ s) : KeepsR σ (execWarmResetEnd s) := by
  unfold execWarmResetEnd
  (repeat' first
    | with_reducible assumption
    | (extract_lets +onlyGivenNames x; first
      | (refine Keeps.cut (a := σ) (x := x) ?_ (fun hx => ?_); (on_goal 1 => subst x); (on_goal 2 => (clear_value x; rename' x => x')))
      | (clear_value x; rename' x => x'))
    | with_reducible first
        | apply recoverHost_keeps | apply leaveSrAll_keeps | apply clocksOn_keeps | apply Keeps.ite | apply KeepsR.ite
        | apply KeepsR.next
    | split
    | assumption)

theorem execHostInterfaceReset_keeps {σ : State} (s : State) (h : Keeps σ s) : KeepsR σ (execHostInterfaceReset s) := by
  unfold execHostInterfaceReset
  (repeat' first
    | with_reducible assumption
    | (extract_lets +onlyGivenNames x; first
      | (refine Keeps.cut (a := σ) (x := x) ?_ (fun hx => ?_); (on_goal 1 => subst x); (on_goal 2 => (clear_value x; rename' x => x')))
      | (clear_value x; rename' x => x'))
    | with_reducible first
        | apply count_keeps | apply log_keeps | apply KeepsR.ite | apply KeepsR.next
    | assumption)

theorem execHostRecovery_keeps {σ : State} (badJournal : List (ℕ × ℕ)) (s : State) (h : Keeps σ s) : KeepsR σ (execHostRecovery badJournal s) := by
  unfold execHostRecovery
  (repeat' with_reducible first
      | assumption | apply recoverHost_keeps | apply badJournal_keeps | apply KeepsR.ite | apply KeepsR.next)

theorem execD3hotEntry_keeps {σ : State} (s : State) (h : Keeps σ s) : KeepsR σ (execD3hotEntry s) := by
  unfold execD3hotEntry
  (repeat' first
    | with_reducible assumption
    | (extract_lets +onlyGivenNames x; clear_value x; rename' x => x')
    | with_reducible first
        | apply KeepsR.ite | apply KeepsR.next
    | assumption)

theorem execDevRstHoop_keeps {σ : State} (s : State) (h : Keeps σ s) : KeepsR σ (execDevRstHoop s) := by
  unfold execDevRstHoop
  (repeat' with_reducible first
      | assumption | apply restartHoop_keeps | apply KeepsR.ite | apply KeepsR.next)

theorem execHoopRestart_keeps {σ : State} (s : State) (h : Keeps σ s) : KeepsR σ (execHoopRestart s) := by
  unfold execHoopRestart
  (repeat' with_reducible first
      | assumption | apply restartHoop_keeps | apply KeepsR.ite | apply KeepsR.next)

theorem execHoopWatchdog_keeps {σ : State} (s : State) (h : Keeps σ s) : KeepsR σ (execHoopWatchdog s) := by
  unfold execHoopWatchdog
  (repeat' first
    | with_reducible assumption
    | (extract_lets +onlyGivenNames x; first
      | (refine Keeps.cut (a := σ) (x := x) ?_ (fun hx => ?_); (on_goal 1 => subst x); (on_goal 2 => (clear_value x; rename' x => x')))
      | (clear_value x; rename' x => x'))
    | with_reducible first
        | apply restartHoop_keeps | apply log_keeps | apply finish_keeps | apply KeepsR.ite | apply KeepsR.next
    | split
    | assumption)

theorem execHoopRunning_keeps {σ : State} (s : State) (h : Keeps σ s) : KeepsR σ (execHoopRunning s) := by
  unfold execHoopRunning
  (repeat' first
    | with_reducible assumption
    | (extract_lets +onlyGivenNames x; first
      | (refine Keeps.cut (a := σ) (x := x) ?_ (fun hx => ?_); (on_goal 1 => subst x); (on_goal 2 => (clear_value x; rename' x => x')))
      | (clear_value x; rename' x => x'))
    | with_reducible first
        | apply finish_keeps | apply KeepsR.ite | apply KeepsR.next
    | split
    | assumption)

theorem execFirmwareLoad_keeps {σ : State} (ctx : ℕ) (image : Fetch) (s : State) (h : Keeps σ s) : KeepsR σ (execFirmwareLoad ctx image s) := by
  unfold execFirmwareLoad
  (repeat' first
    | with_reducible assumption
    | (extract_lets +onlyGivenNames x; first
      | (refine Keeps.cut (a := σ) (x := x) ?_ (fun hx => ?_); (on_goal 1 => subst x); (on_goal 2 => (clear_value x; rename' x => x')))
      | (refine useRes x ?_; subst x; try beta_reduce)
      | (clear_value x; rename' x => x'))
    | with_reducible first
        | apply hostRead_keeps | apply finish_keeps | apply inlineJob_keeps | apply restartHoop_keeps | apply modDesc_keeps
        | apply Keeps.ite | apply KeepsR.ite | apply KeepsR.next
    | split
    | assumption)

theorem execFwFallback_keeps {σ : State} (s : State) (h : Keeps σ s) : KeepsR σ (execFwFallback s) := by
  unfold execFwFallback
  (repeat' first
    | with_reducible assumption
    | (extract_lets +onlyGivenNames x; first
      | (refine Keeps.cut (a := σ) (x := x) ?_ (fun hx => ?_); (on_goal 1 => subst x); (on_goal 2 => (clear_value x; rename' x => x')))
      | (clear_value x; rename' x => x'))
    | with_reducible first
        | apply restartHoop_keeps | apply finish_keeps | apply log_keeps | apply KeepsR.ite | apply KeepsR.next
    | split
    | assumption)

theorem execRefclkLoss_keeps {σ : State} (s : State) (h : Keeps σ s) : KeepsR σ (execRefclkLoss s) := by
  unfold execRefclkLoss
  (repeat' with_reducible first
      | assumption | apply enterSafe_keeps | apply log_keeps | apply KeepsR.next)

theorem execRefclkReturn_keeps {σ : State} (s : State) (h : Keeps σ s) : KeepsR σ (execRefclkReturn s) := by
  unfold execRefclkReturn
  (repeat' with_reducible first
      | assumption | apply condEnd_keeps | apply KeepsR.next)

theorem pinChange_keeps {σ : State} (i : ℕ) (was : Bool) (now : Bool) (s : State) (h : Keeps σ s) : Keeps σ (State.pinChange i was now s) := by
  unfold State.pinChange
  (repeat' with_reducible first
      | assumption | apply log_keeps | apply condEnd_keeps | apply Keeps.ite)

theorem execPinReadback_keeps {σ : State} (alertLow : Bool) (fatalLow : Bool) (s : State) (h : Keeps σ s) : KeepsR σ (execPinReadback alertLow fatalLow s) := by
  unfold execPinReadback
  (repeat' first
    | with_reducible assumption
    | (extract_lets +onlyGivenNames x; first
      | (refine Keeps.cut (a := σ) (x := x) ?_ (fun hx => ?_); (on_goal 1 => subst x); (on_goal 2 => (clear_value x; rename' x => x')))
      | (refine useVal (α := Faults) x ?_; subst x)
      | (clear_value x; rename' x => x'))
    | with_reducible first
        | apply pinChange_keeps | apply KeepsR.next
    | assumption)

theorem modFlt_keeps {σ : State} (f : Faults → Faults) (s : State) (hf : ∀ p, logOk p.log → logOk (f p).log) (h : Keeps σ s) :
    Keeps σ (State.modFlt f s) := flt_keeps _ (hf _) h

theorem ackOne_ok (f : Faults) (i : Nat) (h : logOk f.log) : logOk (f.ackOne i).log := by
  unfold Faults.ackOne
  split
  · rename_i e he
    exact logOk_insert _ (h.2 _ (find?_mem he)) h
  · exact h

theorem clearOne_ok (f : Faults) (i : Nat) (h : logOk f.log) : logOk (f.clearOne i).log := by
  unfold Faults.clearOne
  split
  · exact h
  · split
    · exact h
    · split
      · exact h
      · exact logOk_erase _ h

theorem ackAll_ok (f : Faults) (h : logOk f.log) : logOk f.ackAll.log := logOk_map _ (fun _ => rfl) h

theorem clearAll_ok (f : Faults) (h : logOk f.log) : logOk f.clearAll.log := logOk_filter _ h

theorem execFltAck_keeps {σ : State} (path : Path) (corrupt : List Nat) (s : State) (h : Keeps σ s) :
    KeepsR σ (execFltAck path corrupt s) :=
  KeepsR.ite (KeepsR.next h) (KeepsR.next (modFlt_keeps _ _ (fun _ => ackOne_ok _ _) (corruptLog_keeps _ _ h)))

theorem execFltClear_keeps {σ : State} (path : Path) (corrupt : List Nat) (s : State) (h : Keeps σ s) :
    KeepsR σ (execFltClear path corrupt s) :=
  KeepsR.ite (KeepsR.next h) (KeepsR.next (modFlt_keeps _ _ (fun _ => clearOne_ok _ _) (corruptLog_keeps _ _ h)))

theorem execFltAckAll_keeps {σ : State} (corrupt : List Nat) (s : State) (h : Keeps σ s) : KeepsR σ (execFltAckAll corrupt s) :=
  KeepsR.next (modFlt_keeps _ _ (fun _ => ackAll_ok _) (corruptLog_keeps _ _ h))

theorem execFltClearAll_keeps {σ : State} (corrupt : List Nat) (s : State) (h : Keeps σ s) : KeepsR σ (execFltClearAll corrupt s) :=
  KeepsR.next (modFlt_keeps _ _ (fun _ => clearAll_ok _) (corruptLog_keeps _ _ h))

theorem execClearLost_keeps {σ : State} (s : State) (h : Keeps σ s) : KeepsR σ (execClearLost s) := by
  unfold execClearLost
  (repeat' first
    | exact fun _ k => k
    | with_reducible first
        | assumption | apply modFlt_keeps | apply KeepsR.next)

end Sys2Proof.Laws
end

