-- ==== Sys2Proof/Laws/KeepsLanes.lean ====
section
/-! SUPPORT. What the operations of Machine/Lanes.lean keep. -/

set_option linter.unusedTactic false
set_option linter.unreachableTactic false
set_option linter.unusedVariables false
set_option linter.tactic.unusedName false

namespace Sys2Proof.Laws

open Sys2Proof Sys2Proof.Machine

theorem sendComma_keeps {σ : State} (kind : ℕ) (g : ℕ) (l : ℕ) (idx : ℕ) (s2 : ℕ) (s3 : ℕ) (s : State) (h : Keeps σ s) : Keeps σ (State.sendComma kind g l idx s2 s3 s) := by
  unfold State.sendComma
  (repeat' first
    | with_reducible assumption
    | (extract_lets +onlyGivenNames x; clear_value x; rename' x => x')
    | with_reducible apply emit_keeps)

theorem modLane_keeps {σ : State} (rx : Bool) (g : ℕ) (l : ℕ) (f : Lane → Lane) (s : State) (h : Keeps σ s) : Keeps σ (State.modLane rx g l f s) := by
  unfold State.modLane
  (repeat' with_reducible first
      | assumption | apply modGroup_keeps)

theorem liveChange_keeps {σ : State} (rx : Bool) (g : ℕ) (was : ℕ) (s : State) (h : Keeps σ s) : Keeps σ (State.liveChange rx g was s) := by
  unfold State.liveChange
  (repeat' first
    | with_reducible assumption
    | (extract_lets +onlyGivenNames x; first
      | (refine Keeps.cut (a := σ) (x := x) ?_ (fun hx => ?_); (on_goal 1 => subst x); (on_goal 2 => (clear_value x; rename' x => x')))
      | (clear_value x; rename' x => x'))
    | with_reducible first
        | apply modPort_keeps | apply notice_keeps | apply log_keeps | apply Keeps.ite)

theorem onGroup_keeps {σ : State} (rx : Bool) (g : ℕ) (f : State → State) (s : State) (hf : ∀ s, Keeps σ s → Keeps σ (f s)) (h : Keeps σ s) : Keeps σ (State.onGroup rx g f s) := by
  unfold State.onGroup
  (repeat' with_reducible first
      | assumption | apply liveChange_keeps | apply hf)

theorem groupTo_keeps {σ : State} (rx : Bool) (g : ℕ) (st : GrpState) (s : State) (h : Keeps σ s) : Keeps σ (State.groupTo rx g st s) := by
  unfold State.groupTo
  (repeat' with_reducible first
      | assumption | apply modGroup_keeps)

theorem failPort_keeps {σ : State} (p : ℕ) (s : State) (h : Keeps σ s) : Keeps σ (State.failPort p s) := by
  unfold State.failPort
  (repeat' with_reducible first
      | assumption | apply log_keeps | apply groupTo_keeps | apply modPort_keeps)

theorem undead_keeps {σ : State} (rx : Bool) (g : ℕ) (l : ℕ) (s : State) (h : Keeps σ s) : Keeps σ (State.undead rx g l s) := by
  unfold State.undead
  (repeat' with_reducible first
      | assumption | apply condEnd_keeps)

theorem execLaneRetrain_keeps {σ : State} (path : Path) (value : Word) (s : State) (h : Keeps σ s) :
    KeepsR σ (execLaneRetrain path value s) := by
  unfold execLaneRetrain
  split
  rename_i rx g z e
  clear e
  extract_lets v t off undead
  have ht : Keeps σ t := modGroup_keeps _ _ _ _ h
  refine KeepsR.ite (KeepsR.next h) (KeepsR.ite (KeepsR.next (writeIgnored_keeps _ h)) ?_)
  refine KeepsR.ite (KeepsR.next (onGroup_keeps _ _ _ _ (fun _ k => modGroup_keeps _ _ _ _ k) ht)) ?_
  refine KeepsR.ite (KeepsR.next (onGroup_keeps _ _ _ _ (fun _ k => ?_) ht)) ?_
  · exact Keeps.foldl (modGroup_keeps _ _ _ _ k) fun _ _ k => undead_keeps _ _ _ _ k
  · exact KeepsR.ite (KeepsR.next (modGroup_keeps _ _ _ _ ht)) (KeepsR.next ht)

theorem dcLanes_keeps {σ : State} (rx : Bool) (g : ℕ) (outcomes : List ℕ) (s : State) (h : Keeps σ s) : Keeps σ (State.dcLanes rx g outcomes s) := by
  unfold State.dcLanes
  (repeat' first
    | with_reducible first
        | assumption | (intro _)
    | (extract_lets +onlyGivenNames x; clear_value x; rename' x => x')
    | with_reducible first
        | apply log_keeps | apply modLane_keeps | apply undead_keeps | apply Keeps.ite | apply Keeps.foldl)

theorem execDcTestDone_keeps {σ : State} (rx : Bool) (group : ℕ) (outcomes : List ℕ) (s : State) (h : Keeps σ s) : KeepsR σ (execDcTestDone rx group outcomes s) := by
  unfold execDcTestDone
  (repeat' first
    | with_reducible assumption
    | (extract_lets +onlyGivenNames x; first
      | (refine Keeps.cut (a := σ) (x := x) ?_ (fun hx => ?_); (on_goal 1 => subst x); (on_goal 2 => (clear_value x; rename' x => x')))
      | (clear_value x; rename' x => x')
      | (subst x; try beta_reduce))
    | with_reducible first
        | apply dcLanes_keeps | apply groupTo_keeps | apply modPort_keeps | apply log_keeps | apply checkCandidate_keeps
        | apply Keeps.ite | apply KeepsR.ite | apply KeepsR.next)

theorem execClockLock_keeps {σ : State} (group : ℕ) (s : State) (h : Keeps σ s) : KeepsR σ (execClockLock group s) := by
  unfold execClockLock
  (repeat' first
    | with_reducible assumption
    | (extract_lets +onlyGivenNames x; refine Keeps.cut (a := σ) (x := x) ?_ (fun hx => ?_); (on_goal 1 => subst x); (on_goal 2 => (clear_value x; rename' x => x')))
    | with_reducible first
        | apply modGroup_keeps | apply modPort_keeps | apply Keeps.ite | apply KeepsR.ite | apply KeepsR.next)

theorem alignExit_keeps {σ : State} (g : ℕ) (s : State) (h : Keeps σ s) : Keeps σ (State.alignExit g s) := by
  unfold State.alignExit
  (repeat' first
    | exact fun _ k => k
    | with_reducible first
        | assumption | (intro _)
    | (extract_lets +onlyGivenNames x; refine Keeps.cut (a := σ) (x := x) ?_ (fun hx => ?_); (on_goal 1 => subst x); (on_goal 2 => (clear_value x; rename' x => x')))
    | with_reducible first
        | apply groupTo_keeps | apply modPort_keeps | apply liveChange_keeps | apply Keeps.ite | apply Keeps.foldl)

theorem miswired_keeps {σ : State} (g : ℕ) (l : ℕ) (s : State) (h : Keeps σ s) : Keeps σ (State.miswired g l s) := by
  unfold State.miswired
  (repeat' with_reducible first
      | assumption | apply modLane_keeps)

theorem alignLane_keeps {σ : State} (g : ℕ) (l : ℕ) (inverted : Bool) (sg : ℕ) (sl : ℕ) (s : State) (h : Keeps σ s) : Keeps σ (State.alignLane g l inverted sg sl s) := by
  unfold State.alignLane
  (repeat' first
    | with_reducible assumption
    | (extract_lets +onlyGivenNames x; first
      | (refine Keeps.cut (a := σ) (x := x) ?_ (fun hx => ?_); (on_goal 1 => subst x); (on_goal 2 => (clear_value x; rename' x => x')))
      | (clear_value x; rename' x => x'))
    | with_reducible first
        | apply log_keeps | apply modLane_keeps | apply miswired_keeps | apply modGroup_keeps | apply Keeps.ite
    | split)

theorem execLaneAlign_keeps {σ : State} (group : ℕ) (lane : ℕ) (inverted : Bool) (sym : RxSymbols) (s : State) (h : Keeps σ s) : KeepsR σ (execLaneAlign group lane inverted sym s) := by
  unfold execLaneAlign
  (repeat' first
    | with_reducible assumption
    | (extract_lets +onlyGivenNames x; first
      | (refine Keeps.cut (a := σ) (x := x) ?_ (fun hx => ?_); (on_goal 1 => subst x); (on_goal 2 => (clear_value x; rename' x => x')))
      | (clear_value x; rename' x => x'))
    | with_reducible first
        | apply modLane_keeps | apply alignLane_keeps | apply alignExit_keeps | apply Keeps.ite | apply KeepsR.ite
        | apply KeepsR.next
    | split)

theorem execAlignTimeout_keeps {σ : State} (group : ℕ) (s : State) (h : Keeps σ s) : KeepsR σ (execAlignTimeout group s) := by
  unfold execAlignTimeout
  (repeat' first
    | exact fun _ k => k
    | with_reducible first
        | assumption | (intro _)
    | (extract_lets +onlyGivenNames x; first
      | (refine Keeps.cut (a := σ) (x := x) ?_ (fun hx => ?_); (on_goal 1 => subst x); (on_goal 2 => (clear_value x; rename' x => x')))
      | (clear_value x; rename' x => x'))
    | with_reducible first
        | apply alignExit_keeps | apply KeepsR.ite | apply Keeps.foldl | apply KeepsR.next
    | split)

theorem confirmTx_keeps {σ : State} (g : ℕ) (s : State) (h : Keeps σ s) : Keeps σ (State.confirmTx g s) := by
  unfold State.confirmTx
  (repeat' first
    | with_reducible assumption
    | (extract_lets +onlyGivenNames x; clear_value x; rename' x => x')
    | with_reducible first
        | apply groupTo_keeps | apply Keeps.ite)

theorem execTrainingBeat_keeps {σ : State} (group : ℕ) (lane : ℕ) (sym : RxSymbols) (s : State) (h : Keeps σ s) : KeepsR σ (execTrainingBeat group lane sym s) := by
  unfold execTrainingBeat
  (repeat' first
    | with_reducible assumption
    | (extract_lets +onlyGivenNames x; first
      | (refine Keeps.cut (a := σ) (x := x) ?_ (fun hx => ?_); (on_goal 1 => subst x); (on_goal 2 => (clear_value x; rename' x => x')))
      | (clear_value x; rename' x => x'))
    | with_reducible first
        | apply modGroup_keeps | apply modLane_keeps | apply confirmTx_keeps | apply groupTo_keeps | apply Keeps.ite
        | apply KeepsR.ite | apply KeepsR.next
    | split)

theorem execHandshakeTimeout_keeps {σ : State} (group : ℕ) (s : State) (h : Keeps σ s) : KeepsR σ (execHandshakeTimeout group s) := by
  unfold execHandshakeTimeout
  (repeat' first
    | exact fun _ k => k
    | with_reducible first
        | assumption | (intro _)
    | (extract_lets +onlyGivenNames x; first
      | (refine Keeps.cut (a := σ) (x := x) ?_ (fun hx => ?_); (on_goal 1 => subst x); (on_goal 2 => (clear_value x; rename' x => x')))
      | (clear_value x; rename' x => x'))
    | with_reducible first
        | apply modGroup_keeps | apply groupTo_keeps | apply Keeps.ite | apply KeepsR.ite | apply Keeps.foldl
        | apply KeepsR.next)

theorem syncDone_keeps {σ : State} (g : ℕ) (s : State) (h : Keeps σ s) : Keeps σ (State.syncDone g s) := by
  unfold State.syncDone
  (repeat' first
    | exact fun _ k => k
    | with_reducible assumption
    | (extract_lets +onlyGivenNames x; clear_value x; rename' x => x')
    | with_reducible first
        | apply onGroup_keeps | apply Keeps.ite)

theorem execMarkerBeat_keeps {σ : State} (group : ℕ) (lane : ℕ) (sym : RxSymbols) (s : State) (h : Keeps σ s) : KeepsR σ (execMarkerBeat group lane sym s) := by
  unfold execMarkerBeat
  (repeat' first
    | exact fun _ k => k
    | with_reducible assumption
    | (extract_lets +onlyGivenNames x; first
      | (refine Keeps.cut (a := σ) (x := x) ?_ (fun hx => ?_); (on_goal 1 => subst x); (on_goal 2 => (clear_value x; rename' x => x')))
      | (clear_value x; rename' x => x'))
    | with_reducible first
        | apply modLane_keeps | apply onGroup_keeps | apply syncDone_keeps | apply KeepsR.ite | apply KeepsR.next
    | split)

theorem portMarkers_keeps {σ : State} (group : ℕ) (s : State) (h : Keeps σ s) : Keeps σ (State.portMarkers group s) := by
  unfold State.portMarkers
  (repeat' first
    | with_reducible first
        | assumption | (intro _)
    | (extract_lets +onlyGivenNames x; clear_value x; rename' x => x')
    | with_reducible first
        | apply sendComma_keeps | apply modGroup_keeps | apply Keeps.ite | apply Keeps.foldl)

theorem execMarkerSend_keeps {σ : State} (group : ℕ) (s : State) (h : Keeps σ s) : KeepsR σ (execMarkerSend group s) := by
  unfold execMarkerSend
  (repeat' first
    | with_reducible first
        | assumption | (intro _)
    | (extract_lets +onlyGivenNames x; first
      | (refine Keeps.cut (a := σ) (x := x) ?_ (fun hx => ?_); (on_goal 1 => subst x); (on_goal 2 => (clear_value x; rename' x => x')))
      | (clear_value x; rename' x => x'))
    | with_reducible first
        | apply portMarkers_keeps | apply onGroup_keeps | apply modGroup_keeps | apply groupTo_keeps | apply sendComma_keeps
        | apply Keeps.ite | apply KeepsR.ite | apply Keeps.foldl | apply KeepsR.next)

theorem sendCtrl_keeps {σ : State} (g : ℕ) (l : ℕ) (idx : ℕ) (w : Word) (s : State) (h : Keeps σ s) : Keeps σ (State.sendCtrl g l idx w s) := by
  unfold State.sendCtrl
  (repeat' with_reducible first
      | assumption | apply emit_keeps)

theorem sendNotice_keeps {σ : State} (g : ℕ) (l : ℕ) (idx : ℕ) (s : State) (h : Keeps σ s) : Keeps σ (State.sendNotice g l idx s) := by
  unfold State.sendNotice
  (repeat' first
    | with_reducible first
        | assumption | apply sendCtrl_keeps | apply modGroup_keeps
    | split)

theorem offBeat_keeps {σ : State} (g : ℕ) (l : ℕ) (idx : ℕ) (due : List TxBeat) (s : State) (h : Keeps σ s) : Keeps σ (State.offBeat g l idx due s) := by
  unfold State.offBeat
  (repeat' first
    | with_reducible first
        | assumption | (intro _)
    | (extract_lets +onlyGivenNames x; first
      | (refine Keeps.cut (a := σ) (x := x) ?_ (fun hx => ?_); (on_goal 1 => subst x); (on_goal 2 => (clear_value x; rename' x => x')))
      | (clear_value x; rename' x => x'))
    | with_reducible first
        | apply count_keeps | apply emit_keeps | apply modLane_keeps | apply sendCtrl_keeps | apply sendComma_keeps
        | apply Keeps.ite | apply Keeps.foldl)

theorem lateBeat_keeps {σ : State} (g : ℕ) (l : ℕ) (b : TxBeat) (s : State) (h : Keeps σ s) : Keeps σ (State.lateBeat g l b s) := by
  unfold State.lateBeat
  (repeat' first
    | with_reducible assumption
    | (extract_lets +onlyGivenNames x; first
      | (refine Keeps.cut (a := σ) (x := x) ?_ (fun hx => ?_); (on_goal 1 => subst x); (on_goal 2 => (clear_value x; rename' x => x')))
      | (clear_value x; rename' x => x'))
    | with_reducible first
        | apply log_keeps | apply sendCtrl_keeps | apply modLane_keeps | apply Keeps.ite)

theorem launchBeat_keeps {σ : State} (g : ℕ) (l : ℕ) (b : TxBeat) (fifoFail : Bool) (s : State) (h : Keeps σ s) : Keeps σ (State.launchBeat g l b fifoFail s) := by
  unfold State.launchBeat
  (repeat' first
    | with_reducible assumption
    | (extract_lets +onlyGivenNames x; first
      | (refine Keeps.cut (a := σ) (x := x) ?_ (fun hx => ?_); (on_goal 1 => subst x); (on_goal 2 => (clear_value x; rename' x => x')))
      | (clear_value x; rename' x => x'))
    | with_reducible first
        | apply modGroup_keeps | apply sendCtrl_keeps | apply log_keeps | apply count_keeps | apply emit_keeps
        | apply Keeps.ite
    | split)

theorem execBeatLaunch_keeps {σ : State} (group : ℕ) (lane : ℕ) (fifoFail : Bool) (s : State) (h : Keeps σ s) : KeepsR σ (execBeatLaunch group lane fifoFail s) := by
  unfold execBeatLaunch
  (repeat' first
    | with_reducible first
        | assumption | (intro _)
    | (extract_lets +onlyGivenNames x; first
      | (refine Keeps.cut (a := σ) (x := x) ?_ (fun hx => ?_); (on_goal 1 => subst x); (on_goal 2 => (clear_value x; rename' x => x')))
      | (clear_value x; rename' x => x'))
    | with_reducible first
        | apply modGroup_keeps | apply offBeat_keeps | apply lateBeat_keeps | apply launchBeat_keeps | apply modLane_keeps
        | apply sendCtrl_keeps | apply sendNotice_keeps | apply KeepsR.ite | apply Keeps.foldl | apply KeepsR.next
    | split)

theorem giveWord_keeps {σ : State} (g : ℕ) (l : ℕ) (idx : ℕ) (w : Option Word) (s : State) (h : Keeps σ s) : KeepsP σ (State.giveWord g l idx w s) := by
  unfold State.giveWord
  (repeat' first
    | with_reducible assumption
    | (extract_lets +onlyGivenNames x; clear_value x; rename' x => x')
    | with_reducible apply modChan_keeps
    | split
    | with_reducible apply KeepsP.mk)

theorem fallSearch_keeps {σ : State} (g : ℕ) (l : ℕ) (s : State) (h : Keeps σ s) : Keeps σ (State.fallSearch g l s) := by
  unfold State.fallSearch
  (repeat' first
    | exact fun _ k => k
    | with_reducible first
        | assumption | apply onGroup_keeps)

theorem countErrored_keeps {σ : State} (g : ℕ) (l : ℕ) (idx : ℕ) (s : State) (h : Keeps σ s) : Keeps σ (State.countErrored g l idx s) := by
  unfold State.countErrored
  (repeat' with_reducible first
      | assumption | apply count_keeps | apply modLane_keeps)

theorem countFixed_keeps {σ : State} (g : ℕ) (l : ℕ) (fixed : Bool) (s : State) (h : Keeps σ s) : Keeps σ (State.countFixed g l fixed s) := by
  unfold State.countFixed
  (repeat' with_reducible first
      | assumption | apply count_keeps | apply modLane_keeps | apply Keeps.ite)

theorem rxMarker_keeps {σ : State} (g : ℕ) (l : ℕ) (idx : ℕ) (k : RxKind) (s : State) (h : Keeps σ s) : Keeps σ (State.rxMarker g l idx k s) := by
  unfold State.rxMarker
  (repeat' first
    | with_reducible assumption
    | (extract_lets +onlyGivenNames x; first
      | (refine Keeps.cut (a := σ) (x := x) ?_ (fun hx => ?_); (on_goal 1 => subst x); (on_goal 2 => (clear_value x; rename' x => x')))
      | (refine useFun x ?_; subst x; try beta_reduce)
      | (clear_value x; rename' x => x'))
    | with_reducible first
        | apply countErrored_keeps | apply fallSearch_keeps | apply modLane_keeps | apply Keeps.ite
    | split)

theorem rxBeat_keeps {σ : State} (g : ℕ) (l : ℕ) (idx : ℕ) (k : RxKind) (lost : Bool) (s : State) (h : Keeps σ s) : Keeps σ (State.rxBeat g l idx k lost s) := by
  unfold State.rxBeat
  (repeat' first
    | with_reducible assumption
    | (extract_lets +onlyGivenNames x; first
      | (refine Keeps.cut (a := σ) (x := x) ?_ (fun hx => ?_); (on_goal 1 => subst x); (on_goal 2 => (clear_value x; rename' x => x')))
      | (refine KeepsP.cut (a := σ) (x := x) ?_ (fun hx => ?_); (on_goal 1 => subst x); (on_goal 2 => (clear_value x; rename' x => x')))
      | (clear_value x; rename' x => x'))
    | with_reducible first
        | apply count_keeps | apply countFixed_keeps | apply giveWord_keeps | apply countErrored_keeps | apply Keeps.ite
        | apply KeepsP.snd
    | split)

theorem rxLead_keeps {σ : State} (g : ℕ) (l : ℕ) (lead : ℤ) (s : State) (h : Keeps σ s) : Keeps σ (State.rxLead g l lead s) := by
  unfold State.rxLead
  (repeat' first
    | with_reducible assumption
    | (extract_lets +onlyGivenNames x; first
      | (refine Keeps.cut (a := σ) (x := x) ?_ (fun hx => ?_); (on_goal 1 => subst x); (on_goal 2 => (clear_value x; rename' x => x')))
      | (clear_value x; rename' x => x'))
    | with_reducible first
        | apply modGroup_keeps | apply log_keeps | apply Keeps.ite)

theorem execReceiveBeat_keeps {σ : State} (group : ℕ) (lane : ℕ) (sym : RxSymbols) (lead : ℤ) (fifoFail : Bool) (s : State) (h : Keeps σ s) : KeepsR σ (execReceiveBeat group lane sym lead fifoFail s) := by
  unfold execReceiveBeat
  (repeat' first
    | with_reducible assumption
    | (extract_lets +onlyGivenNames x; first
      | (refine Keeps.cut (a := σ) (x := x) ?_ (fun hx => ?_); (on_goal 1 => subst x); (on_goal 2 => (clear_value x; rename' x => x')))
      | (clear_value x; rename' x => x'))
    | with_reducible first
        | apply rxLead_keeps | apply modLane_keeps | apply log_keeps | apply rxMarker_keeps | apply rxBeat_keeps
        | apply giveWord_keeps | apply Keeps.ite | apply KeepsR.ite | apply KeepsR.next | apply KeepsP.snd
    | split)

theorem lockLost_keeps {σ : State} (rx : Bool) (g : ℕ) (s : State) (h : Keeps σ s) : Keeps σ (State.lockLost rx g s) := by
  unfold State.lockLost
  (repeat' first
    | exact fun _ k => k
    | with_reducible assumption
    | (extract_lets +onlyGivenNames x; refine Keeps.cut (a := σ) (x := x) ?_ (fun hx => ?_); (on_goal 1 => subst x); (on_goal 2 => (clear_value x; rename' x => x')))
    | with_reducible first
        | apply failPort_keeps | apply onGroup_keeps | apply log_keeps | apply Keeps.ite)

theorem execReceiveLossOfLock_keeps {σ : State} (group : ℕ) (s : State) (h : Keeps σ s) : KeepsR σ (execReceiveLossOfLock group s) := by
  unfold execReceiveLossOfLock
  (repeat' with_reducible first
      | assumption | apply lockLost_keeps | apply KeepsR.ite | apply KeepsR.next)

theorem execTransmitLossOfLock_keeps {σ : State} (group : ℕ) (s : State) (h : Keeps σ s) : KeepsR σ (execTransmitLossOfLock group s) := by
  unfold execTransmitLossOfLock
  (repeat' with_reducible first
      | assumption | apply lockLost_keeps | apply KeepsR.ite | apply KeepsR.next)

theorem execLossOfSignal_keeps {σ : State} (group : ℕ) (lane : ℕ) (s : State) (h : Keeps σ s) : KeepsR σ (execLossOfSignal group lane s) := by
  unfold execLossOfSignal
  (repeat' with_reducible first
      | assumption | apply execReceiveLossOfLock_keeps | apply fallSearch_keeps | apply KeepsR.ite | apply KeepsR.next)

theorem execLossOfSymbolLock_keeps {σ : State} (group : ℕ) (lane : ℕ) (s : State) (h : Keeps σ s) : KeepsR σ (execLossOfSymbolLock group lane s) := by
  unfold execLossOfSymbolLock
  (repeat' first
    | with_reducible assumption
    | (extract_lets +onlyGivenNames x; clear_value x; rename' x => x')
    | with_reducible first
        | apply fallSearch_keeps | apply KeepsR.ite | apply KeepsR.next)

theorem prbsCtl_keeps {σ : State} (path : Path) (value : Word) (s : State) (h : Keeps σ s) : Keeps σ (State.prbsCtl path value s) := by
  unfold State.prbsCtl
  (repeat' first
    | exact fun _ k => k
    | with_reducible assumption
    | (extract_lets +onlyGivenNames x; first
      | (refine Keeps.cut (a := σ) (x := x) ?_ (fun hx => ?_); (on_goal 1 => subst x); (on_goal 2 => (clear_value x; rename' x => x')))
      | (clear_value x; rename' x => x'))
    | with_reducible first
        | apply writeIgnored_keeps | apply modLane_keeps | apply onGroup_keeps | apply Keeps.ite)

theorem execPrbsEnable_keeps {σ : State} (path : Path) (value : Word) (s : State) (h : Keeps σ s) : KeepsR σ (execPrbsEnable path value s) := by
  unfold execPrbsEnable
  (repeat' with_reducible first
      | assumption | apply prbsCtl_keeps | apply KeepsR.next)

theorem execPrbsInject_keeps {σ : State} (path : Path) (value : Word) (s : State) (h : Keeps σ s) : KeepsR σ (execPrbsInject path value s) := by
  unfold execPrbsInject
  (repeat' with_reducible first
      | assumption | apply prbsCtl_keeps | apply KeepsR.next)

theorem execPrbsAutoInject_keeps {σ : State} (group : ℕ) (lane : ℕ) (s : State) (h : Keeps σ s) : KeepsR σ (execPrbsAutoInject group lane s) := by
  unfold execPrbsAutoInject
  (repeat' first
    | with_reducible assumption
    | (extract_lets +onlyGivenNames x; clear_value x; rename' x => x')
    | with_reducible first
        | apply modLane_keeps | apply KeepsR.ite | apply KeepsR.next)

theorem execPrbsSync_keeps {σ : State} (group : ℕ) (lane : ℕ) (bits : List Bool) (s : State) (h : Keeps σ s) : KeepsR σ (execPrbsSync group lane bits s) := by
  unfold execPrbsSync
  (repeat' with_reducible first
      | assumption | apply modLane_keeps | apply KeepsR.ite | apply KeepsR.next)

end Sys2Proof.Laws
end

