-- ==== Sys2Proof/Laws/KeepsTorus.lean ====
section
/-! SUPPORT. What the operations of Machine/Torus.lean keep. -/

set_option linter.unusedTactic false
set_option linter.unreachableTactic false
set_option linter.unusedVariables false
set_option linter.tactic.unusedName false

namespace Sys2Proof.Laws

open Sys2Proof Sys2Proof.Machine

theorem modTor_keeps {σ : State} (f : Torus → Torus) (s : State) (h : Keeps σ s) : Keeps σ (State.modTor f s) := by
  unfold State.modTor
  assumption

theorem linkCtrl_keeps {σ : State} (p : ℕ) (typ : ℕ) (low : ℕ) (s : State) (h : Keeps σ s) : Keeps σ (State.linkCtrl p typ low s) := by
  unfold State.linkCtrl
  (repeat' with_reducible first
      | assumption | apply emit_keeps)

theorem reservedCtrl_keeps {σ : State} (w : BitVec 64) (s : State) (h : Keeps σ s) : Keeps σ (State.reservedCtrl w s) := by
  unfold State.reservedCtrl
  (repeat' with_reducible first
      | assumption | apply count_keeps | apply Keeps.ite)

theorem execIdent_keeps {σ : State} (port : ℕ) (word : BitVec 64) (s : State) (h : Keeps σ s) : KeepsR σ (execIdent port word s) := by
  unfold execIdent
  (repeat' first
    | with_reducible assumption
    | (extract_lets +onlyGivenNames x; first
      | (refine Keeps.cut (a := σ) (x := x) ?_ (fun hx => ?_); (on_goal 1 => subst x); (on_goal 2 => (clear_value x; rename' x => x')))
      | (clear_value x; rename' x => x'))
    | with_reducible first
        | apply reservedCtrl_keeps | apply modPort_keeps | apply condEnd_keeps | apply log_keeps | apply KeepsR.ite
        | apply KeepsR.next)

theorem execPortRetrain_keeps {σ : State} (port : ℕ) (s : State) (h : Keeps σ s) : KeepsR σ (execPortRetrain port s) := by
  unfold execPortRetrain
  (repeat' first
    | with_reducible assumption
    | (extract_lets +onlyGivenNames x; clear_value x; rename' x => x')
    | with_reducible first
        | apply portDetect_keeps | apply KeepsR.ite | apply KeepsR.next)

theorem execFreqCheck_keeps {σ : State} (port : ℕ) (diff : ℕ) (s : State) (h : Keeps σ s) : KeepsR σ (execFreqCheck port diff s) := by
  unfold execFreqCheck
  (repeat' first
    | with_reducible assumption
    | (extract_lets +onlyGivenNames x; first
      | (refine Keeps.cut (a := σ) (x := x) ?_ (fun hx => ?_); (on_goal 1 => subst x); (on_goal 2 => (clear_value x; rename' x => x')))
      | (clear_value x; rename' x => x'))
    | with_reducible first
        | apply modPort_keeps | apply log_keeps | apply condEnd_keeps | apply flushPort_keeps | apply Keeps.ite
        | apply KeepsR.ite | apply KeepsR.next)

theorem sendIdents_keeps {σ : State} (s : State) (h : Keeps σ s) : Keeps σ (State.sendIdents s) := by
  unfold State.sendIdents
  (repeat' first
    | with_reducible first
        | assumption | (intro _)
    | (extract_lets +onlyGivenNames x; clear_value x; rename' x => x')
    | with_reducible first
        | apply linkCtrl_keeps | apply Keeps.ite | apply Keeps.foldl)

theorem flushAll_keeps {σ : State} (p : ℕ) (s : State) (h : Keeps σ s) : Keeps σ (State.flushAll p s) := by
  unfold State.flushAll
  (repeat' first
    | with_reducible assumption
    | (extract_lets +onlyGivenNames x; clear_value x; rename' x => x')
    | with_reducible apply flushPort_keeps)

theorem execLack_keeps {σ : State} (port : ℕ) (lseq : ℕ) (s : State) (h : Keeps σ s) : KeepsR σ (execLack port lseq s) := by
  unfold execLack
  (repeat' first
    | with_reducible assumption
    | (extract_lets +onlyGivenNames x; clear_value x; rename' x => x')
    | with_reducible first
        | apply flushAll_keeps | apply modPort_keeps | apply KeepsR.ite | apply KeepsR.next
    | split)

theorem resendFrom_keeps {σ : State} (p : ℕ) (k : ℕ) (s : State) (h : Keeps σ s) : Keeps σ (State.resendFrom p k s) := by
  unfold State.resendFrom
  (repeat' first
    | with_reducible assumption
    | (extract_lets +onlyGivenNames x; clear_value x; rename' x => x')
    | with_reducible first
        | apply count_keeps | apply emit_keeps | apply linkCtrl_keeps
    | split)

theorem execLnak_keeps {σ : State} (port : ℕ) (lseq : ℕ) (s : State) (h : Keeps σ s) : KeepsR σ (execLnak port lseq s) := by
  unfold execLnak
  (repeat' first
    | with_reducible assumption
    | (extract_lets +onlyGivenNames x; clear_value x; rename' x => x')
    | with_reducible first
        | apply resendFrom_keeps | apply KeepsR.ite | apply KeepsR.next
    | split)

theorem execReplay_keeps {σ : State} (port : ℕ) (lseq : ℕ) (s : State) (h : Keeps σ s) : KeepsR σ (execReplay port lseq s) := by
  unfold execReplay
  (repeat' first
    | with_reducible assumption
    | (extract_lets +onlyGivenNames x; clear_value x; rename' x => x')
    | with_reducible first
        | apply modPort_keeps | apply linkCtrl_keeps | apply Keeps.ite | apply KeepsR.ite | apply KeepsR.next)

theorem execLnakTimeout_keeps {σ : State} (port : ℕ) (s : State) (h : Keeps σ s) : KeepsR σ (execLnakTimeout port s) := by
  unfold execLnakTimeout
  (repeat' first
    | with_reducible assumption
    | (extract_lets +onlyGivenNames x; clear_value x; rename' x => x')
    | with_reducible first
        | apply linkCtrl_keeps | apply modPort_keeps | apply KeepsR.ite | apply KeepsR.next)

theorem execReplayTimeout_keeps {σ : State} (port : ℕ) (s : State) (h : Keeps σ s) : KeepsR σ (execReplayTimeout port s) := by
  unfold execReplayTimeout
  (repeat' first
    | with_reducible assumption
    | (extract_lets +onlyGivenNames x; first
      | (refine Keeps.cut (a := σ) (x := x) ?_ (fun hx => ?_); (on_goal 1 => subst x); (on_goal 2 => (clear_value x; rename' x => x')))
      | (clear_value x; rename' x => x'))
    | with_reducible first
        | apply resendFrom_keeps | apply modPort_keeps | apply failPort_keeps | apply KeepsR.ite | apply KeepsR.next)

theorem execQueueTimeout_keeps {σ : State} (port : ℕ) (s : State) (h : Keeps σ s) : KeepsR σ (execQueueTimeout port s) := by
  unfold execQueueTimeout
  (repeat' first
    | with_reducible assumption
    | (extract_lets +onlyGivenNames x; first
      | (refine Keeps.cut (a := σ) (x := x) ?_ (fun hx => ?_); (on_goal 1 => subst x); (on_goal 2 => (clear_value x; rename' x => x')))
      | (clear_value x; rename' x => x'))
    | with_reducible first
        | apply modPort_keeps | apply flushAll_keeps | apply count_keeps | apply KeepsR.ite | apply KeepsR.next)

theorem takePacket_keeps {σ : State} (pk : PktIn) (s : State) (h : Keeps σ s) : KeepsP σ (State.takePacket pk s) := by
  unfold State.takePacket
  (repeat' first
    | with_reducible assumption
    | (extract_lets +onlyGivenNames x; first
      | (refine Keeps.cut (a := σ) (x := x) ?_ (fun hx => ?_); (on_goal 1 => subst x); (on_goal 2 => (clear_value x; rename' x => x')))
      | (clear_value x; rename' x => x'))
    | with_reducible first
        | apply linkCtrl_keeps | apply modPort_keeps | apply count_keeps | apply KeepsP.ite | apply KeepsP.mk)

theorem arrive_keeps {σ : State} (typ : ℕ) (op : ℕ) (pk : PktIn) (s : State) (h : Keeps σ s) : KeepsP σ (State.arrive typ op pk s) := by
  unfold State.arrive
  (repeat' first
    | with_reducible assumption
    | (extract_lets +onlyGivenNames x; first
      | (refine KeepsP.cut (a := σ) (x := x) ?_ (fun hx => ?_); (on_goal 1 => subst x); (on_goal 2 => (clear_value x; rename' x => x')))
      | (clear_value x; rename' x => x'))
    | with_reducible first
        | apply takePacket_keeps | apply discardPacket_keeps | apply forwardOn_keeps | apply KeepsP.ite | apply KeepsP.snd
    | split
    | with_reducible apply KeepsP.mk)

theorem adopt_keeps {σ : State} (r : ℕ) (s : State) (h : Keeps σ s) : Keeps σ (State.adopt r s) := by
  unfold State.adopt
  (repeat' first
    | with_reducible assumption
    | (extract_lets +onlyGivenNames x; first
      | (refine Keeps.cut (a := σ) (x := x) ?_ (fun hx => ?_); (on_goal 1 => subst x); (on_goal 2 => (clear_value x; rename' x => x')))
      | (clear_value x; rename' x => x'))
    | with_reducible first
        | apply condEnd_keeps | apply modTor_keeps | apply Keeps.ite
    | split)

theorem stepTime_keeps {σ : State} (e : ℤ) (s : State) (h : Keeps σ s) : Keeps σ (State.stepTime e s) := by
  unfold State.stepTime
  (repeat' with_reducible first
      | assumption | apply modTor_keeps)

theorem slewTime_keeps {σ : State} (e : ℤ) (s : State) (h : Keeps σ s) : Keeps σ (State.slewTime e s) := by
  unfold State.slewTime
  (repeat' first
    | with_reducible assumption
    | (extract_lets +onlyGivenNames x; refine Keeps.cut (a := σ) (x := x) ?_ (fun hx => ?_); (on_goal 1 => subst x); (on_goal 2 => (clear_value x; rename' x => x')))
    | with_reducible first
        | apply modTor_keeps | apply log_keeps | apply Keeps.ite)

theorem picotBefore_keeps {σ : State} (p : ℕ) (e : ℤ) (s : State) (h : Keeps σ s) : Keeps σ (State.picotBefore p e s) := by
  unfold State.picotBefore
  (repeat' first
    | with_reducible assumption
    | (extract_lets +onlyGivenNames x; first
      | (refine Keeps.cut (a := σ) (x := x) ?_ (fun hx => ?_); (on_goal 1 => subst x); (on_goal 2 => (clear_value x; rename' x => x')))
      | (clear_value x; rename' x => x'))
    | with_reducible first
        | apply modTor_keeps | apply adopt_keeps | apply stepTime_keeps | apply Keeps.ite)

theorem picotAfter_keeps {σ : State} (p : ℕ) (e : ℤ) (s : State) (h : Keeps σ s) : Keeps σ (State.picotAfter p e s) := by
  unfold State.picotAfter
  (repeat' first
    | with_reducible assumption
    | (extract_lets +onlyGivenNames x; first
      | (refine Keeps.cut (a := σ) (x := x) ?_ (fun hx => ?_); (on_goal 1 => subst x); (on_goal 2 => (clear_value x; rename' x => x')))
      | (clear_value x; rename' x => x'))
    | with_reducible first
        | apply modTor_keeps | apply slewTime_keeps | apply adopt_keeps | apply stepTime_keeps | apply log_keeps
        | apply Keeps.ite)

theorem execPicotA_keeps {σ : State} (port : ℕ) (word : BitVec 64) (arrival : ℕ) (s : State) (h : Keeps σ s) : KeepsR σ (execPicotA port word arrival s) := by
  unfold execPicotA
  (repeat' first
    | with_reducible assumption
    | (extract_lets +onlyGivenNames x; first
      | (refine Keeps.cut (a := σ) (x := x) ?_ (fun hx => ?_); (on_goal 1 => subst x); (on_goal 2 => (clear_value x; rename' x => x')))
      | (clear_value x; rename' x => x'))
    | with_reducible first
        | apply reservedCtrl_keeps | apply modPort_keeps | apply picotAfter_keeps | apply picotBefore_keeps | apply Keeps.ite
        | apply KeepsR.ite | apply KeepsR.next)

theorem execPicotB_keeps {σ : State} (port : ℕ) (word : BitVec 64) (s : State) (h : Keeps σ s) : KeepsR σ (execPicotB port word s) := by
  unfold execPicotB
  (repeat' first
    | with_reducible assumption
    | (extract_lets +onlyGivenNames x; clear_value x; rename' x => x')
    | with_reducible first
        | apply reservedCtrl_keeps | apply modPort_keeps | apply KeepsR.ite | apply KeepsR.next)

theorem settleConflict_keeps {σ : State} (s : State) (h : Keeps σ s) : Keeps σ (State.settleConflict s) := by
  unfold State.settleConflict
  (repeat' first
    | with_reducible first
        | assumption | apply condEnd_keeps | apply modTor_keeps | apply Keeps.ite
    | split)

theorem execPicotSend_keeps {σ : State} (s : State) (h : Keeps σ s) : KeepsR σ (execPicotSend s) := by
  unfold execPicotSend
  (repeat' first
    | with_reducible first
        | assumption | (intro _)
    | (extract_lets +onlyGivenNames x; first
      | (refine Keeps.cut (a := σ) (x := x) ?_ (fun hx => ?_); (on_goal 1 => subst x); (on_goal 2 => (clear_value x; rename' x => x')))
      | (clear_value x; rename' x => x'))
    | with_reducible first
        | apply settleConflict_keeps | apply modTor_keeps | apply linkCtrl_keeps | apply Keeps.ite | apply KeepsR.ite
        | apply Keeps.foldl | apply KeepsR.next)

theorem execDelayReqSend_keeps {σ : State} (port : ℕ) (s : State) (h : Keeps σ s) : KeepsR σ (execDelayReqSend port s) := by
  unfold execDelayReqSend
  (repeat' first
    | with_reducible assumption
    | (extract_lets +onlyGivenNames x; first
      | (refine Keeps.cut (a := σ) (x := x) ?_ (fun hx => ?_); (on_goal 1 => subst x); (on_goal 2 => (clear_value x; rename' x => x')))
      | (clear_value x; rename' x => x'))
    | with_reducible first
        | apply modPort_keeps | apply linkCtrl_keeps | apply KeepsR.ite | apply KeepsR.next)

theorem execDelayReq_keeps {σ : State} (port : ℕ) (id : ℕ) (turn : ℕ) (s : State) (h : Keeps σ s) : KeepsR σ (execDelayReq port id turn s) := by
  unfold execDelayReq
  (repeat' with_reducible first
      | assumption | apply linkCtrl_keeps | apply KeepsR.ite | apply KeepsR.next)

theorem execDelayRsp_keeps {σ : State} (port : ℕ) (id : ℕ) (turn : ℕ) (arrival : ℕ) (s : State) (h : Keeps σ s) : KeepsR σ (execDelayRsp port id turn arrival s) := by
  unfold execDelayRsp
  (repeat' first
    | with_reducible assumption
    | (extract_lets +onlyGivenNames x; clear_value x; rename' x => x')
    | with_reducible first
        | apply modPort_keeps | apply KeepsR.ite | apply KeepsR.next
    | split)

theorem becomeRoot_keeps {σ : State} (s : State) (h : Keeps σ s) : Keeps σ (State.becomeRoot s) := by
  unfold State.becomeRoot
  (repeat' with_reducible first
      | assumption | apply modTor_keeps)

theorem execRootElection_keeps {σ : State} (s : State) (h : Keeps σ s) : KeepsR σ (execRootElection s) := by
  unfold execRootElection
  (repeat' with_reducible first
      | assumption | apply becomeRoot_keeps | apply KeepsR.ite | apply KeepsR.next)

theorem execHoldover_keeps {σ : State} (s : State) (h : Keeps σ s) : KeepsR σ (execHoldover s) := by
  unfold execHoldover
  (repeat' first
    | with_reducible assumption
    | (extract_lets +onlyGivenNames x; clear_value x; rename' x => x')
    | with_reducible first
        | apply log_keeps | apply modTor_keeps | apply KeepsR.ite | apply KeepsR.next)

theorem execHoldoverRoot_keeps {σ : State} (s : State) (h : Keeps σ s) : KeepsR σ (execHoldoverRoot s) := by
  unfold execHoldoverRoot
  (repeat' with_reducible first
      | assumption | apply condEnd_keeps | apply becomeRoot_keeps | apply KeepsR.ite | apply KeepsR.next)

theorem ackFwd_keeps {σ : State} (w0 : ℕ) (tag : ℕ) (reason : ℕ) (s : State) (h : Keeps σ s) : Keeps σ (State.ackFwd w0 tag reason s) := by
  unfold State.ackFwd
  (repeat' with_reducible first
      | assumption | apply sendPacket_keeps)

theorem execFwdRec_keeps {σ : State} (pk : PktIn) (s : State) (h : Keeps σ s) : KeepsR σ (execFwdRec pk s) := by
  unfold execFwdRec
  (repeat' first
    | with_reducible assumption
    | (extract_lets +onlyGivenNames x; first
      | (refine Keeps.cut (a := σ) (x := x) ?_ (fun hx => ?_); (on_goal 1 => subst x); (on_goal 2 => (clear_value x; rename' x => x')))
      | (refine KeepsP.cut (a := σ) (x := x) ?_ (fun hx => ?_); (on_goal 1 => subst x); (on_goal 2 => (clear_value x; rename' x => x')))
      | (clear_value x; rename' x => x'))
    | with_reducible first
        | apply arrive_keeps | apply ackFwd_keeps | apply addressed_keeps | apply KeepsR.ite | apply KeepsR.next
        | apply KeepsP.snd)

theorem fwdRefused_keeps {σ : State} (ch : ℕ) (reason : ℕ) (f : Fwd) (s : State) (h : Keeps σ s) : Keeps σ (State.fwdRefused ch reason f s) := by
  unfold State.fwdRefused
  (repeat' first
    | with_reducible assumption
    | (extract_lets +onlyGivenNames x; refine Keeps.cut (a := σ) (x := x) ?_ (fun hx => ?_); (on_goal 1 => subst x); (on_goal 2 => (clear_value x; rename' x => x')))
    | with_reducible first
        | apply modCap_keeps | apply reject_keeps | apply Keeps.ite)

theorem execFwdAck_keeps {σ : State} (pk : PktIn) (s : State) (h : Keeps σ s) : KeepsR σ (execFwdAck pk s) := by
  unfold execFwdAck
  (repeat' first
    | with_reducible assumption
    | (extract_lets +onlyGivenNames x; first
      | (refine Keeps.cut (a := σ) (x := x) ?_ (fun hx => ?_); (on_goal 1 => subst x); (on_goal 2 => (clear_value x; rename' x => x')))
      | (refine KeepsP.cut (a := σ) (x := x) ?_ (fun hx => ?_); (on_goal 1 => subst x); (on_goal 2 => (clear_value x; rename' x => x')))
      | (clear_value x; rename' x => x'))
    | with_reducible first
        | apply arrive_keeps | apply modCap_keeps | apply fwdRefused_keeps | apply Keeps.ite | apply KeepsR.ite
        | apply KeepsR.next | apply KeepsP.snd
    | split)

theorem execForwardResend_keeps {σ : State} (ch : ℕ) (tag : ℕ) (s : State) (h : Keeps σ s) : KeepsR σ (execForwardResend ch tag s) := by
  unfold execForwardResend
  (repeat' first
    | with_reducible assumption
    | (extract_lets +onlyGivenNames x; refine Keeps.cut (a := σ) (x := x) ?_ (fun hx => ?_); (on_goal 1 => subst x); (on_goal 2 => (clear_value x; rename' x => x')))
    | with_reducible first
        | apply modCap_keeps | apply sendFwd_keeps | apply KeepsR.ite | apply KeepsR.next
    | split)

theorem execForwardLost_keeps {σ : State} (ch : ℕ) (tag : ℕ) (s : State) (h : Keeps σ s) : KeepsR σ (execForwardLost ch tag s) := by
  unfold execForwardLost
  (repeat' first
    | with_reducible assumption
    | (extract_lets +onlyGivenNames x; refine Keeps.cut (a := σ) (x := x) ?_ (fun hx => ?_); (on_goal 1 => subst x); (on_goal 2 => (clear_value x; rename' x => x')))
    | with_reducible first
        | apply modCap_keeps | apply log_keeps | apply inputLoss_keeps | apply KeepsR.ite | apply KeepsR.next
    | split)

theorem handleStart_keeps {σ : State} (a : ℕ) (root : ℕ) (g : ℕ) (ts : ℕ) (ws : List (BitVec 64)) (s : State) (h : Keeps σ s) : Keeps σ (State.handleStart a root g ts ws s) := by
  unfold State.handleStart
  (repeat' first
    | with_reducible assumption
    | (extract_lets +onlyGivenNames x; first
      | (refine Keeps.cut (a := σ) (x := x) ?_ (fun hx => ?_); (on_goal 1 => subst x); (on_goal 2 => (clear_value x; rename' x => x')))
      | (clear_value x; rename' x => x'))
    | with_reducible first
        | apply log_keeps | apply flood_keeps | apply modTor_keeps | apply startSections_keeps | apply Keeps.ite)

theorem execStart_keeps {σ : State} (pk : PktIn) (s : State) (h : Keeps σ s) : KeepsR σ (execStart pk s) := by
  unfold execStart
  (repeat' first
    | with_reducible assumption
    | (extract_lets +onlyGivenNames x; first
      | (refine KeepsP.cut (a := σ) (x := x) ?_ (fun hx => ?_); (on_goal 1 => subst x); (on_goal 2 => (clear_value x; rename' x => x')))
      | (clear_value x; rename' x => x'))
    | with_reducible first
        | apply arrive_keeps | apply handleStart_keeps | apply KeepsR.ite | apply KeepsR.next | apply KeepsP.snd)

theorem writeStart_keeps {σ : State} (v : ℕ) (s : State) (h : Keeps σ s) : Keeps σ (State.writeStart v s) := by
  unfold State.writeStart
  (repeat' first
    | with_reducible assumption
    | (extract_lets +onlyGivenNames x; first
      | (refine Keeps.cut (a := σ) (x := x) ?_ (fun hx => ?_); (on_goal 1 => subst x); (on_goal 2 => (clear_value x; rename' x => x')))
      | (clear_value x; rename' x => x'))
    | with_reducible first
        | apply writeIgnored_keeps | apply modTor_keeps | apply handleStart_keeps | apply Keeps.ite)

theorem execTorStartGo_keeps {σ : State} (value : Word) (s : State) (h : Keeps σ s) : KeepsR σ (execTorStartGo value s) := by
  unfold execTorStartGo
  (repeat' with_reducible first
      | assumption | apply writeStart_keeps | apply KeepsR.next)

theorem proxyRecover_keeps {σ : State} (s : State) (h : Keeps σ s) : Keeps σ (State.proxyRecover s) := by
  unfold State.proxyRecover
  (repeat' with_reducible first
      | assumption | apply recoverHost_keeps | apply Keeps.ite)

theorem bindProxy_keeps {σ : State} (id : ℕ) (s : State) (h : Keeps σ s) : Keeps σ (State.bindProxy id s) := by
  unfold State.bindProxy
  (repeat' with_reducible first
      | assumption | apply modPx_keeps | apply modTor_keeps | apply Keeps.ite)

theorem pxAccept_keeps {σ : State} (pk : PktIn) (s : State) (h : Keeps σ s) : KeepsP σ (State.pxAccept pk s) := by
  unfold State.pxAccept
  (repeat' first
    | with_reducible assumption
    | (extract_lets +onlyGivenNames x; first
      | (refine Keeps.cut (a := σ) (x := x) ?_ (fun hx => ?_); (on_goal 1 => subst x); (on_goal 2 => (clear_value x; rename' x => x')))
      | (clear_value x; rename' x => x')
      | (subst x; try beta_reduce))
    | with_reducible first
        | apply modPx_keeps | apply pxPacket_keeps | apply KeepsP.mk)

theorem pxArrive_keeps {σ : State} (op : ℕ) (pk : PktIn) (s : State) (h : Keeps σ s) : KeepsP σ (State.pxArrive op pk s) := by
  unfold State.pxArrive
  (repeat' first
    | with_reducible assumption
    | (extract_lets +onlyGivenNames x; refine KeepsP.cut (a := σ) (x := x) ?_ (fun hx => ?_); (on_goal 1 => subst x); (on_goal 2 => (clear_value x; rename' x => x')))
    | with_reducible first
        | apply arrive_keeps | apply pxAccept_keeps | apply KeepsP.ite | apply KeepsP.snd)

theorem execProxyOpen_keeps {σ : State} (pk : PktIn) (s : State) (h : Keeps σ s) : KeepsR σ (execProxyOpen pk s) := by
  unfold execProxyOpen
  (repeat' first
    | with_reducible assumption
    | (extract_lets +onlyGivenNames x; first
      | (refine Keeps.cut (a := σ) (x := x) ?_ (fun hx => ?_); (on_goal 1 => subst x); (on_goal 2 => (clear_value x; rename' x => x')))
      | (refine KeepsP.cut (a := σ) (x := x) ?_ (fun hx => ?_); (on_goal 1 => subst x); (on_goal 2 => (clear_value x; rename' x => x')))
      | (clear_value x; rename' x => x'))
    | with_reducible first
        | apply arrive_keeps | apply bindProxy_keeps | apply modPx_keeps | apply proxyRecover_keeps | apply Keeps.ite
        | apply KeepsR.ite | apply KeepsR.next | apply KeepsP.snd)

theorem pxResend_keeps {σ : State} (id : ℕ) (a : ℕ) (b : ℕ) (s : State) (h : Keeps σ s) : Keeps σ (State.pxResend id a b s) := by
  unfold State.pxResend
  (repeat' with_reducible first
      | assumption | (intro _) | apply pxPacket_keeps | apply Keeps.foldl)

theorem execPack_keeps {σ : State} (pk : PktIn) (s : State) (h : Keeps σ s) : KeepsR σ (execPack pk s) := by
  unfold execPack
  (repeat' first
    | with_reducible assumption
    | (extract_lets +onlyGivenNames x; first
      | (refine Keeps.cut (a := σ) (x := x) ?_ (fun hx => ?_); (on_goal 1 => subst x); (on_goal 2 => (clear_value x; rename' x => x')))
      | (refine KeepsP.cut (a := σ) (x := x) ?_ (fun hx => ?_); (on_goal 1 => subst x); (on_goal 2 => (clear_value x; rename' x => x')))
      | (clear_value x; rename' x => x'))
    | with_reducible first
        | apply arrive_keeps | apply modPx_keeps | apply pxResend_keeps | apply KeepsR.ite | apply KeepsR.next
        | apply KeepsP.snd)

theorem execProxyResend_keeps {σ : State} (s : State) (h : Keeps σ s) : KeepsR σ (execProxyResend s) := by
  unfold execProxyResend
  (repeat' first
    | with_reducible first
        | assumption | (intro _)
    | (extract_lets +onlyGivenNames x; clear_value x; rename' x => x')
    | with_reducible first
        | apply pxResend_keeps | apply modPx_keeps | apply Keeps.ite | apply Keeps.foldl | apply KeepsR.next)

theorem execProxyLost_keeps {σ : State} (s : State) (h : Keeps σ s) : KeepsR σ (execProxyLost s) := by
  unfold execProxyLost
  (repeat' first
    | with_reducible assumption
    | (extract_lets +onlyGivenNames x; clear_value x; rename' x => x')
    | with_reducible first
        | apply log_keeps | apply KeepsR.ite | apply KeepsR.next
    | split
    | assumption)

theorem execProxyBindingTimeout_keeps {σ : State} (s : State) (h : Keeps σ s) : KeepsR σ (execProxyBindingTimeout s) := by
  unfold execProxyBindingTimeout
  (repeat' first
    | with_reducible first
        | assumption | apply modTor_keeps | apply KeepsR.ite | apply KeepsR.next
    | split)

theorem execRegRsp_keeps {σ : State} (pk : PktIn) (s : State) (h : Keeps σ s) : KeepsR σ (execRegRsp pk s) := by
  unfold execRegRsp
  (repeat' first
    | with_reducible assumption
    | (extract_lets +onlyGivenNames x; first
      | (refine KeepsP.cut (a := σ) (x := x) ?_ (fun hx => ?_); (on_goal 1 => subst x); (on_goal 2 => (clear_value x; rename' x => x')))
      | (clear_value x; rename' x => x'))
    | with_reducible first
        | apply pxArrive_keeps | apply modTor_keeps | apply KeepsR.ite | apply KeepsR.next | apply KeepsP.snd)

theorem execMemRd_keeps {σ : State} (pk : PktIn) (data : Fetch) (s : State) (h : Keeps σ s) : KeepsR σ (execMemRd pk data s) := by
  unfold execMemRd
  (repeat' first
    | with_reducible first
        | assumption | (intro _)
    | (extract_lets +onlyGivenNames x; first
      | (refine Keeps.cut (a := σ) (x := x) ?_ (fun hx => ?_); (on_goal 1 => subst x); (on_goal 2 => (clear_value x; rename' x => x')))
      | (refine KeepsP.cut (a := σ) (x := x) ?_ (fun hx => ?_); (on_goal 1 => subst x); (on_goal 2 => (clear_value x; rename' x => x')))
      | (clear_value x; rename' x => x'))
    | with_reducible first
        | apply pxArrive_keeps | apply emit_keeps | apply pxSend_keeps | apply Keeps.ite | apply KeepsR.ite
        | apply Keeps.foldl | apply KeepsR.next | apply KeepsP.snd)

theorem execMemWr_keeps {σ : State} (pk : PktIn) (s : State) (h : Keeps σ s) : KeepsR σ (execMemWr pk s) := by
  unfold execMemWr
  (repeat' first
    | with_reducible assumption
    | (extract_lets +onlyGivenNames x; first
      | (refine KeepsP.cut (a := σ) (x := x) ?_ (fun hx => ?_); (on_goal 1 => subst x); (on_goal 2 => (clear_value x; rename' x => x')))
      | (clear_value x; rename' x => x'))
    | with_reducible first
        | apply pxArrive_keeps | apply count_keeps | apply emit_keeps | apply Keeps.ite | apply KeepsR.ite | apply KeepsR.next
        | apply KeepsP.snd)

theorem execMemData_keeps {σ : State} (pk : PktIn) (s : State) (h : Keeps σ s) : KeepsR σ (execMemData pk s) := by
  unfold execMemData
  (repeat' first
    | with_reducible assumption
    | (extract_lets +onlyGivenNames x; refine KeepsP.cut (a := σ) (x := x) ?_ (fun hx => ?_); (on_goal 1 => subst x); (on_goal 2 => (clear_value x; rename' x => x')))
    | with_reducible first
        | apply pxArrive_keeps | apply count_keeps | apply KeepsR.ite | apply KeepsR.next | apply KeepsP.snd)

theorem openChannel_keeps {σ : State} (id : ℕ) (s : State) (h : Keeps σ s) : Keeps σ (State.openChannel id s) := by
  unfold State.openChannel
  (repeat' with_reducible first
      | assumption | apply pxPacket_keeps | apply modPx_keeps | apply Keeps.ite)

theorem pxRequest_keeps {σ : State} (rd : Bool) (s : State) (h : Keeps σ s) : Keeps σ (State.pxRequest rd s) := by
  unfold State.pxRequest
  (repeat' first
    | with_reducible assumption
    | (extract_lets +onlyGivenNames x; first
      | (refine Keeps.cut (a := σ) (x := x) ?_ (fun hx => ?_); (on_goal 1 => subst x); (on_goal 2 => (clear_value x; rename' x => x')))
      | (clear_value x; rename' x => x'))
    | with_reducible first
        | apply openChannel_keeps | apply modTor_keeps | apply pxSend_keeps | apply Keeps.ite)

theorem pxRelease_keeps {σ : State} (s : State) (h : Keeps σ s) : Keeps σ (State.pxRelease s) := by
  unfold State.pxRelease
  (repeat' first
    | with_reducible assumption
    | (extract_lets +onlyGivenNames x; first
      | (refine Keeps.cut (a := σ) (x := x) ?_ (fun hx => ?_); (on_goal 1 => subst x); (on_goal 2 => (clear_value x; rename' x => x')))
      | (clear_value x; rename' x => x'))
    | with_reducible first
        | apply pxSend_keeps | apply openChannel_keeps | apply modPx_keeps)

theorem writePxyCmd_keeps {σ : State} (v : ℕ) (s : State) (h : Keeps σ s) : Keeps σ (State.writePxyCmd v s) := by
  unfold State.writePxyCmd
  (repeat' first
    | with_reducible assumption
    | (extract_lets +onlyGivenNames x; first
      | (refine Keeps.cut (a := σ) (x := x) ?_ (fun hx => ?_); (on_goal 1 => subst x); (on_goal 2 => (clear_value x; rename' x => x')))
      | (clear_value x; rename' x => x'))
    | with_reducible first
        | apply writeIgnored_keeps | apply pxRequest_keeps | apply pxRelease_keeps | apply Keeps.ite)

theorem execGoRd_keeps {σ : State} (value : Word) (s : State) (h : Keeps σ s) : KeepsR σ (execGoRd value s) := by
  unfold execGoRd
  (repeat' with_reducible first
      | assumption | apply writePxyCmd_keeps | apply KeepsR.next)

theorem execGoWr_keeps {σ : State} (value : Word) (s : State) (h : Keeps σ s) : KeepsR σ (execGoWr value s) := by
  unfold execGoWr
  (repeat' with_reducible first
      | assumption | apply writePxyCmd_keeps | apply KeepsR.next)

theorem execRelease_keeps {σ : State} (value : Word) (s : State) (h : Keeps σ s) : KeepsR σ (execRelease value s) := by
  unfold execRelease
  (repeat' with_reducible first
      | assumption | apply writePxyCmd_keeps | apply KeepsR.next)

theorem execPxyTimeout_keeps {σ : State} (s : State) (h : Keeps σ s) : KeepsR σ (execPxyTimeout s) := by
  unfold execPxyTimeout
  (repeat' with_reducible first
      | assumption | apply modPx_keeps | apply modTor_keeps | apply KeepsR.ite | apply KeepsR.next)

theorem readTimeLo_keeps {σ : State} (path : Path) (s : State) (h : Keeps σ s) : KeepsP σ (State.readTimeLo path s) := by
  unfold State.readTimeLo
  (repeat' with_reducible first
      | assumption | apply modTor_keeps | apply KeepsP.mk)

theorem readTimeHi_keeps {σ : State} (path : Path) (s : State) (h : Keeps σ s) : KeepsP σ (State.readTimeHi path s) := by
  unfold State.readTimeHi
  (repeat' first
    | with_reducible first
        | assumption | apply modTor_keeps
    | split
    | with_reducible apply KeepsP.mk)

theorem execTimeLoRead_keeps {σ : State} (path : Path) (low : ℕ) (width : ℕ) (s : State) (h : Keeps σ s) : KeepsR σ (execTimeLoRead path low width s) := by
  unfold execTimeLoRead
  (repeat' first
    | with_reducible assumption
    | (extract_lets +onlyGivenNames x; refine KeepsP.cut (a := σ) (x := x) ?_ (fun hx => ?_); (on_goal 1 => subst x); (on_goal 2 => (clear_value x; rename' x => x')))
    | with_reducible first
        | apply badRead_keeps | apply readTimeLo_keeps | apply emit_keeps | apply KeepsR.ite | apply KeepsR.next
        | apply KeepsP.snd)

theorem execVddlLow_keeps {σ : State} (s : State) (h : Keeps σ s) : KeepsR σ (execVddlLow s) := by
  unfold execVddlLow
  (repeat' first
    | exact fun _ => rfl
    | with_reducible first
        | assumption | (intro _)
    | (extract_lets +onlyGivenNames x; first
      | (refine Keeps.cut (a := σ) (x := x) ?_ (fun hx => ?_); (on_goal 1 => subst x); (on_goal 2 => (clear_value x; rename' x => x')))
      | (clear_value x; rename' x => x'))
    | with_reducible first
        | apply modTor_keeps | apply modPwr_keeps | apply lanesOff_keeps | apply condEnd_keeps | apply Keeps.foldl
        | apply KeepsR.next
    | assumption)

theorem execVddlReady_keeps {σ : State} (s : State) (h : Keeps σ s) : KeepsR σ (execVddlReady s) := by
  unfold execVddlReady
  (repeat' first
    | exact fun _ => rfl
    | with_reducible assumption
    | (extract_lets +onlyGivenNames x; refine Keeps.cut (a := σ) (x := x) ?_ (fun hx => ?_); (on_goal 1 => subst x); (on_goal 2 => (clear_value x; rename' x => x')))
    | with_reducible first
        | apply modPwr_keeps | apply lanesDetect_keeps | apply checkCandidate_keeps | apply portsDetect_keeps
        | apply Keeps.ite | apply KeepsR.ite | apply KeepsR.next)

end Sys2Proof.Laws
end

