-- ==== Sys2Proof/Laws/KeepsCounters.lean ====
section
/-! SUPPORT. What the operations of Machine/Counters.lean keep. -/

set_option linter.unusedTactic false
set_option linter.unreachableTactic false
set_option linter.unusedVariables false
set_option linter.tactic.unusedName false

namespace Sys2Proof.Laws

open Sys2Proof Sys2Proof.Machine

theorem modCounter_keeps {σ : State} (n : ℕ) (f : Counter → Counter) (s : State) (h : Keeps σ s) : Keeps σ (State.modCounter n f s) := by
  unfold State.modCounter
  (repeat' first
    | (extract_lets +onlyGivenNames x; clear_value x; rename' x => x')
    | assumption)

theorem writeCntCfg_keeps {σ : State} (n : ℕ) (v : ℕ) (s : State) (h : Keeps σ s) : Keeps σ (State.writeCntCfg n v s) := by
  unfold State.writeCntCfg
  (repeat' with_reducible first
      | assumption | apply writeIgnored_keeps | apply modCounter_keeps | apply Keeps.ite)

theorem writeCntWindow_keeps {σ : State} (v : ℕ) (s : State) (h : Keeps σ s) : Keeps σ (State.writeCntWindow v s) := by
  unfold State.writeCntWindow
  (repeat' first
    | with_reducible assumption
    | (extract_lets +onlyGivenNames x; clear_value x; rename' x => x')
    | with_reducible first
        | apply writeIgnored_keeps | apply Keeps.ite
    | assumption)

theorem execCntCfgWrite_keeps {σ : State} (n : ℕ) (value : Word) (s : State) (h : Keeps σ s) : KeepsR σ (execCntCfgWrite n value s) := by
  unfold execCntCfgWrite
  (repeat' with_reducible first
      | assumption | apply writeCntCfg_keeps | apply KeepsR.next)

theorem execCntWindowWrite_keeps {σ : State} (value : Word) (s : State) (h : Keeps σ s) : KeepsR σ (execCntWindowWrite value s) := by
  unfold execCntWindowWrite
  (repeat' with_reducible first
      | assumption | apply writeCntWindow_keeps | apply KeepsR.next)

theorem execCounterWindow_keeps {σ : State} (s : State) (h : Keeps σ s) : KeepsR σ (execCounterWindow s) := by
  unfold execCounterWindow
  (repeat' first
    | with_reducible assumption
    | (extract_lets +onlyGivenNames x; clear_value x; rename' x => x')
    | with_reducible first
        | apply KeepsR.ite | apply KeepsR.next
    | assumption)

theorem closeLatch_keeps {σ : State} (p : Path) (n : ℕ) (s : State) (h : Keeps σ s) : Keeps σ (State.closeLatch p n s) := by
  unfold State.closeLatch
  (repeat' first
    | with_reducible assumption
    | (extract_lets +onlyGivenNames x; first
      | (refine Keeps.cut (a := σ) (x := x) ?_ (fun hx => ?_); (on_goal 1 => subst x); (on_goal 2 => (clear_value x; rename' x => x')))
      | (clear_value x; rename' x => x'))
    | with_reducible first
        | apply modCounter_keeps | apply logOverflows_keeps | apply Keeps.ite
    | assumption)

theorem readCntLo_keeps {σ : State} (p : Path) (n : ℕ) (s : State) (h : Keeps σ s) : KeepsP σ (State.readCntLo p n s) := by
  unfold State.readCntLo
  (repeat' first
    | with_reducible assumption
    | (extract_lets +onlyGivenNames x; first
      | (refine Keeps.cut (a := σ) (x := x) ?_ (fun hx => ?_); (on_goal 1 => subst x); (on_goal 2 => (clear_value x; rename' x => x')))
      | (clear_value x; rename' x => x'))
    | with_reducible first
        | apply closeLatch_keeps | apply modCounter_keeps | apply Keeps.ite | apply KeepsP.mk)

theorem expireLatch_keeps {σ : State} (p : Path) (n : ℕ) (s : State) (h : Keeps σ s) : Keeps σ (State.expireLatch p n s) := by
  unfold State.expireLatch
  (repeat' first
    | with_reducible first
        | assumption | apply closeLatch_keeps | apply Keeps.ite
    | split)

theorem readCntHi_keeps {σ : State} (p : Path) (n : ℕ) (s : State) (h : Keeps σ s) : KeepsP σ (State.readCntHi p n s) := by
  unfold State.readCntHi
  (repeat' first
    | with_reducible assumption
    | (extract_lets +onlyGivenNames x; refine Keeps.cut (a := σ) (x := x) ?_ (fun hx => ?_); (on_goal 1 => subst x); (on_goal 2 => (clear_value x; rename' x => x')))
    | with_reducible first
        | apply expireLatch_keeps | apply closeLatch_keeps
    | split
    | with_reducible apply KeepsP.mk)

theorem execCounterLoRead_keeps {σ : State} (path : Path) (n : ℕ) (low : ℕ) (width : ℕ) (s : State) (h : Keeps σ s) : KeepsR σ (execCounterLoRead path n low width s) := by
  unfold execCounterLoRead
  (repeat' first
    | with_reducible assumption
    | (extract_lets +onlyGivenNames x; refine KeepsP.cut (a := σ) (x := x) ?_ (fun hx => ?_); (on_goal 1 => subst x); (on_goal 2 => (clear_value x; rename' x => x')))
    | with_reducible first
        | apply badRead_keeps | apply emit_keeps | apply readCntLo_keeps | apply Keeps.ite | apply KeepsR.ite
        | apply KeepsR.next | apply KeepsP.snd)

theorem execCounterHiRead_keeps {σ : State} (path : Path) (n : ℕ) (low : ℕ) (width : ℕ) (s : State) (h : Keeps σ s) : KeepsR σ (execCounterHiRead path n low width s) := by
  unfold execCounterHiRead
  (repeat' first
    | with_reducible assumption
    | (extract_lets +onlyGivenNames x; refine KeepsP.cut (a := σ) (x := x) ?_ (fun hx => ?_); (on_goal 1 => subst x); (on_goal 2 => (clear_value x; rename' x => x')))
    | with_reducible first
        | apply badRead_keeps | apply emit_keeps | apply readCntHi_keeps | apply Keeps.ite | apply KeepsR.ite
        | apply KeepsR.next | apply KeepsP.snd)

theorem execLatchTimeout_keeps {σ : State} (path : Path) (n : ℕ) (s : State) (h : Keeps σ s) : KeepsR σ (execLatchTimeout path n s) := by
  unfold execLatchTimeout
  (repeat' with_reducible first
      | assumption | apply expireLatch_keeps | apply KeepsR.next)

theorem crcBegin_keeps {σ : State} (u : ℕ) (s : State) (h : Keeps σ s) : Keeps σ (State.crcBegin u s) := by
  unfold State.crcBegin
  (repeat' first
    | with_reducible assumption
    | (extract_lets +onlyGivenNames x; first
      | (refine Keeps.cut (a := σ) (x := x) ?_ (fun hx => ?_); (on_goal 1 => subst x); (on_goal 2 => (clear_value x; rename' x => x')))
      | (clear_value x; rename' x => x'))
    | with_reducible first
        | apply modCrc_keeps | apply Keeps.ite
    | assumption)

theorem crcFinish_keeps {σ : State} (u : ℕ) (s : State) (h : Keeps σ s) : Keeps σ (State.crcFinish u s) := by
  unfold State.crcFinish
  (repeat' with_reducible first
      | assumption | apply modCrc_keeps | apply Keeps.ite)

theorem crcAbort_keeps {σ : State} (u : ℕ) (s : State) (h : Keeps σ s) : Keeps σ (State.crcAbort u s) := by
  unfold State.crcAbort
  (repeat' with_reducible first
      | assumption | apply log_keeps | apply modCrc_keeps | apply Keeps.ite)

theorem writeCrcCtl_keeps {σ : State} (u : ℕ) (v : ℕ) (s : State) (h : Keeps σ s) : Keeps σ (State.writeCrcCtl u v s) := by
  unfold State.writeCrcCtl
  (repeat' first
    | with_reducible assumption
    | (extract_lets +onlyGivenNames x; first
      | (refine Keeps.cut (a := σ) (x := x) ?_ (fun hx => ?_); (on_goal 1 => subst x); (on_goal 2 => (clear_value x; rename' x => x')))
      | (clear_value x; rename' x => x'))
    | with_reducible first
        | apply writeIgnored_keeps | apply modCrc_keeps | apply crcBegin_keeps | apply crcFinish_keeps | apply crcAbort_keeps
        | apply Keeps.ite)

theorem crcFeed_keeps {σ : State} (u : ℕ) (l : List Byte) (s : State) (h : Keeps σ s) : Keeps σ (State.crcFeed u l s) := by
  unfold State.crcFeed
  (repeat' with_reducible first
      | assumption | apply modCrc_keeps | apply writeIgnored_keeps | apply Keeps.ite)

theorem execCrcStart_keeps {σ : State} (unit : ℕ) (value : Word) (s : State) (h : Keeps σ s) : KeepsR σ (execCrcStart unit value s) := by
  unfold execCrcStart
  (repeat' with_reducible first
      | assumption | apply writeCrcCtl_keeps | apply KeepsR.next)

theorem execCrcFinish_keeps {σ : State} (unit : ℕ) (value : Word) (s : State) (h : Keeps σ s) : KeepsR σ (execCrcFinish unit value s) := by
  unfold execCrcFinish
  (repeat' with_reducible first
      | assumption | apply writeCrcCtl_keeps | apply KeepsR.next)

theorem execCrcAbort_keeps {σ : State} (unit : ℕ) (value : Word) (s : State) (h : Keeps σ s) : KeepsR σ (execCrcAbort unit value s) := by
  unfold execCrcAbort
  (repeat' with_reducible first
      | assumption | apply writeCrcCtl_keeps | apply KeepsR.next)

theorem execFeed4_keeps {σ : State} (unit : ℕ) (value : Word) (s : State) (h : Keeps σ s) : KeepsR σ (execFeed4 unit value s) := by
  unfold execFeed4
  (repeat' with_reducible first
      | assumption | apply crcFeed_keeps | apply KeepsR.next)

theorem execFeed1_keeps {σ : State} (unit : ℕ) (value : Word) (s : State) (h : Keeps σ s) : KeepsR σ (execFeed1 unit value s) := by
  unfold execFeed1
  (repeat' with_reducible first
      | assumption | apply crcFeed_keeps | apply KeepsR.next)

theorem execCrcJobDone_keeps {σ : State} (unit : ℕ) (s : State) (h : Keeps σ s) : KeepsR σ (execCrcJobDone unit s) := by
  unfold execCrcJobDone
  (repeat' first
    | with_reducible assumption
    | (extract_lets +onlyGivenNames x; clear_value x; rename' x => x')
    | with_reducible first
        | apply modCrc_keeps | apply KeepsR.ite | apply KeepsR.next)

end Sys2Proof.Laws
end

