-- ==== Sys2Proof/Laws/KeepsFlags.lean ====
section
/-! SUPPORT. What the operations of Machine/Flags.lean keep. -/

set_option linter.unusedTactic false
set_option linter.unreachableTactic false
set_option linter.unusedVariables false
set_option linter.tactic.unusedName false

namespace Sys2Proof.Laws

open Sys2Proof Sys2Proof.Machine

theorem readReg_keeps {σ : State} (p : Path) (off : ℕ) (s : State) (h : Keeps σ s) : KeepsP σ (State.readReg p off s) := by
  unfold State.readReg
  (repeat' first
    | with_reducible assumption
    | (extract_lets +onlyGivenNames x; clear_value x; rename' x => x')
    | with_reducible first
        | apply log_keeps | apply readTimeLo_keeps | apply readTimeHi_keeps | apply readCntLo_keeps | apply readCntHi_keeps
        | apply KeepsP.ite | apply KeepsP.mk)

end Sys2Proof.Laws
end

