-- ==== Sys2Proof/Laws/KeepsRegs.lean ====
section
/-! SUPPORT. What the operations of Machine/Regs.lean keep. -/

set_option linter.unusedTactic false
set_option linter.unreachableTactic false
set_option linter.unusedVariables false
set_option linter.tactic.unusedName false

namespace Sys2Proof.Laws

open Sys2Proof Sys2Proof.Machine

theorem Res_after_keeps {σ : State} (s : State) (r : Res) (h : Keeps σ s) (hr : KeepsR σ r) : Keeps σ (Res.after s r) := by
  obtain ⟨t, rfl, k⟩ := hr
  exact k

theorem writeRst_keeps {σ : State} (v : ℕ) (s : State) (h : Keeps σ s) : Keeps σ (State.writeRst v s) := by
  unfold State.writeRst
  (repeat' first
    | with_reducible assumption
    | (extract_lets +onlyGivenNames x; refine Keeps.cut (a := σ) (x := x) ?_ (fun hx => ?_); (on_goal 1 => subst x); (on_goal 2 => (clear_value x; rename' x => x')))
    | with_reducible first
        | apply Res_after_keeps | apply execDevRstWarm_keeps | apply execDevRstHoop_keeps | apply Keeps.ite)

theorem writePoll_keeps {σ : State} (v : ℕ) (s : State) (h : Keeps σ s) : Keeps σ (State.writePoll v s) := by
  unfold State.writePoll
  (repeat' first
    | with_reducible assumption
    | (extract_lets +onlyGivenNames x; clear_value x; rename' x => x')
    | with_reducible first
        | apply writeIgnored_keeps | apply Keeps.ite
    | assumption)

theorem writeAdmSel_keeps {σ : State} (w : Word) (s : State) (h : Keeps σ s) : Keeps σ (State.writeAdmSel w s) := by
  unfold State.writeAdmSel
  (repeat' first
    | with_reducible assumption
    | (extract_lets +onlyGivenNames x; clear_value x; rename' x => x')
    | with_reducible first
        | apply Res_after_keeps | apply execAdmcfgCommit_keeps | apply execAdmcfgDisable_keeps | apply Keeps.ite
    | assumption)

theorem writeDev_keeps {σ : State} (off : ℕ) (w : Word) (s : State) (h : Keeps σ s) : Keeps σ (State.writeDev off w s) := by
  unfold State.writeDev
  (repeat' first
    | with_reducible assumption
    | (extract_lets +onlyGivenNames x; clear_value x; rename' x => x')
    | with_reducible first
        | apply writeRst_keeps | apply Res_after_keeps | apply execSelftestGo_keeps | apply execDbBaseWrite_keeps
        | apply writeIgnored_keeps | apply writePoll_keeps | apply writeAdmSel_keeps | apply requestPage_keeps
        | apply execDbNudge_keeps | apply Keeps.ite
    | assumption)

theorem writeCtl_ok (f : Faults) (i v : Nat) (h : logOk f.log) : logOk (f.writeCtl i v).log := by
  have ite {c : Prop} [Decidable c] {x y : Faults} (hx : logOk x.log) (hy : logOk y.log) : logOk (if c then x else y).log := by
    split
    · exact hx
    · exact hy
  unfold Faults.writeCtl
  extract_lets a c d e
  have ha : logOk a.log := ite (ackOne_ok _ _ h) h
  have hc : logOk c.log := ite (clearOne_ok _ _ ha) ha
  have hd : logOk d.log := ite (ackAll_ok _ hc) hc
  have he : logOk e.log := ite (clearAll_ok _ hd) hd
  exact ite h (ite h (ite he he))

theorem writeFlt_keeps {σ : State} (p : Path) (off : ℕ) (v : ℕ) (s : State) (h : Keeps σ s) : Keeps σ (State.writeFlt p off v s) := by
  unfold State.writeFlt
  refine Keeps.ite (Keeps.ite (writeIgnored_keeps _ h) (modFlt_keeps _ _ (fun _ k => k) h)) ?_
  refine Keeps.ite (modFlt_keeps _ _ (fun _ k => k) h) (Keeps.ite (modFlt_keeps _ _ (fun _ => writeCtl_ok _ _ _) h) h)

theorem writeThmCfg_keeps {σ : State} (v : ℕ) (s : State) (h : Keeps σ s) : Keeps σ (State.writeThmCfg v s) := by
  unfold State.writeThmCfg
  (repeat' first
    | with_reducible assumption
    | (extract_lets +onlyGivenNames x; clear_value x; rename' x => x')
    | with_reducible first
        | apply writeIgnored_keeps | apply modThm_keeps | apply Keeps.ite)

theorem writeTdCfg_keeps {σ : State} (v : ℕ) (s : State) (h : Keeps σ s) : Keeps σ (State.writeTdCfg v s) := by
  unfold State.writeTdCfg
  (repeat' first
    | with_reducible first
        | assumption | (intro _)
    | (extract_lets +onlyGivenNames x; first
      | (refine Keeps.cut (a := σ) (x := x) ?_ (fun hx => ?_); (on_goal 1 => subst x); (on_goal 2 => (clear_value x; rename' x => x')))
      | (clear_value x; rename' x => x'))
    | with_reducible first
        | apply modThm_keeps | apply condEnd_keeps | apply modTd_keeps | apply Keeps.ite | apply Keeps.foldl)

theorem writeThm_keeps {σ : State} (p : Path) (off : ℕ) (w : Word) (s : State) (h : Keeps σ s) : Keeps σ (State.writeThm p off w s) := by
  unfold State.writeThm
  (repeat' first
    | with_reducible assumption
    | (extract_lets +onlyGivenNames x; clear_value x; rename' x => x')
    | with_reducible first
        | apply modThm_keeps | apply writeThmCfg_keeps | apply Res_after_keeps | apply execCoolCfgWrite_keeps
        | apply writeTdCfg_keeps | apply Keeps.ite)

theorem writeWake_keeps {σ : State} (p : Path) (v : ℕ) (s : State) (h : Keeps σ s) : Keeps σ (State.writeWake p v s) := by
  unfold State.writeWake
  (repeat' with_reducible first
      | assumption | apply writeIgnored_keeps | apply Res_after_keeps | apply execPwrWakeWake_keeps
      | apply execPwrWakeSafeExit_keeps | apply Keeps.ite)

theorem writePwr_keeps {σ : State} (p : Path) (off : ℕ) (v : ℕ) (s : State) (h : Keeps σ s) : Keeps σ (State.writePwr p off v s) := by
  unfold State.writePwr
  (repeat' first
    | exact fun _ => rfl
    | with_reducible first
        | assumption | apply modPwr_keeps | apply writeWake_keeps | apply Keeps.ite)

theorem writeOtpCtl_keeps {σ : State} (p : Path) (w : Word) (s : State) (h : Keeps σ s) : Keeps σ (State.writeOtpCtl p w s) := by
  unfold State.writeOtpCtl
  (repeat' first
    | with_reducible assumption
    | (extract_lets +onlyGivenNames x; first
      | (refine Keeps.cut (a := σ) (x := x) ?_ (fun hx => ?_); (on_goal 1 => subst x); (on_goal 2 => (clear_value x; rename' x => x')))
      | (clear_value x; rename' x => x'))
    | with_reducible first
        | apply writeIgnored_keeps | apply modOtp_keeps | apply Res_after_keeps | apply execOtpRead_keeps
        | apply execOtpAudit_keeps | apply Keeps.ite)

theorem writeOtp_keeps {σ : State} (p : Path) (off : ℕ) (w : Word) (s : State) (h : Keeps σ s) : Keeps σ (State.writeOtp p off w s) := by
  unfold State.writeOtp
  (repeat' with_reducible first
      | assumption | apply writeOtpCtl_keeps | apply modOtp_keeps | apply Keeps.ite)

theorem writeLn_keeps {σ : State} (p : Path) (off : ℕ) (w : Word) (s : State) (h : Keeps σ s) : Keeps σ (State.writeLn p off w s) := by
  unfold State.writeLn
  (repeat' first
    | with_reducible assumption
    | (extract_lets +onlyGivenNames x; clear_value x; rename' x => x')
    | with_reducible first
        | apply Res_after_keeps | apply execLaneRetrain_keeps | apply prbsCtl_keeps | apply Keeps.ite
    | assumption)

theorem pxyCmd_keeps {σ : State} (p : Path) (v : ℕ) (s : State) (h : Keeps σ s) : Keeps σ (State.pxyCmd p v s) := by
  unfold State.pxyCmd
  (repeat' with_reducible first
      | assumption | apply modTor_keeps | apply writePxyCmd_keeps | apply Keeps.ite)

theorem writeTor_keeps {σ : State} (p : Path) (off : ℕ) (w : Word) (s : State) (h : Keeps σ s) : Keeps σ (State.writeTor p off w s) := by
  unfold State.writeTor
  (repeat' first
    | with_reducible assumption
    | (extract_lets +onlyGivenNames x; clear_value x; rename' x => x')
    | with_reducible first
        | apply modTor_keeps | apply writeStart_keeps | apply pxyCmd_keeps | apply Keeps.ite)

theorem writeGrant_keeps {σ : State} (g : ℕ) (v : ℕ) (s : State) (h : Keeps σ s) : Keeps σ (State.writeGrant g v s) := by
  unfold State.writeGrant
  (repeat' first
    | with_reducible assumption
    | (extract_lets +onlyGivenNames x; clear_value x; rename' x => x')
    | with_reducible first
        | apply writeIgnored_keeps | apply Keeps.ite
    | assumption)

theorem writeCrc_keeps {σ : State} (u : ℕ) (off : ℕ) (v : ℕ) (s : State) (h : Keeps σ s) : Keeps σ (State.writeCrc u off v s) := by
  unfold State.writeCrc
  (repeat' with_reducible first
      | assumption | apply writeCrcCtl_keeps | apply modCrc_keeps | apply crcFeed_keeps | apply Keeps.ite)

theorem writeCnt_keeps {σ : State} (off : ℕ) (v : ℕ) (s : State) (h : Keeps σ s) : Keeps σ (State.writeCnt off v s) := by
  unfold State.writeCnt
  (repeat' first
    | with_reducible assumption
    | (extract_lets +onlyGivenNames x; clear_value x; rename' x => x')
    | with_reducible first
        | apply writeCntWindow_keeps | apply writeGrant_keeps | apply writeCrc_keeps | apply writeCntCfg_keeps
        | apply modCounter_keeps | apply Keeps.ite)

theorem setRest_keeps {σ : State} (ch : ℕ) (f : Chan → Chan) (s : State) (h : Keeps σ s) : Keeps σ (State.setRest ch f s) := by
  unfold State.setRest
  (repeat' with_reducible first
      | assumption | apply modChan_keeps | apply writeIgnored_keeps | apply Keeps.ite)

theorem writePriv_keeps {σ : State} (ch : ℕ) (v : ℕ) (s : State) (h : Keeps σ s) : Keeps σ (State.writePriv ch v s) := by
  unfold State.writePriv
  (repeat' first
    | with_reducible assumption
    | (extract_lets +onlyGivenNames x; first
      | (refine Keeps.cut (a := σ) (x := x) ?_ (fun hx => ?_); (on_goal 1 => subst x); (on_goal 2 => (clear_value x; rename' x => x')))
      | (clear_value x; rename' x => x'))
    | with_reducible first
        | apply writeIgnored_keeps | apply zeroCells_keeps | apply modChan_keeps | apply Keeps.ite)

theorem writeSubst_keeps {σ : State} (ch : ℕ) (v : ℕ) (s : State) (h : Keeps σ s) : Keeps σ (State.writeSubst ch v s) := by
  unfold State.writeSubst
  (repeat' first
    | with_reducible assumption
    | (extract_lets +onlyGivenNames x; clear_value x; rename' x => x')
    | with_reducible first
        | apply modChan_keeps | apply writeIgnored_keeps | apply Keeps.ite)

theorem writeDaReg_keeps {σ : State} (ch : ℕ) (k : ℕ) (v : ℕ) (s : State) (h : Keeps σ s) : Keeps σ (State.writeDaReg ch k v s) := by
  unfold State.writeDaReg
  (repeat' first
    | with_reducible assumption
    | (extract_lets +onlyGivenNames x; clear_value x; rename' x => x')
    | with_reducible first
        | apply writeIgnored_keeps | apply modChan_keeps | apply Keeps.ite)

theorem writeSrcCfg_keeps {σ : State} (ch : ℕ) (v : ℕ) (s : State) (h : Keeps σ s) : Keeps σ (State.writeSrcCfg ch v s) := by
  unfold State.writeSrcCfg
  (repeat' with_reducible first
      | assumption | apply writeIgnored_keeps | apply setRest_keeps | apply Keeps.ite)

theorem writeAna_keeps {σ : State} (ch : ℕ) (off : ℕ) (v : ℕ) (s : State) (h : Keeps σ s) : Keeps σ (State.writeAna ch off v s) := by
  unfold State.writeAna
  (repeat' first
    | with_reducible assumption
    | (extract_lets +onlyGivenNames x; subst x; try beta_reduce)
    | with_reducible first
        | apply writeIgnored_keeps | apply setRest_keeps | apply Keeps.ite)

theorem writeScrub_keeps {σ : State} (ch : ℕ) (v : ℕ) (s : State) (h : Keeps σ s) : Keeps σ (State.writeScrub ch v s) := by
  unfold State.writeScrub
  (repeat' with_reducible first
      | assumption | apply writeIgnored_keeps | apply modChan_keeps | apply Keeps.ite)

theorem writeTrain_keeps {σ : State} (ch : ℕ) (v : ℕ) (s : State) (h : Keeps σ s) : Keeps σ (State.writeTrain ch v s) := by
  unfold State.writeTrain
  (repeat' first
    | with_reducible assumption
    | (extract_lets +onlyGivenNames x; clear_value x; rename' x => x')
    | with_reducible first
        | apply writeIgnored_keeps | apply setRest_keeps | apply Keeps.ite)

theorem writeEye_keeps {σ : State} (p : Path) (ch : ℕ) (v : ℕ) (s : State) (h : Keeps σ s) : Keeps σ (State.writeEye p ch v s) := by
  unfold State.writeEye
  (repeat' first
    | with_reducible assumption
    | (extract_lets +onlyGivenNames x; clear_value x; rename' x => x')
    | with_reducible first
        | apply writeIgnored_keeps | apply setRest_keeps | apply Keeps.ite)

theorem writeLive_keeps {σ : State} (p : Path) (ch : ℕ) (off : ℕ) (w : Word) (s : State) (h : Keeps σ s) : Keeps σ (State.writeLive p ch off w s) := by
  unfold State.writeLive
  (repeat' first
    | with_reducible assumption
    | (extract_lets +onlyGivenNames x; clear_value x; rename' x => x')
    | with_reducible first
        | apply writePriv_keeps | apply Res_after_keeps | apply execBistForce_keeps | apply writeSrcCfg_keeps
        | apply setRest_keeps | apply writeAna_keeps | apply modChan_keeps | apply writeDaReg_keeps
        | apply execRemapClear_keeps | apply writeScrub_keeps | apply writeTrain_keeps | apply execCalForce_keeps
        | apply modEyes_keeps | apply writeEye_keeps | apply Keeps.ite)

theorem writeCh_keeps {σ : State} (p : Path) (ch : ℕ) (off : ℕ) (w : Word) (s : State) (h : Keeps σ s) : Keeps σ (State.writeCh p ch off w s) := by
  unfold State.writeCh
  (repeat' first
    | with_reducible first
        | assumption | apply writeSubst_keeps | apply writeIgnored_keeps | apply writeLive_keeps | apply Keeps.ite
    | assumption)

theorem execChPrivWrite_keeps {σ : State} (path : Path) (ch : ℕ) (value : Word) (s : State) (h : Keeps σ s) : KeepsR σ (execChPrivWrite path ch value s) := by
  unfold execChPrivWrite
  (repeat' with_reducible first
      | assumption | (intro _) | apply chanWrite_keeps | apply writePriv_keeps | apply KeepsR.next)

theorem execChSubstWrite_keeps {σ : State} (path : Path) (ch : ℕ) (value : Word) (s : State) (h : Keeps σ s) : KeepsR σ (execChSubstWrite path ch value s) := by
  unfold execChSubstWrite
  (repeat' with_reducible first
      | assumption | apply writeSubst_keeps | apply KeepsR.ite | apply KeepsR.next)

theorem execChDaRegWrite_keeps {σ : State} (path : Path) (ch : ℕ) (cls : ℕ) (value : Word) (s : State) (h : Keeps σ s) : KeepsR σ (execChDaRegWrite path ch cls value s) := by
  unfold execChDaRegWrite
  (repeat' with_reducible first
      | assumption | (intro _) | apply chanWrite_keeps | apply writeDaReg_keeps | apply KeepsR.ite | apply KeepsR.next)

theorem writeReg_keeps {σ : State} (p : Path) (off : ℕ) (w : Word) (s : State) (h : Keeps σ s) : Keeps σ (State.writeReg p off w s) := by
  unfold State.writeReg
  (repeat' with_reducible first
      | assumption | apply log_keeps | apply writeDev_keeps | apply writeFlt_keeps | apply writeThm_keeps
      | apply writePwr_keeps | apply writeOtp_keeps | apply writeLn_keeps | apply writeTor_keeps | apply writeCnt_keeps
      | apply writeCh_keeps | apply Keeps.ite)

theorem execRegisterWrite_keeps {σ : State} (path : Path) (offset : ℕ) (width : ℕ) (value : Word) (s : State) (h : Keeps σ s) : KeepsR σ (execRegisterWrite path offset width value s) := by
  unfold execRegisterWrite
  (repeat' with_reducible first
      | assumption | apply log_keeps | apply writeReg_keeps | apply KeepsR.ite | apply KeepsR.next)

theorem pxServe_keeps {σ : State} (op : ℕ) (pk : PktIn) (s : State) (h : Keeps σ s) : KeepsP σ (State.pxServe op pk s) := by
  unfold State.pxServe
  (repeat' first
    | with_reducible assumption
    | (extract_lets +onlyGivenNames x; first
      | (refine Keeps.cut (a := σ) (x := x) ?_ (fun hx => ?_); (on_goal 1 => subst x); (on_goal 2 => (clear_value x; rename' x => x')))
      | (refine KeepsP.cut (a := σ) (x := x) ?_ (fun hx => ?_); (on_goal 1 => subst x); (on_goal 2 => (clear_value x; rename' x => x'))))
    | with_reducible first
        | apply pxArrive_keeps | apply bindProxy_keeps | apply pxSend_keeps | apply KeepsP.ite | apply KeepsP.snd
        | apply KeepsP.mk)

theorem execRegRd_keeps {σ : State} (pk : PktIn) (s : State) (h : Keeps σ s) : KeepsR σ (execRegRd pk s) := by
  unfold execRegRd
  (repeat' first
    | with_reducible assumption
    | (extract_lets +onlyGivenNames x; refine KeepsP.cut (a := σ) (x := x) ?_ (fun hx => ?_); (on_goal 1 => subst x); (on_goal 2 => (clear_value x; rename' x => x')))
    | with_reducible first
        | apply pxServe_keeps | apply pxSend_keeps | apply readReg_keeps | apply KeepsR.ite | apply KeepsR.next
        | apply KeepsP.snd)

theorem execRegWr_keeps {σ : State} (pk : PktIn) (s : State) (h : Keeps σ s) : KeepsR σ (execRegWr pk s) := by
  unfold execRegWr
  (repeat' first
    | with_reducible assumption
    | (extract_lets +onlyGivenNames x; refine KeepsP.cut (a := σ) (x := x) ?_ (fun hx => ?_); (on_goal 1 => subst x); (on_goal 2 => (clear_value x; rename' x => x')))
    | with_reducible first
        | apply pxServe_keeps | apply pxSend_keeps | apply writeReg_keeps | apply KeepsR.ite | apply KeepsR.next
        | apply KeepsP.snd)

theorem modSmb_keeps {σ : State} (f : Smbus → Smbus) (s : State) (h : Keeps σ s) : Keeps σ (State.modSmb f s) := by
  unfold State.modSmb
  assumption

theorem execSetAddr_keeps {σ : State} (bytes : List Byte) (pecOk : Bool) (s : State) (h : Keeps σ s) : KeepsR σ (execSetAddr bytes pecOk s) := by
  unfold execSetAddr
  (repeat' first
    | with_reducible assumption
    | (extract_lets +onlyGivenNames x; refine KeepsP.cut (a := σ) (x := x) ?_ (fun hx => ?_); (on_goal 1 => subst x); (on_goal 2 => (clear_value x; rename' x => x')))
    | with_reducible first
        | apply modSmb_keeps | apply readReg_keeps | apply KeepsR.ite | apply KeepsR.next | apply KeepsP.snd)

theorem execSmbusRead_keeps {σ : State} (pec : Bool) (s : State) (h : Keeps σ s) : KeepsR σ (execSmbusRead pec s) := by
  unfold execSmbusRead
  (repeat' first
    | with_reducible assumption
    | (extract_lets +onlyGivenNames x; first
      | (refine Keeps.cut (a := σ) (x := x) ?_ (fun hx => ?_); (on_goal 1 => subst x); (on_goal 2 => (clear_value x; rename' x => x')))
      | (clear_value x; rename' x => x'))
    | with_reducible first
        | apply emit_keeps | apply Keeps.ite | apply KeepsR.next
    | assumption)

theorem execSmbusWrite_keeps {σ : State} (bytes : List Byte) (pecOk : Bool) (s : State) (h : Keeps σ s) : KeepsR σ (execSmbusWrite bytes pecOk s) := by
  unfold execSmbusWrite
  (repeat' with_reducible first
      | assumption | apply modSmb_keeps | apply writeReg_keeps | apply KeepsR.ite | apply KeepsR.next)

theorem execWstatus_keeps {σ : State} (pec : Bool) (s : State) (h : Keeps σ s) : KeepsR σ (execWstatus pec s) := by
  unfold execWstatus
  (repeat' with_reducible first
      | assumption | apply emit_keeps | apply KeepsR.next)

theorem execRegAccessTimeout_keeps {σ : State} (path : Path) (isRead : Bool) (s : State) (h : Keeps σ s) : KeepsR σ (execRegAccessTimeout path isRead s) := by
  unfold execRegAccessTimeout
  (repeat' first
    | with_reducible assumption
    | (extract_lets +onlyGivenNames x; first
      | (refine Keeps.cut (a := σ) (x := x) ?_ (fun hx => ?_); (on_goal 1 => subst x); (on_goal 2 => (clear_value x; rename' x => x')))
      | (clear_value x; rename' x => x'))
    | with_reducible first
        | apply log_keeps | apply emit_keeps | apply modSmb_keeps | apply Keeps.ite | apply KeepsR.ite | apply KeepsR.next)

end Sys2Proof.Laws
end

