-- ==== Sys2Proof/Laws/KeepsWindow.lean ====
section
/-! SUPPORT. What the operations of Machine/Window.lean keep. -/

set_option linter.unusedTactic false
set_option linter.unreachableTactic false
set_option linter.unusedVariables false
set_option linter.tactic.unusedName false

namespace Sys2Proof.Laws

open Sys2Proof Sys2Proof.Machine

theorem scrubMany_keeps {σ : State} (ch : ℕ) (t : ℕ) (noise : List Codeword) (y3 : ℕ) (y4 : State) (h : Keeps σ y4) : Keeps σ (State.scrubMany ch t noise y3 y4) := by
  induction y3 generalizing ch t noise y4 with
  | zero =>
    unfold State.scrubMany
    with_reducible assumption
  | succ n ih =>
    unfold State.scrubMany
    (repeat' first
      | with_reducible assumption
      | (extract_lets +onlyGivenNames x; first
        | (refine KeepsP.cut (a := σ) (x := x) ?_ (fun hx => ?_); (on_goal 1 => subst x); (on_goal 2 => (clear_value x; rename' x => x')))
        | (clear_value x; rename' x => x'))
      | with_reducible first
          | apply scrubOp_keeps | apply modChan_keeps | apply ih | apply KeepsP.snd
      | split)

theorem doWork_keeps {σ : State} (ch : ℕ) (k : ℕ) (t : ℕ) (l : ℕ) (w : MaintIn) (s : State) (h : Keeps σ s) : Keeps σ (State.doWork ch k t l w s) := by
  unfold State.doWork
  (repeat' first
    | with_reducible first
        | assumption | apply calSteps_keeps | apply bistSlices_keeps | apply trainStep_keeps | apply scrubMany_keeps
        | apply modChan_keeps
    | split)

theorem chooseWork_keeps {σ : State} (ch : ℕ) (l : ℕ) (m : ℕ) (take : Bool) (s : State) (h : Keeps σ s) : Keeps σ (State.chooseWork ch l m take s) := by
  unfold State.chooseWork
  (repeat' first
    | with_reducible first
        | assumption | (intro _)
    | (extract_lets +onlyGivenNames x; clear_value x; rename' x => x')
    | with_reducible first
        | apply modSeq_keeps | apply defer_keeps | apply Keeps.foldl)

theorem windowStart_keeps {σ : State} (ch : ℕ) (s : State) (h : Keeps σ s) : Keeps σ (State.windowStart ch s) := by
  unfold State.windowStart
  (repeat' first
    | with_reducible assumption
    | (extract_lets +onlyGivenNames x; first
      | (refine Keeps.cut (a := σ) (x := x) ?_ (fun hx => ?_); (on_goal 1 => subst x); (on_goal 2 => (clear_value x; rename' x => x')))
      | (clear_value x; rename' x => x'))
    | with_reducible first
        | apply modChan_keeps | apply calTrigger_keeps | apply wardenRefresh_keeps | apply chooseWork_keeps
        | apply modSeq_keeps | apply Keeps.ite)

theorem windowEnd_keeps {σ : State} (ch : ℕ) (w : MaintIn) (s : State) (h : Keeps σ s) : Keeps σ (State.windowEnd ch w s) := by
  unfold State.windowEnd
  (repeat' first
    | with_reducible assumption
    | (extract_lets +onlyGivenNames x; clear_value x; rename' x => x')
    | with_reducible first
        | apply modSeq_keeps | apply doWork_keeps
    | split)

theorem windowSlot_keeps {σ : State} (ch : ℕ) (w : MaintIn) (s : State) (h : Keeps σ s) : Keeps σ (State.windowSlot ch w s) := by
  unfold State.windowSlot
  (repeat' first
    | with_reducible assumption
    | (extract_lets +onlyGivenNames x; first
      | (refine Keeps.cut (a := σ) (x := x) ?_ (fun hx => ?_); (on_goal 1 => subst x); (on_goal 2 => (clear_value x; rename' x => x')))
      | (clear_value x; rename' x => x'))
    | with_reducible first
        | apply windowStart_keeps | apply makeupOp_keeps | apply windowEnd_keeps | apply Keeps.ite
    | split)

theorem maintSlot_keeps {σ : State} (ch : ℕ) (op : ℕ) (w : MaintIn) (s : State) (h : Keeps σ s) : Keeps σ (State.maintSlot ch op w s) := by
  unfold State.maintSlot
  (repeat' first
    | with_reducible assumption
    | (extract_lets +onlyGivenNames x; refine Keeps.cut (a := σ) (x := x) ?_ (fun hx => ?_); (on_goal 1 => subst x); (on_goal 2 => (clear_value x; rename' x => x')))
    | with_reducible first
        | apply windowSlot_keeps | apply slotDone_keeps | apply Keeps.ite
    | split)

theorem execScrub_keeps {σ : State} (ch : ℕ) (w : MaintIn) (s : State) (h : Keeps σ s) : KeepsR σ (execScrub ch w s) := by
  unfold execScrub
  (repeat' with_reducible first
      | assumption | apply maintSlot_keeps | apply KeepsR.next)

theorem execTrain_keeps {σ : State} (ch : ℕ) (w : MaintIn) (s : State) (h : Keeps σ s) : KeepsR σ (execTrain ch w s) := by
  unfold execTrain
  (repeat' with_reducible first
      | assumption | apply maintSlot_keeps | apply KeepsR.next)

theorem execCal_keeps {σ : State} (ch : ℕ) (w : MaintIn) (s : State) (h : Keeps σ s) : KeepsR σ (execCal ch w s) := by
  unfold execCal
  (repeat' with_reducible first
      | assumption | apply maintSlot_keeps | apply KeepsR.next)

theorem execBist_keeps {σ : State} (ch : ℕ) (w : MaintIn) (s : State) (h : Keeps σ s) : KeepsR σ (execBist ch w s) := by
  unfold execBist
  (repeat' with_reducible first
      | assumption | apply maintSlot_keeps | apply KeepsR.next)

theorem hoopOp_keeps {σ : State} (ch : ℕ) (a : Option ℕ) (s : State) (h : Keeps σ s) : KeepsP σ (State.hoopOp ch a s) := by
  unfold State.hoopOp
  (repeat' first
    | with_reducible first
        | assumption | apply fly_keeps | apply KeepsP.ite
    | split
    | with_reducible apply KeepsP.mk)

theorem idleDirect_keeps {σ : State} (ch : ℕ) (fail : Bool) (hoop : Option ℕ) (s : State) (h : Keeps σ s) : Keeps σ (State.idleDirect ch fail hoop s) := by
  unfold State.idleDirect
  (repeat' first
    | with_reducible assumption
    | (extract_lets +onlyGivenNames x; first
      | (refine KeepsP.cut (a := σ) (x := x) ?_ (fun hx => ?_); (on_goal 1 => subst x); (on_goal 2 => (clear_value x; rename' x => x')))
      | (clear_value x; rename' x => x'))
    | with_reducible first
        | apply hoopOp_keeps | apply daOp_keeps | apply modChan_keeps | apply Keeps.ite | apply KeepsP.ite | apply KeepsP.snd
        | apply KeepsP.mk)

theorem execIdleSchedule_keeps {σ : State} (ch : ℕ) (w : MaintIn) (storeFail : Bool) (hoop : Option ℕ) (s : State) (h : Keeps σ s) : KeepsR σ (execIdleSchedule ch w storeFail hoop s) := by
  unfold execIdleSchedule
  (repeat' first
    | with_reducible assumption
    | (extract_lets +onlyGivenNames x; first
      | (refine Keeps.cut (a := σ) (x := x) ?_ (fun hx => ?_); (on_goal 1 => subst x); (on_goal 2 => (clear_value x; rename' x => x')))
      | (clear_value x; rename' x => x'))
    | with_reducible first
        | apply modChan_keeps | apply wardenRefresh_keeps | apply calTrigger_keeps | apply doWork_keeps | apply scrubOp_keeps
        | apply idleDirect_keeps | apply KeepsR.ite | apply KeepsR.next | apply KeepsP.snd
    | split)

theorem daData_keeps {σ : State} (ch : ℕ) (n : ℕ) (q : ℕ) (i : ℕ) (ds : List Decoded) (fail : Bool) (s : State) (h : Keeps σ s) : Keeps σ (State.daData ch n q i ds fail s) := by
  unfold State.daData
  (repeat' first
    | with_reducible assumption
    | (extract_lets +onlyGivenNames x; first
      | (refine Keeps.cut (a := σ) (x := x) ?_ (fun hx => ?_); (on_goal 1 => subst x); (on_goal 2 => (clear_value x; rename' x => x')))
      | (clear_value x; rename' x => x'))
    | with_reducible first
        | apply hostWrite_keeps | apply daFinish_keeps | apply modDesc_keeps | apply Keeps.ite
    | split)

theorem fetchBlockData_keeps {σ : State} (ch : ℕ) (blk : ℕ) (issue : ℕ) (ds : List Decoded) (s : State) (h : Keeps σ s) : Keeps σ (State.fetchBlockData ch blk issue ds s) := by
  unfold State.fetchBlockData
  (repeat' first
    | with_reducible assumption
    | (extract_lets +onlyGivenNames x; clear_value x; rename' x => x')
    | with_reducible first
        | apply requestStop_keeps | apply log_keeps | apply modSeq_keeps | apply Keeps.ite)

theorem crcGranule_keeps {σ : State} (unit : ℕ) (ds : List Decoded) (s : State) (h : Keeps σ s) : Keeps σ (State.crcGranule unit ds s) := by
  unfold State.crcGranule
  (repeat' first
    | (extract_lets +onlyGivenNames x; clear_value x; rename' x => x')
    | assumption)

theorem flightRemap_keeps {σ : State} (ch : ℕ) (f : Flight) (hit : Bool) (s : State) (h : Keeps σ s) : KeepsP σ (State.flightRemap ch f hit s) := by
  unfold State.flightRemap
  (repeat' first
    | with_reducible assumption
    | (extract_lets +onlyGivenNames x; refine Keeps.cut (a := σ) (x := x) ?_ (fun hx => ?_); (on_goal 1 => subst x); (on_goal 2 => (clear_value x; rename' x => x')))
    | with_reducible first
        | apply dropEntry_keeps | apply KeepsP.ite | apply KeepsP.mk)

theorem execReadData_keeps {σ : State} (ch : ℕ) (noise : List Codeword) (hit : StoreHit) (remapHit : Bool) (s : State) (h : Keeps σ s) : KeepsR σ (execReadData ch noise hit remapHit s) := by
  unfold execReadData
  (repeat' first
    | with_reducible assumption
    | (extract_lets +onlyGivenNames x; first
      | (refine Keeps.cut (a := σ) (x := x) ?_ (fun hx => ?_); (on_goal 1 => subst x); (on_goal 2 => (clear_value x; rename' x => x')))
      | (clear_value x; rename' x => x'))
    | with_reducible first
        | apply modChan_keeps | apply bindMerge_keeps | apply flightRemap_keeps | apply readRaw_keeps | apply storeHit_keeps
        | apply srcData_keeps | apply mergeData_keeps | apply anaRead_keeps | apply fetchBlockData_keeps | apply daData_keeps
        | apply crcGranule_keeps | apply KeepsR.ite | apply KeepsR.next
    | split
    | refine KeepsP.of_eq (by assumption) ?_)

end Sys2Proof.Laws
end

