-- ==== Sys2Proof/Laws/KeepsTick.lean ====
section
/-! SUPPORT. What the operations of Machine/Tick.lean keep. -/

set_option linter.unusedTactic false
set_option linter.unreachableTactic false
set_option linter.unusedVariables false
set_option linter.tactic.unusedName false

namespace Sys2Proof.Laws

open Sys2Proof Sys2Proof.Machine

theorem countCk_keeps {σ : State} (s : State) (h : Keeps σ s) : Keeps σ (State.countCk s) := by
  unfold State.countCk
  (repeat' with_reducible first
      | assumption | (intro _) | apply count_keeps | apply Keeps.foldl)

theorem channelTick_keeps {σ : State} (ch : ℕ) (s : State) (h : Keeps σ s) : Keeps σ (State.channelTick ch s) := by
  unfold State.channelTick
  (repeat' first
    | with_reducible assumption
    | (extract_lets +onlyGivenNames x; refine Keeps.cut (a := σ) (x := x) ?_ (fun hx => ?_); (on_goal 1 => subst x); (on_goal 2 => (clear_value x; rename' x => x')))
    | with_reducible first
        | apply checkLate_keeps | apply bistLate_keeps | apply updatePanic_keeps | apply modAna_keeps
        | apply settleRetire_keeps | apply Keeps.ite)

theorem tick_keeps {σ : State} (s : State) (h : Keeps σ s) : Keeps σ (State.tick s) := by
  unfold State.tick
  (repeat' first
    | with_reducible first
        | assumption | (intro _)
    | (extract_lets +onlyGivenNames x; refine Keeps.cut (a := σ) (x := x) ?_ (fun hx => ?_); (on_goal 1 => subst x); (on_goal 2 => (clear_value x; rename' x => x')))
    | with_reducible first
        | apply countCk_keeps | apply settleAvs_keeps | apply channelTick_keeps | apply driveCool_keeps
        | apply sendIdents_keeps | apply programRecords_keeps | apply Keeps.foldl
    | assumption)

end Sys2Proof.Laws
end

