-- ==== Sys2Proof/Laws/Log.lean ====
section
/-! SUPPORT. An occurrence that is logged enters the fault log or counts as lost (R464, R466, R469), and stays there while
others are logged. -/

namespace Sys2Proof.Laws

open Sys2Proof Sys2Proof.Machine

/-- A log holds an entry of a block, cause and INSTANCE. -/
def Holds (b c i : Nat) (f : Faults) : Prop := ∃ e ∈ f.log, e.2.blk = b ∧ e.2.cause = c ∧ e.2.inst = i

theorem mem_insert_self {α : Type} (l : List (Nat × α)) (k : Nat) (v : α) : (k, v) ∈ Sparse.insert l k v := by
  induction l with
  | nil => simp [Sparse.insert]
  | cons x l ih =>
    unfold Sparse.insert
    split
    · simp
    · split
      · simp
      · simp [ih]

theorem mem_insert_of_ne {α : Type} {l : List (Nat × α)} {k : Nat} {e : Nat × α} (v : α) (h : e ∈ l) (hk : e.1 ≠ k) :
    e ∈ Sparse.insert l k v := by
  induction l with
  | nil => simp at h
  | cons x l ih =>
    unfold Sparse.insert
    rcases List.mem_cons.1 h with rfl | h
    · split
      · simp
      · split
        · omega
        · simp
    · split
      · simp [h]
      · split
        · simp [h]
        · simp [ih h]

theorem rising_unique {α : Type} {l : List (Nat × α)} (h : Rising l) {x y : Nat × α} (hx : x ∈ l) (hy : y ∈ l) (e : x.1 = y.1) :
    x = y := by
  induction l with
  | nil => simp at hx
  | cons z l ih =>
    obtain ⟨hz, hl⟩ := List.pairwise_cons.1 h
    rcases List.mem_cons.1 hx with rfl | hx' <;> rcases List.mem_cons.1 hy with rfl | hy'
    · rfl
    · have := hz _ (List.mem_map_of_mem hy')
      dsimp only at this
      omega
    · have := hz _ (List.mem_map_of_mem hx')
      dsimp only at this
      omega
    · exact ih hl hx' hy'

theorem pickLsn_spec {nw : Bool} {l : List (Nat × FltEntry)} {f : FltEntry → Bool} {x : Nat × FltEntry}
    (h : pickLsn nw l f = some x) : x ∈ l ∧ f x.2 = true := by
  unfold pickLsn at h
  have key (m : List (Nat × FltEntry)) (a : Option (Nat × FltEntry)) (hm : ∀ y ∈ m, y ∈ l ∧ f y.2 = true)
      (ha : ∀ y, a = some y → y ∈ l ∧ f y.2 = true)
      (h : m.foldl (fun a e => match a with
        | none => some e
        | some x => if (if nw then x.2.lsn < e.2.lsn else e.2.lsn < x.2.lsn) then some e else some x) a = some x) :
      x ∈ l ∧ f x.2 = true := by
    induction m generalizing a with
    | nil => exact ha x h
    | cons e m ih =>
      refine ih _ (fun y hy => hm y (List.mem_cons_of_mem _ hy)) ?_ h
      intro y hy
      cases a with
      | none => cases hy; exact hm e List.mem_cons_self
      | some z =>
        dsimp only at hy
        by_cases hz : (if nw = true then z.2.lsn < e.2.lsn else e.2.lsn < z.2.lsn)
        · rw [if_pos hz] at hy; cases hy; exact hm e List.mem_cons_self
        · rw [if_neg hz] at hy; exact ha y hy
  exact key _ none (fun y hy => by simpa using hy) (by simp) h

/-- What entering a new entry does. -/
theorem newEntry_holds (f : Faults) (o : Occurrence) (cls : Nat) (e : Bool) :
    Holds o.cause.blk o.cause.code o.inst (f.newEntry o cls e) ∨ (f.newEntry o cls e).lost = satAdd 0x3FF f.lost 1 := by
  unfold Faults.newEntry
  dsimp only
  split
  · exact .inl ⟨_, mem_insert_self _ _ _, rfl, rfl, rfl⟩
  · split
    · exact .inr rfl
    · exact .inr rfl

/-- What it does to the entries of others. -/
theorem newEntry_mono (f : Faults) (o : Occurrence) (cls : Nat) (x : Bool) :
    (f.newEntry o cls x).lost = satAdd 0x3FF f.lost 1 ∨
      (f.newEntry o cls x).lost = f.lost ∧ ∀ b c i, Holds b c i f → Holds b c i (f.newEntry o cls x) := by
  unfold Faults.newEntry
  dsimp only
  split
  · next i hi =>
    refine .inr ⟨rfl, fun b c j ⟨e, he, h⟩ => ⟨e, mem_insert_of_ne _ he ?_, h⟩⟩
    have := List.find?_some hi
    simp only [Bool.not_eq_true', List.any_eq_false, beq_iff_eq] at this
    exact this e he
  · split <;> exact .inl rfl

theorem lost_up {f g : Faults} (h : g.lost = satAdd 0x3FF f.lost 1) : f.lost < g.lost ∨ 0x3FF ≤ g.lost := by
  unfold satAdd at h
  omega

/-- Entering an occurrence. -/
theorem enter_holds (f : Faults) (o : Occurrence) :
    Holds o.cause.blk o.cause.code o.inst (f.enter o) ∨ f.lost < (f.enter o).lost ∨ 0x3FF ≤ (f.enter o).lost := by
  have lift (g : Faults) (hg : g.lost = f.lost) (cls : Nat) (x : Bool) :
      Holds o.cause.blk o.cause.code o.inst (g.newEntry o cls x) ∨ f.lost < (g.newEntry o cls x).lost ∨
        0x3FF ≤ (g.newEntry o cls x).lost := by
    rcases newEntry_holds g o cls x with h | h
    · exact .inl h
    · exact .inr (hg ▸ lost_up h)
  unfold Faults.enter
  dsimp only
  have hg : (if o.active = true then
      { f with log := f.log.map fun e => if e.2.matches o then (e.1, { e.2 with active := true }) else e } else f).lost = f.lost := by
    split <;> rfl
  revert hg
  generalize (if o.active = true then
      { f with log := f.log.map fun e => if e.2.matches o then (e.1, { e.2 with active := true }) else e } else f) = g
  intro hg
  split
  · exact lift g hg _ _
  · next i e he =>
    split
    · exact lift g hg _ _
    · split
      · exact lift g hg _ _
      · have := (pickLsn_spec he).2
        simp only [FltEntry.matches, Bool.and_eq_true, beq_iff_eq] at this
        exact .inl ⟨_, mem_insert_self _ _ _, this.1.1.1, this.1.1.2, this.1.2⟩

/-- Entering an occurrence keeps what another entered. -/
theorem enter_mono (f : Faults) (hs : Rising f.log) (o : Occurrence) (b c i : Nat) :
    (Holds b c i f → Holds b c i (f.enter o) ∨ f.lost < (f.enter o).lost ∨ 0x3FF ≤ (f.enter o).lost) ∧
      (f.lost ≤ (f.enter o).lost ∨ 0x3FF ≤ (f.enter o).lost) := by
  have lift (g : Faults) (hg : g.lost = f.lost) (hm : Holds b c i f → Holds b c i g) (cls : Nat) (x : Bool) :
      (Holds b c i f → Holds b c i (g.newEntry o cls x) ∨ f.lost < (g.newEntry o cls x).lost ∨
        0x3FF ≤ (g.newEntry o cls x).lost) ∧ (f.lost ≤ (g.newEntry o cls x).lost ∨ 0x3FF ≤ (g.newEntry o cls x).lost) := by
    rcases newEntry_mono g o cls x with h | ⟨h, k⟩
    · have := lost_up h
      rw [hg] at this
      exact ⟨fun _ => .inr this, by omega⟩
    · exact ⟨fun hh => .inl (k _ _ _ (hm hh)), .inl (by omega)⟩
  unfold Faults.enter
  dsimp only
  have hg : ∀ g, g = (if o.active = true then
      { f with log := f.log.map fun e => if e.2.matches o then (e.1, { e.2 with active := true }) else e } else f) →
      g.lost = f.lost ∧ Rising g.log ∧ (Holds b c i f → Holds b c i g) := by
    rintro g rfl
    split
    · refine ⟨rfl, rising_map _ (fun e => by split <;> rfl) hs, fun ⟨e, he, h⟩ => ⟨_, List.mem_map.2 ⟨e, he, rfl⟩, ?_⟩⟩
      split <;> exact h
    · exact ⟨rfl, hs, id⟩
  revert hg
  generalize (if o.active = true then
      { f with log := f.log.map fun e => if e.2.matches o then (e.1, { e.2 with active := true }) else e } else f) = g
  intro hg
  obtain ⟨hg, hr, hm⟩ := hg g rfl
  split
  · exact lift g hg hm _ _
  · next j e he =>
    split
    · exact lift g hg hm _ _
    · split
      · exact lift g hg hm _ _
      · refine ⟨fun hh => ?_, .inl (by simp [hg])⟩
        obtain ⟨x, hx, hx'⟩ := hm hh
        obtain ⟨hj, -⟩ := pickLsn_spec he
        by_cases hk : x.1 = j
        · obtain rfl := rising_unique hr hx hj hk
          exact .inl ⟨_, mem_insert_self _ _ _, hx'⟩
        · exact .inl ⟨x, mem_insert_of_ne _ hx hk, hx'⟩

/-- An occurrence has been logged between two states, and the count of lost ones has not gone back. -/
def Put (c : Cause) (i : Nat) (s t : State) : Prop :=
  Logged c i s t ∧ (s.flt.lost ≤ t.flt.lost ∨ 0x3FF ≤ t.flt.lost)

/-- Logging keeps what is logged. -/
theorem logRaw_put {c : Cause} {i : Nat} {s t : State} (o : Occurrence) (hs : logsOk t) (h : Put c i s t) :
    Put c i s (t.logRaw o) := by
  have m := enter_mono t.flt ((sorted_none _).1 hs.1.1) { o with time := t.gtOf o.time } c.blk c.code i
  have e : (t.logRaw o).flt = t.flt.enter { o with time := t.gtOf o.time } := rfl
  unfold Put Logged at h ⊢
  rw [e]
  rcases h with ⟨h | h | h, k⟩
  · refine ⟨?_, by omega⟩
    rcases m.1 h with l | l | l
    · exact .inl l
    · exact .inr (by omega)
    · exact .inr (.inr l)
  · exact ⟨.inr (by omega), by omega⟩
  · exact ⟨.inr (by omega), by omega⟩

theorem logOverflows_put {c : Cause} {i : Nat} (n : Nat) {s t : State} (hs : logsOk t) (h : Put c i s t) :
    Put c i s (State.logOverflows n t) := by
  induction n generalizing t with
  | zero => exact h
  | succ n ih => exact ih ((logRaw_keeps _ _ (Keeps.refl t)).2.2.2 hs) (logRaw_put _ hs h)

/-- An occurrence is logged. -/
theorem logAt_put (o : Occurrence) {s : State} (hs : logsOk s) : Put o.cause o.inst s (s.logAt o) := by
  unfold State.logAt
  refine logOverflows_put _ (s := s) ((logRaw_keeps o _ (Keeps.refl s)).2.2.2 hs) ?_
  have h := enter_holds s.flt { o with time := s.gtOf o.time }
  have m := (enter_mono s.flt ((sorted_none _).1 hs.1.1) { o with time := s.gtOf o.time } 0 0 0).2
  exact ⟨h, m⟩

theorem logAt_put_of {c : Cause} {i : Nat} (o : Occurrence) {s t : State} (hs : logsOk t) (h : Put c i s t) :
    Put c i s (t.logAt o) :=
  logOverflows_put _ ((logRaw_keeps o _ (Keeps.refl t)).2.2.2 hs) (logRaw_put o hs h)

theorem log_put (c : Cause) (i : Nat) {s : State} (hs : logsOk s) (d0 d1 d2 : Nat) (act : Bool) :
    Put c i s (s.log c i d0 d1 d2 act) := logAt_put _ hs

theorem count_put {c : Cause} {i : Nat} (ev : Nat) (bob : Option Nat) (w : Nat) (q : Nat → Bool) {s t : State} (hs : logsOk t)
    (h : Put c i s t) : Put c i s (t.count ev bob w q) := by
  have run : Put c i s (State.logOverflows (t.cnt.count t.now ev q bob w).2 { t with cnt := (t.cnt.count t.now ev q bob w).1 }) :=
    logOverflows_put _ hs h
  unfold State.count
  cases bob with
  | none => exact run
  | some b =>
    dsimp only
    split
    · exact h
    · exact run

/-- What neither adds to the log nor takes from it keeps it. -/
theorem Put.of_flt {c : Cause} {i : Nat} {s t u : State} (e : u.flt = t.flt) (h : Put c i s t) : Put c i s u := by
  unfold Put Logged
  rw [e]
  exact h

end Sys2Proof.Laws
end

