-- ==== Sys2Proof/Laws/Only.lean ====
section
/-! SUPPORT. The state that an operation may write. Every operation over the state has a lemma that says it, in the order of the
model's files: where the kinds it writes are among the kinds allowed, nothing else changes. -/

namespace Sys2Proof.Laws

open Sys2Proof Sys2Proof.Machine

/-- The state of a pair. -/
def OnlyP {α : Type} (m : Writes) (a : State) (p : α × State) : Prop := Only m a p.2

/-- A meaning answers a next state. -/
def OnlyR (m : Writes) (a : State) (r : Res) : Prop := ∃ t, r = .next t ∧ Only m a t

theorem Only.refl (m : Writes) (a : State) : Only m a a := by
  constructor <;> simp

theorem OnlyR.next {m : Writes} {a t : State} (h : Only m a t) : OnlyR m a (.next t) := ⟨t, rfl, h⟩

theorem OnlyP.of_eq {α : Type} {m : Writes} {a t : State} {p : α × State} {x : α} (e : p = (x, t)) (h : OnlyP m a p) : Only m a t := by
  subst e; exact h

theorem OnlyP.mk {α : Type} {m : Writes} {a t : State} {x : α} (h : Only m a t) : OnlyP m a (x, t) := h

theorem OnlyP.snd {α : Type} {m : Writes} {a : State} {p : α × State} (h : OnlyP m a p) : Only m a p.2 := h

theorem Only.cut {m : Writes} {a x : State} {P : Prop} (h : Only m a x) (k : Only m a x → P) : P := k h

theorem OnlyP.cut {α : Type} {m : Writes} {a : State} {x : α × State} {P : Prop} (h : OnlyP m a x) (k : OnlyP m a x → P) : P := k h

theorem Only.ite {m : Writes} {a s t : State} {c : Prop} [Decidable c] (h : Only m a s) (k : Only m a t) :
    Only m a (if c then s else t) := by
  split <;> assumption

theorem OnlyP.ite {α : Type} {m : Writes} {a : State} {p q : α × State} {c : Prop} [Decidable c] (h : OnlyP m a p) (k : OnlyP m a q) :
    OnlyP m a (if c then p else q) := by
  split <;> assumption

theorem OnlyR.ite {m : Writes} {a : State} {p q : Res} {c : Prop} [Decidable c] (h : OnlyR m a p) (k : OnlyR m a q) :
    OnlyR m a (if c then p else q) := by
  split <;> assumption

theorem Only.foldl {α : Type} {m : Writes} {a : State} {f : State → α → State} {l : List α} {s : State} (hs : Only m a s)
    (hf : ∀ s x, Only m a s → Only m a (f s x)) : Only m a (l.foldl f s) := by
  induction l generalizing s with
  | nil => exact hs
  | cons x l ih => exact ih (hf s x hs)

theorem OnlyP.foldl {α β : Type} {m : Writes} {a : State} {f : β × State → α → β × State} {l : List α} {p : β × State}
    (hs : OnlyP m a p) (hf : ∀ p x, OnlyP m a p → OnlyP m a (f p x)) : OnlyP m a (l.foldl f p) := by
  induction l generalizing p with
  | nil => exact hs
  | cons x l ih => exact ih (hf p x hs)

theorem upd_chans {m : Writes} {a s : State} {x0 : List (Nat × Chan)} (h : Only m a s) (wchans : m.chans = true) :
    Only m a { s with chans := x0 } :=
  { h with chans := .inl wchans }

theorem upd_chans_ctxs_host {m : Writes} {a s : State} {x0 : List (Nat × Chan)} {x1 : List (Nat × Ctx)} {x2 : HostIf} (h :
    Only m a s) (wchans : m.chans = true) (wctxs : m.ctxs = true) (whost : m.host = true) :
    Only m a { s with chans := x0, ctxs := x1, host := x2 } :=
  { h with chans := .inl wchans, ctxs := .inl wctxs, host := .inl whost }

theorem upd_cnt {m : Writes} {a s : State} {x0 : Counters} (h : Only m a s) (wcnt : m.cnt = true) :
    Only m a { s with cnt := x0 } :=
  { h with cnt := .inl wcnt }

theorem upd_cnt_lanes_otp {m : Writes} {a s : State} {x0 : Counters} {x1 : Lanes} {x2 : Otp} (h : Only m a s) (wcnt : m.cnt =
    true) (wlanes : m.lanes = true) (wotp : m.otp = true) :
    Only m a { s with cnt := x0, lanes := x1, otp := x2 } :=
  { h with cnt := .inl wcnt, lanes := .inl wlanes, otp := .inl wotp }

theorem upd_ctxs {m : Writes} {a s : State} {x0 : List (Nat × Ctx)} (h : Only m a s) (wctxs : m.ctxs = true) :
    Only m a { s with ctxs := x0 } :=
  { h with ctxs := .inl wctxs }

theorem upd_ctxs_host {m : Writes} {a s : State} {x0 : List (Nat × Ctx)} {x1 : HostIf} (h : Only m a s) (wctxs : m.ctxs =
    true) (whost : m.host = true) :
    Only m a { s with ctxs := x0, host := x1 } :=
  { h with ctxs := .inl wctxs, host := .inl whost }

theorem upd_ctxs_journal_flt_thm {m : Writes} {a s : State} {x0 : List (Nat × Ctx)} {x1 : List JRec} {x2 : Faults} {x3 :
    Thermal} (h : Only m a s) (wctxs : m.ctxs = true) (wjournal : m.journal = true) (wflt : m.flt = true) (wthm : m.thm =
    true) :
    Only m a { s with ctxs := x0, journal := x1, flt := x2, thm := x3 } :=
  { h with ctxs := .inl wctxs, journal := .inl wjournal, flt := .inl wflt, thm := .inl wthm }

theorem upd_dram {m : Writes} {a s : State} {x0 : Memory} (h : Only m a s) (wdram : m.dram = true) :
    Only m a { s with dram := x0 } :=
  { h with dram := .inl wdram }

theorem upd_flt {m : Writes} {a s : State} {x0 : Faults} (h : Only m a s) (wflt : m.flt = true) :
    Only m a { s with flt := x0 } :=
  { h with flt := .inl wflt }

theorem upd_flt_cnt {m : Writes} {a s : State} {x0 : Faults} {x1 : Counters} (h : Only m a s) (wflt : m.flt = true) (wcnt :
    m.cnt = true) :
    Only m a { s with flt := x0, cnt := x1 } :=
  { h with flt := .inl wflt, cnt := .inl wcnt }

theorem upd_freeNo {m : Writes} {a s : State} {x0 : Nat} (h : Only m a s) (wfreeNo : m.freeNo = true) :
    Only m a { s with freeNo := x0 } :=
  { h with freeNo := .inl wfreeNo }

theorem upd_freeNo_dram {m : Writes} {a s : State} {x0 : Nat} {x1 : Memory} (h : Only m a s) (wfreeNo : m.freeNo = true)
    (wdram : m.dram = true) :
    Only m a { s with freeNo := x0, dram := x1 } :=
  { h with freeNo := .inl wfreeNo, dram := .inl wdram }

theorem upd_frozen {m : Writes} {a s : State} {x0 : List (Nat × Frozen)} (h : Only m a s) (wfrozen : m.frozen = true) :
    Only m a { s with frozen := x0 } :=
  { h with frozen := .inl wfrozen }

theorem upd_hoop {m : Writes} {a s : State} {x0 : Hoop} (h : Only m a s) (whoop : m.hoop = true) :
    Only m a { s with hoop := x0 } :=
  { h with hoop := .inl whoop }

theorem upd_host {m : Writes} {a s : State} {x0 : HostIf} (h : Only m a s) (whost : m.host = true) :
    Only m a { s with host := x0 } :=
  { h with host := .inl whost }

theorem upd_host_hoop {m : Writes} {a s : State} {x0 : HostIf} {x1 : Hoop} (h : Only m a s) (whost : m.host = true) (whoop :
    m.hoop = true) :
    Only m a { s with host := x0, hoop := x1 } :=
  { h with host := .inl whost, hoop := .inl whoop }

theorem upd_host_pwr {m : Writes} {a s : State} {x0 : HostIf} {x1 : Power} (h : Only m a s) (whost : m.host = true) (wpwr :
    m.pwr = true) :
    Only m a { s with host := x0, pwr := x1 } :=
  { h with host := .inl whost, pwr := .inl wpwr }

theorem upd_journal {m : Writes} {a s : State} {x0 : List JRec} (h : Only m a s) (wjournal : m.journal = true) :
    Only m a { s with journal := x0 } :=
  { h with journal := .inl wjournal }

theorem upd_lanes {m : Writes} {a s : State} {x0 : Lanes} (h : Only m a s) (wlanes : m.lanes = true) :
    Only m a { s with lanes := x0 } :=
  { h with lanes := .inl wlanes }

theorem upd_members_gradeE_idDefault {m : Writes} {a s : State} {x0 : Nat} {x1 : Bool} {x2 : Bool} (h : Only m a s) (wmembers
    : m.members = true) (wgradeE : m.gradeE = true) (widDefault : m.idDefault = true) :
    Only m a { s with members := x0, gradeE := x1, idDefault := x2 } :=
  { h with members := .inl wmembers, gradeE := .inl wgradeE, idDefault := .inl widDefault }

theorem upd_now {m : Writes} {a s : State} {x0 : Nat} (h : Only m a s) (wnow : m.now = true) :
    Only m a { s with now := x0 } :=
  { h with now := .inl wnow }

theorem upd_otp {m : Writes} {a s : State} {x0 : Otp} (h : Only m a s) (wotp : m.otp = true) :
    Only m a { s with otp := x0 } :=
  { h with otp := .inl wotp }

theorem upd_out {m : Writes} {a s : State} {x0 : List Out} (h : Only m a s) (wout : m.out = true) :
    Only m a { s with out := x0 } :=
  { h with out := .inl wout }

theorem upd_pwr {m : Writes} {a s : State} {x0 : Power} (h : Only m a s) (wpwr : m.pwr = true) :
    Only m a { s with pwr := x0 } :=
  { h with pwr := .inl wpwr }

theorem upd_pwr_serial {m : Writes} {a s : State} {x0 : Power} {x1 : List (Nat × Word)} (h : Only m a s) (wpwr : m.pwr = true)
    (wserial : m.serial = true) :
    Only m a { s with pwr := x0, serial := x1 } :=
  { h with pwr := .inl wpwr, serial := .inl wserial }

theorem upd_smb {m : Writes} {a s : State} {x0 : Smbus} (h : Only m a s) (wsmb : m.smb = true) :
    Only m a { s with smb := x0 } :=
  { h with smb := .inl wsmb }

theorem upd_thm {m : Writes} {a s : State} {x0 : Thermal} (h : Only m a s) (wthm : m.thm = true) :
    Only m a { s with thm := x0 } :=
  { h with thm := .inl wthm }

theorem upd_thm_pwr {m : Writes} {a s : State} {x0 : Thermal} {x1 : Power} (h : Only m a s) (wthm : m.thm = true) (wpwr :
    m.pwr = true) :
    Only m a { s with thm := x0, pwr := x1 } :=
  { h with thm := .inl wthm, pwr := .inl wpwr }

theorem upd_tor {m : Writes} {a s : State} {x0 : Torus} (h : Only m a s) (wtor : m.tor = true) :
    Only m a { s with tor := x0 } :=
  { h with tor := .inl wtor }

end Sys2Proof.Laws
end

