-- ==== Sys2Proof/Laws/OnlyOps.lean ====
section
/-! SUPPORT. What the operations of Machine/Ops.lean may write. -/

set_option linter.unusedTactic false
set_option linter.unreachableTactic false
set_option linter.unusedVariables false
set_option linter.tactic.unusedName false

namespace Sys2Proof.Laws

open Sys2Proof Sys2Proof.Machine

theorem modChan_writes {μ : Writes} {σ : State} (ch : ℕ) (f : Chan → Chan) (s : State) (h : Only μ σ s) (wchans : μ.chans =
    true) :
    Only μ σ (State.modChan ch f s) := by
  unfold State.modChan
  (repeat' with_reducible first
      | assumption | apply upd_chans)

theorem modCtx_writes {μ : Writes} {σ : State} (n : ℕ) (f : Ctx → Ctx) (s : State) (h : Only μ σ s) (wctxs : μ.ctxs = true) :
    Only μ σ (State.modCtx n f s) := by
  unfold State.modCtx
  (repeat' with_reducible first
      | assumption | apply upd_ctxs)

theorem emit_writes {μ : Writes} {σ : State} (o : Out) (s : State) (h : Only μ σ s) (wout : μ.out = true) :
    Only μ σ (State.emit o s) := by
  unfold State.emit
  exact upd_out h wout

theorem condEnd_writes {μ : Writes} {σ : State} (blk : ℕ) (code : ℕ) (inst : ℕ) (s : State) (h : Only μ σ s) (wflt : μ.flt =
    true) :
    Only μ σ (State.condEnd blk code inst s) := by
  unfold State.condEnd
  exact upd_flt h wflt

theorem logRaw_writes {μ : Writes} {σ : State} (o : Occurrence) (s : State) (h : Only μ σ s) (wflt : μ.flt = true) (wcnt :
    μ.cnt = true) :
    Only μ σ (State.logRaw o s) := by
  unfold State.logRaw
  exact upd_flt_cnt h wflt wcnt

theorem logOverflows_writes {μ : Writes} {σ : State} (y0 : ℕ) (y1 : State) (h : Only μ σ y1) (wflt : μ.flt = true) (wcnt :
    μ.cnt = true) :
    Only μ σ (State.logOverflows y0 y1) := by
  induction y0 generalizing y1 with
  | zero => exact h
  | succ n ih => exact ih _ (logRaw_writes _ _ h wflt wcnt)

theorem count_writes {μ : Writes} {σ : State} (ev : ℕ) (bob : Option ℕ) (w : ℕ) (s : State) (q : ℕ → Bool) (h : Only μ σ s)
    (wflt : μ.flt = true) (wcnt : μ.cnt = true) :
    Only μ σ (State.count ev bob w s q) := by
  unfold State.count
  (repeat' first
    | with_reducible assumption
    | (extract_lets +onlyGivenNames x; clear_value x; rename' x => x')
    | with_reducible first
        | apply logOverflows_writes | apply Only.ite | apply upd_cnt)

theorem logAt_writes {μ : Writes} {σ : State} (o : Occurrence) (s : State) (h : Only μ σ s) (wflt : μ.flt = true) (wcnt :
    μ.cnt = true) :
    Only μ σ (State.logAt o s) := by
  unfold State.logAt
  extract_lets r
  exact logOverflows_writes _ _ (upd_flt_cnt h wflt wcnt) wflt wcnt

theorem log_writes {μ : Writes} {σ : State} (c : Cause) (inst : ℕ) (s : State) (d0 : ℕ) (d1 : ℕ) (d2 : ℕ) (active : Bool) (h :
    Only μ σ s) (wflt : μ.flt = true) (wcnt : μ.cnt = true) :
    Only μ σ (State.log c inst s d0 d1 d2 active) := by
  unfold State.log
  (repeat' with_reducible first
      | assumption | apply logAt_writes)

theorem corruptLog_writes {μ : Writes} {σ : State} (l : List ℕ) (s : State) (h : Only μ σ s) (wflt : μ.flt = true) :
    Only μ σ (State.corruptLog l s) := by
  unfold State.corruptLog
  (repeat' first
    | with_reducible assumption
    | (extract_lets +onlyGivenNames x; clear_value x; rename' x => x')
    | with_reducible apply upd_flt)

theorem badRead_writes {μ : Writes} {σ : State} (p : Path) (s : State) (h : Only μ σ s) (wflt : μ.flt = true) (wcnt : μ.cnt =
    true) (wout : μ.out = true) :
    Only μ σ (State.badRead p s) := by
  unfold State.badRead
  (repeat' with_reducible first
      | assumption | apply emit_writes | apply log_writes)

theorem writeIgnored_writes {μ : Writes} {σ : State} (s : State) (h : Only μ σ s) (wflt : μ.flt = true) (wcnt : μ.cnt = true)
    :
    Only μ σ (State.writeIgnored s) := by
  unfold State.writeIgnored
  (repeat' with_reducible first
      | assumption | apply log_writes)

theorem putCell_writes {μ : Writes} {σ : State} (ch : ℕ) (a : ℕ) (c : Codeword) (s : State) (h : Only μ σ s) (wdram : μ.dram =
    true) :
    Only μ σ (State.putCell ch a c s) := by
  unfold State.putCell
  exact upd_dram h wdram

theorem loseCells_writes {μ : Writes} {σ : State} (ch : ℕ) (keep : ℕ → Bool) (s : State) (h : Only μ σ s) (wdram : μ.dram =
    true) :
    Only μ σ (State.loseCells ch keep s) := by
  unfold State.loseCells
  exact upd_dram h wdram

theorem loseAll_writes {μ : Writes} {σ : State} (s : State) (h : Only μ σ s) (wdram : μ.dram = true) :
    Only μ σ (State.loseAll s) := by
  unfold State.loseAll
  exact upd_dram h wdram

end Sys2Proof.Laws
end

