-- ==== Sys2Proof/Laws/OnlyLink.lean ====
section
/-! SUPPORT. What the operations of Machine/Link.lean may write. -/

set_option linter.unusedTactic false
set_option linter.unreachableTactic false
set_option linter.unusedVariables false
set_option linter.tactic.unusedName false

namespace Sys2Proof.Laws

open Sys2Proof Sys2Proof.Machine

theorem modPort_writes {μ : Writes} {σ : State} (p : ℕ) (f : Port → Port) (s : State) (h : Only μ σ s) (wtor : μ.tor = true) :
    Only μ σ (State.modPort p f s) := by
  unfold State.modPort
  (repeat' first
    | with_reducible assumption
    | (extract_lets +onlyGivenNames x; clear_value x; rename' x => x')
    | with_reducible apply upd_tor)

theorem discardPacket_writes {μ : Writes} {σ : State} (s : State) (h : Only μ σ s) (wflt : μ.flt = true) (wcnt : μ.cnt = true)
    :
    Only μ σ (State.discardPacket s) := by
  unfold State.discardPacket
  (repeat' with_reducible first
      | assumption | apply count_writes)

theorem launch_writes {μ : Writes} {σ : State} (p : ℕ) (ws : List (BitVec 64)) (s : State) (h : Only μ σ s) (wflt : μ.flt =
    true) (wcnt : μ.cnt = true) (wtor : μ.tor = true) (wout : μ.out = true) :
    Only μ σ (State.launch p ws s) := by
  unfold State.launch
  (repeat' first
    | with_reducible assumption
    | (extract_lets +onlyGivenNames x; first
      | (refine Only.cut (m := μ) (a := σ) (x := x) ?_ (fun hx => ?_); (on_goal 1 => subst x); (on_goal 2 => (clear_value x; rename' x => x')))
      | (clear_value x; rename' x => x'))
    | with_reducible first
        | apply modPort_writes | apply count_writes | apply emit_writes)

theorem flushPort_writes {μ : Writes} {σ : State} (y0 : ℕ) (y1 : ℕ) (y2 : State) (h : Only μ σ y2) (wflt : μ.flt = true) (wcnt
    : μ.cnt = true) (wtor : μ.tor = true) (wout : μ.out = true) :
    Only μ σ (State.flushPort y0 y1 y2) := by
  induction y0 generalizing y1 y2 with
  | zero =>
    unfold State.flushPort
    with_reducible assumption
  | succ n ih =>
    unfold State.flushPort
    (repeat' first
      | with_reducible assumption
      | (extract_lets +onlyGivenNames x; clear_value x; rename' x => x')
      | with_reducible first
          | apply launch_writes | apply modPort_writes | apply ih | apply Only.ite
      | split)

theorem enqueue_writes {μ : Writes} {σ : State} (p : ℕ) (ws : List (BitVec 64)) (s : State) (h : Only μ σ s) (wflt : μ.flt =
    true) (wcnt : μ.cnt = true) (wtor : μ.tor = true) (wout : μ.out = true) :
    Only μ σ (State.enqueue p ws s) := by
  unfold State.enqueue
  (repeat' first
    | with_reducible assumption
    | (extract_lets +onlyGivenNames x; first
      | (refine Only.cut (m := μ) (a := σ) (x := x) ?_ (fun hx => ?_); (on_goal 1 => subst x); (on_goal 2 => (clear_value x; rename' x => x')))
      | (clear_value x; rename' x => x'))
    | with_reducible first
        | apply modPort_writes | apply flushPort_writes)

theorem forwardOn_writes {μ : Writes} {σ : State} (a : ℕ) (ws : List (BitVec 64)) (s : State) (h : Only μ σ s) (wflt : μ.flt =
    true) (wcnt : μ.cnt = true) (wtor : μ.tor = true) (wout : μ.out = true) :
    Only μ σ (State.forwardOn a ws s) := by
  unfold State.forwardOn
  (repeat' first
    | with_reducible first
        | assumption | apply emit_writes | apply enqueue_writes | apply discardPacket_writes | apply Only.ite
    | split)

theorem sendPacket_writes {μ : Writes} {σ : State} (typ : ℕ) (x : ℕ) (y : ℕ) (tag : ℕ) (n : ℕ) (payload : List Word) (s :
    State) (h : Only μ σ s) (wflt : μ.flt = true) (wcnt : μ.cnt = true) (wtor : μ.tor = true) (wout : μ.out = true) :
    Only μ σ (State.sendPacket typ x y tag n payload s) := by
  unfold State.sendPacket
  (repeat' with_reducible first
      | assumption | apply forwardOn_writes)

theorem flood_writes {μ : Writes} {σ : State} (a : ℕ) (ws : List (BitVec 64)) (s : State) (h : Only μ σ s) (wflt : μ.flt =
    true) (wcnt : μ.cnt = true) (wtor : μ.tor = true) (wout : μ.out = true) :
    Only μ σ (State.flood a ws s) := by
  unfold State.flood
  (repeat' with_reducible first
      | assumption | (intro _) | apply enqueue_writes | apply Only.ite | apply Only.foldl)

end Sys2Proof.Laws
end

