-- ==== Sys2Proof/Laws/OnlyCommit.lean ====
section
/-! SUPPORT. What the operations of Machine/Commit.lean may write. -/

set_option linter.unusedTactic false
set_option linter.unreachableTactic false
set_option linter.unusedVariables false
set_option linter.tactic.unusedName false

namespace Sys2Proof.Laws

open Sys2Proof Sys2Proof.Machine

theorem modPx_writes {μ : Writes} {σ : State} (id : ℕ) (f : PxChan → PxChan) (s : State) (h : Only μ σ s) (wtor : μ.tor =
    true) :
    Only μ σ (State.modPx id f s) := by
  unfold State.modPx
  (repeat' first
    | with_reducible assumption
    | (extract_lets +onlyGivenNames x; clear_value x; rename' x => x')
    | with_reducible apply upd_tor)

theorem pxPacket_writes {μ : Writes} {σ : State} (id : ℕ) (op : ℕ) (ws : List Word) (s : State) (h : Only μ σ s) (wflt : μ.flt
    = true) (wcnt : μ.cnt = true) (wtor : μ.tor = true) (wout : μ.out = true) :
    Only μ σ (State.pxPacket id op ws s) := by
  unfold State.pxPacket
  (repeat' with_reducible first
      | assumption | apply sendPacket_writes)

theorem pxSend_writes {μ : Writes} {σ : State} (id : ℕ) (op : ℕ) (ws : List Word) (s : State) (h : Only μ σ s) (wflt : μ.flt =
    true) (wcnt : μ.cnt = true) (wtor : μ.tor = true) (wout : μ.out = true) :
    Only μ σ (State.pxSend id op ws s) := by
  unfold State.pxSend
  (repeat' first
    | with_reducible assumption
    | (extract_lets +onlyGivenNames x; first
      | (refine Only.cut (m := μ) (a := σ) (x := x) ?_ (fun hx => ?_); (on_goal 1 => subst x); (on_goal 2 => (clear_value x; rename' x => x')))
      | (clear_value x; rename' x => x'))
    | with_reducible first
        | apply modPx_writes | apply pxPacket_writes | apply Only.ite)

theorem proxyWrite_writes {μ : Writes} {σ : State} (id : ℕ) (addr : ℕ) (data : List Byte) (s : State) (h : Only μ σ s) (wflt :
    μ.flt = true) (wcnt : μ.cnt = true) (wtor : μ.tor = true) (wout : μ.out = true) :
    Only μ σ (State.proxyWrite id addr data s) := by
  unfold State.proxyWrite
  (repeat' first
    | with_reducible first
        | assumption | (intro _)
    | (extract_lets +onlyGivenNames x; clear_value x; rename' x => x')
    | with_reducible first
        | apply pxSend_writes | apply Only.foldl)

theorem hostWrite_writes {μ : Writes} {σ : State} (addr : ℕ) (data : List Byte) (s : State) (h : Only μ σ s) (wflt : μ.flt =
    true) (wcnt : μ.cnt = true) (wtor : μ.tor = true) (wout : μ.out = true) :
    Only μ σ (State.hostWrite addr data s) := by
  unfold State.hostWrite
  (repeat' first
    | with_reducible assumption
    | (extract_lets +onlyGivenNames x; refine Only.cut (m := μ) (a := σ) (x := x) ?_ (fun hx => ?_); (on_goal 1 => subst x); (on_goal 2 => (clear_value x; rename' x => x')))
    | with_reducible first
        | apply emit_writes | apply proxyWrite_writes | apply count_writes | apply Only.ite)

theorem hostRead_writes {μ : Writes} {σ : State} (addr : ℕ) (len : ℕ) (s : State) (h : Only μ σ s) (wflt : μ.flt = true) (wcnt
    : μ.cnt = true) (wtor : μ.tor = true) (wout : μ.out = true) :
    Only μ σ (State.hostRead addr len s) := by
  unfold State.hostRead
  (repeat' with_reducible first
      | assumption | (intro _) | apply emit_writes | apply pxSend_writes | apply Only.ite | apply Only.foldl)

theorem writeRecord_writes {μ : Writes} {σ : State} (j : JRec) (s : State) (h : Only μ σ s) (wflt : μ.flt = true) (wcnt :
    μ.cnt = true) (wtor : μ.tor = true) (wout : μ.out = true) :
    Only μ σ (State.writeRecord j s) := by
  unfold State.writeRecord
  (repeat' first
    | with_reducible assumption
    | (extract_lets +onlyGivenNames x; refine Only.cut (m := μ) (a := σ) (x := x) ?_ (fun hx => ?_); (on_goal 1 => subst x); (on_goal 2 => (clear_value x; rename' x => x')))
    | with_reducible first
        | apply hostWrite_writes | apply hostRead_writes | apply Only.ite)

theorem sendMsix_writes {μ : Writes} {σ : State} (n : ℕ) (s : State) (h : Only μ σ s) (wctxs : μ.ctxs = true) (wflt : μ.flt =
    true) (wcnt : μ.cnt = true) (wout : μ.out = true) :
    Only μ σ (State.sendMsix n s) := by
  unfold State.sendMsix
  (repeat' with_reducible first
      | assumption | apply count_writes | apply modCtx_writes | apply emit_writes | apply Only.ite)

theorem lostEnds_writes {μ : Writes} {σ : State} (ch : ℕ) (s : State) (h : Only μ σ s) (wflt : μ.flt = true) :
    Only μ σ (State.lostEnds ch s) := by
  unfold State.lostEnds
  (repeat' with_reducible first
      | assumption | apply condEnd_writes | apply Only.ite)

theorem commitEffect_writes {μ : Writes} {σ : State} (d : Desc) (s : State) (h : Only μ σ s) (wchans : μ.chans = true) (wflt :
    μ.flt = true) :
    Only μ σ (State.commitEffect d s) := by
  unfold State.commitEffect
  (repeat' with_reducible first
      | assumption | apply lostEnds_writes | apply modChan_writes | apply Only.ite)

theorem commitOne_writes {μ : Writes} {σ : State} (n : ℕ) (s : State) (h : Only μ σ s) (wchans : μ.chans = true) (wctxs :
    μ.ctxs = true) (wjournal : μ.journal = true) (wflt : μ.flt = true) (wcnt : μ.cnt = true) (wtor : μ.tor = true) (wout :
    μ.out = true) :
    Only μ σ (State.commitOne n s) := by
  unfold State.commitOne
  (repeat' first
    | with_reducible assumption
    | (extract_lets +onlyGivenNames x; first
      | (refine Only.cut (m := μ) (a := σ) (x := x) ?_ (fun hx => ?_); (on_goal 1 => subst x); (on_goal 2 => (clear_value x; rename' x => x')))
      | (clear_value x; rename' x => x'))
    | with_reducible first
        | apply commitEffect_writes | apply modCtx_writes | apply count_writes | apply writeRecord_writes
        | apply sendMsix_writes | apply Only.ite
    | split
    | with_reducible apply upd_journal)

theorem commitAll_writes {μ : Writes} {σ : State} (y0 : ℕ) (y1 : ℕ) (y2 : State) (h : Only μ σ y2) (wchans : μ.chans = true)
    (wctxs : μ.ctxs = true) (wjournal : μ.journal = true) (wflt : μ.flt = true) (wcnt : μ.cnt = true) (wtor : μ.tor = true)
    (wout : μ.out = true) :
    Only μ σ (State.commitAll y0 y1 y2) := by
  induction y0 generalizing y1 y2 with
  | zero =>
    unfold State.commitAll
    with_reducible assumption
  | succ n ih =>
    unfold State.commitAll
    (repeat' with_reducible first
        | assumption | apply commitOne_writes | apply ih)

theorem disabled_writes {μ : Writes} {σ : State} (n : ℕ) (x : ℕ × Option ℕ) (s : State) (h : Only μ σ s) (wctxs : μ.ctxs =
    true) (whost : μ.host = true) :
    Only μ σ (State.disabled n x s) := by
  unfold State.disabled
  (repeat' first
    | with_reducible assumption
    | (extract_lets +onlyGivenNames x; clear_value x; rename' x => x')
    | with_reducible apply modCtx_writes
    | split
    | with_reducible apply upd_host)

theorem settleDisable_writes {μ : Writes} {σ : State} (n : ℕ) (s : State) (h : Only μ σ s) (wctxs : μ.ctxs = true) (whost :
    μ.host = true) (wflt : μ.flt = true) :
    Only μ σ (State.settleDisable n s) := by
  unfold State.settleDisable
  (repeat' first
    | with_reducible first
        | assumption | (intro _)
    | (extract_lets +onlyGivenNames x; first
      | (refine Only.cut (m := μ) (a := σ) (x := x) ?_ (fun hx => ?_); (on_goal 1 => subst x); (on_goal 2 => (clear_value x; rename' x => x')))
      | (clear_value x; rename' x => x'))
    | with_reducible first
        | apply modCtx_writes | apply disabled_writes | apply condEnd_writes | apply Only.ite | apply Only.foldl)

theorem drainBy_writes {μ : Writes} {σ : State} (y0 : ℕ) (y1 : ℕ) (y2 : State) (h : Only μ σ y2) (wchans : μ.chans = true)
    (wctxs : μ.ctxs = true) (wjournal : μ.journal = true) (whost : μ.host = true) (wflt : μ.flt = true) (wcnt : μ.cnt = true)
    (wtor : μ.tor = true) (wout : μ.out = true) :
    Only μ σ (State.drainBy y0 y1 y2) := by
  induction y0 generalizing y1 y2 with
  | zero =>
    unfold State.drainBy
    with_reducible assumption
  | succ n ih =>
    unfold State.drainBy
    (repeat' first
      | with_reducible first
          | assumption | (intro _)
      | (extract_lets +onlyGivenNames x; first
        | (refine Only.cut (m := μ) (a := σ) (x := x) ?_ (fun hx => ?_); (on_goal 1 => subst x); (on_goal 2 => (clear_value x; rename' x => x')))
        | (clear_value x; rename' x => x'))
      | with_reducible first
          | apply commitAll_writes | apply settleDisable_writes | apply ih | apply Only.foldl)

theorem drain_writes {μ : Writes} {σ : State} (n : ℕ) (s : State) (h : Only μ σ s) (wchans : μ.chans = true) (wctxs : μ.ctxs =
    true) (wjournal : μ.journal = true) (whost : μ.host = true) (wflt : μ.flt = true) (wcnt : μ.cnt = true) (wtor : μ.tor =
    true) (wout : μ.out = true) :
    Only μ σ (State.drain n s) := by
  unfold State.drain
  (repeat' with_reducible first
      | assumption | apply drainBy_writes)

theorem finish_writes {μ : Writes} {σ : State} (n : ℕ) (seq : ℕ) (status : ℕ) (s : State) (info : ℕ) (result : ℕ) (h : Only μ
    σ s) (wchans : μ.chans = true) (wctxs : μ.ctxs = true) (wjournal : μ.journal = true) (whost : μ.host = true) (wflt : μ.flt
    = true) (wcnt : μ.cnt = true) (wtor : μ.tor = true) (wout : μ.out = true) :
    Only μ σ (State.finish n seq status s info result) := by
  unfold State.finish
  (repeat' with_reducible first
      | assumption | apply drain_writes | apply modCtx_writes)

theorem drainEvery_writes {μ : Writes} {σ : State} (s : State) (h : Only μ σ s) (wchans : μ.chans = true) (wctxs : μ.ctxs =
    true) (wjournal : μ.journal = true) (whost : μ.host = true) (wflt : μ.flt = true) (wcnt : μ.cnt = true) (wtor : μ.tor =
    true) (wout : μ.out = true) :
    Only μ σ (State.drainEvery s) := by
  unfold State.drainEvery
  (repeat' with_reducible first
      | assumption | (intro _) | apply drain_writes | apply Only.foldl)

theorem halt_writes {μ : Writes} {σ : State} (n : ℕ) (cause : ℕ) (s : State) (h : Only μ σ s) (wctxs : μ.ctxs = true) (wflt :
    μ.flt = true) (wcnt : μ.cnt = true) :
    Only μ σ (State.halt n cause s) := by
  unfold State.halt
  (repeat' first
    | with_reducible assumption
    | (extract_lets +onlyGivenNames x; clear_value x; rename' x => x')
    | with_reducible first
        | apply log_writes | apply modCtx_writes)

end Sys2Proof.Laws
end

