-- ==== Sys2Proof/Laws/OnlyOperands.lean ====
section
/-! SUPPORT. What the operations of Machine/Operands.lean may write. -/

set_option linter.unusedTactic false
set_option linter.unreachableTactic false
set_option linter.unusedVariables false
set_option linter.tactic.unusedName false

namespace Sys2Proof.Laws

open Sys2Proof Sys2Proof.Machine

theorem configure_writes {μ : Writes} {σ : State} (n : ℕ) (b : List Byte) (startSeq : ℕ) (s : State) (h : Only μ σ s) (wctxs :
    μ.ctxs = true) :
    OnlyP μ σ (State.configure n b startSeq s) := by
  unfold State.configure
  (repeat' first
    | with_reducible assumption
    | (extract_lets +onlyGivenNames x; clear_value x; rename' x => x')
    | with_reducible first
        | apply modCtx_writes | apply OnlyP.ite
    | split
    | with_reducible apply OnlyP.mk)

theorem modDesc_writes {μ : Writes} {σ : State} (n : ℕ) (seq : ℕ) (f : Desc → Desc) (s : State) (h : Only μ σ s) (wctxs :
    μ.ctxs = true) :
    Only μ σ (State.modDesc n seq f s) := by
  unfold State.modDesc
  (repeat' with_reducible first
      | assumption | apply modCtx_writes)

end Sys2Proof.Laws
end

