-- ==== Sys2Proof/Laws/OnlyEcc.lean ====
section
/-! SUPPORT. What the operations of Machine/Ecc.lean may write. -/

set_option linter.unusedTactic false
set_option linter.unreachableTactic false
set_option linter.unusedVariables false
set_option linter.tactic.unusedName false

namespace Sys2Proof.Laws

open Sys2Proof Sys2Proof.Machine

theorem transfer_writes {μ : Writes} {σ : State} (ch : ℕ) (c : Codeword) (s : State) (h : Only μ σ s) (wfreeNo : μ.freeNo =
    true) :
    OnlyP μ σ (State.transfer ch c s) := by
  unfold State.transfer
  (repeat' first
    | with_reducible assumption
    | (extract_lets +onlyGivenNames x; clear_value x; rename' x => x')
    | with_reducible first
        | apply OnlyP.ite | apply OnlyP.mk | apply upd_freeNo)

theorem countUp_writes {μ : Writes} {σ : State} (ch : ℕ) (w : Codeword) (s : State) (h : Only μ σ s) (wchans : μ.chans = true)
    :
    Only μ σ (State.countUp ch w s) := by
  unfold State.countUp
  (repeat' with_reducible first
      | assumption | apply modChan_writes)

theorem countDown_writes {μ : Writes} {σ : State} (ch : ℕ) (w : Codeword) (s : State) (h : Only μ σ s) (wchans : μ.chans =
    true) :
    Only μ σ (State.countDown ch w s) := by
  unfold State.countDown
  (repeat' with_reducible first
      | assumption | apply modChan_writes)

theorem corrEnter_writes {μ : Writes} {σ : State} (ch : ℕ) (x : Corr) (s : State) (h : Only μ σ s) (wchans : μ.chans = true)
    (wflt : μ.flt = true) (wcnt : μ.cnt = true) :
    Only μ σ (State.corrEnter ch x s) := by
  unfold State.corrEnter
  (repeat' first
    | with_reducible assumption
    | (extract_lets +onlyGivenNames x; clear_value x; rename' x => x')
    | with_reducible first
        | apply modChan_writes | apply count_writes
    | split)

theorem queueScrub_writes {μ : Writes} {σ : State} (ch : ℕ) (a : ℕ) (s : State) (h : Only μ σ s) (wchans : μ.chans = true) :
    Only μ σ (State.queueScrub ch a s) := by
  unfold State.queueScrub
  (repeat' first
    | with_reducible assumption
    | (extract_lets +onlyGivenNames x; clear_value x; rename' x => x')
    | with_reducible apply modChan_writes)

theorem offer_writes {μ : Writes} {σ : State} (ch : ℕ) (a : ℕ) (data : BitVec 64) (mark : Bool) (pos : List ℕ) (s : State) (h
    : Only μ σ s) (wchans : μ.chans = true) (wflt : μ.flt = true) (wcnt : μ.cnt = true) :
    Only μ σ (State.offer ch a data mark pos s) := by
  unfold State.offer
  (repeat' first
    | with_reducible assumption
    | (extract_lets +onlyGivenNames x; first
      | (refine Only.cut (m := μ) (a := σ) (x := x) ?_ (fun hx => ?_); (on_goal 1 => subst x); (on_goal 2 => (clear_value x; rename' x => x')))
      | (clear_value x; rename' x => x'))
    | with_reducible first
        | apply corrEnter_writes | apply modChan_writes | apply log_writes | apply Only.ite)

theorem filterEvent_writes {μ : Writes} {σ : State} (ch : ℕ) (a : ℕ) (data : BitVec 64) (mark : Bool) (pos : List ℕ) (s :
    State) (h : Only μ σ s) (wchans : μ.chans = true) (wflt : μ.flt = true) (wcnt : μ.cnt = true) :
    Only μ σ (State.filterEvent ch a data mark pos s) := by
  unfold State.filterEvent
  (repeat' first
    | with_reducible assumption
    | (extract_lets +onlyGivenNames x; first
      | (refine Only.cut (m := μ) (a := σ) (x := x) ?_ (fun hx => ?_); (on_goal 1 => subst x); (on_goal 2 => (clear_value x; rename' x => x')))
      | (refine useFun₂ x ?_; subst x; try beta_reduce)
      | (clear_value x; rename' x => x'))
    | with_reducible first
        | apply modChan_writes | apply log_writes | apply offer_writes | apply Only.ite)

theorem noteFix_writes {μ : Writes} {σ : State} (ch : ℕ) (y1 : StoreHit) (s : State) (h : Only μ σ s) (wchans : μ.chans =
    true) :
    Only μ σ (State.noteFix ch y1 s) := by
  unfold State.noteFix
  (repeat' with_reducible first
      | assumption | apply modChan_writes | apply Only.ite)

theorem storeHit_writes {μ : Writes} {σ : State} (ch : ℕ) (y1 : StoreHit) (s : State) (h : Only μ σ s) (wchans : μ.chans =
    true) (wflt : μ.flt = true) (wcnt : μ.cnt = true) :
    Only μ σ (State.storeHit ch y1 s) := by
  unfold State.storeHit
  (repeat' with_reducible first
      | assumption | apply log_writes | apply noteFix_writes | apply Only.ite)

theorem dropEntry_writes {μ : Writes} {σ : State} (ch : ℕ) (a : ℕ) (s : State) (h : Only μ σ s) (wchans : μ.chans = true)
    (wflt : μ.flt = true) (wcnt : μ.cnt = true) :
    Only μ σ (State.dropEntry ch a s) := by
  unfold State.dropEntry
  (repeat' first
    | with_reducible first
        | assumption | apply log_writes | apply modChan_writes
    | split)

theorem requestStop_writes {μ : Writes} {σ : State} (ch : ℕ) (cause : ℕ) (s : State) (h : Only μ σ s) (wchans : μ.chans =
    true) :
    Only μ σ (State.requestStop ch cause s) := by
  unfold State.requestStop
  (repeat' with_reducible first
      | assumption | apply modChan_writes)

theorem erasureAction_writes {μ : Writes} {σ : State} (ch : ℕ) (s : State) (h : Only μ σ s) (wchans : μ.chans = true) (wflt :
    μ.flt = true) (wcnt : μ.cnt = true) :
    Only μ σ (State.erasureAction ch s) := by
  unfold State.erasureAction
  (repeat' first
    | with_reducible assumption
    | (extract_lets +onlyGivenNames x; first
      | (refine Only.cut (m := μ) (a := σ) (x := x) ?_ (fun hx => ?_); (on_goal 1 => subst x); (on_goal 2 => (clear_value x; rename' x => x')))
      | (clear_value x; rename' x => x'))
    | with_reducible first
        | apply log_writes | apply modChan_writes | apply requestStop_writes | apply Only.ite)

theorem recordDarn_writes {μ : Writes} {σ : State} (ch : ℕ) (failed : ℕ) (spare : ℕ) (s : State) (h : Only μ σ s) (wchans :
    μ.chans = true) :
    Only μ σ (State.recordDarn ch failed spare s) := by
  unfold State.recordDarn
  (repeat' with_reducible first
      | assumption | apply modChan_writes)

theorem eraseRole_writes {μ : Writes} {σ : State} (ch : ℕ) (role : ℕ) (i : ℕ) (s : State) (h : Only μ σ s) (wchans : μ.chans =
    true) (wflt : μ.flt = true) (wcnt : μ.cnt = true) :
    Only μ σ (State.eraseRole ch role i s) := by
  unfold State.eraseRole
  (repeat' first
    | with_reducible assumption
    | (extract_lets +onlyGivenNames x; refine Only.cut (m := μ) (a := σ) (x := x) ?_ (fun hx => ?_); (on_goal 1 => subst x); (on_goal 2 => (clear_value x; rename' x => x')))
    | with_reducible first
        | apply modChan_writes | apply recordDarn_writes | apply erasureAction_writes | apply Only.ite)

theorem dataFailing_writes {μ : Writes} {σ : State} (ch : ℕ) (i : ℕ) (s : State) (h : Only μ σ s) (wchans : μ.chans = true)
    (wflt : μ.flt = true) (wcnt : μ.cnt = true) :
    Only μ σ (State.dataFailing ch i s) := by
  unfold State.dataFailing
  (repeat' first
    | with_reducible assumption
    | (extract_lets +onlyGivenNames x; first
      | (refine Only.cut (m := μ) (a := σ) (x := x) ?_ (fun hx => ?_); (on_goal 1 => subst x); (on_goal 2 => (clear_value x; rename' x => x')))
      | (clear_value x; rename' x => x'))
    | with_reducible first
        | apply modChan_writes | apply recordDarn_writes | apply log_writes | apply eraseRole_writes | apply Only.ite
    | split)

theorem suspectEye_writes {μ : Writes} {σ : State} (ch : ℕ) (i : ℕ) (s : State) (h : Only μ σ s) (wchans : μ.chans = true) :
    Only μ σ (State.suspectEye ch i s) := by
  unfold State.suspectEye
  (repeat' with_reducible first
      | assumption | apply modChan_writes)

theorem monitorCount_writes {μ : Writes} {σ : State} (ch : ℕ) (a : ℕ) (k : ℕ) (s : State) (h : Only μ σ s) (wchans : μ.chans =
    true) (wflt : μ.flt = true) (wcnt : μ.cnt = true) :
    Only μ σ (State.monitorCount ch a k s) := by
  unfold State.monitorCount
  (repeat' first
    | with_reducible assumption
    | (extract_lets +onlyGivenNames x; first
      | (refine Only.cut (m := μ) (a := σ) (x := x) ?_ (fun hx => ?_); (on_goal 1 => subst x); (on_goal 2 => (clear_value x; rename' x => x')))
      | (clear_value x; rename' x => x'))
    | with_reducible first
        | apply modChan_writes | apply log_writes | apply suspectEye_writes | apply dataFailing_writes | apply Only.ite)

theorem noteDecode_writes {μ : Writes} {σ : State} (ch : ℕ) (a : ℕ) (kind : ReadKind) (d : Decoded) (s : State) (h : Only μ σ
    s) (wchans : μ.chans = true) (wflt : μ.flt = true) (wcnt : μ.cnt = true) :
    Only μ σ (State.noteDecode ch a kind d s) := by
  unfold State.noteDecode
  (repeat' first
    | with_reducible first
        | assumption | (intro _)
    | (extract_lets +onlyGivenNames x; first
      | (refine Only.cut (m := μ) (a := σ) (x := x) ?_ (fun hx => ?_); (on_goal 1 => subst x); (on_goal 2 => (clear_value x; rename' x => x')))
      | (clear_value x; rename' x => x'))
    | with_reducible first
        | apply modChan_writes | apply count_writes | apply monitorCount_writes | apply filterEvent_writes
        | apply corrEnter_writes | apply log_writes | apply queueScrub_writes | apply Only.ite | apply Only.foldl
    | split)

theorem readCw_writes {μ : Writes} {σ : State} (ch : ℕ) (a : ℕ) (kind : ReadKind) (raw : Codeword) (rm : Option (BitVec 64 ×
    Bool)) (s : State) (h : Only μ σ s) (wfreeNo : μ.freeNo = true) (wchans : μ.chans = true) (wflt : μ.flt = true) (wcnt :
    μ.cnt = true) :
    OnlyP μ σ (State.readCw ch a kind raw rm s) := by
  unfold State.readCw
  (repeat' first
    | with_reducible assumption
    | (extract_lets +onlyGivenNames x; first
      | (refine Only.cut (m := μ) (a := σ) (x := x) ?_ (fun hx => ?_); (on_goal 1 => subst x); (on_goal 2 => (clear_value x; rename' x => x')))
      | (clear_value x; rename' x => x'))
    | with_reducible first
        | apply transfer_writes | apply countUp_writes | apply noteDecode_writes
    | split
    | with_reducible apply OnlyP.mk
    | refine OnlyP.of_eq (by assumption) ?_)

theorem readRaw_writes {μ : Writes} {σ : State} (ch : ℕ) (a : ℕ) (kind : ReadKind) (raw : List Codeword) (rm : List (Option
    (BitVec 64 × Bool))) (noise : List Codeword) (s : State) (h : Only μ σ s) (wfreeNo : μ.freeNo = true) (wchans : μ.chans =
    true) (wflt : μ.flt = true) (wcnt : μ.cnt = true) :
    OnlyP μ σ (State.readRaw ch a kind raw rm noise s) := by
  unfold State.readRaw
  (repeat' first
    | with_reducible first
        | assumption | (intro _)
    | (extract_lets +onlyGivenNames x; refine OnlyP.cut (m := μ) (a := σ) (x := x) ?_ (fun hx => ?_); (on_goal 1 => subst x); (on_goal 2 => (clear_value x; rename' x => x')))
    | with_reducible first
        | apply readCw_writes | apply count_writes | apply OnlyP.foldl | apply OnlyP.snd | apply OnlyP.mk)

theorem readGranule_writes {μ : Writes} {σ : State} (ch : ℕ) (a : ℕ) (kind : ReadKind) (noise : List Codeword) (s : State) (h
    : Only μ σ s) (wfreeNo : μ.freeNo = true) (wchans : μ.chans = true) (wflt : μ.flt = true) (wcnt : μ.cnt = true) :
    OnlyP μ σ (State.readGranule ch a kind noise s) := by
  unfold State.readGranule
  (repeat' with_reducible first
      | assumption | apply readRaw_writes)

theorem sent_writes {μ : Writes} {σ : State} (ch : ℕ) (r : CmdRec) (s : State) (h : Only μ σ s) (wchans : μ.chans = true) :
    Only μ σ (State.sent ch r s) := by
  unfold State.sent
  (repeat' with_reducible first
      | assumption | apply modChan_writes)

theorem fly_writes {μ : Writes} {σ : State} (ch : ℕ) (addr : ℕ) (issue : ℕ) (r : Reader) (s : State) (h : Only μ σ s) (wchans
    : μ.chans = true) :
    Only μ σ (State.fly ch addr issue r s) := by
  unfold State.fly
  (repeat' first
    | with_reducible assumption
    | (extract_lets +onlyGivenNames x; clear_value x; rename' x => x')
    | with_reducible first
        | apply modChan_writes | apply sent_writes)

theorem writeCw_writes {μ : Writes} {σ : State} (ch : ℕ) (a : ℕ) (c : Codeword) (s : State) (h : Only μ σ s) (wfreeNo :
    μ.freeNo = true) (wchans : μ.chans = true) (wdram : μ.dram = true) :
    Only μ σ (State.writeCw ch a c s) := by
  unfold State.writeCw
  (repeat' with_reducible first
      | assumption | apply transfer_writes | apply modChan_writes | apply putCell_writes | apply countDown_writes
      | apply OnlyP.snd)

theorem writeGranule_writes {μ : Writes} {σ : State} (ch : ℕ) (t : ℕ) (a : ℕ) (cs : List Codeword) (s : State) (h : Only μ σ
    s) (wfreeNo : μ.freeNo = true) (wchans : μ.chans = true) (wdram : μ.dram = true) (wflt : μ.flt = true) (wcnt : μ.cnt =
    true) :
    Only μ σ (State.writeGranule ch t a cs s) := by
  unfold State.writeGranule
  (repeat' first
    | with_reducible first
        | assumption | (intro _)
    | (extract_lets +onlyGivenNames x; refine Only.cut (m := μ) (a := σ) (x := x) ?_ (fun hx => ?_); (on_goal 1 => subst x); (on_goal 2 => (clear_value x; rename' x => x')))
    | with_reducible first
        | apply sent_writes | apply modChan_writes | apply count_writes | apply writeCw_writes | apply Only.foldl)

theorem opened_writes {μ : Writes} {σ : State} (ch : ℕ) (t : ℕ) (s : State) (h : Only μ σ s) (wchans : μ.chans = true) :
    Only μ σ (State.opened ch t s) := by
  unfold State.opened
  (repeat' with_reducible first
      | assumption | apply modChan_writes)

theorem undoWrite_writes {μ : Writes} {σ : State} (ch : ℕ) (r : CmdRec) (s : State) (h : Only μ σ s) (wchans : μ.chans = true)
    (wdram : μ.dram = true) :
    Only μ σ (State.undoWrite ch r s) := by
  unfold State.undoWrite
  (repeat' first
    | with_reducible first
        | assumption | (intro _)
    | (extract_lets +onlyGivenNames x; refine Only.cut (m := μ) (a := σ) (x := x) ?_ (fun hx => ?_); (on_goal 1 => subst x); (on_goal 2 => (clear_value x; rename' x => x')))
    | with_reducible first
        | apply putCell_writes | apply modChan_writes | apply Only.foldl)

theorem zeroCells_writes {μ : Writes} {σ : State} (ch : ℕ) (lo : ℕ) (n : ℕ) (s : State) (h : Only μ σ s) (wfreeNo : μ.freeNo =
    true) (wchans : μ.chans = true) (wdram : μ.dram = true) :
    Only μ σ (State.zeroCells ch lo n s) := by
  unfold State.zeroCells
  exact modChan_writes _ _ _ (upd_freeNo_dram h wfreeNo wdram) wchans

theorem zeroChannel_writes {μ : Writes} {σ : State} (ch : ℕ) (s : State) (h : Only μ σ s) (wfreeNo : μ.freeNo = true) (wchans
    : μ.chans = true) (wdram : μ.dram = true) :
    Only μ σ (State.zeroChannel ch s) := by
  unfold State.zeroChannel
  exact modChan_writes _ _ _ (upd_freeNo_dram h wfreeNo wdram) wchans

end Sys2Proof.Laws
end

