-- ==== Sys2Proof/Laws/OnlyCapture.lean ====
section
/-! SUPPORT. What the operations of Machine/Capture.lean may write. -/

set_option linter.unusedTactic false
set_option linter.unreachableTactic false
set_option linter.unusedVariables false
set_option linter.tactic.unusedName false

namespace Sys2Proof.Laws

open Sys2Proof Sys2Proof.Machine

theorem modCap_writes {μ : Writes} {σ : State} (ch : ℕ) (f : Capture → Capture) (s : State) (h : Only μ σ s) (wchans : μ.chans
    = true) :
    Only μ σ (State.modCap ch f s) := by
  unfold State.modCap
  (repeat' with_reducible first
      | assumption | apply modChan_writes)

theorem consume_writes {μ : Writes} {σ : State} (ch : ℕ) (ival : ℕ) (s : State) (h : Only μ σ s) (wchans : μ.chans = true) :
    Only μ σ (State.consume ch ival s) := by
  unfold State.consume
  (repeat' with_reducible first
      | assumption | apply modCap_writes)

theorem inputLoss_writes {μ : Writes} {σ : State} (ch : ℕ) (ival : ℕ) (s : State) (h : Only μ σ s) (wchans : μ.chans = true) :
    Only μ σ (State.inputLoss ch ival s) := by
  unfold State.inputLoss
  (repeat' with_reducible first
      | assumption | apply modCap_writes)

theorem reject_writes {μ : Writes} {σ : State} (ch : ℕ) (reason : ℕ) (addr : ℕ) (ival : ℕ) (s : State) (h : Only μ σ s)
    (wchans : μ.chans = true) (wflt : μ.flt = true) (wcnt : μ.cnt = true) :
    Only μ σ (State.reject ch reason addr ival s) := by
  unfold State.reject
  (repeat' first
    | with_reducible assumption
    | (extract_lets +onlyGivenNames x; refine Only.cut (m := μ) (a := σ) (x := x) ?_ (fun hx => ?_); (on_goal 1 => subst x); (on_goal 2 => (clear_value x; rename' x => x')))
    | with_reducible first
        | apply modCap_writes | apply inputLoss_writes | apply count_writes | apply log_writes)

theorem sendFwd_writes {μ : Writes} {σ : State} (ch : ℕ) (f : Fwd) (s : State) (h : Only μ σ s) (wflt : μ.flt = true) (wcnt :
    μ.cnt = true) (wtor : μ.tor = true) (wout : μ.out = true) :
    Only μ σ (State.sendFwd ch f s) := by
  unfold State.sendFwd
  (repeat' with_reducible first
      | assumption | apply sendPacket_writes)

theorem forward_writes {μ : Writes} {σ : State} (ch : ℕ) (addr : ℕ) (ival : ℕ) (r : Option CapRec) (counted : Bool) (s :
    State) (h : Only μ σ s) (wchans : μ.chans = true) (wflt : μ.flt = true) (wcnt : μ.cnt = true) (wtor : μ.tor = true) (wout
    : μ.out = true) :
    Only μ σ (State.forward ch addr ival r counted s) := by
  unfold State.forward
  (repeat' first
    | with_reducible assumption
    | (extract_lets +onlyGivenNames x; first
      | (refine Only.cut (m := μ) (a := σ) (x := x) ?_ (fun hx => ?_); (on_goal 1 => subst x); (on_goal 2 => (clear_value x; rename' x => x')))
      | (clear_value x; rename' x => x'))
    | with_reducible first
        | apply count_writes | apply consume_writes | apply reject_writes | apply modCap_writes | apply inputLoss_writes
        | apply sendFwd_writes | apply Only.ite
    | split)

theorem modMerge_writes {μ : Writes} {σ : State} (ch : ℕ) (id : ℕ) (f : Merge → Merge) (s : State) (h : Only μ σ s) (wchans :
    μ.chans = true) :
    Only μ σ (State.modMerge ch id f s) := by
  unfold State.modMerge
  (repeat' with_reducible first
      | assumption | apply modCap_writes)

theorem bindMerge_writes {μ : Writes} {σ : State} (ch : ℕ) (id : ℕ) (s : State) (h : Only μ σ s) (wchans : μ.chans = true)
    (wflt : μ.flt = true) (wcnt : μ.cnt = true) (wtor : μ.tor = true) (wout : μ.out = true) :
    Only μ σ (State.bindMerge ch id s) := by
  unfold State.bindMerge
  (repeat' first
    | with_reducible assumption
    | (extract_lets +onlyGivenNames x; first
      | (refine Only.cut (m := μ) (a := σ) (x := x) ?_ (fun hx => ?_); (on_goal 1 => subst x); (on_goal 2 => (clear_value x; rename' x => x')))
      | (clear_value x; rename' x => x'))
    | with_reducible first
        | apply modMerge_writes | apply count_writes | apply consume_writes | apply modCap_writes | apply reject_writes
        | apply inputLoss_writes | apply forward_writes | apply Only.ite
    | split)

theorem mergeData_writes {μ : Writes} {σ : State} (ch : ℕ) (id : ℕ) (ds : List Decoded) (s : State) (h : Only μ σ s) (wchans :
    μ.chans = true) (wflt : μ.flt = true) (wcnt : μ.cnt = true) (wtor : μ.tor = true) (wout : μ.out = true) :
    Only μ σ (State.mergeData ch id ds s) := by
  unfold State.mergeData
  (repeat' first
    | with_reducible assumption
    | (extract_lets +onlyGivenNames x; first
      | (refine Only.cut (m := μ) (a := σ) (x := x) ?_ (fun hx => ?_); (on_goal 1 => subst x); (on_goal 2 => (clear_value x; rename' x => x')))
      | (clear_value x; rename' x => x'))
    | with_reducible first
        | apply bindMerge_writes | apply count_writes | apply modMerge_writes | apply Only.ite
    | split)

theorem mergeWrite_writes {μ : Writes} {σ : State} (ch : ℕ) (t : ℕ) (m : Merge) (s : State) (h : Only μ σ s) (wfreeNo :
    μ.freeNo = true) (wchans : μ.chans = true) (wdram : μ.dram = true) (wflt : μ.flt = true) (wcnt : μ.cnt = true) :
    Only μ σ (State.mergeWrite ch t m s) := by
  unfold State.mergeWrite
  (repeat' first
    | with_reducible assumption
    | (extract_lets +onlyGivenNames x; refine Only.cut (m := μ) (a := σ) (x := x) ?_ (fun hx => ?_); (on_goal 1 => subst x); (on_goal 2 => (clear_value x; rename' x => x')))
    | with_reducible first
        | apply modCap_writes | apply modMerge_writes | apply writeGranule_writes | apply Only.ite
    | split)

theorem writeHalf_writes {μ : Writes} {σ : State} (ch : ℕ) (t : ℕ) (s : State) (h : Only μ σ s) (wfreeNo : μ.freeNo = true)
    (wchans : μ.chans = true) (wdram : μ.dram = true) (wflt : μ.flt = true) (wcnt : μ.cnt = true) :
    Only μ σ (State.writeHalf ch t s) := by
  unfold State.writeHalf
  (repeat' first
    | with_reducible assumption
    | (extract_lets +onlyGivenNames x; refine Only.cut (m := μ) (a := σ) (x := x) ?_ (fun hx => ?_); (on_goal 1 => subst x); (on_goal 2 => (clear_value x; rename' x => x')))
    | with_reducible first
        | apply mergeWrite_writes | apply modChan_writes | apply modMerge_writes | apply modCap_writes | apply Only.ite
    | split)

theorem cancelMerges_writes {μ : Writes} {σ : State} (ch : ℕ) (g : ℕ) (t : ℕ) (s : State) (h : Only μ σ s) (wchans : μ.chans =
    true) :
    Only μ σ (State.cancelMerges ch g t s) := by
  unfold State.cancelMerges
  (repeat' with_reducible first
      | assumption | apply modCap_writes)

theorem pushMerge_writes {μ : Writes} {σ : State} (ch : ℕ) (m : ℕ → Merge) (s : State) (h : Only μ σ s) (wchans : μ.chans =
    true) :
    OnlyP μ σ (State.pushMerge ch m s) := by
  unfold State.pushMerge
  (repeat' first
    | with_reducible assumption
    | (extract_lets +onlyGivenNames x; clear_value x; rename' x => x')
    | with_reducible first
        | apply modCap_writes | apply OnlyP.mk)

theorem addressed_writes {μ : Writes} {σ : State} (ch : ℕ) (w0 : Option Word) (w1 : Option Word) (mask : List Word) (unknown :
    Bool) (t : ℕ) (s : State) (h : Only μ σ s) (wfreeNo : μ.freeNo = true) (wchans : μ.chans = true) (wflt : μ.flt = true)
    (wcnt : μ.cnt = true) :
    OnlyP μ σ (State.addressed ch w0 w1 mask unknown t s) := by
  unfold State.addressed
  (repeat' first
    | with_reducible assumption
    | (extract_lets +onlyGivenNames x; first
      | (refine Only.cut (m := μ) (a := σ) (x := x) ?_ (fun hx => ?_); (on_goal 1 => subst x); (on_goal 2 => (clear_value x; rename' x => x')))
      | (clear_value x; rename' x => x'))
    | with_reducible first
        | apply reject_writes | apply modCap_writes | apply inputLoss_writes | apply count_writes | apply consume_writes
        | apply Only.ite | apply OnlyP.ite
    | split
    | with_reducible first
        | apply OnlyP.mk | apply upd_freeNo)

theorem bindTemplate_writes {μ : Writes} {σ : State} (ch : ℕ) (t : ℕ) (open_ : ℕ → Bool) (s : State) (h : Only μ σ s) (wchans
    : μ.chans = true) (wflt : μ.flt = true) (wcnt : μ.cnt = true) :
    OnlyP μ σ (State.bindTemplate ch t open_ s) := by
  unfold State.bindTemplate
  (repeat' first
    | with_reducible first
        | assumption | (intro _)
    | (extract_lets +onlyGivenNames x; first
      | (refine Only.cut (m := μ) (a := σ) (x := x) ?_ (fun hx => ?_); (on_goal 1 => subst x); (on_goal 2 => (clear_value x; rename' x => x')))
      | (clear_value x; rename' x => x'))
    | with_reducible first
        | apply modCap_writes | apply reject_writes | apply Only.foldl | apply OnlyP.mk)

theorem scheduledRecord_writes {μ : Writes} {σ : State} (ch : ℕ) (g : ℕ) (ws : List (Option Word)) (t : ℕ) (s : State) (h :
    Only μ σ s) (wchans : μ.chans = true) :
    Only μ σ (State.scheduledRecord ch g ws t s) := by
  unfold State.scheduledRecord
  (repeat' first
    | with_reducible assumption
    | (extract_lets +onlyGivenNames x; first
      | (refine Only.cut (m := μ) (a := σ) (x := x) ?_ (fun hx => ?_); (on_goal 1 => subst x); (on_goal 2 => (clear_value x; rename' x => x')))
      | (clear_value x; rename' x => x'))
    | with_reducible first
        | apply modCap_writes | apply Only.ite)

theorem execRecordComplete_writes {μ : Writes} {σ : State} (ch : ℕ) (group : ℕ) (hit : StoreHit) (s : State) (h : Only μ σ s)
    (wfreeNo : μ.freeNo = true) (wchans : μ.chans = true) (wflt : μ.flt = true) (wcnt : μ.cnt = true) :
    OnlyR μ σ (execRecordComplete ch group hit s) := by
  unfold execRecordComplete
  (repeat' first
    | with_reducible assumption
    | (extract_lets +onlyGivenNames x; first
      | (refine Only.cut (m := μ) (a := σ) (x := x) ?_ (fun hx => ?_); (on_goal 1 => subst x); (on_goal 2 => (clear_value x; rename' x => x')))
      | (clear_value x; rename' x => x'))
    | with_reducible first
        | apply modCap_writes | apply storeHit_writes | apply scheduledRecord_writes | apply addressed_writes
        | apply OnlyR.ite | apply OnlyR.next | apply OnlyP.snd)

theorem modAna_writes {μ : Writes} {σ : State} (ch : ℕ) (f : Analysis → Analysis) (s : State) (h : Only μ σ s) (wchans :
    μ.chans = true) :
    Only μ σ (State.modAna ch f s) := by
  unfold State.modAna
  (repeat' with_reducible first
      | assumption | apply modChan_writes)

theorem anaData_writes {μ : Writes} {σ : State} (ch : ℕ) (p : ℕ) (idx : ℕ) (issue : ℕ) (v : Option (BitVec 256)) (s : State)
    (h : Only μ σ s) (wchans : μ.chans = true) :
    Only μ σ (State.anaData ch p idx issue v s) := by
  unfold State.anaData
  (repeat' with_reducible first
      | assumption | apply modChan_writes | apply Only.ite)

theorem anaRead_writes {μ : Writes} {σ : State} (ch : ℕ) (addr : ℕ) (p : ℕ) (idx : ℕ) (before : ℕ) (issue : ℕ) (ds : List
    Decoded) (s : State) (h : Only μ σ s) (wchans : μ.chans = true) :
    Only μ σ (State.anaRead ch addr p idx before issue ds s) := by
  unfold State.anaRead
  (repeat' first
    | with_reducible assumption
    | (extract_lets +onlyGivenNames x; clear_value x; rename' x => x')
    | with_reducible apply anaData_writes)

end Sys2Proof.Laws
end

