-- ==== Sys2Proof/Laws/OnlySource.lean ====
section
/-! SUPPORT. What the operations of Machine/Source.lean may write. -/

set_option linter.unusedTactic false
set_option linter.unreachableTactic false
set_option linter.unusedVariables false
set_option linter.tactic.unusedName false

namespace Sys2Proof.Laws

open Sys2Proof Sys2Proof.Machine

theorem modGroup_writes {μ : Writes} {σ : State} (rx : Bool) (g : ℕ) (f : LaneGroup → LaneGroup) (s : State) (h : Only μ σ s)
    (wlanes : μ.lanes = true) :
    Only μ σ (State.modGroup rx g f s) := by
  unfold State.modGroup
  (repeat' first
    | with_reducible assumption
    | (extract_lets +onlyGivenNames x; clear_value x; rename' x => x')
    | split
    | with_reducible apply upd_lanes)

theorem notice_writes {μ : Writes} {σ : State} (g : ℕ) (w : Word) (s : State) (h : Only μ σ s) (wlanes : μ.lanes = true) :
    Only μ σ (State.notice g w s) := by
  unfold State.notice
  (repeat' with_reducible first
      | assumption | apply modGroup_writes)

theorem tierNotice_writes {μ : Writes} {σ : State} (ch : ℕ) (tier : ℕ) (inForce : Bool) (s : State) (h : Only μ σ s) (wlanes :
    μ.lanes = true) :
    Only μ σ (State.tierNotice ch tier inForce s) := by
  unfold State.tierNotice
  (repeat' with_reducible first
      | assumption | (intro _) | apply notice_writes | apply Only.ite | apply Only.foldl)

theorem modSrc_writes {μ : Writes} {σ : State} (ch : ℕ) (f : Source → Source) (s : State) (h : Only μ σ s) (wchans : μ.chans =
    true) :
    Only μ σ (State.modSrc ch f s) := by
  unfold State.modSrc
  (repeat' with_reducible first
      | assumption | apply modChan_writes)

theorem modSrcGroup_writes {μ : Writes} {σ : State} (ch : ℕ) (g : ℕ) (f : SrcGroup → SrcGroup) (s : State) (h : Only μ σ s)
    (wchans : μ.chans = true) :
    Only μ σ (State.modSrcGroup ch g f s) := by
  unfold State.modSrcGroup
  (repeat' with_reducible first
      | assumption | apply modSrc_writes)

theorem leaveGran_writes {μ : Writes} {σ : State} (ch : ℕ) (deadline : Option ℕ) (x : SrcGran) (s : State) (h : Only μ σ s)
    (wchans : μ.chans = true) (wflt : μ.flt = true) (wcnt : μ.cnt = true) :
    Only μ σ (State.leaveGran ch deadline x s) := by
  unfold State.leaveGran
  (repeat' first
    | with_reducible assumption
    | (extract_lets +onlyGivenNames x; refine Only.cut (m := μ) (a := σ) (x := x) ?_ (fun hx => ?_); (on_goal 1 => subst x); (on_goal 2 => (clear_value x; rename' x => x')))
    | with_reducible first
        | apply count_writes | apply modSrc_writes | apply Only.ite)

theorem sweepGrans_writes {μ : Writes} {σ : State} (ch : ℕ) (g : ℕ) (deadline : Option ℕ) (s : State) (h : Only μ σ s) (wchans
    : μ.chans = true) (wflt : μ.flt = true) (wcnt : μ.cnt = true) :
    Only μ σ (State.sweepGrans ch g deadline s) := by
  unfold State.sweepGrans
  (repeat' first
    | with_reducible first
        | assumption | (intro _)
    | (extract_lets +onlyGivenNames x; first
      | (refine Only.cut (m := μ) (a := σ) (x := x) ?_ (fun hx => ?_); (on_goal 1 => subst x); (on_goal 2 => (clear_value x; rename' x => x')))
      | (clear_value x; rename' x => x'))
    | with_reducible first
        | apply modSrcGroup_writes | apply leaveGran_writes | apply Only.foldl)

theorem dropGran_writes {μ : Writes} {σ : State} (ch : ℕ) (g : ℕ) (id : ℕ) (s : State) (h : Only μ σ s) (wchans : μ.chans =
    true) :
    Only μ σ (State.dropGran ch g id s) := by
  unfold State.dropGran
  (repeat' with_reducible first
      | assumption | apply modSrc_writes | apply modSrcGroup_writes | apply Only.ite)

theorem settleMarks_writes {μ : Writes} {σ : State} (ch : ℕ) (g : ℕ) (s : State) (h : Only μ σ s) (wchans : μ.chans = true) :
    Only μ σ (State.settleMarks ch g s) := by
  unfold State.settleMarks
  (repeat' first
    | with_reducible assumption
    | (extract_lets +onlyGivenNames x; clear_value x; rename' x => x')
    | with_reducible first
        | apply modChan_writes | apply modSrcGroup_writes | apply Only.ite)

theorem srcEvents_writes {μ : Writes} {σ : State} (ch : ℕ) (g : ℕ) (e : SrcEvents) (s : State) (h : Only μ σ s) (wchans :
    μ.chans = true) (wflt : μ.flt = true) (wcnt : μ.cnt = true) :
    Only μ σ (State.srcEvents ch g e s) := by
  unfold State.srcEvents
  (repeat' first
    | with_reducible first
        | assumption | (intro _)
    | (extract_lets +onlyGivenNames x; refine Only.cut (m := μ) (a := σ) (x := x) ?_ (fun hx => ?_); (on_goal 1 => subst x); (on_goal 2 => (clear_value x; rename' x => x')))
    | with_reducible first
        | apply dropGran_writes | apply log_writes | apply logAt_writes | apply sweepGrans_writes | apply settleMarks_writes
        | apply Only.ite | apply Only.foldl)

theorem srcPrep_writes {μ : Writes} {σ : State} (y0 : ℕ) (y1 : ℕ) (y2 : ℕ) (y3 : State) (h : Only μ σ y3) (wchans : μ.chans =
    true) (wflt : μ.flt = true) (wcnt : μ.cnt = true) :
    Only μ σ (State.srcPrep y0 y1 y2 y3) := by
  induction y0 generalizing y1 y2 y3 with
  | zero =>
    unfold State.srcPrep
    with_reducible assumption
  | succ n ih =>
    unfold State.srcPrep
    (repeat' first
      | with_reducible assumption
      | (extract_lets +onlyGivenNames x; clear_value x; rename' x => x')
      | with_reducible first
          | apply srcEvents_writes | apply modSrcGroup_writes | apply ih
      | split)

theorem srcExpand_writes {μ : Writes} {σ : State} (ch : ℕ) (g : ℕ) (s : State) (h : Only μ σ s) (wchans : μ.chans = true)
    (wflt : μ.flt = true) (wcnt : μ.cnt = true) :
    Only μ σ (State.srcExpand ch g s) := by
  unfold State.srcExpand
  (repeat' with_reducible first
      | assumption | apply srcPrep_writes)

theorem releaseWord_writes {μ : Writes} {σ : State} (ch : ℕ) (g : ℕ) (s : State) (h : Only μ σ s) (wchans : μ.chans = true)
    (wflt : μ.flt = true) (wcnt : μ.cnt = true) (wlanes : μ.lanes = true) :
    Only μ σ (State.releaseWord ch g s) := by
  unfold State.releaseWord
  (repeat' first
    | with_reducible assumption
    | (extract_lets +onlyGivenNames x; first
      | (refine Only.cut (m := μ) (a := σ) (x := x) ?_ (fun hx => ?_); (on_goal 1 => subst x); (on_goal 2 => (clear_value x; rename' x => x')))
      | (clear_value x; rename' x => x'))
    | with_reducible first
        | apply modGroup_writes | apply count_writes | apply modSrc_writes | apply log_writes | apply sweepGrans_writes
        | apply modSrcGroup_writes | apply Only.ite
    | split)

theorem execWordRelease_writes {μ : Writes} {σ : State} (ch : ℕ) (group : ℕ) (s : State) (h : Only μ σ s) (wchans : μ.chans =
    true) (wflt : μ.flt = true) (wcnt : μ.cnt = true) (wlanes : μ.lanes = true) :
    OnlyR μ σ (execWordRelease ch group s) := by
  unfold execWordRelease
  (repeat' with_reducible first
      | assumption | apply releaseWord_writes | apply srcExpand_writes | apply OnlyR.ite | apply OnlyR.next)

theorem overflow_writes {μ : Writes} {σ : State} (ch : ℕ) (g : ℕ) (id : ℕ) (s : State) (h : Only μ σ s) (wchans : μ.chans =
    true) (wflt : μ.flt = true) (wcnt : μ.cnt = true) :
    Only μ σ (State.overflow ch g id s) := by
  unfold State.overflow
  (repeat' with_reducible first
      | assumption | apply log_writes | apply dropGran_writes)

theorem srcRead_writes {μ : Writes} {σ : State} (ch : ℕ) (w : Word) (sched : ℕ) (issued : Bool) (s : State) (h : Only μ σ s)
    (wchans : μ.chans = true) (wflt : μ.flt = true) (wcnt : μ.cnt = true) :
    OnlyP μ σ (State.srcRead ch w sched issued s) := by
  unfold State.srcRead
  (repeat' first
    | with_reducible assumption
    | (extract_lets +onlyGivenNames x; first
      | (refine Only.cut (m := μ) (a := σ) (x := x) ?_ (fun hx => ?_); (on_goal 1 => subst x); (on_goal 2 => (clear_value x; rename' x => x')))
      | (clear_value x; rename' x => x'))
    | with_reducible first
        | apply modSrc_writes | apply modSrcGroup_writes | apply overflow_writes | apply srcExpand_writes | apply Only.ite
        | apply OnlyP.mk)

theorem srcIssue_writes {μ : Writes} {σ : State} (ch : ℕ) (g : ℕ) (id : ℕ) (s : State) (h : Only μ σ s) (wchans : μ.chans =
    true) (wflt : μ.flt = true) (wcnt : μ.cnt = true) :
    Only μ σ (State.srcIssue ch g id s) := by
  unfold State.srcIssue
  (repeat' first
    | with_reducible assumption
    | (extract_lets +onlyGivenNames x; first
      | (refine Only.cut (m := μ) (a := σ) (x := x) ?_ (fun hx => ?_); (on_goal 1 => subst x); (on_goal 2 => (clear_value x; rename' x => x')))
      | (clear_value x; rename' x => x'))
    | with_reducible first
        | apply modSrcGroup_writes | apply srcExpand_writes | apply overflow_writes | apply Only.ite)

theorem srcData_writes {μ : Writes} {σ : State} (ch : ℕ) (g : ℕ) (id : ℕ) (issue : ℕ) (ds : List Decoded) (s : State) (h :
    Only μ σ s) (wchans : μ.chans = true) (wflt : μ.flt = true) (wcnt : μ.cnt = true) :
    Only μ σ (State.srcData ch g id issue ds s) := by
  unfold State.srcData
  (repeat' first
    | with_reducible assumption
    | (extract_lets +onlyGivenNames x; first
      | (refine Only.cut (m := μ) (a := σ) (x := x) ?_ (fun hx => ?_); (on_goal 1 => subst x); (on_goal 2 => (clear_value x; rename' x => x')))
      | (clear_value x; rename' x => x'))
    | with_reducible first
        | apply modSrcGroup_writes | apply dropGran_writes | apply srcExpand_writes | apply Only.ite)

theorem endPanic_writes {μ : Writes} {σ : State} (ch : ℕ) (s : State) (h : Only μ σ s) (wchans : μ.chans = true) (wflt : μ.flt
    = true) (wcnt : μ.cnt = true) :
    Only μ σ (State.endPanic ch s) := by
  unfold State.endPanic
  (repeat' first
    | with_reducible assumption
    | (extract_lets +onlyGivenNames x; clear_value x; rename' x => x')
    | with_reducible first
        | apply log_writes | apply modSrc_writes | apply Only.ite)

theorem updatePanic_writes {μ : Writes} {σ : State} (ch : ℕ) (s : State) (h : Only μ σ s) (wchans : μ.chans = true) (wflt :
    μ.flt = true) (wcnt : μ.cnt = true) :
    Only μ σ (State.updatePanic ch s) := by
  unfold State.updatePanic
  (repeat' first
    | with_reducible assumption
    | (extract_lets +onlyGivenNames x; first
      | (refine Only.cut (m := μ) (a := σ) (x := x) ?_ (fun hx => ?_); (on_goal 1 => subst x); (on_goal 2 => (clear_value x; rename' x => x')))
      | (clear_value x; rename' x => x'))
    | with_reducible first
        | apply modSrc_writes | apply endPanic_writes | apply Only.ite
    | split)

theorem stopStreams_writes {μ : Writes} {σ : State} (ch : ℕ) (s : State) (h : Only μ σ s) (wchans : μ.chans = true) (wflt :
    μ.flt = true) (wcnt : μ.cnt = true) :
    Only μ σ (State.stopStreams ch s) := by
  unfold State.stopStreams
  (repeat' first
    | with_reducible first
        | assumption | (intro _)
    | (extract_lets +onlyGivenNames x; refine Only.cut (m := μ) (a := σ) (x := x) ?_ (fun hx => ?_); (on_goal 1 => subst x); (on_goal 2 => (clear_value x; rename' x => x')))
    | with_reducible first
        | apply modSrc_writes | apply srcExpand_writes | apply sweepGrans_writes | apply Only.foldl)

end Sys2Proof.Laws
end

