-- ==== Sys2Proof/Laws/OnlyCrc.lean ====
section
/-! SUPPORT. What the operations of Machine/Crc.lean may write. -/

set_option linter.unusedTactic false
set_option linter.unreachableTactic false
set_option linter.unusedVariables false
set_option linter.tactic.unusedName false

namespace Sys2Proof.Laws

open Sys2Proof Sys2Proof.Machine

theorem modCrc_writes {μ : Writes} {σ : State} (u : ℕ) (f : Crc → Crc) (s : State) (h : Only μ σ s) (wcnt : μ.cnt = true) :
    Only μ σ (State.modCrc u f s) := by
  unfold State.modCrc
  (repeat' first
    | with_reducible assumption
    | (extract_lets +onlyGivenNames x; clear_value x; rename' x => x')
    | with_reducible apply upd_cnt)

theorem inlineJob_writes {μ : Writes} {σ : State} (ok : Bool) (res : ℕ) (s : State) (h : Only μ σ s) (wcnt : μ.cnt = true) :
    Only μ σ (State.inlineJob ok res s) := by
  unfold State.inlineJob
  (repeat' with_reducible first
      | assumption | apply modCrc_writes)

theorem abandonCrc_writes {μ : Writes} {σ : State} (f : Crc → Bool) (s : State) (h : Only μ σ s) (wflt : μ.flt = true) (wcnt :
    μ.cnt = true) :
    Only μ σ (State.abandonCrc f s) := by
  unfold State.abandonCrc
  (repeat' with_reducible first
      | assumption | (intro _) | apply log_writes | apply modCrc_writes | apply Only.ite | apply Only.foldl)

end Sys2Proof.Laws
end

