-- ==== Sys2Proof/Laws/OnlyDirect.lean ====
section
/-! SUPPORT. What the operations of Machine/Direct.lean may write. -/

set_option linter.unusedTactic false
set_option linter.unreachableTactic false
set_option linter.unusedVariables false
set_option linter.tactic.unusedName false

namespace Sys2Proof.Laws

open Sys2Proof Sys2Proof.Machine

theorem makeupOp_writes {μ : Writes} {σ : State} (ch : ℕ) (t : ℕ) (tw : ℕ) (m : MakeUp) (s : State) (h : Only μ σ s) (wfreeNo
    : μ.freeNo = true) (wchans : μ.chans = true) (wdram : μ.dram = true) (wflt : μ.flt = true) (wcnt : μ.cnt = true) :
    Only μ σ (State.makeupOp ch t tw m s) := by
  unfold State.makeupOp
  (repeat' first
    | with_reducible assumption
    | (extract_lets +onlyGivenNames x; refine Only.cut (m := μ) (a := σ) (x := x) ?_ (fun hx => ?_); (on_goal 1 => subst x); (on_goal 2 => (clear_value x; rename' x => x')))
    | with_reducible first
        | apply modChan_writes | apply count_writes | apply opened_writes | apply modCap_writes | apply mergeWrite_writes
        | apply fly_writes | apply srcIssue_writes | apply modMerge_writes | apply writeGranule_writes
    | split)

theorem checkLate_writes {μ : Writes} {σ : State} (ch : ℕ) (s : State) (h : Only μ σ s) (wchans : μ.chans = true) (wflt :
    μ.flt = true) (wcnt : μ.cnt = true) :
    Only μ σ (State.checkLate ch s) := by
  unfold State.checkLate
  (repeat' first
    | with_reducible assumption
    | (extract_lets +onlyGivenNames x; clear_value x; rename' x => x')
    | with_reducible first
        | apply log_writes | apply modChan_writes | apply Only.ite)

theorem scrubPoisoned_writes {μ : Writes} {σ : State} (ch : ℕ) (a : ℕ) (s : State) (h : Only μ σ s) (wchans : μ.chans = true)
    (wflt : μ.flt = true) (wcnt : μ.cnt = true) :
    Only μ σ (State.scrubPoisoned ch a s) := by
  unfold State.scrubPoisoned
  (repeat' first
    | with_reducible assumption
    | (extract_lets +onlyGivenNames x; first
      | (refine Only.cut (m := μ) (a := σ) (x := x) ?_ (fun hx => ?_); (on_goal 1 => subst x); (on_goal 2 => (clear_value x; rename' x => x')))
      | (clear_value x; rename' x => x'))
    | with_reducible first
        | apply log_writes | apply modChan_writes | apply corrEnter_writes)

theorem scrubRewrite_writes {μ : Writes} {σ : State} (ch : ℕ) (t : ℕ) (g : ℕ) (ws : List Codeword) (s : State) (h : Only μ σ
    s) (wfreeNo : μ.freeNo = true) (wchans : μ.chans = true) (wdram : μ.dram = true) (wflt : μ.flt = true) (wcnt : μ.cnt =
    true) :
    Only μ σ (State.scrubRewrite ch t g ws s) := by
  unfold State.scrubRewrite
  (repeat' first
    | with_reducible assumption
    | (extract_lets +onlyGivenNames x; refine Only.cut (m := μ) (a := σ) (x := x) ?_ (fun hx => ?_); (on_goal 1 => subst x); (on_goal 2 => (clear_value x; rename' x => x')))
    | with_reducible first
        | apply modChan_writes | apply count_writes | apply writeGranule_writes)

theorem visit_writes {μ : Writes} {σ : State} (ch : ℕ) (i : ℕ) (s : State) (h : Only μ σ s) (wchans : μ.chans = true) (wflt :
    μ.flt = true) (wcnt : μ.cnt = true) :
    Only μ σ (State.visit ch i s) := by
  unfold State.visit
  (repeat' first
    | with_reducible assumption
    | (extract_lets +onlyGivenNames x; first
      | (refine Only.cut (m := μ) (a := σ) (x := x) ?_ (fun hx => ?_); (on_goal 1 => subst x); (on_goal 2 => (clear_value x; rename' x => x')))
      | (clear_value x; rename' x => x'))
    | with_reducible first
        | apply checkLate_writes | apply modChan_writes)

theorem scrubOp_writes {μ : Writes} {σ : State} (ch : ℕ) (t : ℕ) (mine : Bool → Bool) (free : ℕ → Bool) (noise : List
    Codeword) (s : State) (h : Only μ σ s) (wfreeNo : μ.freeNo = true) (wchans : μ.chans = true) (wdram : μ.dram = true) (wflt
    : μ.flt = true) (wcnt : μ.cnt = true) :
    OnlyP μ σ (State.scrubOp ch t mine free noise s) := by
  unfold State.scrubOp
  (repeat' first
    | with_reducible first
        | assumption | (intro _)
    | (extract_lets +onlyGivenNames x; first
      | (refine Only.cut (m := μ) (a := σ) (x := x) ?_ (fun hx => ?_); (on_goal 1 => subst x); (on_goal 2 => (clear_value x; rename' x => x')))
      | (clear_value x; rename' x => x'))
    | with_reducible first
        | apply scrubRewrite_writes | apply modChan_writes | apply visit_writes | apply sent_writes | apply count_writes
        | apply readGranule_writes | apply scrubPoisoned_writes | apply Only.ite | apply OnlyP.ite | apply Only.foldl
    | split
    | with_reducible apply OnlyP.mk
    | refine OnlyP.of_eq (by assumption) ?_)

theorem daFinish_writes {μ : Writes} {σ : State} (n : ℕ) (seq : ℕ) (s : State) (h : Only μ σ s) (wchans : μ.chans = true)
    (wctxs : μ.ctxs = true) (wjournal : μ.journal = true) (whost : μ.host = true) (wflt : μ.flt = true) (wcnt : μ.cnt = true)
    (wtor : μ.tor = true) (wout : μ.out = true) :
    Only μ σ (State.daFinish n seq s) := by
  unfold State.daFinish
  (repeat' first
    | with_reducible assumption
    | (extract_lets +onlyGivenNames x; first
      | (refine Only.cut (m := μ) (a := σ) (x := x) ?_ (fun hx => ?_); (on_goal 1 => subst x); (on_goal 2 => (clear_value x; rename' x => x')))
      | (clear_value x; rename' x => x'))
    | with_reducible first
        | apply finish_writes | apply Only.ite
    | split
    | with_reducible apply upd_host)

theorem daIssue_writes {μ : Writes} {σ : State} (ch : ℕ) (t : ℕ) (n : ℕ) (d : Desc) (g : ℕ) (fail : Bool) (s : State) (h :
    Only μ σ s) (wfreeNo : μ.freeNo = true) (wchans : μ.chans = true) (wctxs : μ.ctxs = true) (wjournal : μ.journal = true)
    (wdram : μ.dram = true) (whost : μ.host = true) (wflt : μ.flt = true) (wcnt : μ.cnt = true) (wtor : μ.tor = true) (wout :
    μ.out = true) :
    Only μ σ (State.daIssue ch t n d g fail s) := by
  unfold State.daIssue
  (repeat' first
    | with_reducible assumption
    | (extract_lets +onlyGivenNames x; first
      | (refine Only.cut (m := μ) (a := σ) (x := x) ?_ (fun hx => ?_); (on_goal 1 => subst x); (on_goal 2 => (clear_value x; rename' x => x')))
      | (clear_value x; rename' x => x'))
    | with_reducible first
        | apply modDesc_writes | apply count_writes | apply opened_writes | apply fly_writes | apply writeGranule_writes
        | apply daFinish_writes | apply Only.ite)

theorem crcIssue_writes {μ : Writes} {σ : State} (ch : ℕ) (t : ℕ) (k : ℕ) (x : ℕ × ℕ) (s : State) (h : Only μ σ s) (wchans :
    μ.chans = true) (wflt : μ.flt = true) (wcnt : μ.cnt = true) :
    Only μ σ (State.crcIssue ch t k x s) := by
  unfold State.crcIssue
  (repeat' first
    | with_reducible assumption
    | (extract_lets +onlyGivenNames x; first
      | (refine Only.cut (m := μ) (a := σ) (x := x) ?_ (fun hx => ?_); (on_goal 1 => subst x); (on_goal 2 => (clear_value x; rename' x => x')))
      | (clear_value x; rename' x => x'))
    | with_reducible first
        | apply count_writes | apply fly_writes | apply opened_writes | apply upd_cnt)

theorem daOp_writes {μ : Writes} {σ : State} (ch : ℕ) (t : ℕ) (free : ℕ → Bool) (fail : Bool) (s : State) (y5 : List ℕ) (h :
    Only μ σ s) (wfreeNo : μ.freeNo = true) (wchans : μ.chans = true) (wctxs : μ.ctxs = true) (wjournal : μ.journal = true)
    (wdram : μ.dram = true) (whost : μ.host = true) (wflt : μ.flt = true) (wcnt : μ.cnt = true) (wtor : μ.tor = true) (wout :
    μ.out = true) :
    OnlyP μ σ (State.daOp ch t free fail s y5) := by
  induction y5 generalizing ch t free fail s with
  | nil =>
    unfold State.daOp
    (repeat' with_reducible first
        | assumption | apply OnlyP.mk)
  | cons x l ih =>
    unfold State.daOp
    (repeat' first
      | with_reducible assumption
      | (extract_lets +onlyGivenNames x; first
        | (refine Only.cut (m := μ) (a := σ) (x := x) ?_ (fun hx => ?_); (on_goal 1 => subst x); (on_goal 2 => (clear_value x; rename' x => x')))
        | (clear_value x; rename' x => x'))
      | with_reducible first
          | apply crcIssue_writes | apply modChan_writes | apply daIssue_writes | apply ih | apply OnlyP.ite
      | split
      | with_reducible apply OnlyP.mk)

theorem noteStalled_writes {μ : Writes} {σ : State} (ch : ℕ) (again : Bool) (s : State) (h : Only μ σ s) (wchans : μ.chans =
    true) :
    Only μ σ (State.noteStalled ch again s) := by
  unfold State.noteStalled
  (repeat' first
    | with_reducible first
        | assumption | (intro _)
    | (extract_lets +onlyGivenNames x; clear_value x; rename' x => x')
    | with_reducible first
        | apply modChan_writes | apply Only.foldl)

theorem daStart_writes {μ : Writes} {σ : State} (n : ℕ) (d : Desc) (staged : List Byte) (s : State) (h : Only μ σ s) (wctxs :
    μ.ctxs = true) :
    Only μ σ (State.daStart n d staged s) := by
  unfold State.daStart
  (repeat' with_reducible first
      | assumption | apply modDesc_writes)

theorem startDa_writes {μ : Writes} {σ : State} (n : ℕ) (op : ℕ) (s : State) (h : Only μ σ s) (wchans : μ.chans = true) (wctxs
    : μ.ctxs = true) (wjournal : μ.journal = true) (whost : μ.host = true) (wflt : μ.flt = true) (wcnt : μ.cnt = true) (wtor :
    μ.tor = true) (wout : μ.out = true) :
    Only μ σ (State.startDa n op s) := by
  unfold State.startDa
  (repeat' first
    | with_reducible first
        | assumption | apply finish_writes | apply daStart_writes | apply Only.ite
    | split)

theorem execRead_writes {μ : Writes} {σ : State} (ctx : ℕ) (s : State) (h : Only μ σ s) (wchans : μ.chans = true) (wctxs :
    μ.ctxs = true) (wjournal : μ.journal = true) (whost : μ.host = true) (wflt : μ.flt = true) (wcnt : μ.cnt = true) (wtor :
    μ.tor = true) (wout : μ.out = true) :
    OnlyR μ σ (execRead ctx s) := by
  unfold execRead
  (repeat' with_reducible first
      | assumption | apply startDa_writes | apply OnlyR.next)

theorem execFill_writes {μ : Writes} {σ : State} (ctx : ℕ) (s : State) (h : Only μ σ s) (wchans : μ.chans = true) (wctxs :
    μ.ctxs = true) (wjournal : μ.journal = true) (whost : μ.host = true) (wflt : μ.flt = true) (wcnt : μ.cnt = true) (wtor :
    μ.tor = true) (wout : μ.out = true) :
    OnlyR μ σ (execFill ctx s) := by
  unfold execFill
  (repeat' with_reducible first
      | assumption | apply startDa_writes | apply OnlyR.next)

theorem execWrite_writes {μ : Writes} {σ : State} (ctx : ℕ) (fetches : List Fetch) (s : State) (h : Only μ σ s) (wchans :
    μ.chans = true) (wctxs : μ.ctxs = true) (wjournal : μ.journal = true) (whost : μ.host = true) (wflt : μ.flt = true) (wcnt
    : μ.cnt = true) (wtor : μ.tor = true) (wout : μ.out = true) :
    OnlyR μ σ (execWrite ctx fetches s) := by
  unfold execWrite
  (repeat' first
    | with_reducible first
        | assumption | (intro _)
    | (extract_lets +onlyGivenNames x; first
      | (refine Only.cut (m := μ) (a := σ) (x := x) ?_ (fun hx => ?_); (on_goal 1 => subst x); (on_goal 2 => (clear_value x; rename' x => x')))
      | (refine useFun₂ x ?_; subst x; try beta_reduce)
      | (clear_value x; rename' x => x'))
    | with_reducible first
        | apply finish_writes | apply hostRead_writes | apply count_writes | apply daStart_writes | apply Only.ite
        | apply OnlyR.ite | apply Only.foldl | apply OnlyR.next
    | split
    | with_reducible apply upd_host)

end Sys2Proof.Laws
end

