-- ==== Sys2Proof/Laws/OnlySlots.lean ====
section
/-! SUPPORT. What the operations of Machine/Slots.lean may write. -/

set_option linter.unusedTactic false
set_option linter.unreachableTactic false
set_option linter.unusedVariables false
set_option linter.tactic.unusedName false

namespace Sys2Proof.Laws

open Sys2Proof Sys2Proof.Machine

theorem modSeq_writes {μ : Writes} {σ : State} (ch : ℕ) (f : Seq → Seq) (s : State) (h : Only μ σ s) (wchans : μ.chans = true)
    :
    Only μ σ (State.modSeq ch f s) := by
  unfold State.modSeq
  (repeat' with_reducible first
      | assumption | apply modChan_writes)

theorem modReg_writes {μ : Writes} {σ : State} (ch : ℕ) (f : Region → Region) (s : State) (h : Only μ σ s) (wchans : μ.chans =
    true) :
    Only μ σ (State.modReg ch f s) := by
  unfold State.modReg
  (repeat' with_reducible first
      | assumption | apply modChan_writes)

theorem refreshAt_writes {μ : Writes} {σ : State} (ch : ℕ) (t : ℕ) (f : ℕ → Bool) (s : State) (h : Only μ σ s) (wchans :
    μ.chans = true) :
    OnlyP μ σ (State.refreshAt ch t f s) := by
  unfold State.refreshAt
  (repeat' first
    | with_reducible assumption
    | (extract_lets +onlyGivenNames x; first
      | (refine Only.cut (m := μ) (a := σ) (x := x) ?_ (fun hx => ?_); (on_goal 1 => subst x); (on_goal 2 => (clear_value x; rename' x => x')))
      | (clear_value x; rename' x => x'))
    | with_reducible first
        | apply sent_writes | apply modChan_writes
    | split
    | with_reducible apply OnlyP.mk)

theorem wardenRefresh_writes {μ : Writes} {σ : State} (ch : ℕ) (t : ℕ) (s : State) (h : Only μ σ s) (wchans : μ.chans = true)
    (wflt : μ.flt = true) (wcnt : μ.cnt = true) :
    Only μ σ (State.wardenRefresh ch t s) := by
  unfold State.wardenRefresh
  (repeat' first
    | with_reducible assumption
    | (extract_lets +onlyGivenNames x; first
      | (refine Only.cut (m := μ) (a := σ) (x := x) ?_ (fun hx => ?_); (on_goal 1 => subst x); (on_goal 2 => (clear_value x; rename' x => x')))
      | (clear_value x; rename' x => x'))
    | with_reducible first
        | apply sent_writes | apply count_writes | apply modChan_writes)

theorem updateStarved_writes {μ : Writes} {σ : State} (ch : ℕ) (s : State) (h : Only μ σ s) (wchans : μ.chans = true) (wflt :
    μ.flt = true) (wcnt : μ.cnt = true) :
    Only μ σ (State.updateStarved ch s) := by
  unfold State.updateStarved
  (repeat' first
    | with_reducible assumption
    | (extract_lets +onlyGivenNames x; first
      | (refine Only.cut (m := μ) (a := σ) (x := x) ?_ (fun hx => ?_); (on_goal 1 => subst x); (on_goal 2 => (clear_value x; rename' x => x')))
      | (clear_value x; rename' x => x'))
    | with_reducible first
        | apply modChan_writes | apply log_writes | apply Only.ite)

theorem checkpoint_writes {μ : Writes} {σ : State} (ch : ℕ) (t : ℕ) (p : Pos) (g : List ℕ) (s : State) (h : Only μ σ s)
    (wchans : μ.chans = true) (wflt : μ.flt = true) (wcnt : μ.cnt = true) :
    Only μ σ (State.checkpoint ch t p g s) := by
  unfold State.checkpoint
  (repeat' first
    | with_reducible assumption
    | (extract_lets +onlyGivenNames x; first
      | (refine Only.cut (m := μ) (a := σ) (x := x) ?_ (fun hx => ?_); (on_goal 1 => subst x); (on_goal 2 => (clear_value x; rename' x => x')))
      | (clear_value x; rename' x => x'))
    | with_reducible first
        | apply modChan_writes | apply updateStarved_writes)

theorem lastSlot_writes {μ : Writes} {σ : State} (ch : ℕ) (t : ℕ) (s : State) (h : Only μ σ s) (wchans : μ.chans = true) (wflt
    : μ.flt = true) (wcnt : μ.cnt = true) :
    Only μ σ (State.lastSlot ch t s) := by
  unfold State.lastSlot
  (repeat' with_reducible first
      | assumption | apply stopStreams_writes | apply modChan_writes)

theorem stopWaiting_writes {μ : Writes} {σ : State} (ch : ℕ) (status : ℕ) (s : State) (h : Only μ σ s) (wchans : μ.chans =
    true) (wctxs : μ.ctxs = true) (wjournal : μ.journal = true) (whost : μ.host = true) (wflt : μ.flt = true) (wcnt : μ.cnt =
    true) (wtor : μ.tor = true) (wout : μ.out = true) :
    Only μ σ (State.stopWaiting ch status s) := by
  unfold State.stopWaiting
  (repeat' first
    | with_reducible first
        | assumption | (intro _) | apply finish_writes | apply Only.foldl
    | split)

theorem endStream_writes {μ : Writes} {σ : State} (ch : ℕ) (t : ℕ) (s : State) (h : Only μ σ s) (wchans : μ.chans = true)
    (wctxs : μ.ctxs = true) (wjournal : μ.journal = true) (whost : μ.host = true) (wflt : μ.flt = true) (wcnt : μ.cnt = true)
    (wtor : μ.tor = true) (wout : μ.out = true) :
    Only μ σ (State.endStream ch t s) := by
  unfold State.endStream
  (repeat' with_reducible first
      | assumption | apply lastSlot_writes | apply modChan_writes | apply stopWaiting_writes)

theorem moveTo_writes {μ : Writes} {σ : State} (ch : ℕ) (t : ℕ) (w : Word) (p : Option Pos) (s : State) (h : Only μ σ s)
    (wchans : μ.chans = true) (wctxs : μ.ctxs = true) (wjournal : μ.journal = true) (whost : μ.host = true) (wflt : μ.flt =
    true) (wcnt : μ.cnt = true) (wtor : μ.tor = true) (wout : μ.out = true) :
    Only μ σ (State.moveTo ch t w p s) := by
  unfold State.moveTo
  (repeat' first
    | with_reducible first
        | assumption | apply endStream_writes | apply modSeq_writes
    | split)

theorem advance_writes {μ : Writes} {σ : State} (ch : ℕ) (w : Word) (s : State) (h : Only μ σ s) (wchans : μ.chans = true)
    (wctxs : μ.ctxs = true) (wjournal : μ.journal = true) (whost : μ.host = true) (wflt : μ.flt = true) (wcnt : μ.cnt = true)
    (wtor : μ.tor = true) (wout : μ.out = true) :
    Only μ σ (State.advance ch w s) := by
  unfold State.advance
  (repeat' first
    | with_reducible assumption
    | (extract_lets +onlyGivenNames x; first
      | (refine Only.cut (m := μ) (a := σ) (x := x) ?_ (fun hx => ?_); (on_goal 1 => subst x); (on_goal 2 => (clear_value x; rename' x => x')))
      | (clear_value x; rename' x => x')
      | (subst x; try beta_reduce))
    | with_reducible first
        | apply modSeq_writes | apply checkpoint_writes | apply updatePanic_writes | apply lastSlot_writes
        | apply moveTo_writes | apply Only.ite)

theorem slotDone_writes {μ : Writes} {σ : State} (ch : ℕ) (w : Word) (s : State) (h : Only μ σ s) (wchans : μ.chans = true)
    (wctxs : μ.ctxs = true) (wjournal : μ.journal = true) (whost : μ.host = true) (wflt : μ.flt = true) (wcnt : μ.cnt = true)
    (wtor : μ.tor = true) (wout : μ.out = true) :
    Only μ σ (State.slotDone ch w s) := by
  unfold State.slotDone
  (repeat' with_reducible first
      | assumption | apply advance_writes | apply count_writes)

theorem cardFail_writes {μ : Writes} {σ : State} (ch : ℕ) (s : State) (h : Only μ σ s) (wchans : μ.chans = true) (wflt : μ.flt
    = true) (wcnt : μ.cnt = true) :
    Only μ σ (State.cardFail ch s) := by
  unfold State.cardFail
  (repeat' first
    | with_reducible assumption
    | (extract_lets +onlyGivenNames x; first
      | (refine Only.cut (m := μ) (a := σ) (x := x) ?_ (fun hx => ?_); (on_goal 1 => subst x); (on_goal 2 => (clear_value x; rename' x => x')))
      | (clear_value x; rename' x => x'))
    | with_reducible first
        | apply modChan_writes | apply log_writes | apply lastSlot_writes)

theorem execNopSlot_writes {μ : Writes} {σ : State} (ch : ℕ) (hit : StoreHit) (s : State) (h : Only μ σ s) (wchans : μ.chans =
    true) (wctxs : μ.ctxs = true) (wjournal : μ.journal = true) (whost : μ.host = true) (wflt : μ.flt = true) (wcnt : μ.cnt =
    true) (wtor : μ.tor = true) (wout : μ.out = true) :
    OnlyR μ σ (execNopSlot ch hit s) := by
  unfold execNopSlot
  (repeat' first
    | with_reducible first
        | assumption | apply cardFail_writes | apply slotDone_writes | apply noteFix_writes | apply Only.ite | apply OnlyR.ite
        | apply OnlyR.next
    | split)

theorem sentRow_writes {μ : Writes} {σ : State} (ch : ℕ) (t : ℕ) (s : State) (h : Only μ σ s) (wchans : μ.chans = true) :
    Only μ σ (State.sentRow ch t s) := by
  unfold State.sentRow
  (repeat' with_reducible first
      | assumption | apply sent_writes)

theorem actSlot_writes {μ : Writes} {σ : State} (ch : ℕ) (w : Word) (s : State) (h : Only μ σ s) (wchans : μ.chans = true)
    (wflt : μ.flt = true) (wcnt : μ.cnt = true) :
    Only μ σ (State.actSlot ch w s) := by
  unfold State.actSlot
  (repeat' first
    | with_reducible assumption
    | (extract_lets +onlyGivenNames x; first
      | (refine OnlyP.cut (m := μ) (a := σ) (x := x) ?_ (fun hx => ?_); (on_goal 1 => subst x); (on_goal 2 => (clear_value x; rename' x => x')))
      | (clear_value x; rename' x => x'))
    | with_reducible first
        | apply bindTemplate_writes | apply modReg_writes | apply Only.ite | apply OnlyP.snd
    | split)

theorem execAct_writes {μ : Writes} {σ : State} (ch : ℕ) (s : State) (h : Only μ σ s) (wchans : μ.chans = true) (wctxs :
    μ.ctxs = true) (wjournal : μ.journal = true) (whost : μ.host = true) (wflt : μ.flt = true) (wcnt : μ.cnt = true) (wtor :
    μ.tor = true) (wout : μ.out = true) :
    OnlyR μ σ (execAct ch s) := by
  unfold execAct
  (repeat' first
    | with_reducible first
        | assumption | apply slotDone_writes | apply sentRow_writes | apply actSlot_writes | apply OnlyR.next
    | split)

theorem rdReader_writes {μ : Writes} {σ : State} (ch : ℕ) (w : Word) (sent : Bool) (s : State) (h : Only μ σ s) (wchans :
    μ.chans = true) (wflt : μ.flt = true) (wcnt : μ.cnt = true) :
    OnlyP μ σ (State.rdReader ch w sent s) := by
  unfold State.rdReader
  (repeat' first
    | with_reducible assumption
    | (extract_lets +onlyGivenNames x; first
      | (refine OnlyP.cut (m := μ) (a := σ) (x := x) ?_ (fun hx => ?_); (on_goal 1 => subst x); (on_goal 2 => (clear_value x; rename' x => x')))
      | (clear_value x; rename' x => x'))
    | with_reducible first
        | apply srcRead_writes | apply modAna_writes | apply OnlyP.ite | apply OnlyP.snd | apply OnlyP.mk)

theorem execRd_writes {μ : Writes} {σ : State} (ch : ℕ) (s : State) (h : Only μ σ s) (wchans : μ.chans = true) (wctxs : μ.ctxs
    = true) (wjournal : μ.journal = true) (whost : μ.host = true) (wflt : μ.flt = true) (wcnt : μ.cnt = true) (wtor : μ.tor =
    true) (wout : μ.out = true) :
    OnlyR μ σ (execRd ch s) := by
  unfold execRd
  (repeat' first
    | with_reducible assumption
    | (extract_lets +onlyGivenNames x; first
      | (refine OnlyP.cut (m := μ) (a := σ) (x := x) ?_ (fun hx => ?_); (on_goal 1 => subst x); (on_goal 2 => (clear_value x; rename' x => x')))
      | (clear_value x; rename' x => x'))
    | with_reducible first
        | apply rdReader_writes | apply slotDone_writes | apply fly_writes | apply OnlyR.next | apply OnlyP.snd
    | split)

theorem wrData_writes {μ : Writes} {σ : State} (ch : ℕ) (w : Word) (hit : StoreHit) (s : State) (h : Only μ σ s) (wchans :
    μ.chans = true) (wflt : μ.flt = true) (wcnt : μ.cnt = true) :
    OnlyP μ σ (State.wrData ch w hit s) := by
  unfold State.wrData
  (repeat' first
    | with_reducible assumption
    | (extract_lets +onlyGivenNames x; first
      | (refine Only.cut (m := μ) (a := σ) (x := x) ?_ (fun hx => ?_); (on_goal 1 => subst x); (on_goal 2 => (clear_value x; rename' x => x')))
      | (clear_value x; rename' x => x'))
    | with_reducible first
        | apply modAna_writes | apply storeHit_writes | apply OnlyP.ite | apply OnlyP.mk)

theorem execWr_writes {μ : Writes} {σ : State} (ch : ℕ) (hit : StoreHit) (s : State) (h : Only μ σ s) (wfreeNo : μ.freeNo =
    true) (wchans : μ.chans = true) (wctxs : μ.ctxs = true) (wjournal : μ.journal = true) (wdram : μ.dram = true) (whost :
    μ.host = true) (wflt : μ.flt = true) (wcnt : μ.cnt = true) (wtor : μ.tor = true) (wout : μ.out = true) :
    OnlyR μ σ (execWr ch hit s) := by
  unfold execWr
  (repeat' first
    | with_reducible assumption
    | (extract_lets +onlyGivenNames x; first
      | (refine Only.cut (m := μ) (a := σ) (x := x) ?_ (fun hx => ?_); (on_goal 1 => subst x); (on_goal 2 => (clear_value x; rename' x => x')))
      | (refine OnlyP.cut (m := μ) (a := σ) (x := x) ?_ (fun hx => ?_); (on_goal 1 => subst x); (on_goal 2 => (clear_value x; rename' x => x')))
      | (clear_value x; rename' x => x'))
    | with_reducible first
        | apply wrData_writes | apply writeGranule_writes | apply cancelMerges_writes | apply slotDone_writes
        | apply OnlyR.next | apply OnlyP.snd
    | split)

theorem readHalf_writes {μ : Writes} {σ : State} (ch : ℕ) (w : Word) (made : Bool) (s : State) (h : Only μ σ s) (wchans :
    μ.chans = true) :
    OnlyP μ σ (State.readHalf ch w made s) := by
  unfold State.readHalf
  (repeat' first
    | with_reducible assumption
    | (extract_lets +onlyGivenNames x; first
      | (refine Only.cut (m := μ) (a := σ) (x := x) ?_ (fun hx => ?_); (on_goal 1 => subst x); (on_goal 2 => (clear_value x; rename' x => x')))
      | (refine OnlyP.cut (m := μ) (a := σ) (x := x) ?_ (fun hx => ?_); (on_goal 1 => subst x); (on_goal 2 => (clear_value x; rename' x => x')))
      | (clear_value x; rename' x => x'))
    | with_reducible first
        | apply modCap_writes | apply pushMerge_writes | apply OnlyP.ite | apply OnlyP.snd
    | split
    | with_reducible apply OnlyP.mk)

theorem flyBind_writes {μ : Writes} {σ : State} (ch : ℕ) (id : ℕ) (t : ℕ) (s : State) (h : Only μ σ s) (wchans : μ.chans =
    true) :
    Only μ σ (State.flyBind ch id t s) := by
  unfold State.flyBind
  (repeat' with_reducible first
      | assumption | apply modChan_writes)

theorem spoilMerge_writes {μ : Writes} {σ : State} (ch : ℕ) (hit : StoreHit) (s : State) (h : Only μ σ s) (wchans : μ.chans =
    true) (wflt : μ.flt = true) (wcnt : μ.cnt = true) :
    Only μ σ (State.spoilMerge ch hit s) := by
  unfold State.spoilMerge
  (repeat' first
    | with_reducible assumption
    | (extract_lets +onlyGivenNames x; refine Only.cut (m := μ) (a := σ) (x := x) ?_ (fun hx => ?_); (on_goal 1 => subst x); (on_goal 2 => (clear_value x; rename' x => x')))
    | with_reducible first
        | apply storeHit_writes | apply modMerge_writes | apply Only.ite
    | split)

theorem execRmw_writes {μ : Writes} {σ : State} (ch : ℕ) (hit : StoreHit) (s : State) (h : Only μ σ s) (wfreeNo : μ.freeNo =
    true) (wchans : μ.chans = true) (wctxs : μ.ctxs = true) (wjournal : μ.journal = true) (wdram : μ.dram = true) (whost :
    μ.host = true) (wflt : μ.flt = true) (wcnt : μ.cnt = true) (wtor : μ.tor = true) (wout : μ.out = true) :
    OnlyR μ σ (execRmw ch hit s) := by
  unfold execRmw
  (repeat' first
    | with_reducible assumption
    | (extract_lets +onlyGivenNames x; first
      | (refine Only.cut (m := μ) (a := σ) (x := x) ?_ (fun hx => ?_); (on_goal 1 => subst x); (on_goal 2 => (clear_value x; rename' x => x')))
      | (refine OnlyP.cut (m := μ) (a := σ) (x := x) ?_ (fun hx => ?_); (on_goal 1 => subst x); (on_goal 2 => (clear_value x; rename' x => x')))
      | (clear_value x; rename' x => x'))
    | with_reducible first
        | apply readHalf_writes | apply flyBind_writes | apply fly_writes | apply slotDone_writes | apply modReg_writes
        | apply writeHalf_writes | apply spoilMerge_writes | apply Only.ite | apply OnlyR.ite | apply OnlyR.next
        | apply OnlyP.snd
    | split)

theorem preSlot_writes {μ : Writes} {σ : State} (ch : ℕ) (w : Word) (s : State) (h : Only μ σ s) (wchans : μ.chans = true) :
    Only μ σ (State.preSlot ch w s) := by
  unfold State.preSlot
  (repeat' first
    | with_reducible assumption
    | (extract_lets +onlyGivenNames x; first
      | (refine Only.cut (m := μ) (a := σ) (x := x) ?_ (fun hx => ?_); (on_goal 1 => subst x); (on_goal 2 => (clear_value x; rename' x => x')))
      | (clear_value x; rename' x => x'))
    | with_reducible first
        | apply modCap_writes | apply modReg_writes | apply Only.ite
    | split)

theorem execPre_writes {μ : Writes} {σ : State} (ch : ℕ) (s : State) (h : Only μ σ s) (wchans : μ.chans = true) (wctxs :
    μ.ctxs = true) (wjournal : μ.journal = true) (whost : μ.host = true) (wflt : μ.flt = true) (wcnt : μ.cnt = true) (wtor :
    μ.tor = true) (wout : μ.out = true) :
    OnlyR μ σ (execPre ch s) := by
  unfold execPre
  (repeat' first
    | with_reducible first
        | assumption | apply slotDone_writes | apply sentRow_writes | apply preSlot_writes | apply OnlyR.next
    | split)

theorem execPrea_writes {μ : Writes} {σ : State} (ch : ℕ) (s : State) (h : Only μ σ s) (wchans : μ.chans = true) (wctxs :
    μ.ctxs = true) (wjournal : μ.journal = true) (whost : μ.host = true) (wflt : μ.flt = true) (wcnt : μ.cnt = true) (wtor :
    μ.tor = true) (wout : μ.out = true) :
    OnlyR μ σ (execPrea ch s) := by
  unfold execPrea
  (repeat' first
    | with_reducible first
        | assumption | apply slotDone_writes | apply sentRow_writes | apply modReg_writes | apply OnlyR.next
    | split)

theorem execRefab_writes {μ : Writes} {σ : State} (ch : ℕ) (s : State) (h : Only μ σ s) (wchans : μ.chans = true) (wctxs :
    μ.ctxs = true) (wjournal : μ.journal = true) (whost : μ.host = true) (wflt : μ.flt = true) (wcnt : μ.cnt = true) (wtor :
    μ.tor = true) (wout : μ.out = true) :
    OnlyR μ σ (execRefab ch s) := by
  unfold execRefab
  (repeat' first
    | with_reducible assumption
    | (extract_lets +onlyGivenNames x; clear_value x; rename' x => x')
    | with_reducible first
        | apply slotDone_writes | apply refreshAt_writes | apply OnlyR.next | apply OnlyP.snd
    | split)

theorem execRefpb_writes {μ : Writes} {σ : State} (ch : ℕ) (s : State) (h : Only μ σ s) (wchans : μ.chans = true) (wctxs :
    μ.ctxs = true) (wjournal : μ.journal = true) (whost : μ.host = true) (wflt : μ.flt = true) (wcnt : μ.cnt = true) (wtor :
    μ.tor = true) (wout : μ.out = true) :
    OnlyR μ σ (execRefpb ch s) := by
  unfold execRefpb
  (repeat' first
    | with_reducible assumption
    | (extract_lets +onlyGivenNames x; clear_value x; rename' x => x')
    | with_reducible first
        | apply slotDone_writes | apply refreshAt_writes | apply OnlyR.next | apply OnlyP.snd
    | split)

theorem execFetch_writes {μ : Writes} {σ : State} (ch : ℕ) (s : State) (h : Only μ σ s) (wchans : μ.chans = true) (wctxs :
    μ.ctxs = true) (wjournal : μ.journal = true) (whost : μ.host = true) (wflt : μ.flt = true) (wcnt : μ.cnt = true) (wtor :
    μ.tor = true) (wout : μ.out = true) :
    OnlyR μ σ (execFetch ch s) := by
  unfold execFetch
  (repeat' first
    | with_reducible assumption
    | (extract_lets +onlyGivenNames x; clear_value x; rename' x => x')
    | with_reducible first
        | apply slotDone_writes | apply fly_writes | apply OnlyR.next
    | split)

theorem markEvent_writes {μ : Writes} {σ : State} (ch : ℕ) (w : Word) (s : State) (h : Only μ σ s) (wflt : μ.flt = true) (wcnt
    : μ.cnt = true) :
    Only μ σ (State.markEvent ch w s) := by
  unfold State.markEvent
  (repeat' with_reducible first
      | assumption | apply count_writes)

theorem execMark_writes {μ : Writes} {σ : State} (ch : ℕ) (s : State) (h : Only μ σ s) (wchans : μ.chans = true) (wctxs :
    μ.ctxs = true) (wjournal : μ.journal = true) (whost : μ.host = true) (wflt : μ.flt = true) (wcnt : μ.cnt = true) (wtor :
    μ.tor = true) (wout : μ.out = true) :
    OnlyR μ σ (execMark ch s) := by
  unfold execMark
  (repeat' first
    | with_reducible first
        | assumption | apply slotDone_writes | apply markEvent_writes | apply OnlyR.next
    | split)

theorem openStart_writes {μ : Writes} {σ : State} (ch : ℕ) (s : State) (h : Only μ σ s) (wchans : μ.chans = true) (wflt :
    μ.flt = true) (wcnt : μ.cnt = true) :
    Only μ σ (State.openStart ch s) := by
  unfold State.openStart
  (repeat' first
    | with_reducible assumption
    | (extract_lets +onlyGivenNames x; first
      | (refine Only.cut (m := μ) (a := σ) (x := x) ?_ (fun hx => ?_); (on_goal 1 => subst x); (on_goal 2 => (clear_value x; rename' x => x')))
      | (clear_value x; rename' x => x'))
    | with_reducible first
        | apply wardenRefresh_writes | apply modChan_writes | apply noteStalled_writes | apply Only.ite)

theorem defer_writes {μ : Writes} {σ : State} (ch : ℕ) (k : ℕ) (s : State) (h : Only μ σ s) (wflt : μ.flt = true) (wcnt :
    μ.cnt = true) :
    Only μ σ (State.defer ch k s) := by
  unfold State.defer
  (repeat' with_reducible first
      | assumption | apply count_writes)

theorem yieldFloor_writes {μ : Writes} {σ : State} (ch : ℕ) (s : State) (h : Only μ σ s) (wchans : μ.chans = true) (wflt :
    μ.flt = true) (wcnt : μ.cnt = true) :
    Only μ σ (State.yieldFloor ch s) := by
  unfold State.yieldFloor
  (repeat' first
    | with_reducible assumption
    | (extract_lets +onlyGivenNames x; clear_value x; rename' x => x')
    | with_reducible first
        | apply defer_writes | apply modSeq_writes | apply Only.ite)

theorem floorOp_writes {μ : Writes} {σ : State} (ch : ℕ) (t : ℕ) (free : ℕ → Bool) (noise : List Codeword) (s : State) (h :
    Only μ σ s) (wfreeNo : μ.freeNo = true) (wchans : μ.chans = true) (wdram : μ.dram = true) (wflt : μ.flt = true) (wcnt :
    μ.cnt = true) :
    OnlyP μ σ (State.floorOp ch t free noise s) := by
  unfold State.floorOp
  (repeat' first
    | with_reducible assumption
    | (extract_lets +onlyGivenNames x; first
      | (refine OnlyP.cut (m := μ) (a := σ) (x := x) ?_ (fun hx => ?_); (on_goal 1 => subst x); (on_goal 2 => (clear_value x; rename' x => x')))
      | (clear_value x; rename' x => x'))
    | with_reducible first
        | apply scrubOp_writes | apply modChan_writes | apply OnlyP.ite | apply OnlyP.snd
    | split
    | with_reducible apply OnlyP.mk)

theorem beyondOp_writes {μ : Writes} {σ : State} (ch : ℕ) (t : ℕ) (free : ℕ → Bool) (noise : List Codeword) (s : State) (h :
    Only μ σ s) (wfreeNo : μ.freeNo = true) (wchans : μ.chans = true) (wdram : μ.dram = true) (wflt : μ.flt = true) (wcnt :
    μ.cnt = true) :
    OnlyP μ σ (State.beyondOp ch t free noise s) := by
  unfold State.beyondOp
  (repeat' first
    | with_reducible assumption
    | (extract_lets +onlyGivenNames x; refine OnlyP.cut (m := μ) (a := σ) (x := x) ?_ (fun hx => ?_); (on_goal 1 => subst x); (on_goal 2 => (clear_value x; rename' x => x')))
    | with_reducible first
        | apply scrubOp_writes | apply modChan_writes | apply OnlyP.ite | apply OnlyP.snd
    | split
    | with_reducible apply OnlyP.mk)

theorem openOpp_writes {μ : Writes} {σ : State} (ch : ℕ) (t : ℕ) (noise : List Codeword) (fail : Bool) (s : State) (h : Only μ
    σ s) (wfreeNo : μ.freeNo = true) (wchans : μ.chans = true) (wctxs : μ.ctxs = true) (wjournal : μ.journal = true) (wdram :
    μ.dram = true) (whost : μ.host = true) (wflt : μ.flt = true) (wcnt : μ.cnt = true) (wtor : μ.tor = true) (wout : μ.out =
    true) :
    Only μ σ (State.openOpp ch t noise fail s) := by
  unfold State.openOpp
  (repeat' first
    | with_reducible assumption
    | (extract_lets +onlyGivenNames x; first
      | (refine Only.cut (m := μ) (a := σ) (x := x) ?_ (fun hx => ?_); (on_goal 1 => subst x); (on_goal 2 => (clear_value x; rename' x => x')))
      | (refine OnlyP.cut (m := μ) (a := σ) (x := x) ?_ (fun hx => ?_); (on_goal 1 => subst x); (on_goal 2 => (clear_value x; rename' x => x')))
      | (clear_value x; rename' x => x'))
    | with_reducible first
        | apply yieldFloor_writes | apply noteStalled_writes | apply makeupOp_writes | apply floorOp_writes
        | apply daOp_writes | apply beyondOp_writes | apply count_writes | apply Only.ite | apply OnlyP.ite | apply OnlyP.snd
    | split
    | with_reducible apply OnlyP.mk)

theorem openSlot_writes {μ : Writes} {σ : State} (ch : ℕ) (noise : List Codeword) (fail : Bool) (s : State) (h : Only μ σ s)
    (wfreeNo : μ.freeNo = true) (wchans : μ.chans = true) (wctxs : μ.ctxs = true) (wjournal : μ.journal = true) (wdram :
    μ.dram = true) (whost : μ.host = true) (wflt : μ.flt = true) (wcnt : μ.cnt = true) (wtor : μ.tor = true) (wout : μ.out =
    true) :
    Only μ σ (State.openSlot ch noise fail s) := by
  unfold State.openSlot
  (repeat' first
    | with_reducible assumption
    | (extract_lets +onlyGivenNames x; first
      | (refine Only.cut (m := μ) (a := σ) (x := x) ?_ (fun hx => ?_); (on_goal 1 => subst x); (on_goal 2 => (clear_value x; rename' x => x')))
      | (clear_value x; rename' x => x'))
    | with_reducible first
        | apply openStart_writes | apply modChan_writes | apply openOpp_writes | apply Only.ite)

theorem execOpenRun_writes {μ : Writes} {σ : State} (ch : ℕ) (noise : List Codeword) (storeFail : Bool) (s : State) (h : Only
    μ σ s) (wfreeNo : μ.freeNo = true) (wchans : μ.chans = true) (wctxs : μ.ctxs = true) (wjournal : μ.journal = true) (wdram
    : μ.dram = true) (whost : μ.host = true) (wflt : μ.flt = true) (wcnt : μ.cnt = true) (wtor : μ.tor = true) (wout : μ.out =
    true) :
    OnlyR μ σ (execOpenRun ch noise storeFail s) := by
  unfold execOpenRun
  (repeat' first
    | with_reducible first
        | assumption | apply slotDone_writes | apply openSlot_writes | apply OnlyR.next
    | split)

theorem execTierSwitch_writes {μ : Writes} {σ : State} (ch : ℕ) (s : State) (h : Only μ σ s) (wchans : μ.chans = true) (wctxs
    : μ.ctxs = true) (wjournal : μ.journal = true) (whost : μ.host = true) (wflt : μ.flt = true) (wcnt : μ.cnt = true) (wlanes
    : μ.lanes = true) (wtor : μ.tor = true) (wout : μ.out = true) :
    OnlyR μ σ (execTierSwitch ch s) := by
  unfold execTierSwitch
  (repeat' first
    | with_reducible assumption
    | (extract_lets +onlyGivenNames x; first
      | (refine Only.cut (m := μ) (a := σ) (x := x) ?_ (fun hx => ?_); (on_goal 1 => subst x); (on_goal 2 => (clear_value x; rename' x => x')))
      | (clear_value x; rename' x => x'))
    | with_reducible first
        | apply modSeq_writes | apply count_writes | apply tierNotice_writes | apply moveTo_writes | apply Only.ite
        | apply OnlyR.ite | apply OnlyR.next)

theorem loseWindow_writes {μ : Writes} {σ : State} (ch : ℕ) (s : State) (h : Only μ σ s) (wchans : μ.chans = true) (wflt :
    μ.flt = true) (wcnt : μ.cnt = true) :
    Only μ σ (State.loseWindow ch s) := by
  unfold State.loseWindow
  (repeat' first
    | with_reducible first
        | assumption | (intro _)
    | (extract_lets +onlyGivenNames x; clear_value x; rename' x => x')
    | with_reducible first
        | apply modSeq_writes | apply defer_writes | apply Only.foldl)

theorem displace_writes {μ : Writes} {σ : State} (ch : ℕ) (s : State) (h : Only μ σ s) (wchans : μ.chans = true) (wctxs :
    μ.ctxs = true) (wjournal : μ.journal = true) (whost : μ.host = true) (wflt : μ.flt = true) (wcnt : μ.cnt = true) (wtor :
    μ.tor = true) (wout : μ.out = true) :
    Only μ σ (State.displace ch s) := by
  unfold State.displace
  (repeat' first
    | with_reducible assumption
    | (extract_lets +onlyGivenNames x; first
      | (refine Only.cut (m := μ) (a := σ) (x := x) ?_ (fun hx => ?_); (on_goal 1 => subst x); (on_goal 2 => (clear_value x; rename' x => x')))
      | (refine OnlyP.cut (m := μ) (a := σ) (x := x) ?_ (fun hx => ?_); (on_goal 1 => subst x); (on_goal 2 => (clear_value x; rename' x => x')))
      | (refine useFun₂ x ?_; subst x; try beta_reduce)
      | (clear_value x; rename' x => x'))
    | with_reducible first
        | apply modChan_writes | apply actSlot_writes | apply preSlot_writes | apply modReg_writes | apply rdReader_writes
        | apply wrData_writes | apply cancelMerges_writes | apply readHalf_writes | apply flyBind_writes
        | apply modMerge_writes | apply markEvent_writes | apply loseWindow_writes | apply advance_writes | apply Only.ite
        | apply OnlyP.snd
    | split)

theorem passSwitch_writes {μ : Writes} {σ : State} (ch : ℕ) (s : State) (h : Only μ σ s) (wchans : μ.chans = true) (wctxs :
    μ.ctxs = true) (wjournal : μ.journal = true) (whost : μ.host = true) (wflt : μ.flt = true) (wcnt : μ.cnt = true) (wlanes :
    μ.lanes = true) (wtor : μ.tor = true) (wout : μ.out = true) :
    Only μ σ (State.passSwitch ch s) := by
  unfold State.passSwitch
  split
  · obtain ⟨t, ht, hk⟩ : OnlyR μ σ (execTierSwitch ch s) := by apply execTierSwitch_writes <;> assumption
    rw [ht]
    exact hk
  · exact h

theorem displaceTo_writes {μ : Writes} {σ : State} (ch : ℕ) (r : ℕ) (y2 : ℕ) (y3 : State) (h : Only μ σ y3) (wchans : μ.chans
    = true) (wctxs : μ.ctxs = true) (wjournal : μ.journal = true) (whost : μ.host = true) (wflt : μ.flt = true) (wcnt : μ.cnt
    = true) (wlanes : μ.lanes = true) (wtor : μ.tor = true) (wout : μ.out = true) :
    Only μ σ (State.displaceTo ch r y2 y3) := by
  induction y2 generalizing ch r y3 with
  | zero =>
    unfold State.displaceTo
    with_reducible assumption
  | succ n ih =>
    unfold State.displaceTo
    (repeat' first
      | with_reducible assumption
      | (extract_lets +onlyGivenNames x; clear_value x; rename' x => x')
      | with_reducible first
          | apply passSwitch_writes | apply displace_writes | apply ih | apply Only.ite)

theorem findResume_writes {μ : Writes} {σ : State} (ch : ℕ) (ready : ℕ) (y2 : ℕ) (y3 : State) (h : Only μ σ y3) (wchans :
    μ.chans = true) (wctxs : μ.ctxs = true) (wjournal : μ.journal = true) (whost : μ.host = true) (wflt : μ.flt = true) (wcnt
    : μ.cnt = true) (wlanes : μ.lanes = true) (wtor : μ.tor = true) (wout : μ.out = true) :
    Only μ σ (State.findResume ch ready y2 y3) := by
  induction y2 generalizing ch ready y3 with
  | zero =>
    unfold State.findResume
    with_reducible assumption
  | succ n ih =>
    unfold State.findResume
    (repeat' first
      | with_reducible assumption
      | (extract_lets +onlyGivenNames x; clear_value x; rename' x => x')
      | with_reducible first
          | apply passSwitch_writes | apply displace_writes | apply ih | apply Only.ite)

theorem stealNow_writes {μ : Writes} {σ : State} (ch : ℕ) (s : State) (h : Only μ σ s) (wchans : μ.chans = true) (wctxs :
    μ.ctxs = true) (wjournal : μ.journal = true) (whost : μ.host = true) (wflt : μ.flt = true) (wcnt : μ.cnt = true) (wlanes :
    μ.lanes = true) (wtor : μ.tor = true) (wout : μ.out = true) :
    Only μ σ (State.stealNow ch s) := by
  unfold State.stealNow
  (repeat' first
    | with_reducible assumption
    | (extract_lets +onlyGivenNames x; first
      | (refine Only.cut (m := μ) (a := σ) (x := x) ?_ (fun hx => ?_); (on_goal 1 => subst x); (on_goal 2 => (clear_value x; rename' x => x')))
      | (clear_value x; rename' x => x'))
    | with_reducible first
        | apply displaceTo_writes | apply findResume_writes | apply wardenRefresh_writes | apply modChan_writes
        | apply count_writes | apply logAt_writes | apply requestStop_writes | apply log_writes | apply Only.ite)

theorem execSteal_writes {μ : Writes} {σ : State} (ch : ℕ) (s : State) (h : Only μ σ s) (wchans : μ.chans = true) (wctxs :
    μ.ctxs = true) (wjournal : μ.journal = true) (whost : μ.host = true) (wflt : μ.flt = true) (wcnt : μ.cnt = true) (wlanes :
    μ.lanes = true) (wtor : μ.tor = true) (wout : μ.out = true) :
    OnlyR μ σ (execSteal ch s) := by
  unfold execSteal
  (repeat' with_reducible first
      | assumption | apply stealNow_writes | apply OnlyR.ite | apply OnlyR.next)

theorem execRun_writes {μ : Writes} {σ : State} (ctx : ℕ) (s : State) (h : Only μ σ s) (wchans : μ.chans = true) (wctxs :
    μ.ctxs = true) (wjournal : μ.journal = true) (whost : μ.host = true) (wflt : μ.flt = true) (wcnt : μ.cnt = true) (wtor :
    μ.tor = true) (wout : μ.out = true) :
    OnlyR μ σ (execRun ctx s) := by
  unfold execRun
  (repeat' first
    | with_reducible assumption
    | (extract_lets +onlyGivenNames x; first
      | (refine Only.cut (m := μ) (a := σ) (x := x) ?_ (fun hx => ?_); (on_goal 1 => subst x); (on_goal 2 => (clear_value x; rename' x => x')))
      | (clear_value x; rename' x => x'))
    | with_reducible first
        | apply finish_writes | apply modChan_writes | apply modCtx_writes | apply modDesc_writes | apply Only.ite
        | apply OnlyR.ite | apply OnlyR.next
    | split)

theorem endRun_writes {μ : Writes} {σ : State} (ch : ℕ) (status : ℕ) (withResult : Bool) (s : State) (h : Only μ σ s) (wchans
    : μ.chans = true) (wctxs : μ.ctxs = true) (wjournal : μ.journal = true) (whost : μ.host = true) (wflt : μ.flt = true)
    (wcnt : μ.cnt = true) (wtor : μ.tor = true) (wout : μ.out = true) :
    Only μ σ (State.endRun ch status withResult s) := by
  unfold State.endRun
  (repeat' first
    | with_reducible assumption
    | (extract_lets +onlyGivenNames x; first
      | (refine Only.cut (m := μ) (a := σ) (x := x) ?_ (fun hx => ?_); (on_goal 1 => subst x); (on_goal 2 => (clear_value x; rename' x => x')))
      | (clear_value x; rename' x => x'))
    | with_reducible first
        | apply modChan_writes | apply modCtx_writes | apply finish_writes | apply Only.ite
    | split)

theorem execRunComplete_writes {μ : Writes} {σ : State} (ch : ℕ) (s : State) (h : Only μ σ s) (wchans : μ.chans = true) (wctxs
    : μ.ctxs = true) (wjournal : μ.journal = true) (whost : μ.host = true) (wflt : μ.flt = true) (wcnt : μ.cnt = true) (wtor :
    μ.tor = true) (wout : μ.out = true) :
    OnlyR μ σ (execRunComplete ch s) := by
  unfold execRunComplete
  (repeat' first
    | with_reducible assumption
    | (extract_lets +onlyGivenNames x; clear_value x; rename' x => x')
    | with_reducible first
        | apply endRun_writes | apply OnlyR.ite | apply OnlyR.next
    | split)

theorem refreshBy_writes {μ : Writes} {σ : State} (ch : ℕ) (t : ℕ) (y2 : ℕ) (y3 : State) (h : Only μ σ y3) (wchans : μ.chans =
    true) (wflt : μ.flt = true) (wcnt : μ.cnt = true) :
    Only μ σ (State.refreshBy ch t y2 y3) := by
  induction y2 generalizing ch t y3 with
  | zero =>
    unfold State.refreshBy
    with_reducible assumption
  | succ n ih =>
    unfold State.refreshBy
    (repeat' with_reducible first
        | assumption | apply wardenRefresh_writes | apply ih | apply Only.ite)

theorem execPrickingStart_writes {μ : Writes} {σ : State} (ch : ℕ) (s : State) (h : Only μ σ s) (wchans : μ.chans = true)
    (wctxs : μ.ctxs = true) (wjournal : μ.journal = true) (whost : μ.host = true) (wflt : μ.flt = true) (wcnt : μ.cnt = true)
    (wthm : μ.thm = true) (wtor : μ.tor = true) (wout : μ.out = true) :
    OnlyR μ σ (execPrickingStart ch s) := by
  unfold execPrickingStart
  (repeat' first
    | with_reducible assumption
    | (extract_lets +onlyGivenNames x; first
      | (refine Only.cut (m := μ) (a := σ) (x := x) ?_ (fun hx => ?_); (on_goal 1 => subst x); (on_goal 2 => (clear_value x; rename' x => x')))
      | (clear_value x; rename' x => x'))
    | with_reducible first
        | apply refreshBy_writes | apply modChan_writes | apply updateStarved_writes | apply finish_writes | apply Only.ite
        | apply OnlyR.ite | apply OnlyR.next
    | split
    | with_reducible apply upd_thm)

end Sys2Proof.Laws
end

