-- ==== Sys2Proof/Laws/OnlyEyelet.lean ====
section
/-! SUPPORT. What the operations of Machine/Eyelet.lean may write. -/

set_option linter.unusedTactic false
set_option linter.unreachableTactic false
set_option linter.unusedVariables false
set_option linter.tactic.unusedName false

namespace Sys2Proof.Laws

open Sys2Proof Sys2Proof.Machine

theorem modEyes_writes {μ : Writes} {σ : State} (ch : ℕ) (f : Eyes → Eyes) (s : State) (h : Only μ σ s) (wchans : μ.chans =
    true) :
    Only μ σ (State.modEyes ch f s) := by
  unfold State.modEyes
  (repeat' with_reducible first
      | assumption | apply modChan_writes)

theorem modEye_writes {μ : Writes} {σ : State} (ch : ℕ) (i : ℕ) (f : Eyelet → Eyelet) (s : State) (h : Only μ σ s) (wchans :
    μ.chans = true) :
    Only μ σ (State.modEye ch i f s) := by
  unfold State.modEye
  (repeat' with_reducible first
      | assumption | apply modEyes_writes)

theorem loseDirect_writes {μ : Writes} {σ : State} (ch : ℕ) (s : State) (h : Only μ σ s) (wchans : μ.chans = true) (wctxs :
    μ.ctxs = true) (wjournal : μ.journal = true) (whost : μ.host = true) (wflt : μ.flt = true) (wcnt : μ.cnt = true) (wtor :
    μ.tor = true) (wout : μ.out = true) :
    Only μ σ (State.loseDirect ch s) := by
  unfold State.loseDirect
  (repeat' first
    | with_reducible first
        | assumption | (intro _)
    | (extract_lets +onlyGivenNames x; first
      | (refine Only.cut (m := μ) (a := σ) (x := x) ?_ (fun hx => ?_); (on_goal 1 => subst x); (on_goal 2 => (clear_value x; rename' x => x')))
      | (clear_value x; rename' x => x'))
    | with_reducible first
        | apply finish_writes | apply Only.ite | apply Only.foldl | apply upd_host)

theorem endRuns_writes {μ : Writes} {σ : State} (ch : ℕ) (status : ℕ) (first : Bool) (y3 : ℕ) (y4 : State) (h : Only μ σ y4)
    (wchans : μ.chans = true) (wctxs : μ.ctxs = true) (wjournal : μ.journal = true) (whost : μ.host = true) (wflt : μ.flt =
    true) (wcnt : μ.cnt = true) (wtor : μ.tor = true) (wout : μ.out = true) :
    Only μ σ (State.endRuns ch status first y3 y4) := by
  induction y3 generalizing ch status first y4 with
  | zero =>
    unfold State.endRuns
    with_reducible assumption
  | succ n ih =>
    unfold State.endRuns
    (repeat' with_reducible first
        | assumption | apply endRun_writes | apply ih | apply Only.ite)

theorem endStops_writes {μ : Writes} {σ : State} (ch : ℕ) (s : State) (h : Only μ σ s) (wchans : μ.chans = true) (wctxs :
    μ.ctxs = true) (wjournal : μ.journal = true) (whost : μ.host = true) (wflt : μ.flt = true) (wcnt : μ.cnt = true) (wtor :
    μ.tor = true) (wout : μ.out = true) :
    Only μ σ (State.endStops ch s) := by
  unfold State.endStops
  (repeat' first
    | with_reducible first
        | assumption | (intro _)
    | (extract_lets +onlyGivenNames x; clear_value x; rename' x => x')
    | with_reducible first
        | apply finish_writes | apply modChan_writes | apply Only.foldl)

theorem retire_writes {μ : Writes} {σ : State} (ch : ℕ) (s : State) (h : Only μ σ s) (wchans : μ.chans = true) (wfrozen :
    μ.frozen = true) (wctxs : μ.ctxs = true) (wjournal : μ.journal = true) (whost : μ.host = true) (wflt : μ.flt = true) (wcnt
    : μ.cnt = true) (wtor : μ.tor = true) (wout : μ.out = true) :
    Only μ σ (State.retire ch s) := by
  unfold State.retire
  (repeat' first
    | with_reducible assumption
    | (extract_lets +onlyGivenNames x; first
      | (refine Only.cut (m := μ) (a := σ) (x := x) ?_ (fun hx => ?_); (on_goal 1 => subst x); (on_goal 2 => (clear_value x; rename' x => x')))
      | (clear_value x; rename' x => x'))
    | with_reducible first
        | apply abandonCrc_writes | apply loseDirect_writes | apply endRuns_writes | apply endStops_writes
        | apply modChan_writes | apply finish_writes
    | split
    | with_reducible apply upd_frozen)

theorem haltSlots_writes {μ : Writes} {σ : State} (ch : ℕ) (cause : ℕ) (s : State) (h : Only μ σ s) (wchans : μ.chans = true)
    (wflt : μ.flt = true) (wcnt : μ.cnt = true) :
    Only μ σ (State.haltSlots ch cause s) := by
  unfold State.haltSlots
  (repeat' first
    | with_reducible assumption
    | (extract_lets +onlyGivenNames x; clear_value x; rename' x => x')
    | with_reducible first
        | apply lastSlot_writes | apply modChan_writes | apply Only.ite)

theorem retireNow_writes {μ : Writes} {σ : State} (ch : ℕ) (cause : ℕ) (s : State) (h : Only μ σ s) (wchans : μ.chans = true)
    (wfrozen : μ.frozen = true) (wctxs : μ.ctxs = true) (wjournal : μ.journal = true) (whost : μ.host = true) (wflt : μ.flt =
    true) (wcnt : μ.cnt = true) (wtor : μ.tor = true) (wout : μ.out = true) :
    Only μ σ (State.retireNow ch cause s) := by
  unfold State.retireNow
  (repeat' first
    | with_reducible assumption
    | (extract_lets +onlyGivenNames x; clear_value x; rename' x => x')
    | with_reducible first
        | apply loseDirect_writes | apply modChan_writes | apply haltSlots_writes | apply retire_writes | apply Only.ite)

theorem liveDarn_writes {μ : Writes} {σ : State} (ch : ℕ) (role : ℕ) (spare : ℕ) (s : State) (h : Only μ σ s) (wchans :
    μ.chans = true) (wflt : μ.flt = true) (wcnt : μ.cnt = true) :
    Only μ σ (State.liveDarn ch role spare s) := by
  unfold State.liveDarn
  (repeat' first
    | with_reducible assumption
    | (extract_lets +onlyGivenNames x; first
      | (refine Only.cut (m := μ) (a := σ) (x := x) ?_ (fun hx => ?_); (on_goal 1 => subst x); (on_goal 2 => (clear_value x; rename' x => x')))
      | (clear_value x; rename' x => x'))
    | with_reducible first
        | apply modEyes_writes | apply recordDarn_writes | apply log_writes | apply Only.ite)

theorem spendEye_writes {μ : Writes} {σ : State} (ch : ℕ) (failed : ℕ) (s : State) (h : Only μ σ s) (wchans : μ.chans = true)
    (wflt : μ.flt = true) (wcnt : μ.cnt = true) :
    Only μ σ (State.spendEye ch failed s) := by
  unfold State.spendEye
  (repeat' with_reducible first
      | assumption | apply modEye_writes | apply erasureAction_writes | apply Only.ite)

theorem applyDarn_writes {μ : Writes} {σ : State} (ch : ℕ) (e : ℕ) (comp : ℕ) (live : Bool) (s : State) (h : Only μ σ s)
    (wchans : μ.chans = true) (wflt : μ.flt = true) (wcnt : μ.cnt = true) :
    Only μ σ (State.applyDarn ch e comp live s) := by
  unfold State.applyDarn
  (repeat' first
    | with_reducible assumption
    | (extract_lets +onlyGivenNames x; clear_value x; rename' x => x')
    | with_reducible first
        | apply log_writes | apply spendEye_writes | apply liveDarn_writes | apply modEyes_writes | apply Only.ite)

theorem cutWrites_writes {μ : Writes} {σ : State} (ch : ℕ) (t : ℕ) (s : State) (h : Only μ σ s) (wchans : μ.chans = true)
    (wdram : μ.dram = true) :
    Only μ σ (State.cutWrites ch t s) := by
  unfold State.cutWrites
  (repeat' with_reducible first
      | assumption | (intro _) | apply undoWrite_writes | apply Only.foldl)

theorem loseClock_writes {μ : Writes} {σ : State} (ch : ℕ) (edge : ℕ) (due : ℕ) (s : State) (h : Only μ σ s) (wchans : μ.chans
    = true) (wdram : μ.dram = true) :
    Only μ σ (State.loseClock ch edge due s) := by
  unfold State.loseClock
  (repeat' with_reducible first
      | assumption | apply modReg_writes | apply cutWrites_writes | apply Only.ite)

theorem noSpareRetire_writes {μ : Writes} {σ : State} (ch : ℕ) (roles : List ℕ) (s : State) (h : Only μ σ s) (wchans : μ.chans
    = true) (wfrozen : μ.frozen = true) (wctxs : μ.ctxs = true) (wjournal : μ.journal = true) (wdram : μ.dram = true) (whost :
    μ.host = true) (wflt : μ.flt = true) (wcnt : μ.cnt = true) (wtor : μ.tor = true) (wout : μ.out = true) :
    Only μ σ (State.noSpareRetire ch roles s) := by
  unfold State.noSpareRetire
  (repeat' first
    | with_reducible first
        | assumption | (intro _)
    | (extract_lets +onlyGivenNames x; refine Only.cut (m := μ) (a := σ) (x := x) ?_ (fun hx => ?_); (on_goal 1 => subst x); (on_goal 2 => (clear_value x; rename' x => x')))
    | with_reducible first
        | apply recordDarn_writes | apply loseClock_writes | apply haltSlots_writes | apply retire_writes
        | apply modChan_writes | apply modReg_writes | apply Only.foldl)

theorem darnCa_writes {μ : Writes} {σ : State} (ch : ℕ) (s : State) (h : Only μ σ s) (wchans : μ.chans = true) (wfrozen :
    μ.frozen = true) (wctxs : μ.ctxs = true) (wjournal : μ.journal = true) (wdram : μ.dram = true) (whost : μ.host = true)
    (wflt : μ.flt = true) (wcnt : μ.cnt = true) (wtor : μ.tor = true) (wout : μ.out = true) :
    Only μ σ (State.darnCa ch s) := by
  unfold State.darnCa
  (repeat' first
    | with_reducible first
        | assumption | (intro _) | apply liveDarn_writes | apply noSpareRetire_writes | apply Only.ite | apply Only.foldl
    | split)

theorem stopFck_writes {μ : Writes} {σ : State} (ch : ℕ) (why : Emergency) (s : State) (h : Only μ σ s) (wchans : μ.chans =
    true) (wdram : μ.dram = true) :
    Only μ σ (State.stopFck ch why s) := by
  unfold State.stopFck
  (repeat' with_reducible first
      | assumption | apply modEyes_writes | apply modReg_writes | apply loseClock_writes)

theorem caEmergency_writes {μ : Writes} {σ : State} (ch : ℕ) (s : State) (h : Only μ σ s) (wchans : μ.chans = true) (wfrozen :
    μ.frozen = true) (wctxs : μ.ctxs = true) (wjournal : μ.journal = true) (wdram : μ.dram = true) (whost : μ.host = true)
    (wflt : μ.flt = true) (wcnt : μ.cnt = true) (wtor : μ.tor = true) (wout : μ.out = true) :
    Only μ σ (State.caEmergency ch s) := by
  unfold State.caEmergency
  (repeat' first
    | with_reducible assumption
    | (extract_lets +onlyGivenNames x; first
      | (refine Only.cut (m := μ) (a := σ) (x := x) ?_ (fun hx => ?_); (on_goal 1 => subst x); (on_goal 2 => (clear_value x; rename' x => x')))
      | (clear_value x; rename' x => x'))
    | with_reducible first
        | apply log_writes | apply haltSlots_writes | apply noSpareRetire_writes | apply stopFck_writes | apply Only.ite)

theorem caFailing_writes {μ : Writes} {σ : State} (ch : ℕ) (i : ℕ) (s : State) (h : Only μ σ s) (wchans : μ.chans = true)
    (wfrozen : μ.frozen = true) (wctxs : μ.ctxs = true) (wjournal : μ.journal = true) (wdram : μ.dram = true) (whost : μ.host
    = true) (wflt : μ.flt = true) (wcnt : μ.cnt = true) (wtor : μ.tor = true) (wout : μ.out = true) :
    Only μ σ (State.caFailing ch i s) := by
  unfold State.caFailing
  (repeat' first
    | with_reducible assumption
    | (extract_lets +onlyGivenNames x; first
      | (refine Only.cut (m := μ) (a := σ) (x := x) ?_ (fun hx => ?_); (on_goal 1 => subst x); (on_goal 2 => (clear_value x; rename' x => x')))
      | (clear_value x; rename' x => x'))
    | with_reducible first
        | apply modEye_writes | apply caEmergency_writes | apply log_writes | apply Only.ite)

theorem eyeFailing_writes {μ : Writes} {σ : State} (ch : ℕ) (i : ℕ) (s : State) (h : Only μ σ s) (wchans : μ.chans = true)
    (wfrozen : μ.frozen = true) (wctxs : μ.ctxs = true) (wjournal : μ.journal = true) (wdram : μ.dram = true) (whost : μ.host
    = true) (wflt : μ.flt = true) (wcnt : μ.cnt = true) (wtor : μ.tor = true) (wout : μ.out = true) :
    Only μ σ (State.eyeFailing ch i s) := by
  unfold State.eyeFailing
  (repeat' first
    | with_reducible assumption
    | (extract_lets +onlyGivenNames x; clear_value x; rename' x => x')
    | with_reducible first
        | apply dataFailing_writes | apply recordDarn_writes | apply log_writes | apply modEye_writes | apply caFailing_writes
        | apply noSpareRetire_writes | apply modChan_writes | apply Only.ite)

theorem spareFails_writes {μ : Writes} {σ : State} (ch : ℕ) (i : ℕ) (s : State) (h : Only μ σ s) (wchans : μ.chans = true)
    (wfrozen : μ.frozen = true) (wctxs : μ.ctxs = true) (wjournal : μ.journal = true) (wdram : μ.dram = true) (whost : μ.host
    = true) (wflt : μ.flt = true) (wcnt : μ.cnt = true) (wtor : μ.tor = true) (wout : μ.out = true) :
    Only μ σ (State.spareFails ch i s) := by
  unfold State.spareFails
  (repeat' first
    | with_reducible assumption
    | (extract_lets +onlyGivenNames x; first
      | (refine Only.cut (m := μ) (a := σ) (x := x) ?_ (fun hx => ?_); (on_goal 1 => subst x); (on_goal 2 => (clear_value x; rename' x => x')))
      | (clear_value x; rename' x => x'))
    | with_reducible first
        | apply recordDarn_writes | apply modEye_writes | apply eraseRole_writes | apply noSpareRetire_writes
        | apply log_writes | apply modChan_writes | apply Only.ite)

theorem lostCommand_writes {μ : Writes} {σ : State} (ch : ℕ) (r : CmdRec) (s : State) (h : Only μ σ s) (wchans : μ.chans =
    true) (wctxs : μ.ctxs = true) (wjournal : μ.journal = true) (wdram : μ.dram = true) (whost : μ.host = true) (wflt : μ.flt
    = true) (wcnt : μ.cnt = true) (wlanes : μ.lanes = true) (wtor : μ.tor = true) (wout : μ.out = true) :
    Only μ σ (State.lostCommand ch r s) := by
  unfold State.lostCommand
  (repeat' first
    | with_reducible assumption
    | (extract_lets +onlyGivenNames x; first
      | (refine Only.cut (m := μ) (a := σ) (x := x) ?_ (fun hx => ?_); (on_goal 1 => subst x); (on_goal 2 => (clear_value x; rename' x => x')))
      | (refine useFun₂ x ?_; subst x; try beta_reduce)
      | (clear_value x; rename' x => x'))
    | with_reducible first
        | apply modChan_writes | apply flyBind_writes | apply modMerge_writes | apply modSrcGroup_writes
        | apply undoWrite_writes | apply stealNow_writes | apply loseWindow_writes | apply Only.ite
    | split)

theorem flagged_writes {μ : Writes} {σ : State} (ch : ℕ) (s : State) (h : Only μ σ s) (wchans : μ.chans = true) (wctxs :
    μ.ctxs = true) (wjournal : μ.journal = true) (wdram : μ.dram = true) (whost : μ.host = true) (wflt : μ.flt = true) (wcnt :
    μ.cnt = true) (wlanes : μ.lanes = true) (wtor : μ.tor = true) (wout : μ.out = true) :
    Only μ σ (State.flagged ch s) := by
  unfold State.flagged
  (repeat' first
    | with_reducible first
        | assumption | (intro _)
    | (extract_lets +onlyGivenNames x; clear_value x; rename' x => x')
    | with_reducible first
        | apply loseWindow_writes | apply lostCommand_writes | apply Only.ite | apply Only.foldl
    | split)

theorem execParityFlag_writes {μ : Writes} {σ : State} (ch : ℕ) (word : BitVec 22) (refused : Bool) (s : State) (h : Only μ σ
    s) (wchans : μ.chans = true) (wfrozen : μ.frozen = true) (wctxs : μ.ctxs = true) (wjournal : μ.journal = true) (wdram :
    μ.dram = true) (whost : μ.host = true) (wflt : μ.flt = true) (wcnt : μ.cnt = true) (wlanes : μ.lanes = true) (wtor : μ.tor
    = true) (wout : μ.out = true) :
    OnlyR μ σ (execParityFlag ch word refused s) := by
  unfold execParityFlag
  (repeat' first
    | with_reducible first
        | assumption | (intro _)
    | (extract_lets +onlyGivenNames x; first
      | (refine Only.cut (m := μ) (a := σ) (x := x) ?_ (fun hx => ?_); (on_goal 1 => subst x); (on_goal 2 => (clear_value x; rename' x => x')))
      | (clear_value x; rename' x => x'))
    | with_reducible first
        | apply flagged_writes | apply modEyes_writes | apply suspectEye_writes | apply caEmergency_writes | apply Only.ite
        | apply OnlyR.ite | apply Only.foldl | apply OnlyR.next)

theorem execStrobeLoss_writes {μ : Writes} {σ : State} (ch : ℕ) (rstAnswers : Bool) (fckAnswers : Bool) (s : State) (h : Only
    μ σ s) (wchans : μ.chans = true) (wfrozen : μ.frozen = true) (wctxs : μ.ctxs = true) (wjournal : μ.journal = true) (wdram
    : μ.dram = true) (whost : μ.host = true) (wflt : μ.flt = true) (wcnt : μ.cnt = true) (wtor : μ.tor = true) (wout : μ.out =
    true) :
    OnlyR μ σ (execStrobeLoss ch rstAnswers fckAnswers s) := by
  unfold execStrobeLoss
  (repeat' first
    | with_reducible assumption
    | (extract_lets +onlyGivenNames x; first
      | (refine Only.cut (m := μ) (a := σ) (x := x) ?_ (fun hx => ?_); (on_goal 1 => subst x); (on_goal 2 => (clear_value x; rename' x => x')))
      | (clear_value x; rename' x => x'))
    | with_reducible first
        | apply log_writes | apply haltSlots_writes | apply liveDarn_writes | apply stopFck_writes | apply modReg_writes
        | apply noSpareRetire_writes | apply OnlyR.ite | apply OnlyR.next)

theorem judgeEye_writes {μ : Writes} {σ : State} (ch : ℕ) (i : ℕ) (w : ℕ) (mids : List ℤ) (fresh : List ℕ) (s : State) (h :
    Only μ σ s) (wchans : μ.chans = true) (wfrozen : μ.frozen = true) (wctxs : μ.ctxs = true) (wjournal : μ.journal = true)
    (wdram : μ.dram = true) (whost : μ.host = true) (wflt : μ.flt = true) (wcnt : μ.cnt = true) (wtor : μ.tor = true) (wout :
    μ.out = true) :
    Only μ σ (State.judgeEye ch i w mids fresh s) := by
  unfold State.judgeEye
  (repeat' first
    | with_reducible assumption
    | (extract_lets +onlyGivenNames x; refine Only.cut (m := μ) (a := σ) (x := x) ?_ (fun hx => ?_); (on_goal 1 => subst x); (on_goal 2 => (clear_value x; rename' x => x')))
    | with_reducible first
        | apply modEye_writes | apply suspectEye_writes | apply log_writes | apply spareFails_writes | apply eyeFailing_writes
        | apply Only.ite)

theorem trainEye_writes {μ : Writes} {σ : State} (ch : ℕ) (fresh : List ℕ) (r : EyeRes) (s : State) (h : Only μ σ s) (wchans :
    μ.chans = true) (wfrozen : μ.frozen = true) (wctxs : μ.ctxs = true) (wjournal : μ.journal = true) (wdram : μ.dram = true)
    (whost : μ.host = true) (wflt : μ.flt = true) (wcnt : μ.cnt = true) (wtor : μ.tor = true) (wout : μ.out = true) :
    Only μ σ (State.trainEye ch fresh r s) := by
  unfold State.trainEye
  (repeat' first
    | with_reducible assumption
    | (extract_lets +onlyGivenNames x; first
      | (refine Only.cut (m := μ) (a := σ) (x := x) ?_ (fun hx => ?_); (on_goal 1 => subst x); (on_goal 2 => (clear_value x; rename' x => x')))
      | (clear_value x; rename' x => x'))
    | with_reducible first
        | apply modEye_writes | apply judgeEye_writes | apply Only.ite)

theorem runDarns_writes {μ : Writes} {σ : State} (ch : ℕ) (s : State) (h : Only μ σ s) (wchans : μ.chans = true) (wfrozen :
    μ.frozen = true) (wctxs : μ.ctxs = true) (wjournal : μ.journal = true) (wdram : μ.dram = true) (whost : μ.host = true)
    (wflt : μ.flt = true) (wcnt : μ.cnt = true) (wtor : μ.tor = true) (wout : μ.out = true) :
    Only μ σ (State.runDarns ch s) := by
  unfold State.runDarns
  (repeat' first
    | with_reducible first
        | assumption | (intro _) | apply liveDarn_writes | apply dataFailing_writes | apply noSpareRetire_writes
        | apply log_writes | apply modEyes_writes | apply Only.ite | apply Only.foldl
    | split)

theorem trainStep_writes {μ : Writes} {σ : State} (ch : ℕ) (l : List EyeRes) (s : State) (h : Only μ σ s) (wchans : μ.chans =
    true) (wfrozen : μ.frozen = true) (wctxs : μ.ctxs = true) (wjournal : μ.journal = true) (wdram : μ.dram = true) (whost :
    μ.host = true) (wflt : μ.flt = true) (wcnt : μ.cnt = true) (wtor : μ.tor = true) (wout : μ.out = true) :
    Only μ σ (State.trainStep ch l s) := by
  unfold State.trainStep
  (repeat' first
    | with_reducible first
        | assumption | (intro _)
    | (extract_lets +onlyGivenNames x; first
      | (refine Only.cut (m := μ) (a := σ) (x := x) ?_ (fun hx => ?_); (on_goal 1 => subst x); (on_goal 2 => (clear_value x; rename' x => x')))
      | (clear_value x; rename' x => x'))
    | with_reducible first
        | apply modChan_writes | apply runDarns_writes | apply trainEye_writes | apply Only.foldl)

theorem sweepEye_writes {μ : Writes} {σ : State} (ch : ℕ) (dn : Bool) (up : Bool) (r : EyeRes) (s : State) (h : Only μ σ s)
    (wchans : μ.chans = true) (wfrozen : μ.frozen = true) (wctxs : μ.ctxs = true) (wjournal : μ.journal = true) (wdram :
    μ.dram = true) (whost : μ.host = true) (wflt : μ.flt = true) (wcnt : μ.cnt = true) (wtor : μ.tor = true) (wout : μ.out =
    true) :
    Only μ σ (State.sweepEye ch dn up r s) := by
  unfold State.sweepEye
  (repeat' first
    | with_reducible assumption
    | (extract_lets +onlyGivenNames x; first
      | (refine Only.cut (m := μ) (a := σ) (x := x) ?_ (fun hx => ?_); (on_goal 1 => subst x); (on_goal 2 => (clear_value x; rename' x => x')))
      | (clear_value x; rename' x => x'))
    | with_reducible first
        | apply modEye_writes | apply judgeEye_writes | apply Only.ite)

theorem sweepEyes_writes {μ : Writes} {σ : State} (ch : ℕ) (dn : Bool) (up : Bool) (is : List ℕ) (l : List EyeRes) (s : State)
    (h : Only μ σ s) (wchans : μ.chans = true) (wfrozen : μ.frozen = true) (wctxs : μ.ctxs = true) (wjournal : μ.journal =
    true) (wdram : μ.dram = true) (whost : μ.host = true) (wflt : μ.flt = true) (wcnt : μ.cnt = true) (wtor : μ.tor = true)
    (wout : μ.out = true) :
    Only μ σ (State.sweepEyes ch dn up is l s) := by
  unfold State.sweepEyes
  (repeat' with_reducible first
      | assumption | (intro _) | apply sweepEye_writes | apply Only.foldl)

theorem calReceiver_writes {μ : Writes} {σ : State} (ch : ℕ) (l : List CalRes) (i : ℕ) (up : Bool) (s : State) (h : Only μ σ
    s) (wchans : μ.chans = true) (wfrozen : μ.frozen = true) (wctxs : μ.ctxs = true) (wjournal : μ.journal = true) (wdram :
    μ.dram = true) (whost : μ.host = true) (wflt : μ.flt = true) (wcnt : μ.cnt = true) (wtor : μ.tor = true) (wout : μ.out =
    true) :
    OnlyP μ σ (State.calReceiver ch l i up s) := by
  unfold State.calReceiver
  (repeat' first
    | with_reducible assumption
    | (extract_lets +onlyGivenNames x; first
      | (refine useFun₂ x ?_; subst x; try beta_reduce)
      | (clear_value x; rename' x => x'))
    | with_reducible first
        | apply modEye_writes | apply eyeFailing_writes | apply OnlyP.ite
    | split
    | with_reducible apply OnlyP.mk)

theorem startCal_writes {μ : Writes} {σ : State} (ch : ℕ) (limit : ℕ) (s : State) (h : Only μ σ s) (wchans : μ.chans = true) :
    Only μ σ (State.startCal ch limit s) := by
  unfold State.startCal
  (repeat' with_reducible first
      | assumption | apply modEyes_writes)

theorem beginCal_writes {μ : Writes} {σ : State} (ch : ℕ) (s : State) (h : Only μ σ s) (wchans : μ.chans = true) :
    Only μ σ (State.beginCal ch s) := by
  unfold State.beginCal
  (repeat' with_reducible first
      | assumption | apply modChan_writes)

theorem endCal_writes {μ : Writes} {σ : State} (ch : ℕ) (unsettled : Bool) (moved : List ℕ) (s : State) (h : Only μ σ s)
    (wchans : μ.chans = true) (wflt : μ.flt = true) (wcnt : μ.cnt = true) :
    Only μ σ (State.endCal ch unsettled moved s) := by
  unfold State.endCal
  (repeat' first
    | with_reducible first
        | assumption | (intro _)
    | (extract_lets +onlyGivenNames x; first
      | (refine Only.cut (m := μ) (a := σ) (x := x) ?_ (fun hx => ?_); (on_goal 1 => subst x); (on_goal 2 => (clear_value x; rename' x => x')))
      | (clear_value x; rename' x => x'))
    | with_reducible first
        | apply modChan_writes | apply log_writes | apply suspectEye_writes | apply Only.ite | apply Only.foldl)

theorem calStep_writes {μ : Writes} {σ : State} (ch : ℕ) (l : List CalRes) (s : State) (h : Only μ σ s) (wchans : μ.chans =
    true) (wfrozen : μ.frozen = true) (wctxs : μ.ctxs = true) (wjournal : μ.journal = true) (wdram : μ.dram = true) (whost :
    μ.host = true) (wflt : μ.flt = true) (wcnt : μ.cnt = true) (wtor : μ.tor = true) (wout : μ.out = true) :
    Only μ σ (State.calStep ch l s) := by
  unfold State.calStep
  (repeat' first
    | with_reducible first
        | assumption | (intro _)
    | (extract_lets +onlyGivenNames x; first
      | (refine Only.cut (m := μ) (a := σ) (x := x) ?_ (fun hx => ?_); (on_goal 1 => subst x); (on_goal 2 => (clear_value x; rename' x => x')))
      | (refine OnlyP.cut (m := μ) (a := σ) (x := x) ?_ (fun hx => ?_); (on_goal 1 => subst x); (on_goal 2 => (clear_value x; rename' x => x')))
      | (clear_value x; rename' x => x'))
    | with_reducible first
        | apply calReceiver_writes | apply modEyes_writes | apply endCal_writes | apply Only.ite | apply OnlyP.foldl
        | apply OnlyP.snd
    | split
    | with_reducible apply OnlyP.mk)

theorem calSteps_writes {μ : Writes} {σ : State} (ch : ℕ) (n : ℕ) (l : List (List CalRes)) (s : State) (h : Only μ σ s)
    (wchans : μ.chans = true) (wfrozen : μ.frozen = true) (wctxs : μ.ctxs = true) (wjournal : μ.journal = true) (wdram :
    μ.dram = true) (whost : μ.host = true) (wflt : μ.flt = true) (wcnt : μ.cnt = true) (wtor : μ.tor = true) (wout : μ.out =
    true) :
    Only μ σ (State.calSteps ch n l s) := by
  unfold State.calSteps
  (repeat' with_reducible first
      | assumption | (intro _) | apply calStep_writes | apply Only.foldl)

theorem calTrigger_writes {μ : Writes} {σ : State} (ch : ℕ) (s : State) (h : Only μ σ s) (wchans : μ.chans = true) :
    Only μ σ (State.calTrigger ch s) := by
  unfold State.calTrigger
  (repeat' first
    | with_reducible assumption
    | (extract_lets +onlyGivenNames x; clear_value x; rename' x => x')
    | with_reducible first
        | apply beginCal_writes | apply startCal_writes | apply Only.ite)

theorem bistSlice_writes {μ : Writes} {σ : State} (ch : ℕ) (d : SliceDiff) (s : State) (h : Only μ σ s) (wchans : μ.chans =
    true) (wfrozen : μ.frozen = true) (wctxs : μ.ctxs = true) (wjournal : μ.journal = true) (whost : μ.host = true) (wflt :
    μ.flt = true) (wcnt : μ.cnt = true) (wtor : μ.tor = true) (wout : μ.out = true) :
    Only μ σ (State.bistSlice ch d s) := by
  unfold State.bistSlice
  (repeat' first
    | with_reducible assumption
    | (extract_lets +onlyGivenNames x; first
      | (refine Only.cut (m := μ) (a := σ) (x := x) ?_ (fun hx => ?_); (on_goal 1 => subst x); (on_goal 2 => (clear_value x; rename' x => x')))
      | (refine useFun₂ x ?_; subst x; try beta_reduce)
      | (clear_value x; rename' x => x'))
    | with_reducible first
        | apply modChan_writes | apply log_writes | apply retireNow_writes | apply Only.ite)

theorem bistSlices_writes {μ : Writes} {σ : State} (ch : ℕ) (n : ℕ) (l : List SliceDiff) (s : State) (h : Only μ σ s) (wchans
    : μ.chans = true) (wfrozen : μ.frozen = true) (wctxs : μ.ctxs = true) (wjournal : μ.journal = true) (whost : μ.host =
    true) (wflt : μ.flt = true) (wcnt : μ.cnt = true) (wtor : μ.tor = true) (wout : μ.out = true) :
    Only μ σ (State.bistSlices ch n l s) := by
  unfold State.bistSlices
  (repeat' with_reducible first
      | assumption | (intro _) | apply bistSlice_writes | apply Only.ite | apply Only.foldl)

theorem restOfRound_writes {μ : Writes} {σ : State} (ch : ℕ) (y1 : List SliceDiff) (y2 : State) (h : Only μ σ y2) (wchans :
    μ.chans = true) (wfrozen : μ.frozen = true) (wctxs : μ.ctxs = true) (wjournal : μ.journal = true) (whost : μ.host = true)
    (wflt : μ.flt = true) (wcnt : μ.cnt = true) (wtor : μ.tor = true) (wout : μ.out = true) :
    Only μ σ (State.restOfRound ch y1 y2) := by
  induction y1 generalizing ch y2 with
  | nil =>
    unfold State.restOfRound
    with_reducible assumption
  | cons x l ih =>
    unfold State.restOfRound
    (repeat' first
      | with_reducible assumption
      | (extract_lets +onlyGivenNames x; first
        | (refine Only.cut (m := μ) (a := σ) (x := x) ?_ (fun hx => ?_); (on_goal 1 => subst x); (on_goal 2 => (clear_value x; rename' x => x')))
        | (clear_value x; rename' x => x'))
      | with_reducible first
          | apply bistSlice_writes | apply ih | apply Only.ite)

theorem execLockstep_writes {μ : Writes} {σ : State} (ch : ℕ) (sigs : List SliceDiff) (s : State) (h : Only μ σ s) (wchans :
    μ.chans = true) (wfrozen : μ.frozen = true) (wctxs : μ.ctxs = true) (wjournal : μ.journal = true) (whost : μ.host = true)
    (wflt : μ.flt = true) (wcnt : μ.cnt = true) (wtor : μ.tor = true) (wout : μ.out = true) :
    OnlyR μ σ (execLockstep ch sigs s) := by
  unfold execLockstep
  (repeat' first
    | with_reducible assumption
    | (extract_lets +onlyGivenNames x; first
      | (refine Only.cut (m := μ) (a := σ) (x := x) ?_ (fun hx => ?_); (on_goal 1 => subst x); (on_goal 2 => (clear_value x; rename' x => x')))
      | (clear_value x; rename' x => x'))
    | with_reducible first
        | apply modChan_writes | apply haltSlots_writes | apply restOfRound_writes | apply log_writes | apply OnlyR.ite
        | apply OnlyR.next)

theorem bistLate_writes {μ : Writes} {σ : State} (ch : ℕ) (s : State) (h : Only μ σ s) (wchans : μ.chans = true) (wflt : μ.flt
    = true) (wcnt : μ.cnt = true) :
    Only μ σ (State.bistLate ch s) := by
  unfold State.bistLate
  (repeat' first
    | with_reducible assumption
    | (extract_lets +onlyGivenNames x; clear_value x; rename' x => x')
    | with_reducible first
        | apply log_writes | apply modChan_writes | apply Only.ite)

theorem execBistIdleTimer_writes {μ : Writes} {σ : State} (ch : ℕ) (s : State) (h : Only μ σ s) (wchans : μ.chans = true) :
    OnlyR μ σ (execBistIdleTimer ch s) := by
  unfold execBistIdleTimer
  (repeat' first
    | with_reducible assumption
    | (extract_lets +onlyGivenNames x; clear_value x; rename' x => x')
    | with_reducible first
        | apply modChan_writes | apply OnlyR.ite | apply OnlyR.next)

theorem chanWrite_writes {μ : Writes} {σ : State} (path : Path) (ch : ℕ) (f : State → State) (s : State) (hf : ∀ s, Only μ σ s
    → Only μ σ (f s)) (h : Only μ σ s) (wflt : μ.flt = true) (wcnt : μ.cnt = true) :
    Only μ σ (State.chanWrite path ch f s) := by
  unfold State.chanWrite
  (repeat' with_reducible first
      | assumption | apply writeIgnored_writes | apply hf | apply Only.ite)

theorem execBistForce_writes {μ : Writes} {σ : State} (path : Path) (ch : ℕ) (s : State) (h : Only μ σ s) (wchans : μ.chans =
    true) (wflt : μ.flt = true) (wcnt : μ.cnt = true) :
    OnlyR μ σ (execBistForce path ch s) := by
  unfold execBistForce
  (repeat' with_reducible first
      | assumption | (intro _) | apply chanWrite_writes | apply modChan_writes | apply OnlyR.next)

theorem execCalForce_writes {μ : Writes} {σ : State} (path : Path) (ch : ℕ) (value : Word) (s : State) (h : Only μ σ s)
    (wchans : μ.chans = true) (wflt : μ.flt = true) (wcnt : μ.cnt = true) :
    OnlyR μ σ (execCalForce path ch value s) := by
  unfold execCalForce
  (repeat' first
    | with_reducible first
        | assumption | (intro _)
    | (extract_lets +onlyGivenNames x; first
      | (refine Only.cut (m := μ) (a := σ) (x := x) ?_ (fun hx => ?_); (on_goal 1 => subst x); (on_goal 2 => (clear_value x; rename' x => x')))
      | (clear_value x; rename' x => x'))
    | with_reducible first
        | apply chanWrite_writes | apply writeIgnored_writes | apply modEyes_writes | apply startCal_writes | apply Only.ite
        | apply OnlyR.next)

theorem execRemapClear_writes {μ : Writes} {σ : State} (path : Path) (ch : ℕ) (value : Word) (s : State) (h : Only μ σ s)
    (wchans : μ.chans = true) (wflt : μ.flt = true) (wcnt : μ.cnt = true) :
    OnlyR μ σ (execRemapClear path ch value s) := by
  unfold execRemapClear
  (repeat' with_reducible first
      | assumption | (intro _) | apply chanWrite_writes | apply modChan_writes | apply OnlyR.next)

theorem execMonitorWindow_writes {μ : Writes} {σ : State} (ch : ℕ) (s : State) (h : Only μ σ s) (wchans : μ.chans = true) :
    OnlyR μ σ (execMonitorWindow ch s) := by
  unfold execMonitorWindow
  (repeat' first
    | with_reducible assumption
    | (extract_lets +onlyGivenNames x; clear_value x; rename' x => x')
    | with_reducible first
        | apply modEyes_writes | apply OnlyR.ite | apply OnlyR.next)

theorem execScrubPeriodBoundary_writes {μ : Writes} {σ : State} (ch : ℕ) (s : State) (h : Only μ σ s) (wchans : μ.chans =
    true) (wflt : μ.flt = true) (wcnt : μ.cnt = true) :
    OnlyR μ σ (execScrubPeriodBoundary ch s) := by
  unfold execScrubPeriodBoundary
  (repeat' first
    | with_reducible assumption
    | (extract_lets +onlyGivenNames x; first
      | (refine Only.cut (m := μ) (a := σ) (x := x) ?_ (fun hx => ?_); (on_goal 1 => subst x); (on_goal 2 => (clear_value x; rename' x => x')))
      | (clear_value x; rename' x => x'))
    | with_reducible first
        | apply checkLate_writes | apply modChan_writes | apply OnlyR.ite | apply OnlyR.next)

theorem execHeartbeatLoss_writes {μ : Writes} {σ : State} (ch : ℕ) (edge : ℕ) (s : State) (h : Only μ σ s) (wchans : μ.chans =
    true) (wdram : μ.dram = true) :
    OnlyR μ σ (execHeartbeatLoss ch edge s) := by
  unfold execHeartbeatLoss
  (repeat' with_reducible first
      | assumption | apply loseClock_writes | apply OnlyR.ite | apply OnlyR.next)

theorem execSelfRefreshInterval_writes {μ : Writes} {σ : State} (ch : ℕ) (s : State) (h : Only μ σ s) (wchans : μ.chans =
    true) :
    OnlyR μ σ (execSelfRefreshInterval ch s) := by
  unfold execSelfRefreshInterval
  (repeat' first
    | with_reducible assumption
    | (extract_lets +onlyGivenNames x; clear_value x; rename' x => x')
    | with_reducible first
        | apply modReg_writes | apply OnlyR.ite | apply OnlyR.next)

theorem exitSr_writes {μ : Writes} {σ : State} (ch : ℕ) (s : State) (h : Only μ σ s) (wchans : μ.chans = true) :
    Only μ σ (State.exitSr ch s) := by
  unfold State.exitSr
  (repeat' with_reducible first
      | assumption | apply beginCal_writes | apply startCal_writes | apply modChan_writes)

end Sys2Proof.Laws
end

