-- ==== Sys2Proof/Laws/OnlyAdmin.lean ====
section
/-! SUPPORT. What the operations of Machine/Admin.lean may write. -/

set_option linter.unusedTactic false
set_option linter.unreachableTactic false
set_option linter.unusedVariables false
set_option linter.tactic.unusedName false

namespace Sys2Proof.Laws

open Sys2Proof Sys2Proof.Machine

theorem takeTs_writes {μ : Writes} {σ : State} (ch : ℕ) (t : ℕ) (s : State) (h : Only μ σ s) (wchans : μ.chans = true) (wlanes
    : μ.lanes = true) :
    Only μ σ (State.takeTs ch t s) := by
  unfold State.takeTs
  (repeat' first
    | with_reducible assumption
    | (extract_lets +onlyGivenNames x; first
      | (refine Only.cut (m := μ) (a := σ) (x := x) ?_ (fun hx => ?_); (on_goal 1 => subst x); (on_goal 2 => (clear_value x; rename' x => x')))
      | (clear_value x; rename' x => x'))
    | with_reducible first
        | apply modChan_writes | apply upd_lanes)

theorem startSections_writes {μ : Writes} {σ : State} (g : ℕ) (t : ℕ) (s : State) (h : Only μ σ s) (wchans : μ.chans = true)
    (wlanes : μ.lanes = true) :
    Only μ σ (State.startSections g t s) := by
  unfold State.startSections
  (repeat' with_reducible first
      | assumption | (intro _) | apply takeTs_writes | apply Only.foldl)

theorem stageMotif_writes {μ : Writes} {σ : State} (ch : ℕ) (x : Section) (m : Motif) (s : State) (h : Only μ σ s) (wfreeNo :
    μ.freeNo = true) (wchans : μ.chans = true) (wdram : μ.dram = true) (wflt : μ.flt = true) (wcnt : μ.cnt = true) :
    Only μ σ (State.stageMotif ch x m s) := by
  unfold State.stageMotif
  (repeat' first
    | with_reducible first
        | assumption | (intro _)
    | (extract_lets +onlyGivenNames x; clear_value x; rename' x => x')
    | with_reducible first
        | apply writeGranule_writes | apply Only.foldl)

theorem stageSection_writes {μ : Writes} {σ : State} (x : Section) (s : State) (h : Only μ σ s) (wfreeNo : μ.freeNo = true)
    (wchans : μ.chans = true) (wdram : μ.dram = true) (wflt : μ.flt = true) (wcnt : μ.cnt = true) :
    Only μ σ (State.stageSection x s) := by
  unfold State.stageSection
  (repeat' with_reducible first
      | assumption | (intro _) | apply stageMotif_writes | apply Only.foldl)

theorem dropRuns_writes {μ : Writes} {σ : State} (ch : ℕ) (s : State) (h : Only μ σ s) (wchans : μ.chans = true) (wctxs :
    μ.ctxs = true) (wjournal : μ.journal = true) (whost : μ.host = true) (wflt : μ.flt = true) (wcnt : μ.cnt = true) (wtor :
    μ.tor = true) (wout : μ.out = true) :
    Only μ σ (State.dropRuns ch s) := by
  unfold State.dropRuns
  (repeat' with_reducible first
      | assumption | apply endRuns_writes)

theorem freshCkpt_writes {μ : Writes} {σ : State} (ch : ℕ) (s : State) (h : Only μ σ s) (wctxs : μ.ctxs = true) :
    Only μ σ (State.freshCkpt ch s) := by
  unfold State.freshCkpt
  (repeat' first
    | with_reducible first
        | assumption | apply modCtx_writes
    | split)

theorem bindSection_writes {μ : Writes} {σ : State} (x : Section) (group : ℕ) (resume : Bool) (s : State) (h : Only μ σ s)
    (wchans : μ.chans = true) (wctxs : μ.ctxs = true) (wjournal : μ.journal = true) (whost : μ.host = true) (wflt : μ.flt =
    true) (wcnt : μ.cnt = true) (wlanes : μ.lanes = true) (wtor : μ.tor = true) (wout : μ.out = true) :
    Only μ σ (State.bindSection x group resume s) := by
  unfold State.bindSection
  (repeat' first
    | with_reducible assumption
    | (extract_lets +onlyGivenNames x; first
      | (refine Only.cut (m := μ) (a := σ) (x := x) ?_ (fun hx => ?_); (on_goal 1 => subst x); (on_goal 2 => (clear_value x; rename' x => x')))
      | (clear_value x; rename' x => x'))
    | with_reducible first
        | apply freshCkpt_writes | apply dropRuns_writes | apply modChan_writes | apply log_writes | apply takeTs_writes
        | apply Only.ite
    | split)

theorem badCheckpoint_writes {μ : Writes} {σ : State} (ch : ℕ) (s : State) (h : Only μ σ s) (wchans : μ.chans = true) (wctxs :
    μ.ctxs = true) (wflt : μ.flt = true) (wcnt : μ.cnt = true) :
    Only μ σ (State.badCheckpoint ch s) := by
  unfold State.badCheckpoint
  (repeat' first
    | with_reducible assumption
    | (extract_lets +onlyGivenNames x; refine Only.cut (m := μ) (a := σ) (x := x) ?_ (fun hx => ?_); (on_goal 1 => subst x); (on_goal 2 => (clear_value x; rename' x => x')))
    | with_reducible first
        | apply modChan_writes | apply halt_writes
    | split)

theorem bindLane_writes {μ : Writes} {σ : State} (l : LaneSection) (s : State) (h : Only μ σ s) (wlanes : μ.lanes = true) :
    Only μ σ (State.bindLane l s) := by
  unfold State.bindLane
  (repeat' with_reducible first
      | assumption | apply modGroup_writes)

theorem unplace_writes {μ : Writes} {σ : State} (es : List DirEntry) (s : State) (h : Only μ σ s) (wchans : μ.chans = true) :
    Only μ σ (State.unplace es s) := by
  unfold State.unplace
  (repeat' with_reducible first
      | assumption | (intro _) | apply modChan_writes | apply Only.foldl)

theorem bindImage_writes {μ : Writes} {σ : State} (img : Image) (resume : Bool) (s : State) (h : Only μ σ s) (wchans : μ.chans
    = true) (wctxs : μ.ctxs = true) (wjournal : μ.journal = true) (whost : μ.host = true) (wflt : μ.flt = true) (wcnt : μ.cnt
    = true) (wlanes : μ.lanes = true) (wtor : μ.tor = true) (wout : μ.out = true) :
    Only μ σ (State.bindImage img resume s) := by
  unfold State.bindImage
  (repeat' first
    | with_reducible first
        | assumption | (intro _)
    | (extract_lets +onlyGivenNames x; refine Only.cut (m := μ) (a := σ) (x := x) ?_ (fun hx => ?_); (on_goal 1 => subst x); (on_goal 2 => (clear_value x; rename' x => x')))
    | with_reducible first
        | apply bindLane_writes | apply bindSection_writes | apply Only.foldl)

theorem inlineChecked_writes {μ : Writes} {σ : State} (b : List Byte) (len : ℕ) (s : State) (h : Only μ σ s) (wcnt : μ.cnt =
    true) :
    Only μ σ (State.inlineChecked b len s) := by
  unfold State.inlineChecked
  (repeat' first
    | with_reducible first
        | assumption | apply inlineJob_writes
    | split)

theorem readImage_writes {μ : Writes} {σ : State} (d : Desc) (f : Fetch) (s : State) (h : Only μ σ s) (wflt : μ.flt = true)
    (wcnt : μ.cnt = true) (wtor : μ.tor = true) (wout : μ.out = true) :
    Only μ σ (State.readImage d f s) := by
  unfold State.readImage
  (repeat' first
    | with_reducible assumption
    | (extract_lets +onlyGivenNames x; refine useFun x ?_; subst x; try beta_reduce)
    | with_reducible first
        | apply hostRead_writes | apply Only.ite)

theorem placeSection_writes {μ : Writes} {σ : State} (x : Section) (s : State) (h : Only μ σ s) (wfreeNo : μ.freeNo = true)
    (wchans : μ.chans = true) (wdram : μ.dram = true) (wflt : μ.flt = true) (wcnt : μ.cnt = true) :
    Only μ σ (State.placeSection x s) := by
  unfold State.placeSection
  (repeat' with_reducible first
      | assumption | apply modChan_writes | apply stageSection_writes)

theorem finLoad_writes {μ : Writes} {σ : State} (n : ℕ) (d : Desc) (v : Verdict) (s : State) (h : Only μ σ s) (wchans :
    μ.chans = true) (wctxs : μ.ctxs = true) (wjournal : μ.journal = true) (whost : μ.host = true) (wflt : μ.flt = true) (wcnt
    : μ.cnt = true) (wtor : μ.tor = true) (wout : μ.out = true) :
    Only μ σ (State.finLoad n d v s) := by
  unfold State.finLoad
  (repeat' with_reducible first
      | assumption | apply finish_writes)

theorem checkLoad_writes {μ : Writes} {σ : State} (n : ℕ) (d : Desc) (image : Option (List Byte)) (fault : Bool) (s : State)
    (h : Only μ σ s) (wchans : μ.chans = true) (wctxs : μ.ctxs = true) (wjournal : μ.journal = true) (whost : μ.host = true)
    (wflt : μ.flt = true) (wcnt : μ.cnt = true) (wtor : μ.tor = true) (wout : μ.out = true) :
    Only μ σ (State.checkLoad n d image fault s) := by
  unfold State.checkLoad
  (repeat' first
    | with_reducible assumption
    | (extract_lets +onlyGivenNames x; refine Only.cut (m := μ) (a := σ) (x := x) ?_ (fun hx => ?_); (on_goal 1 => subst x); (on_goal 2 => (clear_value x; rename' x => x')))
    | with_reducible first
        | apply finLoad_writes | apply inlineChecked_writes | apply log_writes | apply modDesc_writes | apply Only.ite
    | split)

theorem placeLoad_writes {μ : Writes} {σ : State} (n : ℕ) (d : Desc) (image : Option (List Byte)) (badCkpts : List ℕ) (s :
    State) (h : Only μ σ s) (wfreeNo : μ.freeNo = true) (wchans : μ.chans = true) (wctxs : μ.ctxs = true) (wjournal :
    μ.journal = true) (wdram : μ.dram = true) (whost : μ.host = true) (wflt : μ.flt = true) (wcnt : μ.cnt = true) (wlanes :
    μ.lanes = true) (wtor : μ.tor = true) (wout : μ.out = true) :
    Only μ σ (State.placeLoad n d image badCkpts s) := by
  unfold State.placeLoad
  (repeat' first
    | with_reducible first
        | assumption | (intro _)
    | (extract_lets +onlyGivenNames x; first
      | (refine Only.cut (m := μ) (a := σ) (x := x) ?_ (fun hx => ?_); (on_goal 1 => subst x); (on_goal 2 => (clear_value x; rename' x => x')))
      | (clear_value x; rename' x => x'))
    | with_reducible first
        | apply finLoad_writes | apply inlineJob_writes | apply placeSection_writes | apply unplace_writes
        | apply bindImage_writes | apply badCheckpoint_writes | apply Only.foldl
    | split)

theorem execLoadPricking_writes {μ : Writes} {σ : State} (ctx : ℕ) (image : Fetch) (checkerFault : Bool) (badCkpts : List ℕ)
    (s : State) (h : Only μ σ s) (wfreeNo : μ.freeNo = true) (wchans : μ.chans = true) (wctxs : μ.ctxs = true) (wjournal :
    μ.journal = true) (wdram : μ.dram = true) (whost : μ.host = true) (wflt : μ.flt = true) (wcnt : μ.cnt = true) (wlanes :
    μ.lanes = true) (wtor : μ.tor = true) (wout : μ.out = true) :
    OnlyR μ σ (execLoadPricking ctx image checkerFault badCkpts s) := by
  unfold execLoadPricking
  (repeat' first
    | with_reducible first
        | assumption | apply placeLoad_writes | apply readImage_writes | apply finish_writes | apply checkLoad_writes
        | apply OnlyR.ite | apply OnlyR.next
    | split)

theorem startPlaced_writes {μ : Writes} {σ : State} (ch : ℕ) (n : ℕ) (q : ℕ) (group : ℕ) (resume : Bool) (s : State) (h : Only
    μ σ s) (wchans : μ.chans = true) (wctxs : μ.ctxs = true) (wjournal : μ.journal = true) (whost : μ.host = true) (wflt :
    μ.flt = true) (wcnt : μ.cnt = true) (wlanes : μ.lanes = true) (wtor : μ.tor = true) (wout : μ.out = true) :
    Only μ σ (State.startPlaced ch n q group resume s) := by
  unfold State.startPlaced
  (repeat' first
    | with_reducible assumption
    | (extract_lets +onlyGivenNames x; refine Only.cut (m := μ) (a := σ) (x := x) ?_ (fun hx => ?_); (on_goal 1 => subst x); (on_goal 2 => (clear_value x; rename' x => x')))
    | with_reducible first
        | apply finish_writes | apply modChan_writes | apply bindSection_writes | apply modDesc_writes
    | split)

theorem execFuncStart_writes {μ : Writes} {σ : State} (ctx : ℕ) (badCkpt : Bool) (s : State) (h : Only μ σ s) (wchans :
    μ.chans = true) (wctxs : μ.ctxs = true) (wjournal : μ.journal = true) (whost : μ.host = true) (wflt : μ.flt = true) (wcnt
    : μ.cnt = true) (wlanes : μ.lanes = true) (wtor : μ.tor = true) (wout : μ.out = true) :
    OnlyR μ σ (execFuncStart ctx badCkpt s) := by
  unfold execFuncStart
  (repeat' first
    | with_reducible assumption
    | (extract_lets +onlyGivenNames x; clear_value x; rename' x => x')
    | with_reducible first
        | apply finish_writes | apply modDesc_writes | apply startPlaced_writes | apply badCheckpoint_writes
        | apply modChan_writes | apply Only.ite | apply OnlyR.ite | apply OnlyR.next
    | split)

theorem oweHalves_writes {μ : Writes} {σ : State} (ch : ℕ) (s : State) (h : Only μ σ s) (wchans : μ.chans = true) :
    Only μ σ (State.oweHalves ch s) := by
  unfold State.oweHalves
  (repeat' first
    | with_reducible first
        | assumption | (intro _)
    | (extract_lets +onlyGivenNames x; refine Only.cut (m := μ) (a := σ) (x := x) ?_ (fun hx => ?_); (on_goal 1 => subst x); (on_goal 2 => (clear_value x; rename' x => x')))
    | with_reducible first
        | apply modMerge_writes | apply modChan_writes | apply Only.ite | apply Only.foldl)

theorem serveMakeup_writes {μ : Writes} {σ : State} (ch : ℕ) (y1 : ℕ) (y2 : ℕ) (y3 : State) (h : Only μ σ y3) (wfreeNo :
    μ.freeNo = true) (wchans : μ.chans = true) (wdram : μ.dram = true) (wflt : μ.flt = true) (wcnt : μ.cnt = true) :
    Only μ σ (State.serveMakeup ch y1 y2 y3) := by
  induction y1 generalizing ch y2 y3 with
  | zero =>
    unfold State.serveMakeup
    with_reducible assumption
  | succ n ih =>
    unfold State.serveMakeup
    (repeat' first
      | with_reducible first
          | assumption | apply modChan_writes | apply makeupOp_writes | apply ih
      | split)

theorem stopRuns_writes {μ : Writes} {σ : State} (ch : ℕ) (y1 : ℕ) (y2 : State) (h : Only μ σ y2) (wchans : μ.chans = true)
    (wctxs : μ.ctxs = true) (wjournal : μ.journal = true) (whost : μ.host = true) (wflt : μ.flt = true) (wcnt : μ.cnt = true)
    (wtor : μ.tor = true) (wout : μ.out = true) :
    Only μ σ (State.stopRuns ch y1 y2) := by
  induction y1 generalizing ch y2 with
  | zero =>
    unfold State.stopRuns
    with_reducible assumption
  | succ n ih =>
    unfold State.stopRuns
    (repeat' first
      | with_reducible assumption
      | (extract_lets +onlyGivenNames x; clear_value x; rename' x => x')
      | with_reducible first
          | apply endRun_writes | apply ih | apply Only.ite
      | split)

theorem dropStarter_writes {μ : Writes} {σ : State} (ch : ℕ) (s : State) (h : Only μ σ s) (wchans : μ.chans = true) (wctxs :
    μ.ctxs = true) (wjournal : μ.journal = true) (whost : μ.host = true) (wflt : μ.flt = true) (wcnt : μ.cnt = true) (wtor :
    μ.tor = true) (wout : μ.out = true) :
    Only μ σ (State.dropStarter ch s) := by
  unfold State.dropStarter
  (repeat' first
    | with_reducible first
        | assumption | apply finish_writes | apply modChan_writes
    | split)

theorem retireIfDone_writes {μ : Writes} {σ : State} (ch : ℕ) (s : State) (h : Only μ σ s) (wchans : μ.chans = true) (wfrozen
    : μ.frozen = true) (wctxs : μ.ctxs = true) (wjournal : μ.journal = true) (whost : μ.host = true) (wflt : μ.flt = true)
    (wcnt : μ.cnt = true) (wtor : μ.tor = true) (wout : μ.out = true) :
    Only μ σ (State.retireIfDone ch s) := by
  unfold State.retireIfDone
  (repeat' first
    | with_reducible assumption
    | (extract_lets +onlyGivenNames x; clear_value x; rename' x => x')
    | with_reducible first
        | apply retire_writes | apply Only.ite)

theorem stopped_writes {μ : Writes} {σ : State} (ch : ℕ) (s : State) (h : Only μ σ s) (wchans : μ.chans = true) (wfrozen :
    μ.frozen = true) (wctxs : μ.ctxs = true) (wjournal : μ.journal = true) (whost : μ.host = true) (wflt : μ.flt = true) (wcnt
    : μ.cnt = true) (wlanes : μ.lanes = true) (wtor : μ.tor = true) (wout : μ.out = true) :
    Only μ σ (State.stopped ch s) := by
  unfold State.stopped
  (repeat' first
    | with_reducible assumption
    | (extract_lets +onlyGivenNames x; refine Only.cut (m := μ) (a := σ) (x := x) ?_ (fun hx => ?_); (on_goal 1 => subst x); (on_goal 2 => (clear_value x; rename' x => x')))
    | with_reducible first
        | apply stopRuns_writes | apply stopWaiting_writes | apply endPanic_writes | apply dropStarter_writes
        | apply modChan_writes | apply endStops_writes | apply retireIfDone_writes | apply startPlaced_writes | apply Only.ite
    | split)

theorem execShutDown_writes {μ : Writes} {σ : State} (ch : ℕ) (s : State) (h : Only μ σ s) (wfreeNo : μ.freeNo = true) (wchans
    : μ.chans = true) (wfrozen : μ.frozen = true) (wctxs : μ.ctxs = true) (wjournal : μ.journal = true) (wdram : μ.dram =
    true) (whost : μ.host = true) (wflt : μ.flt = true) (wcnt : μ.cnt = true) (wlanes : μ.lanes = true) (wtor : μ.tor = true)
    (wout : μ.out = true) :
    OnlyR μ σ (execShutDown ch s) := by
  unfold execShutDown
  (repeat' first
    | with_reducible assumption
    | (extract_lets +onlyGivenNames x; first
      | (refine Only.cut (m := μ) (a := σ) (x := x) ?_ (fun hx => ?_); (on_goal 1 => subst x); (on_goal 2 => (clear_value x; rename' x => x')))
      | (clear_value x; rename' x => x'))
    | with_reducible first
        | apply oweHalves_writes | apply serveMakeup_writes | apply stopped_writes | apply Only.ite | apply OnlyR.ite
        | apply OnlyR.next)

theorem supersede_writes {μ : Writes} {σ : State} (ch : ℕ) (s : State) (h : Only μ σ s) (wchans : μ.chans = true) (wctxs :
    μ.ctxs = true) (wjournal : μ.journal = true) (whost : μ.host = true) (wflt : μ.flt = true) (wcnt : μ.cnt = true) (wtor :
    μ.tor = true) (wout : μ.out = true) :
    Only μ σ (State.supersede ch s) := by
  unfold State.supersede
  (repeat' first
    | with_reducible first
        | assumption | apply finish_writes | apply modChan_writes
    | split)

theorem stopRunning_writes {μ : Writes} {σ : State} (ch : ℕ) (atEnd : Bool) (s : State) (h : Only μ σ s) (wchans : μ.chans =
    true) :
    Only μ σ (State.stopRunning ch atEnd s) := by
  unfold State.stopRunning
  (repeat' first
    | with_reducible assumption
    | (extract_lets +onlyGivenNames x; first
      | (refine Only.cut (m := μ) (a := σ) (x := x) ?_ (fun hx => ?_); (on_goal 1 => subst x); (on_goal 2 => (clear_value x; rename' x => x')))
      | (clear_value x; rename' x => x'))
    | with_reducible first
        | apply requestStop_writes | apply modChan_writes | apply Only.ite
    | split)

theorem stopStarting_writes {μ : Writes} {σ : State} (ch : ℕ) (cause : ℕ) (s : State) (h : Only μ σ s) (wchans : μ.chans =
    true) (wfrozen : μ.frozen = true) (wctxs : μ.ctxs = true) (wjournal : μ.journal = true) (whost : μ.host = true) (wflt :
    μ.flt = true) (wcnt : μ.cnt = true) (wlanes : μ.lanes = true) (wtor : μ.tor = true) (wout : μ.out = true) :
    Only μ σ (State.stopStarting ch cause s) := by
  unfold State.stopStarting
  (repeat' with_reducible first
      | assumption | apply stopped_writes | apply modChan_writes)

theorem settleRetire_writes {μ : Writes} {σ : State} (ch : ℕ) (s : State) (h : Only μ σ s) (wchans : μ.chans = true) (wfrozen
    : μ.frozen = true) (wctxs : μ.ctxs = true) (wjournal : μ.journal = true) (whost : μ.host = true) (wflt : μ.flt = true)
    (wcnt : μ.cnt = true) (wlanes : μ.lanes = true) (wtor : μ.tor = true) (wout : μ.out = true) :
    Only μ σ (State.settleRetire ch s) := by
  unfold State.settleRetire
  (repeat' first
    | with_reducible assumption
    | (extract_lets +onlyGivenNames x; clear_value x; rename' x => x')
    | with_reducible first
        | apply stopStarting_writes | apply requestStop_writes | apply retireIfDone_writes | apply Only.ite)

theorem execFuncStop_writes {μ : Writes} {σ : State} (ctx : ℕ) (s : State) (h : Only μ σ s) (wchans : μ.chans = true) (wfrozen
    : μ.frozen = true) (wctxs : μ.ctxs = true) (wjournal : μ.journal = true) (whost : μ.host = true) (wflt : μ.flt = true)
    (wcnt : μ.cnt = true) (wlanes : μ.lanes = true) (wtor : μ.tor = true) (wout : μ.out = true) :
    OnlyR μ σ (execFuncStop ctx s) := by
  unfold execFuncStop
  (repeat' first
    | with_reducible assumption
    | (extract_lets +onlyGivenNames x; first
      | (refine useFun x ?_; subst x; try beta_reduce)
      | (clear_value x; rename' x => x'))
    | with_reducible first
        | apply modDesc_writes | apply modChan_writes | apply finish_writes | apply supersede_writes
        | apply stopStarting_writes | apply stopRunning_writes | apply OnlyR.ite | apply OnlyR.next
    | split)

end Sys2Proof.Laws
end

