-- ==== Sys2Proof/Laws/OnlyContext.lean ====
section
/-! SUPPORT. What the operations of Machine/Context.lean may write. -/

set_option linter.unusedTactic false
set_option linter.unreachableTactic false
set_option linter.unusedVariables false
set_option linter.tactic.unusedName false

namespace Sys2Proof.Laws

open Sys2Proof Sys2Proof.Machine

theorem execNop_writes {μ : Writes} {σ : State} (ctx : ℕ) (s : State) (h : Only μ σ s) (wchans : μ.chans = true) (wctxs :
    μ.ctxs = true) (wjournal : μ.journal = true) (whost : μ.host = true) (wflt : μ.flt = true) (wcnt : μ.cnt = true) (wtor :
    μ.tor = true) (wout : μ.out = true) :
    OnlyR μ σ (execNop ctx s) := by
  unfold execNop
  (repeat' first
    | with_reducible first
        | assumption | apply finish_writes | apply OnlyR.next
    | split)

theorem execWait_writes {μ : Writes} {σ : State} (ctx : ℕ) (s : State) (h : Only μ σ s) (wchans : μ.chans = true) (wctxs :
    μ.ctxs = true) (wjournal : μ.journal = true) (whost : μ.host = true) (wflt : μ.flt = true) (wcnt : μ.cnt = true) (wtor :
    μ.tor = true) (wout : μ.out = true) :
    OnlyR μ σ (execWait ctx s) := by
  unfold execWait
  (repeat' first
    | with_reducible first
        | assumption | apply finish_writes | apply modDesc_writes | apply OnlyR.ite | apply OnlyR.next
    | split)

theorem execWaitDone_writes {μ : Writes} {σ : State} (ctx : ℕ) (s : State) (h : Only μ σ s) (wchans : μ.chans = true) (wctxs :
    μ.ctxs = true) (wjournal : μ.journal = true) (whost : μ.host = true) (wflt : μ.flt = true) (wcnt : μ.cnt = true) (wtor :
    μ.tor = true) (wout : μ.out = true) :
    OnlyR μ σ (execWaitDone ctx s) := by
  unfold execWaitDone
  (repeat' first
    | with_reducible assumption
    | (extract_lets +onlyGivenNames x; clear_value x; rename' x => x')
    | with_reducible first
        | apply finish_writes | apply OnlyR.ite | apply OnlyR.next
    | split)

theorem execDbNudge_writes {μ : Writes} {σ : State} (ctx : ℕ) (s : State) (h : Only μ σ s) (whost : μ.host = true) (wflt :
    μ.flt = true) (wcnt : μ.cnt = true) (wtor : μ.tor = true) (wout : μ.out = true) :
    OnlyR μ σ (execDbNudge ctx s) := by
  unfold execDbNudge
  (repeat' first
    | with_reducible assumption
    | (extract_lets +onlyGivenNames x; clear_value x; rename' x => x')
    | with_reducible first
        | apply hostRead_writes | apply OnlyR.ite | apply OnlyR.next
    | split
    | with_reducible apply upd_host)

theorem requestPage_writes {μ : Writes} {σ : State} (s : State) (h : Only μ σ s) (whost : μ.host = true) (wflt : μ.flt = true)
    (wcnt : μ.cnt = true) (wtor : μ.tor = true) (wout : μ.out = true) :
    Only μ σ (State.requestPage s) := by
  unfold State.requestPage
  (repeat' first
    | with_reducible assumption
    | (extract_lets +onlyGivenNames x; clear_value x; rename' x => x')
    | with_reducible first
        | apply hostRead_writes | apply Only.ite | apply upd_host)

theorem execDbNudgeAll_writes {μ : Writes} {σ : State} (s : State) (h : Only μ σ s) (whost : μ.host = true) (wflt : μ.flt =
    true) (wcnt : μ.cnt = true) (wtor : μ.tor = true) (wout : μ.out = true) :
    OnlyR μ σ (execDbNudgeAll s) := by
  unfold execDbNudgeAll
  (repeat' with_reducible first
      | assumption | apply requestPage_writes | apply OnlyR.next)

theorem execDoorbellPoll_writes {μ : Writes} {σ : State} (s : State) (h : Only μ σ s) (whost : μ.host = true) (wflt : μ.flt =
    true) (wcnt : μ.cnt = true) (wtor : μ.tor = true) (wout : μ.out = true) :
    OnlyR μ σ (execDoorbellPoll s) := by
  unfold execDoorbellPoll
  (repeat' first
    | with_reducible assumption
    | (extract_lets +onlyGivenNames x; first
      | (refine Only.cut (m := μ) (a := σ) (x := x) ?_ (fun hx => ?_); (on_goal 1 => subst x); (on_goal 2 => (clear_value x; rename' x => x')))
      | (clear_value x; rename' x => x'))
    | with_reducible first
        | apply requestPage_writes | apply OnlyR.ite | apply OnlyR.next | apply upd_host)

theorem fetchRing_writes {μ : Writes} {σ : State} (n : ℕ) (s : State) (h : Only μ σ s) (wctxs : μ.ctxs = true) (wflt : μ.flt =
    true) (wcnt : μ.cnt = true) (wtor : μ.tor = true) (wout : μ.out = true) :
    Only μ σ (State.fetchRing n s) := by
  unfold State.fetchRing
  (repeat' first
    | with_reducible assumption
    | (extract_lets +onlyGivenNames x; clear_value x; rename' x => x')
    | with_reducible first
        | apply hostRead_writes | apply modCtx_writes | apply Only.ite)

theorem refetchSlot_writes {μ : Writes} {σ : State} (n : ℕ) (s : State) (h : Only μ σ s) (wflt : μ.flt = true) (wcnt : μ.cnt =
    true) (wtor : μ.tor = true) (wout : μ.out = true) :
    Only μ σ (State.refetchSlot n s) := by
  unfold State.refetchSlot
  (repeat' first
    | with_reducible assumption
    | (extract_lets +onlyGivenNames x; clear_value x; rename' x => x')
    | with_reducible apply hostRead_writes)

theorem execDoorbellRead_writes {μ : Writes} {σ : State} (ctx : ℕ) (pi : Word) (piC : Word) (badRecord : Bool) (s : State) (h
    : Only μ σ s) (wctxs : μ.ctxs = true) (whost : μ.host = true) (wflt : μ.flt = true) (wcnt : μ.cnt = true) (wtor : μ.tor =
    true) (wout : μ.out = true) :
    OnlyR μ σ (execDoorbellRead ctx pi piC badRecord s) := by
  unfold execDoorbellRead
  (repeat' first
    | with_reducible assumption
    | (extract_lets +onlyGivenNames x; first
      | (refine Only.cut (m := μ) (a := σ) (x := x) ?_ (fun hx => ?_); (on_goal 1 => subst x); (on_goal 2 => (clear_value x; rename' x => x')))
      | (clear_value x; rename' x => x'))
    | with_reducible first
        | apply halt_writes | apply modCtx_writes | apply log_writes | apply fetchRing_writes | apply Only.ite
        | apply OnlyR.ite | apply OnlyR.next | apply upd_host)

theorem accept_writes {μ : Writes} {σ : State} (n : ℕ) (b : List Byte) (s : State) (h : Only μ σ s) (wchans : μ.chans = true)
    (wctxs : μ.ctxs = true) (wjournal : μ.journal = true) (whost : μ.host = true) (wflt : μ.flt = true) (wcnt : μ.cnt = true)
    (wtor : μ.tor = true) (wout : μ.out = true) :
    Only μ σ (State.accept n b s) := by
  unfold State.accept
  (repeat' first
    | with_reducible assumption
    | (extract_lets +onlyGivenNames x; first
      | (refine Only.cut (m := μ) (a := σ) (x := x) ?_ (fun hx => ?_); (on_goal 1 => subst x); (on_goal 2 => (clear_value x; rename' x => x')))
      | (clear_value x; rename' x => x'))
    | with_reducible first
        | apply modCtx_writes | apply fetchRing_writes | apply drain_writes | apply count_writes | apply upd_host)

theorem examineSeq_writes {μ : Writes} {σ : State} (n : ℕ) (b : List Byte) (s : State) (h : Only μ σ s) (wchans : μ.chans =
    true) (wctxs : μ.ctxs = true) (wjournal : μ.journal = true) (whost : μ.host = true) (wflt : μ.flt = true) (wcnt : μ.cnt =
    true) (wtor : μ.tor = true) (wout : μ.out = true) :
    Only μ σ (State.examineSeq n b s) := by
  unfold State.examineSeq
  (repeat' first
    | with_reducible assumption
    | (extract_lets +onlyGivenNames x; first
      | (refine Only.cut (m := μ) (a := σ) (x := x) ?_ (fun hx => ?_); (on_goal 1 => subst x); (on_goal 2 => (clear_value x; rename' x => x')))
      | (subst x; try beta_reduce))
    | with_reducible first
        | apply accept_writes | apply modCtx_writes | apply count_writes | apply fetchRing_writes | apply log_writes
        | apply halt_writes | apply Only.ite)

theorem execDescriptorExamine_writes {μ : Writes} {σ : State} (ctx : ℕ) (bytes : List Byte) (operandFail : Bool) (s : State)
    (h : Only μ σ s) (wchans : μ.chans = true) (wctxs : μ.ctxs = true) (wjournal : μ.journal = true) (whost : μ.host = true)
    (wflt : μ.flt = true) (wcnt : μ.cnt = true) (wtor : μ.tor = true) (wout : μ.out = true) :
    OnlyR μ σ (execDescriptorExamine ctx bytes operandFail s) := by
  unfold execDescriptorExamine
  (repeat' first
    | with_reducible assumption
    | (extract_lets +onlyGivenNames x; clear_value x; rename' x => x')
    | with_reducible first
        | apply halt_writes | apply refetchSlot_writes | apply log_writes | apply modCtx_writes | apply examineSeq_writes
        | apply OnlyR.ite | apply OnlyR.next)

theorem execHeadRefetch_writes {μ : Writes} {σ : State} (ctx : ℕ) (bytes : List Byte) (s : State) (h : Only μ σ s) (wchans :
    μ.chans = true) (wctxs : μ.ctxs = true) (wjournal : μ.journal = true) (whost : μ.host = true) (wflt : μ.flt = true) (wcnt
    : μ.cnt = true) (wtor : μ.tor = true) (wout : μ.out = true) :
    OnlyR μ σ (execHeadRefetch ctx bytes s) := by
  unfold execHeadRefetch
  (repeat' first
    | with_reducible assumption
    | (extract_lets +onlyGivenNames x; refine Only.cut (m := μ) (a := σ) (x := x) ?_ (fun hx => ?_); (on_goal 1 => subst x); (on_goal 2 => (clear_value x; rename' x => x')))
    | with_reducible first
        | apply refetchSlot_writes | apply halt_writes | apply examineSeq_writes | apply modCtx_writes | apply OnlyR.ite
        | apply OnlyR.next
    | split)

theorem execJournalConfirm_writes {μ : Writes} {σ : State} (ctx : ℕ) (seq : ℕ) (s : State) (h : Only μ σ s) (wchans : μ.chans
    = true) (wctxs : μ.ctxs = true) (wjournal : μ.journal = true) (whost : μ.host = true) (wflt : μ.flt = true) (wcnt : μ.cnt
    = true) (wtor : μ.tor = true) (wout : μ.out = true) :
    OnlyR μ σ (execJournalConfirm ctx seq s) := by
  unfold execJournalConfirm
  (repeat' with_reducible first
      | assumption | apply drainEvery_writes | apply OnlyR.ite | apply OnlyR.next | apply upd_journal)

theorem execMsixTimeout_writes {μ : Writes} {σ : State} (ctx : ℕ) (s : State) (h : Only μ σ s) (wctxs : μ.ctxs = true) (wflt :
    μ.flt = true) (wcnt : μ.cnt = true) (wout : μ.out = true) :
    OnlyR μ σ (execMsixTimeout ctx s) := by
  unfold execMsixTimeout
  (repeat' first
    | with_reducible assumption
    | (extract_lets +onlyGivenNames x; clear_value x; rename' x => x')
    | with_reducible first
        | apply sendMsix_writes | apply OnlyR.ite | apply OnlyR.next)

theorem execDbBaseWrite_writes {μ : Writes} {σ : State} (value : Word) (s : State) (h : Only μ σ s) (whost : μ.host = true)
    (wflt : μ.flt = true) (wcnt : μ.cnt = true) :
    OnlyR μ σ (execDbBaseWrite value s) := by
  unfold execDbBaseWrite
  (repeat' first
    | with_reducible assumption
    | (extract_lets +onlyGivenNames x; clear_value x; rename' x => x')
    | with_reducible first
        | apply writeIgnored_writes | apply OnlyR.ite | apply OnlyR.next | apply upd_host)

theorem admRefuse_writes {μ : Writes} {σ : State} (s : State) (h : Only μ σ s) (whost : μ.host = true) (wflt : μ.flt = true)
    (wcnt : μ.cnt = true) :
    Only μ σ (State.admRefuse s) := by
  unfold State.admRefuse
  (repeat' first
    | with_reducible assumption
    | (extract_lets +onlyGivenNames x; clear_value x; rename' x => x')
    | with_reducible first
        | apply writeIgnored_writes | apply upd_host)

theorem admDisable_writes {μ : Writes} {σ : State} (n : ℕ) (s : State) (h : Only μ σ s) (wchans : μ.chans = true) (wctxs :
    μ.ctxs = true) (wjournal : μ.journal = true) (whost : μ.host = true) (wflt : μ.flt = true) (wcnt : μ.cnt = true) (wtor :
    μ.tor = true) (wout : μ.out = true) :
    Only μ σ (State.admDisable n s) := by
  unfold State.admDisable
  (repeat' first
    | with_reducible assumption
    | (extract_lets +onlyGivenNames x; first
      | (refine Only.cut (m := μ) (a := σ) (x := x) ?_ (fun hx => ?_); (on_goal 1 => subst x); (on_goal 2 => (clear_value x; rename' x => x')))
      | (clear_value x; rename' x => x'))
    | with_reducible first
        | apply admRefuse_writes | apply drain_writes | apply modCtx_writes | apply Only.ite | apply upd_host)

theorem execAdmcfgCommit_writes {μ : Writes} {σ : State} (value : Word) (s : State) (h : Only μ σ s) (wctxs : μ.ctxs = true)
    (whost : μ.host = true) (wflt : μ.flt = true) (wcnt : μ.cnt = true) :
    OnlyR μ σ (execAdmcfgCommit value s) := by
  unfold execAdmcfgCommit
  have h1 : Only μ σ { s with host := { s.host with admCtx := value.toNat % 16 } } := upd_host h whost
  refine OnlyR.ite (OnlyR.next (admRefuse_writes _ h1 (by assumption) (by assumption) (by assumption))) ?_
  refine OnlyR.ite (OnlyR.next (upd_host (configure_writes _ _ _ _ h1 (by assumption)) whost)) ?_
  exact OnlyR.next (admRefuse_writes _ h1 (by assumption) (by assumption) (by assumption))

theorem execAdmcfgDisable_writes {μ : Writes} {σ : State} (value : Word) (s : State) (h : Only μ σ s) (wchans : μ.chans =
    true) (wctxs : μ.ctxs = true) (wjournal : μ.journal = true) (whost : μ.host = true) (wflt : μ.flt = true) (wcnt : μ.cnt =
    true) (wtor : μ.tor = true) (wout : μ.out = true) :
    OnlyR μ σ (execAdmcfgDisable value s) := by
  unfold execAdmcfgDisable
  (repeat' first
    | with_reducible assumption
    | (extract_lets +onlyGivenNames x; first
      | (refine Only.cut (m := μ) (a := σ) (x := x) ?_ (fun hx => ?_); (on_goal 1 => subst x); (on_goal 2 => (clear_value x; rename' x => x')))
      | (clear_value x; rename' x => x'))
    | with_reducible first
        | apply admRefuse_writes | apply admDisable_writes | apply OnlyR.ite | apply OnlyR.next | apply upd_host)

theorem execCtxConfig_writes {μ : Writes} {σ : State} (ctx : ℕ) (s : State) (h : Only μ σ s) (wchans : μ.chans = true) (wctxs
    : μ.ctxs = true) (wjournal : μ.journal = true) (whost : μ.host = true) (wflt : μ.flt = true) (wcnt : μ.cnt = true) (wtor :
    μ.tor = true) (wout : μ.out = true) :
    OnlyR μ σ (execCtxConfig ctx s) := by
  unfold execCtxConfig
  (repeat' first
    | with_reducible assumption
    | (extract_lets +onlyGivenNames x; first
      | (refine OnlyP.cut (m := μ) (a := σ) (x := x) ?_ (fun hx => ?_); (on_goal 1 => subst x); (on_goal 2 => (clear_value x; rename' x => x')))
      | (clear_value x; rename' x => x'))
    | with_reducible first
        | apply finish_writes | apply configure_writes | apply OnlyR.ite | apply OnlyR.next | apply OnlyP.snd
    | split)

theorem execCtxDisable_writes {μ : Writes} {σ : State} (ctx : ℕ) (s : State) (h : Only μ σ s) (wchans : μ.chans = true) (wctxs
    : μ.ctxs = true) (wjournal : μ.journal = true) (whost : μ.host = true) (wflt : μ.flt = true) (wcnt : μ.cnt = true) (wtor :
    μ.tor = true) (wout : μ.out = true) :
    OnlyR μ σ (execCtxDisable ctx s) := by
  unfold execCtxDisable
  (repeat' first
    | with_reducible assumption
    | (extract_lets +onlyGivenNames x; first
      | (refine Only.cut (m := μ) (a := σ) (x := x) ?_ (fun hx => ?_); (on_goal 1 => subst x); (on_goal 2 => (clear_value x; rename' x => x')))
      | (clear_value x; rename' x => x'))
    | with_reducible first
        | apply finish_writes | apply modDesc_writes | apply drain_writes | apply modCtx_writes | apply OnlyR.ite
        | apply OnlyR.next
    | split)

theorem execCtxQuery_writes {μ : Writes} {σ : State} (ctx : ℕ) (s : State) (h : Only μ σ s) (wchans : μ.chans = true) (wctxs :
    μ.ctxs = true) (wjournal : μ.journal = true) (whost : μ.host = true) (wflt : μ.flt = true) (wcnt : μ.cnt = true) (wtor :
    μ.tor = true) (wout : μ.out = true) :
    OnlyR μ σ (execCtxQuery ctx s) := by
  unfold execCtxQuery
  (repeat' first
    | with_reducible assumption
    | (extract_lets +onlyGivenNames x; clear_value x; rename' x => x')
    | with_reducible first
        | apply finish_writes | apply hostWrite_writes | apply OnlyR.ite | apply OnlyR.next
    | split)

end Sys2Proof.Laws
end

