-- ==== Sys2Proof/Laws/OnlyModes.lean ====
section
/-! SUPPORT. What the operations of Machine/Modes.lean may write. -/

set_option linter.unusedTactic false
set_option linter.unreachableTactic false
set_option linter.unusedVariables false
set_option linter.tactic.unusedName false

namespace Sys2Proof.Laws

open Sys2Proof Sys2Proof.Machine

theorem requeue_writes {μ : Writes} {σ : State} (s : State) (h : Only μ σ s) (wctxs : μ.ctxs = true) (whost : μ.host = true)
    (whoop : μ.hoop = true) :
    Only μ σ (State.requeue s) := by
  unfold State.requeue
  (repeat' first
    | with_reducible assumption
    | (extract_lets +onlyGivenNames x; first
      | (refine Only.cut (m := μ) (a := σ) (x := x) ?_ (fun hx => ?_); (on_goal 1 => subst x); (on_goal 2 => (clear_value x; rename' x => x')))
      | (clear_value x; rename' x => x'))
    | with_reducible first
        | apply upd_ctxs | apply upd_host_hoop)

theorem rewriteJournal_writes {μ : Writes} {σ : State} (s : State) (h : Only μ σ s) (wflt : μ.flt = true) (wcnt : μ.cnt =
    true) (wtor : μ.tor = true) (wout : μ.out = true) :
    Only μ σ (State.rewriteJournal s) := by
  unfold State.rewriteJournal
  (repeat' with_reducible first
      | assumption | (intro _) | apply writeRecord_writes | apply Only.foldl)

theorem adminAgain_writes {μ : Writes} {σ : State} (s : State) (h : Only μ σ s) (wchans : μ.chans = true) (wctxs : μ.ctxs =
    true) :
    Only μ σ (State.adminAgain s) := by
  unfold State.adminAgain
  (repeat' first
    | with_reducible assumption
    | (extract_lets +onlyGivenNames x; first
      | (refine Only.cut (m := μ) (a := σ) (x := x) ?_ (fun hx => ?_); (on_goal 1 => subst x); (on_goal 2 => (clear_value x; rename' x => x')))
      | (clear_value x; rename' x => x'))
    | with_reducible first
        | apply upd_chans | apply upd_ctxs)

theorem restartHoop_writes {μ : Writes} {σ : State} (s : State) (h : Only μ σ s) (wchans : μ.chans = true) (wctxs : μ.ctxs =
    true) (wflt : μ.flt = true) (wcnt : μ.cnt = true) (wtor : μ.tor = true) (whoop : μ.hoop = true) (wout : μ.out = true) :
    Only μ σ (State.restartHoop s) := by
  unfold State.restartHoop
  (repeat' first
    | with_reducible assumption
    | (extract_lets +onlyGivenNames x; first
      | (refine Only.cut (m := μ) (a := σ) (x := x) ?_ (fun hx => ?_); (on_goal 1 => subst x); (on_goal 2 => (clear_value x; rename' x => x')))
      | (clear_value x; rename' x => x'))
    | with_reducible first
        | apply adminAgain_writes | apply modDesc_writes | apply rewriteJournal_writes | apply Only.ite
    | split
    | with_reducible first
        | apply upd_chans | apply upd_hoop)

theorem interruptRuns_writes {μ : Writes} {σ : State} (ch : ℕ) (y1 : ℕ) (y2 : State) (h : Only μ σ y2) (wchans : μ.chans =
    true) (wctxs : μ.ctxs = true) (wjournal : μ.journal = true) (whost : μ.host = true) (wflt : μ.flt = true) (wcnt : μ.cnt =
    true) (wtor : μ.tor = true) (wout : μ.out = true) :
    Only μ σ (State.interruptRuns ch y1 y2) := by
  induction y1 generalizing ch y2 with
  | zero =>
    unfold State.interruptRuns
    with_reducible assumption
  | succ n ih =>
    unfold State.interruptRuns
    (repeat' first
      | with_reducible first
          | assumption | apply endRun_writes | apply ih | apply Only.ite
      | split)

theorem cutFunction_writes {μ : Writes} {σ : State} (ch : ℕ) (cause : ℕ) (empty : Bool) (s : State) (h : Only μ σ s) (wchans :
    μ.chans = true) (wfrozen : μ.frozen = true) (wctxs : μ.ctxs = true) (wjournal : μ.journal = true) (whost : μ.host = true)
    (wflt : μ.flt = true) (wcnt : μ.cnt = true) (wtor : μ.tor = true) (wout : μ.out = true) :
    Only μ σ (State.cutFunction ch cause empty s) := by
  unfold State.cutFunction
  (repeat' first
    | with_reducible assumption
    | (extract_lets +onlyGivenNames x; first
      | (refine Only.cut (m := μ) (a := σ) (x := x) ?_ (fun hx => ?_); (on_goal 1 => subst x); (on_goal 2 => (clear_value x; rename' x => x')))
      | (clear_value x; rename' x => x'))
    | with_reducible first
        | apply interruptRuns_writes | apply modChan_writes | apply endPanic_writes | apply retireIfDone_writes
        | apply Only.ite)

theorem cutAll_writes {μ : Writes} {σ : State} (cause : ℕ) (empty : Bool) (s : State) (h : Only μ σ s) (wchans : μ.chans =
    true) (wfrozen : μ.frozen = true) (wctxs : μ.ctxs = true) (wjournal : μ.journal = true) (whost : μ.host = true) (wflt :
    μ.flt = true) (wcnt : μ.cnt = true) (wtor : μ.tor = true) (wout : μ.out = true) :
    Only μ σ (State.cutAll cause empty s) := by
  unfold State.cutAll
  (repeat' with_reducible first
      | assumption | (intro _) | apply cutFunction_writes | apply Only.foldl)

theorem warmBlocks_writes {μ : Writes} {σ : State} (s : State) (h : Only μ σ s) (wchans : μ.chans = true) (wfrozen : μ.frozen
    = true) (wctxs : μ.ctxs = true) (wjournal : μ.journal = true) (whost : μ.host = true) (wflt : μ.flt = true) (wcnt : μ.cnt
    = true) (wlanes : μ.lanes = true) (wtor : μ.tor = true) (wotp : μ.otp = true) (wout : μ.out = true) :
    Only μ σ (State.warmBlocks s) := by
  unfold State.warmBlocks
  (repeat' first
    | with_reducible assumption
    | (extract_lets +onlyGivenNames x; first
      | (refine Only.cut (m := μ) (a := σ) (x := x) ?_ (fun hx => ?_); (on_goal 1 => subst x); (on_goal 2 => (clear_value x; rename' x => x')))
      | (clear_value x; rename' x => x'))
    | with_reducible first
        | apply abandonCrc_writes | apply cutAll_writes | apply upd_chans | apply upd_cnt_lanes_otp)

theorem loseHeartbeat_writes {μ : Writes} {σ : State} (ch : ℕ) (due : ℕ) (s : State) (h : Only μ σ s) (wchans : μ.chans =
    true) (wdram : μ.dram = true) :
    Only μ σ (State.loseHeartbeat ch due s) := by
  unfold State.loseHeartbeat
  (repeat' with_reducible first
      | assumption | apply modReg_writes | apply loseClock_writes)

theorem commandSr_writes {μ : Writes} {σ : State} (ch : ℕ) (s : State) (h : Only μ σ s) (wchans : μ.chans = true) :
    Only μ σ (State.commandSr ch s) := by
  unfold State.commandSr
  (repeat' with_reducible first
      | assumption | apply modReg_writes)

theorem regionsSr_writes {μ : Writes} {σ : State} (hard : Bool) (s : State) (h : Only μ σ s) (wchans : μ.chans = true) (wdram
    : μ.dram = true) :
    Only μ σ (State.regionsSr hard s) := by
  unfold State.regionsSr
  (repeat' with_reducible first
      | assumption | (intro _) | apply loseHeartbeat_writes | apply commandSr_writes | apply Only.ite | apply Only.foldl)

theorem leaveSr_writes {μ : Writes} {σ : State} (ch : ℕ) (wait : ℕ) (s : State) (h : Only μ σ s) (wchans : μ.chans = true) :
    Only μ σ (State.leaveSr ch wait s) := by
  unfold State.leaveSr
  (repeat' with_reducible first
      | assumption | apply modReg_writes)

theorem leaveSrAll_writes {μ : Writes} {σ : State} (wait : ℕ) (reload : Bool) (checks : Option (List BankCheck)) (s : State)
    (h : Only μ σ s) (wchans : μ.chans = true) :
    Only μ σ (State.leaveSrAll wait reload checks s) := by
  unfold State.leaveSrAll
  (repeat' with_reducible first
      | assumption | (intro _) | apply modChan_writes | apply leaveSr_writes | apply Only.foldl)

theorem clocksOn_writes {μ : Writes} {σ : State} (s : State) (h : Only μ σ s) (wchans : μ.chans = true) :
    Only μ σ (State.clocksOn s) := by
  unfold State.clocksOn
  (repeat' with_reducible first
      | assumption | (intro _) | apply modReg_writes | apply Only.foldl)

theorem lanesOff_writes {μ : Writes} {σ : State} (s : State) (h : Only μ σ s) (wlanes : μ.lanes = true) :
    Only μ σ (State.lanesOff s) := by
  unfold State.lanesOff
  (repeat' first
    | with_reducible assumption
    | (extract_lets +onlyGivenNames x; clear_value x; rename' x => x')
    | with_reducible apply upd_lanes)

theorem lanesDetect_writes {μ : Writes} {σ : State} (s : State) (h : Only μ σ s) (wlanes : μ.lanes = true) :
    Only μ σ (State.lanesDetect s) := by
  unfold State.lanesDetect
  (repeat' first
    | with_reducible first
        | assumption | (intro _)
    | (extract_lets +onlyGivenNames x; clear_value x; rename' x => x')
    | with_reducible first
        | apply Only.foldl | apply upd_lanes)

theorem portDetect_writes {μ : Writes} {σ : State} (p : ℕ) (s : State) (h : Only μ σ s) (wlanes : μ.lanes = true) (wtor :
    μ.tor = true) :
    Only μ σ (State.portDetect p s) := by
  unfold State.portDetect
  (repeat' with_reducible first
      | assumption | apply modGroup_writes | apply modPort_writes)

theorem portsDetect_writes {μ : Writes} {σ : State} (s : State) (h : Only μ σ s) (wlanes : μ.lanes = true) (wtor : μ.tor =
    true) :
    Only μ σ (State.portsDetect s) := by
  unfold State.portsDetect
  (repeat' with_reducible first
      | assumption | (intro _) | apply portDetect_writes | apply Only.ite | apply Only.foldl)

theorem checkCandidate_writes {μ : Writes} {σ : State} (s : State) (h : Only μ σ s) (wtor : μ.tor = true) :
    Only μ σ (State.checkCandidate s) := by
  unfold State.checkCandidate
  (repeat' first
    | with_reducible assumption
    | (extract_lets +onlyGivenNames x; clear_value x; rename' x => x')
    | with_reducible first
        | apply Only.ite | apply upd_tor)

theorem startAvs_writes {μ : Writes} {σ : State} (mv : ℕ) (point : ℕ) (s : State) (h : Only μ σ s) (wpwr : μ.pwr = true) (wout
    : μ.out = true) :
    Only μ σ (State.startAvs mv point s) := by
  unfold State.startAvs
  (repeat' first
    | with_reducible assumption
    | (extract_lets +onlyGivenNames x; clear_value x; rename' x => x')
    | with_reducible first
        | apply emit_writes | apply upd_pwr)

theorem dropUnretained_writes {μ : Writes} {σ : State} (s : State) (h : Only μ σ s) (wchans : μ.chans = true) :
    Only μ σ (State.dropUnretained s) := by
  unfold State.dropUnretained
  (repeat' with_reducible first
      | assumption | (intro _) | apply modChan_writes | apply Only.foldl)

theorem answerPower_writes {μ : Writes} {σ : State} (c : Option (ℕ × ℕ)) (status : ℕ) (s : State) (h : Only μ σ s) (wchans :
    μ.chans = true) (wctxs : μ.ctxs = true) (wjournal : μ.journal = true) (whost : μ.host = true) (wflt : μ.flt = true) (wcnt
    : μ.cnt = true) (wtor : μ.tor = true) (wout : μ.out = true) :
    Only μ σ (State.answerPower c status s) := by
  unfold State.answerPower
  (repeat' first
    | with_reducible first
        | assumption | apply finish_writes
    | split)

theorem preempt_writes {μ : Writes} {σ : State} (s : State) (h : Only μ σ s) (wchans : μ.chans = true) (wctxs : μ.ctxs = true)
    (wjournal : μ.journal = true) (whost : μ.host = true) (wflt : μ.flt = true) (wcnt : μ.cnt = true) (wtor : μ.tor = true)
    (wpwr : μ.pwr = true) (wout : μ.out = true) :
    Only μ σ (State.preempt s) := by
  unfold State.preempt
  (repeat' first
    | with_reducible assumption
    | (extract_lets +onlyGivenNames x; first
      | (refine Only.cut (m := μ) (a := σ) (x := x) ?_ (fun hx => ?_); (on_goal 1 => subst x); (on_goal 2 => (clear_value x; rename' x => x')))
      | (clear_value x; rename' x => x'))
    | with_reducible first
        | apply answerPower_writes | apply upd_pwr)

theorem enterSafe_writes {μ : Writes} {σ : State} (hard : Bool) (cause : ℕ) (s : State) (h : Only μ σ s) (wchans : μ.chans =
    true) (wfrozen : μ.frozen = true) (wctxs : μ.ctxs = true) (wjournal : μ.journal = true) (wdram : μ.dram = true) (whost :
    μ.host = true) (wflt : μ.flt = true) (wcnt : μ.cnt = true) (wthm : μ.thm = true) (wlanes : μ.lanes = true) (wtor : μ.tor =
    true) (wpwr : μ.pwr = true) (whoop : μ.hoop = true) (wout : μ.out = true) :
    Only μ σ (State.enterSafe hard cause s) := by
  unfold State.enterSafe
  (repeat' first
    | with_reducible assumption
    | (extract_lets +onlyGivenNames x; first
      | (refine Only.cut (m := μ) (a := σ) (x := x) ?_ (fun hx => ?_); (on_goal 1 => subst x); (on_goal 2 => (clear_value x; rename' x => x')))
      | (clear_value x; rename' x => x'))
    | with_reducible first
        | apply requeue_writes | apply cutAll_writes | apply dropUnretained_writes | apply abandonCrc_writes
        | apply lanesOff_writes | apply regionsSr_writes | apply preempt_writes | apply startAvs_writes | apply Only.ite
        | apply upd_thm_pwr)

theorem enterService_writes {μ : Writes} {σ : State} (source : ℕ) (left : Mode) (s : State) (h : Only μ σ s) (wpwr : μ.pwr =
    true) :
    Only μ σ (State.enterService source left s) := by
  unfold State.enterService
  (repeat' first
    | with_reducible assumption
    | (extract_lets +onlyGivenNames x; clear_value x; rename' x => x')
    | with_reducible apply upd_pwr)

end Sys2Proof.Laws
end

