-- ==== Sys2Proof/Laws/OnlyThermal.lean ====
section
/-! SUPPORT. What the operations of Machine/Thermal.lean may write. -/

set_option linter.unusedTactic false
set_option linter.unreachableTactic false
set_option linter.unusedVariables false
set_option linter.tactic.unusedName false

namespace Sys2Proof.Laws

open Sys2Proof Sys2Proof.Machine

theorem modThm_writes {μ : Writes} {σ : State} (f : Thermal → Thermal) (s : State) (h : Only μ σ s) (wthm : μ.thm = true) :
    Only μ σ (State.modThm f s) := by
  unfold State.modThm
  (repeat' with_reducible first
      | assumption | apply upd_thm)

theorem modSensor_writes {μ : Writes} {σ : State} (i : ℕ) (f : Sensor → Sensor) (s : State) (h : Only μ σ s) (wthm : μ.thm =
    true) :
    Only μ σ (State.modSensor i f s) := by
  unfold State.modSensor
  (repeat' with_reducible first
      | assumption | apply modThm_writes)

theorem takeReading_writes {μ : Writes} {σ : State} (i : ℕ) (t : ℤ) (good : Bool) (s : State) (h : Only μ σ s) (wflt : μ.flt =
    true) (wcnt : μ.cnt = true) (wthm : μ.thm = true) :
    Only μ σ (State.takeReading i t good s) := by
  unfold State.takeReading
  (repeat' first
    | with_reducible assumption
    | (extract_lets +onlyGivenNames x; first
      | (refine Only.cut (m := μ) (a := σ) (x := x) ?_ (fun hx => ?_); (on_goal 1 => subst x); (on_goal 2 => (clear_value x; rename' x => x')))
      | (clear_value x; rename' x => x'))
    | with_reducible first
        | apply modSensor_writes | apply log_writes | apply Only.ite)

theorem fillSubst_writes {μ : Writes} {σ : State} (s : State) (h : Only μ σ s) (wthm : μ.thm = true) :
    Only μ σ (State.fillSubst s) := by
  unfold State.fillSubst
  (repeat' first
    | with_reducible first
        | assumption | (intro _) | apply modSensor_writes | apply Only.foldl
    | split)

theorem thermalRecord_writes {μ : Writes} {σ : State} (kind : ℕ) (sensor : ℕ) (t : ℤ) (s : State) (h : Only μ σ s) (wthm :
    μ.thm = true) :
    Only μ σ (State.thermalRecord kind sensor t s) := by
  unfold State.thermalRecord
  (repeat' with_reducible first
      | assumption | apply modThm_writes)

theorem setBand_writes {μ : Writes} {σ : State} (d : ℕ) (k : ℕ) (t : ℕ) (s : State) (h : Only μ σ s) (wchans : μ.chans = true)
    (wflt : μ.flt = true) (wcnt : μ.cnt = true) (wthm : μ.thm = true) :
    Only μ σ (State.setBand d k t s) := by
  unfold State.setBand
  (repeat' first
    | with_reducible first
        | assumption | (intro _)
    | (extract_lets +onlyGivenNames x; first
      | (refine Only.cut (m := μ) (a := σ) (x := x) ?_ (fun hx => ?_); (on_goal 1 => subst x); (on_goal 2 => (clear_value x; rename' x => x')))
      | (clear_value x; rename' x => x'))
    | with_reducible first
        | apply modThm_writes | apply modChan_writes | apply log_writes | apply thermalRecord_writes | apply condEnd_writes
        | apply Only.ite | apply Only.foldl)

theorem bandSample_writes {μ : Writes} {σ : State} (d : ℕ) (t : ℕ) (s : State) (h : Only μ σ s) (wchans : μ.chans = true)
    (wflt : μ.flt = true) (wcnt : μ.cnt = true) (wthm : μ.thm = true) :
    Only μ σ (State.bandSample d t s) := by
  unfold State.bandSample
  (repeat' first
    | with_reducible assumption
    | (extract_lets +onlyGivenNames x; clear_value x; rename' x => x')
    | with_reducible first
        | apply setBand_writes | apply modThm_writes | apply Only.ite)

theorem execBandFall_writes {μ : Writes} {σ : State} (die : ℕ) (s : State) (h : Only μ σ s) (wchans : μ.chans = true) (wflt :
    μ.flt = true) (wcnt : μ.cnt = true) (wthm : μ.thm = true) :
    OnlyR μ σ (execBandFall die s) := by
  unfold execBandFall
  (repeat' with_reducible first
      | assumption | apply setBand_writes | apply OnlyR.ite | apply OnlyR.next)

theorem logTrip_writes {μ : Writes} {σ : State} (kind : ℕ) (i : ℕ) (t : ℤ) (s : State) (h : Only μ σ s) (wflt : μ.flt = true)
    (wcnt : μ.cnt = true) (wthm : μ.thm = true) :
    Only μ σ (State.logTrip kind i t s) := by
  unfold State.logTrip
  (repeat' with_reducible first
      | assumption | apply logAt_writes | apply thermalRecord_writes)

theorem hardTrip_writes {μ : Writes} {σ : State} (i : ℕ) (t : ℤ) (s : State) (h : Only μ σ s) (wchans : μ.chans = true)
    (wfrozen : μ.frozen = true) (wctxs : μ.ctxs = true) (wjournal : μ.journal = true) (wdram : μ.dram = true) (whost : μ.host
    = true) (wflt : μ.flt = true) (wcnt : μ.cnt = true) (wthm : μ.thm = true) (wlanes : μ.lanes = true) (wtor : μ.tor = true)
    (wpwr : μ.pwr = true) (whoop : μ.hoop = true) (wout : μ.out = true) :
    Only μ σ (State.hardTrip i t s) := by
  unfold State.hardTrip
  (repeat' first
    | with_reducible assumption
    | (extract_lets +onlyGivenNames x; refine Only.cut (m := μ) (a := σ) (x := x) ?_ (fun hx => ?_); (on_goal 1 => subst x); (on_goal 2 => (clear_value x; rename' x => x')))
    | with_reducible first
        | apply logTrip_writes | apply enterSafe_writes | apply modThm_writes)

theorem orderlyTrip_writes {μ : Writes} {σ : State} (i : ℕ) (t : ℤ) (s : State) (h : Only μ σ s) (wchans : μ.chans = true)
    (wfrozen : μ.frozen = true) (wctxs : μ.ctxs = true) (wjournal : μ.journal = true) (whost : μ.host = true) (wflt : μ.flt =
    true) (wcnt : μ.cnt = true) (wthm : μ.thm = true) (wlanes : μ.lanes = true) (wtor : μ.tor = true) (wout : μ.out = true) :
    Only μ σ (State.orderlyTrip i t s) := by
  unfold State.orderlyTrip
  (repeat' first
    | with_reducible first
        | assumption | (intro _)
    | (extract_lets +onlyGivenNames x; first
      | (refine Only.cut (m := μ) (a := σ) (x := x) ?_ (fun hx => ?_); (on_goal 1 => subst x); (on_goal 2 => (clear_value x; rename' x => x')))
      | (clear_value x; rename' x => x'))
    | with_reducible first
        | apply logTrip_writes | apply modThm_writes | apply stopStarting_writes | apply requestStop_writes | apply Only.ite
        | apply Only.foldl)

theorem tripSample_writes {μ : Writes} {σ : State} (s : State) (h : Only μ σ s) (wchans : μ.chans = true) (wfrozen : μ.frozen
    = true) (wctxs : μ.ctxs = true) (wjournal : μ.journal = true) (wdram : μ.dram = true) (whost : μ.host = true) (wflt :
    μ.flt = true) (wcnt : μ.cnt = true) (wthm : μ.thm = true) (wlanes : μ.lanes = true) (wtor : μ.tor = true) (wpwr : μ.pwr =
    true) (whoop : μ.hoop = true) (wout : μ.out = true) :
    Only μ σ (State.tripSample s) := by
  unfold State.tripSample
  (repeat' first
    | with_reducible assumption
    | (extract_lets +onlyGivenNames x; first
      | (refine Only.cut (m := μ) (a := σ) (x := x) ?_ (fun hx => ?_); (on_goal 1 => subst x); (on_goal 2 => (clear_value x; rename' x => x')))
      | (clear_value x; rename' x => x'))
    | with_reducible first
        | apply hardTrip_writes | apply orderlyTrip_writes | apply modThm_writes | apply Only.ite
    | split)

theorem execOrderlyTripComplete_writes {μ : Writes} {σ : State} (s : State) (h : Only μ σ s) (wchans : μ.chans = true)
    (wfrozen : μ.frozen = true) (wctxs : μ.ctxs = true) (wjournal : μ.journal = true) (wdram : μ.dram = true) (whost : μ.host
    = true) (wflt : μ.flt = true) (wcnt : μ.cnt = true) (wthm : μ.thm = true) (wlanes : μ.lanes = true) (wtor : μ.tor = true)
    (wpwr : μ.pwr = true) (whoop : μ.hoop = true) (wout : μ.out = true) :
    OnlyR μ σ (execOrderlyTripComplete s) := by
  unfold execOrderlyTripComplete
  (repeat' with_reducible first
      | assumption | apply enterSafe_writes | apply OnlyR.ite | apply OnlyR.next)

theorem execOrderlyTripTimeout_writes {μ : Writes} {σ : State} (s : State) (h : Only μ σ s) (wchans : μ.chans = true) (wfrozen
    : μ.frozen = true) (wctxs : μ.ctxs = true) (wjournal : μ.journal = true) (wdram : μ.dram = true) (whost : μ.host = true)
    (wflt : μ.flt = true) (wcnt : μ.cnt = true) (wthm : μ.thm = true) (wlanes : μ.lanes = true) (wtor : μ.tor = true) (wpwr :
    μ.pwr = true) (whoop : μ.hoop = true) (wout : μ.out = true) :
    OnlyR μ σ (execOrderlyTripTimeout s) := by
  unfold execOrderlyTripTimeout
  (repeat' first
    | with_reducible first
        | assumption | apply hardTrip_writes | apply OnlyR.ite | apply OnlyR.next
    | split)

theorem execTripConditionClear_writes {μ : Writes} {σ : State} (s : State) (h : Only μ σ s) (wflt : μ.flt = true) (wthm :
    μ.thm = true) :
    OnlyR μ σ (execTripConditionClear s) := by
  unfold execTripConditionClear
  (repeat' first
    | with_reducible assumption
    | (extract_lets +onlyGivenNames x; first
      | (refine Only.cut (m := μ) (a := σ) (x := x) ?_ (fun hx => ?_); (on_goal 1 => subst x); (on_goal 2 => (clear_value x; rename' x => x')))
      | (clear_value x; rename' x => x'))
    | with_reducible first
        | apply modThm_writes | apply OnlyR.ite | apply OnlyR.next | apply upd_flt)

theorem updateFf_writes {μ : Writes} {σ : State} (s : State) (h : Only μ σ s) (wthm : μ.thm = true) :
    Only μ σ (State.updateFf s) := by
  unfold State.updateFf
  (repeat' first
    | with_reducible assumption
    | (extract_lets +onlyGivenNames x; clear_value x; rename' x => x')
    | with_reducible first
        | apply modThm_writes | apply Only.ite)

theorem updateFb_writes {μ : Writes} {σ : State} (s : State) (h : Only μ σ s) (wthm : μ.thm = true) :
    Only μ σ (State.updateFb s) := by
  unfold State.updateFb
  (repeat' first
    | with_reducible assumption
    | (extract_lets +onlyGivenNames x; clear_value x; rename' x => x')
    | with_reducible apply modThm_writes)

theorem driveCool_writes {μ : Writes} {σ : State} (s : State) (h : Only μ σ s) (wthm : μ.thm = true) (wout : μ.out = true) :
    Only μ σ (State.driveCool s) := by
  unfold State.driveCool
  (repeat' with_reducible first
      | assumption | apply emit_writes | apply modThm_writes | apply Only.ite)

theorem execCoolDemPeriod_writes {μ : Writes} {σ : State} (lowReadsHigh : Bool) (releasedReadsLow : Bool) (s : State) (h :
    Only μ σ s) (wthm : μ.thm = true) :
    OnlyR μ σ (execCoolDemPeriod lowReadsHigh releasedReadsLow s) := by
  unfold execCoolDemPeriod
  (repeat' first
    | with_reducible assumption
    | (extract_lets +onlyGivenNames x; clear_value x; rename' x => x')
    | with_reducible first
        | apply modThm_writes | apply OnlyR.ite | apply OnlyR.next)

theorem execCoolStuck_writes {μ : Writes} {σ : State} (s : State) (h : Only μ σ s) (wflt : μ.flt = true) (wcnt : μ.cnt = true)
    (wthm : μ.thm = true) :
    OnlyR μ σ (execCoolStuck s) := by
  unfold execCoolStuck
  (repeat' first
    | with_reducible assumption
    | (extract_lets +onlyGivenNames x; clear_value x; rename' x => x')
    | with_reducible first
        | apply log_writes | apply condEnd_writes | apply modThm_writes | apply OnlyR.ite | apply OnlyR.next)

theorem execCoolStuckClear_writes {μ : Writes} {σ : State} (s : State) (h : Only μ σ s) (wflt : μ.flt = true) (wthm : μ.thm =
    true) :
    OnlyR μ σ (execCoolStuckClear s) := by
  unfold execCoolStuckClear
  (repeat' with_reducible first
      | assumption | apply condEnd_writes | apply modThm_writes | apply OnlyR.ite | apply OnlyR.next)

theorem execCoolCfgWrite_writes {μ : Writes} {σ : State} (value : Word) (s : State) (h : Only μ σ s) (wflt : μ.flt = true)
    (wcnt : μ.cnt = true) (wthm : μ.thm = true) :
    OnlyR μ σ (execCoolCfgWrite value s) := by
  unfold execCoolCfgWrite
  (repeat' first
    | with_reducible assumption
    | (extract_lets +onlyGivenNames x; clear_value x; rename' x => x')
    | with_reducible first
        | apply writeIgnored_writes | apply modThm_writes | apply OnlyR.ite | apply OnlyR.next)

theorem takeSample_writes {μ : Writes} {σ : State} (readings : List ℤ) (t : ℕ) (s : State) (h : Only μ σ s) (wchans : μ.chans
    = true) (wflt : μ.flt = true) (wcnt : μ.cnt = true) (wthm : μ.thm = true) :
    Only μ σ (State.takeSample readings t s) := by
  unfold State.takeSample
  (repeat' first
    | with_reducible first
        | assumption | (intro _)
    | (extract_lets +onlyGivenNames x; first
      | (refine Only.cut (m := μ) (a := σ) (x := x) ?_ (fun hx => ?_); (on_goal 1 => subst x); (on_goal 2 => (clear_value x; rename' x => x')))
      | (clear_value x; rename' x => x'))
    | with_reducible first
        | apply takeReading_writes | apply fillSubst_writes | apply modThm_writes | apply bandSample_writes | apply Only.foldl)

theorem execSensorSample_writes {μ : Writes} {σ : State} (readings : List ℤ) (s : State) (h : Only μ σ s) (wchans : μ.chans =
    true) (wfrozen : μ.frozen = true) (wctxs : μ.ctxs = true) (wjournal : μ.journal = true) (wdram : μ.dram = true) (whost :
    μ.host = true) (wflt : μ.flt = true) (wcnt : μ.cnt = true) (wthm : μ.thm = true) (wlanes : μ.lanes = true) (wtor : μ.tor =
    true) (wpwr : μ.pwr = true) (whoop : μ.hoop = true) (wout : μ.out = true) :
    OnlyR μ σ (execSensorSample readings s) := by
  unfold execSensorSample
  (repeat' first
    | with_reducible assumption
    | (extract_lets +onlyGivenNames x; clear_value x; rename' x => x')
    | with_reducible first
        | apply updateFb_writes | apply tripSample_writes | apply takeSample_writes | apply OnlyR.ite | apply OnlyR.next)

theorem execSensorRecover_writes {μ : Writes} {σ : State} (sensor : ℕ) (s : State) (h : Only μ σ s) (wflt : μ.flt = true)
    (wthm : μ.thm = true) :
    OnlyR μ σ (execSensorRecover sensor s) := by
  unfold execSensorRecover
  (repeat' first
    | with_reducible assumption
    | (extract_lets +onlyGivenNames x; clear_value x; rename' x => x')
    | with_reducible first
        | apply condEnd_writes | apply modSensor_writes | apply OnlyR.ite | apply OnlyR.next)

theorem selectTier_writes {μ : Writes} {σ : State} (ch : ℕ) (i : ℕ) (s : State) (h : Only μ σ s) (wchans : μ.chans = true)
    (wlanes : μ.lanes = true) :
    Only μ σ (State.selectTier ch i s) := by
  unfold State.selectTier
  (repeat' first
    | with_reducible assumption
    | (extract_lets +onlyGivenNames x; first
      | (refine Only.cut (m := μ) (a := σ) (x := x) ?_ (fun hx => ?_); (on_goal 1 => subst x); (on_goal 2 => (clear_value x; rename' x => x')))
      | (clear_value x; rename' x => x'))
    | with_reducible first
        | apply modSeq_writes | apply tierNotice_writes | apply Only.ite)

theorem allocate_writes {μ : Writes} {σ : State} (s : State) (h : Only μ σ s) (wchans : μ.chans = true) (wflt : μ.flt = true)
    (wcnt : μ.cnt = true) (wlanes : μ.lanes = true) :
    Only μ σ (State.allocate s) := by
  unfold State.allocate
  (repeat' first
    | with_reducible first
        | assumption | (intro _)
    | (extract_lets +onlyGivenNames x; first
      | (refine OnlyP.cut (m := μ) (a := σ) (x := x) ?_ (fun hx => ?_); (on_goal 1 => subst x); (on_goal 2 => (clear_value x; rename' x => x')))
      | (clear_value x; rename' x => x'))
    | with_reducible first
        | apply requestStop_writes | apply log_writes | apply selectTier_writes | apply OnlyP.ite | apply OnlyP.foldl
        | apply OnlyP.snd | apply OnlyP.mk)

theorem allTop_writes {μ : Writes} {σ : State} (s : State) (h : Only μ σ s) (wchans : μ.chans = true) (wlanes : μ.lanes =
    true) :
    Only μ σ (State.allTop s) := by
  unfold State.allTop
  (repeat' with_reducible first
      | assumption | (intro _) | apply selectTier_writes | apply Only.foldl)

theorem shedClasses_writes {μ : Writes} {σ : State} (s : State) (h : Only μ σ s) (wchans : μ.chans = true) (wctxs : μ.ctxs =
    true) :
    Only μ σ (State.shedClasses s) := by
  unfold State.shedClasses
  (repeat' first
    | with_reducible first
        | assumption | (intro _)
    | (extract_lets +onlyGivenNames x; first
      | (refine Only.cut (m := μ) (a := σ) (x := x) ?_ (fun hx => ?_); (on_goal 1 => subst x); (on_goal 2 => (clear_value x; rename' x => x')))
      | (clear_value x; rename' x => x'))
    | with_reducible first
        | apply modChan_writes | apply Only.ite | apply Only.foldl | apply upd_ctxs)

theorem setRung_writes {μ : Writes} {σ : State} (n : ℕ) (s : State) (h : Only μ σ s) (wchans : μ.chans = true) (wctxs : μ.ctxs
    = true) (wthm : μ.thm = true) :
    Only μ σ (State.setRung n s) := by
  unfold State.setRung
  (repeat' first
    | with_reducible assumption
    | (extract_lets +onlyGivenNames x; first
      | (refine Only.cut (m := μ) (a := σ) (x := x) ?_ (fun hx => ?_); (on_goal 1 => subst x); (on_goal 2 => (clear_value x; rename' x => x')))
      | (clear_value x; rename' x => x'))
    | with_reducible first
        | apply modThm_writes | apply shedClasses_writes)

theorem settleRung_writes {μ : Writes} {σ : State} (s : State) (h : Only μ σ s) (wchans : μ.chans = true) (wflt : μ.flt =
    true) (wcnt : μ.cnt = true) (wthm : μ.thm = true) (wlanes : μ.lanes = true) :
    Only μ σ (State.settleRung s) := by
  unfold State.settleRung
  (repeat' with_reducible first
      | assumption | apply updateFf_writes | apply allocate_writes | apply allTop_writes | apply Only.ite)

theorem execEvaluation_writes {μ : Writes} {σ : State} (s : State) (h : Only μ σ s) (wchans : μ.chans = true) (wctxs : μ.ctxs
    = true) (wflt : μ.flt = true) (wcnt : μ.cnt = true) (wthm : μ.thm = true) (wlanes : μ.lanes = true) :
    OnlyR μ σ (execEvaluation s) := by
  unfold execEvaluation
  (repeat' first
    | with_reducible assumption
    | (extract_lets +onlyGivenNames x; first
      | (refine Only.cut (m := μ) (a := σ) (x := x) ?_ (fun hx => ?_); (on_goal 1 => subst x); (on_goal 2 => (clear_value x; rename' x => x')))
      | (clear_value x; rename' x => x'))
    | with_reducible first
        | apply modThm_writes | apply log_writes | apply setRung_writes | apply settleRung_writes | apply Only.ite
        | apply OnlyR.ite | apply OnlyR.next)

theorem execRungRestore_writes {μ : Writes} {σ : State} (s : State) (h : Only μ σ s) (wchans : μ.chans = true) (wctxs : μ.ctxs
    = true) (wflt : μ.flt = true) (wcnt : μ.cnt = true) (wthm : μ.thm = true) (wlanes : μ.lanes = true) :
    OnlyR μ σ (execRungRestore s) := by
  unfold execRungRestore
  (repeat' with_reducible first
      | assumption | apply settleRung_writes | apply modThm_writes | apply setRung_writes | apply OnlyR.ite | apply OnlyR.next)

theorem modTd_writes {μ : Writes} {σ : State} (i : ℕ) (f : Diode → Diode) (s : State) (h : Only μ σ s) (wthm : μ.thm = true) :
    Only μ σ (State.modTd i f s) := by
  unfold State.modTd
  (repeat' with_reducible first
      | assumption | apply modThm_writes)

theorem execTdConversion_writes {μ : Writes} {σ : State} (input : ℕ) (dvUv : ℤ) (v1Uv : ℤ) (vrUv : ℤ) (s : State) (h : Only μ
    σ s) (wthm : μ.thm = true) :
    OnlyR μ σ (execTdConversion input dvUv v1Uv vrUv s) := by
  unfold execTdConversion
  (repeat' first
    | with_reducible assumption
    | (extract_lets +onlyGivenNames x; clear_value x; rename' x => x')
    | with_reducible first
        | apply modTd_writes | apply OnlyR.ite | apply OnlyR.next)

theorem execTdFault_writes {μ : Writes} {σ : State} (input : ℕ) (s : State) (h : Only μ σ s) (wflt : μ.flt = true) (wcnt :
    μ.cnt = true) (wthm : μ.thm = true) :
    OnlyR μ σ (execTdFault input s) := by
  unfold execTdFault
  (repeat' first
    | with_reducible assumption
    | (extract_lets +onlyGivenNames x; clear_value x; rename' x => x')
    | with_reducible first
        | apply log_writes | apply modTd_writes | apply OnlyR.ite | apply OnlyR.next)

theorem execTdRecover_writes {μ : Writes} {σ : State} (input : ℕ) (s : State) (h : Only μ σ s) (wflt : μ.flt = true) (wthm :
    μ.thm = true) :
    OnlyR μ σ (execTdRecover input s) := by
  unfold execTdRecover
  (repeat' first
    | with_reducible assumption
    | (extract_lets +onlyGivenNames x; clear_value x; rename' x => x')
    | with_reducible first
        | apply condEnd_writes | apply modTd_writes | apply OnlyR.ite | apply OnlyR.next)

end Sys2Proof.Laws
end

