-- ==== Sys2Proof/Laws/OnlyOtp.lean ====
section
/-! SUPPORT. What the operations of Machine/Otp.lean may write. -/

set_option linter.unusedTactic false
set_option linter.unreachableTactic false
set_option linter.unusedVariables false
set_option linter.tactic.unusedName false

namespace Sys2Proof.Laws

open Sys2Proof Sys2Proof.Machine

theorem modOtp_writes {μ : Writes} {σ : State} (f : Otp → Otp) (s : State) (h : Only μ σ s) (wotp : μ.otp = true) :
    Only μ σ (State.modOtp f s) := by
  unfold State.modOtp
  (repeat' with_reducible first
      | assumption | apply upd_otp)

theorem readFuses_writes {μ : Writes} {σ : State} (l : List (ℕ × OtpReads)) (s : State) (h : Only μ σ s) (wotp : μ.otp = true)
    :
    Only μ σ (State.readFuses l s) := by
  unfold State.readFuses
  (repeat' with_reducible first
      | assumption | apply modOtp_writes)

theorem takeIdentity_writes {μ : Writes} {σ : State} (s : State) (h : Only μ σ s) (wmembers : μ.members = true) (wgradeE :
    μ.gradeE = true) (wflt : μ.flt = true) (wcnt : μ.cnt = true) (wpwr : μ.pwr = true) (widDefault : μ.idDefault = true)
    (wserial : μ.serial = true) :
    Only μ σ (State.takeIdentity s) := by
  unfold State.takeIdentity
  (repeat' first
    | with_reducible assumption
    | (extract_lets +onlyGivenNames x; first
      | (refine Only.cut (m := μ) (a := σ) (x := x) ?_ (fun hx => ?_); (on_goal 1 => subst x); (on_goal 2 => (clear_value x; rename' x => x')))
      | (clear_value x; rename' x => x'))
    | with_reducible first
        | apply log_writes | apply Only.ite | apply upd_members_gradeE_idDefault | apply upd_pwr_serial)

theorem bootRead_writes {μ : Writes} {σ : State} (s : State) (h : Only μ σ s) (wmembers : μ.members = true) (wgradeE :
    μ.gradeE = true) (wflt : μ.flt = true) (wcnt : μ.cnt = true) (wpwr : μ.pwr = true) (wotp : μ.otp = true) (widDefault :
    μ.idDefault = true) (wserial : μ.serial = true) :
    Only μ σ (State.bootRead s) := by
  unfold State.bootRead
  (repeat' first
    | with_reducible first
        | assumption | (intro _)
    | (extract_lets +onlyGivenNames x; first
      | (refine Only.cut (m := μ) (a := σ) (x := x) ?_ (fun hx => ?_); (on_goal 1 => subst x); (on_goal 2 => (clear_value x; rename' x => x')))
      | (clear_value x; rename' x => x'))
    | with_reducible first
        | apply modOtp_writes | apply log_writes | apply takeIdentity_writes | apply Only.ite | apply Only.foldl
    | split)

theorem otpRead_writes {μ : Writes} {σ : State} (p : Path) (w : ℕ) (ref : ℕ) (s : State) (h : Only μ σ s) (wotp : μ.otp =
    true) :
    Only μ σ (State.otpRead p w ref s) := by
  unfold State.otpRead
  (repeat' first
    | with_reducible assumption
    | (extract_lets +onlyGivenNames x; clear_value x; rename' x => x')
    | with_reducible apply modOtp_writes)

theorem serveReads_writes {μ : Writes} {σ : State} (s : State) (h : Only μ σ s) (wotp : μ.otp = true) :
    Only μ σ (State.serveReads s) := by
  unfold State.serveReads
  (repeat' with_reducible first
      | assumption | (intro _) | apply otpRead_writes | apply modOtp_writes | apply Only.foldl)

theorem execOtpRead_writes {μ : Writes} {σ : State} (path : Path) (value : Word) (s : State) (h : Only μ σ s) (wflt : μ.flt =
    true) (wcnt : μ.cnt = true) (wotp : μ.otp = true) :
    OnlyR μ σ (execOtpRead path value s) := by
  unfold execOtpRead
  (repeat' first
    | with_reducible assumption
    | (extract_lets +onlyGivenNames x; first
      | (refine Only.cut (m := μ) (a := σ) (x := x) ?_ (fun hx => ?_); (on_goal 1 => subst x); (on_goal 2 => (clear_value x; rename' x => x')))
      | (clear_value x; rename' x => x'))
    | with_reducible first
        | apply writeIgnored_writes | apply modOtp_writes | apply otpRead_writes | apply Only.ite | apply OnlyR.ite
        | apply OnlyR.next)

theorem burnThermal_writes {μ : Writes} {σ : State} (s : State) (h : Only μ σ s) (wthm : μ.thm = true) :
    Only μ σ (State.burnThermal s) := by
  unfold State.burnThermal
  (repeat' with_reducible first
      | assumption | apply modThm_writes)

theorem burnEnd_writes {μ : Writes} {σ : State} (b : Burn) (status : ℕ) (s : State) (h : Only μ σ s) (wchans : μ.chans = true)
    (wctxs : μ.ctxs = true) (wjournal : μ.journal = true) (whost : μ.host = true) (wflt : μ.flt = true) (wcnt : μ.cnt = true)
    (wthm : μ.thm = true) (wtor : μ.tor = true) (wotp : μ.otp = true) (wout : μ.out = true) :
    Only μ σ (State.burnEnd b status s) := by
  unfold State.burnEnd
  (repeat' first
    | with_reducible assumption
    | (extract_lets +onlyGivenNames x; first
      | (refine Only.cut (m := μ) (a := σ) (x := x) ?_ (fun hx => ?_); (on_goal 1 => subst x); (on_goal 2 => (clear_value x; rename' x => x')))
      | (subst x; try beta_reduce))
    | with_reducible first
        | apply serveReads_writes | apply modOtp_writes | apply log_writes | apply finish_writes | apply burnThermal_writes
        | apply Only.ite
    | split)

theorem burnGo_writes {μ : Writes} {σ : State} (b : Burn) (s : State) (h : Only μ σ s) (wchans : μ.chans = true) (wctxs :
    μ.ctxs = true) (wjournal : μ.journal = true) (whost : μ.host = true) (wflt : μ.flt = true) (wcnt : μ.cnt = true) (wthm :
    μ.thm = true) (wtor : μ.tor = true) (wotp : μ.otp = true) (wout : μ.out = true) :
    Only μ σ (State.burnGo b s) := by
  unfold State.burnGo
  (repeat' first
    | with_reducible assumption
    | (extract_lets +onlyGivenNames x; clear_value x; rename' x => x')
    | with_reducible first
        | apply modOtp_writes | apply burnEnd_writes
    | split)

theorem execFuseProgram_writes {μ : Writes} {σ : State} (ctx : ℕ) (railsOk : Bool) (vfuse : Bool) (s : State) (h : Only μ σ s)
    (wchans : μ.chans = true) (wctxs : μ.ctxs = true) (wjournal : μ.journal = true) (whost : μ.host = true) (wflt : μ.flt =
    true) (wcnt : μ.cnt = true) (wthm : μ.thm = true) (wtor : μ.tor = true) (wotp : μ.otp = true) (wout : μ.out = true) :
    OnlyR μ σ (execFuseProgram ctx railsOk vfuse s) := by
  unfold execFuseProgram
  (repeat' first
    | with_reducible assumption
    | (extract_lets +onlyGivenNames x; first
      | (refine Only.cut (m := μ) (a := σ) (x := x) ?_ (fun hx => ?_); (on_goal 1 => subst x); (on_goal 2 => (clear_value x; rename' x => x')))
      | (clear_value x; rename' x => x'))
    | with_reducible first
        | apply modOtp_writes | apply finish_writes | apply modDesc_writes | apply burnGo_writes | apply OnlyR.ite
        | apply OnlyR.next
    | split)

theorem execOtpPulseEnd_writes {μ : Writes} {σ : State} (took : Bool) (railsOk : Bool) (vfuse : Bool) (s : State) (h : Only μ
    σ s) (wchans : μ.chans = true) (wctxs : μ.ctxs = true) (wjournal : μ.journal = true) (whost : μ.host = true) (wflt : μ.flt
    = true) (wcnt : μ.cnt = true) (wthm : μ.thm = true) (wtor : μ.tor = true) (wotp : μ.otp = true) (wout : μ.out = true) :
    OnlyR μ σ (execOtpPulseEnd took railsOk vfuse s) := by
  unfold execOtpPulseEnd
  (repeat' first
    | with_reducible assumption
    | (extract_lets +onlyGivenNames x; first
      | (refine Only.cut (m := μ) (a := σ) (x := x) ?_ (fun hx => ?_); (on_goal 1 => subst x); (on_goal 2 => (clear_value x; rename' x => x')))
      | (clear_value x; rename' x => x'))
    | with_reducible first
        | apply modOtp_writes | apply serveReads_writes | apply burnEnd_writes | apply burnGo_writes | apply Only.ite
        | apply OnlyR.ite | apply OnlyR.next
    | split)

theorem stopBurn_writes {μ : Writes} {σ : State} (s : State) (h : Only μ σ s) (wctxs : μ.ctxs = true) (wotp : μ.otp = true) :
    Only μ σ (State.stopBurn s) := by
  unfold State.stopBurn
  (repeat' first
    | with_reducible assumption
    | (extract_lets +onlyGivenNames x; refine Only.cut (m := μ) (a := σ) (x := x) ?_ (fun hx => ?_); (on_goal 1 => subst x); (on_goal 2 => (clear_value x; rename' x => x')))
    | with_reducible first
        | apply modOtp_writes | apply modDesc_writes
    | split)

theorem programRecords_writes {μ : Writes} {σ : State} (s : State) (h : Only μ σ s) (wchans : μ.chans = true) (wctxs : μ.ctxs
    = true) (wjournal : μ.journal = true) (whost : μ.host = true) (wflt : μ.flt = true) (wcnt : μ.cnt = true) (wthm : μ.thm =
    true) (wtor : μ.tor = true) (wotp : μ.otp = true) (wout : μ.out = true) :
    Only μ σ (State.programRecords s) := by
  unfold State.programRecords
  (repeat' first
    | with_reducible first
        | assumption | apply burnGo_writes | apply log_writes | apply modThm_writes | apply Only.ite
    | split)

theorem bootDarns_writes {μ : Writes} {σ : State} (ch : ℕ) (bad : List ℕ) (s : State) (h : Only μ σ s) (wchans : μ.chans =
    true) (wflt : μ.flt = true) (wcnt : μ.cnt = true) :
    Only μ σ (State.bootDarns ch bad s) := by
  unfold State.bootDarns
  (repeat' first
    | with_reducible first
        | assumption | (intro _)
    | (extract_lets +onlyGivenNames x; first
      | (refine Only.cut (m := μ) (a := σ) (x := x) ?_ (fun hx => ?_); (on_goal 1 => subst x); (on_goal 2 => (clear_value x; rename' x => x')))
      | (clear_value x; rename' x => x'))
    | with_reducible first
        | apply applyDarn_writes | apply modEyes_writes | apply Only.foldl)

theorem freeRow_writes {μ : Writes} {σ : State} (ch : ℕ) (b : ℕ) (row : ℕ) (s : State) (h : Only μ σ s) (wfreeNo : μ.freeNo =
    true) (wdram : μ.dram = true) :
    Only μ σ (State.freeRow ch b row s) := by
  unfold State.freeRow
  (repeat' with_reducible first
      | assumption | apply upd_freeNo_dram)

theorem bootRepairs_writes {μ : Writes} {σ : State} (ch : ℕ) (free : List (ℕ × ℕ × ℕ)) (s : State) (h : Only μ σ s) (wfreeNo :
    μ.freeNo = true) (wchans : μ.chans = true) (wdram : μ.dram = true) (wflt : μ.flt = true) (wcnt : μ.cnt = true) :
    Only μ σ (State.bootRepairs ch free s) := by
  unfold State.bootRepairs
  (repeat' first
    | with_reducible first
        | assumption | (intro _)
    | (extract_lets +onlyGivenNames x; first
      | (refine Only.cut (m := μ) (a := σ) (x := x) ?_ (fun hx => ?_); (on_goal 1 => subst x); (on_goal 2 => (clear_value x; rename' x => x')))
      | (refine OnlyP.cut (m := μ) (a := σ) (x := x) ?_ (fun hx => ?_); (on_goal 1 => subst x); (on_goal 2 => (clear_value x; rename' x => x')))
      | (clear_value x; rename' x => x'))
    | with_reducible first
        | apply log_writes | apply freeRow_writes | apply modEyes_writes | apply modChan_writes | apply OnlyP.ite
        | apply Only.foldl | apply OnlyP.foldl | apply OnlyP.snd | apply OnlyP.mk)

theorem purge_writes {μ : Writes} {σ : State} (s : State) (h : Only μ σ s) (wfreeNo : μ.freeNo = true) (wchans : μ.chans =
    true) (wdram : μ.dram = true) (wflt : μ.flt = true) (wcnt : μ.cnt = true) (wpwr : μ.pwr = true) (wotp : μ.otp = true) :
    Only μ σ (State.purge s) := by
  unfold State.purge
  (repeat' first
    | with_reducible first
        | assumption | (intro _)
    | (extract_lets +onlyGivenNames x; first
      | (refine Only.cut (m := μ) (a := σ) (x := x) ?_ (fun hx => ?_); (on_goal 1 => subst x); (on_goal 2 => (clear_value x; rename' x => x')))
      | (clear_value x; rename' x => x'))
    | with_reducible first
        | apply modChan_writes | apply zeroChannel_writes | apply log_writes | apply modOtp_writes | apply Only.ite
        | apply Only.foldl | apply upd_pwr)

theorem patchEntry_writes {μ : Writes} {σ : State} (w : ℕ) (v : ℕ) (s : State) (h : Only μ σ s) (wchans : μ.chans = true)
    (wflt : μ.flt = true) (wcnt : μ.cnt = true) (wotp : μ.otp = true) :
    Only μ σ (State.patchEntry w v s) := by
  unfold State.patchEntry
  (repeat' first
    | with_reducible assumption
    | (extract_lets +onlyGivenNames x; first
      | (refine useFun₂ x ?_; subst x; try beta_reduce)
      | (clear_value x; rename' x => x'))
    | with_reducible first
        | apply applyDarn_writes | apply modOtp_writes | apply Only.ite)

theorem execPatchTable_writes {μ : Writes} {σ : State} (ctx : ℕ) (table : Fetch) (s : State) (h : Only μ σ s) (wchans :
    μ.chans = true) (wctxs : μ.ctxs = true) (wjournal : μ.journal = true) (whost : μ.host = true) (wflt : μ.flt = true) (wcnt
    : μ.cnt = true) (wtor : μ.tor = true) (wotp : μ.otp = true) (wout : μ.out = true) :
    OnlyR μ σ (execPatchTable ctx table s) := by
  unfold execPatchTable
  (repeat' first
    | with_reducible first
        | assumption | (intro _)
    | (extract_lets +onlyGivenNames x; first
      | (refine Only.cut (m := μ) (a := σ) (x := x) ?_ (fun hx => ?_); (on_goal 1 => subst x); (on_goal 2 => (clear_value x; rename' x => x')))
      | (clear_value x; rename' x => x'))
    | with_reducible first
        | apply finish_writes | apply hostRead_writes | apply patchEntry_writes | apply OnlyR.ite | apply Only.foldl
        | apply OnlyR.next
    | split)

theorem keepOverride_writes {μ : Writes} {σ : State} (w : ℕ) (v : Word) (s : State) (h : Only μ σ s) (wflt : μ.flt = true)
    (wcnt : μ.cnt = true) (wotp : μ.otp = true) :
    Only μ σ (State.keepOverride w v s) := by
  unfold State.keepOverride
  (repeat' with_reducible first
      | assumption | apply modOtp_writes | apply log_writes | apply Only.ite)

theorem auditWord_writes {μ : Writes} {σ : State} (w : ℕ) (after : Option OtpReads) (s : State) (h : Only μ σ s) (wflt : μ.flt
    = true) (wcnt : μ.cnt = true) (wotp : μ.otp = true) :
    Only μ σ (State.auditWord w after s) := by
  unfold State.auditWord
  (repeat' first
    | with_reducible assumption
    | (extract_lets +onlyGivenNames x; first
      | (refine Only.cut (m := μ) (a := σ) (x := x) ?_ (fun hx => ?_); (on_goal 1 => subst x); (on_goal 2 => (clear_value x; rename' x => x')))
      | (refine useFun x ?_; subst x; try beta_reduce)
      | (clear_value x; rename' x => x'))
    | with_reducible first
        | apply modOtp_writes | apply log_writes | apply readFuses_writes | apply keepOverride_writes | apply Only.ite
    | split)

theorem audit_writes {μ : Writes} {σ : State} (reads : List (ℕ × OtpReads)) (after : List (ℕ × OtpReads)) (s : State) (h :
    Only μ σ s) (wflt : μ.flt = true) (wcnt : μ.cnt = true) (wotp : μ.otp = true) :
    Only μ σ (State.audit reads after s) := by
  unfold State.audit
  (repeat' first
    | with_reducible first
        | assumption | (intro _)
    | (extract_lets +onlyGivenNames x; refine Only.cut (m := μ) (a := σ) (x := x) ?_ (fun hx => ?_); (on_goal 1 => subst x); (on_goal 2 => (clear_value x; rename' x => x')))
    | with_reducible first
        | apply readFuses_writes | apply modOtp_writes | apply auditWord_writes | apply Only.foldl)

theorem execOtpAudit_writes {μ : Writes} {σ : State} (path : Path) (reads : List (ℕ × OtpReads)) (after : List (ℕ × OtpReads))
    (s : State) (h : Only μ σ s) (wflt : μ.flt = true) (wcnt : μ.cnt = true) (wotp : μ.otp = true) :
    OnlyR μ σ (execOtpAudit path reads after s) := by
  unfold execOtpAudit
  (repeat' with_reducible first
      | assumption | apply audit_writes | apply OnlyR.ite | apply OnlyR.next)

theorem execAuditTimer_writes {μ : Writes} {σ : State} (reads : List (ℕ × OtpReads)) (after : List (ℕ × OtpReads)) (s : State)
    (h : Only μ σ s) (wflt : μ.flt = true) (wcnt : μ.cnt = true) (wotp : μ.otp = true) :
    OnlyR μ σ (execAuditTimer reads after s) := by
  unfold execAuditTimer
  (repeat' first
    | with_reducible assumption
    | (extract_lets +onlyGivenNames x; clear_value x; rename' x => x')
    | with_reducible first
        | apply audit_writes | apply OnlyR.ite | apply OnlyR.next)

theorem execTapInstruction_writes {μ : Writes} {σ : State} (kind : ℕ) (s : State) (h : Only μ σ s) (wflt : μ.flt = true) (wcnt
    : μ.cnt = true) (wotp : μ.otp = true) (wout : μ.out = true) :
    OnlyR μ σ (execTapInstruction kind s) := by
  unfold execTapInstruction
  (repeat' first
    | with_reducible assumption
    | (extract_lets +onlyGivenNames x; first
      | (refine Only.cut (m := μ) (a := σ) (x := x) ?_ (fun hx => ?_); (on_goal 1 => subst x); (on_goal 2 => (clear_value x; rename' x => x')))
      | (clear_value x; rename' x => x'))
    | with_reducible first
        | apply modOtp_writes | apply emit_writes | apply log_writes | apply Only.ite | apply OnlyR.ite | apply OnlyR.next)

theorem execTapReset_writes {μ : Writes} {σ : State} (s : State) (h : Only μ σ s) (wotp : μ.otp = true) :
    OnlyR μ σ (execTapReset s) := by
  unfold execTapReset
  (repeat' with_reducible first
      | assumption | apply modOtp_writes | apply OnlyR.next)

theorem selftestEnd_writes {μ : Writes} {σ : State} (s : State) (h : Only μ σ s) (wotp : μ.otp = true) :
    Only μ σ (State.selftestEnd s) := by
  unfold State.selftestEnd
  (repeat' first
    | with_reducible assumption
    | (extract_lets +onlyGivenNames x; clear_value x; rename' x => x')
    | with_reducible first
        | apply modOtp_writes | apply Only.ite
    | split)

theorem selftestBobbin_writes {μ : Writes} {σ : State} (ch : ℕ) (ds : List SliceDiff) (march : Bool) (s : State) (h : Only μ σ
    s) (wchans : μ.chans = true) (wfrozen : μ.frozen = true) (wctxs : μ.ctxs = true) (wjournal : μ.journal = true) (whost :
    μ.host = true) (wflt : μ.flt = true) (wcnt : μ.cnt = true) (wtor : μ.tor = true) (wout : μ.out = true) :
    Only μ σ (State.selftestBobbin ch ds march s) := by
  unfold State.selftestBobbin
  (repeat' first
    | with_reducible assumption
    | (extract_lets +onlyGivenNames x; refine Only.cut (m := μ) (a := σ) (x := x) ?_ (fun hx => ?_); (on_goal 1 => subst x); (on_goal 2 => (clear_value x; rename' x => x')))
    | with_reducible first
        | apply modChan_writes | apply commandSr_writes | apply restOfRound_writes | apply retireNow_writes | apply log_writes
        | apply leaveSr_writes | apply Only.ite)

theorem execSelftestGo_writes {μ : Writes} {σ : State} (sigs : List (ℕ × List SliceDiff)) (marchFail : List ℕ) (s : State) (h
    : Only μ σ s) (wchans : μ.chans = true) (wfrozen : μ.frozen = true) (wctxs : μ.ctxs = true) (wjournal : μ.journal = true)
    (whost : μ.host = true) (wflt : μ.flt = true) (wcnt : μ.cnt = true) (wtor : μ.tor = true) (wotp : μ.otp = true) (wout :
    μ.out = true) :
    OnlyR μ σ (execSelftestGo sigs marchFail s) := by
  unfold execSelftestGo
  (repeat' first
    | with_reducible first
        | assumption | (intro _)
    | (extract_lets +onlyGivenNames x; first
      | (refine Only.cut (m := μ) (a := σ) (x := x) ?_ (fun hx => ?_); (on_goal 1 => subst x); (on_goal 2 => (clear_value x; rename' x => x')))
      | (clear_value x; rename' x => x'))
    | with_reducible first
        | apply writeIgnored_writes | apply selftestBobbin_writes | apply selftestEnd_writes | apply modOtp_writes
        | apply OnlyR.ite | apply Only.foldl | apply OnlyR.next)

end Sys2Proof.Laws
end

