-- ==== Sys2Proof/Laws/OnlyPower.lean ====
section
/-! SUPPORT. What the operations of Machine/Power.lean may write. -/

set_option linter.unusedTactic false
set_option linter.unreachableTactic false
set_option linter.unusedVariables false
set_option linter.tactic.unusedName false

namespace Sys2Proof.Laws

open Sys2Proof Sys2Proof.Machine

theorem modPwr_writes {μ : Writes} {σ : State} (f : Power → Power) (s : State) (h : Only μ σ s) (wpwr : μ.pwr = true) :
    Only μ σ (State.modPwr f s) := by
  unfold State.modPwr
  (repeat' with_reducible first
      | assumption | apply upd_pwr)

theorem reloadEntry_writes {μ : Writes} {σ : State} (ch : ℕ) (a : ℕ) (bad : Bool) (s : State) (h : Only μ σ s) (wfreeNo :
    μ.freeNo = true) (wchans : μ.chans = true) (wflt : μ.flt = true) (wcnt : μ.cnt = true) :
    Only μ σ (State.reloadEntry ch a bad s) := by
  unfold State.reloadEntry
  (repeat' first
    | with_reducible assumption
    | (extract_lets +onlyGivenNames x; first
      | (refine useFun₂ x ?_; subst x; try beta_reduce)
      | (clear_value x; rename' x => x'))
    | with_reducible first
        | apply modChan_writes | apply log_writes | apply readCw_writes | apply corrEnter_writes | apply Only.ite
    | split
    | refine OnlyP.of_eq (by assumption) ?_)

theorem reloadRemap_writes {μ : Writes} {σ : State} (ch : ℕ) (bad : List ℕ) (s : State) (h : Only μ σ s) (wfreeNo : μ.freeNo =
    true) (wchans : μ.chans = true) (wflt : μ.flt = true) (wcnt : μ.cnt = true) :
    Only μ σ (State.reloadRemap ch bad s) := by
  unfold State.reloadRemap
  (repeat' first
    | with_reducible first
        | assumption | (intro _)
    | (extract_lets +onlyGivenNames x; first
      | (refine Only.cut (m := μ) (a := σ) (x := x) ?_ (fun hx => ?_); (on_goal 1 => subst x); (on_goal 2 => (clear_value x; rename' x => x')))
      | (clear_value x; rename' x => x'))
    | with_reducible first
        | apply modChan_writes | apply reloadEntry_writes | apply Only.foldl)

theorem fastGranule_writes {μ : Writes} {σ : State} (ch : ℕ) (k : BankCheck) (a : ℕ) (s : State) (h : Only μ σ s) (wfreeNo :
    μ.freeNo = true) (wchans : μ.chans = true) (wdram : μ.dram = true) (wflt : μ.flt = true) (wcnt : μ.cnt = true) :
    OnlyP μ σ (State.fastGranule ch k a s) := by
  unfold State.fastGranule
  (repeat' first
    | with_reducible first
        | assumption | (intro _)
    | (extract_lets +onlyGivenNames x; first
      | (refine Only.cut (m := μ) (a := σ) (x := x) ?_ (fun hx => ?_); (on_goal 1 => subst x); (on_goal 2 => (clear_value x; rename' x => x')))
      | (clear_value x; rename' x => x'))
    | with_reducible first
        | apply readGranule_writes | apply count_writes | apply scrubPoisoned_writes | apply scrubRewrite_writes
        | apply Only.ite | apply Only.foldl
    | split
    | with_reducible apply OnlyP.mk
    | refine OnlyP.of_eq (by assumption) ?_)

theorem fastBank_writes {μ : Writes} {σ : State} (ch : ℕ) (k : BankCheck) (s : State) (h : Only μ σ s) (wfreeNo : μ.freeNo =
    true) (wchans : μ.chans = true) (wdram : μ.dram = true) (wflt : μ.flt = true) (wcnt : μ.cnt = true) :
    OnlyP μ σ (State.fastBank ch k s) := by
  unfold State.fastBank
  (repeat' first
    | with_reducible first
        | assumption | (intro _)
    | (extract_lets +onlyGivenNames x; refine OnlyP.cut (m := μ) (a := σ) (x := x) ?_ (fun hx => ?_); (on_goal 1 => subst x); (on_goal 2 => (clear_value x; rename' x => x')))
    | with_reducible first
        | apply fastGranule_writes | apply OnlyP.foldl | apply OnlyP.snd | apply OnlyP.mk)

theorem loseBank_writes {μ : Writes} {σ : State} (ch : ℕ) (b : ℕ) (s : State) (h : Only μ σ s) (wfreeNo : μ.freeNo = true)
    (wchans : μ.chans = true) (wdram : μ.dram = true) (wflt : μ.flt = true) (wcnt : μ.cnt = true) :
    Only μ σ (State.loseBank ch b s) := by
  unfold State.loseBank
  (repeat' first
    | with_reducible assumption
    | (extract_lets +onlyGivenNames x; first
      | (refine Only.cut (m := μ) (a := σ) (x := x) ?_ (fun hx => ?_); (on_goal 1 => subst x); (on_goal 2 => (clear_value x; rename' x => x')))
      | (clear_value x; rename' x => x'))
    | with_reducible first
        | apply modChan_writes | apply zeroCells_writes | apply log_writes | apply Only.ite)

theorem checkBank_writes {μ : Writes} {σ : State} (l : List BankCheck) (canary : Bool) (ch : ℕ) (b : ℕ) (s : State) (h : Only
    μ σ s) (wfreeNo : μ.freeNo = true) (wchans : μ.chans = true) (wdram : μ.dram = true) (wflt : μ.flt = true) (wcnt : μ.cnt =
    true) :
    Only μ σ (State.checkBank l canary ch b s) := by
  unfold State.checkBank
  (repeat' first
    | with_reducible assumption
    | (extract_lets +onlyGivenNames x; first
      | (refine OnlyP.cut (m := μ) (a := σ) (x := x) ?_ (fun hx => ?_); (on_goal 1 => subst x); (on_goal 2 => (clear_value x; rename' x => x')))
      | (clear_value x; rename' x => x'))
    | with_reducible first
        | apply fastBank_writes | apply loseBank_writes | apply Only.ite | apply OnlyP.snd)

theorem checkBanks_writes {μ : Writes} {σ : State} (l : List BankCheck) (canary : Bool) (f : ℕ → Bool) (ch : ℕ) (s : State) (h
    : Only μ σ s) (wfreeNo : μ.freeNo = true) (wchans : μ.chans = true) (wdram : μ.dram = true) (wflt : μ.flt = true) (wcnt :
    μ.cnt = true) :
    Only μ σ (State.checkBanks l canary f ch s) := by
  unfold State.checkBanks
  (repeat' with_reducible first
      | assumption | (intro _) | apply checkBank_writes | apply Only.foldl)

theorem stopAll_writes {μ : Writes} {σ : State} (s : State) (h : Only μ σ s) (wchans : μ.chans = true) (wfrozen : μ.frozen =
    true) (wctxs : μ.ctxs = true) (wjournal : μ.journal = true) (whost : μ.host = true) (wflt : μ.flt = true) (wcnt : μ.cnt =
    true) (wlanes : μ.lanes = true) (wtor : μ.tor = true) (wout : μ.out = true) :
    Only μ σ (State.stopAll s) := by
  unfold State.stopAll
  (repeat' first
    | with_reducible first
        | assumption | (intro _) | apply stopStarting_writes | apply requestStop_writes | apply Only.foldl
    | split)

theorem raiseVdd_writes {μ : Writes} {σ : State} (s : State) (h : Only μ σ s) (wpwr : μ.pwr = true) (wout : μ.out = true) :
    Only μ σ (State.raiseVdd s) := by
  unfold State.raiseVdd
  (repeat' with_reducible first
      | assumption | apply startAvs_writes | apply Only.ite)

theorem beginPower_writes {μ : Writes} {σ : State} (c : PwrChange) (s : State) (h : Only μ σ s) (wchans : μ.chans = true)
    (wfrozen : μ.frozen = true) (wctxs : μ.ctxs = true) (wjournal : μ.journal = true) (whost : μ.host = true) (wflt : μ.flt =
    true) (wcnt : μ.cnt = true) (wlanes : μ.lanes = true) (wtor : μ.tor = true) (wpwr : μ.pwr = true) (wout : μ.out = true) :
    Only μ σ (State.beginPower c s) := by
  unfold State.beginPower
  (repeat' first
    | with_reducible assumption
    | (extract_lets +onlyGivenNames x; refine Only.cut (m := μ) (a := σ) (x := x) ?_ (fun hx => ?_); (on_goal 1 => subst x); (on_goal 2 => (clear_value x; rename' x => x')))
    | with_reducible first
        | apply answerPower_writes | apply writeIgnored_writes | apply raiseVdd_writes | apply modPwr_writes
        | apply clocksOn_writes | apply stopAll_writes | apply Only.ite)

theorem askPower_writes {μ : Writes} {σ : State} (c : PwrChange) (s : State) (h : Only μ σ s) (wchans : μ.chans = true)
    (wfrozen : μ.frozen = true) (wctxs : μ.ctxs = true) (wjournal : μ.journal = true) (whost : μ.host = true) (wflt : μ.flt =
    true) (wcnt : μ.cnt = true) (wlanes : μ.lanes = true) (wtor : μ.tor = true) (wpwr : μ.pwr = true) (wout : μ.out = true) :
    Only μ σ (State.askPower c s) := by
  unfold State.askPower
  (repeat' first
    | with_reducible assumption
    | (extract_lets +onlyGivenNames x; first
      | (refine Only.cut (m := μ) (a := σ) (x := x) ?_ (fun hx => ?_); (on_goal 1 => subst x); (on_goal 2 => (clear_value x; rename' x => x')))
      | (clear_value x; rename' x => x'))
    | with_reducible first
        | apply beginPower_writes | apply modPwr_writes | apply finish_writes | apply Only.ite
    | split)

theorem execPowerRequest_writes {μ : Writes} {σ : State} (ctx : ℕ) (s : State) (h : Only μ σ s) (wchans : μ.chans = true)
    (wfrozen : μ.frozen = true) (wctxs : μ.ctxs = true) (wjournal : μ.journal = true) (whost : μ.host = true) (wflt : μ.flt =
    true) (wcnt : μ.cnt = true) (wlanes : μ.lanes = true) (wtor : μ.tor = true) (wpwr : μ.pwr = true) (wout : μ.out = true) :
    OnlyR μ σ (execPowerRequest ctx s) := by
  unfold execPowerRequest
  (repeat' first
    | with_reducible first
        | assumption | apply finish_writes | apply askPower_writes | apply modDesc_writes | apply OnlyR.next
    | split)

theorem execPendingRequestBegin_writes {μ : Writes} {σ : State} (s : State) (h : Only μ σ s) (wchans : μ.chans = true)
    (wfrozen : μ.frozen = true) (wctxs : μ.ctxs = true) (wjournal : μ.journal = true) (whost : μ.host = true) (wflt : μ.flt =
    true) (wcnt : μ.cnt = true) (wlanes : μ.lanes = true) (wtor : μ.tor = true) (wpwr : μ.pwr = true) (wout : μ.out = true) :
    OnlyR μ σ (execPendingRequestBegin s) := by
  unfold execPendingRequestBegin
  (repeat' first
    | with_reducible first
        | assumption | apply beginPower_writes | apply modPwr_writes | apply OnlyR.next
    | split)

theorem wakeEvent_writes {μ : Writes} {σ : State} (source : ℕ) (s : State) (h : Only μ σ s) (wchans : μ.chans = true) (wfrozen
    : μ.frozen = true) (wctxs : μ.ctxs = true) (wjournal : μ.journal = true) (whost : μ.host = true) (wflt : μ.flt = true)
    (wcnt : μ.cnt = true) (wlanes : μ.lanes = true) (wtor : μ.tor = true) (wpwr : μ.pwr = true) (wout : μ.out = true) :
    Only μ σ (State.wakeEvent source s) := by
  unfold State.wakeEvent
  (repeat' first
    | with_reducible first
        | assumption | apply modPwr_writes | apply askPower_writes | apply Only.ite
    | split)

theorem execPwrWakeWake_writes {μ : Writes} {σ : State} (path : Path) (s : State) (h : Only μ σ s) (wchans : μ.chans = true)
    (wfrozen : μ.frozen = true) (wctxs : μ.ctxs = true) (wjournal : μ.journal = true) (whost : μ.host = true) (wflt : μ.flt =
    true) (wcnt : μ.cnt = true) (wlanes : μ.lanes = true) (wtor : μ.tor = true) (wpwr : μ.pwr = true) (wout : μ.out = true) :
    OnlyR μ σ (execPwrWakeWake path s) := by
  unfold execPwrWakeWake
  (repeat' with_reducible first
      | assumption | apply writeIgnored_writes | apply wakeEvent_writes | apply OnlyR.ite | apply OnlyR.next)

theorem execWakeTimer_writes {μ : Writes} {σ : State} (s : State) (h : Only μ σ s) (wchans : μ.chans = true) (wfrozen :
    μ.frozen = true) (wctxs : μ.ctxs = true) (wjournal : μ.journal = true) (whost : μ.host = true) (wflt : μ.flt = true) (wcnt
    : μ.cnt = true) (wlanes : μ.lanes = true) (wtor : μ.tor = true) (wpwr : μ.pwr = true) (wout : μ.out = true) :
    OnlyR μ σ (execWakeTimer s) := by
  unfold execWakeTimer
  (repeat' first
    | with_reducible assumption
    | (extract_lets +onlyGivenNames x; clear_value x; rename' x => x')
    | with_reducible first
        | apply wakeEvent_writes | apply modPwr_writes | apply OnlyR.ite | apply OnlyR.next)

theorem execPwrWakeSafeExit_writes {μ : Writes} {σ : State} (path : Path) (s : State) (h : Only μ σ s) (wchans : μ.chans =
    true) (wfrozen : μ.frozen = true) (wctxs : μ.ctxs = true) (wjournal : μ.journal = true) (whost : μ.host = true) (wflt :
    μ.flt = true) (wcnt : μ.cnt = true) (wlanes : μ.lanes = true) (wtor : μ.tor = true) (wpwr : μ.pwr = true) (wout : μ.out =
    true) :
    OnlyR μ σ (execPwrWakeSafeExit path s) := by
  unfold execPwrWakeSafeExit
  (repeat' with_reducible first
      | assumption | apply writeIgnored_writes | apply askPower_writes | apply OnlyR.ite | apply OnlyR.next)

theorem writeCanaries_writes {μ : Writes} {σ : State} (s : State) (h : Only μ σ s) (wflt : μ.flt = true) (wcnt : μ.cnt = true)
    (wpwr : μ.pwr = true) :
    Only μ σ (State.writeCanaries s) := by
  unfold State.writeCanaries
  (repeat' first
    | with_reducible first
        | assumption | (intro _)
    | (extract_lets +onlyGivenNames x; refine Only.cut (m := μ) (a := σ) (x := x) ?_ (fun hx => ?_); (on_goal 1 => subst x); (on_goal 2 => (clear_value x; rename' x => x')))
    | with_reducible first
        | apply modPwr_writes | apply log_writes | apply Only.foldl
    | split)

theorem emptySections_writes {μ : Writes} {σ : State} (s : State) (h : Only μ σ s) (wchans : μ.chans = true) (wlanes : μ.lanes
    = true) :
    Only μ σ (State.emptySections s) := by
  unfold State.emptySections
  (repeat' first
    | with_reducible first
        | assumption | (intro _)
    | (extract_lets +onlyGivenNames x; first
      | (refine Only.cut (m := μ) (a := σ) (x := x) ?_ (fun hx => ?_); (on_goal 1 => subst x); (on_goal 2 => (clear_value x; rename' x => x')))
      | (clear_value x; rename' x => x'))
    | with_reducible first
        | apply modChan_writes | apply Only.foldl | apply upd_lanes)

theorem startRetention_writes {μ : Writes} {σ : State} (c : PwrChange) (s : State) (h : Only μ σ s) (wchans : μ.chans = true)
    (wdram : μ.dram = true) (wflt : μ.flt = true) (wcnt : μ.cnt = true) (wlanes : μ.lanes = true) (wpwr : μ.pwr = true) (wout
    : μ.out = true) :
    Only μ σ (State.startRetention c s) := by
  unfold State.startRetention
  (repeat' first
    | with_reducible first
        | assumption | (intro _)
    | (extract_lets +onlyGivenNames x; refine Only.cut (m := μ) (a := σ) (x := x) ?_ (fun hx => ?_); (on_goal 1 => subst x); (on_goal 2 => (clear_value x; rename' x => x')))
    | with_reducible first
        | apply modChan_writes | apply emptySections_writes | apply writeCanaries_writes | apply lanesOff_writes
        | apply regionsSr_writes | apply modPwr_writes | apply startAvs_writes | apply abandonCrc_writes | apply Only.foldl)

theorem enterRetention_writes {μ : Writes} {σ : State} (c : PwrChange) (s : State) (h : Only μ σ s) (wchans : μ.chans = true)
    (wctxs : μ.ctxs = true) (wjournal : μ.journal = true) (wdram : μ.dram = true) (whost : μ.host = true) (wflt : μ.flt =
    true) (wcnt : μ.cnt = true) (wtor : μ.tor = true) (wpwr : μ.pwr = true) (wout : μ.out = true) :
    Only μ σ (State.enterRetention c s) := by
  unfold State.enterRetention
  (repeat' first
    | with_reducible first
        | assumption | (intro _)
    | (extract_lets +onlyGivenNames x; refine Only.cut (m := μ) (a := σ) (x := x) ?_ (fun hx => ?_); (on_goal 1 => subst x); (on_goal 2 => (clear_value x; rename' x => x')))
    | with_reducible first
        | apply loseCells_writes | apply modPwr_writes | apply answerPower_writes | apply Only.foldl)

theorem execHoopWait_writes {μ : Writes} {σ : State} (irqPending : Bool) (s : State) (h : Only μ σ s) (wchans : μ.chans =
    true) (wctxs : μ.ctxs = true) (wjournal : μ.journal = true) (wdram : μ.dram = true) (whost : μ.host = true) (wflt : μ.flt
    = true) (wcnt : μ.cnt = true) (wlanes : μ.lanes = true) (wtor : μ.tor = true) (wpwr : μ.pwr = true) (wout : μ.out = true)
    :
    OnlyR μ σ (execHoopWait irqPending s) := by
  unfold execHoopWait
  (repeat' first
    | with_reducible first
        | assumption | apply answerPower_writes | apply modPwr_writes | apply emptySections_writes
        | apply startRetention_writes | apply OnlyR.ite | apply OnlyR.next
    | split)

theorem settleAvs_writes {μ : Writes} {σ : State} (s : State) (h : Only μ σ s) (wchans : μ.chans = true) (wctxs : μ.ctxs =
    true) (wjournal : μ.journal = true) (wdram : μ.dram = true) (whost : μ.host = true) (wflt : μ.flt = true) (wcnt : μ.cnt =
    true) (wtor : μ.tor = true) (wpwr : μ.pwr = true) (wout : μ.out = true) :
    Only μ σ (State.settleAvs s) := by
  unfold State.settleAvs
  (repeat' first
    | with_reducible assumption
    | (extract_lets +onlyGivenNames x; refine Only.cut (m := μ) (a := σ) (x := x) ?_ (fun hx => ?_); (on_goal 1 => subst x); (on_goal 2 => (clear_value x; rename' x => x')))
    | with_reducible first
        | apply modPwr_writes | apply enterRetention_writes | apply clocksOn_writes | apply Only.ite
    | split)

theorem avsFailed_writes {μ : Writes} {σ : State} (a : Avs) (s : State) (h : Only μ σ s) (wchans : μ.chans = true) (wctxs :
    μ.ctxs = true) (wjournal : μ.journal = true) (wdram : μ.dram = true) (whost : μ.host = true) (wflt : μ.flt = true) (wcnt :
    μ.cnt = true) (wtor : μ.tor = true) (wpwr : μ.pwr = true) (wout : μ.out = true) :
    Only μ σ (State.avsFailed a s) := by
  unfold State.avsFailed
  (repeat' first
    | with_reducible assumption
    | (extract_lets +onlyGivenNames x; refine Only.cut (m := μ) (a := σ) (x := x) ?_ (fun hx => ?_); (on_goal 1 => subst x); (on_goal 2 => (clear_value x; rename' x => x')))
    | with_reducible first
        | apply modPwr_writes | apply log_writes | apply emit_writes | apply enterRetention_writes | apply answerPower_writes
        | apply Only.ite
    | split)

theorem execAvsPoll_writes {μ : Writes} {σ : State} (answered : Bool) (mv : ℕ) (s : State) (h : Only μ σ s) (wchans : μ.chans
    = true) (wctxs : μ.ctxs = true) (wjournal : μ.journal = true) (wdram : μ.dram = true) (whost : μ.host = true) (wflt :
    μ.flt = true) (wcnt : μ.cnt = true) (wtor : μ.tor = true) (wpwr : μ.pwr = true) (wout : μ.out = true) :
    OnlyR μ σ (execAvsPoll answered mv s) := by
  unfold execAvsPoll
  (repeat' first
    | with_reducible assumption
    | (extract_lets +onlyGivenNames x; refine Only.cut (m := μ) (a := σ) (x := x) ?_ (fun hx => ?_); (on_goal 1 => subst x); (on_goal 2 => (clear_value x; rename' x => x')))
    | with_reducible first
        | apply settleAvs_writes | apply avsFailed_writes | apply modPwr_writes | apply OnlyR.ite | apply OnlyR.next
    | split)

theorem execAvsTimeout_writes {μ : Writes} {σ : State} (s : State) (h : Only μ σ s) (wchans : μ.chans = true) (wctxs : μ.ctxs
    = true) (wjournal : μ.journal = true) (wdram : μ.dram = true) (whost : μ.host = true) (wflt : μ.flt = true) (wcnt : μ.cnt
    = true) (wtor : μ.tor = true) (wpwr : μ.pwr = true) (wout : μ.out = true) :
    OnlyR μ σ (execAvsTimeout s) := by
  unfold execAvsTimeout
  (repeat' first
    | with_reducible first
        | assumption | apply avsFailed_writes | apply OnlyR.ite | apply OnlyR.next
    | split)

theorem mendEyes_writes {μ : Writes} {σ : State} (ch : ℕ) (why : Emergency) (w : MaintIn) (s : State) (h : Only μ σ s) (wchans
    : μ.chans = true) (wfrozen : μ.frozen = true) (wctxs : μ.ctxs = true) (wjournal : μ.journal = true) (wdram : μ.dram =
    true) (whost : μ.host = true) (wflt : μ.flt = true) (wcnt : μ.cnt = true) (wtor : μ.tor = true) (wout : μ.out = true) :
    Only μ σ (State.mendEyes ch why w s) := by
  unfold State.mendEyes
  (repeat' first
    | with_reducible assumption
    | (extract_lets +onlyGivenNames x; refine Only.cut (m := μ) (a := σ) (x := x) ?_ (fun hx => ?_); (on_goal 1 => subst x); (on_goal 2 => (clear_value x; rename' x => x')))
    | with_reducible first
        | apply darnCa_writes | apply sweepEyes_writes | apply calSteps_writes | apply beginCal_writes | apply startCal_writes
        | apply Only.ite
    | split)

theorem afterExit_writes {μ : Writes} {σ : State} (ch : ℕ) (badRemap : List ℕ) (s : State) (h : Only μ σ s) (wfreeNo :
    μ.freeNo = true) (wchans : μ.chans = true) (wdram : μ.dram = true) (wflt : μ.flt = true) (wcnt : μ.cnt = true) :
    Only μ σ (State.afterExit ch badRemap s) := by
  unfold State.afterExit
  (repeat' first
    | with_reducible assumption
    | (extract_lets +onlyGivenNames x; refine Only.cut (m := μ) (a := σ) (x := x) ?_ (fun hx => ?_); (on_goal 1 => subst x); (on_goal 2 => (clear_value x; rename' x => x')))
    | with_reducible first
        | apply reloadRemap_writes | apply modChan_writes | apply checkBanks_writes | apply Only.ite
    | split)

theorem execSelfRefreshExit_writes {μ : Writes} {σ : State} (ch : ℕ) (clean : ℕ) (w : MaintIn) (badRemap : List ℕ) (s : State)
    (h : Only μ σ s) (wfreeNo : μ.freeNo = true) (wchans : μ.chans = true) (wfrozen : μ.frozen = true) (wctxs : μ.ctxs = true)
    (wjournal : μ.journal = true) (wdram : μ.dram = true) (whost : μ.host = true) (wflt : μ.flt = true) (wcnt : μ.cnt = true)
    (wtor : μ.tor = true) (wotp : μ.otp = true) (wout : μ.out = true) :
    OnlyR μ σ (execSelfRefreshExit ch clean w badRemap s) := by
  unfold execSelfRefreshExit
  (repeat' first
    | with_reducible assumption
    | (extract_lets +onlyGivenNames x; first
      | (refine Only.cut (m := μ) (a := σ) (x := x) ?_ (fun hx => ?_); (on_goal 1 => subst x); (on_goal 2 => (clear_value x; rename' x => x')))
      | (clear_value x; rename' x => x'))
    | with_reducible first
        | apply mendEyes_writes | apply selftestEnd_writes | apply exitSr_writes | apply trainStep_writes
        | apply afterExit_writes | apply Only.ite | apply OnlyR.ite | apply OnlyR.next
    | split)

theorem wakeChannel_writes {μ : Writes} {σ : State} (ch : ℕ) (checks : List BankCheck) (w : MaintIn) (badRemap : List ℕ) (s :
    State) (h : Only μ σ s) (wfreeNo : μ.freeNo = true) (wchans : μ.chans = true) (wfrozen : μ.frozen = true) (wctxs : μ.ctxs
    = true) (wjournal : μ.journal = true) (wdram : μ.dram = true) (whost : μ.host = true) (wflt : μ.flt = true) (wcnt : μ.cnt
    = true) (wtor : μ.tor = true) (wout : μ.out = true) :
    Only μ σ (State.wakeChannel ch checks w badRemap s) := by
  unfold State.wakeChannel
  (repeat' first
    | with_reducible assumption
    | (extract_lets +onlyGivenNames x; refine Only.cut (m := μ) (a := σ) (x := x) ?_ (fun hx => ?_); (on_goal 1 => subst x); (on_goal 2 => (clear_value x; rename' x => x')))
    | with_reducible first
        | apply calSteps_writes | apply trainStep_writes | apply exitSr_writes | apply checkBanks_writes
        | apply reloadRemap_writes | apply Only.ite)

theorem execWake_writes {μ : Writes} {σ : State} (checks : List BankCheck) (w : List (ℕ × MaintIn)) (badRemap : List (ℕ × ℕ))
    (s : State) (h : Only μ σ s) (wfreeNo : μ.freeNo = true) (wchans : μ.chans = true) (wfrozen : μ.frozen = true) (wctxs :
    μ.ctxs = true) (wjournal : μ.journal = true) (wdram : μ.dram = true) (whost : μ.host = true) (wflt : μ.flt = true) (wcnt :
    μ.cnt = true) (wlanes : μ.lanes = true) (wtor : μ.tor = true) (wpwr : μ.pwr = true) (wout : μ.out = true) :
    OnlyR μ σ (execWake checks w badRemap s) := by
  unfold execWake
  (repeat' first
    | with_reducible first
        | assumption | (intro _)
    | (extract_lets +onlyGivenNames x; first
      | (refine Only.cut (m := μ) (a := σ) (x := x) ?_ (fun hx => ?_); (on_goal 1 => subst x); (on_goal 2 => (clear_value x; rename' x => x')))
      | (clear_value x; rename' x => x'))
    | with_reducible first
        | apply settleAvs_writes | apply dropUnretained_writes | apply wakeChannel_writes | apply enterService_writes
        | apply lanesDetect_writes | apply answerPower_writes | apply modPwr_writes | apply OnlyR.ite | apply Only.foldl
        | apply OnlyR.next
    | split)

theorem execSafeExit_writes {μ : Writes} {σ : State} (checks : List BankCheck) (s : State) (h : Only μ σ s) (wchans : μ.chans
    = true) (wctxs : μ.ctxs = true) (wjournal : μ.journal = true) (wdram : μ.dram = true) (whost : μ.host = true) (wflt :
    μ.flt = true) (wcnt : μ.cnt = true) (wlanes : μ.lanes = true) (wtor : μ.tor = true) (wpwr : μ.pwr = true) (wout : μ.out =
    true) :
    OnlyR μ σ (execSafeExit checks s) := by
  unfold execSafeExit
  (repeat' first
    | with_reducible assumption
    | (extract_lets +onlyGivenNames x; refine Only.cut (m := μ) (a := σ) (x := x) ?_ (fun hx => ?_); (on_goal 1 => subst x); (on_goal 2 => (clear_value x; rename' x => x')))
    | with_reducible first
        | apply settleAvs_writes | apply modPwr_writes | apply lanesDetect_writes | apply leaveSrAll_writes | apply OnlyR.ite
        | apply OnlyR.next
    | split)

theorem execRegRdy_writes {μ : Writes} {σ : State} (straps : Straps) (inRange : Bool) (s : State) (h : Only μ σ s) (wflt :
    μ.flt = true) (wcnt : μ.cnt = true) (wtor : μ.tor = true) (wpwr : μ.pwr = true) :
    OnlyR μ σ (execRegRdy straps inRange s) := by
  unfold execRegRdy
  (repeat' first
    | with_reducible assumption
    | (extract_lets +onlyGivenNames x; first
      | (refine Only.cut (m := μ) (a := σ) (x := x) ?_ (fun hx => ?_); (on_goal 1 => subst x); (on_goal 2 => (clear_value x; rename' x => x')))
      | (clear_value x; rename' x => x'))
    | with_reducible first
        | apply modPwr_writes | apply log_writes | apply Only.ite | apply OnlyR.ite | apply OnlyR.next | apply upd_tor)

theorem badRecords_writes {μ : Writes} {σ : State} (bad : SaveReads) (s : State) (h : Only μ σ s) (wchans : μ.chans = true)
    (wctxs : μ.ctxs = true) (wjournal : μ.journal = true) (wflt : μ.flt = true) (wcnt : μ.cnt = true) (wpwr : μ.pwr = true) :
    Only μ σ (State.badRecords bad s) := by
  unfold State.badRecords
  (repeat' first
    | with_reducible first
        | assumption | (intro _)
    | (extract_lets +onlyGivenNames x; first
      | (refine Only.cut (m := μ) (a := σ) (x := x) ?_ (fun hx => ?_); (on_goal 1 => subst x); (on_goal 2 => (clear_value x; rename' x => x')))
      | (clear_value x; rename' x => x'))
    | with_reducible first
        | apply halt_writes | apply corruptLog_writes | apply log_writes | apply modChan_writes | apply modPwr_writes
        | apply Only.ite | apply Only.foldl | apply upd_journal)

theorem notKept_writes {μ : Writes} {σ : State} (s : State) (h : Only μ σ s) (wchans : μ.chans = true) :
    Only μ σ (State.notKept s) := by
  unfold State.notKept
  (repeat' with_reducible first
      | assumption | (intro _) | apply modChan_writes | apply Only.foldl)

theorem consumed_writes {μ : Writes} {σ : State} (cause : ℕ) (kept : Bool) (s : State) (h : Only μ σ s) (wchans : μ.chans =
    true) (wflt : μ.flt = true) (wcnt : μ.cnt = true) (wpwr : μ.pwr = true) :
    Only μ σ (State.consumed cause kept s) := by
  unfold State.consumed
  (repeat' first
    | with_reducible assumption
    | (extract_lets +onlyGivenNames x; refine Only.cut (m := μ) (a := σ) (x := x) ?_ (fun hx => ?_); (on_goal 1 => subst x); (on_goal 2 => (clear_value x; rename' x => x')))
    | with_reducible first
        | apply modPwr_writes | apply log_writes | apply notKept_writes | apply Only.ite)

theorem stripRegions_writes {μ : Writes} {σ : State} (bad : SaveReads) (s : State) (h : Only μ σ s) (wfreeNo : μ.freeNo =
    true) (wcnt : μ.cnt = true) :
    Only μ σ (State.stripRegions bad s) := by
  unfold State.stripRegions
  (repeat' with_reducible first
      | assumption | apply inlineJob_writes | apply upd_freeNo)

theorem coldRestore_writes {μ : Writes} {σ : State} (bad : SaveReads) (s : State) (h : Only μ σ s) (wfreeNo : μ.freeNo = true)
    (wchans : μ.chans = true) (wctxs : μ.ctxs = true) (wjournal : μ.journal = true) (whost : μ.host = true) (wflt : μ.flt =
    true) (wcnt : μ.cnt = true) (wthm : μ.thm = true) (wpwr : μ.pwr = true) (whoop : μ.hoop = true) :
    Only μ σ (State.coldRestore bad s) := by
  unfold State.coldRestore
  (repeat' first
    | with_reducible first
        | assumption | (intro _)
    | (extract_lets +onlyGivenNames x; first
      | (refine Only.cut (m := μ) (a := σ) (x := x) ?_ (fun hx => ?_); (on_goal 1 => subst x); (on_goal 2 => (clear_value x; rename' x => x')))
      | (clear_value x; rename' x => x'))
    | with_reducible first
        | apply stripRegions_writes | apply modChan_writes | apply modPwr_writes | apply consumed_writes
        | apply requeue_writes | apply badRecords_writes | apply Only.ite | apply Only.foldl | apply upd_ctxs_journal_flt_thm)

theorem execOscRdy_writes {μ : Writes} {σ : State} (inRange : Bool) (reads : List (ℕ × OtpReads)) (badHeader : Bool) (s :
    State) (h : Only μ σ s) (wmembers : μ.members = true) (wgradeE : μ.gradeE = true) (wflt : μ.flt = true) (wcnt : μ.cnt =
    true) (wpwr : μ.pwr = true) (whoop : μ.hoop = true) (wotp : μ.otp = true) (widDefault : μ.idDefault = true) (wserial :
    μ.serial = true) :
    OnlyR μ σ (execOscRdy inRange reads badHeader s) := by
  unfold execOscRdy
  (repeat' first
    | with_reducible assumption
    | (extract_lets +onlyGivenNames x; subst x; try beta_reduce)
    | with_reducible first
        | apply modPwr_writes | apply bootRead_writes | apply readFuses_writes | apply log_writes | apply Only.ite
        | apply OnlyR.ite | apply OnlyR.next | apply upd_hoop)

theorem execMemRdy_writes {μ : Writes} {σ : State} (inRange : Bool) (s : State) (h : Only μ σ s) (wchans : μ.chans = true)
    (wdram : μ.dram = true) (wpwr : μ.pwr = true) :
    OnlyR μ σ (execMemRdy inRange s) := by
  unfold execMemRdy
  (repeat' with_reducible first
      | assumption | apply modPwr_writes | apply regionsSr_writes | apply OnlyR.ite | apply OnlyR.next)

theorem bringChannel_writes {μ : Writes} {σ : State} (sweep : List EyeRes) (free : List (ℕ × ℕ × ℕ)) (badDarns : List ℕ) (ch :
    ℕ) (s : State) (h : Only μ σ s) (wfreeNo : μ.freeNo = true) (wchans : μ.chans = true) (wfrozen : μ.frozen = true) (wctxs :
    μ.ctxs = true) (wjournal : μ.journal = true) (wdram : μ.dram = true) (whost : μ.host = true) (wflt : μ.flt = true) (wcnt :
    μ.cnt = true) (wtor : μ.tor = true) (wout : μ.out = true) :
    Only μ σ (State.bringChannel sweep free badDarns ch s) := by
  unfold State.bringChannel
  (repeat' first
    | with_reducible assumption
    | (extract_lets +onlyGivenNames x; refine Only.cut (m := μ) (a := σ) (x := x) ?_ (fun hx => ?_); (on_goal 1 => subst x); (on_goal 2 => (clear_value x; rename' x => x')))
    | with_reducible first
        | apply bootRepairs_writes | apply bootDarns_writes | apply modEyes_writes | apply darnCa_writes
        | apply sweepEyes_writes)

theorem execLogicRdy_writes {μ : Writes} {σ : State} (inRange : Bool) (sweep : List (ℕ × List EyeRes)) (goodRows : List (ℕ × ℕ
    × ℕ)) (checks : List BankCheck) (bad : SaveReads) (s : State) (h : Only μ σ s) (wfreeNo : μ.freeNo = true) (wchans :
    μ.chans = true) (wfrozen : μ.frozen = true) (wctxs : μ.ctxs = true) (wjournal : μ.journal = true) (wdram : μ.dram = true)
    (whost : μ.host = true) (wflt : μ.flt = true) (wcnt : μ.cnt = true) (wthm : μ.thm = true) (wlanes : μ.lanes = true) (wtor
    : μ.tor = true) (wpwr : μ.pwr = true) (whoop : μ.hoop = true) (wout : μ.out = true) :
    OnlyR μ σ (execLogicRdy inRange sweep goodRows checks bad s) := by
  unfold execLogicRdy
  (repeat' first
    | with_reducible first
        | assumption | (intro _)
    | (extract_lets +onlyGivenNames x; refine Only.cut (m := μ) (a := σ) (x := x) ?_ (fun hx => ?_); (on_goal 1 => subst x); (on_goal 2 => (clear_value x; rename' x => x')))
    | with_reducible first
        | apply modPwr_writes | apply coldRestore_writes | apply checkCandidate_writes | apply portsDetect_writes
        | apply lanesDetect_writes | apply startAvs_writes | apply bringChannel_writes | apply leaveSrAll_writes
        | apply OnlyR.ite | apply Only.foldl | apply OnlyR.next)

theorem execSeqRail_writes {μ : Writes} {σ : State} (step : ℕ) (s : State) (h : Only μ σ s) (wflt : μ.flt = true) (wcnt :
    μ.cnt = true) :
    OnlyR μ σ (execSeqRail step s) := by
  unfold execSeqRail
  (repeat' with_reducible first
      | assumption | apply log_writes | apply OnlyR.ite | apply OnlyR.next)

theorem execSeqOrder_writes {μ : Writes} {σ : State} (step : ℕ) (s : State) (h : Only μ σ s) (wflt : μ.flt = true) (wcnt :
    μ.cnt = true) :
    OnlyR μ σ (execSeqOrder step s) := by
  unfold execSeqOrder
  (repeat' with_reducible first
      | assumption | apply log_writes | apply OnlyR.ite | apply OnlyR.next)

theorem execBringUpComplete_writes {μ : Writes} {σ : State} (s : State) (h : Only μ σ s) (wfreeNo : μ.freeNo = true) (wchans :
    μ.chans = true) (wctxs : μ.ctxs = true) (wjournal : μ.journal = true) (wdram : μ.dram = true) (whost : μ.host = true)
    (wflt : μ.flt = true) (wcnt : μ.cnt = true) (wtor : μ.tor = true) (wpwr : μ.pwr = true) (wotp : μ.otp = true) (wout :
    μ.out = true) :
    OnlyR μ σ (execBringUpComplete s) := by
  unfold execBringUpComplete
  (repeat' first
    | with_reducible assumption
    | (extract_lets +onlyGivenNames x; first
      | (refine Only.cut (m := μ) (a := σ) (x := x) ?_ (fun hx => ?_); (on_goal 1 => subst x); (on_goal 2 => (clear_value x; rename' x => x')))
      | (clear_value x; rename' x => x'))
    | with_reducible first
        | apply settleAvs_writes | apply modPwr_writes | apply enterService_writes | apply purge_writes
        | apply answerPower_writes | apply OnlyR.ite | apply OnlyR.next)

theorem shedLoad_writes {μ : Writes} {σ : State} (s : State) (h : Only μ σ s) (wchans : μ.chans = true) (wfrozen : μ.frozen =
    true) (wctxs : μ.ctxs = true) (wjournal : μ.journal = true) (wdram : μ.dram = true) (whost : μ.host = true) (wflt : μ.flt
    = true) (wcnt : μ.cnt = true) (wlanes : μ.lanes = true) (wtor : μ.tor = true) (wpwr : μ.pwr = true) (whoop : μ.hoop =
    true) (wotp : μ.otp = true) (wout : μ.out = true) :
    Only μ σ (State.shedLoad s) := by
  unfold State.shedLoad
  (repeat' first
    | with_reducible assumption
    | (extract_lets +onlyGivenNames x; first
      | (refine Only.cut (m := μ) (a := σ) (x := x) ?_ (fun hx => ?_); (on_goal 1 => subst x); (on_goal 2 => (clear_value x; rename' x => x')))
      | (clear_value x; rename' x => x'))
    | with_reducible first
        | apply dropUnretained_writes | apply abandonCrc_writes | apply stopBurn_writes | apply requeue_writes
        | apply cutAll_writes | apply preempt_writes | apply lanesOff_writes | apply regionsSr_writes | apply Only.ite
        | apply upd_hoop | apply upd_host_pwr)

theorem execSaveTrigger_writes {μ : Writes} {σ : State} (cause : SaveCause) (s : State) (h : Only μ σ s) (wchans : μ.chans =
    true) (wfrozen : μ.frozen = true) (wctxs : μ.ctxs = true) (wjournal : μ.journal = true) (wdram : μ.dram = true) (whost :
    μ.host = true) (wflt : μ.flt = true) (wcnt : μ.cnt = true) (wlanes : μ.lanes = true) (wtor : μ.tor = true) (wpwr : μ.pwr =
    true) (whoop : μ.hoop = true) (wotp : μ.otp = true) (wout : μ.out = true) :
    OnlyR μ σ (execSaveTrigger cause s) := by
  unfold execSaveTrigger
  (repeat' first
    | with_reducible assumption
    | (extract_lets +onlyGivenNames x; first
      | (refine Only.cut (m := μ) (a := σ) (x := x) ?_ (fun hx => ?_); (on_goal 1 => subst x); (on_goal 2 => (clear_value x; rename' x => x')))
      | (clear_value x; rename' x => x'))
    | with_reducible first
        | apply shedLoad_writes | apply loseAll_writes | apply modPwr_writes | apply Only.ite | apply OnlyR.ite
        | apply OnlyR.next)

theorem execSaveCommit_writes {μ : Writes} {σ : State} (s : State) (h : Only μ σ s) (wpwr : μ.pwr = true) :
    OnlyR μ σ (execSaveCommit s) := by
  unfold execSaveCommit
  (repeat' with_reducible first
      | assumption | apply modPwr_writes | apply OnlyR.ite | apply OnlyR.next)

theorem execWarmRestore_writes {μ : Writes} {σ : State} (checks : List BankCheck) (s : State) (h : Only μ σ s) (wchans :
    μ.chans = true) (wfrozen : μ.frozen = true) (wctxs : μ.ctxs = true) (wjournal : μ.journal = true) (whost : μ.host = true)
    (wflt : μ.flt = true) (wcnt : μ.cnt = true) (wlanes : μ.lanes = true) (wtor : μ.tor = true) (wpwr : μ.pwr = true) (whoop :
    μ.hoop = true) (wotp : μ.otp = true) (wout : μ.out = true) :
    OnlyR μ σ (execWarmRestore checks s) := by
  unfold execWarmRestore
  (repeat' first
    | with_reducible assumption
    | (extract_lets +onlyGivenNames x; first
      | (refine Only.cut (m := μ) (a := σ) (x := x) ?_ (fun hx => ?_); (on_goal 1 => subst x); (on_goal 2 => (clear_value x; rename' x => x')))
      | (clear_value x; rename' x => x'))
    | with_reducible first
        | apply modPwr_writes | apply consumed_writes | apply leaveSrAll_writes | apply restartHoop_writes
        | apply warmBlocks_writes | apply raiseVdd_writes | apply lanesDetect_writes | apply OnlyR.ite | apply OnlyR.next)

theorem execVsaveLow_writes {μ : Writes} {σ : State} (s : State) (h : Only μ σ s) (wpwr : μ.pwr = true) :
    OnlyR μ σ (execVsaveLow s) := by
  unfold execVsaveLow
  (repeat' with_reducible first
      | assumption | apply modPwr_writes | apply OnlyR.ite | apply OnlyR.next)

theorem execDramRailLow_writes {μ : Writes} {σ : State} (s : State) (h : Only μ σ s) (wdram : μ.dram = true) (wpwr : μ.pwr =
    true) :
    OnlyR μ σ (execDramRailLow s) := by
  unfold execDramRailLow
  (repeat' with_reducible first
      | assumption | apply modPwr_writes | apply loseAll_writes | apply OnlyR.ite | apply OnlyR.next)

theorem execColdReset_writes {μ : Writes} {σ : State} (s : State) (h : Only μ σ s) (wnow : μ.now = true) (wfreeNo : μ.freeNo =
    true) (wmembers : μ.members = true) (wgradeE : μ.gradeE = true) (wchans : μ.chans = true) (wfrozen : μ.frozen = true)
    (wctxs : μ.ctxs = true) (wjournal : μ.journal = true) (wdram : μ.dram = true) (whost : μ.host = true) (wflt : μ.flt =
    true) (wcnt : μ.cnt = true) (wthm : μ.thm = true) (wlanes : μ.lanes = true) (wtor : μ.tor = true) (wpwr : μ.pwr = true)
    (whoop : μ.hoop = true) (wotp : μ.otp = true) (wsmb : μ.smb = true) (widDefault : μ.idDefault = true) (wserial : μ.serial
    = true) (wout : μ.out = true) :
    OnlyR μ σ (execColdReset s) := by
  refine OnlyR.next { h with
    now := .inl wnow,
    freeNo := .inl wfreeNo,
    members := .inl wmembers,
    gradeE := .inl wgradeE,
    chans := .inl wchans,
    frozen := .inl wfrozen,
    ctxs := .inl wctxs,
    journal := .inl wjournal,
    dram := .inl wdram,
    host := .inl whost,
    flt := .inl wflt,
    cnt := .inl wcnt,
    thm := .inl wthm,
    lanes := .inl wlanes,
    tor := .inl wtor,
    pwr := .inl wpwr,
    hoop := .inl whoop,
    otp := .inl wotp,
    smb := .inl wsmb,
    idDefault := .inl widDefault,
    serial := .inl wserial,
    out := .inl wout }

theorem testResult_writes {μ : Writes} {σ : State} (ok : Bool) (s : State) (h : Only μ σ s) (wflt : μ.flt = true) (wcnt :
    μ.cnt = true) :
    Only μ σ (State.testResult ok s) := by
  unfold State.testResult
  (repeat' with_reducible first
      | assumption | apply condEnd_writes | apply log_writes | apply Only.ite)

theorem execChargeTest_writes {μ : Writes} {σ : State} (dvMv : ℕ) (esrMohm : ℕ) (vsaveMv : ℕ) (s : State) (h : Only μ σ s)
    (wflt : μ.flt = true) (wcnt : μ.cnt = true) (wpwr : μ.pwr = true) :
    OnlyR μ σ (execChargeTest dvMv esrMohm vsaveMv s) := by
  unfold execChargeTest
  (repeat' first
    | with_reducible assumption
    | (extract_lets +onlyGivenNames x; first
      | (refine Only.cut (m := μ) (a := σ) (x := x) ?_ (fun hx => ?_); (on_goal 1 => subst x); (on_goal 2 => (clear_value x; rename' x => x')))
      | (clear_value x; rename' x => x'))
    | with_reducible first
        | apply modPwr_writes | apply testResult_writes | apply OnlyR.ite | apply OnlyR.next)

theorem execChargeTimeout_writes {μ : Writes} {σ : State} (s : State) (h : Only μ σ s) (wflt : μ.flt = true) (wcnt : μ.cnt =
    true) (wpwr : μ.pwr = true) :
    OnlyR μ σ (execChargeTimeout s) := by
  unfold execChargeTimeout
  (repeat' first
    | with_reducible assumption
    | (extract_lets +onlyGivenNames x; clear_value x; rename' x => x')
    | with_reducible first
        | apply testResult_writes | apply modPwr_writes | apply OnlyR.ite | apply OnlyR.next)

theorem execVsaveArmedLevel_writes {μ : Writes} {σ : State} (mv : ℕ) (s : State) (h : Only μ σ s) (wpwr : μ.pwr = true) :
    OnlyR μ σ (execVsaveArmedLevel mv s) := by
  unfold execVsaveArmedLevel
  (repeat' with_reducible first
      | assumption | apply modPwr_writes | apply OnlyR.next)

end Sys2Proof.Laws
end

