-- ==== Sys2Proof/Laws/OnlyReset.lean ====
section
/-! SUPPORT. What the operations of Machine/Reset.lean may write. -/

set_option linter.unusedTactic false
set_option linter.unreachableTactic false
set_option linter.unusedVariables false
set_option linter.tactic.unusedName false

namespace Sys2Proof.Laws

open Sys2Proof Sys2Proof.Machine

theorem execDevRstWarm_writes {μ : Writes} {σ : State} (s : State) (h : Only μ σ s) (whoop : μ.hoop = true) :
    OnlyR μ σ (execDevRstWarm s) := by
  unfold execDevRstWarm
  (repeat' first
    | with_reducible assumption
    | (extract_lets +onlyGivenNames x; clear_value x; rename' x => x')
    | with_reducible first
        | apply OnlyR.ite | apply OnlyR.next | apply upd_hoop)

theorem warmStart_writes {μ : Writes} {σ : State} (s : State) (h : Only μ σ s) (wchans : μ.chans = true) (wfrozen : μ.frozen =
    true) (wctxs : μ.ctxs = true) (wjournal : μ.journal = true) (wdram : μ.dram = true) (whost : μ.host = true) (wflt : μ.flt
    = true) (wcnt : μ.cnt = true) (wlanes : μ.lanes = true) (wtor : μ.tor = true) (wpwr : μ.pwr = true) (whoop : μ.hoop =
    true) (wotp : μ.otp = true) (wout : μ.out = true) :
    Only μ σ (State.warmStart s) := by
  unfold State.warmStart
  (repeat' first
    | with_reducible assumption
    | (extract_lets +onlyGivenNames x; refine Only.cut (m := μ) (a := σ) (x := x) ?_ (fun hx => ?_); (on_goal 1 => subst x); (on_goal 2 => (clear_value x; rename' x => x')))
    | with_reducible first
        | apply regionsSr_writes | apply shedClasses_writes | apply stopBurn_writes | apply requeue_writes
        | apply warmBlocks_writes | apply modPwr_writes | apply restartHoop_writes | apply Only.ite | apply upd_host)

theorem execWarmReset_writes {μ : Writes} {σ : State} (src : WarmSrc) (s : State) (h : Only μ σ s) (wchans : μ.chans = true)
    (wfrozen : μ.frozen = true) (wctxs : μ.ctxs = true) (wjournal : μ.journal = true) (wdram : μ.dram = true) (whost : μ.host
    = true) (wflt : μ.flt = true) (wcnt : μ.cnt = true) (wlanes : μ.lanes = true) (wtor : μ.tor = true) (wpwr : μ.pwr = true)
    (whoop : μ.hoop = true) (wotp : μ.otp = true) (wout : μ.out = true) :
    OnlyR μ σ (execWarmReset src s) := by
  unfold execWarmReset
  (repeat' first
    | with_reducible assumption
    | (extract_lets +onlyGivenNames x; first
      | (refine Only.cut (m := μ) (a := σ) (x := x) ?_ (fun hx => ?_); (on_goal 1 => subst x); (on_goal 2 => (clear_value x; rename' x => x')))
      | (clear_value x; rename' x => x'))
    | with_reducible first
        | apply warmStart_writes | apply OnlyR.ite | apply OnlyR.next | apply upd_hoop)

theorem readAgain_writes {μ : Writes} {σ : State} (s : State) (h : Only μ σ s) (wflt : μ.flt = true) (wcnt : μ.cnt = true)
    (wtor : μ.tor = true) (wout : μ.out = true) :
    Only μ σ (State.readAgain s) := by
  unfold State.readAgain
  (repeat' first
    | with_reducible first
        | assumption | (intro _)
    | (extract_lets +onlyGivenNames x; clear_value x; rename' x => x')
    | with_reducible first
        | apply hostRead_writes | apply Only.foldl)

theorem badJournal_writes {μ : Writes} {σ : State} (l : List (ℕ × ℕ)) (s : State) (h : Only μ σ s) (wctxs : μ.ctxs = true)
    (wjournal : μ.journal = true) (wflt : μ.flt = true) (wcnt : μ.cnt = true) :
    Only μ σ (State.badJournal l s) := by
  unfold State.badJournal
  (repeat' first
    | with_reducible first
        | assumption | (intro _)
    | (extract_lets +onlyGivenNames x; first
      | (refine Only.cut (m := μ) (a := σ) (x := x) ?_ (fun hx => ?_); (on_goal 1 => subst x); (on_goal 2 => (clear_value x; rename' x => x')))
      | (clear_value x; rename' x => x'))
    | with_reducible first
        | apply halt_writes | apply Only.foldl | apply upd_journal)

theorem recoverHost_writes {μ : Writes} {σ : State} (s : State) (h : Only μ σ s) (wchans : μ.chans = true) (wctxs : μ.ctxs =
    true) (wjournal : μ.journal = true) (whost : μ.host = true) (wflt : μ.flt = true) (wcnt : μ.cnt = true) (wtor : μ.tor =
    true) (wout : μ.out = true) :
    Only μ σ (State.recoverHost s) := by
  unfold State.recoverHost
  (repeat' first
    | with_reducible assumption
    | (extract_lets +onlyGivenNames x; first
      | (refine Only.cut (m := μ) (a := σ) (x := x) ?_ (fun hx => ?_); (on_goal 1 => subst x); (on_goal 2 => (clear_value x; rename' x => x')))
      | (clear_value x; rename' x => x'))
    | with_reducible first
        | apply drainEvery_writes | apply readAgain_writes | apply requestPage_writes | apply rewriteJournal_writes
        | apply upd_chans_ctxs_host)

theorem execWarmResetEnd_writes {μ : Writes} {σ : State} (s : State) (h : Only μ σ s) (wchans : μ.chans = true) (wctxs :
    μ.ctxs = true) (wjournal : μ.journal = true) (whost : μ.host = true) (wflt : μ.flt = true) (wcnt : μ.cnt = true) (wtor :
    μ.tor = true) (whoop : μ.hoop = true) (wout : μ.out = true) :
    OnlyR μ σ (execWarmResetEnd s) := by
  unfold execWarmResetEnd
  (repeat' first
    | with_reducible assumption
    | (extract_lets +onlyGivenNames x; first
      | (refine Only.cut (m := μ) (a := σ) (x := x) ?_ (fun hx => ?_); (on_goal 1 => subst x); (on_goal 2 => (clear_value x; rename' x => x')))
      | (clear_value x; rename' x => x'))
    | with_reducible first
        | apply recoverHost_writes | apply leaveSrAll_writes | apply clocksOn_writes | apply Only.ite | apply OnlyR.ite
        | apply OnlyR.next
    | split
    | with_reducible apply upd_hoop)

theorem execHostInterfaceReset_writes {μ : Writes} {σ : State} (s : State) (h : Only μ σ s) (wctxs : μ.ctxs = true) (whost :
    μ.host = true) (wflt : μ.flt = true) (wcnt : μ.cnt = true) :
    OnlyR μ σ (execHostInterfaceReset s) := by
  unfold execHostInterfaceReset
  (repeat' first
    | with_reducible assumption
    | (extract_lets +onlyGivenNames x; first
      | (refine Only.cut (m := μ) (a := σ) (x := x) ?_ (fun hx => ?_); (on_goal 1 => subst x); (on_goal 2 => (clear_value x; rename' x => x')))
      | (clear_value x; rename' x => x'))
    | with_reducible first
        | apply count_writes | apply log_writes | apply OnlyR.ite | apply OnlyR.next | apply upd_ctxs_host)

theorem execHostRecovery_writes {μ : Writes} {σ : State} (badJournal : List (ℕ × ℕ)) (s : State) (h : Only μ σ s) (wchans :
    μ.chans = true) (wctxs : μ.ctxs = true) (wjournal : μ.journal = true) (whost : μ.host = true) (wflt : μ.flt = true) (wcnt
    : μ.cnt = true) (wtor : μ.tor = true) (wout : μ.out = true) :
    OnlyR μ σ (execHostRecovery badJournal s) := by
  unfold execHostRecovery
  (repeat' with_reducible first
      | assumption | apply recoverHost_writes | apply badJournal_writes | apply OnlyR.ite | apply OnlyR.next)

theorem execD3hotEntry_writes {μ : Writes} {σ : State} (s : State) (h : Only μ σ s) (whost : μ.host = true) :
    OnlyR μ σ (execD3hotEntry s) := by
  unfold execD3hotEntry
  (repeat' first
    | with_reducible assumption
    | (extract_lets +onlyGivenNames x; clear_value x; rename' x => x')
    | with_reducible first
        | apply OnlyR.ite | apply OnlyR.next | apply upd_host)

theorem execDevRstHoop_writes {μ : Writes} {σ : State} (s : State) (h : Only μ σ s) (wchans : μ.chans = true) (wctxs : μ.ctxs
    = true) (wflt : μ.flt = true) (wcnt : μ.cnt = true) (wtor : μ.tor = true) (whoop : μ.hoop = true) (wout : μ.out = true) :
    OnlyR μ σ (execDevRstHoop s) := by
  unfold execDevRstHoop
  (repeat' with_reducible first
      | assumption | apply restartHoop_writes | apply OnlyR.ite | apply OnlyR.next)

theorem execHoopRestart_writes {μ : Writes} {σ : State} (s : State) (h : Only μ σ s) (wchans : μ.chans = true) (wctxs : μ.ctxs
    = true) (wflt : μ.flt = true) (wcnt : μ.cnt = true) (wtor : μ.tor = true) (whoop : μ.hoop = true) (wout : μ.out = true) :
    OnlyR μ σ (execHoopRestart s) := by
  unfold execHoopRestart
  (repeat' with_reducible first
      | assumption | apply restartHoop_writes | apply OnlyR.ite | apply OnlyR.next)

theorem execHoopWatchdog_writes {μ : Writes} {σ : State} (s : State) (h : Only μ σ s) (wchans : μ.chans = true) (wctxs :
    μ.ctxs = true) (wjournal : μ.journal = true) (whost : μ.host = true) (wflt : μ.flt = true) (wcnt : μ.cnt = true) (wtor :
    μ.tor = true) (whoop : μ.hoop = true) (wout : μ.out = true) :
    OnlyR μ σ (execHoopWatchdog s) := by
  unfold execHoopWatchdog
  (repeat' first
    | with_reducible assumption
    | (extract_lets +onlyGivenNames x; first
      | (refine Only.cut (m := μ) (a := σ) (x := x) ?_ (fun hx => ?_); (on_goal 1 => subst x); (on_goal 2 => (clear_value x; rename' x => x')))
      | (clear_value x; rename' x => x'))
    | with_reducible first
        | apply restartHoop_writes | apply log_writes | apply finish_writes | apply OnlyR.ite | apply OnlyR.next
    | split
    | with_reducible apply upd_hoop)

theorem execHoopRunning_writes {μ : Writes} {σ : State} (s : State) (h : Only μ σ s) (wchans : μ.chans = true) (wctxs : μ.ctxs
    = true) (wjournal : μ.journal = true) (whost : μ.host = true) (wflt : μ.flt = true) (wcnt : μ.cnt = true) (wtor : μ.tor =
    true) (whoop : μ.hoop = true) (wout : μ.out = true) :
    OnlyR μ σ (execHoopRunning s) := by
  unfold execHoopRunning
  (repeat' first
    | with_reducible assumption
    | (extract_lets +onlyGivenNames x; first
      | (refine Only.cut (m := μ) (a := σ) (x := x) ?_ (fun hx => ?_); (on_goal 1 => subst x); (on_goal 2 => (clear_value x; rename' x => x')))
      | (clear_value x; rename' x => x'))
    | with_reducible first
        | apply finish_writes | apply OnlyR.ite | apply OnlyR.next
    | split
    | with_reducible apply upd_hoop)

theorem execFirmwareLoad_writes {μ : Writes} {σ : State} (ctx : ℕ) (image : Fetch) (s : State) (h : Only μ σ s) (wchans :
    μ.chans = true) (wctxs : μ.ctxs = true) (wjournal : μ.journal = true) (whost : μ.host = true) (wflt : μ.flt = true) (wcnt
    : μ.cnt = true) (wtor : μ.tor = true) (whoop : μ.hoop = true) (wout : μ.out = true) :
    OnlyR μ σ (execFirmwareLoad ctx image s) := by
  unfold execFirmwareLoad
  (repeat' first
    | with_reducible assumption
    | (extract_lets +onlyGivenNames x; first
      | (refine Only.cut (m := μ) (a := σ) (x := x) ?_ (fun hx => ?_); (on_goal 1 => subst x); (on_goal 2 => (clear_value x; rename' x => x')))
      | (refine useRes x ?_; subst x; try beta_reduce)
      | (clear_value x; rename' x => x'))
    | with_reducible first
        | apply hostRead_writes | apply finish_writes | apply inlineJob_writes | apply restartHoop_writes
        | apply modDesc_writes | apply Only.ite | apply OnlyR.ite | apply OnlyR.next
    | split
    | with_reducible apply upd_hoop)

theorem execFwFallback_writes {μ : Writes} {σ : State} (s : State) (h : Only μ σ s) (wchans : μ.chans = true) (wctxs : μ.ctxs
    = true) (wjournal : μ.journal = true) (whost : μ.host = true) (wflt : μ.flt = true) (wcnt : μ.cnt = true) (wtor : μ.tor =
    true) (whoop : μ.hoop = true) (wout : μ.out = true) :
    OnlyR μ σ (execFwFallback s) := by
  unfold execFwFallback
  (repeat' first
    | with_reducible assumption
    | (extract_lets +onlyGivenNames x; first
      | (refine Only.cut (m := μ) (a := σ) (x := x) ?_ (fun hx => ?_); (on_goal 1 => subst x); (on_goal 2 => (clear_value x; rename' x => x')))
      | (clear_value x; rename' x => x'))
    | with_reducible first
        | apply restartHoop_writes | apply finish_writes | apply log_writes | apply OnlyR.ite | apply OnlyR.next
    | split
    | with_reducible apply upd_hoop)

theorem execRefclkLoss_writes {μ : Writes} {σ : State} (s : State) (h : Only μ σ s) (wchans : μ.chans = true) (wfrozen :
    μ.frozen = true) (wctxs : μ.ctxs = true) (wjournal : μ.journal = true) (wdram : μ.dram = true) (whost : μ.host = true)
    (wflt : μ.flt = true) (wcnt : μ.cnt = true) (wthm : μ.thm = true) (wlanes : μ.lanes = true) (wtor : μ.tor = true) (wpwr :
    μ.pwr = true) (whoop : μ.hoop = true) (wout : μ.out = true) :
    OnlyR μ σ (execRefclkLoss s) := by
  unfold execRefclkLoss
  (repeat' with_reducible first
      | assumption | apply enterSafe_writes | apply log_writes | apply OnlyR.next)

theorem execRefclkReturn_writes {μ : Writes} {σ : State} (s : State) (h : Only μ σ s) (wflt : μ.flt = true) :
    OnlyR μ σ (execRefclkReturn s) := by
  unfold execRefclkReturn
  (repeat' with_reducible first
      | assumption | apply condEnd_writes | apply OnlyR.next)

theorem pinChange_writes {μ : Writes} {σ : State} (i : ℕ) (was : Bool) (now : Bool) (s : State) (h : Only μ σ s) (wflt : μ.flt
    = true) (wcnt : μ.cnt = true) :
    Only μ σ (State.pinChange i was now s) := by
  unfold State.pinChange
  (repeat' with_reducible first
      | assumption | apply log_writes | apply condEnd_writes | apply Only.ite)

theorem execPinReadback_writes {μ : Writes} {σ : State} (alertLow : Bool) (fatalLow : Bool) (s : State) (h : Only μ σ s) (wflt
    : μ.flt = true) (wcnt : μ.cnt = true) :
    OnlyR μ σ (execPinReadback alertLow fatalLow s) := by
  unfold execPinReadback
  (repeat' first
    | with_reducible assumption
    | (extract_lets +onlyGivenNames x; first
      | (refine Only.cut (m := μ) (a := σ) (x := x) ?_ (fun hx => ?_); (on_goal 1 => subst x); (on_goal 2 => (clear_value x; rename' x => x')))
      | (clear_value x; rename' x => x'))
    | with_reducible first
        | apply pinChange_writes | apply OnlyR.next | apply upd_flt)

theorem modFlt_writes {μ : Writes} {σ : State} (f : Faults → Faults) (s : State) (h : Only μ σ s) (wflt : μ.flt = true) :
    Only μ σ (State.modFlt f s) := by
  unfold State.modFlt
  (repeat' with_reducible first
      | assumption | apply upd_flt)

theorem execFltAck_writes {μ : Writes} {σ : State} (path : Path) (corrupt : List ℕ) (s : State) (h : Only μ σ s) (wflt : μ.flt
    = true) :
    OnlyR μ σ (execFltAck path corrupt s) := by
  unfold execFltAck
  (repeat' with_reducible first
      | assumption | apply modFlt_writes | apply corruptLog_writes | apply OnlyR.ite | apply OnlyR.next)

theorem execFltClear_writes {μ : Writes} {σ : State} (path : Path) (corrupt : List ℕ) (s : State) (h : Only μ σ s) (wflt :
    μ.flt = true) :
    OnlyR μ σ (execFltClear path corrupt s) := by
  unfold execFltClear
  (repeat' with_reducible first
      | assumption | apply modFlt_writes | apply corruptLog_writes | apply OnlyR.ite | apply OnlyR.next)

theorem execFltAckAll_writes {μ : Writes} {σ : State} (corrupt : List ℕ) (s : State) (h : Only μ σ s) (wflt : μ.flt = true) :
    OnlyR μ σ (execFltAckAll corrupt s) := by
  unfold execFltAckAll
  (repeat' with_reducible first
      | assumption | apply modFlt_writes | apply corruptLog_writes | apply OnlyR.next)

theorem execFltClearAll_writes {μ : Writes} {σ : State} (corrupt : List ℕ) (s : State) (h : Only μ σ s) (wflt : μ.flt = true)
    :
    OnlyR μ σ (execFltClearAll corrupt s) := by
  unfold execFltClearAll
  (repeat' with_reducible first
      | assumption | apply modFlt_writes | apply corruptLog_writes | apply OnlyR.next)

theorem execClearLost_writes {μ : Writes} {σ : State} (s : State) (h : Only μ σ s) (wflt : μ.flt = true) :
    OnlyR μ σ (execClearLost s) := by
  unfold execClearLost
  (repeat' with_reducible first
      | assumption | apply modFlt_writes | apply OnlyR.next)

end Sys2Proof.Laws
end

