-- ==== Sys2Proof/Laws/OnlyLanes.lean ====
section
/-! SUPPORT. What the operations of Machine/Lanes.lean may write. -/

set_option linter.unusedTactic false
set_option linter.unreachableTactic false
set_option linter.unusedVariables false
set_option linter.tactic.unusedName false

namespace Sys2Proof.Laws

open Sys2Proof Sys2Proof.Machine

theorem sendComma_writes {μ : Writes} {σ : State} (kind : ℕ) (g : ℕ) (l : ℕ) (idx : ℕ) (s2 : ℕ) (s3 : ℕ) (s : State) (h : Only
    μ σ s) (wout : μ.out = true) :
    Only μ σ (State.sendComma kind g l idx s2 s3 s) := by
  unfold State.sendComma
  (repeat' first
    | with_reducible assumption
    | (extract_lets +onlyGivenNames x; clear_value x; rename' x => x')
    | with_reducible apply emit_writes)

theorem modLane_writes {μ : Writes} {σ : State} (rx : Bool) (g : ℕ) (l : ℕ) (f : Lane → Lane) (s : State) (h : Only μ σ s)
    (wlanes : μ.lanes = true) :
    Only μ σ (State.modLane rx g l f s) := by
  unfold State.modLane
  (repeat' with_reducible first
      | assumption | apply modGroup_writes)

theorem liveChange_writes {μ : Writes} {σ : State} (rx : Bool) (g : ℕ) (was : ℕ) (s : State) (h : Only μ σ s) (wflt : μ.flt =
    true) (wcnt : μ.cnt = true) (wlanes : μ.lanes = true) (wtor : μ.tor = true) :
    Only μ σ (State.liveChange rx g was s) := by
  unfold State.liveChange
  (repeat' first
    | with_reducible assumption
    | (extract_lets +onlyGivenNames x; first
      | (refine Only.cut (m := μ) (a := σ) (x := x) ?_ (fun hx => ?_); (on_goal 1 => subst x); (on_goal 2 => (clear_value x; rename' x => x')))
      | (clear_value x; rename' x => x'))
    | with_reducible first
        | apply modPort_writes | apply notice_writes | apply log_writes | apply Only.ite)

theorem onGroup_writes {μ : Writes} {σ : State} (rx : Bool) (g : ℕ) (f : State → State) (s : State) (hf : ∀ s, Only μ σ s →
    Only μ σ (f s)) (h : Only μ σ s) (wflt : μ.flt = true) (wcnt : μ.cnt = true) (wlanes : μ.lanes = true) (wtor : μ.tor =
    true) :
    Only μ σ (State.onGroup rx g f s) := by
  unfold State.onGroup
  (repeat' with_reducible first
      | assumption | apply liveChange_writes | apply hf)

theorem groupTo_writes {μ : Writes} {σ : State} (rx : Bool) (g : ℕ) (st : GrpState) (s : State) (h : Only μ σ s) (wlanes :
    μ.lanes = true) :
    Only μ σ (State.groupTo rx g st s) := by
  unfold State.groupTo
  (repeat' with_reducible first
      | assumption | apply modGroup_writes)

theorem failPort_writes {μ : Writes} {σ : State} (p : ℕ) (s : State) (h : Only μ σ s) (wflt : μ.flt = true) (wcnt : μ.cnt =
    true) (wlanes : μ.lanes = true) (wtor : μ.tor = true) :
    Only μ σ (State.failPort p s) := by
  unfold State.failPort
  (repeat' with_reducible first
      | assumption | apply log_writes | apply groupTo_writes | apply modPort_writes)

theorem undead_writes {μ : Writes} {σ : State} (rx : Bool) (g : ℕ) (l : ℕ) (s : State) (h : Only μ σ s) (wflt : μ.flt = true)
    :
    Only μ σ (State.undead rx g l s) := by
  unfold State.undead
  (repeat' with_reducible first
      | assumption | apply condEnd_writes)

theorem execLaneRetrain_writes {μ : Writes} {σ : State} (path : Path) (value : Word) (s : State) (h : Only μ σ s) (wflt :
    μ.flt = true) (wcnt : μ.cnt = true) (wlanes : μ.lanes = true) (wtor : μ.tor = true) :
    OnlyR μ σ (execLaneRetrain path value s) := by
  unfold execLaneRetrain
  (repeat' first
    | with_reducible first
        | assumption | (intro _)
    | (extract_lets +onlyGivenNames x; first
      | (refine Only.cut (m := μ) (a := σ) (x := x) ?_ (fun hx => ?_); (on_goal 1 => subst x); (on_goal 2 => (clear_value x; rename' x => x')))
      | (refine useFun x ?_; subst x; try beta_reduce)
      | (clear_value x; rename' x => x'))
    | with_reducible first
        | apply writeIgnored_writes | apply modGroup_writes | apply undead_writes | apply onGroup_writes | apply OnlyR.ite
        | apply Only.foldl | apply OnlyR.next)

theorem dcLanes_writes {μ : Writes} {σ : State} (rx : Bool) (g : ℕ) (outcomes : List ℕ) (s : State) (h : Only μ σ s) (wflt :
    μ.flt = true) (wcnt : μ.cnt = true) (wlanes : μ.lanes = true) :
    Only μ σ (State.dcLanes rx g outcomes s) := by
  unfold State.dcLanes
  (repeat' first
    | with_reducible first
        | assumption | (intro _)
    | (extract_lets +onlyGivenNames x; clear_value x; rename' x => x')
    | with_reducible first
        | apply log_writes | apply modLane_writes | apply undead_writes | apply Only.ite | apply Only.foldl)

theorem execDcTestDone_writes {μ : Writes} {σ : State} (rx : Bool) (group : ℕ) (outcomes : List ℕ) (s : State) (h : Only μ σ
    s) (wflt : μ.flt = true) (wcnt : μ.cnt = true) (wlanes : μ.lanes = true) (wtor : μ.tor = true) :
    OnlyR μ σ (execDcTestDone rx group outcomes s) := by
  unfold execDcTestDone
  (repeat' first
    | with_reducible assumption
    | (extract_lets +onlyGivenNames x; first
      | (refine Only.cut (m := μ) (a := σ) (x := x) ?_ (fun hx => ?_); (on_goal 1 => subst x); (on_goal 2 => (clear_value x; rename' x => x')))
      | (clear_value x; rename' x => x')
      | (subst x; try beta_reduce))
    | with_reducible first
        | apply dcLanes_writes | apply groupTo_writes | apply modPort_writes | apply log_writes | apply checkCandidate_writes
        | apply Only.ite | apply OnlyR.ite | apply OnlyR.next)

theorem execClockLock_writes {μ : Writes} {σ : State} (group : ℕ) (s : State) (h : Only μ σ s) (wlanes : μ.lanes = true) (wtor
    : μ.tor = true) :
    OnlyR μ σ (execClockLock group s) := by
  unfold execClockLock
  (repeat' first
    | with_reducible assumption
    | (extract_lets +onlyGivenNames x; refine Only.cut (m := μ) (a := σ) (x := x) ?_ (fun hx => ?_); (on_goal 1 => subst x); (on_goal 2 => (clear_value x; rename' x => x')))
    | with_reducible first
        | apply modGroup_writes | apply modPort_writes | apply Only.ite | apply OnlyR.ite | apply OnlyR.next)

theorem alignExit_writes {μ : Writes} {σ : State} (g : ℕ) (s : State) (h : Only μ σ s) (wflt : μ.flt = true) (wcnt : μ.cnt =
    true) (wlanes : μ.lanes = true) (wtor : μ.tor = true) :
    Only μ σ (State.alignExit g s) := by
  unfold State.alignExit
  (repeat' first
    | with_reducible first
        | assumption | (intro _)
    | (extract_lets +onlyGivenNames x; refine Only.cut (m := μ) (a := σ) (x := x) ?_ (fun hx => ?_); (on_goal 1 => subst x); (on_goal 2 => (clear_value x; rename' x => x')))
    | with_reducible first
        | apply groupTo_writes | apply modLane_writes | apply modPort_writes | apply liveChange_writes | apply Only.ite
        | apply Only.foldl)

theorem miswired_writes {μ : Writes} {σ : State} (g : ℕ) (l : ℕ) (s : State) (h : Only μ σ s) (wlanes : μ.lanes = true) :
    Only μ σ (State.miswired g l s) := by
  unfold State.miswired
  (repeat' with_reducible first
      | assumption | apply modLane_writes)

theorem alignLane_writes {μ : Writes} {σ : State} (g : ℕ) (l : ℕ) (inverted : Bool) (sg : ℕ) (sl : ℕ) (s : State) (h : Only μ
    σ s) (wflt : μ.flt = true) (wcnt : μ.cnt = true) (wlanes : μ.lanes = true) :
    Only μ σ (State.alignLane g l inverted sg sl s) := by
  unfold State.alignLane
  (repeat' first
    | with_reducible assumption
    | (extract_lets +onlyGivenNames x; first
      | (refine Only.cut (m := μ) (a := σ) (x := x) ?_ (fun hx => ?_); (on_goal 1 => subst x); (on_goal 2 => (clear_value x; rename' x => x')))
      | (clear_value x; rename' x => x'))
    | with_reducible first
        | apply log_writes | apply modLane_writes | apply miswired_writes | apply modGroup_writes | apply Only.ite
    | split)

theorem execLaneAlign_writes {μ : Writes} {σ : State} (group : ℕ) (lane : ℕ) (inverted : Bool) (sym : RxSymbols) (s : State)
    (h : Only μ σ s) (wflt : μ.flt = true) (wcnt : μ.cnt = true) (wlanes : μ.lanes = true) (wtor : μ.tor = true) :
    OnlyR μ σ (execLaneAlign group lane inverted sym s) := by
  unfold execLaneAlign
  (repeat' first
    | with_reducible assumption
    | (extract_lets +onlyGivenNames x; first
      | (refine Only.cut (m := μ) (a := σ) (x := x) ?_ (fun hx => ?_); (on_goal 1 => subst x); (on_goal 2 => (clear_value x; rename' x => x')))
      | (clear_value x; rename' x => x'))
    | with_reducible first
        | apply modLane_writes | apply alignLane_writes | apply alignExit_writes | apply Only.ite | apply OnlyR.ite
        | apply OnlyR.next
    | split)

theorem execAlignTimeout_writes {μ : Writes} {σ : State} (group : ℕ) (s : State) (h : Only μ σ s) (wflt : μ.flt = true) (wcnt
    : μ.cnt = true) (wlanes : μ.lanes = true) (wtor : μ.tor = true) :
    OnlyR μ σ (execAlignTimeout group s) := by
  unfold execAlignTimeout
  (repeat' first
    | with_reducible first
        | assumption | (intro _)
    | (extract_lets +onlyGivenNames x; first
      | (refine Only.cut (m := μ) (a := σ) (x := x) ?_ (fun hx => ?_); (on_goal 1 => subst x); (on_goal 2 => (clear_value x; rename' x => x')))
      | (clear_value x; rename' x => x'))
    | with_reducible first
        | apply modLane_writes | apply alignExit_writes | apply OnlyR.ite | apply Only.foldl | apply OnlyR.next
    | split)

theorem confirmTx_writes {μ : Writes} {σ : State} (g : ℕ) (s : State) (h : Only μ σ s) (wlanes : μ.lanes = true) :
    Only μ σ (State.confirmTx g s) := by
  unfold State.confirmTx
  (repeat' first
    | with_reducible assumption
    | (extract_lets +onlyGivenNames x; clear_value x; rename' x => x')
    | with_reducible first
        | apply groupTo_writes | apply Only.ite)

theorem execTrainingBeat_writes {μ : Writes} {σ : State} (group : ℕ) (lane : ℕ) (sym : RxSymbols) (s : State) (h : Only μ σ s)
    (wlanes : μ.lanes = true) :
    OnlyR μ σ (execTrainingBeat group lane sym s) := by
  unfold execTrainingBeat
  (repeat' first
    | with_reducible assumption
    | (extract_lets +onlyGivenNames x; first
      | (refine Only.cut (m := μ) (a := σ) (x := x) ?_ (fun hx => ?_); (on_goal 1 => subst x); (on_goal 2 => (clear_value x; rename' x => x')))
      | (clear_value x; rename' x => x'))
    | with_reducible first
        | apply modGroup_writes | apply modLane_writes | apply confirmTx_writes | apply groupTo_writes | apply Only.ite
        | apply OnlyR.ite | apply OnlyR.next
    | split)

theorem execHandshakeTimeout_writes {μ : Writes} {σ : State} (group : ℕ) (s : State) (h : Only μ σ s) (wlanes : μ.lanes =
    true) :
    OnlyR μ σ (execHandshakeTimeout group s) := by
  unfold execHandshakeTimeout
  (repeat' first
    | with_reducible first
        | assumption | (intro _)
    | (extract_lets +onlyGivenNames x; first
      | (refine Only.cut (m := μ) (a := σ) (x := x) ?_ (fun hx => ?_); (on_goal 1 => subst x); (on_goal 2 => (clear_value x; rename' x => x')))
      | (clear_value x; rename' x => x'))
    | with_reducible first
        | apply modGroup_writes | apply modLane_writes | apply groupTo_writes | apply Only.ite | apply OnlyR.ite
        | apply Only.foldl | apply OnlyR.next)

theorem syncDone_writes {μ : Writes} {σ : State} (g : ℕ) (s : State) (h : Only μ σ s) (wflt : μ.flt = true) (wcnt : μ.cnt =
    true) (wlanes : μ.lanes = true) (wtor : μ.tor = true) :
    Only μ σ (State.syncDone g s) := by
  unfold State.syncDone
  (repeat' first
    | with_reducible first
        | assumption | (intro _)
    | (extract_lets +onlyGivenNames x; clear_value x; rename' x => x')
    | with_reducible first
        | apply onGroup_writes | apply modGroup_writes | apply groupTo_writes | apply Only.ite)

theorem execMarkerBeat_writes {μ : Writes} {σ : State} (group : ℕ) (lane : ℕ) (sym : RxSymbols) (s : State) (h : Only μ σ s)
    (wflt : μ.flt = true) (wcnt : μ.cnt = true) (wlanes : μ.lanes = true) (wtor : μ.tor = true) :
    OnlyR μ σ (execMarkerBeat group lane sym s) := by
  unfold execMarkerBeat
  (repeat' first
    | with_reducible first
        | assumption | (intro _)
    | (extract_lets +onlyGivenNames x; first
      | (refine Only.cut (m := μ) (a := σ) (x := x) ?_ (fun hx => ?_); (on_goal 1 => subst x); (on_goal 2 => (clear_value x; rename' x => x')))
      | (clear_value x; rename' x => x'))
    | with_reducible first
        | apply modLane_writes | apply onGroup_writes | apply syncDone_writes | apply OnlyR.ite | apply OnlyR.next
    | split)

theorem portMarkers_writes {μ : Writes} {σ : State} (group : ℕ) (s : State) (h : Only μ σ s) (wlanes : μ.lanes = true) (wout :
    μ.out = true) :
    Only μ σ (State.portMarkers group s) := by
  unfold State.portMarkers
  (repeat' first
    | with_reducible first
        | assumption | (intro _)
    | (extract_lets +onlyGivenNames x; clear_value x; rename' x => x')
    | with_reducible first
        | apply sendComma_writes | apply modGroup_writes | apply Only.ite | apply Only.foldl)

theorem execMarkerSend_writes {μ : Writes} {σ : State} (group : ℕ) (s : State) (h : Only μ σ s) (wflt : μ.flt = true) (wcnt :
    μ.cnt = true) (wlanes : μ.lanes = true) (wtor : μ.tor = true) (wout : μ.out = true) :
    OnlyR μ σ (execMarkerSend group s) := by
  unfold execMarkerSend
  (repeat' first
    | with_reducible first
        | assumption | (intro _)
    | (extract_lets +onlyGivenNames x; first
      | (refine Only.cut (m := μ) (a := σ) (x := x) ?_ (fun hx => ?_); (on_goal 1 => subst x); (on_goal 2 => (clear_value x; rename' x => x')))
      | (clear_value x; rename' x => x'))
    | with_reducible first
        | apply portMarkers_writes | apply onGroup_writes | apply modGroup_writes | apply groupTo_writes
        | apply sendComma_writes | apply Only.ite | apply OnlyR.ite | apply Only.foldl | apply OnlyR.next)

theorem sendCtrl_writes {μ : Writes} {σ : State} (g : ℕ) (l : ℕ) (idx : ℕ) (w : Word) (s : State) (h : Only μ σ s) (wout :
    μ.out = true) :
    Only μ σ (State.sendCtrl g l idx w s) := by
  unfold State.sendCtrl
  (repeat' with_reducible first
      | assumption | apply emit_writes)

theorem sendNotice_writes {μ : Writes} {σ : State} (g : ℕ) (l : ℕ) (idx : ℕ) (s : State) (h : Only μ σ s) (wlanes : μ.lanes =
    true) (wout : μ.out = true) :
    Only μ σ (State.sendNotice g l idx s) := by
  unfold State.sendNotice
  (repeat' first
    | with_reducible first
        | assumption | apply sendCtrl_writes | apply modGroup_writes
    | split)

theorem offBeat_writes {μ : Writes} {σ : State} (g : ℕ) (l : ℕ) (idx : ℕ) (due : List TxBeat) (s : State) (h : Only μ σ s)
    (wflt : μ.flt = true) (wcnt : μ.cnt = true) (wlanes : μ.lanes = true) (wout : μ.out = true) :
    Only μ σ (State.offBeat g l idx due s) := by
  unfold State.offBeat
  (repeat' first
    | with_reducible first
        | assumption | (intro _)
    | (extract_lets +onlyGivenNames x; first
      | (refine Only.cut (m := μ) (a := σ) (x := x) ?_ (fun hx => ?_); (on_goal 1 => subst x); (on_goal 2 => (clear_value x; rename' x => x')))
      | (clear_value x; rename' x => x'))
    | with_reducible first
        | apply count_writes | apply emit_writes | apply modLane_writes | apply sendCtrl_writes | apply sendComma_writes
        | apply Only.ite | apply Only.foldl)

theorem lateBeat_writes {μ : Writes} {σ : State} (g : ℕ) (l : ℕ) (b : TxBeat) (s : State) (h : Only μ σ s) (wflt : μ.flt =
    true) (wcnt : μ.cnt = true) (wlanes : μ.lanes = true) (wout : μ.out = true) :
    Only μ σ (State.lateBeat g l b s) := by
  unfold State.lateBeat
  (repeat' first
    | with_reducible assumption
    | (extract_lets +onlyGivenNames x; first
      | (refine Only.cut (m := μ) (a := σ) (x := x) ?_ (fun hx => ?_); (on_goal 1 => subst x); (on_goal 2 => (clear_value x; rename' x => x')))
      | (clear_value x; rename' x => x'))
    | with_reducible first
        | apply log_writes | apply sendCtrl_writes | apply modLane_writes | apply Only.ite)

theorem launchBeat_writes {μ : Writes} {σ : State} (g : ℕ) (l : ℕ) (b : TxBeat) (fifoFail : Bool) (s : State) (h : Only μ σ s)
    (wflt : μ.flt = true) (wcnt : μ.cnt = true) (wlanes : μ.lanes = true) (wout : μ.out = true) :
    Only μ σ (State.launchBeat g l b fifoFail s) := by
  unfold State.launchBeat
  (repeat' first
    | with_reducible assumption
    | (extract_lets +onlyGivenNames x; first
      | (refine Only.cut (m := μ) (a := σ) (x := x) ?_ (fun hx => ?_); (on_goal 1 => subst x); (on_goal 2 => (clear_value x; rename' x => x')))
      | (clear_value x; rename' x => x'))
    | with_reducible first
        | apply modGroup_writes | apply sendCtrl_writes | apply log_writes | apply count_writes | apply emit_writes
        | apply Only.ite
    | split)

theorem execBeatLaunch_writes {μ : Writes} {σ : State} (group : ℕ) (lane : ℕ) (fifoFail : Bool) (s : State) (h : Only μ σ s)
    (wflt : μ.flt = true) (wcnt : μ.cnt = true) (wlanes : μ.lanes = true) (wout : μ.out = true) :
    OnlyR μ σ (execBeatLaunch group lane fifoFail s) := by
  unfold execBeatLaunch
  (repeat' first
    | with_reducible first
        | assumption | (intro _)
    | (extract_lets +onlyGivenNames x; first
      | (refine Only.cut (m := μ) (a := σ) (x := x) ?_ (fun hx => ?_); (on_goal 1 => subst x); (on_goal 2 => (clear_value x; rename' x => x')))
      | (clear_value x; rename' x => x'))
    | with_reducible first
        | apply modGroup_writes | apply offBeat_writes | apply lateBeat_writes | apply launchBeat_writes
        | apply modLane_writes | apply sendCtrl_writes | apply sendNotice_writes | apply OnlyR.ite | apply Only.foldl
        | apply OnlyR.next
    | split)

theorem giveWord_writes {μ : Writes} {σ : State} (g : ℕ) (l : ℕ) (idx : ℕ) (w : Option Word) (s : State) (h : Only μ σ s)
    (wchans : μ.chans = true) :
    OnlyP μ σ (State.giveWord g l idx w s) := by
  unfold State.giveWord
  (repeat' first
    | with_reducible assumption
    | (extract_lets +onlyGivenNames x; clear_value x; rename' x => x')
    | with_reducible apply modChan_writes
    | split
    | with_reducible apply OnlyP.mk)

theorem fallSearch_writes {μ : Writes} {σ : State} (g : ℕ) (l : ℕ) (s : State) (h : Only μ σ s) (wflt : μ.flt = true) (wcnt :
    μ.cnt = true) (wlanes : μ.lanes = true) (wtor : μ.tor = true) :
    Only μ σ (State.fallSearch g l s) := by
  unfold State.fallSearch
  (repeat' with_reducible first
      | assumption | (intro _) | apply onGroup_writes | apply modLane_writes)

theorem countErrored_writes {μ : Writes} {σ : State} (g : ℕ) (l : ℕ) (idx : ℕ) (s : State) (h : Only μ σ s) (wflt : μ.flt =
    true) (wcnt : μ.cnt = true) (wlanes : μ.lanes = true) :
    Only μ σ (State.countErrored g l idx s) := by
  unfold State.countErrored
  (repeat' with_reducible first
      | assumption | apply count_writes | apply modLane_writes)

theorem countFixed_writes {μ : Writes} {σ : State} (g : ℕ) (l : ℕ) (fixed : Bool) (s : State) (h : Only μ σ s) (wflt : μ.flt =
    true) (wcnt : μ.cnt = true) (wlanes : μ.lanes = true) :
    Only μ σ (State.countFixed g l fixed s) := by
  unfold State.countFixed
  (repeat' with_reducible first
      | assumption | apply count_writes | apply modLane_writes | apply Only.ite)

theorem rxMarker_writes {μ : Writes} {σ : State} (g : ℕ) (l : ℕ) (idx : ℕ) (k : RxKind) (s : State) (h : Only μ σ s) (wflt :
    μ.flt = true) (wcnt : μ.cnt = true) (wlanes : μ.lanes = true) (wtor : μ.tor = true) :
    Only μ σ (State.rxMarker g l idx k s) := by
  unfold State.rxMarker
  (repeat' first
    | with_reducible assumption
    | (extract_lets +onlyGivenNames x; first
      | (refine Only.cut (m := μ) (a := σ) (x := x) ?_ (fun hx => ?_); (on_goal 1 => subst x); (on_goal 2 => (clear_value x; rename' x => x')))
      | (refine useFun x ?_; subst x; try beta_reduce)
      | (clear_value x; rename' x => x'))
    | with_reducible first
        | apply countErrored_writes | apply fallSearch_writes | apply modLane_writes | apply Only.ite
    | split)

theorem rxBeat_writes {μ : Writes} {σ : State} (g : ℕ) (l : ℕ) (idx : ℕ) (k : RxKind) (lost : Bool) (s : State) (h : Only μ σ
    s) (wchans : μ.chans = true) (wflt : μ.flt = true) (wcnt : μ.cnt = true) (wlanes : μ.lanes = true) :
    Only μ σ (State.rxBeat g l idx k lost s) := by
  unfold State.rxBeat
  (repeat' first
    | with_reducible assumption
    | (extract_lets +onlyGivenNames x; first
      | (refine Only.cut (m := μ) (a := σ) (x := x) ?_ (fun hx => ?_); (on_goal 1 => subst x); (on_goal 2 => (clear_value x; rename' x => x')))
      | (refine OnlyP.cut (m := μ) (a := σ) (x := x) ?_ (fun hx => ?_); (on_goal 1 => subst x); (on_goal 2 => (clear_value x; rename' x => x')))
      | (clear_value x; rename' x => x'))
    | with_reducible first
        | apply count_writes | apply countFixed_writes | apply giveWord_writes | apply countErrored_writes | apply Only.ite
        | apply OnlyP.snd
    | split)

theorem rxLead_writes {μ : Writes} {σ : State} (g : ℕ) (l : ℕ) (lead : ℤ) (s : State) (h : Only μ σ s) (wflt : μ.flt = true)
    (wcnt : μ.cnt = true) (wlanes : μ.lanes = true) :
    Only μ σ (State.rxLead g l lead s) := by
  unfold State.rxLead
  (repeat' first
    | with_reducible assumption
    | (extract_lets +onlyGivenNames x; first
      | (refine Only.cut (m := μ) (a := σ) (x := x) ?_ (fun hx => ?_); (on_goal 1 => subst x); (on_goal 2 => (clear_value x; rename' x => x')))
      | (clear_value x; rename' x => x'))
    | with_reducible first
        | apply modGroup_writes | apply log_writes | apply Only.ite)

theorem execReceiveBeat_writes {μ : Writes} {σ : State} (group : ℕ) (lane : ℕ) (sym : RxSymbols) (lead : ℤ) (fifoFail : Bool)
    (s : State) (h : Only μ σ s) (wchans : μ.chans = true) (wflt : μ.flt = true) (wcnt : μ.cnt = true) (wlanes : μ.lanes =
    true) (wtor : μ.tor = true) :
    OnlyR μ σ (execReceiveBeat group lane sym lead fifoFail s) := by
  unfold execReceiveBeat
  (repeat' first
    | with_reducible assumption
    | (extract_lets +onlyGivenNames x; first
      | (refine Only.cut (m := μ) (a := σ) (x := x) ?_ (fun hx => ?_); (on_goal 1 => subst x); (on_goal 2 => (clear_value x; rename' x => x')))
      | (clear_value x; rename' x => x'))
    | with_reducible first
        | apply rxLead_writes | apply modLane_writes | apply log_writes | apply rxMarker_writes | apply rxBeat_writes
        | apply giveWord_writes | apply Only.ite | apply OnlyR.ite | apply OnlyR.next | apply OnlyP.snd
    | split)

theorem lockLost_writes {μ : Writes} {σ : State} (rx : Bool) (g : ℕ) (s : State) (h : Only μ σ s) (wflt : μ.flt = true) (wcnt
    : μ.cnt = true) (wlanes : μ.lanes = true) (wtor : μ.tor = true) :
    Only μ σ (State.lockLost rx g s) := by
  unfold State.lockLost
  (repeat' first
    | with_reducible first
        | assumption | (intro _)
    | (extract_lets +onlyGivenNames x; refine Only.cut (m := μ) (a := σ) (x := x) ?_ (fun hx => ?_); (on_goal 1 => subst x); (on_goal 2 => (clear_value x; rename' x => x')))
    | with_reducible first
        | apply failPort_writes | apply onGroup_writes | apply modGroup_writes | apply log_writes | apply Only.ite)

theorem execReceiveLossOfLock_writes {μ : Writes} {σ : State} (group : ℕ) (s : State) (h : Only μ σ s) (wflt : μ.flt = true)
    (wcnt : μ.cnt = true) (wlanes : μ.lanes = true) (wtor : μ.tor = true) :
    OnlyR μ σ (execReceiveLossOfLock group s) := by
  unfold execReceiveLossOfLock
  (repeat' with_reducible first
      | assumption | apply lockLost_writes | apply OnlyR.ite | apply OnlyR.next)

theorem execTransmitLossOfLock_writes {μ : Writes} {σ : State} (group : ℕ) (s : State) (h : Only μ σ s) (wflt : μ.flt = true)
    (wcnt : μ.cnt = true) (wlanes : μ.lanes = true) (wtor : μ.tor = true) :
    OnlyR μ σ (execTransmitLossOfLock group s) := by
  unfold execTransmitLossOfLock
  (repeat' with_reducible first
      | assumption | apply lockLost_writes | apply OnlyR.ite | apply OnlyR.next)

theorem execLossOfSignal_writes {μ : Writes} {σ : State} (group : ℕ) (lane : ℕ) (s : State) (h : Only μ σ s) (wflt : μ.flt =
    true) (wcnt : μ.cnt = true) (wlanes : μ.lanes = true) (wtor : μ.tor = true) :
    OnlyR μ σ (execLossOfSignal group lane s) := by
  unfold execLossOfSignal
  (repeat' with_reducible first
      | assumption | apply execReceiveLossOfLock_writes | apply fallSearch_writes | apply OnlyR.ite | apply OnlyR.next)

theorem execLossOfSymbolLock_writes {μ : Writes} {σ : State} (group : ℕ) (lane : ℕ) (s : State) (h : Only μ σ s) (wflt : μ.flt
    = true) (wcnt : μ.cnt = true) (wlanes : μ.lanes = true) (wtor : μ.tor = true) :
    OnlyR μ σ (execLossOfSymbolLock group lane s) := by
  unfold execLossOfSymbolLock
  (repeat' first
    | with_reducible assumption
    | (extract_lets +onlyGivenNames x; clear_value x; rename' x => x')
    | with_reducible first
        | apply fallSearch_writes | apply OnlyR.ite | apply OnlyR.next)

theorem prbsCtl_writes {μ : Writes} {σ : State} (path : Path) (value : Word) (s : State) (h : Only μ σ s) (wflt : μ.flt =
    true) (wcnt : μ.cnt = true) (wlanes : μ.lanes = true) (wtor : μ.tor = true) :
    Only μ σ (State.prbsCtl path value s) := by
  unfold State.prbsCtl
  (repeat' first
    | with_reducible first
        | assumption | (intro _)
    | (extract_lets +onlyGivenNames x; first
      | (refine Only.cut (m := μ) (a := σ) (x := x) ?_ (fun hx => ?_); (on_goal 1 => subst x); (on_goal 2 => (clear_value x; rename' x => x')))
      | (clear_value x; rename' x => x'))
    | with_reducible first
        | apply writeIgnored_writes | apply modLane_writes | apply onGroup_writes | apply Only.ite)

theorem execPrbsEnable_writes {μ : Writes} {σ : State} (path : Path) (value : Word) (s : State) (h : Only μ σ s) (wflt : μ.flt
    = true) (wcnt : μ.cnt = true) (wlanes : μ.lanes = true) (wtor : μ.tor = true) :
    OnlyR μ σ (execPrbsEnable path value s) := by
  unfold execPrbsEnable
  (repeat' with_reducible first
      | assumption | apply prbsCtl_writes | apply OnlyR.next)

theorem execPrbsInject_writes {μ : Writes} {σ : State} (path : Path) (value : Word) (s : State) (h : Only μ σ s) (wflt : μ.flt
    = true) (wcnt : μ.cnt = true) (wlanes : μ.lanes = true) (wtor : μ.tor = true) :
    OnlyR μ σ (execPrbsInject path value s) := by
  unfold execPrbsInject
  (repeat' with_reducible first
      | assumption | apply prbsCtl_writes | apply OnlyR.next)

theorem execPrbsAutoInject_writes {μ : Writes} {σ : State} (group : ℕ) (lane : ℕ) (s : State) (h : Only μ σ s) (wlanes :
    μ.lanes = true) :
    OnlyR μ σ (execPrbsAutoInject group lane s) := by
  unfold execPrbsAutoInject
  (repeat' first
    | with_reducible assumption
    | (extract_lets +onlyGivenNames x; clear_value x; rename' x => x')
    | with_reducible first
        | apply modLane_writes | apply OnlyR.ite | apply OnlyR.next)

theorem execPrbsSync_writes {μ : Writes} {σ : State} (group : ℕ) (lane : ℕ) (bits : List Bool) (s : State) (h : Only μ σ s)
    (wlanes : μ.lanes = true) :
    OnlyR μ σ (execPrbsSync group lane bits s) := by
  unfold execPrbsSync
  (repeat' with_reducible first
      | assumption | apply modLane_writes | apply OnlyR.ite | apply OnlyR.next)

end Sys2Proof.Laws
end

