-- ==== Sys2Proof/Laws/OnlyTorus.lean ====
section
/-! SUPPORT. What the operations of Machine/Torus.lean may write. -/

set_option linter.unusedTactic false
set_option linter.unreachableTactic false
set_option linter.unusedVariables false
set_option linter.tactic.unusedName false

namespace Sys2Proof.Laws

open Sys2Proof Sys2Proof.Machine

theorem modTor_writes {μ : Writes} {σ : State} (f : Torus → Torus) (s : State) (h : Only μ σ s) (wtor : μ.tor = true) :
    Only μ σ (State.modTor f s) := by
  unfold State.modTor
  (repeat' with_reducible first
      | assumption | apply upd_tor)

theorem linkCtrl_writes {μ : Writes} {σ : State} (p : ℕ) (typ : ℕ) (low : ℕ) (s : State) (h : Only μ σ s) (wout : μ.out =
    true) :
    Only μ σ (State.linkCtrl p typ low s) := by
  unfold State.linkCtrl
  (repeat' with_reducible first
      | assumption | apply emit_writes)

theorem reservedCtrl_writes {μ : Writes} {σ : State} (w : BitVec 64) (s : State) (h : Only μ σ s) (wflt : μ.flt = true) (wcnt
    : μ.cnt = true) :
    Only μ σ (State.reservedCtrl w s) := by
  unfold State.reservedCtrl
  (repeat' with_reducible first
      | assumption | apply count_writes | apply Only.ite)

theorem execIdent_writes {μ : Writes} {σ : State} (port : ℕ) (word : BitVec 64) (s : State) (h : Only μ σ s) (wflt : μ.flt =
    true) (wcnt : μ.cnt = true) (wtor : μ.tor = true) :
    OnlyR μ σ (execIdent port word s) := by
  unfold execIdent
  (repeat' first
    | with_reducible assumption
    | (extract_lets +onlyGivenNames x; first
      | (refine Only.cut (m := μ) (a := σ) (x := x) ?_ (fun hx => ?_); (on_goal 1 => subst x); (on_goal 2 => (clear_value x; rename' x => x')))
      | (clear_value x; rename' x => x'))
    | with_reducible first
        | apply reservedCtrl_writes | apply modPort_writes | apply condEnd_writes | apply log_writes | apply OnlyR.ite
        | apply OnlyR.next)

theorem execPortRetrain_writes {μ : Writes} {σ : State} (port : ℕ) (s : State) (h : Only μ σ s) (wlanes : μ.lanes = true)
    (wtor : μ.tor = true) :
    OnlyR μ σ (execPortRetrain port s) := by
  unfold execPortRetrain
  (repeat' first
    | with_reducible assumption
    | (extract_lets +onlyGivenNames x; clear_value x; rename' x => x')
    | with_reducible first
        | apply portDetect_writes | apply OnlyR.ite | apply OnlyR.next)

theorem execFreqCheck_writes {μ : Writes} {σ : State} (port : ℕ) (diff : ℕ) (s : State) (h : Only μ σ s) (wflt : μ.flt = true)
    (wcnt : μ.cnt = true) (wtor : μ.tor = true) (wout : μ.out = true) :
    OnlyR μ σ (execFreqCheck port diff s) := by
  unfold execFreqCheck
  (repeat' first
    | with_reducible assumption
    | (extract_lets +onlyGivenNames x; first
      | (refine Only.cut (m := μ) (a := σ) (x := x) ?_ (fun hx => ?_); (on_goal 1 => subst x); (on_goal 2 => (clear_value x; rename' x => x')))
      | (clear_value x; rename' x => x'))
    | with_reducible first
        | apply modPort_writes | apply log_writes | apply condEnd_writes | apply flushPort_writes | apply Only.ite
        | apply OnlyR.ite | apply OnlyR.next)

theorem sendIdents_writes {μ : Writes} {σ : State} (s : State) (h : Only μ σ s) (wout : μ.out = true) :
    Only μ σ (State.sendIdents s) := by
  unfold State.sendIdents
  (repeat' first
    | with_reducible first
        | assumption | (intro _)
    | (extract_lets +onlyGivenNames x; clear_value x; rename' x => x')
    | with_reducible first
        | apply linkCtrl_writes | apply Only.ite | apply Only.foldl)

theorem flushAll_writes {μ : Writes} {σ : State} (p : ℕ) (s : State) (h : Only μ σ s) (wflt : μ.flt = true) (wcnt : μ.cnt =
    true) (wtor : μ.tor = true) (wout : μ.out = true) :
    Only μ σ (State.flushAll p s) := by
  unfold State.flushAll
  (repeat' first
    | with_reducible assumption
    | (extract_lets +onlyGivenNames x; clear_value x; rename' x => x')
    | with_reducible apply flushPort_writes)

theorem execLack_writes {μ : Writes} {σ : State} (port : ℕ) (lseq : ℕ) (s : State) (h : Only μ σ s) (wflt : μ.flt = true)
    (wcnt : μ.cnt = true) (wtor : μ.tor = true) (wout : μ.out = true) :
    OnlyR μ σ (execLack port lseq s) := by
  unfold execLack
  (repeat' first
    | with_reducible assumption
    | (extract_lets +onlyGivenNames x; clear_value x; rename' x => x')
    | with_reducible first
        | apply flushAll_writes | apply modPort_writes | apply OnlyR.ite | apply OnlyR.next
    | split)

theorem resendFrom_writes {μ : Writes} {σ : State} (p : ℕ) (k : ℕ) (s : State) (h : Only μ σ s) (wflt : μ.flt = true) (wcnt :
    μ.cnt = true) (wout : μ.out = true) :
    Only μ σ (State.resendFrom p k s) := by
  unfold State.resendFrom
  (repeat' first
    | with_reducible assumption
    | (extract_lets +onlyGivenNames x; clear_value x; rename' x => x')
    | with_reducible first
        | apply count_writes | apply emit_writes | apply linkCtrl_writes
    | split)

theorem execLnak_writes {μ : Writes} {σ : State} (port : ℕ) (lseq : ℕ) (s : State) (h : Only μ σ s) (wflt : μ.flt = true)
    (wcnt : μ.cnt = true) (wout : μ.out = true) :
    OnlyR μ σ (execLnak port lseq s) := by
  unfold execLnak
  (repeat' first
    | with_reducible assumption
    | (extract_lets +onlyGivenNames x; clear_value x; rename' x => x')
    | with_reducible first
        | apply resendFrom_writes | apply OnlyR.ite | apply OnlyR.next
    | split)

theorem execReplay_writes {μ : Writes} {σ : State} (port : ℕ) (lseq : ℕ) (s : State) (h : Only μ σ s) (wtor : μ.tor = true)
    (wout : μ.out = true) :
    OnlyR μ σ (execReplay port lseq s) := by
  unfold execReplay
  (repeat' first
    | with_reducible assumption
    | (extract_lets +onlyGivenNames x; clear_value x; rename' x => x')
    | with_reducible first
        | apply modPort_writes | apply linkCtrl_writes | apply Only.ite | apply OnlyR.ite | apply OnlyR.next)

theorem execLnakTimeout_writes {μ : Writes} {σ : State} (port : ℕ) (s : State) (h : Only μ σ s) (wtor : μ.tor = true) (wout :
    μ.out = true) :
    OnlyR μ σ (execLnakTimeout port s) := by
  unfold execLnakTimeout
  (repeat' first
    | with_reducible assumption
    | (extract_lets +onlyGivenNames x; clear_value x; rename' x => x')
    | with_reducible first
        | apply linkCtrl_writes | apply modPort_writes | apply OnlyR.ite | apply OnlyR.next)

theorem execReplayTimeout_writes {μ : Writes} {σ : State} (port : ℕ) (s : State) (h : Only μ σ s) (wflt : μ.flt = true) (wcnt
    : μ.cnt = true) (wlanes : μ.lanes = true) (wtor : μ.tor = true) (wout : μ.out = true) :
    OnlyR μ σ (execReplayTimeout port s) := by
  unfold execReplayTimeout
  (repeat' first
    | with_reducible assumption
    | (extract_lets +onlyGivenNames x; first
      | (refine Only.cut (m := μ) (a := σ) (x := x) ?_ (fun hx => ?_); (on_goal 1 => subst x); (on_goal 2 => (clear_value x; rename' x => x')))
      | (clear_value x; rename' x => x'))
    | with_reducible first
        | apply resendFrom_writes | apply modPort_writes | apply failPort_writes | apply OnlyR.ite | apply OnlyR.next)

theorem execQueueTimeout_writes {μ : Writes} {σ : State} (port : ℕ) (s : State) (h : Only μ σ s) (wflt : μ.flt = true) (wcnt :
    μ.cnt = true) (wtor : μ.tor = true) (wout : μ.out = true) :
    OnlyR μ σ (execQueueTimeout port s) := by
  unfold execQueueTimeout
  (repeat' first
    | with_reducible assumption
    | (extract_lets +onlyGivenNames x; first
      | (refine Only.cut (m := μ) (a := σ) (x := x) ?_ (fun hx => ?_); (on_goal 1 => subst x); (on_goal 2 => (clear_value x; rename' x => x')))
      | (clear_value x; rename' x => x'))
    | with_reducible first
        | apply modPort_writes | apply flushAll_writes | apply count_writes | apply OnlyR.ite | apply OnlyR.next)

theorem takePacket_writes {μ : Writes} {σ : State} (pk : PktIn) (s : State) (h : Only μ σ s) (wflt : μ.flt = true) (wcnt :
    μ.cnt = true) (wtor : μ.tor = true) (wout : μ.out = true) :
    OnlyP μ σ (State.takePacket pk s) := by
  unfold State.takePacket
  (repeat' first
    | with_reducible assumption
    | (extract_lets +onlyGivenNames x; first
      | (refine Only.cut (m := μ) (a := σ) (x := x) ?_ (fun hx => ?_); (on_goal 1 => subst x); (on_goal 2 => (clear_value x; rename' x => x')))
      | (clear_value x; rename' x => x'))
    | with_reducible first
        | apply linkCtrl_writes | apply modPort_writes | apply count_writes | apply OnlyP.ite | apply OnlyP.mk)

theorem arrive_writes {μ : Writes} {σ : State} (typ : ℕ) (op : ℕ) (pk : PktIn) (s : State) (h : Only μ σ s) (wflt : μ.flt =
    true) (wcnt : μ.cnt = true) (wtor : μ.tor = true) (wout : μ.out = true) :
    OnlyP μ σ (State.arrive typ op pk s) := by
  unfold State.arrive
  (repeat' first
    | with_reducible assumption
    | (extract_lets +onlyGivenNames x; first
      | (refine OnlyP.cut (m := μ) (a := σ) (x := x) ?_ (fun hx => ?_); (on_goal 1 => subst x); (on_goal 2 => (clear_value x; rename' x => x')))
      | (clear_value x; rename' x => x'))
    | with_reducible first
        | apply takePacket_writes | apply discardPacket_writes | apply forwardOn_writes | apply OnlyP.ite | apply OnlyP.snd
    | split
    | with_reducible apply OnlyP.mk)

theorem adopt_writes {μ : Writes} {σ : State} (r : ℕ) (s : State) (h : Only μ σ s) (wflt : μ.flt = true) (wtor : μ.tor = true)
    :
    Only μ σ (State.adopt r s) := by
  unfold State.adopt
  (repeat' first
    | with_reducible assumption
    | (extract_lets +onlyGivenNames x; first
      | (refine Only.cut (m := μ) (a := σ) (x := x) ?_ (fun hx => ?_); (on_goal 1 => subst x); (on_goal 2 => (clear_value x; rename' x => x')))
      | (clear_value x; rename' x => x'))
    | with_reducible first
        | apply condEnd_writes | apply modTor_writes | apply Only.ite
    | split)

theorem stepTime_writes {μ : Writes} {σ : State} (e : ℤ) (s : State) (h : Only μ σ s) (wtor : μ.tor = true) :
    Only μ σ (State.stepTime e s) := by
  unfold State.stepTime
  (repeat' with_reducible first
      | assumption | apply modTor_writes)

theorem slewTime_writes {μ : Writes} {σ : State} (e : ℤ) (s : State) (h : Only μ σ s) (wflt : μ.flt = true) (wcnt : μ.cnt =
    true) (wtor : μ.tor = true) :
    Only μ σ (State.slewTime e s) := by
  unfold State.slewTime
  (repeat' first
    | with_reducible assumption
    | (extract_lets +onlyGivenNames x; refine Only.cut (m := μ) (a := σ) (x := x) ?_ (fun hx => ?_); (on_goal 1 => subst x); (on_goal 2 => (clear_value x; rename' x => x')))
    | with_reducible first
        | apply modTor_writes | apply log_writes | apply Only.ite)

theorem picotBefore_writes {μ : Writes} {σ : State} (p : ℕ) (e : ℤ) (s : State) (h : Only μ σ s) (wflt : μ.flt = true) (wtor :
    μ.tor = true) :
    Only μ σ (State.picotBefore p e s) := by
  unfold State.picotBefore
  (repeat' first
    | with_reducible assumption
    | (extract_lets +onlyGivenNames x; first
      | (refine Only.cut (m := μ) (a := σ) (x := x) ?_ (fun hx => ?_); (on_goal 1 => subst x); (on_goal 2 => (clear_value x; rename' x => x')))
      | (clear_value x; rename' x => x'))
    | with_reducible first
        | apply modTor_writes | apply adopt_writes | apply stepTime_writes | apply Only.ite)

theorem picotAfter_writes {μ : Writes} {σ : State} (p : ℕ) (e : ℤ) (s : State) (h : Only μ σ s) (wflt : μ.flt = true) (wcnt :
    μ.cnt = true) (wtor : μ.tor = true) :
    Only μ σ (State.picotAfter p e s) := by
  unfold State.picotAfter
  (repeat' first
    | with_reducible assumption
    | (extract_lets +onlyGivenNames x; first
      | (refine Only.cut (m := μ) (a := σ) (x := x) ?_ (fun hx => ?_); (on_goal 1 => subst x); (on_goal 2 => (clear_value x; rename' x => x')))
      | (clear_value x; rename' x => x'))
    | with_reducible first
        | apply modTor_writes | apply slewTime_writes | apply adopt_writes | apply stepTime_writes | apply log_writes
        | apply Only.ite)

theorem execPicotA_writes {μ : Writes} {σ : State} (port : ℕ) (word : BitVec 64) (arrival : ℕ) (s : State) (h : Only μ σ s)
    (wflt : μ.flt = true) (wcnt : μ.cnt = true) (wtor : μ.tor = true) :
    OnlyR μ σ (execPicotA port word arrival s) := by
  unfold execPicotA
  (repeat' first
    | with_reducible assumption
    | (extract_lets +onlyGivenNames x; first
      | (refine Only.cut (m := μ) (a := σ) (x := x) ?_ (fun hx => ?_); (on_goal 1 => subst x); (on_goal 2 => (clear_value x; rename' x => x')))
      | (clear_value x; rename' x => x'))
    | with_reducible first
        | apply reservedCtrl_writes | apply modPort_writes | apply picotAfter_writes | apply picotBefore_writes
        | apply Only.ite | apply OnlyR.ite | apply OnlyR.next)

theorem execPicotB_writes {μ : Writes} {σ : State} (port : ℕ) (word : BitVec 64) (s : State) (h : Only μ σ s) (wflt : μ.flt =
    true) (wcnt : μ.cnt = true) (wtor : μ.tor = true) :
    OnlyR μ σ (execPicotB port word s) := by
  unfold execPicotB
  (repeat' first
    | with_reducible assumption
    | (extract_lets +onlyGivenNames x; clear_value x; rename' x => x')
    | with_reducible first
        | apply reservedCtrl_writes | apply modPort_writes | apply OnlyR.ite | apply OnlyR.next)

theorem settleConflict_writes {μ : Writes} {σ : State} (s : State) (h : Only μ σ s) (wflt : μ.flt = true) (wtor : μ.tor =
    true) :
    Only μ σ (State.settleConflict s) := by
  unfold State.settleConflict
  (repeat' first
    | with_reducible first
        | assumption | apply condEnd_writes | apply modTor_writes | apply Only.ite
    | split)

theorem execPicotSend_writes {μ : Writes} {σ : State} (s : State) (h : Only μ σ s) (wflt : μ.flt = true) (wtor : μ.tor = true)
    (wout : μ.out = true) :
    OnlyR μ σ (execPicotSend s) := by
  unfold execPicotSend
  (repeat' first
    | with_reducible first
        | assumption | (intro _)
    | (extract_lets +onlyGivenNames x; first
      | (refine Only.cut (m := μ) (a := σ) (x := x) ?_ (fun hx => ?_); (on_goal 1 => subst x); (on_goal 2 => (clear_value x; rename' x => x')))
      | (clear_value x; rename' x => x'))
    | with_reducible first
        | apply settleConflict_writes | apply modTor_writes | apply linkCtrl_writes | apply Only.ite | apply OnlyR.ite
        | apply Only.foldl | apply OnlyR.next)

theorem execDelayReqSend_writes {μ : Writes} {σ : State} (port : ℕ) (s : State) (h : Only μ σ s) (wtor : μ.tor = true) (wout :
    μ.out = true) :
    OnlyR μ σ (execDelayReqSend port s) := by
  unfold execDelayReqSend
  (repeat' first
    | with_reducible assumption
    | (extract_lets +onlyGivenNames x; first
      | (refine Only.cut (m := μ) (a := σ) (x := x) ?_ (fun hx => ?_); (on_goal 1 => subst x); (on_goal 2 => (clear_value x; rename' x => x')))
      | (clear_value x; rename' x => x'))
    | with_reducible first
        | apply modPort_writes | apply linkCtrl_writes | apply OnlyR.ite | apply OnlyR.next)

theorem execDelayReq_writes {μ : Writes} {σ : State} (port : ℕ) (id : ℕ) (turn : ℕ) (s : State) (h : Only μ σ s) (wout : μ.out
    = true) :
    OnlyR μ σ (execDelayReq port id turn s) := by
  unfold execDelayReq
  (repeat' with_reducible first
      | assumption | apply linkCtrl_writes | apply OnlyR.ite | apply OnlyR.next)

theorem execDelayRsp_writes {μ : Writes} {σ : State} (port : ℕ) (id : ℕ) (turn : ℕ) (arrival : ℕ) (s : State) (h : Only μ σ s)
    (wtor : μ.tor = true) :
    OnlyR μ σ (execDelayRsp port id turn arrival s) := by
  unfold execDelayRsp
  (repeat' first
    | with_reducible assumption
    | (extract_lets +onlyGivenNames x; clear_value x; rename' x => x')
    | with_reducible first
        | apply modPort_writes | apply OnlyR.ite | apply OnlyR.next
    | split)

theorem becomeRoot_writes {μ : Writes} {σ : State} (s : State) (h : Only μ σ s) (wtor : μ.tor = true) :
    Only μ σ (State.becomeRoot s) := by
  unfold State.becomeRoot
  (repeat' with_reducible first
      | assumption | apply modTor_writes)

theorem execRootElection_writes {μ : Writes} {σ : State} (s : State) (h : Only μ σ s) (wtor : μ.tor = true) :
    OnlyR μ σ (execRootElection s) := by
  unfold execRootElection
  (repeat' with_reducible first
      | assumption | apply becomeRoot_writes | apply OnlyR.ite | apply OnlyR.next)

theorem execHoldover_writes {μ : Writes} {σ : State} (s : State) (h : Only μ σ s) (wflt : μ.flt = true) (wcnt : μ.cnt = true)
    (wtor : μ.tor = true) :
    OnlyR μ σ (execHoldover s) := by
  unfold execHoldover
  (repeat' first
    | with_reducible assumption
    | (extract_lets +onlyGivenNames x; clear_value x; rename' x => x')
    | with_reducible first
        | apply log_writes | apply modTor_writes | apply OnlyR.ite | apply OnlyR.next)

theorem execHoldoverRoot_writes {μ : Writes} {σ : State} (s : State) (h : Only μ σ s) (wflt : μ.flt = true) (wtor : μ.tor =
    true) :
    OnlyR μ σ (execHoldoverRoot s) := by
  unfold execHoldoverRoot
  (repeat' with_reducible first
      | assumption | apply condEnd_writes | apply becomeRoot_writes | apply OnlyR.ite | apply OnlyR.next)

theorem ackFwd_writes {μ : Writes} {σ : State} (w0 : ℕ) (tag : ℕ) (reason : ℕ) (s : State) (h : Only μ σ s) (wflt : μ.flt =
    true) (wcnt : μ.cnt = true) (wtor : μ.tor = true) (wout : μ.out = true) :
    Only μ σ (State.ackFwd w0 tag reason s) := by
  unfold State.ackFwd
  (repeat' with_reducible first
      | assumption | apply sendPacket_writes)

theorem execFwdRec_writes {μ : Writes} {σ : State} (pk : PktIn) (s : State) (h : Only μ σ s) (wfreeNo : μ.freeNo = true)
    (wchans : μ.chans = true) (wflt : μ.flt = true) (wcnt : μ.cnt = true) (wtor : μ.tor = true) (wout : μ.out = true) :
    OnlyR μ σ (execFwdRec pk s) := by
  unfold execFwdRec
  (repeat' first
    | with_reducible assumption
    | (extract_lets +onlyGivenNames x; first
      | (refine Only.cut (m := μ) (a := σ) (x := x) ?_ (fun hx => ?_); (on_goal 1 => subst x); (on_goal 2 => (clear_value x; rename' x => x')))
      | (refine OnlyP.cut (m := μ) (a := σ) (x := x) ?_ (fun hx => ?_); (on_goal 1 => subst x); (on_goal 2 => (clear_value x; rename' x => x')))
      | (clear_value x; rename' x => x'))
    | with_reducible first
        | apply arrive_writes | apply ackFwd_writes | apply addressed_writes | apply OnlyR.ite | apply OnlyR.next
        | apply OnlyP.snd)

theorem fwdRefused_writes {μ : Writes} {σ : State} (ch : ℕ) (reason : ℕ) (f : Fwd) (s : State) (h : Only μ σ s) (wchans :
    μ.chans = true) (wflt : μ.flt = true) (wcnt : μ.cnt = true) :
    Only μ σ (State.fwdRefused ch reason f s) := by
  unfold State.fwdRefused
  (repeat' first
    | with_reducible assumption
    | (extract_lets +onlyGivenNames x; refine Only.cut (m := μ) (a := σ) (x := x) ?_ (fun hx => ?_); (on_goal 1 => subst x); (on_goal 2 => (clear_value x; rename' x => x')))
    | with_reducible first
        | apply modCap_writes | apply reject_writes | apply Only.ite)

theorem execFwdAck_writes {μ : Writes} {σ : State} (pk : PktIn) (s : State) (h : Only μ σ s) (wchans : μ.chans = true) (wflt :
    μ.flt = true) (wcnt : μ.cnt = true) (wtor : μ.tor = true) (wout : μ.out = true) :
    OnlyR μ σ (execFwdAck pk s) := by
  unfold execFwdAck
  (repeat' first
    | with_reducible assumption
    | (extract_lets +onlyGivenNames x; first
      | (refine Only.cut (m := μ) (a := σ) (x := x) ?_ (fun hx => ?_); (on_goal 1 => subst x); (on_goal 2 => (clear_value x; rename' x => x')))
      | (refine OnlyP.cut (m := μ) (a := σ) (x := x) ?_ (fun hx => ?_); (on_goal 1 => subst x); (on_goal 2 => (clear_value x; rename' x => x')))
      | (clear_value x; rename' x => x'))
    | with_reducible first
        | apply arrive_writes | apply modCap_writes | apply fwdRefused_writes | apply Only.ite | apply OnlyR.ite
        | apply OnlyR.next | apply OnlyP.snd
    | split)

theorem execForwardResend_writes {μ : Writes} {σ : State} (ch : ℕ) (tag : ℕ) (s : State) (h : Only μ σ s) (wchans : μ.chans =
    true) (wflt : μ.flt = true) (wcnt : μ.cnt = true) (wtor : μ.tor = true) (wout : μ.out = true) :
    OnlyR μ σ (execForwardResend ch tag s) := by
  unfold execForwardResend
  (repeat' first
    | with_reducible assumption
    | (extract_lets +onlyGivenNames x; refine Only.cut (m := μ) (a := σ) (x := x) ?_ (fun hx => ?_); (on_goal 1 => subst x); (on_goal 2 => (clear_value x; rename' x => x')))
    | with_reducible first
        | apply modCap_writes | apply sendFwd_writes | apply OnlyR.ite | apply OnlyR.next
    | split)

theorem execForwardLost_writes {μ : Writes} {σ : State} (ch : ℕ) (tag : ℕ) (s : State) (h : Only μ σ s) (wchans : μ.chans =
    true) (wflt : μ.flt = true) (wcnt : μ.cnt = true) :
    OnlyR μ σ (execForwardLost ch tag s) := by
  unfold execForwardLost
  (repeat' first
    | with_reducible assumption
    | (extract_lets +onlyGivenNames x; refine Only.cut (m := μ) (a := σ) (x := x) ?_ (fun hx => ?_); (on_goal 1 => subst x); (on_goal 2 => (clear_value x; rename' x => x')))
    | with_reducible first
        | apply modCap_writes | apply log_writes | apply inputLoss_writes | apply OnlyR.ite | apply OnlyR.next
    | split)

theorem handleStart_writes {μ : Writes} {σ : State} (a : ℕ) (root : ℕ) (g : ℕ) (ts : ℕ) (ws : List (BitVec 64)) (s : State) (h
    : Only μ σ s) (wchans : μ.chans = true) (wflt : μ.flt = true) (wcnt : μ.cnt = true) (wlanes : μ.lanes = true) (wtor :
    μ.tor = true) (wout : μ.out = true) :
    Only μ σ (State.handleStart a root g ts ws s) := by
  unfold State.handleStart
  (repeat' first
    | with_reducible assumption
    | (extract_lets +onlyGivenNames x; first
      | (refine Only.cut (m := μ) (a := σ) (x := x) ?_ (fun hx => ?_); (on_goal 1 => subst x); (on_goal 2 => (clear_value x; rename' x => x')))
      | (clear_value x; rename' x => x'))
    | with_reducible first
        | apply log_writes | apply flood_writes | apply modTor_writes | apply startSections_writes | apply Only.ite)

theorem execStart_writes {μ : Writes} {σ : State} (pk : PktIn) (s : State) (h : Only μ σ s) (wchans : μ.chans = true) (wflt :
    μ.flt = true) (wcnt : μ.cnt = true) (wlanes : μ.lanes = true) (wtor : μ.tor = true) (wout : μ.out = true) :
    OnlyR μ σ (execStart pk s) := by
  unfold execStart
  (repeat' first
    | with_reducible assumption
    | (extract_lets +onlyGivenNames x; first
      | (refine OnlyP.cut (m := μ) (a := σ) (x := x) ?_ (fun hx => ?_); (on_goal 1 => subst x); (on_goal 2 => (clear_value x; rename' x => x')))
      | (clear_value x; rename' x => x'))
    | with_reducible first
        | apply arrive_writes | apply handleStart_writes | apply OnlyR.ite | apply OnlyR.next | apply OnlyP.snd)

theorem writeStart_writes {μ : Writes} {σ : State} (v : ℕ) (s : State) (h : Only μ σ s) (wchans : μ.chans = true) (wflt :
    μ.flt = true) (wcnt : μ.cnt = true) (wlanes : μ.lanes = true) (wtor : μ.tor = true) (wout : μ.out = true) :
    Only μ σ (State.writeStart v s) := by
  unfold State.writeStart
  (repeat' first
    | with_reducible assumption
    | (extract_lets +onlyGivenNames x; first
      | (refine Only.cut (m := μ) (a := σ) (x := x) ?_ (fun hx => ?_); (on_goal 1 => subst x); (on_goal 2 => (clear_value x; rename' x => x')))
      | (clear_value x; rename' x => x'))
    | with_reducible first
        | apply writeIgnored_writes | apply modTor_writes | apply handleStart_writes | apply Only.ite)

theorem execTorStartGo_writes {μ : Writes} {σ : State} (value : Word) (s : State) (h : Only μ σ s) (wchans : μ.chans = true)
    (wflt : μ.flt = true) (wcnt : μ.cnt = true) (wlanes : μ.lanes = true) (wtor : μ.tor = true) (wout : μ.out = true) :
    OnlyR μ σ (execTorStartGo value s) := by
  unfold execTorStartGo
  (repeat' with_reducible first
      | assumption | apply writeStart_writes | apply OnlyR.next)

theorem proxyRecover_writes {μ : Writes} {σ : State} (s : State) (h : Only μ σ s) (wchans : μ.chans = true) (wctxs : μ.ctxs =
    true) (wjournal : μ.journal = true) (whost : μ.host = true) (wflt : μ.flt = true) (wcnt : μ.cnt = true) (wtor : μ.tor =
    true) (wout : μ.out = true) :
    Only μ σ (State.proxyRecover s) := by
  unfold State.proxyRecover
  (repeat' with_reducible first
      | assumption | apply recoverHost_writes | apply Only.ite)

theorem bindProxy_writes {μ : Writes} {σ : State} (id : ℕ) (s : State) (h : Only μ σ s) (wtor : μ.tor = true) :
    Only μ σ (State.bindProxy id s) := by
  unfold State.bindProxy
  (repeat' with_reducible first
      | assumption | apply modPx_writes | apply modTor_writes | apply Only.ite)

theorem pxAccept_writes {μ : Writes} {σ : State} (pk : PktIn) (s : State) (h : Only μ σ s) (wflt : μ.flt = true) (wcnt : μ.cnt
    = true) (wtor : μ.tor = true) (wout : μ.out = true) :
    OnlyP μ σ (State.pxAccept pk s) := by
  unfold State.pxAccept
  (repeat' first
    | with_reducible assumption
    | (extract_lets +onlyGivenNames x; first
      | (refine Only.cut (m := μ) (a := σ) (x := x) ?_ (fun hx => ?_); (on_goal 1 => subst x); (on_goal 2 => (clear_value x; rename' x => x')))
      | (clear_value x; rename' x => x')
      | (subst x; try beta_reduce))
    | with_reducible first
        | apply modPx_writes | apply pxPacket_writes | apply OnlyP.mk)

theorem pxArrive_writes {μ : Writes} {σ : State} (op : ℕ) (pk : PktIn) (s : State) (h : Only μ σ s) (wflt : μ.flt = true)
    (wcnt : μ.cnt = true) (wtor : μ.tor = true) (wout : μ.out = true) :
    OnlyP μ σ (State.pxArrive op pk s) := by
  unfold State.pxArrive
  (repeat' first
    | with_reducible assumption
    | (extract_lets +onlyGivenNames x; refine OnlyP.cut (m := μ) (a := σ) (x := x) ?_ (fun hx => ?_); (on_goal 1 => subst x); (on_goal 2 => (clear_value x; rename' x => x')))
    | with_reducible first
        | apply arrive_writes | apply pxAccept_writes | apply OnlyP.ite | apply OnlyP.snd)

theorem execProxyOpen_writes {μ : Writes} {σ : State} (pk : PktIn) (s : State) (h : Only μ σ s) (wchans : μ.chans = true)
    (wctxs : μ.ctxs = true) (wjournal : μ.journal = true) (whost : μ.host = true) (wflt : μ.flt = true) (wcnt : μ.cnt = true)
    (wtor : μ.tor = true) (wout : μ.out = true) :
    OnlyR μ σ (execProxyOpen pk s) := by
  unfold execProxyOpen
  (repeat' first
    | with_reducible assumption
    | (extract_lets +onlyGivenNames x; first
      | (refine Only.cut (m := μ) (a := σ) (x := x) ?_ (fun hx => ?_); (on_goal 1 => subst x); (on_goal 2 => (clear_value x; rename' x => x')))
      | (refine OnlyP.cut (m := μ) (a := σ) (x := x) ?_ (fun hx => ?_); (on_goal 1 => subst x); (on_goal 2 => (clear_value x; rename' x => x')))
      | (clear_value x; rename' x => x'))
    | with_reducible first
        | apply arrive_writes | apply bindProxy_writes | apply modPx_writes | apply proxyRecover_writes | apply Only.ite
        | apply OnlyR.ite | apply OnlyR.next | apply OnlyP.snd)

theorem pxResend_writes {μ : Writes} {σ : State} (id : ℕ) (a : ℕ) (b : ℕ) (s : State) (h : Only μ σ s) (wflt : μ.flt = true)
    (wcnt : μ.cnt = true) (wtor : μ.tor = true) (wout : μ.out = true) :
    Only μ σ (State.pxResend id a b s) := by
  unfold State.pxResend
  (repeat' with_reducible first
      | assumption | (intro _) | apply pxPacket_writes | apply Only.foldl)

theorem execPack_writes {μ : Writes} {σ : State} (pk : PktIn) (s : State) (h : Only μ σ s) (wflt : μ.flt = true) (wcnt : μ.cnt
    = true) (wtor : μ.tor = true) (wout : μ.out = true) :
    OnlyR μ σ (execPack pk s) := by
  unfold execPack
  (repeat' first
    | with_reducible assumption
    | (extract_lets +onlyGivenNames x; first
      | (refine Only.cut (m := μ) (a := σ) (x := x) ?_ (fun hx => ?_); (on_goal 1 => subst x); (on_goal 2 => (clear_value x; rename' x => x')))
      | (refine OnlyP.cut (m := μ) (a := σ) (x := x) ?_ (fun hx => ?_); (on_goal 1 => subst x); (on_goal 2 => (clear_value x; rename' x => x')))
      | (clear_value x; rename' x => x'))
    | with_reducible first
        | apply arrive_writes | apply modPx_writes | apply pxResend_writes | apply OnlyR.ite | apply OnlyR.next
        | apply OnlyP.snd)

theorem execProxyResend_writes {μ : Writes} {σ : State} (s : State) (h : Only μ σ s) (wflt : μ.flt = true) (wcnt : μ.cnt =
    true) (wtor : μ.tor = true) (wout : μ.out = true) :
    OnlyR μ σ (execProxyResend s) := by
  unfold execProxyResend
  (repeat' first
    | with_reducible first
        | assumption | (intro _)
    | (extract_lets +onlyGivenNames x; clear_value x; rename' x => x')
    | with_reducible first
        | apply pxResend_writes | apply modPx_writes | apply Only.ite | apply Only.foldl | apply OnlyR.next)

theorem execProxyLost_writes {μ : Writes} {σ : State} (s : State) (h : Only μ σ s) (whost : μ.host = true) (wflt : μ.flt =
    true) (wcnt : μ.cnt = true) :
    OnlyR μ σ (execProxyLost s) := by
  unfold execProxyLost
  (repeat' first
    | with_reducible assumption
    | (extract_lets +onlyGivenNames x; clear_value x; rename' x => x')
    | with_reducible first
        | apply log_writes | apply OnlyR.ite | apply OnlyR.next
    | split
    | with_reducible apply upd_host)

theorem execProxyBindingTimeout_writes {μ : Writes} {σ : State} (s : State) (h : Only μ σ s) (wtor : μ.tor = true) :
    OnlyR μ σ (execProxyBindingTimeout s) := by
  unfold execProxyBindingTimeout
  (repeat' first
    | with_reducible first
        | assumption | apply modTor_writes | apply OnlyR.ite | apply OnlyR.next
    | split)

theorem execRegRsp_writes {μ : Writes} {σ : State} (pk : PktIn) (s : State) (h : Only μ σ s) (wflt : μ.flt = true) (wcnt :
    μ.cnt = true) (wtor : μ.tor = true) (wout : μ.out = true) :
    OnlyR μ σ (execRegRsp pk s) := by
  unfold execRegRsp
  (repeat' first
    | with_reducible assumption
    | (extract_lets +onlyGivenNames x; first
      | (refine OnlyP.cut (m := μ) (a := σ) (x := x) ?_ (fun hx => ?_); (on_goal 1 => subst x); (on_goal 2 => (clear_value x; rename' x => x')))
      | (clear_value x; rename' x => x'))
    | with_reducible first
        | apply pxArrive_writes | apply modTor_writes | apply OnlyR.ite | apply OnlyR.next | apply OnlyP.snd)

theorem execMemRd_writes {μ : Writes} {σ : State} (pk : PktIn) (data : Fetch) (s : State) (h : Only μ σ s) (wflt : μ.flt =
    true) (wcnt : μ.cnt = true) (wtor : μ.tor = true) (wout : μ.out = true) :
    OnlyR μ σ (execMemRd pk data s) := by
  unfold execMemRd
  (repeat' first
    | with_reducible first
        | assumption | (intro _)
    | (extract_lets +onlyGivenNames x; first
      | (refine Only.cut (m := μ) (a := σ) (x := x) ?_ (fun hx => ?_); (on_goal 1 => subst x); (on_goal 2 => (clear_value x; rename' x => x')))
      | (refine OnlyP.cut (m := μ) (a := σ) (x := x) ?_ (fun hx => ?_); (on_goal 1 => subst x); (on_goal 2 => (clear_value x; rename' x => x')))
      | (clear_value x; rename' x => x'))
    | with_reducible first
        | apply pxArrive_writes | apply emit_writes | apply pxSend_writes | apply Only.ite | apply OnlyR.ite
        | apply Only.foldl | apply OnlyR.next | apply OnlyP.snd)

theorem execMemWr_writes {μ : Writes} {σ : State} (pk : PktIn) (s : State) (h : Only μ σ s) (wflt : μ.flt = true) (wcnt :
    μ.cnt = true) (wtor : μ.tor = true) (wout : μ.out = true) :
    OnlyR μ σ (execMemWr pk s) := by
  unfold execMemWr
  (repeat' first
    | with_reducible assumption
    | (extract_lets +onlyGivenNames x; first
      | (refine OnlyP.cut (m := μ) (a := σ) (x := x) ?_ (fun hx => ?_); (on_goal 1 => subst x); (on_goal 2 => (clear_value x; rename' x => x')))
      | (clear_value x; rename' x => x'))
    | with_reducible first
        | apply pxArrive_writes | apply count_writes | apply emit_writes | apply Only.ite | apply OnlyR.ite | apply OnlyR.next
        | apply OnlyP.snd)

theorem execMemData_writes {μ : Writes} {σ : State} (pk : PktIn) (s : State) (h : Only μ σ s) (wflt : μ.flt = true) (wcnt :
    μ.cnt = true) (wtor : μ.tor = true) (wout : μ.out = true) :
    OnlyR μ σ (execMemData pk s) := by
  unfold execMemData
  (repeat' first
    | with_reducible assumption
    | (extract_lets +onlyGivenNames x; refine OnlyP.cut (m := μ) (a := σ) (x := x) ?_ (fun hx => ?_); (on_goal 1 => subst x); (on_goal 2 => (clear_value x; rename' x => x')))
    | with_reducible first
        | apply pxArrive_writes | apply count_writes | apply OnlyR.ite | apply OnlyR.next | apply OnlyP.snd)

theorem openChannel_writes {μ : Writes} {σ : State} (id : ℕ) (s : State) (h : Only μ σ s) (wflt : μ.flt = true) (wcnt : μ.cnt
    = true) (wtor : μ.tor = true) (wout : μ.out = true) :
    Only μ σ (State.openChannel id s) := by
  unfold State.openChannel
  (repeat' with_reducible first
      | assumption | apply pxPacket_writes | apply modPx_writes | apply Only.ite)

theorem pxRequest_writes {μ : Writes} {σ : State} (rd : Bool) (s : State) (h : Only μ σ s) (wflt : μ.flt = true) (wcnt : μ.cnt
    = true) (wtor : μ.tor = true) (wout : μ.out = true) :
    Only μ σ (State.pxRequest rd s) := by
  unfold State.pxRequest
  (repeat' first
    | with_reducible assumption
    | (extract_lets +onlyGivenNames x; first
      | (refine Only.cut (m := μ) (a := σ) (x := x) ?_ (fun hx => ?_); (on_goal 1 => subst x); (on_goal 2 => (clear_value x; rename' x => x')))
      | (clear_value x; rename' x => x'))
    | with_reducible first
        | apply openChannel_writes | apply modTor_writes | apply pxSend_writes | apply Only.ite)

theorem pxRelease_writes {μ : Writes} {σ : State} (s : State) (h : Only μ σ s) (wflt : μ.flt = true) (wcnt : μ.cnt = true)
    (wtor : μ.tor = true) (wout : μ.out = true) :
    Only μ σ (State.pxRelease s) := by
  unfold State.pxRelease
  (repeat' first
    | with_reducible assumption
    | (extract_lets +onlyGivenNames x; first
      | (refine Only.cut (m := μ) (a := σ) (x := x) ?_ (fun hx => ?_); (on_goal 1 => subst x); (on_goal 2 => (clear_value x; rename' x => x')))
      | (clear_value x; rename' x => x'))
    | with_reducible first
        | apply pxSend_writes | apply openChannel_writes | apply modPx_writes)

theorem writePxyCmd_writes {μ : Writes} {σ : State} (v : ℕ) (s : State) (h : Only μ σ s) (wflt : μ.flt = true) (wcnt : μ.cnt =
    true) (wtor : μ.tor = true) (wout : μ.out = true) :
    Only μ σ (State.writePxyCmd v s) := by
  unfold State.writePxyCmd
  (repeat' first
    | with_reducible assumption
    | (extract_lets +onlyGivenNames x; first
      | (refine Only.cut (m := μ) (a := σ) (x := x) ?_ (fun hx => ?_); (on_goal 1 => subst x); (on_goal 2 => (clear_value x; rename' x => x')))
      | (clear_value x; rename' x => x'))
    | with_reducible first
        | apply writeIgnored_writes | apply pxRequest_writes | apply pxRelease_writes | apply Only.ite)

theorem execGoRd_writes {μ : Writes} {σ : State} (value : Word) (s : State) (h : Only μ σ s) (wflt : μ.flt = true) (wcnt :
    μ.cnt = true) (wtor : μ.tor = true) (wout : μ.out = true) :
    OnlyR μ σ (execGoRd value s) := by
  unfold execGoRd
  (repeat' with_reducible first
      | assumption | apply writePxyCmd_writes | apply OnlyR.next)

theorem execGoWr_writes {μ : Writes} {σ : State} (value : Word) (s : State) (h : Only μ σ s) (wflt : μ.flt = true) (wcnt :
    μ.cnt = true) (wtor : μ.tor = true) (wout : μ.out = true) :
    OnlyR μ σ (execGoWr value s) := by
  unfold execGoWr
  (repeat' with_reducible first
      | assumption | apply writePxyCmd_writes | apply OnlyR.next)

theorem execRelease_writes {μ : Writes} {σ : State} (value : Word) (s : State) (h : Only μ σ s) (wflt : μ.flt = true) (wcnt :
    μ.cnt = true) (wtor : μ.tor = true) (wout : μ.out = true) :
    OnlyR μ σ (execRelease value s) := by
  unfold execRelease
  (repeat' with_reducible first
      | assumption | apply writePxyCmd_writes | apply OnlyR.next)

theorem execPxyTimeout_writes {μ : Writes} {σ : State} (s : State) (h : Only μ σ s) (wtor : μ.tor = true) :
    OnlyR μ σ (execPxyTimeout s) := by
  unfold execPxyTimeout
  (repeat' with_reducible first
      | assumption | apply modPx_writes | apply modTor_writes | apply OnlyR.ite | apply OnlyR.next)

theorem readTimeLo_writes {μ : Writes} {σ : State} (path : Path) (s : State) (h : Only μ σ s) (wtor : μ.tor = true) :
    OnlyP μ σ (State.readTimeLo path s) := by
  unfold State.readTimeLo
  (repeat' with_reducible first
      | assumption | apply modTor_writes | apply OnlyP.mk)

theorem readTimeHi_writes {μ : Writes} {σ : State} (path : Path) (s : State) (h : Only μ σ s) (wtor : μ.tor = true) :
    OnlyP μ σ (State.readTimeHi path s) := by
  unfold State.readTimeHi
  (repeat' first
    | with_reducible first
        | assumption | apply modTor_writes
    | split
    | with_reducible apply OnlyP.mk)

theorem execTimeLoRead_writes {μ : Writes} {σ : State} (path : Path) (low : ℕ) (width : ℕ) (s : State) (h : Only μ σ s) (wflt
    : μ.flt = true) (wcnt : μ.cnt = true) (wtor : μ.tor = true) (wout : μ.out = true) :
    OnlyR μ σ (execTimeLoRead path low width s) := by
  unfold execTimeLoRead
  (repeat' first
    | with_reducible assumption
    | (extract_lets +onlyGivenNames x; refine OnlyP.cut (m := μ) (a := σ) (x := x) ?_ (fun hx => ?_); (on_goal 1 => subst x); (on_goal 2 => (clear_value x; rename' x => x')))
    | with_reducible first
        | apply badRead_writes | apply readTimeLo_writes | apply emit_writes | apply OnlyR.ite | apply OnlyR.next
        | apply OnlyP.snd)

theorem execVddlLow_writes {μ : Writes} {σ : State} (s : State) (h : Only μ σ s) (wflt : μ.flt = true) (wlanes : μ.lanes =
    true) (wtor : μ.tor = true) (wpwr : μ.pwr = true) :
    OnlyR μ σ (execVddlLow s) := by
  unfold execVddlLow
  (repeat' first
    | with_reducible first
        | assumption | (intro _)
    | (extract_lets +onlyGivenNames x; first
      | (refine Only.cut (m := μ) (a := σ) (x := x) ?_ (fun hx => ?_); (on_goal 1 => subst x); (on_goal 2 => (clear_value x; rename' x => x')))
      | (clear_value x; rename' x => x'))
    | with_reducible first
        | apply modTor_writes | apply modPwr_writes | apply lanesOff_writes | apply condEnd_writes | apply Only.foldl
        | apply OnlyR.next | apply upd_lanes)

theorem execVddlReady_writes {μ : Writes} {σ : State} (s : State) (h : Only μ σ s) (wlanes : μ.lanes = true) (wtor : μ.tor =
    true) (wpwr : μ.pwr = true) :
    OnlyR μ σ (execVddlReady s) := by
  unfold execVddlReady
  (repeat' first
    | with_reducible assumption
    | (extract_lets +onlyGivenNames x; refine Only.cut (m := μ) (a := σ) (x := x) ?_ (fun hx => ?_); (on_goal 1 => subst x); (on_goal 2 => (clear_value x; rename' x => x')))
    | with_reducible first
        | apply modPwr_writes | apply lanesDetect_writes | apply checkCandidate_writes | apply portsDetect_writes
        | apply Only.ite | apply OnlyR.ite | apply OnlyR.next)

end Sys2Proof.Laws
end

