-- ==== Sys2Proof/Laws/OnlyCounters.lean ====
section
/-! SUPPORT. What the operations of Machine/Counters.lean may write. -/

set_option linter.unusedTactic false
set_option linter.unreachableTactic false
set_option linter.unusedVariables false
set_option linter.tactic.unusedName false

namespace Sys2Proof.Laws

open Sys2Proof Sys2Proof.Machine

theorem modCounter_writes {μ : Writes} {σ : State} (n : ℕ) (f : Counter → Counter) (s : State) (h : Only μ σ s) (wcnt : μ.cnt
    = true) :
    Only μ σ (State.modCounter n f s) := by
  unfold State.modCounter
  (repeat' first
    | with_reducible assumption
    | (extract_lets +onlyGivenNames x; clear_value x; rename' x => x')
    | with_reducible apply upd_cnt)

theorem writeCntCfg_writes {μ : Writes} {σ : State} (n : ℕ) (v : ℕ) (s : State) (h : Only μ σ s) (wflt : μ.flt = true) (wcnt :
    μ.cnt = true) :
    Only μ σ (State.writeCntCfg n v s) := by
  unfold State.writeCntCfg
  (repeat' with_reducible first
      | assumption | apply writeIgnored_writes | apply modCounter_writes | apply Only.ite)

theorem writeCntWindow_writes {μ : Writes} {σ : State} (v : ℕ) (s : State) (h : Only μ σ s) (wflt : μ.flt = true) (wcnt :
    μ.cnt = true) :
    Only μ σ (State.writeCntWindow v s) := by
  unfold State.writeCntWindow
  (repeat' first
    | with_reducible assumption
    | (extract_lets +onlyGivenNames x; clear_value x; rename' x => x')
    | with_reducible first
        | apply writeIgnored_writes | apply Only.ite | apply upd_cnt)

theorem execCntCfgWrite_writes {μ : Writes} {σ : State} (n : ℕ) (value : Word) (s : State) (h : Only μ σ s) (wflt : μ.flt =
    true) (wcnt : μ.cnt = true) :
    OnlyR μ σ (execCntCfgWrite n value s) := by
  unfold execCntCfgWrite
  (repeat' with_reducible first
      | assumption | apply writeCntCfg_writes | apply OnlyR.next)

theorem execCntWindowWrite_writes {μ : Writes} {σ : State} (value : Word) (s : State) (h : Only μ σ s) (wflt : μ.flt = true)
    (wcnt : μ.cnt = true) :
    OnlyR μ σ (execCntWindowWrite value s) := by
  unfold execCntWindowWrite
  (repeat' with_reducible first
      | assumption | apply writeCntWindow_writes | apply OnlyR.next)

theorem execCounterWindow_writes {μ : Writes} {σ : State} (s : State) (h : Only μ σ s) (wcnt : μ.cnt = true) :
    OnlyR μ σ (execCounterWindow s) := by
  unfold execCounterWindow
  (repeat' first
    | with_reducible assumption
    | (extract_lets +onlyGivenNames x; clear_value x; rename' x => x')
    | with_reducible first
        | apply OnlyR.ite | apply OnlyR.next | apply upd_cnt)

theorem closeLatch_writes {μ : Writes} {σ : State} (p : Path) (n : ℕ) (s : State) (h : Only μ σ s) (wflt : μ.flt = true) (wcnt
    : μ.cnt = true) :
    Only μ σ (State.closeLatch p n s) := by
  unfold State.closeLatch
  (repeat' first
    | with_reducible assumption
    | (extract_lets +onlyGivenNames x; first
      | (refine Only.cut (m := μ) (a := σ) (x := x) ?_ (fun hx => ?_); (on_goal 1 => subst x); (on_goal 2 => (clear_value x; rename' x => x')))
      | (clear_value x; rename' x => x'))
    | with_reducible first
        | apply modCounter_writes | apply logOverflows_writes | apply Only.ite | apply upd_cnt)

theorem readCntLo_writes {μ : Writes} {σ : State} (p : Path) (n : ℕ) (s : State) (h : Only μ σ s) (wflt : μ.flt = true) (wcnt
    : μ.cnt = true) :
    OnlyP μ σ (State.readCntLo p n s) := by
  unfold State.readCntLo
  (repeat' first
    | with_reducible assumption
    | (extract_lets +onlyGivenNames x; first
      | (refine Only.cut (m := μ) (a := σ) (x := x) ?_ (fun hx => ?_); (on_goal 1 => subst x); (on_goal 2 => (clear_value x; rename' x => x')))
      | (clear_value x; rename' x => x'))
    | with_reducible first
        | apply closeLatch_writes | apply modCounter_writes | apply Only.ite | apply OnlyP.mk)

theorem expireLatch_writes {μ : Writes} {σ : State} (p : Path) (n : ℕ) (s : State) (h : Only μ σ s) (wflt : μ.flt = true)
    (wcnt : μ.cnt = true) :
    Only μ σ (State.expireLatch p n s) := by
  unfold State.expireLatch
  (repeat' first
    | with_reducible first
        | assumption | apply closeLatch_writes | apply Only.ite
    | split)

theorem readCntHi_writes {μ : Writes} {σ : State} (p : Path) (n : ℕ) (s : State) (h : Only μ σ s) (wflt : μ.flt = true) (wcnt
    : μ.cnt = true) :
    OnlyP μ σ (State.readCntHi p n s) := by
  unfold State.readCntHi
  (repeat' first
    | with_reducible assumption
    | (extract_lets +onlyGivenNames x; refine Only.cut (m := μ) (a := σ) (x := x) ?_ (fun hx => ?_); (on_goal 1 => subst x); (on_goal 2 => (clear_value x; rename' x => x')))
    | with_reducible first
        | apply expireLatch_writes | apply closeLatch_writes
    | split
    | with_reducible apply OnlyP.mk)

theorem execCounterLoRead_writes {μ : Writes} {σ : State} (path : Path) (n : ℕ) (low : ℕ) (width : ℕ) (s : State) (h : Only μ
    σ s) (wflt : μ.flt = true) (wcnt : μ.cnt = true) (wout : μ.out = true) :
    OnlyR μ σ (execCounterLoRead path n low width s) := by
  unfold execCounterLoRead
  (repeat' first
    | with_reducible assumption
    | (extract_lets +onlyGivenNames x; refine OnlyP.cut (m := μ) (a := σ) (x := x) ?_ (fun hx => ?_); (on_goal 1 => subst x); (on_goal 2 => (clear_value x; rename' x => x')))
    | with_reducible first
        | apply badRead_writes | apply emit_writes | apply readCntLo_writes | apply Only.ite | apply OnlyR.ite
        | apply OnlyR.next | apply OnlyP.snd)

theorem execCounterHiRead_writes {μ : Writes} {σ : State} (path : Path) (n : ℕ) (low : ℕ) (width : ℕ) (s : State) (h : Only μ
    σ s) (wflt : μ.flt = true) (wcnt : μ.cnt = true) (wout : μ.out = true) :
    OnlyR μ σ (execCounterHiRead path n low width s) := by
  unfold execCounterHiRead
  (repeat' first
    | with_reducible assumption
    | (extract_lets +onlyGivenNames x; refine OnlyP.cut (m := μ) (a := σ) (x := x) ?_ (fun hx => ?_); (on_goal 1 => subst x); (on_goal 2 => (clear_value x; rename' x => x')))
    | with_reducible first
        | apply badRead_writes | apply emit_writes | apply readCntHi_writes | apply Only.ite | apply OnlyR.ite
        | apply OnlyR.next | apply OnlyP.snd)

theorem execLatchTimeout_writes {μ : Writes} {σ : State} (path : Path) (n : ℕ) (s : State) (h : Only μ σ s) (wflt : μ.flt =
    true) (wcnt : μ.cnt = true) :
    OnlyR μ σ (execLatchTimeout path n s) := by
  unfold execLatchTimeout
  (repeat' with_reducible first
      | assumption | apply expireLatch_writes | apply OnlyR.next)

theorem crcBegin_writes {μ : Writes} {σ : State} (u : ℕ) (s : State) (h : Only μ σ s) (wchans : μ.chans = true) (wcnt : μ.cnt
    = true) :
    Only μ σ (State.crcBegin u s) := by
  unfold State.crcBegin
  (repeat' first
    | with_reducible assumption
    | (extract_lets +onlyGivenNames x; first
      | (refine Only.cut (m := μ) (a := σ) (x := x) ?_ (fun hx => ?_); (on_goal 1 => subst x); (on_goal 2 => (clear_value x; rename' x => x')))
      | (clear_value x; rename' x => x'))
    | with_reducible first
        | apply modCrc_writes | apply Only.ite | apply upd_chans)

theorem crcFinish_writes {μ : Writes} {σ : State} (u : ℕ) (s : State) (h : Only μ σ s) (wcnt : μ.cnt = true) :
    Only μ σ (State.crcFinish u s) := by
  unfold State.crcFinish
  (repeat' with_reducible first
      | assumption | apply modCrc_writes | apply Only.ite)

theorem crcAbort_writes {μ : Writes} {σ : State} (u : ℕ) (s : State) (h : Only μ σ s) (wflt : μ.flt = true) (wcnt : μ.cnt =
    true) :
    Only μ σ (State.crcAbort u s) := by
  unfold State.crcAbort
  (repeat' with_reducible first
      | assumption | apply log_writes | apply modCrc_writes | apply Only.ite)

theorem writeCrcCtl_writes {μ : Writes} {σ : State} (u : ℕ) (v : ℕ) (s : State) (h : Only μ σ s) (wchans : μ.chans = true)
    (wflt : μ.flt = true) (wcnt : μ.cnt = true) :
    Only μ σ (State.writeCrcCtl u v s) := by
  unfold State.writeCrcCtl
  (repeat' first
    | with_reducible assumption
    | (extract_lets +onlyGivenNames x; first
      | (refine Only.cut (m := μ) (a := σ) (x := x) ?_ (fun hx => ?_); (on_goal 1 => subst x); (on_goal 2 => (clear_value x; rename' x => x')))
      | (clear_value x; rename' x => x'))
    | with_reducible first
        | apply writeIgnored_writes | apply modCrc_writes | apply crcBegin_writes | apply crcFinish_writes
        | apply crcAbort_writes | apply Only.ite)

theorem crcFeed_writes {μ : Writes} {σ : State} (u : ℕ) (l : List Byte) (s : State) (h : Only μ σ s) (wflt : μ.flt = true)
    (wcnt : μ.cnt = true) :
    Only μ σ (State.crcFeed u l s) := by
  unfold State.crcFeed
  (repeat' with_reducible first
      | assumption | apply modCrc_writes | apply writeIgnored_writes | apply Only.ite)

theorem execCrcStart_writes {μ : Writes} {σ : State} (unit : ℕ) (value : Word) (s : State) (h : Only μ σ s) (wchans : μ.chans
    = true) (wflt : μ.flt = true) (wcnt : μ.cnt = true) :
    OnlyR μ σ (execCrcStart unit value s) := by
  unfold execCrcStart
  (repeat' with_reducible first
      | assumption | apply writeCrcCtl_writes | apply OnlyR.next)

theorem execCrcFinish_writes {μ : Writes} {σ : State} (unit : ℕ) (value : Word) (s : State) (h : Only μ σ s) (wchans : μ.chans
    = true) (wflt : μ.flt = true) (wcnt : μ.cnt = true) :
    OnlyR μ σ (execCrcFinish unit value s) := by
  unfold execCrcFinish
  (repeat' with_reducible first
      | assumption | apply writeCrcCtl_writes | apply OnlyR.next)

theorem execCrcAbort_writes {μ : Writes} {σ : State} (unit : ℕ) (value : Word) (s : State) (h : Only μ σ s) (wchans : μ.chans
    = true) (wflt : μ.flt = true) (wcnt : μ.cnt = true) :
    OnlyR μ σ (execCrcAbort unit value s) := by
  unfold execCrcAbort
  (repeat' with_reducible first
      | assumption | apply writeCrcCtl_writes | apply OnlyR.next)

theorem execFeed4_writes {μ : Writes} {σ : State} (unit : ℕ) (value : Word) (s : State) (h : Only μ σ s) (wflt : μ.flt = true)
    (wcnt : μ.cnt = true) :
    OnlyR μ σ (execFeed4 unit value s) := by
  unfold execFeed4
  (repeat' with_reducible first
      | assumption | apply crcFeed_writes | apply OnlyR.next)

theorem execFeed1_writes {μ : Writes} {σ : State} (unit : ℕ) (value : Word) (s : State) (h : Only μ σ s) (wflt : μ.flt = true)
    (wcnt : μ.cnt = true) :
    OnlyR μ σ (execFeed1 unit value s) := by
  unfold execFeed1
  (repeat' with_reducible first
      | assumption | apply crcFeed_writes | apply OnlyR.next)

theorem execCrcJobDone_writes {μ : Writes} {σ : State} (unit : ℕ) (s : State) (h : Only μ σ s) (wcnt : μ.cnt = true) :
    OnlyR μ σ (execCrcJobDone unit s) := by
  unfold execCrcJobDone
  (repeat' first
    | with_reducible assumption
    | (extract_lets +onlyGivenNames x; clear_value x; rename' x => x')
    | with_reducible first
        | apply modCrc_writes | apply OnlyR.ite | apply OnlyR.next)

end Sys2Proof.Laws
end

