-- ==== Sys2Proof/Laws/OnlyFlags.lean ====
section
/-! SUPPORT. What the operations of Machine/Flags.lean may write. -/

set_option linter.unusedTactic false
set_option linter.unreachableTactic false
set_option linter.unusedVariables false
set_option linter.tactic.unusedName false

namespace Sys2Proof.Laws

open Sys2Proof Sys2Proof.Machine

theorem readReg_writes {μ : Writes} {σ : State} (p : Path) (off : ℕ) (s : State) (h : Only μ σ s) (wflt : μ.flt = true) (wcnt
    : μ.cnt = true) (wtor : μ.tor = true) :
    OnlyP μ σ (State.readReg p off s) := by
  unfold State.readReg
  (repeat' first
    | with_reducible assumption
    | (extract_lets +onlyGivenNames x; clear_value x; rename' x => x')
    | with_reducible first
        | apply log_writes | apply readTimeLo_writes | apply readTimeHi_writes | apply readCntLo_writes
        | apply readCntHi_writes | apply OnlyP.ite | apply OnlyP.mk)

end Sys2Proof.Laws
end

