-- ==== Sys2Proof/Laws/OnlyRegs.lean ====
section
/-! SUPPORT. What the operations of Machine/Regs.lean may write. -/

set_option linter.unusedTactic false
set_option linter.unreachableTactic false
set_option linter.unusedVariables false
set_option linter.tactic.unusedName false

namespace Sys2Proof.Laws

open Sys2Proof Sys2Proof.Machine

theorem Res_after_writes {μ : Writes} {σ : State} (s : State) (r : Res) (h : Only μ σ s) (hr : OnlyR μ σ r) :
    Only μ σ (Res.after s r) := by
  obtain ⟨t, rfl, k⟩ := hr
  exact k

theorem writeRst_writes {μ : Writes} {σ : State} (v : ℕ) (s : State) (h : Only μ σ s) (wchans : μ.chans = true) (wctxs :
    μ.ctxs = true) (wflt : μ.flt = true) (wcnt : μ.cnt = true) (wtor : μ.tor = true) (whoop : μ.hoop = true) (wout : μ.out =
    true) :
    Only μ σ (State.writeRst v s) := by
  unfold State.writeRst
  (repeat' first
    | with_reducible assumption
    | (extract_lets +onlyGivenNames x; refine Only.cut (m := μ) (a := σ) (x := x) ?_ (fun hx => ?_); (on_goal 1 => subst x); (on_goal 2 => (clear_value x; rename' x => x')))
    | with_reducible first
        | apply Res_after_writes | apply execDevRstWarm_writes | apply execDevRstHoop_writes | apply Only.ite)

theorem writePoll_writes {μ : Writes} {σ : State} (v : ℕ) (s : State) (h : Only μ σ s) (whost : μ.host = true) (wflt : μ.flt =
    true) (wcnt : μ.cnt = true) :
    Only μ σ (State.writePoll v s) := by
  unfold State.writePoll
  (repeat' first
    | with_reducible assumption
    | (extract_lets +onlyGivenNames x; clear_value x; rename' x => x')
    | with_reducible first
        | apply writeIgnored_writes | apply Only.ite | apply upd_host)

theorem writeAdmSel_writes {μ : Writes} {σ : State} (w : Word) (s : State) (h : Only μ σ s) (wchans : μ.chans = true) (wctxs :
    μ.ctxs = true) (wjournal : μ.journal = true) (whost : μ.host = true) (wflt : μ.flt = true) (wcnt : μ.cnt = true) (wtor :
    μ.tor = true) (wout : μ.out = true) :
    Only μ σ (State.writeAdmSel w s) := by
  unfold State.writeAdmSel
  (repeat' first
    | with_reducible assumption
    | (extract_lets +onlyGivenNames x; clear_value x; rename' x => x')
    | with_reducible first
        | apply Res_after_writes | apply execAdmcfgCommit_writes | apply execAdmcfgDisable_writes | apply Only.ite
        | apply upd_host)

theorem writeDev_writes {μ : Writes} {σ : State} (off : ℕ) (w : Word) (s : State) (h : Only μ σ s) (wchans : μ.chans = true)
    (wfrozen : μ.frozen = true) (wctxs : μ.ctxs = true) (wjournal : μ.journal = true) (whost : μ.host = true) (wflt : μ.flt =
    true) (wcnt : μ.cnt = true) (wtor : μ.tor = true) (whoop : μ.hoop = true) (wotp : μ.otp = true) (wout : μ.out = true) :
    Only μ σ (State.writeDev off w s) := by
  unfold State.writeDev
  (repeat' first
    | with_reducible assumption
    | (extract_lets +onlyGivenNames x; clear_value x; rename' x => x')
    | with_reducible first
        | apply writeRst_writes | apply Res_after_writes | apply execSelftestGo_writes | apply execDbBaseWrite_writes
        | apply writeIgnored_writes | apply writePoll_writes | apply writeAdmSel_writes | apply requestPage_writes
        | apply execDbNudge_writes | apply Only.ite | apply upd_host)

theorem writeFlt_writes {μ : Writes} {σ : State} (p : Path) (off : ℕ) (v : ℕ) (s : State) (h : Only μ σ s) (wflt : μ.flt =
    true) (wcnt : μ.cnt = true) :
    Only μ σ (State.writeFlt p off v s) := by
  unfold State.writeFlt
  (repeat' with_reducible first
      | assumption | apply writeIgnored_writes | apply modFlt_writes | apply Only.ite)

theorem writeThmCfg_writes {μ : Writes} {σ : State} (v : ℕ) (s : State) (h : Only μ σ s) (wflt : μ.flt = true) (wcnt : μ.cnt =
    true) (wthm : μ.thm = true) :
    Only μ σ (State.writeThmCfg v s) := by
  unfold State.writeThmCfg
  (repeat' first
    | with_reducible assumption
    | (extract_lets +onlyGivenNames x; clear_value x; rename' x => x')
    | with_reducible first
        | apply writeIgnored_writes | apply modThm_writes | apply Only.ite)

theorem writeTdCfg_writes {μ : Writes} {σ : State} (v : ℕ) (s : State) (h : Only μ σ s) (wflt : μ.flt = true) (wthm : μ.thm =
    true) :
    Only μ σ (State.writeTdCfg v s) := by
  unfold State.writeTdCfg
  (repeat' first
    | with_reducible first
        | assumption | (intro _)
    | (extract_lets +onlyGivenNames x; first
      | (refine Only.cut (m := μ) (a := σ) (x := x) ?_ (fun hx => ?_); (on_goal 1 => subst x); (on_goal 2 => (clear_value x; rename' x => x')))
      | (clear_value x; rename' x => x'))
    | with_reducible first
        | apply modThm_writes | apply condEnd_writes | apply modTd_writes | apply Only.ite | apply Only.foldl)

theorem writeThm_writes {μ : Writes} {σ : State} (p : Path) (off : ℕ) (w : Word) (s : State) (h : Only μ σ s) (wflt : μ.flt =
    true) (wcnt : μ.cnt = true) (wthm : μ.thm = true) :
    Only μ σ (State.writeThm p off w s) := by
  unfold State.writeThm
  (repeat' first
    | with_reducible assumption
    | (extract_lets +onlyGivenNames x; clear_value x; rename' x => x')
    | with_reducible first
        | apply modThm_writes | apply writeThmCfg_writes | apply Res_after_writes | apply execCoolCfgWrite_writes
        | apply writeTdCfg_writes | apply Only.ite)

theorem writeWake_writes {μ : Writes} {σ : State} (p : Path) (v : ℕ) (s : State) (h : Only μ σ s) (wchans : μ.chans = true)
    (wfrozen : μ.frozen = true) (wctxs : μ.ctxs = true) (wjournal : μ.journal = true) (whost : μ.host = true) (wflt : μ.flt =
    true) (wcnt : μ.cnt = true) (wlanes : μ.lanes = true) (wtor : μ.tor = true) (wpwr : μ.pwr = true) (wout : μ.out = true) :
    Only μ σ (State.writeWake p v s) := by
  unfold State.writeWake
  (repeat' with_reducible first
      | assumption | apply writeIgnored_writes | apply Res_after_writes | apply execPwrWakeWake_writes
      | apply execPwrWakeSafeExit_writes | apply Only.ite)

theorem writePwr_writes {μ : Writes} {σ : State} (p : Path) (off : ℕ) (v : ℕ) (s : State) (h : Only μ σ s) (wchans : μ.chans =
    true) (wfrozen : μ.frozen = true) (wctxs : μ.ctxs = true) (wjournal : μ.journal = true) (whost : μ.host = true) (wflt :
    μ.flt = true) (wcnt : μ.cnt = true) (wlanes : μ.lanes = true) (wtor : μ.tor = true) (wpwr : μ.pwr = true) (wout : μ.out =
    true) :
    Only μ σ (State.writePwr p off v s) := by
  unfold State.writePwr
  (repeat' with_reducible first
      | assumption | apply modPwr_writes | apply writeWake_writes | apply Only.ite)

theorem writeOtpCtl_writes {μ : Writes} {σ : State} (p : Path) (w : Word) (s : State) (h : Only μ σ s) (wflt : μ.flt = true)
    (wcnt : μ.cnt = true) (wotp : μ.otp = true) :
    Only μ σ (State.writeOtpCtl p w s) := by
  unfold State.writeOtpCtl
  (repeat' first
    | with_reducible assumption
    | (extract_lets +onlyGivenNames x; first
      | (refine Only.cut (m := μ) (a := σ) (x := x) ?_ (fun hx => ?_); (on_goal 1 => subst x); (on_goal 2 => (clear_value x; rename' x => x')))
      | (clear_value x; rename' x => x'))
    | with_reducible first
        | apply writeIgnored_writes | apply modOtp_writes | apply Res_after_writes | apply execOtpRead_writes
        | apply execOtpAudit_writes | apply Only.ite)

theorem writeOtp_writes {μ : Writes} {σ : State} (p : Path) (off : ℕ) (w : Word) (s : State) (h : Only μ σ s) (wflt : μ.flt =
    true) (wcnt : μ.cnt = true) (wotp : μ.otp = true) :
    Only μ σ (State.writeOtp p off w s) := by
  unfold State.writeOtp
  (repeat' with_reducible first
      | assumption | apply writeOtpCtl_writes | apply modOtp_writes | apply Only.ite)

theorem writeLn_writes {μ : Writes} {σ : State} (p : Path) (off : ℕ) (w : Word) (s : State) (h : Only μ σ s) (wflt : μ.flt =
    true) (wcnt : μ.cnt = true) (wlanes : μ.lanes = true) (wtor : μ.tor = true) :
    Only μ σ (State.writeLn p off w s) := by
  unfold State.writeLn
  (repeat' first
    | with_reducible assumption
    | (extract_lets +onlyGivenNames x; clear_value x; rename' x => x')
    | with_reducible first
        | apply Res_after_writes | apply execLaneRetrain_writes | apply prbsCtl_writes | apply Only.ite | apply upd_lanes)

theorem pxyCmd_writes {μ : Writes} {σ : State} (p : Path) (v : ℕ) (s : State) (h : Only μ σ s) (wflt : μ.flt = true) (wcnt :
    μ.cnt = true) (wtor : μ.tor = true) (wout : μ.out = true) :
    Only μ σ (State.pxyCmd p v s) := by
  unfold State.pxyCmd
  (repeat' with_reducible first
      | assumption | apply modTor_writes | apply writePxyCmd_writes | apply Only.ite)

theorem writeTor_writes {μ : Writes} {σ : State} (p : Path) (off : ℕ) (w : Word) (s : State) (h : Only μ σ s) (wchans :
    μ.chans = true) (wflt : μ.flt = true) (wcnt : μ.cnt = true) (wlanes : μ.lanes = true) (wtor : μ.tor = true) (wout : μ.out
    = true) :
    Only μ σ (State.writeTor p off w s) := by
  unfold State.writeTor
  (repeat' first
    | with_reducible assumption
    | (extract_lets +onlyGivenNames x; clear_value x; rename' x => x')
    | with_reducible first
        | apply modTor_writes | apply writeStart_writes | apply pxyCmd_writes | apply Only.ite)

theorem writeGrant_writes {μ : Writes} {σ : State} (g : ℕ) (v : ℕ) (s : State) (h : Only μ σ s) (wflt : μ.flt = true) (wcnt :
    μ.cnt = true) :
    Only μ σ (State.writeGrant g v s) := by
  unfold State.writeGrant
  (repeat' first
    | with_reducible assumption
    | (extract_lets +onlyGivenNames x; clear_value x; rename' x => x')
    | with_reducible first
        | apply writeIgnored_writes | apply Only.ite | apply upd_cnt)

theorem writeCrc_writes {μ : Writes} {σ : State} (u : ℕ) (off : ℕ) (v : ℕ) (s : State) (h : Only μ σ s) (wchans : μ.chans =
    true) (wflt : μ.flt = true) (wcnt : μ.cnt = true) :
    Only μ σ (State.writeCrc u off v s) := by
  unfold State.writeCrc
  (repeat' with_reducible first
      | assumption | apply writeCrcCtl_writes | apply modCrc_writes | apply crcFeed_writes | apply Only.ite)

theorem writeCnt_writes {μ : Writes} {σ : State} (off : ℕ) (v : ℕ) (s : State) (h : Only μ σ s) (wchans : μ.chans = true)
    (wflt : μ.flt = true) (wcnt : μ.cnt = true) :
    Only μ σ (State.writeCnt off v s) := by
  unfold State.writeCnt
  (repeat' first
    | with_reducible assumption
    | (extract_lets +onlyGivenNames x; clear_value x; rename' x => x')
    | with_reducible first
        | apply writeCntWindow_writes | apply writeGrant_writes | apply writeCrc_writes | apply writeCntCfg_writes
        | apply modCounter_writes | apply Only.ite)

theorem setRest_writes {μ : Writes} {σ : State} (ch : ℕ) (f : Chan → Chan) (s : State) (h : Only μ σ s) (wchans : μ.chans =
    true) (wflt : μ.flt = true) (wcnt : μ.cnt = true) :
    Only μ σ (State.setRest ch f s) := by
  unfold State.setRest
  (repeat' with_reducible first
      | assumption | apply modChan_writes | apply writeIgnored_writes | apply Only.ite)

theorem writePriv_writes {μ : Writes} {σ : State} (ch : ℕ) (v : ℕ) (s : State) (h : Only μ σ s) (wfreeNo : μ.freeNo = true)
    (wchans : μ.chans = true) (wdram : μ.dram = true) (wflt : μ.flt = true) (wcnt : μ.cnt = true) :
    Only μ σ (State.writePriv ch v s) := by
  unfold State.writePriv
  (repeat' first
    | with_reducible assumption
    | (extract_lets +onlyGivenNames x; first
      | (refine Only.cut (m := μ) (a := σ) (x := x) ?_ (fun hx => ?_); (on_goal 1 => subst x); (on_goal 2 => (clear_value x; rename' x => x')))
      | (clear_value x; rename' x => x'))
    | with_reducible first
        | apply writeIgnored_writes | apply zeroCells_writes | apply modChan_writes | apply Only.ite)

theorem writeSubst_writes {μ : Writes} {σ : State} (ch : ℕ) (v : ℕ) (s : State) (h : Only μ σ s) (wchans : μ.chans = true)
    (wflt : μ.flt = true) (wcnt : μ.cnt = true) :
    Only μ σ (State.writeSubst ch v s) := by
  unfold State.writeSubst
  (repeat' first
    | with_reducible assumption
    | (extract_lets +onlyGivenNames x; clear_value x; rename' x => x')
    | with_reducible first
        | apply modChan_writes | apply writeIgnored_writes | apply Only.ite)

theorem writeDaReg_writes {μ : Writes} {σ : State} (ch : ℕ) (k : ℕ) (v : ℕ) (s : State) (h : Only μ σ s) (wchans : μ.chans =
    true) (wflt : μ.flt = true) (wcnt : μ.cnt = true) :
    Only μ σ (State.writeDaReg ch k v s) := by
  unfold State.writeDaReg
  (repeat' first
    | with_reducible assumption
    | (extract_lets +onlyGivenNames x; clear_value x; rename' x => x')
    | with_reducible first
        | apply writeIgnored_writes | apply modChan_writes | apply Only.ite)

theorem writeSrcCfg_writes {μ : Writes} {σ : State} (ch : ℕ) (v : ℕ) (s : State) (h : Only μ σ s) (wchans : μ.chans = true)
    (wflt : μ.flt = true) (wcnt : μ.cnt = true) :
    Only μ σ (State.writeSrcCfg ch v s) := by
  unfold State.writeSrcCfg
  (repeat' with_reducible first
      | assumption | apply writeIgnored_writes | apply setRest_writes | apply Only.ite)

theorem writeAna_writes {μ : Writes} {σ : State} (ch : ℕ) (off : ℕ) (v : ℕ) (s : State) (h : Only μ σ s) (wchans : μ.chans =
    true) (wflt : μ.flt = true) (wcnt : μ.cnt = true) :
    Only μ σ (State.writeAna ch off v s) := by
  unfold State.writeAna
  (repeat' first
    | with_reducible assumption
    | (extract_lets +onlyGivenNames x; subst x; try beta_reduce)
    | with_reducible first
        | apply writeIgnored_writes | apply setRest_writes | apply Only.ite)

theorem writeScrub_writes {μ : Writes} {σ : State} (ch : ℕ) (v : ℕ) (s : State) (h : Only μ σ s) (wchans : μ.chans = true)
    (wflt : μ.flt = true) (wcnt : μ.cnt = true) :
    Only μ σ (State.writeScrub ch v s) := by
  unfold State.writeScrub
  (repeat' with_reducible first
      | assumption | apply writeIgnored_writes | apply modChan_writes | apply Only.ite)

theorem writeTrain_writes {μ : Writes} {σ : State} (ch : ℕ) (v : ℕ) (s : State) (h : Only μ σ s) (wchans : μ.chans = true)
    (wflt : μ.flt = true) (wcnt : μ.cnt = true) :
    Only μ σ (State.writeTrain ch v s) := by
  unfold State.writeTrain
  (repeat' first
    | with_reducible assumption
    | (extract_lets +onlyGivenNames x; clear_value x; rename' x => x')
    | with_reducible first
        | apply writeIgnored_writes | apply setRest_writes | apply Only.ite)

theorem writeEye_writes {μ : Writes} {σ : State} (p : Path) (ch : ℕ) (v : ℕ) (s : State) (h : Only μ σ s) (wchans : μ.chans =
    true) (wflt : μ.flt = true) (wcnt : μ.cnt = true) :
    Only μ σ (State.writeEye p ch v s) := by
  unfold State.writeEye
  (repeat' first
    | with_reducible assumption
    | (extract_lets +onlyGivenNames x; clear_value x; rename' x => x')
    | with_reducible first
        | apply writeIgnored_writes | apply setRest_writes | apply Only.ite)

theorem writeLive_writes {μ : Writes} {σ : State} (p : Path) (ch : ℕ) (off : ℕ) (w : Word) (s : State) (h : Only μ σ s)
    (wfreeNo : μ.freeNo = true) (wchans : μ.chans = true) (wdram : μ.dram = true) (wflt : μ.flt = true) (wcnt : μ.cnt = true)
    :
    Only μ σ (State.writeLive p ch off w s) := by
  unfold State.writeLive
  (repeat' first
    | with_reducible assumption
    | (extract_lets +onlyGivenNames x; clear_value x; rename' x => x')
    | with_reducible first
        | apply writePriv_writes | apply Res_after_writes | apply execBistForce_writes | apply writeSrcCfg_writes
        | apply setRest_writes | apply writeAna_writes | apply modChan_writes | apply writeDaReg_writes
        | apply execRemapClear_writes | apply writeScrub_writes | apply writeTrain_writes | apply execCalForce_writes
        | apply modEyes_writes | apply writeEye_writes | apply Only.ite)

theorem writeCh_writes {μ : Writes} {σ : State} (p : Path) (ch : ℕ) (off : ℕ) (w : Word) (s : State) (h : Only μ σ s) (wfreeNo
    : μ.freeNo = true) (wchans : μ.chans = true) (wfrozen : μ.frozen = true) (wdram : μ.dram = true) (wflt : μ.flt = true)
    (wcnt : μ.cnt = true) :
    Only μ σ (State.writeCh p ch off w s) := by
  unfold State.writeCh
  (repeat' with_reducible first
      | assumption | apply writeSubst_writes | apply writeIgnored_writes | apply writeLive_writes | apply Only.ite
      | apply upd_frozen)

theorem execChPrivWrite_writes {μ : Writes} {σ : State} (path : Path) (ch : ℕ) (value : Word) (s : State) (h : Only μ σ s)
    (wfreeNo : μ.freeNo = true) (wchans : μ.chans = true) (wdram : μ.dram = true) (wflt : μ.flt = true) (wcnt : μ.cnt = true)
    :
    OnlyR μ σ (execChPrivWrite path ch value s) := by
  unfold execChPrivWrite
  (repeat' with_reducible first
      | assumption | (intro _) | apply chanWrite_writes | apply writePriv_writes | apply OnlyR.next)

theorem execChSubstWrite_writes {μ : Writes} {σ : State} (path : Path) (ch : ℕ) (value : Word) (s : State) (h : Only μ σ s)
    (wchans : μ.chans = true) (wflt : μ.flt = true) (wcnt : μ.cnt = true) :
    OnlyR μ σ (execChSubstWrite path ch value s) := by
  unfold execChSubstWrite
  (repeat' with_reducible first
      | assumption | apply writeSubst_writes | apply OnlyR.ite | apply OnlyR.next)

theorem execChDaRegWrite_writes {μ : Writes} {σ : State} (path : Path) (ch : ℕ) (cls : ℕ) (value : Word) (s : State) (h : Only
    μ σ s) (wchans : μ.chans = true) (wflt : μ.flt = true) (wcnt : μ.cnt = true) :
    OnlyR μ σ (execChDaRegWrite path ch cls value s) := by
  unfold execChDaRegWrite
  (repeat' with_reducible first
      | assumption | (intro _) | apply chanWrite_writes | apply writeDaReg_writes | apply OnlyR.ite | apply OnlyR.next)

theorem writeReg_writes {μ : Writes} {σ : State} (p : Path) (off : ℕ) (w : Word) (s : State) (h : Only μ σ s) (wfreeNo :
    μ.freeNo = true) (wchans : μ.chans = true) (wfrozen : μ.frozen = true) (wctxs : μ.ctxs = true) (wjournal : μ.journal =
    true) (wdram : μ.dram = true) (whost : μ.host = true) (wflt : μ.flt = true) (wcnt : μ.cnt = true) (wthm : μ.thm = true)
    (wlanes : μ.lanes = true) (wtor : μ.tor = true) (wpwr : μ.pwr = true) (whoop : μ.hoop = true) (wotp : μ.otp = true) (wout
    : μ.out = true) :
    Only μ σ (State.writeReg p off w s) := by
  unfold State.writeReg
  (repeat' with_reducible first
      | assumption | apply log_writes | apply writeDev_writes | apply writeFlt_writes | apply writeThm_writes
      | apply writePwr_writes | apply writeOtp_writes | apply writeLn_writes | apply writeTor_writes | apply writeCnt_writes
      | apply writeCh_writes | apply Only.ite)

theorem execRegisterWrite_writes {μ : Writes} {σ : State} (path : Path) (offset : ℕ) (width : ℕ) (value : Word) (s : State) (h
    : Only μ σ s) (wfreeNo : μ.freeNo = true) (wchans : μ.chans = true) (wfrozen : μ.frozen = true) (wctxs : μ.ctxs = true)
    (wjournal : μ.journal = true) (wdram : μ.dram = true) (whost : μ.host = true) (wflt : μ.flt = true) (wcnt : μ.cnt = true)
    (wthm : μ.thm = true) (wlanes : μ.lanes = true) (wtor : μ.tor = true) (wpwr : μ.pwr = true) (whoop : μ.hoop = true) (wotp
    : μ.otp = true) (wout : μ.out = true) :
    OnlyR μ σ (execRegisterWrite path offset width value s) := by
  unfold execRegisterWrite
  (repeat' with_reducible first
      | assumption | apply log_writes | apply writeReg_writes | apply OnlyR.ite | apply OnlyR.next)

theorem pxServe_writes {μ : Writes} {σ : State} (op : ℕ) (pk : PktIn) (s : State) (h : Only μ σ s) (wflt : μ.flt = true) (wcnt
    : μ.cnt = true) (wtor : μ.tor = true) (wout : μ.out = true) :
    OnlyP μ σ (State.pxServe op pk s) := by
  unfold State.pxServe
  (repeat' first
    | with_reducible assumption
    | (extract_lets +onlyGivenNames x; first
      | (refine Only.cut (m := μ) (a := σ) (x := x) ?_ (fun hx => ?_); (on_goal 1 => subst x); (on_goal 2 => (clear_value x; rename' x => x')))
      | (refine OnlyP.cut (m := μ) (a := σ) (x := x) ?_ (fun hx => ?_); (on_goal 1 => subst x); (on_goal 2 => (clear_value x; rename' x => x'))))
    | with_reducible first
        | apply pxArrive_writes | apply bindProxy_writes | apply pxSend_writes | apply OnlyP.ite | apply OnlyP.snd
        | apply OnlyP.mk)

theorem execRegRd_writes {μ : Writes} {σ : State} (pk : PktIn) (s : State) (h : Only μ σ s) (wflt : μ.flt = true) (wcnt :
    μ.cnt = true) (wtor : μ.tor = true) (wout : μ.out = true) :
    OnlyR μ σ (execRegRd pk s) := by
  unfold execRegRd
  (repeat' first
    | with_reducible assumption
    | (extract_lets +onlyGivenNames x; refine OnlyP.cut (m := μ) (a := σ) (x := x) ?_ (fun hx => ?_); (on_goal 1 => subst x); (on_goal 2 => (clear_value x; rename' x => x')))
    | with_reducible first
        | apply pxServe_writes | apply pxSend_writes | apply readReg_writes | apply OnlyR.ite | apply OnlyR.next
        | apply OnlyP.snd)

theorem execRegWr_writes {μ : Writes} {σ : State} (pk : PktIn) (s : State) (h : Only μ σ s) (wfreeNo : μ.freeNo = true)
    (wchans : μ.chans = true) (wfrozen : μ.frozen = true) (wctxs : μ.ctxs = true) (wjournal : μ.journal = true) (wdram :
    μ.dram = true) (whost : μ.host = true) (wflt : μ.flt = true) (wcnt : μ.cnt = true) (wthm : μ.thm = true) (wlanes : μ.lanes
    = true) (wtor : μ.tor = true) (wpwr : μ.pwr = true) (whoop : μ.hoop = true) (wotp : μ.otp = true) (wout : μ.out = true) :
    OnlyR μ σ (execRegWr pk s) := by
  unfold execRegWr
  (repeat' first
    | with_reducible assumption
    | (extract_lets +onlyGivenNames x; refine OnlyP.cut (m := μ) (a := σ) (x := x) ?_ (fun hx => ?_); (on_goal 1 => subst x); (on_goal 2 => (clear_value x; rename' x => x')))
    | with_reducible first
        | apply pxServe_writes | apply pxSend_writes | apply writeReg_writes | apply OnlyR.ite | apply OnlyR.next
        | apply OnlyP.snd)

theorem modSmb_writes {μ : Writes} {σ : State} (f : Smbus → Smbus) (s : State) (h : Only μ σ s) (wsmb : μ.smb = true) :
    Only μ σ (State.modSmb f s) := by
  unfold State.modSmb
  (repeat' with_reducible first
      | assumption | apply upd_smb)

theorem execSetAddr_writes {μ : Writes} {σ : State} (bytes : List Byte) (pecOk : Bool) (s : State) (h : Only μ σ s) (wflt :
    μ.flt = true) (wcnt : μ.cnt = true) (wtor : μ.tor = true) (wsmb : μ.smb = true) :
    OnlyR μ σ (execSetAddr bytes pecOk s) := by
  unfold execSetAddr
  (repeat' first
    | with_reducible assumption
    | (extract_lets +onlyGivenNames x; refine OnlyP.cut (m := μ) (a := σ) (x := x) ?_ (fun hx => ?_); (on_goal 1 => subst x); (on_goal 2 => (clear_value x; rename' x => x')))
    | with_reducible first
        | apply modSmb_writes | apply readReg_writes | apply OnlyR.ite | apply OnlyR.next | apply OnlyP.snd)

theorem execSmbusRead_writes {μ : Writes} {σ : State} (pec : Bool) (s : State) (h : Only μ σ s) (wfreeNo : μ.freeNo = true)
    (wout : μ.out = true) :
    OnlyR μ σ (execSmbusRead pec s) := by
  unfold execSmbusRead
  (repeat' first
    | with_reducible assumption
    | (extract_lets +onlyGivenNames x; first
      | (refine Only.cut (m := μ) (a := σ) (x := x) ?_ (fun hx => ?_); (on_goal 1 => subst x); (on_goal 2 => (clear_value x; rename' x => x')))
      | (clear_value x; rename' x => x'))
    | with_reducible first
        | apply emit_writes | apply Only.ite | apply OnlyR.next | apply upd_freeNo)

theorem execSmbusWrite_writes {μ : Writes} {σ : State} (bytes : List Byte) (pecOk : Bool) (s : State) (h : Only μ σ s)
    (wfreeNo : μ.freeNo = true) (wchans : μ.chans = true) (wfrozen : μ.frozen = true) (wctxs : μ.ctxs = true) (wjournal :
    μ.journal = true) (wdram : μ.dram = true) (whost : μ.host = true) (wflt : μ.flt = true) (wcnt : μ.cnt = true) (wthm :
    μ.thm = true) (wlanes : μ.lanes = true) (wtor : μ.tor = true) (wpwr : μ.pwr = true) (whoop : μ.hoop = true) (wotp : μ.otp
    = true) (wsmb : μ.smb = true) (wout : μ.out = true) :
    OnlyR μ σ (execSmbusWrite bytes pecOk s) := by
  unfold execSmbusWrite
  (repeat' with_reducible first
      | assumption | apply modSmb_writes | apply writeReg_writes | apply OnlyR.ite | apply OnlyR.next)

theorem execWstatus_writes {μ : Writes} {σ : State} (pec : Bool) (s : State) (h : Only μ σ s) (wout : μ.out = true) :
    OnlyR μ σ (execWstatus pec s) := by
  unfold execWstatus
  (repeat' with_reducible first
      | assumption | apply emit_writes | apply OnlyR.next)

theorem execRegAccessTimeout_writes {μ : Writes} {σ : State} (path : Path) (isRead : Bool) (s : State) (h : Only μ σ s) (wflt
    : μ.flt = true) (wcnt : μ.cnt = true) (wsmb : μ.smb = true) (wout : μ.out = true) :
    OnlyR μ σ (execRegAccessTimeout path isRead s) := by
  unfold execRegAccessTimeout
  (repeat' first
    | with_reducible assumption
    | (extract_lets +onlyGivenNames x; first
      | (refine Only.cut (m := μ) (a := σ) (x := x) ?_ (fun hx => ?_); (on_goal 1 => subst x); (on_goal 2 => (clear_value x; rename' x => x')))
      | (clear_value x; rename' x => x'))
    | with_reducible first
        | apply log_writes | apply emit_writes | apply modSmb_writes | apply Only.ite | apply OnlyR.ite | apply OnlyR.next)

end Sys2Proof.Laws
end

