-- ==== Sys2Proof/Laws/OnlyWindow.lean ====
section
/-! SUPPORT. What the operations of Machine/Window.lean may write. -/

set_option linter.unusedTactic false
set_option linter.unreachableTactic false
set_option linter.unusedVariables false
set_option linter.tactic.unusedName false

namespace Sys2Proof.Laws

open Sys2Proof Sys2Proof.Machine

theorem scrubMany_writes {μ : Writes} {σ : State} (ch : ℕ) (t : ℕ) (noise : List Codeword) (y3 : ℕ) (y4 : State) (h : Only μ σ
    y4) (wfreeNo : μ.freeNo = true) (wchans : μ.chans = true) (wdram : μ.dram = true) (wflt : μ.flt = true) (wcnt : μ.cnt =
    true) :
    Only μ σ (State.scrubMany ch t noise y3 y4) := by
  induction y3 generalizing ch t noise y4 with
  | zero =>
    unfold State.scrubMany
    with_reducible assumption
  | succ n ih =>
    unfold State.scrubMany
    (repeat' first
      | with_reducible assumption
      | (extract_lets +onlyGivenNames x; first
        | (refine OnlyP.cut (m := μ) (a := σ) (x := x) ?_ (fun hx => ?_); (on_goal 1 => subst x); (on_goal 2 => (clear_value x; rename' x => x')))
        | (clear_value x; rename' x => x'))
      | with_reducible first
          | apply scrubOp_writes | apply modChan_writes | apply ih | apply OnlyP.snd
      | split)

theorem doWork_writes {μ : Writes} {σ : State} (ch : ℕ) (k : ℕ) (t : ℕ) (l : ℕ) (w : MaintIn) (s : State) (h : Only μ σ s)
    (wfreeNo : μ.freeNo = true) (wchans : μ.chans = true) (wfrozen : μ.frozen = true) (wctxs : μ.ctxs = true) (wjournal :
    μ.journal = true) (wdram : μ.dram = true) (whost : μ.host = true) (wflt : μ.flt = true) (wcnt : μ.cnt = true) (wtor :
    μ.tor = true) (wout : μ.out = true) :
    Only μ σ (State.doWork ch k t l w s) := by
  unfold State.doWork
  (repeat' first
    | with_reducible first
        | assumption | apply calSteps_writes | apply bistSlices_writes | apply trainStep_writes | apply scrubMany_writes
        | apply modChan_writes
    | split)

theorem chooseWork_writes {μ : Writes} {σ : State} (ch : ℕ) (l : ℕ) (m : ℕ) (take : Bool) (s : State) (h : Only μ σ s) (wchans
    : μ.chans = true) (wflt : μ.flt = true) (wcnt : μ.cnt = true) :
    Only μ σ (State.chooseWork ch l m take s) := by
  unfold State.chooseWork
  (repeat' first
    | with_reducible first
        | assumption | (intro _)
    | (extract_lets +onlyGivenNames x; clear_value x; rename' x => x')
    | with_reducible first
        | apply modSeq_writes | apply defer_writes | apply Only.foldl)

theorem windowStart_writes {μ : Writes} {σ : State} (ch : ℕ) (s : State) (h : Only μ σ s) (wchans : μ.chans = true) (wflt :
    μ.flt = true) (wcnt : μ.cnt = true) :
    Only μ σ (State.windowStart ch s) := by
  unfold State.windowStart
  (repeat' first
    | with_reducible assumption
    | (extract_lets +onlyGivenNames x; first
      | (refine Only.cut (m := μ) (a := σ) (x := x) ?_ (fun hx => ?_); (on_goal 1 => subst x); (on_goal 2 => (clear_value x; rename' x => x')))
      | (clear_value x; rename' x => x'))
    | with_reducible first
        | apply modChan_writes | apply calTrigger_writes | apply wardenRefresh_writes | apply chooseWork_writes
        | apply modSeq_writes | apply Only.ite)

theorem windowEnd_writes {μ : Writes} {σ : State} (ch : ℕ) (w : MaintIn) (s : State) (h : Only μ σ s) (wfreeNo : μ.freeNo =
    true) (wchans : μ.chans = true) (wfrozen : μ.frozen = true) (wctxs : μ.ctxs = true) (wjournal : μ.journal = true) (wdram :
    μ.dram = true) (whost : μ.host = true) (wflt : μ.flt = true) (wcnt : μ.cnt = true) (wtor : μ.tor = true) (wout : μ.out =
    true) :
    Only μ σ (State.windowEnd ch w s) := by
  unfold State.windowEnd
  (repeat' first
    | with_reducible assumption
    | (extract_lets +onlyGivenNames x; clear_value x; rename' x => x')
    | with_reducible first
        | apply modSeq_writes | apply doWork_writes
    | split)

theorem windowSlot_writes {μ : Writes} {σ : State} (ch : ℕ) (w : MaintIn) (s : State) (h : Only μ σ s) (wfreeNo : μ.freeNo =
    true) (wchans : μ.chans = true) (wfrozen : μ.frozen = true) (wctxs : μ.ctxs = true) (wjournal : μ.journal = true) (wdram :
    μ.dram = true) (whost : μ.host = true) (wflt : μ.flt = true) (wcnt : μ.cnt = true) (wtor : μ.tor = true) (wout : μ.out =
    true) :
    Only μ σ (State.windowSlot ch w s) := by
  unfold State.windowSlot
  (repeat' first
    | with_reducible assumption
    | (extract_lets +onlyGivenNames x; first
      | (refine Only.cut (m := μ) (a := σ) (x := x) ?_ (fun hx => ?_); (on_goal 1 => subst x); (on_goal 2 => (clear_value x; rename' x => x')))
      | (clear_value x; rename' x => x'))
    | with_reducible first
        | apply windowStart_writes | apply makeupOp_writes | apply windowEnd_writes | apply Only.ite
    | split)

theorem maintSlot_writes {μ : Writes} {σ : State} (ch : ℕ) (op : ℕ) (w : MaintIn) (s : State) (h : Only μ σ s) (wfreeNo :
    μ.freeNo = true) (wchans : μ.chans = true) (wfrozen : μ.frozen = true) (wctxs : μ.ctxs = true) (wjournal : μ.journal =
    true) (wdram : μ.dram = true) (whost : μ.host = true) (wflt : μ.flt = true) (wcnt : μ.cnt = true) (wtor : μ.tor = true)
    (wout : μ.out = true) :
    Only μ σ (State.maintSlot ch op w s) := by
  unfold State.maintSlot
  (repeat' first
    | with_reducible assumption
    | (extract_lets +onlyGivenNames x; refine Only.cut (m := μ) (a := σ) (x := x) ?_ (fun hx => ?_); (on_goal 1 => subst x); (on_goal 2 => (clear_value x; rename' x => x')))
    | with_reducible first
        | apply windowSlot_writes | apply slotDone_writes | apply Only.ite
    | split)

theorem execScrub_writes {μ : Writes} {σ : State} (ch : ℕ) (w : MaintIn) (s : State) (h : Only μ σ s) (wfreeNo : μ.freeNo =
    true) (wchans : μ.chans = true) (wfrozen : μ.frozen = true) (wctxs : μ.ctxs = true) (wjournal : μ.journal = true) (wdram :
    μ.dram = true) (whost : μ.host = true) (wflt : μ.flt = true) (wcnt : μ.cnt = true) (wtor : μ.tor = true) (wout : μ.out =
    true) :
    OnlyR μ σ (execScrub ch w s) := by
  unfold execScrub
  (repeat' with_reducible first
      | assumption | apply maintSlot_writes | apply OnlyR.next)

theorem execTrain_writes {μ : Writes} {σ : State} (ch : ℕ) (w : MaintIn) (s : State) (h : Only μ σ s) (wfreeNo : μ.freeNo =
    true) (wchans : μ.chans = true) (wfrozen : μ.frozen = true) (wctxs : μ.ctxs = true) (wjournal : μ.journal = true) (wdram :
    μ.dram = true) (whost : μ.host = true) (wflt : μ.flt = true) (wcnt : μ.cnt = true) (wtor : μ.tor = true) (wout : μ.out =
    true) :
    OnlyR μ σ (execTrain ch w s) := by
  unfold execTrain
  (repeat' with_reducible first
      | assumption | apply maintSlot_writes | apply OnlyR.next)

theorem execCal_writes {μ : Writes} {σ : State} (ch : ℕ) (w : MaintIn) (s : State) (h : Only μ σ s) (wfreeNo : μ.freeNo =
    true) (wchans : μ.chans = true) (wfrozen : μ.frozen = true) (wctxs : μ.ctxs = true) (wjournal : μ.journal = true) (wdram :
    μ.dram = true) (whost : μ.host = true) (wflt : μ.flt = true) (wcnt : μ.cnt = true) (wtor : μ.tor = true) (wout : μ.out =
    true) :
    OnlyR μ σ (execCal ch w s) := by
  unfold execCal
  (repeat' with_reducible first
      | assumption | apply maintSlot_writes | apply OnlyR.next)

theorem execBist_writes {μ : Writes} {σ : State} (ch : ℕ) (w : MaintIn) (s : State) (h : Only μ σ s) (wfreeNo : μ.freeNo =
    true) (wchans : μ.chans = true) (wfrozen : μ.frozen = true) (wctxs : μ.ctxs = true) (wjournal : μ.journal = true) (wdram :
    μ.dram = true) (whost : μ.host = true) (wflt : μ.flt = true) (wcnt : μ.cnt = true) (wtor : μ.tor = true) (wout : μ.out =
    true) :
    OnlyR μ σ (execBist ch w s) := by
  unfold execBist
  (repeat' with_reducible first
      | assumption | apply maintSlot_writes | apply OnlyR.next)

theorem hoopOp_writes {μ : Writes} {σ : State} (ch : ℕ) (a : Option ℕ) (s : State) (h : Only μ σ s) (wchans : μ.chans = true)
    :
    OnlyP μ σ (State.hoopOp ch a s) := by
  unfold State.hoopOp
  (repeat' first
    | with_reducible first
        | assumption | apply fly_writes | apply OnlyP.ite
    | split
    | with_reducible apply OnlyP.mk)

theorem idleDirect_writes {μ : Writes} {σ : State} (ch : ℕ) (fail : Bool) (hoop : Option ℕ) (s : State) (h : Only μ σ s)
    (wfreeNo : μ.freeNo = true) (wchans : μ.chans = true) (wctxs : μ.ctxs = true) (wjournal : μ.journal = true) (wdram :
    μ.dram = true) (whost : μ.host = true) (wflt : μ.flt = true) (wcnt : μ.cnt = true) (wtor : μ.tor = true) (wout : μ.out =
    true) :
    Only μ σ (State.idleDirect ch fail hoop s) := by
  unfold State.idleDirect
  (repeat' first
    | with_reducible assumption
    | (extract_lets +onlyGivenNames x; first
      | (refine OnlyP.cut (m := μ) (a := σ) (x := x) ?_ (fun hx => ?_); (on_goal 1 => subst x); (on_goal 2 => (clear_value x; rename' x => x')))
      | (clear_value x; rename' x => x'))
    | with_reducible first
        | apply hoopOp_writes | apply daOp_writes | apply modChan_writes | apply Only.ite | apply OnlyP.ite | apply OnlyP.snd
        | apply OnlyP.mk)

theorem execIdleSchedule_writes {μ : Writes} {σ : State} (ch : ℕ) (w : MaintIn) (storeFail : Bool) (hoop : Option ℕ) (s :
    State) (h : Only μ σ s) (wfreeNo : μ.freeNo = true) (wchans : μ.chans = true) (wfrozen : μ.frozen = true) (wctxs : μ.ctxs
    = true) (wjournal : μ.journal = true) (wdram : μ.dram = true) (whost : μ.host = true) (wflt : μ.flt = true) (wcnt : μ.cnt
    = true) (wtor : μ.tor = true) (wout : μ.out = true) :
    OnlyR μ σ (execIdleSchedule ch w storeFail hoop s) := by
  unfold execIdleSchedule
  (repeat' first
    | with_reducible assumption
    | (extract_lets +onlyGivenNames x; first
      | (refine Only.cut (m := μ) (a := σ) (x := x) ?_ (fun hx => ?_); (on_goal 1 => subst x); (on_goal 2 => (clear_value x; rename' x => x')))
      | (clear_value x; rename' x => x'))
    | with_reducible first
        | apply modChan_writes | apply wardenRefresh_writes | apply calTrigger_writes | apply doWork_writes
        | apply scrubOp_writes | apply idleDirect_writes | apply OnlyR.ite | apply OnlyR.next | apply OnlyP.snd
    | split)

theorem daData_writes {μ : Writes} {σ : State} (ch : ℕ) (n : ℕ) (q : ℕ) (i : ℕ) (ds : List Decoded) (fail : Bool) (s : State)
    (h : Only μ σ s) (wchans : μ.chans = true) (wctxs : μ.ctxs = true) (wjournal : μ.journal = true) (whost : μ.host = true)
    (wflt : μ.flt = true) (wcnt : μ.cnt = true) (wtor : μ.tor = true) (wout : μ.out = true) :
    Only μ σ (State.daData ch n q i ds fail s) := by
  unfold State.daData
  (repeat' first
    | with_reducible assumption
    | (extract_lets +onlyGivenNames x; first
      | (refine Only.cut (m := μ) (a := σ) (x := x) ?_ (fun hx => ?_); (on_goal 1 => subst x); (on_goal 2 => (clear_value x; rename' x => x')))
      | (clear_value x; rename' x => x'))
    | with_reducible first
        | apply hostWrite_writes | apply daFinish_writes | apply modDesc_writes | apply Only.ite
    | split)

theorem fetchBlockData_writes {μ : Writes} {σ : State} (ch : ℕ) (blk : ℕ) (issue : ℕ) (ds : List Decoded) (s : State) (h :
    Only μ σ s) (wchans : μ.chans = true) (wflt : μ.flt = true) (wcnt : μ.cnt = true) :
    Only μ σ (State.fetchBlockData ch blk issue ds s) := by
  unfold State.fetchBlockData
  (repeat' first
    | with_reducible assumption
    | (extract_lets +onlyGivenNames x; clear_value x; rename' x => x')
    | with_reducible first
        | apply requestStop_writes | apply log_writes | apply modSeq_writes | apply Only.ite)

theorem crcGranule_writes {μ : Writes} {σ : State} (unit : ℕ) (ds : List Decoded) (s : State) (h : Only μ σ s) (wcnt : μ.cnt =
    true) :
    Only μ σ (State.crcGranule unit ds s) := by
  unfold State.crcGranule
  (repeat' first
    | with_reducible assumption
    | (extract_lets +onlyGivenNames x; clear_value x; rename' x => x')
    | with_reducible apply upd_cnt)

theorem flightRemap_writes {μ : Writes} {σ : State} (ch : ℕ) (f : Flight) (hit : Bool) (s : State) (h : Only μ σ s) (wchans :
    μ.chans = true) (wflt : μ.flt = true) (wcnt : μ.cnt = true) :
    OnlyP μ σ (State.flightRemap ch f hit s) := by
  unfold State.flightRemap
  (repeat' first
    | with_reducible assumption
    | (extract_lets +onlyGivenNames x; refine Only.cut (m := μ) (a := σ) (x := x) ?_ (fun hx => ?_); (on_goal 1 => subst x); (on_goal 2 => (clear_value x; rename' x => x')))
    | with_reducible first
        | apply dropEntry_writes | apply OnlyP.ite | apply OnlyP.mk)

theorem execReadData_writes {μ : Writes} {σ : State} (ch : ℕ) (noise : List Codeword) (hit : StoreHit) (remapHit : Bool) (s :
    State) (h : Only μ σ s) (wfreeNo : μ.freeNo = true) (wchans : μ.chans = true) (wctxs : μ.ctxs = true) (wjournal :
    μ.journal = true) (whost : μ.host = true) (wflt : μ.flt = true) (wcnt : μ.cnt = true) (wtor : μ.tor = true) (wout : μ.out
    = true) :
    OnlyR μ σ (execReadData ch noise hit remapHit s) := by
  unfold execReadData
  (repeat' first
    | with_reducible assumption
    | (extract_lets +onlyGivenNames x; first
      | (refine Only.cut (m := μ) (a := σ) (x := x) ?_ (fun hx => ?_); (on_goal 1 => subst x); (on_goal 2 => (clear_value x; rename' x => x')))
      | (clear_value x; rename' x => x'))
    | with_reducible first
        | apply modChan_writes | apply bindMerge_writes | apply flightRemap_writes | apply readRaw_writes
        | apply storeHit_writes | apply srcData_writes | apply mergeData_writes | apply anaRead_writes
        | apply fetchBlockData_writes | apply daData_writes | apply crcGranule_writes | apply OnlyR.ite | apply OnlyR.next
    | split
    | refine OnlyP.of_eq (by assumption) ?_)

end Sys2Proof.Laws
end

