-- ==== Sys2Proof/Laws/OnlyTick.lean ====
section
/-! SUPPORT. What the operations of Machine/Tick.lean may write. -/

set_option linter.unusedTactic false
set_option linter.unreachableTactic false
set_option linter.unusedVariables false
set_option linter.tactic.unusedName false

namespace Sys2Proof.Laws

open Sys2Proof Sys2Proof.Machine

theorem countCk_writes {μ : Writes} {σ : State} (s : State) (h : Only μ σ s) (wflt : μ.flt = true) (wcnt : μ.cnt = true) :
    Only μ σ (State.countCk s) := by
  unfold State.countCk
  (repeat' with_reducible first
      | assumption | (intro _) | apply count_writes | apply Only.foldl)

theorem channelTick_writes {μ : Writes} {σ : State} (ch : ℕ) (s : State) (h : Only μ σ s) (wchans : μ.chans = true) (wfrozen :
    μ.frozen = true) (wctxs : μ.ctxs = true) (wjournal : μ.journal = true) (whost : μ.host = true) (wflt : μ.flt = true) (wcnt
    : μ.cnt = true) (wlanes : μ.lanes = true) (wtor : μ.tor = true) (wout : μ.out = true) :
    Only μ σ (State.channelTick ch s) := by
  unfold State.channelTick
  (repeat' first
    | with_reducible assumption
    | (extract_lets +onlyGivenNames x; refine Only.cut (m := μ) (a := σ) (x := x) ?_ (fun hx => ?_); (on_goal 1 => subst x); (on_goal 2 => (clear_value x; rename' x => x')))
    | with_reducible first
        | apply checkLate_writes | apply bistLate_writes | apply updatePanic_writes | apply modAna_writes
        | apply settleRetire_writes | apply Only.ite)

theorem tick_writes {μ : Writes} {σ : State} (s : State) (h : Only μ σ s) (wnow : μ.now = true) (wchans : μ.chans = true)
    (wfrozen : μ.frozen = true) (wctxs : μ.ctxs = true) (wjournal : μ.journal = true) (wdram : μ.dram = true) (whost : μ.host
    = true) (wflt : μ.flt = true) (wcnt : μ.cnt = true) (wthm : μ.thm = true) (wlanes : μ.lanes = true) (wtor : μ.tor = true)
    (wpwr : μ.pwr = true) (wotp : μ.otp = true) (wout : μ.out = true) :
    Only μ σ (State.tick s) := by
  unfold State.tick
  (repeat' first
    | with_reducible first
        | assumption | (intro _)
    | (extract_lets +onlyGivenNames x; refine Only.cut (m := μ) (a := σ) (x := x) ?_ (fun hx => ?_); (on_goal 1 => subst x); (on_goal 2 => (clear_value x; rename' x => x')))
    | with_reducible first
        | apply countCk_writes | apply settleAvs_writes | apply channelTick_writes | apply driveCool_writes
        | apply sendIdents_writes | apply programRecords_writes | apply Only.foldl | apply upd_now)

end Sys2Proof.Laws
end

