-- ==== Sys2Proof/Tests/Slice0.lean ====
section
/-! SUPPORT. Tests: what well-formedness refuses, single commands on small states with results that the spec gives, and for each
statement of Certificates/Slice0 states and operands that meet its hypotheses together. -/

set_option maxRecDepth 100000
set_option linter.unusedVariables false
set_option Elab.async false

namespace Sys2Proof.Tests

open Sys2Proof Sys2Proof.Machine

/-! ## Small states -/

/-- A device in SERVICE whose host interface is up, at ck 2,000,000,000. -/
def svc : State :=
  { State.reset with
    now := 2 * 10 ^ 9
    pwr := { State.reset.pwr with mode := .service, step := 4, vddlUp := true }
    host := { State.reset.host with linkUp := true, dbBase := 2 ^ 15 }
    hoop := { State.reset.hoop with running := true } }

/-- `svc` with one context that holds the given descriptors. -/
def withCtx (n : Nat) (c : Ctx) (s : State) : State := { s with ctxs := [(n, c)] }

/-- `svc` with one channel. -/
def withCh (ch : Nat) (c : Chan) (s : State) : State := { s with chans := [(ch, c)] }

/-- Operand bytes 0x10 to 0x3F of a descriptor from its six 64-bit words. -/
def opndOf (l : List Nat) : List Byte := l.flatMap (leBytes 8)

/-- An accepted descriptor with sequence number 1. -/
def descOf (op : Nat) (l : List Nat) : Desc := { seq := 1, op := op, flags := 0, opnd := opndOf l }

/-- Context 20 is ENABLED and has accepted the descriptor; its class is ACCESS. -/
def access (d : Desc) : State := withCtx 20 { state := .enabled, cls := 2, acc := [d] } svc

/-- Context 0 is ENABLED and has accepted the descriptor; its class is ADMIN. -/
def admin (d : Desc) : State := withCtx 0 { state := .enabled, acc := [d] } svc

/-- A 64-bit word whose high half is the complement of its low half. -/
def pairOf (v : Nat) : Nat := v + (2 ^ 32 - 1 - v) * 2 ^ 32

/-- The bytes of 32-bit values, each followed by its complement. -/
def pairBytes (l : List Nat) : List Byte := l.flatMap fun v => leBytes 8 (pairOf v)

/-- `change` applied to the power block. -/
def inPwr (f : Power → Power) (s : State) : State := { s with pwr := f s.pwr }

/-- No entry in the logs. -/
theorem logsNil {s : State} (h : s.flt.log = []) (k : s.pwr.image.flt = []) : logsOk s := by
  unfold logsOk logOk
  rw [h, k]
  exact ⟨⟨rfl, by simp⟩, ⟨rfl, by simp⟩⟩

/-- The section of a small image: a DIRECT section of 16 NOP slots on channel 0, whose stream does not loop. -/
def sectBytes : List Byte :=
  ([3, 1 + 1 * 2 ^ 16, 256, 272, 280, 16, 0, 0] ++ [100, 0, 100, 0, 100, 0, 100, 0] ++ [5000] ++ List.replicate 7 0 ++ [2 ^ 16] ++ List.replicate 7 0 ++
    [0, 0, 4, 0, 0, 0, 4, 0, 0, 0, 4, 0, 0, 0, 4, 0] ++ List.replicate 16 0 ++
    [0, 16, 0, 0] ++ [0, 1] ++ List.replicate 15 0 ++ [0x40]).flatMap (leBytes 4)

/-- An image that holds that section. -/
def imageBytes : List Byte :=
  pairBytes [0x474B5250, 1, 504, 1, 7, 0, 0x80, 0, 0, 0, 0, 0, 0, 0, 0, 0] ++
    pairBytes [0x100, 160, 344, (crc32c sectBytes).toNat] ++ sectBytes

def okD {ε α : Type} (d : α) : Except ε α → α
  | .ok a => a
  | .error _ => d

def errD {ε α : Type} (d : ε) : Except ε α → ε
  | .ok _ => d
  | .error e => e

def isOk {ε α : Type} : Except ε α → Bool
  | .ok _ => true
  | .error _ => false

theorem okOf {ε α : Type} {x : Except ε α} {d : α} (h : isOk x = true) : x = .ok (okD d x) := by
  cases x with
  | ok a => rfl
  | error e => cases h

theorem errOf {ε α : Type} {x : Except ε α} {d : ε} (h : isOk x = false) : x = .error (errD d x) := by
  cases x with
  | ok a => cases h
  | error e => rfl

theorem optOf {α : Type} {x : Option α} {d : α} (h : x.isSome = true) : x = some (x.getD d) := by
  cases x with
  | some a => rfl
  | none => cases h

theorem pairEq {β : Type} {x : Bool × β} (h : x.1 = true) : x = (true, x.2) := Prod.ext h rfl

/-- A Direct Access descriptor for `l` bytes at device byte address `a`, with host address or pattern 0. -/
def daDesc (op a l : Nat) : Desc :=
  descOf op [a, 2 ^ 64 - 1 - a, 0, pairOf l, if op = 0x12 then 2 ^ 64 - 1 else 0, 0]

/-- A section of one motif, step and tier. -/
def sectOf (f : Func) (rep : Nat) : Section := { func := f, motifs := [{}], steps := [{ rep := rep }], tiers := [{}] }

/-- A RUNNING channel whose next slot is the given word. -/
def slotChan (w : Word) : Chan :=
  { func := .source, state := .running, seq := { sect := some (sectOf .source 1), card := [(0, w)], slotCk := 5 } }

/-- The device with that channel as channel 3. -/
def slotSt (w : Word) : State := withCh 3 (slotChan w) svc

/-- A slot word of an opcode with a datapath action. -/
def slotW (op dp : Nat) : Word := BitVec.ofNat 32 (op * 2 ^ 28 + dp * 2 ^ 14)

/-- `svc` with one lane group. -/
def withGrp (k : Nat) (g : LaneGroup) (s : State) : State := { s with lanes := { s.lanes with groups := [(k, g)] } }

/-- `svc` with one torus port. -/
def withPort (p : Nat) (q : Port) (s : State) : State := { s with tor := { s.tor with ports := [(p, q)] } }

/-- A PROXY packet that reaches this device from device 9. -/
def proxyPk (op : Nat) (l : List Nat) : PktIn :=
  { port := 4, lseq := 0, errored := false, src := 9,
    words := packWords (proxyLen op) (packHeader 4 0 0 0 0 0) ((op * 2 ^ 28 :: l).map (BitVec.ofNat 32)) }

/-- Another packet that reaches this device. -/
def localPk (typ n : Nat) (l : List Nat) : PktIn :=
  { port := 4, lseq := 0, errored := false, words := packWords n (packHeader typ 0 0 0 0 0) (l.map (BitVec.ofNat 32)) }

/-- `svc` without a PCI Express port, bound to device 9. -/
def bound : State := { svc with tor := { svc.tor with boundTo := some 9, final := true } }

/-- A fault entry. -/
def entryOf (c : Cause) (i : Nat) : FltEntry := { cls := c.cls, blk := c.blk, cause := c.code, inst := i, lsn := 1 }

/-- A log of 128 entries. -/
def fullLog (f : Nat → FltEntry) : Faults := { log := (List.range 128).map fun i => (i, f i) }

/-! ## Well-formedness refuses what it should -/

def noMaint : MaintIn := { train := [], cal := [], sigs := [], noise := [] }

/-- Results of a tap setting past the last, of an odd tap offset, and of an eyelet that does not exist. -/
def badEye : EyeRes := ⟨0, [128], []⟩
def oddEye : EyeRes := ⟨0, [], [-3]⟩
def farEye : EyeRes := ⟨111, [], []⟩

/-- A packet with nothing in it. -/
def noPk : PktIn := { port := 0, lseq := 0, words := [], errored := false }

/-- One ill-formed command for each check. -/
theorem test_wf_contexts_and_channels :
    (Instr.nop 4096).wf = false ∧ (Instr.write 4096 []).wf = false ∧ (Instr.loadPricking 4096 .failed false []).wf = false ∧
      (Instr.loadPricking 0 .failed false [128]).wf = false ∧ (Instr.funcStart 4096 false).wf = false ∧
      (Instr.patchTable 4096 .failed).wf = false ∧ (Instr.fuseProgram 4096 true true).wf = false ∧
      (Instr.firmwareLoad 4096 .failed).wf = false ∧ (Instr.doorbellRead 4096 0 0 false).wf = false ∧
      (Instr.descriptorExamine 0 [] false).wf = false ∧ (Instr.headRefetch 0 []).wf = false ∧
      (Instr.journalConfirm 0 (2 ^ 48)).wf = false ∧ (Instr.act 128).wf = false ∧ (Instr.nopSlot 128 .clean).wf = false ∧
      (Instr.wr 128 .clean).wf = false ∧ (Instr.rmw 128 .clean).wf = false ∧ (Instr.openRun 128 [] false).wf = false ∧
      (Instr.readData 0 [0, 0, 0, 0, 0] .clean false).wf = false ∧ (Instr.cal 128 noMaint).wf = false ∧
      (Instr.idleSchedule 0 noMaint false (some (2 ^ 24))).wf = false ∧ (Instr.wordRelease 0 8).wf = false ∧
      (Instr.recordComplete 128 0 .clean).wf = false := by decide

theorem test_wf_measurements :
    (Instr.train 0 { noMaint with train := [badEye] }).wf = false ∧ (Instr.train 0 { noMaint with train := [oddEye] }).wf = false ∧
      (Instr.train 0 { noMaint with train := [farEye] }).wf = false ∧ (Instr.cal 0 { noMaint with cal := [[⟨0, true, 4, 5⟩]] }).wf = false ∧
      (Instr.bist 0 { noMaint with sigs := [[(2000, 1)]] }).wf = false ∧ (Instr.parityFlag 128 0 false).wf = false ∧
      (Instr.strobeLoss 128 true true).wf = false ∧ (Instr.lockstep 128 []).wf = false ∧ (Instr.heartbeatLoss 128 0).wf = false ∧
      (Instr.selfRefreshExit 0 128 { noMaint with train := [badEye] } []).wf = false ∧
      (Instr.selfRefreshExit 0 128 noMaint [32]).wf = false ∧
      (Instr.sensorRecover 80).wf = false ∧ (Instr.sensorSample (List.replicate 81 0)).wf = false ∧ (Instr.bandFall 16).wf = false ∧
      (Instr.tdConversion 2 0 0 0).wf = false ∧ (Instr.tdFault 2).wf = false ∧
      (Instr.oscRdy true [(2048, ⟨0, 0, 0, 0, 0, 0⟩)] false).wf = false ∧
      (Instr.regRdy ⟨64, 0, 0, 0, 0, true⟩ true).wf = false ∧ (Instr.regRdy ⟨0, 0, 0, 0, 8, true⟩ true).wf = false ∧
      (Instr.seqRail 0).wf = false ∧ (Instr.seqOrder 5).wf = false ∧ (Instr.wake [⟨128, 0, [], true, []⟩] [] []).wf = false ∧
      (Instr.wake [] [] [(0, 32)]).wf = false ∧ (Instr.safeExit [⟨0, 32, [], true, []⟩]).wf = false ∧
      (Instr.warmRestore [⟨0, 0, [], true, [(2 ^ 26, 1)]⟩]).wf = false ∧ (Instr.chargeTest (2 ^ 16) 0 0).wf = false ∧
      (Instr.vsaveArmedLevel (2 ^ 16)).wf = false ∧ (Instr.avsPoll true 1024).wf = false ∧
      (Instr.selftestGo [(128, [])] []).wf = false ∧ (Instr.selftestGo [] [128]).wf = false ∧ (Instr.tapInstruction 6).wf = false ∧
      (Instr.otpAudit .bar0 [(2048, ⟨0, 0, 0, 0, 0, 0⟩)] []).wf = false ∧
      (Instr.logicRdy true [(128, [])] [] [] ⟨[], [], [], [], [], [], false, []⟩).wf = false ∧
      (Instr.logicRdy true [] [(0, 32, 0)] [] ⟨[], [], [], [], [], [], false, []⟩).wf = false ∧
      (Instr.logicRdy true [] [] [] ⟨[7], [], [], [], [], [], false, []⟩).wf = false := by decide

theorem test_wf_lanes_ports_and_registers :
    (Instr.chPrivWrite .bar0 128 0).wf = false ∧ (Instr.bistForce .bar0 128).wf = false ∧ (Instr.chDaRegWrite .bar0 0 4 0).wf = false ∧
      (Instr.prbsAutoInject 8 0).wf = false ∧ (Instr.prbsSync 0 9 []).wf = false ∧ (Instr.lossOfSignal 12 0).wf = false ∧
      (Instr.dcTestDone false 8 []).wf = false ∧ (Instr.dcTestDone true 0 [5]).wf = false ∧ (Instr.clockLock 12).wf = false ∧
      (Instr.markerSend 8).wf = false ∧ (Instr.markerBeat 0 0 (.comma 256 0 0 0)).wf = false ∧ (Instr.beatLaunch 8 0 false).wf = false ∧
      (Instr.receiveBeat 8 0 .errored 0 false).wf = false ∧ (Instr.ident 4 0).wf = false ∧ (Instr.portRetrain 4).wf = false ∧
      (Instr.freqCheck 4 0).wf = false ∧ (Instr.lack 0 65536).wf = false ∧ (Instr.picotA 4 0 0).wf = false ∧
      (Instr.delayReq 0 65536 0).wf = false ∧ (Instr.delayRsp 0 0 (2 ^ 32) 0).wf = false ∧ (Instr.start { noPk with port := 5 }).wf = false ∧
      (Instr.memRd { noPk with lseq := 65536 } .failed).wf = false ∧ (Instr.fwdRec { noPk with src := 4096 }).wf = false ∧
      (Instr.pack { noPk with words := List.replicate 12 0 }).wf = false ∧ (Instr.forwardLost 0 256).wf = false ∧
      (Instr.counterLoRead .bar0 1088 0 4).wf = false ∧ (Instr.timeLoRead .bar0 4 4).wf = false ∧ (Instr.cntCfgWrite 1088 0).wf = false ∧
      (Instr.crcStart 4 0).wf = false ∧ (Instr.crcJobDone 4).wf = false ∧ (Instr.setAddr (List.replicate 256 0) true).wf = false ∧
      (Instr.registerWrite .bar0 (2 ^ 20) 4 0).wf = false ∧ (Instr.registerWrite .bar0 0 3 0).wf = false ∧
      (Instr.hostRecovery [(4096, 0)]).wf = false := by decide

theorem test_wf_accepts : (Instr.nop 4095).wf = true ∧ (Instr.act 127).wf = true ∧ (Instr.train 127 noMaint).wf = true ∧
    (Instr.registerWrite .smbus 0xFFFFC 4 0).wf = true ∧ (Instr.bandFall 15).wf = true := by decide

/-! ## One step -/

/-- The state after one step. -/
def after (s : State) : State :=
  match step s with
  | .next t => t
  | _ => s

/-- The state after a command. -/
def did (c : Instr) (s : State) : State :=
  match exec c s with
  | .next t => t
  | _ => s

/-- An empty queue lets one ck pass, and the second command stays waiting while the first runs. -/
theorem test_step_ticks : (after State.reset).now = 1 := by decide +kernel
theorem test_step_takes_first : (after { svc with pending := [.clearLost, .fltAckAll []] }).pending = [.fltAckAll []] := by decide +kernel

/-- The check value of R104. -/
theorem test_crc32c : crc32c ([49, 50, 51, 52, 53, 54, 55, 56, 57].map (BitVec.ofNat 8)) = 0xE3069283#32 := by decide +kernel

/-- The address of the example after R26: channel 73, bank 18, row 5,000, column 200. -/
theorem test_address : byteChan 0x9329C4640 = 73 ∧ byteCw 0x9329C4640 = 18 * 2 ^ 21 + 5000 * 256 + 200 := by decide

/-- The codeword of the example after R275: data 1 has check bits 0x4599. -/
theorem test_encode : (encode64 1 false).toNat % 2 ^ 15 = 0x4599 := by decide +kernel

/-- The example after R302: data 0x1 has s = 0x07, and data 0x80000000 has s = 0x62. -/
theorem test_lane_check : secCheck 1 false = 7 ∧ secCheck 0x80000000 false = 0x62 := by decide +kernel

/-- The example after R476: three rejections on channel 30 merge in LSN 41, and under ESCALATE take LSN 41, 42 and 43. -/
def rejected (e : Bool) : State :=
  let s : State := { svc with flt := { svc.flt with nextLsn := 41, escalate := e, alertMin := 3 } }
  ((s.log .captureReject 30).log .captureReject 30).log .captureReject 30

theorem test_merge : (rejected false).regVal .bar0 0x4020 = 0x4C01001E ∧ (rejected false).regVal .bar0 0x4024 = 0x00038000 := by
  decide +kernel

theorem test_escalate :
    (let s := did (.registerWrite .bar0 0x4008 4 1) (rejected true)
     s.regVal .bar0 0x4020 = 0x6C01001E ∧ s.regVal .bar0 0x4024 = 0x00019000 ∧
       (did (.fltAckAll []) s).regVal .bar0 0x4024 = 0x0001D000) := by decide +kernel

/-- A WR of zero data writes the four codewords of its granule and no other (R25, R111). -/
theorem test_wr : let t := did (.wr 3 .clean) (slotSt (slotW opWR dpCLEAR))
    (List.range 4).all (fun i => t.cell 3 i == encode64 0 false) = true ∧ t.dram.cells.map Prod.fst = (List.range 4).map (devAddr 3) ∧
      (t.chan 3).seq.slotCk = 6 := by decide +kernel

/-- ACT opens its row, and PRE closes the bank (R111). -/
theorem test_act : ((did (.act 3) (slotSt (slotW opACT 0))).chan 3).reg.openRows = [(0, 0)] := by decide +kernel
theorem test_pre : ((did (.pre 3) (withCh 3 { slotChan (slotW opPRE 0) with reg := { openRows := [(0, 7), (1, 7)] } } svc)).chan 3).reg.openRows =
    [(1, 7)] := by decide +kernel

/-- A REFab takes 24,960 from every bank that owes more than the limit (R61, R62). -/
theorem test_refab : (((did (.refab 3) (withCh 3 { slotChan (slotW opREFAB 0) with refr := { debt := [24960, -174720, -174721], since := 5 } }
    svc)).chan 3).refr.debt.take 3) = [0, -199680, -174721] := by decide +kernel

/-- A DIRECT access in the privileged region is refused (R250), and so is one across two channels. -/
theorem test_privileged : (withCh 0 { priv := 1 } svc).daCheck (daDesc 0x10 (2 ^ 29 - 32) 32) = some 0x14 := by decide +kernel
theorem test_two_channels : svc.daCheck (daDesc 0x12 (2 ^ 29 - 32) 64) = some 0x13 := by decide +kernel

/-- The word of the example after R510, 0x2B6, for the first darn entries of channel 73. -/
theorem test_darn_word : 0x100 + 6 * 73 = 0x2B6 ∧ otpRegion 0x2B6 = 1 := by decide

/-- THERMAL_TRIP has code 0x8206 (14). -/
theorem test_trip_code : Cause.thermalTrip.cls * 2 ^ 13 + Cause.thermalTrip.blk * 2 ^ 8 + Cause.thermalTrip.code = 0x8206 := by decide

/-- A read of TOR_TIME_LO gives the low word of global time. -/
theorem test_time_lo : (did (.timeLoRead .bar0 0 4) svc).out = [.regData .bar0 (2 * 10 ^ 9)] := by decide +kernel

/-- An access that is not 32 bits wide is discarded and logged C0 (R19). -/
theorem test_narrow_write : let t := did (.registerWrite .bar0 0x18020 1 5) svc
    t.tor = svc.tor ∧ t.flt.log.map (fun e => (e.2.cls, e.2.cause)) = [(0, Cause.regAccess.code)] := by decide +kernel

/-! ## Statements have states that meet them -/

/-- States and operands that meet the hypotheses of NopWaitComplete. -/
theorem test_meets_NopWaitComplete :
    ¬ (∀ (n : Nat) (s : State) (d : Desc), s.startable n 0x00 = some d → False) ∧
    ¬ (∀ (n : Nat) (s : State) (d : Desc), s.startable n 0x01 = some d → False) ∧
    ¬ (∀ (n : Nat) (s : State) (d : Desc), s.startedOp n 0x01 = some d → False) ∧
    ¬ (∀ (n : Nat) (s : State), s.startable n 0x00 = none → False) ∧
    ¬ (∀ (n : Nat) (s : State), s.startable n 0x01 = none → False) ∧
    ¬ (∀ (n : Nat) (s : State), s.startedOp n 0x01 = none → False) :=
  ⟨fun h => h 20 (access (descOf 0x00 [0, 0, 0, 0, 0, 0])) (descOf 0x00 [0, 0, 0, 0, 0, 0]) (by decide +kernel),
    fun h => h 20 (access (descOf 0x01 [4095, 1, 0, 0, 0, 0])) (descOf 0x01 [4095, 1, 0, 0, 0, 0]) (by decide +kernel),
    fun h => h 20 (access { descOf 0x01 [4095, 0, 0, 0, 0, 0] with phase := .started }) { descOf 0x01 [4095, 0, 0, 0, 0, 0] with phase := .started } (by decide +kernel),
    fun h => h 0 svc (by decide +kernel),
    fun h => h 0 svc (by decide +kernel),
    fun h => h 0 svc (by decide +kernel)⟩

/-- States and operands that meet the hypotheses of DirectAccessStarts. -/
theorem test_meets_DirectAccessStarts :
    ¬ (∀ (n : Nat) (s : State) (d : Desc), s.startable n 0x10 = some d → False) ∧
    ¬ (∀ (n : Nat) (s : State) (d : Desc), s.startable n 0x12 = some d → False) ∧
    ¬ (∀ (n : Nat) (fs : List Fetch) (s : State) (d : Desc) (st : Nat), s.startable n 0x11 = some d → s.daCheck d = some st → False) ∧
    ¬ (∀ (n : Nat) (fs : List Fetch) (s : State) (d : Desc), s.startable n 0x11 = some d → s.daCheck d = none → fs.length = (d.daLen + 4095) / 4096 → False) ∧
    ¬ (∀ (n : Nat) (fs : List Fetch) (s : State), s.startable n 0x10 = none → False) ∧
    ¬ (∀ (n : Nat) (fs : List Fetch) (s : State), s.startable n 0x12 = none → False) ∧
    ¬ (∀ (n : Nat) (fs : List Fetch) (s : State), s.startable n 0x11 = none → False) :=
  ⟨fun h => h 20 (access (daDesc 0x10 (2 ^ 36 - 32) 32)) (daDesc 0x10 (2 ^ 36 - 32) 32) (by decide +kernel),
    fun h => h 20 (access (daDesc 0x12 8 32)) (daDesc 0x12 8 32) (by decide +kernel),
    fun h => h 20 [] (access (daDesc 0x11 (2 ^ 36) 32)) (daDesc 0x11 (2 ^ 36) 32) 0x0013 (by decide +kernel) (by decide +kernel),
    fun h => by
      refine h 20 [.ok []] (access (daDesc 0x11 0 32)) (daDesc 0x11 0 32) ?_ ?_ ?_ <;> decide +kernel,
    fun h => h 0 [] svc (by decide +kernel),
    fun h => h 0 [] svc (by decide +kernel),
    fun h => h 0 [] svc (by decide +kernel)⟩

/-- States and operands that meet the hypotheses of SpansRunAndComplete. -/
theorem test_meets_SpansRunAndComplete :
    ¬ (∀ (n : Nat) (s : State) (d : Desc), s.startable n 0x20 = some d → False) ∧
    ¬ (∀ (ch : Nat) (s : State) (r : RunRec) (rest : List RunRec), (s.chan ch).runs = r :: rest → False) ∧
    ¬ (∀ (ch : Nat) (s : State), (s.chan ch).state = .starting → (s.chan ch).waitGroup = false → (s.chan ch).seq.ts ≤ s.now → False) ∧
    ¬ (∀ (n ch : Nat) (s : State), s.startable n 0x20 = none → False) ∧
    ¬ (∀ (n ch : Nat) (s : State), (s.chan ch).runs = [] → False) ∧
    ¬ (∀ (n ch : Nat) (s : State), (s.chan ch).state ≠ .starting ∨ (s.chan ch).waitGroup = true ∨ s.now < (s.chan ch).seq.ts → False) :=
  ⟨fun h => h 20 (withCtx 20 { state := .enabled, cls := 1, chan := 3, acc := [(descOf 0x20 [1, 0, 0, 0, 0, 0])] } (slotSt 0)) (descOf 0x20 [1, 0, 0, 0, 0, 0]) (by decide +kernel),
    fun h => h 3 (withCtx 20 { state := .enabled, cls := 1, chan := 3, acc := [{ descOf 0x20 [1, 0, 0, 0, 0, 0] with phase := .started }] } (withCh 3 { slotChan 0 with runs := [⟨20, 1, 0, 0, false⟩] } svc)) ⟨20, 1, 0, 0, false⟩ [] (by decide +kernel),
    fun h => by
      refine h 3 (withCh 3 { slotChan 0 with state := .starting } svc) ?_ ?_ ?_ <;> decide +kernel,
    fun h => h 0 0 svc (by decide +kernel),
    fun h => h 0 0 svc (by decide +kernel),
    fun h => h 0 0 svc (by decide +kernel)⟩

/-- States and operands that meet the hypotheses of FunctionsStartAndStop. -/
theorem test_meets_FunctionsStartAndStop :
    ¬ (∀ (n : Nat) (f : Fetch) (x : Bool) (k : List Nat) (s : State) (d : Desc), s.startedOp n 0x40 = none → s.startable n 0x40 = some d → s.hostUp = true → s.firstLoad d = true → False) ∧
    ¬ (∀ (n : Nat) (f : Fetch) (x : Bool) (k : List Nat) (s : State) (d : Desc) (img : Image) (b : List Byte), s.startedOp n 0x40 = some d → s.hostUp = true → parseImage s.checkEnv.open_ d.staged (d.u32 0x18) = .ok img → fetchData f = some b → secondBad b img.entries = none → (∀ y ∈ img.chans, s.checkEnv.retest y = none) → False) ∧
    ¬ (∀ (n : Nat) (b : Bool) (s : State) (d : Desc), s.startable n 0x41 = some d → False) ∧
    ¬ (∀ (n : Nat) (s : State) (d : Desc), s.startable n 0x42 = some d → False) ∧
    ¬ (∀ (ch : Nat) (s : State), (s.chan ch).state = .stopping → (s.chan ch).seq.stopAt.isSome → (s.chan ch).refr.makeup = [] → (s.chan ch).cap.merges = [] → (s.chan ch).flights = [] → (s.chan ch).src.empty = true → (∀ x ∈ (s.chan ch).src.handed, x.1 ≤ s.now) → (s.chan ch).cap.fwds = [] → (s.chan ch).retirePend = false → (s.chan ch).held = none → False) ∧
    ¬ (∀ (ch : Nat) (s : State), (s.chan ch).state ≠ .stopping ∨ (s.chan ch).seq.stopAt = none → False) ∧
    ¬ (∀ (ch : Nat) (s : State), (s.chan ch).state = .stopping → (s.chan ch).flights ≠ [] → False) :=
  ⟨fun h => by
      refine h 0 (.ok imageBytes) false [] (admin (descOf 0x40 [0, 504, 0, 0, 0, 0])) (descOf 0x40 [0, 504, 0, 0, 0, 0]) ?_ ?_ ?_ ?_ <;> decide +kernel,
    fun h => by
      refine h 0 (.ok imageBytes) false [] (admin ({ descOf 0x40 [0, 504, 0, 0, 0, 0] with phase := .started, staged := imageBytes })) ({ descOf 0x40 [0, 504, 0, 0, 0, 0] with phase := .started, staged := imageBytes }) (okD default (parseImage (admin ({ descOf 0x40 [0, 504, 0, 0, 0, 0] with phase := .started, staged := imageBytes })).checkEnv.open_ imageBytes 504)) imageBytes ?_ ?_ (okOf ?_) ?_ ?_ ?_ <;> decide +kernel,
    fun h => h 0 false (withCh 3 { slotChan 0 with state := .stopped } (admin (descOf 0x41 [3, 0, 0, 0, 0, 0]))) (descOf 0x41 [3, 0, 0, 0, 0, 0]) (by decide +kernel),
    fun h => h 0 (withCh 3 (slotChan 0) (admin (descOf 0x42 [3, 0, 0, 0, 0, 0]))) (descOf 0x42 [3, 0, 0, 0, 0, 0]) (by decide +kernel),
    fun h => by
      refine h 3 (withCh 3 { slotChan 0 with state := .stopping, seq := { (slotChan 0).seq with stopAt := some 4 } } svc) ?_ ?_ ?_ ?_ ?_ ?_ ?_ ?_ ?_ ?_ <;> decide +kernel,
    fun h => h 0 svc (by decide +kernel),
    fun h => h 3 (withCh 3 { slotChan 0 with state := .stopping, flights := [{ addr := 0, issue := 5, reader := .bind 0 }] } svc) (by decide +kernel) (by decide +kernel)⟩

/-- States and operands that meet the hypotheses of ContextsChangeState. -/
theorem test_meets_ContextsChangeState :
    ¬ (∀ (n : Nat) (s : State) (d : Desc), s.startable n 0x43 = some d → False) ∧
    ¬ (∀ (n : Nat) (s : State) (d : Desc), s.startable n 0x44 = some d → False) ∧
    ¬ (∀ (n : Nat) (s : State) (d : Desc), s.startable n 0x45 = some d → s.hostUp = true → False) ∧
    ¬ (∀ (n : Nat) (s : State), s.startable n 0x43 = none → False) ∧
    ¬ (∀ (n : Nat) (s : State), s.startable n 0x44 = none → False) ∧
    ¬ (∀ (n : Nat) (s : State), s.startable n 0x45 = none ∨ s.hostUp = false → False) :=
  ⟨fun h => h 0 (admin (descOf 0x43 [20, 5, 0, 0, pairOf (4 + 2 * 16), pairOf 1])) (descOf 0x43 [20, 5, 0, 0, pairOf (4 + 2 * 16), pairOf 1]) (by decide +kernel),
    fun h => h 0 { (admin (descOf 0x44 [20, 0, 0, 0, 0, 0])) with ctxs := [(0, { state := .enabled, acc := [(descOf 0x44 [20, 0, 0, 0, 0, 0])] }), (20, { state := .halted, cls := 1, chan := 3 })] } (descOf 0x44 [20, 0, 0, 0, 0, 0]) (by decide +kernel),
    fun h => h 0 (admin (descOf 0x45 [4095, 128, 0, 0, 0, 0])) (descOf 0x45 [4095, 128, 0, 0, 0, 0]) (by decide +kernel) (by decide +kernel),
    fun h => h 0 svc (by decide +kernel),
    fun h => h 0 svc (by decide +kernel),
    fun h => h 0 svc (by decide +kernel)⟩

/-- States and operands that meet the hypotheses of DoorbellsAndDescriptors. -/
theorem test_meets_DoorbellsAndDescriptors :
    ¬ (∀ (n : Nat) (s : State), s.host.dbBase ≠ 0 → s.hostUp = true → False) ∧
    ¬ (∀ (s : State), s.host.dbBase ≠ 0 → s.hostUp = true → False) ∧
    ¬ (∀ (s : State), s.host.pollEn = true → s.host.lastPoll + s.host.pollUs * 1600 ≤ s.now → False) ∧
    ¬ (∀ (n : Nat) (pi : Word) (s : State), s.hostUp = true → s.host.dbBase ≠ 0 → n ∈ s.host.readReq → s.entryServed n = true → False) ∧
    ¬ (∀ (n : Nat) (pi c : Word) (s : State), s.hostUp = true → s.host.dbBase ≠ 0 → n ∈ s.host.readReq → s.entryServed n = true → c ≠ ~~~pi → False) ∧
    ¬ (∀ (n : Nat) (pi c : Word) (s : State), s.hostUp = true → s.host.dbBase ≠ 0 → n ∈ s.host.readReq → s.entryServed n = true → False) ∧
    ¬ (∀ (n : Nat) (b : List Byte) (s : State), s.examines n = true → s.adminFirst n = false → isComp 64 (headOf b) (headComp b) = true → False) ∧
    ¬ (∀ (n : Nat) (b : List Byte) (s : State), s.examines n = true → s.adminFirst n = false → isComp 64 (headOf b) (headComp b) = false → False) ∧
    ¬ (∀ (n : Nat) (b : List Byte) (s : State), s.examines n = true → s.adminFirst n = false → False) ∧
    ¬ (∀ (n : Nat) (b : List Byte) (s : State) (due : Nat), s.hostUp = true → (s.ctx n).state = .enabled → (s.ctx n).refetch = some due → due ≤ s.now → False) ∧
    ¬ (∀ (n q : Nat) (s : State), s.hostUp = true → (∃ j ∈ s.journal, j.ctx = n ∧ j.seq = q) → (∀ d ∈ (s.ctx n).acc, d.seq ≠ q) → False) ∧
    ¬ (∀ (n : Nat) (s : State), s.hostUp = true → (s.ctx n).irqEn = true → 0 < (s.ctx n).unsent → (s.ctx n).unsentSince + 6400 ≤ s.now → False) ∧
    ¬ (∀ (n : Nat) (s : State), s.host.dbBase = 0 ∨ s.hostUp = false → False) ∧
    ¬ (∀ (n : Nat) (s : State), s.host.pollEn = false ∨ s.now < s.host.lastPoll + s.host.pollUs * 1600 → False) ∧
    ¬ (∀ (n : Nat) (s : State), s.hostUp = false → ∀ (q : Nat), False) ∧
    ¬ (∀ (n : Nat) (s : State), (s.ctx n).irqEn = false ∨ (s.ctx n).unsent = 0 ∨ s.now < (s.ctx n).unsentSince + 6400 → False) ∧
    ¬ (∀ (n : Nat) (s : State), ∀ (b : List Byte) (x : Bool), s.examines n = false ∨ s.adminFirst n = true → False) ∧
    ¬ (∀ (n : Nat) (s : State), ∀ (b : List Byte), (s.ctx n).refetch = none → False) :=
  ⟨fun h => h 0 svc (by decide +kernel) (by decide +kernel),
    fun h => h svc (by decide +kernel) (by decide +kernel),
    fun h => h ({ svc with host := { svc.host with pollEn := true, lastPoll := 2 * 10 ^ 9 - 1600000 } }) (by decide +kernel) (by decide +kernel),
    fun h => by
      refine h 20 16#32 (withCtx 20 { state := .enabled, cls := 2, ringLog2 := 4 } { svc with host := { svc.host with readReq := [20] } }) ?_ ?_ ?_ ?_ <;> decide +kernel,
    fun h => by
      refine h 20 16#32 0#32 (withCtx 20 { state := .enabled, cls := 2, ringLog2 := 4 } { svc with host := { svc.host with readReq := [20] } }) ?_ ?_ ?_ ?_ ?_ <;> decide +kernel,
    fun h => by
      refine h 20 16#32 0#32 (withCtx 20 { state := .enabled, cls := 2, ringLog2 := 4 } { svc with host := { svc.host with readReq := [20] } }) ?_ ?_ ?_ ?_ <;> decide +kernel,
    fun h => by
      refine h 20 (leBytes 8 7 ++ leBytes 8 (2 ^ 64 - 8)) (withCtx 20 { state := .enabled, cls := 2, ringLog2 := 4, pi := 1, fetched := 1, nextSeq := 7 } svc) ?_ ?_ ?_ <;> decide +kernel,
    fun h => by
      refine h 20 (leBytes 16 0) (withCtx 20 { state := .enabled, cls := 2, ringLog2 := 4, pi := 1, fetched := 1, nextSeq := 7 } svc) ?_ ?_ ?_ <;> decide +kernel,
    fun h => h 20 (leBytes 8 7 ++ leBytes 8 (2 ^ 64 - 8)) (withCtx 20 { state := .enabled, cls := 2, ringLog2 := 4, pi := 1, fetched := 1, nextSeq := 7 } svc) (by decide +kernel) (by decide +kernel),
    fun h => by
      refine h 20 (leBytes 8 7 ++ leBytes 8 (2 ^ 64 - 8)) (withCtx 20 { state := .enabled, cls := 2, ringLog2 := 4, pi := 1, fetched := 1, nextSeq := 7, refetch := some (2 * 10 ^ 9) } svc) (2 * 10 ^ 9) ?_ ?_ ?_ ?_ <;> decide +kernel,
    fun h => by
      refine h 20 7 ({ svc with journal := [{ ctx := 20, seq := 7, idx := 0, ring := 0, ringLog2 := 4, w0 := 0, w1 := 0 }] }) ?_ ?_ ?_ <;> decide +kernel,
    fun h => by
      refine h 20 (withCtx 20 { irqEn := true, unsent := 1, unsentSince := 2 * 10 ^ 9 - 6400 } svc) ?_ ?_ ?_ ?_ <;> decide +kernel,
    fun h => h 0 State.reset (by decide +kernel),
    fun h => h 0 State.reset (by decide +kernel),
    fun h => h 0 State.reset (by decide +kernel) 0,
    fun h => h 0 State.reset (by decide +kernel),
    fun h => h 0 svc [] false (by decide +kernel),
    fun h => h 0 State.reset [] (by decide +kernel)⟩

/-- States and operands that meet the hypotheses of TablesAndFuses. -/
theorem test_meets_TablesAndFuses :
    ¬ (∀ (n : Nat) (f : Fetch) (s : State) (d : Desc), s.startable n 0x48 = some d → let k := d.u32 0x18
    (d.u64 0x10 % 16 ≠ 0 ∨ isComp 32 k (d.u32 0x1C) = false ∨ k = 0 ∨ 256 < k ∨ d.zero 0x20 0x40 = false) → False) ∧
    ¬ (∀ (n : Nat) (r v : Bool) (s : State) (d : Desc), s.startable n 0x49 = some d → s.otp.burn = none → False) ∧
    ¬ (∀ (n : Nat) (f : Fetch) (r v : Bool) (s : State), s.startable n 0x48 = none → False) ∧
    ¬ (∀ (n : Nat) (f : Fetch) (r v : Bool) (s : State), s.startable n 0x49 = none ∨ s.otp.burn.isSome → False) :=
  ⟨fun h => h 0 (.ok (pairBytes [0x100, 0])) (admin (descOf 0x48 [0, 0, 0, 0, 0, 0])) (descOf 0x48 [0, 0, 0, 0, 0, 0]) (by decide +kernel) (by decide +kernel),
    fun h => h 0 true true { (admin (descOf 0x49 [pairOf 256, pairOf 1, 0, 0, 0, 0])) with thm := { svc.thm with sensors := [(64, { temp := 760 })] } } (descOf 0x49 [pairOf 256, pairOf 1, 0, 0, 0, 0]) (by decide +kernel) (by decide +kernel),
    fun h => h 0 .failed false false svc (by decide +kernel),
    fun h => h 0 .failed false false svc (by decide +kernel)⟩

/-- States and operands that meet the hypotheses of FirmwareLoads. -/
theorem test_meets_FirmwareLoads :
    ¬ (∀ (n : Nat) (f : Fetch) (s : State) (d : Desc), s.startable n 0x4B = some d → (∀ q, s.hoop.load ≠ some (n, q, 0)) → False) ∧
    ¬ (∀ (n : Nat) (f : Fetch) (s : State) (d : Desc) (q : Nat), s.startedOp n 0x4B = some d → s.hoop.load = some (n, q, 0) → s.hostUp = true → s.hoop.running = true → False) ∧
    ¬ (∀ (s : State) (n q due : Nat), s.hoop.load = some (n, q, due) → 0 < due → due ≤ s.now → s.hoop.running = false → False) ∧
    ¬ (∀ (s : State), s.hoop.load = none ∨ s.hoop.running = true → False) :=
  ⟨fun h => h 0 .failed (admin (descOf 0x4B [0, pairOf 64, pairOf 0, 0, 0, 0])) (descOf 0x4B [0, pairOf 64, pairOf 0, 0, 0, 0]) (by decide +kernel) (fun q h => by have k : (none : Option (Nat × Nat × Nat)) = some (0, q, 0) := h; cases k),
    fun h => by
      refine h 0 (.ok (pairBytes [0x484F4F50, 3, 64, 0, 0, 0, 0, 0])) { admin ({ descOf 0x4B [0, pairOf 64, pairOf (crc32c (pairBytes [0x484F4F50, 3, 64, 0, 0, 0, 0, 0])).toNat, 0, 0, 0] with phase := .started }) with hoop := { svc.hoop with load := some (0, 1, 0) } } ({ descOf 0x4B [0, pairOf 64, pairOf (crc32c (pairBytes [0x484F4F50, 3, 64, 0, 0, 0, 0, 0])).toNat, 0, 0, 0] with phase := .started }) 1 ?_ ?_ ?_ ?_ <;> decide +kernel,
    fun h => by
      refine h { admin ({ descOf 0x4B [0, pairOf 64, pairOf 0, 0, 0, 0] with phase := .started }) with hoop := { svc.hoop with running := false, load := some (0, 1, 2 * 10 ^ 9) } } 0 1 (2 * 10 ^ 9) ?_ ?_ ?_ ?_ <;> decide +kernel,
    fun h => h svc (by decide +kernel)⟩

/-- States and operands that meet the hypotheses of PowerRequests. -/
theorem test_meets_PowerRequests :
    ¬ (∀ (n : Nat) (s : State) (d : Desc), s.startable n 0x4A = some d → parseRequest n d = none → False) ∧
    ¬ (∀ (n : Nat) (s : State) (d : Desc) (c : PwrChange), s.startable n 0x4A = some d → parseRequest n d = some c → s.pwr.change.isSome ∨ s.pwr.pendingReq.isSome → False) ∧
    ¬ (∀ (n : Nat) (s : State) (d : Desc) (c : PwrChange), s.startable n 0x4A = some d → parseRequest n d = some c → s.pwr.change = none → s.pwr.pendingReq = none → False) ∧
    ¬ (∀ (s : State) (c : PwrChange), s.pwr.change = none → s.pwr.pendingReq = some c → False) ∧
    ¬ (∀ (n : Nat) (s : State), s.startable n 0x4A = none → False) ∧
    ¬ (∀ (n : Nat) (s : State), s.pwr.change.isSome ∨ s.pwr.pendingReq = none → False) :=
  ⟨fun h => h 0 (admin (descOf 0x4A [0, 0, 0, 0, 0, 0])) (descOf 0x4A [0, 0, 0, 0, 0, 0]) (by decide +kernel) (by decide +kernel),
    fun h => by
      refine h 0 (inPwr (fun p => { p with change := some { target := .service } }) (admin (descOf 0x4A [pairOf 3, 0, 0, 0, 0, 0]))) (descOf 0x4A [pairOf 3, 0, 0, 0, 0, 0]) ((parseRequest 0 (descOf 0x4A [pairOf 3, 0, 0, 0, 0, 0])).getD { target := .safe }) ?_ (optOf ?_) ?_ <;> decide +kernel,
    fun h => by
      refine h 0 (admin (descOf 0x4A [pairOf 3, 0, 0, 0, 0, 0])) (descOf 0x4A [pairOf 3, 0, 0, 0, 0, 0]) ((parseRequest 0 (descOf 0x4A [pairOf 3, 0, 0, 0, 0, 0])).getD { target := .safe }) ?_ (optOf ?_) ?_ ?_ <;> decide +kernel,
    fun h => h (inPwr (fun p => { p with pendingReq := some { target := .retention } }) svc) { target := .retention } (by decide +kernel) (by decide +kernel),
    fun h => h 0 svc (by decide +kernel),
    fun h => h 0 svc (by decide +kernel)⟩

/-- States and operands that meet the hypotheses of BringUpAdvances. -/
theorem test_meets_BringUpAdvances :
    ¬ (∀ (x : Straps) (s : State), s.pwr.mode = .bringUp → s.pwr.step = 0 → False) ∧
    ¬ (∀ (r : List (Nat × OtpReads)) (h : Bool) (s : State), s.pwr.mode = .bringUp → s.pwr.step = 1 → False) ∧
    ¬ (∀ (s : State), s.pwr.mode = .bringUp → s.pwr.step = 2 → False) ∧
    ¬ (∀ (w : List (Nat × List EyeRes)) (g : List (Nat × Nat × Nat)) (c : List BankCheck) (b : SaveReads) (s : State), s.pwr.mode = .bringUp → s.pwr.step = 3 → False) ∧
    ¬ (∀ (k : Nat) (s : State), s.pwr.mode = .bringUp → k = s.pwr.step + 1 → k ≤ 4 → False) ∧
    ¬ (∀ (k : Nat) (s : State), s.pwr.mode = .bringUp → s.pwr.step + 1 < k → k ≤ 4 → False) ∧
    ¬ (∀ (s : State), s.pwr.mode = .bringUp → s.bringUpDone = true → False) ∧
    ¬ (∀ (x : Straps) (y : Bool) (r : List (Nat × OtpReads)) (h : Bool) (w : List (Nat × List EyeRes)) (g : List (Nat × Nat × Nat)) (c : List BankCheck) (b : SaveReads) (s : State), s.pwr.mode ≠ .bringUp ∨ s.pwr.step ≠ 0 ∨ y = false → False) ∧
    ¬ (∀ (x : Straps) (y : Bool) (r : List (Nat × OtpReads)) (h : Bool) (w : List (Nat × List EyeRes)) (g : List (Nat × Nat × Nat)) (c : List BankCheck) (b : SaveReads) (s : State), s.pwr.mode ≠ .bringUp ∨ s.pwr.step ≠ 1 ∨ y = false → False) ∧
    ¬ (∀ (x : Straps) (y : Bool) (r : List (Nat × OtpReads)) (h : Bool) (w : List (Nat × List EyeRes)) (g : List (Nat × Nat × Nat)) (c : List BankCheck) (b : SaveReads) (s : State), s.pwr.mode ≠ .bringUp ∨ s.pwr.step ≠ 2 ∨ y = false → False) ∧
    ¬ (∀ (x : Straps) (y : Bool) (r : List (Nat × OtpReads)) (h : Bool) (w : List (Nat × List EyeRes)) (g : List (Nat × Nat × Nat)) (c : List BankCheck) (b : SaveReads) (s : State), s.pwr.mode ≠ .bringUp ∨ s.pwr.step ≠ 3 ∨ y = false → False) :=
  ⟨fun h => h ⟨0, 0, 0, 0, 0, true⟩ State.reset (by decide +kernel) (by decide +kernel),
    fun h => h [] false (inPwr (fun p => { p with mode := .bringUp, step := 1 }) svc) (by decide +kernel) (by decide +kernel),
    fun h => h (inPwr (fun p => { p with mode := .bringUp, step := 2 }) svc) (by decide +kernel) (by decide +kernel),
    fun h => h [] [] [] ⟨[], [], [], [], [], [], false, []⟩ (inPwr (fun p => { p with mode := .bringUp, step := 3 }) svc) (by decide +kernel) (by decide +kernel),
    fun h => by
      refine h 4 (inPwr (fun p => { p with mode := .bringUp, step := 3 }) svc) ?_ ?_ ?_ <;> decide +kernel,
    fun h => by
      refine h 4 (inPwr (fun p => { p with mode := .bringUp, step := 2 }) svc) ?_ ?_ ?_ <;> decide +kernel,
    fun h => h { (inPwr (fun p => { p with mode := .bringUp, step := 4 }) svc) with tor := { svc.tor with isRoot := true } } (by decide +kernel) (by decide +kernel),
    fun h => h ⟨0, 0, 0, 0, 0, true⟩ false [] false [] [] [] ⟨[], [], [], [], [], [], false, []⟩ svc (by decide +kernel),
    fun h => h ⟨0, 0, 0, 0, 0, true⟩ false [] false [] [] [] ⟨[], [], [], [], [], [], false, []⟩ svc (by decide +kernel),
    fun h => h ⟨0, 0, 0, 0, 0, true⟩ false [] false [] [] [] ⟨[], [], [], [], [], [], false, []⟩ svc (by decide +kernel),
    fun h => h ⟨0, 0, 0, 0, 0, true⟩ false [] false [] [] [] ⟨[], [], [], [], [], [], false, []⟩ svc (by decide +kernel)⟩

/-- States and operands that meet the hypotheses of ModeChangesComplete. -/
theorem test_meets_ModeChangesComplete :
    ¬ (∀ (s : State) (c : PwrChange), s.pwr.change = some c → c.phase = 0 → s.hoop.running = true → c.target = .service → False) ∧
    ¬ (∀ (s : State) (c : PwrChange), s.pwr.change = some c → c.phase = 0 → s.hoop.running = true → c.target = .maintenance → s.quiet = true → False) ∧
    ¬ (∀ (s : State) (c : PwrChange), s.pwr.change = some c → c.phase = 0 → s.hoop.running = true → c.target = .retention → s.quiet = true → s.nonAdminDone = true → False) ∧
    ¬ (∀ (k : List BankCheck) (w : List (Nat × MaintIn)) (b : List (Nat × Nat)) (s : State) (c : PwrChange), s.pwr.avs = none → s.pwr.change = some c → s.pwr.mode = .retention → c.target = .service → s.pwr.point ≠ 2 → (∀ ch ∈ s.served, (s.chan ch).reg.gapAt + 3200 ≤ s.now) → False) ∧
    ¬ (∀ (s : State), s.pwr.mode = .retention → s.pwr.wakeTimer ≠ 0 → s.pwr.retEntry + s.pwr.wakeTimer * 2 ^ 26 ≤ s.now → False) ∧
    ¬ (∀ (p : Path) (s : State), p ≠ .bar2 → s.pwr.mode = .retention → (s.pwr.wakePath p).1 = true → s.pwr.change = none → s.pwr.pendingReq = none → False) ∧
    ¬ (∀ (p : Path) (s : State), p ≠ .bar2 → s.pwr.mode ≠ .retention ∨ (s.pwr.wakePath p).1 = false → False) ∧
    ¬ (∀ (p : Path) (s : State), p ≠ .bar2 → s.pwr.mode = .safe → (s.pwr.wakePath p).1 = true → s.causeActive = false → s.pwr.change = none → s.pwr.pendingReq = none → False) ∧
    ¬ (∀ (p : Path) (s : State), p ≠ .bar2 → s.pwr.mode ≠ .safe ∨ (s.pwr.wakePath p).1 = false → False) ∧
    ¬ (∀ (k : List BankCheck) (s : State) (c : PwrChange), s.pwr.avs = none → s.pwr.change = some c → s.pwr.mode = .safe → c.target = .service → s.pwr.point ≠ 2 → False) ∧
    ¬ (∀ (s : State) (x : Bool), s.pwr.change = none ∨ x = true ∨ s.hoop.running = false → False) ∧
    ¬ (∀ (s : State) (x : Bool), s.pwr.mode ≠ .retention ∨ s.pwr.wakeTimer = 0 ∨ s.now < s.pwr.retEntry + s.pwr.wakeTimer * 2 ^ 26 → False) ∧
    ¬ (∀ (s : State) (x : Bool), ∀ (k : List BankCheck) (w : List (Nat × MaintIn)) (b : List (Nat × Nat)), s.pwr.avs = none → s.pwr.change = none → False) :=
  ⟨fun h => by
      refine h (inPwr (fun p => { p with mode := .service, change := some { target := .service, phase := 0 } }) svc) { target := .service, phase := 0 } ?_ ?_ ?_ ?_ <;> decide +kernel,
    fun h => by
      refine h (inPwr (fun p => { p with mode := .service, change := some { target := .maintenance, phase := 0 } }) svc) { target := .maintenance, phase := 0 } ?_ ?_ ?_ ?_ ?_ <;> decide +kernel,
    fun h => by
      refine h (inPwr (fun p => { p with mode := .service, change := some { target := .retention, phase := 0 } }) svc) { target := .retention, phase := 0 } ?_ ?_ ?_ ?_ ?_ ?_ <;> decide +kernel,
    fun h => by
      refine h [] [] [] (inPwr (fun p => { p with mode := .retention, change := some { target := .service, phase := 1 } }) svc) { target := .service, phase := 1 } ?_ ?_ ?_ ?_ ?_ ?_ <;> decide +kernel,
    fun h => by
      refine h (inPwr (fun p => { p with mode := .retention, wakeTimer := 1 }) svc) ?_ ?_ ?_ <;> decide +kernel,
    fun h => by
      refine h .smbus (inPwr (fun p => { p with mode := .retention }) svc) ?_ ?_ ?_ ?_ ?_ <;> decide +kernel,
    fun h => h .bar0 svc (by decide +kernel) (by decide +kernel),
    fun h => by
      refine h .bar0 (inPwr (fun p => { p with mode := .safe }) svc) ?_ ?_ ?_ ?_ ?_ ?_ <;> decide +kernel,
    fun h => h .bar0 svc (by decide +kernel) (by decide +kernel),
    fun h => by
      refine h [] (inPwr (fun p => { p with mode := .safe, change := some { target := .service, phase := 1 } }) svc) { target := .service, phase := 1 } ?_ ?_ ?_ ?_ ?_ <;> decide +kernel,
    fun h => h svc false (by decide +kernel),
    fun h => h svc false (by decide +kernel),
    fun h => h svc false [] [] [] (by decide +kernel) (by decide +kernel)⟩

/-- States and operands that meet the hypotheses of VoltageChanges. -/
theorem test_meets_VoltageChanges :
    ¬ (∀ (mv : Nat) (s : State) (a : Avs), s.pwr.avs = some a → a.confirmed = none → s.pwr.lastAvs + 16000 ≤ s.now → mv ≤ a.target + 10 → a.target ≤ mv + 10 → False) ∧
    ¬ (∀ (mv : Nat) (s : State) (a : Avs), s.pwr.avs = some a → a.confirmed = none → s.pwr.lastAvs + 16000 ≤ s.now → a.target + 10 < mv ∨ mv + 10 < a.target → False) ∧
    ¬ (∀ (mv : Nat) (s : State) (a : Avs), s.pwr.avs = some a → a.confirmed = none → s.pwr.lastAvs + 16000 ≤ s.now → s.pwr.change = none → False) ∧
    ¬ (∀ (s : State) (a : Avs), s.pwr.avs = some a → a.confirmed = none → a.start + 1600000 ≤ s.now → s.pwr.change = none → False) ∧
    ¬ (∀ (x : Bool) (mv : Nat) (s : State), s.pwr.avs = none → False) :=
  ⟨fun h => by
      refine h 790 (inPwr (fun p => { p with avs := some { target := 800, prev := 750, point := 1, start := 5 } }) svc) { target := 800, prev := 750, point := 1, start := 5 } ?_ ?_ ?_ ?_ ?_ <;> decide +kernel,
    fun h => by
      refine h 789 (inPwr (fun p => { p with avs := some { target := 800, prev := 750, point := 1, start := 5 } }) svc) { target := 800, prev := 750, point := 1, start := 5 } ?_ ?_ ?_ ?_ <;> decide +kernel,
    fun h => by
      refine h 0 (inPwr (fun p => { p with avs := some { target := 800, prev := 750, point := 1, start := 5 } }) svc) { target := 800, prev := 750, point := 1, start := 5 } ?_ ?_ ?_ ?_ <;> decide +kernel,
    fun h => by
      refine h (inPwr (fun p => { p with avs := some { target := 800, prev := 750, point := 1, start := 5 } }) svc) { target := 800, prev := 750, point := 1, start := 5 } ?_ ?_ ?_ ?_ <;> decide +kernel,
    fun h => h false 0 svc (by decide +kernel)⟩

/-- States and operands that meet the hypotheses of SavePathsRun. -/
theorem test_meets_SavePathsRun :
    ¬ (∀ (c : SaveCause) (s : State), s.pwr.mode ≠ .save → False) ∧
    ¬ (∀ (s : State), s.pwr.mode = .save → s.pwr.trigger ≠ 0 → s.pwr.image.marker = 1 → s.pwr.lostPower = false → False) ∧
    ¬ (∀ (k : List BankCheck) (s : State), s.pwr.mode = .save → s.pwr.image.marker = 2 → s.pwr.lostPower = false → s.pwr.trigger ≠ 0 → s.pwr.trigger ≠ 4 → s.pwr.committedAt + 16000000 ≤ s.now → False) ∧
    ¬ (∀ (s : State), s.pwr.mode = .save → False) ∧
    ¬ (∀ (s : State), s.pwr.dramWatch = true → False) ∧
    ¬ (∀ (dv esr mv : Nat) (s : State), s.pwr.mode ≠ .save → s.pwr.step ≠ 0 → (if s.pwr.lastCharge = none then 11400 ≤ mv else s.pwr.lastCharge.getD 0 + 138240000000000 ≤ s.now) → False) ∧
    ¬ (∀ (s : State), s.pwr.mode ≠ .save → s.pwr.step ≠ 0 → s.pwr.lastCharge = none → s.pwr.chargeFailed = false → s.pwr.stepOne + 8000000000 ≤ s.now → False) ∧
    ¬ (∀ (c : SaveCause) (k : List BankCheck) (s : State), s.pwr.mode = .save → False) ∧
    ¬ (∀ (c : SaveCause) (k : List BankCheck) (s : State), s.pwr.mode ≠ .save → False) ∧
    ¬ (∀ (c : SaveCause) (k : List BankCheck) (s : State), s.pwr.dramWatch = false → False) :=
  ⟨fun h => h .ready svc (by decide +kernel),
    fun h => by
      refine h (inPwr (fun p => { p with mode := .save, trigger := 1, image := { p.image with marker := 1 } }) svc) ?_ ?_ ?_ ?_ <;> decide +kernel,
    fun h => by
      refine h [] (inPwr (fun p => { p with mode := .save, trigger := 1, image := { p.image with marker := 2 } }) svc) ?_ ?_ ?_ ?_ ?_ ?_ <;> decide +kernel,
    fun h => h (inPwr (fun p => { p with mode := .save, trigger := 1, image := { p.image with marker := 1 } }) svc) (by decide +kernel),
    fun h => h (inPwr (fun p => { p with dramWatch := true }) svc) (by decide +kernel),
    fun h => by
      refine h 1250 50 11400 svc ?_ ?_ ?_ <;> decide +kernel,
    fun h => by
      refine h ({ svc with now := 8 * 10 ^ 9 }) ?_ ?_ ?_ ?_ ?_ <;> decide +kernel,
    fun h => h .ready [] (inPwr (fun p => { p with mode := .save, trigger := 1, image := { p.image with marker := 1 } }) svc) (by decide +kernel),
    fun h => h .ready [] svc (by decide +kernel),
    fun h => h .ready [] svc (by decide +kernel)⟩

/-- States and operands that meet the hypotheses of ResetsRun. -/
theorem test_meets_ResetsRun :
    ¬ (∀ (s : State), s.pwr.mode ≠ .save → False) ∧
    ¬ (∀ (x : WarmSrc) (s : State), s.pwr.mode ≠ .save → s.warmDue x = true → False) ∧
    ¬ (∀ (s : State) (due : Nat), s.hoop.warmEnd = some due → due ≤ s.now → False) ∧
    ¬ (∀ (s : State), s.pwr.mode ≠ .save → 2 ≤ s.pwr.step → False) ∧
    ¬ (∀ (s : State), s.hoop.running = false → s.pwr.mode ≠ .save → 2 ≤ s.pwr.step → False) ∧
    ¬ (∀ (x : WarmSrc) (s : State), s.pwr.mode = .save → False) ∧
    ¬ (∀ (x : WarmSrc) (s : State), s.warmDue x = false → False) ∧
    ¬ (∀ (x : WarmSrc) (s : State), s.hoop.warmEnd = none → False) ∧
    ¬ (∀ (x : WarmSrc) (s : State), s.hoop.running = true → False) :=
  ⟨fun h => h svc (by decide +kernel),
    fun h => h .perst svc (by decide +kernel) (by decide +kernel),
    fun h => h ({ svc with hoop := { svc.hoop with warmEnd := some 5 } }) 5 (by decide +kernel) (by decide +kernel),
    fun h => h svc (by decide +kernel) (by decide +kernel),
    fun h => by
      refine h ({ svc with hoop := { svc.hoop with running := false } }) ?_ ?_ ?_ <;> decide +kernel,
    fun h => h .perst (inPwr (fun p => { p with mode := .save, trigger := 1, image := { p.image with marker := 1 } }) svc) (by decide +kernel),
    fun h => h .devRst svc (by decide +kernel),
    fun h => h .perst svc (by decide +kernel),
    fun h => h .perst svc (by decide +kernel)⟩

/-- States and operands that meet the hypotheses of HostLinkFallsAndRecovers. -/
theorem test_meets_HostLinkFallsAndRecovers :
    ¬ (∀ (s : State), s.pwr.mode ≠ .save → s.tor.pcieEn = true → False) ∧
    ¬ (∀ (k : List (Nat × Nat)) (s : State), s.pwr.mode ≠ .save → s.tor.pcieEn = true → s.hoop.warmEnd = none → 4 ≤ s.pwr.step → False) ∧
    ¬ (∀ (s : State), s.tor.pcieEn = true → False) ∧
    ¬ (∀ (s : State), s.pwr.mode ≠ .save → False) ∧
    ¬ (∀ (k : List (Nat × Nat)) (s : State), s.tor.pcieEn = false → False) :=
  ⟨fun h => h svc (by decide +kernel) (by decide +kernel),
    fun h => by
      refine h [] svc ?_ ?_ ?_ ?_ <;> decide +kernel,
    fun h => h svc (by decide +kernel),
    fun h => h svc (by decide +kernel),
    fun h => h [] ({ svc with tor := { svc.tor with pcieEn := false } }) (by decide +kernel)⟩

/-- States and operands that meet the hypotheses of FaultLogActions. -/
theorem test_meets_FaultLogActions :
    ¬ (∀ (p : Path) (k : List Nat) (s : State), p ≠ .bar2 → False) ∧
    ¬ (∀ (x : Bool) (s : State), s.flt.alert = false → 2 ≤ s.flt.alertLow → False) ∧
    ¬ (∀ (x : Bool) (s : State), s.flt.fatal = false → 2 ≤ s.flt.fatalLow → False) ∧
    ¬ (∀ (x : Bool) (s : State), s.flt.alert = false → 15 ≤ s.flt.alertHigh → False) ∧
    ¬ (∀ (x : Bool) (s : State), s.flt.fatal = false → 15 ≤ s.flt.fatalHigh → False) :=
  ⟨fun h => h .bar0 [] svc (by decide +kernel),
    fun h => h true ({ svc with flt := { svc.flt with alertLow := 2 } }) (by decide +kernel) (by decide +kernel),
    fun h => h true ({ svc with flt := { svc.flt with fatalLow := 2 } }) (by decide +kernel) (by decide +kernel),
    fun h => h false ({ svc with flt := { svc.flt with alertHigh := 15 } }) (by decide +kernel) (by decide +kernel),
    fun h => h false ({ svc with flt := { svc.flt with fatalHigh := 15 } }) (by decide +kernel) (by decide +kernel)⟩

/-- States and operands that meet the hypotheses of FusesReadAndPulse. -/
theorem test_meets_FusesReadAndPulse :
    ¬ (∀ (p : Path) (v : Word) (s : State), p ≠ .bar2 → bits v.toNat 29 28 < 3 → s.otp.burn = none → False) ∧
    ¬ (∀ (p : Path) (v : Word) (s : State), p ≠ .bar2 → bits v.toNat 29 28 = 3 → False) ∧
    ¬ (∀ (v : Bool) (s : State) (b : Burn), s.otp.burn = some b → b.pulseEnd ≤ s.now → b.stop = false → b.tries < 3 → (s.modOtp fun o => { o with rails := true }).otpWindow = true → False) ∧
    ¬ (∀ (v : Bool) (s : State) (b : Burn) (k : Nat), s.otp.burn = some b → b.pulseEnd ≤ s.now → b.stop = false → (s.modOtp fun o => { o with rails := true }).otpWindow = true → ((s.fuse b.word).set b.bitNo).nextBit b.target b.bitNo = some k → False) ∧
    ¬ (∀ (x r v : Bool) (s : State) (b : Burn) (n q : Nat) (d : Desc), s.otp.burn = some b → b.pulseEnd ≤ s.now → b.stop = false → b.owner = some (n, q) → d ∈ (s.ctx n).acc → d.seq = q → d.phase ≠ .done → x = false → 3 ≤ b.tries → False) ∧
    ¬ (∀ (x r v : Bool) (s : State) (b : Burn) (n q : Nat) (d : Desc), s.otp.burn = some b → b.pulseEnd ≤ s.now → b.stop = false → b.owner = some (n, q) → d ∈ (s.ctx n).acc → d.seq = q → d.phase ≠ .done → x = true → ∀ (k : Nat), ((s.fuse b.word).set b.bitNo).nextBit b.target b.bitNo = some k → False) ∧
    ¬ (∀ (p : Path) (r a : List (Nat × OtpReads)) (s : State), p ≠ .bar2 → s.pwr.mode ≠ .save → False) ∧
    ¬ (∀ (r a : List (Nat × OtpReads)) (s : State), s.pwr.mode ≠ .save → s.otp.lastAudit + 138240000000000 ≤ s.now → False) ∧
    ¬ (∀ (r a : List (Nat × OtpReads)) (s : State) (h : Int × Nat), s.pwr.mode ≠ .save → s.hottest true = some h → 80 ≤ (h.1 - s.otp.auditTemp).natAbs → False) ∧
    ¬ (∀ (x r v : Bool) (a b : List (Nat × OtpReads)) (s : State), s.otp.burn = none → False) ∧
    ¬ (∀ (x r v : Bool) (a b : List (Nat × OtpReads)) (s : State), s.pwr.mode = .save → False) :=
  ⟨fun h => by
      refine h .bar0 0#32 svc ?_ ?_ ?_ <;> decide +kernel,
    fun h => h .bar0 0x30000000#32 svc (by decide +kernel) (by decide +kernel),
    fun h => by
      refine h false { { svc with thm := { svc.thm with sensors := [(64, { temp := 760 })] } } with otp := { svc.otp with burn := some { word := 256, target := 3, pulseEnd := 5, tries := 2, owner := none } } } { word := 256, target := 3, pulseEnd := 5, tries := 2, owner := none } ?_ ?_ ?_ ?_ ?_ <;> decide +kernel,
    fun h => by
      refine h false { { svc with thm := { svc.thm with sensors := [(64, { temp := 760 })] } } with otp := { svc.otp with burn := some { word := 256, target := 3, pulseEnd := 5, tries := 2, owner := none } } } { word := 256, target := 3, pulseEnd := 5, tries := 2, owner := none } 1 ?_ ?_ ?_ ?_ ?_ <;> decide +kernel,
    fun h => by
      refine h false false false { admin ({ descOf 0x49 [pairOf 256, pairOf 1, 0, 0, 0, 0] with phase := .started }) with otp := { svc.otp with burn := some { word := 256, target := 3, pulseEnd := 5, tries := 3, owner := some (0, 1) } } } { word := 256, target := 3, pulseEnd := 5, tries := 3, owner := some (0, 1) } 0 1 ({ descOf 0x49 [pairOf 256, pairOf 1, 0, 0, 0, 0] with phase := .started }) ?_ ?_ ?_ ?_ ?_ ?_ ?_ ?_ ?_ <;> decide +kernel,
    fun h => by
      refine h true false false { admin ({ descOf 0x49 [pairOf 256, pairOf 1, 0, 0, 0, 0] with phase := .started }) with otp := { svc.otp with burn := some { word := 256, target := 3, pulseEnd := 5, tries := 3, owner := some (0, 1) } } } { word := 256, target := 3, pulseEnd := 5, tries := 3, owner := some (0, 1) } 0 1 ({ descOf 0x49 [pairOf 256, pairOf 1, 0, 0, 0, 0] with phase := .started }) ?_ ?_ ?_ ?_ ?_ ?_ ?_ ?_ 1 ?_ <;> decide +kernel,
    fun h => h .bar0 [] [] svc (by decide +kernel) (by decide +kernel),
    fun h => h [] [] ({ svc with now := 138240000000000 }) (by decide +kernel) (by decide +kernel),
    fun h => by
      refine h [] [] ({ svc with thm := { svc.thm with sensors := [(64, { temp := 280 })] } }) (280, 64) ?_ ?_ ?_ <;> decide +kernel,
    fun h => h false false false [] [] svc (by decide +kernel),
    fun h => h false false false [] [] (inPwr (fun p => { p with mode := .save, trigger := 1, image := { p.image with marker := 1 } }) svc) (by decide +kernel)⟩

/-- States and operands that meet the hypotheses of TestAccess. -/
theorem test_meets_TestAccess :
    ¬ (∀ (k : Nat) (s : State), s.otp.tapOk k = true → False) ∧
    ¬ (∀ (k : Nat) (s : State), s.otp.tapOk k = false → False) ∧
    ¬ (∀ (g : List (Nat × List SliceDiff)) (m : List Nat) (s : State), s.pwr.mode = .maintenance → s.otp.stLive = none → False) ∧
    ¬ (∀ (g : List (Nat × List SliceDiff)) (m : List Nat) (s : State), s.pwr.mode ≠ .maintenance ∨ s.otp.stLive.isSome → False) :=
  ⟨fun h => h 0 svc (by decide +kernel),
    fun h => h 5 svc (by decide +kernel),
    fun h => h [] [] (inPwr (fun p => { p with mode := .maintenance }) svc) (by decide +kernel) (by decide +kernel),
    fun h => h [] [] svc (by decide +kernel)⟩

/-- States and operands that meet the hypotheses of SamplesAndEvaluations. -/
theorem test_meets_SamplesAndEvaluations :
    ¬ (∀ (r : List Int) (s : State), s.nextGrid 25600 s.thm.lastSample + 1600 ≤ s.now → False) ∧
    ¬ (∀ (s : State), s.nextGrid 1638400 s.thm.lastEval + 1600 ≤ s.now → s.nextGrid 1638400 s.thm.lastEval ≤ s.thm.lastSample → False) ∧
    ¬ (∀ (s : State), 16 ≤ s.thm.coolEvals → 0 < s.thm.rung → s.thm.tripOrderly = none → False) ∧
    ¬ (∀ (r : List Int) (s : State), s.now < s.nextGrid 25600 s.thm.lastSample + 1600 → False) ∧
    ¬ (∀ (r : List Int) (s : State), s.now < s.nextGrid 1638400 s.thm.lastEval + 1600 ∨ s.thm.lastSample < s.nextGrid 1638400 s.thm.lastEval → False) ∧
    ¬ (∀ (r : List Int) (s : State), s.thm.coolEvals < 16 ∨ s.thm.rung = 0 ∨ s.thm.tripOrderly.isSome → False) :=
  ⟨fun h => h [] svc (by decide +kernel),
    fun h => h ({ svc with thm := { svc.thm with lastSample := 1638400 } }) (by decide +kernel) (by decide +kernel),
    fun h => by
      refine h ({ svc with thm := { svc.thm with coolEvals := 16, rung := 21 } }) ?_ ?_ ?_ <;> decide +kernel,
    fun h => h [] State.reset (by decide +kernel),
    fun h => h [] svc (by decide +kernel),
    fun h => h [] svc (by decide +kernel)⟩

/-- States and operands that meet the hypotheses of BandsFollowTheSensors. -/
theorem test_meets_BandsFollowTheSensors :
    ¬ (∀ (d k : Nat) (s : State), ((dieOf (4 * d)).any fun i => (s.sensor i).usable) = true → s.bandOf d ≤ 4 → 760 < s.dieHot d → False) ∧
    ¬ (∀ (d k : Nat) (s : State), ((dieOf (4 * d)).any fun i => (s.sensor i).usable) = true → 680 < s.dieHot d → False) ∧
    ¬ (∀ (d : Nat) (s : State), 64 ≤ Sparse.get 0 s.thm.falls d → 1 < s.bandOf d → False) ∧
    ¬ (∀ (i : Nat) (s : State), (s.sensor i).failed = true → 64 ≤ (s.sensor i).good → False) ∧
    ¬ (∀ (d i : Nat) (s : State), Sparse.get 0 s.thm.falls d < 64 ∨ s.bandOf d ≤ 1 → False) ∧
    ¬ (∀ (d i : Nat) (s : State), (s.sensor i).failed = false ∨ (s.sensor i).good < 64 → False) :=
  ⟨fun h => by
      refine h 0 0 ({ svc with thm := { svc.thm with sensors := [(0, { temp := 761 })] } }) ?_ ?_ ?_ <;> decide +kernel,
    fun h => h 0 0 ({ svc with thm := { svc.thm with sensors := [(0, { temp := 681 })] } }) (by decide +kernel) (by decide +kernel),
    fun h => h 0 ({ svc with thm := { svc.thm with falls := [(0, 64)], bands := [(0, 2)] } }) (by decide +kernel) (by decide +kernel),
    fun h => h 0 ({ svc with thm := { svc.thm with sensors := [(0, { temp := 0, failed := true, good := 64 })] } }) (by decide +kernel) (by decide +kernel),
    fun h => h 0 0 svc (by decide +kernel),
    fun h => h 0 0 svc (by decide +kernel)⟩

/-- States and operands that meet the hypotheses of TripsRun. -/
theorem test_meets_TripsRun :
    ¬ (∀ (s : State), s.thm.tripOrderly.isSome → s.quiet = true → s.daIdle = true → s.pwr.mode ≠ .save → s.pwr.mode ≠ .safe → False) ∧
    ¬ (∀ (s : State) (b : Nat), s.thm.tripOrderly = some b → b + 1600000 ≤ s.now → s.pwr.mode ≠ .save → False) ∧
    ¬ (∀ (s : State), s.thm.tripActive = true → s.thm.tripOrderly = none → 64 ≤ s.thm.tripClear → False) ∧
    ¬ (∀ (s : State), s.thm.tripOrderly = none ∨ s.quiet = false ∨ s.daIdle = false → False) ∧
    ¬ (∀ (s : State), s.thm.tripOrderly = none → False) ∧
    ¬ (∀ (s : State), s.thm.tripActive = false ∨ s.thm.tripOrderly.isSome ∨ s.thm.tripClear < 64 → False) :=
  ⟨fun h => by
      refine h ({ svc with thm := { svc.thm with tripOrderly := some 5 } }) ?_ ?_ ?_ ?_ ?_ <;> decide +kernel,
    fun h => by
      refine h ({ svc with thm := { svc.thm with tripOrderly := some 5 } }) 5 ?_ ?_ ?_ <;> decide +kernel,
    fun h => by
      refine h ({ svc with thm := { svc.thm with tripActive := true, tripClear := 64 } }) ?_ ?_ ?_ <;> decide +kernel,
    fun h => h svc (by decide +kernel),
    fun h => h svc (by decide +kernel),
    fun h => h svc (by decide +kernel)⟩

/-- States and operands that meet the hypotheses of CoolingDemand. -/
theorem test_meets_CoolingDemand :
    ¬ (∀ (x y : Bool) (s : State), s.nextGrid 64000 s.thm.lastPeriod ≤ s.now → False) ∧
    ¬ (∀ (s : State), 3 ≤ s.thm.stuckHiRun → s.thm.pinState ≠ 1 → False) ∧
    ¬ (∀ (s : State), s.thm.stuckHiRun < 3 → 3 ≤ s.thm.stuckLoRun → s.thm.pinState ≠ 2 → False) ∧
    ¬ (∀ (s : State), s.thm.pinState ≠ 0 → 16 ≤ s.thm.agreeRun → False) ∧
    ¬ (∀ (x y : Bool) (s : State), s.now < s.nextGrid 64000 s.thm.lastPeriod → False) ∧
    ¬ (∀ (x y : Bool) (s : State), s.thm.stuckHiRun < 3 → s.thm.stuckLoRun < 3 → False) ∧
    ¬ (∀ (x y : Bool) (s : State), s.thm.pinState = 0 ∨ s.thm.agreeRun < 16 → False) :=
  ⟨fun h => h false false svc (by decide +kernel),
    fun h => h ({ svc with thm := { svc.thm with stuckHiRun := 3 } }) (by decide +kernel) (by decide +kernel),
    fun h => by
      refine h ({ svc with thm := { svc.thm with stuckHiRun := 2, stuckLoRun := 3 } }) ?_ ?_ ?_ <;> decide +kernel,
    fun h => h ({ svc with thm := { svc.thm with pinState := 2, agreeRun := 16 } }) (by decide +kernel) (by decide +kernel),
    fun h => h false false State.reset (by decide +kernel),
    fun h => h false false svc (by decide +kernel) (by decide +kernel),
    fun h => h false false svc (by decide +kernel)⟩

/-- States and operands that meet the hypotheses of RemoteDiodes. -/
theorem test_meets_RemoteDiodes :
    ¬ (∀ (i : Nat) (dv v1 vr : Int) (s : State), i ≤ 1 → bit s.thm.tdEn i = true → (Sparse.get {} s.thm.td i).last + 2 ^ 24 ≤ s.now → False) ∧
    ¬ (∀ (i : Nat) (s : State), i ≤ 1 → bit s.thm.tdEn i = true → 3 ≤ (Sparse.get {} s.thm.td i).fails → (Sparse.get {} s.thm.td i).state ≤ 1 → False) ∧
    ¬ (∀ (i : Nat) (s : State), 2 ≤ (Sparse.get {} s.thm.td i).state → 16 ≤ (Sparse.get {} s.thm.td i).goods → False) ∧
    ¬ (∀ (i : Nat) (dv v1 vr : Int) (s : State), 1 < i ∨ bit s.thm.tdEn i = false → False) ∧
    ¬ (∀ (i : Nat) (dv v1 vr : Int) (s : State), (Sparse.get {} s.thm.td i).goods < 16 → False) :=
  ⟨fun h => by
      refine h 1 0 0 0 ({ svc with thm := { svc.thm with tdEn := 3 } }) ?_ ?_ ?_ <;> decide +kernel,
    fun h => by
      refine h 1 ({ svc with thm := { svc.thm with tdEn := 3, td := [(1, { fails := 3, state := 1 })] } }) ?_ ?_ ?_ ?_ <;> decide +kernel,
    fun h => h 0 ({ svc with thm := { svc.thm with td := [(0, { state := 2, goods := 16 })] } }) (by decide +kernel) (by decide +kernel),
    fun h => h 0 0 0 0 svc (by decide +kernel),
    fun h => h 0 0 0 0 svc (by decide +kernel)⟩

/-- States and operands that meet the hypotheses of SlotsTakeEffect. -/
theorem test_meets_SlotsTakeEffect :
    ¬ (∀ (ch : Nat) (w : Word) (h : StoreHit) (s : State), s.slotNow ch opNOP = some w → h ≠ .double → False) ∧
    ¬ (∀ (ch : Nat) (s : State), (s.chan ch).issuing s.now = true → False) ∧
    ¬ (∀ (ch : Nat) (w : Word) (s : State), s.slotNow ch opACT = some w → False) ∧
    ¬ (∀ (ch : Nat) (w : Word) (s : State), s.slotNow ch opRD = some w → False) ∧
    ¬ (∀ (ch : Nat) (w : Word) (h : StoreHit) (s : State), s.slotNow ch opWR = some w → False) ∧
    ¬ (∀ (ch : Nat) (w : Word) (h : StoreHit) (s : State), s.slotNow ch opRMW = some w → isReadHalf w = true → False) ∧
    ¬ (∀ (ch : Nat) (w : Word) (h : StoreHit) (s : State), s.slotNow ch opRMW = some w → isReadHalf w = false → ((s.chan ch).cap.writeReady = true) → False) ∧
    ¬ (∀ (ch : Nat) (w : Word) (s : State), s.slotNow ch opPRE = some w → False) ∧
    ¬ (∀ (ch : Nat) (w : Word) (s : State), s.slotNow ch opPREA = some w → False) ∧
    ¬ (∀ (ch : Nat) (w : Word) (s : State), s.slotNow ch opREFAB = some w → False) ∧
    ¬ (∀ (ch : Nat) (w : Word) (s : State), s.slotNow ch opREFPB = some w → False) ∧
    ¬ (∀ (ch : Nat) (w : Word) (s : State), s.slotNow ch opFETCH = some w → False) ∧
    ¬ (∀ (ch : Nat) (w : Word) (s : State), s.slotNow ch opMARK = some w → False) ∧
    ¬ (∀ (ch : Nat) (w : Word) (n : List Codeword) (f : Bool) (s : State), s.slotNow ch opOPEN = some w → False) ∧
    ¬ (∀ (ch op : Nat) (c : Instr) (w : Word) (m : MaintIn) (s : State), (op, c) ∈ [(opSCRUB, Instr.scrub ch m), (opTRAIN, .train ch m), (opCAL, .cal ch m), (opBIST, .bist ch m)] → s.slotNow ch op = some w → False) ∧
    ¬ (∀ (ch : Nat) (h : StoreHit) (n : List Codeword) (f : Bool) (m : MaintIn) (s : State) (op : Nat) (c : Instr), (op, c) ∈ [(opNOP, Instr.nopSlot ch h), (opACT, .act ch), (opRD, .rd ch), (opWR, .wr ch h), (opRMW, .rmw ch h),
    (opPRE, .pre ch), (opPREA, .prea ch), (opREFAB, .refab ch), (opREFPB, .refpb ch), (opFETCH, .fetch ch), (opMARK, .mark ch),
    (opOPEN, .openRun ch n f), (opSCRUB, .scrub ch m), (opTRAIN, .train ch m), (opCAL, .cal ch m), (opBIST, .bist ch m)] → (op = opNOP → h ≠ .double) → s.slotNow ch op = none → False) :=
  ⟨fun h => h 3 (slotW opNOP 0) .clean (slotSt (slotW opNOP 0)) (by decide +kernel) (by decide +kernel),
    fun h => h 3 (slotSt 0) (by decide +kernel),
    fun h => h 3 (slotW opACT 0) (slotSt (slotW opACT 0)) (by decide +kernel),
    fun h => h 3 (slotW opRD 0) (slotSt (slotW opRD 0)) (by decide +kernel),
    fun h => h 3 (slotW opWR 0) .clean (slotSt (slotW opWR 0)) (by decide +kernel),
    fun h => h 3 (slotW opRMW dpCAPR) .clean (slotSt (slotW opRMW dpCAPR)) (by decide +kernel) (by decide +kernel),
    fun h => by
      refine h 3 (slotW opRMW dpCAPW) .clean (slotSt (slotW opRMW dpCAPW)) ?_ ?_ ?_ <;> decide +kernel,
    fun h => h 3 (slotW opPRE 0) (slotSt (slotW opPRE 0)) (by decide +kernel),
    fun h => h 3 (slotW opPREA 0) (slotSt (slotW opPREA 0)) (by decide +kernel),
    fun h => h 3 (slotW opREFAB 0) (slotSt (slotW opREFAB 0)) (by decide +kernel),
    fun h => h 3 (slotW opREFPB 0) (slotSt (slotW opREFPB 0)) (by decide +kernel),
    fun h => h 3 (slotW opFETCH 0) (slotSt (slotW opFETCH 0)) (by decide +kernel),
    fun h => h 3 (slotW opMARK 0) (slotSt (slotW opMARK 0)) (by decide +kernel),
    fun h => h 3 (slotW opOPEN 0) [] false (slotSt (slotW opOPEN 0)) (by decide +kernel),
    fun h => h 3 opBIST (.bist 3 { train := [], cal := [], sigs := [], noise := [] }) (slotW opBIST 0) { train := [], cal := [], sigs := [], noise := [] } (slotSt (slotW opBIST 0)) (by decide +kernel) (by decide +kernel),
    fun h => by
      refine h 0 .clean [] false { train := [], cal := [], sigs := [], noise := [] } svc opNOP (.nopSlot 0 .clean) ?_ ?_ ?_ <;> decide +kernel⟩

/-- States and operands that meet the hypotheses of RowsAndRefreshes. -/
theorem test_meets_RowsAndRefreshes :
    ¬ (∀ (ch : Nat) (w : Word) (s : State), slotDp w ≠ dpTCMD → False) ∧
    ¬ (∀ (ch : Nat) (w : Word) (s : State), slotDp w ≠ dpTCMD → let a := ((s.chan ch).seq.genNow w).1
    ∀ (x : Nat × Nat), False) ∧
    ¬ (∀ (ch u : Nat) (f : Nat → Bool) (s : State) (b : Nat), b < 32 → False) :=
  ⟨fun h => h 0 0#32 svc (by decide +kernel),
    fun h => h 0 0#32 svc (by decide +kernel) (0, 0),
    fun h => h 0 0 (fun _ => true) svc 0 (by decide +kernel)⟩

/-- States and operands that meet the hypotheses of StreamControl. -/
theorem test_meets_StreamControl :
    ¬ (∀ (ch : Nat) (s : State), let q := (s.chan ch).seq
    q.atSwitch = true → q.stopAt = none → False) ∧
    ¬ (∀ (ch : Nat) (s : State), (s.chan ch).issuing s.now = true → (s.chan ch).stealDue = true → False) ∧
    ¬ (∀ (ch : Nat) (w : MaintIn) (f : Bool) (h : Option Nat) (s : State), (s.chan ch).idle = true → ch < s.members → False) ∧
    ¬ (∀ (ch : Nat) (n : List Codeword) (h : StoreHit) (r : Bool) (s : State) (x : Flight) (rest : List Flight), (s.chan ch).flights = x :: rest → x.issue + 30 ≤ s.now → False) ∧
    ¬ (∀ (ch : Nat) (w : MaintIn) (f : Bool) (g : Option Nat) (h : StoreHit) (n : List Codeword) (r : Bool) (s : State), (s.chan ch).seq.atSwitch = false ∨ (s.chan ch).seq.stopAt.isSome → False) ∧
    ¬ (∀ (ch : Nat) (w : MaintIn) (f : Bool) (g : Option Nat) (h : StoreHit) (n : List Codeword) (r : Bool) (s : State), (s.chan ch).issuing s.now = false ∨ (s.chan ch).stealDue = false → False) ∧
    ¬ (∀ (ch : Nat) (w : MaintIn) (f : Bool) (g : Option Nat) (h : StoreHit) (n : List Codeword) (r : Bool) (s : State), (s.chan ch).idle = false ∨ s.members ≤ ch → False) ∧
    ¬ (∀ (ch : Nat) (w : MaintIn) (f : Bool) (g : Option Nat) (h : StoreHit) (n : List Codeword) (r : Bool) (s : State), (s.chan ch).flights = [] ∨ (∀ x ∈ (s.chan ch).flights, s.now < x.issue + 30) → False) :=
  ⟨fun h => h 3 (withCh 3 ({ slotChan 0 with seq := { (slotChan 0).seq with atSwitch := true } }) svc) (by decide +kernel) (by decide +kernel),
    fun h => h 3 (withCh 3 ({ slotChan 0 with seq := { (slotChan 0).seq with sect := some (sectOf .source 9) }, refr := { debt := List.replicate 32 224600, since := 5 } }) svc) (by decide +kernel) (by decide +kernel),
    fun h => h 127 { train := [], cal := [], sigs := [], noise := [] } false none svc (by decide +kernel) (by decide +kernel),
    fun h => h 3 [] .clean false (withCh 3 { flights := [{ addr := 0, issue := 2 * 10 ^ 9 - 30, reader := .bind 0 }] } svc) { addr := 0, issue := 2 * 10 ^ 9 - 30, reader := .bind 0 } [] (by decide +kernel) (by decide +kernel),
    fun h => h 0 { train := [], cal := [], sigs := [], noise := [] } false none .clean [] false svc (by decide +kernel),
    fun h => h 0 { train := [], cal := [], sigs := [], noise := [] } false none .clean [] false svc (by decide +kernel),
    fun h => h 128 { train := [], cal := [], sigs := [], noise := [] } false none .clean [] false svc (by decide +kernel),
    fun h => h 0 { train := [], cal := [], sigs := [], noise := [] } false none .clean [] false svc (by decide +kernel)⟩

/-- States and operands that meet the hypotheses of WordsAndRecords. -/
theorem test_meets_WordsAndRecords :
    ¬ (∀ (ch g : Nat) (s : State) (sec : Section) (ps : List (Nat × Nat)) (per ts : Nat) (x : SrcSeg) (r : List SrcSeg), (s.chan ch).seq.sect = some sec → sec.func = .source → (s.chan ch).seq.stopAt = none → s.positions false g ch = some (ps, per, ts) → ((s.chan ch).src.group g).queue = [] → ((s.chan ch).src.group g).segs = x :: r → let gr := (s.chan ch).src.group g
    let p := posBeat ps per (x.start + x.done)
    let y := gr.gran (x.ids.getD (x.done / 8 % max 1 x.ids.length) (x.hdr.getD 0))
    x.kind ≠ .hold → gr.cons ≤ x.start + x.done → y.starved = false → y.bad = false → False) ∧
    ¬ (∀ (ch g : Nat) (h : StoreHit) (s : State) (x : Section), (s.chan ch).seq.sect = some x → x.func = .capture → let n := if x.addressedGroup g then 10 else 8
    let ws := Sparse.get [] (s.chan ch).cap.acc g
    let due := ((ws.take n).getLast?.elim 0 fun y => y.1 / 8) + 10
    n ≤ ws.length → due ≤ s.now → False) ∧
    ¬ (∀ (ch g : Nat) (h : StoreHit) (s : State), (s.chan ch).seq.sect = none → False) ∧
    ¬ (∀ (ch g : Nat) (h : StoreHit) (s : State), ∀ (x : Section), (s.chan ch).seq.sect = some x → x.func ≠ .source → False) ∧
    ¬ (∀ (ch g : Nat) (h : StoreHit) (s : State), ∀ (x : Section), (s.chan ch).seq.sect = some x → x.func ≠ .capture ∨ (Sparse.get [] (s.chan ch).cap.acc g).length < 8 → False) :=
  ⟨fun h => by
      refine h 3 0 (withGrp 0 { sect := some { rx := false, group := 0, periodLog2 := 4, table := List.replicate 7 0xFF ++ [3] ++ List.replicate 120 0xFF }, ts := 2 * 10 ^ 9 } (withCh 3 { slotChan 0 with src := { groups := [(0, { segs := [{ start := 0, len := 8, ids := [0] }] })] } } svc)) (sectOf .source 1) [(0, 7)] 16 (2 * 10 ^ 9) { start := 0, len := 8, ids := [0] } [] ?_ ?_ ?_ ?_ ?_ ?_ ?_ ?_ ?_ ?_ <;> decide +kernel,
    fun h => by
      refine h 3 0 .clean (withCh 3 { slotChan 0 with seq := { sect := some (sectOf .capture 1) }, cap := { acc := [(0, List.replicate 8 (0, none))] } } svc) (sectOf .capture 1) ?_ ?_ ?_ ?_ <;> decide +kernel,
    fun h => h 0 0 .clean svc (by decide +kernel),
    fun h => h 3 0 .clean (withCh 3 { slotChan 0 with seq := { sect := some (sectOf .capture 1) }, cap := { acc := [(0, List.replicate 8 (0, none))] } } svc) (sectOf .capture 1) (by decide +kernel) (by decide +kernel),
    fun h => h 3 0 .clean (slotSt 0) (sectOf .source 1) (by decide +kernel) (by decide +kernel)⟩

/-- States and operands that meet the hypotheses of MaintenanceEvents. -/
theorem test_meets_MaintenanceEvents :
    ¬ (∀ (ch : Nat) (s : State), (s.chan ch).ecc.lastBoundary < s.lastGrid (s.chan ch).ecc.periodCk → False) ∧
    ¬ (∀ (ch : Nat) (s : State), 65536 ≤ (s.chan ch).eyes.decodes → False) ∧
    ¬ (∀ (ch : Nat) (s : State), (s.chan ch).state = .idle ∨ (s.chan ch).state = .stopped ∨ (s.chan ch).state = .starting → (s.chan ch).bist.lastIdle + 16000000000 ≤ s.now → False) ∧
    ¬ (∀ (ch : Nat) (g : List SliceDiff) (s : State), (s.chan ch).func ≠ .retired → (s.chan ch).state = .running → (s.chan ch).seq.stopAt = none → (s.chan ch).retirePend = false → False) ∧
    ¬ (∀ (ch : Nat) (g : List SliceDiff) (s : State), (s.chan ch).ecc.lastBoundary ≥ s.lastGrid (s.chan ch).ecc.periodCk → False) ∧
    ¬ (∀ (ch : Nat) (g : List SliceDiff) (s : State), (s.chan ch).eyes.decodes < 65536 → False) ∧
    ¬ (∀ (ch : Nat) (g : List SliceDiff) (s : State), (s.chan ch).state = .running ∨ (s.chan ch).state = .stopping ∨ (s.chan ch).state = .retired ∨
    s.now < (s.chan ch).bist.lastIdle + 16000000000 → False) ∧
    ¬ (∀ (ch : Nat) (g : List SliceDiff) (s : State), (s.chan ch).func = .retired → False) :=
  ⟨fun h => h 3 ({ svc with now := 2 ^ 40 }) (by decide +kernel),
    fun h => h 3 (withCh 3 { eyes := { decodes := 65536 } } svc) (by decide +kernel),
    fun h => h 3 ({ svc with now := 16 * 10 ^ 9 }) (by decide +kernel) (by decide +kernel),
    fun h => by
      refine h 3 [] (slotSt 0) ?_ ?_ ?_ ?_ <;> decide +kernel,
    fun h => h 0 [] svc (by decide +kernel),
    fun h => h 0 [] svc (by decide +kernel),
    fun h => h 0 [] svc (by decide +kernel),
    fun h => h 3 [] (withCh 3 { func := .retired, state := .retired } svc) (by decide +kernel)⟩

/-- States and operands that meet the hypotheses of RegionEvents. -/
theorem test_meets_RegionEvents :
    ¬ (∀ (ch : Nat) (v : BitVec 22) (r : Bool) (s : State), (s.chan ch).func ≠ .retired → (s.chan ch).reg.inSr = false → (List.range 22).foldl (fun b i => b != v.getLsbD i) true = false → False) ∧
    ¬ (∀ (ch : Nat) (x y : Bool) (s : State), (s.chan ch).func ≠ .retired → (s.chan ch).reg.inSr = false → False) ∧
    ¬ (∀ (ch e : Nat) (s : State), ch < s.members → e + 64 ≤ s.now → s.now ≤ e + 80 → (s.chan ch).reg.inSr = false → False) ∧
    ¬ (∀ (ch : Nat) (s : State), (s.chan ch).reg.inSr = true → (s.chan ch).reg.srLast + srInterval (s.srBand (ch / 8)) ≤ s.now → False) ∧
    ¬ (∀ (ch c : Nat) (w : MaintIn) (b : List Nat) (s : State), (s.chan ch).reg.inSr = true → (s.chan ch).reg.exitAt ≠ 0 → (s.chan ch).reg.exitAt ≤ s.now → 3200 ≤ c → (s.chan ch).reg.gapAt + c ≤ s.now → (s.chan ch).func ≠ .retired → (s.chan ch).eyes.emerg = none → False) ∧
    ¬ (∀ (ch : Nat) (v : BitVec 22) (r x y : Bool) (e c : Nat) (w : MaintIn) (b : List Nat) (s : State), (s.chan ch).func = .retired ∨ (s.chan ch).reg.inSr = true → False) ∧
    ¬ (∀ (ch : Nat) (v : BitVec 22) (r x y : Bool) (e c : Nat) (w : MaintIn) (b : List Nat) (s : State), s.members ≤ ch ∨ s.now < e + 64 ∨ e + 80 < s.now → False) ∧
    ¬ (∀ (ch : Nat) (v : BitVec 22) (r x y : Bool) (e c : Nat) (w : MaintIn) (b : List Nat) (s : State), (s.chan ch).reg.inSr = false → False) :=
  ⟨fun h => by
      refine h 3 1 false svc ?_ ?_ ?_ <;> decide +kernel,
    fun h => h 0 false false svc (by decide +kernel) (by decide +kernel),
    fun h => by
      refine h 127 (2 * 10 ^ 9 - 80) svc ?_ ?_ ?_ ?_ <;> decide +kernel,
    fun h => h 3 (withCh 3 { reg := { inSr := true, exitAt := 2 * 10 ^ 9, gapAt := 2 * 10 ^ 9 - 3200 } } svc) (by decide +kernel) (by decide +kernel),
    fun h => by
      refine h 3 3200 { train := [], cal := [], sigs := [], noise := [] } [] (withCh 3 { reg := { inSr := true, exitAt := 2 * 10 ^ 9, gapAt := 2 * 10 ^ 9 - 3200 } } svc) ?_ ?_ ?_ ?_ ?_ ?_ ?_ <;> decide +kernel,
    fun h => h 3 0 false false false 0 0 { train := [], cal := [], sigs := [], noise := [] } [] (withCh 3 { reg := { inSr := true, exitAt := 2 * 10 ^ 9, gapAt := 2 * 10 ^ 9 - 3200 } } svc) (by decide +kernel),
    fun h => h 0 0 false false false 0 0 { train := [], cal := [], sigs := [], noise := [] } [] svc (by decide +kernel),
    fun h => h 0 0 false false false 0 0 { train := [], cal := [], sigs := [], noise := [] } [] svc (by decide +kernel)⟩

/-- States and operands that meet the hypotheses of ChannelSettings. -/
theorem test_meets_ChannelSettings :
    ¬ (∀ (p : Path) (ch : Nat) (v : Word) (s : State), p ≠ .bar2 → ch < s.members → (s.chan ch).func ≠ .retired → s.pwr.mode ≠ .retention → False) ∧
    ¬ (∀ (p : Path) (ch : Nat) (v : Word) (s : State), p ≠ .bar2 → ch < s.members → False) ∧
    ¬ (∀ (p : Path) (ch k : Nat) (v : Word) (s : State), p ≠ .bar2 → ch < s.members → (s.chan ch).func ≠ .retired → s.pwr.mode ≠ .retention → k < 4 → False) ∧
    ¬ (∀ (p : Path) (ch : Nat) (s : State), p ≠ .bar2 → ch < s.members → (s.chan ch).func ≠ .retired → s.pwr.mode ≠ .retention → False) ∧
    ¬ (∀ (p : Path) (ch k : Nat) (v : Word) (s : State) (c : Instr), p ≠ .bar2 → ch < s.members → (s.chan ch).func = .retired ∨ s.pwr.mode = .retention → k < 4 → c ∈ [Instr.chPrivWrite p ch v, .chDaRegWrite p ch k v, .calForce p ch v, .bistForce p ch, .remapClear p ch v] → False) ∧
    ¬ (∀ (p : Path) (ch k : Nat) (v : Word) (s : State) (c : Instr), p = .bar2 ∨ s.members ≤ ch → c ∈ [Instr.chPrivWrite p ch v, .chSubstWrite p ch v, .chDaRegWrite p ch k v, .calForce p ch v, .bistForce p ch, .remapClear p ch v] → False) :=
  ⟨fun h => by
      refine h .bar0 127 4#32 svc ?_ ?_ ?_ ?_ <;> decide +kernel,
    fun h => h .bar0 3 0x807F0000#32 (withCh 3 { state := .stopped } svc) (by decide +kernel) (by decide +kernel),
    fun h => by
      refine h .proxy 3 3 0xFFFF0010#32 svc ?_ ?_ ?_ ?_ ?_ <;> decide +kernel,
    fun h => by
      refine h .bar0 0 svc ?_ ?_ ?_ ?_ <;> decide +kernel,
    fun h => by
      refine h .bar0 3 0 0#32 (withCh 3 { func := .retired, state := .retired } svc) (.bistForce .bar0 3) ?_ ?_ ?_ ?_ ?_ <;> decide +kernel,
    fun h => h .bar0 128 0 0#32 svc (.bistForce .bar0 128) (by decide +kernel) (by decide +kernel)⟩

/-- States and operands that meet the hypotheses of RegisterAccess. -/
theorem test_meets_RegisterAccess :
    ¬ (∀ (p : Path) (o : Nat) (v : Word) (s : State), p ≠ .bar2 → (p = .bar0 → s.tor.pcieEn = true) → s.answers o = true → False) ∧
    ¬ (∀ (p : Path) (o n : Nat) (v : Word) (s : State), p ≠ .bar2 → (p = .bar0 → s.tor.pcieEn = true) → s.answers o = true → n ≠ 4 → False) ∧
    ¬ (∀ (p : Path) (o n : Nat) (v : Word) (s : State), p = .bar2 ∨ (p = .bar0 ∧ s.tor.pcieEn = false) ∨ s.answers o = false → False) ∧
    ¬ (∀ (p : Path) (r : Bool) (s : State), (p = .bar2 ∨ (p = .smbus ∧ (if r = true then s.smb.status else s.smb.wstatus) ≠ 1)) → False) ∧
    ¬ (∀ (b : List Byte) (ok : Bool) (s : State), s.smb.busy = false → False) ∧
    ¬ (∀ (b : List Byte) (ok : Bool) (s : State), s.smb.busy = true → False) :=
  ⟨fun h => by
      refine h .smbus 0x4000 8#32 svc ?_ ?_ ?_ <;> decide +kernel,
    fun h => by
      refine h .proxy 0xFFFFF 2 0#32 svc ?_ ?_ ?_ ?_ <;> decide +kernel,
    fun h => h .bar2 0 0 0#32 svc (by decide +kernel),
    fun h => h .bar2 false svc (by decide +kernel),
    fun h => h (leBytes 3 0xFFFFC) true svc (by decide +kernel),
    fun h => h [] false ({ svc with smb := { svc.smb with status := 1 } }) (by decide +kernel)⟩

/-- States and operands that meet the hypotheses of CountersRead. -/
theorem test_meets_CountersRead :
    ¬ (∀ (n : Nat) (v : Word) (s : State), (n < 8 * s.members ∨ (1024 ≤ n ∧ n < 1088)) → False) ∧
    ¬ (∀ (s : State), s.lastGrid s.cnt.len ≤ s.cnt.lastBoundary → False) ∧
    ¬ (∀ (s : State), s.cnt.lastBoundary < s.lastGrid s.cnt.len → False) ∧
    ¬ (∀ (s : State) (n v : Nat), s.cnt.lastBoundary < s.lastGrid s.cnt.len → Sparse.sorted none s.cnt.tab = true → (s.counter n).pend = some v → False) ∧
    ¬ (∀ (p : Path) (n low k : Nat) (s : State), (p = .bar0 ∧ (low ≠ 0 ∨ k ≠ 4)) → False) ∧
    ¬ (∀ (p : Path) (n : Nat) (s : State), (s.counter n).latch p = none → False) ∧
    ¬ (∀ (p : Path) (n : Nat) (s : State), ∀ (l : Latch), (s.counter n).latch p = some l → (s.now < l.since + 16000) → False) :=
  ⟨fun h => h 1087 0x80000002#32 svc (by decide +kernel),
    fun h => h State.reset (by decide +kernel),
    fun h => h svc (by decide +kernel),
    fun h => by
      refine h ({ svc with cnt := { svc.cnt with tab := [(5, { pend := some 3 })] } }) 5 3 ?_ ?_ ?_ <;> decide +kernel,
    fun h => h .bar0 5 1 4 svc (by decide +kernel),
    fun h => h .bar0 0 svc (by decide +kernel),
    fun h => h .bar0 5 ({ svc with cnt := { svc.cnt with tab := [(5, { l0 := some { hi := 1, since := 2 * 10 ^ 9 - 15999 } })] } }) { hi := 1, since := 2 * 10 ^ 9 - 15999 } (by decide +kernel) (by decide +kernel)⟩

/-- States and operands that meet the hypotheses of CheckValues. -/
theorem test_meets_CheckValues :
    ¬ (∀ (u : Nat) (v : BitVec 32) (s : State), let x := (v ||| 0x80000000#32).toNat
    (3 ≤ u ∨ (s.crc u).busy = true ∨ 2 ≤ bits x 28 27 ∨ s.daMode = false) → False) ∧
    ¬ (∀ (u : Nat) (v : Word) (s : State), u < 3 → bit v.toNat 31 = false → bit v.toNat 29 = false → False) ∧
    ¬ (∀ (u : Nat) (v : Word) (s : State), u < 3 → bit v.toNat 31 = false → bit v.toNat 30 = false → False) ∧
    ¬ (∀ (u : Nat) (v : Word) (s : State), bit v.toNat 31 = true → False) ∧
    ¬ (∀ (u : Nat) (v : Word) (s : State), bit v.toNat 29 = true → False) ∧
    ¬ (∀ (u : Nat) (v : Word) (s : State), (u < 3 ∧ (s.crc u).busy = true ∧ (s.crc u).src = 0) → False) ∧
    ¬ (∀ (u : Nat) (s : State), let c := s.crc u
    (u < 3 ∧ c.busy = true ∧ c.src = 1 ∧ c.len ≤ c.fed) → False) :=
  ⟨fun h => h 3 0#32 svc (by decide +kernel),
    fun h => by
      refine h 2 0#32 ({ svc with cnt := { svc.cnt with crc := [(2, { busy := true, src := 0 })] } }) ?_ ?_ ?_ <;> decide +kernel,
    fun h => by
      refine h 2 0#32 ({ svc with cnt := { svc.cnt with crc := [(2, { busy := true, src := 0 })] } }) ?_ ?_ ?_ <;> decide +kernel,
    fun h => h 0 0x80000000#32 svc (by decide +kernel),
    fun h => h 0 0x20000000#32 svc (by decide +kernel),
    fun h => h 2 0#32 ({ svc with cnt := { svc.cnt with crc := [(2, { busy := true, src := 0 })] } }) (by decide +kernel),
    fun h => h 2 ({ svc with cnt := { svc.cnt with crc := [(2, { busy := true, src := 1 })] } }) (by decide +kernel)⟩

/-- States and operands that meet the hypotheses of LaneGroupsComeUp. -/
theorem test_meets_LaneGroupsComeUp :
    ¬ (∀ (p : Path) (v : Word) (s : State), p ≠ .bar2 → let rx := (lnSel (s.lanes.idx.get p)).1
    let g := (lnSel (s.lanes.idx.get p)).2.1
    (s.laneInUse rx g = true) → False) ∧
    ¬ (∀ (rx : Bool) (g : Nat) (o : List Nat) (s : State), let n := if g < 8 then 8 else 2
    let bad (l : Nat) : Bool := decide (1 ≤ o.getD l 0) && decide (o.getD l 0 ≤ 4)
    let down : Bool := bad 8 || (List.range n).all bad
    ((s.group rx g).state = .detect ∧ g < 12 ∧ (g < 8 ∨ rx = true) ∧ (s.group rx g).since + 3200 ≤ s.now) → False) ∧
    ¬ (∀ (g : Nat) (s : State), ((s.group true g).state = .clock ∧ g < 12) → False) ∧
    ¬ (∀ (g l : Nat) (i : Bool) (x : RxSymbols) (s : State), let y := s.lane true g l
    let n := match x with | .comma _ _ _ _ => y.commas + 1 | _ => 0
    let taken (sl j : Nat) : Prop := j ≠ l ∧ (s.lane true g j).live = true ∧ (s.lane true g j).number j = sl
    ((s.group true g).state = .align ∧ g < 12 ∧ l < (if g < 8 then 8 else 2) ∧ y.state = .search) → False) ∧
    ¬ (∀ (g : Nat) (s : State), ((s.group true g).state = .align ∧ (∃ b ∈ (s.group true g).firstAligned, b + 1600000 ≤ s.now)) → False) ∧
    ¬ (∀ (g : Nat) (s : State), let c := s.group false g
    (g < 8 ∧ c.state = .handshake ∧ c.since + 1600000 ≤ s.now) → False) ∧
    ¬ (∀ (g l : Nat) (x : RxSymbols) (s : State), let c := s.group true g
    let y := s.lane true g l
    (g < 12 ∧ l < (if g < 8 then 8 else 2) ∧ y.state = .search ∧ (c.state = .up ∨ (8 ≤ g ∧ c.state = .sync))) → False) ∧
    ¬ (∀ (g : Nat) (s : State), let c := s.group false g
    let u := s.lastGrid 32768
    let ps := (s.port (g - 8)).state
    (g < 8 ∧ (c.state = .up ∨ (c.state = .sync ∧ s.tor.final = true)) ∧ c.lastMark < u ∧ c.since ≤ u) → False) :=
  ⟨fun h => h .bar0 0#32 (withGrp 0 { sect := some { rx := false, group := 0, periodLog2 := 4, table := List.replicate 128 3 } } (slotSt 0)) (by decide +kernel) (by decide +kernel),
    fun h => h true 7 [] (withGrp 15 { state := .detect } svc) (by decide +kernel),
    fun h => h 11 (withGrp 19 { state := .clock } svc) (by decide +kernel),
    fun h => h 7 7 false (.comma (64 + 63) 255 0 (127 ^^^ 255 ^^^ 0 ^^^ 255)) (withGrp 15 { state := .align, lanes := [(7, { state := .search, commas := 2 })] } svc) (by decide +kernel),
    fun h => h 0 (withGrp 8 { state := .align, firstAligned := some 5 } svc) (by decide +kernel),
    fun h => h 0 (withGrp 0 { state := .handshake } svc) (by decide +kernel),
    fun h => h 0 7 (.comma (128 + 7) 1 0 (135 ^^^ 1 ^^^ 0 ^^^ 255)) (withGrp 8 { state := .up, lanes := [(7, { state := .search, commas := 2 })] } svc) (by decide +kernel),
    fun h => h 0 (withGrp 0 { state := .sync } bound) (by decide +kernel)⟩

/-- States and operands that meet the hypotheses of BeatsCross. -/
theorem test_meets_BeatsCross :
    ¬ (∀ (g l : Nat) (f : Bool) (s : State), g < 8 → l < 8 → (s.group false g).state = .up → (s.lane false g l).state = .up → let c := s.group false g
    (∀ b ∈ c.launch, b.lane = l → b.deadline ≤ s.now → b.sent ≤ b.deadline ∧ (s.lane false g l).beat < s.gtOf b.deadline / 2) → False) ∧
    ¬ (∀ (g l : Nat) (f : Bool) (s : State) (b : TxBeat), g < 8 → l < 8 → (s.group false g).state = .up → (s.lane false g l).state = .up → b ∈ (s.group false g).launch → b.lane = l → b.deadline < b.sent → b.deadline ≤ s.now → b.word.isSome → False) ∧
    ¬ (∀ (g l : Nat) (f : Bool) (s : State), g < 8 → l < 8 → (s.group false g).state ≠ .up ∨ (s.lane false g l).state ≠ .up → False) ∧
    ¬ (∀ (g l : Nat) (x : RxSymbols) (d : Int) (f : Bool) (s : State), let y := s.lane true g l
    let i := y.beat + 1
    let lost : Prop := f = true ∨ d < 6 ∨ 250 < d
    g < 8 → l < 8 → (s.group true g).state = .up → y.state = .up → (s.gt < 2 * i) → False) ∧
    ¬ (∀ (g l : Nat) (x : RxSymbols) (d : Int) (f : Bool) (s : State), g < 8 → l < 8 → (s.group true g).state ≠ .up ∨ (s.lane true g l).state ≠ .up → let i := s.gt / 2
    (i ≤ (s.lane true g l).beat ∨ i % 16384 = 0) → False) ∧
    ¬ (∀ (g : Nat) (s : State), (g < 12 ∧ (s.group true g).state.running = true) → False) ∧
    ¬ (∀ (g : Nat) (s : State), (g < 8 ∧ (s.group false g).state.running = true) → False) ∧
    ¬ (∀ (g l : Nat) (s : State), let y := s.lane true g l
    let n := (y.falls.filter fun u => decide (s.now < u + 2 ^ 31)).length
    g < 12 → l = 8 → False) ∧
    ¬ (∀ (g l : Nat) (s : State), let y := s.lane true g l
    let n := (y.falls.filter fun u => decide (s.now < u + 2 ^ 31)).length
    l ≠ 8 → (g < 12 ∧ y.state = .up) → False) ∧
    ¬ (∀ (g l : Nat) (s : State), let y := s.lane true g l
    let n := (y.falls.filter fun u => decide (s.now < u + 2 ^ 31)).length
    (y.state = .up ∧ (8 ≤ g ∨ 8 ≤ (y.errAt.filter fun i => decide (y.beat < i + 256)).length)) → False) ∧
    ¬ (∀ (g l : Nat) (x : RxSymbols) (d : Int) (f : Bool) (s : State), 8 ≤ g ∨ 8 ≤ l → False) :=
  ⟨fun h => by
      refine h 0 7 false (withGrp 0 { state := .up, lanes := [(7, { state := .up })], launch := [{ lane := 7, deadline := 2 * 10 ^ 9, word := some 5, chan := 3, sent := 2 * 10 ^ 9 }] } svc) ?_ ?_ ?_ ?_ ?_ <;> decide +kernel,
    fun h => by
      refine h 0 7 false (withGrp 0 { state := .up, lanes := [(7, { state := .up })], launch := [{ lane := 7, deadline := 2 * 10 ^ 9 - 1, word := some 5, chan := 3, sent := 2 * 10 ^ 9 + 1 }] } svc) { lane := 7, deadline := 2 * 10 ^ 9 - 1, word := some 5, chan := 3, sent := 2 * 10 ^ 9 + 1 } ?_ ?_ ?_ ?_ ?_ ?_ ?_ ?_ ?_ <;> decide +kernel,
    fun h => by
      refine h 0 0 false svc ?_ ?_ ?_ <;> decide +kernel,
    fun h => by
      refine h 0 7 (.bytes (beatValue 5 false)) 250 false (withGrp 8 { state := .up, lanes := [(7, { state := .up, beat := 10 ^ 9  })], sect := some { rx := true, group := 0, periodLog2 := 4, table := List.replicate 128 3 }, ts := 2 * 10 ^ 9 - 32 } (withCh 3 { slotChan 0 with func := .capture } svc)) ?_ ?_ ?_ ?_ ?_ <;> decide +kernel,
    fun h => by
      refine h 0 7 .errored 0 false State.reset ?_ ?_ ?_ ?_ <;> decide +kernel,
    fun h => h 11 (withGrp 19 { state := .up } svc) (by decide +kernel),
    fun h => h 0 (withGrp 0 { state := .up } svc) (by decide +kernel),
    fun h => h 11 8 svc (by decide +kernel) (by decide +kernel),
    fun h => h 11 0 (withGrp 19 { state := .up, lanes := [(0, { state := .up, falls := List.replicate 6 5 })] } svc) (by decide +kernel) (by decide +kernel),
    fun h => h 0 0 { (withGrp 8 { state := .up, lanes := [(0, { state := .up, falls := List.replicate 7 5, errAt := List.range 8, beat := 255 })] } svc) with now := 9 } (by decide +kernel),
    fun h => h 8 0 .errored 0 false svc (by decide +kernel)⟩

/-- States and operands that meet the hypotheses of PatternsRun. -/
theorem test_meets_PatternsRun :
    ¬ (∀ (p : Path) (v : Word) (s : State), p ≠ .bar2 → let rx := (lnSel (s.lanes.idx.get p)).1
    let g := (lnSel (s.lanes.idx.get p)).2.1
    let l := (lnSel (s.lanes.idx.get p)).2.2
    let n := v.toNat
    (8 ≤ l) → False) ∧
    ¬ (∀ (p : Path) (v : Word) (s : State), p ≠ .bar2 → let g := (lnSel (s.lanes.idx.get p)).2.1
    let l := (lnSel (s.lanes.idx.get p)).2.2
    (lnSel (s.lanes.idx.get p)).1 = false → l < 8 → (s.lane false g l).genEn = true → bit v.toNat 31 = true → False) ∧
    ¬ (∀ (g l : Nat) (s : State), let y := s.lane false g l
    (g < 8 ∧ y.genEn = true ∧ y.injRate ≠ 0 ∧ 2 ^ (y.injRate + 10) ≤ y.genBits) → False) ∧
    ¬ (∀ (g l : Nat) (b : List Bool) (s : State), (g < 8 ∧ l < 8 ∧ (s.lane true g l).chkEn = true) → False) :=
  ⟨fun h => h .bar0 0#32 ({ svc with lanes := { svc.lanes with idx := svc.lanes.idx.put .bar0 8 } }) (by decide +kernel) (by decide +kernel),
    fun h => by
      refine h .bar0 0x80000000#32 (withGrp 0 { lanes := [(0, { genEn := true })] } svc) ?_ ?_ ?_ ?_ ?_ <;> decide +kernel,
    fun h => h 0 0 (withGrp 0 { lanes := [(0, { genEn := true, injRate := 1, genBits := 2048 })] } svc) (by decide +kernel),
    fun h => h 7 7 [] (withGrp 15 { lanes := [(7, { chkEn := true })] } svc) (by decide +kernel)⟩

/-- States and operands that meet the hypotheses of PortsComeUp. -/
theorem test_meets_PortsComeUp :
    ¬ (∀ (p : Nat) (w : BitVec 64) (s : State), let q := s.port p
    (p < 4 ∧ (q.state = .identity ∨ q.state = .miscabled ∨ q.state = .up)) → False) ∧
    ¬ (∀ (p : Nat) (s : State), (p < 4 ∧ (s.port p).state = .failed ∧ (s.port p).failedAt + 2 ^ 24 ≤ s.now) → False) ∧
    ¬ (∀ (p d : Nat) (s : State), let q := s.port p
    (p < 4 ∧ (q.state = .align ∨ q.state = .identity ∨ q.state = .up ∨ q.state = .miscabled) ∧ q.freqAt + 2 ^ 24 ≤ s.now) → False) :=
  ⟨fun h => h 3 (BitVec.ofNat 64 (6 * 2 ^ 60 + 1 * 2 ^ 22)) (withPort 3 { state := .miscabled } svc) (by decide +kernel),
    fun h => h 3 (withPort 3 { state := .failed, failedAt := 2 * 10 ^ 9 - 2 ^ 24 } svc) (by decide +kernel),
    fun h => h 3 16 (withPort 3 { state := .up, freq := true, freqAgree := 15 } svc) (by decide +kernel)⟩

/-- States and operands that meet the hypotheses of LinkReliability. -/
theorem test_meets_LinkReliability :
    ¬ (∀ (p q : Nat) (s : State), let c := s.port p
    (p < 4 ∧ c.state = .up ∧ (∃ k ∈ c.place q, k ≠ 0)) → False) ∧
    ¬ (∀ (p q : Nat) (s : State), let c := s.port p
    (p < 4 ∧ c.state = .up ∧ c.freq = false ∧ (c.place q).isSome) → False) ∧
    ¬ (∀ (p q : Nat) (s : State), let c := s.port p
    (p < 4 ∧ c.state = .up) → False) ∧
    ¬ (∀ (p : Nat) (s : State), let c := s.port p
    (p < 4 ∧ c.state = .up ∧ c.ignoring = true ∧ c.lnakAt + 1024 ≤ s.now) → False) ∧
    ¬ (∀ (p : Nat) (s : State), let c := s.port p
    (p < 4 ∧ (∃ x ∈ c.mgmt ++ c.fwdq, x.since + 1024 ≤ s.now)) → False) :=
  ⟨fun h => h 3 2 (withPort 3 { state := .up, unacked := [(0, 5), (1, 6)], txSeq := 2 } svc) (by decide +kernel),
    fun h => h 3 1 (withPort 3 { state := .up, unacked := [(0, 5), (1, 6)], txSeq := 2 } svc) (by decide +kernel),
    fun h => h 0 65535 (withPort 0 { state := .up, ignoring := true, rxSeq := 65535 } svc) (by decide +kernel),
    fun h => h 3 (withPort 3 { state := .up, ignoring := true } svc) (by decide +kernel),
    fun h => h 3 (withPort 3 { state := .up, mgmt := [{ words := [5] }] } svc) (by decide +kernel)⟩

/-- States and operands that meet the hypotheses of TimeBase. -/
theorem test_meets_TimeBase :
    ¬ (∀ (p : Nat) (w : BitVec 64) (a : Nat) (s : State), let q := s.port p
    (p < 4 ∧ q.state = .up ∧ q.freq = false) → False) ∧
    ¬ (∀ (s : State), ((s.tor.final = true ∨ s.tor.candidate = true) ∧ s.tor.lastPicot < s.lastGrid 65536) → False) ∧
    ¬ (∀ (p : Nat) (s : State), let q := s.port p
    (p < 4 ∧ q.state = .up ∧ q.lastDelay + 4096 ≤ s.now) → False) ∧
    ¬ (∀ (p i d : Nat) (s : State), (p < 4 ∧ (s.port p).state = .up) → False) ∧
    ¬ (∀ (p i d a : Nat) (s : State), let q := s.port p
    (p < 4 ∧ q.state = .up ∧ (∃ r ∈ q.delayReq, r.1 = i)) → False) ∧
    ¬ (∀ (s : State), (s.tor.candidate = true ∧ s.tor.final = false ∧ s.tor.electAt + 16 * 65536 ≤ s.now) → False) ∧
    ¬ (∀ (s : State), let x := s.tor
    x.final = true → x.isRoot = false → x.holdover = false → x.upHeard + 3 * 65536 ≤ s.now → (∀ p < 4, (s.port p).state ≠ .up) → False) ∧
    ¬ (∀ (s : State), let x := s.tor
    x.final = false ∨ x.isRoot = true ∨ x.holdover = true ∨ s.now < x.upHeard + 3 * 65536 → False) ∧
    ¬ (∀ (s : State), (s.tor.holdover = true ∧ s.tor.upHeard + 16 * 65536 ≤ s.now) → False) ∧
    ¬ (∀ (p : Path) (low k : Nat) (s : State), (p = .bar2) → False) :=
  ⟨fun h => h 3 (BitVec.ofNat 64 (2 ^ 60)) 5 (withPort 3 { state := .up } svc) (by decide +kernel),
    fun h => h (withPort 3 { state := .up } bound) (by decide +kernel),
    fun h => h 3 (withPort 3 { state := .up } svc) (by decide +kernel),
    fun h => h 3 65535 (2 ^ 32 - 1) (withPort 3 { state := .up } svc) (by decide +kernel),
    fun h => h 3 7 1 9 (withPort 3 { state := .up, delayReq := some (7, 2) } svc) (by decide +kernel),
    fun h => h ({ svc with tor := { svc.tor with candidate := true } }) (by decide +kernel),
    fun h => by
      refine h bound ?_ ?_ ?_ ?_ ?_ <;> decide +kernel,
    fun h => h svc (by decide +kernel),
    fun h => h ({ svc with tor := { svc.tor with holdover := true } }) (by decide +kernel),
    fun h => h .bar2 0 0 svc (by decide +kernel)⟩

/-- States and operands that meet the hypotheses of ForwardsAndStarts. -/
theorem test_meets_ForwardsAndStarts :
    ¬ (∀ (pk : PktIn) (s : State), Arrives 1 pk s → False) ∧
    ¬ (∀ (pk : PktIn) (s : State), Arrives 2 pk s → False) ∧
    ¬ (∀ (pk : PktIn) (s : State), Accepted 3 pk s → False) ∧
    ¬ (∀ (pk : PktIn) (s : State), hdrX (hdrOf pk.words) ≠ s.tor.x ∨ hdrY (hdrOf pk.words) ≠ s.tor.y → Accepted 1 pk s → False) ∧
    ¬ (∀ (pk : PktIn) (s : State), hdrX (hdrOf pk.words) ≠ s.tor.x ∨ hdrY (hdrOf pk.words) ≠ s.tor.y → Accepted 2 pk s → False) ∧
    ¬ (∀ (pk : PktIn) (s : State) (c : Instr), pk.port ≠ 4 → 4 < pk.port ∨ (s.port pk.port).state ≠ .up ∨ (s.port pk.port).freq = true ∨ (s.port pk.port).ignoring = true → c ∈ [Instr.fwdRec pk, .fwdAck pk, .start pk, .proxyOpen pk, .pack pk, .regRd pk, .regWr pk, .regRsp pk, .memWr pk, .memData pk] → False) :=
  ⟨fun h => h (localPk 1 6 [3, 0, 2 ^ 32 - 1, 1]) (withCh 3 { slotChan 0 with func := .capture, seq := { (slotChan 0).seq with sect := some { sectOf .capture 1 with addressed := true } }, cap := { fwdAccept := true } } svc) (by unfold Arrives Accepted; decide +kernel),
    fun h => h (localPk 2 1 [3]) svc (by unfold Arrives Accepted; decide +kernel),
    fun h => h (localPk 3 2 [7]) bound (by unfold Accepted; decide +kernel),
    fun h => h (localPk 1 6 [3]) ({ svc with tor := { svc.tor with x := 1 } }) (by decide +kernel) (by unfold Accepted; decide +kernel),
    fun h => h (localPk 2 1 [3]) ({ svc with tor := { svc.tor with x := 1 } }) (by decide +kernel) (by unfold Accepted; decide +kernel),
    fun h => by
      refine h { localPk 3 2 [7] with port := 5 } svc (.start ({ localPk 3 2 [7] with port := 5 })) ?_ ?_ ?_ <;> decide +kernel⟩

/-- States and operands that meet the hypotheses of ProxyRequests. -/
theorem test_meets_ProxyRequests :
    ¬ (∀ (pk : PktIn) (s : State), Arrives 4 pk s → pkOp pk = 0 → False) ∧
    ¬ (∀ (pk : PktIn) (s : State), Arrives 4 pk s → pkOp pk = 1 → False) ∧
    ¬ (∀ (pk : PktIn) (f : Fetch) (s : State) (c : Instr) (n : Nat), (n, c) ∈ [(2, Instr.regRd pk), (3, .regWr pk), (4, .regRsp pk), (5, .memRd pk f), (6, .memWr pk), (7, .memData pk)] → Arrives 4 pk s → pkOp pk = n → pkSeq pk ≠ (s.px pk.src).rx → False) ∧
    ¬ (∀ (pk : PktIn) (s : State), Arrives 4 pk s → pkOp pk = 2 → pkSeq pk = (s.px pk.src).rx → False) ∧
    ¬ (∀ (pk : PktIn) (s : State), Arrives 4 pk s → pkOp pk = 3 → pkSeq pk = (s.px pk.src).rx → pkOffset pk ≠ 0x18028 → False) ∧
    ¬ (∀ (pk : PktIn) (s : State), Arrives 4 pk s → pkOp pk = 4 → pkSeq pk = (s.px pk.src).rx → False) ∧
    ¬ (∀ (pk : PktIn) (f : Fetch) (s : State), Arrives 4 pk s → pkOp pk = 5 → pkSeq pk = (s.px pk.src).rx → False) ∧
    ¬ (∀ (pk : PktIn) (s : State), Arrives 4 pk s → pkOp pk = 6 → pkSeq pk = (s.px pk.src).rx → False) ∧
    ¬ (∀ (pk : PktIn) (s : State), Arrives 4 pk s → pkOp pk = 7 → pkSeq pk = (s.px pk.src).rx → False) ∧
    ¬ (∀ (pk : PktIn) (f : Fetch) (s : State) (c : Instr), pk.port ≠ 4 → 4 < pk.port ∨ (s.port pk.port).state ≠ .up → c = .memRd pk f → False) :=
  ⟨fun h => h (proxyPk 0 []) svc (by unfold Arrives Accepted; decide +kernel) (by decide +kernel),
    fun h => h (proxyPk 1 [0]) ({ bound with tor := { bound.tor with  px := [(9, { unacked := [{ pseq := 65535, op := 2, words := [] }] })] } }) (by unfold Arrives Accepted; decide +kernel) (by decide +kernel),
    fun h => by
      refine h (proxyPk 7 [0]) .failed ({ bound with tor := { bound.tor with px := [(9, { rx := 1 })] } }) (.memData (proxyPk 7 [0])) 7 ?_ (by unfold Arrives Accepted; decide +kernel) ?_ ?_ <;> decide +kernel,
    fun h => h (proxyPk 2 [0x8000]) bound (by unfold Arrives Accepted; decide +kernel) (by decide +kernel) (by decide +kernel),
    fun h => by
      refine h (proxyPk 3 [0x4000, 5]) bound (by unfold Arrives Accepted; decide +kernel) ?_ ?_ ?_ <;> decide +kernel,
    fun h => h (proxyPk 4 [0, 0]) ({ bound with tor := { bound.tor with pxBusy := true, pxFor := 9 } }) (by unfold Arrives Accepted; decide +kernel) (by decide +kernel) (by decide +kernel),
    fun h => h (proxyPk 5 [0, 0, 4096]) .failed bound (by unfold Arrives Accepted; decide +kernel) (by decide +kernel) (by decide +kernel),
    fun h => h (proxyPk 6 [0, 0, 64]) bound (by unfold Arrives Accepted; decide +kernel) (by decide +kernel) (by decide +kernel),
    fun h => h (proxyPk 7 [0]) bound (by unfold Arrives Accepted; decide +kernel) (by decide +kernel) (by decide +kernel),
    fun h => by
      refine h { localPk 3 2 [7] with port := 5 } .failed svc (.memRd ({ localPk 3 2 [7] with port := 5 }) .failed) ?_ ?_ ?_ <;> decide +kernel⟩

/-- States and operands that meet the hypotheses of ProxyWindowAndSupplies. -/
theorem test_meets_ProxyWindowAndSupplies :
    ¬ (∀ (v : Word) (s : State), bit v.toNat 31 = true → False) ∧
    ¬ (∀ (v : Word) (s : State), bit v.toNat 30 = true → False) ∧
    ¬ (∀ (v : Word) (s : State), bit v.toNat 31 = false → bit v.toNat 30 = false → False) ∧
    ¬ (∀ (s : State), ∀ (i : Nat), i ∈ s.tor.px.map (·.1) → (s.px i).unacked ≠ [] → (s.px i).adv + 262144 ≤ s.now → False) ∧
    ¬ (∀ (s : State), (∀ i ∈ s.tor.px.map (·.1), (s.px i).unacked = [] ∨ s.now < (s.px i).adv + 262144) → False) ∧
    ¬ (∀ (s : State), (s.tor.pxBusy = true ∧ s.tor.pxSince + 2 ^ 24 ≤ s.now) → False) ∧
    ¬ (∀ (s : State), (s.pwr.vddlUp = false ∧ 4 ≤ s.pwr.step) → False) :=
  ⟨fun h => h 0x80000000#32 svc (by decide +kernel),
    fun h => h 0x40000000#32 svc (by decide +kernel),
    fun h => h 0#32 svc (by decide +kernel) (by decide +kernel),
    fun h => by
      refine h ({ bound with tor := { bound.tor with  px := [(9, { unacked := [{ pseq := 65535, op := 2, words := [] }] })] } }) 9 ?_ ?_ ?_ <;> decide +kernel,
    fun h => h svc (by decide +kernel),
    fun h => h ({ bound with tor := { bound.tor with pxBusy := true, pxFor := 9 } }) (by decide +kernel),
    fun h => h (inPwr (fun p => { p with vddlUp := false }) svc) (by decide +kernel)⟩

/-- States and operands that meet the hypotheses of StepTakesFront. -/
theorem test_meets_StepTakesFront :
    ¬ (∀ (c : Instr) (rest : List Instr) (s : State), s.pending = c :: rest → False) :=
  fun h => h (.fltAckAll []) [] ({ svc with pending := [.fltAckAll []] }) (by decide +kernel)

/-- States and operands that meet the hypotheses of IdleTick. -/
theorem test_meets_IdleTick :
    ¬ (∀ s : State, s.pending = [] → False) :=
  fun h => h svc (by decide +kernel)

/-- States and operands that meet the hypotheses of MemoryCanonical. -/
theorem test_meets_MemoryCanonical :
    ¬ (∀ s t : State, memOk s → step s = .next t → False) :=
  fun h => h svc svc.tick (by unfold memOk; decide +kernel) rfl

/-- States and operands that meet the hypotheses of LogsCanonical. -/
theorem test_meets_LogsCanonical :
    ¬ (∀ s t : State, logsOk s → step s = .next t → False) :=
  fun h => h svc svc.tick (logsNil rfl rfl) rfl

/-- States and operands that meet the hypotheses of StoresStayInPlace. -/
theorem test_meets_StoresStayInPlace :
    ¬ (∀ (ch : Nat) (w : Word) (h : StoreHit) (s : State) (cs : List Codeword), s.slotNow ch opWR = some w → (s.wrData ch w h).1 = some cs → False) ∧
    ¬ (∀ (ch : Nat) (w : Word) (h : StoreHit) (s : State), s.slotNow ch opWR = some w → (s.wrData ch w h).1 = none → False) ∧
    ¬ (∀ (ch : Nat) (w : Word) (h : StoreHit) (s : State), s.slotNow ch opRMW = some w → isReadHalf w = false → (s.chan ch).cap.writeReady = true → False) ∧
    ¬ (∀ (c : Instr) (s : State), c.writes.dram = false → False) :=
  ⟨fun h => h 3 (slotW opWR 0) .clean (slotSt (slotW opWR 0)) (((slotSt (slotW opWR 0)).wrData 3 (slotW opWR 0) .clean).1.getD []) (by decide +kernel) (optOf (by decide +kernel)),
    fun h => h 3 (slotW opWR dpANAW) .clean (withCh 3 { slotChan (slotW opWR dpANAW) with starved := true } svc) (by decide +kernel) (by decide +kernel),
    fun h => by
      refine h 3 (slotW opRMW dpCAPW) .clean (slotSt (slotW opRMW dpCAPW)) ?_ ?_ ?_ <;> decide +kernel,
    fun h => h (.fltAckAll []) svc (by decide +kernel)⟩

/-- States and operands that meet the hypotheses of ResetValues. -/
theorem test_meets_ResetValues :
    ¬ (∀ (off : Nat), off ∈ [0x40304, 0x40310] → False) :=
  fun h => h 0x40310 (by decide +kernel)

/-- States and operands that meet the hypotheses of DirectAddressesAreChecked. -/
theorem test_meets_DirectAddressesAreChecked :
    ¬ (∀ (n : Nat) (fs : List Fetch) (s : State) (d : Desc), d.daAddr / 2 ^ 36 ≠ 0 ∨ d.daAddr % 32 ≠ 0 → s.startable n 0x10 = some d → False) ∧
    ¬ (∀ (n : Nat) (fs : List Fetch) (s : State) (d : Desc), d.daAddr / 2 ^ 36 ≠ 0 ∨ d.daAddr % 32 ≠ 0 → s.startable n 0x11 = some d → False) ∧
    ¬ (∀ (n : Nat) (fs : List Fetch) (s : State) (d : Desc), d.daAddr / 2 ^ 36 ≠ 0 ∨ d.daAddr % 32 ≠ 0 → s.startable n 0x12 = some d → False) :=
  ⟨fun h => h 20 [] (access (daDesc 0x10 (2 ^ 36) 32)) (daDesc 0x10 (2 ^ 36) 32) (by decide +kernel) (by decide +kernel),
    fun h => h 20 [] (access (daDesc 0x11 16 32)) (daDesc 0x11 16 32) (by decide +kernel) (by decide +kernel),
    fun h => h 20 [] (access (daDesc 0x12 (2 ^ 36) 32)) (daDesc 0x12 (2 ^ 36) 32) (by decide +kernel) (by decide +kernel)⟩

/-- States and operands that meet the hypotheses of TimeIsLatched. -/
theorem test_meets_TimeIsLatched :
    ¬ (∀ (p : Path) (s u : State), u.tor.timeLatch = (s.readReg p 0x18014).2.tor.timeLatch → False) ∧
    ¬ (∀ (p : Path) (s : State), Sparse.find? s.tor.timeLatch (Path.key p) = none → False) :=
  ⟨fun h => h .bar0 svc (svc.readReg .bar0 0x18014).2 (by decide +kernel),
    fun h => h .bar0 svc (by decide +kernel)⟩

/-- States and operands that meet the hypotheses of StartsAreRefused. -/
theorem test_meets_StartsAreRefused :
    ¬ (∀ (n : Nat) (b : Bool) (s : State) (d : Desc), s.startable n 0x41 = some d → bits (d.u32 0x10) 7 7 = 0 → d.u32 0x10 / 512 = 0 → d.u32 0x14 < 2 ^ 16 → d.zero 0x18 0x40 = true → let ch := d.u32 0x10 % 128
    ch < s.members → (s.chan ch).state = .running ∨ ((s.chan ch).state = .starting ∧ (s.chan ch).starter ≠ some (n, d.seq)) → False) ∧
    ¬ (∀ (n : Nat) (f : Fetch) (k : List Nat) (s : State) (d : Desc) (b : List Byte) (h : Header) (pre : List DirEntry) (e : DirEntry) (post : List DirEntry) (r : List Section × List LaneSection) (x : Section), s.startedOp n 0x40 = none → s.startable n 0x40 = some d → s.hostUp = true → s.firstLoad d = true → d.u64 0x10 % 8 = 0 → d.u32 0x1C / 2 = 0 → d.zero 0x20 0x40 = true → fetchData f = some b → checkHeader b (d.u32 0x18) = .ok h → checkDirectory b h s.members = .ok (pre ++ e :: post) → checkSections s.checkEnv b h pre = .ok r → e.typ = 1 → e.crcOf b = e.crc → checkChanFormat s.checkEnv ((b.drop e.off).take e.len) e.idx h = .ok x → (s.chan e.idx).state = .stopping → False) ∧
    ¬ (∀ (n : Nat) (f : Fetch) (x : Bool) (k : List Nat) (s : State) (d : Desc) (img : Image) (b : List Byte) (y : Section), s.startedOp n 0x40 = some d → s.hostUp = true → parseImage s.checkEnv.open_ d.staged (d.u32 0x18) = .ok img → fetchData f = some b → secondBad b img.entries = none → y ∈ img.chans → (s.chan y.chan).state = .stopping → s.checkEnv.band y.chan ≤ y.cover → False) :=
  ⟨fun h => by
      refine h 0 false (withCh 3 { slotChan 0 with state := .starting } (admin (descOf 0x41 [3, 0, 0, 0, 0, 0]))) (descOf 0x41 [3, 0, 0, 0, 0, 0]) ?_ ?_ ?_ ?_ ?_ ?_ ?_ <;> decide +kernel,
    fun h => by
      refine h 0 (.ok imageBytes) [] (withCh 0 { state := .stopping } (admin (descOf 0x40 [0, 504, 0, 0, 0, 0]))) (descOf 0x40 [0, 504, 0, 0, 0, 0]) imageBytes (okD default (checkHeader imageBytes 504)) [] ((okD [] (checkDirectory imageBytes (okD default (checkHeader imageBytes 504)) 128)).getD 0 default) [] ([], []) (okD default (checkChanFormat svc.checkEnv sectBytes 0 (okD default (checkHeader imageBytes 504)))) ?_ ?_ ?_ ?_ ?_ ?_ ?_ ?_ (okOf ?_) (by rfl) rfl ?_ ?_ (by rfl) ?_ <;> decide +kernel,
    fun h => by
      refine h 0 (.ok imageBytes) false [] (withCh 0 { state := .stopping } (admin ({ descOf 0x40 [0, 504, 0, 0, 0, 0] with phase := .started, staged := imageBytes }))) ({ descOf 0x40 [0, 504, 0, 0, 0, 0] with phase := .started, staged := imageBytes }) (okD default (parseImage (withCh 0 { state := .stopping } (admin ({ descOf 0x40 [0, 504, 0, 0, 0, 0] with phase := .started, staged := imageBytes }))).checkEnv.open_ imageBytes 504)) imageBytes ((okD default (parseImage (withCh 0 { state := .stopping } (admin ({ descOf 0x40 [0, 504, 0, 0, 0, 0] with phase := .started, staged := imageBytes }))).checkEnv.open_ imageBytes 504)).chans.getD 0 {}) ?_ ?_ (okOf ?_) ?_ ?_ ?_ ?_ ?_ <;> decide +kernel⟩

/-- States and operands that meet the hypotheses of HeldStarts. -/
theorem test_meets_HeldStarts :
    ¬ (∀ (n : Nat) (b : Bool) (s : State) (d : Desc), s.startable n 0x41 = some d → bits (d.u32 0x10) 7 7 = 0 → d.u32 0x10 / 512 = 0 → d.u32 0x14 < 2 ^ 16 → d.zero 0x18 0x40 = true → let ch := d.u32 0x10 % 128
    ch < s.members → (s.chan ch).state = .stopping → (s.chan ch).held = none → False) ∧
    ¬ (∀ (n : Nat) (b : Bool) (s : State) (d : Desc), s.startable n 0x41 = some d → bits (d.u32 0x10) 7 7 = 0 → d.u32 0x10 / 512 = 0 → d.u32 0x14 < 2 ^ 16 → d.zero 0x18 0x40 = true → let ch := d.u32 0x10 % 128
    ch < s.members → (s.chan ch).state = .stopping → (s.chan ch).held.isSome → False) ∧
    ¬ (∀ (n : Nat) (s : State) (d : Desc) (h : HeldStart) (e : Desc), s.startable n 0x42 = some d → bits (d.u32 0x10) 7 7 = 0 → d.u32 0x10 / 1024 = 0 → bits (d.u32 0x10) 9 8 < 2 → d.zero 0x14 0x40 = true → let ch := d.u32 0x10 % 128
    ch < s.members → (s.chan ch).state = .stopping → (s.chan ch).held = some h → e ∈ (s.ctx h.ctx).acc → e.seq = h.seq → e.phase ≠ .done → h.ctx ≠ n → False) :=
  ⟨fun h => by
      refine h 0 false (withCh 3 { slotChan 0 with state := .stopping } (admin (descOf 0x41 [3, 0, 0, 0, 0, 0]))) (descOf 0x41 [3, 0, 0, 0, 0, 0]) ?_ ?_ ?_ ?_ ?_ ?_ ?_ ?_ <;> decide +kernel,
    fun h => by
      refine h 0 false (withCh 3 { slotChan 0 with state := .stopping, held := some { ctx := 1, seq := 4, group := 0, resume := false } } (admin (descOf 0x41 [3, 0, 0, 0, 0, 0]))) (descOf 0x41 [3, 0, 0, 0, 0, 0]) ?_ ?_ ?_ ?_ ?_ ?_ ?_ ?_ <;> decide +kernel,
    fun h => by
      refine h 0 { (withCh 3 { slotChan 0 with state := .stopping, held := some { ctx := 1, seq := 4, group := 0, resume := false } } (admin (descOf 0x42 [3, 0, 0, 0, 0, 0]))) with ctxs := [(0, { state := .enabled, acc := [(descOf 0x42 [3, 0, 0, 0, 0, 0])] }), (1, { state := .enabled, acc := [{ descOf 0x41 [3, 0, 0, 0, 0, 0] with seq := 4, phase := .started }] })] } (descOf 0x42 [3, 0, 0, 0, 0, 0]) { ctx := 1, seq := 4, group := 0, resume := false } { descOf 0x41 [3, 0, 0, 0, 0, 0] with seq := 4, phase := .started } ?_ ?_ ?_ ?_ ?_ ?_ ?_ ?_ ?_ ?_ ?_ ?_ <;> decide +kernel⟩

/-- States and operands that meet the hypotheses of ForbiddenTapInstructions. -/
theorem test_meets_ForbiddenTapInstructions :
    ¬ (∀ (k : Nat) (s : State), s.otp.tapOk k = false → logsOk s → False) :=
  fun h => h 5 svc (by decide +kernel) (logsNil rfl rfl)

/-- States and operands that meet the hypotheses of SafeExitsAreRefused. -/
theorem test_meets_SafeExitsAreRefused :
    ¬ (∀ (n : Nat) (s : State) (d : Desc) (c : PwrChange), s.startable n 0x4A = some d → parseRequest n d = some c → c.target = .service → s.pwr.mode = .safe → s.pwr.change = none → s.pwr.pendingReq = none → (s.thm.tripActive = true ∨ ∃ e ∈ s.flt.log, e.2.cls = 4) → False) ∧
    ¬ (∀ (p : Path) (s : State), p ≠ .bar2 → s.pwr.mode = .safe → (s.pwr.wakePath p).1 = true → s.pwr.change = none → s.pwr.pendingReq = none → logsOk s → (s.thm.tripActive = true ∨ ∃ e ∈ s.flt.log, e.2.cls = 4) → False) :=
  ⟨fun h => by
      refine h 0 (inPwr (fun p => { p with mode := .safe }) { (admin (descOf 0x4A [pairOf 1, 0, 0, 0, 0, 0])) with thm := { svc.thm with tripActive := true } }) (descOf 0x4A [pairOf 1, 0, 0, 0, 0, 0]) ((parseRequest 0 (descOf 0x4A [pairOf 1, 0, 0, 0, 0, 0])).getD { target := .safe }) ?_ (optOf ?_) ?_ ?_ ?_ ?_ ?_ <;> decide +kernel,
    fun h => by
      refine h .bar0 (inPwr (fun p => { p with mode := .safe }) ({ svc with thm := { svc.thm with tripActive := true } })) ?_ ?_ ?_ ?_ ?_ (logsNil rfl rfl) ?_ <;> decide +kernel⟩

/-- States and operands that meet the hypotheses of ReplaysFailTheLink. -/
theorem test_meets_ReplaysFailTheLink :
    ¬ (∀ (p : Nat) (s : State), p < 4 → (s.port p).state = .up → (s.port p).freq = false → (s.port p).unacked ≠ [] → (s.port p).lastAdv + 2048 ≤ s.now → 3 ≤ (s.port p).replays → logsOk s → False) ∧
    ¬ (∀ (p : Nat) (s : State), p < 4 → (s.group true (8 + p)).state.running = true → logsOk s → False) :=
  ⟨fun h => by
      refine h 3 (withPort 3 { state := .up, unacked := [(0, 5), (1, 6)], txSeq := 2, replays := 3 } svc) ?_ ?_ ?_ ?_ ?_ ?_ (logsNil rfl rfl) <;> decide +kernel,
    fun h => h 3 (withGrp 19 { state := .up } svc) (by decide +kernel) (by decide +kernel) (logsNil rfl rfl)⟩

/-- States and operands that meet the hypotheses of OccurrencesEnterTheLog. -/
theorem test_meets_OccurrencesEnterTheLog :
    ¬ (∀ (f : Faults) (o : Occurrence), o.active = false → (∀ e ∈ f.log, e.2.matches o = true → e.2.ack = true) → False) ∧
    ¬ (∀ (f : Faults) (o : Occurrence), o.active = false → ∀ (i : Nat) (e : FltEntry), pickLsn true f.log (fun e => e.matches o && !e.ack) = some (i, e) → f.escalate = false → o.cause.noMerge = true → False) ∧
    ¬ (∀ (f : Faults) (o : Occurrence), o.active = false → ∀ (i : Nat) (e : FltEntry), pickLsn true f.log (fun e => e.matches o && !e.ack) = some (i, e) → f.escalate = false → o.cause.noMerge = false → False) ∧
    ¬ (∀ (f : Faults) (o : Occurrence), o.active = false → ∀ (i : Nat) (e : FltEntry), pickLsn true f.log (fun e => e.matches o && !e.ack) = some (i, e) → f.escalate = true → False) ∧
    ¬ (∀ (f : Faults) (o : Occurrence) (c : Nat) (x : Bool), logOk f.log → ∀ (i : Nat), i < 128 → (∀ j < i, ∃ e ∈ f.log, e.1 = j) → (∀ e ∈ f.log, e.1 ≠ i) → False) ∧
    ¬ (∀ (f : Faults) (o : Occurrence) (c : Nat) (x : Bool), logOk f.log → (∀ i < 128, ∃ e ∈ f.log, e.1 = i) → (∀ e ∈ f.log, c ≤ e.2.cls ∨ e.2.active = true) → False) ∧
    ¬ (∀ (f : Faults) (o : Occurrence) (c : Nat) (x : Bool), logOk f.log → (∀ i < 128, ∃ e ∈ f.log, e.1 = i) → (∃ e ∈ f.log, e.2.cls < c ∧ e.2.active = false) → False) :=
  ⟨fun h => h {} { cause := Cause.torLinkFail, inst := 3 } (by decide +kernel) (by decide +kernel),
    fun h => by
      refine h { log := [(0, entryOf Cause.contractBreak 3)] } { cause := Cause.contractBreak, inst := 3 } ?_ 0 (entryOf Cause.contractBreak 3) ?_ ?_ ?_ <;> decide +kernel,
    fun h => by
      refine h { log := [(0, entryOf Cause.torLinkFail 3)] } { cause := Cause.torLinkFail, inst := 3 } ?_ 0 (entryOf Cause.torLinkFail 3) ?_ ?_ ?_ <;> decide +kernel,
    fun h => by
      refine h { log := [(0, entryOf Cause.torLinkFail 3)], escalate := true } { cause := Cause.torLinkFail, inst := 3 } ?_ 0 (entryOf Cause.torLinkFail 3) ?_ ?_ <;> decide +kernel,
    fun h => by
      refine h { log := [(0, entryOf Cause.torLinkFail 3)] } { cause := Cause.torLinkFail, inst := 3 } 2 false (by unfold logOk; decide +kernel) 1 ?_ ?_ ?_ <;> decide +kernel,
    fun h => h (fullLog fun i => entryOf Cause.torLinkFail i) { cause := Cause.torLinkFail, inst := 3 } 2 false (by unfold logOk; decide +kernel) (by decide +kernel) (by decide +kernel),
    fun h => h (fullLog fun i => entryOf Cause.torLinkFail i) { cause := Cause.torLinkFail, inst := 3 } 3 false (by unfold logOk; decide +kernel) (by decide +kernel) (by decide +kernel)⟩

end Sys2Proof.Tests
end

/-! PROOF. What every command does: it answers a next state, keeps the queue, the outputs so far and the canonical forms, and
writes no kind of state but those of its row in the table of write sets (Safety.lean). -/

namespace Sys2Proof.Laws

open Sys2Proof Sys2Proof.Machine

/-- Every command keeps the queue, what has left the block, and the canonical forms of the array and the fault logs. -/
theorem exec_keeps (c : Instr) (s : State) : KeepsR s (exec c s) := by
  cases c with
  | nop ctx => exact execNop_keeps ctx s (.refl s)
  | wait ctx => exact execWait_keeps ctx s (.refl s)
  | waitDone ctx => exact execWaitDone_keeps ctx s (.refl s)
  | read ctx => exact execRead_keeps ctx s (.refl s)
  | write ctx fetches => exact execWrite_keeps ctx fetches s (.refl s)
  | fill ctx => exact execFill_keeps ctx s (.refl s)
  | run ctx => exact execRun_keeps ctx s (.refl s)
  | runComplete ch => exact execRunComplete_keeps ch s (.refl s)
  | loadPricking ctx image checkerFault badCkpts => exact execLoadPricking_keeps ctx image checkerFault badCkpts s (.refl s)
  | funcStart ctx badCkpt => exact execFuncStart_keeps ctx badCkpt s (.refl s)
  | funcStop ctx => exact execFuncStop_keeps ctx s (.refl s)
  | ctxConfig ctx => exact execCtxConfig_keeps ctx s (.refl s)
  | ctxDisable ctx => exact execCtxDisable_keeps ctx s (.refl s)
  | ctxQuery ctx => exact execCtxQuery_keeps ctx s (.refl s)
  | patchTable ctx table => exact execPatchTable_keeps ctx table s (.refl s)
  | fuseProgram ctx railsOk vfuse => exact execFuseProgram_keeps ctx railsOk vfuse s (.refl s)
  | powerRequest ctx => exact execPowerRequest_keeps ctx s (.refl s)
  | pendingRequestBegin => exact execPendingRequestBegin_keeps s (.refl s)
  | firmwareLoad ctx image => exact execFirmwareLoad_keeps ctx image s (.refl s)
  | fwFallback => exact execFwFallback_keeps s (.refl s)
  | dbNudge ctx => exact execDbNudge_keeps ctx s (.refl s)
  | dbNudgeAll => exact execDbNudgeAll_keeps s (.refl s)
  | doorbellPoll => exact execDoorbellPoll_keeps s (.refl s)
  | doorbellRead ctx pi piC badRecord => exact execDoorbellRead_keeps ctx pi piC badRecord s (.refl s)
  | descriptorExamine ctx bytes operandFail => exact execDescriptorExamine_keeps ctx bytes operandFail s (.refl s)
  | headRefetch ctx bytes => exact execHeadRefetch_keeps ctx bytes s (.refl s)
  | journalConfirm ctx seq => exact execJournalConfirm_keeps ctx seq s (.refl s)
  | msixTimeout ctx => exact execMsixTimeout_keeps ctx s (.refl s)
  | dbBaseWrite value => exact execDbBaseWrite_keeps value s (.refl s)
  | admcfgCommit value => exact execAdmcfgCommit_keeps value s (.refl s)
  | admcfgDisable value => exact execAdmcfgDisable_keeps value s (.refl s)
  | prickingStart ch => exact execPrickingStart_keeps ch s (.refl s)
  | nopSlot ch hit => exact execNopSlot_keeps ch hit s (.refl s)
  | act ch => exact execAct_keeps ch s (.refl s)
  | rd ch => exact execRd_keeps ch s (.refl s)
  | wr ch hit => exact execWr_keeps ch hit s (.refl s)
  | rmw ch hit => exact execRmw_keeps ch hit s (.refl s)
  | pre ch => exact execPre_keeps ch s (.refl s)
  | prea ch => exact execPrea_keeps ch s (.refl s)
  | refab ch => exact execRefab_keeps ch s (.refl s)
  | refpb ch => exact execRefpb_keeps ch s (.refl s)
  | openRun ch noise storeFail => exact execOpenRun_keeps ch noise storeFail s (.refl s)
  | scrub ch w => exact execScrub_keeps ch w s (.refl s)
  | train ch w => exact execTrain_keeps ch w s (.refl s)
  | cal ch w => exact execCal_keeps ch w s (.refl s)
  | bist ch w => exact execBist_keeps ch w s (.refl s)
  | fetch ch => exact execFetch_keeps ch s (.refl s)
  | mark ch => exact execMark_keeps ch s (.refl s)
  | tierSwitch ch => exact execTierSwitch_keeps ch s (.refl s)
  | shutDown ch => exact execShutDown_keeps ch s (.refl s)
  | steal ch => exact execSteal_keeps ch s (.refl s)
  | idleSchedule ch w storeFail hoop => exact execIdleSchedule_keeps ch w storeFail hoop s (.refl s)
  | readData ch noise hit remapHit => exact execReadData_keeps ch noise hit remapHit s (.refl s)
  | wordRelease ch group => exact execWordRelease_keeps ch group s (.refl s)
  | recordComplete ch group hit => exact execRecordComplete_keeps ch group hit s (.refl s)
  | scrubPeriodBoundary ch => exact execScrubPeriodBoundary_keeps ch s (.refl s)
  | monitorWindow ch => exact execMonitorWindow_keeps ch s (.refl s)
  | parityFlag ch word refused => exact execParityFlag_keeps ch word refused s (.refl s)
  | strobeLoss ch rstAnswers fckAnswers => exact execStrobeLoss_keeps ch rstAnswers fckAnswers s (.refl s)
  | lockstep ch sigs => exact execLockstep_keeps ch sigs s (.refl s)
  | bistIdleTimer ch => exact execBistIdleTimer_keeps ch s (.refl s)
  | heartbeatLoss ch edge => exact execHeartbeatLoss_keeps ch edge s (.refl s)
  | selfRefreshExit ch clean w badRemap => exact execSelfRefreshExit_keeps ch clean w badRemap s (.refl s)
  | sensorSample readings => exact execSensorSample_keeps readings s (.refl s)
  | sensorRecover sensor => exact execSensorRecover_keeps sensor s (.refl s)
  | bandFall die => exact execBandFall_keeps die s (.refl s)
  | evaluation => exact execEvaluation_keeps s (.refl s)
  | rungRestore => exact execRungRestore_keeps s (.refl s)
  | orderlyTripComplete => exact execOrderlyTripComplete_keeps s (.refl s)
  | orderlyTripTimeout => exact execOrderlyTripTimeout_keeps s (.refl s)
  | tripConditionClear => exact execTripConditionClear_keeps s (.refl s)
  | coolDemPeriod lowReadsHigh releasedReadsLow => exact execCoolDemPeriod_keeps lowReadsHigh releasedReadsLow s (.refl s)
  | coolStuck => exact execCoolStuck_keeps s (.refl s)
  | coolStuckClear => exact execCoolStuckClear_keeps s (.refl s)
  | tdConversion input dvUv v1Uv vrUv => exact execTdConversion_keeps input dvUv v1Uv vrUv s (.refl s)
  | tdFault input => exact execTdFault_keeps input s (.refl s)
  | tdRecover input => exact execTdRecover_keeps input s (.refl s)
  | coolCfgWrite value => exact execCoolCfgWrite_keeps value s (.refl s)
  | coldReset => exact execColdReset_keeps s (.refl s)
  | regRdy straps inRange => exact execRegRdy_keeps straps inRange s (.refl s)
  | oscRdy inRange reads badHeader => exact execOscRdy_keeps inRange reads badHeader s (.refl s)
  | memRdy inRange => exact execMemRdy_keeps inRange s (.refl s)
  | logicRdy inRange sweep goodRows checks bad => exact execLogicRdy_keeps inRange sweep goodRows checks bad s (.refl s)
  | seqRail step => exact execSeqRail_keeps step s (.refl s)
  | seqOrder step => exact execSeqOrder_keeps step s (.refl s)
  | bringUpComplete => exact execBringUpComplete_keeps s (.refl s)
  | saveTrigger cause => exact execSaveTrigger_keeps cause s (.refl s)
  | saveCommit => exact execSaveCommit_keeps s (.refl s)
  | warmRestore checks => exact execWarmRestore_keeps checks s (.refl s)
  | vsaveLow => exact execVsaveLow_keeps s (.refl s)
  | chargeTest dvMv esrMohm vsaveMv => exact execChargeTest_keeps dvMv esrMohm vsaveMv s (.refl s)
  | chargeTimeout => exact execChargeTimeout_keeps s (.refl s)
  | hoopWait irqPending => exact execHoopWait_keeps irqPending s (.refl s)
  | wake checks w badRemap => exact execWake_keeps checks w badRemap s (.refl s)
  | wakeTimer => exact execWakeTimer_keeps s (.refl s)
  | pwrWakeWake path => exact execPwrWakeWake_keeps path s (.refl s)
  | pwrWakeSafeExit path => exact execPwrWakeSafeExit_keeps path s (.refl s)
  | safeExit checks => exact execSafeExit_keeps checks s (.refl s)
  | avsPoll answered mv => exact execAvsPoll_keeps answered mv s (.refl s)
  | avsTimeout => exact execAvsTimeout_keeps s (.refl s)
  | devRstWarm => exact execDevRstWarm_keeps s (.refl s)
  | warmReset src => exact execWarmReset_keeps src s (.refl s)
  | devRstHoop => exact execDevRstHoop_keeps s (.refl s)
  | hoopRestart => exact execHoopRestart_keeps s (.refl s)
  | hoopWatchdog => exact execHoopWatchdog_keeps s (.refl s)
  | hostInterfaceReset => exact execHostInterfaceReset_keeps s (.refl s)
  | hostRecovery badJournal => exact execHostRecovery_keeps badJournal s (.refl s)
  | refclkLoss => exact execRefclkLoss_keeps s (.refl s)
  | pinReadback alertLow fatalLow => exact execPinReadback_keeps alertLow fatalLow s (.refl s)
  | fltAck path corrupt => exact execFltAck_keeps path corrupt s (.refl s)
  | fltClear path corrupt => exact execFltClear_keeps path corrupt s (.refl s)
  | fltAckAll corrupt => exact execFltAckAll_keeps corrupt s (.refl s)
  | fltClearAll corrupt => exact execFltClearAll_keeps corrupt s (.refl s)
  | clearLost => exact execClearLost_keeps s (.refl s)
  | selftestGo sigs marchFail => exact execSelftestGo_keeps sigs marchFail s (.refl s)
  | otpRead path value => exact execOtpRead_keeps path value s (.refl s)
  | otpAudit path reads strengthened => exact execOtpAudit_keeps path reads strengthened s (.refl s)
  | auditTimer reads strengthened => exact execAuditTimer_keeps reads strengthened s (.refl s)
  | otpPulseEnd took railsOk vfuse => exact execOtpPulseEnd_keeps took railsOk vfuse s (.refl s)
  | tapInstruction kind => exact execTapInstruction_keeps kind s (.refl s)
  | chPrivWrite path ch value => exact execChPrivWrite_keeps path ch value s (.refl s)
  | chSubstWrite path ch value => exact execChSubstWrite_keeps path ch value s (.refl s)
  | chDaRegWrite path ch cls value => exact execChDaRegWrite_keeps path ch cls value s (.refl s)
  | calForce path ch value => exact execCalForce_keeps path ch value s (.refl s)
  | bistForce path ch => exact execBistForce_keeps path ch s (.refl s)
  | remapClear path ch value => exact execRemapClear_keeps path ch value s (.refl s)
  | laneRetrain path value => exact execLaneRetrain_keeps path value s (.refl s)
  | prbsEnable path value => exact execPrbsEnable_keeps path value s (.refl s)
  | prbsInject path value => exact execPrbsInject_keeps path value s (.refl s)
  | prbsAutoInject group lane => exact execPrbsAutoInject_keeps group lane s (.refl s)
  | prbsSync group lane bits => exact execPrbsSync_keeps group lane bits s (.refl s)
  | dcTestDone rx group outcomes => exact execDcTestDone_keeps rx group outcomes s (.refl s)
  | clockLock group => exact execClockLock_keeps group s (.refl s)
  | laneAlign group lane inverted sym => exact execLaneAlign_keeps group lane inverted sym s (.refl s)
  | alignTimeout group => exact execAlignTimeout_keeps group s (.refl s)
  | trainingBeat group lane sym => exact execTrainingBeat_keeps group lane sym s (.refl s)
  | handshakeTimeout group => exact execHandshakeTimeout_keeps group s (.refl s)
  | markerBeat group lane sym => exact execMarkerBeat_keeps group lane sym s (.refl s)
  | markerSend group => exact execMarkerSend_keeps group s (.refl s)
  | beatLaunch group lane fifoFail => exact execBeatLaunch_keeps group lane fifoFail s (.refl s)
  | receiveBeat group lane sym lead fifoFail => exact execReceiveBeat_keeps group lane sym lead fifoFail s (.refl s)
  | lossOfSignal group lane => exact execLossOfSignal_keeps group lane s (.refl s)
  | lossOfSymbolLock group lane => exact execLossOfSymbolLock_keeps group lane s (.refl s)
  | receiveLossOfLock group => exact execReceiveLossOfLock_keeps group s (.refl s)
  | transmitLossOfLock group => exact execTransmitLossOfLock_keeps group s (.refl s)
  | ident port word => exact execIdent_keeps port word s (.refl s)
  | portRetrain port => exact execPortRetrain_keeps port s (.refl s)
  | freqCheck port diff => exact execFreqCheck_keeps port diff s (.refl s)
  | lack port lseq => exact execLack_keeps port lseq s (.refl s)
  | lnak port lseq => exact execLnak_keeps port lseq s (.refl s)
  | replay port lseq => exact execReplay_keeps port lseq s (.refl s)
  | lnakTimeout port => exact execLnakTimeout_keeps port s (.refl s)
  | replayTimeout port => exact execReplayTimeout_keeps port s (.refl s)
  | queueTimeout port => exact execQueueTimeout_keeps port s (.refl s)
  | picotSend => exact execPicotSend_keeps s (.refl s)
  | picotA port word arrival => exact execPicotA_keeps port word arrival s (.refl s)
  | picotB port word => exact execPicotB_keeps port word s (.refl s)
  | delayReqSend port => exact execDelayReqSend_keeps port s (.refl s)
  | delayReq port id turn => exact execDelayReq_keeps port id turn s (.refl s)
  | delayRsp port id turn arrival => exact execDelayRsp_keeps port id turn arrival s (.refl s)
  | rootElection => exact execRootElection_keeps s (.refl s)
  | holdover => exact execHoldover_keeps s (.refl s)
  | holdoverRoot => exact execHoldoverRoot_keeps s (.refl s)
  | fwdRec pk => exact execFwdRec_keeps pk s (.refl s)
  | fwdAck pk => exact execFwdAck_keeps pk s (.refl s)
  | forwardResend ch tag => exact execForwardResend_keeps ch tag s (.refl s)
  | forwardLost ch tag => exact execForwardLost_keeps ch tag s (.refl s)
  | start pk => exact execStart_keeps pk s (.refl s)
  | torStartGo value => exact execTorStartGo_keeps value s (.refl s)
  | proxyOpen pk => exact execProxyOpen_keeps pk s (.refl s)
  | pack pk => exact execPack_keeps pk s (.refl s)
  | regRd pk => exact execRegRd_keeps pk s (.refl s)
  | regWr pk => exact execRegWr_keeps pk s (.refl s)
  | regRsp pk => exact execRegRsp_keeps pk s (.refl s)
  | memRd pk data => exact execMemRd_keeps pk data s (.refl s)
  | memWr pk => exact execMemWr_keeps pk s (.refl s)
  | memData pk => exact execMemData_keeps pk s (.refl s)
  | proxyResend => exact execProxyResend_keeps s (.refl s)
  | proxyLost => exact execProxyLost_keeps s (.refl s)
  | proxyBindingTimeout => exact execProxyBindingTimeout_keeps s (.refl s)
  | goRd value => exact execGoRd_keeps value s (.refl s)
  | goWr value => exact execGoWr_keeps value s (.refl s)
  | release value => exact execRelease_keeps value s (.refl s)
  | pxyTimeout => exact execPxyTimeout_keeps s (.refl s)
  | timeLoRead path low width => exact execTimeLoRead_keeps path low width s (.refl s)
  | counterLoRead path n low width => exact execCounterLoRead_keeps path n low width s (.refl s)
  | counterHiRead path n low width => exact execCounterHiRead_keeps path n low width s (.refl s)
  | latchTimeout path n => exact execLatchTimeout_keeps path n s (.refl s)
  | counterWindow => exact execCounterWindow_keeps s (.refl s)
  | cntCfgWrite n value => exact execCntCfgWrite_keeps n value s (.refl s)
  | cntWindowWrite value => exact execCntWindowWrite_keeps value s (.refl s)
  | crcStart unit value => exact execCrcStart_keeps unit value s (.refl s)
  | crcFinish unit value => exact execCrcFinish_keeps unit value s (.refl s)
  | crcAbort unit value => exact execCrcAbort_keeps unit value s (.refl s)
  | feed4 unit value => exact execFeed4_keeps unit value s (.refl s)
  | feed1 unit value => exact execFeed1_keeps unit value s (.refl s)
  | crcJobDone unit => exact execCrcJobDone_keeps unit s (.refl s)
  | setAddr bytes pecOk => exact execSetAddr_keeps bytes pecOk s (.refl s)
  | smbusRead pec => exact execSmbusRead_keeps pec s (.refl s)
  | smbusWrite bytes pecOk => exact execSmbusWrite_keeps bytes pecOk s (.refl s)
  | wstatus pec => exact execWstatus_keeps pec s (.refl s)
  | regAccessTimeout path isRead => exact execRegAccessTimeout_keeps path isRead s (.refl s)
  | registerWrite path offset width value => exact execRegisterWrite_keeps path offset width value s (.refl s)
  | warmResetEnd => exact execWarmResetEnd_keeps s (.refl s)
  | vddlLow => exact execVddlLow_keeps s (.refl s)
  | vddlReady => exact execVddlReady_keeps s (.refl s)
  | dramRailLow => exact execDramRailLow_keeps s (.refl s)
  | refclkReturn => exact execRefclkReturn_keeps s (.refl s)
  | hoopRunning => exact execHoopRunning_keeps s (.refl s)
  | d3hotEntry => exact execD3hotEntry_keeps s (.refl s)
  | tapReset => exact execTapReset_keeps s (.refl s)
  | selfRefreshInterval ch => exact execSelfRefreshInterval_keeps ch s (.refl s)
  | vsaveArmedLevel mv => exact execVsaveArmedLevel_keeps mv s (.refl s)

/-- Every command writes within its write set. -/
theorem exec_writes (c : Instr) (s : State) : OnlyR c.writes s (exec c s) := by
  cases c with
  | nop ctx => exact execNop_writes ctx s (Only.refl _ s) rfl rfl rfl rfl rfl rfl rfl rfl
  | wait ctx => exact execWait_writes ctx s (Only.refl _ s) rfl rfl rfl rfl rfl rfl rfl rfl
  | waitDone ctx => exact execWaitDone_writes ctx s (Only.refl _ s) rfl rfl rfl rfl rfl rfl rfl rfl
  | read ctx => exact execRead_writes ctx s (Only.refl _ s) rfl rfl rfl rfl rfl rfl rfl rfl
  | write ctx fetches => exact execWrite_writes ctx fetches s (Only.refl _ s) rfl rfl rfl rfl rfl rfl rfl rfl
  | fill ctx => exact execFill_writes ctx s (Only.refl _ s) rfl rfl rfl rfl rfl rfl rfl rfl
  | run ctx => exact execRun_writes ctx s (Only.refl _ s) rfl rfl rfl rfl rfl rfl rfl rfl
  | runComplete ch => exact execRunComplete_writes ch s (Only.refl _ s) rfl rfl rfl rfl rfl rfl rfl rfl
  | loadPricking ctx image checkerFault badCkpts =>
    exact execLoadPricking_writes ctx image checkerFault badCkpts s (Only.refl _ s) rfl rfl rfl rfl rfl rfl rfl rfl rfl rfl
      rfl
  | funcStart ctx badCkpt => exact execFuncStart_writes ctx badCkpt s (Only.refl _ s) rfl rfl rfl rfl rfl rfl rfl rfl rfl
  | funcStop ctx => exact execFuncStop_writes ctx s (Only.refl _ s) rfl rfl rfl rfl rfl rfl rfl rfl rfl rfl
  | ctxConfig ctx => exact execCtxConfig_writes ctx s (Only.refl _ s) rfl rfl rfl rfl rfl rfl rfl rfl
  | ctxDisable ctx => exact execCtxDisable_writes ctx s (Only.refl _ s) rfl rfl rfl rfl rfl rfl rfl rfl
  | ctxQuery ctx => exact execCtxQuery_writes ctx s (Only.refl _ s) rfl rfl rfl rfl rfl rfl rfl rfl
  | patchTable ctx table => exact execPatchTable_writes ctx table s (Only.refl _ s) rfl rfl rfl rfl rfl rfl rfl rfl rfl
  | fuseProgram ctx railsOk vfuse =>
    exact execFuseProgram_writes ctx railsOk vfuse s (Only.refl _ s) rfl rfl rfl rfl rfl rfl rfl rfl rfl rfl
  | powerRequest ctx => exact execPowerRequest_writes ctx s (Only.refl _ s) rfl rfl rfl rfl rfl rfl rfl rfl rfl rfl rfl
  | pendingRequestBegin => exact execPendingRequestBegin_writes s (Only.refl _ s) rfl rfl rfl rfl rfl rfl rfl rfl rfl rfl rfl
  | firmwareLoad ctx image => exact execFirmwareLoad_writes ctx image s (Only.refl _ s) rfl rfl rfl rfl rfl rfl rfl rfl rfl
  | fwFallback => exact execFwFallback_writes s (Only.refl _ s) rfl rfl rfl rfl rfl rfl rfl rfl rfl
  | dbNudge ctx => exact execDbNudge_writes ctx s (Only.refl _ s) rfl rfl rfl rfl rfl
  | dbNudgeAll => exact execDbNudgeAll_writes s (Only.refl _ s) rfl rfl rfl rfl rfl
  | doorbellPoll => exact execDoorbellPoll_writes s (Only.refl _ s) rfl rfl rfl rfl rfl
  | doorbellRead ctx pi piC badRecord =>
    exact execDoorbellRead_writes ctx pi piC badRecord s (Only.refl _ s) rfl rfl rfl rfl rfl rfl
  | descriptorExamine ctx bytes operandFail =>
    exact execDescriptorExamine_writes ctx bytes operandFail s (Only.refl _ s) rfl rfl rfl rfl rfl rfl rfl rfl
  | headRefetch ctx bytes => exact execHeadRefetch_writes ctx bytes s (Only.refl _ s) rfl rfl rfl rfl rfl rfl rfl rfl
  | journalConfirm ctx seq => exact execJournalConfirm_writes ctx seq s (Only.refl _ s) rfl rfl rfl rfl rfl rfl rfl rfl
  | msixTimeout ctx => exact execMsixTimeout_writes ctx s (Only.refl _ s) rfl rfl rfl rfl
  | dbBaseWrite value => exact execDbBaseWrite_writes value s (Only.refl _ s) rfl rfl rfl
  | admcfgCommit value => exact execAdmcfgCommit_writes value s (Only.refl _ s) rfl rfl rfl rfl
  | admcfgDisable value => exact execAdmcfgDisable_writes value s (Only.refl _ s) rfl rfl rfl rfl rfl rfl rfl rfl
  | prickingStart ch => exact execPrickingStart_writes ch s (Only.refl _ s) rfl rfl rfl rfl rfl rfl rfl rfl rfl
  | nopSlot ch hit => exact execNopSlot_writes ch hit s (Only.refl _ s) rfl rfl rfl rfl rfl rfl rfl rfl
  | act ch => exact execAct_writes ch s (Only.refl _ s) rfl rfl rfl rfl rfl rfl rfl rfl
  | rd ch => exact execRd_writes ch s (Only.refl _ s) rfl rfl rfl rfl rfl rfl rfl rfl
  | wr ch hit => exact execWr_writes ch hit s (Only.refl _ s) rfl rfl rfl rfl rfl rfl rfl rfl rfl rfl
  | rmw ch hit => exact execRmw_writes ch hit s (Only.refl _ s) rfl rfl rfl rfl rfl rfl rfl rfl rfl rfl
  | pre ch => exact execPre_writes ch s (Only.refl _ s) rfl rfl rfl rfl rfl rfl rfl rfl
  | prea ch => exact execPrea_writes ch s (Only.refl _ s) rfl rfl rfl rfl rfl rfl rfl rfl
  | refab ch => exact execRefab_writes ch s (Only.refl _ s) rfl rfl rfl rfl rfl rfl rfl rfl
  | refpb ch => exact execRefpb_writes ch s (Only.refl _ s) rfl rfl rfl rfl rfl rfl rfl rfl
  | openRun ch noise storeFail =>
    exact execOpenRun_writes ch noise storeFail s (Only.refl _ s) rfl rfl rfl rfl rfl rfl rfl rfl rfl rfl
  | scrub ch w => exact execScrub_writes ch w s (Only.refl _ s) rfl rfl rfl rfl rfl rfl rfl rfl rfl rfl rfl
  | train ch w => exact execTrain_writes ch w s (Only.refl _ s) rfl rfl rfl rfl rfl rfl rfl rfl rfl rfl rfl
  | cal ch w => exact execCal_writes ch w s (Only.refl _ s) rfl rfl rfl rfl rfl rfl rfl rfl rfl rfl rfl
  | bist ch w => exact execBist_writes ch w s (Only.refl _ s) rfl rfl rfl rfl rfl rfl rfl rfl rfl rfl rfl
  | fetch ch => exact execFetch_writes ch s (Only.refl _ s) rfl rfl rfl rfl rfl rfl rfl rfl
  | mark ch => exact execMark_writes ch s (Only.refl _ s) rfl rfl rfl rfl rfl rfl rfl rfl
  | tierSwitch ch => exact execTierSwitch_writes ch s (Only.refl _ s) rfl rfl rfl rfl rfl rfl rfl rfl rfl
  | shutDown ch => exact execShutDown_writes ch s (Only.refl _ s) rfl rfl rfl rfl rfl rfl rfl rfl rfl rfl rfl rfl
  | steal ch => exact execSteal_writes ch s (Only.refl _ s) rfl rfl rfl rfl rfl rfl rfl rfl rfl
  | idleSchedule ch w storeFail hoop =>
    exact execIdleSchedule_writes ch w storeFail hoop s (Only.refl _ s) rfl rfl rfl rfl rfl rfl rfl rfl rfl rfl rfl
  | readData ch noise hit remapHit =>
    exact execReadData_writes ch noise hit remapHit s (Only.refl _ s) rfl rfl rfl rfl rfl rfl rfl rfl rfl
  | wordRelease ch group => exact execWordRelease_writes ch group s (Only.refl _ s) rfl rfl rfl rfl
  | recordComplete ch group hit => exact execRecordComplete_writes ch group hit s (Only.refl _ s) rfl rfl rfl rfl
  | scrubPeriodBoundary ch => exact execScrubPeriodBoundary_writes ch s (Only.refl _ s) rfl rfl rfl
  | monitorWindow ch => exact execMonitorWindow_writes ch s (Only.refl _ s) rfl
  | parityFlag ch word refused =>
    exact execParityFlag_writes ch word refused s (Only.refl _ s) rfl rfl rfl rfl rfl rfl rfl rfl rfl rfl rfl
  | strobeLoss ch rstAnswers fckAnswers =>
    exact execStrobeLoss_writes ch rstAnswers fckAnswers s (Only.refl _ s) rfl rfl rfl rfl rfl rfl rfl rfl rfl rfl
  | lockstep ch sigs => exact execLockstep_writes ch sigs s (Only.refl _ s) rfl rfl rfl rfl rfl rfl rfl rfl rfl
  | bistIdleTimer ch => exact execBistIdleTimer_writes ch s (Only.refl _ s) rfl
  | heartbeatLoss ch edge => exact execHeartbeatLoss_writes ch edge s (Only.refl _ s) rfl rfl
  | selfRefreshExit ch clean w badRemap =>
    exact execSelfRefreshExit_writes ch clean w badRemap s (Only.refl _ s) rfl rfl rfl rfl rfl rfl rfl rfl rfl rfl rfl rfl
  | sensorSample readings =>
    exact execSensorSample_writes readings s (Only.refl _ s) rfl rfl rfl rfl rfl rfl rfl rfl rfl rfl rfl rfl rfl rfl
  | sensorRecover sensor => exact execSensorRecover_writes sensor s (Only.refl _ s) rfl rfl
  | bandFall die => exact execBandFall_writes die s (Only.refl _ s) rfl rfl rfl rfl
  | evaluation => exact execEvaluation_writes s (Only.refl _ s) rfl rfl rfl rfl rfl rfl
  | rungRestore => exact execRungRestore_writes s (Only.refl _ s) rfl rfl rfl rfl rfl rfl
  | orderlyTripComplete =>
    exact execOrderlyTripComplete_writes s (Only.refl _ s) rfl rfl rfl rfl rfl rfl rfl rfl rfl rfl rfl rfl rfl rfl
  | orderlyTripTimeout =>
    exact execOrderlyTripTimeout_writes s (Only.refl _ s) rfl rfl rfl rfl rfl rfl rfl rfl rfl rfl rfl rfl rfl rfl
  | tripConditionClear => exact execTripConditionClear_writes s (Only.refl _ s) rfl rfl
  | coolDemPeriod lowReadsHigh releasedReadsLow =>
    exact execCoolDemPeriod_writes lowReadsHigh releasedReadsLow s (Only.refl _ s) rfl
  | coolStuck => exact execCoolStuck_writes s (Only.refl _ s) rfl rfl rfl
  | coolStuckClear => exact execCoolStuckClear_writes s (Only.refl _ s) rfl rfl
  | tdConversion input dvUv v1Uv vrUv => exact execTdConversion_writes input dvUv v1Uv vrUv s (Only.refl _ s) rfl
  | tdFault input => exact execTdFault_writes input s (Only.refl _ s) rfl rfl rfl
  | tdRecover input => exact execTdRecover_writes input s (Only.refl _ s) rfl rfl
  | coolCfgWrite value => exact execCoolCfgWrite_writes value s (Only.refl _ s) rfl rfl rfl
  | coldReset =>
    exact execColdReset_writes s (Only.refl _ s) rfl rfl rfl rfl rfl rfl rfl rfl rfl rfl rfl rfl rfl rfl rfl rfl rfl rfl rfl
      rfl rfl rfl
  | regRdy straps inRange => exact execRegRdy_writes straps inRange s (Only.refl _ s) rfl rfl rfl rfl
  | oscRdy inRange reads badHeader =>
    exact execOscRdy_writes inRange reads badHeader s (Only.refl _ s) rfl rfl rfl rfl rfl rfl rfl rfl rfl
  | memRdy inRange => exact execMemRdy_writes inRange s (Only.refl _ s) rfl rfl rfl
  | logicRdy inRange sweep goodRows checks bad =>
    exact execLogicRdy_writes inRange sweep goodRows checks bad s (Only.refl _ s) rfl rfl rfl rfl rfl rfl rfl rfl rfl rfl rfl
      rfl rfl rfl rfl
  | seqRail step => exact execSeqRail_writes step s (Only.refl _ s) rfl rfl
  | seqOrder step => exact execSeqOrder_writes step s (Only.refl _ s) rfl rfl
  | bringUpComplete => exact execBringUpComplete_writes s (Only.refl _ s) rfl rfl rfl rfl rfl rfl rfl rfl rfl rfl rfl rfl
  | saveTrigger cause =>
    exact execSaveTrigger_writes cause s (Only.refl _ s) rfl rfl rfl rfl rfl rfl rfl rfl rfl rfl rfl rfl rfl rfl
  | saveCommit => exact execSaveCommit_writes s (Only.refl _ s) rfl
  | warmRestore checks =>
    exact execWarmRestore_writes checks s (Only.refl _ s) rfl rfl rfl rfl rfl rfl rfl rfl rfl rfl rfl rfl rfl
  | vsaveLow => exact execVsaveLow_writes s (Only.refl _ s) rfl
  | chargeTest dvMv esrMohm vsaveMv => exact execChargeTest_writes dvMv esrMohm vsaveMv s (Only.refl _ s) rfl rfl rfl
  | chargeTimeout => exact execChargeTimeout_writes s (Only.refl _ s) rfl rfl rfl
  | hoopWait irqPending => exact execHoopWait_writes irqPending s (Only.refl _ s) rfl rfl rfl rfl rfl rfl rfl rfl rfl rfl rfl
  | wake checks w badRemap =>
    exact execWake_writes checks w badRemap s (Only.refl _ s) rfl rfl rfl rfl rfl rfl rfl rfl rfl rfl rfl rfl rfl
  | wakeTimer => exact execWakeTimer_writes s (Only.refl _ s) rfl rfl rfl rfl rfl rfl rfl rfl rfl rfl rfl
  | pwrWakeWake path => exact execPwrWakeWake_writes path s (Only.refl _ s) rfl rfl rfl rfl rfl rfl rfl rfl rfl rfl rfl
  | pwrWakeSafeExit path =>
    exact execPwrWakeSafeExit_writes path s (Only.refl _ s) rfl rfl rfl rfl rfl rfl rfl rfl rfl rfl rfl
  | safeExit checks => exact execSafeExit_writes checks s (Only.refl _ s) rfl rfl rfl rfl rfl rfl rfl rfl rfl rfl rfl
  | avsPoll answered mv => exact execAvsPoll_writes answered mv s (Only.refl _ s) rfl rfl rfl rfl rfl rfl rfl rfl rfl rfl
  | avsTimeout => exact execAvsTimeout_writes s (Only.refl _ s) rfl rfl rfl rfl rfl rfl rfl rfl rfl rfl
  | devRstWarm => exact execDevRstWarm_writes s (Only.refl _ s) rfl
  | warmReset src => exact execWarmReset_writes src s (Only.refl _ s) rfl rfl rfl rfl rfl rfl rfl rfl rfl rfl rfl rfl rfl rfl
  | devRstHoop => exact execDevRstHoop_writes s (Only.refl _ s) rfl rfl rfl rfl rfl rfl rfl
  | hoopRestart => exact execHoopRestart_writes s (Only.refl _ s) rfl rfl rfl rfl rfl rfl rfl
  | hoopWatchdog => exact execHoopWatchdog_writes s (Only.refl _ s) rfl rfl rfl rfl rfl rfl rfl rfl rfl
  | hostInterfaceReset => exact execHostInterfaceReset_writes s (Only.refl _ s) rfl rfl rfl rfl
  | hostRecovery badJournal => exact execHostRecovery_writes badJournal s (Only.refl _ s) rfl rfl rfl rfl rfl rfl rfl rfl
  | refclkLoss => exact execRefclkLoss_writes s (Only.refl _ s) rfl rfl rfl rfl rfl rfl rfl rfl rfl rfl rfl rfl rfl rfl
  | pinReadback alertLow fatalLow => exact execPinReadback_writes alertLow fatalLow s (Only.refl _ s) rfl rfl
  | fltAck path corrupt => exact execFltAck_writes path corrupt s (Only.refl _ s) rfl
  | fltClear path corrupt => exact execFltClear_writes path corrupt s (Only.refl _ s) rfl
  | fltAckAll corrupt => exact execFltAckAll_writes corrupt s (Only.refl _ s) rfl
  | fltClearAll corrupt => exact execFltClearAll_writes corrupt s (Only.refl _ s) rfl
  | clearLost => exact execClearLost_writes s (Only.refl _ s) rfl
  | selftestGo sigs marchFail =>
    exact execSelftestGo_writes sigs marchFail s (Only.refl _ s) rfl rfl rfl rfl rfl rfl rfl rfl rfl rfl
  | otpRead path value => exact execOtpRead_writes path value s (Only.refl _ s) rfl rfl rfl
  | otpAudit path reads strengthened => exact execOtpAudit_writes path reads strengthened s (Only.refl _ s) rfl rfl rfl
  | auditTimer reads strengthened => exact execAuditTimer_writes reads strengthened s (Only.refl _ s) rfl rfl rfl
  | otpPulseEnd took railsOk vfuse =>
    exact execOtpPulseEnd_writes took railsOk vfuse s (Only.refl _ s) rfl rfl rfl rfl rfl rfl rfl rfl rfl rfl
  | tapInstruction kind => exact execTapInstruction_writes kind s (Only.refl _ s) rfl rfl rfl rfl
  | chPrivWrite path ch value => exact execChPrivWrite_writes path ch value s (Only.refl _ s) rfl rfl rfl rfl rfl
  | chSubstWrite path ch value => exact execChSubstWrite_writes path ch value s (Only.refl _ s) rfl rfl rfl
  | chDaRegWrite path ch cls value => exact execChDaRegWrite_writes path ch cls value s (Only.refl _ s) rfl rfl rfl
  | calForce path ch value => exact execCalForce_writes path ch value s (Only.refl _ s) rfl rfl rfl
  | bistForce path ch => exact execBistForce_writes path ch s (Only.refl _ s) rfl rfl rfl
  | remapClear path ch value => exact execRemapClear_writes path ch value s (Only.refl _ s) rfl rfl rfl
  | laneRetrain path value => exact execLaneRetrain_writes path value s (Only.refl _ s) rfl rfl rfl rfl
  | prbsEnable path value => exact execPrbsEnable_writes path value s (Only.refl _ s) rfl rfl rfl rfl
  | prbsInject path value => exact execPrbsInject_writes path value s (Only.refl _ s) rfl rfl rfl rfl
  | prbsAutoInject group lane => exact execPrbsAutoInject_writes group lane s (Only.refl _ s) rfl
  | prbsSync group lane bits => exact execPrbsSync_writes group lane bits s (Only.refl _ s) rfl
  | dcTestDone rx group outcomes => exact execDcTestDone_writes rx group outcomes s (Only.refl _ s) rfl rfl rfl rfl
  | clockLock group => exact execClockLock_writes group s (Only.refl _ s) rfl rfl
  | laneAlign group lane inverted sym => exact execLaneAlign_writes group lane inverted sym s (Only.refl _ s) rfl rfl rfl rfl
  | alignTimeout group => exact execAlignTimeout_writes group s (Only.refl _ s) rfl rfl rfl rfl
  | trainingBeat group lane sym => exact execTrainingBeat_writes group lane sym s (Only.refl _ s) rfl
  | handshakeTimeout group => exact execHandshakeTimeout_writes group s (Only.refl _ s) rfl
  | markerBeat group lane sym => exact execMarkerBeat_writes group lane sym s (Only.refl _ s) rfl rfl rfl rfl
  | markerSend group => exact execMarkerSend_writes group s (Only.refl _ s) rfl rfl rfl rfl rfl
  | beatLaunch group lane fifoFail => exact execBeatLaunch_writes group lane fifoFail s (Only.refl _ s) rfl rfl rfl rfl
  | receiveBeat group lane sym lead fifoFail =>
    exact execReceiveBeat_writes group lane sym lead fifoFail s (Only.refl _ s) rfl rfl rfl rfl rfl
  | lossOfSignal group lane => exact execLossOfSignal_writes group lane s (Only.refl _ s) rfl rfl rfl rfl
  | lossOfSymbolLock group lane => exact execLossOfSymbolLock_writes group lane s (Only.refl _ s) rfl rfl rfl rfl
  | receiveLossOfLock group => exact execReceiveLossOfLock_writes group s (Only.refl _ s) rfl rfl rfl rfl
  | transmitLossOfLock group => exact execTransmitLossOfLock_writes group s (Only.refl _ s) rfl rfl rfl rfl
  | ident port word => exact execIdent_writes port word s (Only.refl _ s) rfl rfl rfl
  | portRetrain port => exact execPortRetrain_writes port s (Only.refl _ s) rfl rfl
  | freqCheck port diff => exact execFreqCheck_writes port diff s (Only.refl _ s) rfl rfl rfl rfl
  | lack port lseq => exact execLack_writes port lseq s (Only.refl _ s) rfl rfl rfl rfl
  | lnak port lseq => exact execLnak_writes port lseq s (Only.refl _ s) rfl rfl rfl
  | replay port lseq => exact execReplay_writes port lseq s (Only.refl _ s) rfl rfl
  | lnakTimeout port => exact execLnakTimeout_writes port s (Only.refl _ s) rfl rfl
  | replayTimeout port => exact execReplayTimeout_writes port s (Only.refl _ s) rfl rfl rfl rfl rfl
  | queueTimeout port => exact execQueueTimeout_writes port s (Only.refl _ s) rfl rfl rfl rfl
  | picotSend => exact execPicotSend_writes s (Only.refl _ s) rfl rfl rfl
  | picotA port word arrival => exact execPicotA_writes port word arrival s (Only.refl _ s) rfl rfl rfl
  | picotB port word => exact execPicotB_writes port word s (Only.refl _ s) rfl rfl rfl
  | delayReqSend port => exact execDelayReqSend_writes port s (Only.refl _ s) rfl rfl
  | delayReq port id turn => exact execDelayReq_writes port id turn s (Only.refl _ s) rfl
  | delayRsp port id turn arrival => exact execDelayRsp_writes port id turn arrival s (Only.refl _ s) rfl
  | rootElection => exact execRootElection_writes s (Only.refl _ s) rfl
  | holdover => exact execHoldover_writes s (Only.refl _ s) rfl rfl rfl
  | holdoverRoot => exact execHoldoverRoot_writes s (Only.refl _ s) rfl rfl
  | fwdRec pk => exact execFwdRec_writes pk s (Only.refl _ s) rfl rfl rfl rfl rfl rfl
  | fwdAck pk => exact execFwdAck_writes pk s (Only.refl _ s) rfl rfl rfl rfl rfl
  | forwardResend ch tag => exact execForwardResend_writes ch tag s (Only.refl _ s) rfl rfl rfl rfl rfl
  | forwardLost ch tag => exact execForwardLost_writes ch tag s (Only.refl _ s) rfl rfl rfl
  | start pk => exact execStart_writes pk s (Only.refl _ s) rfl rfl rfl rfl rfl rfl
  | torStartGo value => exact execTorStartGo_writes value s (Only.refl _ s) rfl rfl rfl rfl rfl rfl
  | proxyOpen pk => exact execProxyOpen_writes pk s (Only.refl _ s) rfl rfl rfl rfl rfl rfl rfl rfl
  | pack pk => exact execPack_writes pk s (Only.refl _ s) rfl rfl rfl rfl
  | regRd pk => exact execRegRd_writes pk s (Only.refl _ s) rfl rfl rfl rfl
  | regWr pk => exact execRegWr_writes pk s (Only.refl _ s) rfl rfl rfl rfl rfl rfl rfl rfl rfl rfl rfl rfl rfl rfl rfl rfl
  | regRsp pk => exact execRegRsp_writes pk s (Only.refl _ s) rfl rfl rfl rfl
  | memRd pk data => exact execMemRd_writes pk data s (Only.refl _ s) rfl rfl rfl rfl
  | memWr pk => exact execMemWr_writes pk s (Only.refl _ s) rfl rfl rfl rfl
  | memData pk => exact execMemData_writes pk s (Only.refl _ s) rfl rfl rfl rfl
  | proxyResend => exact execProxyResend_writes s (Only.refl _ s) rfl rfl rfl rfl
  | proxyLost => exact execProxyLost_writes s (Only.refl _ s) rfl rfl rfl
  | proxyBindingTimeout => exact execProxyBindingTimeout_writes s (Only.refl _ s) rfl
  | goRd value => exact execGoRd_writes value s (Only.refl _ s) rfl rfl rfl rfl
  | goWr value => exact execGoWr_writes value s (Only.refl _ s) rfl rfl rfl rfl
  | release value => exact execRelease_writes value s (Only.refl _ s) rfl rfl rfl rfl
  | pxyTimeout => exact execPxyTimeout_writes s (Only.refl _ s) rfl
  | timeLoRead path low width => exact execTimeLoRead_writes path low width s (Only.refl _ s) rfl rfl rfl rfl
  | counterLoRead path n low width => exact execCounterLoRead_writes path n low width s (Only.refl _ s) rfl rfl rfl
  | counterHiRead path n low width => exact execCounterHiRead_writes path n low width s (Only.refl _ s) rfl rfl rfl
  | latchTimeout path n => exact execLatchTimeout_writes path n s (Only.refl _ s) rfl rfl
  | counterWindow => exact execCounterWindow_writes s (Only.refl _ s) rfl
  | cntCfgWrite n value => exact execCntCfgWrite_writes n value s (Only.refl _ s) rfl rfl
  | cntWindowWrite value => exact execCntWindowWrite_writes value s (Only.refl _ s) rfl rfl
  | crcStart unit value => exact execCrcStart_writes unit value s (Only.refl _ s) rfl rfl rfl
  | crcFinish unit value => exact execCrcFinish_writes unit value s (Only.refl _ s) rfl rfl rfl
  | crcAbort unit value => exact execCrcAbort_writes unit value s (Only.refl _ s) rfl rfl rfl
  | feed4 unit value => exact execFeed4_writes unit value s (Only.refl _ s) rfl rfl
  | feed1 unit value => exact execFeed1_writes unit value s (Only.refl _ s) rfl rfl
  | crcJobDone unit => exact execCrcJobDone_writes unit s (Only.refl _ s) rfl
  | setAddr bytes pecOk => exact execSetAddr_writes bytes pecOk s (Only.refl _ s) rfl rfl rfl rfl
  | smbusRead pec => exact execSmbusRead_writes pec s (Only.refl _ s) rfl rfl
  | smbusWrite bytes pecOk =>
    exact execSmbusWrite_writes bytes pecOk s (Only.refl _ s) rfl rfl rfl rfl rfl rfl rfl rfl rfl rfl rfl rfl rfl rfl rfl rfl
      rfl
  | wstatus pec => exact execWstatus_writes pec s (Only.refl _ s) rfl
  | regAccessTimeout path isRead => exact execRegAccessTimeout_writes path isRead s (Only.refl _ s) rfl rfl rfl rfl
  | registerWrite path offset width value =>
    exact execRegisterWrite_writes path offset width value s (Only.refl _ s) rfl rfl rfl rfl rfl rfl rfl rfl rfl rfl rfl rfl
      rfl rfl rfl rfl
  | warmResetEnd => exact execWarmResetEnd_writes s (Only.refl _ s) rfl rfl rfl rfl rfl rfl rfl rfl rfl
  | vddlLow => exact execVddlLow_writes s (Only.refl _ s) rfl rfl rfl rfl
  | vddlReady => exact execVddlReady_writes s (Only.refl _ s) rfl rfl rfl
  | dramRailLow => exact execDramRailLow_writes s (Only.refl _ s) rfl rfl
  | refclkReturn => exact execRefclkReturn_writes s (Only.refl _ s) rfl
  | hoopRunning => exact execHoopRunning_writes s (Only.refl _ s) rfl rfl rfl rfl rfl rfl rfl rfl rfl
  | d3hotEntry => exact execD3hotEntry_writes s (Only.refl _ s) rfl
  | tapReset => exact execTapReset_writes s (Only.refl _ s) rfl
  | selfRefreshInterval ch => exact execSelfRefreshInterval_writes ch s (Only.refl _ s) rfl
  | vsaveArmedLevel mv => exact execVsaveArmedLevel_writes mv s (Only.refl _ s) rfl

end Sys2Proof.Laws

namespace Sys2Proof.Proofs

open Sys2Proof Sys2Proof.Machine Sys2Proof.Laws

/-- Settles O49: each command's meaning keeps the queue and extends the outputs. -/
theorem everyCommandCompletes : Obligations.EveryCommandCompletes := by
  intro c s
  obtain ⟨t, ht, hpending, hout, -⟩ := exec_keeps c s
  exact ⟨t, ht, hpending, hout⟩

/-- Settles O50: each command's meaning writes within the command's row of the table of write sets. -/
theorem everyCommandFrame : Obligations.EveryCommandFrame := exec_writes

end Sys2Proof.Proofs

/-! PROOF. What logging and counting do to the counters (R531 to R538): they change values, held carries and OVF, and no
configuration and no latch. -/

namespace Sys2Proof.Laws

open Sys2Proof Sys2Proof.Machine

/-- `d` is `c` with other counts: the same configuration and the same latches. -/
def Tallied (c d : Counter) : Prop := d.cfg = c.cfg ∧ d.pend = c.pend ∧ ∀ p, d.latch p = c.latch p

/-- Every counter is as it was but for its counts, and the window is as it was. -/
def OnlyTallies (k l : Counters) : Prop :=
  l.len = k.len ∧ l.lenPend = k.lenPend ∧ ∀ n, Tallied (Sparse.get {} k.tab n) (Sparse.get {} l.tab n)

theorem Tallied.refl (c : Counter) : Tallied c c := ⟨rfl, rfl, fun _ => rfl⟩

theorem Tallied.trans {c d e : Counter} (h : Tallied c d) (k : Tallied d e) : Tallied c e :=
  ⟨k.1.trans h.1, k.2.1.trans h.2.1, fun p => (k.2.2 p).trans (h.2.2 p)⟩

theorem OnlyTallies.refl (k : Counters) : OnlyTallies k k := ⟨rfl, rfl, fun _ => .refl _⟩

theorem OnlyTallies.trans {k l m : Counters} (h : OnlyTallies k l) (g : OnlyTallies l m) : OnlyTallies k m :=
  ⟨g.1.trans h.1, g.2.1.trans h.2.1, fun n => (h.2.2 n).trans (g.2.2 n)⟩

theorem add_tallied (c : Counter) (w : Nat) : Tallied c (c.add w).1 := by
  unfold Counter.add
  split <;> exact ⟨rfl, rfl, fun p => by cases p <;> rfl⟩

theorem applyHeld_tallied (c : Counter) : Tallied c c.applyHeld.1 := ⟨rfl, rfl, fun p => by cases p <;> rfl⟩

/-- Setting one counter to a tallied form of it. -/
theorem set_onlyTallies (k : Counters) (n : Nat) {d : Counter} (h : Tallied (Sparse.get {} k.tab n) d) :
    OnlyTallies k { k with tab := Sparse.set {} k.tab n d } := by
  refine ⟨rfl, rfl, fun j => ?_⟩
  rw [get_set]
  split
  · next hj => exact hj ▸ h
  · exact .refl _

theorem put_onlyTallies (k : Counters) (now n : Nat) {r : Counter × Bool} (h : Tallied (Sparse.get {} k.tab n) r.1) :
    OnlyTallies k (k.put now n r).1 := by
  have here := set_onlyTallies k n h
  unfold Counters.put
  extract_lets old k1 logs up u
  split
  · exact here.trans (set_onlyTallies k1 (n + 1) (add_tallied up 1))
  · exact here

theorem counters_count_onlyTallies (k : Counters) (now ev : Nat) (q : Nat → Bool) (bob : Option Nat) (w : Nat) :
    OnlyTallies k (k.count now ev q bob w).1 := by
  unfold Counters.count
  generalize k.tab.map (·.1) = ns
  suffices h : ∀ a : Counters × Nat, OnlyTallies k a.1 → OnlyTallies k (ns.foldl _ a).1 from h _ (.refl k)
  induction ns with
  | nil => exact fun a ha => ha
  | cons n ns ih =>
    refine fun a ha => ih _ ?_
    dsimp only
    split
    · exact ha.trans (put_onlyTallies a.1 now n (add_tallied _ w))
    · exact ha

theorem logRaw_onlyTallies (o : Occurrence) (s : State) : OnlyTallies s.cnt (s.logRaw o).cnt :=
  counters_count_onlyTallies _ _ _ _ _ _

theorem logOverflows_onlyTallies (n : Nat) (s : State) : OnlyTallies s.cnt (State.logOverflows n s).cnt := by
  induction n generalizing s with
  | zero => exact .refl _
  | succ n ih => exact (logRaw_onlyTallies _ s).trans (ih _)

theorem log_onlyTallies (c : Cause) (i : Nat) (s : State) (d0 d1 d2 : Nat) (act : Bool) :
    OnlyTallies s.cnt (s.log c i d0 d1 d2 act).cnt :=
  (counters_count_onlyTallies _ _ _ _ _ _).trans (logOverflows_onlyTallies _ _)

theorem writeIgnored_onlyTallies (s : State) : OnlyTallies s.cnt s.writeIgnored.cnt := log_onlyTallies _ _ s _ _ _ _

/-- An ignored register write is logged (R463). -/
theorem writeIgnored_logged (s : State) (hs : logsOk s) : Logged .regWriteIgnored 0 s s.writeIgnored :=
  (log_put .regWriteIgnored 0 hs 0 0 0 false).1

/-- A read of another width or alignment returns 0 (R19). -/
theorem badRead_out (p : Path) (s : State) : (s.badRead p).out = s.out ++ [.regData p 0] := by simp [State.badRead]

theorem badRead_tor (p : Path) (s : State) : (s.badRead p).tor = s.tor := by simp [State.badRead]

/-- It is logged (R19). -/
theorem badRead_logged (p : Path) (s : State) (hs : logsOk s) : Logged .regAccess 0 s (s.badRead p) :=
  (log_put .regAccess 0 hs 0 0 0 false).1

theorem badAccess_iff (p : Path) (low k : Nat) : badAccess p low k = true ↔ p = .bar0 ∧ (low ≠ 0 ∨ k ≠ 4) := by
  simp [badAccess]

theorem badAccess_eq_false {p : Path} {low k : Nat} (h : ¬(p = .bar0 ∧ (low ≠ 0 ∨ k ≠ 4))) : badAccess p low k = false :=
  Bool.eq_false_iff.2 fun hb => h ((badAccess_iff p low k).1 hb)

theorem badUser_lo_iff (p : Path) (low k : Nat) :
    badUser p low k true = true ↔ p = .bar2 ∧ (low ≠ 0 ∨ (k ≠ 4 ∧ k ≠ 8)) := by
  simp [badUser]

theorem badUser_hi_iff (p : Path) (low k : Nat) : badUser p low k false = true ↔ p = .bar2 ∧ (low ≠ 0 ∨ k ≠ 4) := by
  simp [badUser]

end Sys2Proof.Laws

/-! PROOF. Counters: configuration, window boundaries, reads and latches (R530 to R541). -/

namespace Sys2Proof.Laws

open Sys2Proof Sys2Proof.Machine

/-! ## Configuration -/

theorem hasCounter_iff (s : State) (n : Nat) : s.hasCounter n = true ↔ n < 8 * s.members ∨ (1024 ≤ n ∧ n < 1088) := by
  simp [State.hasCounter]

theorem writeCntCfg_of_missing {s : State} {n : Nat} (v : Nat) (h : s.hasCounter n = false) : s.writeCntCfg n v = s := by
  simp [State.writeCntCfg, h]

theorem writeCntCfg_of_refused {s : State} {n v : Nat} (h : s.hasCounter n = true) (hv : cfgRefused n v = true) :
    s.writeCntCfg n v = s.writeIgnored := by
  simp [State.writeCntCfg, h, hv]

theorem writeCntCfg_of_good {s : State} {n v : Nat} (h : s.hasCounter n = true) (hv : cfgRefused n v = false) :
    s.writeCntCfg n v = s.modCounter n fun c => { c with pend := some (bits v 31 16 * 2 ^ 16 + v % 2 ^ 12) } := by
  simp [State.writeCntCfg, h, hv]

/-! ## Window boundaries -/

theorem boundary_of_no_pend (now : Nat) {c : Counter} (h : c.pend = none) :
    c.boundary now = if cfgWindow c.cfg = true then { c with val := c.acc, acc := 0 } else c := by
  unfold Counter.boundary
  split <;> simp only [h]

/-- A waiting configuration takes effect at the boundary (R534). -/
theorem boundary_of_pend (now : Nat) {c : Counter} {v : Nat} (h : c.pend = some v) :
    (c.boundary now).cfg = v ∧ (c.boundary now).pend = none ∧ (c.boundary now).acc = 0 ∧
      (cfgZero v = true ∨ cfgWindow v = true → (c.boundary now).val = 0) := by
  unfold Counter.boundary
  extract_lets c1
  have hpend : c1.pend = some v := by unfold c1; split <;> exact h
  rw [hpend]
  dsimp only
  split_ifs with hz hw
  · exact ⟨rfl, rfl, rfl, fun _ => rfl⟩
  · exact ⟨rfl, rfl, rfl, fun _ => rfl⟩
  · exact ⟨rfl, rfl, rfl, fun hclears => (hclears.elim hz hw).elim⟩

theorem get_eq_default_of_lt {α : Type} (d : α) {m : List (Nat × α)} {k : Nat} (h : ∀ e ∈ m, k < e.1) : Sparse.get d m k = d := by
  induction m with
  | nil => rfl
  | cons e m ih =>
    obtain ⟨j, v⟩ := e
    have hk : k ≠ j := Nat.ne_of_lt (h _ List.mem_cons_self)
    simpa [Sparse.get, hk] using ih fun e he => h e (List.mem_cons_of_mem _ he)

/-- A table mapped by a function that keeps the default, in canonical form again, reads as the function of what it read. -/
theorem get_map_filter {α : Type} [DecidableEq α] (d : α) (f : α → α) (hf : f d = d) {m : List (Nat × α)} (h : Rising m) (n : Nat) :
    Sparse.get d ((m.map fun x => (x.1, f x.2)).filter fun x => x.2 != d) n = f (Sparse.get d m n) := by
  induction m with
  | nil => exact hf.symm
  | cons e m ih =>
    obtain ⟨j, v⟩ := e
    obtain ⟨hj, hm⟩ := List.pairwise_cons.1 h
    have ih := ih hm
    have above : ∀ e ∈ m, j < e.1 := fun e he => hj _ (List.mem_map_of_mem he)
    by_cases hv : f v = d
    · by_cases hn : n = j
      · subst hn
        simpa [Sparse.get, hv, get_eq_default_of_lt d above, hf] using ih
      · simpa [Sparse.get, hv, hn] using ih
    · by_cases hn : n = j
      · simp [Sparse.get, hv, hn]
      · simpa [Sparse.get, hv, hn] using ih

/-- The state after a window boundary (R533). -/
def atBoundary (s : State) : State :=
  { s with cnt := { s.cnt with
      tab := (s.cnt.tab.map fun (x : Nat × Counter) => (x.1, x.2.boundary s.now)).filter fun x => x.2 != {}
      lastBoundary := s.lastGrid s.cnt.len, len := s.cnt.lenPend.getD s.cnt.len, lenPend := none } }

theorem execCounterWindow_early {s : State} (h : s.lastGrid s.cnt.len ≤ s.cnt.lastBoundary) : execCounterWindow s = .next s := if_pos h

theorem execCounterWindow_due {s : State} (h : s.cnt.lastBoundary < s.lastGrid s.cnt.len) :
    execCounterWindow s = .next (atBoundary s) := if_neg (Nat.not_le.2 h)

theorem counter_atBoundary {s : State} (h : Sparse.sorted none s.cnt.tab = true) (n : Nat) :
    (atBoundary s).counter n = (s.counter n).boundary s.now :=
  get_map_filter ({} : Counter) (Counter.boundary s.now) rfl ((sorted_none _).1 h) n

/-! ## Latches -/

@[simp] theorem latch_setLatch (c : Counter) (p : Path) (l : Option Latch) : (c.setLatch p l).latch p = l := by cases p <;> rfl

theorem held_setLatch (c : Counter) (p : Path) (l : Option Latch) : (c.setLatch p l).held = c.held := by cases p <;> rfl

theorem val_setLatch (c : Counter) (p : Path) (l : Option Latch) : (c.setLatch p l).val = c.val := by cases p <;> rfl

/-- With no carries held a closing latch leaves the value alone. -/
theorem closeLatch_of_not_held {s : State} (p : Path) {n : Nat} (h : (s.counter n).held = 0) :
    s.closeLatch p n = s.modCounter n fun c => c.setLatch p none := by
  simp [State.closeLatch, held_setLatch, h]

/-- A closed latch is closed, whatever the held carries overflow into. -/
theorem closeLatch_latch (p : Path) (n : Nat) (s : State) : ((s.closeLatch p n).counter n).latch p = none := by
  unfold State.closeLatch
  extract_lets s' c r
  have closed : (s'.counter n).latch p = none := by simp [s']
  split
  · exact closed
  · have kept : OnlyTallies s'.cnt (State.logOverflows r.2 { s' with cnt := r.1 }).cnt :=
      (put_onlyTallies s'.cnt s'.now n (applyHeld_tallied c)).trans (logOverflows_onlyTallies _ _)
    exact ((kept.2.2 n).2.2 p).trans closed

@[simp] theorem closeLatch_out (p : Path) (n : Nat) (s : State) : (s.closeLatch p n).out = s.out := by
  unfold State.closeLatch
  extract_lets s' c r
  split
  · rfl
  · exact logOverflows_out _ _

theorem expireLatch_of_closed {s : State} {p : Path} {n : Nat} (h : (s.counter n).latch p = none) : s.expireLatch p n = s := by
  simp [State.expireLatch, h]

theorem expireLatch_early {s : State} {p : Path} {n : Nat} {l : Latch} (h : (s.counter n).latch p = some l)
    (ht : s.now < l.since + 16000) : s.expireLatch p n = s := by
  simp [State.expireLatch, h, ht]

theorem expireLatch_due {s : State} {p : Path} {n : Nat} {l : Latch} (h : (s.counter n).latch p = some l)
    (ht : ¬ s.now < l.since + 16000) : s.expireLatch p n = s.closeLatch p n := by
  simp [State.expireLatch, h, ht]

/-! ## Reads -/

theorem readCntLo_of_closed {s : State} {p : Path} {n : Nat} (h : (s.counter n).latch p = none) :
    s.readCntLo p n = ((s.counter n).val % 2 ^ 32,
      s.modCounter n fun c => c.setLatch p (some { hi := (s.counter n).val / 2 ^ 32, since := s.now })) := by
  simp [State.readCntLo, h]

theorem readCntHi_of_closed {s : State} {p : Path} {n : Nat} (h : (s.counter n).latch p = none) :
    s.readCntHi p n = ((s.counter n).val / 2 ^ 32, s) := by
  simp [State.readCntHi, expireLatch_of_closed h, h]

/-- A read of CNT_LO that is no register access, or reaches no counter, over BAR2 returns 0 and has no effect (R541). -/
theorem execCounterLoRead_user {s : State} {n low k : Nat}
    (h : badUser .bar2 low k true = true ∨ s.reaches .bar2 n = false) :
    execCounterLoRead .bar2 n low k s = .next (s.emit (.regData .bar2 0)) := by
  rcases h with h | h <;> simp [execCounterLoRead, badAccess, h]

theorem execCounterLoRead_missing {p : Path} {s : State} {n low k : Nat} (hp : p ≠ .bar2) (hb : badAccess p low k = false)
    (h : s.reaches p n = false) : execCounterLoRead p n low k s = .next s := by
  simp [execCounterLoRead, badUser, hb, hp, h]

/-- An aligned 8-byte read over BAR2 (R541). -/
theorem execCounterLoRead_whole {s : State} {n : Nat} (h : s.reaches .bar2 n = true) :
    execCounterLoRead .bar2 n 0 8 s = .next (s.emit (.regData .bar2 (s.counter n).val)) := by
  simp [execCounterLoRead, badAccess, badUser, h]

theorem execCounterLoRead_low {p : Path} {s : State} {n low k : Nat} (hb : badAccess p low k = false)
    (hu : badUser p low k true = false) (hw : ¬(p = .bar2 ∧ k = 8)) (h : s.reaches p n = true) :
    execCounterLoRead p n low k s = .next ((s.readCntLo p n).2.emit (.regData p (s.readCntLo p n).1)) := by
  have hw : (p == .bar2 && k == 8) = false := by simpa using hw
  simp [execCounterLoRead, hb, hu, h, hw]

theorem execCounterHiRead_user {s : State} {n low k : Nat}
    (h : badUser .bar2 low k false = true ∨ s.reaches .bar2 n = false) :
    execCounterHiRead .bar2 n low k s = .next (s.emit (.regData .bar2 0)) := by
  rcases h with h | h <;> simp [execCounterHiRead, badAccess, h]

theorem execCounterHiRead_missing {p : Path} {s : State} {n low k : Nat} (hp : p ≠ .bar2) (hb : badAccess p low k = false)
    (h : s.reaches p n = false) : execCounterHiRead p n low k s = .next s := by
  simp [execCounterHiRead, badUser, hb, hp, h]

theorem execCounterHiRead_high {p : Path} {s : State} {n low k : Nat} (hb : badAccess p low k = false)
    (hu : badUser p low k false = false) (h : s.reaches p n = true) :
    execCounterHiRead p n low k s = .next ((s.readCntHi p n).2.emit (.regData p (s.readCntHi p n).1)) := by
  simp [execCounterHiRead, hb, hu, h]

theorem readCntHi_of_open {s : State} {p : Path} {n : Nat} {l : Latch} (h : (s.counter n).latch p = some l)
    (ht : s.now < l.since + 16000) : s.readCntHi p n = (l.hi, s.closeLatch p n) := by
  simp [State.readCntHi, expireLatch_early h ht, h]

end Sys2Proof.Laws

/-! PROOF. O33: counters are configured, windowed and read (R530 to R538). -/

namespace Sys2Proof.Proofs

open Sys2Proof Sys2Proof.Machine Sys2Proof.Laws

/-- A configuration waits for the next boundary, or is ignored and logged (R531, R534, R535). -/
theorem cfg_written (n : Nat) (v : Word) (s : State) :
    if n < 8 * s.members ∨ (1024 ≤ n ∧ n < 1088) then ∃ t, exec (.cntCfgWrite n v) s = .next t ∧
      (t.counter n).cfg = (s.counter n).cfg ∧
      if cfgRefused n v.toNat = true then (t.counter n).pend = (s.counter n).pend ∧ (logsOk s → Logged .regWriteIgnored 0 s t)
      else (t.counter n).pend = some (bits v.toNat 31 16 * 2 ^ 16 + v.toNat % 2 ^ 12)
    else exec (.cntCfgWrite n v) s = .next s := by
  have run : exec (.cntCfgWrite n v) s = .next (s.writeCntCfg n v.toNat) := rfl
  rw [run]
  split
  case isTrue h =>
    have h := (hasCounter_iff s n).2 h
    refine ⟨_, rfl, ?_⟩
    by_cases hv : cfgRefused n v.toNat = true
    · obtain ⟨hcfg, hpend, -⟩ := (writeIgnored_onlyTallies s).2.2 n
      rw [if_pos hv, writeCntCfg_of_refused h hv]
      exact ⟨hcfg, hpend, writeIgnored_logged s⟩
    · rw [if_neg hv, writeCntCfg_of_good h (Bool.eq_false_iff.2 hv), counter_modCounter_same]
      exact ⟨rfl, rfl⟩
  case isFalse h =>
    rw [writeCntCfg_of_missing _ (Bool.eq_false_iff.2 fun k => h ((hasCounter_iff s n).1 k))]

/-- So does a window length (R533). -/
theorem window_written (v : Word) (s : State) : let l := v.toNat % 2 ^ 31
    ∃ t, exec (.cntWindowWrite v) s = .next t ∧ t.cnt.len = s.cnt.len ∧
      if 1600 ≤ l ∧ l ≤ 2 ^ 30 then t.cnt.lenPend = some l
      else t.cnt.lenPend = s.cnt.lenPend ∧ (logsOk s → Logged .regWriteIgnored 0 s t) := by
  intro l
  refine ⟨s.writeCntWindow v.toNat, rfl, ?_⟩
  by_cases h : 1600 ≤ l ∧ l ≤ 2 ^ 30
  · have run : s.writeCntWindow v.toNat = { s with cnt := { s.cnt with lenPend := some l } } :=
      if_neg (by simp only [Bool.or_eq_true, decide_eq_true_eq]; omega)
    rw [run, if_pos h]
    exact ⟨rfl, rfl⟩
  · have run : s.writeCntWindow v.toNat = s.writeIgnored := if_pos (by simp only [Bool.or_eq_true, decide_eq_true_eq]; omega)
    obtain ⟨hlen, hpend, -⟩ := writeIgnored_onlyTallies s
    rw [run, if_neg h]
    exact ⟨hlen, hpend, writeIgnored_logged s⟩

/-- CNT_LO is read, with the latch it opens (R19, R538, R541). -/
theorem counterLo_read (p : Path) (n low k : Nat) (s : State) :
    if p = .bar0 ∧ (low ≠ 0 ∨ k ≠ 4) then
      ∃ t, exec (.counterLoRead p n low k) s = .next t ∧ t.out = s.out ++ [Out.regData p 0] ∧ (logsOk s → Logged .regAccess 0 s t)
    else if p = .bar2 ∧ (low ≠ 0 ∨ (k ≠ 4 ∧ k ≠ 8) ∨ s.reaches p n = false) then
      ∃ t, exec (.counterLoRead p n low k) s = .next t ∧ t.out = s.out ++ [Out.regData p 0] ∧ t.cnt = s.cnt
    else if s.reaches p n = false then exec (.counterLoRead p n low k) s = .next s
    else if p = .bar2 ∧ k = 8 then
      ∃ t, exec (.counterLoRead p n low k) s = .next t ∧ t.out = s.out ++ [Out.regData p (s.counter n).val] ∧ t.cnt = s.cnt
    else (s.counter n).latch p = none → ∃ t, exec (.counterLoRead p n low k) s = .next t ∧
      t.out = s.out ++ [Out.regData p ((s.counter n).val % 2 ^ 32)] ∧
      (t.counter n).latch p = some { hi := (s.counter n).val / 2 ^ 32, since := s.now } := by
  have run : exec (.counterLoRead p n low k) s = execCounterLoRead p n low k s := rfl
  rw [run]
  have user := badUser_lo_iff p low k
  split_ifs with hbad huser hmiss hwhole
  · exact ⟨_, by simp [execCounterLoRead, (badAccess_iff p low k).2 hbad], badRead_out p s, badRead_logged p s⟩
  · obtain ⟨rfl, h⟩ := huser
    exact ⟨_, execCounterLoRead_user ((or_assoc.2 h).imp_left fun h => user.2 ⟨rfl, h⟩), rfl, rfl⟩
  · exact execCounterLoRead_missing (fun hp => huser ⟨hp, .inr (.inr hmiss)⟩) (badAccess_eq_false hbad) hmiss
  · obtain ⟨rfl, rfl⟩ := hwhole
    obtain rfl : low = 0 := by_contra fun hlow => huser ⟨rfl, .inl hlow⟩
    exact ⟨_, execCounterLoRead_whole (by simpa using hmiss), rfl, rfl⟩
  · intro hclosed
    have hu : badUser p low k true = false :=
      Bool.eq_false_iff.2 fun hb => huser ((user.1 hb).imp_right (·.imp_right .inl))
    refine ⟨_, execCounterLoRead_low (badAccess_eq_false hbad) hu hwhole (by simpa using hmiss), ?_⟩
    rw [readCntLo_of_closed hclosed]
    refine ⟨rfl, ?_⟩
    change ((State.modCounter n _ s).counter n).latch p = _
    rw [counter_modCounter_same, latch_setLatch]

/-- CNT_HI is read, with the latch it closes (R19, R538, R541). -/
theorem counterHi_read (p : Path) (n low k : Nat) (s : State) :
    if p = .bar0 ∧ (low ≠ 0 ∨ k ≠ 4) then
      ∃ t, exec (.counterHiRead p n low k) s = .next t ∧ t.out = s.out ++ [Out.regData p 0] ∧ (logsOk s → Logged .regAccess 0 s t)
    else if p = .bar2 ∧ (low ≠ 0 ∨ k ≠ 4 ∨ s.reaches p n = false) then
      ∃ t, exec (.counterHiRead p n low k) s = .next t ∧ t.out = s.out ++ [Out.regData p 0] ∧ t.cnt = s.cnt
    else if s.reaches p n = false then exec (.counterHiRead p n low k) s = .next s
    else ((s.counter n).latch p = none → ∃ t, exec (.counterHiRead p n low k) s = .next t ∧
        t.out = s.out ++ [Out.regData p ((s.counter n).val / 2 ^ 32)]) ∧
      (∀ l, (s.counter n).latch p = some l → s.now < l.since + 16000 → ∃ t, exec (.counterHiRead p n low k) s = .next t ∧
        t.out = s.out ++ [Out.regData p l.hi] ∧ (t.counter n).latch p = none) := by
  have run : exec (.counterHiRead p n low k) s = execCounterHiRead p n low k s := rfl
  rw [run]
  have user := badUser_hi_iff p low k
  split_ifs with hbad huser hmiss
  · exact ⟨_, by simp [execCounterHiRead, (badAccess_iff p low k).2 hbad], badRead_out p s, badRead_logged p s⟩
  · obtain ⟨rfl, h⟩ := huser
    exact ⟨_, execCounterHiRead_user ((or_assoc.2 h).imp_left fun h => user.2 ⟨rfl, h⟩), rfl, rfl⟩
  · exact execCounterHiRead_missing (fun hp => huser ⟨hp, .inr (.inr hmiss)⟩) (badAccess_eq_false hbad) hmiss
  · have hu : badUser p low k false = false :=
      Bool.eq_false_iff.2 fun hb => huser ((user.1 hb).imp_right (·.imp_right .inl))
    have read := execCounterHiRead_high (badAccess_eq_false hbad) hu (by simpa using hmiss)
    refine ⟨fun hclosed => ⟨_, read, ?_⟩, fun l hopen ht => ⟨_, read, ?_⟩⟩
    · rw [readCntHi_of_closed hclosed]
      rfl
    · rw [readCntHi_of_open hopen ht]
      exact ⟨by simp, closeLatch_latch p n s⟩

/-- An unread latch closes after 16,000 ck (R538). -/
theorem latch_timedOut (p : Path) (n : Nat) (s : State) :
    ((s.counter n).latch p = none → exec (.latchTimeout p n) s = .next s) ∧
    (∀ l, (s.counter n).latch p = some l →
      if s.now < l.since + 16000 then exec (.latchTimeout p n) s = .next s
      else ∃ t, exec (.latchTimeout p n) s = .next t ∧ (t.counter n).latch p = none ∧
        ((s.counter n).held = 0 → (t.counter n).val = (s.counter n).val)) := by
  have run : exec (.latchTimeout p n) s = .next (s.expireLatch p n) := rfl
  rw [run]
  refine ⟨fun hclosed => by rw [expireLatch_of_closed hclosed], fun l hopen => ?_⟩
  split_ifs with ht
  · rw [expireLatch_early hopen ht]
  · rw [expireLatch_due hopen ht]
    refine ⟨_, rfl, closeLatch_latch p n s, fun hheld => ?_⟩
    rw [closeLatch_of_not_held p hheld, counter_modCounter_same, val_setLatch]

/-- Settles O33: the configuration, the window, its boundary, and the reads with their latches. -/
theorem countersRead : Obligations.CountersRead := by
  refine ⟨cfg_written, window_written, fun s => ⟨execCounterWindow_early, fun hdue => ?_⟩,
    fun s n v hdue hsorted hpend => ?_, counterLo_read, counterHi_read, latch_timedOut⟩
  · refine ⟨atBoundary s, execCounterWindow_due hdue, rfl, rfl, rfl, fun n hsorted hpend => ?_⟩
    rw [counter_atBoundary hsorted]
    exact boundary_of_no_pend s.now hpend
  · refine ⟨atBoundary s, execCounterWindow_due hdue, ?_⟩
    rw [counter_atBoundary hsorted]
    exact boundary_of_pend s.now hpend

end Sys2Proof.Proofs

/-! PROOF. The time base: picots, delays, holdover (R403 to R407, R424). -/

namespace Sys2Proof.Laws

open Sys2Proof Sys2Proof.Machine

/-! ## The ports under a change of time or root -/

@[simp] theorem adopt_ports (r : Nat) (s : State) : (s.adopt r).tor.ports = s.tor.ports := by
  unfold State.adopt
  split
  · extract_lets same s'
    have h : s'.tor.ports = s.tor.ports := by unfold s'; split <;> rfl
    exact h
  · rfl

@[simp] theorem stepTime_ports (e : Int) (s : State) : (s.stepTime e).tor.ports = s.tor.ports := rfl

@[simp] theorem slewTime_ports (e : Int) (s : State) : (s.slewTime e).tor.ports = s.tor.ports := by
  unfold State.slewTime
  extract_lets s'
  split
  · rw [log_tor]; rfl
  · rfl

/-- A picot changes no port when time is not final. -/
theorem picotBefore_ports (p : Nat) (e : Int) (s : State) : (s.picotBefore p e).tor.ports = s.tor.ports := by
  unfold State.picotBefore
  extract_lets root s1 s2 n fin
  have h1 : s1.tor.ports = s.tor.ports := by unfold s1; split <;> rfl
  have h2 : s2.tor.ports = s1.tor.ports := by unfold s2; split <;> simp
  split
  · exact h2.trans h1
  · exact h2.trans h1

/-- A picot changes no port when time is final. -/
theorem picotAfter_ports (p : Nat) (e : Int) (s : State) : (s.picotAfter p e).tor.ports = s.tor.ports := by
  unfold State.picotAfter
  extract_lets q r new s1 s2
  split_ifs <;> simp [s1, s2]

theorem reservedCtrl_tor (w : BitVec 64) (s : State) : (s.reservedCtrl w).tor = s.tor := by
  unfold State.reservedCtrl
  split
  · exact count_tor _ _ _ _ _
  · rfl

theorem up_iff (q : Port) : q.up = true ↔ q.state = .up := by simp [Port.up]

/-- A port reads the table of ports. -/
theorem port_congr {s t : State} (h : t.tor.ports = s.tor.ports) (p : Nat) : t.port p = s.port p :=
  congrArg (fun m => Sparse.get ({} : Port) m p) h

/-! ## Picots -/

/-- The port `q` when it has heard the PICOT_A `w` at ck `now` (R403). -/
def heardPort (now : Nat) (w : BitVec 64) (q : Port) : Port :=
  { q with heardRoot := some (bits w.toNat 50 39), heardDist := bits w.toNat 57 51, heardFinal := bit w.toNat 59,
           lastPicot := now, picotA := some w }

/-- What the device makes of a picot that came at port `p` with the error `e` of its time (R405 to R407). -/
def takePicot (p : Nat) (e : Int) (s : State) : State :=
  if s.tor.final then s.picotAfter p e else if s.tor.candidate then s.picotBefore p e else s

theorem takePicot_ports (p : Nat) (e : Int) (s : State) : (takePicot p e s).tor.ports = s.tor.ports := by
  unfold takePicot
  split_ifs
  · exact picotAfter_ports p e s
  · exact picotBefore_ports p e s
  · rfl

/-- A PICOT_A is taken down at its port before the device makes anything of it. -/
theorem execPicotA_heard {p : Nat} {w : BitVec 64} {s : State} (a : Nat) (hp : p < 4) (hup : (s.port p).up = true)
    (hfreq : (s.port p).freq = false) (hw : ctrlType w = 1) :
    ∃ e, execPicotA p w a s = .next (takePicot p e (s.modPort p (heardPort s.now w))) :=
  ⟨_, by rw [execPicotA, if_neg (by simp [hp, hup, hfreq]), if_neg (by simp [hw])]; rfl⟩

theorem execPicotA_other {p : Nat} {w : BitVec 64} {s : State} (a : Nat) (hp : p < 4) (hup : (s.port p).up = true)
    (hfreq : (s.port p).freq = false) (hw : ctrlType w ≠ 1) : execPicotA p w a s = .next (s.reservedCtrl w) := by
  simp [execPicotA, hp, hup, hfreq, hw]

theorem execPicotB_high {p : Nat} {w : BitVec 64} {s : State} (hp : p < 4) (hup : (s.port p).up = true)
    (hfreq : (s.port p).freq = false) (hw : ctrlType w = 2) :
    execPicotB p w s = .next (s.modPort p fun q => { q with picotHi := w.toNat % 2 ^ 24, picotA := q.picotA }) := by
  simp [execPicotB, hp, hup, hfreq, hw]

theorem execPicotB_other {p : Nat} {w : BitVec 64} {s : State} (hp : p < 4) (hup : (s.port p).up = true)
    (hfreq : (s.port p).freq = false) (hw : ctrlType w ≠ 2) : execPicotB p w s = .next (s.reservedCtrl w) := by
  simp [execPicotB, hp, hup, hfreq, hw]

theorem picot_guard_iff (p : Nat) (s : State) :
    (decide (p ≥ 4) || !(s.port p).up || (s.port p).freq) = false ↔ p < 4 ∧ (s.port p).state = .up ∧ (s.port p).freq = false := by
  simp [up_iff, and_assoc]

/-- On a port that is not UP, or while FREQ is set, picots have no effect. -/
theorem execPicot_deaf {p : Nat} {s : State} (h : ¬(p < 4 ∧ (s.port p).state = .up ∧ (s.port p).freq = false))
    (w : BitVec 64) (a : Nat) : execPicotA p w a s = .next s ∧ execPicotB p w s = .next s := by
  have deaf := eq_true_of_ne_false (mt (picot_guard_iff p s).1 h)
  exact ⟨if_pos deaf, if_pos deaf⟩

/-- The two picots of one port (R403). -/
def sendPicot (a b : Nat) (s : State) (p : Nat) : State :=
  if s.usable p && !(s.port p).freq then (s.linkCtrl p 1 a).linkCtrl p 2 b else s

theorem sendPicot_tor (a b : Nat) (s : State) (p : Nat) : (sendPicot a b s p).tor = s.tor := by
  unfold sendPicot
  split <;> rfl

theorem sendPicot_out (a b : Nat) (s : State) (p : Nat) : s.out ⊆ (sendPicot a b s p).out := by
  unfold sendPicot
  split
  · exact fun o ho => by simp [State.linkCtrl, ho]
  · exact fun o ho => ho

theorem foldl_sendPicot_tor (a b : Nat) (l : List Nat) (s : State) : (l.foldl (sendPicot a b) s).tor = s.tor := by
  induction l generalizing s with
  | nil => rfl
  | cons p l ih => exact (ih _).trans (sendPicot_tor a b s p)

theorem foldl_sendPicot_out (a b : Nat) (l : List Nat) (s : State) : s.out ⊆ (l.foldl (sendPicot a b) s).out := by
  induction l generalizing s with
  | nil => exact List.Subset.refl _
  | cons p l ih => exact fun o ho => ih _ (sendPicot_out a b s p ho)

/-- Every port of the list that is UP and whose beats agree sends its PICOT_A. -/
theorem mem_foldl_sendPicot (a b : Nat) {l : List Nat} {s : State} {p : Nat} (hl : p ∈ l) (hp : s.usable p = true)
    (hfreq : (s.port p).freq = false) : (.link p (ctrlWord 1 a) : Out) ∈ (l.foldl (sendPicot a b) s).out := by
  induction l generalizing s with
  | nil => exact absurd hl List.not_mem_nil
  | cons x l ih =>
    by_cases hx : p = x
    · subst hx
      exact foldl_sendPicot_out a b l _ (by simp [sendPicot, hp, hfreq, State.linkCtrl])
    · have same : (sendPicot a b s x).port p = s.port p := port_congr (congrArg Torus.ports (sendPicot_tor a b s x)) p
      exact ih ((List.mem_cons.1 hl).resolve_left hx) (by unfold State.usable at hp ⊢; rw [same]; exact hp) (by rw [same]; exact hfreq)

theorem settleConflict_tor (s : State) : s.settleConflict.tor = { s.tor with conflictAt := s.settleConflict.tor.conflictAt } := by
  unfold State.settleConflict
  split
  · split_ifs <;> rfl
  · rfl

/-- The state in which picots leave at the boundary `t` (R403, R423). -/
def atPicot (s : State) : State := (s.modTor fun x => { x with lastPicot := s.lastGrid 65536 }).settleConflict

/-- Every field of the time base but the conflict is as it was. -/
theorem atPicot_tor (s : State) :
    (atPicot s).tor = { s.tor with lastPicot := s.lastGrid 65536, conflictAt := (atPicot s).tor.conflictAt } := settleConflict_tor _

theorem execPicotSend_due {s : State} (h : (s.tor.final = true ∨ s.tor.candidate = true) ∧ s.tor.lastPicot < s.lastGrid 65536) :
    execPicotSend s = .next ((List.range 4).foldl (sendPicot ((if (atPicot s).tor.final then 2 ^ 59 else 0) +
      (atPicot s).tor.dist * 2 ^ 51 + (atPicot s).tor.rootId * 2 ^ 39 + s.gtOf (s.lastGrid 65536) / 65536 % 2 ^ 24)
        (s.gtOf (s.lastGrid 65536) / 65536 / 2 ^ 24 % 2 ^ 24)) (atPicot s)) :=
  if_neg (by obtain ⟨h | h, ht⟩ := h <;> simp [h, ht])

theorem execPicotSend_not_due {s : State}
    (h : ¬((s.tor.final = true ∨ s.tor.candidate = true) ∧ s.tor.lastPicot < s.lastGrid 65536)) : execPicotSend s = .next s :=
  if_pos (by simpa [imp_iff_not_or] using h)

/-! ## The delay exchange -/

theorem modPort_congr {p : Nat} {f g : Port → Port} {s : State} (h : f (s.port p) = g (s.port p)) :
    s.modPort p f = s.modPort p g := by
  unfold State.port at h
  simp only [State.modPort, Sparse.modify, h]

/-- The port `q` when the exchange under way has measured `m` (R404). -/
def measuredPort (m : Nat) (q : Port) : Port :=
  { q with delayReq := none, delays := (q.delays ++ [m]).drop (q.delays.length + 1 - 1024),
           delay := mean ((q.delays ++ [m]).drop (q.delays.length + 1 - 1024)) }

theorem measuredPort_delays (m : Nat) (q : Port) :
    (measuredPort m q).delays = (q.delays ++ [m]).drop (q.delays.length + 1 - 1024) := by
  simp only [measuredPort]

/-- The answer to the request under way (R404). -/
theorem execDelayRsp_asked {p t : Nat} {s : State} (d a : Nat) {i : Nat} (hp : p < 4) (hup : (s.port p).up = true)
    (hreq : (s.port p).delayReq = some (i, t)) :
    execDelayRsp p i d a s = .next (s.modPort p (measuredPort ((a - t - d) / 2))) := by
  simp only [execDelayRsp, hreq]
  rw [if_neg (by simp [hp, hup])]
  exact congrArg _ (modPort_congr rfl)

/-- The first exchange is its own average. -/
theorem measuredPort_first (m : Nat) {q : Port} (h : q.delays = []) : (measuredPort m q).delay = m := by
  simp [measuredPort, h, mean]

theorem execDelayRsp_unasked {p i : Nat} {s : State} (d a : Nat)
    (h : ¬(p < 4 ∧ (s.port p).state = .up ∧ ∃ r ∈ (s.port p).delayReq, r.1 = i)) : execDelayRsp p i d a s = .next s := by
  unfold execDelayRsp
  extract_lets q
  split
  case h_1 j t hreq =>
    refine if_pos ?_
    by_contra guard
    simp only [Bool.or_eq_true, decide_eq_true_eq, Bool.not_eq_true', bne_iff_ne, not_or, ge_iff_le, not_le, Bool.not_eq_false,
      Decidable.not_not] at guard
    obtain ⟨⟨hp, hup⟩, rfl⟩ := guard
    exact h ⟨hp, (up_iff q).1 hup, _, hreq, rfl⟩
  case h_2 => rfl

/-! ## Holdover -/

/-- Without a port that is UP no port announces a root. -/
theorem bestPort_of_no_up {s : State} (h : ∀ p < 4, (s.port p).state ≠ .up) (r : Nat) : s.bestPort r = none := by
  have silent : ∀ p < 4, s.offers p = none := fun p hp => by
    unfold State.offers
    extract_lets q
    split
    · simp [q, Port.up, h p hp]
    · rfl
  have range : List.range 4 = [0, 1, 2, 3] := rfl
  simp [State.bestPort, range, silent]

end Sys2Proof.Laws

/-! PROOF. O40: picots, delays and the root of time. -/

namespace Sys2Proof.Proofs

open Sys2Proof Sys2Proof.Machine Sys2Proof.Laws

/-- A PICOT_A and a PICOT_B are taken down at their port (R403). -/
theorem picots_received (p : Nat) (w : BitVec 64) (a : Nat) (s : State) : let q := s.port p
    if p < 4 ∧ q.state = .up ∧ q.freq = false then
      (∃ t, exec (.picotA p w a) s = .next t ∧ if ctrlType w = 1 then (t.port p).heardRoot = some (bits w.toNat 50 39) ∧
        (t.port p).heardDist = bits w.toNat 57 51 ∧ (t.port p).heardFinal = bit w.toNat 59 ∧ (t.port p).lastPicot = s.now
        else t.tor = s.tor) ∧
      ∃ t, exec (.picotB p w) s = .next t ∧ if ctrlType w = 2 then (t.port p).picotHi = w.toNat % 2 ^ 24 else t.tor = s.tor
    else exec (.picotA p w a) s = .next s ∧ exec (.picotB p w) s = .next s := by
  intro q
  split
  case isTrue h =>
    obtain ⟨hp, hup, hfreq⟩ := h
    have hup := (up_iff q).2 hup
    constructor
    · by_cases hw : ctrlType w = 1
      · obtain ⟨e, run⟩ := execPicotA_heard a hp hup hfreq hw
        refine ⟨_, run, ?_⟩
        rw [if_pos hw, port_congr (takePicot_ports p e _), port_modPort_same]
        exact ⟨rfl, rfl, rfl, rfl⟩
      · refine ⟨_, execPicotA_other a hp hup hfreq hw, ?_⟩
        rw [if_neg hw]
        exact reservedCtrl_tor w s
    · by_cases hw : ctrlType w = 2
      · refine ⟨_, execPicotB_high hp hup hfreq hw, ?_⟩
        rw [if_pos hw, port_modPort_same]
      · refine ⟨_, execPicotB_other hp hup hfreq hw, ?_⟩
        rw [if_neg hw]
        exact reservedCtrl_tor w s
  case isFalse h => exact execPicot_deaf h w a

/-- Picots leave at a boundary (R403). -/
theorem picots_sent (s : State) :
    if (s.tor.final = true ∨ s.tor.candidate = true) ∧ s.tor.lastPicot < s.lastGrid 65536 then
      ∃ t, exec .picotSend s = .next t ∧ t.tor.lastPicot = s.lastGrid 65536 ∧
        (s.tor.final = true → ∀ p < 4, (s.port p).state = .up → (s.port p).freq = false →
          (.link p (ctrlWord 1 (2 ^ 59 + s.tor.dist * 2 ^ 51 + s.tor.rootId * 2 ^ 39 + s.gtOf (s.lastGrid 65536) / 65536 % 2 ^ 24)) : Out) ∈ t.out)
    else exec .picotSend s = .next s := by
  split
  case isTrue h =>
    have tor := atPicot_tor s
    refine ⟨_, execPicotSend_due h, ?_, fun hfinal p hp hup hfreq => ?_⟩
    · rw [foldl_sendPicot_tor, tor]
    · have port : (atPicot s).port p = s.port p := port_congr (by rw [tor]) p
      have word : 2 ^ 59 + s.tor.dist * 2 ^ 51 + s.tor.rootId * 2 ^ 39 + s.gtOf (s.lastGrid 65536) / 65536 % 2 ^ 24 =
          (if (atPicot s).tor.final then 2 ^ 59 else 0) + (atPicot s).tor.dist * 2 ^ 51 + (atPicot s).tor.rootId * 2 ^ 39 +
            s.gtOf (s.lastGrid 65536) / 65536 % 2 ^ 24 := by
        rw [tor, if_pos hfinal]
      rw [word]
      exact mem_foldl_sendPicot _ _ (List.mem_range.2 hp) (by simp [State.usable, port, hp, hup]) (by rw [port]; exact hfreq)
  case isFalse h => exact execPicotSend_not_due h

/-- A DELAY_REQ leaves every 4,096 ck (R404). -/
theorem delay_asked (p : Nat) (s : State) : let q := s.port p
    if p < 4 ∧ q.state = .up ∧ q.lastDelay + 4096 ≤ s.now then ∃ t, exec (.delayReqSend p) s = .next t ∧
      t.out = s.out ++ [Out.link p (ctrlWord 7 q.delayId)] ∧ (t.port p).delayReq = some (q.delayId, s.fineTime) ∧
      (t.port p).delayId = (q.delayId + 1) % 2 ^ 16 ∧ (t.port p).lastDelay = s.now
    else exec (.delayReqSend p) s = .next s := by
  intro q
  have run : exec (.delayReqSend p) s = execDelayReqSend p s := rfl
  rw [run]
  split
  case isTrue h =>
    obtain ⟨hp, hup, hdue⟩ := h
    have guard : ¬(decide (p ≥ 4) || !q.up || decide (s.now < q.lastDelay + 4096)) = true := by simp [hp, (up_iff q).2 hup, hdue]
    refine ⟨_, if_neg guard, rfl, ?_⟩
    have port (o : Out) (u : State) : (u.emit o).port p = u.port p := rfl
    rw [State.linkCtrl, port, port_modPort_same]
    exact ⟨rfl, rfl, rfl⟩
  case isFalse h =>
    exact if_pos (by rw [← up_iff] at h; simpa [imp_iff_not_or, or_assoc] using h)

/-- A received DELAY_REQ is answered (R404). -/
theorem delay_answered (p i d : Nat) (s : State) :
    if p < 4 ∧ (s.port p).state = .up then ∃ t, exec (.delayReq p i d) s = .next t ∧
      t.out = s.out ++ [Out.link p (ctrlWord 8 (i % 2 ^ 16 * 2 ^ 32 + d % 2 ^ 32))]
    else exec (.delayReq p i d) s = .next s := by
  have up := up_iff (s.port p)
  split
  case isTrue h => exact ⟨_, if_neg (by simpa [up] using h), rfl⟩
  case isFalse h => exact if_pos (by rw [← up] at h; simpa [imp_iff_not_or] using h)

/-- A received DELAY_RSP enters the average (R404). -/
theorem delay_averaged (p i d a : Nat) (s : State) : let q := s.port p
    if p < 4 ∧ q.state = .up ∧ (∃ r ∈ q.delayReq, r.1 = i) then ∃ t, exec (.delayRsp p i d a) s = .next t ∧
      (t.port p).delayReq = none ∧ let m := (a - (q.delayReq.getD (0, 0)).2 - d) / 2
      (t.port p).delays = (q.delays ++ [m]).drop (q.delays.length + 1 - 1024) ∧ (q.delays = [] → (t.port p).delay = m)
    else exec (.delayRsp p i d a) s = .next s := by
  intro q
  split
  case isTrue h =>
    obtain ⟨hp, hup, ⟨j, t⟩, hreq, rfl⟩ := h
    refine ⟨_, execDelayRsp_asked d a hp ((up_iff q).2 hup) hreq, ?_⟩
    rw [port_modPort_same]
    simp only [q] at hreq ⊢
    rw [Option.mem_def.1 hreq]
    exact ⟨rfl, measuredPort_delays _ _, measuredPort_first _⟩
  case isFalse h => exact execDelayRsp_unasked d a h

/-- A candidate becomes root (R405). -/
theorem root_elected (s : State) :
    if s.tor.candidate = true ∧ s.tor.final = false ∧ s.tor.electAt + 16 * 65536 ≤ s.now then
      ∃ t, exec .rootElection s = .next t ∧ t.tor.isRoot = true ∧ t.tor.final = true ∧ t.tor.rootId = s.tor.id ∧ t.tor.dist = 0 ∧
        t.tor.off = s.tor.off
    else exec .rootElection s = .next s := by
  split
  case isTrue h => exact ⟨s.becomeRoot, if_neg (by simpa [and_assoc] using h), rfl, rfl, rfl, rfl, rfl⟩
  case isFalse h => exact if_pos (by simpa [imp_iff_not_or, or_assoc] using h)

/-- A device that no longer hears its root goes to holdover (R407). -/
theorem holdover_entered (s : State) : let x := s.tor
    (x.final = true → x.isRoot = false → x.holdover = false → x.upHeard + 3 * 65536 ≤ s.now → (∀ p < 4, (s.port p).state ≠ .up) →
      ∃ t, exec .holdover s = .next t ∧ t.tor.holdover = true ∧ t.tor.off = x.off ∧ (logsOk s → Logged .timeHoldover 0 s t)) ∧
    (x.final = false ∨ x.isRoot = true ∨ x.holdover = true ∨ s.now < x.upHeard + 3 * 65536 → exec .holdover s = .next s) := by
  intro x
  have run : exec .holdover s = execHoldover s := rfl
  rw [run]
  constructor
  · intro hfinal hroot hhold hdue hdown
    have guard : ¬(!x.final || x.isRoot || x.holdover || decide (s.now < x.upHeard + 3 * 65536) ||
        (s.bestPort x.rootId).isSome) = true := by
      simp [hfinal, hroot, hhold, hdue, bestPort_of_no_up hdown]
    refine ⟨_, if_neg guard, ?_⟩
    rw [log_tor]
    exact ⟨rfl, rfl, fun hs => (log_put .timeHoldover 0 (s := s.modTor _) hs 0 0 0 true).1⟩
  · intro h
    refine if_pos ?_
    simp only [x] at h
    rcases h with h | h | h | h <;> simp [h]

/-- Holdover ends with the device as root (R407). -/
theorem holdover_left (s : State) :
    if s.tor.holdover = true ∧ s.tor.upHeard + 16 * 65536 ≤ s.now then
      ∃ t, exec .holdoverRoot s = .next t ∧ t.tor.isRoot = true ∧ t.tor.rootId = s.tor.id ∧ t.tor.holdover = false ∧ t.tor.off = s.tor.off
    else exec .holdoverRoot s = .next s := by
  split
  case isTrue h => exact ⟨s.becomeRoot.condEnd 0x06 0x07 0, if_neg (by simpa using h), rfl, rfl, rfl, rfl⟩
  case isFalse h => exact if_pos (by simpa [imp_iff_not_or] using h)

/-- TOR_TIME_LO is read, with its latch (R19, R424). -/
theorem time_read (p : Path) (low k : Nat) (s : State) :
    if p = .bar2 then exec (.timeLoRead p low k) s = .next s
    else if p = .bar0 ∧ (low ≠ 0 ∨ k ≠ 4) then ∃ t, exec (.timeLoRead p low k) s = .next t ∧ t.out = s.out ++ [Out.regData p 0] ∧
      t.tor = s.tor ∧ (logsOk s → Logged .regAccess 0 s t)
    else ∃ t, exec (.timeLoRead p low k) s = .next t ∧ t.out = s.out ++ [Out.regData p (s.gt % 2 ^ 32)] ∧
      Sparse.find? t.tor.timeLatch (Path.key p) = some (s.gt / 2 ^ 32 % 2 ^ 32) := by
  have bad := badAccess_iff p low k
  split_ifs with huser hbad
  · exact if_pos (by simpa using huser)
  · exact ⟨_, (if_neg (by simpa using huser)).trans (if_pos (bad.2 hbad)), badRead_out p s, badRead_tor p s, badRead_logged p s⟩
  · refine ⟨_, (if_neg (by simpa using huser)).trans (if_neg (mt bad.1 hbad)), rfl, ?_⟩
    exact (find?_insert s.tor.timeLatch (Path.key p) (Path.key p) _).trans (if_pos rfl)

/-- Settles O40: picots received and sent, the delay exchange, the election of a root, holdover, and the read of time. -/
theorem timeBase : Obligations.TimeBase :=
  ⟨picots_received, picots_sent, delay_asked, delay_answered, delay_averaged, root_elected, holdover_entered, holdover_left,
    time_read⟩

end Sys2Proof.Proofs

/-! PROOF. Writes of registers, accesses that time out, and the SMBus port (R17, R19, R560, R567 to R569). -/

namespace Sys2Proof.Laws

open Sys2Proof Sys2Proof.Machine

/-! ## What a write of a register leaves -/

theorem newEntry_alertMin (f : Faults) (o : Occurrence) (c : Nat) (x : Bool) : (f.newEntry o c x).alertMin = f.alertMin := by
  unfold Faults.newEntry
  extract_lets e
  split
  · rfl
  · split <;> rfl

theorem enter_alertMin (f : Faults) (o : Occurrence) : (f.enter o).alertMin = f.alertMin := by
  unfold Faults.enter
  extract_lets own g
  have hg : g.alertMin = f.alertMin := by unfold g; split <;> rfl
  rw [← hg]
  split
  · exact newEntry_alertMin g _ _ _
  · split
    · exact newEntry_alertMin g _ _ _
    · split
      · exact newEntry_alertMin g _ _ _
      · rfl

theorem logOverflows_alertMin (n : Nat) (s : State) : (State.logOverflows n s).flt.alertMin = s.flt.alertMin := by
  induction n generalizing s with
  | zero => rfl
  | succ n ih => exact (ih _).trans (enter_alertMin s.flt _)

/-- Logging leaves the alert level alone. -/
theorem writeIgnored_alertMin (s : State) : s.writeIgnored.flt.alertMin = s.flt.alertMin :=
  (logOverflows_alertMin _ _).trans (enter_alertMin s.flt _)

@[simp] theorem perPath_get_put (x : PerPath) (p : Path) (n : Nat) : (x.put p n).get p = n := by cases p <;> rfl

/-- FLT_CFG takes an alert level of R473, and ignores another. -/
theorem writeFlt_alertMin (p : Path) (v : Nat) (s : State) :
    (s.writeFlt p 0x4000 v).flt.alertMin = if bits v 3 1 < 5 then bits v 3 1 else s.flt.alertMin := by
  by_cases h : bits v 3 1 < 5
  · have run : s.writeFlt p 0x4000 v = s.modFlt fun f => { f with alertMin := bits v 3 1, escalate := bit v 0 } :=
      if_neg (Nat.not_le.2 h)
    rw [run, if_pos h]
    rfl
  · have run : s.writeFlt p 0x4000 v = s.writeIgnored := if_pos (Nat.not_lt.1 h)
    rw [run, if_neg h, writeIgnored_alertMin]

/-- A write of each register that holds what is written to it has its effect. -/
theorem writeReg_written (p : Path) (o : Nat) (v : Word) (s : State) : RegWritten p o v s (s.writeReg p o v) := by
  refine ⟨?admSeqLo, ?admSeqHi, ?fltCfg, ?fltIdx, ?sensorIdx, ?wakeCfg, ?sticky, ?laneIdx, ?portIdx, ?pxTarget, ?pxData⟩ <;>
    rintro rfl
  case fltCfg => exact writeFlt_alertMin p v.toNat s
  case wakeCfg => exact ⟨rfl, rfl, rfl⟩
  case fltIdx | sensorIdx | laneIdx | portIdx => exact perPath_get_put _ p _
  case admSeqLo | admSeqHi | sticky | pxTarget | pxData => rfl

/-! ## The register window (R17, R19, R560) -/

/-- A write reaches a register (R17): its path writes registers and the island of the register answers. -/
theorem registerWrite_guard_iff (p : Path) (o : Nat) (s : State) :
    (p == .bar2 || (p == .bar0 && !s.tor.pcieEn) || !s.answers o) = true ↔
      p = .bar2 ∨ (p = .bar0 ∧ s.tor.pcieEn = false) ∨ s.answers o = false := by
  simp [or_assoc]

theorem execRegisterWrite_reached {p : Path} {o : Nat} {s : State} (n : Nat) (v : Word) (hp : p ≠ .bar2)
    (hen : p = .bar0 → s.tor.pcieEn = true) (ho : s.answers o = true) :
    execRegisterWrite p o n v s = if n = 4 then .next (s.writeReg p o v) else .next (s.log .regAccess 0) := by
  have reached : ¬(p == .bar2 || (p == .bar0 && !s.tor.pcieEn) || !s.answers o) = true := by
    rw [registerWrite_guard_iff]
    rintro (h | ⟨h, hoff⟩ | h)
    · exact hp h
    · exact absurd (hen h) (by simp [hoff])
    · exact absurd ho (by simp [h])
  unfold execRegisterWrite
  rw [if_neg reached]
  by_cases hn : n = 4 <;> simp [hn]

theorem execRegisterWrite_unreached {p : Path} {o : Nat} {s : State} (n : Nat) (v : Word)
    (h : p = .bar2 ∨ (p = .bar0 ∧ s.tor.pcieEn = false) ∨ s.answers o = false) : execRegisterWrite p o n v s = .next s :=
  if_pos ((registerWrite_guard_iff p o s).2 h)

/-- An access without an answer is logged (R560). -/
theorem regAccess_logged (s : State) (hs : logsOk s) : Logged .regAccess 0 s (s.log .regAccess 0) := (log_put .regAccess 0 hs 0 0 0 false).1

/-- Nobody waits for the answer over BAR2, nor at the SMBus port while its operation is not BUSY. -/
theorem regAccessTimeout_guard_iff (p : Path) (r : Bool) (s : State) :
    (p == .bar2 || (p == .smbus && !(if r then decide (s.smb.status = 1) else decide (s.smb.wstatus = 1)))) = true ↔
      p = .bar2 ∨ (p = .smbus ∧ (if r = true then s.smb.status else s.smb.wstatus) ≠ 1) := by
  cases r <;> simp

/-- The SMBus port when its read or its write is WEDGED (R560). -/
def wedged (r : Bool) (b : Smbus) : Smbus := if r then { b with status := 4, data := leBytes 4 0 } else { b with wstatus := 4 }

/-- The state after an access without an answer that somebody waits for (R560). -/
def timedOut (p : Path) (r : Bool) (s : State) : State :=
  let s := s.log .regAccess 0
  let s := if p == .bar0 && r then s.emit (.regData .bar0 0xFFFFFFFF) else s
  if p == .smbus then s.modSmb (wedged r) else s

theorem execRegAccessTimeout_idle {p : Path} {r : Bool} {s : State}
    (h : p = .bar2 ∨ (p = .smbus ∧ (if r = true then s.smb.status else s.smb.wstatus) ≠ 1)) :
    execRegAccessTimeout p r s = .next s := if_pos ((regAccessTimeout_guard_iff p r s).2 h)

theorem execRegAccessTimeout_waited {p : Path} {r : Bool} {s : State}
    (h : ¬(p = .bar2 ∨ (p = .smbus ∧ (if r = true then s.smb.status else s.smb.wstatus) ≠ 1))) :
    execRegAccessTimeout p r s = .next (timedOut p r s) := if_neg (mt (regAccessTimeout_guard_iff p r s).1 h)

theorem timedOut_flt (p : Path) (r : Bool) (s : State) : (timedOut p r s).flt = (s.log .regAccess 0).flt := by
  cases p <;> cases r <;> rfl

/-- A read over BAR0 gets all ones. -/
theorem timedOut_out (p : Path) (r : Bool) (s : State) :
    (timedOut p r s).out = s.out ++ if p = .bar0 ∧ r = true then [.regData .bar0 0xFFFFFFFF] else [] := by
  cases p <;> cases r <;> simp [timedOut]

theorem timedOut_smb (r : Bool) (s : State) : (timedOut .smbus r s).smb = wedged r s.smb := by
  simp [timedOut]

/-! ## The SMBus port (R567 to R569) -/

theorem smbCheck_pec {n : Nat} {b : List Byte} {ok : Bool} (h : ok = false) : smbCheck n b ok = (leAt b 0 3, 3) := by
  simp [smbCheck, h]

theorem smbCheck_bad_iff (n : Nat) (b : List Byte) :
    (b.length != n || leAt b 0 3 % 4 != 0 || decide (leAt b 0 3 ≥ 2 ^ 20)) = true ↔
      b.length ≠ n ∨ leAt b 0 3 % 4 ≠ 0 ∨ 2 ^ 20 ≤ leAt b 0 3 := by
  simp [or_assoc]

theorem smbCheck_bad {n : Nat} {b : List Byte} {ok : Bool} (hok : ¬ok = false)
    (h : b.length ≠ n ∨ leAt b 0 3 % 4 ≠ 0 ∨ 2 ^ 20 ≤ leAt b 0 3) : smbCheck n b ok = (leAt b 0 3, 2) := by
  obtain rfl : ok = true := by simpa using hok
  exact congrArg (leAt b 0 3, ·) (if_pos ((smbCheck_bad_iff n b).2 h))

theorem smbCheck_good {n : Nat} {b : List Byte} {ok : Bool} (hok : ¬ok = false)
    (h : ¬(b.length ≠ n ∨ leAt b 0 3 % 4 ≠ 0 ∨ 2 ^ 20 ≤ leAt b 0 3)) : smbCheck n b ok = (leAt b 0 3, 0) := by
  obtain rfl : ok = true := by simpa using hok
  exact congrArg (leAt b 0 3, ·) (if_neg (mt (smbCheck_bad_iff n b).1 h))

section SmbusPort

variable {b : List Byte} {ok : Bool} {s : State} {o : Nat}

theorem execSetAddr_refused {st : Nat} (hidle : s.smb.busy = false) (hc : smbCheck 3 b ok = (o, st)) (hst : st ≠ 0) :
    execSetAddr b ok s = .next (s.modSmb fun b => { b with status := st, data := [] }) := by
  simp [execSetAddr, hc, hidle, hst]

theorem execSetAddr_answered (hidle : s.smb.busy = false) (hc : smbCheck 3 b ok = (o, 0))
    (ho : selvedgeSet o = true ∨ s.answers o = true) :
    execSetAddr b ok s =
      .next ((s.readReg .smbus o).2.modSmb fun b => { b with status := 0, data := leBytes 4 (s.readReg .smbus o).1 }) := by
  simp [execSetAddr, hc, hidle, ho]

theorem execSetAddr_waiting (hidle : s.smb.busy = false) (hc : smbCheck 3 b ok = (o, 0))
    (ho : ¬(selvedgeSet o = true ∨ s.answers o = true)) :
    execSetAddr b ok s = .next (s.modSmb fun b => { b with status := 1, data := [] }) := by
  simp [execSetAddr, hc, hidle, ho]

theorem execSmbusWrite_refused {st : Nat} (hidle : s.smb.busy = false) (hc : smbCheck 7 b ok = (o, st)) (hst : st ≠ 0) :
    execSmbusWrite b ok s = .next (s.modSmb fun b => { b with wstatus := st }) := by
  simp [execSmbusWrite, hc, hidle, hst]

theorem execSmbusWrite_answered (hidle : s.smb.busy = false) (hc : smbCheck 7 b ok = (o, 0))
    (ho : selvedgeSet o = true ∨ s.answers o = true) :
    execSmbusWrite b ok s =
      .next ((s.writeReg .smbus o (BitVec.ofNat 32 (leAt b 3 4))).modSmb fun b => { b with wstatus := 0 }) := by
  simp [execSmbusWrite, hc, hidle, ho]

theorem execSmbusWrite_waiting (hidle : s.smb.busy = false) (hc : smbCheck 7 b ok = (o, 0))
    (ho : ¬(selvedgeSet o = true ∨ s.answers o = true)) :
    execSmbusWrite b ok s = .next (s.modSmb fun b => { b with wstatus := 1 }) := by
  simp [execSmbusWrite, hc, hidle, ho]

end SmbusPort

end Sys2Proof.Laws

/-! PROOF. O32: registers written, timed out and reached over SMBus. -/

namespace Sys2Proof.Proofs

open Sys2Proof Sys2Proof.Machine Sys2Proof.Laws

/-- An access without an answer (R560). -/
theorem regAccess_timedOut (p : Path) (r : Bool) (s : State) :
    if p = .bar2 ∨ (p = .smbus ∧ (if r = true then s.smb.status else s.smb.wstatus) ≠ 1)
    then exec (.regAccessTimeout p r) s = .next s
    else ∃ t, exec (.regAccessTimeout p r) s = .next t ∧ (logsOk s → Logged .regAccess 0 s t) ∧
      t.out = s.out ++ (if p = .bar0 ∧ r = true then [Out.regData .bar0 0xFFFFFFFF] else []) ∧
      (p = .smbus → if r = true then t.smb.status = 4 ∧ t.smb.data = leBytes 4 0 else t.smb.wstatus = 4) := by
  by_cases hidle : p = .bar2 ∨ (p = .smbus ∧ (if r = true then s.smb.status else s.smb.wstatus) ≠ 1)
  · rw [if_pos hidle]
    exact execRegAccessTimeout_idle hidle
  · rw [if_neg hidle]
    refine ⟨timedOut p r s, execRegAccessTimeout_waited hidle, fun hs => ?_, timedOut_out p r s, ?_⟩
    · exact (Put.of_flt (timedOut_flt p r s) (log_put .regAccess 0 hs 0 0 0 false)).1
    · rintro rfl
      rw [timedOut_smb]
      cases r
      · rfl
      · exact ⟨rfl, rfl⟩

/-- SET_ADDR reads a register into the port, or reports why not (R568, R569). -/
theorem smbus_addressSet (b : List Byte) (ok : Bool) (s : State) (hidle : s.smb.busy = false) : let o := leAt b 0 3
    ∃ t, exec (.setAddr b ok) s = .next t ∧
      if ok = false then t.smb.status = 3 ∧ t.smb.data = []
      else if b.length ≠ 3 ∨ o % 4 ≠ 0 ∨ 2 ^ 20 ≤ o then t.smb.status = 2 ∧ t.smb.data = []
      else if selvedgeSet o = true ∨ s.answers o = true then
        t.smb.status = 0 ∧ t.smb.data = leBytes 4 (s.readReg .smbus o).1
      else t.smb.status = 1 ∧ t.smb.data = [] := by
  intro o
  split_ifs with hpec hbad hreach
  · exact ⟨_, execSetAddr_refused hidle (smbCheck_pec hpec) (by decide), rfl, rfl⟩
  · exact ⟨_, execSetAddr_refused hidle (smbCheck_bad hpec hbad) (by decide), rfl, rfl⟩
  · exact ⟨_, execSetAddr_answered hidle (smbCheck_good hpec hbad) hreach, rfl, rfl⟩
  · exact ⟨_, execSetAddr_waiting hidle (smbCheck_good hpec hbad) hreach, rfl, rfl⟩

/-- WRITE writes a register, or reports why not (R568, R569). -/
theorem smbus_written (b : List Byte) (ok : Bool) (s : State) (hidle : s.smb.busy = false) : let o := leAt b 0 3
    ∃ t, exec (.smbusWrite b ok) s = .next t ∧
      if ok = false then t.smb.wstatus = 3 ∧ t.chans = s.chans
      else if b.length ≠ 7 ∨ o % 4 ≠ 0 ∨ 2 ^ 20 ≤ o then t.smb.wstatus = 2 ∧ t.chans = s.chans
      else if selvedgeSet o = true ∨ s.answers o = true then
        t.smb.wstatus = 0 ∧ RegWritten .smbus o (BitVec.ofNat 32 (leAt b 3 4)) s t
      else t.smb.wstatus = 1 ∧ t.chans = s.chans := by
  intro o
  split_ifs with hpec hbad hreach
  · exact ⟨_, execSmbusWrite_refused hidle (smbCheck_pec hpec) (by decide), rfl, rfl⟩
  · exact ⟨_, execSmbusWrite_refused hidle (smbCheck_bad hpec hbad) (by decide), rfl, rfl⟩
  · exact ⟨_, execSmbusWrite_answered hidle (smbCheck_good hpec hbad) hreach, rfl, writeReg_written .smbus o _ s⟩
  · exact ⟨_, execSmbusWrite_waiting hidle (smbCheck_good hpec hbad) hreach, rfl, rfl⟩

/-- A BUSY port takes no operation. -/
theorem smbus_busy (b : List Byte) (ok : Bool) (s : State) (hbusy : s.smb.busy = true) :
    exec (.setAddr b ok) s = .next s ∧ exec (.smbusWrite b ok) s = .next s := ⟨if_pos hbusy, if_pos hbusy⟩

/-- READ returns the length, the status and the data, with its PEC (R567, R568). -/
theorem smbus_read (k : Bool) (s : State) : ∃ t, exec (.smbusRead k) s = .next t ∧
    let d := if s.smb.data = [] then (List.range 4).map fun i => Config.freeByte (s.freeNo + i) else s.smb.data
    let l := (5 : Byte) :: BitVec.ofNat 8 s.smb.status :: d
    let a := 2 * (0x58 + s.tor.smbAddr)
    t.smb = s.smb ∧ t.out = s.out ++
      [Out.smbus (if k = true then l ++ [smbPec (BitVec.ofNat 8 a :: (0x11 : Byte) :: BitVec.ofNat 8 (a + 1) :: l)] else l)] := by
  refine ⟨_, rfl, ?_⟩
  by_cases hd : s.smb.data = []
  · simp only [if_pos hd]
    exact ⟨rfl, rfl⟩
  · simp only [if_neg hd]
    exact ⟨rfl, rfl⟩

/-- WSTATUS returns its status, with its PEC (R567, R568). -/
theorem smbus_statusRead (k : Bool) (s : State) : ∃ t, exec (.wstatus k) s = .next t ∧ let x : Byte := BitVec.ofNat 8 s.smb.wstatus
    let a := 2 * (0x58 + s.tor.smbAddr)
    t.smb = s.smb ∧ t.out = s.out ++
      [Out.smbus (if k = true then [x, smbPec [BitVec.ofNat 8 a, 0x13, BitVec.ofNat 8 (a + 1), x]] else [x])] :=
  ⟨_, rfl, rfl, rfl⟩

/-- Settles O32: writes of registers, accesses that time out, and the commands of the SMBus port. -/
theorem registerAccess : Obligations.RegisterAccess := by
  refine ⟨fun p o v s hp hen ho => ⟨_, execRegisterWrite_reached 4 v hp hen ho, writeReg_written p o v s⟩,
    fun p o n v s hp hen ho hn => ?_, fun p o n v s h => execRegisterWrite_unreached n v h, regAccess_timedOut,
    smbus_addressSet, smbus_read, smbus_written, smbus_statusRead, smbus_busy⟩
  refine ⟨s.log .regAccess 0, (execRegisterWrite_reached n v hp hen ho).trans (if_neg hn), ?_⟩
  rw [log_chans, log_dram, log_lanes, log_tor]
  exact ⟨rfl, rfl, rfl, rfl, regAccess_logged s⟩

end Sys2Proof.Proofs

/-! PROOF. A step keeps the canonical form of the stored array (R24, R256, R290), whether it runs a command or lets a ck pass. -/

namespace Sys2Proof.Laws

open Sys2Proof Sys2Proof.Machine

/-- Taking the front of the queue keeps what its command keeps. -/
theorem step_keeps_array {s t : State} (hs : memOk s) (ht : step s = .next t) : memOk t := by
  unfold step at ht
  split at ht
  · obtain rfl := Host.Outcome.next.inj ht
    obtain ⟨-, -, hmem, -⟩ := tick_keeps s (.refl s)
    exact hmem hs
  · next c rest _ =>
    obtain ⟨u, hu, -, -, hmem, -⟩ := exec_keeps c { s with pending := rest }
    obtain rfl := Host.Outcome.next.inj (hu.symm.trans ht)
    exact hmem hs

/-- A command whose write set does not hold the array leaves it as it is. -/
theorem exec_array {c : Instr} (s : State) (h : c.writes.dram = false) : ∃ t, exec c s = .next t ∧ t.dram = s.dram := by
  obtain ⟨t, ht, honly⟩ := exec_writes c s
  exact ⟨t, ht, honly.dram.resolve_left (by simp [h])⟩

/-- Codewords read alike from equal arrays. -/
theorem cell_of_dram {s t : State} (h : t.dram = s.dram) (c a : Nat) : t.cell c a = s.cell c a := by
  unfold State.cell
  rw [h]

end Sys2Proof.Laws

/-! PROOF. Direct Access: the address check of R27 and R250. -/

namespace Sys2Proof.Laws

open Sys2Proof Sys2Proof.Machine

/-- A device byte address out of range or not granule-aligned fails the check of its range (R27). -/
theorem rangeBad_of_address {a : Nat} (members l : Nat) (h : a / 2 ^ 36 ≠ 0 ∨ a % 32 ≠ 0) : rangeBad members a l = true := by
  simp only [rangeBad, Bool.or_eq_true, bne_iff_ne]
  exact .inl (.inl (.inl h))

/-- A descriptor with such an address is refused: by its fields, or by its range. -/
theorem daCheck_of_address {s : State} {d : Desc} (h : d.daAddr / 2 ^ 36 ≠ 0 ∨ d.daAddr % 32 ≠ 0) :
    ∃ st, s.daCheck d = some st ∧ st ≠ 0 := by
  unfold State.daCheck
  by_cases hfield : daFieldBad d = true
  · exact ⟨0x0012, if_pos hfield, by decide⟩
  · exact ⟨0x0013, by rw [if_neg hfield, if_pos (rangeBad_of_address _ _ h)], by decide⟩

/-- A refused READ or FILL completes with the status of its refusal. -/
theorem startDa_refused {n op : Nat} {s : State} {d : Desc} {st : Nat} (hd : s.startable n op = some d) (hst : s.daCheck d = some st) :
    s.startDa n op = s.finish n d.seq st := by
  unfold State.startDa
  rw [hd]
  dsimp only
  rw [hst]

/-- A refused WRITE asks for no data and completes with the status of its refusal. -/
theorem execWrite_refused {n : Nat} {s : State} {d : Desc} {st : Nat} (fs : List Fetch) (hd : s.startable n 0x11 = some d)
    (hst : s.daCheck d = some st) : exec (.write n fs) s = .next (s.finish n d.seq st) := by
  show execWrite n fs s = _
  unfold execWrite
  rw [hd]
  dsimp only
  rw [hst]

/-- A descriptor next to start gets the outcome it is given. -/
theorem finish_startable {n op : Nat} {s : State} {d : Desc} (hd : s.startable n op = some d) (st : Nat) :
    Answered n d.seq st (s.finish n d.seq st) := by
  obtain ⟨hmem, hphase, -⟩ := startable_spec hd
  exact finish_answered hmem (by simp [hphase]) st 0 0

end Sys2Proof.Laws

namespace Sys2Proof.Proofs

open Sys2Proof Sys2Proof.Machine Sys2Proof.Laws

/-- Settles O47: every command and every ck keeps the canonical form. -/
theorem memoryCanonical : Obligations.MemoryCanonical := fun _ _ => step_keeps_array

/-- Settles O53: the field check or the range check refuses such an address before anything starts. -/
theorem directAddressesAreChecked : Obligations.DirectAddressesAreChecked := by
  intro n fs s d haddr
  obtain ⟨st, hst, hne⟩ := daCheck_of_address (s := s) haddr
  have refused {op : Nat} (hd : s.startable n op = some d) {c : Instr} (hc : exec c s = .next (s.finish n d.seq st)) :
      ∃ t st, exec c s = .next t ∧ st ≠ 0 ∧ Answered n d.seq st t ∧ t.dram = s.dram :=
    ⟨_, st, hc, hne, finish_startable hd st, finish_dram ..⟩
  exact ⟨fun hd => refused hd (congrArg _ (startDa_refused hd hst)), fun hd => refused hd (execWrite_refused fs hd hst),
    fun hd => refused hd (congrArg _ (startDa_refused hd hst))⟩

end Sys2Proof.Proofs

/-! PROOF. Writes to a channel's settings (R29, R31, R258, R261, R292, R316, R490, R522, R562). -/

namespace Sys2Proof.Laws

open Sys2Proof Sys2Proof.Machine

/-! ## Which writes reach a channel's block (R562) -/

/-- A write of a setting has its effect. -/
theorem chanWrite_live {p : Path} {ch : Nat} {s : State} (f : State → State) (hp : p ≠ .bar2) (hch : ch < s.members)
    (hfunc : (s.chan ch).func ≠ .retired) (hmode : s.pwr.mode ≠ .retention) : s.chanWrite p ch f = f s := by
  simp [State.chanWrite, hp, hch, hfunc, hmode]

theorem chanWrite_ignored {p : Path} {ch : Nat} {s : State} (f : State → State) (hp : p ≠ .bar2) (hch : ch < s.members)
    (h : (s.chan ch).func = .retired ∨ s.pwr.mode = .retention) : s.chanWrite p ch f = s.writeIgnored := by
  simp [State.chanWrite, hp, hch, h]

theorem chanWrite_unreached {p : Path} {ch : Nat} {s : State} (f : State → State) (h : p = .bar2 ∨ s.members ≤ ch) :
    s.chanWrite p ch f = s := by
  simp [State.chanWrite, h]

/-- The commands of R562 that write a setting of channel `ch`, all but CH_SUBST. -/
def settingWrites (p : Path) (ch k : Nat) (v : Word) : List Instr :=
  [.chPrivWrite p ch v, .chDaRegWrite p ch k v, .calForce p ch v, .bistForce p ch, .remapClear p ch v]

/-- Each of them is a write to the channel's block. -/
theorem exec_settingWrite {p : Path} {ch k : Nat} {v : Word} {c : Instr} (s : State) (hk : k < 4)
    (hc : c ∈ settingWrites p ch k v) : ∃ f, exec c s = .next (s.chanWrite p ch f) := by
  simp only [settingWrites, List.mem_cons, List.not_mem_nil, or_false] at hc
  rcases hc with rfl | rfl | rfl | rfl | rfl
  case inr.inl => exact ⟨_, if_neg (Nat.not_le.2 hk)⟩
  all_goals exact ⟨_, rfl⟩

/-- An ignored write leaves every channel and the array, and is logged. -/
theorem writeIgnored_only_logs (s : State) :
    s.writeIgnored.chans = s.chans ∧ s.writeIgnored.dram = s.dram ∧ (logsOk s → Logged .regWriteIgnored 0 s s.writeIgnored) :=
  ⟨writeIgnored_chans s, writeIgnored_dram s, writeIgnored_logged s⟩

/-! ## Zero data in bulk (R258) -/

theorem find?_append {α : Type} (l m : List (Nat × α)) (k : Nat) :
    Sparse.find? (l ++ m) k = (Sparse.find? l k).or (Sparse.find? m k) := by
  induction l with
  | nil => rfl
  | cons e l ih =>
    obtain ⟨j, v⟩ := e
    by_cases hk : k = j <;> simp [Sparse.find?, hk, ih]

theorem find?_eq_none {α : Type} {l : List (Nat × α)} {k : Nat} (h : ∀ e ∈ l, e.1 ≠ k) : Sparse.find? l k = none := by
  induction l with
  | nil => rfl
  | cons e l ih =>
    obtain ⟨j, v⟩ := e
    have hj : k ≠ j := (h _ List.mem_cons_self).symm
    simpa [Sparse.find?, hj] using ih fun e he => h e (List.mem_cons_of_mem _ he)

/-- What a table lists at a key is one of its entries. -/
theorem mem_of_find? {α : Type} {l : List (Nat × α)} {k : Nat} {v : α} (h : Sparse.find? l k = some v) : (k, v) ∈ l := by
  induction l with
  | nil => cases h
  | cons e l ih =>
    obtain ⟨j, w⟩ := e
    by_cases hk : k = j
    · obtain rfl : w = v := by simpa [Sparse.find?, hk] using h
      exact hk ▸ List.mem_cons_self
    · exact List.mem_cons_of_mem _ (ih (by simpa [Sparse.find?, hk] using h))

theorem find?_ne_none_of_mem {α : Type} {l : List (Nat × α)} {k : Nat} {v : α} (h : (k, v) ∈ l) : Sparse.find? l k ≠ none := by
  induction l with
  | nil => cases h
  | cons e l ih =>
    obtain ⟨j, w⟩ := e
    by_cases hk : k = j
    · simp [Sparse.find?, hk]
    · simpa [Sparse.find?, hk] using ih ((List.mem_cons.1 h).resolve_left fun he => hk (congrArg Prod.fst he))

/-- An unlisted codeword of a bank that holds zeros reads as zero. -/
theorem read_eq_zero_of_unlisted {m : Memory} {e : Nat} (hcell : Sparse.find? m.cells e = none) (hzero : m.holdsZero e = true) :
    m.read e = 0 := by
  obtain ⟨hbank, hclean⟩ := (Bool.and_eq_true _ _).mp hzero
  unfold Memory.read Memory.zeroWord
  rw [hcell, Option.isNone_iff_eq_none.1 hclean]
  exact if_pos hbank

/-- What a fill with zeros lists inside its range. -/
theorem find?_fill_zero {m : Memory} {d n e : Nat} (hd : d ≤ e) (hn : e < d + n) :
    Sparse.find? (m.fill d n fun _ => 0).cells e = Sparse.find? (((List.range n).filter
      fun i => !(m.holdsZero (d + i) && (0 : Codeword) == 0)).map fun i => (d + i, (0 : Codeword))) e := by
  have hbelow : Sparse.find? (m.cells.filter fun x => decide (x.1 < d)) e = none :=
    find?_eq_none fun x hx => by
      have := of_decide_eq_true (List.mem_filter.1 hx).2
      omega
  have habove : Sparse.find? (m.cells.filter fun x => decide (d + n ≤ x.1)) e = none :=
    find?_eq_none fun x hx => by
      have := of_decide_eq_true (List.mem_filter.1 hx).2
      omega
  unfold Memory.fill
  dsimp only
  rw [find?_append, find?_append, hbelow, habove, Option.none_or, Option.or_none]

/-- A range filled with zeros reads as zeros: what is not listed there lies in a bank that holds zeros. -/
theorem read_fill_zero {m : Memory} {d n e : Nat} (hd : d ≤ e) (hn : e < d + n) : (m.fill d n fun _ => 0).read e = 0 := by
  have hfind := find?_fill_zero (m := m) hd hn
  cases hcell : Sparse.find? (m.fill d n fun _ => 0).cells e with
  | some c =>
    obtain ⟨i, -, hi⟩ := List.mem_map.1 (mem_of_find? (hfind.symm.trans hcell))
    unfold Memory.read
    rw [hcell]
    exact (congrArg Prod.snd hi).symm
  | none =>
    refine read_eq_zero_of_unlisted hcell ?_
    by_contra hzero
    have hzero : m.holdsZero (d + (e - d)) = false := by
      rw [Nat.add_sub_cancel' hd]
      exact Bool.eq_false_iff.2 hzero
    have hkept : e - d ∈ (List.range n).filter fun i => !(m.holdsZero (d + i) && (0 : Codeword) == 0) :=
      List.mem_filter.2 ⟨List.mem_range.2 (by omega), by rw [hzero]; rfl⟩
    have hlisted := List.mem_map_of_mem (f := fun i => (d + i, (0 : Codeword))) hkept
    rw [Nat.add_sub_cancel' hd] at hlisted
    exact find?_ne_none_of_mem hlisted (hfind.symm.trans hcell)

/-- Over sound links the rows that a write of zeros covers hold zeros. -/
theorem cell_zeroCells {ch lo n a : Nat} {s : State} (hbad : (s.chan ch).eyes.badMask = 0) (hlo : lo ≤ a) (hn : a < lo + n) :
    (s.zeroCells ch lo n).cell ch a = 0 := by
  unfold State.zeroCells State.cell
  simp only [hbad, if_true, modChan_dram]
  exact read_fill_zero (Nat.add_le_add_left hlo _) (by unfold devAddr; omega)

/-! ## The settings -/

/-- CH_PRIV takes another size while the bobbin rests and its section fetches nothing. -/
theorem writePriv_taken {ch v : Nat} {s : State} (hne : v % 8 ≠ (s.chan ch).priv)
    (hok : ¬(4 < v % 8 ∨ (s.chan ch).resting = false ∨ (s.chan ch).fetches = true)) :
    s.writePriv ch v = (if privBase (v % 8) < privBase (s.chan ch).priv then
      s.zeroCells ch (privBase (v % 8)) (privBase (s.chan ch).priv - privBase (v % 8)) else s).modChan ch
        fun c => { c with priv := v % 8 } := by
  simp only [not_or, Bool.not_eq_true, Bool.not_eq_false, Nat.not_lt] at hok
  obtain ⟨hsize, hrest, hfetch⟩ := hok
  simp [State.writePriv, hne, hsize, hrest, hfetch]

theorem writePriv_refused {ch v : Nat} {s : State} (hne : v % 8 ≠ (s.chan ch).priv)
    (hbad : 4 < v % 8 ∨ (s.chan ch).resting = false ∨ (s.chan ch).fetches = true) : s.writePriv ch v = s.writeIgnored := by
  simp [State.writePriv, hne, or_assoc, hbad]

/-- The rows that a larger region gains hold zeros (R258). -/
theorem writePriv_zeroes {ch v a : Nat} {s : State} (hne : v % 8 ≠ (s.chan ch).priv)
    (hok : ¬(4 < v % 8 ∨ (s.chan ch).resting = false ∨ (s.chan ch).fetches = true)) (hbad : (s.chan ch).eyes.badMask = 0)
    (hlo : privBase (v % 8) ≤ a) (hhi : a < privBase (s.chan ch).priv) : (s.writePriv ch v).cell ch a = 0 := by
  rw [writePriv_taken hne hok, if_pos (Nat.lt_of_le_of_lt hlo hhi), cell_of_dram (modChan_dram ..)]
  exact cell_zeroCells hbad hlo (by omega)

/-- CH_SUBST is written under the conditions of R490. -/
theorem writeSubst_taken {ch v : Nat} {s : State}
    (h : ((s.chan ch).func = .retired ∨ (s.chan ch).state = .stopped) ∧ bits v 22 16 ≠ ch ∧ bits v 22 16 < s.members ∧
      (s.chan (bits v 22 16)).resting = true ∧ s.assigned (bits v 22 16) = false ∧
      (bit v 31 = true ∨ (s.chan ch).substEn = false ∨ (s.chan (s.chan ch).substTo).resting = true)) :
    s.writeSubst ch v = s.modChan ch fun c => { c with substEn := bit v 31, substTo := bits v 22 16 } := by
  obtain ⟨hstate, hother, hmember, hrest, hfree, hdrop⟩ := h
  simp [State.writeSubst, hstate, hother, hmember, hrest, hfree, or_assoc, hdrop]

theorem writeSubst_refused {ch v : Nat} {s : State}
    (h : ¬(((s.chan ch).func = .retired ∨ (s.chan ch).state = .stopped) ∧ bits v 22 16 ≠ ch ∧ bits v 22 16 < s.members ∧
      (s.chan (bits v 22 16)).resting = true ∧ s.assigned (bits v 22 16) = false ∧
      (bit v 31 = true ∨ (s.chan ch).substEn = false ∨ (s.chan (s.chan ch).substTo).resting = true))) :
    s.writeSubst ch v = s.writeIgnored := by
  unfold State.writeSubst
  refine if_neg fun hok => h ?_
  simpa only [Bool.and_eq_true, Bool.or_eq_true, Bool.not_eq_true', beq_iff_eq, bne_iff_ne, decide_eq_true_eq, and_assoc,
    or_assoc] using hok

theorem class_modClass_same (d : Direct) (k : Nat) (f : DaClass → DaClass) : (d.modClass k f).class k = f (d.class k) :=
  get_modify_same ({} : DaClass) d.cls k f

/-- A class's registers hold what CH_DA_REG was given, and its bucket is full (R261). -/
theorem writeDaReg_class {ch k v : Nat} {s : State} (h : bits v 15 4 ≠ 0) : ((s.writeDaReg ch k v).chan ch).da.class k =
    { (s.chan ch).da.class k with rate := bits v 31 16, burst := bits v 15 4, outM1 := v % 16, tokens := bits v 15 4 * 2 ^ 16,
                                  lastGain := s.now } := by
  unfold State.writeDaReg
  rw [if_neg h, chan_modChan_same]
  exact class_modClass_same (s.chan ch).da k _

/-- A trigger leaves a run going or a run asked for (R315). -/
theorem startCal_asks (ch limit : Nat) (s : State) : ((s.startCal ch limit).chan ch).eyes.calRun = true ∨
    ((s.startCal ch limit).chan ch).eyes.calTrig.isSome := by
  unfold State.startCal State.modEyes
  rw [chan_modChan_same]
  dsimp only
  split
  · next hrun => exact .inl hrun
  · exact .inr rfl

theorem startCal_retrig (ch limit : Nat) (s : State) :
    ((s.startCal ch limit).chan ch).eyes.retrig = (s.chan ch).eyes.retrig := by
  unfold State.startCal State.modEyes
  rw [chan_modChan_same]
  dsimp only
  split <;> rfl

end Sys2Proof.Laws

/-! PROOF. O31: writes to a channel's settings. -/

namespace Sys2Proof.Proofs

open Sys2Proof Sys2Proof.Machine Sys2Proof.Laws

/-- CH_PRIV moves the region and zeroes the rows it gains (R29, R258). -/
theorem chPriv_written (p : Path) (ch : Nat) (v : Word) (s : State) (hp : p ≠ .bar2) (hch : ch < s.members)
    (hfunc : (s.chan ch).func ≠ .retired) (hmode : s.pwr.mode ≠ .retention) :
    ∃ t, exec (.chPrivWrite p ch v) s = .next t ∧ let k := v.toNat % 8
      if k = (s.chan ch).priv then t = s
      else if 4 < k ∨ (s.chan ch).resting = false ∨ (s.chan ch).fetches = true then
        t.chans = s.chans ∧ t.dram = s.dram ∧ (logsOk s → Logged .regWriteIgnored 0 s t)
      else (t.chan ch).priv = k ∧ ((s.chan ch).eyes.badMask = 0 →
        ∀ a, privBase k ≤ a → a < privBase (s.chan ch).priv → t.cell ch a = 0) := by
  refine ⟨s.writePriv ch v.toNat, congrArg Host.Outcome.next (chanWrite_live _ hp hch hfunc hmode), ?_⟩
  intro k
  split_ifs with hsame hbad
  · exact if_pos hsame
  · rw [writePriv_refused hsame hbad]
    exact writeIgnored_only_logs s
  · refine ⟨?_, fun hsound a hlo hhi => writePriv_zeroes hsame hbad hsound hlo hhi⟩
    rw [writePriv_taken hsame hbad, chan_modChan_same]

/-- CH_SUBST binds a substitute to a RETIRED or STOPPED channel (R490). -/
theorem chSubst_written (p : Path) (ch : Nat) (v : Word) (s : State) (hp : p ≠ .bar2) (hch : ch < s.members) :
    ∃ t, exec (.chSubstWrite p ch v) s = .next t ∧ let c := s.chan ch
    let y := bits v.toNat 22 16
    if (c.func = .retired ∨ c.state = .stopped) ∧ y ≠ ch ∧ y < s.members ∧ (s.chan y).resting = true ∧ s.assigned y = false ∧
      (bit v.toNat 31 = true ∨ c.substEn = false ∨ (s.chan c.substTo).resting = true)
    then (t.chan ch).substEn = bit v.toNat 31 ∧ (t.chan ch).substTo = y
    else t.chans = s.chans ∧ (logsOk s → Logged .regWriteIgnored 0 s t) := by
  refine ⟨s.writeSubst ch v.toNat, if_neg (by simp [hp, hch]), ?_⟩
  intro c y
  split_ifs with hok
  · rw [writeSubst_taken hok, chan_modChan_same]
    exact ⟨rfl, rfl⟩
  · rw [writeSubst_refused hok]
    exact ⟨writeIgnored_chans s, writeIgnored_logged s⟩

/-- CH_DA_REG sets a class and fills its bucket (R261). -/
theorem chDaReg_written (p : Path) (ch k : Nat) (v : Word) (s : State) (hp : p ≠ .bar2) (hch : ch < s.members)
    (hfunc : (s.chan ch).func ≠ .retired) (hmode : s.pwr.mode ≠ .retention) (hk : k < 4) :
    ∃ t, exec (.chDaRegWrite p ch k v) s = .next t ∧ let x := (t.chan ch).da.class k
      if bits v.toNat 15 4 = 0 then t.chans = s.chans ∧ (logsOk s → Logged .regWriteIgnored 0 s t)
      else x.rate = bits v.toNat 31 16 ∧ x.burst = bits v.toNat 15 4 ∧ x.outM1 = v.toNat % 16 ∧ x.tokens = x.burst * 2 ^ 16 := by
  refine ⟨s.writeDaReg ch k v.toNat,
    (if_neg (Nat.not_le.2 hk)).trans (congrArg Host.Outcome.next (chanWrite_live _ hp hch hfunc hmode)), ?_⟩
  intro x
  split_ifs with hzero
  · have hrefused : s.writeDaReg ch k v.toNat = s.writeIgnored := if_pos hzero
    rw [hrefused]
    exact ⟨writeIgnored_chans s, writeIgnored_logged s⟩
  · have hx : x = _ := writeDaReg_class hzero
    rw [hx]
    exact ⟨rfl, rfl, rfl, rfl⟩

/-- CH_CAL_CFG sets RETRIG and asks for a run (R316). -/
theorem chCal_written (p : Path) (ch : Nat) (v : Word) (s : State) (hp : p ≠ .bar2) (hch : ch < s.members)
    (hfunc : (s.chan ch).func ≠ .retired) (hmode : s.pwr.mode ≠ .retention) :
    ∃ t, exec (.calForce p ch v) s = .next t ∧
      if v.toNat % 32 = 0 ∨ 20 < v.toNat % 32 then t.chans = s.chans ∧ (logsOk s → Logged .regWriteIgnored 0 s t)
      else (t.chan ch).eyes.retrig = v.toNat % 32 ∧
        (bit v.toNat 31 = true → (t.chan ch).eyes.calRun = true ∨ (t.chan ch).eyes.calTrig.isSome) := by
  refine ⟨_, congrArg Host.Outcome.next (chanWrite_live _ hp hch hfunc hmode), ?_⟩
  have hset : ((s.modEyes ch fun e => { e with retrig := v.toNat % 32 }).chan ch).eyes.retrig = v.toNat % 32 := by
    unfold State.modEyes
    rw [chan_modChan_same]
  by_cases hbad : v.toNat % 32 = 0 ∨ 20 < v.toNat % 32
  · rw [if_pos hbad, if_pos (by simpa using hbad)]
    exact ⟨writeIgnored_chans s, writeIgnored_logged s⟩
  · rw [if_neg hbad, if_neg (by simpa using hbad)]
    dsimp only
    split
    · exact ⟨(startCal_retrig ..).trans hset, fun _ => startCal_asks ..⟩
    · next hforce => exact ⟨hset, fun h => absurd h hforce⟩

/-- CH_BIST makes a slice pending (R522). -/
theorem chBist_written (p : Path) (ch : Nat) (s : State) (hp : p ≠ .bar2) (hch : ch < s.members)
    (hfunc : (s.chan ch).func ≠ .retired) (hmode : s.pwr.mode ≠ .retention) :
    ∃ t, exec (.bistForce p ch) s = .next t ∧ (t.chan ch).maint.bist = true := by
  refine ⟨_, congrArg Host.Outcome.next (chanWrite_live _ hp hch hfunc hmode), ?_⟩
  rw [chan_modChan_same]

/-- CH_REMAP_CFG sets AUTO and drops every entry (R292). -/
theorem chRemap_written (p : Path) (ch : Nat) (v : Word) (s : State) (hp : p ≠ .bar2) (hch : ch < s.members)
    (hfunc : (s.chan ch).func ≠ .retired) (hmode : s.pwr.mode ≠ .retention) :
    ∃ t, exec (.remapClear p ch v) s = .next t ∧ (t.chan ch).ecc.auto = bit v.toNat 31 ∧
      (t.chan ch).ecc.remap = if bit v.toNat 30 then [] else (s.chan ch).ecc.remap := by
  refine ⟨_, congrArg Host.Outcome.next (chanWrite_live _ hp hch hfunc hmode), ?_⟩
  rw [chan_modChan_same]
  exact ⟨rfl, rfl⟩

/-- On a RETIRED channel and in RETENTION each such write is ignored and logged (R562). -/
theorem setting_ignored (p : Path) (ch k : Nat) (v : Word) (s : State) (c : Instr) (hp : p ≠ .bar2) (hch : ch < s.members)
    (h : (s.chan ch).func = .retired ∨ s.pwr.mode = .retention) (hk : k < 4) (hc : c ∈ settingWrites p ch k v) :
    ∃ t, exec c s = .next t ∧ t.chans = s.chans ∧ t.dram = s.dram ∧ (logsOk s → Logged .regWriteIgnored 0 s t) := by
  obtain ⟨f, hf⟩ := exec_settingWrite s hk hc
  exact ⟨_, hf.trans (congrArg Host.Outcome.next (chanWrite_ignored f hp hch h)), writeIgnored_only_logs s⟩

/-- A write that reaches no channel does nothing. -/
theorem setting_unreached (p : Path) (ch k : Nat) (v : Word) (s : State) (c : Instr) (h : p = .bar2 ∨ s.members ≤ ch)
    (hc : c ∈ [Instr.chPrivWrite p ch v, .chSubstWrite p ch v, .chDaRegWrite p ch k v, .calForce p ch v, .bistForce p ch,
      .remapClear p ch v]) : exec c s = .next s := by
  simp only [List.mem_cons, List.not_mem_nil, or_false] at hc
  rcases hc with rfl | rfl | rfl | rfl | rfl | rfl
  case inr.inl => exact if_pos (by simpa using h)
  case inr.inr.inl =>
    show execChDaRegWrite p ch k v s = _
    unfold execChDaRegWrite
    split
    · rfl
    · exact congrArg Host.Outcome.next (chanWrite_unreached _ h)
  all_goals exact congrArg Host.Outcome.next (chanWrite_unreached _ h)

/-- Settles O31: each setting, the writes that are ignored, and those that reach no channel. -/
theorem channelSettings : Obligations.ChannelSettings :=
  ⟨chPriv_written, chSubst_written, chDaReg_written, chCal_written, chBist_written, chRemap_written, setting_ignored,
    setting_unreached⟩

end Sys2Proof.Proofs

/-! PROOF. O51: an RMW whose merged data fail SECDED writes four codewords of poison (R303), also where its merge entry holds fewer. -/

namespace Sys2Proof.Laws

open Sys2Proof Sys2Proof.Machine

/-- An RMW slot with the action CAP_WRITE (R116). -/
def writeHalfWord : Word := BitVec.ofNat 32 (opRMW * 2 ^ 28 + dpCAPW * 2 ^ 14)

/-- The entry of the next write half; it holds merged data, of no codeword. -/
def emptyMerge : Merge := { id := 0, addr := 0, issue := 0, merged := some [] }

/-- A channel whose next slot is that write half. -/
def emptyMergeChan : Chan :=
  { func := .capture, state := .running
    seq := { sect := some { func := .capture, motifs := [{}], steps := [{}], tiers := [{}] }, card := [(0, writeHalfWord)] }
    cap := { merges := [emptyMerge] } }

/-- A device with that channel, whose codewords hold zero data. -/
def emptyMergeState : State := { chans := [(0, emptyMergeChan)], dram := { zeroed := [(0, BitVec.allOnes 32)] } }

theorem emptyMerge_next : (emptyMergeState.chan 0).cap.nextWrite = some emptyMerge := by decide +kernel

/-- The poison takes the place of the empty list and is written. -/
theorem emptyMerge_writes_poison :
    (Res.after emptyMergeState (exec (.rmw 0 .double) emptyMergeState)).cell 0 0 = canonicalPoison := by decide +kernel

theorem emptyMerge_cell : emptyMergeState.cell 0 0 = 0 := by decide +kernel

end Sys2Proof.Laws

namespace Sys2Proof.Proofs

open Sys2Proof Sys2Proof.Machine Sys2Proof.Laws

/-- Refutes O51: where the merge entry of a write half holds an empty list, the statement allows no codeword to change, but a double
error in the merge queue writes poison at the entry's granule. The statement ranges over every
state; State.mergeData itself forms lists of four. -/
theorem not_storesStayInPlace : ¬ Obligations.StoresStayInPlace := by
  rintro ⟨-, -, hrmw, -⟩
  obtain ⟨t, ht, hframe⟩ := hrmw 0 writeHalfWord .double emptyMergeState (by decide +kernel) (by decide +kernel) (by decide +kernel)
  have hsame : t.cell 0 0 = 0 := (hframe 0 0 fun m cs hm hcs j hj => by
    obtain rfl : emptyMerge = m := Option.some.inj (emptyMerge_next.symm.trans hm)
    obtain rfl : [] = cs := Option.some.inj hcs
    exact absurd hj (Nat.not_lt_zero j)).trans emptyMerge_cell
  have hpoison : t.cell 0 0 = canonicalPoison := by
    have h := emptyMerge_writes_poison
    rw [ht] at h
    exact h
  exact absurd (hpoison.symm.trans hsame) (by decide +kernel)

end Sys2Proof.Proofs

/-! PROOF. The power block through the operations of a mode change (R433 to R452). -/

namespace Sys2Proof.Laws

open Sys2Proof Sys2Proof.Machine

/-! ## What leaves the power block alone -/

theorem answerPower_pwr (c : Option (Nat × Nat)) (st : Nat) (s : State) : (s.answerPower c st).pwr = s.pwr := by
  cases c with
  | none => rfl
  | some d => exact finish_pwr ..

theorem lanesDetect_pwr (s : State) : s.lanesDetect.pwr = s.pwr :=
  (lanesDetect_writes (μ := { lanes := true }) s (Only.refl _ s) rfl).pwr.resolve_left Bool.false_ne_true

theorem clocksOn_pwr (s : State) : s.clocksOn.pwr = s.pwr :=
  (clocksOn_writes (μ := { chans := true }) s (Only.refl _ s) rfl).pwr.resolve_left Bool.false_ne_true

theorem emptySections_pwr (s : State) : s.emptySections.pwr = s.pwr :=
  (emptySections_writes (μ := { chans := true, lanes := true }) s (Only.refl _ s) rfl rfl).pwr.resolve_left Bool.false_ne_true

theorem leaveSrAll_pwr (n : Nat) (r : Bool) (l : Option (List BankCheck)) (s : State) : (s.leaveSrAll n r l).pwr = s.pwr :=
  (leaveSrAll_writes (μ := { chans := true }) n r l s (Only.refl _ s) rfl).pwr.resolve_left Bool.false_ne_true

theorem abandonCrc_pwr (f : Crc → Bool) (s : State) : (s.abandonCrc f).pwr = s.pwr :=
  (abandonCrc_writes (μ := { flt := true, cnt := true }) f s (Only.refl _ s) rfl rfl).pwr.resolve_left Bool.false_ne_true

/-- While no voltage change runs there is none to settle. -/
theorem settleAvs_idle {s : State} (h : s.pwr.avs = none) : s.settleAvs = s := by
  unfold State.settleAvs
  rw [h]

/-! ## The beginning of a change -/

/-- A raise of VDD leaves the running change and the wake timer. -/
theorem raiseVdd_change (s : State) :
    s.raiseVdd.pwr.change = s.pwr.change ∧ s.raiseVdd.pwr.wakeTimer = s.pwr.wakeTimer := by
  unfold State.raiseVdd
  split <;> exact ⟨rfl, rfl⟩

/-- A wake from RETENTION begins with its hardware steps (R447). -/
theorem beginPower_wake {c : PwrChange} {s : State} (hmode : s.pwr.mode = .retention) (hc : c.target = .service) :
    (s.beginPower c).pwr.change = some { c with phase := 1 } ∧ (s.beginPower c).pwr.wakeTimer = s.pwr.wakeTimer := by
  have hraise := raiseVdd_change (s.modPwr fun p => { p with change := some { c with phase := 1 } })
  have hbegin : s.beginPower c =
      let u := (s.modPwr fun p => { p with change := some { c with phase := 1 } }).raiseVdd
      if u.pwr.avs.isNone then u.clocksOn else u := by
    simp [State.beginPower, hmode, hc, changeAllowed]
  rw [hbegin]
  dsimp only
  split
  · rw [clocksOn_pwr]
    exact hraise
  · exact hraise

/-- A SAFE exit that is not refused begins with its hardware steps (R452). -/
theorem beginPower_safeExit {c : PwrChange} {s : State} (hmode : s.pwr.mode = .safe) (hc : c.target = .service)
    (hcause : s.causeActive = false) : (s.beginPower c).pwr.change = some { c with phase := 1 } := by
  have hbegin : s.beginPower c = (s.modPwr fun p => { p with change := some { c with phase := 1 } }).raiseVdd := by
    simp [State.beginPower, hmode, hc, hcause]
  rw [hbegin]
  exact (raiseVdd_change _).1

/-- A request begins at once when no other runs or waits (R436). -/
theorem askPower_first {c : PwrChange} {s : State} (hchange : s.pwr.change = none) (hpend : s.pwr.pendingReq = none) :
    s.askPower c = s.beginPower c := by
  simp [State.askPower, hchange, hpend]

/-- A wake asked for in RETENTION leaves the wake timer. -/
theorem askPower_wakeTimer {c : PwrChange} {s : State} (hmode : s.pwr.mode = .retention) (hc : c.target = .service) :
    (s.askPower c).pwr.wakeTimer = s.pwr.wakeTimer := by
  unfold State.askPower
  split
  · exact (beginPower_wake hmode hc).2
  · dsimp only
    split
    · rw [finish_pwr]
      rfl
    · rfl

/-! ## Wake events (R450) -/

theorem wakeEvent_wakeTimer (n : Nat) {s : State} (hmode : s.pwr.mode = .retention) :
    (s.wakeEvent n).pwr.wakeTimer = s.pwr.wakeTimer := by
  unfold State.wakeEvent
  rw [if_neg (by simp [hmode])]
  split
  · split
    · rfl
    · exact askPower_wakeTimer hmode rfl
  · exact askPower_wakeTimer hmode rfl

/-- A wake event becomes the running change when none runs or waits. -/
theorem wakeEvent_first (n : Nat) {s : State} (hmode : s.pwr.mode = .retention) (hchange : s.pwr.change = none)
    (hpend : s.pwr.pendingReq = none) : (s.wakeEvent n).pwr.change = some { target := .service, source := n, phase := 1 } := by
  have hask : s.wakeEvent n = s.askPower { target := .service, source := n } := by
    simp [State.wakeEvent, hmode, hchange]
  rw [hask, askPower_first hchange hpend]
  exact (beginPower_wake hmode rfl).1

/-! ## The hoop's wait instruction (R438) -/

theorem hoopWait_service {s : State} {c : PwrChange} (hc : s.pwr.change = some c) (hphase : c.phase = 0)
    (hrun : s.hoop.running = true) (ht : c.target = .service) : execHoopWait false s =
      .next ((s.modPwr fun p => { p with mode := .service, change := none }).answerPower c.ctx 0) := by
  simp [execHoopWait, hc, hphase, hrun, ht]

theorem hoopWait_maintenance {s : State} {c : PwrChange} (hc : s.pwr.change = some c) (hphase : c.phase = 0)
    (hrun : s.hoop.running = true) (ht : c.target = .maintenance) (hq : s.quiet = true) : execHoopWait false s =
      .next ((s.emptySections.modPwr fun p => { p with mode := .maintenance, change := none }).answerPower c.ctx 0) := by
  simp [execHoopWait, hc, hphase, hrun, ht, hq]

theorem hoopWait_retention {s : State} {c : PwrChange} (hc : s.pwr.change = some c) (hphase : c.phase = 0)
    (hrun : s.hoop.running = true) (ht : c.target = .retention) (hq : s.quiet = true) (hdone : s.nonAdminDone = true) :
    execHoopWait false s = .next (s.startRetention c) := by
  simp [execHoopWait, hc, hphase, hrun, ht, hq, hdone]

theorem hoopWait_idle {s : State} {x : Bool} (h : s.pwr.change = none ∨ x = true ∨ s.hoop.running = false) :
    execHoopWait x s = .next s := by
  unfold execHoopWait
  split
  · rfl
  · next c hc =>
    refine if_pos ?_
    simpa [hc, or_assoc] using Or.inr (h.resolve_left (by simp [hc]))

/-- The hardware steps of entry to RETENTION end with the order to lower VDD to 650 mV (R444). -/
theorem startRetention_eq (c : PwrChange) (s : State) : ∃ u : State, s.startRetention c =
    ((u.modPwr fun p => { p with change := some { c with phase := 1 } }).abandonCrc fun _ => true).startAvs 650 2 := ⟨_, rfl⟩

theorem startRetention_pwr (c : PwrChange) (s : State) : (s.startRetention c).pwr.change = some { c with phase := 1 } ∧
    (s.startRetention c).pwr.avs.map (·.target) = some 650 := by
  obtain ⟨u, hu⟩ := startRetention_eq c s
  rw [hu]
  refine ⟨?_, rfl⟩
  have hcrc := abandonCrc_pwr (fun _ => true) (u.modPwr fun p => { p with change := some { c with phase := 1 } })
  exact congrArg Power.change hcrc

/-! ## Wake and SAFE exit (R447, R452) -/

/-- A wake that may go on enters SERVICE, after which only the request's answer leaves the block. -/
theorem execWake_ready {k : List BankCheck} {w : List (Nat × MaintIn)} {b : List (Nat × Nat)} {s : State} {c : PwrChange}
    (havs : s.pwr.avs = none) (hc : s.pwr.change = some c) (hmode : s.pwr.mode = .retention) (ht : c.target = .service)
    (hpoint : s.pwr.point ≠ 2) (hgap : ∀ ch ∈ s.served, (s.chan ch).reg.gapAt + 3200 ≤ s.now) :
    ∃ u : State, execWake k w b s = .next (((u.enterService c.source .retention).modPwr
      fun p => { p with change := none, wakeTimer := 0 }).answerPower c.ctx 0) := by
  have hclocks : (s.served.any fun ch => decide (s.now < (s.chan ch).reg.gapAt + 3200)) = false :=
    List.any_eq_false.2 fun ch hch => by simpa using hgap ch hch
  unfold execWake
  rw [settleAvs_idle havs]
  dsimp only
  rw [hc]
  dsimp only
  rw [if_neg (by simp [hmode, ht, hpoint, havs, hclocks])]
  exact ⟨_, rfl⟩

theorem execWake_idle {k : List BankCheck} {w : List (Nat × MaintIn)} {b : List (Nat × Nat)} {s : State}
    (havs : s.pwr.avs = none) (hc : s.pwr.change = none) : execWake k w b s = .next s := by
  unfold execWake
  rw [settleAvs_idle havs]
  dsimp only
  rw [hc]

theorem execSafeExit_ready {k : List BankCheck} {s : State} {c : PwrChange} (havs : s.pwr.avs = none)
    (hc : s.pwr.change = some c) (hmode : s.pwr.mode = .safe) (ht : c.target = .service) (hpoint : s.pwr.point ≠ 2) :
    execSafeExit k s = .next (((s.modPwr fun p =>
      { p with mode := .bringUp, change := none, source := c.source, left := .safe, exitReq := c.ctx }).leaveSrAll
        0 false (some k)).lanesDetect) := by
  unfold execSafeExit
  rw [settleAvs_idle havs]
  dsimp only
  rw [hc]
  dsimp only
  rw [if_neg (by simp [hmode, ht, hpoint, havs])]

theorem execSafeExit_idle {k : List BankCheck} {s : State} (havs : s.pwr.avs = none) (hc : s.pwr.change = none) :
    execSafeExit k s = .next s := by
  unfold execSafeExit
  rw [settleAvs_idle havs]
  dsimp only
  rw [hc]

/-! ## PWR_WAKE and WAKE_TIMER (R449, R450) -/

theorem pwrWakeWake_taken {p : Path} {s : State} (hp : p ≠ .bar2) (hmode : s.pwr.mode = .retention)
    (hen : (s.pwr.wakePath p).1 = true) : execPwrWakeWake p s = .next (s.wakeEvent (s.pwr.wakePath p).2) := by
  simp [execPwrWakeWake, hp, hmode, hen]

theorem pwrWakeWake_ignored {p : Path} {s : State} (hp : p ≠ .bar2)
    (h : s.pwr.mode ≠ .retention ∨ (s.pwr.wakePath p).1 = false) : execPwrWakeWake p s = .next s.writeIgnored := by
  simp [execPwrWakeWake, hp, h]

theorem pwrWakeSafeExit_taken {p : Path} {s : State} (hp : p ≠ .bar2) (hmode : s.pwr.mode = .safe)
    (hen : (s.pwr.wakePath p).1 = true) :
    execPwrWakeSafeExit p s = .next (s.askPower { target := .service, source := (s.pwr.wakePath p).2 }) := by
  simp [execPwrWakeSafeExit, hp, hmode, hen]

theorem pwrWakeSafeExit_ignored {p : Path} {s : State} (hp : p ≠ .bar2)
    (h : s.pwr.mode ≠ .safe ∨ (s.pwr.wakePath p).1 = false) : execPwrWakeSafeExit p s = .next s.writeIgnored := by
  simp [execPwrWakeSafeExit, hp, h]

theorem execWakeTimer_due {s : State} (hmode : s.pwr.mode = .retention) (htimer : s.pwr.wakeTimer ≠ 0)
    (hdue : s.pwr.retEntry + s.pwr.wakeTimer * 2 ^ 26 ≤ s.now) :
    execWakeTimer s = .next ((s.modPwr fun p => { p with wakeTimer := 0 }).wakeEvent 5) :=
  if_pos (by simpa [hmode, htimer] using hdue)

theorem execWakeTimer_idle {s : State} (h : s.pwr.mode ≠ .retention ∨ s.pwr.wakeTimer = 0 ∨
    s.now < s.pwr.retEntry + s.pwr.wakeTimer * 2 ^ 26) : execWakeTimer s = .next s :=
  if_neg (by
    simp only [Bool.and_eq_true, beq_iff_eq, bne_iff_ne, decide_eq_true_eq]
    rintro ⟨⟨hmode, htimer⟩, hdue⟩
    exact h.elim (· hmode) (·.elim htimer fun hlt => absurd hdue (Nat.not_le.2 hlt)))

end Sys2Proof.Laws

/-! PROOF. O11: mode changes run to their end. -/

namespace Sys2Proof.Proofs

open Sys2Proof Sys2Proof.Machine Sys2Proof.Laws

/-- A change to SERVICE ends at the wait instruction (R438, R439). -/
theorem hoopWait_ends_service (s : State) (c : PwrChange) (hc : s.pwr.change = some c) (hphase : c.phase = 0)
    (hrun : s.hoop.running = true) (ht : c.target = .service) :
    ∃ t, exec (.hoopWait false) s = .next t ∧ t.pwr = { s.pwr with mode := .service, change := none } :=
  ⟨_, hoopWait_service hc hphase hrun ht, answerPower_pwr ..⟩

/-- A change to MAINTENANCE ends there (R443). -/
theorem hoopWait_ends_maintenance (s : State) (c : PwrChange) (hc : s.pwr.change = some c) (hphase : c.phase = 0)
    (hrun : s.hoop.running = true) (ht : c.target = .maintenance) (hq : s.quiet = true) :
    ∃ t, exec (.hoopWait false) s = .next t ∧ t.pwr = { s.pwr with mode := .maintenance, change := none } := by
  refine ⟨_, hoopWait_maintenance hc hphase hrun ht hq, ?_⟩
  rw [answerPower_pwr]
  exact congrArg (fun p : Power => { p with mode := .maintenance, change := none }) (emptySections_pwr s)

/-- A write of PWR_WAKE that is ignored leaves the power block and is logged (R449, R463). -/
theorem pwrWake_logs (s : State) :
    s.writeIgnored.pwr = s.pwr ∧ (logsOk s → Logged .regWriteIgnored 0 s s.writeIgnored) :=
  ⟨writeIgnored_pwr s, writeIgnored_logged s⟩

/-- WAKE_TIMER expires once, as a wake event (R450). -/
theorem wakeTimer_expires (s : State) (hmode : s.pwr.mode = .retention) (htimer : s.pwr.wakeTimer ≠ 0)
    (hdue : s.pwr.retEntry + s.pwr.wakeTimer * 2 ^ 26 ≤ s.now) :
    ∃ t, exec .wakeTimer s = .next t ∧ t.pwr.wakeTimer = 0 ∧ (s.pwr.change = none → s.pwr.pendingReq = none →
      t.pwr.change = some { target := .service, source := 5, phase := 1 }) :=
  ⟨_, execWakeTimer_due hmode htimer hdue, wakeEvent_wakeTimer 5 hmode, fun hchange hpend => wakeEvent_first 5 hmode hchange hpend⟩

/-- A SAFE exit that nothing refuses becomes the running change (R451, R452). -/
theorem safeExit_begins (p : Path) (s : State) (hp : p ≠ .bar2) (hmode : s.pwr.mode = .safe)
    (hen : (s.pwr.wakePath p).1 = true) (hcause : s.causeActive = false) (hchange : s.pwr.change = none)
    (hpend : s.pwr.pendingReq = none) : ∃ t, exec (.pwrWakeSafeExit p) s = .next t ∧
      t.pwr.change = some { target := .service, source := (s.pwr.wakePath p).2, phase := 1 } := by
  refine ⟨_, pwrWakeSafeExit_taken hp hmode hen, ?_⟩
  rw [askPower_first hchange hpend]
  exact beginPower_safeExit hmode rfl hcause

/-- With VDD at P0 a SAFE exit enters BRING-UP (R452). -/
theorem safeExit_enters_bringUp (k : List BankCheck) (s : State) (c : PwrChange) (havs : s.pwr.avs = none)
    (hc : s.pwr.change = some c) (hmode : s.pwr.mode = .safe) (ht : c.target = .service) (hpoint : s.pwr.point ≠ 2) :
    ∃ t, exec (.safeExit k) s = .next t ∧ t.pwr.mode = .bringUp ∧ t.pwr.change = none := by
  refine ⟨_, execSafeExit_ready havs hc hmode ht hpoint, ?_⟩
  rw [lanesDetect_pwr, leaveSrAll_pwr]
  exact ⟨rfl, rfl⟩

/-- With VDD at P0 and every region's clock back for 2 µs a wake enters SERVICE (R447). -/
theorem wake_enters_service (k : List BankCheck) (w : List (Nat × MaintIn)) (b : List (Nat × Nat)) (s : State) (c : PwrChange)
    (havs : s.pwr.avs = none) (hc : s.pwr.change = some c) (hmode : s.pwr.mode = .retention) (ht : c.target = .service)
    (hpoint : s.pwr.point ≠ 2) (hgap : ∀ ch ∈ s.served, (s.chan ch).reg.gapAt + 3200 ≤ s.now) :
    ∃ t, exec (.wake k w b) s = .next t ∧ t.pwr.mode = .service ∧ t.pwr.change = none ∧ t.pwr.wakeTimer = 0 := by
  obtain ⟨u, hu⟩ := execWake_ready (k := k) (w := w) (b := b) havs hc hmode ht hpoint hgap
  refine ⟨_, hu, ?_⟩
  rw [answerPower_pwr]
  exact ⟨rfl, rfl, rfl⟩

/-- Settles O11: what the hoop's wait instruction, the wake events, the wake and the SAFE exit do, and when each does nothing. -/
theorem modeChangesComplete : Obligations.ModeChangesComplete := by
  refine ⟨hoopWait_ends_service, hoopWait_ends_maintenance,
    fun s c hc hphase hrun ht hq hdone => ⟨_, hoopWait_retention hc hphase hrun ht hq hdone, startRetention_pwr c s⟩,
    wake_enters_service, wakeTimer_expires,
    fun p s hp hmode hen hchange hpend => ⟨_, pwrWakeWake_taken hp hmode hen, wakeEvent_first _ hmode hchange hpend⟩,
    fun p s hp h => ⟨_, pwrWakeWake_ignored hp h, pwrWake_logs s⟩, safeExit_begins,
    fun p s hp h => ⟨_, pwrWakeSafeExit_ignored hp h, pwrWake_logs s⟩, safeExit_enters_bringUp,
    fun s x => ⟨hoopWait_idle, execWakeTimer_idle, rfl, rfl, fun k w b havs hc => ⟨execWake_idle havs hc, execSafeExit_idle havs hc⟩⟩⟩

end Sys2Proof.Proofs

/-! PROOF. O30: a CA eyelet that the training step after an exit finds failing starts a CA emergency (R321, R323), whose stop of FCK sends
the region back to self-refresh. -/

namespace Sys2Proof.Laws

open Sys2Proof Sys2Proof.Machine

/-- A device whose region 0 is in self-refresh since ck 0, with its exit due. -/
def exitDueState : State := { now := 10000, chans := [(0, { reg := { inSr := true, exitAt := 3200 } })] }

/-- A training step in which the eyelet of CA0 has no clean setting at its delay (R311). -/
def failingCa0 : MaintIn := { train := [{ idx := 84, downBad := [0], upBad := [] }], cal := [], sigs := [], noise := [] }

/-- The bobbin is still in service after the exit, with its region in self-refresh again. -/
theorem failingCa0_reenters : let t := Res.after exitDueState (exec (.selfRefreshExit 0 3200 failingCa0 []) exitDueState)
    (t.chan 0).func = .idle ∧ (t.chan 0).reg.inSr = true := by decide +kernel

end Sys2Proof.Laws

namespace Sys2Proof.Proofs

open Sys2Proof Sys2Proof.Machine Sys2Proof.Laws

/-- Refutes O30: an exit need not leave a channel in service out of self-refresh, for its training step may find a failing CA eyelet. -/
theorem not_regionEvents : ¬ Obligations.RegionEvents := by
  rintro ⟨-, -, -, -, hexit, -⟩
  obtain ⟨t, ht, -, hleft⟩ := hexit 0 3200 failingCa0 [] exitDueState (by decide +kernel) (by decide +kernel) (by decide +kernel)
    (by decide +kernel) (by decide +kernel) (by decide +kernel) (by decide +kernel)
  obtain ⟨hfunc, hsr⟩ : (t.chan 0).func = .idle ∧ (t.chan 0).reg.inSr = true := by
    have h := failingCa0_reenters
    rw [ht] at h
    exact h
  have hout : (t.chan 0).reg.inSr = false := hleft (by simp [hfunc])
  exact absurd (hsr.symm.trans hout) (by decide)

end Sys2Proof.Proofs

/-! PROOF. Rows and refreshes (R61, R62, R76, R111). -/

namespace Sys2Proof.Laws

open Sys2Proof Sys2Proof.Machine

@[simp] theorem chan_modReg_same (ch : Nat) (f : Region → Region) (s : State) :
    (s.modReg ch f).chan ch = { s.chan ch with reg := f (s.chan ch).reg } := chan_modChan_same ch _ s

@[simp] theorem chan_modSeq_same (ch : Nat) (f : Seq → Seq) (s : State) :
    (s.modSeq ch f).chan ch = { s.chan ch with seq := f (s.chan ch).seq } := chan_modChan_same ch _ s

@[simp] theorem chan_sent_same (ch : Nat) (r : CmdRec) (s : State) : (s.sent ch r).chan ch =
    { s.chan ch with reg := { (s.chan ch).reg with cmds := r :: (s.chan ch).reg.cmds.filter fun x => r.ck ≤ x.ck + 100 } } :=
  chan_modChan_same ch _ s

/-- An ACT that no template owns opens the row its generator names. -/
theorem actSlot_of_generator {w : Word} (h : slotDp w ≠ dpTCMD) (ch : Nat) (s : State) :
    s.actSlot ch w = s.modReg ch fun g =>
      g.activate (((s.chan ch).seq.genNow w).1 / 2 ^ 21) (((s.chan ch).seq.genNow w).1 / 256 % 8192) (s.chan ch).seq.slotCk := if_neg h

/-- A PRE that no template owns closes the bank its generator names. -/
theorem preSlot_of_generator {w : Word} (h : slotDp w ≠ dpTCMD) (ch : Nat) (s : State) :
    s.preSlot ch w = s.modReg ch fun g =>
      { g with openRows := g.openRows.filter (·.1 != ((s.chan ch).seq.genNow w).1 / 2 ^ 21) } := if_neg h

/-- A debt read at the ck it is held at. -/
theorem debtAt_since (r : Refresh) (b : Nat) : r.debtAt r.since b = r.debt.getD b 0 := by simp [Refresh.debtAt]

theorem getD_map_range (f : Nat → Int) {n b : Nat} (h : b < n) : ((List.range n).map f).getD b 0 = f b := by simp [h]

/-- Bringing the accounting forward changes no debt (R61). -/
theorem bring_debt (r : Refresh) (t : Nat) {b : Nat} (h : b < 32) : (r.bring t).debt.getD b 0 = r.debtAt t b := getD_map_range _ h

theorem credit_since (r : Refresh) (t : Nat) (f : Nat → Bool) : (r.credit t f).1.since = t := rfl

/-- One credit: every named bank that owes more than the limit gives up a refresh (R62). -/
theorem credit_debtAt (r : Refresh) (t : Nat) (f : Nat → Bool) {b : Nat} (h : b < 32) : (r.credit t f).1.debtAt t b =
    if f b = true ∧ -174720 ≤ r.debtAt t b then r.debtAt t b - 24960 else r.debtAt t b := by
  have hdebt := bring_debt r t h
  calc (r.credit t f).1.debtAt t b = (r.credit t f).1.debt.getD b 0 := debtAt_since (r.credit t f).1 b
    _ = _ := getD_map_range _ h
    _ = _ := by simp only [hdebt, ge_iff_le, Bool.and_eq_true, decide_eq_true_eq]

/-- The accounting after a refresh slot is that after the credit, but for SURPLUS. -/
theorem refreshAt_refr (ch u : Nat) (f : Nat → Bool) (s : State) :
    ∃ n, ((s.refreshAt ch u f).2.chan ch).refr = { ((s.chan ch).refr.credit u f).1 with surplus := n } :=
  ⟨_, by unfold State.refreshAt; rw [chan_modChan_same]⟩

end Sys2Proof.Laws

namespace Sys2Proof.Proofs

open Sys2Proof Sys2Proof.Machine Sys2Proof.Laws

/-- Settles O26: the rows after ACT and PRE, and the debts after a refresh. -/
theorem rowsAndRefreshes : Obligations.RowsAndRefreshes := by
  refine ⟨fun ch w s h => ?_, fun ch w s h => ?_, fun ch u f s b hb => ?_⟩
  · rw [actSlot_of_generator h, chan_modReg_same]
    rfl
  · intro a x
    rw [preSlot_of_generator h, chan_modReg_same, List.mem_filter, bne_iff_ne]
  · obtain ⟨n, hn⟩ := refreshAt_refr ch u f s
    rw [hn]
    exact ⟨rfl, credit_debtAt (s.chan ch).refr u f hb⟩

end Sys2Proof.Proofs

/-! PROOF. O24 and O27: a MARK event and a carry in one ck (R532, R536), and training work that a training step makes pending
(R306, R311). -/

namespace Sys2Proof.Laws

open Sys2Proof Sys2Proof.Machine

/-- A MARK slot (R111). -/
def markWord : Word := BitVec.ofNat 32 (opMARK * 2 ^ 28)

/-- A RUNNING channel whose next slot is that MARK. -/
def markChan : Chan :=
  { func := .source, state := .running
    seq := { sect := some { func := .source, motifs := [{}], steps := [{}], tiers := [{}] }, card := [(0, markWord)] } }

/-- A configuration that counts every MARK: EN, qualifier bit 10 and event 0x003, counting up for ever or by windows (R530). -/
def countMarks (window : Bool) : Nat := 2 ^ 31 + (if window then 2 ^ 29 else 0) + 2 ^ 26 + 0x003

/-- Counter 0 is about to overflow. Counter 1 has been unchained from it at the window boundary of this ck (R534, R536). -/
def carryTab : List (Nat × Counter) :=
  [(0, { cfg := countMarks false, val := 2 ^ 48 - 1 }), (1, { cfg := countMarks true, oldChain := true })]

/-- A device with that channel and those counters. -/
def carryState : State := { chans := [(0, markChan)], cnt := { tab := carryTab } }

/-- The MARK counts in counter 1 once for itself and once as the carry of counter 0. -/
theorem carry_counts_twice :
    ((Res.after carryState (exec (.mark 0) carryState)).counter 1).acc = (carryState.counter 1).acc + 2 := by decide +kernel

/-- A device on whose channel 0 training work is pending. -/
def trainDueState : State := { chans := [(0, { maint := { train := true } })] }

/-- No refresh is due on that channel. -/
theorem trainDue_owes_none : ¬ 1 ≤ (trainDueState.chan 0).refr.maxOwed (trainDueState.now + 1) := by decide +kernel

/-- A training step in which eyelet 0 is clean at its delay only (R311). -/
def narrowEye : MaintIn := { train := [{ idx := 0, downBad := [-2, 2], upBad := [-2, 2] }], cal := [], sigs := [], noise := [] }

/-- The eyelet becomes SUSPECT, which makes training work pending again. -/
theorem narrowEye_stays_pending :
    ((Res.after trainDueState (exec (.idleSchedule 0 narrowEye false none) trainDueState)).chan 0).maint.train = true := by decide +kernel

end Sys2Proof.Laws

namespace Sys2Proof.Proofs

open Sys2Proof Sys2Proof.Machine Sys2Proof.Laws

/-- Refutes O24: one MARK may count twice in a counter that selects it, once for itself and once as the carry of its even neighbour
(R532), which a counter unchained in this very ck still takes. -/
theorem not_slotsTakeEffect : ¬ Obligations.SlotsTakeEffect := by
  rintro ⟨-, -, -, -, -, -, -, -, -, -, -, -, hmark, -⟩
  obtain ⟨t, ht, -, -, hcount⟩ := hmark 0 markWord carryState (by decide +kernel)
  have honce : (t.counter 1).acc = (carryState.counter 1).acc + 1 := hcount 1 (by decide) rfl (by decide +kernel) (by decide +kernel)
    (by decide +kernel) (by decide +kernel) (by decide +kernel) (by decide +kernel) (.inl (by decide +kernel))
  have htwice := carry_counts_twice
  rw [ht] at htwice
  exact absurd (honce.symm.trans htwice) (by omega)

/-- What O27 says of an idle channel on which nothing but training work is pending. -/
theorem training_done_of_streamControl (h : Obligations.StreamControl) (ch : Nat) (w : MaintIn) (s : State)
    (hidle : (s.chan ch).idle = true) (hch : ch < s.members) (howes : ¬ 1 ≤ (s.chan ch).refr.maxOwed (s.now + 1))
    (hmaint : (s.chan ch).maint = { train := true }) (htrig : (s.chan ch).eyes.calTrig = none) (hrun : (s.chan ch).eyes.calRun = false)
    (hfits : (s.chan ch).fitsStart s.now 1024 = true)
    (htemp : ((s.dieHot (ch / 8) - 8 * (s.chan ch).eyes.calTemp).natAbs : Int) < 8 * (s.chan ch).eyes.retrig) :
    ∃ t, exec (.idleSchedule ch w false none) s = .next t ∧ (t.chan ch).maint.train = false := by
  obtain ⟨-, -, hschedule, -⟩ := h
  obtain ⟨t, ht, heffect⟩ := hschedule ch w false none s hidle hch
  rw [if_neg fun hdue => howes hdue.1] at heffect
  obtain ⟨-, htrain, -⟩ := heffect
  exact ⟨t, ht, htrain (by rw [hmaint]) (by rw [hmaint]) (by rw [hmaint]) htrig hrun hfits htemp⟩

/-- Refutes O27: the idle schedule may leave training work pending, for the training step that it runs may find an eyelet SUSPECT. -/
theorem not_streamControl : ¬ Obligations.StreamControl := by
  intro h
  obtain ⟨t, ht, hdone⟩ := training_done_of_streamControl h 0 narrowEye trainDueState (by decide +kernel) (by decide +kernel)
    trainDue_owes_none (by decide +kernel) (by decide +kernel) (by decide +kernel) (by decide +kernel) (by decide +kernel)
  have hpending := narrowEye_stays_pending
  rw [ht] at hpending
  exact absurd (hdone.symm.trans hpending) (by decide)

end Sys2Proof.Proofs

/-! PROOF. What completing a descriptor does to the channels (R153 to R156, R257, R448): a FILL that commits sets INIT bits and ends
RETENTION_LOST, and nothing else of any channel changes. -/

namespace Sys2Proof.Laws

open Sys2Proof Sys2Proof.Machine

/-- `d` is `c` but for its INIT bits and its lost banks. -/
def Refilled (c d : Chan) : Prop := ∃ i l, d = { c with da := { c.da with init := i }, retLost := l }

/-- Every channel is as it was but for its INIT bits and its lost banks. -/
def OnlyRefills (s t : State) : Prop := ∀ ch, Refilled (s.chan ch) (t.chan ch)

theorem Refilled.refl (c : Chan) : Refilled c c := ⟨_, _, rfl⟩

theorem Refilled.trans {c d e : Chan} (h : Refilled c d) (k : Refilled d e) : Refilled c e := by
  obtain ⟨_, _, rfl⟩ := h
  obtain ⟨_, _, rfl⟩ := k
  exact ⟨_, _, rfl⟩

theorem OnlyRefills.refl (s : State) : OnlyRefills s s := fun _ => .refl _

theorem OnlyRefills.trans {a b c : State} (h : OnlyRefills a b) (k : OnlyRefills b c) : OnlyRefills a c := fun ch => (h ch).trans (k ch)

theorem OnlyRefills.of_chan {s t : State} (h : ∀ ch, t.chan ch = s.chan ch) : OnlyRefills s t := fun ch => (h ch).symm ▸ .refl _

theorem OnlyRefills.foldl {α : Type} {f : State → α → State} (hf : ∀ s x, OnlyRefills s (f s x)) (l : List α) (s : State) :
    OnlyRefills s (l.foldl f s) := by
  induction l generalizing s with
  | nil => exact .refl _
  | cons x l ih => exact (hf s x).trans (ih _)

theorem commitEffect_refills (d : Desc) (s : State) : OnlyRefills s (s.commitEffect d) := by
  have fills : OnlyRefills s (s.modChan d.ch fun c => c.fillInit d.first d.total) := fun ch => by
    rw [chan_modChan]
    split
    · next h => exact h ▸ ⟨_, _, rfl⟩
    · exact .refl _
  unfold State.commitEffect State.lostEnds
  split
  · split
    · exact fills.trans (.of_chan fun ch => condEnd_chan ..)
    · exact fills
  · exact .refl _

theorem chan_of_chans {s t : State} (h : t.chans = s.chans) (ch : Nat) : t.chan ch = s.chan ch := congrArg (fun m => Sparse.get ({} : Chan) m ch) h

theorem commitOne_refills (n : Nat) (s : State) : OnlyRefills s (s.commitOne n) := by
  unfold State.commitOne
  extract_lets c
  split
  · exact .refl _
  · next d rest hacc =>
    split
    · exact .refl _
    · extract_lets info long j s1 step s2 s3 c'
      have hwritten : s3.chans = (s.commitEffect d).chans := (count_chans ..).trans (writeRecord_chans ..)
      refine (commitEffect_refills d s).trans (.of_chan (chan_of_chans ?_))
      split
      · exact (sendMsix_chans ..).trans hwritten
      · exact hwritten

theorem commitAll_refills (k n : Nat) (s : State) : OnlyRefills s (State.commitAll k n s) := by
  induction k generalizing s with
  | zero => exact .refl _
  | succ k ih => exact (commitOne_refills n s).trans (ih _)

theorem disabled_refills (n : Nat) (x : Nat × Option Nat) (s : State) : OnlyRefills s (s.disabled n x) := by
  unfold State.disabled
  split <;> exact .of_chan fun _ => rfl

theorem settleDisable_refills (n : Nat) (s : State) : OnlyRefills s (s.settleDisable n) := by
  unfold State.settleDisable
  dsimp only
  split
  · exact .refl _
  · exact OnlyRefills.trans (.of_chan fun ch => by rw [condEnd_chan, chan_modCtx]) (OnlyRefills.foldl (fun s x => disabled_refills n x s) _ _)

theorem drainBy_refills (k n : Nat) (s : State) : OnlyRefills s (State.drainBy k n s) := by
  induction k generalizing n s with
  | zero => exact .refl _
  | succ k ih =>
    exact ((commitAll_refills _ n s).trans (settleDisable_refills n _)).trans (OnlyRefills.foldl (fun s o => ih o s) _ _)

/-- Completing a descriptor changes no more of the channels than its commits do. -/
theorem finish_refills (n q st i r : Nat) (s : State) : OnlyRefills s (s.finish n q st i r) :=
  OnlyRefills.trans (.of_chan fun _ => rfl) (drainBy_refills 17 n _)

section
variable (n q st i r : Nat) (s : State) (ch : Nat)

@[simp] theorem finish_chan_state : ((s.finish n q st i r).chan ch).state = (s.chan ch).state := by
  obtain ⟨_, _, h⟩ := finish_refills n q st i r s ch
  rw [h]
@[simp] theorem finish_chan_func : ((s.finish n q st i r).chan ch).func = (s.chan ch).func := by
  obtain ⟨_, _, h⟩ := finish_refills n q st i r s ch
  rw [h]
@[simp] theorem finish_chan_seq : ((s.finish n q st i r).chan ch).seq = (s.chan ch).seq := by
  obtain ⟨_, _, h⟩ := finish_refills n q st i r s ch
  rw [h]
@[simp] theorem finish_chan_runs : ((s.finish n q st i r).chan ch).runs = (s.chan ch).runs := by
  obtain ⟨_, _, h⟩ := finish_refills n q st i r s ch
  rw [h]
@[simp] theorem finish_chan_starter : ((s.finish n q st i r).chan ch).starter = (s.chan ch).starter := by
  obtain ⟨_, _, h⟩ := finish_refills n q st i r s ch
  rw [h]
@[simp] theorem finish_chan_stoppers : ((s.finish n q st i r).chan ch).stoppers = (s.chan ch).stoppers := by
  obtain ⟨_, _, h⟩ := finish_refills n q st i r s ch
  rw [h]
@[simp] theorem finish_chan_flights : ((s.finish n q st i r).chan ch).flights = (s.chan ch).flights := by
  obtain ⟨_, _, h⟩ := finish_refills n q st i r s ch
  rw [h]
end

end Sys2Proof.Laws

/-! PROOF. What a step leaves of a channel, as a projection of it: the vector source changes nothing else, and O25, the place of a
stream — its next slot, generator offsets and checkpoints — through what a slot does besides (R110, R115, R117). -/

namespace Sys2Proof.Laws

open Sys2Proof Sys2Proof.Machine

/-- From `s` to `t` the part `π` of channel `ch` stays. -/
def Same {α : Type} (π : Chan → α) (ch : Nat) (s t : State) : Prop := π (t.chan ch) = π (s.chan ch)

section
variable {α : Type} {π : Chan → α} {ch : Nat}

theorem Same.refl (π : Chan → α) (ch : Nat) (s : State) : Same π ch s s := rfl

theorem Same.trans {a b c : State} (h : Same π ch a b) (k : Same π ch b c) : Same π ch a c := Eq.trans k h

theorem Same.of_chan {s t : State} (h : t.chan ch = s.chan ch) : Same π ch s t := congrArg π h

/-- What stays of a channel fixes each part of it. -/
theorem Same.of_part {β : Type} {ρ : Chan → β} {s t : State} (h : Same ρ ch s t) (f : β → α) (hf : ∀ c, f (ρ c) = π c) : Same π ch s t := by
  rw [Same, ← hf, ← hf, show ρ (t.chan ch) = ρ (s.chan ch) from h]

theorem Same.ite {a s t : State} {p : Prop} [Decidable p] (h : Same π ch a s) (k : Same π ch a t) : Same π ch a (if p then s else t) := by
  split
  · exact h
  · exact k

theorem Same.foldl {β : Type} {f : State → β → State} (hf : ∀ s x, Same π ch s (f s x)) (l : List β) (s : State) :
    Same π ch s (l.foldl f s) := by
  induction l generalizing s with
  | nil => exact .refl ..
  | cons x l ih => exact (hf s x).trans (ih _)

theorem Same.of_refills {s t : State} (h : OnlyRefills s t) (hπ : ∀ c i l, π { c with da := { c.da with init := i }, retLost := l } = π c) :
    Same π ch s t := by
  obtain ⟨_, _, h⟩ := h ch
  rw [Same, h, hπ]

/-- A change of one channel that leaves the part `π` leaves it of every channel. -/
theorem modChan_same {k : Nat} {f : Chan → Chan} (s : State) (h : ∀ c, π (f c) = π c) : Same π k s (s.modChan ch f) := by
  rw [Same, chan_modChan]
  split
  · next e => rw [h, e]
  · rfl

theorem log_same (c : Cause) (i : Nat) (s : State) (d0 d1 d2 : Nat) (a : Bool) : Same π ch s (s.log c i d0 d1 d2 a) :=
  .of_chan (log_chan ..)

end

/-! ## The vector source -/

/-- A checkpoint record without the boundary bits that the source settles later (R200). -/
def ckptRest (k : Ckpt) : Ckpt := { k with bnd := [] }

/-- What the vector source leaves of its channel: all but itself and the boundary bits of the checkpoints. -/
def beyondSource (c : Chan) : Chan := { c with src := {}, seq := { c.seq with ckpts := c.seq.ckpts.map fun x => (x.1, ckptRest x.2) } }

theorem modSrc_sourceOnly (ch : Nat) (f : Source → Source) (s : State) : Same beyondSource ch s (s.modSrc ch f) :=
  modChan_same s fun _ => rfl

theorem leaveGran_sourceOnly (ch : Nat) (d : Option Nat) (x : SrcGran) (s : State) : Same beyondSource ch s (s.leaveGran ch d x) := by
  have hcount : Same beyondSource ch s (s.count 0x00E (some ch) 1) := .of_chan (count_chan ..)
  unfold State.leaveGran
  dsimp only
  split
  · exact hcount
  · exact hcount.trans (modSrc_sourceOnly ..)

theorem sweepGrans_sourceOnly (ch g : Nat) (d : Option Nat) (s : State) : Same beyondSource ch s (s.sweepGrans ch g d) :=
  Same.trans (modSrc_sourceOnly ..) (Same.foldl (fun s x => leaveGran_sourceOnly ch d x s) _ _)

theorem dropGran_sourceOnly (ch g id : Nat) (s : State) : Same beyondSource ch s (s.dropGran ch g id) := by
  unfold State.dropGran
  split
  · exact .refl ..
  · exact Same.trans (modSrc_sourceOnly ..) (modSrc_sourceOnly ..)

theorem setBnd_rest (l : List Nat) (g : Nat) (v : Bool) (x : Nat × Ckpt) :
    ((setBnd l g v x).1, ckptRest (setBnd l g v x).2) = (x.1, ckptRest x.2) := by
  unfold setBnd
  split <;> rfl

theorem settleMarks_sourceOnly (ch g : Nat) (s : State) : Same beyondSource ch s (s.settleMarks ch g) := by
  unfold State.settleMarks
  dsimp only
  split
  · exact .refl ..
  · refine Same.trans (modSrc_sourceOnly ..) (modChan_same _ fun c => ?_)
    simp only [beyondSource, List.map_map, Function.comp_def, setBnd_rest]

theorem srcEvents_sourceOnly (ch g : Nat) (e : SrcEvents) (s : State) : Same beyondSource ch s (s.srcEvents ch g e) := by
  have hdrops : Same beyondSource ch s (e.drops.foldl (fun s id => s.dropGran ch g id) s) :=
    Same.foldl (fun s id => dropGran_sourceOnly ch g id s) _ _
  refine Same.trans ?_ ((settleMarks_sourceOnly ch g _).trans (sweepGrans_sourceOnly ch g none _))
  refine Same.trans ?_ (Same.foldl (fun s t => .of_chan (logAt_chan ..)) _ _)
  split
  · exact hdrops.trans (log_same ..)
  · exact hdrops

theorem srcPrep_sourceOnly (n ch g : Nat) (s : State) : Same beyondSource ch s (State.srcPrep n ch g s) := by
  induction n generalizing s with
  | zero => exact .refl ..
  | succ n ih =>
    unfold State.srcPrep
    dsimp only
    split
    · exact .refl ..
    · exact ((modSrc_sourceOnly ..).trans (srcEvents_sourceOnly ..)).trans (ih _)

theorem stopStreams_sourceOnly (ch : Nat) (s : State) : Same beyondSource ch s (s.stopStreams ch) :=
  Same.trans (modSrc_sourceOnly ..)
    (Same.foldl (fun s g => (sweepGrans_sourceOnly ch g none s).trans (srcPrep_sourceOnly _ ch g _)) _ _)

theorem endPanic_sourceOnly (ch : Nat) (s : State) : Same beyondSource ch s (s.endPanic ch) := by
  unfold State.endPanic
  dsimp only
  split
  · exact (modSrc_sourceOnly ..).trans (log_same ..)
  · exact .refl ..

theorem updatePanic_sourceOnly (ch : Nat) (s : State) : Same beyondSource ch s (s.updatePanic ch) := by
  have hcover : Same beyondSource ch s (match s.cover ch with
      | some v => s.modSrc ch fun c => { c with minCover := min c.minCover (min v.toNat 0xFFFF) }
      | none => s) := by
    split
    · exact modSrc_sourceOnly ..
    · exact .refl ..
  unfold State.updatePanic
  extract_lets c cov s' low
  change Same beyondSource ch s s' at hcover
  split
  · split
    · exact hcover.trans (modSrc_sourceOnly ..)
    · exact hcover
  · split
    · exact hcover.trans (endPanic_sourceOnly ..)
    · exact hcover

/-! ## The stream -/

/-- What a checkpoint record says of its slot: the ck, the place, and the offsets after it. -/
def ckptPlace (k : Ckpt) : Nat × Pos × List Nat := (k.ck, k.pos, k.gens)

/-- Where a stream stands: its next slot, its generator offsets, its checkpoint number, and the places of its checkpoints. -/
def streamPlace (q : Seq) : Nat × List Nat × Nat × List (Nat × Nat × Pos × List Nat) :=
  (q.slotCk, q.gens, q.ckptNo, q.ckpts.map fun x => (x.1, ckptPlace x.2))

/-- The stream of channel `ch` stands where it stood. -/
abbrev SamePlace (ch : Nat) (s t : State) : Prop := Same (fun c => streamPlace c.seq) ch s t

theorem samePlace_of_source {ch : Nat} {s t : State} (h : Same beyondSource ch s t) : SamePlace ch s t :=
  h.of_part (fun c => streamPlace c.seq) fun c => by simp [beyondSource, streamPlace, ckptPlace, ckptRest]

theorem samePlace_of_refills {ch : Nat} {s t : State} (h : OnlyRefills s t) : SamePlace ch s t := .of_refills h fun _ _ _ => rfl

theorem updateStarved_same {α : Type} {π : Chan → α} (hπ : ∀ c b, π { c with starved := b } = π c) (ch : Nat) (s : State) :
    Same π ch s (s.updateStarved ch) := by
  have hmark (b : Bool) : Same π ch s (s.modChan ch fun c => { c with starved := b }) := modChan_same s fun c => hπ c b
  unfold State.updateStarved
  extract_lets c on s2
  split
  · exact (hmark on).trans (log_same ..)
  · exact hmark on

theorem lastSlot_samePlace (ch t : Nat) (s : State) : SamePlace ch s (s.lastSlot ch t) := by
  refine Same.trans ?_ (samePlace_of_source (stopStreams_sourceOnly ..))
  exact modChan_same s fun _ => rfl

theorem stopWaiting_refills (ch st : Nat) (s : State) : OnlyRefills s (s.stopWaiting ch st) := by
  unfold State.stopWaiting
  split
  · refine OnlyRefills.foldl (fun s d => ?_) _ _
    exact finish_refills _ _ _ _ _ _
  · exact .refl _

theorem endStream_samePlace (ch t : Nat) (s : State) : SamePlace ch s (s.endStream ch t) := by
  refine Same.trans (samePlace_of_refills (stopWaiting_refills ch 0x0004 s)) (Same.trans ?_ (lastSlot_samePlace ..))
  exact modChan_same _ fun _ => rfl

theorem moveTo_samePlace (ch t : Nat) (w : Word) (p : Option Pos) (s : State) : SamePlace ch s (s.moveTo ch t w p) := by
  cases p with
  | none => exact endStream_samePlace ..
  | some p => exact modChan_same s fun _ => rfl

/-- The next slot lies one ck later, with the offsets after the slot (R110, R115). -/
def atNextSlot (ch : Nat) (w : Word) (s : State) : State :=
  s.modSeq ch fun q => { q.fillCard ((s.chan ch).seq.slotCk + 1) with
    gens := ((s.chan ch).seq.genNow w).2, slotCk := (s.chan ch).seq.slotCk + 1 }

/-- That, and the checkpoint of a slot with CKPT (R117). -/
def atCheckpoint (ch : Nat) (w : Word) (s : State) : State :=
  if slotCkpt w then (atNextSlot ch w s).checkpoint ch (s.chan ch).seq.slotCk (s.chan ch).seq.pos ((s.chan ch).seq.genNow w).2
  else atNextSlot ch w s

/-- The rest of a slot at ck `t` and place `p`: the stop, the switch point, or the next place (R110, R122, R173). -/
def moveOn (ch t : Nat) (p : Pos) (w : Word) (s : State) : State :=
  let c := s.chan ch
  let x := c.seq.sect.getD {}
  if c.state == .stopping && (if c.stopRunEnd then slotCkpt w && c.seq.ckptNo == c.stopB else p.off + 1 ≥ (x.motifAt p).len)
  then s.lastSlot ch t
  else if x.switchPoint p && c.seq.tierSel != p.tier then s.modSeq ch fun q => { q with atSwitch := true }
  else s.moveTo ch t w (x.next p)

theorem advance_eq (ch : Nat) (w : Word) (s : State) :
    s.advance ch w = moveOn ch (s.chan ch).seq.slotCk (s.chan ch).seq.pos w ((atCheckpoint ch w s).updatePanic ch) := by
  unfold State.advance moveOn atCheckpoint atNextSlot
  rfl

theorem moveOn_samePlace (ch t : Nat) (p : Pos) (w : Word) (s : State) : SamePlace ch s (moveOn ch t p w s) :=
  .ite (lastSlot_samePlace ch t s) (.ite (modChan_same s fun _ => rfl) (moveTo_samePlace ch t w _ s))

/-- What moving on does to the place of a stream is its checkpoint and its next slot. -/
theorem advance_samePlace (ch : Nat) (w : Word) (s : State) : SamePlace ch (atCheckpoint ch w s) (s.advance ch w) := by
  rw [advance_eq]
  exact (samePlace_of_source (updatePanic_sourceOnly ..)).trans (moveOn_samePlace ..)

theorem find?_map {α β : Type} (f : α → β) (m : List (Nat × α)) (n : Nat) :
    Sparse.find? (m.map fun x => (x.1, f x.2)) n = (Sparse.find? m n).map f := by
  induction m with
  | nil => rfl
  | cons x m ih =>
    simp only [List.map_cons, Sparse.find?, ih]
    split <;> rfl

theorem atNextSlot_seq (ch : Nat) (w : Word) (s : State) : ((atNextSlot ch w s).chan ch).seq =
    { (s.chan ch).seq.fillCard ((s.chan ch).seq.slotCk + 1) with
      gens := ((s.chan ch).seq.genNow w).2, slotCk := (s.chan ch).seq.slotCk + 1 } := by
  rw [atNextSlot, State.modSeq, chan_modChan_same]

/-- Streams that stand in one place agree in slot, offsets, checkpoint number and the places of the checkpoints. -/
theorem streamPlace_parts {q r : Seq} (h : streamPlace q = streamPlace r) : q.slotCk = r.slotCk ∧ q.gens = r.gens ∧ q.ckptNo = r.ckptNo ∧
    ∀ n, (Sparse.find? q.ckpts n).map ckptPlace = (Sparse.find? r.ckpts n).map ckptPlace := by
  simp only [streamPlace, Prod.mk.injEq] at h
  obtain ⟨hck, hgens, hno, hckpts⟩ := h
  exact ⟨hck, hgens, hno, fun n => by rw [← find?_map, ← find?_map, hckpts]⟩

/-- A checkpoint enters the stream's record under the next number (R117). -/
theorem checkpoint_place (ch t : Nat) (p : Pos) (g : List Nat) (s : State) : ∃ k, ckptPlace k = (t, p, g) ∧
    streamPlace ((s.checkpoint ch t p g).chan ch).seq = streamPlace { (s.chan ch).seq with
      ckptNo := (s.chan ch).seq.ckptNo + 1, ckpts := Sparse.insert (s.chan ch).seq.ckpts ((s.chan ch).seq.ckptNo + 1) k } := by
  refine ⟨_, ?_, Eq.trans (updateStarved_same (π := fun c => streamPlace c.seq) (fun _ _ => rfl) ..) (by rw [chan_modChan_same])⟩
  rfl

/-- The place of a stream after a slot. -/
theorem slotDone_place (ch : Nat) (w : Word) (s : State) : streamPlace ((s.slotDone ch w).chan ch).seq =
    streamPlace ((atCheckpoint ch w (s.count 0x002 (some ch) 1 fun q => q % 16 == slotOp w)).chan ch).seq :=
  advance_samePlace ..

/-- A slot without CKPT moves the stream to its next slot, and records nothing (R110, R115). -/
theorem atCheckpoint_of_plain (ch : Nat) {w : Word} (s : State) (h : slotCkpt w = false) : atCheckpoint ch w s = atNextSlot ch w s := by
  simp [atCheckpoint, h]

/-- A slot with CKPT also records its place (R117). -/
theorem atCheckpoint_of_ckpt (ch : Nat) {w : Word} (s : State) (h : slotCkpt w = true) : atCheckpoint ch w s =
    (atNextSlot ch w s).checkpoint ch (s.chan ch).seq.slotCk (s.chan ch).seq.pos ((s.chan ch).seq.genNow w).2 := by
  simp [atCheckpoint, h]

@[simp] theorem fillCard_ckptNo (q : Seq) (t : Nat) : (q.fillCard t).ckptNo = q.ckptNo := rfl

end Sys2Proof.Laws

namespace Sys2Proof.Proofs

open Sys2Proof Sys2Proof.Machine Sys2Proof.Laws

/-- Settles O25: a slot's effects besides keep the stream's place, so that it is the next slot's, with the checkpoint of CKPT. -/
theorem slotsAdvanceTheStream : Obligations.SlotsAdvanceTheStream := by
  intro ch w s
  have hplace := slotDone_place ch w s
  cases hc : slotCkpt w with
  | false =>
    rw [atCheckpoint_of_plain ch _ hc, atNextSlot_seq, count_chan] at hplace
    obtain ⟨hck, hgens, hno, -⟩ := streamPlace_parts hplace
    exact ⟨⟨hck, hgens⟩, by simpa using hno, by simp⟩
  | true =>
    rw [atCheckpoint_of_ckpt ch _ hc, count_chan] at hplace
    obtain ⟨k, hk, hput⟩ := checkpoint_place ch (s.chan ch).seq.slotCk (s.chan ch).seq.pos ((s.chan ch).seq.genNow w).2
      (atNextSlot ch w (s.count 0x002 (some ch) 1 fun q => q % 16 == slotOp w))
    obtain ⟨hck, hgens, hno, hckpts⟩ := streamPlace_parts (hplace.trans hput)
    rw [atNextSlot_seq, count_chan] at hck hgens hno hckpts
    simp only [fillCard_ckptNo] at hno hckpts
    have hat := hckpts ((s.chan ch).seq.ckptNo + 1)
    rw [find?_insert, if_pos rfl, Option.map_some, hk, Option.map_eq_some_iff] at hat
    obtain ⟨r, hr, hplace⟩ := hat
    simp only [ckptPlace, Prod.mk.injEq] at hplace
    obtain ⟨rck, rpos, rgens⟩ := hplace
    exact ⟨⟨hck, hgens⟩, by simpa using hno, fun _ => ⟨r, hr, rck, rpos, rgens.trans hgens.symm⟩⟩

end Sys2Proof.Proofs

/-! PROOF. O3: RUN, the end of a span and the first slot of a section (R50, R158 to R162). -/

namespace Sys2Proof.Laws

open Sys2Proof Sys2Proof.Machine

/-- A RUN that starts joins its span to the channel's spans, and begins (R159, R161). -/
theorem run_joins {n ch e : Nat} {s : State} {d : Desc} {p : Prop} [Decidable p] (hd : d ∈ (s.ctx n).acc) (r : RunRec) :
    let u := s.modChan ch fun c => { c with runs := c.runs ++ [r], lastEnd := e }
    let t := (if p then u.modCtx n fun x => { x with runCkpt := r.startC } else u).modDesc n d.seq fun d => { d with phase := .started }
    Begun n d.seq t ∧ (t.chan ch).lastEnd = e ∧ (t.chan ch).runs = (s.chan ch).runs ++ [r] := by
  dsimp only
  split
  · exact ⟨modDesc_begun (by rwa [ctx_modCtx_same]) _ rfl rfl, by simp [State.modDesc, chan_modChan_same]⟩
  · exact ⟨modDesc_begun hd _ rfl rfl, by simp [State.modDesc, chan_modChan_same]⟩

/-- Ending the first span of a channel takes it off and answers its RUN (R158, R159). -/
theorem endRun_first {ch : Nat} {s : State} {r : RunRec} {rest : List RunRec} (h : (s.chan ch).runs = r :: rest) :
    ((s.endRun ch 0 true).chan ch).runs = rest ∧ ∀ d ∈ (s.ctx r.ctx).acc, d.seq = r.seq → d.phase ≠ .done →
      Answered r.ctx r.seq (if (s.chan ch).cap.fwdLost.any r.holds then 6 else 0) (s.endRun ch 0 true) := by
  unfold State.endRun
  simp only [h, decide_true, Bool.true_and, if_true]
  refine ⟨by rw [finish_chan_runs, chan_modCtx, chan_modChan_same], fun d hd hq hp => ?_⟩
  rw [← hq]
  refine finish_answered ?_ hp _ _ _
  rwa [ctx_modCtx_same]

/-- Thermal state is no part of the contexts or of the channels. -/
theorem ite_thm_leaves {p : Prop} [Decidable p] (u : State) (h : Thermal) :
    (if p then { u with thm := h } else u).ctxs = u.ctxs ∧ (if p then { u with thm := h } else u).chans = u.chans := by
  split
  · exact ⟨rfl, rfl⟩
  · exact ⟨rfl, rfl⟩

@[simp] theorem updateStarved_ctxs (ch : Nat) (s : State) : (s.updateStarved ch).ctxs = s.ctxs := by
  unfold State.updateStarved
  extract_lets c on s2
  split
  · exact log_ctxs ..
  · rfl

@[simp] theorem updateStarved_chan_state (ch : Nat) (s : State) : ((s.updateStarved ch).chan ch).state = (s.chan ch).state :=
  updateStarved_same (π := Chan.state) (fun _ _ => rfl) ch s

@[simp] theorem refreshBy_ctxs (ch t n : Nat) (s : State) : (State.refreshBy ch t n s).ctxs = s.ctxs :=
  ((refreshBy_writes ch t n s (Only.refl { chans := true, flt := true, cnt := true } s) rfl rfl rfl).ctxs).resolve_left (by simp)

/-- What a started section does at T_s keeps the contexts, and leaves the channel running (R50, R64, R164). -/
theorem execPrickingStart_runs {ch : Nat} {s : State} (hs : (s.chan ch).state = .starting) (hw : (s.chan ch).waitGroup = false)
    (ht : (s.chan ch).seq.ts ≤ s.now) : ∃ u, u.ctxs = s.ctxs ∧ (u.chan ch).state = .running ∧
      execPrickingStart ch s = match (s.chan ch).starter with
        | some (n, q) => .next ((u.modChan ch fun c => { c with starter := none }).finish n q 0 0 (u.gtOf (s.chan ch).seq.ts))
        | none => .next u := by
  unfold execPrickingStart
  simp only [hs, hw, Nat.not_lt.2 ht, bne_self_eq_false, Bool.or_self, decide_false, Bool.false_eq_true, if_false]
  refine ⟨_, ?_, ?_, rfl⟩
  · rw [(ite_thm_leaves ..).1, updateStarved_ctxs, modChan_ctxs, refreshBy_ctxs]
  · rw [State.chan, (ite_thm_leaves ..).2, ← State.chan, updateStarved_chan_state, chan_modChan_same]

end Sys2Proof.Laws

namespace Sys2Proof.Proofs

open Sys2Proof Sys2Proof.Machine Sys2Proof.Laws

/-- A RUN is refused, or starts and its span joins the channel's spans (R159 to R162). -/
theorem run_starts {n : Nat} {s : State} {d : Desc} (h : s.startable n 0x20 = some d) :
    let c := s.chan (s.ctx n).chan
    let skip := c.starved && c.state != .starting && c.lastEnd ≤ c.seq.ckptNo
    ∃ t, exec (.run n) s = .next t ∧
      if d.zero 0x14 0x40 = false then Answered n d.seq 0x0012 t
      else if (c.seq.sect.getD {}).func = .direct then Answered n d.seq 0x0015 t
      else if d.u32 0x10 ≤ c.lastEnd then Answered n d.seq 0x0012 t
      else if (c.seq.stopCauseReq = 4 ∧ c.seq.stopAt.isSome) ∨ (c.state = .stopped ∧ c.stopCause = 4) then Answered n d.seq 0x0005 t
      else if c.state = .starting ∨ c.state = .running ∨ c.state = .stopping then
        Begun n d.seq t ∧ (t.chan (s.ctx n).chan).lastEnd = d.u32 0x10 ∧ (t.chan (s.ctx n).chan).runs =
          c.runs ++ [{ ctx := n, seq := d.seq, startC := if skip then c.seq.ckptNo + 1 else c.lastEnd, endC := d.u32 0x10, skipped := skip }]
      else Answered n d.seq 0x0004 t := by
  obtain ⟨hd, hp, -⟩ := startable_spec h
  have answered (st : Nat) : Answered n d.seq st (s.finish n d.seq st) := finish_answered hd (by simp [hp]) _ _ _
  dsimp only
  change ∃ t, execRun n s = _ ∧ _
  unfold execRun
  simp only [h]
  by_cases hzero : d.zero 0x14 0x40 = false
  · simp [hzero, answered]
  by_cases hfunc : ((s.chan (s.ctx n).chan).seq.sect.getD {}).func = .direct
  · simp [hzero, hfunc, answered]
  by_cases hend : d.u32 0x10 ≤ (s.chan (s.ctx n).chan).lastEnd
  · simp [hzero, hfunc, hend, answered]
  by_cases hauto : ((s.chan (s.ctx n).chan).seq.stopCauseReq = 4 ∧ (s.chan (s.ctx n).chan).seq.stopAt.isSome) ∨
      ((s.chan (s.ctx n).chan).state = .stopped ∧ (s.chan (s.ctx n).chan).stopCause = 4)
  · simp [hzero, hfunc, hend, hauto, answered]
  by_cases hlive : (s.chan (s.ctx n).chan).state = .starting ∨ (s.chan (s.ctx n).chan).state = .running ∨
      (s.chan (s.ctx n).chan).state = .stopping
  · refine ⟨_, by rw [if_neg (by simpa using hzero), if_neg (by simpa using hfunc), if_neg hend, if_neg (by simpa using hauto),
      if_neg (by simpa only [Bool.not_eq_true', Bool.not_eq_false, Bool.or_eq_true, beq_iff_eq, or_assoc] using hlive)], ?_⟩
    rw [if_neg hzero, if_neg hfunc, if_neg hend, if_neg hauto, if_pos hlive]
    exact run_joins hd ..
  · obtain ⟨hstart, hrun, hstop⟩ : (s.chan (s.ctx n).chan).state ≠ .starting ∧ (s.chan (s.ctx n).chan).state ≠ .running ∧
      (s.chan (s.ctx n).chan).state ≠ .stopping := by simpa only [not_or] using hlive
    simp [hzero, hfunc, hend, hauto, hstart, hrun, hstop, answered]

/-- Settles O3: each clause from what the command does to the channel and from what answers its descriptor. -/
theorem spansRunAndComplete : Obligations.SpansRunAndComplete := by
  refine ⟨fun n s d h => run_starts h, fun ch s r rest h => ?_, fun ch s hs hw ht => ?_, fun n ch s => ⟨fun h => ?_, fun h => ?_, fun h => ?_⟩⟩
  · change ∃ t, execRunComplete ch s = _ ∧ _
    unfold execRunComplete
    simp only [h]
    by_cases hdone : r.endC ≤ (s.chan ch).seq.ckptNo ∧ (s.chan ch).spanDone s.now r = true
    · exact ⟨s.endRun ch 0 true, by simp [hdone], by rw [if_pos hdone]; exact endRun_first h⟩
    · exact ⟨s, if_neg (by simpa using hdone), by rw [if_neg hdone]⟩
  · obtain ⟨u, hctxs, hrun, hu⟩ := execPrickingStart_runs hs hw ht
    change ∃ t, execPrickingStart ch s = _ ∧ _
    cases hstarter : (s.chan ch).starter with
    | none => exact ⟨u, by rw [hu, hstarter], hrun, by simp⟩
    | some x =>
      refine ⟨_, by rw [hu, hstarter], by rw [finish_chan_state, chan_modChan_same]; exact hrun, fun n q d hx hd hq hp => ?_⟩
      obtain rfl := Option.some.inj hx
      rw [← hq]
      refine finish_answered ?_ hp _ _ _
      rwa [ctx_modChan, State.ctx, hctxs]
  · change execRun n s = _
    simp [execRun, h]
  · change execRunComplete ch s = _
    simp [execRunComplete, h]
  · change execPrickingStart ch s = _
    unfold execPrickingStart
    obtain h | h | h := h <;> simp [h]

end Sys2Proof.Proofs

/-! PROOF. O4: a channel that stops, and one that shuts down (R173, R177, R178). -/

namespace Sys2Proof.Laws

open Sys2Proof Sys2Proof.Machine

theorem finish_same {α : Type} {π : Chan → α} {ch : Nat} (hπ : ∀ c i l, π { c with da := { c.da with init := i }, retLost := l } = π c)
    (n q st i r : Nat) (s : State) : Same π ch s (s.finish n q st i r) :=
  .of_refills (finish_refills n q st i r s) hπ

theorem stopWaiting_same {α : Type} {π : Chan → α} {ch : Nat} (hπ : ∀ c i l, π { c with da := { c.da with init := i }, retLost := l } = π c)
    (st : Nat) (s : State) : Same π ch s (s.stopWaiting ch st) :=
  .of_refills (stopWaiting_refills ch st s) hπ

theorem endRun_same {α : Type} {π : Chan → α} (hruns : ∀ c l, π { c with runs := l } = π c)
    (hrefill : ∀ c i l, π { c with da := { c.da with init := i }, retLost := l } = π c) (k ch st : Nat) (b : Bool) (s : State) :
    Same π k s (s.endRun ch st b) := by
  unfold State.endRun
  extract_lets c
  split
  · exact .refl ..
  · next r rest _ =>
    have htaken : Same π k s (s.modChan ch fun c => { c with runs := rest }) := modChan_same s fun c => hruns c rest
    refine Same.trans ?_ (finish_same hrefill ..)
    exact .ite (htaken.trans (.of_chan (chan_modCtx ..))) htaken

/-! ## Steps 3 to 5 of a stop -/

/-- What the steps before a channel is STOPPED leave of it: the held start, the retirement that waits, and the cause (R173, R176). -/
def stopPart (c : Chan) : Option HeldStart × Bool × Nat := (c.held, c.retirePend, c.seq.stopCauseReq)

theorem endRun_stopPart (ch st : Nat) (b : Bool) (s : State) : Same stopPart ch s (s.endRun ch st b) :=
  endRun_same (fun _ _ => rfl) (fun _ _ _ => rfl) ..

theorem stopRuns_stopPart (ch n : Nat) (s : State) : Same stopPart ch s (State.stopRuns ch n s) := by
  induction n generalizing s with
  | zero => exact .refl ..
  | succ n ih =>
    unfold State.stopRuns
    extract_lets c
    split
    · exact .refl ..
    · refine Same.trans ?_ (ih _)
      exact .ite (endRun_stopPart ..) (.ite (endRun_stopPart ..) (endRun_stopPart ..))

theorem dropStarter_stopPart (ch : Nat) (s : State) : Same stopPart ch s (s.dropStarter ch) := by
  have hstarter : Same stopPart ch s (s.modChan ch fun c => { c with starter := none }) := modChan_same s fun _ => rfl
  unfold State.dropStarter
  split
  · exact hstarter.trans (finish_same (fun _ _ _ => rfl) ..)
  · exact .refl ..

/-- What a channel is once STOPPED: its state, function and cause, with the held start and the retirement that wait. -/
def stoppedPart (c : Chan) : ChState × Func × Nat × Option HeldStart × Bool := (c.state, c.func, c.stopCause, c.held, c.retirePend)

theorem endStops_stoppedPart (ch : Nat) (s : State) : Same stoppedPart ch s (s.endStops ch) := by
  have hstoppers : Same stoppedPart ch s (s.modChan ch fun c => { c with stoppers := [] }) := modChan_same s fun _ => rfl
  unfold State.endStops
  extract_lets l
  refine hstoppers.trans (Same.foldl (fun s x => ?_) _ _)
  exact finish_same (fun _ _ _ => rfl) ..

@[simp] theorem dropBad_stopCauseReq (q : Seq) : q.dropBad.stopCauseReq = q.stopCauseReq := by
  unfold Seq.dropBad
  split
  · rfl
  · rfl

/-- A channel with no start held and no retirement waiting ends STOPPED, without a function, with the cause asked for (R173). -/
theorem stopped_part {ch : Nat} {s : State} (hheld : (s.chan ch).held = none) (hretire : (s.chan ch).retirePend = false) :
    ((s.stopped ch).chan ch).state = .stopped ∧ ((s.stopped ch).chan ch).func = .idle ∧
      ((s.stopped ch).chan ch).stopCause = (s.chan ch).seq.stopCauseReq := by
  unfold State.stopped
  extract_lets s1 s2 s3 s4 s5
  have hpart : Same stopPart ch s s3 :=
    (stopRuns_stopPart ch _ s).trans <| (stopWaiting_same (fun _ _ _ => rfl) ..).trans <|
      (dropStarter_stopPart ch _).trans <| (endPanic_sourceOnly ch _).of_part stopPart fun _ => rfl
  have hend : stoppedPart (s5.chan ch) = (.stopped, .idle, (s.chan ch).seq.stopCauseReq, none, false) := by
    have hheld' : stopPart (s3.chan ch) = (none, false, (s.chan ch).seq.stopCauseReq) := Eq.trans hpart (by simp only [stopPart, hheld, hretire])
    simp only [stopPart, Prod.mk.injEq] at hheld'
    obtain ⟨hh, hr, hc⟩ := hheld'
    refine Eq.trans (endStops_stoppedPart ch s4) ?_
    rw [chan_modChan_same]
    simp [stoppedPart, hh, hr, hc]
  simp only [stoppedPart, Prod.mk.injEq] at hend
  obtain ⟨hstate, hfunc, hcause, hheld', hretire'⟩ := hend
  simp only [hretire', hheld', Bool.false_eq_true, if_false]
  exact ⟨hstate, hfunc, hcause⟩

end Sys2Proof.Laws

/-! PROOF. O4: what column commands leave of a channel while it stops, SHUT_DOWN and FUNC_STOP (R173, R177, R178). -/

namespace Sys2Proof.Laws

open Sys2Proof Sys2Proof.Machine

/-! ## Make-up while a channel stops -/

/-- What column commands leave of a channel, but for the reads they send. -/
def busyPart (c : Chan) : ChState × Func × List Flight := (c.state, c.func, c.flights)

theorem transfer_busyPart (k ch : Nat) (c : Codeword) (s : State) : Same busyPart k s (s.transfer ch c).2 := by
  unfold State.transfer
  extract_lets e
  split
  · exact .refl ..
  · exact .of_chan (chan_of_chans rfl k)

theorem writeCw_busyPart (k ch a : Nat) (c : Codeword) (s : State) : Same busyPart k s (s.writeCw ch a c) := by
  have hdown (s : State) (w : Codeword) : Same busyPart k s (s.countDown ch w) := modChan_same s fun _ => rfl
  have hcell (s : State) (w : Codeword) : Same busyPart k s (s.putCell ch a w) := .of_chan (chan_of_chans (putCell_chans ..) k)
  have hnote (s : State) : Same busyPart k s (s.modChan ch fun x => { x with ecc := x.ecc.noteWrite a c }) :=
    modChan_same s fun _ => rfl
  have hsent := transfer_busyPart k ch c s
  unfold State.writeCw
  generalize s.transfer ch c = x at hsent ⊢
  obtain ⟨w, u⟩ := x
  exact hsent.trans ((hdown u w).trans ((hcell _ w).trans (hnote _)))

theorem sent_busyPart (k ch : Nat) (r : CmdRec) (s : State) : Same busyPart k s (s.sent ch r) := modChan_same s fun _ => rfl

theorem writeGranule_busyPart (k ch t a : Nat) (cs : List Codeword) (s : State) : Same busyPart k s (s.writeGranule ch t a cs) := by
  have hreg (s : State) : Same busyPart k s (s.modChan ch fun c => { c with
      reg := { c.reg with lastWr := max c.reg.lastWr t }
      ecc := { c.ecc with rewrite := c.ecc.rewrite.filter fun r => r.gran / 4 != a / 4 } }) := modChan_same s fun _ => rfl
  have hcells (s : State) : Same busyPart k s (cs.zipIdx.foldl (fun s x => s.writeCw ch (a / 4 * 4 + x.2) x.1) s) :=
    by
      refine Same.foldl (fun s x => ?_) _ s
      exact writeCw_busyPart ..
  have hcount (s : State) : Same busyPart k s (s.count 0x016 (some ch) 1 fun q => bit q 1) := .of_chan (count_chan ..)
  unfold State.writeGranule
  extract_lets s1 s2
  exact (sent_busyPart ..).trans ((hreg s1).trans ((hcells s2).trans (hcount _)))

theorem modMerge_busyPart (ch id : Nat) (f : Merge → Merge) (s : State) : Same busyPart ch s (s.modMerge ch id f) :=
  modChan_same s fun _ => rfl

theorem mergeWrite_busyPart (ch t : Nat) (m : Merge) (s : State) : Same busyPart ch s (s.mergeWrite ch t m) := by
  have hunknown : Same busyPart ch s (s.modCap ch fun k => { k with unknowns := satAdd 0xFF k.unknowns 1 }) := modChan_same s fun _ => rfl
  have hwrite (s : State) (cs : List Codeword) : Same busyPart ch s
      ((s.writeGranule ch t m.addr cs).modMerge ch m.id fun m => { m with wrote := some t }) :=
    (writeGranule_busyPart ch ch t m.addr cs s).trans (modMerge_busyPart ..)
  unfold State.mergeWrite
  split
  · refine .ite (.refl ..) ?_
    extract_lets s1
    exact Same.trans (.ite hunknown (.refl ..)) (hwrite s1 _)
  · exact .refl ..

theorem srcIssue_busyPart (ch g id : Nat) (s : State) : Same busyPart ch s (s.srcIssue ch g id) := by
  have hgroup (f : SrcGroup → SrcGroup) : Same busyPart ch s (s.modSrcGroup ch g f) := modChan_same s fun _ => rfl
  have hsource {s t : State} (h : Same beyondSource ch s t) : Same busyPart ch s t := h.of_part busyPart fun _ => rfl
  unfold State.srcIssue
  extract_lets c gr
  split
  · next s1 _ =>
    refine (hgroup _).trans (b := s1) (hsource ?_)
    exact (dropGran_sourceOnly ch g id _).trans ((log_same ..).trans (srcPrep_sourceOnly ..))
  · exact hgroup _

/-- The state of the channel stays, and no read in flight leaves. -/
def Steady (ch : Nat) (s t : State) : Prop := (t.chan ch).state = (s.chan ch).state ∧ (s.chan ch).flights <+: (t.chan ch).flights

theorem Steady.refl (ch : Nat) (s : State) : Steady ch s s := ⟨rfl, List.prefix_rfl⟩

theorem Steady.trans {ch : Nat} {a b c : State} (h : Steady ch a b) (k : Steady ch b c) : Steady ch a c :=
  ⟨k.1.trans h.1, h.2.trans k.2⟩

theorem Steady.of_busyPart {ch : Nat} {s t : State} (h : Same busyPart ch s t) : Steady ch s t := by
  simp only [Same, busyPart, Prod.mk.injEq] at h
  obtain ⟨hstate, -, hflights⟩ := h
  exact ⟨hstate, by rw [hflights]⟩

theorem Steady.foldl {β : Type} {ch : Nat} {f : State → β → State} (hf : ∀ s x, Steady ch s (f s x)) (l : List β) (s : State) :
    Steady ch s (l.foldl f s) := by
  induction l generalizing s with
  | nil => exact .refl ..
  | cons x l ih => exact (hf s x).trans (ih _)

theorem fly_steady (ch addr issue : Nat) (r : Reader) (s : State) : Steady ch s (s.fly ch addr issue r) := by
  have hsent (r : CmdRec) : Steady ch s (s.sent ch r) := .of_busyPart (sent_busyPart ch ch r s)
  have hflight (s : State) (f : Flight) : Steady ch s (s.modChan ch fun c =>
      { c with flights := c.flights ++ [f], reg := { c.reg with lastRd := max c.reg.lastRd issue } }) := by
    rw [Steady, chan_modChan_same]
    exact ⟨rfl, List.prefix_append ..⟩
  exact (hsent _).trans (hflight _ _)

theorem opened_steady (ch t : Nat) (s : State) : Steady ch s (s.opened ch t) := .of_busyPart (modChan_same s fun _ => rfl)

theorem makeupOp_steady (ch t tw : Nat) (m : MakeUp) (s : State) : Steady ch s (s.makeupOp ch t tw m) := by
  have htaken : Steady ch s (s.modChan ch fun c => { c with refr := { c.refr with makeup := c.liveMakeup.erase m } }) :=
    .of_busyPart (modChan_same s fun _ => rfl)
  have hprune (s : State) : Steady ch s (s.modCap ch fun k => k.prune tw) := .of_busyPart (modChan_same s fun _ => rfl)
  unfold State.makeupOp
  extract_lets s1 s2
  refine (htaken.trans (.of_busyPart (.of_chan (count_chan ..)))).trans (b := s2) ?_
  split
  · split
    · exact (Steady.of_busyPart (mergeWrite_busyPart ..)).trans ((hprune _).trans (opened_steady ..))
    · exact .refl ..
  · extract_lets s3
    refine ((fly_steady ..).trans (opened_steady ..)).trans (b := s3) ?_
    split
    · exact .of_busyPart (srcIssue_busyPart ..)
    · exact .of_busyPart (modMerge_busyPart ..)
    · exact .refl ..
  · exact (Steady.of_busyPart (writeGranule_busyPart ..)).trans (opened_steady ..)

theorem serveMakeup_steady (ch n t : Nat) (s : State) : Steady ch s (State.serveMakeup ch n t s) := by
  induction n generalizing s t with
  | zero => exact .refl ..
  | succ n ih =>
    have hidle (s : State) : Steady ch s (s.modChan ch fun c => { c with da := { c.da with lastIdleOp := t } }) :=
      .of_busyPart (modChan_same s fun _ => rfl)
    unfold State.serveMakeup
    split
    · exact (makeupOp_steady ..).trans ((hidle _).trans (ih _ _))
    · exact .refl ..

theorem oweHalves_steady (ch : Nat) (s : State) : Steady ch s (s.oweHalves ch) := by
  refine Steady.foldl (fun s m => ?_) _ _
  have howed (s : State) (l : MakeUp) : Same busyPart ch s
      (s.modChan ch fun c => { c with refr := { c.refr with makeup := c.refr.makeup ++ [l] } }) := modChan_same s fun _ => rfl
  refine .of_busyPart ((modMerge_busyPart ..).trans (.ite (.refl ..) (howed ..)))

/-- A stopping channel that still has a read in flight goes on stopping (R173). -/
theorem execShutDown_waits {ch : Nat} {s : State} (hstate : (s.chan ch).state = .stopping) (hflights : (s.chan ch).flights ≠ []) :
    ∃ t, execShutDown ch s = .next t ∧ (t.chan ch).state = .stopping := by
  unfold execShutDown
  extract_lets c s1 c1 s2
  have hsteady : Steady ch s s2 := by
    refine (oweHalves_steady ch s).trans (b := s1) ?_
    change Steady ch s1 (if c1.reg.inSr then s1 else _)
    split
    · exact .refl ..
    · exact serveMakeup_steady ..
  obtain ⟨hsame, hprefix⟩ := hsteady
  have hundrained : (s2.chan ch).drained s2.now = false := by
    have hleft : (s2.chan ch).flights.isEmpty = false := by
      simpa using fun h : (s2.chan ch).flights = [] => hflights (List.prefix_nil.1 (h ▸ hprefix))
    simp [Chan.drained, hleft]
  split
  · exact ⟨s, rfl, hstate⟩
  · exact ⟨s2, by rw [hundrained]; rfl, hsame.trans hstate⟩

/-- A stopping channel that has nothing left to do is STOPPED, with its cause (R173). -/
theorem execShutDown_stops {ch : Nat} {s : State} (hstate : (s.chan ch).state = .stopping) (hstop : (s.chan ch).seq.stopAt.isSome)
    (hmakeup : (s.chan ch).refr.makeup = []) (hmerges : (s.chan ch).cap.merges = []) (hdrained : (s.chan ch).drained s.now = true) :
    execShutDown ch s = .next (s.stopped ch) := by
  have howed : s.oweHalves ch = s := by simp [State.oweHalves, hmerges]
  unfold execShutDown
  simp only [hstate, Option.isNone_eq_false_iff.2 hstop, howed, hmakeup, List.length_nil, State.serveMakeup, ite_self, hdrained]
  rfl

/-- A FUNC_STOP that waits for the shut-down of its channel (R173). -/
def stopWaits (ch n q : Nat) (s : State) : State :=
  (s.modChan ch fun c => { c with stoppers := c.stoppers ++ [(n, q)] }).modDesc n q fun d => { d with phase := .started }

@[simp] theorem stopWaits_chan (ch n q : Nat) (s : State) : (stopWaits ch n q s).chan ch =
    { s.chan ch with stoppers := (s.chan ch).stoppers ++ [(n, q)] } := by
  rw [stopWaits, State.modDesc, chan_modCtx, chan_modChan_same]

theorem stopWaits_begun {n : Nat} {s : State} {d : Desc} (ch : Nat) (hd : d ∈ (s.ctx n).acc) : Begun n d.seq (stopWaits ch n d.seq s) :=
  modDesc_begun hd _ rfl rfl

/-- What a FUNC_STOP that waits asks to stay of its channel. -/
def stoppingPart (c : Chan) : ChState × List (Nat × Nat) := (c.state, c.stoppers)

/-- A FUNC_STOP supersedes the start that is held, and leaves the rest of the channel (R177). -/
theorem supersede_same {α : Type} {π : Chan → α} (hheld : ∀ c, π { c with held := none } = π c)
    (hrefill : ∀ c i l, π { c with da := { c.da with init := i }, retLost := l } = π c) (ch : Nat) (s : State) :
    Same π ch s (s.supersede ch) := by
  have hdropped : Same π ch s (s.modChan ch fun c => { c with held := none }) := modChan_same s hheld
  unfold State.supersede
  split
  · exact hdropped.trans (finish_same hrefill ..)
  · exact .refl ..

/-- A running channel that is told to stop is STOPPING (R173). -/
theorem stopRunning_state {ch : Nat} {s : State} (atEnd : Bool) (h : (s.chan ch).state = .running) :
    ((s.stopRunning ch atEnd).chan ch).state = .stopping := by
  have hasked : ((s.requestStop ch 1).chan ch).state = .stopping := by simp [State.requestStop, chan_modChan_same, h]
  have hend (b : Nat) : (((s.requestStop ch 1).modChan ch fun c => { c with stopRunEnd := true, stopB := b }).chan ch).state = .stopping := by
    rw [chan_modChan_same]
    exact hasked
  unfold State.stopRunning
  extract_lets c s1
  split
  · split
    · exact hend _
    · exact hasked
  · exact hasked

@[simp] theorem stopRunning_ctxs (ch : Nat) (atEnd : Bool) (s : State) : (s.stopRunning ch atEnd).ctxs = s.ctxs := by
  unfold State.stopRunning
  extract_lets c s1
  split
  · split <;> rfl
  · rfl

/-- A function that has not started stops at once, unless a start is held or a retirement waits (R178). -/
theorem stopStarting_state {ch : Nat} {s : State} (cause : Nat) (hheld : (s.chan ch).held = none)
    (hretire : (s.chan ch).retirePend = false) : ((s.stopStarting ch cause).chan ch).state = .stopped :=
  (stopped_part (by rw [chan_modChan_same]; exact hheld) (by rw [chan_modChan_same]; exact hretire)).1

end Sys2Proof.Laws

namespace Sys2Proof.Proofs

open Sys2Proof Sys2Proof.Machine Sys2Proof.Laws

/-- A FUNC_STOP is refused, stops a channel, or waits for one that stops (R170, R177, R178). -/
theorem funcStop_stops {n : Nat} {s : State} {d : Desc} (h : s.startable n 0x42 = some d) :
    ∃ t, exec (.funcStop n) s = .next t ∧
    let ch := d.u32 0x10 % 128
    let c := s.chan ch
    if bits (d.u32 0x10) 7 7 ≠ 0 ∨ d.u32 0x10 / 1024 ≠ 0 ∨ 2 ≤ bits (d.u32 0x10) 9 8 ∨ d.zero 0x14 0x40 = false ∨ s.members ≤ ch then
      Answered n d.seq 0x0012 t
    else (c.state = .running → (t.chan ch).state = .stopping ∧ Begun n d.seq t) ∧
      (c.state = .stopping → (t.chan ch).state = .stopping ∧ (n, d.seq) ∈ (t.chan ch).stoppers) ∧
      (c.state = .stopped → Answered n d.seq 0 t) ∧ (c.state = .idle ∨ c.state = .retired → Answered n d.seq 0x0015 t) ∧
      (c.state = .starting → c.held = none → c.retirePend = false → (t.chan ch).state = .stopped) := by
  obtain ⟨hd, hp, -⟩ := startable_spec h
  have answered (st : Nat) : Answered n d.seq st (s.finish n d.seq st) := finish_answered hd (by simp [hp]) _ _ _
  dsimp only
  change ∃ t, execFuncStop n s = _ ∧ _
  unfold execFuncStop
  simp only [h]
  generalize hch : d.u32 0x10 % 128 = ch
  by_cases hbad : bits (d.u32 0x10) 7 7 ≠ 0 ∨ d.u32 0x10 / 1024 ≠ 0 ∨ 2 ≤ bits (d.u32 0x10) 9 8 ∨ d.zero 0x14 0x40 = false ∨ s.members ≤ ch
  · refine ⟨_, if_pos (by simpa [or_assoc] using hbad), ?_⟩
    rw [if_pos hbad]
    exact answered _
  · rw [if_neg (by simpa [or_assoc] using hbad)]
    simp only [if_neg hbad]
    cases hstate : (s.chan ch).state with
    | idle => exact ⟨_, rfl, by simp [answered]⟩
    | retired => exact ⟨_, rfl, by simp [answered]⟩
    | stopped => exact ⟨_, rfl, by simp [answered]⟩
    | stopping =>
      have hwait : stoppingPart ((stopWaits ch n d.seq s).supersede ch |>.chan ch) = _ :=
        supersede_same (π := stoppingPart) (fun _ => rfl) (fun _ _ _ => rfl) ch (stopWaits ch n d.seq s)
      simp only [stoppingPart, stopWaits_chan, Prod.mk.injEq] at hwait
      obtain ⟨hst, hwaits⟩ := hwait
      refine ⟨(stopWaits ch n d.seq s).supersede ch, rfl, by simp, fun _ => ⟨hst.trans hstate, by simp [hwaits]⟩, by simp, by simp, by simp⟩
    | starting =>
      refine ⟨_, rfl, by simp, by simp, by simp, by simp, fun _ hheld hretire => ?_⟩
      rw [finish_chan_state]
      exact stopStarting_state 1 hheld hretire
    | running =>
      have hrun : ((stopWaits ch n d.seq s).chan ch).state = .running := by rw [stopWaits_chan]; exact hstate
      refine ⟨(stopWaits ch n d.seq s).stopRunning ch (bit (d.u32 0x10) 8), rfl, fun _ => ⟨stopRunning_state _ hrun, ?_⟩, by simp, by simp,
        by simp, by simp⟩
      have hbegun := stopWaits_begun ch hd
      rwa [Begun, State.ctx, ← stopRunning_ctxs ch (bit (d.u32 0x10) 8)] at hbegun

end Sys2Proof.Proofs

/-! PROOF. O4: what the checker reads of the block (R48), and FUNC_START (R170). -/

namespace Sys2Proof.Laws

open Sys2Proof Sys2Proof.Machine

/-! ## The inputs of the checker -/

/-- What the checker reads of one channel. -/
def envPart (c : Chan) : ChState × Func × Nat × Bool × Nat := (c.state, c.func, c.priv, c.substEn, c.substTo)

/-- The section that a channel has bound (R88). -/
def boundSect (c : Chan) : Option Section := if c.live then c.seq.sect else none

/-- The inputs of the checker stay where each channel's part, the sections bound, the bands and the lane switch stay. -/
theorem checkEnv_congr {s t : State} (hmembers : t.members = s.members) (hlanes : t.lanes = s.lanes) (hthm : t.thm = s.thm)
    (hbound : t.chans.filterMap (fun x => boundSect x.2) = s.chans.filterMap fun x => boundSect x.2)
    (hpart : ∀ k, Same envPart k s t) : t.checkEnv = s.checkEnv := by
  simp only [Same, envPart, Prod.mk.injEq, forall_and] at hpart
  obtain ⟨hstate, hfunc, hpriv, hen, hto⟩ := hpart
  have howner : t.laneOwner = s.laneOwner := funext fun b => by simp only [State.laneOwner, hen, hto]
  have hgroup : t.group = s.group := by unfold State.group; rw [hlanes]
  have huse : t.laneInUse = s.laneInUse := by
    unfold State.laneInUse Chan.live
    simp only [hgroup, howner, hstate]
  simp only [boundSect] at hbound
  simp only [State.checkEnv, State.placedLanes, hmembers, hlanes, hthm, hbound, hstate, hfunc, hpriv, howner, hgroup, huse]

theorem recheck_congr {s t : State} (h : t.checkEnv = s.checkEnv) (x : Section) : t.recheck x = s.recheck x := by
  simp only [State.recheck, h]

theorem get_of_find? {α : Type} (d : α) {m : List (Nat × α)} {k : Nat} {v : α} (h : Sparse.find? m k = some v) : Sparse.get d m k = v := by
  induction m with
  | nil => cases h
  | cons x m ih =>
    unfold Sparse.find? at h
    unfold Sparse.get
    split at h
    · next e => rw [if_pos e, Option.some.inj h]
    · next e => rw [if_neg e, ih h]

/-- An entry that counts for nothing, in place of one that does so too, changes nothing of what is collected. -/
theorem filterMap_insert {α β : Type} {g : α → Option β} {k : Nat} {v : α} (hv : g v = none) (m : List (Nat × α))
    (hk : ∀ w, Sparse.find? m k = some w → g w = none) :
    (Sparse.insert m k v).filterMap (fun x => g x.2) = m.filterMap fun x => g x.2 := by
  induction m with
  | nil => simp [Sparse.insert, hv]
  | cons x m ih =>
    unfold Sparse.insert
    split
    · simp [hv]
    · split
      · next h => simp [hv, hk x.2 (by simp [Sparse.find?, h])]
      · next h =>
        have hrest := ih fun w hw => hk w (by simpa [Sparse.find?, h] using hw)
        simp only [List.filterMap_cons, hrest]

/-- A channel without a bound section, before and after a change of it, adds none. -/
theorem modChan_boundSect {ch : Nat} {f : Chan → Chan} {s : State} (hs : (s.chan ch).state = .stopped)
    (hf : (f (s.chan ch)).state = .stopped) :
    (s.modChan ch f).chans.filterMap (fun x => boundSect x.2) = s.chans.filterMap fun x => boundSect x.2 := by
  have hnone {c : Chan} (h : c.state = .stopped) : boundSect c = none := by simp [boundSect, Chan.live, h]
  have hput : (s.modChan ch f).chans = Sparse.insert s.chans ch (f (s.chan ch)) := by
    refine if_neg fun h : f (s.chan ch) = {} => ?_
    rw [h] at hf
    cases hf
  rw [hput]
  refine filterMap_insert (hnone hf) _ fun w hw => hnone ?_
  rwa [State.chan, get_of_find? _ hw] at hs

/-! ## A checkpoint record that does not match (R304) -/

/-- A change that a halt of the FUNCTION context may follow: what it does to the channels, its own parts, and the descriptors. -/
theorem halt_leaves (n c : Nat) (s : State) : (s.halt n c).chans = s.chans ∧ (s.halt n c).members = s.members ∧
    (s.halt n c).lanes = s.lanes ∧ (s.halt n c).thm = s.thm ∧ ∀ k, ((s.halt n c).ctx k).acc = (s.ctx k).acc := by
  unfold State.halt
  extract_lets ci
  refine ⟨log_chans .., log_members .., log_lanes .., log_thm .., fun k => ?_⟩
  rw [log_ctx, ctx_modCtx]
  split
  · next e => rw [e]
  · rfl

/-- Dropping a checkpoint record is a change of the sequencer's records, and perhaps a halt (R304). -/
theorem badCheckpoint_leaves (ch : Nat) (s : State) : ∃ l : Chan → List (Nat × Ckpt),
    let u := s.modChan ch fun c => { c with seq := { c.seq with ckpts := l c } }
    (s.badCheckpoint ch).chans = u.chans ∧ (s.badCheckpoint ch).members = s.members ∧ (s.badCheckpoint ch).lanes = s.lanes ∧
      (s.badCheckpoint ch).thm = s.thm ∧ ∀ k, ((s.badCheckpoint ch).ctx k).acc = (s.ctx k).acc := by
  refine ⟨fun c => Sparse.erase c.seq.ckpts (s.runCkptOf ch), ?_⟩
  unfold State.badCheckpoint
  extract_lets u
  split
  · exact halt_leaves _ _ u
  · exact ⟨rfl, rfl, rfl, rfl, fun _ => rfl⟩

theorem badCheckpoint_same {α : Type} {π : Chan → α} (hπ : ∀ c l, π { c with seq := { c.seq with ckpts := l } } = π c) (k ch : Nat) (s : State) :
    Same π k s (s.badCheckpoint ch) := by
  obtain ⟨l, hchans, -⟩ := badCheckpoint_leaves ch s
  exact (modChan_same s fun c => hπ c (l c)).trans (.of_chan (chan_of_chans hchans k))

/-- The checker reads nothing of the checkpoint records. -/
theorem badCheckpoint_checkEnv {ch : Nat} {s : State} (hs : (s.chan ch).state = .stopped) : (s.badCheckpoint ch).checkEnv = s.checkEnv := by
  obtain ⟨l, hchans, hmembers, hlanes, hthm, -⟩ := badCheckpoint_leaves ch s
  exact checkEnv_congr hmembers hlanes hthm (hchans ▸ modChan_boundSect hs hs) fun k => badCheckpoint_same (fun _ _ => rfl) k ch s

@[simp] theorem badCheckpoint_acc (ch n : Nat) (s : State) : ((s.badCheckpoint ch).ctx n).acc = (s.ctx n).acc := by
  obtain ⟨l, -, -, -, -, hacc⟩ := badCheckpoint_leaves ch s
  exact hacc n

/-! ## Binding a section (R130) -/

/-- The state of a channel and its function. -/
def bindPart (c : Chan) : ChState × Func := (c.state, c.func)

theorem takeTs_bindPart (k ch t : Nat) (s : State) : Same bindPart k s (s.takeTs ch t) := by
  have htaken : Same bindPart k s (s.modChan ch fun c => { c with waitGroup := false, seq := { c.seq with ts := t, slotCk := t } }) :=
    modChan_same s fun _ => rfl
  unfold State.takeTs
  extract_lets s1 owns
  exact htaken.trans (.of_chan (chan_of_chans rfl k))

theorem endRuns_same {α : Type} {π : Chan → α} (hruns : ∀ c l, π { c with runs := l } = π c)
    (hrefill : ∀ c i l, π { c with da := { c.da with init := i }, retLost := l } = π c) (k ch st n : Nat) (b : Bool) (s : State) :
    Same π k s (State.endRuns ch st b n s) := by
  induction n generalizing b s with
  | zero => exact .refl ..
  | succ n ih => exact .ite (.refl ..) ((endRun_same hruns hrefill ..).trans (ih ..))

theorem freshCkpt_same {α : Type} {π : Chan → α} (k ch : Nat) (s : State) : Same π k s (s.freshCkpt ch) := by
  unfold State.freshCkpt
  split
  · exact .of_chan (chan_modCtx ..)
  · exact .refl ..

/-- Binding a section makes its channel STARTING with its function, and no other channel anything else (R130). -/
theorem bindSection_bindPart (k : Nat) (x : Section) (g : Nat) (b : Bool) (s : State) :
    bindPart ((s.bindSection x g b).chan k) = if k = x.chan then (.starting, x.func) else bindPart (s.chan k) := by
  unfold State.bindSection
  extract_lets ch n resume s1 m tier s2 s3
  have hold : Same bindPart k s s1 := by
    refine .ite (.refl ..) (Same.trans ?_ (freshCkpt_same ..))
    exact endRuns_same (fun _ _ => rfl) (fun _ _ _ => rfl) ..
  have hbound : bindPart (s2.chan k) = if k = x.chan then (.starting, x.func) else bindPart (s1.chan k) := by
    rw [chan_modChan]
    split
    · rfl
    · rfl
  have hlow : Same bindPart k s2 s3 := .ite (log_same ..) (.refl ..)
  have htime : Same bindPart k s3 (if g = 0 then s3.takeTs ch (s3.localOf (picotAt (s3.gt + 131072)))
      else match s3.tableTs g with
        | some t => s3.takeTs ch t
        | none => s3) := by
    refine .ite (takeTs_bindPart ..) ?_
    split
    · exact takeTs_bindPart ..
    · exact .refl ..
  exact (Eq.trans htime (Eq.trans hlow hbound)).trans (by rw [show bindPart (s1.chan k) = bindPart (s.chan k) from hold])

/-! ## FUNC_START (R170) -/

theorem startPlaced_none {ch n q g : Nat} {b : Bool} {s : State} (h : (s.chan ch).seq.sect = none) :
    s.startPlaced ch n q g b = s.finish n q 0x0015 := by
  unfold State.startPlaced
  rw [h]

/-- The checker refuses the section placed on the channel (R170). -/
theorem startPlaced_refused {ch n q g : Nat} {b : Bool} {s : State} {x : Section} {v : Verdict} (h : (s.chan ch).seq.sect = some x)
    (hv : s.recheck x = .error v) : s.startPlaced ch n q g b = s.finish n q 1 0 v.word := by
  unfold State.startPlaced
  simp only [h, hv]

/-- The checker admits the section placed on the channel, which starts (R170, R175). -/
theorem startPlaced_admitted {n q g : Nat} {b : Bool} {s : State} {x : Section} (h : (s.chan x.chan).seq.sect = some x)
    (hv : s.recheck x = .ok ()) : let c := (s.startPlaced x.chan n q g b).chan x.chan
    c.state = .starting ∧ c.func = x.func ∧ c.starter = some (n, q) := by
  have hbound := bindSection_bindPart x.chan x g b s
  rw [if_pos rfl, bindPart, Prod.mk.injEq] at hbound
  obtain ⟨hstate, hfunc⟩ := hbound
  unfold State.startPlaced
  simp only [h, hv, State.modDesc, chan_modCtx, chan_modChan_same]
  exact ⟨hstate, hfunc, trivial⟩

end Sys2Proof.Laws

namespace Sys2Proof.Proofs

open Sys2Proof Sys2Proof.Machine Sys2Proof.Laws

/-- A FUNC_START of a section placed on a STOPPED channel, whose checkpoint record may not match (R170, R304). -/
theorem placed_starts {n : Nat} {s u : State} {d : Desc} {ch g : Nat} {r : Bool} (hd : d ∈ (u.ctx n).acc) (hp : d.phase = .waiting)
    (hsect : (u.chan ch).seq.sect = (s.chan ch).seq.sect) (henv : u.checkEnv = s.checkEnv) : let t := u.startPlaced ch n d.seq g r
    ((s.chan ch).seq.sect = none → Answered n d.seq 0x0015 t) ∧
      (∀ x, (s.chan ch).seq.sect = some x → x.chan = ch →
        (s.recheck x = .ok () → (t.chan ch).state = .starting ∧ (t.chan ch).func = x.func ∧ (t.chan ch).starter = some (n, d.seq)) ∧
        (∀ v, s.recheck x = .error v → Answered n d.seq 1 t)) := by
  have answered (st r : Nat) : Answered n d.seq st (u.finish n d.seq st 0 r) := finish_answered hd (by simp [hp]) _ _ _
  refine ⟨fun h => ?_, fun x hx hch => ⟨fun hok => ?_, fun v hv => ?_⟩⟩
  · rw [startPlaced_none (hsect.trans h)]
    exact answered _ _
  · subst hch
    exact startPlaced_admitted (hsect.trans hx) ((recheck_congr henv x).trans hok)
  · rw [startPlaced_refused (hsect.trans hx) ((recheck_congr henv x).trans hv)]
    exact answered _ _

/-- A FUNC_START is refused, or starts the section placed on a STOPPED channel (R170, R175). -/
theorem funcStart_starts {n : Nat} {b : Bool} {s : State} {d : Desc} (h : s.startable n 0x41 = some d) :
    ∃ t, exec (.funcStart n b) s = .next t ∧
    let ch := d.u32 0x10 % 128
    let c := s.chan ch
    if bits (d.u32 0x10) 7 7 ≠ 0 ∨ d.u32 0x10 / 512 ≠ 0 ∨ 2 ^ 16 ≤ d.u32 0x14 ∨ d.zero 0x18 0x40 = false ∨ s.members ≤ ch then
      Answered n d.seq 0x0012 t
    else if c.state = .stopped then
      (c.seq.sect = none → Answered n d.seq 0x0015 t) ∧
      (∀ x, c.seq.sect = some x → x.chan = ch →
        (s.recheck x = .ok () → (t.chan ch).state = .starting ∧ (t.chan ch).func = x.func ∧ (t.chan ch).starter = some (n, d.seq)) ∧
        (∀ v, s.recheck x = .error v → Answered n d.seq 1 t))
    else c.state = .idle ∨ c.state = .retired → Answered n d.seq 0x0015 t := by
  obtain ⟨hd, hp, -⟩ := startable_spec h
  have answered (st : Nat) : Answered n d.seq st (s.finish n d.seq st) := finish_answered hd (by simp [hp]) _ _ _
  dsimp only
  change ∃ t, execFuncStart n b s = _ ∧ _
  unfold execFuncStart
  simp only [h]
  generalize d.u32 0x10 % 128 = ch
  by_cases hbad : bits (d.u32 0x10) 7 7 ≠ 0 ∨ d.u32 0x10 / 512 ≠ 0 ∨ 2 ^ 16 ≤ d.u32 0x14 ∨ d.zero 0x18 0x40 = false ∨ s.members ≤ ch
  · refine ⟨_, if_pos (by simpa [or_assoc] using hbad), ?_⟩
    rw [if_pos hbad]
    exact answered _
  rw [if_neg (by simpa [or_assoc] using hbad)]
  simp only [if_neg hbad]
  cases hstate : (s.chan ch).state with
  | idle => exact ⟨_, rfl, by simp [answered]⟩
  | retired => exact ⟨_, rfl, by simp [answered]⟩
  | stopped =>
    refine ⟨_, rfl, ?_⟩
    rw [if_pos rfl]
    split
    · exact placed_starts (by rwa [badCheckpoint_acc]) hp (badCheckpoint_same (π := fun c => c.seq.sect) (fun _ _ => rfl) ch ch s)
        (badCheckpoint_checkEnv hstate)
    · exact placed_starts hd hp rfl rfl
  | starting =>
    simp only [reduceCtorEq, or_self, false_implies, if_false, and_true]
    split
    · exact ⟨_, rfl⟩
    · exact ⟨_, rfl⟩
  | stopping =>
    simp only [reduceCtorEq, or_self, false_implies, if_false, and_true]
    cases (s.chan ch).held.isSome with
    | true => exact ⟨_, rfl⟩
    | false => exact ⟨_, rfl⟩
  | running => exact ⟨_, rfl, by simp⟩

end Sys2Proof.Proofs

/-! PROOF. O4: the second read of an image places and binds its sections (R130). -/

namespace Sys2Proof.Laws

open Sys2Proof Sys2Proof.Machine

/-- Reading an image leaves the channels, contexts, lane groups and thermal state (R129). -/
theorem readImage_leaves (d : Desc) (f : Fetch) (s : State) : (s.readImage d f).members = s.members ∧ (s.readImage d f).chans = s.chans ∧
    (s.readImage d f).ctxs = s.ctxs ∧ (s.readImage d f).lanes = s.lanes ∧ (s.readImage d f).thm = s.thm := by
  have h := readImage_writes d f s (Only.refl { flt := true, cnt := true, tor := true, out := true } s) rfl rfl rfl rfl
  exact ⟨by simpa using h.members, by simpa using h.chans, by simpa using h.ctxs, by simpa using h.lanes, by simpa using h.thm⟩

/-- The checker reads nothing that reading an image changes. -/
theorem checkEnv_of_chans {s t : State} (hmembers : t.members = s.members) (hchans : t.chans = s.chans) (hlanes : t.lanes = s.lanes)
    (hthm : t.thm = s.thm) : t.checkEnv = s.checkEnv :=
  checkEnv_congr hmembers hlanes hthm (by rw [hchans]) fun k => .of_chan (chan_of_chans hchans k)

theorem readImage_checkEnv (d : Desc) (f : Fetch) (s : State) : (s.readImage d f).checkEnv = s.checkEnv := by
  obtain ⟨hmembers, hchans, -, hlanes, hthm⟩ := readImage_leaves d f s
  exact checkEnv_of_chans hmembers hchans hlanes hthm

/-! ## Placing and binding -/

theorem placeSection_bindPart (k : Nat) (x : Section) (s : State) : Same bindPart k s (s.placeSection x) := by
  have hstaged : Same busyPart k s (s.stageSection x) := by
    refine Same.foldl (fun s m => ?_) _ _
    refine Same.foldl (fun s g => ?_) _ _
    exact writeGranule_busyPart ..
  exact (hstaged.of_part (fun p => (p.1, p.2.1)) fun _ => rfl).trans (modChan_same _ fun _ => rfl)

theorem placeSections_thm (l : List Section) (s : State) : (l.foldl (fun s x => s.placeSection x) s).thm = s.thm := by
  induction l generalizing s with
  | nil => rfl
  | cons x l ih =>
    have h := placeSection_writes x s (Only.refl { freeNo := true, chans := true, dram := true, flt := true, cnt := true } s)
      rfl rfl rfl rfl rfl
    exact (ih _).trans (by simpa using h.thm)

/-- The test before binding reads the bands, the states and the functions of channels (R130 step 5). -/
theorem retest_congr {s t : State} (hthm : t.thm = s.thm) (h : ∀ k, Same bindPart k s t) (x : Section) :
    t.checkEnv.retest x = s.checkEnv.retest x := by
  simp only [Same, bindPart, Prod.mk.injEq, forall_and] at h
  obtain ⟨hstate, hfunc⟩ := h
  have hband : t.checkEnv.band = s.checkEnv.band := by simp only [State.checkEnv, hthm]
  have hretired : t.checkEnv.retired = s.checkEnv.retired := by simp only [State.checkEnv, hfunc]
  have hfree : t.checkEnv.chanFree = s.checkEnv.chanFree := by simp only [State.checkEnv, hstate]
  rw [CheckEnv.retest, CheckEnv.retest, hband, hretired, hfree]

/-- The channels of the sections bound are STARTING, and a channel that is stays so (R130). -/
theorem bindSections_starting (g : Nat) (b : Bool) (l : List Section) (s : State) (k : Nat)
    (h : (s.chan k).state = .starting ∨ ∃ x ∈ l, x.chan = k) :
    ((l.foldl (fun s x => s.bindSection x g b) s).chan k).state = .starting := by
  induction l generalizing s with
  | nil => simpa using h
  | cons x l ih =>
    refine ih _ ?_
    have hbound := bindSection_bindPart k x g b s
    by_cases hk : k = x.chan
    · rw [if_pos hk, bindPart, Prod.mk.injEq] at hbound
      exact .inl hbound.1
    · rw [if_neg hk, bindPart, bindPart, Prod.mk.injEq] at hbound
      refine h.imp hbound.1.trans ?_
      rintro ⟨y, hy, hyk⟩
      obtain rfl | hy := List.mem_cons.1 hy
      · exact absurd hyk.symm hk
      · exact ⟨y, hy, hyk⟩

theorem bindImage_starting {img : Image} (b : Bool) (s : State) {x : Section} (hx : x ∈ img.chans) :
    ((s.bindImage img b).chan x.chan).state = .starting :=
  bindSections_starting _ _ _ _ _ (.inr ⟨x, hx, rfl⟩)

/-- A second read that agrees with the first places and binds the image (R130). -/
theorem placeLoad_starts {n : Nat} {d : Desc} {b : List Byte} {k : List Nat} {s : State} {img : Image}
    (hparse : parseImage s.checkEnv.open_ d.staged (d.u32 0x18) = .ok img) (hsame : secondBad b img.entries = none)
    (htest : ∀ y ∈ img.chans, s.checkEnv.retest y = none) {x : Section} (hx : x ∈ img.chans) :
    ((s.placeLoad n d (some b) k).chan x.chan).state = .starting := by
  have hretest : img.chans.findSome? (img.chans.foldl (fun s x => s.placeSection x) s).checkEnv.retest = none := by
    refine List.findSome?_eq_none_iff.2 fun y hy => (retest_congr (placeSections_thm ..) (fun k => ?_) y).trans (htest y hy)
    exact Same.foldl (fun s x => placeSection_bindPart k x s) _ _
  unfold State.placeLoad
  simp only [hparse, Option.isNone_some, Bool.false_eq_true, if_false, Option.getD_some, hsame, hretest]
  rw [State.finLoad, finish_chan_state]
  exact bindImage_starting _ _ hx

end Sys2Proof.Laws

namespace Sys2Proof.Proofs

open Sys2Proof Sys2Proof.Machine Sys2Proof.Laws

/-- The second read of an image, alike, leaves every channel section STARTING (R130). -/
theorem secondRead_starts {n : Nat} {f : Fetch} {x : Bool} {k : List Nat} {s : State} {d : Desc} {img : Image} {b : List Byte}
    (h : s.startedOp n 0x40 = some d) (hup : s.hostUp = true) (hparse : parseImage s.checkEnv.open_ d.staged (d.u32 0x18) = .ok img)
    (hf : fetchData f = some b) (hsame : secondBad b img.entries = none) (htest : ∀ y ∈ img.chans, s.checkEnv.retest y = none) :
    ∃ t, exec (.loadPricking n f x k) s = .next t ∧ ∀ y ∈ img.chans, (t.chan y.chan).state = .starting := by
  refine ⟨(s.readImage d f).placeLoad n d (some b) k, ?_, fun y hy => ?_⟩
  · change execLoadPricking n f x k s = _
    simp only [execLoadPricking, h, hup, hf, if_true]
  · have henv := readImage_checkEnv d f s
    exact placeLoad_starts (henv ▸ hparse) hsame (henv ▸ htest) hy

end Sys2Proof.Proofs

/-! PROOF. What the fault log keeps while descriptors complete (R153 to R156, R464, R469): an entry stays, or an occurrence is lost. -/

namespace Sys2Proof.Laws

open Sys2Proof Sys2Proof.Machine

/-- A fault log in its form keeps it; the count of lost occurrences does not go back; and an entry of a cause stays, unless the
count of lost ones rises, as far as it counts (R464, R469). -/
structure LogGrows (s t : State) : Prop where
  grows : logOk s.flt.log → logOk t.flt.log ∧ (s.flt.lost ≤ t.flt.lost ∨ 0x3FF ≤ t.flt.lost) ∧
    ∀ b c i, Holds b c i s.flt → Holds b c i t.flt ∨ s.flt.lost < t.flt.lost ∨ 0x3FF ≤ t.flt.lost

theorem LogGrows.of_flt {s t : State} (h : t.flt = s.flt) : LogGrows s t := by
  refine ⟨fun hs => ?_⟩
  rw [h]
  exact ⟨hs, .inl (Nat.le_refl _), fun _ _ _ => .inl⟩

theorem LogGrows.refl (s : State) : LogGrows s s := .of_flt rfl

theorem LogGrows.trans {a b c : State} (h : LogGrows a b) (k : LogGrows b c) : LogGrows a c := by
  refine ⟨fun hs => ?_⟩
  obtain ⟨hb, hlost, hholds⟩ := h.grows hs
  obtain ⟨hc, klost, kholds⟩ := k.grows hb
  refine ⟨hc, by omega, fun x y z hold => ?_⟩
  rcases hholds x y z hold with hb | hb
  · rcases kholds x y z hb with hc | hc
    · exact .inl hc
    · exact .inr (by omega)
  · exact .inr (by omega)

theorem LogGrows.from_flt {s u t : State} (k : LogGrows u t) (h : u.flt = s.flt) : LogGrows s t := (LogGrows.of_flt h).trans k

theorem LogGrows.ite {a s t : State} {p : Prop} [Decidable p] (h : LogGrows a s) (k : LogGrows a t) : LogGrows a (if p then s else t) := by
  split
  · exact h
  · exact k

theorem LogGrows.foldl {α : Type} {f : State → α → State} (hf : ∀ s x, LogGrows s (f s x)) (l : List α) (s : State) :
    LogGrows s (l.foldl f s) := by
  induction l generalizing s with
  | nil => exact .refl _
  | cons x l ih => exact (hf s x).trans (ih _)

/-- An occurrence between two stretches in which the log grows is logged over the whole. -/
theorem LogGrows.logged {c : Cause} {i : Nat} {s u v t : State} (hs : logOk s.flt.log) (h : LogGrows s u) (hput : Put c i u v)
    (hv : logOk v.flt.log) (k : LogGrows v t) : Logged c i s t := by
  obtain ⟨-, hlost, -⟩ := h.grows hs
  obtain ⟨-, klost, kholds⟩ := k.grows hv
  obtain ⟨hlogged, hput⟩ := hput
  rcases hlogged with hold | hmore
  · rcases kholds _ _ _ hold with hold | hmore
    · exact .inl hold
    · exact .inr (by omega)
  · exact .inr (by omega)

/-! ## Counting, and the end of a condition -/

theorem logRaw_grows (o : Occurrence) (s : State) : LogGrows s (s.logRaw o) := by
  refine ⟨fun hs => ?_⟩
  have hrise := (sorted_none _).1 hs.1
  exact ⟨enter_ok _ _ hs, (enter_mono s.flt hrise _ 0 0 0).2, fun b c i => (enter_mono s.flt hrise _ b c i).1⟩

theorem logOverflows_grows (n : Nat) (s : State) : LogGrows s (State.logOverflows n s) := by
  induction n generalizing s with
  | zero => exact .refl s
  | succ n ih => exact (logRaw_grows _ s).trans (ih _)

theorem count_grows (ev : Nat) (bob : Option Nat) (w : Nat) (s : State) (q : Nat → Bool) : LogGrows s (s.count ev bob w q) := by
  unfold State.count
  extract_lets dead r
  refine .ite (.refl s) (LogGrows.trans ?_ (logOverflows_grows _ _))
  exact .of_flt rfl

theorem condEnd_grows (blk code inst : Nat) (s : State) : LogGrows s (s.condEnd blk code inst) := by
  refine ⟨fun hs => ⟨logOk_map _ (fun e => by split <;> rfl) hs, .inl (Nat.le_refl _), fun b c i ⟨e, he, hcause⟩ =>
    .inl ⟨_, List.mem_map.2 ⟨e, he, rfl⟩, ?_⟩⟩⟩
  split
  · exact hcause
  · exact hcause

/-! ## Packets and host memory (R395, R397, R414) -/

theorem launch_grows (p : Nat) (ws : List (BitVec 64)) (s : State) : LogGrows s (s.launch p ws) := by
  unfold State.launch
  extract_lets q u
  exact (count_grows ..).from_flt rfl

theorem flushPort_grows (n p : Nat) (s : State) : LogGrows s (State.flushPort n p s) := by
  induction n generalizing s with
  | zero => exact .refl s
  | succ n ih =>
    have hlaunch (f : Port → Port) (ws : List (BitVec 64)) : LogGrows s (State.flushPort n p ((s.modPort p f).launch p ws)) :=
      ((launch_grows p ws (s.modPort p f)).trans (ih _)).from_flt rfl
    unfold State.flushPort
    extract_lets q
    split
    · exact .ite (hlaunch ..) (.refl s)
    · exact .ite (hlaunch ..) (.refl s)
    · exact .refl s

theorem enqueue_grows (p : Nat) (ws : List (BitVec 64)) (s : State) : LogGrows s (s.enqueue p ws) :=
  (flushPort_grows ..).from_flt rfl

theorem sendPacket_grows (typ x y tag n : Nat) (l : List Word) (s : State) : LogGrows s (s.sendPacket typ x y tag n l) := by
  unfold State.sendPacket State.forwardOn
  split
  · exact .ite (.of_flt rfl) (.refl s)
  · exact enqueue_grows ..
  · exact count_grows ..

theorem pxSend_grows (id op : Nat) (ws : List Word) (s : State) : LogGrows s (s.pxSend id op ws) := by
  have hqueued (f : PxChan → PxChan) : LogGrows s (s.modPx id f) := .of_flt rfl
  unfold State.pxSend
  extract_lets c p u
  exact .ite ((hqueued _).trans (sendPacket_grows ..)) (hqueued _)

theorem hostRead_grows (a n : Nat) (s : State) : LogGrows s (s.hostRead a n) :=
  .ite (.of_flt rfl) (LogGrows.foldl (fun _ _ => pxSend_grows ..) _ s)

theorem hostWrite_grows (a : Nat) (l : List Byte) (s : State) : LogGrows s (s.hostWrite a l) := by
  have hproxy : LogGrows s (s.proxyWrite (s.tor.boundTo.getD 0) a l) := by
    refine LogGrows.foldl (fun s i => ?_) _ s
    exact pxSend_grows ..
  unfold State.hostWrite
  extract_lets u
  have hsent : LogGrows s u := .ite (.of_flt rfl) hproxy
  exact .ite (.refl s) (hsent.trans (count_grows ..))

/-! ## Commits (R153 to R156) -/

theorem writeRecord_grows (j : JRec) (s : State) : LogGrows s (s.writeRecord j) := by
  unfold State.writeRecord
  extract_lets s1 s2
  have hlong : LogGrows s s1 := .ite (hostWrite_grows ..) (.refl s)
  have hword : LogGrows s s2 := hlong.trans (hostWrite_grows ..)
  exact .ite (hword.trans (hostRead_grows ..)) hword

theorem sendMsix_grows (n : Nat) (s : State) : LogGrows s (s.sendMsix n) :=
  .ite ((count_grows ..).from_flt rfl) (.refl s)

theorem commitEffect_grows (d : Desc) (s : State) : LogGrows s (s.commitEffect d) := by
  have hfilled : LogGrows s (s.modChan d.ch fun c => c.fillInit d.first d.total) := .of_flt rfl
  exact .ite (.ite (hfilled.trans (condEnd_grows ..)) hfilled) (.refl s)

theorem commitOne_grows (n : Nat) (s : State) : LogGrows s (s.commitOne n) := by
  unfold State.commitOne
  extract_lets c
  split
  · exact .refl s
  · next d rest _ =>
    split
    · exact .refl s
    · extract_lets info long j s1 step s2 s3 c'
      have hentered : LogGrows s s2 := (commitEffect_grows d s).trans (.of_flt rfl)
      have hwritten : LogGrows s s3 := hentered.trans ((writeRecord_grows j s2).trans (count_grows ..))
      exact .ite (hwritten.trans (sendMsix_grows ..)) hwritten

theorem commitAll_grows (k n : Nat) (s : State) : LogGrows s (State.commitAll k n s) := by
  induction k generalizing s with
  | zero => exact .refl s
  | succ k ih => exact (commitOne_grows n s).trans (ih _)

theorem disabled_grows (n : Nat) (x : Nat × Option Nat) (s : State) : LogGrows s (s.disabled n x) := by
  unfold State.disabled
  split
  · exact .of_flt rfl
  · exact .of_flt rfl

theorem settleDisable_grows (n : Nat) (s : State) : LogGrows s (s.settleDisable n) := by
  unfold State.settleDisable
  extract_lets c u
  have hdisabled : LogGrows s u := .of_flt rfl
  exact .ite (.refl s) ((hdisabled.trans (condEnd_grows ..)).trans (LogGrows.foldl (fun s x => disabled_grows n x s) _ _))

theorem drainBy_grows (k n : Nat) (s : State) : LogGrows s (State.drainBy k n s) := by
  induction k generalizing n s with
  | zero => exact .refl s
  | succ k ih =>
    exact ((commitAll_grows _ n s).trans (settleDisable_grows n _)).trans (LogGrows.foldl (fun s o => ih o s) _ _)

theorem finish_grows (n q st i r : Nat) (s : State) : LogGrows s (s.finish n q st i r) :=
  (drainBy_grows 17 n _).from_flt rfl

end Sys2Proof.Laws

/-! PROOF. O4: the first read of an image (R95, R129, R130). -/

namespace Sys2Proof.Laws

open Sys2Proof Sys2Proof.Machine

theorem readImage_grows (d : Desc) (f : Fetch) (s : State) : LogGrows s (s.readImage d f) := by
  have hask (s : State) : LogGrows s (s.hostRead (d.u64 0x10) (d.u32 0x18)) := hostRead_grows ..
  exact .ite (hask s) ((hask s).trans (hask _))

/-- Checking an image changes the inline CRC unit alone (R544). -/
theorem inlineChecked_leaves (b : List Byte) (n : Nat) (s : State) : ∃ k, s.inlineChecked b n = { s with cnt := k } := by
  unfold State.inlineChecked
  split
  · exact ⟨_, rfl⟩
  · exact ⟨_, rfl⟩

/-- A load that ends with a refusal is answered so (R168). -/
theorem finLoad_answered {n : Nat} {s : State} {d : Desc} (hd : d ∈ (s.ctx n).acc) (hp : d.phase = .waiting) {v : Verdict} (hv : v.code ≠ 0) :
    Answered n d.seq 1 (s.finLoad n d v) := by
  rw [State.finLoad, if_neg hv]
  exact finish_answered hd (by simp [hp]) _ _ _

/-- A checker that faults refuses the image and logs it (R95). -/
theorem checkLoad_fault {n : Nat} {s u : State} {d : Desc} {b : List Byte} (hs : logOk s.flt.log) (hu : LogGrows s u) (hok : logsOk u)
    (hd : d ∈ (u.ctx n).acc) (hp : d.phase = .waiting) :
    Answered n d.seq 1 (u.checkLoad n d (some b) true) ∧ Logged .checkerInternal 0 s (u.checkLoad n d (some b) true) := by
  obtain ⟨k, hk⟩ := inlineChecked_leaves b (d.u32 0x18) u
  have hrun : u.checkLoad n d (some b) true = (({ u with cnt := k } : State).log .checkerInternal 0).finLoad n d { code := 0xFF, sect := 0xFF } := by
    rw [← hk]
    rfl
  rw [hrun]
  refine ⟨finLoad_answered (by rwa [log_ctx]) hp (by decide), ?_⟩
  have hlogs := (log_keeps .checkerInternal 0 _ 0 0 0 false (Keeps.refl { u with cnt := k })).2.2.2 hok
  exact (hu.trans (.of_flt rfl)).logged hs (log_put .checkerInternal 0 (s := { u with cnt := k }) hok 0 0 0 false) hlogs.1 (finish_grows ..)

/-- A verdict that is not "admitted" answers the load (R95, R168). -/
theorem checkLoad_error {n : Nat} {u : State} {d : Desc} {b : List Byte} {v : Verdict} (hd : d ∈ (u.ctx n).acc) (hp : d.phase = .waiting)
    (hv : checkImage u.checkEnv b (d.u32 0x18) = .error v) (hcode : v.code ≠ 0) : Answered n d.seq 1 (u.checkLoad n d (some b) false) := by
  obtain ⟨k, hk⟩ := inlineChecked_leaves b (d.u32 0x18) u
  have henv : ({ u with cnt := k } : State).checkEnv = u.checkEnv := checkEnv_of_chans rfl rfl rfl rfl
  unfold State.checkLoad
  simp only [hk, henv, hv, Bool.false_eq_true, if_false]
  exact finLoad_answered (s := { u with cnt := k }) hd hp hcode

theorem modDesc_mem {n : Nat} {s : State} {d : Desc} (hd : d ∈ (s.ctx n).acc) (f : Desc → Desc) :
    f d ∈ ((s.modDesc n d.seq f).ctx n).acc := by
  rw [State.modDesc, ctx_modCtx_same]
  exact List.mem_map.2 ⟨d, hd, by simp⟩

/-- An image that the checker admits is staged for its second read (R129, R130). -/
theorem checkLoad_ok {n : Nat} {u : State} {d : Desc} {b : List Byte} {img : Image} (hd : d ∈ (u.ctx n).acc)
    (himg : checkImage u.checkEnv b (d.u32 0x18) = .ok img) :
    ∃ e ∈ ((u.checkLoad n d (some b) false).ctx n).acc, e.seq = d.seq ∧ e.phase = .started ∧ e.staged = b := by
  obtain ⟨k, hk⟩ := inlineChecked_leaves b (d.u32 0x18) u
  have henv : ({ u with cnt := k } : State).checkEnv = u.checkEnv := checkEnv_of_chans rfl rfl rfl rfl
  have hrun : u.checkLoad n d (some b) false =
      ({ u with cnt := k } : State).modDesc n d.seq fun d => { d with phase := .started, staged := b } := by
    unfold State.checkLoad
    simp only [hk, henv, himg, Bool.false_eq_true, if_false]
  rw [hrun]
  exact ⟨{ d with phase := .started, staged := b }, modDesc_mem (s := { u with cnt := k }) hd _, rfl, rfl, rfl⟩

end Sys2Proof.Laws

namespace Sys2Proof.Proofs

open Sys2Proof Sys2Proof.Machine Sys2Proof.Laws

/-- The first read of an image: a load with bad operands is refused, and the verdict of the checker answers any other, or starts it
(R95, R129, R130). -/
theorem firstRead_checks {n : Nat} {f : Fetch} {x : Bool} {k : List Nat} {s : State} {d : Desc} (hno : s.startedOp n 0x40 = none)
    (h : s.startable n 0x40 = some d) (hup : s.hostUp = true) (hfirst : s.firstLoad d = true) :
    ∃ t, exec (.loadPricking n f x k) s = .next t ∧
      if d.u64 0x10 % 8 ≠ 0 ∨ d.u32 0x1C / 2 ≠ 0 ∨ d.zero 0x20 0x40 = false then Answered n d.seq 0x0012 t
      else (fetchData f = none → Answered n d.seq 1 t) ∧
        (∀ b, fetchData f = some b → (x = true → logsOk s → Answered n d.seq 1 t ∧ Logged .checkerInternal 0 s t) ∧
          (∀ v, x = false → checkImage s.checkEnv b (d.u32 0x18) = .error v → v.code ≠ 0 → Answered n d.seq 1 t) ∧
          (∀ img, x = false → checkImage s.checkEnv b (d.u32 0x18) = .ok img →
            ∃ e ∈ (t.ctx n).acc, e.seq = d.seq ∧ e.phase = .started ∧ e.staged = b)) := by
  obtain ⟨hd, hp, -⟩ := startable_spec h
  change ∃ t, execLoadPricking n f x k s = _ ∧ _
  unfold execLoadPricking
  simp only [hno, h, hup, hfirst, Bool.not_true, Bool.or_self, Bool.false_eq_true, if_false]
  by_cases hbad : d.u64 0x10 % 8 ≠ 0 ∨ d.u32 0x1C / 2 ≠ 0 ∨ d.zero 0x20 0x40 = false
  · refine ⟨_, if_pos (by simpa [or_assoc] using hbad), ?_⟩
    rw [if_pos hbad]
    exact finish_answered hd (by simp [hp]) _ _ _
  refine ⟨_, if_neg (by simpa [or_assoc] using hbad), ?_⟩
  rw [if_neg hbad]
  obtain ⟨-, -, hctxs, -⟩ := readImage_leaves d f s
  have henv := readImage_checkEnv d f s
  have hread : d ∈ ((s.readImage d f).ctx n).acc := by rwa [State.ctx, hctxs]
  refine ⟨fun hnone => ?_, fun b hb => ⟨fun hx hlogs => ?_, fun v hx hv hcode => ?_, fun img hx himg => ?_⟩⟩
  · rw [hnone]
    exact finLoad_answered hread hp (by decide)
  · subst hx
    rw [hb]
    exact checkLoad_fault hlogs.1 (readImage_grows d f s) ((readImage_keeps d f s (Keeps.refl s)).2.2.2 hlogs) hread hp
  · subst hx
    rw [hb]
    exact checkLoad_error hread hp (henv ▸ hv) hcode
  · subst hx
    rw [hb]
    exact checkLoad_ok hread (henv ▸ himg)

/-- Settles O4: the loads and starts by what the checker reads, which no step before it changes, and the stops by what the steps before
STOPPED leave of a channel. -/
theorem functionsStartAndStop : Obligations.FunctionsStartAndStop := by
  refine ⟨fun n f x k s d hno h hup hfirst => firstRead_checks hno h hup hfirst,
    fun n f x k s d img b h hup hparse hf hsame htest => secondRead_starts h hup hparse hf hsame htest,
    fun n b s d h => funcStart_starts h, fun n s d h => funcStop_stops h,
    fun ch s hstate hstop hmakeup hmerges hflights hsrc hhanded hfwds hretire hheld => ?_, fun ch s => ⟨fun h => ?_, fun hstate hflights => ?_⟩⟩
  · obtain ⟨hst, hfunc, hcause⟩ := stopped_part hheld hretire
    refine ⟨s.stopped ch, execShutDown_stops hstate hstop hmakeup hmerges ?_, hst, hfunc, hcause⟩
    simpa [Chan.drained, Chan.liveMakeup, hmakeup, hmerges, hflights, hsrc, hfwds] using hhanded
  · change execShutDown ch s = _
    unfold execShutDown
    obtain h | h := h <;> simp [h]
  · exact execShutDown_waits hstate hflights

end Sys2Proof.Proofs

/-! PROOF. What completing and committing descriptors leave of the contexts and the journal (R134, R153 to R156): a context keeps its
place in its ring, and only one that waits to be DISABLED becomes so. -/

namespace Sys2Proof.Laws

open Sys2Proof Sys2Proof.Machine

/-- What no commit changes of a context: its configuration and its place in the descriptor ring. -/
def ringPart (c : Ctx) : Ctx :=
  { c with state := .disabled, haltCause := 0, frontier := 0, cwi := 0, acc := [], unsent := 0, unsentSince := 0, fetched := 0, disabling := [] }

/-- What completing and committing descriptors may make of a context. -/
structure CtxDrained (c d : Ctx) : Prop where
  ring : ringPart d = ringPart c
  state : d.state = c.state ∨ d.state = .disabled
  waitless : c.disabling = [] → d.disabling = [] ∧ d.state = c.state
  acc : ∀ e ∈ d.acc, ∃ b ∈ c.acc, b.seq = e.seq

theorem CtxDrained.refl (c : Ctx) : CtxDrained c c := ⟨rfl, .inl rfl, fun h => ⟨h, rfl⟩, fun e he => ⟨e, he, rfl⟩⟩

theorem CtxDrained.trans {a b c : Ctx} (h : CtxDrained a b) (k : CtxDrained b c) : CtxDrained a c := by
  refine ⟨k.ring.trans h.ring, ?_, fun ha => ?_, fun e he => ?_⟩
  · rcases k.state with hk | hk
    · exact h.state.imp hk.trans hk.trans
    · exact .inr hk
  · obtain ⟨hb, hstate⟩ := h.waitless ha
    obtain ⟨hc, kstate⟩ := k.waitless hb
    exact ⟨hc, kstate.trans hstate⟩
  · obtain ⟨b, hb, hbe⟩ := k.acc e he
    obtain ⟨a, ha, hab⟩ := h.acc b hb
    exact ⟨a, ha, hab.trans hbe⟩

/-- What completing and committing descriptors may make of the contexts, of the journal, and of the disables that the window waits for. -/
structure Drained (s t : State) : Prop where
  ctx : ∀ k, CtxDrained (s.ctx k) (t.ctx k)
  journal : ∀ j ∈ s.journal, j ∈ t.journal
  records : ∀ j ∈ t.journal, j ∈ s.journal ∨ ∃ d ∈ (s.ctx j.ctx).acc, d.seq = j.seq
  busy : ∀ m ∈ t.host.admBusy, m ∈ s.host.admBusy

theorem ctx_of_ctxs {s t : State} (h : t.ctxs = s.ctxs) (k : Nat) : t.ctx k = s.ctx k := congrArg (fun m => Sparse.get ({} : Ctx) m k) h

theorem Drained.of_fields {s t : State} (hctxs : t.ctxs = s.ctxs) (hjournal : t.journal = s.journal) (hhost : t.host = s.host) :
    Drained s t :=
  ⟨fun k => ctx_of_ctxs hctxs k ▸ .refl _, fun _ hj => hjournal ▸ hj, fun _ hj => .inl (hjournal ▸ hj), fun _ hm => hhost ▸ hm⟩

theorem Drained.refl (s : State) : Drained s s := .of_fields rfl rfl rfl

theorem Drained.trans {a b c : State} (h : Drained a b) (k : Drained b c) : Drained a c := by
  refine ⟨fun n => (h.ctx n).trans (k.ctx n), fun j hj => k.journal j (h.journal j hj), fun j hj => ?_, fun m hm => h.busy m (k.busy m hm)⟩
  rcases k.records j hj with hb | ⟨d, hd, hq⟩
  · exact h.records j hb
  · obtain ⟨e, he, heq⟩ := (h.ctx j.ctx).acc d hd
    exact .inr ⟨e, he, heq.trans hq⟩

theorem Drained.foldl {α : Type} {f : State → α → State} (hf : ∀ s x, Drained s (f s x)) (l : List α) (s : State) :
    Drained s (l.foldl f s) := by
  induction l generalizing s with
  | nil => exact .refl _
  | cons x l ih => exact (hf s x).trans (ih _)

theorem modCtx_drained {n : Nat} {f : Ctx → Ctx} {s : State} (hf : CtxDrained (s.ctx n) (f (s.ctx n))) : Drained s (s.modCtx n f) := by
  refine ⟨fun k => ?_, fun _ => id, fun _ => .inl, fun _ => id⟩
  rw [ctx_modCtx]
  split
  · next h => exact h ▸ hf
  · exact .refl _

theorem ctxFinish_drained (c : Ctx) (q st i r : Nat) : CtxDrained c (c.finish q st i r) := by
  refine ⟨rfl, .inl rfl, fun h => ⟨h, rfl⟩, fun e he => ?_⟩
  obtain ⟨d, hd, rfl⟩ := List.mem_map.1 he
  refine ⟨d, hd, ?_⟩
  split <;> rfl

theorem sendMsix_drained (n : Nat) (s : State) : Drained s (s.sendMsix n) := by
  refine ⟨fun k => ?_, fun j hj => by simpa using hj, fun j hj => .inl (by simpa using hj), fun m hm => by simpa using hm⟩
  rcases sendMsix_ctx n k s with h | ⟨-, h⟩
  · rw [h]
    exact .refl _
  · rw [h]
    exact ⟨rfl, .inl rfl, fun h => ⟨h, rfl⟩, fun e he => ⟨e, he, rfl⟩⟩

theorem commitEffect_journal (d : Desc) (s : State) : (s.commitEffect d).journal = s.journal := by
  unfold State.commitEffect State.lostEnds
  split
  · split <;> simp
  · rfl

theorem commitEffect_host (d : Desc) (s : State) : (s.commitEffect d).host = s.host := by
  unfold State.commitEffect State.lostEnds
  split
  · split <;> simp
  · rfl

theorem commitOne_drained (n : Nat) (s : State) : Drained s (s.commitOne n) := by
  unfold State.commitOne
  extract_lets c
  split
  · exact .refl _
  · next d rest hacc =>
    split
    · exact .refl _
    · extract_lets info long j s1 step s2 s3 c'
      have hentered : Drained s s2 := by
        refine ⟨fun k => ?_, fun r hr => ?_, fun r hr => ?_, fun m hm => ?_⟩
        · have hstep (m : Nat) : step.ctx m = s.ctx m := ctx_of_ctxs (commitEffect_ctxs d s) m
          rw [ctx_modCtx, hstep, hstep]
          split
          · next h =>
            subst h
            exact ⟨rfl, .inl rfl, fun h => ⟨h, rfl⟩, fun e he => ⟨e, hacc ▸ List.mem_cons_of_mem _ he, rfl⟩⟩
          · exact .refl _
        · exact List.mem_append_left _ hr
        · rcases List.mem_append.1 hr with hold | hnew
          · exact .inl hold
          · obtain rfl := List.mem_singleton.1 hnew
            exact .inr ⟨d, hacc ▸ List.mem_cons_self, rfl⟩
        · rwa [← commitEffect_host d s]
      have hwritten : Drained s s3 := hentered.trans (.of_fields (by simp [s3]) (by simp [s3]) (by simp [s3]))
      split
      · exact hwritten.trans (sendMsix_drained ..)
      · exact hwritten

theorem commitAll_drained (k n : Nat) (s : State) : Drained s (State.commitAll k n s) := by
  induction k generalizing s with
  | zero => exact .refl _
  | succ k ih => exact (commitOne_drained n s).trans (ih _)

theorem disabled_drained (n : Nat) (x : Nat × Option Nat) (s : State) : Drained s (s.disabled n x) := by
  unfold State.disabled
  split
  · exact ⟨fun k => .refl _, fun j hj => hj, fun j hj => .inl hj, fun m hm => List.mem_of_mem_filter hm⟩
  · exact modCtx_drained (ctxFinish_drained ..)

/-- A context that waits to be DISABLED becomes so once no accepted descriptor is left (R134, R137). -/
theorem settleDisable_of_empty {n : Nat} {s : State} (hacc : (s.ctx n).acc = []) (hwait : (s.ctx n).disabling ≠ []) : s.settleDisable n =
    (s.ctx n).disabling.foldl (fun s x => s.disabled n x)
      ((s.modCtx n fun c => { c with state := .disabled, haltCause := 0, fetched := 0, disabling := [] }).condEnd 0x08 0x01 n) := by
  simp [State.settleDisable, hacc, hwait]

theorem settleDisable_of_held {n : Nat} {s : State} (h : (s.ctx n).disabling = [] ∨ (s.ctx n).acc ≠ []) : s.settleDisable n = s := by
  simp [State.settleDisable, h]

theorem settleDisable_drained (n : Nat) (s : State) : Drained s (s.settleDisable n) := by
  by_cases h : (s.ctx n).disabling = [] ∨ (s.ctx n).acc ≠ []
  · rw [settleDisable_of_held h]
    exact .refl s
  · obtain ⟨hwait, hacc⟩ := not_or.1 h
    rw [settleDisable_of_empty (not_not.1 hacc) hwait]
    have hdisabled : Drained s (s.modCtx n fun c => { c with state := .disabled, haltCause := 0, fetched := 0, disabling := [] }) :=
      modCtx_drained ⟨rfl, .inr rfl, fun h => absurd h hwait, fun e he => ⟨e, he, rfl⟩⟩
    refine hdisabled.trans ?_
    exact Drained.trans (.of_fields (by simp) (by simp) (by simp)) (.foldl (fun s x => disabled_drained n x s) _ _)

theorem drainBy_drained (k n : Nat) (s : State) : Drained s (State.drainBy k n s) := by
  induction k generalizing n s with
  | zero => exact .refl _
  | succ k ih =>
    exact ((commitAll_drained _ n s).trans (settleDisable_drained n _)).trans (Drained.foldl (fun s o => ih o s) _ _)

theorem drain_drained (n : Nat) (s : State) : Drained s (s.drain n) := drainBy_drained 17 n s

theorem finish_drained (n q st i r : Nat) (s : State) : Drained s (s.finish n q st i r) :=
  (modCtx_drained (ctxFinish_drained ..)).trans (drain_drained n _)

theorem drainEvery_drained (s : State) : Drained s s.drainEvery := Drained.foldl (fun s n => drain_drained n s) _ _

section
variable {s t : State} (h : Drained s t) (k : Nat)
include h

theorem Drained.nextSeq : (t.ctx k).nextSeq = (s.ctx k).nextSeq :=
  show (ringPart (t.ctx k)).nextSeq = (ringPart (s.ctx k)).nextSeq by rw [(h.ctx k).ring]

theorem Drained.ci : (t.ctx k).ci = (s.ctx k).ci :=
  show (ringPart (t.ctx k)).ci = (ringPart (s.ctx k)).ci by rw [(h.ctx k).ring]

theorem Drained.state {k : Nat} (hk : (s.ctx k).disabling = []) : (t.ctx k).state = (s.ctx k).state := ((h.ctx k).waitless hk).2

theorem Drained.disabled {k : Nat} (hk : (s.ctx k).state = .disabled) : (t.ctx k).state = .disabled :=
  (h.ctx k).state.elim (·.trans hk) id

end

/-! ## A disable that is asked for (R134, R137) -/

/-- A context whose oldest descriptor has no outcome commits nothing, and waits to be DISABLED. -/
theorem drain_of_unfinished {n : Nat} {s : State} {e : Desc} {l : List Desc} (hacc : (s.ctx n).acc = e :: l) (hp : e.phase ≠ .done) :
    s.drain n = s := by
  have hone : s.commitOne n = s := by simp [State.commitOne, hacc, hp]
  have hall (k : Nat) : State.commitAll k n s = s := by
    induction k with
    | zero => rfl
    | succ k ih => rw [State.commitAll, hone, ih]
  rw [State.drain, State.drainBy, hall, settleDisable_of_held (.inr (by simp [hacc]))]
  simp [hacc]

/-- A context without accepted descriptors settles its disables, and then the contexts commit that asked for them. -/
theorem drain_of_empty {n : Nat} {s : State} (hacc : (s.ctx n).acc = []) :
    s.drain n = ((s.ctx n).disabling.map (·.1)).foldl (fun s o => State.drainBy 16 o s) (s.settleDisable n) := by
  rw [State.drain, State.drainBy]
  simp [hacc, State.commitAll]

/-- The context holds the descriptor, whose outcome, if it has one, is status 0. -/
def ZeroOrOpen (q : Nat) (c : Ctx) : Prop := ∃ d ∈ c.acc, d.seq = q ∧ (d.phase = .done → d.status = 0)

theorem zeroOrOpen_finish {q : Nat} {c : Ctx} (p : Nat) (h : ZeroOrOpen q c) : ZeroOrOpen q (c.finish p 0) := by
  obtain ⟨d, hd, hq, hst⟩ := h
  refine ⟨_, List.mem_map.2 ⟨d, hd, rfl⟩, ?_⟩
  split
  · exact ⟨hq, fun _ => rfl⟩
  · exact ⟨hq, hst⟩

theorem finish_of_zeroOrOpen {q : Nat} {c : Ctx} (h : ZeroOrOpen q c) :
    ∃ d ∈ (c.finish q 0).acc, d.seq = q ∧ d.phase = .done ∧ d.status = 0 := by
  obtain ⟨d, hd, hq, hst⟩ := h
  refine ⟨_, List.mem_map.2 ⟨d, hd, rfl⟩, ?_⟩
  by_cases hp : d.phase = .done
  · simp [hp, hq, hst hp]
  · simp [hp, hq]

theorem zeroOrOpen_disabled {k q : Nat} {s : State} (n : Nat) (x : Nat × Option Nat) (h : ZeroOrOpen q (s.ctx k)) :
    ZeroOrOpen q ((s.disabled n x).ctx k) := by
  unfold State.disabled
  split
  · exact h
  · rw [ctx_modCtx]
    split
    · next e => exact zeroOrOpen_finish _ (e ▸ h)
    · exact h

/-- Among the disables that are complete is one that a CTX_DISABLE asked for: it gets status 0 (R134). -/
theorem disabled_answers {n k q : Nat} {l : List (Nat × Option Nat)} {s : State} (hl : (k, some q) ∈ l) (h : ZeroOrOpen q (s.ctx k)) :
    Answered k q 0 (l.foldl (fun s x => s.disabled n x) s) := by
  induction l generalizing s with
  | nil => cases hl
  | cons x l ih =>
    by_cases hx : (k, some q) = x
    · subst hx
      have hnow : Answered k q 0 (s.modCtx k fun c => c.finish q 0) := .inl (by rw [ctx_modCtx_same]; exact finish_of_zeroOrOpen h)
      rw [List.foldl_cons]
      exact answered_foldl (fun s x => disabled_answered n x) hnow
    · exact ih ((List.mem_cons.1 hl).resolve_left hx) (zeroOrOpen_disabled n x h)

/-- Among them is one that the window asked for: it no longer waits (R137). -/
theorem disabled_frees {n : Nat} {x : Nat} {l : List (Nat × Option Nat)} {s : State} (hl : (x, none) ∈ l) :
    n ∉ (l.foldl (fun s x => s.disabled n x) s).host.admBusy := by
  induction l generalizing s with
  | nil => cases hl
  | cons y l ih =>
    by_cases hy : (x, none) = y
    · subst hy
      refine fun h => ?_
      have hleft := (Drained.foldl (fun s x => disabled_drained n x s) l _).busy n h
      simp [State.disabled] at hleft
    · exact ih ((List.mem_cons.1 hl).resolve_left hy)

/-- A context without accepted descriptors that waits to be DISABLED is so; the CTX_DISABLE that asked for it has status 0, and the window
no longer waits (R134, R137). -/
theorem drain_disables {n : Nat} {s : State} (hacc : (s.ctx n).acc = []) (hwait : (s.ctx n).disabling ≠ []) :
    ((s.drain n).ctx n).state = .disabled ∧
      (∀ k q, (k, some q) ∈ (s.ctx n).disabling → ZeroOrOpen q (s.ctx k) → k ≠ n → Answered k q 0 (s.drain n)) ∧
      (∀ x, (x, none) ∈ (s.ctx n).disabling → n ∉ (s.drain n).host.admBusy) := by
  have hsettled := settleDisable_of_empty hacc hwait
  have hrest := Drained.foldl (fun s o => drainBy_drained 16 o s) ((s.ctx n).disabling.map (·.1)) (s.settleDisable n)
  rw [← drain_of_empty hacc] at hrest
  refine ⟨hrest.disabled ?_, fun k q hk hd hkn => ?_, fun x hx h => ?_⟩
  · rw [hsettled]
    refine (Drained.foldl (fun s x => disabled_drained n x s) _ _).disabled ?_
    rw [condEnd_ctx, ctx_modCtx_same]
  · rw [drain_of_empty hacc, hsettled]
    refine answered_foldl (fun s o => drainBy_answered 16 o) (disabled_answers hk ?_)
    rwa [condEnd_ctx, ctx_modCtx, if_neg hkn]
  · have hbusy := hrest.busy n h
    rw [hsettled] at hbusy
    exact disabled_frees hx hbusy

end Sys2Proof.Laws

namespace Sys2Proof.Proofs

open Sys2Proof Sys2Proof.Machine Sys2Proof.Laws

/-- Settles O1: each command either completes its descriptor, or leaves it waiting for the target's frontier. -/
theorem nopWaitComplete : Obligations.NopWaitComplete := by
  refine ⟨fun n s d h => ?_, fun n s d h => ?_, fun n s d h => ?_, fun n s => ⟨fun h => ?_, fun h => ?_, fun h => ?_⟩⟩
  · exact ⟨_, by simp only [exec, execNop, h], finish_startable h _⟩
  · obtain ⟨hd, -⟩ := startable_spec h
    change ∃ t, execWait n s = _ ∧ _
    unfold execWait
    simp only [h]
    by_cases hbad : d.u64 0x10 / 2 ^ 12 ≠ 0 ∨ d.u64 0x18 / 2 ^ 48 ≠ 0 ∨ d.zero 0x20 0x40 = false
    · refine ⟨_, if_pos (by simpa [or_assoc] using hbad), ?_⟩
      rw [if_pos hbad]
      exact finish_startable h _
    rw [if_neg (by simpa [or_assoc] using hbad)]
    simp only [if_neg hbad]
    by_cases hreached : seqReached (s.ctx (d.u64 0x10)).frontier (d.u64 0x18) = true
    · exact ⟨_, if_pos hreached, by rw [if_pos hreached]; exact finish_startable h _⟩
    · exact ⟨_, if_neg hreached, by rw [if_neg hreached]; exact modDesc_begun hd _ rfl rfl⟩
  · obtain ⟨hd, hp, -⟩ := startedOp_spec h
    have answered (st : Nat) : Answered n d.seq st (s.finish n d.seq st) := finish_answered hd (by simp [hp]) _ _ _
    change ∃ t, execWaitDone n s = _ ∧ _
    unfold execWaitDone
    simp only [h]
    by_cases hreached : seqReached (s.ctx (d.u64 0x10 % 4096)).frontier (d.u64 0x18) = true
    · exact ⟨_, if_pos hreached, by rw [if_pos hreached]; exact answered _⟩
    simp only [if_neg hreached]
    by_cases hlive : (s.ctx (d.u64 0x10 % 4096)).state = .enabled
    · exact ⟨s, by simp [hlive]⟩
    · exact ⟨_, if_pos (by simpa using hlive), by rw [if_pos hlive]; exact answered _⟩
  · simp only [exec, execNop, h]
  · simp only [exec, execWait, h]
  · simp only [exec, execWaitDone, h]

end Sys2Proof.Proofs

/-! PROOF. A FILL that commits with the outcome of a FUNC_START changes its channel (R153, R257). -/

namespace Sys2Proof.Laws

open Sys2Proof Sys2Proof.Machine

/-- A FILL over bank 0 of channel 0 that is complete and waits to commit. -/
def doneFill : Desc := { seq := 1, op := 0x12, flags := 0, phase := .done, total := 2 ^ 19 }

/-- The FUNC_START of channel 0 behind it. -/
def startBehind : Desc := { seq := 2, op := 0x41, flags := 0 }

/-- A device with a channel 0 as given, on which ACCESS context 20 has accepted both. -/
def startBehindFill (c : Chan) : State :=
  { chans := [(0, c)], ctxs := [(20, { state := .enabled, cls := 2, acc := [doneFill, startBehind] })] }

/-- Channel 0 RUNNING, with no INIT bit set. -/
def runningState : State := startBehindFill { state := .running }

/-- Channel 0 STOPPING, with a start held. -/
def stoppingState : State := startBehindFill { state := .stopping, held := some { ctx := 21, seq := 1, group := 0, resume := false } }

/-- The refusal of the FUNC_START commits the FILL, which sets the INIT bit of bank 0. -/
theorem runningState_inits :
    ((Res.after runningState (exec (.funcStart 20 false) runningState)).chan 0).da.init = 1 := by decide +kernel

theorem stoppingState_inits :
    ((Res.after stoppingState (exec (.funcStart 20 false) stoppingState)).chan 0).da.init = 1 := by decide +kernel

/-- A command after which the INIT bits of a channel differ has not left the channels as they were. -/
theorem chans_ne_of_init {c : Instr} {s t : State} (ht : exec c s = .next t) {ch : Nat} {v : BitVec 32}
    (hinit : ((Res.after s (exec c s)).chan ch).da.init = v) (hv : (s.chan ch).da.init ≠ v) : t.chans ≠ s.chans := by
  rw [ht] at hinit
  exact fun h => hv ((congrArg (fun c => c.da.init) (chan_of_chans h ch)).symm.trans hinit)

end Sys2Proof.Laws

namespace Sys2Proof.Proofs

open Sys2Proof Sys2Proof.Machine Sys2Proof.Laws

/-- Refutes O55: a FUNC_START that is refused on a RUNNING channel lets a complete FILL before it in its context commit, and the FILL sets
an INIT bit of that channel (R257). The statement ranges over every state; State.acceptRefusal itself keeps FILL and FUNC_START in
contexts of different classes. -/
theorem not_startsAreRefused : ¬ Obligations.StartsAreRefused := by
  rintro ⟨hrefused, -⟩
  obtain ⟨t, ht, -, hchans⟩ := hrefused 20 false runningState startBehind (by decide +kernel) (by decide +kernel) (by decide +kernel)
    (by decide +kernel) (by decide +kernel) (by decide +kernel) (.inl (by decide +kernel))
  exact chans_ne_of_init ht runningState_inits (by decide +kernel) hchans

/-- Refutes O56: a second FUNC_START on a STOPPING channel, which gets REFUSED_REARM, lets a complete FILL before it in its context commit
in the same way. -/
theorem not_heldStarts : ¬ Obligations.HeldStarts := by
  rintro ⟨hstart, -⟩
  obtain ⟨-, hrearm⟩ := hstart 20 false stoppingState startBehind (by decide +kernel) (by decide +kernel) (by decide +kernel)
    (by decide +kernel) (by decide +kernel) (by decide +kernel) (by decide +kernel)
  obtain ⟨t, ht, -, hchans⟩ := hrearm (by decide +kernel)
  exact chans_ne_of_init ht stoppingState_inits (by decide +kernel) hchans

end Sys2Proof.Proofs

/-! PROOF. O5: contexts are configured, disabled and queried (R134 to R138, R169, R554). -/

namespace Sys2Proof.Laws

open Sys2Proof Sys2Proof.Machine

/-! ## The configuration of a context (R135, R136) -/

/-- A context that a block configures is ENABLED and holds nothing, and an admin context is no FUNCTION context. -/
theorem parseCfg_spec {b : List Byte} {n : Nat} {c : Ctx} (h : parseCfg b n = some c) :
    c.state = .enabled ∧ c.acc = [] ∧ c.disabling = [] ∧ (n < 16 → c.cls ≠ 1) := by
  simp only [parseCfg, Option.ite_none_left_eq_some, Bool.not_eq_true, Bool.or_eq_false_iff, Option.some.injEq] at h
  obtain ⟨⟨⟨-, hadmin⟩, -⟩, rfl⟩ := h
  refine ⟨rfl, rfl, rfl, fun hn hcls => ?_⟩
  dsimp only at hcls
  rw [hcls, decide_eq_true hn] at hadmin
  cases hadmin

/-- The context that a good block and START_SEQ give (R136). -/
def configured (startSeq : Nat) (c : Ctx) : Ctx :=
  let q := startSeq % 2 ^ 48
  { c with nextSeq := q, frontier := (q + 2 ^ 48 - 1) % 2 ^ 48 }

section
variable {n q : Nat} {b : List Byte} {s : State}

theorem configure_of_live (h : (s.ctx n).state ≠ .disabled) : s.configure n b q = (0x0015, s) := by
  simp [State.configure, h]

theorem configure_of_bad (h : (s.ctx n).state = .disabled) (hb : parseCfg b n = none) : s.configure n b q = (0x0012, s) := by
  simp [State.configure, h, hb]

/-- A FUNCTION context needs a channel of the member that no other one has (R136). -/
theorem configure_of_taken (h : (s.ctx n).state = .disabled) {c : Ctx} (hb : parseCfg b n = some c)
    (hc : c.cls = 1 ∧ (s.functionCtx c.chan ≠ none ∨ s.members ≤ c.chan)) : s.configure n b q = (0x0012, s) := by
  simp [State.configure, h, hb, hc.1, Option.isSome_iff_ne_none, hc.2]

theorem configure_of_good (h : (s.ctx n).state = .disabled) {c : Ctx} (hb : parseCfg b n = some c)
    (hc : ¬(c.cls = 1 ∧ (s.functionCtx c.chan ≠ none ∨ s.members ≤ c.chan))) :
    s.configure n b q = (0, s.modCtx n fun _ => configured q c) := by
  unfold State.configure
  rw [if_neg (by simp [h])]
  simp only [hb]
  exact if_neg (by simpa [Option.isSome_iff_ne_none] using hc)

/-- A context that is configured is ENABLED with START_SEQ, and none waits to disable it. -/
theorem configured_spec {c : Ctx} (hb : parseCfg b n = some c) :
    (configured q c).state = .enabled ∧ (configured q c).nextSeq = q % 2 ^ 48 ∧ (configured q c).disabling = [] := by
  obtain ⟨hstate, -, hwait, -⟩ := parseCfg_spec hb
  exact ⟨hstate, rfl, hwait⟩

end

/-! ## A disable that waits (R134, R137) -/

/-- Context `n` is to be DISABLED for the one that asks. -/
def awaitDisable (n : Nat) (x : Nat × Option Nat) (s : State) : State := s.modCtx n fun c => { c with disabling := c.disabling ++ [x] }

@[simp] theorem awaitDisable_ctx_same (n : Nat) (x : Nat × Option Nat) (s : State) :
    (awaitDisable n x s).ctx n = { s.ctx n with disabling := (s.ctx n).disabling ++ [x] } := ctx_modCtx_same ..

theorem awaitDisable_ctx_ne {n k : Nat} (x : Nat × Option Nat) (s : State) (h : k ≠ n) : (awaitDisable n x s).ctx k = s.ctx k := by
  rw [awaitDisable, ctx_modCtx, if_neg h]

theorem begun_awaitDisable {n k q : Nat} (x : Nat × Option Nat) {s : State} (hk : k ≠ n) (h : Begun k q s) :
    Begun k q (awaitDisable n x s) := by
  rwa [Begun, awaitDisable_ctx_ne _ _ hk]

/-- A CTX_DISABLE that starts asks for context `m` to be DISABLED (R134, R169). -/
def disableBegins (n q m : Nat) (s : State) : State :=
  awaitDisable m (n, some q) (s.modDesc n q fun d => { d with phase := .started })

theorem disableBegins_ctx {n q m : Nat} (s : State) (h : m ≠ n) :
    (disableBegins n q m s).ctx m = { s.ctx m with disabling := (s.ctx m).disabling ++ [(n, some q)] } := by
  have hm : (s.modDesc n q fun d => { d with phase := .started }).ctx m = s.ctx m := by
    unfold State.modDesc
    rw [ctx_modCtx, if_neg h]
  rw [disableBegins, awaitDisable_ctx_same, hm]

theorem disableBegins_begun {n m : Nat} {s : State} {d : Desc} (hd : d ∈ (s.ctx n).acc) (h : m ≠ n) :
    Begun n d.seq (disableBegins n d.seq m s) :=
  begun_awaitDisable _ h.symm (modDesc_begun hd _ rfl rfl)

/-! ## The admin window (R137) -/

/-- The window names context `n`. -/
def windowAt (n : Nat) (s : State) : State := { s with host := { s.host with admCtx := n } }

@[simp] theorem windowAt_ctx (n k : Nat) (s : State) : (windowAt n s).ctx k = s.ctx k := rfl

/-- Refusing an action of the admin window sets ERR, is logged, and leaves the contexts (R137). -/
theorem admRefuse_spec (n : Nat) (s : State) : (windowAt n s).admRefuse.host.admErr = true ∧ (windowAt n s).admRefuse.ctxs = s.ctxs ∧
    (logsOk s → Logged .regWriteIgnored 0 s (windowAt n s).admRefuse) :=
  ⟨by simp [State.admRefuse], by simp [State.admRefuse, windowAt],
    fun h => writeIgnored_logged { windowAt n s with host := { (windowAt n s).host with admErr := true } } h⟩

/-- The window waits for the disable of context `n`. -/
def windowWaits (n : Nat) (s : State) : State :=
  { s with host := { s.host with admErr := false, admBusy := s.host.admBusy.filter (· != n) ++ [n] } }

@[simp] theorem windowWaits_ctx (n k : Nat) (s : State) : (windowWaits n s).ctx k = s.ctx k := rfl

theorem admDisable_of_disabled {n : Nat} {s : State} (h : (s.ctx n).state = .disabled) : s.admDisable n = s.admRefuse :=
  if_pos (beq_iff_eq.2 h)

theorem admDisable_of_live {n : Nat} {s : State} (h : (s.ctx n).state ≠ .disabled) :
    s.admDisable n = (awaitDisable n (n, none) (windowWaits n s)).drain n :=
  if_neg (mt beq_iff_eq.1 h)

end Sys2Proof.Laws

namespace Sys2Proof.Proofs

open Sys2Proof Sys2Proof.Machine Sys2Proof.Laws

/-- CTX_CONFIG refuses a bad block and a context that is not DISABLED, or enables the context (R136, R169). -/
theorem ctxConfig_configures {n : Nat} {s : State} {d : Desc} (h : s.startable n 0x43 = some d) :
    ∃ t, exec (.ctxConfig n) s = .next t ∧
    let m := d.u64 0x10
    if 4096 ≤ m ∨ 2 ^ 48 ≤ d.u64 0x18 then Answered n d.seq 0x0012 t
    else if (s.ctx m).state ≠ .disabled then Answered n d.seq 0x0015 t
    else (parseCfg (d.opnd.drop 16) m = none → Answered n d.seq 0x0012 t) ∧
      ∀ c, parseCfg (d.opnd.drop 16) m = some c →
        if c.cls = 1 ∧ (s.functionCtx c.chan ≠ none ∨ s.members ≤ c.chan) then Answered n d.seq 0x0012 t
        else m ≠ n → Answered n d.seq 0 t ∧ (t.ctx m).state = .enabled ∧ (t.ctx m).nextSeq = d.u64 0x18 := by
  obtain ⟨hd, hp, -⟩ := startable_spec h
  have hrefused (st : Nat) : Answered n d.seq st (s.finish n d.seq st) := finish_startable h st
  dsimp only
  change ∃ t, execCtxConfig n s = _ ∧ _
  unfold execCtxConfig
  simp only [h]
  generalize d.u64 0x10 = m
  by_cases hbad : 4096 ≤ m ∨ 2 ^ 48 ≤ d.u64 0x18
  · exact ⟨_, if_pos (by simpa using hbad), by rw [if_pos hbad]; exact hrefused _⟩
  refine ⟨_, if_neg (by simpa using hbad), ?_⟩
  rw [if_neg hbad]
  by_cases hlive : (s.ctx m).state ≠ .disabled
  · rw [if_pos hlive, configure_of_live hlive]
    exact hrefused _
  rw [if_neg hlive]
  replace hlive := not_not.1 hlive
  refine ⟨fun hparse => ?_, fun c hparse => ?_⟩
  · rw [configure_of_bad hlive hparse]
    exact hrefused _
  by_cases htaken : c.cls = 1 ∧ (s.functionCtx c.chan ≠ none ∨ s.members ≤ c.chan)
  · rw [if_pos htaken, configure_of_taken hlive hparse htaken]
    exact hrefused _
  rw [if_neg htaken, configure_of_good hlive hparse htaken]
  intro hmn
  obtain ⟨hstate, hseq, hwait⟩ := configured_spec (q := d.u64 0x18) hparse
  have hdrained := finish_drained n d.seq 0 0 0 (s.modCtx m fun _ => configured (d.u64 0x18) c)
  have hm : (s.modCtx m fun _ => configured (d.u64 0x18) c).ctx m = configured (d.u64 0x18) c := ctx_modCtx_same ..
  refine ⟨finish_answered ?_ (by simp [hp]) _ _ _, ?_, ?_⟩
  · rwa [ctx_modCtx, if_neg hmn.symm]
  · rw [hdrained.state (by rwa [hm]), hm, hstate]
  · rw [hdrained.nextSeq, hm, hseq, Nat.mod_eq_of_lt (by omega)]

/-- CTX_DISABLE is refused, disables a context without accepted descriptors, or waits for their records (R134, R169). -/
theorem ctxDisable_disables {n : Nat} {s : State} {d : Desc} (h : s.startable n 0x44 = some d) :
    ∃ t, exec (.ctxDisable n) s = .next t ∧
    let m := d.u64 0x10
    let st := (s.chan (s.ctx m).chan).state
    if 4096 ≤ m ∨ d.zero 0x18 0x40 = false then Answered n d.seq 0x0012 t
    else if (s.ctx m).state = .disabled ∨ ((s.ctx m).cls = 1 ∧ (st = .starting ∨ st = .running ∨ st = .stopping)) then
      Answered n d.seq 0x0015 t
    else ((s.ctx m).acc = [] → Answered n d.seq 0 t ∧ (t.ctx m).state = .disabled) ∧
      (∀ e r, m ≠ n → (s.ctx m).acc = e :: r → e.phase ≠ .done → Begun n d.seq t ∧ (t.ctx m).state = (s.ctx m).state ∧
        (n, some d.seq) ∈ (t.ctx m).disabling) := by
  obtain ⟨hd, -, -⟩ := startable_spec h
  dsimp only
  change ∃ t, execCtxDisable n s = _ ∧ _
  unfold execCtxDisable
  simp only [h]
  generalize d.u64 0x10 = m
  by_cases hbad : 4096 ≤ m ∨ d.zero 0x18 0x40 = false
  · exact ⟨_, if_pos (by simpa using hbad), by rw [if_pos hbad]; exact finish_startable h _⟩
  rw [if_neg (by simpa using hbad)]
  simp only [if_neg hbad]
  generalize (s.chan (s.ctx m).chan).state = st
  by_cases hlive : (s.ctx m).state = .disabled ∨ ((s.ctx m).cls = 1 ∧ (st = .starting ∨ st = .running ∨ st = .stopping))
  · exact ⟨_, if_pos (by simpa [or_assoc] using hlive), by rw [if_pos hlive]; exact finish_startable h _⟩
  refine ⟨(disableBegins n d.seq m s).drain m, if_neg (by simpa [or_assoc] using hlive), ?_⟩
  rw [if_neg hlive]
  refine ⟨fun hacc => ?_, fun e r hmn hacc hphase => ?_⟩
  · have hmn : m ≠ n := fun e => by simp [← e, hacc] at hd
    obtain ⟨hstate, hanswered, -⟩ := drain_disables (s := disableBegins n d.seq m s) (by rw [disableBegins_ctx s hmn]; exact hacc)
      (by simp [disableBegins_ctx s hmn])
    obtain ⟨b, hb, hq, hphase⟩ := disableBegins_begun hd hmn
    exact ⟨hanswered n d.seq (by simp [disableBegins_ctx s hmn]) ⟨b, hb, hq, by simp [hphase]⟩ hmn.symm, hstate⟩
  · rw [drain_of_unfinished (by rw [disableBegins_ctx s hmn]; exact hacc) hphase, disableBegins_ctx s hmn]
    exact ⟨disableBegins_begun hd hmn, rfl, by simp⟩

/-- CTX_QUERY copies the record of the context (R138, R169). -/
theorem ctxQuery_copies {n : Nat} {s : State} {d : Desc} (h : s.startable n 0x45 = some d) (hup : s.hostUp = true) :
    ∃ t, exec (.ctxQuery n) s = .next t ∧
    if 4096 ≤ d.u64 0x10 ∨ d.u64 0x18 % 128 ≠ 0 ∨ d.zero 0x20 0x40 = false then Answered n d.seq 0x0012 t
    else Answered n d.seq 0 t ∧ (s.tor.pcieEn = true → .write (d.u64 0x18) (s.ctx (d.u64 0x10)).record ∈ t.out) := by
  obtain ⟨hd, hp, -⟩ := startable_spec h
  change ∃ t, execCtxQuery n s = _ ∧ _
  unfold execCtxQuery
  simp only [h, hup, Bool.not_true, Bool.false_eq_true, if_false]
  by_cases hbad : 4096 ≤ d.u64 0x10 ∨ d.u64 0x18 % 128 ≠ 0 ∨ d.zero 0x20 0x40 = false
  · exact ⟨_, if_pos (by simpa [or_assoc] using hbad), by rw [if_pos hbad]; exact finish_startable h _⟩
  refine ⟨_, if_neg (by simpa [or_assoc] using hbad), ?_⟩
  rw [if_neg hbad]
  refine ⟨finish_answered (by rwa [hostWrite_ctx]) (by simp [hp]) _ _ _, fun hpcie => ?_⟩
  obtain ⟨-, hout, -⟩ := finish_keeps n d.seq 0 _ 0 0 (Keeps.refl (s.hostWrite (d.u64 0x18) (s.ctx (d.u64 0x10)).record))
  refine hout.subset ?_
  simp [State.hostWrite, hup, hpcie]

/-- COMMIT of the admin window enables the context that the window names, or is refused (R137). -/
theorem admcfgCommit_enables (v : Word) (s : State) : ∃ t, exec (.admcfgCommit v) s = .next t ∧
    let n := v.toNat % 16
    if bit v.toNat 29 = true ∨ (s.ctx n).state ≠ .disabled ∨ parseCfg s.host.admBlock n = none then
      t.host.admErr = true ∧ t.ctxs = s.ctxs ∧ (logsOk s → Logged .regWriteIgnored 0 s t)
    else t.host.admErr = false ∧ (t.ctx n).state = .enabled ∧
      (t.ctx n).nextSeq = (s.host.admSeqLo.toNat + s.host.admSeqHi * 2 ^ 32) % 2 ^ 48 := by
  dsimp only
  change ∃ t, execAdmcfgCommit v s = _ ∧ _
  unfold execAdmcfgCommit
  dsimp only
  have hn : v.toNat % 16 < 16 := Nat.mod_lt _ (by decide)
  generalize v.toNat % 16 = n at hn ⊢
  let q := s.host.admSeqLo.toNat + s.host.admSeqHi * 2 ^ 32
  change ∃ t, (if bit v.toNat 29 = true then Host.Outcome.next (windowAt n s).admRefuse else
    let r := (windowAt n s).configure n s.host.admBlock q
    if r.1 = 0 then .next { r.2 with host := { r.2.host with admErr := false } } else .next (windowAt n s).admRefuse) = _ ∧ _
  by_cases hboth : bit v.toNat 29 = true
  · exact ⟨_, if_pos hboth, by rw [if_pos (.inl hboth)]; exact admRefuse_spec n s⟩
  rw [if_neg hboth]
  by_cases hlive : (s.ctx n).state ≠ .disabled
  · rw [configure_of_live (s := windowAt n s) hlive]
    exact ⟨_, rfl, by rw [if_pos (.inr (.inl hlive))]; exact admRefuse_spec n s⟩
  replace hlive := not_not.1 hlive
  cases hparse : parseCfg s.host.admBlock n with
  | none =>
    rw [configure_of_bad (s := windowAt n s) hlive hparse]
    exact ⟨_, rfl, by rw [if_pos (.inr (.inr rfl))]; exact admRefuse_spec n s⟩
  | some c =>
    obtain ⟨-, -, -, hcls⟩ := parseCfg_spec hparse
    rw [configure_of_good (s := windowAt n s) hlive hparse fun htaken => hcls hn htaken.1]
    obtain ⟨hstate, hseq, -⟩ := configured_spec (q := q) hparse
    have hctx : ((windowAt n s).modCtx n fun _ => configured q c).ctx n = configured q c := ctx_modCtx_same ..
    refine ⟨_, rfl, ?_⟩
    rw [if_neg (by simp [hboth, hlive])]
    exact ⟨rfl, (congrArg Ctx.state hctx).trans hstate, (congrArg Ctx.nextSeq hctx).trans hseq⟩

/-- DISABLE of the admin window disables the context that the window names, waits for its records, or is refused (R137). -/
theorem admcfgDisable_disables (v : Word) (s : State) : ∃ t, exec (.admcfgDisable v) s = .next t ∧
    let n := v.toNat % 16
    if bit v.toNat 31 = true ∨ (s.ctx n).state = .disabled then
      t.host.admErr = true ∧ t.ctxs = s.ctxs ∧ (logsOk s → Logged .regWriteIgnored 0 s t)
    else ((s.ctx n).acc = [] → (t.ctx n).state = .disabled ∧ n ∉ t.host.admBusy) ∧
      (∀ e r, (s.ctx n).acc = e :: r → e.phase ≠ .done → (t.ctx n).state = (s.ctx n).state ∧ n ∈ t.host.admBusy) := by
  dsimp only
  change ∃ t, execAdmcfgDisable v s = _ ∧ _
  unfold execAdmcfgDisable
  dsimp only
  generalize v.toNat % 16 = n
  change ∃ t, (if bit v.toNat 31 = true then Host.Outcome.next (windowAt n s).admRefuse else .next ((windowAt n s).admDisable n)) = _ ∧ _
  by_cases hboth : bit v.toNat 31 = true
  · exact ⟨_, if_pos hboth, by rw [if_pos (.inl hboth)]; exact admRefuse_spec n s⟩
  refine ⟨_, if_neg hboth, ?_⟩
  by_cases hlive : (s.ctx n).state = .disabled
  · rw [if_pos (.inr hlive), admDisable_of_disabled (s := windowAt n s) hlive]
    exact admRefuse_spec n s
  rw [if_neg (by simp [hboth, hlive]), admDisable_of_live (s := windowAt n s) hlive]
  refine ⟨fun hacc => ?_, fun e r hacc hphase => ?_⟩
  · obtain ⟨hstate, -, hfree⟩ := drain_disables (n := n) (s := awaitDisable n (n, none) (windowWaits n (windowAt n s)))
      (by simpa using hacc) (by simp)
    exact ⟨hstate, hfree n (by simp)⟩
  · rw [drain_of_unfinished (by simpa using hacc) hphase, awaitDisable_ctx_same]
    exact ⟨rfl, by simp [awaitDisable, windowWaits]⟩

/-- Settles O5: a disable through what a drain does to a context that waits to be DISABLED, the rest through the checks of a block. That
CFG [7:6] count as reserved is the model's choice (log 158); a CTX_DISABLE of its own context, which never completes (log 169), stands
outside the clauses on a disable that waits. -/
theorem contextsChangeState : Obligations.ContextsChangeState := by
  refine ⟨fun n s d h => ctxConfig_configures h, fun n s d h => ctxDisable_disables h, fun n s d h hup => ctxQuery_copies h hup,
    admcfgCommit_enables, admcfgDisable_disables, fun v s => ?_, fun n s => ⟨fun h => ?_, fun h => ?_, fun h => ?_⟩⟩
  · change ∃ t, execDbBaseWrite v s = _ ∧ _
    unfold execDbBaseWrite
    by_cases hfixed : s.dbFixed = true
    · exact ⟨_, if_pos hfixed, by rw [if_pos hfixed]; exact ⟨writeIgnored_host s, writeIgnored_logged s⟩⟩
    · exact ⟨_, if_neg hfixed, by rw [if_neg hfixed]⟩
  · simp only [exec, execCtxConfig, h]
  · simp only [exec, execCtxDisable, h]
  · simp only [exec, execCtxQuery]
    rcases h with h | h
    · rw [h]
    · cases s.startable n 0x45 with
      | none => rfl
      | some d => simp [h]

end Sys2Proof.Proofs

/-! PROOF. O6: doorbells, fetched descriptors, the journal and messages (R138, R144, R145, R147, R148, R154, R156, R303). -/

namespace Sys2Proof.Laws

open Sys2Proof Sys2Proof.Machine

/-! ## What is logged, and what a halt leaves -/

theorem Keeps.logs {a s : State} (h : Keeps a s) (ha : logsOk a) : logsOk s := by
  obtain ⟨-, -, -, hlogs⟩ := h
  exact hlogs ha

/-- An occurrence logged between two stretches in which the log grows is logged over the whole. -/
theorem log_logged (d0 d1 d2 : Nat) (a : Bool) {c : Cause} {i : Nat} {s u t : State} (hs : logsOk s) (h : LogGrows s u) (hu : logsOk u)
    (k : LogGrows (u.log c i d0 d1 d2 a) t) : Logged c i s t :=
  h.logged hs.1 (log_put c i hu d0 d1 d2 a) ((log_keeps c i u d0 d1 d2 a (Keeps.refl u)).logs hu).1 k

/-- A context that is halted has the cause, stays where it was in its ring, and the halt is logged (R134, R138). -/
theorem halt_spec (n c : Nat) (s : State) : ((s.halt n c).ctx n).state = .halted ∧ ((s.halt n c).ctx n).haltCause = c ∧
    ((s.halt n c).ctx n).ci = (s.ctx n).ci ∧ (logsOk s → Logged .ctxHalt n s (s.halt n c)) := by
  unfold State.halt
  extract_lets ci
  rw [log_ctx, ctx_modCtx_same]
  exact ⟨rfl, rfl, rfl, fun hs => log_logged c ci 0 true hs (.of_flt rfl) (u := s.modCtx n _) hs (.refl _)⟩

/-! ## Requests for doorbell entries (R144) -/

theorem hostRead_out {a n : Nat} {s : State} (h : s.tor.pcieEn = true) : (s.hostRead a n).out = s.out ++ [.read a n] := by
  simp [State.hostRead, h]

theorem requestPage_asks {s : State} (hbase : s.host.dbBase ≠ 0) (hup : s.hostUp = true) :
    s.requestPage.host.readReq = s.ctxs.map Prod.fst ∧ (s.tor.pcieEn = true → s.requestPage.out = s.out ++ [.read s.host.dbBase 32768]) := by
  unfold State.requestPage
  rw [if_neg (by simp [hbase, hup]), hostRead_host]
  exact ⟨rfl, fun h => hostRead_out h⟩

theorem requestPage_of_unreachable {s : State} (h : s.host.dbBase = 0 ∨ s.hostUp = false) : s.requestPage = s :=
  if_pos (by simpa using h)

/-! ## A doorbell entry that is read (R145) -/

theorem entryServed_enabled {n : Nat} {s : State} (h : s.entryServed n = true) : (s.ctx n).state = .enabled := by
  simp only [State.entryServed, Bool.and_eq_true, beq_iff_eq] at h
  obtain ⟨⟨henabled, -⟩, -⟩ := h
  exact henabled

/-- The read of the entry of context `n` is no longer asked for. -/
def readTaken (n : Nat) (s : State) : State := { s with host := { s.host with readReq := s.host.readReq.filter (· != n) } }

@[simp] theorem readTaken_ctx (n k : Nat) (s : State) : (readTaken n s).ctx k = s.ctx k := rfl

/-- One more mismatch in a row. -/
def mismatched (n : Nat) (s : State) : State := (readTaken n s).modCtx n fun c => { c with mism := ((s.ctx n).mism + 1) % 16 }

/-- A match, which ends the row of mismatches. -/
def matched (n : Nat) (s : State) : State := (readTaken n s).modCtx n fun c => { c with mism := 0, dupLogged := false }

@[simp] theorem mismatched_ctx (n : Nat) (s : State) : (mismatched n s).ctx n = { s.ctx n with mism := ((s.ctx n).mism + 1) % 16 } :=
  ctx_modCtx_same ..

@[simp] theorem matched_ctx (n : Nat) (s : State) : (matched n s).ctx n = { s.ctx n with mism := 0, dupLogged := false } :=
  ctx_modCtx_same ..

section
variable {n : Nat} {pi c : Word} {s : State} (hup : s.hostUp = true) (hbase : s.host.dbBase ≠ 0) (hreq : n ∈ s.host.readReq)
  (hserved : s.entryServed n = true)
include hup hbase hreq hserved

/-- An entry that is read and served is looked at. -/
theorem doorbellRead_served (bad : Bool) : execDoorbellRead n pi c bad s =
    if bad then .next ((readTaken n s).halt n 0x04)
    else if c != ~~~pi then .next (if (s.ctx n).mism + 1 = 16 then (mismatched n s).log .dbMismatch n else mismatched n s)
    else if (pi.toNat + 2 ^ 32 - ((matched n s).ctx n).ci) % 2 ^ 32 > 2 ^ ((matched n s).ctx n).ringLog2 then .next ((matched n s).halt n 0x03)
    else .next (((matched n s).modCtx n fun c => { c with pi := pi.toNat }).fetchRing n) := by
  have hasked : ¬(!s.hostUp || s.host.dbBase = 0 || !s.host.readReq.contains n) = true := by simp [hup, hbase, hreq]
  have hlooked : ¬(!(readTaken n s).entryServed n) = true := by
    rw [show (readTaken n s).entryServed n = true from hserved]
    decide
  unfold execDoorbellRead
  rw [if_neg hasked]
  exact if_neg hlooked

end

/-! ## Descriptors in the ring (R139, R145, R147) -/

/-- A read request for descriptors changes what its context awaits, and no more of the contexts and the journal. -/
theorem fetchRing_leaves (n : Nat) (s : State) : (∃ k, (s.fetchRing n).ctx n = { s.ctx n with fetched := k }) ∧
    (s.fetchRing n).journal = s.journal ∧ LogGrows s (s.fetchRing n) := by
  unfold State.fetchRing
  extract_lets c posted slot k
  split
  · exact ⟨⟨_, rfl⟩, rfl, .refl s⟩
  · refine ⟨⟨k, by rw [hostRead_ctx, ctx_modCtx_same]⟩, by rw [hostRead_journal, modCtx_journal], ?_⟩
    exact (hostRead_grows ..).from_flt rfl

/-- Outcomes stay when descriptors are asked for. -/
theorem fetchRing_answered {n q st : Nat} {s : State} (h : Answered n q st s) : Answered n q st (s.fetchRing n) := by
  obtain ⟨⟨k, hctx⟩, hjournal, -⟩ := fetchRing_leaves n s
  exact answered_mono (fun d hd _ => by rwa [hctx]) (fun j hj => by rwa [hjournal]) h

/-- The context after the descriptor `d` in the slot of CI is accepted (R147). -/
def acceptedCtx (c : Ctx) (d : Desc) : Ctx :=
  { c with nextSeq := (c.nextSeq + 1) % 2 ^ 48, ci := (c.ci + 1) % 2 ^ 32, acc := c.acc ++ [d], refetch := none, opFail := false,
           fetched := c.fetched - 1 }

/-- The descriptor that the fetched bytes hold (R140, R249). -/
def readDesc (b : List Byte) (s : State) : Desc :=
  let d : Desc := { seq := headSeq b, op := headOp b, flags := headFlags b, opnd := (b.drop 16).take 48, accNo := s.host.nextAcc }
  let ch := byteChan d.daAddr
  if isDaOp d.op then
    { d with ch, cls := (s.chan ch).classOf (byteCw d.daAddr / 2 ^ 21), first := byteCw d.daAddr / 4, total := d.daLen / 32 }
  else d

/-- The descriptor as it is accepted: refused ones have their outcome (R141, R142). -/
def acceptedDesc (n : Nat) (b : List Byte) (s : State) : Desc :=
  match s.acceptRefusal (s.ctx n) (readDesc b s) with
  | some st => { readDesc b s with phase := .done, status := st, total := 0 }
  | none => readDesc b s

theorem readDesc_seq (b : List Byte) (s : State) : (readDesc b s).seq = headSeq b := by
  unfold readDesc
  dsimp only
  split
  · rfl
  · rfl

theorem readDesc_op (b : List Byte) (s : State) : (readDesc b s).op = headOp b := by
  unfold readDesc
  dsimp only
  split
  · rfl
  · rfl

theorem acceptedDesc_seq (n : Nat) (b : List Byte) (s : State) : (acceptedDesc n b s).seq = headSeq b := by
  unfold acceptedDesc
  split
  · exact readDesc_seq b s
  · exact readDesc_seq b s

/-- A descriptor whose opcode is not defined is refused first of all (R142). -/
theorem acceptedDesc_of_unknown (n : Nat) {b : List Byte} (s : State) (h : opKnown (headOp b) = false) :
    (acceptedDesc n b s).phase = .done ∧ (acceptedDesc n b s).status = 0x0010 := by
  have hrefusal : s.acceptRefusal (s.ctx n) (readDesc b s) = some 0x0010 := by simp [State.acceptRefusal, readDesc_op, h]
  rw [acceptedDesc, hrefusal]
  exact ⟨rfl, rfl⟩

/-- The state in which the accepted descriptor has entered its context. -/
def accepted (n : Nat) (b : List Byte) (s : State) : State :=
  ({ s with host := { s.host with nextAcc := s.host.nextAcc + 1 } }.modCtx n fun c => acceptedCtx c (acceptedDesc n b s)).count
    0x10E none 1 fun q => q == n

theorem accept_eq (n : Nat) (b : List Byte) (s : State) : s.accept n b = ((accepted n b s).drain n).fetchRing n := by
  unfold State.accept accepted acceptedCtx acceptedDesc readDesc
  rfl

theorem accepted_ctx (n : Nat) (b : List Byte) (s : State) : (accepted n b s).ctx n = acceptedCtx (s.ctx n) (acceptedDesc n b s) := by
  rw [accepted, count_ctx]
  exact ctx_modCtx_same ..

/-- Accepting the descriptor in the slot of CI moves the context on, and answers an opcode that is not defined (R142, R147). -/
theorem accept_spec (n : Nat) (b : List Byte) (s : State) :
    ((s.accept n b).ctx n).nextSeq = ((s.ctx n).nextSeq + 1) % 2 ^ 48 ∧ ((s.accept n b).ctx n).ci = ((s.ctx n).ci + 1) % 2 ^ 32 ∧
      (opKnown (headOp b) = false → Answered n (headSeq b) 0x0010 (s.accept n b)) := by
  obtain ⟨⟨k, hctx⟩, -, -⟩ := fetchRing_leaves n ((accepted n b s).drain n)
  have hdrained := drain_drained n (accepted n b s)
  have hseq := hdrained.nextSeq n
  have hci := hdrained.ci n
  rw [accepted_ctx] at hseq hci
  rw [accept_eq, hctx]
  refine ⟨hseq, hci, fun hop => ?_⟩
  obtain ⟨hphase, hstatus⟩ := acceptedDesc_of_unknown n s hop
  refine fetchRing_answered (drain_answered n (.inl ⟨acceptedDesc n b s, ?_, acceptedDesc_seq n b s, hphase, hstatus⟩))
  simp [accepted_ctx, acceptedCtx]

/-- How far the sequence number of a descriptor lies before the next one (R147). -/
def seqGap (n : Nat) (b : List Byte) (s : State) : Nat := ((s.ctx n).nextSeq + 2 ^ 48 - headSeq b) % 2 ^ 48

theorem examineSeq_of_next {n : Nat} {b : List Byte} {s : State} (h : seqGap n b s = 0) : s.examineSeq n b = s.accept n b := if_pos h

theorem examineSeq_of_later {n : Nat} {b : List Byte} {s : State} (h0 : seqGap n b s ≠ 0) (h : ¬seqGap n b s ≤ 2 ^ 47) :
    s.examineSeq n b = s.halt n 0x02 :=
  (if_neg h0).trans (if_neg h)

/-- The context after the descriptor in the slot of CI is skipped (R148). -/
def skippedCtx (c : Ctx) : Ctx :=
  { c with ci := (c.ci + 1) % 2 ^ 32, refetch := none, opFail := false, fetched := c.fetched - 1, dupLogged := true }

/-- The state in which it has been skipped and counted. -/
def skipped (n : Nat) (s : State) : State := (s.modCtx n skippedCtx).count 0x10F none 1 fun q => q == n

theorem skipped_ctx (n : Nat) (s : State) : (skipped n s).ctx n = skippedCtx (s.ctx n) := by rw [skipped, count_ctx, ctx_modCtx_same]

theorem examineSeq_of_earlier {n : Nat} {b : List Byte} {s : State} (h0 : seqGap n b s ≠ 0) (h : seqGap n b s ≤ 2 ^ 47) :
    s.examineSeq n b = (if (s.ctx n).dupLogged then skipped n s else (skipped n s).log .ctxDup n).fetchRing n := by
  unfold seqGap at h0 h
  unfold State.examineSeq
  extract_lets c gap u v
  rw [if_neg h0, if_pos h]
  rfl

/-- A descriptor with an earlier number is skipped, and the first one is logged (R148). -/
theorem examineSeq_skips {n : Nat} {b : List Byte} {s : State} (h0 : seqGap n b s ≠ 0) (h : seqGap n b s ≤ 2 ^ 47) :
    let t := s.examineSeq n b
    (t.ctx n).nextSeq = (s.ctx n).nextSeq ∧ (t.ctx n).ci = ((s.ctx n).ci + 1) % 2 ^ 32 ∧ (t.ctx n).acc = (s.ctx n).acc ∧
      ((s.ctx n).dupLogged = false → logsOk s → Logged .ctxDup n s t) := by
  rw [examineSeq_of_earlier h0 h]
  obtain ⟨⟨k, hctx⟩, -, hgrows⟩ := fetchRing_leaves n (if (s.ctx n).dupLogged then skipped n s else (skipped n s).log .ctxDup n)
  have hskipped : (if (s.ctx n).dupLogged then skipped n s else (skipped n s).log .ctxDup n).ctx n = skippedCtx (s.ctx n) := by
    split
    · exact skipped_ctx n s
    · rw [log_ctx, skipped_ctx]
  rw [hskipped] at hctx
  dsimp only
  rw [hctx]
  refine ⟨rfl, rfl, rfl, fun hdup hs => ?_⟩
  rw [hdup] at hgrows ⊢
  have hlogs : logsOk (skipped n s) := (count_keeps _ _ _ (s.modCtx n skippedCtx) _ (Keeps.refl _)).logs hs
  have hcounted : LogGrows s (skipped n s) := (count_grows _ _ _ (s.modCtx n skippedCtx) _).from_flt rfl
  exact log_logged 0 0 0 false hs hcounted hlogs hgrows

end Sys2Proof.Laws

namespace Sys2Proof.Proofs

open Sys2Proof Sys2Proof.Machine Sys2Proof.Laws

/-- An entry whose complement holds becomes PI, or halts its context when the ring does not allow the distance (R145). -/
theorem doorbellRead_takes {n : Nat} {pi : Word} {s : State} (hup : s.hostUp = true) (hbase : s.host.dbBase ≠ 0) (hreq : n ∈ s.host.readReq)
    (hserved : s.entryServed n = true) : ∃ t, exec (.doorbellRead n pi (~~~pi) false) s = .next t ∧
      if (pi.toNat + 2 ^ 32 - (s.ctx n).ci) % 2 ^ 32 ≤ 2 ^ (s.ctx n).ringLog2
      then (t.ctx n).pi = pi.toNat ∧ (t.ctx n).mism = 0 ∧ (t.ctx n).state = .enabled
      else (t.ctx n).state = .halted ∧ (t.ctx n).haltCause = 3 ∧ (logsOk s → Logged .ctxHalt n s t) := by
  change ∃ t, execDoorbellRead n pi (~~~pi) false s = _ ∧ _
  rw [doorbellRead_served hup hbase hreq hserved]
  simp only [Bool.false_eq_true, if_false, bne_self_eq_false, matched_ctx]
  by_cases hfits : (pi.toNat + 2 ^ 32 - (s.ctx n).ci) % 2 ^ 32 ≤ 2 ^ (s.ctx n).ringLog2
  · refine ⟨_, if_neg (Nat.not_lt.2 hfits), ?_⟩
    obtain ⟨⟨k, hctx⟩, -⟩ := fetchRing_leaves n ((matched n s).modCtx n fun c => { c with pi := pi.toNat })
    rw [if_pos hfits, hctx, ctx_modCtx_same, matched_ctx]
    exact ⟨rfl, rfl, entryServed_enabled hserved⟩
  · refine ⟨_, if_pos (Nat.not_le.1 hfits), ?_⟩
    obtain ⟨hstate, hcause, -, hlogged⟩ := halt_spec n 0x03 (matched n s)
    rw [if_neg hfits]
    exact ⟨hstate, hcause, hlogged⟩

/-- An entry whose complement does not hold leaves PI; the sixteenth in a row is logged (R145). -/
theorem doorbellRead_mismatches {n : Nat} {pi c : Word} {s : State} (hup : s.hostUp = true) (hbase : s.host.dbBase ≠ 0)
    (hreq : n ∈ s.host.readReq) (hserved : s.entryServed n = true) (hc : c ≠ ~~~pi) :
    ∃ t, exec (.doorbellRead n pi c false) s = .next t ∧ (t.ctx n).pi = (s.ctx n).pi ∧
      (t.ctx n).mism = ((s.ctx n).mism + 1) % 16 ∧ ((s.ctx n).mism = 15 → logsOk s → Logged .dbMismatch n s t) := by
  change ∃ t, execDoorbellRead n pi c false s = _ ∧ _
  rw [doorbellRead_served hup hbase hreq hserved, if_neg Bool.false_ne_true]
  have hctx : (if (s.ctx n).mism + 1 = 16 then (mismatched n s).log .dbMismatch n else mismatched n s).ctx n = (mismatched n s).ctx n := by
    split
    · exact log_ctx ..
    · rfl
  refine ⟨_, if_pos (bne_iff_ne.2 hc), by rw [hctx, mismatched_ctx], by rw [hctx, mismatched_ctx], fun hm hs => ?_⟩
  rw [if_pos (by rw [hm])]
  exact log_logged 0 0 0 false hs (.of_flt rfl) (u := mismatched n s) hs (.refl _)

/-- A fetched descriptor whose HEAD matches is accepted, skipped, or halts its context (R147, R148). -/
theorem descriptorExamine_matches {n : Nat} {b : List Byte} {s : State} (hex : s.examines n = true) (hfirst : s.adminFirst n = false)
    (hhead : isComp 64 (headOf b) (headComp b) = true) :
    ∃ t, exec (.descriptorExamine n b false) s = .next t ∧
      let gap := ((s.ctx n).nextSeq + 2 ^ 48 - headSeq b) % 2 ^ 48
      if gap = 0 then (t.ctx n).nextSeq = ((s.ctx n).nextSeq + 1) % 2 ^ 48 ∧ (t.ctx n).ci = ((s.ctx n).ci + 1) % 2 ^ 32 ∧
        (opKnown (headOp b) = false → Answered n (headSeq b) 0x0010 t)
      else if gap ≤ 2 ^ 47 then (t.ctx n).nextSeq = (s.ctx n).nextSeq ∧ (t.ctx n).ci = ((s.ctx n).ci + 1) % 2 ^ 32 ∧
        (t.ctx n).acc = (s.ctx n).acc ∧ ((s.ctx n).dupLogged = false → logsOk s → Logged .ctxDup n s t)
      else (t.ctx n).state = .halted ∧ (t.ctx n).haltCause = 2 := by
  refine ⟨s.examineSeq n b, ?_, ?_⟩
  · change execDescriptorExamine n b false s = _
    simp [execDescriptorExamine, hex, hfirst, hhead]
  change if seqGap n b s = 0 then _ else if seqGap n b s ≤ 2 ^ 47 then _ else _
  by_cases hnext : seqGap n b s = 0
  · rw [if_pos hnext, examineSeq_of_next hnext]
    exact accept_spec n b s
  rw [if_neg hnext]
  by_cases hearlier : seqGap n b s ≤ 2 ^ 47
  · rw [if_pos hearlier]
    exact examineSeq_skips hnext hearlier
  · obtain ⟨hstate, hcause, -⟩ := halt_spec n 0x02 s
    rw [if_neg hearlier, examineSeq_of_later hnext hearlier]
    exact ⟨hstate, hcause⟩

/-- A HEAD or operands that fail are read again, and operands that fail again halt the context (R147, R303). -/
theorem descriptorExamine_fails {n : Nat} (b : List Byte) {s : State} (hex : s.examines n = true) (hfirst : s.adminFirst n = false) :
    (isComp 64 (headOf b) (headComp b) = false →
      ∃ t, exec (.descriptorExamine n b false) s = .next t ∧ (t.ctx n).refetch = some (s.now + 1600) ∧ (t.ctx n).ci = (s.ctx n).ci) ∧
    ∃ t, exec (.descriptorExamine n b true) s = .next t ∧ (t.ctx n).ci = (s.ctx n).ci ∧
      if (s.ctx n).opFail = true then (t.ctx n).state = .halted ∧ (t.ctx n).haltCause = 1 else (t.ctx n).opFail = true := by
  have hexamined : ¬(!s.examines n || s.adminFirst n) = true := by simp [hex, hfirst]
  refine ⟨fun hhead => ?_, ?_⟩
  · refine ⟨s.modCtx n fun c => { c with refetch := some (s.now + 1600) }, ?_, by rw [ctx_modCtx_same], by rw [ctx_modCtx_same]⟩
    change execDescriptorExamine n b false s = _
    simp [execDescriptorExamine, hex, hfirst, hhead]
  change ∃ t, execDescriptorExamine n b true s = _ ∧ _
  unfold execDescriptorExamine
  rw [if_neg hexamined, if_pos rfl]
  by_cases hagain : (s.ctx n).opFail = true
  · obtain ⟨hstate, hcause, hci, -⟩ := halt_spec n 0x01 s
    exact ⟨_, if_pos hagain, hci, by rw [if_pos hagain]; exact ⟨hstate, hcause⟩⟩
  · refine ⟨_, if_neg hagain, ?_⟩
    rw [if_neg hagain, State.refetchSlot, hostRead_ctx, log_ctx, ctx_modCtx_same]
    exact ⟨rfl, rfl⟩

/-- 1 µs after a HEAD that failed, the slot is read again (R147). -/
theorem headRefetch_reads {n : Nat} (b : List Byte) {s : State} {due : Nat} (hup : s.hostUp = true) (hstate : (s.ctx n).state = .enabled)
    (hrefetch : (s.ctx n).refetch = some due) (hdue : due ≤ s.now) : ∃ t, exec (.headRefetch n b) s = .next t ∧
      if isComp 64 (headOf b) (headComp b) = false then (t.ctx n).state = .halted ∧ (t.ctx n).haltCause = 1
      else headSeq b = (s.ctx n).nextSeq → (t.ctx n).nextSeq = ((s.ctx n).nextSeq + 1) % 2 ^ 48 ∧
        (t.ctx n).ci = ((s.ctx n).ci + 1) % 2 ^ 32 := by
  change ∃ t, execHeadRefetch n b s = _ ∧ _
  unfold execHeadRefetch
  simp only [hrefetch]
  rw [if_neg (by simp [hup, hstate, hdue])]
  by_cases hhead : isComp 64 (headOf b) (headComp b) = false
  · obtain ⟨hhalted, hcause, -⟩ := halt_spec n 0x01 (s.refetchSlot n)
    exact ⟨_, if_pos (by simp [hhead]), by rw [if_pos hhead]; exact ⟨hhalted, hcause⟩⟩
  refine ⟨_, if_neg (by simpa using hhead), ?_⟩
  rw [if_neg hhead]
  intro hseq
  have hctx : ((s.refetchSlot n).modCtx n fun c => { c with refetch := none }).ctx n = { s.ctx n with refetch := none } := by
    rw [ctx_modCtx_same, State.refetchSlot, hostRead_ctx]
  have hnext : seqGap n b ((s.refetchSlot n).modCtx n fun c => { c with refetch := none }) = 0 := by
    rw [seqGap, hctx, hseq, Nat.add_sub_cancel_left, Nat.mod_self]
  obtain ⟨hnextSeq, hci, -⟩ := accept_spec n b ((s.refetchSlot n).modCtx n fun c => { c with refetch := none })
  rw [examineSeq_of_next hnext]
  rw [hctx] at hnextSeq hci
  exact ⟨hnextSeq, hci⟩

/-- A confirmed record leaves the journal, and no other does; a commit that now finds room enters no record of its number (R156). -/
theorem journalConfirm_frees {n q : Nat} {s : State} (hup : s.hostUp = true) (hheld : ∃ j ∈ s.journal, j.ctx = n ∧ j.seq = q)
    (hnone : ∀ d ∈ (s.ctx n).acc, d.seq ≠ q) :
    ∃ t, exec (.journalConfirm n q) s = .next t ∧ (∀ j ∈ t.journal, ¬ (j.ctx = n ∧ j.seq = q)) ∧
      ∀ j ∈ s.journal, ¬ (j.ctx = n ∧ j.seq = q) → j ∈ t.journal := by
  let u : State := { s with journal := s.journal.filter fun j => !(j.ctx == n && j.seq == q) }
  have hdrained := drainEvery_drained u
  have hleft (j : JRec) : j ∈ u.journal ↔ j ∈ s.journal ∧ ¬(j.ctx = n ∧ j.seq = q) := by simp [u, imp_iff_not_or]
  refine ⟨u.drainEvery, if_pos (by simpa [hup] using hheld), fun j hj => ?_, fun j hj hne => hdrained.journal j ((hleft j).2 ⟨hj, hne⟩)⟩
  rcases hdrained.records j hj with hold | ⟨d, hd, hseq⟩
  · exact ((hleft j).1 hold).2
  · rintro ⟨hctx, hq⟩
    subst hctx
    exact hnone d hd (hseq.trans hq)

/-- A message leaves 6,400 ck after a record that none has covered (R154). -/
theorem msixTimeout_sends {n : Nat} {s : State} (hup : s.hostUp = true) (hirq : (s.ctx n).irqEn = true) (hunsent : 0 < (s.ctx n).unsent)
    (hdue : (s.ctx n).unsentSince + 6400 ≤ s.now) :
    ∃ t, exec (.msixTimeout n) s = .next t ∧ (t.ctx n).unsent = 0 ∧ t.out = s.out ++ [.msix n (s.ctx n).vec] := by
  have hsent : s.sendMsix n = ((s.emit (.msix n (s.ctx n).vec)).modCtx n fun c => { c with unsent := 0 }).count 0x111 none 1 := if_pos hup
  refine ⟨s.sendMsix n, if_pos (by simp [hirq, hunsent, hdue]), ?_, ?_⟩
  · rw [hsent, count_ctx, ctx_modCtx_same]
  · rw [hsent, count_out, modCtx_out, emit_out]

/-- Settles O6: doorbell entries by what a read does to its context, descriptors by the gap of their numbers, and the journal by what
commits add to it. That admin contexts come first (State.adminFirst) is the model's reading of R145 (log 178). -/
theorem doorbellsAndDescriptors : Obligations.DoorbellsAndDescriptors := by
  refine ⟨fun n s hbase hup => ?_, fun s hbase hup => ?_, fun s hpoll hdue => ?_,
    fun n pi s hup hbase hreq hserved => doorbellRead_takes hup hbase hreq hserved,
    fun n pi c s hup hbase hreq hserved hc => doorbellRead_mismatches hup hbase hreq hserved hc,
    fun n pi c s hup hbase hreq hserved => ?_, fun n b s hex hfirst hhead => descriptorExamine_matches hex hfirst hhead,
    fun n b s hex hfirst => descriptorExamine_fails b hex hfirst,
    fun n b s due hup hstate hrefetch hdue => headRefetch_reads b hup hstate hrefetch hdue,
    fun n q s hup hheld hnone => journalConfirm_frees hup hheld hnone,
    fun n s hup hirq hunsent hdue => msixTimeout_sends hup hirq hunsent hdue,
    fun n s => ⟨fun h => ⟨?_, ?_⟩, fun h => ?_, fun h q => ?_, fun h => ?_, fun b x h => ?_, fun b h => ?_⟩⟩
  · refine ⟨_, if_neg (by simp [hbase, hup]), ?_, fun h => hostRead_out h⟩
    rw [hostRead_host]
    by_cases hin : n ∈ s.host.readReq
    · simp [hin]
    · simp [hin]
  · exact ⟨_, rfl, requestPage_asks hbase hup⟩
  · exact ⟨_, if_pos (by simp [hpoll, hdue]), rfl, fun hbase hup => (requestPage_asks hbase hup).1⟩
  · obtain ⟨hstate, hcause, -⟩ := halt_spec n 0x04 (readTaken n s)
    exact ⟨_, doorbellRead_served hup hbase hreq hserved true, hstate, hcause⟩
  · exact if_pos (by simpa using h)
  · exact congrArg _ (requestPage_of_unreachable h)
  · exact if_neg (by simpa [imp_iff_not_or] using h)
  · exact if_neg (by simp [h])
  · exact if_neg (by simpa [imp_iff_not_or, or_assoc] using h)
  · exact if_pos (by simpa using h)
  · change execHeadRefetch n b s = _
    simp only [execHeadRefetch, h]

end Sys2Proof.Proofs

/-! PROOF. O28: the word that a source hands to the lane switch (R186, R189, R190), and the record that a capture takes (R204, R205,
R211, R217, R218). -/

namespace Sys2Proof.Laws

open Sys2Proof Sys2Proof.Machine

/-! ## A word is handed over (R189, R190) -/

/-- With nothing queued and slots still to come, the expander has nothing to do. -/
theorem srcExpand_of_idle {ch g : Nat} {s : State} (hqueue : ((s.chan ch).src.group g).queue = []) (hstop : (s.chan ch).seq.stopAt = none) :
    s.srcExpand ch g = s := by
  have hidle : ((s.chan ch).src.group g).step (s.chan ch).src.coded (s.chan ch).seq.stopAt.isSome = none := by
    simp [SrcGroup.step, hqueue, hstop]
  simp [State.srcExpand, State.srcPrep, hidle]

theorem lostTo_of_idle {g : SrcGroup} (hqueue : g.queue = []) (p : Nat) : g.lostTo p = false := by
  simp [SrcGroup.lostTo, hqueue]

/-- The granule that gives or governs the next word of a stretch. -/
def wordGran (gr : SrcGroup) (x : SrcSeg) : SrcGran := gr.gran (x.ids.getD (x.done / 8 % max 1 x.ids.length) (x.hdr.getD 0))

/-- The idle beat in the place of the next word of a stretch. -/
def idleBeat (ch : Nat) (ps : List (Nat × Nat)) (per ts : Nat) (x : SrcSeg) (s : State) : TxBeat :=
  let p := posBeat ps per (x.start + x.done)
  { lane := p.2, deadline := ts + 2 * p.1, word := none, chan := ch, sent := s.now, reason := 2 }

/-- A beat is handed to the lane switch. -/
def offerBeat (g : Nat) (b : TxBeat) (s : State) : State := s.modGroup false g fun q => { q with launch := q.launch ++ [b] }

/-- A late word of granule `x` is counted and logged (R190). -/
def noteLate (ch : Nat) (x : SrcGran) (s : State) : State :=
  let u := s.count 0x00F (some ch) 1
  (if x.late then u else u.modSrc ch fun c => { c with lates := satAdd 0xFF c.lates 1 }).log .sourceLate ch

/-- The group goes on after a word, and what it needs no more is released (R189). -/
def passWord (ch g deadline : Nat) (gr : SrcGroup) (s : State) : State := (s.modSrcGroup ch g fun _ => gr).sweepGrans ch g (some deadline)

@[simp] theorem modSrc_lanes (ch : Nat) (f : Source → Source) (s : State) : (s.modSrc ch f).lanes = s.lanes := rfl

@[simp] theorem sweepGrans_lanes (ch g : Nat) (d : Option Nat) (s : State) : (s.sweepGrans ch g d).lanes = s.lanes := by
  have honly := sweepGrans_writes (μ := { chans := true, flt := true, cnt := true }) ch g d s (Only.refl _ s) rfl rfl rfl
  exact honly.lanes.resolve_left (by decide)

@[simp] theorem passWord_lanes (ch g deadline : Nat) (gr : SrcGroup) (s : State) : (passWord ch g deadline gr s).lanes = s.lanes :=
  sweepGrans_lanes ..

@[simp] theorem noteLate_lanes (ch : Nat) (x : SrcGran) (s : State) : (noteLate ch x s).lanes = s.lanes := by
  unfold noteLate
  split <;> simp

theorem group_of_lanes {s t : State} (h : t.lanes = s.lanes) (rx : Bool) (g : Nat) : t.group rx g = s.group rx g :=
  congrArg (fun l : Lanes => Sparse.get {} l.groups (if rx then 8 + g else g)) h

theorem offerBeat_launch (g : Nat) (b : TxBeat) (s : State) :
    ((offerBeat g b s).group false g).launch = (s.group false g).launch ++ [b] :=
  congrArg LaneGroup.launch (group_modGroup_same ..)

theorem offerBeat_grows (g : Nat) (b : TxBeat) (s : State) : LogGrows s (offerBeat g b s) := .of_flt (modGroup_flt ..)

theorem offerBeat_keeps (g : Nat) (b : TxBeat) (s : State) : Keeps s (offerBeat g b s) := modGroup_keeps _ _ _ _ (Keeps.refl s)

theorem leaveGran_grows (ch : Nat) (d : Option Nat) (x : SrcGran) (s : State) : LogGrows s (s.leaveGran ch d x) := by
  unfold State.leaveGran
  refine .ite (count_grows ..) ((count_grows ..).trans (.of_flt rfl))

theorem passWord_grows (ch g deadline : Nat) (gr : SrcGroup) (s : State) : LogGrows s (passWord ch g deadline gr s) := by
  refine LogGrows.from_flt (LogGrows.foldl (fun s x => leaveGran_grows ch (some deadline) x s) _ _) ?_
  rfl

/-- A late word is logged. -/
theorem noteLate_logged (ch : Nat) (x : SrcGran) {s u t : State} (hs : logsOk s) (h : LogGrows s u) (hu : logsOk u)
    (k : LogGrows (noteLate ch x u) t) : Logged .sourceLate ch s t := by
  have hcounted := count_grows 0x00F (some ch) 1 u fun _ => true
  have hkept := count_keeps 0x00F (some ch) 1 u (fun _ => true) (Keeps.refl u)
  unfold noteLate at k
  refine log_logged 0 0 0 false hs (h.trans ?_) ?_ k
  · exact .ite hcounted (hcounted.trans (.of_flt rfl))
  · exact (Keeps.ite hkept (modSrc_keeps _ _ _ hkept)).logs hu

section
variable {ch g per ts : Nat} {s : State} {ps : List (Nat × Nat)} {x : SrcSeg} {rest : List SrcSeg}
variable (hqueue : ((s.chan ch).src.group g).queue = []) (hpos : s.positions false g ch = some (ps, per, ts))
  (hsegs : ((s.chan ch).src.group g).segs = x :: rest)

include hpos hsegs in
/-- More than 12 ck before its deadline a word stays where it is. -/
theorem releaseWord_early (hearly : s.now + 12 < (idleBeat ch ps per ts x s).deadline) : s.releaseWord ch g = s := by
  have hwait : s.now + 12 < ts + 2 * (posBeat ps per (x.start + x.done)).1 := hearly
  unfold State.releaseWord
  simp only [hpos, hsegs]
  exact if_pos (by simp [hwait])

include hqueue hpos hsegs in
/-- From 12 ck before its deadline on a word of a good granule is handed over when its granule was ready in time (R189), and is late when
it was not, an idle beat taking its place until its deadline (R190). -/
theorem releaseWord_due (hkind : x.kind ≠ .hold) (hcons : ((s.chan ch).src.group g).cons ≤ x.start + x.done)
    (hstarved : (wordGran ((s.chan ch).src.group g) x).starved = false) (hbad : (wordGran ((s.chan ch).src.group g) x).bad = false)
    (hdue : ¬ s.now + 12 < (idleBeat ch ps per ts x s).deadline) :
    let y := wordGran ((s.chan ch).src.group g) x
    let b := idleBeat ch ps per ts x s
    ∃ gr, s.releaseWord ch g = passWord ch g b.deadline gr
      (if y.readyBy b.deadline then offerBeat g { b with word := some (y.words.getD (x.done % 8) 0) } s
        else noteLate ch y (if b.deadline < s.now then s else offerBeat g b s)) := by
  intro y b
  unfold State.releaseWord
  extract_lets c gr
  have hsegs : gr.segs = x :: rest := hsegs
  rw [hpos, hsegs]
  dsimp -zeta only
  extract_lets o p deadline w hold own src ready starved mute word reason s1 late s2 s3 s4 gr1 gr2
  have hnow : ¬ s.now + 12 < deadline := hdue
  rw [if_neg (by simp [hnow, lostTo_of_idle (g := gr) hqueue])]
  have hstarved : starved = false := hstarved
  have hsrc : src = some y := if_neg (by simp [hold, hkind])
  have hready : ready = y.readyBy deadline := by simp [ready, hsrc, show own = y from rfl]
  have hmute : mute = !ready := by simp [mute, hsrc, y, hbad, hstarved]
  have hlate : late = !ready := by simp [late, hsrc, y, hbad]
  have hreason : reason = 2 := by simp [reason, hsrc, y, hbad, hstarved]
  have hplaced : s1 = if mute && decide (deadline < s.now) then s
      else offerBeat g { b with word := if mute then none else some word } s := by
    have hfirst : decide (o < gr.cons) = false := decide_eq_false (Nat.not_lt.2 hcons)
    simp only [s1, hfirst, hreason, Bool.false_or]
    rfl
  refine ⟨gr2.handed, congrArg (passWord ch g deadline gr2.handed) ?_⟩
  change s4 = if y.readyBy deadline then _ else noteLate ch y (if deadline < s.now then s else offerBeat g b s)
  rw [← hready]
  cases hr : ready with
  | true =>
    have hword : word = y.words.getD w 0 := by simp [word, hsrc]
    simp [s4, hlate, hplaced, hmute, hr, hword, w]
  | false =>
    have hnoted : s4 = noteLate ch y s1 := by simp [s4, hlate, hr, hstarved, noteLate, s3, s2, show own = y from rfl]
    simp [hnoted, hplaced, hmute, hr, b, idleBeat]
end

/-! ## A record is complete (R205) -/

/-- What SECDED finds in a store changes no more of its channel than the integrity state. -/
theorem storeHit_chan (ch : Nat) (h : StoreHit) (s : State) : ∃ e, (s.storeHit ch h).chan ch = { s.chan ch with ecc := e } := by
  unfold State.storeHit State.noteFix
  split
  · exact ⟨_, log_chan ..⟩
  · split
    · exact ⟨_, chan_modChan_same ..⟩
    · exact ⟨_, rfl⟩

/-- The words of receive group `g` that no record has taken. -/
def heldWords (ch g : Nat) (s : State) : List (Nat × Option Word) := Sparse.get [] (s.chan ch).cap.acc g

/-- How many words make a record of group `g` (R207, R217). -/
def recordLen (x : Section) (g : Nat) : Nat := if x.addressedGroup g then 10 else 8

/-- The first `n` words of the group. -/
def recordWords (ch g n : Nat) (s : State) : List (Option Word) := ((heldWords ch g s).take n).map (·.2)

/-- The completion time of a record of `n` words (R205). -/
def recordDue (ch g n : Nat) (s : State) : Nat := (((heldWords ch g s).take n).getLast?.elim 0 fun y => y.1 / 8) + 10

/-- The `n` words of a record leave those of the group, and what SECDED found in its queue entry is noted (R205, R303). -/
def takeRecord (ch g n : Nat) (h : StoreHit) (s : State) : State :=
  (s.modCap ch fun k => { k with acc := Sparse.set [] k.acc g ((heldWords ch g s).drop n) }).storeHit ch h

theorem takeRecord_chan (ch g n : Nat) (h : StoreHit) (s : State) : ∃ e, (takeRecord ch g n h s).chan ch =
    { s.chan ch with
      ecc := e, cap := { (s.chan ch).cap with acc := Sparse.set [] (s.chan ch).cap.acc g ((heldWords ch g s).drop n) } } := by
  obtain ⟨e, he⟩ := storeHit_chan ch h (s.modCap ch fun k => { k with acc := Sparse.set [] k.acc g ((heldWords ch g s).drop n) })
  exact ⟨e, he.trans (by rw [State.modCap, chan_modChan_same])⟩

/-- Words that a double-bit error has spoilt are lost (R303). -/
def spoiled (h : StoreHit) (l : List (Option Word)) : List (Option Word) := if h == .double then l.map fun _ => none else l

theorem spoiled_of_ne_double {h : StoreHit} (hne : h ≠ .double) (l : List (Option Word)) : spoiled h l = l := if_neg (by simp [hne])

/-- The addressed record of words `vs`, complete at `t`, is accepted or refused (R217, R218): two of address, the rest the mask. -/
def enterAddressed (ch : Nat) (h : StoreHit) (vs : List (Option Word)) (t : Nat) (s : State) : State :=
  let m := spoiled h (vs.drop 2)
  (s.addressed ch (vs.getD 0 none) (vs.getD 1 none) (m.map (·.getD 0)) (m.any (·.isNone)) t).2

section
variable {ch g : Nat} {s : State} {x : Section} (hsect : (s.chan ch).seq.sect = some x) (hfunc : x.func = .capture)
include hsect hfunc

/-- A whole record that is complete leaves the words of its group (R205). A scheduled one is entered as such, and an addressed one as
such, unless the stream has stopped. -/
theorem execRecordComplete_whole (h : StoreHit) (hlen : recordLen x g ≤ (heldWords ch g s).length)
    (hdue : recordDue ch g (recordLen x g) s ≤ s.now) :
    execRecordComplete ch g h s = .next
      (let n := recordLen x g
      if x.addressedGroup g = false then
        (takeRecord ch g n h s).scheduledRecord ch g (spoiled h (recordWords ch g n s)) (recordDue ch g n s)
      else if (s.chan ch).seq.stopAt.isSome then takeRecord ch g n h s
      else enterAddressed ch h (recordWords ch g n s) (recordDue ch g n s) (takeRecord ch g n h s)) := by
  unfold execRecordComplete
  extract_lets +onlyGivenNames c sec
  obtain rfl : x = sec := by simp [sec, c, hsect]
  extract_lets addressed k ws t s1 vs s2 spoil m
  have hwhole : ¬ ws.length < k := Nat.not_lt.2 hlen
  have hnow : ¬ s.now < t := Nat.not_lt.2 hdue
  rw [if_neg (by simp [hfunc, hwhole, hnow])]
  cases hgroup : sec.addressedGroup g with
  | false => exact if_pos (by simp [addressed, hgroup])
  | true =>
    rw [if_neg (show ¬(!addressed) = true by simp [addressed, hgroup]), if_neg (show ¬true = false by simp)]
    by_cases hstop : c.seq.stopAt.isSome
    · rw [if_pos hstop, if_pos hstop]
      rfl
    · rw [if_neg hstop, if_neg hstop]
      rfl
end

/-- No record completes where none is captured, or of a group that does not hold a whole one. -/
theorem execRecordComplete_idle {ch g : Nat} {s : State} (h : StoreHit)
    (hidle : ((s.chan ch).seq.sect.getD {}).func ≠ .capture ∨ (heldWords ch g s).length < 8) :
    execRecordComplete ch g h s = .next s := by
  unfold execRecordComplete
  extract_lets c sec addressed n ws
  have hfew : sec.func ≠ .capture ∨ ws.length < n := hidle.imp_right fun hshort => by
    refine Nat.lt_of_lt_of_le hshort ?_
    dsimp only [n]
    split <;> omega
  exact if_pos (by simpa using .inl hfew)

/-! ## What a record leaves of its channel -/

theorem modCap_same {α : Type} {π : Capture → α} {f : Capture → Capture} (ch : Nat) (s : State) (h : ∀ k, π (f k) = π k) :
    Same (fun c => π c.cap) ch s (s.modCap ch f) := modChan_same s fun c => h c.cap

/-- The words not taken, and the queue of addressed records. -/
def recordPart (k : Capture) : List (Nat × List (Nat × Option Word)) × List CapRec := (k.acc, k.bankq)

/-- The words not taken and the queue of addressed records stay. -/
abbrev SameRecords (ch : Nat) (s t : State) : Prop := Same (fun c => recordPart c.cap) ch s t

theorem inputLoss_records (ch ival : Nat) (s : State) : SameRecords ch s (s.inputLoss ch ival) := modCap_same ch s fun _ => rfl

theorem consume_records (ch ival : Nat) (s : State) : SameRecords ch s (s.consume ch ival) := modCap_same ch s fun _ => rfl

theorem reject_records (ch r a ival : Nat) (s : State) : SameRecords ch s (s.reject ch r a ival) := by
  unfold State.reject
  extract_lets s1 s2 s3
  have hnoted : SameRecords ch s s1 := modCap_same ch s fun _ => rfl
  exact (hnoted.trans (inputLoss_records ..)).trans (Same.trans (.of_chan (count_chan ..)) (log_same ..))

/-- A scheduled record takes the next number of its group (R209), and leaves the words not taken. -/
theorem scheduledRecord_cap (ch g t : Nat) (ws : List (Option Word)) (s : State) : ∃ q l,
    ((s.scheduledRecord ch g ws t).chan ch).cap = { (s.chan ch).cap with
      recNo := Sparse.set 0 (s.chan ch).cap.recNo g (Sparse.get 0 (s.chan ch).cap.recNo g + 1), rxq := q, lostRecs := l } := by
  have hlast (u : State) (f : Capture → Capture) : ((u.modCap ch f).chan ch).cap = f (u.chan ch).cap :=
    congrArg Chan.cap (chan_modChan_same ..)
  unfold State.scheduledRecord
  extract_lets k n s1 waits r
  have hcounted : (s1.chan ch).cap = { k with recNo := Sparse.set 0 k.recNo g (n + 1) } := hlast ..
  split
  · exact ⟨_, _, hcounted⟩
  · split
    · exact ⟨_, _, hcounted⟩
    · split
      · exact ⟨_, _, by rw [hlast, hcounted]⟩
      · exact ⟨_, _, by rw [hlast, hcounted]⟩

/-- An addressed record leaves the words not taken (R217). -/
theorem addressed_acc (ch t : Nat) (w0 w1 : Option Word) (mask : List Word) (unknown : Bool) (s : State) :
    Same (fun c => c.cap.acc) ch s (s.addressed ch w0 w1 mask unknown t).2 := by
  have hof {s t : State} (h : SameRecords ch s t) : Same (fun c => c.cap.acc) ch s t := h.of_part Prod.fst fun _ => rfl
  have hrefused (r a ival : Nat) (s : State) : Same (fun c => c.cap.acc) ch s (s.reject ch r a ival) := hof (reject_records ..)
  unfold State.addressed
  extract_lets c ival sec
  split
  · extract_lets addr b charged r kept
    have hcharged : Same (fun c => c.cap.acc) ch s charged := modCap_same (π := Capture.acc) ch s fun _ => rfl
    have hkept : Same (fun c => c.cap.acc) ch s kept := hcharged.trans (.ite (hof (inputLoss_records ..)) (.refl ..))
    have hzero : Same (fun c => c.cap.acc) ch kept ((kept.consume ch ival).count 0x00C (some ch) 1) :=
      (hof (consume_records ..)).trans (.of_chan (count_chan ..))
    have hqueued : Same (fun c => c.cap.acc) ch kept (kept.modCap ch fun k => { k with bankq := k.bankq ++ [r] }) :=
      modCap_same (π := Capture.acc) ch kept fun _ => rfl
    simp only [apply_ite Prod.snd]
    exact .ite (hrefused ..) (.ite (hrefused ..) (.ite (hrefused ..) (.ite hkept
      (hkept.trans (.ite hzero (.ite (hrefused ..) hqueued))))))
  · dsimp only
    exact hrefused ..
  · dsimp only
    exact Same.trans (b := { s with freeNo := s.freeNo + 1 }) (.of_chan rfl) (hrefused ..)

/-- An addressed record that is in form, in range, within its rate and not zero joins the queue (R217, R218). -/
theorem addressed_queued {ch t : Nat} {a : Word} {mask : List Word} {s : State} (hform : a.toNat < 2 ^ 26) (halign : a.toNat % 4 = 0)
    (hrange : (s.chan ch).inPriv a.toNat = false) (hbank : (s.chan ch).tatB (a.toNat / 2 ^ 21) ≤ t) (hall : (s.chan ch).tatA ≤ t)
    (hserved : (s.chan ch).starved = false) (hmask : ∃ w ∈ mask, w ≠ 0) (hroom : (s.chan ch).cap.bankq.length < 64) (unknown : Bool) :
    ((s.addressed ch (some a) (some (~~~a)) mask unknown t).2.chan ch).cap.bankq.length = (s.chan ch).cap.bankq.length + 1 := by
  unfold State.addressed
  extract_lets c ival sec
  dsimp -zeta only
  extract_lets addr b charged r kept
  have haddr : addr = a.toNat := Nat.mod_eq_of_lt hform
  have hbits : a.toNat < 67108864 := hform
  have hcharged : (charged.chan ch).cap.bankq = c.cap.bankq := congrArg (·.cap.bankq) (chan_modChan_same ..)
  have hkept : (kept.chan ch).cap.bankq = c.cap.bankq := by
    simp only [kept]
    split
    · exact (congrArg Prod.snd (inputLoss_records ch ival charged)).trans hcharged
    · exact hcharged
  have hnonzero : r.zero = false := by simpa [CapRec.zero, r] using fun _ => hmask
  rw [if_neg (by simp [haddr, hbits, halign, c, hrange]), if_neg (by simp only [b, haddr, c]; omega), if_neg (by simp only [c]; omega),
    if_neg (by simp [c, hserved]), if_neg (by simp [hnonzero]), if_neg (by simpa [c] using hroom)]
  dsimp only
  rw [State.modCap, chan_modChan_same]
  simp [hkept, c]

theorem getD_recordWords {n i : Nat} (hi : i < n) (ch g : Nat) (s : State) :
    (recordWords ch g n s).getD i none = ((heldWords ch g s).getD i (0, none)).2 := by
  simp only [recordWords, List.getD_eq_getElem?_getD, List.getElem?_map, List.getElem?_take_of_lt hi]
  cases (heldWords ch g s)[i]? <;> rfl

/-- A mask with a word that is not zero has such a word among those after the two of address. -/
theorem exists_mask_ne_zero {vs : List (Option Word)} {i : Nat} (h : (vs.getD (2 + i) none).getD 0 ≠ 0) :
    ∃ w ∈ (vs.drop 2).map (·.getD 0), w ≠ 0 := by
  rw [List.getD_eq_getElem?_getD] at h
  cases hv : vs[2 + i]? with
  | none => simp [hv] at h
  | some v =>
    have hmem : v ∈ vs.drop 2 := List.mem_of_getElem? (i := i) (by rw [List.getElem?_drop, hv])
    exact ⟨v.getD 0, List.mem_map_of_mem hmem, by simpa [hv] using h⟩

/-- The words of a record have left those of its group. -/
theorem takeRecord_acc (ch g n : Nat) (h : StoreHit) (s : State) :
    Sparse.get [] ((takeRecord ch g n h s).chan ch).cap.acc g = (heldWords ch g s).drop n := by
  obtain ⟨e, he⟩ := takeRecord_chan ch g n h s
  simp [he, get_set]

/-- A scheduled record counts for its group (R209). -/
theorem scheduled_taken (ch g n t : Nat) (h : StoreHit) (ws : List (Option Word)) (s : State) :
    let u := (takeRecord ch g n h s).scheduledRecord ch g ws t
    Sparse.get [] (u.chan ch).cap.acc g = (heldWords ch g s).drop n ∧
      Sparse.get 0 (u.chan ch).cap.recNo g = Sparse.get 0 (s.chan ch).cap.recNo g + 1 := by
  obtain ⟨q, l, hcap⟩ := scheduledRecord_cap ch g t ws (takeRecord ch g n h s)
  obtain ⟨e, he⟩ := takeRecord_chan ch g n h s
  dsimp only
  rw [hcap]
  refine ⟨takeRecord_acc ch g n h s, ?_⟩
  simp [he, get_set]

/-- Whether an addressed record is accepted or refused, its words have left those of the group. -/
theorem addressed_taken (ch g n t : Nat) (h : StoreHit) (vs : List (Option Word)) (s : State) :
    Sparse.get [] ((enterAddressed ch h vs t (takeRecord ch g n h s)).chan ch).cap.acc g = (heldWords ch g s).drop n :=
  (congrArg (Sparse.get [] · g) (addressed_acc ..)).trans (takeRecord_acc ..)

/-- An addressed record that is accepted joins the queue, with its words taken from those of the group (R217, R218). -/
theorem enterAddressed_queued {ch g n t i : Nat} {h : StoreHit} {a : Word} {vs : List (Option Word)} {s : State} (hhit : h ≠ .double)
    (haddr : vs.getD 0 none = some a) (hcheck : vs.getD 1 none = some (~~~a)) (hform : a.toNat < 2 ^ 26) (halign : a.toNat % 4 = 0)
    (hrange : (s.chan ch).inPriv a.toNat = false) (hbank : (s.chan ch).tatB (a.toNat / 2 ^ 21) ≤ t) (hall : (s.chan ch).tatA ≤ t)
    (hserved : (s.chan ch).starved = false) (hmask : (vs.getD (2 + i) none).getD 0 ≠ 0) (hroom : (s.chan ch).cap.bankq.length < 64) :
    ((enterAddressed ch h vs t (takeRecord ch g n h s)).chan ch).cap.bankq.length = (s.chan ch).cap.bankq.length + 1 := by
  obtain ⟨e, he⟩ := takeRecord_chan ch g n h s
  unfold enterAddressed
  dsimp only
  rw [haddr, hcheck, spoiled_of_ne_double hhit, addressed_queued hform halign (by rw [he]; exact hrange) (by rw [he]; exact hbank)
    (by rw [he]; exact hall) (by rw [he]; exact hserved) (exists_mask_ne_zero hmask) (by rw [he]; exact hroom), he]

end Sys2Proof.Laws

namespace Sys2Proof.Proofs

open Sys2Proof Sys2Proof.Machine Sys2Proof.Laws

/-- The next word of a group stays until 12 ck before its deadline, and then leaves as it is or is late (R189, R190). -/
theorem wordRelease_hands {ch g per ts : Nat} {s : State} {sec : Section} {ps : List (Nat × Nat)} {x : SrcSeg} {rest : List SrcSeg}
    (hsect : (s.chan ch).seq.sect = some sec) (hfunc : sec.func = .source) (hstop : (s.chan ch).seq.stopAt = none)
    (hpos : s.positions false g ch = some (ps, per, ts)) (hqueue : ((s.chan ch).src.group g).queue = [])
    (hsegs : ((s.chan ch).src.group g).segs = x :: rest) (hkind : x.kind ≠ .hold)
    (hcons : ((s.chan ch).src.group g).cons ≤ x.start + x.done) (hstarved : (wordGran ((s.chan ch).src.group g) x).starved = false)
    (hbad : (wordGran ((s.chan ch).src.group g) x).bad = false) : ∃ t, exec (.wordRelease ch g) s = .next t ∧
      let y := wordGran ((s.chan ch).src.group g) x
      let b := idleBeat ch ps per ts x s
      if s.now + 12 < b.deadline then (t.group false g).launch = (s.group false g).launch
      else if y.readyBy b.deadline = true then
        (t.group false g).launch = (s.group false g).launch ++ [{ b with word := some (y.words.getD (x.done % 8) 0) }]
      else (s.now ≤ b.deadline → (t.group false g).launch = (s.group false g).launch ++ [b]) ∧
        (logsOk s → Logged .sourceLate ch s t) := by
  have hexec : exec (.wordRelease ch g) s = .next (s.releaseWord ch g) := by
    change execWordRelease ch g s = _
    simp [execWordRelease, hsect, hfunc, srcExpand_of_idle hqueue hstop]
  refine ⟨s.releaseWord ch g, hexec, ?_⟩
  intro y b
  by_cases hearly : s.now + 12 < b.deadline
  · rw [if_pos hearly, releaseWord_early hpos hsegs hearly]
  obtain ⟨gr, hrelease⟩ := releaseWord_due hqueue hpos hsegs hkind hcons hstarved hbad hearly
  rw [if_neg hearly, hrelease]
  by_cases hready : y.readyBy b.deadline = true
  · rw [if_pos hready, if_pos hready, group_of_lanes (passWord_lanes ..), offerBeat_launch]
  · rw [if_neg hready, if_neg hready]
    refine ⟨fun hnow => ?_, fun hs => ?_⟩
    · rw [group_of_lanes (passWord_lanes ..), group_of_lanes (noteLate_lanes ..), if_neg (Nat.not_lt.2 hnow), offerBeat_launch]
    · refine noteLate_logged ch y hs ?_ ?_ (passWord_grows ch g b.deadline gr _)
      · exact .ite (.refl s) (offerBeat_grows g b s)
      · exact (Keeps.ite (Keeps.refl s) (offerBeat_keeps g b s)).logs hs

/-- A whole record that is complete leaves the words of its group: a scheduled one counts for it (R209), and an addressed one that is
accepted joins the queue (R217, R218). -/
theorem recordComplete_takes {ch g : Nat} {h : StoreHit} {s : State} {x : Section} (hsect : (s.chan ch).seq.sect = some x)
    (hfunc : x.func = .capture) (hlen : recordLen x g ≤ (heldWords ch g s).length) (hdue : recordDue ch g (recordLen x g) s ≤ s.now) :
    let ws := heldWords ch g s
    let due := recordDue ch g (recordLen x g) s
    ∃ t, exec (.recordComplete ch g h) s = .next t ∧ Sparse.get [] (t.chan ch).cap.acc g = ws.drop (recordLen x g) ∧
      (x.addressedGroup g = false → Sparse.get 0 (t.chan ch).cap.recNo g = Sparse.get 0 (s.chan ch).cap.recNo g + 1) ∧
      ∀ a u b, x.addressedGroup g = true → h ≠ .double → (s.chan ch).seq.stopAt = none → (s.chan ch).starved = false →
        ws.getD 0 (0, none) = (u, some a) → ws.getD 1 (0, none) = (b, some (~~~a)) → a.toNat < 2 ^ 26 → a.toNat % 4 = 0 →
        (s.chan ch).inPriv a.toNat = false → (s.chan ch).tatB (a.toNat / 2 ^ 21) ≤ due → (s.chan ch).tatA ≤ due →
        (∃ i < 8, (ws.getD (2 + i) (0, none)).2.getD 0 ≠ 0) → (s.chan ch).cap.bankq.length < 64 →
        (t.chan ch).cap.bankq.length = (s.chan ch).cap.bankq.length + 1 := by
  intro ws due
  refine ⟨_, execRecordComplete_whole hsect hfunc h hlen hdue, ?_⟩
  dsimp only
  cases hgroup : x.addressedGroup g with
  | false =>
    rw [if_pos rfl]
    obtain ⟨hacc, hcount⟩ := scheduled_taken ch g (recordLen x g) due h (spoiled h (recordWords ch g (recordLen x g) s)) s
    exact ⟨hacc, fun _ => hcount, by simp⟩
  | true =>
    rw [if_neg (by simp)]
    refine ⟨?_, by simp, ?_⟩
    · split
      · exact takeRecord_acc ..
      · exact addressed_taken ..
    · rintro a u b - hhit hstop hserved haddr hcheck hform halign hrange hbank hall ⟨i, hi, hmask⟩ hroom
      have hten : recordLen x g = 10 := if_pos hgroup
      rw [if_neg (by simp [hstop])]
      refine enterAddressed_queued (i := i) hhit ?_ ?_ hform halign hrange hbank hall hserved ?_ hroom
      · rw [getD_recordWords (by omega), haddr]
      · rw [getD_recordWords (by omega), hcheck]
      · rwa [getD_recordWords (by omega)]

/-- Settles O28: a word through what its release does to the lanes and the log, a record through what is entered for it. -/
theorem wordsAndRecords : Obligations.WordsAndRecords := by
  refine ⟨fun ch g s sec ps per ts x rest hsect hfunc hstop hpos hqueue hsegs hkind hcons hstarved hbad =>
    wordRelease_hands hsect hfunc hstop hpos hqueue hsegs hkind hcons hstarved hbad, fun ch g h s x hsect hfunc hlen hdue => ?_,
    fun ch g h s => ⟨fun hsect => ⟨?_, ?_⟩, fun x hsect => ⟨fun hfunc => ?_, fun hidle => ?_⟩⟩⟩
  · exact recordComplete_takes hsect hfunc hlen hdue
  · change execWordRelease ch g s = _
    simp [execWordRelease, hsect]
  · exact execRecordComplete_idle h (.inl (by simp [hsect]))
  · change execWordRelease ch g s = _
    simp [execWordRelease, hsect, hfunc]
  · exact execRecordComplete_idle h (by rw [hsect]; exact hidle)

end Sys2Proof.Proofs

/-! PROOF. Direct Access: READ, FILL and WRITE start, wait or are refused (R250, R252 to R254, R262). -/

namespace Sys2Proof.Laws

open Sys2Proof Sys2Proof.Machine

/-! ## READ and FILL -/

/-- A checked READ or FILL starts once it may take a start place. -/
theorem startDa_started {n op : Nat} {s : State} {d : Desc} (hd : s.startable n op = some d) (hcheck : s.daCheck d = none)
    (hplace : s.mayTakePlace d = true) : s.startDa n op = s.daStart n d [] := by
  simp [State.startDa, hd, hcheck, hplace]

/-- Until then it waits. -/
theorem startDa_waits {n op : Nat} {s : State} {d : Desc} (hd : s.startable n op = some d) (hcheck : s.daCheck d = none)
    (hplace : s.mayTakePlace d = false) : s.startDa n op = s := by
  simp [State.startDa, hd, hcheck, hplace]

theorem startDa_of_none {n op : Nat} {s : State} (hd : s.startable n op = none) : s.startDa n op = s := by
  simp [State.startDa, hd]

/-- A descriptor that starts holds the data staged for it. -/
theorem daStart_started {n : Nat} {s : State} {d : Desc} (b : List Byte) (hd : d ∈ (s.ctx n).acc) :
    ∃ e ∈ ((s.daStart n d b).ctx n).acc, e.seq = d.seq ∧ e.phase = .started ∧ e.staged = b :=
  ⟨_, modDesc_mem hd _, rfl, rfl, rfl⟩

theorem daStart_begun {n : Nat} {s : State} {d : Desc} (b : List Byte) (hd : d ∈ (s.ctx n).acc) : Begun n d.seq (s.daStart n d b) :=
  modDesc_begun hd _ rfl rfl

/-! ## The data of a WRITE (R253) -/

/-- Request `x.2` of the data of `d`, issued once more when its first try fails. -/
def askPart (d : Desc) (s : State) (x : Fetch × Nat) : State :=
  let ask (s : State) : State := s.hostRead (d.hostAddr + 4096 * x.2) (min 4096 (d.daLen - 4096 * x.2))
  if firstTry x.1 then ask s else ask (ask s)

/-- What leaves for that request over PCI Express. -/
def partReads (d : Desc) (x : Fetch × Nat) : List Out :=
  List.replicate (if firstTry x.1 then 1 else 2) (.read (d.hostAddr + 4096 * x.2) (min 4096 (d.daLen - 4096 * x.2)))

/-- All data of `d` are asked for, and what arrived is counted. -/
def askAll (d : Desc) (fs : List Fetch) (s : State) : State :=
  (fs.zipIdx.foldl (askPart d) s).count 0x10C none ((fs.filterMap fetchData).foldl (fun a b => a + b.length) 0)

/-- Staging space for the data of `d` is taken. -/
def stageFor (d : Desc) (s : State) : State := { s with host := { s.host with stageUsed := s.host.stageUsed + d.daLen } }

theorem askPart_only (d : Desc) (s : State) (x : Fetch × Nat) : OnlyNet s (askPart d s x) := by
  unfold askPart
  split
  · exact hostRead_only ..
  · exact (hostRead_only ..).trans (hostRead_only ..)

/-- Asking for data leaves the contexts and the staging space as they are. -/
theorem askAll_only (d : Desc) (fs : List Fetch) (s : State) : OnlyNet s (askAll d fs s) :=
  (OnlyNet.foldl (askPart_only d)).trans (count_only ..).net

theorem askAll_ctx (d : Desc) (fs : List Fetch) (s : State) (k : Nat) : (askAll d fs s).ctx k = s.ctx k := by
  obtain ⟨_, _, _, _, h⟩ := askAll_only d fs s
  rw [h]
  rfl

theorem askAll_host (d : Desc) (fs : List Fetch) (s : State) : (askAll d fs s).host = s.host := by
  obtain ⟨_, _, _, _, h⟩ := askAll_only d fs s
  rw [h]

theorem hostRead_tor {a l : Nat} {s : State} (h : s.tor.pcieEn = true) : (s.hostRead a l).tor = s.tor := by
  simp [State.hostRead, h]

/-- Over PCI Express a request changes nothing but what leaves. -/
theorem askPart_pcie {d : Desc} {s : State} (x : Fetch × Nat) (h : s.tor.pcieEn = true) :
    (askPart d s x).tor = s.tor ∧ (askPart d s x).out = s.out ++ partReads d x := by
  unfold askPart partReads
  by_cases hfirst : firstTry x.1 = true
  · simp only [if_pos hfirst]
    exact ⟨hostRead_tor h, hostRead_out h⟩
  · simp only [if_neg hfirst]
    have hagain (a l : Nat) : (s.hostRead a l).tor.pcieEn = true := by rwa [hostRead_tor h]
    rw [hostRead_tor (hagain _ _), hostRead_tor h, hostRead_out (hagain _ _), hostRead_out h]
    exact ⟨rfl, List.append_assoc ..⟩

theorem foldl_askPart_out {d : Desc} (l : List (Fetch × Nat)) {s : State} (h : s.tor.pcieEn = true) :
    (l.foldl (askPart d) s).out = s.out ++ l.flatMap (partReads d) := by
  induction l generalizing s with
  | nil => simp
  | cons x l ih =>
    obtain ⟨htor, hout⟩ := askPart_pcie (d := d) x h
    rw [List.foldl_cons, ih (by rwa [htor]), hout, List.flatMap_cons, List.append_assoc]

theorem askAll_out {d : Desc} (fs : List Fetch) {s : State} (h : s.tor.pcieEn = true) :
    (askAll d fs s).out = s.out ++ fs.zipIdx.flatMap (partReads d) := by
  rw [askAll, count_out, foldl_askPart_out _ h]

/-! ## WRITE -/

theorem execWrite_of_none {n : Nat} {s : State} (fs : List Fetch) (hd : s.startable n 0x11 = none) : exec (.write n fs) s = .next s := by
  change execWrite n fs s = _
  simp [execWrite, hd]

section

variable {n : Nat} {fs : List Fetch} {s : State} {d : Desc} (hd : s.startable n 0x11 = some d) (hcheck : s.daCheck d = none)
include hd hcheck

/-- A checked WRITE waits for a start place, a host interface and room for its data. -/
theorem execWrite_waits (h : s.mayTakePlace d = false ∨ s.hostUp = false ∨ 2 ^ 20 < s.host.stageUsed + d.daLen) :
    exec (.write n fs) s = .next s := by
  change execWrite n fs s = _
  unfold execWrite
  simp only [hd, hcheck]
  exact if_pos (by simpa [or_assoc] using h)

/-- With all three it asks for its data; it is refused when a request failed twice, and else starts with them staged. -/
theorem execWrite_asks (h : ¬(s.mayTakePlace d = false ∨ s.hostUp = false ∨ 2 ^ 20 < s.host.stageUsed + d.daLen))
    (hlen : fs.length = (d.daLen + 4095) / 4096) :
    exec (.write n fs) s = if fs.any fun f => (fetchData f).isNone then .next ((askAll d fs s).finish n d.seq 0x0042)
      else .next ((stageFor d (askAll d fs s)).daStart n d (fs.filterMap fetchData).flatten) := by
  change execWrite n fs s = _
  unfold execWrite
  simp only [hd, hcheck]
  exact (if_neg (by simpa [or_assoc] using h)).trans (if_neg (not_not.2 hlen))

end

end Sys2Proof.Laws

namespace Sys2Proof.Proofs

open Sys2Proof Sys2Proof.Machine Sys2Proof.Laws

/-- What is next in its context as a READ or FILL is answered with the first check it fails, starts, or waits (R250, R262). -/
theorem startDa_starts {n op : Nat} {s : State} {d : Desc} (hd : s.startable n op = some d) :
    (∀ st, s.daCheck d = some st → Answered n d.seq st (s.startDa n op)) ∧
      (s.daCheck d = none → s.mayTakePlace d = true → Begun n d.seq (s.startDa n op)) ∧
      (s.daCheck d = none → s.mayTakePlace d = false → s.startDa n op = s) := by
  refine ⟨fun st hst => ?_, fun hcheck hplace => ?_, startDa_waits hd⟩
  · rw [startDa_refused hd hst]
    exact finish_startable hd st
  · obtain ⟨hmem, -⟩ := startable_spec hd
    rw [startDa_started hd hcheck hplace]
    exact daStart_begun [] hmem

/-- A checked WRITE waits, is refused because data did not arrive, or starts with all of them staged (R253, R262). -/
theorem write_starts {n : Nat} {fs : List Fetch} {s : State} {d : Desc} (hd : s.startable n 0x11 = some d) (hcheck : s.daCheck d = none)
    (hlen : fs.length = (d.daLen + 4095) / 4096) : ∃ t, exec (.write n fs) s = .next t ∧
      if s.mayTakePlace d = false ∨ s.hostUp = false ∨ 2 ^ 20 < s.host.stageUsed + d.daLen then t = s
      else if ∃ f ∈ fs, fetchData f = none then Answered n d.seq 0x0042 t
      else t.host.stageUsed = s.host.stageUsed + d.daLen ∧
        (∃ e ∈ (t.ctx n).acc, e.seq = d.seq ∧ e.phase = .started ∧ e.staged = (fs.filterMap fetchData).flatten) ∧
        (s.tor.pcieEn = true → t.out = s.out ++ fs.zipIdx.flatMap (partReads d)) := by
  by_cases hwait : s.mayTakePlace d = false ∨ s.hostUp = false ∨ 2 ^ 20 < s.host.stageUsed + d.daLen
  · exact ⟨s, execWrite_waits hd hcheck hwait, by rw [if_pos hwait]⟩
  obtain ⟨hmem, hphase, -⟩ := startable_spec hd
  have hasked : d ∈ ((askAll d fs s).ctx n).acc := by rwa [askAll_ctx]
  simp only [if_neg hwait, execWrite_asks hd hcheck hwait hlen]
  by_cases hfail : ∃ f ∈ fs, fetchData f = none
  · refine ⟨_, if_pos (by simpa using hfail), ?_⟩
    rw [if_pos hfail]
    exact finish_answered hasked (by simp [hphase]) _ _ _
  · refine ⟨_, if_neg (by simpa using hfail), ?_⟩
    rw [if_neg hfail]
    refine ⟨?_, daStart_started (s := stageFor d (askAll d fs s)) _ hasked, fun hpcie => askAll_out fs hpcie⟩
    exact congrArg (·.stageUsed + d.daLen) (askAll_host d fs s)

/-- Settles O2: READ and FILL through one lemma, a WRITE through what asking for its data sends and leaves. That the second try of a
request leaves right after its first is the model's convention (log 4); log 159 stands inside the check of the range. -/
theorem directAccessStarts : Obligations.DirectAccessStarts :=
  ⟨fun _ _ _ hd => ⟨_, rfl, startDa_starts hd⟩, fun _ _ _ hd => ⟨_, rfl, startDa_starts hd⟩,
    fun _ fs _ _ st hd hst => ⟨_, execWrite_refused fs hd hst, finish_startable hd st⟩,
    fun _ _ _ _ hd hcheck hlen => write_starts hd hcheck hlen,
    fun _ fs _ => ⟨fun hd => congrArg _ (startDa_of_none hd), fun hd => congrArg _ (startDa_of_none hd), execWrite_of_none fs⟩⟩

end Sys2Proof.Proofs

/-! PROOF. O29: a function halts when copies disagree, and slices run to the end of their round (R303, R523 to R525). -/

namespace Sys2Proof.Laws

open Sys2Proof Sys2Proof.Machine

/-! ## What is logged while the streams of a channel stop (R199) -/

theorem logAt_grows (o : Occurrence) (s : State) : LogGrows s (s.logAt o) := (logRaw_grows o s).trans (logOverflows_grows ..)

theorem log_grows (c : Cause) (i : Nat) (s : State) (d0 d1 d2 : Nat) (a : Bool) : LogGrows s (s.log c i d0 d1 d2 a) := logAt_grows ..

theorem sweepGrans_grows (ch g : Nat) (d : Option Nat) (s : State) : LogGrows s (s.sweepGrans ch g d) :=
  (LogGrows.foldl (fun s x => leaveGran_grows ch d x s) _ _).from_flt rfl

theorem dropGran_grows (ch g id : Nat) (s : State) : LogGrows s (s.dropGran ch g id) := .ite (.refl s) (.of_flt rfl)

theorem settleMarks_grows (ch g : Nat) (s : State) : LogGrows s (s.settleMarks ch g) := .ite (.refl s) (.of_flt rfl)

theorem srcEvents_grows (ch g : Nat) (e : SrcEvents) (s : State) : LogGrows s (s.srcEvents ch g e) := by
  unfold State.srcEvents
  extract_lets s1 s2 s3
  have hdrops : LogGrows s s1 := LogGrows.foldl (fun s id => dropGran_grows ch g id s) _ _
  have hheader : LogGrows s s2 := .ite (hdrops.trans (log_grows ..)) hdrops
  have hoverlaps : LogGrows s s3 := hheader.trans (LogGrows.foldl (fun s t => logAt_grows _ s) _ _)
  exact hoverlaps.trans ((settleMarks_grows ..).trans (sweepGrans_grows ..))

theorem srcPrep_grows (n ch g : Nat) (s : State) : LogGrows s (State.srcPrep n ch g s) := by
  induction n generalizing s with
  | zero => exact .refl s
  | succ n ih =>
    unfold State.srcPrep
    extract_lets c
    split
    · exact .refl s
    · exact ((srcEvents_grows ..).trans (ih _)).from_flt rfl

theorem stopStreams_grows (ch : Nat) (s : State) : LogGrows s (s.stopStreams ch) :=
  (LogGrows.foldl (fun s g => (sweepGrans_grows ch g none s).trans (srcPrep_grows _ ch g _)) _ _).from_flt rfl

theorem haltSlots_grows (ch cause : Nat) (s : State) : LogGrows s (s.haltSlots ch cause) :=
  .ite ((stopStreams_grows ..).from_flt rfl) (.refl s)

/-! ## A function that issues no further slot (R303, R524) -/

/-- How far a function has stopped: the channel's state, and the last slot issued. -/
def haltPart (c : Chan) : ChState × Option Nat := (c.state, c.seq.stopAt)

/-- Channel `ch` is stopping, and the slot at ck `b` was its last. -/
def Halted (ch b : Nat) (s : State) : Prop := haltPart (s.chan ch) = (.stopping, some b)

theorem Halted.of_same {ch b : Nat} {s t : State} (h : Halted ch b s) (k : Same haltPart ch s t) : Halted ch b t := Eq.trans k h

theorem Halted.parts {ch b : Nat} {s : State} (h : Halted ch b s) : (s.chan ch).state = .stopping ∧ (s.chan ch).seq.stopAt = some b :=
  Prod.mk.inj h

theorem lastSlot_halted {ch : Nat} {s : State} (t : Nat) (h : (s.chan ch).state = .stopping) : Halted ch t (s.lastSlot ch t) := by
  refine Eq.trans ((stopStreams_sourceOnly ..).of_part haltPart fun _ => rfl) ?_
  rw [chan_modChan_same, haltPart, h]

/-- Whether a bobbin is in service: its function, and the retirement that waits. -/
def servicePart (c : Chan) : Func × Bool := (c.func, c.retirePend)

theorem lastSlot_service (ch t : Nat) (s : State) : Same servicePart ch s (s.lastSlot ch t) := by
  refine Same.trans ?_ ((stopStreams_sourceOnly ..).of_part servicePart fun _ => rfl)
  exact modChan_same s fun _ => rfl

/-- A running function halts after the slot it issued last. -/
theorem haltSlots_halted {ch : Nat} {s : State} (cause : Nat) (hrun : (s.chan ch).state = .running)
    (hstop : (s.chan ch).seq.stopAt = none) :
    Halted ch ((s.chan ch).seq.slotCk - 1) (s.haltSlots ch cause) := by
  unfold State.haltSlots
  simp only [hrun, hstop]
  refine lastSlot_halted _ ?_
  rw [chan_modChan_same]

theorem haltSlots_service (ch cause : Nat) (s : State) : Same servicePart ch s (s.haltSlots ch cause) := by
  refine .ite (Same.trans ?_ (lastSlot_service ..)) (.refl ..)
  exact modChan_same s fun _ => rfl

/-- One that has halted does not halt again. -/
theorem Halted.haltSlots {ch b : Nat} {s : State} (h : Halted ch b s) (cause : Nat) : s.haltSlots ch cause = s := by
  obtain ⟨-, hstop⟩ := h.parts
  simp [State.haltSlots, hstop]

theorem loseDirect_same {α : Type} {π : Chan → α} (hπ : ∀ c i l, π { c with da := { c.da with init := i }, retLost := l } = π c)
    (k ch : Nat) (s : State) : Same π k s (s.loseDirect ch) := by
  refine Same.foldl (fun s n => Same.foldl (fun s d => ?_) _ s) _ s
  refine Same.trans ?_ (finish_same hπ ..)
  exact .ite (.of_chan rfl) (.refl ..)

/-- A bobbin that fails while its function stops is retired once the stop is over (R525). -/
theorem Halted.retireNow {ch b : Nat} {s : State} (h : Halted ch b s) (cause : Nat) : Halted ch b (s.retireNow ch cause) := by
  obtain ⟨hstate, -⟩ := h.parts
  have hpend : Same haltPart ch s (s.modChan ch fun c => { c with retirePend := true, retireAtOnce := true }) := modChan_same s fun _ => rfl
  simp only [State.retireNow, hstate, h.haltSlots]
  exact h.of_same (hpend.trans (loseDirect_same (fun _ _ _ => rfl) ..))

/-! ## The slices of a round (R520 to R525) -/

/-- A slice, also one that fails, leaves its function halted as it was. -/
theorem Halted.bistSlice {ch b : Nat} {s : State} (h : Halted ch b s) (d : SliceDiff) : Halted ch b (s.bistSlice ch d) := by
  unfold State.bistSlice
  extract_lets b0 put s1 s2
  have hput {s : State} (h : Halted ch b s) (f : Bist → Bist) : Halted ch b (put f s) := h.of_same (modChan_same s fun _ => rfl)
  clear_value put
  have hlog {s : State} (h : Halted ch b s) (c : Cause) : Halted ch b (s.log c ch) := h.of_same (log_same ..)
  have htaken : Halted ch b s1 := h.of_same (modChan_same s fun _ => rfl)
  split
  · exact hput htaken _
  · have hfailed : Halted ch b s2 := hlog (hput htaken _) _
    split
    · exact (hlog hfailed _).retireNow 6
    · exact hfailed

theorem Halted.restOfRound {ch b : Nat} (l : List SliceDiff) {s : State} (h : Halted ch b s) : Halted ch b (State.restOfRound ch l s) := by
  induction l generalizing s with
  | nil => exact h
  | cons d l ih =>
    unfold State.restOfRound
    extract_lets s1 b1
    split
    · exact h
    · split
      · exact h.bistSlice d
      · exact ih (h.bistSlice d)

@[simp] theorem slicePasses_nil (i : Nat) : slicePasses i [] = true := by simp [slicePasses]

/-- A slice that sound logic answers passes, so that it changes the self-test's own state only (R523). -/
theorem bistSlice_sound (ch : Nat) (s : State) : (s.bistSlice ch []).flt = s.flt ∧ Same servicePart ch s (s.bistSlice ch []) := by
  have htaken : Same servicePart ch s (s.modChan ch fun c => { c with maint := { c.maint with bist := false } }) :=
    modChan_same s fun _ => rfl
  simp only [State.bistSlice, slicePasses_nil, if_true]
  exact ⟨rfl, htaken.trans (modChan_same _ fun _ => rfl)⟩

theorem restOfRound_sound (ch n : Nat) (s : State) : (State.restOfRound ch (List.replicate n []) s).flt = s.flt ∧
    Same servicePart ch s (State.restOfRound ch (List.replicate n []) s) := by
  induction n generalizing s with
  | zero => exact ⟨rfl, .refl ..⟩
  | succ n ih =>
    obtain ⟨hflt, hsame⟩ := bistSlice_sound ch s
    obtain ⟨hrest, hlast⟩ := ih (s.bistSlice ch [])
    rw [List.replicate_succ]
    unfold State.restOfRound
    extract_lets s1 b1
    split
    · exact ⟨rfl, .refl ..⟩
    · split
      · exact ⟨hflt, hsame⟩
      · exact ⟨hrest.trans hflt, hsame.trans hlast⟩

/-! ## Copies that disagree (R524) -/

/-- The function halts, and slices run from 56 to the end of the round. -/
def lockstepRound (ch : Nat) (g : List SliceDiff) (s : State) : State :=
  State.restOfRound ch (g ++ List.replicate 16 [])
    ((s.haltSlots ch 8).modChan ch fun c => { c with bist := { c.bist with next := 56, retest := false } })

/-- A bobbin that is sound takes up the round it was in, and the disagreement is logged. -/
def lockstepEnd (ch : Nat) (was : Bist) (s : State) : State :=
  (s.modChan ch fun c => { c with bist := { was with mismatches := c.bist.mismatches } }).log .lockstep ch

theorem execLockstep_retired {ch : Nat} {s : State} (g : List SliceDiff) (h : (s.chan ch).func = .retired) :
    execLockstep ch g s = .next s := by
  simp [execLockstep, h]

/-- A bobbin that fails a slice is left to its retirement (R525). -/
theorem execLockstep_fails {ch : Nat} {s : State} {g : List SliceDiff} (h : (s.chan ch).func ≠ .retired)
    (hgone : ((lockstepRound ch g s).chan ch).gone = true) : execLockstep ch g s = .next (lockstepRound ch g s) :=
  (if_neg (by simpa using h)).trans (if_pos hgone)

theorem execLockstep_passes {ch : Nat} {s : State} {g : List SliceDiff} (h : (s.chan ch).func ≠ .retired)
    (hgone : ((lockstepRound ch g s).chan ch).gone ≠ true) :
    execLockstep ch g s = .next (lockstepEnd ch (s.chan ch).bist (lockstepRound ch g s)) :=
  (if_neg (by simpa using h)).trans (if_neg hgone)

theorem lockstepRound_halted {ch : Nat} {s : State} (g : List SliceDiff) (hrun : (s.chan ch).state = .running)
    (hstop : (s.chan ch).seq.stopAt = none) : Halted ch ((s.chan ch).seq.slotCk - 1) (lockstepRound ch g s) := by
  refine Halted.restOfRound _ ((haltSlots_halted 8 hrun hstop).of_same (modChan_same _ fun _ => ?_))
  rfl

/-- A round whose slices all pass leaves the bobbin in service as it was. -/
theorem lockstepRound_service (ch : Nat) (s : State) : Same servicePart ch s (lockstepRound ch [] s) := by
  have hset (s : State) (f : Chan → Bist) : Same servicePart ch s (s.modChan ch fun c => { c with bist := f c }) :=
    modChan_same s fun _ => rfl
  exact (haltSlots_service ch 8 s).trans ((hset _ _).trans (restOfRound_sound ch 16 _).2)

theorem lockstepRound_grows (ch : Nat) (s : State) : LogGrows s (lockstepRound ch [] s) :=
  (haltSlots_grows ch 8 s).trans (.of_flt (restOfRound_sound ch 16 _).1)

theorem lockstepRound_keeps (ch : Nat) (g : List SliceDiff) (s : State) : Keeps s (lockstepRound ch g s) :=
  restOfRound_keeps _ _ _ (modChan_keeps _ _ _ (haltSlots_keeps _ _ _ (Keeps.refl s)))

theorem lockstepEnd_same {α : Type} {π : Chan → α} (hπ : ∀ c b, π { c with bist := b } = π c) (ch : Nat) (was : Bist)
    (s : State) : Same π ch s (lockstepEnd ch was s) := by
  have hback : Same π ch s (s.modChan ch fun c => { c with bist := { was with mismatches := c.bist.mismatches } }) :=
    modChan_same s fun c => hπ c _
  exact hback.trans (log_same ..)

theorem lockstepEnd_logged (ch : Nat) (was : Bist) {s u : State} (hs : logsOk s) (h : LogGrows s u) (hu : logsOk u) :
    Logged .lockstep ch s (lockstepEnd ch was u) :=
  log_logged 0 0 0 false hs (h.trans (.of_flt rfl)) (u := u.modChan ch _) hu (.refl _)

/-! ## The late mark of a scrub pass (R298) -/

/-- The mark that a pass is late leaves the period. -/
theorem checkLate_period (ch : Nat) (s : State) : Same (fun c => (c.ecc.period, c.ecc.periodPend)) ch s (s.checkLate ch) := by
  have hmarked : Same (fun c => (c.ecc.period, c.ecc.periodPend)) ch s
      (s.modChan ch fun c => { c with ecc := { c.ecc with passLate := true, late := true } }) := modChan_same s fun _ => rfl
  exact .ite (hmarked.trans (log_same ..)) (.refl ..)

end Sys2Proof.Laws

namespace Sys2Proof.Proofs

open Sys2Proof Sys2Proof.Machine Sys2Proof.Laws

/-- A new period begins with a clear filter and the period that was pending (R286, R293). -/
theorem scrubPeriod_begins {ch : Nat} {s : State} (h : (s.chan ch).ecc.lastBoundary < s.lastGrid (s.chan ch).ecc.periodCk) :
    ∃ t, exec (.scrubPeriodBoundary ch) s = .next t ∧ (t.chan ch).ecc.filter = [] ∧ (t.chan ch).ecc.periodPend = none ∧
      (t.chan ch).ecc.period = (s.chan ch).ecc.periodPend.getD (s.chan ch).ecc.period ∧
      (t.chan ch).ecc.lastBoundary = s.lastGrid (s.chan ch).ecc.periodCk := by
  obtain ⟨hperiod, hpend⟩ := Prod.mk.inj (checkLate_period ch s)
  refine ⟨_, if_neg (Nat.not_le.2 h), ?_⟩
  rw [chan_modChan_same, ← hperiod, ← hpend]
  exact ⟨rfl, rfl, rfl, rfl⟩

/-- A full window leaves, and every count of the monitor restarts (R318). -/
theorem monitorWindow_restarts {ch : Nat} {s : State} (h : 65536 ≤ (s.chan ch).eyes.decodes) :
    ∃ t, exec (.monitorWindow ch) s = .next t ∧ (t.chan ch).eyes.decodes = (s.chan ch).eyes.decodes - 65536 ∧
      ∀ x ∈ (t.chan ch).eyes.mon, x.2.cnt = 0 := by
  refine ⟨_, if_neg (Nat.not_lt.2 h), ?_⟩
  rw [State.modEyes, chan_modChan_same]
  refine ⟨rfl, fun x hx => ?_⟩
  obtain ⟨_, -, rfl⟩ := List.mem_map.1 hx
  rfl

/-- Only a channel whose idle schedule has run for 16,000,000,000 ck has self-test work due (R522). -/
theorem bistTimer_due_iff (c : Chan) (now : Nat) :
    ((c.state == .idle || c.state == .stopped || c.state == .starting) && now ≥ c.bist.lastIdle + 16000000000) = true ↔
      (c.state = .idle ∨ c.state = .stopped ∨ c.state = .starting) ∧ c.bist.lastIdle + 16000000000 ≤ now := by
  simp [or_assoc]

theorem bistIdleTimer_pends {ch : Nat} {s : State}
    (hidle : (s.chan ch).state = .idle ∨ (s.chan ch).state = .stopped ∨ (s.chan ch).state = .starting)
    (hdue : (s.chan ch).bist.lastIdle + 16000000000 ≤ s.now) :
    ∃ t, exec (.bistIdleTimer ch) s = .next t ∧ (t.chan ch).maint.bist = true ∧ (t.chan ch).bist.lastIdle = s.now := by
  refine ⟨_, if_pos ((bistTimer_due_iff ..).2 ⟨hidle, hdue⟩), ?_⟩
  rw [chan_modChan_same]
  exact ⟨rfl, rfl⟩

theorem bistIdleTimer_waits {ch : Nat} {s : State} (h : (s.chan ch).state = .running ∨ (s.chan ch).state = .stopping ∨
    (s.chan ch).state = .retired ∨ s.now < (s.chan ch).bist.lastIdle + 16000000000) : exec (.bistIdleTimer ch) s = .next s := by
  refine if_neg fun hdue => ?_
  obtain ⟨hidle, hdue⟩ := (bistTimer_due_iff ..).1 hdue
  rcases h with h | h | h | h
  · simp [h] at hidle
  · simp [h] at hidle
  · simp [h] at hidle
  · omega

/-- Copies that disagree stop the function at once; when its slices pass, the bobbin stays in service and the disagreement is logged
(R524, R525). -/
theorem lockstep_stops {ch : Nat} {s : State} (g : List SliceDiff) (hfunc : (s.chan ch).func ≠ .retired)
    (hrun : (s.chan ch).state = .running) (hstop : (s.chan ch).seq.stopAt = none) (hpend : (s.chan ch).retirePend = false) :
    ∃ t, exec (.lockstep ch g) s = .next t ∧ (t.chan ch).state = .stopping ∧
      (t.chan ch).seq.stopAt = some ((s.chan ch).seq.slotCk - 1) ∧
      (g = [] → (t.chan ch).retirePend = (s.chan ch).retirePend ∧ (logsOk s → Logged .lockstep ch s t)) := by
  have hround := lockstepRound_halted g hrun hstop
  by_cases hgone : ((lockstepRound ch g s).chan ch).gone = true
  · obtain ⟨hstate, hlast⟩ := hround.parts
    refine ⟨_, execLockstep_fails hfunc hgone, hstate, hlast, ?_⟩
    rintro rfl
    obtain ⟨hin, hkept⟩ := Prod.mk.inj (lockstepRound_service ch s)
    simp [Chan.gone, hin, hkept, hfunc, hpend] at hgone
  · obtain ⟨hstate, hlast⟩ := (hround.of_same (lockstepEnd_same (fun _ _ => rfl) ch (s.chan ch).bist _)).parts
    refine ⟨_, execLockstep_passes hfunc hgone, hstate, hlast, ?_⟩
    rintro rfl
    have hkept : Same servicePart ch s (lockstepEnd ch (s.chan ch).bist (lockstepRound ch [] s)) :=
      (lockstepRound_service ch s).trans (lockstepEnd_same (fun _ _ => rfl) ..)
    obtain ⟨-, hstays⟩ := Prod.mk.inj hkept
    refine ⟨hstays, fun hs => ?_⟩
    exact lockstepEnd_logged ch _ hs (lockstepRound_grows ch s) ((lockstepRound_keeps ch [] s).logs hs)

/-- Settles O29: the boundary, the window and the timer by what they change of their channel, a disagreement by how its function halts and
what the slices after it leave. That the slices run within the command and the round is then taken up where it was is the
model's choice (log 78). -/
theorem maintenanceEvents : Obligations.MaintenanceEvents :=
  ⟨fun _ _ => scrubPeriod_begins, fun _ _ => monitorWindow_restarts, fun _ _ => bistIdleTimer_pends, fun _ g _ => lockstep_stops g,
    fun _ g _ => ⟨fun h => if_pos h, fun h => if_pos h, bistIdleTimer_waits, execLockstep_retired g⟩⟩

end Sys2Proof.Proofs

/-! PROOF. The thermal block (R337 to R358): what the operations of a sample, a trip and an evaluation leave of it. -/

namespace Sys2Proof.Laws

open Sys2Proof Sys2Proof.Machine

/-! ## What leaves the thermal block alone -/

theorem thm_of_only {m : Writes} {s t : State} (h : Only m s t) (hm : m.thm = false) : t.thm = s.thm :=
  h.thm.resolve_left (by simp [hm])

/-- What an operation on the elements of a list leaves alone, all of them together leave alone. -/
theorem foldl_leaves {α β : Type} {π : State → β} {f : State → α → State} (hf : ∀ s x, π (f s x) = π s) (l : List α)
    (s : State) : π (l.foldl f s) = π s := by
  induction l generalizing s with
  | nil => rfl
  | cons x l ih => exact (ih _).trans (hf s x)

/-- Every kind of state but the thermal and the power block. -/
def besidesThmPwr : Writes :=
  { now := true, freeNo := true, members := true, gradeE := true, chans := true, frozen := true, ctxs := true, journal := true,
    dram := true, host := true, flt := true, cnt := true, lanes := true, tor := true, hoop := true, otp := true, smb := true,
    idDefault := true, serial := true, out := true }

/-! ## Entries that are no longer active (R467) -/

/-- Where the conditions of the entries with a property end, no entry with it is active. -/
theorem inactive_of_mem_map (p : FltEntry → Bool) {l : List (Nat × FltEntry)} {e : Nat × FltEntry}
    (he : e ∈ l.map fun e => if p e.2 then (e.1, { e.2 with active := false }) else e) (hp : p e.2 = true) : e.2.active = false := by
  obtain ⟨x, -, hx⟩ := List.mem_map.1 he
  by_cases h : p x.2 = true
  · rw [if_pos h] at hx
    rw [← hx]
  · rw [if_neg h] at hx
    exact absurd (hx ▸ hp) h

/-- The end of a condition leaves no entry of its cause and INSTANCE active. -/
theorem condEnd_inactive {b c i : Nat} {s : State} {e : Nat × FltEntry} (he : e ∈ (s.condEnd b c i).flt.log) (hb : e.2.blk = b)
    (hc : e.2.cause = c) (hi : e.2.inst = i) : e.2.active = false :=
  inactive_of_mem_map (fun e => e.blk == b && e.cause == c && e.inst == i) he (by simp [hb, hc, hi])

/-! ## Refresh bands (R340, R341) -/

/-- What of the state says in which band the dies are, and when they were sampled. -/
def bandPart (s : State) : List (Nat × Nat) × Nat × List (Nat × Chan) := (s.thm.bands, s.thm.lastSample, s.chans)

theorem thermalRecord_bandPart (k i : Nat) (t : Int) (s : State) : bandPart (s.thermalRecord k i t) = bandPart s := rfl

/-- The channels of die `d` accrue at the rate of band `k` from ck `t` on. -/
def rateDie (d k t : Nat) (l : List Nat) (s : State) : State :=
  l.foldl (fun s j => s.modChan (8 * d + j) fun c => { c with refr := { c.refr.bring t with band := k } }) s

theorem rateDie_thm (d k t : Nat) (l : List Nat) (s : State) : (rateDie d k t l s).thm = s.thm := by
  refine foldl_leaves (π := State.thm) (fun s j => ?_) l s
  rfl

theorem rateDie_band (d k t : Nat) (l : List Nat) {j : Nat} {s : State} (h : j ∈ l ∨ (s.chan (8 * d + j)).refr.band = k) :
    ((rateDie d k t l s).chan (8 * d + j)).refr.band = k := by
  induction l generalizing s with
  | nil => exact h.resolve_left List.not_mem_nil
  | cons x l ih =>
    refine ih (or_iff_not_imp_left.2 fun hj => ?_)
    rw [chan_modChan]
    split
    · rfl
    · next hne => exact h.resolve_left fun hmem => (List.mem_cons.1 hmem).elim (fun e => hne (by rw [e])) hj

/-- What the begin or the end of an excursion logs and records leaves the bands. -/
theorem excursion_bandPart (up down : Bool) (i : Nat) (t : Int) (s : State) :
    bandPart (if up then (s.thermalRecord 4 i t).log .gradeExcursion 0 0 0 0 true
      else if down then (s.thermalRecord 5 i t).condEnd 0x00 0x03 0 else s) = bandPart s := by
  split
  · rw [bandPart, log_thm, log_chans]
    exact thermalRecord_bandPart 4 i t s
  · split
    · exact thermalRecord_bandPart 5 i t s
    · rfl

/-- Die `d` is in band `k`, and no sample below the edge is counted. -/
def inBand (d k : Nat) (s : State) : State :=
  s.modThm fun m => { m with bands := Sparse.set 1 m.bands d k, falls := Sparse.set 0 m.falls d 0 }

/-- A change of band reaches the die and its channels. -/
theorem setBand_bandPart (d k t : Nat) (s : State) :
    bandPart (s.setBand d k t) = bandPart (rateDie d k t (List.range 8) (inBand d k s)) :=
  excursion_bandPart _ _ _ _ _

/-- After a change of band the die and each of its channels are in the new one (R341). -/
theorem setBand_spec (d k t : Nat) (s : State) : (s.setBand d k t).bandOf d = k ∧ (s.setBand d k t).thm.lastSample = s.thm.lastSample ∧
    ∀ j < 8, ((s.setBand d k t).chan (8 * d + j)).refr.band = k := by
  have h := setBand_bandPart d k t s
  simp only [bandPart, rateDie_thm, Prod.mk.injEq] at h
  obtain ⟨hbands, hsample, hchans⟩ := h
  refine ⟨?_, hsample, fun j hj => ?_⟩
  · rw [State.bandOf, hbands, inBand, modThm_thm, get_set, if_pos rfl]
  · rw [chan_of_chans hchans]
    exact rateDie_band d k t _ (.inl (List.mem_range.2 hj))

/-- The lowest band for a hottest reading (R340). -/
def bandFor (hot : Int) : Nat := if hot > 760 then 4 else if hot > 680 then 2 else 1

/-- A sample of a die with a usable sensor changes its band or its count of samples below the edge. -/
theorem bandSample_eq {d : Nat} {s : State} (t : Nat) (husable : ((dieOf (4 * d)).any fun i => (s.sensor i).usable) = true) :
    ∃ n, State.bandSample d t s = if s.bandOf d < bandFor (s.dieHot d) then s.setBand d (bandFor (s.dieHot d)) t
      else s.modThm fun m => { m with falls := Sparse.set 0 m.falls d n } :=
  ⟨_, if_neg (by simp [husable])⟩

/-- A sample never takes a die to a lower band, and always to one that its hottest reading allows (R340). -/
theorem bandSample_bandOf {d : Nat} {s : State} (t : Nat) (husable : ((dieOf (4 * d)).any fun i => (s.sensor i).usable) = true) :
    (State.bandSample d t s).bandOf d = max (s.bandOf d) (bandFor (s.dieHot d)) := by
  obtain ⟨n, heq⟩ := bandSample_eq t husable
  rw [heq]
  split
  · next hup =>
    obtain ⟨hset, -⟩ := setBand_spec d (bandFor (s.dieHot d)) t s
    rw [hset, Nat.max_eq_right (Nat.le_of_lt hup)]
  · next hup => exact (Nat.max_eq_left (Nat.not_lt.1 hup)).symm

theorem bandSample_lastSample (d t : Nat) (s : State) : (State.bandSample d t s).thm.lastSample = s.thm.lastSample := by
  by_cases husable : ((dieOf (4 * d)).any fun i => (s.sensor i).usable) = true
  · obtain ⟨n, heq⟩ := bandSample_eq t husable
    rw [heq]
    split
    · obtain ⟨-, hsample, -⟩ := setBand_spec d (bandFor (s.dieHot d)) t s
      exact hsample
    · rfl
  · rw [State.bandSample, if_pos (by simpa using husable)]

/-! ## Entry to SAFE (R355, R356, R437) -/

theorem preempt_mode (s : State) : s.preempt.pwr.mode = s.pwr.mode := by
  unfold State.preempt
  rw [answerPower_pwr, answerPower_pwr, answerPower_pwr]

theorem preempt_thm (s : State) : s.preempt.thm = s.thm :=
  thm_of_only (preempt_writes (μ := { besidesThmPwr with pwr := true }) s (Only.refl _ s) rfl rfl rfl rfl rfl rfl rfl rfl rfl) rfl

/-- SAVE and SAFE are not left for SAFE. -/
theorem enterSafe_of_past {s : State} (hard : Bool) (cause : Nat) (h : s.pwr.mode = .save ∨ s.pwr.mode = .safe) :
    s.enterSafe hard cause = s := if_pos (by simpa using h)

/-- From any other mode SAFE is entered, with COOL_DEM at full demand, and an orderly trip is over. -/
theorem enterSafe_enters {s : State} (hard : Bool) (cause : Nat) (hsave : s.pwr.mode ≠ .save) (hsafe : s.pwr.mode ≠ .safe) :
    (s.enterSafe hard cause).pwr.mode = .safe ∧
      (s.enterSafe hard cause).thm = { s.thm with pinFunc := 0, duty := 0x100, tripOrderly := none } := by
  unfold State.enterSafe
  rw [if_neg (by simp [hsave, hsafe])]
  extract_lets s1 s2 s3 m p s4 s5
  have h1 : Only besidesThmPwr s s1 :=
    Only.ite (requeue_writes _ (cutAll_writes _ _ s (Only.refl _ s) rfl rfl rfl rfl rfl rfl rfl rfl rfl) rfl rfl rfl) (Only.refl _ s)
  have h2 : Only besidesThmPwr s s2 := Only.ite (dropUnretained_writes _ h1 rfl) h1
  have h3 : Only besidesThmPwr s s3 :=
    abandonCrc_writes _ _ (lanesOff_writes _ (regionsSr_writes _ _ h2 rfl rfl) rfl) rfl rfl
  have hmode : s5.pwr.mode = .safe := preempt_mode s4
  have hthm : s5.thm = { s.thm with pinFunc := 0, duty := 0x100, tripOrderly := none } := by
    rw [← thm_of_only h3 rfl]
    exact preempt_thm s4
  clear_value s5
  split
  · exact ⟨hmode, hthm⟩
  · exact ⟨hmode, hthm⟩

theorem enterSafe_lastSample (hard : Bool) (cause : Nat) (s : State) : (s.enterSafe hard cause).thm.lastSample = s.thm.lastSample := by
  by_cases h : s.pwr.mode = .save ∨ s.pwr.mode = .safe
  · rw [enterSafe_of_past hard cause h]
  · obtain ⟨hsave, hsafe⟩ := not_or.1 h
    obtain ⟨-, hthm⟩ := enterSafe_enters hard cause hsave hsafe
    rw [hthm]

/-! ## Trips (R355 to R357) -/

theorem logTrip_pwr (k i : Nat) (t : Int) (s : State) : (s.logTrip k i t).pwr = s.pwr := logAt_pwr ..

theorem logTrip_lastSample (k i : Nat) (t : Int) (s : State) : (s.logTrip k i t).thm.lastSample = s.thm.lastSample := by
  rw [State.logTrip, logAt_thm]
  rfl

/-- A hard trip ends in SAFE, with its condition active and no orderly trip under way (R356). -/
theorem hardTrip_spec (i : Nat) (t : Int) {s : State} (hsave : s.pwr.mode ≠ .save) :
    (s.hardTrip i t).pwr.mode = .safe ∧ (s.hardTrip i t).thm.tripActive = true ∧ (s.hardTrip i t).thm.tripOrderly = none := by
  unfold State.hardTrip
  extract_lets s1
  have hpwr : s1.pwr = s.pwr := logTrip_pwr ..
  generalize hs2 : (s1.modThm fun m => { m with tripActive := true, tripOrderly := none, tripClear := 0 }) = s2
  have hmode : s2.pwr.mode = s.pwr.mode := by rw [← hs2, modThm_pwr, hpwr]
  have hactive : s2.thm.tripActive = true := by rw [← hs2, modThm_thm]
  have hover : s2.thm.tripOrderly = none := by rw [← hs2, modThm_thm]
  by_cases hsafe : s.pwr.mode = .safe
  · rw [enterSafe_of_past true 5 (.inr (hmode.trans hsafe))]
    exact ⟨hmode.trans hsafe, hactive, hover⟩
  · obtain ⟨hentered, hthm⟩ := enterSafe_enters true 5 (hmode ▸ hsave) (hmode ▸ hsafe)
    rw [hthm]
    exact ⟨hentered, hactive, rfl⟩

theorem hardTrip_lastSample (i : Nat) (t : Int) (s : State) : (s.hardTrip i t).thm.lastSample = s.thm.lastSample :=
  (enterSafe_lastSample ..).trans (logTrip_lastSample ..)

theorem orderlyTrip_lastSample (i : Nat) (t : Int) (s : State) : (s.orderlyTrip i t).thm.lastSample = s.thm.lastSample := by
  unfold State.orderlyTrip
  extract_lets s1 s2
  have hstops : ∀ (l : List Nat), (l.foldl (fun s ch => if (s.chan ch).state == .starting then s.stopStarting ch 5
      else if (s.chan ch).live then s.requestStop ch 5 else s) s2).thm = s2.thm := fun l => by
    refine thm_of_only (m := besidesThmPwr) (Only.foldl (Only.refl _ s2) fun s ch h => ?_) rfl
    exact Only.ite (stopStarting_writes ch 5 s h rfl rfl rfl rfl rfl rfl rfl rfl rfl rfl) (Only.ite (requestStop_writes ch 5 s h rfl) h)
  refine (congrArg Thermal.lastSample (hstops _)).trans ?_
  exact logTrip_lastSample (if i < 64 then 0 else 2) i t s

theorem tripSample_lastSample (s : State) : s.tripSample.thm.lastSample = s.thm.lastSample := by
  unfold State.tripSample
  split
  · rfl
  · extract_lets s1 cool
    change s1.thm.lastSample = s.thm.lastSample
    unfold s1
    split
    · split
      · exact hardTrip_lastSample ..
      · rfl
    · split
      · rfl
      · exact orderlyTrip_lastSample ..
    · rfl

/-! ## The sample (R338) -/

theorem takeSample_lastSample (readings : List Int) (t : Nat) (s : State) : (s.takeSample readings t).thm.lastSample = t := by
  unfold State.takeSample
  extract_lets rd read vs s1 s2 top s3
  exact foldl_leaves (π := fun s => s.thm.lastSample) (fun s d => bandSample_lastSample d (t + 1600) s) _ s3

/-! ## Evaluations (R343 to R346) -/

theorem updateFf_thm (s : State) : ∃ d, s.updateFf.thm = { s.thm with dFf := d } := by
  unfold State.updateFf
  split
  · exact ⟨s.thm.dFf, rfl⟩
  · exact ⟨_, rfl⟩

/-- Settling the rung changes no more of the thermal block than D_ff. -/
theorem settleRung_thm (s : State) : ∃ d, s.settleRung.thm = { s.thm with dFf := d } := by
  have h : (if s.thm.rung ≥ 6 then s.allocate else s.allTop).thm = s.thm :=
    thm_of_only (m := besidesThmPwr)
      (Only.ite (allocate_writes s (Only.refl _ s) rfl rfl rfl rfl) (allTop_writes s (Only.refl _ s) rfl rfl)) rfl
  rw [← h]
  exact updateFf_thm _

/-- A new rung changes no more of the thermal block than the rung and the P_T0 that it holds (R344). -/
theorem setRung_thm (n : Nat) (s : State) : ∃ p, (s.setRung n).thm = { s.thm with rung := n, heldP0 := p } := by
  unfold State.setRung
  extract_lets p0 old s1
  exact ⟨_, thm_of_only (shedClasses_writes (μ := besidesThmPwr) s1 (Only.refl _ s1) rfl rfl) rfl⟩

/-- The hottest readings depend on the sensors and the member only. -/
theorem hottest_congr {s t : State} (hsensors : t.thm.sensors = s.thm.sensors) (hmembers : t.members = s.members) (base : Bool) :
    t.hottest base = s.hottest base := by
  unfold State.hottest State.sensorList State.dies State.sensor
  rw [hsensors, hmembers]

/-- An evaluation begins: a value written to THM_CFG takes effect, and a fast rise is logged (R343, R346). -/
def evalBegun (s : State) : State :=
  if rateAtLeast s.thm.takeCfg.maxRate s.thm.takeCfg.riseWarn then
    (s.modThm Thermal.takeCfg).log .thermalRise ((s.thm.takeCfg.maxRate.getD (0, 0)).2)
  else s.modThm Thermal.takeCfg

theorem evalBegun_thm (s : State) : (evalBegun s).thm = s.thm.takeCfg := by
  unfold evalBegun
  split
  · exact log_thm ..
  · rfl

theorem takeCfg_sensors (m : Thermal) : m.takeCfg.sensors = m.sensors := by
  unfold Thermal.takeCfg
  split <;> rfl

theorem evalBegun_hottest (base : Bool) (s : State) : (evalBegun s).hottest base = s.hottest base := by
  refine hottest_congr (by rw [evalBegun_thm, takeCfg_sensors]) ?_ base
  unfold evalBegun
  split
  · exact log_members ..
  · rfl

/-- The state in which the rung of an evaluation is decided, with `c` cool evaluations in a row. -/
def evalTaken (c : Nat) (s : State) : State :=
  (evalBegun s).modThm fun m => { m with lastEval := s.nextGrid 1638400 s.thm.lastEval, maxRate := none, coolEvals := c }

/-- A limit or the rise limit is passed (R343). -/
def limitPassed (s : State) : Bool :=
  decide (((s.hottest false).map (·.1)).getD (-2048) > 8 * (s.thm.takeCfg.thrStart : Int)) ||
    decide (((s.hottest true).map (·.1)).getD (-2048) > 864) || rateAtLeast s.thm.takeCfg.maxRate s.thm.takeCfg.riseThr

/-- The rung moves down (R344). -/
def rungFalls (s : State) : Bool := limitPassed s && s.thm.takeCfg.tripOrderly.isNone && decide (s.thm.takeCfg.rung < 21)

/-- An evaluation that is due moves the rung when it falls, and settles it. -/
theorem execEvaluation_due {s : State} (hdue : s.nextGrid 1638400 s.thm.lastEval + 1600 ≤ s.now)
    (hsampled : s.nextGrid 1638400 s.thm.lastEval ≤ s.thm.lastSample) : ∃ c, execEvaluation s = .next (State.settleRung
      (if rungFalls s then (evalTaken c s).setRung (s.thm.takeCfg.rung + 1) else evalTaken c s)) := by
  unfold execEvaluation
  extract_lets t s1 m s2 hot base above cool lower s3 s4
  rw [if_neg (by simpa using ⟨hdue, hsampled⟩)]
  have hfalls : rungFalls s = (lower && m.tripOrderly.isNone && decide (m.rung < 21)) := by
    have hhot (b : Bool) : s.hottest b = s2.hottest b := (evalBegun_hottest b s).symm
    rw [rungFalls, limitPassed, hhot, hhot]
    rfl
  refine ⟨if cool then (evalBegun s).thm.coolEvals + 1 else 0, ?_⟩
  rw [hfalls]
  rfl

end Sys2Proof.Laws

namespace Sys2Proof.Proofs

open Sys2Proof Sys2Proof.Machine Sys2Proof.Laws

/-- An evaluation that is due moves the rung down one step exactly when it falls, and takes the rates of the samples before it
(R343, R344). -/
theorem evaluation_moves {s : State} (hdue : s.nextGrid 1638400 s.thm.lastEval + 1600 ≤ s.now)
    (hsampled : s.nextGrid 1638400 s.thm.lastEval ≤ s.thm.lastSample) :
    ∃ t, exec .evaluation s = .next t ∧ t.thm.lastEval = s.nextGrid 1638400 s.thm.lastEval ∧ t.thm.maxRate = none ∧
      t.thm.rung = if rungFalls s then s.thm.takeCfg.rung + 1 else s.thm.takeCfg.rung := by
  obtain ⟨c, hexec⟩ := execEvaluation_due hdue hsampled
  refine ⟨_, hexec, ?_⟩
  obtain ⟨d, hsettled⟩ := settleRung_thm (if rungFalls s then (evalTaken c s).setRung (s.thm.takeCfg.rung + 1) else evalTaken c s)
  rw [hsettled]
  split
  · obtain ⟨p, hset⟩ := setRung_thm (s.thm.takeCfg.rung + 1) (evalTaken c s)
    rw [hset]
    exact ⟨rfl, rfl, rfl⟩
  · exact ⟨rfl, rfl, (congrArg Thermal.rung (evalBegun_thm s) : (evalBegun s).thm.rung = _)⟩

/-- After 16 cool evaluations the rung moves up; 15 are left, so that the next cool one moves it again (R345, log 63). -/
theorem rungRestore_moves {s : State} (hcool : 16 ≤ s.thm.coolEvals) (hrung : 0 < s.thm.rung) (htrip : s.thm.tripOrderly = none) :
    ∃ t, exec .rungRestore s = .next t ∧ t.thm.rung = s.thm.rung - 1 ∧ t.thm.coolEvals = 15 := by
  refine ⟨_, if_pos (by simp [hcool, hrung, htrip]), ?_⟩
  obtain ⟨d, hsettled⟩ := settleRung_thm ((s.setRung (s.thm.rung - 1)).modThm fun m => { m with coolEvals := 15 })
  obtain ⟨p, hset⟩ := setRung_thm (s.thm.rung - 1) s
  rw [hsettled, modThm_thm, hset]
  exact ⟨rfl, rfl⟩

theorem sensorSample_records (r : List Int) {s : State} (hdue : s.nextGrid 25600 s.thm.lastSample + 1600 ≤ s.now) :
    ∃ t, exec (.sensorSample r) s = .next t ∧ t.thm.lastSample = s.nextGrid 25600 s.thm.lastSample ∧
      t.thm.dFb = ((t.thm.fbGain : Int) * max 0 (t.plate - 8 * (t.thm.tSet : Int)) / 8).toNat := by
  refine ⟨_, if_neg (Nat.not_lt.2 hdue), ?_, rfl⟩
  exact (tripSample_lastSample _).trans (takeSample_lastSample r _ s)

/-- Settles O19: a sample by what the bands and trips leave of its instant, an evaluation and a restoring of the rung by what the
throttle leaves of the thermal block. That 15 cool evaluations remain after a restored rung is the model's choice (log 63). -/
theorem samplesAndEvaluations : Obligations.SamplesAndEvaluations := by
  refine ⟨fun r s hdue => sensorSample_records r hdue, fun s hdue hsampled => evaluation_moves hdue hsampled,
    fun s hcool hrung htrip => rungRestore_moves hcool hrung htrip, fun r s => ⟨fun h => if_pos h, fun h => ?_, fun h => ?_⟩⟩
  · exact if_pos (by simpa using h)
  · refine if_neg fun hmoves => ?_
    simp only [Bool.and_eq_true, decide_eq_true_eq, Option.isNone_iff_eq_none] at hmoves
    obtain ⟨⟨hcool, hrung⟩, htrip⟩ := hmoves
    rcases h with h | h | h
    · omega
    · omega
    · simp [htrip] at h

end Sys2Proof.Proofs

/-! PROOF. O20 to O23: refresh bands, trips, the cooling demand and the remote diodes (R339 to R341, R347 to R357). -/

namespace Sys2Proof.Proofs

open Sys2Proof Sys2Proof.Machine Sys2Proof.Laws

/-! ## Refresh bands (R339 to R341) -/

/-- 64 samples below the edge take a die and its channels one band down (R340, R341). -/
theorem bandFall_falls {d : Nat} {s : State} (hfalls : 64 ≤ Sparse.get 0 s.thm.falls d) (hband : 1 < s.bandOf d) :
    ∃ t, exec (.bandFall d) s = .next t ∧ t.bandOf d = s.bandOf d / 2 ∧ ∀ j < 8, (t.chan (8 * d + j)).refr.band = s.bandOf d / 2 := by
  obtain ⟨hset, -, hchans⟩ := setBand_spec d (s.bandOf d / 2) (s.thm.lastSample + 1600) s
  exact ⟨_, if_pos (by simp [hfalls, hband]), hset, hchans⟩

/-- 64 good samples make a failed sensor valid, and its failure is no longer active (R339). -/
theorem sensorRecover_recovers {i : Nat} {s : State} (hfailed : (s.sensor i).failed = true) (hgood : 64 ≤ (s.sensor i).good) :
    ∃ t, exec (.sensorRecover i) s = .next t ∧ (t.sensor i).failed = false ∧
      ∀ e ∈ t.flt.log, e.2.blk = 0x02 → e.2.cause = 0x01 → e.2.inst = i → e.2.active = false := by
  refine ⟨_, if_pos (by simp [hfailed, hgood]), ?_, fun e he => condEnd_inactive he⟩
  rw [State.sensor, condEnd_thm, State.modSensor, modThm_thm, get_modify_same]

/-- Settles O20: a sample by the band it leaves, the largest of the one before and the lowest that the hottest reading allows; a fall by
what a change of band leaves; a recovery by the end of the sensor's condition. -/
theorem bandsFollowTheSensors : Obligations.BandsFollowTheSensors := by
  refine ⟨fun d k s husable hband hhot => ?_, fun d k s husable hhot => ?_, fun d s => bandFall_falls,
    fun i s => sensorRecover_recovers, fun d i s => ⟨fun h => ?_, fun h => ?_⟩⟩
  · rw [bandSample_bandOf k husable, bandFor, if_pos hhot]
    exact Nat.max_eq_right hband
  · rw [bandSample_bandOf k husable]
    have htwo : 2 ≤ bandFor (s.dieHot d) := by
      unfold bandFor
      split
      · decide
      · exact Nat.le_refl 2
    exact htwo.trans (Nat.le_max_right ..)
  · exact if_neg (by simpa [imp_iff_not_or] using h)
  · exact if_neg (by simpa [imp_iff_not_or] using h)

/-! ## Trips (R355 to R357) -/

/-- Once no function runs and Direct Access is idle, an orderly trip enters SAFE with COOL_DEM at full demand (R355). -/
theorem orderlyTripComplete_enters {s : State} (htrip : s.thm.tripOrderly.isSome) (hquiet : s.quiet = true) (hidle : s.daIdle = true)
    (hsave : s.pwr.mode ≠ .save) (hsafe : s.pwr.mode ≠ .safe) :
    ∃ t, exec .orderlyTripComplete s = .next t ∧ t.pwr.mode = .safe ∧ t.thm.tripOrderly = none ∧ t.thm.duty = 0x100 := by
  obtain ⟨hmode, hthm⟩ := enterSafe_enters false 5 hsave hsafe
  refine ⟨_, if_pos (by simp [htrip, hquiet, hidle]), hmode, ?_⟩
  rw [hthm]
  exact ⟨rfl, rfl⟩

/-- An orderly trip under way for 1 ms becomes a hard one (R355, R356). -/
theorem orderlyTripTimeout_trips {s : State} {b : Nat} (htrip : s.thm.tripOrderly = some b) (hlate : b + 1600000 ≤ s.now)
    (hsave : s.pwr.mode ≠ .save) :
    ∃ t, exec .orderlyTripTimeout s = .next t ∧ t.pwr.mode = .safe ∧ t.thm.tripActive = true ∧ t.thm.tripOrderly = none := by
  refine ⟨_, ?_, hardTrip_spec s.thm.tripSensor
    (if s.thm.tripTemp ≥ 2048 then (s.thm.tripTemp : Int) - 4096 else s.thm.tripTemp) hsave⟩
  change execOrderlyTripTimeout s = _
  unfold execOrderlyTripTimeout
  rw [htrip]
  exact if_neg (Nat.not_lt.2 hlate)

/-- 64 cool samples end the trip condition, for every sensor that it was logged for (R357). -/
theorem tripConditionClear_ends {s : State} (hactive : s.thm.tripActive = true) (htrip : s.thm.tripOrderly = none)
    (hcool : 64 ≤ s.thm.tripClear) : ∃ t, exec .tripConditionClear s = .next t ∧ t.thm.tripActive = false ∧
      ∀ e ∈ t.flt.log, e.2.blk = 0x02 → e.2.cause = 0x06 → e.2.active = false :=
  ⟨_, if_pos (by simp [hactive, htrip, hcool]), rfl, fun _ he hblk hcause =>
    inactive_of_mem_map (fun e => e.blk == 0x02 && e.cause == 0x06) he (by simp [hblk, hcause])⟩

/-- Settles O21: the two ends of an orderly trip by the entry to SAFE, the end of the condition by what it leaves in the fault log. -/
theorem tripsRun : Obligations.TripsRun := by
  refine ⟨fun s => orderlyTripComplete_enters, fun s b => orderlyTripTimeout_trips, fun s => tripConditionClear_ends,
    fun s => ⟨fun h => if_neg fun hends => ?_, fun h => ?_, fun h => if_neg fun hends => ?_⟩⟩
  · simp only [Bool.and_eq_true] at hends
    obtain ⟨⟨htrip, hquiet⟩, hidle⟩ := hends
    rcases h with h | h | h
    · simp [h] at htrip
    · simp [h] at hquiet
    · simp [h] at hidle
  · change execOrderlyTripTimeout s = _
    unfold execOrderlyTripTimeout
    rw [h]
  · simp only [Bool.and_eq_true, Option.isNone_iff_eq_none, decide_eq_true_eq] at hends
    obtain ⟨⟨hactive, htrip⟩, hcool⟩ := hends
    rcases h with h | h | h
    · simp [h] at hactive
    · simp [htrip] at h
    · omega

/-! ## The cooling demand (R347, R351, R352) -/

/-- A stuck pin is logged once its state is kept and the other state's condition has ended. -/
theorem stuck_logged {c : Cause} (b i : Nat) (f : Thermal → Thermal) {s : State} (hs : logsOk s) :
    Logged c 0 s (((s.modThm f).condEnd b i 0).log c 0 0 0 0 true) :=
  log_logged 0 0 0 true hs ((condEnd_grows b i 0 (s.modThm f)).from_flt rfl)
    ((condEnd_keeps b i 0 _ (Keeps.refl (s.modThm f))).logs hs) (.refl _)

/-- Three periods in which the pin driven low reads high (R352). -/
theorem coolStuck_high {s : State} (hrun : 3 ≤ s.thm.stuckHiRun) (hpin : s.thm.pinState ≠ 1) :
    ∃ t, exec .coolStuck s = .next t ∧ t.thm.pinState = 1 ∧ (logsOk s → Logged .coolStuckHigh 0 s t) := by
  refine ⟨_, if_pos (by simp [hrun, hpin]), ?_, stuck_logged 0x02 0x04 _⟩
  rw [log_thm]
  rfl

/-- Three periods in which the released pin reads low (R352). -/
theorem coolStuck_low {s : State} (hhigh : s.thm.stuckHiRun < 3) (hrun : 3 ≤ s.thm.stuckLoRun) (hpin : s.thm.pinState ≠ 2) :
    ∃ t, exec .coolStuck s = .next t ∧ t.thm.pinState = 2 ∧ (logsOk s → Logged .coolStuckLow 0 s t) := by
  refine ⟨_, (if_neg (by simp [hhigh])).trans (if_pos (by simp [hhigh, hrun, hpin])), ?_, stuck_logged 0x02 0x03 _⟩
  rw [log_thm]
  rfl

/-- A value for THM_COOL_CFG would use the pin for both functions (R351). -/
abbrev BothUses (v : Nat) (m : Thermal) : Prop :=
  (bits v 30 30 = 1 ∧ (m.coolEn = true ∨ bit v 31 = true)) ∨ (bit v 31 = true ∧ m.pinFunc = 1)

/-- LEAD or D_MIN of a value for THM_COOL_CFG is out of the range in that register's table. -/
abbrev BadFields (v : Nat) : Prop := bits v 24 16 < 5 ∨ 300 < bits v 24 16 ∨ 256 < bits v 8 0

theorem coolCfgWrite_busy {v : Word} {s : State} (h : BothUses v.toNat s.thm) :
    exec (.coolCfgWrite v) s = .next (s.modThm fun m => { m with pinBusy := true }).writeIgnored := by
  refine if_pos ?_
  simp only [Bool.or_eq_true, Bool.and_eq_true, decide_eq_true_eq]
  tauto

theorem coolCfgWrite_free {v : Word} {s : State} (h : ¬BothUses v.toNat s.thm) :
    exec (.coolCfgWrite v) s = if BadFields v.toNat then .next s.writeIgnored
      else .next (s.modThm fun m => { m with coolEn := bit v.toNat 31, pinFunc := bits v.toNat 30 30, lead := bits v.toNat 24 16,
                                             dMin := bits v.toNat 8 0 }) := by
  refine (if_neg ?_).trans (if_congr ?_ rfl rfl)
  · simp only [Bool.or_eq_true, Bool.and_eq_true, decide_eq_true_eq]
    tauto
  · simp only [Bool.or_eq_true, decide_eq_true_eq, or_assoc]

/-- A write to THM_COOL_CFG sets PIN_BUSY, is ignored, or sets the fields (R351, R352; log 65). -/
theorem coolCfgWrite_sets (v : Word) (s : State) : ∃ t, exec (.coolCfgWrite v) s = .next t ∧
    if BothUses v.toNat s.thm then t.thm = { s.thm with pinBusy := true } ∧ (logsOk s → Logged .regWriteIgnored 0 s t)
    else if BadFields v.toNat then t.thm = s.thm ∧ (logsOk s → Logged .regWriteIgnored 0 s t)
    else t.thm = { s.thm with coolEn := bit v.toNat 31, pinFunc := bits v.toNat 30 30, lead := bits v.toNat 24 16, dMin := bits v.toNat 8 0 }
      ∧ t.flt = s.flt := by
  by_cases hboth : BothUses v.toNat s.thm
  · refine ⟨_, coolCfgWrite_busy hboth, ?_⟩
    rw [if_pos hboth, writeIgnored_thm]
    exact ⟨rfl, writeIgnored_logged (s.modThm fun m => { m with pinBusy := true })⟩
  · rw [coolCfgWrite_free hboth]
    simp only [if_neg hboth]
    split
    · exact ⟨_, rfl, writeIgnored_thm s, writeIgnored_logged s⟩
    · exact ⟨_, rfl, rfl, rfl⟩

/-- Settles O22: a period and the end of a stuck pin change the thermal block alone, a stuck pin is logged after the other state's condition
has ended, and a write by its three outcomes. That one with a field out of its range sets none is the model's choice (log 65). -/
theorem coolingDemand : Obligations.CoolingDemand := by
  refine ⟨fun x y s hdue => ⟨_, if_neg (Nat.not_lt.2 hdue), rfl, rfl⟩, fun s => coolStuck_high, fun s => coolStuck_low,
    fun s hpin hagree => ⟨_, if_pos (by simp [hpin, hagree]), rfl⟩, coolCfgWrite_sets,
    fun x y s => ⟨fun h => if_pos h, fun hhigh hlow => ?_, fun h => ?_⟩⟩
  · exact (if_neg (by simp [hhigh])).trans (if_neg (by simp [hlow]))
  · exact if_neg (by simpa [imp_iff_not_or] using h)

/-! ## Remote diodes (R353, R354) -/

theorem modTd_same (i : Nat) (f : Diode → Diode) (s : State) :
    Sparse.get {} (s.modTd i f).thm.td i = f (Sparse.get {} s.thm.td i) := get_modify_same ..

/-- A conversion that is due takes the temperature when its test passes, and the failing state when it does not. -/
theorem tdConversion_converts {i : Nat} (dv v1 vr : Int) {s : State} (hi : i ≤ 1) (hen : bit s.thm.tdEn i = true)
    (hdue : (Sparse.get {} s.thm.td i).last + 2 ^ 24 ≤ s.now) : let x := diodeTemp dv s.thm.tdRs s.thm.tdNf
    ∃ t, exec (.tdConversion i dv v1 vr) s = .next t ∧ (Sparse.get {} t.thm.td i).last = s.now ∧
      if diodeTest x v1 vr = 1
      then (Sparse.get {} t.thm.td i).temp = x ∧ (Sparse.get {} t.thm.td i).goods = (Sparse.get {} s.thm.td i).goods + 1
      else (Sparse.get {} t.thm.td i).badKind = diodeTest x v1 vr ∧
        (Sparse.get {} t.thm.td i).fails = (Sparse.get {} s.thm.td i).fails + 1 := by
  intro x
  refine ⟨_, if_neg (by simpa [hi, hen] using hdue), ?_⟩
  rw [modTd_same]
  by_cases hpass : diodeTest x v1 vr = 1
  · simp [x, hpass]
  · simp [x, hpass]

/-- Three failing conversions fault an input that is in use (R354). -/
theorem tdFault_faults {i : Nat} {s : State} (hi : i ≤ 1) (hen : bit s.thm.tdEn i = true)
    (hfails : 3 ≤ (Sparse.get {} s.thm.td i).fails) (hstate : (Sparse.get {} s.thm.td i).state ≤ 1) :
    ∃ t, exec (.tdFault i) s = .next t ∧ (Sparse.get {} t.thm.td i).state = (Sparse.get {} s.thm.td i).badKind ∧
      (logsOk s → Logged .tdFault i s t) := by
  refine ⟨_, if_pos (by simp [hi, hen, hfails, hstate]), ?_, fun hs =>
    log_logged _ 0 0 true hs (.of_flt rfl) (u := s.modTd i fun d => { d with state := d.badKind }) hs (.refl _)⟩
  rw [log_thm, modTd_same]

/-- 16 good conversions restore a faulted input (R354). -/
theorem tdRecover_recovers {i : Nat} {s : State} (hstate : 2 ≤ (Sparse.get {} s.thm.td i).state)
    (hgoods : 16 ≤ (Sparse.get {} s.thm.td i).goods) :
    ∃ t, exec (.tdRecover i) s = .next t ∧ (Sparse.get {} t.thm.td i).state = 1 := by
  refine ⟨_, if_pos (by simp [hstate, hgoods]), ?_⟩
  rw [condEnd_thm, modTd_same]

/-- Settles O23: each conversion and change of state by the entry of its input. That the temperature is rounded down to its code is the
model's choice (log 64). -/
theorem remoteDiodes : Obligations.RemoteDiodes := by
  refine ⟨fun i dv v1 vr s => tdConversion_converts dv v1 vr, fun i s => tdFault_faults, fun i s => tdRecover_recovers,
    fun i dv v1 vr s => ⟨fun h => ⟨if_pos ?_, if_neg ?_⟩, fun h => if_neg ?_⟩⟩
  · rcases h with h | h <;> simp [h]
  · rcases h with h | h <;> simp [h]
  · simp [h]

end Sys2Proof.Proofs

/-! PROOF. Lane groups, their lanes and what follows from a change of LIVE: what each reads after an update (R365, R372, R376, R384). -/

namespace Sys2Proof.Laws

open Sys2Proof Sys2Proof.Machine

/-- Either branch of a choice holds where it is taken. -/
theorem ite_holds {c P Q : Prop} [Decidable c] (hp : c → P) (hq : ¬ c → Q) : if c then P else Q := by
  split
  · exact hp ‹_›
  · exact hq ‹_›

/-! ## Groups and lanes after an update -/

@[simp] theorem rxGroup_modTxGroup (g : Nat) (f : LaneGroup → LaneGroup) (s : State) :
    (s.modGroup false g f).group true g = s.group true g :=
  (get_modify _ _ _ _ _).trans (if_neg (by simp))

@[simp] theorem txGroup_modRxGroup (g : Nat) (f : LaneGroup → LaneGroup) (s : State) :
    (s.modGroup true g f).group false g = s.group false g :=
  (get_modify _ _ _ _ _).trans (if_neg (by simp))

theorem lane_modGroup (rx : Bool) (g l : Nat) (f : LaneGroup → LaneGroup) (s : State) :
    (s.modGroup rx g f).lane rx g l = (f (s.group rx g)).lane l :=
  congrArg (LaneGroup.lane · l) (group_modGroup_same ..)

theorem lane_modGroup_lanes (rx : Bool) (g l : Nat) {f : LaneGroup → LaneGroup} (s : State) (hf : ∀ x, (f x).lanes = x.lanes) :
    (s.modGroup rx g f).lane rx g l = s.lane rx g l :=
  (lane_modGroup ..).trans (congrArg (fun m => Sparse.get ({} : Lane) m l) (hf _))

@[simp] theorem group_modLane (rx : Bool) (g l : Nat) (f : Lane → Lane) (s : State) :
    (s.modLane rx g l f).group rx g = (s.group rx g).modLane l f := group_modGroup_same ..

@[simp] theorem txGroup_modRxLane (g l : Nat) (f : Lane → Lane) (s : State) :
    (s.modLane true g l f).group false g = s.group false g := txGroup_modRxGroup ..

theorem groupLane_modLane (l j : Nat) (f : Lane → Lane) (x : LaneGroup) :
    (x.modLane l f).lane j = if j = l then f (x.lane l) else x.lane j := get_modify _ _ _ _ _

theorem lane_modLane (rx : Bool) (g l j : Nat) (f : Lane → Lane) (s : State) :
    (s.modLane rx g l f).lane rx g j = if j = l then f (s.lane rx g l) else s.lane rx g j :=
  (lane_modGroup ..).trans (groupLane_modLane ..)

@[simp] theorem lane_modLane_same (rx : Bool) (g l : Nat) (f : Lane → Lane) (s : State) :
    (s.modLane rx g l f).lane rx g l = f (s.lane rx g l) := (lane_modLane ..).trans (if_pos rfl)

@[simp] theorem groupLane_modLane_same (l : Nat) (f : Lane → Lane) (x : LaneGroup) : (x.modLane l f).lane l = f (x.lane l) :=
  get_modify_same ..

theorem group_lane (s : State) (rx : Bool) (g l : Nat) : (s.group rx g).lane l = s.lane rx g l := rfl

@[simp] theorem groupModLane_state (l : Nat) (f : Lane → Lane) (x : LaneGroup) : (x.modLane l f).state = x.state := rfl
@[simp] theorem groupModLane_launch (l : Nat) (f : Lane → Lane) (x : LaneGroup) : (x.modLane l f).launch = x.launch := rfl
@[simp] theorem groupModLane_notices (l : Nat) (f : Lane → Lane) (x : LaneGroup) : (x.modLane l f).notices = x.notices := rfl
@[simp] theorem groupModLane_sect (l : Nat) (f : Lane → Lane) (x : LaneGroup) : (x.modLane l f).sect = x.sect := rfl
@[simp] theorem groupModLane_ts (l : Nat) (f : Lane → Lane) (x : LaneGroup) : (x.modLane l f).ts = x.ts := rfl

/-! ## What leaves the lanes and the ports alone -/

theorem lane_of_lanes {s t : State} (h : t.lanes = s.lanes) (rx : Bool) (g l : Nat) : t.lane rx g l = s.lane rx g l :=
  congrArg (LaneGroup.lane · l) (group_of_lanes h rx g)

theorem port_of_tor {s t : State} (h : t.tor = s.tor) (p : Nat) : t.port p = s.port p := port_congr (congrArg Torus.ports h) p

@[simp] theorem log_group (c : Cause) (i : Nat) (s : State) (d0 d1 d2 : Nat) (a rx : Bool) (g : Nat) :
    (s.log c i d0 d1 d2 a).group rx g = s.group rx g := group_of_lanes (log_lanes ..) rx g
@[simp] theorem log_lane (c : Cause) (i : Nat) (s : State) (d0 d1 d2 : Nat) (a rx : Bool) (g l : Nat) :
    (s.log c i d0 d1 d2 a).lane rx g l = s.lane rx g l := lane_of_lanes (log_lanes ..) rx g l
@[simp] theorem log_port (c : Cause) (i : Nat) (s : State) (d0 d1 d2 : Nat) (a : Bool) (p : Nat) :
    (s.log c i d0 d1 d2 a).port p = s.port p := port_of_tor (log_tor ..) p
@[simp] theorem count_group (ev : Nat) (bob : Option Nat) (w : Nat) (s : State) (q : Nat → Bool) (rx : Bool) (g : Nat) :
    (s.count ev bob w q).group rx g = s.group rx g := group_of_lanes (count_lanes ..) rx g
@[simp] theorem count_lane (ev : Nat) (bob : Option Nat) (w : Nat) (s : State) (q : Nat → Bool) (rx : Bool) (g l : Nat) :
    (s.count ev bob w q).lane rx g l = s.lane rx g l := lane_of_lanes (count_lanes ..) rx g l
@[simp] theorem emit_lane (o : Out) (s : State) (rx : Bool) (g l : Nat) : (s.emit o).lane rx g l = s.lane rx g l := rfl
@[simp] theorem modPort_group (p : Nat) (f : Port → Port) (s : State) (rx : Bool) (g : Nat) :
    (s.modPort p f).group rx g = s.group rx g := rfl
@[simp] theorem modPort_lane (p : Nat) (f : Port → Port) (s : State) (rx : Bool) (g l : Nat) :
    (s.modPort p f).lane rx g l = s.lane rx g l := rfl

@[simp] theorem sendComma_lanes (k g l i a b : Nat) (s : State) : (s.sendComma k g l i a b).lanes = s.lanes := rfl

/-- A lane is DEAD no more: only the fault log differs. -/
@[simp] theorem undead_lanes (rx : Bool) (g l : Nat) (s : State) : (s.undead rx g l).lanes = s.lanes := rfl

/-- A candidate for root has its lanes and ports as they were (R405). -/
@[simp] theorem checkCandidate_lanes (s : State) : s.checkCandidate.lanes = s.lanes := by
  unfold State.checkCandidate
  extract_lets t
  split
  · rfl
  · rfl

@[simp] theorem checkCandidate_ports (s : State) : s.checkCandidate.tor.ports = s.tor.ports := by
  unfold State.checkCandidate
  extract_lets t
  split
  · rfl
  · rfl

/-! ## A group reaches a state -/

@[simp] theorem group_groupTo (rx : Bool) (g : Nat) (st : GrpState) (s : State) :
    (s.groupTo rx g st).group rx g = { s.group rx g with state := st, since := s.now } := group_modGroup_same ..
@[simp] theorem lane_groupTo (rx : Bool) (g l : Nat) (st : GrpState) (s : State) :
    (s.groupTo rx g st).lane rx g l = s.lane rx g l := lane_modGroup_lanes _ _ _ _ fun _ => rfl
@[simp] theorem groupTo_port (rx : Bool) (g p : Nat) (st : GrpState) (s : State) : (s.groupTo rx g st).port p = s.port p := rfl

/-! ## What follows from a change of LIVE (R365, R376, R422) -/

/-- The state of a port outlives a change of its LIVE, and a receive group's notice waits at the paired transmit group. -/
theorem liveChange_leaves (rx : Bool) (g was : Nat) (s : State) :
    (s.liveChange rx g was).group rx g = s.group rx g ∧ (∀ p, ((s.liveChange rx g was).port p).state = (s.port p).state) ∧
      LogGrows s (s.liveChange rx g was) := by
  unfold State.liveChange
  extract_lets x now u
  have hu : u.group rx g = s.group rx g ∧ u.tor = s.tor ∧ u.flt = s.flt := by
    unfold u
    cases rx with
    | false => exact ⟨rfl, rfl, rfl⟩
    | true => exact ⟨rxGroup_modTxGroup .., rfl, rfl⟩
  clear_value u
  obtain ⟨hgroup, htor, hflt⟩ := hu
  split
  · refine ⟨rfl, fun p => ?_, .of_flt rfl⟩
    rw [port_modPort]
    split
    · subst_vars
      rfl
    · rfl
  · split
    · exact ⟨rfl, fun _ => rfl, .refl s⟩
    · split
      · exact ⟨(log_group ..).trans hgroup, fun p => by rw [log_port, port_of_tor htor], (log_grows ..).from_flt hflt⟩
      · exact ⟨hgroup, fun p => by rw [port_of_tor htor], .of_flt hflt⟩

@[simp] theorem group_onGroup (rx : Bool) (g : Nat) (f : State → State) (s : State) :
    (s.onGroup rx g f).group rx g = (f s).group rx g := (liveChange_leaves ..).1

@[simp] theorem lane_onGroup (rx : Bool) (g l : Nat) (f : State → State) (s : State) :
    (s.onGroup rx g f).lane rx g l = (f s).lane rx g l := congrArg (LaneGroup.lane · l) (group_onGroup ..)

theorem onGroup_grows (rx : Bool) (g : Nat) {f : State → State} {s : State} (h : (f s).flt = s.flt) :
    LogGrows s (s.onGroup rx g f) := (liveChange_leaves ..).2.2.from_flt h

/-! ## Every data lane of a group -/

theorem mem_dataLanes {g l : Nat} : l ∈ dataLanes g ↔ l < if g < 8 then 8 else 2 := List.mem_range

theorem dataLanes_nodup (g : Nat) : (dataLanes g).Nodup := List.nodup_range

/-- Steps that change one lane each, over lanes that differ, change each of them once. -/
theorem foldl_lane {σ : Type} {read : σ → Nat → Lane} {step : σ → Nat → σ} {f : Nat → Lane → Lane}
    (hstep : ∀ x l j, read (step x l) j = if j = l then f l (read x l) else read x j) {ls : List Nat} (hls : ls.Nodup) (x : σ) (j : Nat) :
    read (ls.foldl step x) j = if j ∈ ls then f j (read x j) else read x j := by
  induction ls generalizing x with
  | nil => rfl
  | cons l ls ih =>
    obtain ⟨hl, hls⟩ := List.nodup_cons.1 hls
    rw [List.foldl_cons, ih hls, hstep]
    by_cases hj : j = l
    · subst hj
      simp [hl]
    · simp [hj]

theorem lane_foldl_modLane (rx : Bool) (g : Nat) (f : Nat → Lane → Lane) {ls : List Nat} (hls : ls.Nodup) (s : State) (j : Nat) :
    (ls.foldl (fun s l => s.modLane rx g l (f l)) s).lane rx g j = if j ∈ ls then f j (s.lane rx g j) else s.lane rx g j :=
  foldl_lane (read := fun s => s.lane rx g) (fun s l j => lane_modLane rx g l j (f l) s) hls s j

theorem groupLane_foldl_modLane (f : Nat → Lane → Lane) {ls : List Nat} (hls : ls.Nodup) (x : LaneGroup) (j : Nat) :
    (ls.foldl (fun x l => x.modLane l (f l)) x).lane j = if j ∈ ls then f j (x.lane j) else x.lane j :=
  foldl_lane (read := LaneGroup.lane) (fun x l j => groupLane_modLane l j (f l) x) hls x j

theorem foldl_modLane_state (f : Nat → Lane → Lane) (ls : List Nat) (x : LaneGroup) :
    (ls.foldl (fun x l => x.modLane l (f l)) x).state = x.state := by
  induction ls generalizing x with
  | nil => rfl
  | cons l ls ih => exact ih _

/-- Changing lanes of a group leaves its state. -/
theorem groupState_foldl_modLane (rx : Bool) (g : Nat) (f : Nat → Lane → Lane) (ls : List Nat) (s : State) :
    ((ls.foldl (fun s l => s.modLane rx g l (f l)) s).group rx g).state = (s.group rx g).state :=
  foldl_leaves (π := fun s : State => (s.group rx g).state) (fun _ _ => by simp) ls s

end Sys2Proof.Laws

/-! PROOF. O35: lane groups come up (R372 to R375, R383). -/

namespace Sys2Proof.Proofs

open Sys2Proof Sys2Proof.Machine Sys2Proof.Laws

/-! ## LN_CTL (R383) -/

/-- A write to LN_CTL of a group that is not in use (R383). -/
theorem laneRetrain_writes {p : Path} {v : Word} {s : State} {rx : Bool} {g l : Nat} (hp : p ≠ .bar2)
    (hsel : lnSel (s.lanes.idx.get p) = (rx, g, l)) (hfree : ¬ s.laneInUse rx g = true) :
    ∃ t, exec (.laneRetrain p v) s = .next t ∧ (t.group rx g).disable = bit v.toNat 30 ∧
      (t.group rx g).state = if bit v.toNat 30 = true then .off
        else if bit v.toNat 31 = true then (if s.lanesRun = true then .detect else .off)
        else if (s.group rx g).state = .off ∧ s.lanesRun = true then .detect else (s.group rx g).state := by
  have hundead (u : State) : ((List.range 9).foldl (fun s l => s.undead rx g l) u).lanes = u.lanes :=
    foldl_leaves (π := State.lanes) (fun s l => undead_lanes rx g l s) _ u
  change ∃ t, execLaneRetrain p v s = .next t ∧ _
  unfold execLaneRetrain
  simp only [hsel, beq_iff_eq, hp, if_false, hfree, Bool.false_eq_true]
  set u := s.modGroup rx g fun x => { x with disable := bit v.toNat 30 }
  have hgroup : u.group rx g = { s.group rx g with disable := bit v.toNat 30 } := group_modGroup_same ..
  have hrun : u.lanesRun = s.lanesRun := rfl
  clear_value u
  by_cases hdisable : bit v.toNat 30 = true
  · refine ⟨_, if_pos hdisable, ?_⟩
    rw [group_onGroup, group_modGroup_same, hgroup, if_pos hdisable]
    exact ⟨rfl, rfl⟩
  · rw [if_neg hdisable, if_neg hdisable]
    by_cases hretrain : bit v.toNat 31 = true
    · refine ⟨_, if_pos hretrain, ?_⟩
      rw [group_onGroup, group_of_lanes (hundead _), group_modGroup_same, hgroup, hrun, if_pos hretrain]
      exact ⟨rfl, rfl⟩
    · rw [if_neg hretrain, if_neg hretrain, hgroup, hrun]
      by_cases hoff : (s.group rx g).state = .off ∧ s.lanesRun = true
      · refine ⟨_, if_pos (by simp [hoff]), ?_⟩
        rw [group_modGroup_same, hgroup, if_pos hoff]
        exact ⟨rfl, rfl⟩
      · refine ⟨_, if_neg (by simpa using hoff), ?_⟩
        rw [hgroup, if_neg hoff]
        exact ⟨rfl, rfl⟩

/-! ## DETECT and CLOCK (R372, R375) -/

/-- The DC test fails lane `l` (R375). -/
def dcBad (o : List Nat) (l : Nat) : Bool := decide (1 ≤ o.getD l 0) && decide (o.getD l 0 ≤ 4)

/-- What the DC test makes of a lane (R375). -/
def dcLane (rx : Bool) (o : List Nat) (l : Nat) (x : Lane) : Lane :=
  if dcBad o l = true then { x with state := .dead, cause := o.getD l 0 }
  else { x with state := if rx then .search else .aligned, cause := 0 }

theorem dcLane_dead (rx : Bool) (o : List Nat) (l : Nat) (x : Lane) : ((dcLane rx o l x).state == .dead) = dcBad o l := by
  unfold dcLane
  cases dcBad o l with
  | true => rfl
  | false => cases rx <;> rfl

theorem dcLane_spec (rx : Bool) (o : List Nat) (l : Nat) (x : Lane) :
    if dcBad o l = true then (dcLane rx o l x).state = .dead ∧ (dcLane rx o l x).cause = o.getD l 0
    else (dcLane rx o l x).state = if rx = true then .search else .aligned := by
  unfold dcLane
  cases dcBad o l with
  | true => exact ⟨rfl, rfl⟩
  | false => rfl

/-- One lane of the DC test. -/
theorem lane_dcStep (rx : Bool) (g : Nat) (o : List Nat) (s : State) (l j : Nat) :
    (if dcBad o l = true then
      (s.modLane rx g l fun x => { x with state := .dead, cause := o.getD l 0 }).log .laneDead (laneInst rx g l) 0 0 0 true
    else (s.modLane rx g l fun x => { x with state := if rx then .search else .aligned, cause := 0 }).undead rx g l).lane rx g j =
      if j = l then dcLane rx o l (s.lane rx g l) else s.lane rx g j := by
  unfold dcLane
  cases dcBad o l with
  | true => exact (log_lane ..).trans (lane_modLane ..)
  | false => exact (lane_of_lanes (undead_lanes ..) ..).trans (lane_modLane ..)

theorem lane_dcLanes (rx : Bool) (g : Nat) (o : List Nat) (s : State) (j : Nat) :
    (s.dcLanes rx g o).lane rx g j = if j ∈ dataLanes g ++ [8] then dcLane rx o j (s.lane rx g j) else s.lane rx g j := by
  have hclock : 8 ∉ dataLanes g := by
    rw [mem_dataLanes]
    split <;> omega
  have hnodup : (dataLanes g ++ [8]).Nodup :=
    List.nodup_append.2 ⟨dataLanes_nodup g, List.nodup_singleton 8, fun a ha b hb h => hclock (by simp_all)⟩
  exact foldl_lane (read := fun s => s.lane rx g) (lane_dcStep rx g o) hnodup s j

/-- The group is down after the DC test: its clock lane failed, or every data lane. -/
def dcDown (g : Nat) (o : List Nat) : Bool := dcBad o 8 || (List.range (if g < 8 then 8 else 2)).all (dcBad o)

theorem dcLanes_down (rx : Bool) (g : Nat) (o : List Nat) (s : State) :
    ((((s.dcLanes rx g o).lane rx g 8).state == .dead) || (dataLanes g).all fun l => ((s.dcLanes rx g o).lane rx g l).state == .dead) =
      dcDown g o := by
  have hlane (j : Nat) (hj : j ∈ dataLanes g ++ [8]) : (((s.dcLanes rx g o).lane rx g j).state == .dead) = dcBad o j := by
    rw [lane_dcLanes, if_pos hj, dcLane_dead]
  have hdata : ((dataLanes g).all fun l => ((s.dcLanes rx g o).lane rx g l).state == .dead) = (dataLanes g).all (dcBad o) := by
    rw [Bool.eq_iff_iff, List.all_eq_true, List.all_eq_true]
    exact forall₂_congr fun l hl => by rw [hlane l (List.mem_append_left _ hl)]
  rw [hlane 8 (by simp), hdata]
  rfl

/-- The group is in DETECT and its DC test is over (R375). -/
def DcDue (rx : Bool) (g : Nat) (s : State) : Prop :=
  (s.group rx g).state = .detect ∧ g < 12 ∧ (g < 8 ∨ rx = true) ∧ (s.group rx g).since + 3200 ≤ s.now

theorem dcDue_iff {rx : Bool} {g : Nat} {s : State} : DcDue rx g s ↔ ¬ ((s.group rx g).state != .detect || decide (g ≥ 12) ||
    (decide (g ≥ 8) && !rx) || decide (s.now < (s.group rx g).since + 3200)) = true := by
  unfold DcDue
  cases rx <;> simp [and_assoc]

/-- The DC test of a group that has been in DETECT for 2 µs (R375). -/
theorem dcTestDone_tests {rx : Bool} {g : Nat} {o : List Nat} {s : State} (h : DcDue rx g s) :
    ∃ t, exec (.dcTestDone rx g o) s = .next t ∧
      (t.group rx g).state = (if dcDown g o = true then .failed else if rx = true then .clock else .handshake) ∧
      (8 ≤ g → (t.port (g - 8)).state = if dcDown g o = true then .failed else .clock) ∧
      ∀ l < (if g < 8 then 8 else 2), t.lane rx g l = dcLane rx o l (s.lane rx g l) := by
  change ∃ t, execDcTestDone rx g o s = .next t ∧ _
  unfold execDcTestDone
  extract_lets port u x bad v w
  refine ⟨_, if_neg (dcDue_iff.1 h), ?_⟩
  have hbad : bad = dcDown g o := dcLanes_down rx g o s
  have hv : v.group rx g = { x with state := if bad then .failed else if rx then .clock else .handshake, since := u.now } :=
    group_groupTo ..
  have hlane (l : Nat) (hl : l < if g < 8 then 8 else 2) : v.lane rx g l = dcLane rx o l (s.lane rx g l) := by
    rw [lane_groupTo, lane_dcLanes, if_pos (List.mem_append_left _ (mem_dataLanes.2 hl))]
  have hw : w.lanes = v.lanes := by
    unfold w
    split
    · rfl
    · split
      · exact log_lanes ..
      · rfl
  have hport (h : 8 ≤ g) : (w.port (g - 8)).state = if bad then .failed else .clock := by
    unfold w
    rw [if_pos (show port from h), port_modPort_same]
  refine ⟨?_, fun h => ?_, fun l hl => ?_⟩
  · rw [group_of_lanes ((checkCandidate_lanes w).trans hw), hv, hbad]
  · rw [port_congr (checkCandidate_ports w), hport h, hbad]
  · rw [lane_of_lanes ((checkCandidate_lanes w).trans hw), hlane l hl]

theorem dcTestDone_otherwise {rx : Bool} {g : Nat} {s : State} (o : List Nat) (h : ¬ DcDue rx g s) :
    exec (.dcTestDone rx g o) s = .next s := if_pos (not_not.1 (mt dcDue_iff.2 h))

/-- A forwarded clock locks (R372). -/
theorem clockLock_aligns {g : Nat} {s : State} (hstate : (s.group true g).state = .clock) (hg : g < 12) :
    ∃ t, exec (.clockLock g) s = .next t ∧ (t.group true g).state = .align ∧ (8 ≤ g → (t.port (g - 8)).state = .align) := by
  refine ⟨_, if_neg (by simpa [hstate] using hg), ?_⟩
  split
  · exact ⟨by simp, fun _ => by simp⟩
  · next h => exact ⟨by simp, fun hport => absurd hport h⟩

/-! ## ALIGN (R372, R374, R393) -/

/-- What the end of ALIGN makes of a lane: an aligned lane of a port is UP (R393). -/
def exitLane (g : Nat) (x : Lane) : Lane := if 8 ≤ g ∧ x.state = .aligned then { x with state := .up } else x

theorem exitLane_low {g : Nat} (hg : g < 8) (x : Lane) : exitLane g x = x := if_neg (by omega)

theorem exitLane_unaligned {g : Nat} {x : Lane} (h : x.state ≠ .aligned) : exitLane g x = x := if_neg (by simp [h])

theorem exitLane_aligned {g : Nat} {x : Lane} (h : x.state = .aligned) : (exitLane g x).live = true := by
  unfold exitLane Lane.live
  split <;> simp [h]

theorem exitLane_logical (g : Nat) (x : Lane) : (exitLane g x).logical = x.logical := by
  unfold exitLane
  split <;> rfl

theorem exitLane_commas (g : Nat) (x : Lane) : (exitLane g x).commas = x.commas := by
  unfold exitLane
  split <;> rfl

/-- The group leaves ALIGN (R372, R393). -/
theorem alignExit_spec (g : Nat) (s : State) :
    ((s.alignExit g).group true g).state = (if g < 8 then .handshake else .sync) ∧
      ∀ j ∈ dataLanes g, (s.alignExit g).lane true g j = exitLane g (s.lane true g j) := by
  unfold State.alignExit
  extract_lets u v
  by_cases hg : g < 8
  · rw [if_neg (show ¬ g ≥ 8 by omega), if_pos hg]
    refine ⟨?_, fun j _ => ?_⟩
    · rw [group_groupTo, if_neg (show ¬ g ≥ 8 by omega)]
    · rw [lane_groupTo, exitLane_low hg]
  · have hport : g ≥ 8 := by omega
    rw [if_pos hport, if_neg hg]
    refine ⟨?_, fun j hj => ?_⟩
    · rw [modPort_group, (liveChange_leaves ..).1]
      refine (groupState_foldl_modLane ..).trans ?_
      rw [group_groupTo, if_pos hport]
    · rw [modPort_lane, ← group_lane, (liveChange_leaves ..).1, group_lane]
      refine (lane_foldl_modLane _ _ _ (dataLanes_nodup g) _ _).trans ?_
      simp [hj, u, exitLane, hport]

/-- Another live lane holds the logical number `sl`. -/
def taken (g l sl : Nat) (s : State) (j : Nat) : Bool := j != l && (s.lane true g j).live && (s.lane true g j).number j == sl

theorem taken_iff {g l sl j : Nat} {s : State} :
    taken g l sl s j = true ↔ j ≠ l ∧ (s.lane true g j).live = true ∧ (s.lane true g j).number j = sl := by
  simp [taken, and_assoc]

/-- The first number that meets a test lies below a bound as soon as any does. -/
theorem find?_range_below {n l : Nat} {p : Nat → Bool} (hl : l ≤ n) (h : ∃ j < l, p j = true) :
    ∃ j < l, (List.range n).find? p = some j := by
  obtain ⟨i, hil, hi⟩ := h
  cases hfind : (List.range n).find? p with
  | none => simpa [hi] using List.find?_range_eq_none.1 hfind i (hil.trans_le hl)
  | some j =>
    obtain ⟨-, -, hfirst⟩ := List.find?_range_eq_some.1 hfind
    have hji : j ≤ i := not_lt.1 fun hij => by simpa [hi] using hfirst i hij
    exact ⟨j, hji.trans_lt hil, rfl⟩

/-- A training beat sends its lane where it belongs (R374): to MISWIRED when it names another group, or a number that a lower lane has
taken, and else to ALIGNED. -/
theorem alignLane_spec {g l : Nat} (inverted : Bool) (sg sl : Nat) {s : State} (hl : l ∈ dataLanes g)
    (hsearch : (s.lane true g l).state = .search) :
    let y := (s.alignLane g l inverted sg sl).lane true g l
    y.commas = (s.lane true g l).commas ∧
      (sg ≠ groupField g ∨ (∃ j < l, taken g l sl s j = true) → y.state = .dead ∧ y.cause = 6) ∧
      (¬ (sg ≠ groupField g ∨ ∃ j < l, taken g l sl s j = true) → y.state = .aligned ∧ y.logical = some sl) := by
  unfold State.alignLane
  extract_lets u v rival w y
  have hother (j : Nat) (hj : j ≠ l) : u.lane true g j = s.lane true g j := by
    unfold u
    split
    · rw [log_lane, lane_modLane, if_neg hj]
    · rfl
  have hcommas : (u.lane true g l).commas = (s.lane true g l).commas := by
    unfold u
    split <;> simp
  have hstate : (u.lane true g l).state = .search := by
    unfold u
    split <;> simp [hsearch]
  clear_value u
  have hv (j : Nat) : v.lane true g j = u.lane true g j := by
    unfold v
    split
    · exact log_lane ..
    · rfl
  by_cases hgroup : sg = groupField g
  · have hy : y = State.lane (if (w.lane true g l).state == .dead then w else _) true g l :=
      congrArg (State.lane · true g l) (if_neg (by simpa using hgroup))
    have hrival : rival = (dataLanes g).find? (taken g l sl s) := by
      refine congrArg (List.find? · _) (funext fun j => ?_)
      by_cases hj : j = l
      · simp [hj, taken]
      · rw [hv, hother j hj]
        rfl
    clear_value rival
    by_cases hlow : ∃ j < l, taken g l sl s j = true
    · obtain ⟨j, hjl, hj⟩ := find?_range_below (mem_dataLanes.1 hl).le hlow
      have hw : w = v.miswired g l := by
        unfold w
        rw [hrival.trans hj]
        exact if_pos hjl
      have hdead : w.lane true g l = { u.lane true g l with state := .dead, cause := 6 } := by
        rw [hw, State.miswired, lane_modLane_same, hv]
      rw [hy, if_pos (by simp [hdead]), hdead]
      exact ⟨hcommas, fun _ => ⟨rfl, rfl⟩, fun h => absurd (.inr hlow) h⟩
    · have hlane : w.lane true g l = u.lane true g l := by
        unfold w
        cases rival with
        | none => exact hv l
        | some j =>
          have hj := List.find?_some hrival.symm
          obtain ⟨hjl, -⟩ := taken_iff.1 hj
          dsimp only
          rw [if_neg fun hlt => hlow ⟨j, hlt, hj⟩, State.miswired, lane_modLane, if_neg hjl.symm, hv]
      have haligned : y = { u.lane true g l with state := .aligned, logical := some sl } := by
        rw [hy, if_neg (by simp [hlane, hstate]), lane_modGroup_lanes, lane_modLane_same, hlane]
        exact fun _ => rfl
      rw [haligned]
      exact ⟨hcommas, fun h => absurd h (not_or.2 ⟨not_not.2 hgroup, hlow⟩), fun _ => ⟨rfl, rfl⟩⟩
  · have hy : y = ((u.miswired g l).log .laneMiswired (laneInst true g l) 0 0 0 true).lane true g l :=
      congrArg (State.lane · true g l) (if_pos (by simpa using hgroup))
    rw [hy, log_lane]
    refine ⟨?_, fun _ => ?_, fun h => absurd (Or.inl hgroup) h⟩
    · simp [State.miswired, hcommas]
    · simp [State.miswired]

/-- The commas in a row on a lane after a beat. -/
def commaRun (x : RxSymbols) (n : Nat) : Nat := match x with | .comma _ _ _ _ => n + 1 | _ => 0

/-- Where a lane in ALIGN looks for its commas (R374). -/
def AlignBeat (g l : Nat) (s : State) : Prop :=
  (s.group true g).state = .align ∧ g < 12 ∧ l ∈ dataLanes g ∧ (s.lane true g l).state = .search

theorem laneAlign_guard {g l : Nat} {s : State} : AlignBeat g l s ↔ ¬ ((s.group true g).state != .align || decide (g ≥ 12) ||
    !(dataLanes g).contains l || ((s.group true g).lane l).state != .search) = true := by
  simp [AlignBeat, and_assoc, group_lane]

/-- A beat that is no training beat behind three commas leaves its lane in SEARCH. -/
theorem laneAlign_waits {g l : Nat} {x : RxSymbols} {s : State} (i : Bool) (h : AlignBeat g l s)
    (hx : commaRun x (s.lane true g l).commas < 3 ∨ ∀ sg sl k r, classify x ≠ .training sg sl k r) :
    exec (.laneAlign g l i x) s =
      .next (s.modLane true g l fun y => { y with commas := commaRun x (s.lane true g l).commas }) := by
  refine (if_neg (laneAlign_guard.1 h)).trans ?_
  by_cases hn : commaRun x (s.lane true g l).commas < 3
  · exact if_pos hn
  · refine (if_neg hn).trans ?_
    have hno := hx.resolve_left hn
    cases hk : classify x with
    | training sg sl k r => exact absurd hk (hno sg sl k r)
    | errored => rfl
    | marker a b c => rfl
    | data a b => rfl
    | control a b => rfl

/-- The third comma in a row with a training beat (R374). -/
theorem laneAlign_aligns {g l sg sl k : Nat} {r : Bool} {x : RxSymbols} {s : State} (i : Bool) (h : AlignBeat g l s)
    (hn : ¬ commaRun x (s.lane true g l).commas < 3) (hx : classify x = .training sg sl k r) :
    ∃ t, exec (.laneAlign g l i x) s = .next t ∧ (t.lane true g l).commas = commaRun x (s.lane true g l).commas ∧
      (sg ≠ groupField g ∨ (∃ j < l, taken g l sl s j = true) → (t.lane true g l).state = .dead ∧ (t.lane true g l).cause = 6) ∧
      (¬ (sg ≠ groupField g ∨ ∃ j < l, taken g l sl s j = true) →
        (t.lane true g l).live = true ∧ (t.lane true g l).logical = some sl ∧ (g < 8 → (t.lane true g l).state = .aligned)) := by
  have hguard := laneAlign_guard.1 h
  obtain ⟨-, -, hl, hsearch⟩ := h
  change ∃ t, execLaneAlign g l i x s = .next t ∧ _
  unfold execLaneAlign
  extract_lets y n u
  have hrun : n = commaRun x (s.lane true g l).commas := rfl
  rw [if_neg hguard, if_neg (hrun ▸ hn), hx]
  dsimp only
  set v := u.alignLane g l i sg sl with hv
  have hu : u.lane true g l = { s.lane true g l with commas := n } := lane_modLane_same ..
  have htaken : taken g l sl u = taken g l sl s := by
    funext j
    by_cases hj : j = l
    · simp [hj, taken]
    · rw [taken, lane_modLane, if_neg hj]
      rfl
  have hsearch' : (u.lane true g l).state = .search := by rw [hu, hsearch]
  obtain ⟨hcommas, hwrong, hright⟩ := alignLane_spec i sg sl hl hsearch'
  rw [hu] at hcommas
  rw [htaken] at hwrong hright
  refine ⟨_, rfl, ?_⟩
  split
  · rw [(alignExit_spec g v).2 l hl]
    refine ⟨(exitLane_commas ..).trans hcommas, fun h => ?_, fun h => ?_⟩
    · obtain ⟨hdead, hcause⟩ := hwrong h
      rw [exitLane_unaligned (by simp [v, hdead])]
      exact ⟨hdead, hcause⟩
    · obtain ⟨haligned, hlogical⟩ := hright h
      exact ⟨exitLane_aligned haligned, (exitLane_logical ..).trans hlogical, fun hg => by rw [exitLane_low hg]; exact haligned⟩
  · refine ⟨hcommas, hwrong, fun h => ?_⟩
    obtain ⟨haligned, hlogical⟩ := hright h
    exact ⟨by simp [Lane.live, v, haligned], hlogical, fun _ => haligned⟩

/-- 1 ms after the first lane aligned ALIGN ends, and what still searches is DEAD (R372). -/
theorem alignTimeout_ends {g b : Nat} {s : State} (hstate : (s.group true g).state = .align)
    (hfirst : (s.group true g).firstAligned = some b) (hdue : b + 1600000 ≤ s.now) :
    ∃ t, exec (.alignTimeout g) s = .next t ∧ (t.group true g).state = (if g < 8 then .handshake else .sync) ∧
      ∀ l ∈ dataLanes g, (s.lane true g l).state = .search → (t.lane true g l).state = .dead ∧ (t.lane true g l).cause = 5 := by
  change ∃ t, execAlignTimeout g s = .next t ∧ _
  unfold execAlignTimeout
  extract_lets x
  rw [show x.firstAligned = some b from hfirst]
  dsimp only
  rw [if_neg (by simp [x, hstate, hdue])]
  refine ⟨_, rfl, (alignExit_spec ..).1, fun l hl hsearch => ?_⟩
  rw [(alignExit_spec ..).2 l hl, lane_foldl_modLane _ _ _ (dataLanes_nodup g), if_pos hl, if_pos (by simp [hsearch]),
    exitLane_unaligned (by simp)]
  exact ⟨rfl, rfl⟩

theorem alignTimeout_early {g : Nat} {s : State}
    (h : ¬ ((s.group true g).state = .align ∧ ∃ b ∈ (s.group true g).firstAligned, b + 1600000 ≤ s.now)) :
    exec (.alignTimeout g) s = .next s := by
  change execAlignTimeout g s = _
  unfold execAlignTimeout
  extract_lets x
  cases hfirst : x.firstAligned with
  | none => rfl
  | some b =>
    refine if_pos ?_
    by_contra hc
    simp only [Bool.or_eq_true, bne_iff_ne, decide_eq_true_eq, not_or, not_not, not_lt] at hc
    exact h ⟨hc.1, b, hfirst, hc.2⟩

/-! ## HANDSHAKE (R373) -/

/-- A transmit group goes on to SYNC at most; what its partner confirmed stays. -/
theorem confirmTx_spec (g : Nat) (s : State) : ((s.confirmTx g).group false g).partner = (s.group false g).partner ∧
    (s.confirmTx g).group true g = s.group true g := by
  unfold State.confirmTx
  extract_lets x
  split
  · exact ⟨by simp, rxGroup_modTxGroup ..⟩
  · exact ⟨rfl, rfl⟩

/-- A training beat on a live lane brings the partner's RXOK, and may end the receive group's HANDSHAKE (R373). -/
theorem trainingBeat_confirms {g l sg sl k : Nat} {r : Bool} {x : RxSymbols} {s : State} (hx : classify x = .training sg sl k r)
    (hg : g < 8) (hlive : (s.lane true g l).live = true)
    (hstate : (s.group true g).state = .align ∨ (s.group true g).state = .handshake ∨ (s.group true g).state = .sync) :
    ∃ t, exec (.trainingBeat g l x) s = .next t ∧ (t.group false g).partner = k ∧
      ((t.group true g).state = (s.group true g).state ∨
        ((s.group true g).state = .handshake ∧ (t.group true g).state = .sync)) := by
  change ∃ t, execTrainingBeat g l x s = .next t ∧ _
  unfold execTrainingBeat
  extract_lets c
  rw [hx]
  dsimp only
  rw [if_neg]
  · set u := (s.modGroup false g fun y => { y with partner := k }).modLane true g l
      fun y => { y with ready := y.ready || (r && c.state == .handshake) } with hu
    have hpartner : (u.group false g).partner = k := by rw [hu, txGroup_modRxLane, group_modGroup_same]
    have hgroup : (u.group true g).state = c.state := by rw [hu, group_modLane, rxGroup_modTxGroup]; rfl
    clear_value u
    refine ⟨_, rfl, ?_⟩
    rw [(confirmTx_spec ..).1, (confirmTx_spec ..).2]
    split
    · next hdone =>
      simp only [Bool.and_eq_true, beq_iff_eq] at hdone
      obtain ⟨hhand, -⟩ := hdone
      refine ⟨?_, .inr ⟨hgroup ▸ hhand, ?_⟩⟩
      · rw [← hpartner]
        exact congrArg LaneGroup.partner (txGroup_modRxGroup ..)
      · rw [group_groupTo]
    · exact ⟨hpartner, .inl hgroup⟩
  · simp only [Bool.or_eq_true, decide_eq_true_eq, Bool.not_eq_true', not_or]
    refine ⟨⟨by omega, by rw [← Bool.not_eq_true]; exact not_not.2 hlive⟩, ?_⟩
    rcases hstate with h | h | h <;> simp [c, h]

theorem trainingBeat_ignores {g l sg sl k : Nat} {r : Bool} {x : RxSymbols} {s : State} (hx : classify x = .training sg sl k r)
    (h : ¬ (g < 8 ∧ (s.lane true g l).live = true ∧
      ((s.group true g).state = .align ∨ (s.group true g).state = .handshake ∨ (s.group true g).state = .sync))) :
    exec (.trainingBeat g l x) s = .next s := by
  change execTrainingBeat g l x s = _
  unfold execTrainingBeat
  extract_lets c
  rw [hx]
  refine if_pos ?_
  by_contra hc
  simp only [Bool.or_eq_true, decide_eq_true_eq, Bool.not_eq_true', not_or, Bool.not_eq_false, beq_iff_eq, or_assoc] at hc
  obtain ⟨hg, hlive, hstate⟩ := hc
  exact h ⟨by omega, hlive, hstate⟩

theorem trainingBeat_other {g l : Nat} {x : RxSymbols} (s : State) (hx : ∀ sg sl k r, classify x ≠ .training sg sl k r) :
    exec (.trainingBeat g l x) s = .next s := by
  change execTrainingBeat g l x s = _
  unfold execTrainingBeat
  cases hk : classify x with
  | training sg sl k r => exact absurd hk (hx sg sl k r)
  | errored => rfl
  | marker a b c => rfl
  | data a b => rfl
  | control a b => rfl

/-- 1 ms into HANDSHAKE a transmit group goes to SYNC (R373). -/
theorem handshakeTimeout_ends {g : Nat} {s : State} (hg : g < 8) (hstate : (s.group false g).state = .handshake)
    (hdue : (s.group false g).since + 1600000 ≤ s.now) :
    ∃ t, exec (.handshakeTimeout g) s = .next t ∧ (t.group false g).state = .sync ∧
      if (List.range 8).all (fun l => !(s.lane true g l).live) = true then (t.group false g).unconfirmed = true
      else ∀ l < 8, ((s.group false g).lane l).live = true → bit (s.group false g).partner l = false →
        (t.lane false g l).state = .dead ∧ (t.lane false g l).cause = 7 := by
  have hempty : ((s.group true g).liveLanes g).isEmpty = (List.range 8).all fun l => !(s.lane true g l).live := by
    rw [Bool.eq_iff_iff, List.isEmpty_iff, LaneGroup.liveLanes, List.filter_eq_nil_iff, List.all_eq_true]
    simp [dataLanes, hg, group_lane]
  change ∃ t, execHandshakeTimeout g s = .next t ∧ _
  unfold execHandshakeTimeout
  extract_lets c u
  refine ⟨_, if_neg (by simp [c, hg, hstate, hdue]), by rw [group_groupTo], ?_⟩
  unfold u
  rw [hempty]
  split
  · rw [group_groupTo, group_modGroup_same]
  · intro l hl hlive hbit
    have hmem : l ∈ dataLanes g := mem_dataLanes.2 (by simpa [hg] using hl)
    rw [lane_groupTo, lane_foldl_modLane _ _ _ (dataLanes_nodup g), if_pos hmem, if_pos (by simp [c, hbit, ← group_lane, hlive])]
    exact ⟨rfl, rfl⟩

/-! ## Markers (R367 to R369, R371, R372, R377) -/

theorem classifyBytes_ne_marker (v : BitVec 40) (a b c : Nat) : classifyBytes v ≠ .marker a b c := by
  unfold classifyBytes
  extract_lets d e kind syn
  have hkind (w : Word) (c' fixed : Bool) : kind w c' fixed ≠ .marker a b c := by
    unfold kind
    split <;> simp
  clear_value kind
  split
  · exact hkind _ _ _
  · split
    · exact hkind _ _ _
    · split
      · exact hkind _ _ _
      · split
        · exact hkind _ _ _
        · simp

/-- A marker opens with a comma (R367). -/
theorem comma_of_marker {x : RxSymbols} {a b c : Nat} (h : classify x = .marker a b c) : ∃ i j k m, x = .comma i j k m := by
  cases x with
  | errored => cases h
  | bytes v => exact absurd h (classifyBytes_ne_marker v a b c)
  | comma i j k m => exact ⟨i, j, k, m, rfl⟩

/-- Where a lane looks for markers to come back UP (R377). -/
def MarkerSearch (g l : Nat) (s : State) : Prop :=
  g < 12 ∧ l ∈ dataLanes g ∧ (s.lane true g l).state = .search ∧
    ((s.group true g).state = .up ∨ (8 ≤ g ∧ (s.group true g).state = .sync))

/-- The lane and the state of the command on it when it searches. -/
theorem markerBeat_searching {g l : Nat} {s : State} (h : MarkerSearch g l s) :
    ¬ (decide (g ≥ 12) || !(dataLanes g).contains l) = true ∧
      ((s.lane true g l).state == .search &&
        ((s.group true g).state == .up || (decide (g ≥ 8) && (s.group true g).state == .sync))) = true := by
  obtain ⟨hg, hl, hsearch, hstate⟩ := h
  exact ⟨by simp [hg, hl], by simpa [hsearch] using hstate⟩

/-- A marker on a lane in SEARCH (R367, R369, R377). -/
theorem markerBeat_search {g l sg sl k : Nat} {x : RxSymbols} {s : State} (h : MarkerSearch g l s)
    (hx : classify x = .marker sg sl k) :
    ∃ t, exec (.markerBeat g l x) s = .next t ∧
      if (s.lane true g l).commas < 2 then (t.lane true g l).state = .search
      else if sg ≠ groupField g ∨ sl ≠ (s.lane true g l).number l then
        (t.lane true g l).state = .search ∧ (t.lane true g l).goodMarks = 0
      else (t.lane true g l).beat = markerIndex k (s.gt / 2) ∧
        if 1 ≤ (s.lane true g l).goodMarks ∧ markerIndex k (s.gt / 2) = (s.lane true g l).beat + 16384
        then (t.lane true g l).state = .up
        else (t.lane true g l).state = .search ∧ (t.lane true g l).goodMarks = 1 := by
  obtain ⟨hin, hcond⟩ := markerBeat_searching h
  obtain ⟨-, -, hsearch, -⟩ := h
  obtain ⟨a, b, c, d, rfl⟩ := comma_of_marker hx
  have heq : exec (.markerBeat g l (.comma a b c d)) s = _ := (if_neg hin).trans (if_pos hcond)
  rw [heq, hx]
  simp only [group_lane, if_true]
  set u := s.modLane true g l fun z => { z with commas := (s.lane true g l).commas + 1 }
  have hlane : u.lane true g l = { s.lane true g l with commas := (s.lane true g l).commas + 1 } := lane_modLane_same ..
  have hgt : u.gt = s.gt := rfl
  clear_value u
  rw [hgt]
  by_cases hfew : (s.lane true g l).commas < 2
  · refine ⟨_, if_pos (show (s.lane true g l).commas + 1 < 3 by omega), ?_⟩
    rw [if_pos hfew, hlane]
    exact hsearch
  · rw [if_neg (show ¬ (s.lane true g l).commas + 1 < 3 by omega)]
    by_cases hwrong : sg ≠ groupField g ∨ sl ≠ (s.lane true g l).number l
    · refine ⟨_, if_pos (by simpa using hwrong), ?_⟩
      rw [if_neg hfew, if_pos hwrong, lane_modLane_same, hlane]
      exact ⟨hsearch, rfl⟩
    · rw [if_neg (by simpa using hwrong)]
      by_cases hback : 1 ≤ (s.lane true g l).goodMarks ∧ markerIndex k (s.gt / 2) = (s.lane true g l).beat + 16384
      · refine ⟨_, if_pos (by simpa using hback), ?_⟩
        rw [if_neg hfew, if_neg hwrong, if_pos hback, lane_onGroup, lane_modLane_same]
        exact ⟨rfl, rfl⟩
      · refine ⟨_, if_neg (by simpa using hback), ?_⟩
        rw [if_neg hfew, if_neg hwrong, if_neg hback, lane_modLane_same, hlane]
        exact ⟨rfl, hsearch, rfl⟩

/-- Any other beat on a lane in SEARCH. -/
theorem markerBeat_unmarked {g l : Nat} {x : RxSymbols} {s : State} (h : MarkerSearch g l s)
    (hx : ∀ sg sl k, classify x ≠ .marker sg sl k) :
    ∃ t, exec (.markerBeat g l x) s = .next t ∧ (t.lane true g l).state = .search ∧ (t.lane true g l).goodMarks = 0 := by
  obtain ⟨hin, hcond⟩ := markerBeat_searching h
  obtain ⟨-, -, hsearch, -⟩ := h
  have heq : exec (.markerBeat g l x) s = _ := (if_neg hin).trans (if_pos hcond)
  rw [heq]
  cases hk : classify x with
  | marker sg sl k => exact absurd hk (hx sg sl k)
  | errored => exact ⟨_, rfl, by simp [hsearch]⟩
  | training a b c d => exact ⟨_, rfl, by simp [hsearch]⟩
  | data a b => exact ⟨_, rfl, by simp [hsearch]⟩
  | control a b => exact ⟨_, rfl, by simp [hsearch]⟩

/-- A lane that comes UP with its group keeps its place and its markers (R372). -/
theorem syncDone_lane (g l : Nat) (s : State) : ((s.syncDone g).lane true g l).beat = (s.lane true g l).beat ∧
    ((s.syncDone g).lane true g l).goodMarks = (s.lane true g l).goodMarks := by
  unfold State.syncDone
  extract_lets x
  split
  · rw [lane_onGroup, lane_modGroup]
    change (LaneGroup.lane (List.foldl _ _ _) l).beat = _ ∧ (LaneGroup.lane (List.foldl _ _ _) l).goodMarks = _
    rw [groupLane_foldl_modLane _ (dataLanes_nodup g), group_lane, lane_groupTo]
    split
    · split
      · exact ⟨rfl, rfl⟩
      · exact ⟨rfl, rfl⟩
    · exact ⟨rfl, rfl⟩
  · exact ⟨rfl, rfl⟩

/-- Where a live lane of a receive group in SYNC is numbered (R369, R372). -/
def MarkerSync (g l : Nat) (s : State) : Prop :=
  g < 8 ∧ l < 8 ∧ (s.group true g).state = .sync ∧ (s.lane true g l).live = true

theorem markerBeat_syncing {g l : Nat} {s : State} (h : MarkerSync g l s) :
    ¬ (decide (g ≥ 12) || !(dataLanes g).contains l) = true ∧
      ¬ ((s.lane true g l).state == .search &&
        ((s.group true g).state == .up || (decide (g ≥ 8) && (s.group true g).state == .sync))) = true ∧
      (decide (g < 8) && (s.group true g).state == .sync && (s.lane true g l).live) = true := by
  obtain ⟨hg, hl, hstate, hlive⟩ := h
  have hmem : l ∈ dataLanes g := mem_dataLanes.2 (by simpa [hg] using hl)
  refine ⟨by simp [hmem]; omega, by simp [hstate, hg], by simp [hg, hstate, hlive]⟩

theorem markerBeat_sync {g l k : Nat} {x : RxSymbols} {s : State} (h : MarkerSync g l s)
    (hx : classify x = .marker g ((s.lane true g l).number l) k) :
    ∃ t, exec (.markerBeat g l x) s = .next t ∧ (t.lane true g l).beat = markerIndex k (s.gt / 2) ∧ (t.lane true g l).goodMarks = 1 := by
  obtain ⟨hin, hno, hcond⟩ := markerBeat_syncing h
  have heq : exec (.markerBeat g l x) s = _ := (if_neg hin).trans ((if_neg hno).trans (if_pos hcond))
  rw [heq, hx]
  refine ⟨_, if_neg (by simp [group_lane]), ?_⟩
  rw [(syncDone_lane ..).1, (syncDone_lane ..).2, lane_modLane_same]
  exact ⟨rfl, rfl⟩

theorem markerBeat_ignores {g l : Nat} {x : RxSymbols} {s : State} (h : MarkerSync g l s)
    (hx : ∀ k, classify x ≠ .marker g ((s.lane true g l).number l) k) : exec (.markerBeat g l x) s = .next s := by
  obtain ⟨hin, hno, hcond⟩ := markerBeat_syncing h
  have heq : exec (.markerBeat g l x) s = _ := (if_neg hin).trans ((if_neg hno).trans (if_pos hcond))
  rw [heq]
  cases hk : classify x with
  | marker sg sl k =>
    refine if_pos ?_
    simp only [Bool.or_eq_true, bne_iff_ne, group_lane]
    by_contra hc
    simp only [not_or, not_not] at hc
    exact hx k (by rw [hk, hc.1, hc.2])
  | errored => rfl
  | training a b c d => rfl
  | data a b => rfl
  | control a b => rfl

theorem markerBeat_elsewhere {g l : Nat} (x : RxSymbols) {s : State} (h : ¬ MarkerSearch g l s) (h' : ¬ MarkerSync g l s) :
    exec (.markerBeat g l x) s = .next s := by
  by_cases hin : (decide (g ≥ 12) || !(dataLanes g).contains l) = true
  · exact if_pos hin
  · simp only [ge_iff_le, Bool.or_eq_true, decide_eq_true_eq, not_le, Bool.not_eq_true', List.contains_eq_mem,
      decide_eq_false_iff_not, not_or, not_not] at hin
    refine (if_neg (by simpa using hin)).trans ((if_neg ?_).trans (if_neg ?_))
    · simpa [MarkerSearch, hin, group_lane] using h
    · have hl := mem_dataLanes.1 hin.2
      intro hc
      simp only [Bool.and_eq_true, decide_eq_true_eq, beq_iff_eq] at hc
      obtain ⟨⟨hg, hstate⟩, hlive⟩ := hc
      exact h' ⟨hg, by simpa [hg] using hl, hstate, hlive⟩

/-- A transmit group sends its markers, and comes UP with the first ones (R368, R372). -/
theorem markerSend_sends {g : Nat} {s : State} (hg : g < 8)
    (hstate : (s.group false g).state = .up ∨ ((s.group false g).state = .sync ∧ s.tor.final = true))
    (hmark : (s.group false g).lastMark < s.lastGrid 32768) (hsince : (s.group false g).since ≤ s.lastGrid 32768) :
    ∃ t, exec (.markerSend g) s = .next t ∧ (t.group false g).state = .up ∧ (t.group false g).lastMark = s.lastGrid 32768 ∧
      ∀ l < 8, ((s.group false g).lane l).state = .aligned → (t.lane false g l).state = .up := by
  change ∃ t, execMarkerSend g s = .next t ∧ _
  unfold execMarkerSend
  extract_lets x u mn v
  have hbusy : ¬ (!(x.state == .up || (x.state == .sync && s.tor.final)) || decide (u ≤ x.lastMark) || decide (u < x.since)) = true := by
    simp only [Bool.or_eq_true, Bool.not_eq_true', decide_eq_true_eq, not_or, not_le, not_lt]
    exact ⟨⟨by rw [Bool.not_eq_false]; simpa [x] using hstate, hmark⟩, hsince⟩
  have hsent (w : State) : ((dataLanes g).foldl (fun s l => if (s.lane false g l).state == .up then
      s.sendComma 2 g l (s.gt / 32768 * 16384) (mn % 256) (mn / 256) else s) w).lanes = w.lanes :=
    foldl_leaves (π := State.lanes) (fun s l => by split <;> rfl) _ w
  refine ⟨_, (if_neg (by omega)).trans (if_neg hbusy), ?_⟩
  set w := if x.state == .sync then s.groupTo false g .up else s with hw
  have hup : (w.group false g).state = .up ∧ ∀ l, (w.group false g).lane l = x.lane l := by
    rw [hw]
    split
    · exact ⟨by rw [group_groupTo], fun l => lane_groupTo ..⟩
    · next hsync => exact ⟨hstate.resolve_right fun h => hsync (by simp [x, h.1]), fun l => rfl⟩
  obtain ⟨hwstate, hwlane⟩ := hup
  have hv : v.group false g = _ := (group_onGroup ..).trans (group_modGroup_same ..)
  rw [group_of_lanes (hsent v), hv]
  refine ⟨(foldl_modLane_state ..).trans hwstate, rfl, fun l hl haligned => ?_⟩
  have hmem : l ∈ dataLanes g := mem_dataLanes.2 (by simpa [hg] using hl)
  rw [lane_of_lanes (hsent v), ← group_lane, hv]
  change (LaneGroup.lane (List.foldl _ _ _) l).state = _
  rw [groupLane_foldl_modLane _ (dataLanes_nodup g), if_pos hmem, hwlane, if_pos (by simp [x, haligned])]

/-- A port that sends link words sends its markers (R391). -/
theorem markerSend_port {g : Nat} {s : State} (hg : 8 ≤ g) (hg' : g < 12)
    (hstate : (s.port (g - 8)).state = .identity ∨ (s.port (g - 8)).state = .up ∨ (s.port (g - 8)).state = .miscabled)
    (hmark : (s.group true g).lastMark < s.lastGrid 32768) :
    ∃ t, exec (.markerSend g) s = .next t ∧ (t.group true g).lastMark = s.lastGrid 32768 := by
  refine ⟨_, if_pos hg, ?_⟩
  unfold State.portMarkers
  extract_lets u st mn
  rw [if_neg]
  · rw [group_of_lanes (foldl_leaves (π := State.lanes) (fun s l => sendComma_lanes ..) ..), group_modGroup_same]
  · rcases hstate with h | h | h <;> simp [st, h, u, hg', hmark]

theorem markerSend_waits {g : Nat} {s : State}
    (hlane : ¬ (g < 8 ∧ ((s.group false g).state = .up ∨ ((s.group false g).state = .sync ∧ s.tor.final = true)) ∧
      (s.group false g).lastMark < s.lastGrid 32768 ∧ (s.group false g).since ≤ s.lastGrid 32768))
    (hport : ¬ (8 ≤ g ∧ g < 12 ∧ ((s.port (g - 8)).state = .identity ∨ (s.port (g - 8)).state = .up ∨ (s.port (g - 8)).state = .miscabled) ∧
      (s.group true g).lastMark < s.lastGrid 32768)) :
    exec (.markerSend g) s = .next s := by
  by_cases hg : 8 ≤ g
  · refine (if_pos hg).trans (congrArg Host.Outcome.next (if_pos ?_))
    by_contra hc
    simp only [ge_iff_le, Bool.or_eq_true, decide_eq_true_eq, not_or, not_le, Bool.not_eq_true', Bool.not_eq_false, beq_iff_eq, or_assoc] at hc
    obtain ⟨hg', hstate, hmark⟩ := hc
    exact hport ⟨hg, hg', hstate, hmark⟩
  · refine (if_neg hg).trans (if_pos ?_)
    by_contra hc
    simp only [Bool.or_eq_true, decide_eq_true_eq, not_or, not_le, not_lt, Bool.not_eq_true', Bool.not_eq_false, beq_iff_eq,
      Bool.and_eq_true] at hc
    obtain ⟨⟨hstate, hmark⟩, hsince⟩ := hc
    exact hlane ⟨by omega, hstate, hmark, hsince⟩

/-- Settles O35: each clause by the entry of its command. That a write to LN_CTL of a group in use is ignored, and the readings of what ends
ALIGN and SEARCH, are the model's choices (log 26, 95, 96). -/
theorem laneGroupsComeUp : Obligations.LaneGroupsComeUp := by
  refine ⟨fun p v s hp => ?_, fun rx g o s => ?_, fun g s => ?_, fun g l i x s => ?_, fun g s => ?_, fun g l x s => ?_, fun g s => ?_,
    fun g l x s => ?_, fun g s => ?_⟩
  · exact ite_holds (fun huse => ⟨_, (if_neg (by simpa using hp)).trans (if_pos huse), writeIgnored_lanes s, writeIgnored_logged s⟩)
      fun hfree => laneRetrain_writes hp rfl hfree
  · refine ite_holds (fun h => ?_) (dcTestDone_otherwise o)
    obtain ⟨t, ht, hstate, hport, hlane⟩ := dcTestDone_tests (o := o) h
    exact ⟨t, ht, hstate, hport, fun l hl => by rw [hlane l hl]; exact dcLane_spec rx o l _⟩
  · exact ite_holds (fun h => clockLock_aligns h.1 h.2) fun h => if_pos (by simpa [imp_iff_not_or] using h)
  · extract_lets y n taken'
    have htaken (sl j : Nat) : taken' sl j ↔ taken g l sl s j = true := taken_iff.symm
    have hbeat : AlignBeat g l s ↔ _ := and_congr_right' (and_congr_right' (and_congr_left' mem_dataLanes))
    refine ite_holds (fun h => ?_) fun h => if_pos (not_not.1 (mt laneAlign_guard.2 (mt hbeat.1 h)))
    by_cases hwait : commaRun x y.commas < 3 ∨ ∀ sg sl k r, classify x ≠ .training sg sl k r
    · have hstays : ((s.modLane true g l fun y => { y with commas := n }).lane true g l).state = .search := by
        rw [lane_modLane_same]
        exact h.2.2.2
      refine ⟨_, laneAlign_waits i (hbeat.2 h) hwait, by rw [lane_modLane_same]; rfl, ?_⟩
      split
      · next hk => exact ite_holds (fun _ => hstays) fun hn => absurd hk (hwait.resolve_left hn _ _ _ _)
      · exact hstays
    · obtain ⟨hn, hk⟩ := not_or.1 hwait
      simp only [not_forall, not_not] at hk
      obtain ⟨sg, sl, k, r, hk⟩ := hk
      obtain ⟨t, ht, hcommas, hwrong, hright⟩ := laneAlign_aligns i (hbeat.2 h) hn hk
      simp only [← htaken] at hwrong hright
      refine ⟨t, ht, hcommas, ?_⟩
      rw [hk]
      exact (if_neg hn).mpr (ite_holds hwrong hright)
  · refine ite_holds (fun h => ?_) alignTimeout_early
    obtain ⟨hstate, b, hfirst, hdue⟩ := h
    obtain ⟨t, ht, hgroup, hlanes⟩ := alignTimeout_ends hstate hfirst hdue
    exact ⟨t, ht, hgroup, fun l hl => hlanes l (mem_dataLanes.2 hl)⟩
  · extract_lets st
    split
    · next hk => exact ite_holds (fun h => trainingBeat_confirms hk h.1 h.2.1 h.2.2) (trainingBeat_ignores hk)
    · next hk => exact trainingBeat_other s hk
  · exact ite_holds (fun h => handshakeTimeout_ends h.1 h.2.1 h.2.2) fun h => if_pos (by simpa [imp_iff_not_or, or_assoc] using h)
  · have hsearch : MarkerSearch g l s ↔ _ := and_congr_right' (and_congr_left' mem_dataLanes)
    refine ite_holds (fun h => ?_) fun h => ite_holds (fun hsync => ?_) (markerBeat_elsewhere x (mt hsearch.1 h))
    · cases hk : classify x with
      | marker sg sl k => exact markerBeat_search (hsearch.2 h) hk
      | errored => exact markerBeat_unmarked (hsearch.2 h) (by simp [hk])
      | training a b c d => exact markerBeat_unmarked (hsearch.2 h) (by simp [hk])
      | data a b => exact markerBeat_unmarked (hsearch.2 h) (by simp [hk])
      | control a b => exact markerBeat_unmarked (hsearch.2 h) (by simp [hk])
    · cases hk : classify x with
      | marker sg sl k =>
        exact ite_holds (fun heq => markerBeat_sync hsync (by rw [hk, heq.1, heq.2]))
          fun hne => markerBeat_ignores hsync fun j hj => hne (by cases hk.symm.trans hj; exact ⟨rfl, rfl⟩)
      | errored => exact markerBeat_ignores hsync (by simp [hk])
      | training a b c d => exact markerBeat_ignores hsync (by simp [hk])
      | data a b => exact markerBeat_ignores hsync (by simp [hk])
      | control a b => exact markerBeat_ignores hsync (by simp [hk])
  · exact ite_holds (fun h => markerSend_sends h.1 h.2.1 h.2.2.1 h.2.2.2) fun hlane =>
      ite_holds (fun h => markerSend_port h.1 h.2.1 h.2.2.1 h.2.2.2) (markerSend_waits hlane)

end Sys2Proof.Proofs

/-! PROOF. Beats that leave and beats that arrive: what handling one reads, and what it leaves alone (R38, R204 to R206, R366, R370). -/

namespace Sys2Proof.Laws

open Sys2Proof Sys2Proof.Machine

/-! ## The bobbin that owns a position -/

/-- The owner of a position follows from the group's section, its start and the channels. -/
theorem ownerAt_congr {s t : State} {rx : Bool} {g : Nat} (hsect : (t.group rx g).sect = (s.group rx g).sect)
    (hts : (t.group rx g).ts = (s.group rx g).ts) (hchans : t.chans = s.chans) (l k : Nat) : t.ownerAt rx g l k = s.ownerAt rx g l k := by
  have hchan : t.chan = s.chan := funext (chan_of_chans hchans)
  have howner : t.laneOwner = s.laneOwner := by
    funext b
    simp only [State.laneOwner, hchan]
  unfold State.ownerAt State.laneInUse
  dsimp only
  rw [hsect, hts, hchan, howner]

/-! ## Words on their way to a lane (R38, R370) -/

/-- The beats of lane `l` that are due. -/
def dueBeats (g l : Nat) (s : State) : List TxBeat :=
  (s.group false g).launch.filter fun b => b.lane == l && decide (b.deadline ≤ s.now)

/-- A beat came after its deadline, or its index has gone (R38). -/
def lateFor (g l : Nat) (s : State) (b : TxBeat) : Bool :=
  decide (b.sent > b.deadline) || decide (s.beatIndex b ≤ (s.lane false g l).beat)

/-- The beats that `gone` names leave the group's store. -/
def dropBeats (g : Nat) (gone : TxBeat → Bool) (s : State) : State :=
  s.modGroup false g fun x => { x with launch := x.launch.filter fun b => !gone b }

/-- Every beat that is too late has been dropped. -/
def clearLate (g l : Nat) (s : State) : State :=
  ((dueBeats g l s).filter (lateFor g l s)).foldl (fun s b => s.lateBeat g l b)
    (dropBeats g (fun b => (dueBeats g l s).contains b && lateFor g l s b) s)

/-- The beat at index `i` of a position for which no word came: an idle beat of its owner, or a notice (R364, R365). -/
def fillerBeat (g l i : Nat) (s : State) : State :=
  match s.ownerAt false g l (s.lastGrid 2) with
  | some ch => s.sendCtrl g l i (idleWord (s.idleReason ch) ch)
  | none => s.sendNotice g l i

/-- The beat at index `i` of a lane for which no word is due, unless the index has gone or is a marker's. -/
def emptyBeat (g l i : Nat) (s : State) : State :=
  if i ≤ (s.lane false g l).beat || i % 16384 = 0 then s else fillerBeat g l i (s.modLane false g l fun z => { z with beat := i })

/-- The beat of a lane that is UP (R370). -/
def upBeat (g l : Nat) (f : Bool) (s : State) : State :=
  match (dueBeats g l s).find? fun b => !lateFor g l s b with
  | some b => (clearLate g l s).launchBeat g l b f
  | none => emptyBeat g l (s.gt / 2) (clearLate g l s)

theorem beatLaunch_up {g l : Nat} {s : State} (f : Bool) (hg : g < 8) (hl : l < 8) (hgroup : (s.group false g).state = .up)
    (hlane : (s.lane false g l).state = .up) : exec (.beatLaunch g l f) s = .next (upBeat g l f s) := by
  have hin : ¬ (decide (g ≥ 8) || decide (l ≥ 8)) = true := by simp; omega
  have hup : ¬ ((s.group false g).state != .up || ((s.group false g).lane l).state != .up) = true := by simp [hgroup, group_lane, hlane]
  change execBeatLaunch g l f s = _
  unfold execBeatLaunch
  extract_lets x y i due late gone u v
  rw [if_neg hin, if_neg hup]
  have hgone : gone = fun b => (dueBeats g l s).contains b && lateFor g l s b := funext fun b => if_neg hup
  have hv : v = clearLate g l s := congrArg (((dueBeats g l s).filter (lateFor g l s)).foldl (fun s b => s.lateBeat g l b) <|
    dropBeats g · s) hgone
  have hfind : (due.find? fun b => !late b) = (dueBeats g l s).find? fun b => !lateFor g l s b := rfl
  clear_value v u gone
  subst hv
  unfold upBeat
  rw [hfind]
  cases (dueBeats g l s).find? fun b => !lateFor g l s b with
  | some b => rfl
  | none =>
    have hidle (w : State) : (match w.ownerAt false g l (w.lastGrid 2) with
        | some ch => Host.Outcome.next (w.sendCtrl g l i (idleWord (w.idleReason ch) ch))
        | none => .next (w.sendNotice g l i)) = (.next (fillerBeat g l i w) : Res) := by
      unfold fillerBeat
      cases w.ownerAt false g l (w.lastGrid 2) <;> rfl
    unfold emptyBeat
    dsimp only
    split
    · rfl
    · exact hidle _

/-- What a filler beat carries (R364, R365). -/
def fillerWord (g l : Nat) (s : State) : Word :=
  match s.ownerAt false g l (s.lastGrid 2) with
  | some ch => idleWord (s.idleReason ch) ch
  | none => match (s.group false g).notices with | (w, _) :: _ => w | [] => idleWord 0 0x7F

theorem fillerBeat_spec (g l i : Nat) (s : State) :
    (fillerBeat g l i s).out = s.out ++ [.beat g l i (beatValue (fillerWord g l s) true)] ∧
      ((fillerBeat g l i s).group false g).launch = (s.group false g).launch ∧ LogGrows s (fillerBeat g l i s) := by
  unfold fillerBeat fillerWord
  cases s.ownerAt false g l (s.lastGrid 2) with
  | some ch => exact ⟨rfl, rfl, .of_flt rfl⟩
  | none =>
    dsimp only [State.sendNotice]
    cases (s.group false g).notices with
    | nil => exact ⟨rfl, rfl, .of_flt rfl⟩
    | cons n r =>
      obtain ⟨w, n⟩ := n
      refine ⟨rfl, ?_, .of_flt rfl⟩
      change ((s.modGroup false g _).group false g).launch = _
      rw [group_modGroup_same]

theorem emptyBeat_spec (g l i : Nat) (s : State) : ((emptyBeat g l i s).group false g).launch = (s.group false g).launch ∧
    (emptyBeat g l i s).out = s.out ++ (if i ≤ (s.lane false g l).beat ∨ i % 16384 = 0 then []
      else [.beat g l i (beatValue (fillerWord g l s) true)]) ∧ LogGrows s (emptyBeat g l i s) := by
  unfold emptyBeat
  by_cases hgone : i ≤ (s.lane false g l).beat ∨ i % 16384 = 0
  · rw [if_pos (by simpa using hgone), if_pos hgone]
    exact ⟨rfl, (List.append_nil _).symm, .refl s⟩
  · rw [if_neg (by simpa using hgone), if_neg hgone]
    set u := s.modLane false g l fun z => { z with beat := i }
    obtain ⟨hout, hlaunch, hgrows⟩ := fillerBeat_spec g l i u
    have hgroup : u.group false g = (s.group false g).modLane l _ := group_modLane ..
    have hsect : (u.group false g).sect = (s.group false g).sect := by rw [hgroup, groupModLane_sect]
    have hts : (u.group false g).ts = (s.group false g).ts := by rw [hgroup, groupModLane_ts]
    have hword : fillerWord g l u = fillerWord g l s := by
      unfold fillerWord
      rw [ownerAt_congr hsect hts rfl, hgroup, groupModLane_notices]
      rfl
    exact ⟨by rw [hlaunch, hgroup, groupModLane_launch], by rw [hout, hword]; rfl, hgrows.from_flt rfl⟩

/-- What a beat carries at its deadline; `f` tells that the word in its store failed (R303, R364). -/
def launchValue (f : Bool) (b : TxBeat) : BitVec 40 :=
  match b.word with
  | some w => if f = true then beatValue (idleWord 3 b.chan) true else beatValue w false
  | none => beatValue (idleWord b.reason b.chan) true

theorem launchBeat_spec (g l : Nat) (b : TxBeat) (f : Bool) (s : State) :
    ((s.launchBeat g l b f).group false g).launch = (s.group false g).launch.erase b ∧
      ((s.launchBeat g l b f).lane false g l).beat = s.beatIndex b ∧
      (s.launchBeat g l b f).out = s.out ++ [.beat g l (s.beatIndex b) (launchValue f b)] ∧ LogGrows s (s.launchBeat g l b f) := by
  unfold State.launchBeat launchValue
  extract_lets i u
  have hgroup : (u.group false g).launch = (s.group false g).launch.erase b := congrArg LaneGroup.launch (group_modGroup_same ..)
  have hlane : (u.lane false g l).beat = i := by
    rw [lane_modGroup]
    exact congrArg Lane.beat (groupLane_modLane_same l (fun z => { z with beat := i }) (s.group false g))
  have hout : u.out = s.out := rfl
  have hflt : u.flt = s.flt := rfl
  clear_value u
  cases b.word with
  | none => exact ⟨hgroup, hlane, by rw [← hout]; rfl, .of_flt hflt⟩
  | some w =>
    cases f with
    | true =>
      refine ⟨?_, ?_, ?_, ((log_grows ..).from_flt hflt).trans (.of_flt rfl)⟩
      · exact (congrArg LaneGroup.launch (log_group ..)).trans hgroup
      · exact (congrArg Lane.beat (log_lane ..)).trans hlane
      · exact congrArg (· ++ [_]) ((log_out ..).trans hout)
    | false =>
      dsimp only
      rw [if_neg Bool.false_ne_true, if_neg Bool.false_ne_true, count_group, count_lane, count_out]
      exact ⟨hgroup, hlane, congrArg (· ++ [_]) hout, (count_grows ..).from_flt hflt⟩

/-! ## Words that come too late (R38) -/

/-- A beat that is too late, once what is lost of it is reported. -/
def lateFiller (g l : Nat) (b : TxBeat) (s : State) : State :=
  if s.beatIndex b ≤ (s.lane false g l).beat then s
  else (s.modLane false g l fun z => { z with beat := s.beatIndex b }).sendCtrl g l (s.beatIndex b)
    (idleWord (if b.word.isSome then 2 else b.reason) b.chan)

theorem lateFiller_leaves (g l : Nat) (b : TxBeat) (s : State) :
    ((lateFiller g l b s).group false g).launch = (s.group false g).launch ∧ LogGrows s (lateFiller g l b s) := by
  unfold lateFiller
  split
  · exact ⟨rfl, .refl s⟩
  · exact ⟨(congrArg LaneGroup.launch (group_modLane ..)).trans (groupModLane_launch ..), .of_flt rfl⟩

theorem lateBeat_word {b : TxBeat} (h : b.word.isSome = true) (g l : Nat) (s : State) :
    s.lateBeat g l b = lateFiller g l b (s.log .beatLate b.chan) := by
  have hindex : (s.log .beatLate b.chan).beatIndex b = s.beatIndex b := by simp [State.beatIndex, State.gtOf]
  unfold State.lateBeat lateFiller
  rw [if_pos h, hindex]

theorem lateBeat_idle {b : TxBeat} (h : ¬ b.word.isSome = true) (g l : Nat) (s : State) : s.lateBeat g l b = lateFiller g l b s := by
  unfold State.lateBeat lateFiller
  rw [if_neg h]

theorem lateBeat_leaves (g l : Nat) (b : TxBeat) (s : State) :
    ((s.lateBeat g l b).group false g).launch = (s.group false g).launch ∧ LogGrows s (s.lateBeat g l b) := by
  by_cases h : b.word.isSome = true
  · obtain ⟨hlaunch, hgrows⟩ := lateFiller_leaves g l b (s.log .beatLate b.chan)
    rw [lateBeat_word h]
    exact ⟨hlaunch.trans (congrArg LaneGroup.launch (log_group ..)), (log_grows ..).trans hgrows⟩
  · rw [lateBeat_idle h]
    exact lateFiller_leaves g l b s

theorem lateBeats_grows (g l : Nat) (bs : List TxBeat) (s : State) : LogGrows s (bs.foldl (fun s b => s.lateBeat g l b) s) :=
  LogGrows.foldl (fun s b => (lateBeat_leaves g l b s).2) bs s

theorem lateBeats_keeps (g l : Nat) (bs : List TxBeat) (s : State) : Keeps s (bs.foldl (fun s b => s.lateBeat g l b) s) :=
  Keeps.foldl (Keeps.refl s) fun _ _ => lateBeat_keeps g l _ _

/-- Every word among beats that are too late is reported. -/
theorem lateBeats_logged {g l : Nat} {b : TxBeat} {bs : List TxBeat} {s : State} (hs : logsOk s) (hb : b ∈ bs)
    (hword : b.word.isSome = true) {t : State} (ht : LogGrows (bs.foldl (fun s b => s.lateBeat g l b) s) t) :
    Logged .beatLate b.chan s t := by
  obtain ⟨before, after, rfl⟩ := List.append_of_mem hb
  rw [List.foldl_append, List.foldl_cons, lateBeat_word hword] at ht
  exact log_logged _ _ _ _ hs (lateBeats_grows g l before s) ((lateBeats_keeps g l before s).logs hs)
    ((lateFiller_leaves ..).2.trans ((lateBeats_grows g l after _).trans ht))

/-- Dropping what is too late takes those beats from the group's store and no others. -/
theorem clearLate_launch (g l : Nat) (s : State) : ((clearLate g l s).group false g).launch =
    (s.group false g).launch.filter fun b => !((dueBeats g l s).contains b && lateFor g l s b) := by
  refine (foldl_leaves (π := fun s : State => (s.group false g).launch) (fun s b => (lateBeat_leaves g l b s).1) _ _).trans ?_
  exact congrArg LaneGroup.launch (group_modGroup_same ..)

/-- Where no beat is too late nothing is dropped. -/
theorem clearLate_intime {g l : Nat} {s : State} (h : ∀ b ∈ dueBeats g l s, lateFor g l s b = false) :
    (clearLate g l s).group false g = s.group false g ∧ (clearLate g l s).out = s.out ∧ (clearLate g l s).chans = s.chans ∧
      (clearLate g l s).now = s.now ∧ (clearLate g l s).tor = s.tor := by
  have hnone : (dueBeats g l s).filter (lateFor g l s) = [] := List.filter_eq_nil_iff.2 fun b hb => by simp [h b hb]
  have hkept : (fun b => !((dueBeats g l s).contains b && lateFor g l s b)) = fun _ => true := by
    funext b
    by_cases hb : b ∈ dueBeats g l s
    · simp [h b hb]
    · simp [hb]
  have hgroup : (dropBeats g (fun b => (dueBeats g l s).contains b && lateFor g l s b) s).group false g = s.group false g := by
    rw [dropBeats, group_modGroup_same, hkept, List.filter_true]
  unfold clearLate
  rw [hnone]
  exact ⟨hgroup, rfl, rfl, rfl, rfl⟩

/-- The first beat that is due is the first one in time, when none is too late. -/
theorem find?_intime {g l : Nat} {s : State} (h : ∀ b ∈ dueBeats g l s, lateFor g l s b = false) :
    ((dueBeats g l s).find? fun b => !lateFor g l s b) =
      (s.group false g).launch.find? fun b => b.lane == l && decide (b.deadline ≤ s.now) := by
  rw [dueBeats, List.find?_filter]
  refine List.find?_congr fun b hb => ?_
  by_cases hdue : (b.lane == l && decide (b.deadline ≤ s.now)) = true
  · simp [hdue, h b (List.mem_filter.2 ⟨hb, hdue⟩)]
  · simp [hdue]

/-- A word handed over in time leaves at its deadline (R370). -/
theorem upBeat_word {g l : Nat} {s : State} (f : Bool) (h : ∀ b ∈ dueBeats g l s, lateFor g l s b = false) {b : TxBeat}
    (hb : ((s.group false g).launch.find? fun b => b.lane == l && decide (b.deadline ≤ s.now)) = some b) :
    ((upBeat g l f s).group false g).launch = (s.group false g).launch.erase b ∧
      ((upBeat g l f s).lane false g l).beat = s.beatIndex b ∧
      (upBeat g l f s).out = s.out ++ [.beat g l (s.beatIndex b) (launchValue f b)] := by
  obtain ⟨hgroup, hout, -, -, htor⟩ := clearLate_intime h
  obtain ⟨hlaunch, hbeat, hsent, -⟩ := launchBeat_spec g l b f (clearLate g l s)
  have hindex : (clearLate g l s).beatIndex b = s.beatIndex b := by simp only [State.beatIndex, State.gtOf, htor]
  unfold upBeat
  rw [(find?_intime h).trans hb]
  exact ⟨by rw [hlaunch, hgroup], by rw [hbeat, hindex], by rw [hsent, hindex, hout]⟩

/-- No word is due: a beat goes in its place, unless its index has gone (R370). -/
theorem upBeat_empty {g l : Nat} {s : State} (f : Bool)
    (hnone : ((s.group false g).launch.find? fun b => b.lane == l && decide (b.deadline ≤ s.now)) = none) :
    ((upBeat g l f s).group false g).launch = (s.group false g).launch ∧
      (upBeat g l f s).out = s.out ++ (if s.gt / 2 ≤ (s.lane false g l).beat ∨ s.gt / 2 % 16384 = 0 then []
        else [.beat g l (s.gt / 2) (beatValue (fillerWord g l s) true)]) := by
  have hdue : ∀ b ∈ dueBeats g l s, lateFor g l s b = false := fun b hb => by
    obtain ⟨hmem, hb⟩ := List.mem_filter.1 hb
    exact absurd hb (List.find?_eq_none.1 hnone b hmem)
  obtain ⟨hgroup, hout, hchans, hnow, htor⟩ := clearLate_intime hdue
  obtain ⟨hlaunch, hsent, -⟩ := emptyBeat_spec g l (s.gt / 2) (clearLate g l s)
  have hword : fillerWord g l (clearLate g l s) = fillerWord g l s := by
    have hgrid : (clearLate g l s).lastGrid 2 = s.lastGrid 2 := by
      simp only [State.lastGrid, State.localOf, State.gt, State.gtOf, hnow, htor]
    unfold fillerWord
    rw [ownerAt_congr (congrArg LaneGroup.sect hgroup) (congrArg LaneGroup.ts hgroup) hchans, hgrid, hgroup]
    simp only [State.idleReason, chan_of_chans hchans]
  have hlane : (clearLate g l s).lane false g l = s.lane false g l := congrArg (LaneGroup.lane · l) hgroup
  unfold upBeat
  rw [(find?_intime hdue).trans hnone]
  exact ⟨by rw [hlaunch, hgroup], by rw [hsent, hout, hlane, hword]⟩

/-- A word that is too late leaves the store, and is reported (R38). -/
theorem upBeat_late {g l : Nat} {s : State} (f : Bool) {b : TxBeat} (hb : b ∈ dueBeats g l s) (hlate : lateFor g l s b = true)
    (hword : b.word.isSome = true) : b ∉ ((upBeat g l f s).group false g).launch ∧ (logsOk s → Logged .beatLate b.chan s (upBeat g l f s)) := by
  have hgone : b ∉ ((clearLate g l s).group false g).launch := by
    rw [clearLate_launch]
    simp [hb, hlate]
  have hup : b ∉ ((upBeat g l f s).group false g).launch ∧ LogGrows (clearLate g l s) (upBeat g l f s) := by
    unfold upBeat
    cases (dueBeats g l s).find? fun b => !lateFor g l s b with
    | some c =>
      obtain ⟨hlaunch, -, -, hgrows⟩ := launchBeat_spec g l c f (clearLate g l s)
      exact ⟨fun h => hgone (List.mem_of_mem_erase (hlaunch ▸ h)), hgrows⟩
    | none =>
      obtain ⟨hlaunch, -, hgrows⟩ := emptyBeat_spec g l (s.gt / 2) (clearLate g l s)
      exact ⟨fun h => hgone (hlaunch ▸ h), hgrows⟩
  refine ⟨hup.1, fun hs => ?_⟩
  exact lateBeats_logged (s := dropBeats g _ s) hs (List.mem_filter.2 ⟨hb, hlate⟩) hword hup.2

/-! ## Lanes that carry no beats of words (R370, R372, R379) -/

/-- The words released for a lane that is not UP are lost (R370). -/
theorem offBeat_counts (due : List TxBeat) (s : State) :
    let t := due.foldl (fun s b => if b.word.isSome then s.count 0x106 none 1 else s) s
    t.lanes = s.lanes ∧ t.out = s.out := by
  refine ⟨foldl_leaves (π := State.lanes) (fun s b => ?_) due s, foldl_leaves (π := State.out) (fun s b => ?_) due s⟩
  · split <;> simp
  · split <;> simp

/-- What leaves a lane that carries no beats of words, at index `i` (R370, R372). -/
theorem offBeat_sends (g l i : Nat) (due : List TxBeat) (s : State) (hprbs : (s.lane false g l).state ≠ .prbs) :
    (s.offBeat g l i due).out = s.out ++
      (if (s.group false g).state = .up ∧ (s.lane false g l).state = .dead ∧ (s.lane false g l).cause = 7
        then [.beat g l i (beatValue (idleWord 0 0x7F) true)]
      else if (s.lane false g l).state ≠ .dead ∧ ((s.group false g).state = .handshake ∨ (s.group false g).state = .sync) then
        let a := 64 + groupField g * 8 + l
        let k := (s.group true g).rxok g
        [.comma g l i a k 128 ((a ^^^ k ^^^ 128) ^^^ 0xFF)]
      else []) := by
  unfold State.offBeat
  extract_lets x y u
  obtain ⟨hlanes, hout⟩ := offBeat_counts due s
  have hu : u.out = s.out := hout
  have hrxok : (u.group true g).rxok g = (s.group true g).rxok g := by rw [group_of_lanes hlanes]
  rw [if_neg (by simpa [y, x, group_lane] using hprbs)]
  have hcond : (x.state == .up && y.state == .dead && decide (y.cause = 7)) = true ↔
      (s.group false g).state = .up ∧ (s.lane false g l).state = .dead ∧ (s.lane false g l).cause = 7 := by
    simp only [Bool.and_eq_true, beq_iff_eq, decide_eq_true_eq, and_assoc]
    rfl
  by_cases hdead : (s.group false g).state = .up ∧ (s.lane false g l).state = .dead ∧ (s.lane false g l).cause = 7
  · rw [if_pos (hcond.2 hdead), if_pos hdead, ← hu]
    rfl
  · rw [if_neg (mt hcond.1 hdead), if_neg hdead]
    by_cases htrain : (s.lane false g l).state ≠ .dead ∧ ((s.group false g).state = .handshake ∨ (s.group false g).state = .sync)
    · rw [if_pos (by simpa [x, y, group_lane] using htrain), if_pos htrain, ← hu, hrxok]
      rfl
    · rw [if_neg (by simpa [x, y, group_lane] using htrain), if_neg htrain, hu, List.append_nil]

/-- A pattern leaves in place of a beat, unless its index has gone (R379). -/
theorem offBeat_pattern (g l i : Nat) (due : List TxBeat) (s : State) (hprbs : (s.lane false g l).state = .prbs) :
    if i ≤ (s.lane false g l).beat then (s.offBeat g l i due).out = s.out
    else (s.offBeat g l i due).out.length = s.out.length + 1 ∧ ((s.offBeat g l i due).lane false g l).beat = i := by
  unfold State.offBeat
  extract_lets x y u r
  obtain ⟨hlanes, hout⟩ := offBeat_counts due s
  have hu : u.out = s.out := hout
  have hy : (y.state == .prbs) = true := by simp [y, x, group_lane, hprbs]
  rw [if_pos hy]
  refine ite_holds (fun h => ?_) fun h => ?_
  · rw [if_pos (show i ≤ y.beat from h), hu]
  · rw [if_neg (show ¬ i ≤ y.beat from h), ← hu]
    exact ⟨List.length_append, by rw [emit_lane, lane_modLane_same]⟩

theorem beatLaunch_off {g l : Nat} {s : State} (f : Bool) (hg : g < 8) (hl : l < 8)
    (hoff : (s.group false g).state ≠ .up ∨ (s.lane false g l).state ≠ .up) :
    exec (.beatLaunch g l f) s =
      .next ((dropBeats g (dueBeats g l s).contains s).offBeat g l (s.gt / 2) (dueBeats g l s)) := by
  have hin : ¬ (decide (g ≥ 8) || decide (l ≥ 8)) = true := by simp; omega
  have hdown : ((s.group false g).state != .up || ((s.group false g).lane l).state != .up) = true := by simpa [group_lane] using hoff
  change execBeatLaunch g l f s = _
  unfold execBeatLaunch
  extract_lets x y i due late gone u v
  have hgone : gone = (dueBeats g l s).contains := funext fun b => if_pos hdown
  have hu : u = dropBeats g (dueBeats g l s).contains s := congrArg (dropBeats g · s) hgone
  rw [if_neg hin, if_pos hdown, hu]
  rfl

theorem dropBeats_reads (g l : Nat) (gone : TxBeat → Bool) (s : State) :
    ((dropBeats g gone s).group false g).state = (s.group false g).state ∧ (dropBeats g gone s).lane false g l = s.lane false g l ∧
      (dropBeats g gone s).group true g = s.group true g := by
  refine ⟨?_, lane_modGroup_lanes _ _ _ _ fun _ => rfl, rxGroup_modTxGroup ..⟩
  rw [dropBeats, group_modGroup_same]

/-! ## Beats that arrive (R204 to R206, R366, R371) -/

/-- Time, the channels and what decides the owner of a position of lane `l` are as they were. -/
structure SameStream (g l : Nat) (s t : State) : Prop where
  now : t.now = s.now
  tor : t.tor = s.tor
  chans : t.chans = s.chans
  sect : (t.group true g).sect = (s.group true g).sect
  ts : (t.group true g).ts = (s.group true g).ts
  logical : (t.lane true g l).logical = (s.lane true g l).logical

/-- So are the lane's state and its place: a beat has been tallied and no more. -/
structure BeatTally (g l : Nat) (s t : State) : Prop extends SameStream g l s t where
  beat : (t.lane true g l).beat = (s.lane true g l).beat
  state : (t.lane true g l).state = (s.lane true g l).state

theorem SameStream.trans {g l : Nat} {a b c : State} (h : SameStream g l a b) (k : SameStream g l b c) : SameStream g l a c :=
  ⟨k.now.trans h.now, k.tor.trans h.tor, k.chans.trans h.chans, k.sect.trans h.sect, k.ts.trans h.ts, k.logical.trans h.logical⟩

theorem BeatTally.refl (g l : Nat) (s : State) : BeatTally g l s s := ⟨⟨rfl, rfl, rfl, rfl, rfl, rfl⟩, rfl, rfl⟩

theorem BeatTally.trans {g l : Nat} {a b c : State} (h : BeatTally g l a b) (k : BeatTally g l b c) : BeatTally g l a c :=
  ⟨h.toSameStream.trans k.toSameStream, k.beat.trans h.beat, k.state.trans h.state⟩

theorem BeatTally.log (g l : Nat) (c : Cause) (i : Nat) (s : State) : BeatTally g l s (s.log c i) :=
  ⟨⟨by simp, by simp, by simp, by simp, by simp, by simp⟩, by simp, by simp⟩

theorem BeatTally.count (g l ev : Nat) (bob : Option Nat) (w : Nat) (s : State) (q : Nat → Bool) : BeatTally g l s (s.count ev bob w q) :=
  ⟨⟨by simp, by simp, by simp, by simp, by simp, by simp⟩, by simp, by simp⟩

theorem SameStream.modLane (g l : Nat) {f : Lane → Lane} (s : State) (hf : ∀ z, (f z).logical = z.logical) :
    SameStream g l s (s.modLane true g l f) :=
  ⟨rfl, rfl, rfl, by simp, by simp, by simp [hf]⟩

theorem BeatTally.modLane (g l : Nat) {f : Lane → Lane} (s : State)
    (hf : ∀ z, (f z).logical = z.logical ∧ (f z).beat = z.beat ∧ (f z).state = z.state) : BeatTally g l s (s.modLane true g l f) :=
  ⟨.modLane g l s fun z => (hf z).1, by simp [hf], by simp [hf]⟩

theorem countErrored_tally (g l i : Nat) (s : State) : BeatTally g l s (s.countErrored g l i) := by
  refine BeatTally.trans ?_ (.count ..)
  exact .modLane g l s fun _ => ⟨rfl, rfl, rfl⟩

theorem countFixed_tally (g l : Nat) (fixed : Bool) (s : State) : BeatTally g l s (s.countFixed g l fixed) := by
  unfold State.countFixed
  split
  · refine BeatTally.trans ?_ (.count ..)
    exact .modLane g l s fun _ => ⟨rfl, rfl, rfl⟩
  · exact .refl ..

theorem rxLead_tally (g l : Nat) (lead : Int) (s : State) : BeatTally g l s (s.rxLead g l lead) := by
  unfold State.rxLead
  extract_lets v out first u
  have hgroup : u.group true g = _ := group_modGroup_same ..
  have hlane : u.lane true g l = s.lane true g l := lane_modGroup_lanes _ _ _ _ fun _ => rfl
  have hu : BeatTally g l s u := ⟨⟨rfl, rfl, rfl, by rw [hgroup], by rw [hgroup], by rw [hlane]⟩, by rw [hlane], by rw [hlane]⟩
  split
  · exact hu.trans (.log ..)
  · exact hu

/-- The word `w`, or a lost one, has reached the capturing bobbin that owns a position (R204 to R206). -/
def Given (g l i : Nat) (w : Option Word) (s t : State) : Prop :=
  match s.ownerAt true g l (s.localOf (2 * i)) with
  | none => t.chans = s.chans
  | some ch => (s.chan ch).func = .capture →
    Sparse.get [] (t.chan ch).cap.acc g = insertWord (Sparse.get [] (s.chan ch).cap.acc g) (8 * s.localOf (2 * i) + l) w

theorem Given.chans_of_none {g l i : Nat} {w : Option Word} {s t : State} (h : Given g l i w s t)
    (howner : s.ownerAt true g l (s.localOf (2 * i)) = none) : t.chans = s.chans := by
  unfold Given at h
  rwa [howner] at h

theorem Given.acc_of_some {g l i ch : Nat} {w : Option Word} {s t : State} (h : Given g l i w s t)
    (howner : s.ownerAt true g l (s.localOf (2 * i)) = some ch) (hcapture : (s.chan ch).func = .capture) :
    Sparse.get [] (t.chan ch).cap.acc g = insertWord (Sparse.get [] (s.chan ch).cap.acc g) (8 * s.localOf (2 * i) + l) w := by
  unfold Given at h
  rw [howner] at h
  exact h hcapture

theorem giveWord_given (g l i : Nat) (w : Option Word) (s : State) : Given g l i w s (s.giveWord g l i w).2 := by
  unfold Given State.giveWord
  extract_lets t
  cases s.ownerAt true g l t with
  | none => rfl
  | some ch =>
    intro hcapture
    dsimp only
    rw [if_neg (by simp [hcapture]), chan_modChan_same, get_set, if_pos rfl]

theorem giveWord_lanes (g l i : Nat) (w : Option Word) (s : State) : (s.giveWord g l i w).2.lanes = s.lanes := by
  unfold State.giveWord
  extract_lets t
  cases s.ownerAt true g l t with
  | none => rfl
  | some ch =>
    dsimp only
    split <;> rfl

theorem Given.of_stream {g l n i : Nat} {w : Option Word} {s u t : State} (h : SameStream g l s u) (k : Given g n i w u t) :
    Given g n i w s t := by
  have hlocal : u.localOf (2 * i) = s.localOf (2 * i) := by simp only [State.localOf, h.tor]
  unfold Given at k ⊢
  rw [ownerAt_congr h.sect h.ts h.chans, hlocal, h.chans] at k
  simpa only [chan_of_chans h.chans] using k

theorem Given.of_chans {g l i : Nat} {w : Option Word} {s t t' : State} (h : t'.chans = t.chans) (k : Given g l i w s t) :
    Given g l i w s t' := by
  unfold Given at k ⊢
  rw [h]
  simpa only [chan_of_chans h] using k

/-! ## A beat on a lane that is UP (R366, R371) -/

/-- A beat at index `i` was received: its place, its arrival and a failure of its store are noted (R303, R369, R386). -/
def received (g l : Nat) (lead : Int) (f : Bool) (i : Nat) (s : State) : State :=
  let u := (s.modLane true g l fun z => { z with beat := i }).rxLead g l lead
  match (if f && i % 16384 != 0 then u.ownerAt true g ((s.lane true g l).number l) (u.localOf (2 * i)) else none) with
  | some ch => u.log .storeUncorrectable ch
  | none => u

theorem received_spec (g l : Nat) (lead : Int) (f : Bool) (i : Nat) (s : State) : SameStream g l s (received g l lead f i s) ∧
    ((received g l lead f i s).lane true g l).beat = i ∧
      ((received g l lead f i s).lane true g l).state = (s.lane true g l).state := by
  unfold received
  extract_lets u
  have hplace : SameStream g l s (s.modLane true g l fun z => { z with beat := i }) := .modLane g l s fun _ => rfl
  have hu : BeatTally g l (s.modLane true g l fun z => { z with beat := i }) u := rxLead_tally ..
  have htally (v : State) (hv : BeatTally g l u v) :
      SameStream g l s v ∧ (v.lane true g l).beat = i ∧ (v.lane true g l).state = (s.lane true g l).state := by
    have h := hu.trans hv
    exact ⟨hplace.trans h.toSameStream, by rw [h.beat, lane_modLane_same], by rw [h.state, lane_modLane_same]⟩
  split
  · exact htally _ (.log ..)
  · exact htally _ (.refl ..)

theorem receiveBeat_up {g l : Nat} {s : State} (x : RxSymbols) (d : Int) (f : Bool) (hg : g < 8) (hl : l < 8)
    (hgroup : (s.group true g).state = .up) (hlane : (s.lane true g l).state = .up) :
    exec (.receiveBeat g l x d f) s =
      let i := (s.lane true g l).beat + 1
      if s.gt < 2 * i then .next s
      else if i % 16384 = 0 then .next ((received g l d f i s).rxMarker g l i (classify x))
      else .next ((received g l d f i s).rxBeat g l i (classify x) (f || decide (d < 6) || decide (d > 250))) := by
  have hin : ¬ (decide (g ≥ 8) || decide (l ≥ 8)) = true := by simp; omega
  have hup : ((s.group true g).state == .up && ((s.group true g).lane l).state == .up) = true := by simp [hgroup, group_lane, hlane]
  exact (if_neg hin).trans (if_pos hup)

theorem receiveBeat_off {g l : Nat} {s : State} (x : RxSymbols) (d : Int) (f : Bool) (hg : g < 8) (hl : l < 8)
    (hoff : (s.group true g).state ≠ .up ∨ (s.lane true g l).state ≠ .up) :
    exec (.receiveBeat g l x d f) s =
      let y := s.lane true g l
      if s.gt / 2 ≤ y.beat ∨ s.gt / 2 % 16384 = 0 then .next s
      else .next ((if y.state == .search && decide (y.goodMarks ≥ 1) then s
        else s.modLane true g l fun z => { z with beat := s.gt / 2 }).giveWord g (y.number l) (s.gt / 2) none).2 := by
  have hin : ¬ (decide (g ≥ 8) || decide (l ≥ 8)) = true := by simp; omega
  have hdown : ¬ ((s.group true g).state == .up && ((s.group true g).lane l).state == .up) = true := by
    simpa [group_lane, imp_iff_not_or] using hoff
  have heq : exec (.receiveBeat g l x d f) s = _ := (if_neg hin).trans (if_neg hdown)
  rw [heq]
  simp only [Bool.or_eq_true, decide_eq_true_eq]
  rfl

/-- A position on a lane or a group that is not UP gives a lost word (R371). -/
theorem offPosition_given (g l i : Nat) (s : State) : let y := s.lane true g l
    Given g (y.number l) i none s ((if y.state == .search && decide (y.goodMarks ≥ 1) then s
      else s.modLane true g l fun z => { z with beat := i }).giveWord g (y.number l) i none).2 := by
  intro y
  split
  · exact giveWord_given ..
  · refine Given.of_stream (l := l) ?_ (giveWord_given ..)
    exact .modLane g l s fun _ => rfl

/-- A data beat and its correction are counted. -/
def dataTally (g l : Nat) (fixed : Bool) (s : State) : State :=
  (s.countFixed g l fixed).count 0x101 none 1 fun q => bit q 3 || q % 8 == g

/-- A control beat, its correction and its unknown type are counted. -/
def controlTally (g l : Nat) (w : Word) (fixed : Bool) (s : State) : State :=
  if bits w.toNat 31 28 ≥ 3 then (s.countFixed g l fixed).count 0x105 none 1 else s.countFixed g l fixed

theorem dataTally_tally (g l : Nat) (fixed : Bool) (s : State) : BeatTally g l s (dataTally g l fixed s) :=
  (countFixed_tally g l fixed s).trans (.count ..)

theorem controlTally_tally (g l : Nat) (w : Word) (fixed : Bool) (s : State) : BeatTally g l s (controlTally g l w fixed s) := by
  unfold controlTally
  split
  · exact (countFixed_tally ..).trans (.count ..)
  · exact countFixed_tally ..

theorem rxBeat_data_eq (g l i : Nat) (w : Word) (fixed lost : Bool) (s : State) : s.rxBeat g l i (.data w fixed) lost =
    let r := (dataTally g l fixed s).giveWord g ((s.lane true g l).number l) i (if lost then none else some w)
    if r.1 then r.2 else r.2.count 0x104 none 1 := rfl

theorem rxBeat_control_eq (g l i : Nat) (w : Word) (fixed lost : Bool) (s : State) : s.rxBeat g l i (.control w fixed) lost =
    if lost then ((controlTally g l w fixed s).giveWord g ((s.lane true g l).number l) i none).2 else controlTally g l w fixed s := rfl

/-- A received beat keeps its lane's place. -/
theorem rxBeat_beat (g l i : Nat) (k : RxKind) (lost : Bool) (s : State) :
    ((s.rxBeat g l i k lost).lane true g l).beat = (s.lane true g l).beat := by
  have hgive {u : State} (hu : BeatTally g l s u) (lg : Nat) (w : Option Word) :
      ((u.giveWord g lg i w).2.lane true g l).beat = (s.lane true g l).beat := by
    rw [lane_of_lanes (giveWord_lanes ..), hu.beat]
  have herr (lg : Nat) := hgive (countErrored_tally g l i s) lg none
  cases k with
  | errored => exact herr _
  | marker a b c => exact herr _
  | training a b c d => exact herr _
  | data w fixed =>
    rw [rxBeat_data_eq]
    extract_lets r
    have hr : (r.2.lane true g l).beat = (s.lane true g l).beat := hgive (dataTally_tally ..) _ _
    clear_value r
    split
    · exact hr
    · rw [count_lane, hr]
  | control w fixed =>
    rw [rxBeat_control_eq]
    split
    · exact hgive (controlTally_tally ..) _ _
    · exact (controlTally_tally ..).beat

/-- A data beat reaches the bobbin that owns its position, unknown when it was lost (R366). -/
theorem rxBeat_data (g l i : Nat) (w : Word) (fixed lost : Bool) (s : State) :
    Given g ((s.lane true g l).number l) i (if lost then none else some w) s (s.rxBeat g l i (.data w fixed) lost) := by
  rw [rxBeat_data_eq]
  generalize (if lost then none else some w) = v
  extract_lets r
  have hr : Given g ((s.lane true g l).number l) i v s r.2 := (giveWord_given ..).of_stream (dataTally_tally g l fixed s).toSameStream
  clear_value r
  split
  · exact hr
  · exact hr.of_chans (count_chans ..)

/-- A control beat gives no word; one that was lost gives an unknown one. -/
theorem rxBeat_control (g l i : Nat) (w : Word) (fixed lost : Bool) (s : State) :
    (lost = true → Given g ((s.lane true g l).number l) i none s (s.rxBeat g l i (.control w fixed) lost)) ∧
      (¬ lost = true → (s.rxBeat g l i (.control w fixed) lost).chans = s.chans) := by
  have htally := controlTally_tally g l w fixed s
  rw [rxBeat_control_eq]
  refine ⟨fun h => ?_, fun h => ?_⟩
  · rw [if_pos h]
    exact (giveWord_given ..).of_stream htally.toSameStream
  · rw [if_neg h]
    exact htally.chans

/-- Any other beat is errored, and gives an unknown word (R366). -/
theorem rxBeat_errored (g l i : Nat) (lost : Bool) (s : State) {k : RxKind} (hdata : ∀ w fixed, k ≠ .data w fixed)
    (hcontrol : ∀ w fixed, k ≠ .control w fixed) : Given g ((s.lane true g l).number l) i none s (s.rxBeat g l i k lost) := by
  have hgiven := (giveWord_given g ((s.lane true g l).number l) i none (s.countErrored g l i)).of_stream (countErrored_tally g l i s).toSameStream
  cases k with
  | data w fixed => exact absurd rfl (hdata w fixed)
  | control w fixed => exact absurd rfl (hcontrol w fixed)
  | errored => exact hgiven
  | marker a b c => exact hgiven
  | training a b c d => exact hgiven

/-- The marker that belongs at its index keeps its lane UP (R371). -/
theorem rxMarker_right {g l i n : Nat} {s : State} (hn : n = i / 16384 % 2 ^ 16) :
    s.rxMarker g l i (.marker g ((s.lane true g l).number l) n) = s.modLane true g l fun x => { x with badMarks := 0 } := by
  unfold State.rxMarker
  dsimp only
  rw [if_neg (by simp), if_neg (by simp [hn])]

end Sys2Proof.Laws

/-! PROOF. O36: beats leave and arrive, and lanes fall (R361 to R371, R377, R378). -/

namespace Sys2Proof.Proofs

open Sys2Proof Sys2Proof.Machine Sys2Proof.Laws

/-! ## Beats that leave (R38, R364, R370) -/

/-- A beat that is due, of the lane, in time. -/
theorem lateFor_iff {g l : Nat} {s : State} {b : TxBeat} :
    lateFor g l s b = false ↔ b.sent ≤ b.deadline ∧ (s.lane false g l).beat < s.beatIndex b := by
  simp [lateFor]

theorem mem_dueBeats {g l : Nat} {s : State} {b : TxBeat} :
    b ∈ dueBeats g l s ↔ b ∈ (s.group false g).launch ∧ b.lane = l ∧ b.deadline ≤ s.now := by
  simp [dueBeats]

/-- What leaves a lane that is not UP (R370, R372, R379). -/
theorem beatLaunch_off_sends {g l : Nat} {s : State} (f : Bool) (hg : g < 8) (hl : l < 8)
    (hoff : (s.group false g).state ≠ .up ∨ (s.lane false g l).state ≠ .up) :
    let y := s.lane false g l
    let st := (s.group false g).state
    ∃ t, exec (.beatLaunch g l f) s = .next t ∧
      if y.state = .prbs then (if s.gt / 2 ≤ y.beat then t.out = s.out
        else t.out.length = s.out.length + 1 ∧ (t.lane false g l).beat = s.gt / 2)
      else t.out = s.out ++ (if st = .up ∧ y.state = .dead ∧ y.cause = 7 then [.beat g l (s.gt / 2) (beatValue (idleWord 0 0x7F) true)]
        else if y.state ≠ .dead ∧ (st = .handshake ∨ st = .sync) then
          let a := 64 + groupField g * 8 + l
          let k := (s.group true g).rxok g
          [.comma g l (s.gt / 2) a k 128 ((a ^^^ k ^^^ 128) ^^^ 0xFF)]
        else []) := by
  obtain ⟨hstate, hlane, hrx⟩ := dropBeats_reads g l (dueBeats g l s).contains s
  refine ⟨_, beatLaunch_off f hg hl hoff, ite_holds (fun hprbs => ?_) fun hprbs => ?_⟩
  · have h := offBeat_pattern g l (s.gt / 2) (dueBeats g l s) (dropBeats g (dueBeats g l s).contains s) (by rw [hlane]; exact hprbs)
    rw [hlane] at h
    exact h
  · have h := offBeat_sends g l (s.gt / 2) (dueBeats g l s) (dropBeats g (dueBeats g l s).contains s) (by rw [hlane]; exact hprbs)
    rw [hlane, hstate, hrx] at h
    exact h

/-! ## Beats that arrive (R204 to R206, R366, R371) -/

theorem received_number (g l : Nat) (d : Int) (f : Bool) (i : Nat) (s : State) :
    ((received g l d f i s).lane true g l).number l = (s.lane true g l).number l :=
  congrArg (Option.getD · l) (received_spec g l d f i s).1.logical

/-- The marker that belongs there keeps the lane UP (R371). -/
theorem receiveBeat_marker {g l n : Nat} {s : State} {x : RxSymbols} (d : Int) (f : Bool) (hg : g < 8) (hl : l < 8)
    (hgroup : (s.group true g).state = .up) (hlane : (s.lane true g l).state = .up)
    (hdue : ¬ s.gt < 2 * ((s.lane true g l).beat + 1)) (hmark : ((s.lane true g l).beat + 1) % 16384 = 0)
    (hx : classify x = .marker g ((s.lane true g l).number l) n) (hn : n = ((s.lane true g l).beat + 1) / 16384 % 2 ^ 16) :
    ∃ t, exec (.receiveBeat g l x d f) s = .next t ∧ (t.lane true g l).beat = (s.lane true g l).beat + 1 ∧
      (t.lane true g l).badMarks = 0 ∧ (t.lane true g l).state = .up := by
  obtain ⟨-, hbeat, hstate⟩ := received_spec g l d f ((s.lane true g l).beat + 1) s
  refine ⟨_, (receiveBeat_up x d f hg hl hgroup hlane).trans ((if_neg hdue).trans (if_pos hmark)), ?_⟩
  rw [hx, ← received_number g l d f ((s.lane true g l).beat + 1), rxMarker_right hn, lane_modLane_same]
  exact ⟨hbeat, rfl, hstate.trans hlane⟩

/-- A beat at any other index takes the lane one place on (R366). -/
theorem receiveBeat_beat {g l : Nat} {s : State} {x : RxSymbols} (d : Int) (f : Bool) (hg : g < 8) (hl : l < 8)
    (hgroup : (s.group true g).state = .up) (hlane : (s.lane true g l).state = .up)
    (hdue : ¬ s.gt < 2 * ((s.lane true g l).beat + 1)) (hmark : ¬ ((s.lane true g l).beat + 1) % 16384 = 0) :
    let i := (s.lane true g l).beat + 1
    let lost : Prop := f = true ∨ d < 6 ∨ 250 < d
    ∃ t, exec (.receiveBeat g l x d f) s = .next t ∧ (t.lane true g l).beat = i ∧
      (∀ w fixed, classify x = .data w fixed → (lost → Given g ((s.lane true g l).number l) i none s t) ∧
        (¬ lost → Given g ((s.lane true g l).number l) i (some w) s t)) ∧
      (∀ w fixed, classify x = .control w fixed → (lost → Given g ((s.lane true g l).number l) i none s t) ∧
        (¬ lost → t.chans = s.chans)) ∧
      ((∀ w fixed, classify x ≠ .data w fixed) → (∀ w fixed, classify x ≠ .control w fixed) →
        Given g ((s.lane true g l).number l) i none s t) := by
  intro i lost
  obtain ⟨hstream, hbeat, -⟩ := received_spec g l d f i s
  have hlost : lost ↔ (f || decide (d < 6) || decide (d > 250)) = true := by simp [lost, or_assoc]
  refine ⟨_, (receiveBeat_up x d f hg hl hgroup hlane).trans ((if_neg hdue).trans (if_neg hmark)), ?_⟩
  rw [hlost]
  generalize (f || decide (d < 6) || decide (d > 250)) = b
  have hnumber := received_number g l d f i s
  refine ⟨(rxBeat_beat ..).trans hbeat, fun w fixed hx => ?_, fun w fixed hx => ?_, fun hdata hcontrol => ?_⟩
  · have h := rxBeat_data g l i w fixed b (received g l d f i s)
    rw [hnumber] at h
    rw [hx]
    exact ⟨fun hb => (by simpa [hb] using h : Given ..).of_stream hstream, fun hb => (by simpa [hb] using h : Given ..).of_stream hstream⟩
  · obtain ⟨hgive, hkeep⟩ := rxBeat_control g l i w fixed b (received g l d f i s)
    rw [hnumber] at hgive
    rw [hx]
    exact ⟨fun hb => (hgive hb).of_stream hstream, fun hb => (hkeep hb).trans hstream.chans⟩
  · have h := rxBeat_errored g l i b (received g l d f i s) hdata hcontrol
    rw [hnumber] at h
    exact h.of_stream hstream

/-! ## Detectors (R377, R378) -/

/-- A lane that falls goes to SEARCH, or dies at its eighth fall (R377). -/
theorem fall_spec (t : Nat) (x : Lane) : if (x.falls.filter fun u => decide (t < u + 2 ^ 31)).length < 7 then (x.fall t).state = .search
    else (x.fall t).state = .dead ∧ (x.fall t).cause = 8 := by
  unfold Lane.fall
  extract_lets f
  have hf : f.length = (x.falls.filter fun u => decide (t < u + 2 ^ 31)).length + 1 := List.length_append
  refine ite_holds (fun h => ?_) fun h => ?_
  · exact if_neg (by omega)
  · exact ⟨if_pos (by omega), if_pos (by omega)⟩

theorem lane_fallSearch (g l : Nat) (s : State) : (s.fallSearch g l).lane true g l = (s.lane true g l).fall s.now := by
  rw [State.fallSearch, lane_onGroup, lane_modLane_same]

/-- A group that loses its clock or its PLL comes up again from there, and that is logged (R377, R378). -/
theorem lockLost_group (rx : Bool) {g : Nat} (s : State) (hg : g < 8) :
    ((s.lockLost rx g).group rx g).state = (if rx then .clock else .handshake) ∧
      (logsOk s → Logged .laneGroupDown (laneInst rx g 15) s (s.lockLost rx g)) := by
  unfold State.lockLost
  extract_lets u
  rw [if_neg (by omega)]
  refine ⟨?_, fun hs => ?_⟩
  · rw [log_group, group_onGroup, group_modGroup_same]
  · have hkeeps : Keeps s u := onGroup_keeps _ _ _ _ (fun v h => modGroup_keeps _ _ _ v h) (Keeps.refl s)
    exact log_logged _ _ _ _ hs (onGroup_grows rx g rfl) (hkeeps.logs hs) (.refl _)

/-- A port that loses its clock or its PLL fails (R393). -/
theorem lockLost_port (rx : Bool) {g : Nat} (s : State) (hg : 8 ≤ g) :
    ((s.lockLost rx g).port (g - 8)).state = .failed ∧ ((s.lockLost rx g).group true g).state = .failed ∧
      (logsOk s → Logged .torLinkFail (g - 8) s (s.lockLost rx g)) := by
  unfold State.lockLost
  rw [if_pos (show g ≥ 8 from hg), State.failPort, Nat.add_sub_cancel' hg]
  refine ⟨?_, ?_, fun hs => ?_⟩
  · rw [log_port, groupTo_port, port_modPort_same]
    rfl
  · rw [log_group, group_groupTo]
  · have hlog (u : State) (hflt : u.flt = s.flt) (hu : logsOk u) : Logged .torLinkFail (g - 8) s (u.log .torLinkFail (g - 8)) :=
      log_logged _ _ _ _ hs (.of_flt hflt) hu (.refl _)
    exact hlog _ rfl hs

/-- A lane that is UP falls when its detector says so (R377, R378). -/
theorem fallSearch_falls (g l : Nat) (s : State) : let y := s.lane true g l
    if (y.falls.filter fun u => decide (s.now < u + 2 ^ 31)).length < 7 then ((s.fallSearch g l).lane true g l).state = .search
    else ((s.fallSearch g l).lane true g l).state = .dead ∧ ((s.fallSearch g l).lane true g l).cause = 8 := by
  intro y
  rw [lane_fallSearch]
  exact fall_spec ..

/-- Settles O36: the launches by whether words are in time, late or for a lane that is not UP, the arrivals by the lane's state and
the kind of beat, the detectors through the fall of a lane and the loss of a lock. The readings of an index that has gone, of the value of an
idle beat, of the window of arrival and of a lane that is not UP are the model's choices (log 99, 101, 103, 105, 106, 185). -/
theorem beatsCross : Obligations.BeatsCross := by
  refine ⟨fun g l f s hg hl hgroup hlane => ?_, fun g l f s b hg hl hgroup hlane hmem hb hlate hdue hword => ?_,
    fun g l f s hg hl hoff => beatLaunch_off_sends f hg hl hoff, fun g l x d f s => ?_, fun g l x d f s hg hl hoff => ?_,
    fun g s => ?_, fun g s => ?_, fun g l s => ?_, fun g l x d f s h => ?_, fun _ _ => rfl⟩
  · intro c htime
    have hdue : ∀ b ∈ dueBeats g l s, lateFor g l s b = false := fun b hb => by
      obtain ⟨hmem, hb, hdue⟩ := mem_dueBeats.1 hb
      exact lateFor_iff.2 (htime b hmem hb hdue)
    refine ⟨_, beatLaunch_up f hg hl hgroup hlane, ?_⟩
    cases hfind : c.launch.find? fun b => b.lane == l && decide (b.deadline ≤ s.now) with
    | some b => exact upBeat_word f hdue hfind
    | none => exact upBeat_empty f hfind
  · exact ⟨_, beatLaunch_up f hg hl hgroup hlane,
      upBeat_late f (mem_dueBeats.2 ⟨hmem, hb, hdue⟩) (by simp [lateFor, hlate]) hword⟩
  · intro y i lost hg hl hgroup hlane
    refine ite_holds (fun h => (receiveBeat_up x d f hg hl hgroup hlane).trans (if_pos h)) fun hdue => ite_holds (fun hmark => ?_)
      fun hmark => ?_
    · exact fun n hx hn => receiveBeat_marker d f hg hl hgroup hlane hdue hmark hx hn
    · obtain ⟨t, ht, hbeat, hdata, hcontrol, herrored⟩ := receiveBeat_beat (x := x) d f hg hl hgroup hlane hdue hmark
      refine ⟨t, ht, hbeat, ?_⟩
      cases hk : classify x with
      | data w fixed =>
        obtain ⟨hunknown, hknown⟩ := hdata w fixed hk
        cases howner : s.ownerAt true g (y.number l) (s.localOf (2 * i)) with
        | none => exact (em lost).elim (fun h => (hunknown h).chans_of_none howner) fun h => (hknown h).chans_of_none howner
        | some ch =>
          exact fun hcapture => ⟨fun h => (hunknown h).acc_of_some howner hcapture, fun h => (hknown h).acc_of_some howner hcapture⟩
      | control w fixed =>
        obtain ⟨hunknown, hkept⟩ := hcontrol w fixed hk
        cases howner : s.ownerAt true g (y.number l) (s.localOf (2 * i)) with
        | none => exact (em lost).elim (fun h => (hunknown h).chans_of_none howner) hkept
        | some ch => exact fun hcapture => ⟨fun h => (hunknown h).acc_of_some howner hcapture, hkept⟩
      | errored => exact herrored (by simp [hk]) (by simp [hk])
      | marker a b c => exact herrored (by simp [hk]) (by simp [hk])
      | training a b c d => exact herrored (by simp [hk]) (by simp [hk])
  · refine ite_holds (fun h => (receiveBeat_off x d f hg hl hoff).trans (if_pos h)) fun h =>
      ⟨_, (receiveBeat_off x d f hg hl hoff).trans (if_neg h), ?_⟩
    exact offPosition_given g l (s.gt / 2) s
  · exact ite_holds (fun h => ⟨_, if_pos (by simpa using h), ite_holds (lockLost_group true s) fun hg =>
      (lockLost_port true s (not_lt.1 hg)).imp_right id⟩) fun h => if_neg (by simpa using h)
  · refine ite_holds (fun h => ⟨_, if_pos (by simpa using h), lockLost_group false s h.1⟩) fun hlow => ite_holds (fun h => ?_) fun h => ?_
    · obtain ⟨hport, -, hlogged⟩ := lockLost_port true s h.1
      exact ⟨_, (if_neg (by simpa using hlow)).trans (if_pos (by simpa [and_assoc] using h)), hport, hlogged⟩
    · exact (if_neg (by simpa using hlow)).trans (if_neg (by simpa [and_assoc] using h))
  · intro y n
    refine ⟨fun hg hl => (if_neg (not_le.2 hg)).trans (if_pos hl), fun hl => ite_holds (fun h => ?_) fun h => ?_,
      ite_holds (fun h => ⟨_, if_pos (by simpa using h), fallSearch_falls g l s⟩) fun h => if_neg (by simpa using h)⟩
    · exact ⟨_, (if_neg (not_le.2 h.1)).trans ((if_neg hl).trans (if_pos (by simpa using h.2))), fallSearch_falls g l s⟩
    · by_cases hg : g ≥ 12
      · exact if_pos hg
      · exact (if_neg hg).trans ((if_neg hl).trans (if_neg (by simpa using fun hup => h ⟨not_le.1 hg, hup⟩)))
  · have hin : (decide (g ≥ 8) || decide (l ≥ 8)) = true := by simpa using h
    exact ⟨if_pos hin, if_pos hin⟩

end Sys2Proof.Proofs

/-! PROOF. O37: the pattern generators and checkers run (R379 to R381, R387). -/

namespace Sys2Proof.Laws

open Sys2Proof Sys2Proof.Machine

/-! ## Bits of a written value -/

theorem bit_eq_testBit (n i : Nat) : bit n i = n.testBit i := (Nat.testBit_eq_decide_div_mod_eq ..).symm

theorem bit_or (v w : Word) (i : Nat) : bit (v ||| w).toNat i = (bit v.toNat i || bit w.toNat i) := by
  simp only [bit_eq_testBit, BitVec.toNat_or, Nat.testBit_or]

theorem bit_or_twoPow (v : Word) {k : Nat} (hk : k < 32) (i : Nat) : bit (v ||| BitVec.twoPow 32 k).toNat i = (bit v.toNat i || decide (i = k)) := by
  rw [bit_or, bit_eq_testBit (BitVec.twoPow 32 k).toNat, BitVec.toNat_twoPow_of_lt hk, Nat.testBit_two_pow]
  simp only [eq_comm]

/-! ## The fields of LN_PRBS_CTL (R380, R387) -/

theorem prbsWrite_fields (rx : Bool) (v : Nat) (x : Lane) :
    (x.prbsWrite rx v).genEn = bit v 31 ∧ (x.prbsWrite rx v).chkEn = bit v 30 ∧ (x.prbsWrite rx v).pattern = bits v 29 28 ∧
      (x.prbsWrite rx v).injRate = bits v 19 16 := by
  unfold Lane.prbsWrite
  extract_lets a b c
  have hb : b.genEn = bit v 31 ∧ b.chkEn = bit v 30 ∧ b.pattern = bits v 29 28 ∧ b.injRate = bits v 19 16 := by
    unfold b
    split
    · exact ⟨rfl, rfl, rfl, rfl⟩
    · exact ⟨rfl, rfl, rfl, rfl⟩
  clear_value b
  have hc : c.genEn = bit v 31 ∧ c.chkEn = bit v 30 ∧ c.pattern = bits v 29 28 ∧ c.injRate = bits v 19 16 := by
    unfold c
    split
    · exact hb
    · exact hb
  clear_value c
  split
  · exact hc
  · split
    · exact hc
    · exact hc

/-- A lane that starts to run a pattern is in PRBS (R379). -/
theorem prbsWrite_starts {rx : Bool} {v : Nat} {x : Lane} (hruns : (x.prbsWrite rx v).runs rx = true) (hwas : x.runs rx = false) :
    (x.prbsWrite rx v).state = .prbs := by
  revert hruns
  unfold Lane.prbsWrite
  extract_lets _ _ c
  clear_value c
  intro hruns
  by_cases hc : c.runs rx = true
  · rw [if_pos (by simp [hc, hwas])]
  · rw [if_neg (by simp [hc]), if_neg (by simp [hwas])] at hruns
    exact absurd hruns hc

/-- A generator that goes on running keeps count of its inversions (R381). -/
theorem prbsWrite_injections {v : Nat} {x : Lane} (rx : Bool) (hgen : x.genEn = true) :
    (x.prbsWrite rx v).injected = x.injected ∧ (x.prbsWrite rx v).injDue = x.injDue := by
  unfold Lane.prbsWrite
  extract_lets a b c
  have hb : b.injected = x.injected ∧ b.injDue = x.injDue := by
    unfold b
    split
    · exact ⟨rfl, rfl⟩
    · exact ⟨rfl, rfl⟩
  have hc : c = b := if_neg (by simp [hgen])
  rw [hc]
  split
  · exact hb
  · split
    · exact hb
    · exact hb

/-! ## A write to LN_PRBS_CTL (R380, R387) -/

theorem prbsCtl_noLane {p : Path} {s : State} {rx : Bool} {g l : Nat} (v : Word) (hp : p ≠ .bar2)
    (hsel : lnSel (s.lanes.idx.get p) = (rx, g, l)) (hl : 8 ≤ l) : s.prbsCtl p v = s.writeIgnored := by
  simp [State.prbsCtl, hsel, hp, hl]

theorem prbsCtl_refused {p : Path} {v : Word} {s : State} {rx : Bool} {g l : Nat} (hp : p ≠ .bar2)
    (hsel : lnSel (s.lanes.idx.get p) = (rx, g, l)) (hl : ¬ 8 ≤ l)
    (href : (bit v.toNat 31 = true ∨ bit v.toNat 30 = true) ∧ s.prbsRefused rx g l = true ∧ (s.lane rx g l).runs rx = false) :
    s.prbsCtl p v = (s.modLane rx g l fun x => { x with refused := true }).writeIgnored := by
  unfold State.prbsCtl
  rw [hsel]
  exact (if_neg (by simpa using hp)).trans ((if_neg hl).trans (if_pos (by simpa [and_assoc] using href)))

/-- The state of the lane after a write that is not refused; `inj` tells that it inverts a bit. -/
theorem prbsCtl_sets {p : Path} {v : Word} {s : State} {rx : Bool} {g l : Nat} (hp : p ≠ .bar2)
    (hsel : lnSel (s.lanes.idx.get p) = (rx, g, l)) (hl : ¬ 8 ≤ l)
    (hfree : ¬ ((bit v.toNat 31 = true ∨ bit v.toNat 30 = true) ∧ s.prbsRefused rx g l = true ∧ (s.lane rx g l).runs rx = false)) :
    let x := (s.lane rx g l).prbsWrite rx v.toNat
    (s.prbsCtl p v).lane rx g l = if bit v.toNat 27 && !rx && x.genEn then x.inject else x := by
  intro x
  have hlane : (s.onGroup rx g fun s => s.modLane rx g l fun x => x.prbsWrite rx v.toNat).lane rx g l = x := by
    rw [lane_onGroup, lane_modLane_same]
  have hwritten : ¬ ((bit v.toNat 31 || bit v.toNat 30) && s.prbsRefused rx g l && !(s.lane rx g l).runs rx) = true := by
    simpa [and_assoc] using hfree
  unfold State.prbsCtl
  rw [hsel]
  dsimp only
  rw [if_neg (by simpa using hp), if_neg (show ¬ l ≥ 8 from hl), if_neg hwritten, hlane]
  split
  · rw [lane_modLane_same, hlane]
  · exact hlane

end Sys2Proof.Laws

namespace Sys2Proof.Proofs

open Sys2Proof Sys2Proof.Machine Sys2Proof.Laws

/-- A write that is not refused sets the lane's pattern block (R380, R387). -/
theorem prbsEnable_sets {p : Path} {v : Word} {s : State} {rx : Bool} {g l : Nat} (hp : p ≠ .bar2)
    (hsel : lnSel (s.lanes.idx.get p) = (rx, g, l)) (hl : ¬ 8 ≤ l)
    (hfree : ¬ ((bit v.toNat 31 = true ∨ bit v.toNat 30 = true) ∧ s.prbsRefused rx g l = true ∧ (s.lane rx g l).runs rx = false)) :
    ∃ t, exec (.prbsEnable p v) s = .next t ∧ let y := t.lane rx g l
      y.genEn = bit v.toNat 31 ∧ y.chkEn = bit v.toNat 30 ∧ y.pattern = bits v.toNat 29 28 ∧ y.injRate = bits v.toNat 19 16 ∧
        (y.runs rx = true → (s.lane rx g l).runs rx = false → y.state = .prbs) := by
  refine ⟨_, rfl, ?_⟩
  rw [prbsCtl_sets hp hsel hl hfree]
  obtain ⟨hgen, hchk, hpattern, hrate⟩ := prbsWrite_fields rx v.toNat (s.lane rx g l)
  split
  · exact ⟨hgen, hchk, hpattern, hrate, prbsWrite_starts⟩
  · exact ⟨hgen, hchk, hpattern, hrate, prbsWrite_starts⟩

/-- INJECT on a generator that runs inverts one bit (R381). -/
theorem prbsInject_inverts {p : Path} {v : Word} {s : State} {g l : Nat} (hp : p ≠ .bar2)
    (hsel : lnSel (s.lanes.idx.get p) = (false, g, l)) (hl : l < 8) (hgen : (s.lane false g l).genEn = true)
    (hen : bit v.toNat 31 = true) :
    ∃ t, exec (.prbsInject p v) s = .next t ∧ (t.lane false g l).injected = (s.lane false g l).injected + 1 ∧
      (t.lane false g l).injDue = (s.lane false g l).injDue + 1 := by
  have hen' : bit (v ||| BitVec.twoPow 32 27).toNat 31 = true := by rw [bit_or_twoPow v (by decide), hen, Bool.true_or]
  have hinj : bit (v ||| BitVec.twoPow 32 27).toNat 27 = true := by rw [bit_or_twoPow v (by decide), decide_eq_true rfl, Bool.or_true]
  refine ⟨s.prbsCtl p (v ||| BitVec.twoPow 32 27), rfl, ?_⟩
  rw [prbsCtl_sets hp hsel (not_le.2 hl) (by simp [Lane.runs, hgen]), if_pos]
  · obtain ⟨hcount, hdue⟩ := prbsWrite_injections (v := (v ||| BitVec.twoPow 32 27).toNat) false hgen
    exact ⟨congrArg (· + 1) hcount, congrArg (· + 1) hdue⟩
  · rw [(prbsWrite_fields ..).1, hinj, hen']
    rfl

/-- Settles O37: a write to LN_PRBS_CTL by whether it selects a lane, is refused or is taken; an injection through the count that a generator
which goes on running keeps. -/
theorem patternsRun : Obligations.PatternsRun := by
  refine ⟨fun p v s hp => ?_, fun p v s => rfl, fun p v s hp => ?_, fun g l s => ?_, fun g l b s => ?_, fun v s => ⟨rfl, rfl⟩⟩
  · intro rx g l n
    have hsel : lnSel (s.lanes.idx.get p) = (rx, g, l) := rfl
    refine ite_holds (fun hl => ⟨_, rfl, ?_⟩) fun hl => ite_holds (fun href => ⟨_, rfl, ?_⟩) (prbsEnable_sets hp hsel hl)
    · rw [prbsCtl_noLane v hp hsel hl]
      exact ⟨writeIgnored_lanes s, writeIgnored_logged s⟩
    · rw [prbsCtl_refused hp hsel hl href, lane_of_lanes (writeIgnored_lanes _), lane_modLane_same]
      exact ⟨rfl, fun hs => writeIgnored_logged (s.modLane rx g l fun x => { x with refused := true }) hs⟩
  · intro g l hrx hl hgen hen
    exact prbsInject_inverts hp (by rw [← hrx]) hl hgen hen
  · intro y
    have hguard : (y.genEn && y.injRate != 0 && decide (g < 8) && decide (y.genBits ≥ 2 ^ (y.injRate + 10))) = true ↔
        g < 8 ∧ y.genEn = true ∧ y.injRate ≠ 0 ∧ 2 ^ (y.injRate + 10) ≤ y.genBits := by
      simp only [Bool.and_eq_true, bne_iff_ne, decide_eq_true_eq]
      exact ⟨fun ⟨⟨⟨hgen, hrate⟩, hg⟩, hdue⟩ => ⟨hg, hgen, hrate, hdue⟩, fun ⟨hg, hgen, hrate, hdue⟩ => ⟨⟨⟨hgen, hrate⟩, hg⟩, hdue⟩⟩
    refine ite_holds (fun h => ⟨_, if_pos (hguard.2 h), ?_⟩) fun h => if_neg (mt hguard.1 h)
    rw [lane_modLane_same]
    exact ⟨rfl, rfl, rfl⟩
  · refine ite_holds (fun h => ⟨_, if_pos (by simp [h]), lane_modLane_same ..⟩) fun h => if_neg ?_
    simp only [Bool.and_eq_true, decide_eq_true_eq]
    exact fun ⟨⟨hchk, hg⟩, hl⟩ => h ⟨hg, hl, hchk⟩

end Sys2Proof.Proofs

/-! PROOF. O43: the proxy window, the time-outs of the proxy channels, and VDDL (R372, R410, R414 to R418, R427). -/

namespace Sys2Proof.Laws

open Sys2Proof Sys2Proof.Machine

/-! ## What a packet that leaves does not touch (R395 to R400) -/

/-- The torus state but its ports. -/
def torusOffPorts (s : State) : Torus := { s.tor with ports := [] }

/-- The torus state but its ports and proxy channels. -/
def torusOffLinks (s : State) : Torus := { s.tor with ports := [], px := [] }

theorem launch_offPorts (p : Nat) (w : List (BitVec 64)) (s : State) : torusOffPorts (s.launch p w) = torusOffPorts s := by
  unfold torusOffPorts State.launch
  rw [count_tor]
  rfl

theorem flushPort_offPorts (n p : Nat) (s : State) : torusOffPorts (State.flushPort n p s) = torusOffPorts s := by
  induction n generalizing s with
  | zero => rfl
  | succ n ih =>
    unfold State.flushPort
    dsimp only
    split
    · split
      · rw [ih, launch_offPorts]
        rfl
      · rfl
    · split
      · rw [ih, launch_offPorts]
        rfl
      · rfl
    · rfl

theorem forwardOn_offPorts (a : Nat) (w : List (BitVec 64)) (s : State) : torusOffPorts (s.forwardOn a w) = torusOffPorts s := by
  unfold State.forwardOn
  split
  · split
    · rfl
    · rfl
  · exact (flushPort_offPorts ..).trans rfl
  · exact congrArg (fun t : Torus => { t with ports := [] }) (count_tor ..)

theorem pxPacket_offPorts (i o : Nat) (w : List Word) (s : State) : torusOffPorts (s.pxPacket i o w) = torusOffPorts s :=
  forwardOn_offPorts ..

theorem pxPacket_px (i o : Nat) (w : List Word) (s : State) (j : Nat) : (s.pxPacket i o w).px j = s.px j := by
  have h : (s.pxPacket i o w).tor.px = s.tor.px := congrArg (·.px) (pxPacket_offPorts i o w s : torusOffPorts _ = _)
  unfold State.px
  rw [h]

theorem pxPacket_offLinks (i o : Nat) (w : List Word) (s : State) : torusOffLinks (s.pxPacket i o w) = torusOffLinks s :=
  congrArg (fun t : Torus => { t with px := [] }) (pxPacket_offPorts i o w s)

/-! ## Proxy channels (R416) -/

theorem pxSend_opened (i o : Nat) (w : List Word) (s : State) (j : Nat) : ((s.pxSend i o w).px j).opened = (s.px j).opened := by
  have hmod (f : PxChan → PxChan) (hf : ∀ c, (f c).opened = c.opened) : ((s.modPx i f).px j).opened = (s.px j).opened := by
    rw [px_modPx]
    split
    · next h => rw [hf, h]
    · rfl
  unfold State.pxSend
  extract_lets
  split
  · rw [pxPacket_px]
    exact hmod _ fun _ => rfl
  · exact hmod _ fun _ => rfl

theorem modPx_offLinks (i : Nat) (f : PxChan → PxChan) (s : State) : torusOffLinks (s.modPx i f) = torusOffLinks s := rfl

theorem pxSend_offLinks (i o : Nat) (w : List Word) (s : State) : torusOffLinks (s.pxSend i o w) = torusOffLinks s := by
  unfold State.pxSend
  extract_lets
  split
  · rw [pxPacket_offLinks, modPx_offLinks]
  · rfl

theorem openChannel_opened (i : Nat) (s : State) : ((s.openChannel i).px i).opened = true := by
  unfold State.openChannel
  split
  · assumption
  · rw [pxPacket_px, px_modPx_same]

theorem openChannel_offLinks (i : Nat) (s : State) : torusOffLinks (s.openChannel i) = torusOffLinks s := by
  unfold State.openChannel
  split
  · rfl
  · rw [pxPacket_offLinks, modPx_offLinks]

/-! ## The proxy window (R418) -/

theorem pxRequest_opened (rd : Bool) (s : State) : ((s.pxRequest rd).px s.tor.tgtId).opened = true := by
  unfold State.pxRequest
  extract_lets
  split
  · rw [pxSend_opened, openChannel_opened]
  · rw [pxSend_opened, openChannel_opened]

/-- The window after a request: BUSY, since now, with the target. -/
theorem pxRequest_offLinks (rd : Bool) (s : State) : torusOffLinks (s.pxRequest rd) =
    { s.tor with ports := [], px := [], pxBusy := true, pxSince := s.now, pxFor := s.tor.tgtId, pxRead := rd } := by
  unfold State.pxRequest
  extract_lets
  split
  · rw [pxSend_offLinks, openChannel_offLinks]
    rfl
  · rw [pxSend_offLinks, openChannel_offLinks]
    rfl

theorem pxRelease_opened (s : State) : (s.pxRelease.px s.tor.tgtId).opened = false := by
  unfold State.pxRelease
  rw [px_modPx_same]

theorem pxRelease_offLinks (s : State) : torusOffLinks s.pxRelease = torusOffLinks s := by
  unfold State.pxRelease
  rw [modPx_offLinks, pxSend_offLinks, openChannel_offLinks]

theorem tgtId_of_tgt {s t : State} (h : t.tor.tgt = s.tor.tgt) : t.tor.tgtId = s.tor.tgtId := by
  unfold Torus.tgtId
  rw [h]

/-! ## A write to TOR_PXY_CMD (R418, R561) -/

theorem writePxyCmd_ignored {v : Nat} {s : State} (h : bit v 31 = true ∧ bit v 30 = true ∨ (bit v 31 = true ∨ bit v 30 = true) ∧ s.tor.pxBusy = true) :
    s.writePxyCmd v = s.writeIgnored := if_pos (by simpa using h)

theorem writePxyCmd_go {v : Nat} {s : State} {rd : Bool} (hrd : bit v 31 = rd) (hwr : bit v 30 = !rd) (hbusy : s.tor.pxBusy = false) :
    s.writePxyCmd v = if bit v 29 then (s.pxRequest rd).pxRelease else s.pxRequest rd := by
  unfold State.writePxyCmd
  cases rd
  · simp [hrd, hwr, hbusy]
  · simp [hrd, hwr, hbusy]

theorem writePxyCmd_release {v : Nat} {s : State} (hrd : bit v 31 = false) (hwr : bit v 30 = false) (hrel : bit v 29 = true) :
    s.writePxyCmd v = s.pxRelease := by
  unfold State.writePxyCmd
  rw [hrd, hwr, hrel]
  rfl

theorem or_twoPow_of_bit {w : Word} {i : Nat} (h : bit w.toNat i = true) : w ||| BitVec.twoPow 32 i = w := by
  refine BitVec.eq_of_getLsbD_eq fun j _ => ?_
  rw [BitVec.getLsbD_or, BitVec.getLsbD_twoPow]
  rcases eq_or_ne i j with rfl | hij
  · rw [show w.getLsbD i = true from (bit_eq_testBit ..).symm.trans h, Bool.true_or]
  · simp [hij]

/-! ## The resend time-out (R416) -/

/-- A channel that waits 262,144 ck for a PACK advance sends again from its oldest packet. -/
def proxyRetry (s : State) (i : Nat) : State :=
  if (s.px i).unacked.isEmpty || s.now < (s.px i).adv + 262144 then s
  else (s.modPx i fun c => { c with adv := s.now }).pxResend i 0 256

theorem execProxyResend_eq (s : State) : execProxyResend s = .next ((s.tor.px.map (·.1)).foldl proxyRetry s) := rfl

def RetryDue (now : Nat) (c : PxChan) : Prop := c.unacked ≠ [] ∧ c.adv + 262144 ≤ now

theorem pxResend_px (i a b : Nat) (s : State) (j : Nat) : (s.pxResend i a b).px j = s.px j := by
  unfold State.pxResend
  exact foldl_leaves (π := fun s => s.px j) (fun s (p : PxPkt) => pxPacket_px i p.op p.words s j) _ s

theorem pxResend_now (i a b : Nat) (s : State) : (s.pxResend i a b).now = s.now := by
  unfold State.pxResend
  exact foldl_leaves (π := State.now) (fun s (p : PxPkt) => pxPacket_now i p.op p.words s) _ s

theorem proxyRetry_notDue {s : State} {i : Nat} (h : ¬ RetryDue s.now (s.px i)) : proxyRetry s i = s := if_pos (by
  simp only [RetryDue, not_and_or, not_not, not_le] at h
  simpa using h)

theorem proxyRetry_due {s : State} {i : Nat} (h : RetryDue s.now (s.px i)) :
    proxyRetry s i = (s.modPx i fun c => { c with adv := s.now }).pxResend i 0 256 := if_neg (by
  simpa [RetryDue] using h)

theorem proxyRetry_now (s : State) (i : Nat) : (proxyRetry s i).now = s.now := by
  by_cases h : RetryDue s.now (s.px i)
  · rw [proxyRetry_due h, pxResend_now]
    rfl
  · rw [proxyRetry_notDue h]

theorem retries_notDue {l : List Nat} {s : State} (h : ∀ i ∈ l, ¬ RetryDue s.now (s.px i)) : l.foldl proxyRetry s = s := by
  induction l with
  | nil => rfl
  | cons j l ih =>
    rw [List.foldl_cons, proxyRetry_notDue (h j (List.mem_cons_self ..))]
    exact ih fun i hi => h i (List.mem_cons_of_mem _ hi)

/-- Any other channel, and one that is not due, stays as it is. -/
theorem proxyRetry_leaves {s : State} {i j : Nat} (h : RetryDue s.now (s.px i) → i ≠ j) : (proxyRetry s j).px i = s.px i := by
  by_cases hd : RetryDue s.now (s.px j)
  · have hij : i ≠ j := fun hij => h (hij ▸ hd) hij
    rw [proxyRetry_due hd, pxResend_px, px_modPx, if_neg hij]
  · rw [proxyRetry_notDue hd]

theorem retries_leave {l : List Nat} {s : State} {i : Nat} (h : ¬ RetryDue s.now (s.px i)) : (l.foldl proxyRetry s).px i = s.px i := by
  induction l generalizing s with
  | nil => rfl
  | cons j l ih =>
    have hj : (proxyRetry s j).px i = s.px i := proxyRetry_leaves fun hd => absurd hd h
    rw [List.foldl_cons, ih (by rwa [hj, proxyRetry_now]), hj]

/-- A channel that is due is sent again once: its advance is then now. -/
theorem retries_due {l : List Nat} {s : State} {i : Nat} (hi : i ∈ l) (h : RetryDue s.now (s.px i)) :
    (l.foldl proxyRetry s).px i = { s.px i with adv := s.now } := by
  induction l generalizing s with
  | nil => exact absurd hi List.not_mem_nil
  | cons j l ih =>
    rw [List.foldl_cons]
    rcases eq_or_ne i j with rfl | hij
    · have hsent : (proxyRetry s i).px i = { s.px i with adv := s.now } := by
        rw [proxyRetry_due h, pxResend_px, px_modPx_same]
      rw [retries_leave, hsent]
      rw [hsent, proxyRetry_now]
      exact fun hd => absurd hd.2 (by simp)
    · have hj : (proxyRetry s j).px i = s.px i := proxyRetry_leaves fun _ => hij
      rw [ih ((List.mem_cons.1 hi).resolve_left hij) (by rwa [hj, proxyRetry_now]), hj, proxyRetry_now]

/-! ## VDDL (R372, R410, R427) -/

theorem portsDetect_pwr (s : State) : s.portsDetect.pwr = s.pwr :=
  (portsDetect_writes (μ := { lanes := true, tor := true }) s (Only.refl _ s) rfl rfl).pwr.resolve_left Bool.false_ne_true

theorem checkCandidate_pwr (s : State) : s.checkCandidate.pwr = s.pwr :=
  (checkCandidate_writes (μ := { tor := true }) s (Only.refl _ s) rfl).pwr.resolve_left Bool.false_ne_true

/-- The lanes, the torus and the power block after VDDL falls: the ends of the ports' conditions leave them alone. -/
theorem execVddlLow_eq (s : State) : ∃ t, execVddlLow s = .next t ∧ t.pwr.vddlUp = false ∧ t.tor = s.tor.cold s.now ∧
    t.lanes.groups = s.lanesOff.lanes.groups.map fun x => (x.1, x.2.enter .off s.now) := by
  unfold execVddlLow
  extract_lets down _ off ended
  have hends : (ended.pwr, ended.tor, ended.lanes) = (off.pwr, off.tor, off.lanes) :=
    foldl_leaves (π := fun s : State => (s.pwr, s.tor, s.lanes)) (f := fun s p => (s.condEnd 0x06 0x02 p).condEnd 0x06 0x03 p)
      (fun _ _ => rfl) (List.range 4) off
  obtain ⟨hpwr, htor, hlanes⟩ : ended.pwr = off.pwr ∧ ended.tor = off.tor ∧ ended.lanes = off.lanes := by simpa using hends
  exact ⟨_, rfl, congrArg (·.vddlUp) hpwr, htor, congrArg (·.groups) hlanes⟩

/-- A table in which every group has gone OFF holds only groups that are OFF; a group it does not list is. -/
theorem get_off (m : List (Nat × LaneGroup)) (now k : Nat) :
    (Sparse.get ({} : LaneGroup) (m.map fun x => (x.1, x.2.enter .off now)) k).state = .off := by
  induction m with
  | nil => rfl
  | cons x m ih =>
    simp only [List.map_cons, Sparse.get]
    split
    · rfl
    · exact ih

end Sys2Proof.Laws

namespace Sys2Proof.Proofs

open Sys2Proof Sys2Proof.Machine Sys2Proof.Laws

/-! ## Writes to TOR_PXY_CMD -/

/-- The value written with a GO: that of GO_RD or of GO_WR, its bit set. -/
def goWord (rd : Bool) (v : Word) : Nat := (v ||| BitVec.twoPow 32 (if rd then 31 else 30)).toNat

theorem exec_go (rd : Bool) (v : Word) (s : State) :
    exec (if rd = true then .goRd v else .goWr v) s = .next (s.writePxyCmd (goWord rd v)) := by
  cases rd
  · rfl
  · rfl

theorem goWord_bit (rd : Bool) (v : Word) (i : Nat) : bit (goWord rd v) i = (bit v.toNat i || decide (i = if rd then 31 else 30)) :=
  bit_or_twoPow v (by cases rd <;> decide) i

/-- GO while BUSY, or both in one write, is ignored. -/
theorem go_ignored {rd : Bool} {v : Word} {s : State} (h : s.tor.pxBusy = true ∨ bit v.toNat (if rd = true then 30 else 31) = true) :
    s.writePxyCmd (goWord rd v) = s.writeIgnored := by
  apply writePxyCmd_ignored
  cases rd
  · simpa [goWord_bit, or_comm] using h
  · simpa [goWord_bit, or_comm] using h

/-- Any other GO is a request, and with RELEASE the end of its channel. -/
theorem go_taken {rd : Bool} {v : Word} {s : State} (h : ¬ (s.tor.pxBusy = true ∨ bit v.toNat (if rd = true then 30 else 31) = true)) :
    s.writePxyCmd (goWord rd v) = if bit v.toNat 29 then (s.pxRequest rd).pxRelease else s.pxRequest rd := by
  obtain ⟨hbusy, hboth⟩ := not_or.1 h
  have hrel : bit (goWord rd v) 29 = bit v.toNat 29 := by
    cases rd
    · simp [goWord_bit]
    · simp [goWord_bit]
  rw [← hrel]
  refine writePxyCmd_go ?_ ?_ (Bool.eq_false_iff.2 hbusy)
  · cases rd
    · simpa [goWord_bit] using hboth
    · simp [goWord_bit]
  · cases rd
    · simp [goWord_bit]
    · simpa [goWord_bit] using hboth

theorem goRequested {rd : Bool} {v : Word} {s t : State} (ht : t = if bit v.toNat 29 then (s.pxRequest rd).pxRelease else s.pxRequest rd) :
    t.tor.pxBusy = true ∧ t.tor.pxRead = rd ∧ t.tor.pxFor = s.tor.tgtId ∧ t.tor.pxSince = s.now ∧
      (t.px s.tor.tgtId).opened = !bit v.toNat 29 := by
  have hrequest := pxRequest_offLinks rd s
  have htarget : (s.pxRequest rd).tor.tgtId = s.tor.tgtId := tgtId_of_tgt (congrArg (·.tgt) hrequest)
  have hwindow : torusOffLinks t = torusOffLinks (s.pxRequest rd) := by
    rw [ht]
    split
    · exact pxRelease_offLinks _
    · rfl
  rw [hrequest] at hwindow
  refine ⟨congrArg (·.pxBusy) hwindow, congrArg (·.pxRead) hwindow, congrArg (·.pxFor) hwindow, congrArg (·.pxSince) hwindow, ?_⟩
  rw [ht]
  split
  · next hrel => rw [← htarget, pxRelease_opened, hrel]; rfl
  · next hrel => rw [pxRequest_opened, Bool.eq_false_iff.2 hrel]; rfl

/-- RELEASE adds nothing to a write that holds a GO with it. -/
theorem or_release_of_go {v w : Word} (h : v ||| w = v) : (v ||| 0x20000000#32) ||| w = v ||| 0x20000000#32 := by
  rw [BitVec.or_assoc, BitVec.or_comm _ w, ← BitVec.or_assoc, h]

theorem release_with_go (v : Word) (s : State) :
    (bit v.toNat 31 = true → exec (.release v) s = exec (.goRd (v ||| 0x20000000#32)) s) ∧
      (bit v.toNat 30 = true → exec (.release v) s = exec (.goWr (v ||| 0x20000000#32)) s) := by
  refine ⟨fun h => ?_, fun h => ?_⟩
  · show exec (.release v) s = .next (s.writePxyCmd (v ||| 0x20000000#32 ||| BitVec.twoPow 32 31).toNat)
    rw [or_release_of_go (or_twoPow_of_bit h)]
    rfl
  · show exec (.release v) s = .next (s.writePxyCmd (v ||| 0x20000000#32 ||| BitVec.twoPow 32 30).toNat)
    rw [or_release_of_go (or_twoPow_of_bit h)]
    rfl

theorem release_closes {v : Word} (s : State) (hrd : bit v.toNat 31 = false) (hwr : bit v.toNat 30 = false) :
    ∃ t, exec (.release v) s = .next t ∧ (t.px s.tor.tgtId).opened = false ∧ t.tor.pxBusy = s.tor.pxBusy := by
  have hbit (i : Nat) : bit (v ||| 0x20000000#32).toNat i = (bit v.toNat i || decide (i = 29)) := bit_or_twoPow v (k := 29) (by decide) i
  have heq : s.writePxyCmd (v ||| 0x20000000#32).toNat = s.pxRelease :=
    writePxyCmd_release ((hbit 31).trans (by rw [hrd]; rfl)) ((hbit 30).trans (by rw [hwr]; rfl)) ((hbit 29).trans (Bool.or_true _))
  exact ⟨_, congrArg Host.Outcome.next heq, pxRelease_opened s, congrArg (·.pxBusy) (pxRelease_offLinks s)⟩

/-! ## Time-outs -/

theorem proxyResend_due {s : State} {i : Nat} (hi : i ∈ s.tor.px.map (·.1)) (hwait : (s.px i).unacked ≠ [])
    (hdue : (s.px i).adv + 262144 ≤ s.now) :
    ∃ t, exec .proxyResend s = .next t ∧ (t.px i).adv = s.now ∧ (t.px i).unacked = (s.px i).unacked := by
  refine ⟨_, execProxyResend_eq s, ?_⟩
  rw [retries_due hi ⟨hwait, hdue⟩]
  exact ⟨rfl, rfl⟩

theorem proxyResend_idle {s : State} (h : ∀ i ∈ s.tor.px.map (·.1), (s.px i).unacked = [] ∨ s.now < (s.px i).adv + 262144) :
    exec .proxyResend s = .next s := by
  refine (execProxyResend_eq s).trans (congrArg Host.Outcome.next (retries_notDue fun i hi hdue => ?_))
  exact (h i hi).elim hdue.1 (not_lt.2 hdue.2)

/-- The bound proxy: no progress for 2^24 ck, and no packet for 2^31 ck (R414, R417). -/
theorem bound_timeouts {s : State} {i : Nat} (hbound : s.tor.boundTo = some i) :
    (if s.tor.pcieEn = false ∧ s.host.proxyLost = false ∧ (s.px i).unacked ≠ [] ∧ (s.px i).prog + 2 ^ 24 ≤ s.now then
        ∃ t, exec .proxyLost s = .next t ∧ t.host.proxyLost = true ∧ (logsOk s → Logged .proxyLost 0 s t)
      else exec .proxyLost s = .next s) ∧
    (if (s.px i).heard + 2 ^ 31 ≤ s.now then ∃ t, exec .proxyBindingTimeout s = .next t ∧ t.tor.boundTo = none
      else exec .proxyBindingTimeout s = .next s) := by
  have hlost : exec .proxyLost s = if s.tor.pcieEn || s.host.proxyLost || (s.px i).unacked.isEmpty || s.now < (s.px i).prog + 2 ^ 24
      then .next s else .next ({ s with host := { s.host with proxyLost := true } }.log .proxyLost 0) := by
    unfold exec execProxyLost
    rw [hbound]
  have hbinding : exec .proxyBindingTimeout s = if s.now < (s.px i).heard + 2 ^ 31 then .next s
      else .next (s.modTor fun t => { t with boundTo := none }) := by
    unfold exec execProxyBindingTimeout
    rw [hbound]
  refine ⟨ite_holds (fun h => ?_) fun h => hlost.trans (if_pos ?_), ite_holds (fun h => ?_) fun h => hbinding.trans (if_pos (not_le.1 h))⟩
  · refine ⟨_, hlost.trans (if_neg ?_), ?_,
      fun hs => log_logged (u := { s with host := { s.host with proxyLost := true } }) _ _ _ _ hs (.of_flt rfl) hs (.refl _)⟩
    · simpa [and_assoc] using h
    · rw [log_host]
  · simpa [imp_iff_not_or, or_assoc] using h
  · exact ⟨_, hbinding.trans (if_neg (not_lt.2 h)), rfl⟩

theorem unbound_timeouts {s : State} (hbound : s.tor.boundTo = none) :
    exec .proxyLost s = .next s ∧ exec .proxyBindingTimeout s = .next s := by
  unfold exec execProxyLost execProxyBindingTimeout
  rw [hbound]
  exact ⟨rfl, rfl⟩

theorem pxyTimeout_answers (s : State) : if s.tor.pxBusy = true ∧ s.tor.pxSince + 2 ^ 24 ≤ s.now then
    ∃ t, exec .pxyTimeout s = .next t ∧ t.tor.pxBusy = false ∧ t.tor.pxResult = 3 ∧ (t.px s.tor.pxFor).opened = false
    else exec .pxyTimeout s = .next s := by
  refine ite_holds (fun h => ⟨_, if_neg (by simpa using h), rfl, rfl, ?_⟩) fun h => if_pos ?_
  · rw [px_modPx_same]
  · simpa [imp_iff_not_or] using h

/-! ## VDDL -/

theorem vddlLow_stops (s : State) : ∃ t, exec .vddlLow s = .next t ∧ t.pwr.vddlUp = false ∧ t.tor.final = false ∧ t.tor.ports = [] ∧
    (∀ rx g, (t.group rx g).state = .off) ∧ t.tor.x = s.tor.x ∧ t.tor.y = s.tor.y := by
  obtain ⟨t, ht, hvddl, htor, hgroups⟩ := execVddlLow_eq s
  refine ⟨t, ht, hvddl, ?_⟩
  rw [htor]
  refine ⟨rfl, rfl, fun rx g => ?_, rfl, rfl⟩
  unfold State.group
  rw [hgroups]
  exact get_off ..

theorem vddlReady_starts (s : State) : if s.pwr.vddlUp = false ∧ 4 ≤ s.pwr.step then
    ∃ t, exec .vddlReady s = .next t ∧ t.pwr.vddlUp = true else exec .vddlReady s = .next s := by
  refine ite_holds (fun h => ⟨_, if_neg (by simpa using h), ?_⟩) fun h => if_pos ?_
  · rw [checkCandidate_pwr, portsDetect_pwr]
    split
    · rw [lanesDetect_pwr]
      rfl
    · rfl
  · simpa [imp_iff_not_or] using h

/-- Settles O43: the window by what a GO leaves of it (the packets that carry it change only ports and channels), the resend by one pass over the
channels. That a request or RELEASE opens a closed channel first, that RELEASE and the window's time-out close it, and that RELEASE is carried
as a REG_WR are the model's choices (log 108, 109). -/
theorem proxyWindowAndSupplies : Obligations.ProxyWindowAndSupplies := by
  refine ⟨fun v s rd => ?_, fun v s => ?_, fun s => ⟨fun i hi hwait hdue => proxyResend_due hi hwait hdue, proxyResend_idle⟩, fun s => ?_,
    pxyTimeout_answers, vddlLow_stops, vddlReady_starts⟩
  · refine ⟨_, exec_go rd v s, ite_holds (fun h => ?_) fun h => goRequested (go_taken h)⟩
    rw [go_ignored h]
    exact ⟨writeIgnored_tor s, writeIgnored_logged s⟩
  · obtain ⟨hrd, hwr⟩ := release_with_go v s
    exact ⟨hrd, hwr, release_closes s⟩
  · split
    · next i hbound => exact bound_timeouts hbound
    · next hbound => exact unbound_timeouts hbound

end Sys2Proof.Proofs

/-! PROOF. Torus ports: what the packets that leave a port change of it, and what happens to a port that fails (R390 to R397). -/

namespace Sys2Proof.Laws

open Sys2Proof Sys2Proof.Machine

@[simp] theorem count_port (ev : Nat) (bob : Option Nat) (w : Nat) (s : State) (q : Nat → Bool) (p : Nat) :
    (s.count ev bob w q).port p = s.port p := port_of_tor (count_tor ..) p
@[simp] theorem emit_port (o : Out) (s : State) (p : Nat) : (s.emit o).port p = s.port p := rfl
@[simp] theorem linkCtrl_port (k typ low : Nat) (s : State) (p : Nat) : (s.linkCtrl k typ low).port p = s.port p := rfl
@[simp] theorem condEnd_port (b c i : Nat) (s : State) (p : Nat) : (s.condEnd b c i).port p = s.port p := rfl

/-! ## The packets that a port can take leave it (R395, R397) -/

/-- Port `r` is `q` after some packets have left its queues, at ck `now`. -/
def Flushed (now : Nat) (q r : Port) : Prop :=
  ∃ tx sent m f adv, r = { q with txSeq := tx, unacked := q.unacked ++ sent, lastAdv := adv, mgmt := m, fwdq := f } ∧
    m <:+ q.mgmt ∧ f <:+ q.fwdq ∧ (adv = now ∨ adv = q.lastAdv)

theorem Flushed.refl (now : Nat) (q : Port) : Flushed now q q :=
  ⟨q.txSeq, [], q.mgmt, q.fwdq, q.lastAdv, by rw [List.append_nil], List.suffix_rfl, List.suffix_rfl, .inr rfl⟩

theorem Flushed.trans {now : Nat} {a b c : Port} (h : Flushed now a b) (k : Flushed now b c) : Flushed now a c := by
  obtain ⟨_, sent, _, _, adv, rfl, hm, hf, hadv⟩ := h
  obtain ⟨tx, more, m, f, adv', rfl, km, kf, kadv⟩ := k
  exact ⟨tx, sent ++ more, m, f, adv', by simp, km.trans hm, kf.trans hf, by
    obtain rfl | rfl := kadv
    · exact .inl rfl
    · exact hadv⟩

/-- A packet that leaves takes numbers and waits for its acknowledgement. -/
theorem launch_flushed (p : Nat) (ws : List (BitVec 64)) (s : State) : Flushed s.now (s.port p) ((s.launch p ws).port p) := by
  unfold State.launch
  rw [count_port, emit_port, port_modPort_same]
  exact ⟨_, _, _, _, _, rfl, List.suffix_rfl, List.suffix_rfl, by
    split
    · exact .inl rfl
    · exact .inr rfl⟩

theorem flushPort_flushed (n p : Nat) (s : State) : Flushed s.now (s.port p) ((State.flushPort n p s).port p) := by
  induction n generalizing s with
  | zero => exact .refl ..
  | succ n ih =>
    have hleft {f : Port → Port} (ws : List (BitVec 64)) (hf : Flushed s.now (s.port p) (f (s.port p))) :
        Flushed s.now (s.port p) ((State.flushPort n p ((s.modPort p f).launch p ws)).port p) := by
      have hlaunch := launch_flushed p ws (s.modPort p f)
      have hrest := ih ((s.modPort p f).launch p ws)
      rw [port_modPort_same] at hlaunch
      rw [launch_now] at hrest
      exact hf.trans (hlaunch.trans hrest)
    unfold State.flushPort
    extract_lets q
    split
    · next x m hm =>
      split
      · exact hleft _ ⟨q.txSeq, [], m, q.fwdq, q.lastAdv, by rw [List.append_nil], ⟨[x], hm.symm⟩, List.suffix_rfl, .inr rfl⟩
      · exact .refl ..
    · next x f _ hf =>
      split
      · exact hleft _ ⟨q.txSeq, [], q.mgmt, f, q.lastAdv, by rw [List.append_nil], List.suffix_rfl, ⟨[x], hf.symm⟩, .inr rfl⟩
      · exact .refl ..
    · exact .refl ..

theorem flushAll_flushed (p : Nat) (s : State) : Flushed s.now (s.port p) ((s.flushAll p).port p) := flushPort_flushed ..

/-! ## A port that fails (R393, R396) -/

/-- A port that fails has lost its replay buffer and its queues, and routing does not use it. -/
theorem failPort_fails (p : Nat) (s : State) : let q := (s.failPort p).port p
    q.state = .failed ∧ q.unacked = [] ∧ q.mgmt = [] ∧ q.fwdq = [] ∧ q.up = false := by
  have hport : (s.failPort p).port p = { (s.port p).restart .failed with failedAt := s.now } := by
    rw [State.failPort, log_port, groupTo_port, port_modPort_same]
  rw [hport]
  exact ⟨rfl, rfl, rfl, rfl, rfl⟩

/-- The failure of a port is logged where the log has grown before it. -/
theorem failPort_logged {p : Nat} {s u : State} (hs : logsOk s) (h : LogGrows s u) (hu : logsOk u) :
    Logged .torLinkFail p s (u.failPort p) :=
  log_logged 0 0 0 false hs (u := (u.modPort p _).groupTo true (8 + p) .failed) (h.trans (.of_flt rfl)) hu (.refl _)

@[simp] theorem failPort_out (p : Nat) (s : State) : (s.failPort p).out = s.out := log_out ..

/-! ## Words that are sent again (R395, R396) -/

theorem resendFrom_nil {p k : Nat} {s : State} (h : (s.port p).unacked.drop k = []) : s.resendFrom p k = s := by
  unfold State.resendFrom
  rw [h]

/-- REPLAY and the words again, from the first unacknowledged one that is named on. -/
theorem resendFrom_cons {p k : Nat} {s : State} {x : Nat × BitVec 64} {r : List (Nat × BitVec 64)} (h : (s.port p).unacked.drop k = x :: r) :
    s.resendFrom p k = ((s.linkCtrl p 5 x.1).emit (.packet p x.1 (x.2 :: r.map (·.2)))).count 0x109 none (r.length + 1) fun v =>
      bit v 2 || v % 4 == p := by
  unfold State.resendFrom
  rw [h]
  rfl

theorem resendFrom_out {p k : Nat} {s : State} {x : Nat × BitVec 64} {r : List (Nat × BitVec 64)} (h : (s.port p).unacked.drop k = x :: r) :
    (s.resendFrom p k).out = s.out ++ [.link p (ctrlWord 5 x.1), .packet p x.1 (x.2 :: r.map (·.2))] := by
  rw [resendFrom_cons h, count_out]
  simp [State.linkCtrl]

@[simp] theorem resendFrom_port (p k : Nat) (s : State) (j : Nat) : (s.resendFrom p k).port j = s.port j := by
  cases h : (s.port p).unacked.drop k with
  | nil => rw [resendFrom_nil h]
  | cons x r => rw [resendFrom_cons h, count_port, emit_port, linkCtrl_port]

theorem resendFrom_grows (p k : Nat) (s : State) : LogGrows s (s.resendFrom p k) := by
  cases h : (s.port p).unacked.drop k with
  | nil => rw [resendFrom_nil h]; exact .refl s
  | cons x r => rw [resendFrom_cons h]; exact (count_grows ..).from_flt rfl

/-- A time-out replay counts since the last advance, from now (R396). -/
def replayNoted (now : Nat) (q : Port) : Port := { q with replays := q.replays + 1, lastAdv := now }

/-- The words that a time-out replay sends again (R396). -/
def replayed (p : Nat) (s : State) : State := (s.modPort p (replayNoted s.now)).resendFrom p 0

theorem replayed_port (p : Nat) (s : State) : (replayed p s).port p = replayNoted s.now (s.port p) := by
  rw [replayed, resendFrom_port, port_modPort_same]

theorem replayed_out {p : Nat} {s : State} {x : Nat × BitVec 64} {r : List (Nat × BitVec 64)} (h : (s.port p).unacked = x :: r) :
    (replayed p s).out = s.out ++ [.link p (ctrlWord 5 x.1), .packet p x.1 (x.2 :: r.map (·.2))] :=
  resendFrom_out (s := s.modPort p (replayNoted s.now)) (by rw [port_modPort_same]; exact h)

theorem replayed_grows (p : Nat) (s : State) : LogGrows s (replayed p s) := (resendFrom_grows ..).from_flt rfl

theorem replayed_logs {p : Nat} {s : State} (hs : logsOk s) : logsOk (replayed p s) :=
  (resendFrom_keeps p 0 _ (modPort_keeps p (replayNoted s.now) s (Keeps.refl s))).logs hs

/-- The condition of a time-out replay. -/
def ReplayDue (p : Nat) (s : State) : Prop :=
  p < 4 ∧ (s.port p).state = .up ∧ (s.port p).freq = false ∧ (s.port p).unacked ≠ [] ∧ (s.port p).lastAdv + 2048 ≤ s.now

theorem replayTimeout_guard_iff (p : Nat) (s : State) :
    (decide (p ≥ 4) || !(s.port p).up || (s.port p).freq || (s.port p).unacked.isEmpty || decide (s.now < (s.port p).lastAdv + 2048)) = false ↔
      ReplayDue p s := by
  simp [ReplayDue, up_iff, and_assoc]

theorem execReplayTimeout_due {p : Nat} {s : State} (h : ReplayDue p s) :
    execReplayTimeout p s = .next (if 3 ≤ (s.port p).replays then (replayed p s).failPort p else replayed p s) := by
  have hguard := (replayTimeout_guard_iff p s).2 h
  unfold execReplayTimeout
  extract_lets q u
  rw [if_neg (Bool.eq_false_iff.1 hguard), apply_ite Host.Outcome.next]
  exact if_congr (by simp [q]) rfl rfl

theorem execReplayTimeout_not_due {p : Nat} {s : State} (h : ¬ReplayDue p s) : execReplayTimeout p s = .next s :=
  if_pos (eq_true_of_ne_false (mt (replayTimeout_guard_iff p s).1 h))

end Sys2Proof.Laws

/-! PROOF. O54: the latch of TOR_TIME_LO (R424). -/

namespace Sys2Proof.Laws

open Sys2Proof Sys2Proof.Machine

theorem readReg_timeLo (p : Path) (s : State) : s.readReg p 0x18014 = s.readTimeLo p := rfl

theorem readReg_timeHi (p : Path) (s : State) : s.readReg p 0x18018 = s.readTimeHi p := rfl

theorem readTimeHi_unlatched {p : Path} {s : State} (h : Sparse.find? s.tor.timeLatch (Path.key p) = none) :
    s.readTimeHi p = (s.gt / 2 ^ 32 % 2 ^ 32, s) := by
  unfold State.readTimeHi
  rw [h]

theorem readTimeHi_latched {p : Path} {s : State} {v : Nat} (h : Sparse.find? s.tor.timeLatch (Path.key p) = some v) :
    s.readTimeHi p = (v, s.modTor fun t => { t with timeLatch := Sparse.erase t.timeLatch (Path.key p) }) := by
  unfold State.readTimeHi
  rw [h]

end Sys2Proof.Laws

namespace Sys2Proof.Proofs

open Sys2Proof Sys2Proof.Machine Sys2Proof.Laws

/-- Settles O54: the latch that a read of TOR_TIME_LO leaves is what the table of latches finds for the path, until a read of TOR_TIME_HI
erases it. -/
theorem timeIsLatched : Obligations.TimeIsLatched := by
  refine ⟨fun p s => rfl, fun p s u hlatch => ?_, fun p s h => ?_, rfl⟩
  · have hfound : Sparse.find? u.tor.timeLatch (Path.key p) = some (s.gt / 2 ^ 32 % 2 ^ 32) := by
      rw [hlatch, readReg_timeLo]
      exact (find?_insert ..).trans (if_pos rfl)
    rw [readReg_timeHi, readTimeHi_latched hfound, readReg_timeHi, readTimeHi_unlatched]
    · exact ⟨rfl, rfl⟩
    · exact (find?_erase ..).trans (if_pos rfl)
  · rw [readReg_timeHi, readTimeHi_unlatched h]

end Sys2Proof.Proofs

/-! PROOF. O59: a link that fails (R396). -/

namespace Sys2Proof.Proofs

open Sys2Proof Sys2Proof.Machine Sys2Proof.Laws

/-- Settles O59: both the fourth replay and a loss of lock end in the failure of the port. That the fourth replay is sent before it fails
the link is the model's choice (log 113). -/
theorem replaysFailTheLink : Obligations.ReplaysFailTheLink := by
  refine ⟨fun p s hp hup hfreq hwait hdue hfourth hs => ?_, fun p s hp hrun hs => ?_, rfl⟩
  · obtain ⟨hstate, hunacked, hmgmt, hfwdq, hroute⟩ := failPort_fails p (replayed p s)
    exact ⟨_, (execReplayTimeout_due ⟨hp, hup, hfreq, hwait, hdue⟩).trans (by rw [if_pos hfourth]), hstate, hunacked, hmgmt, hfwdq,
      failPort_logged hs (replayed_grows p s) (replayed_logs hs), hroute⟩
  · have hlost : s.lockLost true (8 + p) = s.failPort p := by
      rw [State.lockLost, if_pos (Nat.le_add_right 8 p), Nat.add_sub_cancel_left]
    obtain ⟨hstate, hunacked, hmgmt, hfwdq, hroute⟩ := failPort_fails p s
    refine ⟨s.failPort p, ?_, hstate, hunacked, hmgmt, hfwdq, failPort_logged hs (.refl s) hs, hroute⟩
    have hrx : exec (.receiveLossOfLock (8 + p)) s = .next (s.lockLost true (8 + p)) := if_pos (by simp [hrun]; omega)
    rw [hrx, hlost]

end Sys2Proof.Proofs

/-! PROOF. O38: torus ports come up, retrain and compare their beats (R390, R393, R394). -/

namespace Sys2Proof.Laws

open Sys2Proof Sys2Proof.Machine

/-- The port `q` when an IDENT has named its neighbour (R394). -/
def namedPort (v : Nat) (q : Port) : Port := { q with nbrX := bits v 47 42, nbrY := bits v 41 36, nbrPort := bits v 23 22 }

theorem ident_guard_iff (p : Nat) (s : State) : let st := (s.port p).state
    (decide (p ≥ 4) || !(st == .identity || st == .miscabled || st == .up)) = false ↔
      p < 4 ∧ (st = .identity ∨ st = .miscabled ∨ st = .up) := by
  simp [or_iff_not_imp_left]

/-- An IDENT names the neighbour, and brings a port that was not UP to UP or to MISCABLED (R394). -/
theorem execIdent_named {p : Nat} {w : BitVec 64} {s : State}
    (h : p < 4 ∧ ((s.port p).state = .identity ∨ (s.port p).state = .miscabled ∨ (s.port p).state = .up)) (hw : ctrlType w = 6) :
    let q := s.port p
    ∃ t, execIdent p w s = .next t ∧
      (t.port p).nbrX = bits w.toNat 47 42 ∧ (t.port p).nbrY = bits w.toNat 41 36 ∧ (t.port p).nbrPort = bits w.toNat 23 22 ∧
        if q.state = .up then (t.port p).state = .up ∧ (t.port p).txSeq = q.txSeq ∧ (t.port p).rxSeq = q.rxSeq
        else if s.tor.expected p w.toNat = true then (t.port p).state = .up ∧ (t.port p).txSeq = 0 ∧ (t.port p).rxSeq = 0
        else (t.port p).state = .miscabled ∧ (q.state = .identity → logsOk s → Logged .torMiscable p s t) := by
  intro q
  unfold execIdent
  extract_lets st v u
  have hu : u.port p = namedPort v q := port_modPort_same ..
  rw [if_neg (Bool.eq_false_iff.1 ((ident_guard_iff p s).2 h)), if_neg (by simpa using hw)]
  by_cases hup : q.state = .up
  · refine ⟨u, if_pos (beq_iff_eq.2 hup), ?_⟩
    rw [hu, if_pos hup]
    exact ⟨rfl, rfl, rfl, hup, rfl, rfl⟩
  rw [if_neg (show ¬ (st == .up) = true by simpa using hup)]
  by_cases hexpected : s.tor.expected p v = true
  · refine ⟨_, if_pos hexpected, ?_⟩
    rw [condEnd_port, port_modPort_same, hu, if_neg hup, if_pos hexpected]
    exact ⟨rfl, rfl, rfl, rfl, rfl, rfl⟩
  rw [if_neg (show ¬ u.tor.expected p v = true from hexpected)]
  by_cases hmiscabled : q.state = .miscabled
  · refine ⟨u, if_pos (beq_iff_eq.2 hmiscabled), ?_⟩
    rw [hu, if_neg hup, if_neg hexpected]
    exact ⟨rfl, rfl, rfl, hmiscabled, fun hidentity => absurd (hmiscabled.symm.trans hidentity) (by decide)⟩
  · refine ⟨_, if_neg (show ¬ (st == .miscabled) = true by simpa using hmiscabled), ?_⟩
    rw [log_port, port_modPort_same, hu, if_neg hup, if_neg hexpected]
    exact ⟨rfl, rfl, rfl, rfl, fun _ hs =>
      log_logged _ _ _ _ hs (u := u.modPort p fun q => { q with state := .miscabled }) (.of_flt rfl) hs (.refl _)⟩

theorem execIdent_other {p : Nat} {w : BitVec 64} {s : State}
    (h : p < 4 ∧ ((s.port p).state = .identity ∨ (s.port p).state = .miscabled ∨ (s.port p).state = .up)) (hw : ctrlType w ≠ 6) :
    execIdent p w s = .next (s.reservedCtrl w) :=
  (if_neg (Bool.eq_false_iff.1 ((ident_guard_iff p s).2 h))).trans (if_pos (by simpa using hw))

theorem portDetect_state (p : Nat) (s : State) : ((s.portDetect p).port p).state = .detect :=
  congrArg (·.state) (port_modPort_same p (Port.restart .detect) s)

/-- A port whose lanes are locked compares beat counts after 2^24 ck (R390). -/
def CompareDue (p : Nat) (s : State) : Prop := let q := s.port p
  p < 4 ∧ (q.state = .align ∨ q.state = .identity ∨ q.state = .up ∨ q.state = .miscabled) ∧ q.freqAt + 2 ^ 24 ≤ s.now

theorem freqCheck_guard_iff (p : Nat) (s : State) : let q := s.port p
    (decide (p ≥ 4) || !(q.state == .align || q.state == .identity || q.state == .up || q.state == .miscabled) ||
      decide (s.now < q.freqAt + 2 ^ 24)) = false ↔ CompareDue p s := by
  simp [CompareDue, and_assoc, or_iff_not_imp_left]

/-- A comparison leaves the port's state; out of tolerance it sets FREQ, and the sixteenth in tolerance in a row clears it (R390). -/
theorem execFreqCheck_due {p : Nat} (d : Nat) {s : State} (h : CompareDue p s) : let q := s.port p
    ∃ t, execFreqCheck p d s = .next t ∧ (t.port p).freqAt = s.now ∧ (t.port p).state = q.state ∧
      if 2 * 2 ^ 23 < d * 1000000 then (t.port p).freq = true ∧ (t.port p).freqAgree = 0 ∧
        (q.freq = false → logsOk s → Logged .torFreq p s t)
      else if q.freq = false then (t.port p).freq = false
      else if 15 ≤ q.freqAgree then (t.port p).freq = false ∧ (t.port p).freqAgree = 0
      else (t.port p).freq = true ∧ (t.port p).freqAgree = q.freqAgree + 1 := by
  intro q
  unfold execFreqCheck
  extract_lets locked u off agreed
  have hu : u.port p = { q with freqAt := s.now } := port_modPort_same p (fun q => { q with freqAt := s.now }) s
  rw [if_neg (Bool.eq_false_iff.1 ((freqCheck_guard_iff p s).2 h))]
  by_cases htolerance : 2 * 2 ^ 23 < d * 1000000
  · have hoff : off.port p = { q with freqAt := s.now, freq := true, freqAgree := 0 } := by rw [port_modPort_same, hu]
    refine ⟨_, if_pos htolerance, ?_⟩
    rw [if_pos htolerance]
    cases hfreq : q.freq with
    | true => exact hoff ▸ ⟨rfl, rfl, rfl, rfl, nofun⟩
    | false =>
      rw [if_neg Bool.false_ne_true, log_port, hoff]
      exact ⟨rfl, rfl, rfl, rfl, fun _ hs => log_logged _ _ _ _ hs (u := off) (.of_flt rfl) hs (.refl _)⟩
  rw [if_neg htolerance]
  cases hfreq : q.freq with
  | false =>
    refine ⟨u, rfl, ?_⟩
    rw [hu, if_neg htolerance, if_pos rfl]
    exact ⟨rfl, rfl, hfreq⟩
  | true =>
    by_cases hagree : 15 ≤ q.freqAgree
    · refine ⟨_, (if_neg (by simp)).trans (if_pos (Nat.succ_le_succ hagree)), ?_⟩
      have hclear : agreed.port p = { q with freqAt := s.now, freq := false, freqAgree := 0 } := by
        rw [condEnd_port, port_modPort_same, hu]
      obtain ⟨_, _, _, _, _, hflushed, -⟩ := flushPort_flushed (q.mgmt.length + q.fwdq.length) p agreed
      rw [hflushed, hclear, if_neg htolerance, if_neg (by simp), if_pos hagree]
      exact ⟨rfl, rfl, rfl, rfl⟩
    · refine ⟨_, (if_neg (by simp)).trans (if_neg (by omega)), ?_⟩
      rw [port_modPort_same, hu, if_neg htolerance, if_neg (by simp), if_neg hagree]
      exact ⟨rfl, rfl, hfreq, rfl⟩

end Sys2Proof.Laws

namespace Sys2Proof.Proofs

open Sys2Proof Sys2Proof.Machine Sys2Proof.Laws

/-- Settles O38: an IDENT by its type, the port's state and whether it names the expected neighbour; a comparison by its outcome and the
comparisons in tolerance before it. That an IDENT in UP refreshes the neighbour's fields and nothing else, and that the operand is the
difference of the counts (log 118), are the model's choices. -/
theorem portsComeUp : Obligations.PortsComeUp := by
  refine ⟨fun p w s => ite_holds (fun h => ?_) fun h => if_pos (eq_true_of_ne_false (mt (ident_guard_iff p s).1 h)),
    fun p s => ite_holds (fun h => ⟨_, if_neg (by simpa [and_assoc] using h), portDetect_state p s⟩)
      fun h => if_pos (by simpa [imp_iff_not_or, or_assoc] using h),
    fun p d s => ite_holds (execFreqCheck_due d) fun h => if_pos (eq_true_of_ne_false (mt (freqCheck_guard_iff p s).1 h))⟩
  by_cases hw : ctrlType w = 6
  · obtain ⟨t, ht, hnamed⟩ := execIdent_named h hw
    exact ⟨t, ht, by rwa [if_neg (not_not.2 hw)]⟩
  · refine ⟨_, execIdent_other h hw, ?_⟩
    rw [if_pos hw]
    exact port_of_tor (reservedCtrl_tor w s) p

end Sys2Proof.Proofs

/-! PROOF. O39: link words are acknowledged, refused and sent again (R395 to R397). -/

namespace Sys2Proof.Laws

open Sys2Proof Sys2Proof.Machine

/-! ## LACK, LNAK and REPLAY (R395) -/

theorem advances_iff (o : Option Nat) : (∃ k ∈ o, k ≠ 0) ↔ o.getD 0 ≠ 0 := by
  cases o <;> simp

/-- The port `q` when a LACK has acknowledged `k` of its words at ck `now`. -/
def ackedPort (now k : Nat) (q : Port) : Port := { q with unacked := q.unacked.drop k, lastAdv := now, replays := 0 }

theorem execLack_eq (p l : Nat) (s : State) :
    execLack p l s = if p < 4 ∧ (s.port p).state = .up ∧ ((s.port p).place l).getD 0 ≠ 0 then
      .next ((s.modPort p (ackedPort s.now (((s.port p).place l).getD 0))).flushAll p) else .next s := by
  unfold execLack
  extract_lets q
  split
  · next k hplace =>
    rw [hplace, ← ite_not]
    exact if_congr (by simp [q, up_iff, and_assoc]) rfl rfl
  · next hplace => simp [q, hplace]

/-- A LACK that advances takes words off the replay buffer, and packets that had no room may leave. -/
theorem acked_flushed (p k : Nat) (s : State) : let t := (s.modPort p (ackedPort s.now k)).flushAll p
    (t.port p).replays = 0 ∧ (t.port p).lastAdv = s.now ∧ (s.port p).unacked.drop k <+: (t.port p).unacked := by
  intro t
  obtain ⟨_, _, _, _, adv, hport, -, -, hadv⟩ := flushAll_flushed p (s.modPort p (ackedPort s.now k))
  rw [port_modPort_same] at hport hadv
  rw [show t.port p = _ from hport]
  exact ⟨rfl, hadv.elim id id, List.prefix_append ..⟩

theorem execLnak_eq (p l : Nat) (s : State) :
    execLnak p l s = if p < 4 ∧ (s.port p).state = .up ∧ (s.port p).freq = false ∧ ((s.port p).place l).isSome then
      .next (s.resendFrom p (((s.port p).place l).getD 0)) else .next s := by
  unfold execLnak
  extract_lets q
  split
  · next k hplace =>
    rw [hplace, ← ite_not]
    exact if_congr (by simp [q, up_iff, and_assoc]) rfl rfl
  · next hplace => simp [q, hplace]

/-- A REPLAY whose LSEQ is the one expected ends the wait for it. -/
theorem replay_awaited (p l : Nat) (s : State) (h : (s.port p).ignoring = true) :
    let t := if l = (s.port p).rxSeq then s.modPort p fun q => { q with ignoring := false } else s
    (t.port p).ignoring = decide (l ≠ (s.port p).rxSeq) ∧ t.out = s.out := by
  intro t
  by_cases hl : l = (s.port p).rxSeq
  · rw [show t = _ from if_pos hl, port_modPort_same]
    exact ⟨by simp [hl], rfl⟩
  · rw [show t = s from if_neg hl]
    exact ⟨by simp [h, hl], rfl⟩

/-! ## Packets that have waited too long (R397) -/

/-- A packet has waited 1,024 ck in its queue. -/
def stale (now : Nat) (x : PktQ) : Bool := decide (x.since + 1024 ≤ now)

/-- The port `q` without the packets that have waited too long. -/
def freshPort (now : Nat) (q : Port) : Port :=
  { q with mgmt := q.mgmt.filter fun x => !stale now x, fwdq := q.fwdq.filter fun x => !stale now x }

theorem stale_count_iff (now : Nat) (q : Port) : (q.mgmt.filter (stale now)).length + (q.fwdq.filter (stale now)).length ≠ 0 ↔
    ∃ x ∈ q.mgmt ++ q.fwdq, x.since + 1024 ≤ now := by
  rw [← List.length_append, ← List.filter_append, Nat.ne_zero_iff_zero_lt, List.length_pos_iff, ne_eq, List.filter_eq_nil_iff]
  simp [stale]

theorem execQueueTimeout_eq (p : Nat) (s : State) :
    let n := ((s.port p).mgmt.filter (stale s.now)).length + ((s.port p).fwdq.filter (stale s.now)).length
    execQueueTimeout p s = if p < 4 ∧ ∃ x ∈ (s.port p).mgmt ++ (s.port p).fwdq, x.since + 1024 ≤ s.now then
      .next (((s.modPort p (freshPort s.now)).count 0x10A none n).flushAll p) else .next s := by
  intro n
  unfold execQueueTimeout
  rw [← ite_not]
  exact if_congr (by rw [← stale_count_iff]; simp [stale, imp_iff_not_or]) rfl rfl

/-- What waits at a port after the others have been discarded has waited there, and not too long. -/
theorem fresh_waits (p n : Nat) (s : State) : let t := ((s.modPort p (freshPort s.now)).count 0x10A none n).flushAll p
    ∀ y ∈ (t.port p).mgmt ++ (t.port p).fwdq, y ∈ (s.port p).mgmt ++ (s.port p).fwdq ∧ s.now < y.since + 1024 := by
  intro t y hy
  obtain ⟨_, _, m, f, _, hport, hm, hf, -⟩ := flushAll_flushed p ((s.modPort p (freshPort s.now)).count 0x10A none n)
  rw [count_port, port_modPort_same] at hport hm hf
  rw [show t.port p = _ from hport] at hy
  have hkept : y ∈ ((s.port p).mgmt ++ (s.port p).fwdq).filter fun x => !stale s.now x := by
    rw [List.filter_append]
    exact List.mem_append.2 ((List.mem_append.1 hy).imp (hm.subset ·) (hf.subset ·))
  rw [List.mem_filter] at hkept
  exact hkept.imp_right fun hfresh => by simpa [stale] using hfresh

end Sys2Proof.Laws

namespace Sys2Proof.Proofs

open Sys2Proof Sys2Proof.Machine Sys2Proof.Laws

/-- A time-out replays every unacknowledged word, and the fourth one without an advance fails the link (R396). -/
theorem replayTimeout_replays {p : Nat} {s : State} {x : Nat × BitVec 64} {r : List (Nat × BitVec 64)}
    (hwords : (s.port p).unacked = x :: r) (h : ReplayDue p s) : let c := s.port p
    ∃ t, exec (.replayTimeout p) s = .next t ∧
      t.out = s.out ++ [.link p (ctrlWord 5 x.1), .packet p x.1 (x.2 :: r.map (·.2))] ∧
      if c.replays < 3 then (t.port p).state = .up ∧ (t.port p).replays = c.replays + 1 ∧ (t.port p).lastAdv = s.now
      else (t.port p).state = .failed ∧ (logsOk s → Logged .torLinkFail p s t) := by
  intro c
  by_cases hfew : c.replays < 3
  · refine ⟨replayed p s, (execReplayTimeout_due h).trans (by rw [if_neg (not_le.2 hfew)]), replayed_out hwords, ?_⟩
    rw [if_pos hfew, replayed_port]
    obtain ⟨-, hup, -⟩ := h
    exact ⟨hup, rfl, rfl⟩
  · refine ⟨(replayed p s).failPort p, (execReplayTimeout_due h).trans (by rw [if_pos (not_lt.1 hfew)]), ?_, ?_⟩
    · rw [failPort_out, replayed_out hwords]
    · rw [if_neg hfew]
      exact ⟨(failPort_fails p _).1, fun hs => failPort_logged hs (replayed_grows p s) (replayed_logs hs)⟩

/-- Settles O39: each link word and each time-out by the condition under which it acts. That a LACK answers a REPLAY that was not awaited
(log 107), that the fourth replay is sent before it fails the link (log 113) and that FREQ holds replays back (log 167) are the model's
choices. -/
theorem linkReliability : Obligations.LinkReliability := by
  refine ⟨fun p l s => ite_holds (fun h => ⟨_, (execLack_eq p l s).trans (if_pos (by rwa [← advances_iff])), acked_flushed p _ s⟩)
      fun h => (execLack_eq p l s).trans (if_neg (by rwa [← advances_iff])),
    fun p l s => ite_holds (fun h => ?_) fun h => (execLnak_eq p l s).trans (if_neg h),
    fun p l s => ite_holds (fun h => ?_) fun h => if_pos (by rw [← up_iff] at h; simpa [imp_iff_not_or] using h),
    fun p s => ite_holds (fun h => ⟨_, if_neg (by simpa [up_iff, and_assoc] using h), rfl, ?_⟩)
      fun h => if_pos (by rw [← up_iff] at h; simpa [imp_iff_not_or, or_assoc] using h),
    fun p s => ?_,
    fun p s => ite_holds (fun h => ⟨_, (execQueueTimeout_eq p s).trans (if_pos h), fresh_waits p _ s⟩)
      fun h => (execQueueTimeout_eq p s).trans (if_neg h)⟩
  · have hrun := (execLnak_eq p l s).trans (if_pos h)
    split
    · next x r hwords => exact ⟨_, hrun, resendFrom_out hwords, by rw [resendFrom_port]⟩
    · next hwords => exact hrun.trans (by rw [resendFrom_nil hwords])
  · have hup : ¬ (decide (p ≥ 4) || !(s.port p).up) = true := by simpa [up_iff] using h
    cases hwaiting : (s.port p).ignoring with
    | true => exact ⟨_, (if_neg hup).trans (if_pos hwaiting), replay_awaited p l s hwaiting⟩
    | false => exact ⟨_, (if_neg hup).trans (if_neg (by simp [hwaiting])), rfl⟩
  · rw [linkCtrl_port, port_modPort_same]
  · intro c
    split
    · next x r hwords =>
      have hwait : c.unacked ≠ [] := by simp [hwords]
      refine ite_holds (fun h => ?_) fun h => execReplayTimeout_not_due fun hdue => ?_
      · obtain ⟨hp, hup, hfreq, hlate⟩ := h
        exact replayTimeout_replays hwords ⟨hp, hup, hfreq, hwait, hlate⟩
      · obtain ⟨hp, hup, hfreq, -, hlate⟩ := hdue
        exact h ⟨hp, hup, hfreq, hlate⟩
    · next hwords => exact execReplayTimeout_not_due fun ⟨_, _, _, hwait, _⟩ => hwait hwords

end Sys2Proof.Proofs

/-! PROOF. Packets that arrive at the link and the router (R395, R398 to R400). -/

namespace Sys2Proof.Laws

open Sys2Proof Sys2Proof.Machine

/-- Packets have passed between two states: nothing but the ports, the outputs, the counters and the fault log differs, and what was
logged stays. -/
structure Passed (s t : State) : Prop where
  net : OnlyNet s t
  ports : torusOffPorts t = torusOffPorts s
  grows : LogGrows s t

theorem Passed.logs {s t : State} (h : Passed s t) (hs : logsOk s) : logsOk t := by
  obtain ⟨hlog, -, -⟩ := h.grows.grows hs.1
  obtain ⟨_, _, _, _, rfl⟩ := h.net
  exact ⟨hlog, hs.2⟩

theorem Passed.chans {s t : State} (h : Passed s t) : t.chans = s.chans := by
  obtain ⟨_, _, _, _, rfl⟩ := h.net
  rfl

theorem enqueue_offPorts (p : Nat) (ws : List (BitVec 64)) (s : State) : torusOffPorts (s.enqueue p ws) = torusOffPorts s :=
  (flushPort_offPorts ..).trans rfl

theorem flood_offPorts (a : Nat) (ws : List (BitVec 64)) (s : State) : torusOffPorts (s.flood a ws) = torusOffPorts s := by
  refine foldl_leaves (fun s p => ?_) (List.range 4) s
  split
  · exact enqueue_offPorts ..
  · rfl

/-! ## What the link accepts (R395) -/

/-- A packet that starts here, and one that its port expects, is taken. -/
theorem takePacket_accepted {typ : Nat} {pk : PktIn} {s : State} (h : Accepted typ pk s) : ∃ u, s.takePacket pk = (true, u) ∧ Passed s u := by
  obtain ⟨-, -, -, hport⟩ := h
  by_cases hlocal : pk.port = 4
  · exact ⟨s, if_pos hlocal, .refl s, rfl, .refl s⟩
  · obtain ⟨hp, hup, hfreq, hignoring, herrored, hseq⟩ := hport.resolve_left hlocal
    unfold State.takePacket
    extract_lets q n u
    rw [if_neg hlocal, if_neg (by simp [q, up_iff, hup, hfreq, hignoring, Nat.le_of_lt hp]), if_neg (by simp [herrored]),
      if_neg (by simpa [q] using hseq)]
    have hsent : OnlyNet s (u.linkCtrl pk.port 3 ((q.rxSeq + n) % 2 ^ 16)) := ⟨_, _, s.flt, s.cnt, rfl⟩
    exact ⟨_, rfl, hsent.trans (count_only ..).net, congrArg (fun t : Torus => { t with ports := [] }) (count_tor ..),
      (count_grows ..).from_flt rfl⟩

/-- A port that is not UP, or holds packets back, takes none. -/
theorem takePacket_refused {pk : PktIn} {s : State} (hport : pk.port ≠ 4)
    (h : 4 < pk.port ∨ (s.port pk.port).state ≠ .up ∨ (s.port pk.port).freq = true ∨ (s.port pk.port).ignoring = true) :
    s.takePacket pk = (false, s) := by
  unfold State.takePacket
  rw [if_neg hport]
  exact if_pos (by rw [ne_eq, ← up_iff] at h; simpa [or_assoc] using h)

/-! ## Where a packet goes (R400) -/

theorem route_here {s : State} {h : Nat} (a : Nat) (hx : hdrX h = s.tor.x) (hy : hdrY h = s.tor.y) : s.route a h = .deliver := by
  unfold State.route
  exact if_pos (by simp [hx, hy])

theorem route_elsewhere {s : State} {h : Nat} (a : Nat) (hother : hdrX h ≠ s.tor.x ∨ hdrY h ≠ s.tor.y) : s.route a h ≠ .deliver := by
  unfold State.route
  extract_lets t w _ dx dy dt sx sy q alt pick
  rw [if_neg (by simpa [imp_iff_not_or, dx, dy, t] using hother)]
  cases pick with
  | none => exact nofun
  | some x =>
    dsimp only
    split
    · exact nofun
    · split <;> exact nofun

/-- An accepted packet is delivered when it is for this device or a START, and is sent on otherwise (R399, R400). -/
theorem arrive_accepted {typ op : Nat} {pk : PktIn} {s : State} (h : Accepted typ pk s) (hop : typ = 4 → pkOp pk = op) :
    ∃ u, Passed s u ∧ s.arrive typ op pk =
      if typ = 3 ∨ hdrX (hdrOf pk.words) = s.tor.x ∧ hdrY (hdrOf pk.words) = s.tor.y then (true, u)
      else (false, u.forwardOn pk.port pk.words) := by
  obtain ⟨u, htaken, hpassed⟩ := takePacket_accepted h
  obtain ⟨htyp, hlen, hreserved, -⟩ := h
  have hx : u.tor.x = s.tor.x := congrArg (·.x) hpassed.ports
  have hy : u.tor.y = s.tor.y := congrArg (·.y) hpassed.ports
  refine ⟨u, hpassed, ?_⟩
  unfold State.arrive
  extract_lets hdr mine r
  have hmine : mine = true := by simpa [mine, hdr, htyp, imp_iff_not_or] using hop
  rw [if_neg (by simp [hdr, hlen, hmine])]
  simp only [r, htaken, hreserved, Bool.not_true, Bool.false_eq_true, if_false]
  by_cases hstart : typ = 3
  · rw [if_pos hstart, if_pos (.inl hstart)]
  rw [if_neg hstart]
  by_cases hhere : hdrX hdr = s.tor.x ∧ hdrY hdr = s.tor.y
  · obtain ⟨hdx, hdy⟩ := hhere
    rw [route_here _ (hdx.trans hx.symm) (hdy.trans hy.symm), if_pos (.inr ⟨hdx, hdy⟩)]
  · rw [if_neg (not_or.2 ⟨hstart, hhere⟩)]
    have helse := route_elsewhere (s := u) (h := hdr) pk.port (by rw [hx, hy]; exact not_and_or.1 hhere)
    split
    · next hroute => exact absurd hroute helse
    · rfl

theorem arrive_here {typ op : Nat} {pk : PktIn} {s : State} (h : Arrives typ pk s) (hop : typ = 4 → pkOp pk = op) :
    ∃ u, Passed s u ∧ s.arrive typ op pk = (true, u) := by
  obtain ⟨haccepted, hhere⟩ := h
  obtain ⟨u, hpassed, harrive⟩ := arrive_accepted haccepted hop
  exact ⟨u, hpassed, harrive.trans (if_pos (.inr hhere))⟩

/-- A packet for another device changes no channel. -/
theorem arrive_elsewhere {typ : Nat} {pk : PktIn} {s : State} (h : Accepted typ pk s) (hstart : typ ≠ 3) (hproxy : typ ≠ 4)
    (hother : hdrX (hdrOf pk.words) ≠ s.tor.x ∨ hdrY (hdrOf pk.words) ≠ s.tor.y) :
    ∃ u, s.arrive typ 0 pk = (false, u) ∧ u.chans = s.chans := by
  obtain ⟨u, hpassed, harrive⟩ := arrive_accepted (op := 0) h fun e => absurd e hproxy
  exact ⟨_, harrive.trans (if_neg (not_or.2 ⟨hstart, not_and_or.2 hother⟩)), (forwardOn_chans ..).trans hpassed.chans⟩

theorem arrive_refused {pk : PktIn} {s : State} (h : s.takePacket pk = (false, s)) (typ op : Nat) : s.arrive typ op pk = (false, s) := by
  unfold State.arrive
  extract_lets hdr mine r
  have hr : r = (false, s) := h
  rw [hr]
  split
  · rfl
  · rfl

end Sys2Proof.Laws

/-! PROOF. O41: forwarded records and coordinated starts (R220 to R225, R401, R411 to R413, R425). -/

namespace Sys2Proof.Laws

open Sys2Proof Sys2Proof.Machine

/-! ## Forwarded records -/

theorem ackFwd_chans (w0 tag reason : Nat) (s : State) : (s.ackFwd w0 tag reason).chans = s.chans := sendPacket_chans ..

/-- The channel runs CAPTURE on addressed data and accepts forwarded records (R223). -/
def TakesForwards (ch : Nat) (s : State) : Prop :=
  ch < s.members ∧ (s.chan ch).state = .running ∧ (s.chan ch).func = .capture ∧ ((s.chan ch).seq.sect.getD {}).addressed = true ∧
    (s.chan ch).cap.fwdAccept = true

/-- Payload word `i` of a packet. -/
def payWord (pk : PktIn) (i : Nat) : Word := BitVec.ofNat 32 (payOf pk.words i)

/-- The record that a FWD_REC carries, as the channel that it names takes it (R217, R222). -/
def forwardedRecord (pk : PktIn) (s : State) : Nat × State :=
  s.addressed (payOf pk.words 0 % 128) (some (payWord pk 1)) (some (payWord pk 2)) ((List.range 8).map fun i => payWord pk (3 + i))
    (bit (payOf pk.words 0) 31) s.now

theorem execFwdRec_here {pk : PktIn} {s : State} (h : Arrives 1 pk s) : ∃ u, Passed s u ∧
    (¬TakesForwards (payOf pk.words 0 % 128) u → ∃ t, execFwdRec pk s = .next t ∧ t.chans = u.chans) ∧
    (TakesForwards (payOf pk.words 0 % 128) u → ∃ t, execFwdRec pk s = .next t ∧ t.chans = (forwardedRecord pk u).2.chans) := by
  obtain ⟨u, hpassed, harrive⟩ := arrive_here (op := 0) h nofun
  refine ⟨u, hpassed, fun hrefused => ?_, fun htaken => ?_⟩
  · unfold execFwdRec
    extract_lets r s1 w w0 ch c tag sec a
    have hr : r = (true, u) := harrive
    have hs1 : s1 = u := congrArg Prod.snd hr
    refine ⟨_, (if_neg (by simp [hr])).trans (if_pos ?_), (ackFwd_chans ..).trans (by rw [hs1])⟩
    simpa [TakesForwards, c, sec, hs1, imp_iff_not_or, or_assoc] using hrefused
  · unfold execFwdRec
    extract_lets r s1 w w0 ch c tag sec a
    have hr : r = (true, u) := harrive
    have hs1 : s1 = u := congrArg Prod.snd hr
    refine ⟨_, (if_neg (by simp [hr])).trans (if_neg ?_), (ackFwd_chans ..).trans ?_⟩
    · obtain ⟨hch, hstate, hfunc, haddressed, haccept⟩ := htaken
      simp [c, sec, hs1, ch, w0, hch, hstate, hfunc, haddressed, haccept]
    · simp only [a, hs1]
      rfl

theorem not_takesForwards {ch : Nat} {s : State} (h : s.members ≤ ch ∨ (s.chan ch).state ≠ .running ∨ (s.chan ch).func ≠ .capture ∨
    ((s.chan ch).seq.sect.getD {}).addressed = false ∨ (s.chan ch).cap.fwdAccept = false) : ¬TakesForwards ch s := by
  rintro ⟨hch, hstate, hfunc, haddressed, haccept⟩
  simp [hstate, hfunc, haddressed, haccept, Nat.not_le.2 hch] at h

/-- A forwarded record that is in form, in range, within its rate and not zero joins the queue of its channel (R217, R218). -/
theorem forwardedRecord_queued {pk : PktIn} {s : State} {ch a i : Nat} {c : Chan} (hch : payOf pk.words 0 % 128 = ch) (hc : s.chan ch = c)
    (ha : payOf pk.words 1 = a) (hserved : c.starved = false) (hcheck : payWord pk 2 = ~~~(payWord pk 1)) (hform : a < 2 ^ 26)
    (halign : a % 4 = 0) (hrange : c.inPriv a = false) (hbank : c.tatB (a / 2 ^ 21) ≤ s.now) (hall : c.tatA ≤ s.now) (hi : i < 8)
    (hmask : payWord pk (3 + i) ≠ 0) (hroom : c.cap.bankq.length < 64) :
    ((forwardedRecord pk s).2.chan ch).cap.bankq.length = c.cap.bankq.length + 1 := by
  subst hch hc ha
  have hword : (payWord pk 1).toNat = payOf pk.words 1 := by
    rw [payWord, BitVec.toNat_ofNat, Nat.mod_eq_of_lt (hform.trans (by norm_num))]
  rw [forwardedRecord, hcheck]
  exact addressed_queued (by rwa [hword]) (by rwa [hword]) (by rwa [hword]) (by rwa [hword]) hall hserved
    ⟨_, List.mem_map_of_mem (List.mem_range.2 hi), hmask⟩ hroom _

/-- The records forwarded that wait for their answers stay. -/
abbrev SameForwards (ch : Nat) (s t : State) : Prop := Same (fun c => c.cap.fwds) ch s t

theorem inputLoss_fwds (ch ival : Nat) (s : State) : SameForwards ch s (s.inputLoss ch ival) :=
  modCap_same (π := Capture.fwds) ch s fun _ => rfl

theorem reject_fwds (ch r a ival : Nat) (s : State) : SameForwards ch s (s.reject ch r a ival) := by
  unfold State.reject
  extract_lets s1 s2 s3
  have hnoted : SameForwards ch s s1 := modCap_same (π := Capture.fwds) ch s fun _ => rfl
  exact (hnoted.trans (inputLoss_fwds ..)).trans (Same.trans (.of_chan (count_chan ..)) (log_same ..))

theorem fwdRefused_fwds (ch reason : Nat) (f : Fwd) (s : State) : SameForwards ch s (s.fwdRefused ch reason f) := by
  unfold State.fwdRefused
  extract_lets u
  have hcounted : SameForwards ch s u := .ite (modCap_same (π := Capture.fwds) ch s fun _ => rfl) (.refl ..)
  exact hcounted.trans (reject_fwds ..)

theorem chan_modCap (ch : Nat) (f : Capture → Capture) (s : State) : ((s.modCap ch f).chan ch).cap = f (s.chan ch).cap :=
  congrArg Chan.cap (chan_modChan_same ..)

/-- A record that is answered has left those that wait, whether its target took it or refused it. -/
theorem answered_fwds (ch reason tag : Nat) (f : Fwd) (s : State) :
    let u := s.modCap ch fun k => { k with fwds := k.fwds.filter (·.tag != tag) }
    ((if reason = 0 then u else u.fwdRefused ch reason f).chan ch).cap.fwds = (s.chan ch).cap.fwds.filter fun f => f.tag != tag := by
  intro u
  have hu : (u.chan ch).cap.fwds = (s.chan ch).cap.fwds.filter fun f => f.tag != tag := by rw [chan_modCap]
  split
  · exact hu
  · have hsame : ((u.fwdRefused ch reason f).chan ch).cap.fwds = (u.chan ch).cap.fwds := fwdRefused_fwds ch reason f u
    rw [hsame, hu]

/-- An answer takes the record with its tag off those that wait (R401). -/
theorem execFwdAck_here {pk : PktIn} {s : State} (h : Arrives 2 pk s) : let ch := payOf pk.words 0 % 128
    ∃ t, execFwdAck pk s = .next t ∧
      (t.chan ch).cap.fwds = (s.chan ch).cap.fwds.filter fun f => f.tag != hdrTag (hdrOf pk.words) := by
  obtain ⟨u, hpassed, harrive⟩ := arrive_here (op := 0) h nofun
  unfold execFwdAck
  rw [harrive]
  dsimp only
  rw [if_neg (by simp)]
  generalize payOf pk.words 0 % 128 = ch
  rw [← chan_of_chans hpassed.chans ch]
  split
  · next hnone =>
    refine ⟨u, rfl, (List.filter_eq_self.2 fun f hf => ?_).symm⟩
    simpa using List.find?_eq_none.1 hnone f hf
  · next f _ => exact ⟨_, rfl, answered_fwds ..⟩

/-- A record that waits for its answer is sent again, or at last reported lost (R401). -/
theorem forward_waits {ch g : Nat} {s : State} {f : Fwd} (h : (s.chan ch).cap.fwds.find? (·.tag == g) = some f) :
    (if f.sends < 4 ∧ f.lastSend + 262144 ≤ s.now then ∃ t, exec (.forwardResend ch g) s = .next t ∧
        { f with sends := f.sends + 1, lastSend := s.now } ∈ (t.chan ch).cap.fwds
      else exec (.forwardResend ch g) s = .next s) ∧
    (if 4 ≤ f.sends ∧ f.lastSend + 1048576 ≤ s.now then ∃ t, exec (.forwardLost ch g) s = .next t ∧
        (∀ h ∈ (t.chan ch).cap.fwds, h.tag ≠ g) ∧ (logsOk s → Logged .forwardLost ch s t)
      else exec (.forwardLost ch g) s = .next s) := by
  have hresend : exec (.forwardResend ch g) s = execForwardResend ch g s := rfl
  have hlost : exec (.forwardLost ch g) s = execForwardLost ch g s := rfl
  rw [hresend, hlost]
  unfold execForwardResend execForwardLost
  rw [h]
  refine ⟨ite_holds (fun hdue => ⟨_, if_neg (by simpa using hdue), ?_⟩) fun hdue => if_pos (by simpa [imp_iff_not_or] using hdue),
    ite_holds (fun hdue => ⟨_, if_neg (by simpa using hdue), ?_, fun hs => ?_⟩) fun hdue => if_pos (by simpa [imp_iff_not_or] using hdue)⟩
  · rw [State.sendFwd, sendPacket_chan, chan_modCap]
    have htag : (f.tag == g) = true := by simpa using List.find?_some h
    exact List.mem_map.2 ⟨f, List.mem_of_find?_eq_some h, if_pos htag⟩
  · rw [log_chan, State.inputLoss, chan_modCap, chan_modCap]
    intro x hx
    simpa using (List.mem_filter.1 hx).2
  · exact log_logged 0 0 0 false hs (u := State.inputLoss ch f.ival (s.modCap ch _)) (.of_flt rfl) hs (.refl _)

theorem forward_answered {ch g : Nat} {s : State} (h : (s.chan ch).cap.fwds.find? (·.tag == g) = none) :
    exec (.forwardResend ch g) s = .next s ∧ exec (.forwardLost ch g) s = .next s := by
  have hresend : exec (.forwardResend ch g) s = execForwardResend ch g s := rfl
  have hlost : exec (.forwardLost ch g) s = execForwardLost ch g s := rfl
  rw [hresend, hlost]
  unfold execForwardResend execForwardLost
  rw [h]
  exact ⟨rfl, rfl⟩

/-! ## Coordinated starts (R411 to R413) -/

theorem startSections_tor (g t : Nat) (s : State) : (s.startSections g t).tor = s.tor :=
  foldl_leaves (π := State.tor) (f := fun s (x : Nat × Chan) => s.takeTs x.1 t) (fun _ _ => rfl) _ s

/-- A START that this device's root does not send starts nothing. -/
theorem handleStart_foreign {root : Nat} {s : State} (h : ¬(s.tor.final = true ∧ root = s.tor.rootId)) (a g ts : Nat) (ws : List (BitVec 64)) :
    s.handleStart a root g ts ws = s.log .startDomain 0 := if_pos (by simpa [imp_iff_not_or] using h)

/-- A START of this device's root enters the start table, unless it stands there (R413). -/
theorem handleStart_entered {root : Nat} {s : State} (h : s.tor.final = true ∧ root = s.tor.rootId) (a g ts : Nat) (ws : List (BitVec 64)) :
    ∃ tab, torusOffPorts (s.handleStart a root g ts ws) = { torusOffPorts s with startTab := tab } ∧ (g, ts) ∈ tab := by
  unfold State.handleStart
  extract_lets t rest rest' u
  rw [if_neg (by simpa [imp_iff_not_or] using h)]
  have hentered : torusOffPorts u = { torusOffPorts s with startTab := rest' ++ [(g, ts)] } := flood_offPorts ..
  split
  · next hold => exact ⟨s.tor.startTab, rfl, List.contains_iff_mem.1 hold⟩
  · refine ⟨rest' ++ [(g, ts)], ?_, List.mem_append_right _ (List.mem_singleton_self _)⟩
    rw [← hentered]
    split
    · exact congrArg (fun t : Torus => { t with ports := [] }) (startSections_tor ..)
    · exact congrArg (fun t : Torus => { t with ports := [] }) (log_tor ..)

/-- A START enters the start table where it is of this device's root, and is logged where it is not (R413). -/
theorem execStart_accepted {pk : PktIn} {s : State} (h : Accepted 3 pk s) : let w := payOf pk.words
    let e := (w 0 % 2 ^ 16, (w 1 + w 2 % 2 ^ 16 * 2 ^ 32) * 65536)
    ∃ t, exec (.start pk) s = .next t ∧
      if s.tor.final = true ∧ bits (w 0) 27 16 = s.tor.rootId then e ∈ t.tor.startTab
      else t.tor.startTab = s.tor.startTab ∧ (logsOk s → Logged .startDomain 0 s t) := by
  intro w e
  obtain ⟨u, hpassed, harrive⟩ := arrive_accepted (op := 0) h nofun
  rw [if_pos (.inl rfl)] at harrive
  have hfinal : u.tor.final = s.tor.final := congrArg (·.final) hpassed.ports
  have hroot : u.tor.rootId = s.tor.rootId := congrArg (·.rootId) hpassed.ports
  have hrun : exec (.start pk) s = .next (u.handleStart pk.port (bits (w 0) 27 16) e.1 e.2 pk.words) := by
    change execStart pk s = _
    unfold execStart
    rw [harrive]
    rfl
  refine ⟨_, hrun, ite_holds (fun hown => ?_) fun hforeign => ?_⟩
  · obtain ⟨tab, htab, hmem⟩ := handleStart_entered (hfinal ▸ hroot ▸ hown) pk.port e.1 e.2 pk.words
    rwa [show (u.handleStart ..).tor.startTab = tab from congrArg (·.startTab) htab]
  · rw [handleStart_foreign (hfinal ▸ hroot ▸ hforeign), log_tor]
    exact ⟨congrArg (·.startTab) hpassed.ports, fun hs => log_logged 0 0 0 false hs hpassed.grows (hpassed.logs hs) (.refl _)⟩

theorem goBit_fields (n : Nat) : bits (n % 2 ^ 31 + 2 ^ 31) 23 16 = bits n 23 16 ∧ (n % 2 ^ 31 + 2 ^ 31) % 2 ^ 16 = n % 2 ^ 16 ∧
    bit (n % 2 ^ 31 + 2 ^ 31) 31 = true := by
  simp only [bits, bit, decide_eq_true_eq]
  omega

/-- A write of TOR_START with GO starts a group, unless its lead or its group is refused (R412). -/
theorem writeStart_go {v : Nat} (hgo : bit v 31 = true) (s : State) : let lead := bits v 23 16
    let g := v % 2 ^ 16
    let pn := (s.gt + lead * 65536 + 65535) / 65536
    s.writeStart v = if lead < 2 ∨ g = 0 then s.writeIgnored
      else (s.modTor fun t => { t with startLead := lead, startGroup := g }).handleStart 4 s.tor.rootId g (pn * 65536)
        (startWords s.tor.rootId g pn) := by
  intro lead g pn
  unfold State.writeStart
  rw [hgo]
  exact if_congr (by simp [lead, g]) rfl (if_neg (by simp))

theorem execTorStartGo_eq (v : Word) (s : State) : let lead := bits v.toNat 23 16
    let g := v.toNat % 2 ^ 16
    let pn := (s.gt + lead * 65536 + 65535) / 65536
    exec (.torStartGo v) s = .next (if lead < 2 ∨ g = 0 then s.writeIgnored
      else (s.modTor fun t => { t with startLead := lead, startGroup := g }).handleStart 4 s.tor.rootId g (pn * 65536)
        (startWords s.tor.rootId g pn)) := by
  obtain ⟨hlead, hgroup, hgo⟩ := goBit_fields v.toNat
  have hexec : exec (.torStartGo v) s = .next (s.writeStart (v.toNat % 2 ^ 31 + 2 ^ 31)) := rfl
  rw [hexec, writeStart_go hgo, hlead, hgroup]

/-- A START of this device's own root enters the table, or is logged before global time is final (R413, R425). -/
theorem handleStart_own (a g ts : Nat) (ws : List (BitVec 64)) (s : State) : let t := s.handleStart a s.tor.rootId g ts ws
    t.tor.startLead = s.tor.startLead ∧ t.tor.startGroup = s.tor.startGroup ∧
      if s.tor.final = true then (g, ts) ∈ t.tor.startTab
      else t.tor.startTab = s.tor.startTab ∧ (logsOk s → Logged .startDomain 0 s t) := by
  intro t
  by_cases hfinal : s.tor.final = true
  · obtain ⟨tab, htab, hmem⟩ := handleStart_entered ⟨hfinal, rfl⟩ a g ts ws
    have hstarts : t.tor.startTab = tab := congrArg (·.startTab) htab
    exact ⟨congrArg (·.startLead) htab, congrArg (·.startGroup) htab, by rwa [if_pos hfinal, hstarts]⟩
  · have hlogged : t = s.log .startDomain 0 := handleStart_foreign (fun h => hfinal h.1) ..
    rw [if_neg hfinal, hlogged, log_tor]
    exact ⟨rfl, rfl, rfl, fun hs => log_logged 0 0 0 false hs (.refl _) hs (.refl _)⟩

/-! ## Packets that their port does not take -/

theorem pxServe_refused {pk : PktIn} {s : State} (h : s.takePacket pk = (false, s)) (op : Nat) : s.pxServe op pk = (false, s) := by
  unfold State.pxServe State.pxArrive
  rw [arrive_refused h]
  rfl

theorem pxArrive_refused {pk : PktIn} {s : State} (h : s.takePacket pk = (false, s)) (op : Nat) : s.pxArrive op pk = (false, s) := by
  unfold State.pxArrive
  rw [arrive_refused h]
  rfl

/-- The commands of packets that its port takes or leaves. -/
def packetCommands (pk : PktIn) : List Instr :=
  [.fwdRec pk, .fwdAck pk, .start pk, .proxyOpen pk, .pack pk, .regRd pk, .regWr pk, .regRsp pk, .memWr pk, .memData pk]

theorem exec_not_taken {pk : PktIn} {s : State} (h : s.takePacket pk = (false, s)) : ∀ c ∈ packetCommands pk, exec c s = .next s := by
  have harrive := arrive_refused h
  have hserve := pxServe_refused h
  have hchannel := pxArrive_refused h
  simp only [packetCommands, List.forall_mem_cons, List.not_mem_nil, false_imp_iff, implies_true, and_true]
  refine ⟨?_, ?_, ?_, ?_, ?_, ?_, ?_, ?_, ?_, ?_⟩
  · change execFwdRec pk s = _
    simp [execFwdRec, harrive]
  · change execFwdAck pk s = _
    simp [execFwdAck, harrive]
  · change execStart pk s = _
    simp [execStart, harrive]
  · change execProxyOpen pk s = _
    simp [execProxyOpen, harrive]
  · change execPack pk s = _
    simp [execPack, harrive]
  · change execRegRd pk s = _
    simp [execRegRd, hserve]
  · change execRegWr pk s = _
    simp [execRegWr, hserve]
  · change execRegRsp pk s = _
    simp [execRegRsp, hchannel]
  · change execMemWr pk s = _
    simp [execMemWr, hchannel]
  · change execMemData pk s = _
    simp [execMemData, hchannel]

end Sys2Proof.Laws

namespace Sys2Proof.Proofs

open Sys2Proof Sys2Proof.Machine Sys2Proof.Laws

/-- A forwarded record that arrives is refused, or is an addressed record of its channel (R217, R222, R223). -/
theorem fwdRec_recorded (pk : PktIn) (s : State) (harrives : Arrives 1 pk s) : let w := payOf pk.words
    let ch := w 0 % 128
    let c := s.chan ch
    let sec := c.seq.sect.getD {}
    ∃ t, exec (.fwdRec pk) s = .next t ∧
      (s.members ≤ ch ∨ c.state ≠ .running ∨ c.func ≠ .capture ∨ sec.addressed = false ∨ c.cap.fwdAccept = false → t.chans = s.chans) ∧
      (ch < s.members → c.state = .running → c.func = .capture → sec.addressed = true → c.cap.fwdAccept = true → c.starved = false →
        BitVec.ofNat 32 (w 2) = ~~~(BitVec.ofNat 32 (w 1)) → w 1 < 2 ^ 26 → w 1 % 4 = 0 → c.inPriv (w 1) = false →
        c.tatB (w 1 / 2 ^ 21) ≤ s.now → c.tatA ≤ s.now → bit (w 0) 31 = false → (∃ i < 8, BitVec.ofNat 32 (w (3 + i)) ≠ 0) →
        c.cap.bankq.length < 64 → (t.chan ch).cap.bankq.length = c.cap.bankq.length + 1) := by
  intro w ch c sec
  obtain ⟨u, hpassed, hrefuses, htakes⟩ := execFwdRec_here harrives
  obtain ⟨_, _, _, _, rfl⟩ := hpassed.net
  by_cases htaken : TakesForwards ch s
  · obtain ⟨t, hrun, hchans⟩ := htakes htaken
    refine ⟨t, hrun, fun hrefused => absurd htaken (not_takesForwards hrefused), ?_⟩
    intro _ _ _ _ _ hserved hcheck hform halign hrange hbank hall _ ⟨i, hi, hmask⟩ hroom
    rw [chan_of_chans hchans]
    exact forwardedRecord_queued rfl rfl rfl hserved hcheck hform halign hrange hbank hall hi hmask hroom
  · obtain ⟨t, hrun, hchans⟩ := hrefuses htaken
    exact ⟨t, hrun, fun _ => hchans, fun hch hstate hfunc haddressed haccept =>
      absurd ⟨hch, hstate, hfunc, haddressed, haccept⟩ htaken⟩

/-- Settles O41: each packet by what the link accepts and where the router takes it. That a START which comes before global time is final
is logged (log 115), and that a refused write of TOR_START changes none of its fields (log 116), are the model's choices. -/
theorem forwardsAndStarts : Obligations.ForwardsAndStarts := by
  refine ⟨fwdRec_recorded, fun pk s harrives => execFwdAck_here harrives, fun ch g s => ?_,
    fun pk s haccepted => execStart_accepted haccepted,
    fun v s => ⟨_, execTorStartGo_eq v s, ?_⟩, fun pk s hother => ⟨fun haccepted => ?_, fun haccepted => ?_⟩,
    fun pk s c hport hheld => exec_not_taken (takePacket_refused hport hheld) c⟩
  · split
    · next f hwaits => exact forward_waits hwaits
    · next hanswered => exact forward_answered hanswered
  · refine ite_holds (fun hbad => ?_) fun hgood => ?_
    · rw [if_pos hbad]
      exact ⟨writeIgnored_tor s, writeIgnored_logged s⟩
    · rw [if_neg hgood]
      exact handleStart_own 4 _ _ _ (s.modTor _)
  · obtain ⟨u, harrive, hchans⟩ := arrive_elsewhere haccepted (by decide) (by decide) hother
    refine ⟨u, ?_, hchans⟩
    change execFwdRec pk s = _
    simp [execFwdRec, harrive]
  · obtain ⟨u, harrive, hchans⟩ := arrive_elsewhere haccepted (by decide) (by decide) hother
    refine ⟨u, ?_, hchans⟩
    change execFwdAck pk s = _
    simp [execFwdAck, harrive]

end Sys2Proof.Proofs

/-! PROOF. O42: a register that the proxied host writes may make the device read host memory, and that request takes the channel's next
number before the answer to the write does (R144, R414 to R416). -/

namespace Sys2Proof.Laws

open Sys2Proof Sys2Proof.Machine

/-- A device in SERVICE that reaches host memory through its proxy, device 9, and has a doorbell page (R137, R414). -/
def proxiedState : State :=
  { pwr := { mode := .service, step := 4 }, host := { linkUp := true, dbBase := 2 ^ 15 }, tor := { pcieEn := false, boundTo := some 9 } }

/-- REG_WR of DB_NUDGE for context 0, numbered as that channel expects. -/
def nudgePacket : PktIn :=
  { port := 4, lseq := 0, errored := false, src := 9,
    words := packWords (proxyLen 3) (packHeader 4 0 0 0 0 0) [pxWord 3 0, 0x1000#32, 0#32] }

theorem nudgePacket_arrives : Arrives 4 nudgePacket proxiedState := by
  unfold Arrives Accepted
  decide +kernel

/-- The read of the doorbell entry waits for its acknowledgement before the answer does. -/
theorem nudgePacket_sends_two : ((Res.after proxiedState (exec (.regWr nudgePacket) proxiedState)).px 9).unacked.map (·.op) = [5, 4] := by
  decide +kernel

end Sys2Proof.Laws

namespace Sys2Proof.Proofs

open Sys2Proof Sys2Proof.Machine Sys2Proof.Laws

/-- Refutes O42: a REG_WR need not leave only its answer in the channel, for one of DB_NUDGE asks the proxy for a doorbell entry with a
MEM_RD, which is numbered first. -/
theorem not_proxyRequests : ¬ Obligations.ProxyRequests := by
  rintro ⟨-, -, -, -, hwrite, -⟩
  obtain ⟨t, ht, -, hunacked, -⟩ := hwrite nudgePacket proxiedState nudgePacket_arrives (by decide +kernel) (by decide +kernel)
    (by decide +kernel)
  have hops : (t.px 9).unacked.map (·.op) = [5, 4] := by
    have h := nudgePacket_sends_two
    rw [ht] at h
    exact h
  have hanswer := congrArg (List.map (·.op)) (hunacked : (t.px 9).unacked = _)
  exact absurd (hops.symm.trans hanswer) (by decide +kernel)

end Sys2Proof.Proofs

/-! PROOF. The beginning of a request for a mode (R433 to R436, R451). -/

namespace Sys2Proof.Laws

open Sys2Proof Sys2Proof.Machine

/-! ## What a request carries, and what stops for it -/

/-- A request knows the descriptor it came with (R434). -/
theorem parseRequest_ctx {n : Nat} {d : Desc} {c : PwrChange} (h : parseRequest n d = some c) : c.ctx = some (n, d.seq) := by
  unfold parseRequest at h
  extract_lets w at h
  split at h
  · exact absurd h (by simp)
  · extract_lets ret at h
    split at h
    · exact absurd h (by simp)
    · rw [← Option.some.inj h]

theorem pwr_of_only {m : Writes} {s t : State} (h : Only m s t) (hm : m.pwr = false) : t.pwr = s.pwr :=
  h.pwr.resolve_left (by simp [hm])

theorem stopAll_pwr (s : State) : s.stopAll.pwr = s.pwr :=
  pwr_of_only (m := besidesThmPwr) (stopAll_writes s (Only.refl _ s) rfl rfl rfl rfl rfl rfl rfl rfl rfl rfl) rfl

theorem raiseVdd_pendingReq (s : State) : s.raiseVdd.pwr.pendingReq = s.pwr.pendingReq := by
  unfold State.raiseVdd
  split <;> rfl

theorem raiseVdd_ctxs (s : State) : s.raiseVdd.ctxs = s.ctxs := by
  unfold State.raiseVdd
  split <;> rfl

/-! ## How a request begins -/

/-- A request for SERVICE in SAFE, while a cause remains (R451): one without a descriptor is an ignored write. -/
theorem beginPower_causeActive {c : PwrChange} {s : State} (hmode : s.pwr.mode = .safe) (hc : c.target = .service)
    (hcause : s.causeActive = true) :
    s.beginPower c = if c.ctx.isSome then s.answerPower c.ctx 0x0064 else s.writeIgnored := by
  simp [State.beginPower, hmode, hc, hcause]

/-- Without a cause it is the SAFE exit. -/
theorem beginPower_exits {c : PwrChange} {s : State} (hmode : s.pwr.mode = .safe) (hc : c.target = .service)
    (hcause : s.causeActive = false) :
    s.beginPower c = (s.modPwr fun p => { p with change := some { c with phase := 1 } }).raiseVdd := by
  simp [State.beginPower, hmode, hc, hcause]

/-- An allowed change that is no wake and no SAFE exit starts by stopping the channels that are not quiet, when the request says so
(R443). -/
theorem beginPower_change {c : PwrChange} {s : State} (hforce : c.target ≠ s.pwr.mode)
    (hexit : ¬(s.pwr.mode = .safe ∧ c.target = .service)) (hallowed : changeAllowed s.pwr.mode c.target = true)
    (hwake : ¬(s.pwr.mode = .retention ∧ c.target = .service))
    (hstop : ¬(c.target ≠ .service ∧ s.quiet = false ∧ c.stop = false)) : (s.beginPower c).pwr.change = some c := by
  have hbegin : s.beginPower c = if !s.quiet && c.target != .service then (s.modPwr fun p => { p with change := some c }).stopAll
      else s.modPwr fun p => { p with change := some c } := by
    unfold State.beginPower
    rw [if_neg (by simpa using hforce), if_neg (by simpa using hexit), if_neg (by simp [hallowed]),
      if_neg (by simpa [and_comm] using hwake)]
    split
    · next hbusy =>
      simp only [Bool.and_eq_true, Bool.not_eq_true', bne_iff_ne] at hbusy
      obtain ⟨hquiet, htarget⟩ := hbusy
      exact if_pos (by simpa [htarget, hquiet] using hstop)
    · rfl
  rw [hbegin]
  split
  · rw [stopAll_pwr]
    rfl
  · rfl

/-- Each way in which a request begins (R433, R435, R451): it becomes the running change, or ends at once with a status, of which
`ended` says what is to hold. -/
theorem beginPower_spec {c : PwrChange} {s : State} {ended : Nat → Prop}
    (hanswer : ∀ st, s.beginPower c = s.answerPower c.ctx st → ended st)
    (hignore : s.beginPower c = s.writeIgnored → c.ctx = none → ended 0x64) :
    if c.target = s.pwr.mode then ended 0
    else if s.pwr.mode = .safe ∧ c.target = .service then
      if s.causeActive = true then ended 0x64 else (s.beginPower c).pwr.change = some { c with phase := 1 }
    else if changeAllowed s.pwr.mode c.target = false then ended 0x60
    else if c.target ≠ .service ∧ s.quiet = false ∧ c.stop = false then ended 0x61
    else (s.beginPower c).pwr.change = some (if s.pwr.mode = .retention ∧ c.target = .service then { c with phase := 1 } else c) := by
  split
  · next hforce => exact hanswer 0 (if_pos (by simp [hforce]))
  next hforce =>
  split
  · next hexit =>
    obtain ⟨hmode, htarget⟩ := hexit
    split
    · next hcause =>
      have hrefused := beginPower_causeActive hmode htarget hcause
      split at hrefused
      · exact hanswer _ hrefused
      · next hctx => exact hignore hrefused (by simpa using hctx)
    · next hcause => exact beginPower_safeExit hmode htarget (Bool.eq_false_iff.2 hcause)
  next hexit =>
  have hpast : s.beginPower c = _ := (if_neg (by simpa using hforce)).trans (if_neg (by simpa using hexit))
  split
  · next hallowed => exact hanswer _ (hpast.trans (if_pos (by simp [hallowed])))
  next hallowed =>
  split
  · next hstop =>
    obtain ⟨htarget, hquiet, hkeep⟩ := hstop
    refine hanswer _ (hpast.trans ?_)
    simp [hallowed, htarget, hquiet, hkeep]
  next hstop =>
  split
  · next hwake =>
    obtain ⟨hmode, htarget⟩ := hwake
    obtain ⟨hchange, -⟩ := beginPower_wake hmode htarget
    exact hchange
  · next hwake => exact beginPower_change hforce hexit (by simpa using hallowed) hwake hstop

theorem answerPower_pendingReq (c : Option (Nat × Nat)) (st : Nat) (s : State) : (s.answerPower c st).pwr.pendingReq = s.pwr.pendingReq :=
  congrArg Power.pendingReq (answerPower_pwr c st s)

/-- The beginning of a request leaves the pending one. -/
theorem beginPower_pendingReq (c : PwrChange) (s : State) : (s.beginPower c).pwr.pendingReq = s.pwr.pendingReq := by
  have hraise : (s.modPwr fun p => { p with change := some { c with phase := 1 } }).raiseVdd.pwr.pendingReq = s.pwr.pendingReq :=
    raiseVdd_pendingReq _
  unfold State.beginPower
  split_ifs
  · exact answerPower_pendingReq ..
  · exact answerPower_pendingReq ..
  · rw [writeIgnored_pwr]
  · exact hraise
  · exact answerPower_pendingReq ..
  · extract_lets u
    split
    · rw [clocksOn_pwr]
      exact hraise
    · exact hraise
  · rw [stopAll_pwr]
    rfl
  · exact answerPower_pendingReq ..
  · rfl

/-! ## How a request arrives (R434, R436) -/

/-- The descriptor of a request that R434 does not refuse has started. -/
def requestStarted (n q : Nat) (s : State) : State := s.modDesc n q fun d => { d with phase := .started }

theorem requestStarted_pwr (n q : Nat) (s : State) : (requestStarted n q s).pwr = s.pwr := rfl

theorem powerRequest_malformed {n : Nat} {s : State} {d : Desc} (hd : s.startable n 0x4A = some d) (h : parseRequest n d = none) :
    exec (.powerRequest n) s = .next (s.finish n d.seq 0x0012 s.pwr.mode.code) := by
  show execPowerRequest n s = _
  unfold execPowerRequest
  rw [hd]
  dsimp only
  rw [h]

theorem powerRequest_arrives {n : Nat} {s : State} {d : Desc} {c : PwrChange} (hd : s.startable n 0x4A = some d)
    (h : parseRequest n d = some c) : exec (.powerRequest n) s = .next ((requestStarted n d.seq s).askPower c) := by
  show execPowerRequest n s = _
  unfold execPowerRequest
  rw [hd]
  dsimp only
  rw [h]
  rfl

theorem powerRequest_absent {n : Nat} {s : State} (h : s.startable n 0x4A = none) : exec (.powerRequest n) s = .next s := by
  show execPowerRequest n s = _
  unfold execPowerRequest
  rw [h]

theorem requestStarted_begun {n : Nat} {s : State} {d : Desc} (hd : s.startable n 0x4A = some d) :
    Begun n d.seq (requestStarted n d.seq s) := by
  obtain ⟨hmem, -, -⟩ := startable_spec hd
  exact modDesc_begun hmem _ rfl rfl

/-- The descriptor of a request that has begun gets the status that the request is answered with. -/
theorem answerPower_answered {n q : Nat} {s : State} (h : Begun n q s) (st : Nat) : Answered n q st (s.answerPower (some (n, q)) st) := by
  obtain ⟨e, he, rfl, hphase⟩ := h
  exact finish_answered he (by simp [hphase]) st _ 0

/-- While a change runs, or a request waits, a new request takes the place of the one that waits, which is superseded (R436). -/
theorem askPower_waits {c : PwrChange} {s : State} (h : s.pwr.change.isSome ∨ s.pwr.pendingReq.isSome) :
    ∃ u : State, u.ctxs = s.ctxs ∧ u.pwr.pendingReq = some c ∧ u.pwr.change = s.pwr.change ∧
      s.askPower c = u.answerPower (s.pwr.pendingReq.bind (·.ctx)) 0x0002 := by
  refine ⟨s.modPwr fun p => { p with pendingReq := some c, superseded := if s.pwr.pendingReq.isSome then satAdd 0xFF p.superseded 1
    else p.superseded }, rfl, rfl, rfl, ?_⟩
  unfold State.askPower
  rw [if_neg (by rcases h with h | h <;> simp [Option.isSome_iff_ne_none.1 h])]
  dsimp only
  cases s.pwr.pendingReq.bind (·.ctx) with
  | none => rfl
  | some d => rfl

theorem pendingRequestBegin_first {s : State} {c : PwrChange} (hchange : s.pwr.change = none) (hpend : s.pwr.pendingReq = some c) :
    exec .pendingRequestBegin s = .next ((s.modPwr fun p => { p with pendingReq := none }).beginPower c) := by
  show execPendingRequestBegin s = _
  unfold execPendingRequestBegin
  rw [hchange, hpend]

theorem pendingRequestBegin_none {s : State} (h : s.pwr.change.isSome ∨ s.pwr.pendingReq = none) :
    exec .pendingRequestBegin s = .next s := by
  show execPendingRequestBegin s = _
  unfold execPendingRequestBegin
  split
  · next hchange hpend => exact absurd h (by simp [hchange, hpend])
  · rfl

theorem causeActive_iff (s : State) : s.causeActive = true ↔ s.thm.tripActive = true ∨ ∃ e ∈ s.flt.log, e.2.cls = 4 := by
  simp [State.causeActive]

end Sys2Proof.Laws

/-! PROOF. O9 and O58: requests for a mode. -/

namespace Sys2Proof.Proofs

open Sys2Proof Sys2Proof.Machine Sys2Proof.Laws

/-- A malformed request is refused (R434). -/
theorem powerRequest_refused (n : Nat) (s : State) (d : Desc) (hd : s.startable n 0x4A = some d) (hc : parseRequest n d = none) :
    ∃ t, exec (.powerRequest n) s = .next t ∧ Answered n d.seq 0x0012 t ∧ t.pwr = s.pwr := by
  obtain ⟨hmem, hphase, -⟩ := startable_spec hd
  exact ⟨_, powerRequest_malformed hd hc, finish_answered hmem (by simp [hphase]) .., finish_pwr ..⟩

/-- A request that must wait supersedes the one that waited (R436). -/
theorem powerRequest_supersedes (n : Nat) (s : State) (d : Desc) (c : PwrChange) (hd : s.startable n 0x4A = some d)
    (hc : parseRequest n d = some c) (hbusy : s.pwr.change.isSome ∨ s.pwr.pendingReq.isSome) :
    ∃ t, exec (.powerRequest n) s = .next t ∧ t.pwr.pendingReq = some c ∧ t.pwr.change = s.pwr.change ∧
      ∀ o m q, s.pwr.pendingReq = some o → o.ctx = some (m, q) → m ≠ n → ∀ e ∈ (s.ctx m).acc, e.seq = q →
        e.phase ≠ .done → Answered m q 0x0002 t := by
  obtain ⟨u, hctxs, hpend, hchange, hask⟩ := askPower_waits (c := c) (s := requestStarted n d.seq s) hbusy
  refine ⟨_, powerRequest_arrives hd hc, ?_⟩
  rw [hask, answerPower_pwr]
  refine ⟨hpend, hchange, fun o m q ho hoctx hm e he hseq hphase => ?_⟩
  have hold : (requestStarted n d.seq s).pwr.pendingReq.bind (·.ctx) = some (m, q) := by
    show s.pwr.pendingReq.bind (·.ctx) = _
    rw [ho]
    exact hoctx
  have hmem : e ∈ (u.ctx m).acc := by
    rw [ctx_of_ctxs hctxs, requestStarted, State.modDesc, ctx_modCtx, if_neg hm]
    exact he
  rw [hold, ← hseq]
  exact finish_answered hmem hphase 0x0002 _ 0

/-- A request that need not wait is answered, refused or begins (R433, R435, R451). -/
theorem powerRequest_begins (n : Nat) (s : State) (d : Desc) (c : PwrChange) (hd : s.startable n 0x4A = some d)
    (hc : parseRequest n d = some c) (hchange : s.pwr.change = none) (hpend : s.pwr.pendingReq = none) :
    ∃ t, exec (.powerRequest n) s = .next t ∧
      if c.target = s.pwr.mode then Answered n d.seq 0 t ∧ t.pwr = s.pwr
      else if s.pwr.mode = .safe ∧ c.target = .service then
        if s.causeActive = true then Answered n d.seq 0x0064 t ∧ t.pwr = s.pwr else t.pwr.change = some { c with phase := 1 }
      else if changeAllowed s.pwr.mode c.target = false then Answered n d.seq 0x0060 t ∧ t.pwr = s.pwr
      else if c.target ≠ .service ∧ s.quiet = false ∧ c.stop = false then Answered n d.seq 0x0061 t ∧ t.pwr = s.pwr
      else t.pwr.change = some (if s.pwr.mode = .retention ∧ c.target = .service then { c with phase := 1 } else c) := by
  refine ⟨_, powerRequest_arrives hd hc, ?_⟩
  rw [askPower_first (s := requestStarted n d.seq s) hchange hpend]
  refine beginPower_spec (c := c) (s := requestStarted n d.seq s)
    (ended := fun st => Answered n d.seq st ((requestStarted n d.seq s).beginPower c) ∧
      ((requestStarted n d.seq s).beginPower c).pwr = s.pwr)
    (fun st h => ?_) fun _ hctx => ?_
  · rw [h, parseRequest_ctx hc]
    exact ⟨answerPower_answered (requestStarted_begun hd) st, (answerPower_pwr ..).trans (requestStarted_pwr ..)⟩
  · exact absurd ((parseRequest_ctx hc).symm.trans hctx) (by simp)

/-- The request that waited begins in the same way (R436). -/
theorem pendingRequest_begins (s : State) (c : PwrChange) (hchange : s.pwr.change = none) (hpend : s.pwr.pendingReq = some c) :
    ∃ t, exec .pendingRequestBegin s = .next t ∧ t.pwr.pendingReq = none ∧
      if c.target = s.pwr.mode then t.pwr.change = none
      else if s.pwr.mode = .safe ∧ c.target = .service then t.pwr.change = if s.causeActive then none else some { c with phase := 1 }
      else if changeAllowed s.pwr.mode c.target = false then t.pwr.change = none
      else if c.target ≠ .service ∧ s.quiet = false ∧ c.stop = false then t.pwr.change = none
      else t.pwr.change = some (if s.pwr.mode = .retention ∧ c.target = .service then { c with phase := 1 } else c) := by
  refine ⟨_, pendingRequestBegin_first hchange hpend, beginPower_pendingReq .., ?_⟩
  generalize hu : (s.modPwr fun p => { p with pendingReq := none }) = u
  have hidle : u.pwr.change = none := hu ▸ hchange
  simp only [apply_ite (Eq (State.pwr _).change)]
  have hspec := beginPower_spec (c := c) (s := u) (ended := fun _ => (u.beginPower c).pwr.change = none)
    (fun st h => by rw [h, answerPower_pwr, hidle]) fun h _ => by rw [h, writeIgnored_pwr, hidle]
  subst hu
  exact hspec

/-- Settles O9: a request that must wait by what it leaves pending, the others through the ways in which a request begins. The bits that a
request may not set (log 93) are the model's choice. -/
theorem powerRequests : Obligations.PowerRequests :=
  ⟨powerRequest_refused, powerRequest_supersedes, powerRequest_begins, pendingRequest_begins,
    fun _ _ => ⟨powerRequest_absent, pendingRequestBegin_none⟩⟩

/-- In SAFE a request for SERVICE is refused while a cause remains, and begins the exit without one (R451). -/
theorem powerRequest_exits (n : Nat) (s : State) (d : Desc) (c : PwrChange) (hd : s.startable n 0x4A = some d)
    (hc : parseRequest n d = some c) (htarget : c.target = .service) (hmode : s.pwr.mode = .safe) (hchange : s.pwr.change = none)
    (hpend : s.pwr.pendingReq = none) :
    if s.thm.tripActive = true ∨ ∃ e ∈ s.flt.log, e.2.cls = 4
    then ∃ t, exec (.powerRequest n) s = .next t ∧ Answered n d.seq 0x0064 t ∧ t.pwr = s.pwr
    else ∃ t, exec (.powerRequest n) s = .next t ∧ Begun n d.seq t ∧ t.pwr.change = some { c with phase := 1 } := by
  have harrive := powerRequest_arrives hd hc
  rw [askPower_first (s := requestStarted n d.seq s) hchange hpend] at harrive
  have hbegun := requestStarted_begun hd
  simp only [← causeActive_iff]
  split
  · next hcause =>
    refine ⟨_, harrive, ?_⟩
    rw [beginPower_causeActive (s := requestStarted n d.seq s) hmode htarget hcause, parseRequest_ctx hc, if_pos Option.isSome_some]
    exact ⟨answerPower_answered hbegun 0x0064, (answerPower_pwr ..).trans (requestStarted_pwr ..)⟩
  · next hcause =>
    refine ⟨_, harrive, ?_⟩
    rw [beginPower_exits (s := requestStarted n d.seq s) hmode htarget (Bool.eq_false_iff.2 hcause)]
    refine ⟨?_, (raiseVdd_change _).1⟩
    rw [Begun, ctx_of_ctxs (raiseVdd_ctxs _)]
    exact hbegun

/-- PWR_WAKE.SAFE_EXIT is an ignored write while a cause remains, and begins the exit without one (R451). -/
theorem pwrWakeSafeExit_exits (p : Path) (s : State) (hp : p ≠ .bar2) (hmode : s.pwr.mode = .safe) (hen : (s.pwr.wakePath p).1 = true)
    (hchange : s.pwr.change = none) (hpend : s.pwr.pendingReq = none) (hs : logsOk s) :
    if s.thm.tripActive = true ∨ ∃ e ∈ s.flt.log, e.2.cls = 4
    then ∃ t, exec (.pwrWakeSafeExit p) s = .next t ∧ t.pwr = s.pwr ∧ Logged .regWriteIgnored 0 s t ∧ Cause.regWriteIgnored.cls = 0
    else ∃ t, exec (.pwrWakeSafeExit p) s = .next t ∧
      t.pwr.change = some { target := .service, source := (s.pwr.wakePath p).2, phase := 1 } := by
  simp only [← causeActive_iff]
  split
  · next hcause =>
    refine ⟨_, pwrWakeSafeExit_taken hp hmode hen, ?_⟩
    rw [askPower_first hchange hpend, beginPower_causeActive hmode rfl hcause]
    exact ⟨writeIgnored_pwr s, writeIgnored_logged s hs, rfl⟩
  · next hcause => exact safeExit_begins p s hp hmode hen (Bool.eq_false_iff.2 hcause) hchange hpend

/-- Settles O58: both ways to ask for the exit, by whether a cause remains. -/
theorem safeExitsAreRefused : Obligations.SafeExitsAreRefused := ⟨powerRequest_exits, pwrWakeSafeExit_exits⟩

end Sys2Proof.Proofs

/-! PROOF. What a voltage read, a confirmation and a failure do to a change of VDD (R441, R442). -/

namespace Sys2Proof.Laws

open Sys2Proof Sys2Proof.Machine

/-! ## The end of a change -/

theorem enterRetention_readback (c : PwrChange) (s : State) : (s.enterRetention c).pwr.readback = s.pwr.readback := by
  have hlost : Only besidesThmPwr s (s.channels.foldl (fun s ch => s.loseCells ch fun b => retainedBank s ch b) s) :=
    Only.foldl (Only.refl _ s) fun u ch h => loseCells_writes ch _ u h rfl
  have hsame := congrArg Power.readback (hlost.pwr.resolve_left Bool.false_ne_true)
  unfold State.enterRetention
  rw [answerPower_pwr]
  exact hsame

/-- The end of a change leaves the voltage that was read. -/
theorem settleAvs_readback (s : State) : s.settleAvs.pwr.readback = s.pwr.readback := by
  unfold State.settleAvs
  split
  · rfl
  · split
    · rfl
    · split
      · rfl
      · extract_lets u
        split
        · split_ifs
          · exact enterRetention_readback ..
          · rw [clocksOn_pwr]
            rfl
          · rfl
        · rfl

/-- A raise that is confirmed has not come to its point before 20 µs (R441). -/
theorem settleAvs_rising {s : State} {a : Avs} {t : Nat} (havs : s.pwr.avs = some a) (hconf : a.confirmed = some t)
    (hraise : a.prev < a.target) (ht : s.now < t + 32000) : s.settleAvs = s := by
  unfold State.settleAvs
  rw [havs]
  dsimp only
  rw [hconf]
  exact if_pos (by simp [Avs.raise, hraise, ht])

/-- A lowering is complete with its confirmation (R441). -/
theorem settleAvs_lowered {s : State} {a : Avs} {t : Nat} (havs : s.pwr.avs = some a) (hconf : a.confirmed = some t)
    (hlower : ¬a.prev < a.target) (hchange : s.pwr.change = none) :
    s.settleAvs = s.modPwr fun p => { p with avs := none, point := a.point } := by
  unfold State.settleAvs
  rw [havs]
  dsimp only
  rw [hconf]
  dsimp only
  rw [if_neg (by simp [Avs.raise, hlower]), modPwr_pwr, hchange]

/-- A change of VDD that fails outside a change of mode leaves VDD where it was, with AVS_FAIL set and logged (R441). -/
theorem avsFailed_spec (a : Avs) {s : State} (hchange : s.pwr.change = none) :
    (s.avsFailed a).pwr = { s.pwr with avs := none, avsFail := true, command := a.prev } ∧
      (logsOk s → Logged .avsFail 0 s (s.avsFailed a)) := by
  unfold State.avsFailed
  extract_lets u v
  have hlogged (w : State) (hpwr : w.pwr = u.pwr) (hflt : w.flt = s.flt) : (w.log .avsFail 0).pwr = u.pwr ∧
      (logsOk s → Logged .avsFail 0 s (w.log .avsFail 0)) := by
    refine ⟨(log_pwr ..).trans hpwr, fun hs => log_logged 0 0 0 false hs (.of_flt hflt) ?_ (.refl _)⟩
    rw [logsOk, hflt, hpwr]
    exact hs
  have hv : v.pwr = u.pwr ∧ (logsOk s → Logged .avsFail 0 s v) := by
    unfold v
    split
    · exact hlogged _ rfl rfl
    · exact hlogged _ rfl rfl
  obtain ⟨hpwr, hlog⟩ := hv
  split
  · next c hc => exact absurd (hc.symm.trans (congrArg Power.change hpwr)) (by simp [u, hchange])
  · exact ⟨hpwr, hlog⟩

/-! ## Reads of the voltage (R442) -/

/-- The voltage was read, at this ck. -/
def voltageRead (mv : Nat) (s : State) : State := s.modPwr fun p => { p with readback := mv % 1024, lastAvs := s.now }

/-- The voltage read confirms the change `a`. -/
def voltageConfirmed (mv : Nat) (a : Avs) (s : State) : State :=
  (voltageRead mv s).modPwr fun p => { p with avs := some { a with confirmed := some s.now } }

section
variable {s : State} {a : Avs} (havs : s.pwr.avs = some a) (hconf : a.confirmed = none)
include havs hconf

theorem avsPoll_confirms {mv : Nat} (hdue : s.pwr.lastAvs + 16000 ≤ s.now) (hlow : mv ≤ a.target + 10) (hhigh : a.target ≤ mv + 10) :
    exec (.avsPoll true mv) s = .next (voltageConfirmed mv a s).settleAvs := by
  show execAvsPoll true mv s = _
  unfold execAvsPoll
  rw [havs]
  dsimp only
  rw [if_neg (by simp [hconf, hdue]), if_neg (by simp), if_pos (by simp [hlow, hhigh])]
  rfl

theorem avsPoll_apart {mv : Nat} (hdue : s.pwr.lastAvs + 16000 ≤ s.now) (hfar : a.target + 10 < mv ∨ mv + 10 < a.target) :
    exec (.avsPoll true mv) s = .next (voltageRead mv s) := by
  show execAvsPoll true mv s = _
  unfold execAvsPoll
  rw [havs]
  dsimp only
  rw [if_neg (by simp [hconf, hdue]), if_neg (by simp), if_neg (by simp only [Bool.and_eq_true, decide_eq_true_eq]; omega)]
  rfl

theorem avsPoll_unanswered (mv : Nat) (hdue : s.pwr.lastAvs + 16000 ≤ s.now) : exec (.avsPoll false mv) s = .next (s.avsFailed a) := by
  show execAvsPoll false mv s = _
  unfold execAvsPoll
  rw [havs]
  dsimp only
  rw [if_neg (by simp [hconf, hdue]), if_pos (by simp)]

theorem avsTimeout_due (hdue : a.start + 1600000 ≤ s.now) : exec .avsTimeout s = .next (s.avsFailed a) := by
  show execAvsTimeout s = _
  unfold execAvsTimeout
  rw [havs]
  exact if_pos (by simp [hconf, hdue])

end

/-- Without a change of VDD there is nothing to poll and nothing to time out. -/
theorem avs_idle (x : Bool) (mv : Nat) {s : State} (h : s.pwr.avs = none) :
    exec (.avsPoll x mv) s = .next s ∧ exec .avsTimeout s = .next s := by
  constructor
  · show execAvsPoll x mv s = _
    unfold execAvsPoll
    rw [h]
  · show execAvsTimeout s = _
    unfold execAvsTimeout
    rw [h]

end Sys2Proof.Laws

/-! PROOF. O12: changes of VDD. -/

namespace Sys2Proof.Proofs

open Sys2Proof Sys2Proof.Machine Sys2Proof.Laws

/-- A read within 10 mV confirms the change, which is complete when it lowers VDD (R441, R442). -/
theorem avsPoll_completes (mv : Nat) (s : State) (a : Avs) (havs : s.pwr.avs = some a) (hconf : a.confirmed = none)
    (hdue : s.pwr.lastAvs + 16000 ≤ s.now) (hlow : mv ≤ a.target + 10) (hhigh : a.target ≤ mv + 10) :
    ∃ t, exec (.avsPoll true mv) s = .next t ∧ t.pwr.readback = mv % 1024 ∧
      if a.prev < a.target then t.pwr.avs = some { a with confirmed := some s.now }
      else s.pwr.change = none → t.pwr.avs = none ∧ t.pwr.point = a.point := by
  refine ⟨_, avsPoll_confirms havs hconf hdue hlow hhigh, settleAvs_readback _, ?_⟩
  split
  · next hraise =>
    have hwait : (voltageConfirmed mv a s).settleAvs = voltageConfirmed mv a s :=
      settleAvs_rising rfl rfl hraise (Nat.lt_add_of_pos_right (by decide))
    rw [hwait]
    rfl
  · next hlower =>
    intro hchange
    rw [settleAvs_lowered (s := voltageConfirmed mv a s) rfl rfl hlower hchange]
    exact ⟨rfl, rfl⟩

/-- Settles O12: a read by what it confirms, and both ends that fail the change by one lemma. -/
theorem voltageChanges : Obligations.VoltageChanges :=
  ⟨avsPoll_completes, fun _ _ _ havs hconf hdue hfar => ⟨_, avsPoll_apart havs hconf hdue hfar, rfl⟩,
    fun mv _ a havs hconf hdue hchange => ⟨_, avsPoll_unanswered havs hconf mv hdue, avsFailed_spec a hchange⟩,
    fun _ a havs hconf hdue hchange => ⟨_, avsTimeout_due havs hconf hdue, avsFailed_spec a hchange⟩, fun x mv _ => avs_idle x mv⟩

end Sys2Proof.Proofs

/-! PROOF. What a save trigger, a warm restore and a charge test leave of the power block (R453 to R459). -/

namespace Sys2Proof.Laws

open Sys2Proof Sys2Proof.Machine

/-! ## What leaves the power block alone, or its image -/

theorem preempt_image (s : State) : s.preempt.pwr.image = s.pwr.image := by
  unfold State.preempt
  rw [answerPower_pwr, answerPower_pwr, answerPower_pwr]

/-- The load shed at a trigger leaves the image that the selvedge holds (R454). -/
theorem shedLoad_image (s : State) : s.shedLoad.pwr.image = s.pwr.image := by
  unfold State.shedLoad
  extract_lets was h p s1 s2 s3 s4
  have h2 : Only besidesThmPwr s1 s2 := Only.ite (dropUnretained_writes _ (Only.refl _ s1) rfl) (Only.refl _ s1)
  have hcut : Only besidesThmPwr s2.preempt s4 :=
    lanesOff_writes _ (regionsSr_writes _ _ (abandonCrc_writes _ _ (stopBurn_writes _ (requeue_writes _
      (cutAll_writes _ _ _ (Only.refl _ _) rfl rfl rfl rfl rfl rfl rfl rfl rfl) rfl rfl rfl) rfl rfl) rfl rfl) rfl rfl) rfl
  have himage : s1.pwr.image = s.pwr.image := rfl
  clear_value s4 s3 s2 s1
  show s4.pwr.image = s.pwr.image
  rw [pwr_of_only hcut rfl, preempt_image, pwr_of_only h2 rfl, himage]

theorem warmBlocks_pwr (s : State) : s.warmBlocks.pwr = s.pwr :=
  pwr_of_only (m := besidesThmPwr) (warmBlocks_writes s (Only.refl _ s) rfl rfl rfl rfl rfl rfl rfl rfl rfl rfl rfl) rfl

theorem restartHoop_pwr (s : State) : s.restartHoop.pwr = s.pwr :=
  pwr_of_only (m := besidesThmPwr) (restartHoop_writes s (Only.refl _ s) rfl rfl rfl rfl rfl rfl rfl) rfl

/-- A restore that is over has consumed the image (R456). -/
theorem consumed_pwr (cause : Nat) (kept : Bool) (s : State) : (s.consumed cause kept).pwr =
    { s.pwr with image := { s.pwr.image with marker := 3 }, restored := true, dramKept := kept, trigger := cause } := by
  unfold State.consumed
  extract_lets u
  have hkept : Only besidesThmPwr u (if kept then u else u.notKept) := Only.ite (Only.refl _ u) (notKept_writes u (Only.refl _ u) rfl)
  rw [log_pwr, pwr_of_only hkept rfl]
  rfl

/-- A raise of VDD leaves the mode, the image and what is said of its restore. -/
theorem raiseVdd_image (s : State) : s.raiseVdd.pwr.mode = s.pwr.mode ∧ s.raiseVdd.pwr.image = s.pwr.image ∧
    s.raiseVdd.pwr.restored = s.pwr.restored := by
  unfold State.raiseVdd
  split <;> exact ⟨rfl, rfl, rfl⟩

/-! ## SAVE (R453 to R457) -/

/-- The trigger comes before the restore of an image that the selvedge holds, which stays (R453). -/
def keepsImage (s : State) : Prop := s.pwr.mode = .bringUp ∧ (s.pwr.step < 2 ∨ (s.pwr.step < 4 ∧ s.pwr.image.marker = 2))

/-- The load that a trigger sheds; with VDDM the content goes. -/
def shedFor (c : SaveCause) (s : State) : State := if c == .vddm then s.shedLoad.loseAll else s.shedLoad

theorem shedFor_image (c : SaveCause) (s : State) : (shedFor c s).pwr.image = s.pwr.image := by
  unfold shedFor
  split
  · rw [loseAll_pwr, shedLoad_image]
  · exact shedLoad_image s

/-- The image that a trigger begins (R455). -/
def newImage (c : SaveCause) (s : State) : SaveImage := { (shedFor c s).saveImage (saveCode c) with mode := s.pwr.mode }

theorem saveTrigger_early (c : SaveCause) {s : State} (hmode : s.pwr.mode ≠ .save) (h : keepsImage s) :
    exec (.saveTrigger c) s = .next ((shedFor c s).modPwr fun p => { p with mode := .save }) := by
  show execSaveTrigger c s = _
  unfold execSaveTrigger
  rw [if_neg (by simpa using hmode)]
  extract_lets early was s1 s2 im
  have hearly : early = true := by simpa [early, keepsImage] using h
  simp only [hearly, if_true]
  rfl

theorem saveTrigger_late (c : SaveCause) {s : State} (hmode : s.pwr.mode ≠ .save) (h : ¬keepsImage s) :
    exec (.saveTrigger c) s = .next ((shedFor c s).modPwr fun p =>
      { p with mode := .save, image := newImage c s, trigger := saveCode c, saveResult := 2, dramWatch := c != .vddm, avs := none }) := by
  show execSaveTrigger c s = _
  unfold execSaveTrigger
  rw [if_neg (by simpa using hmode)]
  extract_lets early was s1 s2 im
  have hlate : early = false := Bool.eq_false_iff.2 fun hearly => h (by simpa [early, keepsImage] using hearly)
  simp only [hlate, Bool.false_eq_true, if_false]
  rfl

theorem saveTrigger_again (c : SaveCause) {s : State} (hmode : s.pwr.mode = .save) : exec (.saveTrigger c) s = .next s :=
  if_pos (by simp [hmode])

theorem saveCommit_due {s : State} (hmode : s.pwr.mode = .save) (htrigger : s.pwr.trigger ≠ 0) (hmarker : s.pwr.image.marker = 1)
    (hpower : s.pwr.lostPower = false) : exec .saveCommit s =
      .next (s.modPwr fun p => { p with image := { p.image with marker := 2 }, saveResult := 1, committedAt := s.now }) :=
  if_pos (by simp [hmode, htrigger, hmarker, hpower])

/-- The blocks of a device that a warm restore brings back to BRING-UP (R456). -/
def warmRestored (k : List BankCheck) (s : State) : State :=
  let u := s.modPwr fun p => { p with mode := .bringUp, source := 6, left := .save, dramWatch := false }
  ((u.consumed s.pwr.trigger s.pwr.dramWatch).warmBlocks.restartHoop.leaveSrAll 0 true
    (if s.pwr.dramWatch then some k else none)).lanesDetect

theorem warmRestored_pwr (k : List BankCheck) (s : State) : (warmRestored k s).pwr.mode = .bringUp ∧
    (warmRestored k s).pwr.image.marker = 3 ∧ (warmRestored k s).pwr.restored = true := by
  unfold warmRestored
  rw [lanesDetect_pwr, leaveSrAll_pwr, restartHoop_pwr, warmBlocks_pwr, consumed_pwr]
  exact ⟨rfl, rfl, rfl⟩

theorem warmRestore_due (k : List BankCheck) {s : State} (hmode : s.pwr.mode = .save) (hmarker : s.pwr.image.marker = 2)
    (hpower : s.pwr.lostPower = false) (htrigger : s.pwr.trigger ≠ 0) (hvaux : s.pwr.trigger ≠ 4)
    (hdue : s.pwr.committedAt + 16000000 ≤ s.now) : exec (.warmRestore k) s = .next (warmRestored k s).raiseVdd :=
  if_neg (by simp [hmode, hmarker, hpower, htrigger, hvaux, hdue])

/-- Outside SAVE nothing is committed, restored or shut down. -/
theorem save_absent (k : List BankCheck) {s : State} (hmode : s.pwr.mode ≠ .save) :
    exec .saveCommit s = .next s ∧ exec (.warmRestore k) s = .next s ∧ exec .vsaveLow s = .next s :=
  ⟨if_neg (by simp [hmode]), if_pos (by simp [hmode]), if_neg (by simp [hmode])⟩

theorem vsaveLow_due {s : State} (hmode : s.pwr.mode = .save) :
    exec .vsaveLow s = .next (s.modPwr fun p => { p with lostPower := true, dramWatch := false }) := if_pos (by simp [hmode])

theorem dramRailLow_watched {s : State} (h : s.pwr.dramWatch = true) :
    exec .dramRailLow s = .next (s.loseAll.modPwr fun p => { p with dramWatch := false }) := if_pos h

theorem dramRailLow_unwatched {s : State} (h : s.pwr.dramWatch = false) : exec .dramRailLow s = .next s := if_neg (by simp [h])

/-! ## The hold-up capacitor (R459) -/

theorem testResult_pwr (ok : Bool) (s : State) : (s.testResult ok).pwr = s.pwr := by
  unfold State.testResult
  split
  · rfl
  · exact log_pwr ..

/-- A failed test is logged, after changes of the power block that leave the saved log. -/
theorem testResult_logged {s : State} (f : Power → Power) (hf : (f s.pwr).image = s.pwr.image) (hs : logsOk s) :
    Logged .holdupFail 0 s ((s.modPwr f).testResult false) := by
  refine log_logged 0 0 0 true hs (.of_flt rfl) (u := s.modPwr f) ?_ (.refl _)
  rw [logsOk, modPwr_flt, modPwr_pwr, hf]
  exact hs

/-- What a charge test records: ΔV in mV, ESR in mΩ and VSAVE in mV. -/
def chargeTested (now dv esr mv : Nat) (p : Power) : Power :=
  Power.arm { p with lastCharge := some now, capOk := decide (0 < dv ∧ dv ≤ 1250), esrOk := decide (esr ≤ 50),
                     chargeFailed := !(decide (0 < dv ∧ dv ≤ 1250) && decide (esr ≤ 50)), vsave := mv % 2 ^ 16,
                     capUf := min (1000000 / dv) 0xFFFF, esr := min esr 0xFF }

theorem chargeTest_due (dv esr mv : Nat) {s : State} (hmode : s.pwr.mode ≠ .save) (hstep : s.pwr.step ≠ 0)
    (hdue : if s.pwr.lastCharge = none then 11400 ≤ mv else s.pwr.lastCharge.getD 0 + 138240000000000 ≤ s.now) :
    exec (.chargeTest dv esr mv) s =
      .next ((s.modPwr (chargeTested s.now dv esr mv)).testResult (decide (0 < dv ∧ dv ≤ 1250) && decide (esr ≤ 50))) := by
  refine if_neg ?_
  cases hlast : s.pwr.lastCharge with
  | none =>
    rw [hlast, if_pos rfl] at hdue
    simp [hmode, hstep, hdue]
  | some t =>
    rw [hlast, if_neg (by simp), Option.getD_some] at hdue
    simp [hmode, hstep, hdue]

theorem chargeTimeout_due {s : State} (hmode : s.pwr.mode ≠ .save) (hstep : s.pwr.step ≠ 0) (hlast : s.pwr.lastCharge = none)
    (hfailed : s.pwr.chargeFailed = false) (hdue : s.pwr.stepOne + 8000000000 ≤ s.now) : exec .chargeTimeout s =
      .next ((s.modPwr fun p => Power.arm { p with capOk := false, esrOk := false, chargeFailed := true }).testResult false) :=
  if_neg (by simp [hmode, hstep, hlast, hfailed, hdue])

theorem chargeTimeout_saving {s : State} (hmode : s.pwr.mode = .save) : exec .chargeTimeout s = .next s := if_pos (by simp [hmode])

end Sys2Proof.Laws

/-! PROOF. O13: the paths through SAVE, and the tests of its charge. -/

namespace Sys2Proof.Proofs

open Sys2Proof Sys2Proof.Machine Sys2Proof.Laws

/-- A trigger enters SAVE and begins an image, unless an older one is still to be restored (R453 to R455). -/
theorem saveTrigger_begins (c : SaveCause) (s : State) (hmode : s.pwr.mode ≠ .save) :
    ∃ t, exec (.saveTrigger c) s = .next t ∧ t.pwr.mode = .save ∧
      if s.pwr.mode = .bringUp ∧ (s.pwr.step < 2 ∨ (s.pwr.step < 4 ∧ s.pwr.image.marker = 2)) then t.pwr.image = s.pwr.image
      else t.pwr.image.marker = 1 ∧ t.pwr.image.trigger = saveCode c ∧ t.pwr.trigger = saveCode c ∧
        t.pwr.image.mode = s.pwr.mode := by
  split
  · next h => exact ⟨_, saveTrigger_early c hmode h, rfl, shedFor_image c s⟩
  · next h => exact ⟨_, saveTrigger_late c hmode h, rfl, rfl, rfl, rfl, rfl⟩

/-- A warm restore returns to BRING-UP (R456). -/
theorem warmRestore_returns (k : List BankCheck) (s : State) (hmode : s.pwr.mode = .save) (hmarker : s.pwr.image.marker = 2)
    (hpower : s.pwr.lostPower = false) (htrigger : s.pwr.trigger ≠ 0) (hvaux : s.pwr.trigger ≠ 4)
    (hdue : s.pwr.committedAt + 16000000 ≤ s.now) :
    ∃ t, exec (.warmRestore k) s = .next t ∧ t.pwr.mode = .bringUp ∧ t.pwr.image.marker = 3 ∧ t.pwr.restored = true := by
  refine ⟨_, warmRestore_due k hmode hmarker hpower htrigger hvaux hdue, ?_⟩
  obtain ⟨hraise, himage, hrestored⟩ := raiseVdd_image (warmRestored k s)
  rw [hraise, himage, hrestored]
  exact warmRestored_pwr k s

/-- A charge test that is due records its results, which say whether SAVE is armed (R459). -/
theorem chargeTest_records (dv esr mv : Nat) (s : State) (hmode : s.pwr.mode ≠ .save) (hstep : s.pwr.step ≠ 0)
    (hdue : if s.pwr.lastCharge = none then 11400 ≤ mv else s.pwr.lastCharge.getD 0 + 138240000000000 ≤ s.now) :
    ∃ t, exec (.chargeTest dv esr mv) s = .next t ∧ t.pwr.lastCharge = some s.now ∧ t.pwr.capOk = decide (0 < dv ∧ dv ≤ 1250) ∧
      t.pwr.esrOk = decide (esr ≤ 50) ∧ t.pwr.armed = decide (0 < dv ∧ dv ≤ 1250 ∧ esr ≤ 50 ∧ 9000 ≤ mv % 2 ^ 16) ∧
      (¬ (0 < dv ∧ dv ≤ 1250 ∧ esr ≤ 50) → logsOk s → Logged .holdupFail 0 s t) := by
  refine ⟨_, chargeTest_due dv esr mv hmode hstep hdue, ?_⟩
  rw [testResult_pwr]
  refine ⟨rfl, rfl, rfl, ?_, fun hfail hs => ?_⟩
  · show (decide (0 < dv ∧ dv ≤ 1250) && decide (esr ≤ 50) && decide (9000 ≤ mv % 2 ^ 16)) = _
    simp [Bool.and_assoc]
  · have hbad : (decide (0 < dv ∧ dv ≤ 1250) && decide (esr ≤ 50)) = false := by simpa [and_assoc] using hfail
    rw [hbad]
    exact testResult_logged _ rfl hs

/-- Settles O13: the trigger by what the load shed leaves of the image, the restore by what brings the blocks back, the tests by what
they record. Which triggers leave an older image alone, and that a warm restore needs a trigger (log 82, 83) other than the loss of VAUX
(log 84), are the model's choices. -/
theorem savePathsRun : Obligations.SavePathsRun := by
  refine ⟨saveTrigger_begins, fun s hmode htrigger hmarker hpower => ⟨_, saveCommit_due hmode htrigger hmarker hpower, rfl, rfl, rfl⟩,
    warmRestore_returns, fun s hmode => ⟨_, vsaveLow_due hmode, rfl, rfl⟩, fun s h => ⟨_, dramRailLow_watched h, rfl, rfl⟩,
    chargeTest_records, fun s hmode hstep hlast hfailed hdue => ⟨_, chargeTimeout_due hmode hstep hlast hfailed hdue, ?_⟩,
    fun mv s => ⟨_, rfl, rfl⟩,
    fun c k s => ⟨fun h => ⟨saveTrigger_again c h, chargeTimeout_saving h⟩, save_absent k, dramRailLow_unwatched⟩⟩
  rw [testResult_pwr]
  exact ⟨rfl, rfl, testResult_logged _ rfl⟩

end Sys2Proof.Proofs

/-! PROOF. The link to the host through a reset, a recovery and commits (R477, R481, R587), and REFCLK (R467, R493). -/

namespace Sys2Proof.Laws

open Sys2Proof Sys2Proof.Machine

/-! ## What says whether the link carries requests -/

/-- The link is in L0, and the function is in D3hot. -/
def linkPart (s : State) : Bool × Bool := (s.host.linkUp, s.host.d3hot)

theorem linkPart_of_host {s t : State} (h : t.host = s.host) : linkPart t = linkPart s := by
  unfold linkPart
  rw [h]

/-- A fold of steps that leave the link leaves it. -/
theorem foldl_linkPart {α : Type} {f : State → α → State} (hf : ∀ s x, linkPart (f s x) = linkPart s) (l : List α) (s : State) :
    linkPart (l.foldl f s) = linkPart s := by
  induction l generalizing s with
  | nil => rfl
  | cons x l ih => exact (ih _).trans (hf s x)

theorem disabled_linkPart (n : Nat) (x : Nat × Option Nat) (s : State) : linkPart (s.disabled n x) = linkPart s := by
  unfold State.disabled
  split <;> rfl

theorem settleDisable_linkPart (n : Nat) (s : State) : linkPart (s.settleDisable n) = linkPart s := by
  by_cases h : (s.ctx n).disabling = [] ∨ (s.ctx n).acc ≠ []
  · rw [settleDisable_of_held h]
  · obtain ⟨hwait, hacc⟩ := not_or.1 h
    rw [settleDisable_of_empty (not_not.1 hacc) hwait]
    exact foldl_linkPart (fun s x => disabled_linkPart n x s) _ _

/-- Every kind of state but the host interface. -/
def besidesHost : Writes := { besidesThmPwr with thm := true, pwr := true, host := false }

theorem host_of_only {s t : State} (h : Only besidesHost s t) : t.host = s.host := h.host.resolve_left Bool.false_ne_true

/-- Commits leave the link: of the host interface they change which disables the window waits for. -/
theorem drainBy_linkPart (k n : Nat) (s : State) : linkPart (State.drainBy k n s) = linkPart s := by
  induction k generalizing n s with
  | zero => rfl
  | succ k ih =>
    have hcommit : linkPart (State.commitAll (s.ctx n).acc.length n s) = linkPart s :=
      linkPart_of_host (host_of_only (commitAll_writes _ n s (Only.refl _ s) rfl rfl rfl rfl rfl rfl rfl))
    exact (foldl_linkPart (fun s o => ih o s) _ _).trans ((settleDisable_linkPart n _).trans hcommit)

theorem drainEvery_linkPart (s : State) : linkPart s.drainEvery = linkPart s := foldl_linkPart (fun s n => drainBy_linkPart 17 n s) _ s

theorem requestPage_linkPart (s : State) : linkPart s.requestPage = linkPart s := by
  unfold State.requestPage
  split
  · rfl
  · exact (linkPart_of_host (hostRead_host ..)).trans rfl

/-- The host interface has recovered when its link is up and its function is not in D3hot (R481). -/
theorem recoverHost_linkPart (s : State) : linkPart s.recoverHost = (true, false) := by
  unfold State.recoverHost
  extract_lets h u
  have hjournal : linkPart u.rewriteJournal = linkPart u :=
    linkPart_of_host (host_of_only (rewriteJournal_writes u (Only.refl _ u) rfl rfl rfl rfl))
  have hread (v : State) : linkPart v.readAgain = linkPart v :=
    linkPart_of_host (host_of_only (readAgain_writes v (Only.refl _ v) rfl rfl rfl rfl))
  rw [drainEvery_linkPart, hread, requestPage_linkPart, hjournal]
  rfl

theorem recoverHost_link (s : State) : s.recoverHost.host.linkUp = true ∧ s.recoverHost.host.d3hot = false := by
  simpa [linkPart] using recoverHost_linkPart s

/-! ## The link's own events (R477, R481, R587) -/

/-- The link is down, and no fetch is under way. -/
def linkLost (s : State) : State :=
  { s with host := { s.host with linkUp := false, readReq := [] },
           ctxs := s.ctxs.map fun (x : Nat × Ctx) => (x.1, { x.2 with fetched := 0 }) }

theorem hostInterfaceReset_taken {s : State} (hmode : s.pwr.mode ≠ .save) (hpcie : s.tor.pcieEn = true) :
    exec .hostInterfaceReset s = .next (((linkLost s).log .hostLinkDown 0).count 0x113 none 1) :=
  if_neg (by simp [hmode, hpcie])

theorem hostRecovery_taken (k : List (Nat × Nat)) {s : State} (hmode : s.pwr.mode ≠ .save) (hpcie : s.tor.pcieEn = true)
    (hwarm : s.hoop.warmEnd = none) (hstep : 4 ≤ s.pwr.step) : exec (.hostRecovery k) s = .next (s.badJournal k).recoverHost :=
  if_neg (by simp [hmode, hpcie, hwarm, hstep])

/-- A device without PCI Express has no such link. -/
theorem link_absent (k : List (Nat × Nat)) {s : State} (h : s.tor.pcieEn = false) :
    exec .hostInterfaceReset s = .next s ∧ exec (.hostRecovery k) s = .next s ∧ exec .d3hotEntry s = .next s :=
  ⟨if_pos (by simp [h]), if_pos (by simp [h]), if_neg (by simp [h])⟩

end Sys2Proof.Laws

/-! PROOF. O15: the host link, and REFCLK. -/

namespace Sys2Proof.Proofs

open Sys2Proof Sys2Proof.Machine Sys2Proof.Laws

/-- A reset of the host interface (R477, R481). -/
theorem hostInterfaceReset_falls (s : State) (hmode : s.pwr.mode ≠ .save) (hpcie : s.tor.pcieEn = true) :
    ∃ t, exec .hostInterfaceReset s = .next t ∧ t.host = { s.host with linkUp := false, readReq := [] } ∧
      (∀ x ∈ t.ctxs, x.2.fetched = 0) ∧ (logsOk s → Logged .hostLinkDown 0 s t) := by
  refine ⟨_, hostInterfaceReset_taken hmode hpcie, ?_, fun x hx => ?_, fun hs => ?_⟩
  · rw [count_host, log_host]
    rfl
  · rw [count_ctxs, log_ctxs] at hx
    obtain ⟨y, -, rfl⟩ := List.mem_map.1 hx
    rfl
  · exact log_logged 0 0 0 false hs (.of_flt rfl) (u := linkLost s) hs (count_grows ..)

/-- The link comes up again (R481). -/
theorem hostRecovery_recovers (k : List (Nat × Nat)) (s : State) (hmode : s.pwr.mode ≠ .save) (hpcie : s.tor.pcieEn = true)
    (hwarm : s.hoop.warmEnd = none) (hstep : 4 ≤ s.pwr.step) :
    ∃ t, exec (.hostRecovery k) s = .next t ∧ t.host.linkUp = true ∧ t.host.d3hot = false :=
  ⟨_, hostRecovery_taken k hmode hpcie hwarm hstep, recoverHost_link (s.badJournal k)⟩

/-- REFCLK lost is a C4 fault, which enters SAFE (R433, R493). -/
theorem refclkLoss_enters_safe (s : State) (hmode : s.pwr.mode ≠ .save) : ∃ t, exec .refclkLoss s = .next t ∧ t.pwr.mode = .safe := by
  refine ⟨_, rfl, ?_⟩
  generalize hu : s.log .refclkLoss 0 0 0 0 true = u
  have hsame : u.pwr = s.pwr := hu ▸ log_pwr ..
  by_cases hsafe : u.pwr.mode = .safe
  · rw [enterSafe_of_past true 7 (.inr hsafe)]
    exact hsafe
  · obtain ⟨hentered, -⟩ := enterSafe_enters true 7 (hsame ▸ hmode) hsafe
    exact hentered

/-- Settles O15: a recovery by the link that it leaves up, the loss of REFCLK by the entry to SAFE, its return by what ends a condition. -/
theorem hostLinkFallsAndRecovers : Obligations.HostLinkFallsAndRecovers :=
  ⟨hostInterfaceReset_falls, hostRecovery_recovers, fun _ hpcie => ⟨_, if_pos hpcie, rfl⟩, refclkLoss_enters_safe,
    fun _ => ⟨_, rfl, fun _ he hb hc hi => condEnd_inactive he hb hc hi⟩, fun k _ => link_absent k⟩

end Sys2Proof.Proofs

/-! PROOF. The reset state and a step: the canonical form of the fault logs (R454, R464, R469), and the command at the front. -/

namespace Sys2Proof.Laws

open Sys2Proof Sys2Proof.Machine

/-- A step on an empty queue lets one ck pass. -/
theorem step_of_empty {s : State} (h : s.pending = []) : step s = .next s.tick := by
  unfold step
  rw [h]

/-- A step runs the command that waits at the front. -/
theorem step_of_cons {s : State} {c : Instr} {rest : List Instr} (h : s.pending = c :: rest) :
    step s = exec c { s with pending := rest } := by
  unfold step
  rw [h]

/-- A step keeps the form of the fault log and of the saved one, whether it runs a command or lets a ck pass. -/
theorem step_keeps_logs {s t : State} (hs : logsOk s) (ht : step s = .next t) : logsOk t := by
  cases hq : s.pending with
  | nil =>
    obtain rfl := Host.Outcome.next.inj ((step_of_empty hq).symm.trans ht)
    exact (tick_keeps s (.refl s)).logs hs
  | cons c rest =>
    obtain ⟨u, hu, hkeeps⟩ := exec_keeps c { s with pending := rest }
    obtain rfl := Host.Outcome.next.inj (hu.symm.trans ((step_of_cons hq).symm.trans ht))
    exact hkeeps.logs hs

/-- A fault log without entries has its form. -/
theorem logOk_nil : logOk [] := ⟨rfl, fun _ h => absurd h (by simp)⟩

end Sys2Proof.Laws

namespace Sys2Proof.Proofs

open Sys2Proof Sys2Proof.Machine Sys2Proof.Laws

/-- Settles O48: every command and every ck keeps the form of both logs. -/
theorem logsCanonical : Obligations.LogsCanonical := fun _ _ => step_keeps_logs

/-- Settles O46: the array, both logs and the queue are empty. -/
theorem resetInvariant : Obligations.ResetInvariant := ⟨rfl, ⟨logOk_nil, logOk_nil⟩, rfl⟩

/-- Settles O44: a step takes the front of the queue. That what comes from outside waits in one queue, and that a command comes to run by
standing in it, is the model's choice (log 6, 137). -/
theorem stepTakesFront : Obligations.StepTakesFront := fun _ _ _ => step_of_cons

end Sys2Proof.Proofs

/-! PROOF. The TAP instruction register (R515, R516). -/

namespace Sys2Proof.Laws

open Sys2Proof Sys2Proof.Machine

/-- An instruction that the life-cycle permits is loaded, and nothing else of the OTP block changes. -/
theorem tapInstruction_loads {k : Nat} {s : State} (h : s.otp.tapOk k = true) :
    ∃ t, exec (.tapInstruction k) s = .next t ∧ t.otp = { s.otp with tapInstr := k } := by
  refine ⟨_, if_pos h, ?_⟩
  split
  · rfl
  · rfl

/-- What a forbidden instruction leaves: BYPASS in the register and its report given. -/
def tapBypassed (s : State) : State := s.modOtp fun o => { o with tapInstr := 0, tapGated := true }

/-- A forbidden instruction decodes as BYPASS; the first one since the TAP reset is logged. -/
theorem execTapInstruction_gated {k : Nat} {s : State} (h : s.otp.tapOk k = false) :
    exec (.tapInstruction k) s = .next (if !s.otp.tapGated then (tapBypassed s).log .tapGated 0 else tapBypassed s) :=
  if_neg (by simp [h])

/-- The OTP block after a forbidden instruction. -/
theorem tapInstruction_bypasses {k : Nat} {s : State} (h : s.otp.tapOk k = false) :
    ∃ t, exec (.tapInstruction k) s = .next t ∧ t.otp = { s.otp with tapInstr := 0, tapGated := true } ∧
      (s.otp.tapGated = false → logsOk s → Logged .tapGated 0 s t) ∧ (s.otp.tapGated = true → t.flt = s.flt) := by
  refine ⟨_, execTapInstruction_gated h, ?_, fun hfirst hs => ?_, fun hlater => ?_⟩
  · split
    · exact log_otp ..
    · rfl
  · rw [if_pos (by simp [hfirst])]
    exact log_logged 0 0 0 false hs (.of_flt rfl) (u := tapBypassed s) hs (.refl _)
  · rw [if_neg (by simp [hlater])]
    rfl

/-- What a TAP reset leaves. -/
def tapCleared (s : State) : State := s.modOtp fun o => { o with tapGated := false, tapInstr := 0 }

end Sys2Proof.Laws

/-! PROOF. O57: forbidden TAP instructions. -/

namespace Sys2Proof.Proofs

open Sys2Proof Sys2Proof.Machine Sys2Proof.Laws

/-- Settles O57: a TAP reset leaves the life-cycle, so the same instruction stays forbidden; the first one is logged, and with its report
given the next ones are not. That BYPASS is instruction 0 is the model's choice (log 72). -/
theorem forbiddenTapInstructions : Obligations.ForbiddenTapInstructions := by
  intro k s hk hs
  obtain ⟨u, hu, huotp, hulogged, -⟩ := tapInstruction_bypasses (s := tapCleared s) (k := k) hk
  have hgated : u.otp.tapGated = true := by rw [huotp]
  obtain ⟨v, hv, hvotp, -, hvflt⟩ := tapInstruction_bypasses (s := u) (k := k) (by rw [huotp]; exact hk)
  obtain ⟨w, hw, hwotp, -⟩ := tapInstruction_bypasses hk
  refine ⟨⟨tapCleared s, u, rfl, hu, by rw [huotp], hulogged rfl hs, v, hv, by rw [hvotp], hvflt hgated⟩, ⟨w, hw, by rw [hwotp]⟩, rfl⟩

end Sys2Proof.Proofs

/-! PROOF. O60: how an occurrence enters the fault log (R464, R466, R469). -/

namespace Sys2Proof.Laws

open Sys2Proof Sys2Proof.Machine

/-! ## Picking an entry by its LSN -/

theorem foldl_isSome {α β : Type} {g : Option β → α → Option β} (hg : ∀ a e, (g a e).isSome = true) {l : List α} (a : Option β)
    (h : l ≠ []) : (l.foldl g a).isSome = true := by
  rw [← List.dropLast_append_getLast h, List.foldl_append]
  exact hg ..

theorem isSome_ite {α : Type} {c : Prop} [Decidable c] (x y : α) : (if c then some x else some y).isSome = true := by
  split <;> rfl

/-- Some entry is picked when some entry may be. -/
theorem pickLsn_isSome {l : List (Nat × FltEntry)} {f : FltEntry → Bool} {e : Nat × FltEntry} (nw : Bool) (he : e ∈ l)
    (hf : f e.2 = true) : (pickLsn nw l f).isSome = true := by
  refine foldl_isSome (fun a x => ?_) none (List.ne_nil_of_mem (List.mem_filter.2 ⟨he, hf⟩))
  cases a with
  | none => rfl
  | some y => exact isSome_ite x y

theorem pickLsn_none {l : List (Nat × FltEntry)} {f : FltEntry → Bool} (nw : Bool) (h : ∀ e ∈ l, f e.2 = false) :
    pickLsn nw l f = none := by
  cases hx : pickLsn nw l f with
  | none => rfl
  | some x =>
    obtain ⟨hmem, hsel⟩ := pickLsn_spec hx
    simp [h x hmem] at hsel

/-- In a log in its form an entry stands at its index. -/
theorem find?_of_mem_log {l : List (Nat × FltEntry)} {i : Nat} {e : FltEntry} (hl : logOk l) (h : (i, e) ∈ l) : Sparse.find? l i = some e := by
  obtain ⟨x, hx⟩ := Option.ne_none_iff_exists'.1 (find?_ne_none_of_mem h)
  obtain rfl : x = e := congrArg Prod.snd (rising_unique ((sorted_none _).1 hl.1) (mem_of_find? hx) h rfl)
  exact hx

/-! ## A new entry (R464, R469) -/

/-- What an occurrence enters: its cause, INSTANCE, TIME and details, with the next LSN. -/
def entryOf (f : Faults) (o : Occurrence) (cls : Nat) (escalated : Bool) : FltEntry :=
  { cls, blk := o.cause.blk, cause := o.cause.code, inst := o.inst, active := o.active, escalated,
    time := o.time, d0 := o.d0, d1 := o.d1, d2 := o.d2, lsn := f.nextLsn }

/-- An index that no entry takes. -/
def freeAt (f : Faults) (i : Nat) : Bool := !f.log.any (·.1 == i)

theorem freeAt_iff {f : Faults} {i : Nat} : freeAt f i = true ↔ ∀ e ∈ f.log, e.1 ≠ i := by simp [freeAt]

theorem freeAt_taken {f : Faults} {i : Nat} : freeAt f i = false ↔ ∃ e ∈ f.log, e.1 = i := by simp [freeAt]

/-- A new entry takes the lowest free index. -/
theorem newEntry_free {f : Faults} {i : Nat} (o : Occurrence) (cls : Nat) (x : Bool) (hi : i < 128)
    (hbelow : ∀ j < i, freeAt f j = false) (hfree : freeAt f i = true) :
    f.newEntry o cls x = { f with log := Sparse.insert f.log i (entryOf f o cls x), nextLsn := f.nextLsn + 1 } := by
  have hfind : (List.range 128).find? (freeAt f) = some i :=
    List.find?_range_eq_some.2 ⟨hfree, List.mem_range.2 hi, fun j hj => by simp [hbelow j hj]⟩
  unfold freeAt at hfind
  unfold Faults.newEntry
  rw [hfind]
  rfl

theorem find?_full {f : Faults} (h : ∀ i < 128, freeAt f i = false) : (List.range 128).find? (freeAt f) = none :=
  List.find?_eq_none.2 fun i hi => by simp [h i (List.mem_range.1 hi)]

/-- When the log is full the new entry replaces the oldest one of a lower class without an active cause. -/
theorem newEntry_replaces {f : Faults} {i : Nat} {e : FltEntry} (o : Occurrence) (cls : Nat) (x : Bool) (hfull : ∀ i < 128, freeAt f i = false)
    (hold : pickLsn false f.log (fun y => y.cls < cls && !y.active) = some (i, e)) :
    f.newEntry o cls x = { f with log := Sparse.insert f.log i (entryOf f o cls x), nextLsn := f.nextLsn + 1,
                                  lost := satAdd 0x3FF f.lost 1, lostMax := max f.lostMax e.cls } := by
  have hfind := find?_full hfull
  unfold freeAt at hfind
  unfold Faults.newEntry
  rw [hfind]
  dsimp only
  rw [hold]
  rfl

/-- Without such an entry the occurrence is lost. -/
theorem newEntry_lost {f : Faults} (o : Occurrence) (cls : Nat) (x : Bool) (hfull : ∀ i < 128, freeAt f i = false)
    (hnone : pickLsn false f.log (fun y => y.cls < cls && !y.active) = none) :
    f.newEntry o cls x = { f with lost := satAdd 0x3FF f.lost 1, lostMax := max f.lostMax cls } := by
  have hfind := find?_full hfull
  unfold freeAt at hfind
  unfold Faults.newEntry
  rw [hfind]
  dsimp only
  rw [hnone]

/-! ## Merging and escalating (R466) -/

/-- The class of an entry that escalates: one above the newest one, or its own when that is higher, and C4 only when its own is. -/
def escalatedClass (own cls : Nat) : Nat := min (max own (cls + 1)) (if own = 4 then 4 else 3)

section Entering
variable {f : Faults} {o : Occurrence}

/-- Without an open, unacknowledged matching entry an occurrence takes a new one. -/
theorem enter_new (ho : o.active = false) (h : ∀ e ∈ f.log, e.2.matches o = true → e.2.ack = true) :
    f.enter o = f.newEntry o o.cause.cls false := by
  have hnone : pickLsn true f.log (fun e => e.matches o && !e.ack) = none := pickLsn_none true fun e he => by
    cases hm : e.2.matches o with
    | false => rfl
    | true => simp [h e he hm]
  simp [Faults.enter, ho, hnone]

variable {i : Nat} {e : FltEntry}

theorem enter_noMerge (ho : o.active = false) (h : pickLsn true f.log (fun e => e.matches o && !e.ack) = some (i, e))
    (hesc : f.escalate = false) (hno : o.cause.noMerge = true) : f.enter o = f.newEntry o o.cause.cls false := by
  simp [Faults.enter, ho, h, hesc, hno]

/-- Under MERGE the newest matching entry counts the occurrence. -/
theorem enter_merges (ho : o.active = false) (h : pickLsn true f.log (fun e => e.matches o && !e.ack) = some (i, e))
    (hesc : f.escalate = false) (hno : o.cause.noMerge = false) :
    f.enter o = { f with log := Sparse.insert f.log i { e with count := satAdd 0xFFFF e.count 1, cls := max e.cls o.cause.cls } } := by
  simp [Faults.enter, ho, h, hesc, hno]

/-- Under ESCALATE a new entry is entered, marked when its class is above its own. -/
theorem enter_escalates (ho : o.active = false) (h : pickLsn true f.log (fun e => e.matches o && !e.ack) = some (i, e))
    (hesc : f.escalate = true) :
    f.enter o = f.newEntry o (escalatedClass o.cause.cls e.cls) (decide (o.cause.cls < escalatedClass o.cause.cls e.cls)) := by
  simp [Faults.enter, ho, h, hesc, escalatedClass]

end Entering

end Sys2Proof.Laws

namespace Sys2Proof.Proofs

open Sys2Proof Sys2Proof.Machine Sys2Proof.Laws

/-- Settles O60: MERGE and ESCALATE by the newest matching entry, and a new entry by the free index, the entry that gives way, or the loss.
That a new entry takes the lowest free index is the model's choice (log 81). -/
theorem occurrencesEnterTheLog : Obligations.OccurrencesEnterTheLog := by
  refine ⟨fun f o ho => ⟨enter_new ho, fun i e he => ⟨enter_noMerge ho he, fun hesc hno => ?_, enter_escalates ho he⟩⟩,
    fun f o c x hlog => ⟨fun i hi hbelow hfree => ?_, fun hfull hkept => ?_, fun hfull hold => ?_⟩⟩
  · rw [enter_merges ho he hesc hno]
    exact ⟨by simp [find?_insert], rfl⟩
  · rw [newEntry_free o c x hi (fun j hj => freeAt_taken.2 (hbelow j hj)) (freeAt_iff.2 hfree)]
    exact ⟨entryOf f o c x, by simp [find?_insert], rfl, rfl, rfl, rfl, rfl, rfl, rfl, rfl⟩
  · have hnone : pickLsn false f.log (fun y => y.cls < c && !y.active) = none := pickLsn_none false fun e he => by
      rcases hkept e he with h | h <;> simp [h]
    rw [newEntry_lost o c x (fun j hj => freeAt_taken.2 (hfull j hj)) hnone]
    exact ⟨rfl, rfl, rfl⟩
  · obtain ⟨y, hy, hcls, hidle⟩ := hold
    obtain ⟨⟨i, e⟩, he⟩ := Option.isSome_iff_exists.1
      (pickLsn_isSome (f := fun y => y.cls < c && !y.active) false hy (by simp [hcls, hidle]))
    obtain ⟨hmem, hsel⟩ := pickLsn_spec he
    simp only [Bool.and_eq_true, decide_eq_true_eq, Bool.not_eq_true'] at hsel
    rw [newEntry_replaces o c x (fun j hj => freeAt_taken.2 (hfull j hj)) he]
    exact ⟨rfl, i, e, find?_of_mem_log hlog hmem, hsel.1, hsel.2, entryOf f o c x, by simp [find?_insert], rfl, rfl⟩

end Sys2Proof.Proofs

/-! PROOF. FLT_CTL and the fault pins (R468 to R472, R476). -/

namespace Sys2Proof.Laws

open Sys2Proof Sys2Proof.Machine

/-! ## Entries that mismatch (R470) -/

theorem find?_map_snd {α : Type} (f : Nat × α → α) (l : List (Nat × α)) (i : Nat) :
    Sparse.find? (l.map fun e => (e.1, f e)) i = (Sparse.find? l i).map fun v => f (i, v) := by
  induction l with
  | nil => rfl
  | cons e l ih =>
    obtain ⟨j, v⟩ := e
    by_cases hi : i = j
    · simp [Sparse.find?, hi]
    · simpa [Sparse.find?, hi] using ih

/-- What the fault block reads of an entry at an index when the entries `k` mismatch. -/
def readEntry (k : List Nat) (x : Nat × FltEntry) : FltEntry := if x.1 ∈ k then x.2.corrupted else x.2

theorem corruptLog_log (k : List Nat) (s : State) : (s.corruptLog k).flt.log = s.flt.log.map fun e => (e.1, readEntry k e) :=
  List.map_congr_left fun e _ => by
    by_cases h : e.1 ∈ k <;> simp [readEntry, h]

theorem corruptLog_find? (k : List Nat) (s : State) (i : Nat) :
    Sparse.find? (s.corruptLog k).flt.log i = (Sparse.find? s.flt.log i).map fun e => readEntry k (i, e) := by
  rw [corruptLog_log, find?_map_snd]

theorem corruptLog_indices (k : List Nat) (s : State) : (s.corruptLog k).flt.log.map Prod.fst = s.flt.log.map Prod.fst := by
  rw [corruptLog_log, List.map_map]
  rfl

theorem corruptLog_none (s : State) : s.corruptLog [] = s := by simp [State.corruptLog]

/-! ## FLT_CTL (R468, R476) -/

section One
variable {f : Faults} {i : Nat}

theorem ackOne_sets {e : FltEntry} (h : Sparse.find? f.log i = some e) :
    (f.ackOne i).result = 0 ∧ Sparse.find? (f.ackOne i).log i = some { e with ack := true } := by
  simp [Faults.ackOne, h, find?_insert]

theorem ackOne_absent (h : Sparse.find? f.log i = none) : f.ackOne i = { f with result := 3 } := by simp [Faults.ackOne, h]

/-- An acknowledged entry whose cause is inactive is removed; any other stays, with the reason. -/
theorem clearOne_spec {e : FltEntry} (h : Sparse.find? f.log i = some e) :
    if e.ack = true ∧ e.active = false then Sparse.find? (f.clearOne i).log i = none ∧ (f.clearOne i).result = 0
    else Sparse.find? (f.clearOne i).log i = some e ∧ (f.clearOne i).result = if e.ack then 1 else 2 := by
  cases hack : e.ack with
  | false => simp [Faults.clearOne, h, hack]
  | true => cases hactive : e.active <;> simp [Faults.clearOne, h, hack, hactive, find?_erase]

theorem clearOne_absent (h : Sparse.find? f.log i = none) : f.clearOne i = { f with result := 3 } := by simp [Faults.clearOne, h]

end One

theorem mem_clearAll {f : Faults} {e : Nat × FltEntry} : e ∈ f.clearAll.log ↔ e ∈ f.log ∧ ¬ (e.2.ack = true ∧ e.2.active = false) := by
  simp only [Faults.clearAll, List.mem_filter, Bool.not_eq_true', Bool.and_eq_false_iff, not_and_or, Bool.not_eq_true,
    Bool.not_eq_false']
  simp

/-! ## Fault pins (R471, R472) -/

/-- What logging leaves of the state of the pins. -/
def pinPart (f : Faults) : Bool × Bool := (f.alertExt, f.fatalExt)

theorem newEntry_pins (f : Faults) (o : Occurrence) (c : Nat) (x : Bool) : pinPart (f.newEntry o c x) = pinPart f := by
  unfold Faults.newEntry
  extract_lets e
  split
  · rfl
  · split <;> rfl

theorem enter_pins (f : Faults) (o : Occurrence) : pinPart (f.enter o) = pinPart f := by
  unfold Faults.enter
  extract_lets own g
  have hg : pinPart g = pinPart f := by
    unfold g
    split <;> rfl
  clear_value g
  rw [← hg]
  split
  · exact newEntry_pins ..
  · split
    · exact newEntry_pins ..
    · split
      · exact newEntry_pins ..
      · rfl

theorem logOverflows_pins (n : Nat) (s : State) : pinPart (State.logOverflows n s).flt = pinPart s.flt := by
  induction n generalizing s with
  | zero => rfl
  | succ n ih => exact (ih _).trans (enter_pins ..)

theorem log_pins (c : Cause) (i : Nat) (s : State) (d0 d1 d2 : Nat) (a : Bool) : pinPart (s.log c i d0 d1 d2 a).flt = pinPart s.flt :=
  (logOverflows_pins ..).trans (enter_pins ..)

theorem pinChange_pins (i : Nat) (was now : Bool) (s : State) : pinPart (s.pinChange i was now).flt = pinPart s.flt := by
  unfold State.pinChange
  split
  · exact log_pins ..
  · split <;> rfl

theorem pinChange_grows (i : Nat) (was now : Bool) (s : State) : LogGrows s (s.pinChange i was now) :=
  .ite (log_grows ..) (.ite (condEnd_grows ..) (.refl s))

/-- The runs of samples and the external level of each pin after a sample. -/
def pinRuns (f : Faults) (alertLow fatalLow : Bool) : Faults :=
  let a := if f.alert then (f.alertLow, f.alertHigh, f.alertExt) else pinSample alertLow (f.alertLow, f.alertHigh, f.alertExt)
  let b := if f.fatal then (f.fatalLow, f.fatalHigh, f.fatalExt) else pinSample fatalLow (f.fatalLow, f.fatalHigh, f.fatalExt)
  { f with alertLow := a.1, alertHigh := a.2.1, alertExt := a.2.2, fatalLow := b.1, fatalHigh := b.2.1, fatalExt := b.2.2 }

/-- The state after a sample of both pins, before what it reports. -/
def pinsSampled (s : State) (x y : Bool) : State := { s with flt := pinRuns s.flt x y }

theorem execPinReadback_eq (x y : Bool) (s : State) : exec (.pinReadback x y) s =
    .next (((pinsSampled s x y).pinChange 0 s.flt.alertExt (pinRuns s.flt x y).alertExt).pinChange 1 s.flt.fatalExt
      (pinRuns s.flt x y).fatalExt) := rfl

theorem pinReadback_pins (x y : Bool) (s : State) :
    ∃ t, exec (.pinReadback x y) s = .next t ∧ t.flt.alertExt = (pinRuns s.flt x y).alertExt ∧
      t.flt.fatalExt = (pinRuns s.flt x y).fatalExt :=
  ⟨_, execPinReadback_eq x y s, Prod.mk.inj ((pinChange_pins ..).trans (pinChange_pins ..))⟩

theorem pinsSampled_grows (s : State) (x y : Bool) : LogGrows s (pinsSampled s x y) :=
  ⟨fun hs => ⟨hs, .inl (Nat.le_refl _), fun _ _ _ => .inl⟩⟩

/-- A pin that comes to be held low externally is logged. -/
theorem pinChange_logged {i : Nat} {s u t : State} (hs : logsOk s) (h : LogGrows s u) (hu : logsOk u)
    (k : LogGrows (u.pinChange i false true) t) : Logged .pinReadback i s t :=
  log_logged 0 0 0 true hs h hu k

section Released
variable {f : Faults}

theorem pinRuns_alert_low (y : Bool) (h : f.alert = false) (hrun : 2 ≤ f.alertLow) : (pinRuns f true y).alertExt = true := by
  have hthree : 3 ≤ f.alertLow + 1 := by omega
  simp [pinRuns, h, pinSample, hthree]

theorem pinRuns_fatal_low (x : Bool) (h : f.fatal = false) (hrun : 2 ≤ f.fatalLow) : (pinRuns f x true).fatalExt = true := by
  have hthree : 3 ≤ f.fatalLow + 1 := by omega
  simp [pinRuns, h, pinSample, hthree]

theorem pinRuns_alert_high (y : Bool) (h : f.alert = false) (hrun : 15 ≤ f.alertHigh) : (pinRuns f false y).alertExt = false := by
  have hlong : ¬ f.alertHigh + 1 < 16 := by omega
  simp [pinRuns, h, pinSample, hlong]

theorem pinRuns_fatal_high (x : Bool) (h : f.fatal = false) (hrun : 15 ≤ f.fatalHigh) : (pinRuns f x false).fatalExt = false := by
  have hlong : ¬ f.fatalHigh + 1 < 16 := by omega
  simp [pinRuns, h, pinSample, hlong]

end Released

end Sys2Proof.Laws

/-! PROOF. O16: FLT_CTL acts on the fault log, and fault pins are read back. -/

namespace Sys2Proof.Proofs

open Sys2Proof Sys2Proof.Machine Sys2Proof.Laws

/-- ACK acknowledges the entry at the path's index (R468), after entries that mismatch have been marked (R470). -/
theorem fltAck_acknowledges {p : Path} (k : List Nat) (s : State) (hp : p ≠ .bar2) : let i := s.flt.idx.get p
    ∃ t, exec (.fltAck p k) s = .next t ∧
      (∀ e, Sparse.find? s.flt.log i = some e → t.flt.result = 0 ∧
        Sparse.find? t.flt.log i = some { (if i ∈ k then e.corrupted else e) with ack := true }) ∧
      (Sparse.find? s.flt.log i = none → t.flt.result = 3 ∧ t.flt.log.map Prod.fst = s.flt.log.map Prod.fst) := by
  intro i
  refine ⟨(s.corruptLog k).modFlt fun f => f.ackOne i, if_neg (by simpa using hp), fun e he => ackOne_sets ?_, fun he => ?_⟩
  · rw [corruptLog_find?, he]
    rfl
  · have habsent : (s.corruptLog k).flt.ackOne i = { (s.corruptLog k).flt with result := 3 } :=
      ackOne_absent (by rw [corruptLog_find?, he]; rfl)
    exact ⟨congrArg Faults.result habsent, (congrArg (fun f => f.log.map Prod.fst) habsent).trans (corruptLog_indices k s)⟩

/-- CLEAR removes the entry, or refuses with the reason (R468). -/
theorem fltClear_removes {p : Path} (k : List Nat) (s : State) (hp : p ≠ .bar2) : let i := s.flt.idx.get p
    ∃ t, exec (.fltClear p k) s = .next t ∧
      (∀ e, Sparse.find? s.flt.log i = some e → let e' := if i ∈ k then e.corrupted else e
        if e'.ack = true ∧ e'.active = false then Sparse.find? t.flt.log i = none ∧ t.flt.result = 0
        else Sparse.find? t.flt.log i = some e' ∧ t.flt.result = if e'.ack then 1 else 2) ∧
      (Sparse.find? s.flt.log i = none → t.flt.result = 3 ∧ t.flt.log.map Prod.fst = s.flt.log.map Prod.fst) := by
  intro i
  refine ⟨(s.corruptLog k).modFlt fun f => f.clearOne i, if_neg (by simpa using hp), fun e he => ?_, fun he => ?_⟩
  · have hread : Sparse.find? (s.corruptLog k).flt.log i = some (if i ∈ k then e.corrupted else e) := by
      rw [corruptLog_find?, he]
      rfl
    exact clearOne_spec hread
  · have habsent : (s.corruptLog k).flt.clearOne i = { (s.corruptLog k).flt with result := 3 } :=
      clearOne_absent (by rw [corruptLog_find?, he]; rfl)
    exact ⟨congrArg Faults.result habsent, (congrArg (fun f => f.log.map Prod.fst) habsent).trans (corruptLog_indices k s)⟩

/-- ACK_ALL acknowledges every entry and moves none. -/
theorem fltAckAll_acknowledges (k : List Nat) (s : State) :
    ∃ t, exec (.fltAckAll k) s = .next t ∧ t.flt.log.map Prod.fst = s.flt.log.map Prod.fst ∧ ∀ e ∈ t.flt.log, e.2.ack = true := by
  refine ⟨(s.corruptLog k).modFlt Faults.ackAll, rfl, ?_, fun e he => ?_⟩
  · exact (List.map_map ..).trans (corruptLog_indices k s)
  · obtain ⟨x, -, rfl⟩ := List.mem_map.1 he
    rfl

/-- CLEAR_ALL removes the acknowledged entries without an active cause. -/
theorem fltClearAll_removes (s : State) : ∃ t, exec (.fltClearAll []) s = .next t ∧
    ∀ e, e ∈ t.flt.log ↔ e ∈ s.flt.log ∧ ¬ (e.2.ack = true ∧ e.2.active = false) := by
  refine ⟨(s.corruptLog []).modFlt Faults.clearAll, rfl, fun e => ?_⟩
  rw [corruptLog_none]
  exact mem_clearAll

/-- The third low sample in a row of a released ALERT_L holds it low externally (R472), which is logged. -/
theorem alert_held_low (y : Bool) {s : State} (h : s.flt.alert = false) (hrun : 2 ≤ s.flt.alertLow) :
    ∃ t, exec (.pinReadback true y) s = .next t ∧ t.flt.alertExt = true ∧
      (s.flt.alertExt = false → logsOk s → Logged .pinReadback 0 s t) := by
  have hlow := pinRuns_alert_low y h hrun
  obtain ⟨t, ht, halert, -⟩ := pinReadback_pins true y s
  refine ⟨t, ht, halert.trans hlow, fun hwas hs => ?_⟩
  obtain rfl := Host.Outcome.next.inj ((execPinReadback_eq ..).symm.trans ht)
  rw [hwas, hlow]
  exact pinChange_logged hs (pinsSampled_grows ..) hs (pinChange_grows ..)

/-- So does that of FATAL_L. -/
theorem fatal_held_low (x : Bool) {s : State} (h : s.flt.fatal = false) (hrun : 2 ≤ s.flt.fatalLow) :
    ∃ t, exec (.pinReadback x true) s = .next t ∧ t.flt.fatalExt = true ∧
      (s.flt.fatalExt = false → logsOk s → Logged .pinReadback 1 s t) := by
  have hlow := pinRuns_fatal_low x h hrun
  obtain ⟨t, ht, -, hfatal⟩ := pinReadback_pins x true s
  refine ⟨t, ht, hfatal.trans hlow, fun hwas hs => ?_⟩
  obtain rfl := Host.Outcome.next.inj ((execPinReadback_eq ..).symm.trans ht)
  rw [hwas, hlow]
  exact pinChange_logged hs ((pinsSampled_grows ..).trans (pinChange_grows ..))
    ((pinChange_keeps _ _ _ _ (.refl (pinsSampled s x true))).logs hs) (.refl _)

/-- The sixteenth high sample in a row ends either (R472). -/
theorem alert_released (y : Bool) {s : State} (h : s.flt.alert = false) (hrun : 15 ≤ s.flt.alertHigh) :
    ∃ t, exec (.pinReadback false y) s = .next t ∧ t.flt.alertExt = false := by
  obtain ⟨t, ht, halert, -⟩ := pinReadback_pins false y s
  exact ⟨t, ht, halert.trans (pinRuns_alert_high y h hrun)⟩

theorem fatal_released (x : Bool) {s : State} (h : s.flt.fatal = false) (hrun : 15 ≤ s.flt.fatalHigh) :
    ∃ t, exec (.pinReadback x false) s = .next t ∧ t.flt.fatalExt = false := by
  obtain ⟨t, ht, -, hfatal⟩ := pinReadback_pins x false s
  exact ⟨t, ht, hfatal.trans (pinRuns_fatal_high x h hrun)⟩

/-- Settles O16: the actions by what they do to the entry at an index or to every entry, the pins by the runs of their samples. That these
commands find the entries that mismatch is the model's choice (log 182). -/
theorem faultLogActions : Obligations.FaultLogActions :=
  ⟨fun _ k s => fltAck_acknowledges k s, fun _ k s => fltClear_removes k s, fltAckAll_acknowledges, fltClearAll_removes,
    fun _ _ => ⟨_, rfl, fun _ he => (mem_clearAll.1 he).2⟩, fun _ => ⟨_, rfl, rfl⟩, fun y _ => alert_held_low y, fun x _ => fatal_held_low x,
    fun y _ => alert_released y, fun x _ => fatal_released x⟩

end Sys2Proof.Proofs

/-! PROOF. OTP: on-demand reads, the end of a word operation, pulses and audits (R500 to R505, R510 to R512). -/

namespace Sys2Proof.Laws

open Sys2Proof Sys2Proof.Machine

/-! ## What the OTP block's own work leaves alone -/

/-- What the work of the OTP block may write. -/
def otpWork : Writes := { flt := true, cnt := true, otp := true }

theorem ctx_of_only {m : Writes} {s t : State} (h : Only m s t) (hm : m.ctxs = false) (n : Nat) : t.ctx n = s.ctx n :=
  congrArg (fun l => Sparse.get ({} : Ctx) l n) (h.ctxs.resolve_left (by simp [hm]))

/-! ## On-demand reads (R500, R512) -/

/-- The value and complement halves of a word at a reference: 0 normal, 1 margin-low, and margin-high. -/
def refHalves (f : Fuse) (ref : Nat) : Word × Word :=
  match ref with
  | 0 => (f.nv, f.nc)
  | 1 => (f.lv, f.lc)
  | _ => (f.hv, f.hc)

/-- What the read registers of a path show. -/
def readRegs (o : Otp) (p : Path) : Nat × Nat := (o.rdVal.get p, o.rdComp.get p)

theorem otpRead_shows {p : Path} (hp : p ≠ .bar2) (w ref : Nat) (s : State) :
    readRegs (s.otpRead p w ref).otp p = ((refHalves (s.fuse w) ref).1.toNat, (refHalves (s.fuse w) ref).2.toNat) := by
  have hcopy (v c : Word) (f : Otp → Otp) (hval : ∀ o, (f o).rdVal = o.rdVal.put p v.toNat) (hcomp : ∀ o, (f o).rdComp = o.rdComp.put p c.toNat) :
      readRegs (s.modOtp f).otp p = (v.toNat, c.toNat) := by
    simp only [readRegs, modOtp_otp, hval, hcomp]
    cases p <;> rfl
  match ref with
  | 0 => exact hcopy _ _ _ (fun _ => rfl) fun _ => rfl
  | 1 => exact hcopy _ _ _ (fun _ => rfl) fun _ => rfl
  | _ + 2 => exact hcopy _ _ _ (fun _ => rfl) fun _ => rfl

/-- An on-demand read that no word operation holds up is made at once. -/
theorem otpRead_now {p : Path} {v : Word} {s : State} (hp : p ≠ .bar2) (href : bits v.toNat 29 28 < 3) (hburn : s.otp.burn = none) :
    ∃ t, exec (.otpRead p v) s = .next t ∧
      readRegs t.otp p = ((refHalves (s.fuse (v.toNat % 2048)) (bits v.toNat 29 28)).1.toNat,
        (refHalves (s.fuse (v.toNat % 2048)) (bits v.toNat 29 28)).2.toNat) := by
  show ∃ t, execOtpRead p v s = .next t ∧ _
  unfold execOtpRead
  extract_lets n put u
  rw [if_neg (by simpa using hp), if_neg (show ¬ bits n 29 28 = 3 from href.ne), if_neg (show ¬ u.otp.burn.isSome = true by simp [u, hburn])]
  exact ⟨_, rfl, otpRead_shows hp ..⟩

/-- A fourth reference does not exist: such a write is ignored and logged. -/
theorem otpRead_ignored {p : Path} {v : Word} {s : State} (hp : p ≠ .bar2) (href : bits v.toNat 29 28 = 3) :
    exec (.otpRead p v) s = .next s.writeIgnored :=
  (if_neg (by simpa using hp)).trans (if_pos href)

/-! ## The end of a word operation (R501, R504, R506, R514) -/

/-- A word operation that ends answers the FUSE_PROGRAM that asked for it. -/
theorem burnEnd_answered {b : Burn} {n : Nat} {d : Desc} {s : State} (howner : b.owner = some (n, d.seq)) (hd : d ∈ (s.ctx n).acc)
    (hp : d.phase ≠ .done) (st : Nat) : Answered n d.seq st (s.burnEnd b st) := by
  unfold State.burnEnd
  extract_lets s1 s2 ok s3 s4
  have h1 : Only otpWork s s1 := serveReads_writes _ (modOtp_writes _ s (Only.refl _ s) rfl) rfl
  have h2 : Only otpWork s s2 := Only.ite (log_writes _ _ _ _ _ _ _ h1 rfl rfl) h1
  have h3 : Only otpWork s s3 := Only.ite (log_writes _ _ _ _ _ _ _ h2 rfl rfl) h2
  have h4 : Only otpWork s s4 := Only.ite (modOtp_writes _ _ h3 rfl) h3
  rw [howner]
  exact finish_answered (ctx_of_only h4 rfl n ▸ hd) hp ..

/-! ## Pulses (R503 to R505) -/

/-- The state when a pulse has ended: what the rails show, and the fuse set when it took. -/
def pulseRead (took r v : Bool) (b : Burn) (s : State) : State :=
  let u := s.modOtp fun o => { o with rails := r, vfuse := v }
  if took then u.modOtp fun o => { o with fuses := Sparse.modify {} o.fuses b.word fun f => f.set b.bitNo } else u

/-- A word operation with one more pulse. -/
def countPulse (b : Burn) : Burn := { b with pulses := b.pulses + 1, tries := b.tries + 1 }

/-- The same fuse is pulsed again. -/
def pulseAgain (b : Burn) (s : State) : State := s.modOtp fun o => { o with burn := some { b with pulseEnd := s.now + o.pulseCk } }

/-- The window as the rails and the sensors show it (R503). -/
def railWindow (r : Bool) (s : State) : Bool := (s.modOtp fun o => { o with rails := r }).otpWindow

theorem pulseRead_window (took r v : Bool) (b : Burn) (s : State) : (pulseRead took r v b s).otpWindow = railWindow r s := by
  cases took <;> rfl

theorem pulseRead_ctx (took r v : Bool) (b : Burn) (s : State) (n : Nat) : (pulseRead took r v b s).ctx n = s.ctx n := by
  cases took <;> rfl

theorem pulseRead_fuse (r v : Bool) (b : Burn) (s : State) :
    (pulseRead true r v b s).fuse b.word = (s.fuse b.word).set b.bitNo := by
  simp [pulseRead, State.fuse]

section Pulse
variable {took r v : Bool} {s : State} {b : Burn} (hburn : s.otp.burn = some b) (hdue : b.pulseEnd ≤ s.now) (hstop : b.stop = false)
include hburn hdue hstop

/-- The ways a pulse of an operation that goes on can end. -/
theorem execOtpPulseEnd_eq : let u := pulseRead took r v b s
    exec (.otpPulseEnd took r v) s = if (!took && 4 ≤ (countPulse b).tries) = true then .next (u.burnEnd (countPulse b) 0x0074)
      else if ((u.fuse b.word).nextBit b.target b.bitNo).isSome && !u.otpWindow then .next (u.burnEnd (countPulse b) 0x0072)
      else if took then .next (u.burnGo (countPulse b))
      else .next (pulseAgain (countPulse b) u) := by
  show execOtpPulseEnd took r v s = _
  unfold execOtpPulseEnd
  rw [hburn]
  dsimp only
  rw [if_neg (Nat.not_lt.2 hdue), if_neg (by simp [hstop])]
  rfl

/-- A pulse that did not take is tried again (R504). -/
theorem otpPulseEnd_retries (htries : b.tries < 3) (hwin : railWindow r s = true) :
    ∃ t, exec (.otpPulseEnd false r v) s = .next t ∧ t.otp.fuses = s.otp.fuses ∧ t.otp.burn =
      some { b with pulses := b.pulses + 1, tries := b.tries + 1, pulseEnd := s.now + if v then 16000 else 80000 } := by
  refine ⟨pulseAgain (countPulse b) (pulseRead false r v b s), ?_, rfl, rfl⟩
  rw [execOtpPulseEnd_eq hburn hdue hstop, if_neg (by simp [countPulse]; omega), if_neg (by simp [pulseRead_window, hwin]),
    if_neg Bool.false_ne_true]

/-- One that took sets its fuse, and the next fuse is pulsed (R504). -/
theorem otpPulseEnd_advances {k : Nat} (hwin : railWindow r s = true)
    (hnext : ((s.fuse b.word).set b.bitNo).nextBit b.target b.bitNo = some k) :
    ∃ t, exec (.otpPulseEnd true r v) s = .next t ∧ t.fuse b.word = (s.fuse b.word).set b.bitNo ∧
      t.otp.burn = some { b with pulses := b.pulses + 1, bitNo := k, tries := 0, pulseEnd := s.now + if v then 16000 else 80000 } := by
  have hgo : ((pulseRead true r v b s).fuse (countPulse b).word).nextBit (countPulse b).target (countPulse b).bitNo = some k :=
    (congrArg (Fuse.nextBit · b.target b.bitNo) (pulseRead_fuse r v b s)).trans hnext
  refine ⟨(pulseRead true r v b s).burnGo (countPulse b), ?_, ?_⟩
  · rw [execOtpPulseEnd_eq hburn hdue hstop, if_neg (by simp), if_neg (by simp [pulseRead_window, hwin]), if_pos rfl]
  · unfold State.burnGo
    dsimp only
    rw [hgo]
    exact ⟨pulseRead_fuse r v b s, rfl⟩

variable {n : Nat} {d : Desc} (howner : b.owner = some (n, d.seq)) (hd : d ∈ (s.ctx n).acc) (hp : d.phase ≠ .done)
include howner hd hp

/-- The fourth pulse that did not take ends the word (R504). -/
theorem otpPulseEnd_fails (htries : 3 ≤ b.tries) :
    ∃ t, exec (.otpPulseEnd false r v) s = .next t ∧ Answered n d.seq 0x0074 t := by
  refine ⟨(pulseRead false r v b s).burnEnd (countPulse b) 0x0074, ?_, burnEnd_answered (b := countPulse b) howner ?_ hp _⟩
  · rw [execOtpPulseEnd_eq hburn hdue hstop, if_pos (by simp [countPulse]; omega)]
  · rwa [pulseRead_ctx]

/-- Outside the window no further pulse is made (R503). -/
theorem otpPulseEnd_outside {k : Nat} (hnext : ((s.fuse b.word).set b.bitNo).nextBit b.target b.bitNo = some k) :
    ∃ t, exec (.otpPulseEnd true false v) s = .next t ∧ Answered n d.seq 0x0072 t := by
  have hout : railWindow false s = false := rfl
  refine ⟨(pulseRead true false v b s).burnEnd (countPulse b) 0x0072, ?_, burnEnd_answered (b := countPulse b) howner ?_ hp _⟩
  · rw [execOtpPulseEnd_eq hburn hdue hstop, if_neg (by simp), if_pos (by simp [pulseRead_window, pulseRead_fuse, hnext, hout])]
  · rwa [pulseRead_ctx]

end Pulse

/-! ## Audits (R510, R511) -/

theorem keepOverride_lastAudit (w : Nat) (v : Word) (s : State) : (s.keepOverride w v).otp.lastAudit = s.otp.lastAudit := by
  unfold State.keepOverride
  split
  · rfl
  · rw [log_otp]

theorem auditWord_lastAudit (w : Nat) (after : Option OtpReads) (s : State) : (s.auditWord w after).otp.lastAudit = s.otp.lastAudit := by
  unfold State.auditWord
  extract_lets f last u r w1
  split
  · rfl
  · split
    · rw [log_otp]
      rfl
    · extract_lets may
      have hlast : u.otp.lastAudit = s.otp.lastAudit := by
        unfold u
        rw [log_otp]
        rfl
      have hread : w1.otp.lastAudit = u.otp.lastAudit := by
        unfold w1
        cases after with
        | none => rfl
        | some x => dsimp only; split <;> rfl
      clear_value w1 u
      split
      · split
        · rw [log_otp, hread, hlast]
        · rw [keepOverride_lastAudit, hread, hlast]
      · rw [keepOverride_lastAudit, hlast]

/-- An audit records its time. -/
theorem audit_lastAudit (reads after : List (Nat × OtpReads)) (s : State) : (s.audit reads after).otp.lastAudit = s.now := by
  unfold State.audit
  extract_lets u w
  have hset : w.otp.lastAudit = s.now := rfl
  generalize w.otp.fuses.map (·.1) = l
  clear_value w
  induction l generalizing w with
  | nil => exact hset
  | cons x l ih => exact ih _ ((auditWord_lastAudit ..).trans hset)

end Sys2Proof.Laws

/-! PROOF. O17: OTP is read, pulsed and audited. -/

namespace Sys2Proof.Proofs

open Sys2Proof Sys2Proof.Machine Sys2Proof.Laws

/-- The read registers by the reference asked for (R512). -/
theorem otpRead_by_reference {p : Path} {v : Word} {s : State} (hp : p ≠ .bar2) (href : bits v.toNat 29 28 < 3)
    (hburn : s.otp.burn = none) : ∃ t, exec (.otpRead p v) s = .next t ∧
      let f := s.fuse (v.toNat % 2048)
      (bits v.toNat 29 28 = 0 → t.otp.rdVal.get p = f.nv.toNat ∧ t.otp.rdComp.get p = f.nc.toNat) ∧
      (bits v.toNat 29 28 = 1 → t.otp.rdVal.get p = f.lv.toNat ∧ t.otp.rdComp.get p = f.lc.toNat) ∧
      (bits v.toNat 29 28 = 2 → t.otp.rdVal.get p = f.hv.toNat ∧ t.otp.rdComp.get p = f.hc.toNat) := by
  obtain ⟨t, ht, hregs⟩ := otpRead_now hp href hburn
  refine ⟨t, ht, fun h => ?_, fun h => ?_, fun h => ?_⟩ <;> rw [h] at hregs <;> exact Prod.mk.inj hregs

theorem auditTimer_audits {s : State} (reads after : List (Nat × OtpReads)) (hmode : s.pwr.mode ≠ .save)
    (hdue : s.otp.lastAudit + 138240000000000 ≤ s.now ∨ ∃ h, s.hottest true = some h ∧ 80 ≤ (h.1 - s.otp.auditTemp).natAbs) :
    ∃ t, exec (.auditTimer reads after) s = .next t ∧ t.otp.lastAudit = s.now := by
  refine ⟨_, if_pos ?_, audit_lastAudit ..⟩
  rcases hdue with h | ⟨x, hx, h⟩
  · simp [hmode, h]
  · simp [hmode, hx, h]

/-- Settles O17: the reads by their reference, a pulse by the ways it can end, and the audits by the time they record. That a read and an audit
are one command each, and that the move of 10 °C comes by AUDIT_TIMER, are the model's choices (log 70, 71), and their durations are
left out (log 188). -/
theorem fusesReadAndPulse : Obligations.FusesReadAndPulse := by
  refine ⟨fun _ _ _ => otpRead_by_reference, fun p v s hp href => ?_, fun v s b hburn hdue hstop htries hwin => ?_,
    fun v s b k hburn hdue hstop hwin hnext => otpPulseEnd_advances hburn hdue hstop hwin hnext,
    fun x r v s b n q d hburn hdue hstop howner hd hq hp => ⟨?_, ?_⟩, fun p r a s hp hmode => ?_,
    fun r a s hmode hdue => auditTimer_audits r a hmode (.inl hdue), fun r a s h hmode hx hmove => auditTimer_audits r a hmode (.inr ⟨h, hx, hmove⟩),
    fun x r v a b s => ⟨fun hburn => ?_, fun hmode => ⟨?_, fun p => ?_⟩⟩⟩
  · exact ⟨_, otpRead_ignored hp href, log_otp .., writeIgnored_logged s⟩
  · exact otpPulseEnd_retries hburn hdue hstop htries hwin
  · rintro rfl htries
    subst hq
    exact otpPulseEnd_fails hburn hdue hstop howner hd hp htries
  · rintro rfl k hnext
    subst hq
    exact otpPulseEnd_outside hburn hdue hstop howner hd hp hnext
  · exact ⟨_, if_neg (by simp [hp, hmode]), audit_lastAudit ..⟩
  · show execOtpPulseEnd x r v s = _
    unfold execOtpPulseEnd
    rw [hburn]
  · exact if_neg (by simp [hmode])
  · exact if_pos (by simp [hmode])

end Sys2Proof.Proofs

/-! PROOF. PATCH_TABLE and FUSE_PROGRAM (R500 to R504, R508, R509). -/

namespace Sys2Proof.Laws

open Sys2Proof Sys2Proof.Machine

/-! ## FUSE_PROGRAM (R501 to R504) -/

/-- The state with what the monitors show of the rails. -/
def railsShown (r v : Bool) (s : State) : State := s.modOtp fun o => { o with rails := r, vfuse := v }

/-- The word operation that a FUSE_PROGRAM begins. -/
def wordBurn (n : Nat) (d : Desc) : Burn :=
  { word := d.u32 0x10, target := targetOf (BitVec.ofNat 32 (d.u32 0x18)), owner := some (n, d.seq) }

/-- The word holds its target at the references that a verify reads. -/
def holdsTarget (f : Fuse) (target : BitVec 64) : Bool := f.normal == target && f.low == target

theorem holdsTarget_iff (f : Fuse) (target : BitVec 64) : holdsTarget f target = true ↔ f.normal = target ∧ f.low = target := by
  simp [holdsTarget]

/-- The state in which a word operation begins: the rails are shown and the descriptor is under way. -/
def burnBegins (n : Nat) (d : Desc) (r v : Bool) (s : State) : State :=
  (railsShown r v s).modDesc n d.seq fun d => { d with phase := .started }

section Fuse
variable {n : Nat} {r v : Bool} {s : State} {d : Desc} (hd : s.startable n 0x49 = some d)
include hd

/-- FUSE_PROGRAM waits while a word operation runs (R500). -/
theorem fuseProgram_waits (hburn : s.otp.burn.isSome = true) : exec (.fuseProgram n r v) s = .next s := by
  show execFuseProgram n r v s = _
  unfold execFuseProgram
  rw [hd]
  exact if_pos hburn

/-- Its checks in their order, and the operation that begins when all pass. -/
theorem execFuseProgram_eq (hburn : s.otp.burn = none) : exec (.fuseProgram n r v) s =
    if (s.fuseCheck d != 0) = true then .next ((railsShown r v s).finish n d.seq (s.fuseCheck d))
    else if holdsTarget (s.fuse (wordBurn n d).word) (wordBurn n d).target then .next ((railsShown r v s).finish n d.seq 0)
    else if !railWindow r s then .next ((railsShown r v s).finish n d.seq 0x0072)
    else .next ((burnBegins n d r v s).burnGo (wordBurn n d)) := by
  show execFuseProgram n r v s = _
  unfold execFuseProgram
  rw [hd]
  dsimp only
  rw [if_neg (by simp [hburn])]
  rfl

/-- A check that ends the command gives its status and programs nothing. -/
theorem fuseProgram_ends (st : Nat) :
    Answered n d.seq st ((railsShown r v s).finish n d.seq st) ∧ ((railsShown r v s).finish n d.seq st).otp.fuses = s.otp.fuses := by
  obtain ⟨hmem, hphase, -⟩ := startable_spec hd
  exact ⟨finish_answered (s := railsShown r v s) hmem (by simp [hphase]) st 0 0, by rw [finish_otp]; rfl⟩

/-- With no fuse left to pulse, a word that does not hold its target has failed (R504). -/
theorem burnBegins_fails (hholds : holdsTarget (s.fuse (wordBurn n d).word) (wordBurn n d).target = false)
    (hnext : (s.fuse (wordBurn n d).word).nextBit (wordBurn n d).target 0 = none) :
    Answered n d.seq 0x0074 ((burnBegins n d r v s).burnGo (wordBurn n d)) := by
  obtain ⟨hmem, -, -⟩ := startable_spec hd
  have hfuse : (burnBegins n d r v s).fuse (wordBurn n d).word = s.fuse (wordBurn n d).word := rfl
  have hstarted : { d with phase := .started } ∈ ((burnBegins n d r v s).ctx n).acc := by
    unfold burnBegins State.modDesc
    rw [ctx_modCtx_same]
    exact List.mem_map.2 ⟨d, hmem, by simp⟩
  unfold State.burnGo
  rw [hfuse]
  dsimp only
  rw [show (wordBurn n d).bitNo = 0 from rfl, hnext]
  unfold holdsTarget at hholds
  rw [hholds]
  exact burnEnd_answered (b := wordBurn n d) (d := { d with phase := .started }) rfl hstarted (by simp) _

/-- The first fuse to be set is pulsed (R503, R504). -/
theorem burnBegins_pulses {k : Nat} (hnext : (s.fuse (wordBurn n d).word).nextBit (wordBurn n d).target 0 = some k) :
    Begun n d.seq ((burnBegins n d r v s).burnGo (wordBurn n d)) ∧ ((burnBegins n d r v s).burnGo (wordBurn n d)).otp.burn =
      some { wordBurn n d with bitNo := k, pulseEnd := s.now + if v then 16000 else 80000 } := by
  obtain ⟨hmem, -, -⟩ := startable_spec hd
  have hfuse : (burnBegins n d r v s).fuse (wordBurn n d).word = s.fuse (wordBurn n d).word := rfl
  unfold State.burnGo
  rw [hfuse]
  dsimp only
  rw [show (wordBurn n d).bitNo = 0 from rfl, hnext]
  exact ⟨modDesc_begun (s := railsShown r v s) hmem _ rfl rfl, rfl⟩

end Fuse

/-! ## PATCH_TABLE (R508, R509) -/

/-- One entry of a row repair enters the patch store; a darn entry leaves the store as it is. -/
theorem patchEntry_rowPatches (w v : Nat) (s : State) : (s.patchEntry w v).otp.rowPatches =
    if otpRegion w = 1 then s.otp.rowPatches else Sparse.insert s.otp.rowPatches w (BitVec.ofNat 32 v) := by
  unfold State.patchEntry
  split
  · have hdarns (ch e1 e2 c1 c2 : Nat) : Only { chans := true, flt := true, cnt := true } s
        ((s.applyDarn ch e1 c1 true).applyDarn ch e2 c2 true) :=
      applyDarn_writes _ _ _ _ _ (applyDarn_writes _ _ _ _ _ (Only.refl _ s) rfl rfl rfl) rfl rfl rfl
    exact congrArg Otp.rowPatches ((hdarns ..).otp.resolve_left Bool.false_ne_true)
  · rfl

/-- The first `k` entries of a table applied in order. -/
def patched (b : List Byte) (k : Nat) (s : State) : State :=
  (List.range k).foldl (fun s i => s.patchEntry (leAt b (16 * i) 4) (leAt b (16 * i + 8) 4)) s

theorem patched_succ (b : List Byte) (k : Nat) (s : State) :
    patched b (k + 1) s = (patched b k s).patchEntry (leAt b (16 * k) 4) (leAt b (16 * k + 8) 4) := by
  simp [patched, List.range_succ]

theorem patched_writes (b : List Byte) (k : Nat) (s : State) :
    Only { chans := true, flt := true, cnt := true, otp := true } s (patched b k s) :=
  Only.foldl (Only.refl _ s) fun _ _ h => patchEntry_writes _ _ _ h rfl rfl rfl rfl

/-- Entries for distinct words each hold their value in the store (R509). -/
theorem patched_rowPatches (b : List Byte) (k : Nat) (s : State)
    (hdistinct : ∀ i < k, ∀ j < i, leAt b (16 * j) 4 ≠ leAt b (16 * i) 4) :
    ∀ i < k, otpRegion (leAt b (16 * i) 4) = 2 →
      Sparse.find? (patched b k s).otp.rowPatches (leAt b (16 * i) 4) = some (BitVec.ofNat 32 (leAt b (16 * i + 8) 4)) := by
  induction k with
  | zero => intro i hi; omega
  | succ k ih =>
    intro i hi hrow
    rw [patched_succ, patchEntry_rowPatches]
    rcases Nat.lt_succ_iff_lt_or_eq.1 hi with hlt | rfl
    · have hheld := ih (fun i hi => hdistinct i (by omega)) i hlt hrow
      split
      · exact hheld
      · rw [find?_insert, if_neg (hdistinct k (by omega) i hlt)]
        exact hheld
    · rw [if_neg (by omega), find?_insert, if_pos rfl]

/-- A valid entry names a word that no entry before it names. -/
theorem patchValid_distinct {s : State} {b : List Byte} {i : Nat} (h : s.patchValid b i = true) :
    ∀ j < i, leAt b (16 * j) 4 ≠ leAt b (16 * i) 4 := by
  simp only [State.patchValid, Bool.and_eq_true, List.all_eq_true, List.mem_range, bne_iff_ne, Nat.add_zero] at h
  exact h.2

/-- The operands of PATCH_TABLE have a form that R508 refuses. -/
def patchFieldBad (d : Desc) : Bool :=
  d.u64 0x10 % 16 != 0 || !isComp 32 (d.u32 0x18) (d.u32 0x1C) || d.u32 0x18 = 0 || d.u32 0x18 > 256 || !d.zero 0x20 0x40

theorem patchFieldBad_iff (d : Desc) : patchFieldBad d = true ↔ d.u64 0x10 % 16 ≠ 0 ∨ isComp 32 (d.u32 0x18) (d.u32 0x1C) = false ∨
    d.u32 0x18 = 0 ∨ 256 < d.u32 0x18 ∨ d.zero 0x20 0x40 = false := by
  simp [patchFieldBad, or_assoc]

/-- The state in which the read of the table has left. -/
def tableRead (d : Desc) (s : State) : State := s.hostRead (d.u64 0x10) (16 * d.u32 0x18)

section Patch
variable {n : Nat} {f : Fetch} {s : State} {d : Desc} (hd : s.startable n 0x48 = some d)
include hd

theorem execPatchTable_refused (hbad : patchFieldBad d = true) : exec (.patchTable n f) s = .next (s.finish n d.seq 0x0012) := by
  show execPatchTable n f s = _
  unfold execPatchTable
  rw [hd]
  exact if_pos hbad

theorem execPatchTable_waits (hbad : patchFieldBad d = false) (hup : s.hostUp = false) : exec (.patchTable n f) s = .next s := by
  show execPatchTable n f s = _
  unfold execPatchTable
  rw [hd]
  exact (if_neg (Bool.eq_false_iff.1 hbad)).trans (if_pos (by simp [hup]))

/-- The descriptor completes after the read of its table has left, in a state whose contexts that read did not change. -/
theorem patch_answered {u : State} (hu : u.ctx n = s.ctx n) (st i : Nat) : Answered n d.seq st (u.finish n d.seq st i) := by
  obtain ⟨hmem, hphase, -⟩ := startable_spec hd
  exact finish_answered (hu ▸ hmem) (by simp [hphase]) st i 0

variable (hbad : patchFieldBad d = false) (hup : s.hostUp = true)
include hbad hup

theorem execPatchTable_unread (hf : fetchData f = none) :
    exec (.patchTable n f) s = .next ((tableRead d s).finish n d.seq 0x0042) := by
  show execPatchTable n f s = _
  unfold execPatchTable
  rw [hd]
  refine ((if_neg (Bool.eq_false_iff.1 hbad)).trans (if_neg (by simp [hup]))).trans ?_
  rw [hf]
  rfl

variable {b : List Byte} (hf : fetchData f = some b)
include hf

theorem execPatchTable_invalid {i : Nat} (h : (List.range (d.u32 0x18)).find? (fun i => !(tableRead d s).patchValid b i) = some i) :
    exec (.patchTable n f) s = .next ((tableRead d s).finish n d.seq 0x0075 i) := by
  show execPatchTable n f s = _
  unfold execPatchTable
  rw [hd]
  refine ((if_neg (Bool.eq_false_iff.1 hbad)).trans (if_neg (by simp [hup]))).trans ?_
  rw [hf]
  dsimp only
  unfold tableRead at h
  rw [h]
  rfl

theorem execPatchTable_valid (h : (List.range (d.u32 0x18)).find? (fun i => !(tableRead d s).patchValid b i) = none) :
    exec (.patchTable n f) s = .next ((patched b (d.u32 0x18) (tableRead d s)).finish n d.seq 0 (d.u32 0x18)) := by
  show execPatchTable n f s = _
  unfold execPatchTable
  rw [hd]
  refine ((if_neg (Bool.eq_false_iff.1 hbad)).trans (if_neg (by simp [hup]))).trans ?_
  rw [hf]
  dsimp only
  unfold tableRead at h
  rw [h]
  rfl

end Patch

theorem tableRead_patchValid (d : Desc) (s : State) (b : List Byte) (i : Nat) : (tableRead d s).patchValid b i = s.patchValid b i := by
  simp only [State.patchValid, State.otpWord, tableRead, hostRead_otp]

end Sys2Proof.Laws

/-! PROOF. O7: PATCH_TABLE and FUSE_PROGRAM. -/

namespace Sys2Proof.Proofs

open Sys2Proof Sys2Proof.Machine Sys2Proof.Laws

/-- FUSE_PROGRAM by its checks, in their order. -/
theorem fuseProgram_checks {n : Nat} (r v : Bool) {s : State} {d : Desc} (hd : s.startable n 0x49 = some d) (hburn : s.otp.burn = none) :
    let w := d.u32 0x10
    let x := targetOf (BitVec.ofNat 32 (d.u32 0x18))
    ∃ t, exec (.fuseProgram n r v) s = .next t ∧
      if s.fuseCheck d ≠ 0 then Answered n d.seq (s.fuseCheck d) t ∧ t.otp.fuses = s.otp.fuses
      else if (s.fuse w).normal = x ∧ (s.fuse w).low = x then Answered n d.seq 0 t ∧ t.otp.fuses = s.otp.fuses
      else if (s.modOtp fun o => { o with rails := r }).otpWindow = false then Answered n d.seq 0x0072 t ∧ t.otp.fuses = s.otp.fuses
      else ((s.fuse w).nextBit x 0 = none → Answered n d.seq 0x0074 t) ∧ ∀ k, (s.fuse w).nextBit x 0 = some k → Begun n d.seq t ∧
        t.otp.burn = some { word := w, target := x, bitNo := k, owner := some (n, d.seq), pulseEnd := s.now + if v then 16000 else 80000 } := by
  intro w x
  have hrun := execFuseProgram_eq (r := r) (v := v) hd hburn
  have hword := holdsTarget_iff (s.fuse (wordBurn n d).word) (wordBurn n d).target
  by_cases hcheck : s.fuseCheck d ≠ 0
  · rw [if_pos (by simpa using hcheck)] at hrun
    refine ⟨_, hrun, ?_⟩
    rw [if_pos hcheck]
    exact fuseProgram_ends hd _
  rw [if_neg (by simpa using hcheck)] at hrun
  by_cases hholds : (s.fuse w).normal = x ∧ (s.fuse w).low = x
  · rw [if_pos (hword.2 hholds)] at hrun
    refine ⟨_, hrun, ?_⟩
    rw [if_neg hcheck, if_pos hholds]
    exact fuseProgram_ends hd _
  rw [if_neg (mt hword.1 hholds)] at hrun
  by_cases hwin : (s.modOtp fun o => { o with rails := r }).otpWindow = false
  · rw [if_pos (by simp [railWindow, hwin])] at hrun
    refine ⟨_, hrun, ?_⟩
    rw [if_neg hcheck, if_neg hholds, if_pos hwin]
    exact fuseProgram_ends hd _
  · rw [if_neg (by simpa [railWindow] using hwin)] at hrun
    refine ⟨_, hrun, ?_⟩
    rw [if_neg hcheck, if_neg hholds, if_neg hwin]
    exact ⟨burnBegins_fails hd (Bool.eq_false_iff.2 (mt hword.1 hholds)), fun k => burnBegins_pulses hd⟩

/-- PATCH_TABLE by its operands, its read and its entries. -/
theorem patchTable_applies {n : Nat} (f : Fetch) {s : State} {d : Desc} (hd : s.startable n 0x48 = some d) :
    let k := d.u32 0x18
    if d.u64 0x10 % 16 ≠ 0 ∨ isComp 32 k (d.u32 0x1C) = false ∨ k = 0 ∨ 256 < k ∨ d.zero 0x20 0x40 = false then
      ∃ t, exec (.patchTable n f) s = .next t ∧ Answered n d.seq 0x0012 t ∧ t.otp = s.otp
    else if s.hostUp = false then exec (.patchTable n f) s = .next s
    else ∃ t, exec (.patchTable n f) s = .next t ∧ (fetchData f = none → Answered n d.seq 0x0042 t ∧ t.otp = s.otp) ∧
      ∀ b, fetchData f = some b →
        if ∀ i < k, s.patchValid b i = true then
          Answered n d.seq 0 t ∧ ∀ i < k, otpRegion (leAt b (16 * i) 4) = 2 →
            Sparse.find? t.otp.rowPatches (leAt b (16 * i) 4) = some (BitVec.ofNat 32 (leAt b (16 * i + 8) 4))
        else Answered n d.seq 0x0075 t ∧ t.otp = s.otp := by
  have hread (k : Nat) : (tableRead d s).ctx k = s.ctx k := hostRead_ctx ..
  have hotp : (tableRead d s).otp = s.otp := hostRead_otp ..
  intro k
  split
  · next hbad =>
    exact ⟨_, execPatchTable_refused hd ((patchFieldBad_iff d).2 hbad), patch_answered hd rfl _ _, finish_otp ..⟩
  next hgood =>
  have hgood : patchFieldBad d = false := Bool.eq_false_iff.2 (mt (patchFieldBad_iff d).1 hgood)
  split
  · next hup => exact execPatchTable_waits hd hgood hup
  next hup =>
  have hup : s.hostUp = true := by simpa using hup
  cases hf : fetchData f with
  | none =>
    exact ⟨_, execPatchTable_unread hd hgood hup hf, fun _ => ⟨patch_answered hd (hread n) _ _, (finish_otp ..).trans hotp⟩, by simp⟩
  | some b =>
    cases hfind : (List.range k).find? (fun i => !(tableRead d s).patchValid b i) with
    | none =>
      have hvalid : ∀ i < k, s.patchValid b i = true := fun i hi => by
        simpa [tableRead_patchValid] using List.find?_range_eq_none.1 hfind i hi
      refine ⟨_, execPatchTable_valid hd hgood hup hf hfind, by simp, fun c hc => ?_⟩
      obtain rfl := Option.some.inj hc
      rw [if_pos hvalid, finish_otp]
      refine ⟨patch_answered hd ((ctx_of_only (patched_writes ..) rfl n).trans (hread n)) _ _, ?_⟩
      exact patched_rowPatches b k _ fun i hi => patchValid_distinct (hvalid i hi)
    | some i =>
      obtain ⟨hinvalid, hi, -⟩ := List.find?_range_eq_some.1 hfind
      rw [tableRead_patchValid, Bool.not_eq_true'] at hinvalid
      refine ⟨_, execPatchTable_invalid hd hgood hup hf hfind, by simp, fun c hc => ?_⟩
      obtain rfl := Option.some.inj hc
      rw [if_neg fun h => by simp [h i (List.mem_range.1 hi)] at hinvalid]
      exact ⟨patch_answered hd (hread n) _ _, (finish_otp ..).trans hotp⟩

/-- Settles O7: both commands by their checks, in order. That a table that cannot be read ends with REFUSED_HOST (log 69), and that a word that
holds its target already is answered before the window is looked at (log 74), are the model's choices. -/
theorem tablesAndFuses : Obligations.TablesAndFuses := by
  refine ⟨fun n f s d => patchTable_applies f, fun n r v s d => fuseProgram_checks r v, fun n f r v s => ⟨fun hnone => ?_, fun hnone => ?_⟩⟩
  · show execPatchTable n f s = _
    unfold execPatchTable
    rw [hnone]
  · cases hd : s.startable n 0x49 with
    | none =>
      show execFuseProgram n r v s = _
      unfold execFuseProgram
      rw [hd]
    | some d => exact fuseProgram_waits hd (hnone.resolve_left (by simp [hd]))

end Sys2Proof.Proofs

/-! PROOF. The hoop: its restart, FIRMWARE_LOAD and its fallback, the watchdog (R163, R482 to R485), and warm resets (R477 to R480). -/

namespace Sys2Proof.Laws

open Sys2Proof Sys2Proof.Machine

/-! ## Descriptors without an outcome -/

/-- Context `n` holds a descriptor with sequence number `q` that has no outcome yet. -/
def Awaited (n q : Nat) (s : State) : Prop := ∃ d ∈ (s.ctx n).acc, d.seq = q ∧ d.phase ≠ .done

theorem Awaited.of_ctx {n q : Nat} {s t : State} (h : Awaited n q s) (e : t.ctx n = s.ctx n) : Awaited n q t := by
  unfold Awaited
  rw [e]
  exact h

/-- It gets the outcome it is given. -/
theorem Awaited.finish {n q : Nat} {s : State} (h : Awaited n q s) (st i r : Nat) : Answered n q st (s.finish n q st i r) := by
  obtain ⟨d, hd, rfl, hp⟩ := h
  exact finish_answered hd hp st i r

/-- A change of accepted descriptors that gives none an outcome leaves it waiting for one. -/
theorem Awaited.of_map {n q : Nat} {s t : State} {f : Desc → Desc} (h : Awaited n q s) (e : (t.ctx n).acc = (s.ctx n).acc.map f)
    (hf : ∀ d, (f d).seq = d.seq ∧ (d.phase ≠ .done → (f d).phase ≠ .done)) : Awaited n q t := by
  obtain ⟨d, hd, hq, hp⟩ := h
  exact ⟨f d, e ▸ List.mem_map_of_mem hd, (hf d).1.trans hq, (hf d).2 hp⟩

theorem Awaited.modDesc {n q k p : Nat} {s : State} {f : Desc → Desc} (h : Awaited n q s)
    (hf : ∀ d, (f d).seq = d.seq ∧ (d.phase ≠ .done → (f d).phase ≠ .done)) : Awaited n q (s.modDesc k p f) := by
  by_cases hk : n = k
  · subst hk
    refine h.of_map (f := fun d => if d.seq == p then f d else d) ?_ fun d => ?_
    · unfold State.modDesc
      rw [ctx_modCtx_same]
    · split
      · exact hf d
      · exact ⟨rfl, id⟩
  · refine h.of_ctx ?_
    unfold State.modDesc
    rw [ctx_modCtx, if_neg hk]

/-! ## A restart of the hoop (R163, R482) -/

/-- What a restart leaves of a load: one that was reading its image runs again from its first step. -/
def keptLoad : Option (Nat × Nat × Nat) → Option (Nat × Nat × Nat)
  | some (_, _, 0) => none
  | l => l

theorem keptLoad_awaiting {n q due : Nat} (h : 0 < due) : keptLoad (some (n, q, due)) = some (n, q, due) := by
  cases due with
  | zero => omega
  | succ due => rfl

/-- The hoop after a restart. -/
def restarted (h : Hoop) : Hoop := { h with running := false, restarts := satAdd 0xFF h.restarts 1, load := keptLoad h.load }

/-- The accepted admin descriptors under way run again, the hoop is down and the recurrence filters clear (R163, R286). -/
def hoopStops (s : State) : State :=
  { s.adminAgain with
    hoop := { s.hoop with running := false, restarts := satAdd 0xFF s.hoop.restarts 1 },
    chans := s.adminAgain.chans.map fun (x : Nat × Chan) => (x.1, { x.2 with ecc := { x.2.ecc with filter := [] } }) }

/-- A load that was reading its image waits again. -/
def loadAgain (s : State) : State :=
  match s.hoop.load with
  | some (n, q, 0) => ({ s with hoop := { s.hoop with load := none } }).modDesc n q fun d => { d with phase := .waiting, staged := [] }
  | _ => s

theorem restartHoop_eq (s : State) : s.restartHoop =
    if (loadAgain (hoopStops s)).hostUp then (loadAgain (hoopStops s)).rewriteJournal else loadAgain (hoopStops s) := rfl

theorem loadAgain_hoop (s : State) : (loadAgain s).hoop = { s.hoop with load := keptLoad s.hoop.load } := by
  unfold loadAgain keptLoad
  split
  · simp
  · rfl

theorem rewriteJournal_hoop (s : State) : s.rewriteJournal.hoop = s.hoop :=
  (rewriteJournal_writes (μ := { flt := true, cnt := true, tor := true, out := true }) s (Only.refl _ s) rfl rfl rfl rfl).hoop.resolve_left
    Bool.false_ne_true

@[simp] theorem restartHoop_hoop (s : State) : s.restartHoop.hoop = restarted s.hoop := by
  rw [restartHoop_eq]
  split
  · rw [rewriteJournal_hoop, loadAgain_hoop]
    rfl
  · rw [loadAgain_hoop]
    rfl

theorem restartHoop_host (s : State) : s.restartHoop.host = s.host :=
  host_of_only (restartHoop_writes s (Only.refl _ s) rfl rfl rfl rfl rfl rfl rfl)

theorem rewriteJournal_grows (s : State) : LogGrows s s.rewriteJournal := LogGrows.foldl (fun s j => writeRecord_grows j s) _ s

theorem loadAgain_flt (s : State) : (loadAgain s).flt = s.flt := by
  unfold loadAgain
  split <;> rfl

theorem restartHoop_grows (s : State) : LogGrows s s.restartHoop := by
  have hstopped : LogGrows s (loadAgain (hoopStops s)) := .of_flt (loadAgain_flt _)
  rw [restartHoop_eq]
  exact .ite (hstopped.trans (rewriteJournal_grows _)) hstopped

/-- A descriptor that runs again has no outcome, and keeps its sequence number. -/
theorem Desc.again_spec (d : Desc) : d.again.seq = d.seq ∧ (d.phase ≠ .done → d.again.phase ≠ .done) := by
  unfold Desc.again
  split
  · exact ⟨rfl, fun _ => by simp⟩
  · exact ⟨rfl, id⟩

/-- A change of the accepted descriptors of every context is one of context `n`. -/
theorem acc_map {f : Nat × Ctx → Ctx} {g : Desc → Desc} (hf : ∀ x, (f x).acc = x.2.acc.map g) (l : List (Nat × Ctx)) (n : Nat) :
    (Sparse.get {} (l.map fun x => (x.1, f x)) n).acc = (Sparse.get {} l n).acc.map g := by
  induction l with
  | nil => rfl
  | cons x l ih =>
    simp only [List.map_cons, Sparse.get]
    split
    · exact hf x
    · exact ih

/-- A restart of the hoop gives no descriptor an outcome. -/
theorem Awaited.restartHoop {n q : Nat} {s : State} (h : Awaited n q s) : Awaited n q s.restartHoop := by
  have hadmin : Awaited n q (hoopStops s) := by
    refine h.of_map (f := fun d => if hoopRepeats d.op then d.again else d) ?_ fun d => ?_
    · exact acc_map (fun _ => rfl) s.ctxs n
    · split
      · exact Desc.again_spec d
      · exact ⟨rfl, id⟩
  have hload : Awaited n q (loadAgain (hoopStops s)) := by
    unfold loadAgain
    split
    · exact Awaited.modDesc (hadmin.of_ctx rfl) fun d => ⟨rfl, fun _ => by simp⟩
    · exact hadmin
  rw [restartHoop_eq]
  split
  · refine hload.of_ctx (ctx_of_only (m := { flt := true, cnt := true, tor := true, out := true }) ?_ rfl n)
    exact rewriteJournal_writes _ (Only.refl _ _) rfl rfl rfl rfl
  · exact hload

/-! ## FIRMWARE_LOAD (R484, R485, R490) -/

/-- A load begins: its descriptor is under way, and the read of its image leaves. -/
def loadBegins (n : Nat) (d : Desc) (s : State) : State :=
  let u := s.modDesc n d.seq fun d => { d with phase := .started }
  { u with hoop := { u.hoop with load := some (n, d.seq, 0) } }.hostRead (d.u64 0x10) (d.u32 0x18)

theorem loadBegins_spec {n : Nat} {d : Desc} {s : State} (hd : d ∈ (s.ctx n).acc) :
    Begun n d.seq (loadBegins n d s) ∧ (loadBegins n d s).hoop.load = some (n, d.seq, 0) ∧
      (s.tor.pcieEn = true → (loadBegins n d s).out = s.out ++ [.read (d.u64 0x10) (d.u32 0x18)]) := by
  unfold loadBegins
  extract_lets u
  refine ⟨?_, ?_, fun hpcie => ?_⟩
  · unfold Begun
    rw [hostRead_ctx]
    exact modDesc_begun hd _ rfl rfl
  · rw [hostRead_hoop]
  · exact (congrArg State.out (if_pos hpcie)).trans rfl

/-- No load of context `n` is reading its image. -/
def NotReading (n : Nat) (s : State) : Prop := ∀ q, s.hoop.load ≠ some (n, q, 0)

/-- A FIRMWARE_LOAD next to start, no other of its context reading. -/
theorem execFirmwareLoad_start {n : Nat} {f : Fetch} {s : State} {d : Desc} (hd : s.startable n 0x4B = some d) (hidle : NotReading n s) :
    exec (.firmwareLoad n f) s =
      if loadFieldBad d then .next (s.finish n d.seq 0x0012)
      else if s.hoop.load.isSome then .next (s.finish n d.seq 0x84)
      else if !s.hostUp then .next s
      else .next (loadBegins n d s) := by
  show execFirmwareLoad n f s = _
  unfold execFirmwareLoad
  extract_lets reading
  have hreading : reading = false := by
    unfold reading
    split
    · next m q h => exact beq_eq_false_iff_ne.2 fun e => hidle q (e ▸ h)
    · rfl
  rw [hreading, hd]
  rfl

/-- The state in which what the read of an image gave is looked at: a failed part has been read once more (R485). -/
def imageRead (f : Fetch) (d : Desc) (s : State) : State := if firstTry f then s else s.hostRead (d.u64 0x10) (d.u32 0x18)

/-- The CRC of an image, as the load's own unit computes it (R548). -/
def imageChecked (b : List Byte) (d : Desc) (s : State) : State :=
  s.inlineJob ((crc32c (b.take (d.u32 0x18))).toNat = d.u32 0x20) (crc32c (b.take (d.u32 0x18))).toNat

/-- A load that fails frees its place and completes with a status. -/
def loadFails (n : Nat) (d : Desc) (st : Nat) (s : State) : State := { s with hoop := { s.hoop with load := none } }.finish n d.seq st

/-- A good image goes to the bank that is not in use, which then runs; its report is awaited for 1 s (R484). -/
def imageRuns (n : Nat) (d : Desc) (v : Nat) (s : State) : State :=
  { s with hoop := { s.hoop.runOther v with load := some (n, d.seq, s.now + 1600000000) } }.restartHoop

/-- What the read of an image brings to the load that reads. -/
theorem execFirmwareLoad_image {n q : Nat} {f : Fetch} {s : State} {d : Desc} (hd : s.startedOp n 0x4B = some d)
    (hload : s.hoop.load = some (n, q, 0)) (hup : s.hostUp = true) (hrun : s.hoop.running = true) :
    exec (.firmwareLoad n f) s = .next (
      match fetchData f with
      | none => loadFails n d 0x82 (imageRead f d s)
      | some b =>
        match checkFirmware (b.take (d.u32 0x18)) (d.u32 0x18) (d.u32 0x20) with
        | .error st => loadFails n d st (imageChecked b d (imageRead f d s))
        | .ok v => imageRuns n d v (imageChecked b d (imageRead f d s))) := by
  show execFirmwareLoad n f s = _
  unfold execFirmwareLoad
  extract_lets reading
  have hreading : reading = true := by
    unfold reading
    rw [hload]
    exact beq_self_eq_true n
  rw [if_pos hreading, hd]
  dsimp only
  rw [if_neg (by simp [hup, hrun])]
  cases fetchData f with
  | none => rfl
  | some b =>
    dsimp only
    cases checkFirmware (b.take (d.u32 0x18)) (d.u32 0x18) (d.u32 0x20) <;> rfl

section Image
variable (n : Nat) (f : Fetch) (b : List Byte) (d : Desc) (s : State)

/-- What the reading and the checking of an image write. -/
def imageWork : Writes := { flt := true, cnt := true, tor := true, out := true }

theorem imageRead_writes : Only imageWork s (imageRead f d s) :=
  Only.ite (Only.refl _ s) (hostRead_writes _ _ s (Only.refl _ s) rfl rfl rfl rfl)

theorem imageChecked_writes : Only imageWork s (imageChecked b d (imageRead f d s)) :=
  inlineJob_writes _ _ _ (imageRead_writes f d s) rfl

theorem hoop_of_image {u : State} (h : Only imageWork s u) : u.hoop = s.hoop := h.hoop.resolve_left Bool.false_ne_true

end Image

/-- A load that fails leaves the hoop as it was but for the load. -/
theorem loadFails_spec {n st : Nat} {d : Desc} {s u : State} (h : Only imageWork s u) (hd : d ∈ (s.ctx n).acc) (hp : d.phase ≠ .done) :
    (loadFails n d st u).hoop = { s.hoop with load := none } ∧ Answered n d.seq st (loadFails n d st u) := by
  have hawaited : Awaited n d.seq { u with hoop := { u.hoop with load := none } } := by
    refine Awaited.of_ctx (s := s) ⟨d, hd, rfl, hp⟩ ?_
    exact ctx_of_only h rfl n
  refine ⟨?_, hawaited.finish st 0 0⟩
  rw [loadFails, finish_hoop, hoop_of_image s h]

/-- The hoop when a good image runs: the other bank is in use, and the load waits for its report. -/
theorem imageRuns_hoop {n v : Nat} {d : Desc} {s u : State} (h : Only imageWork s u) :
    (imageRuns n d v u).hoop.running = false ∧ (imageRuns n d v u).hoop.bank = (if s.hoop.bank = 0 then 1 else 0) ∧
      (imageRuns n d v u).hoop.load = some (n, d.seq, s.now + 1600000000) := by
  have hnow : u.now = s.now := h.now.resolve_left Bool.false_ne_true
  have hkept : keptLoad (some (n, d.seq, s.now + 1600000000)) = some (n, d.seq, s.now + 1600000000) := keptLoad_awaiting (by omega)
  have hbank : (s.hoop.runOther v).bank = if s.hoop.bank = 0 then 1 else 0 := by
    unfold Hoop.runOther
    split <;> rfl
  simp only [imageRuns, restartHoop_hoop, restarted, hoop_of_image s h, hnow, hkept, hbank, and_self]

/-! ## The fallback and the watchdog (R483, R484) -/

/-- The hoop restarts from the previous bank, and no load waits any more. -/
def fellBack (s : State) : State := { s with hoop := { s.hoop with load := none, bank := 1 - s.hoop.bank } }.restartHoop

theorem execFwFallback_due {n q due : Nat} {s : State} (hload : s.hoop.load = some (n, q, due)) (hpos : 0 < due) (hdue : due ≤ s.now)
    (hdown : s.hoop.running = false) : exec .fwFallback s = .next (((fellBack s).log .fwFallback 0).finish n q 0x83) := by
  have hlate : ¬ s.now < due := by omega
  show execFwFallback s = _
  unfold execFwFallback
  simp only [hload, hdown, hlate, Nat.ne_of_gt hpos, decide_false, Bool.or_self, Bool.false_eq_true, if_false]
  rfl

theorem execFwFallback_waits {s : State} (h : s.hoop.load = none ∨ s.hoop.running = true) : exec .fwFallback s = .next s := by
  show execFwFallback s = _
  unfold execFwFallback
  split
  · next hload =>
    have hrun : s.hoop.running = true := h.resolve_left (by simp [hload])
    exact if_pos (by simp [hrun])
  · rfl

/-- The watchdog's expiries within 10 s, this one among them. -/
def recentExpiries (s : State) : List Nat := (s.hoop.expiries.filter fun t => s.now < t + 16000000000) ++ [s.now]

/-- An expiry is logged and the hoop restarts. -/
def watchdogBites (s : State) : State := (s.log .hoopWatchdog 0).restartHoop

/-- The ROM image of bank A is in use, and nothing is loaded. -/
def romBank (s : State) : State :=
  { watchdogBites s with hoop := { (watchdogBites s).hoop with expiries := [], bank := 0, verA := none, load := none } }

/-- The third expiry within 10 s: the ROM image runs, and that is logged. -/
def romRuns (s : State) : State := (romBank s).log .hoopFallback 0

/-- An earlier expiry is remembered. -/
def expiryKept (s : State) : State := { watchdogBites s with hoop := { (watchdogBites s).hoop with expiries := recentExpiries s } }

/-- A load that waited for its image's report has failed (log 163). -/
def loadFellBack (l : Option (Nat × Nat × Nat)) (s : State) : State :=
  match l with
  | some (n, q, _) => (s.log .fwFallback 0).finish n q 0x83
  | none => s

section Watchdog
variable {s : State} (hmode : s.pwr.mode ≠ .save) (hstep : 2 ≤ s.pwr.step)
include hmode hstep

theorem execHoopWatchdog_third (h : 3 ≤ (recentExpiries s).length) :
    exec .hoopWatchdog s = .next (loadFellBack (watchdogBites s).hoop.load (romRuns s)) := by
  have hearly : ¬ s.pwr.step < 2 := by omega
  show execHoopWatchdog s = _
  unfold execHoopWatchdog
  rw [if_neg (by simp [hmode, hearly])]
  exact if_pos h

theorem execHoopWatchdog_early (h : ¬ 3 ≤ (recentExpiries s).length) :
    exec .hoopWatchdog s = .next (expiryKept s) := by
  have hearly : ¬ s.pwr.step < 2 := by omega
  show execHoopWatchdog s = _
  unfold execHoopWatchdog
  rw [if_neg (by simp [hmode, hearly])]
  exact if_neg h

end Watchdog

theorem loadFellBack_hoop (l : Option (Nat × Nat × Nat)) (s : State) : (loadFellBack l s).hoop = s.hoop := by
  unfold loadFellBack
  split
  · rw [finish_hoop, log_hoop]
  · rfl

theorem loadFellBack_grows (l : Option (Nat × Nat × Nat)) (s : State) : LogGrows s (loadFellBack l s) := by
  unfold loadFellBack
  split
  · exact (log_grows ..).trans (finish_grows ..)
  · exact .refl s

theorem watchdogBites_hoop (s : State) : (watchdogBites s).hoop = restarted s.hoop := by
  rw [watchdogBites, restartHoop_hoop, log_hoop]

theorem watchdogBites_grows (s : State) : LogGrows s (watchdogBites s) := (log_grows ..).trans (restartHoop_grows _)

theorem watchdogBites_logs {s : State} (hs : logsOk s) : logsOk (watchdogBites s) :=
  (restartHoop_keeps _ (log_keeps .hoopWatchdog 0 s 0 0 0 false (.refl s))).logs hs

/-! ## Warm resets (R477 to R480) -/

/-- When a warm reset is to begin, and when one ends. -/
def warmTimes (h : Hoop) : Option Nat × Option Nat := (h.warmAt, h.warmEnd)

/-- What the start of a warm reset writes besides the hoop. -/
def warmWork : Writes :=
  { chans := true, frozen := true, ctxs := true, journal := true, dram := true, host := true, flt := true, cnt := true, lanes := true,
    tor := true, pwr := true, otp := true, out := true }

theorem hoop_of_warm {s t : State} (h : Only warmWork s t) : t.hoop = s.hoop := h.hoop.resolve_left Bool.false_ne_true

/-- The start of a warm reset halts the hoop and takes the host link down (R478), and leaves when it ends. -/
theorem warmStart_spec (s : State) : warmTimes s.warmStart.hoop = warmTimes s.hoop ∧ s.warmStart.hoop.running = false ∧
    s.warmStart.host.linkUp = false := by
  unfold State.warmStart
  extract_lets u v w
  have hblocks : s.warmBlocks.hoop = s.hoop := hoop_of_warm (warmBlocks_writes s (Only.refl _ s) rfl rfl rfl rfl rfl rfl rfl rfl rfl rfl rfl)
  have hregions : u.hoop = s.warmBlocks.requeue.hoop :=
    hoop_of_warm (regionsSr_writes true _ (shedClasses_writes _ (stopBurn_writes _ (Only.refl _ _) rfl rfl) rfl rfl) rfl rfl)
  have hw : w.hoop = { s.hoop with load := none } ∧ w.host.linkUp = false := by
    have hv : v.hoop = { s.hoop with load := none } := by
      show u.hoop = _
      rw [hregions, ← hblocks]
      rfl
    unfold w
    split
    · exact ⟨hv, rfl⟩
    · exact ⟨hv, rfl⟩
  obtain ⟨hhoop, hlink⟩ := hw
  rw [restartHoop_hoop, restartHoop_host, hhoop]
  exact ⟨rfl, rfl, hlink⟩

/-- A warm reset is under way, and ends 10 µs from now. -/
def warmBegun (s : State) : State := { s with hoop := { s.hoop with warmAt := none, warmEnd := some (s.now + 16000) } }

theorem execWarmReset_due {x : WarmSrc} {s : State} (hmode : s.pwr.mode ≠ .save) (hdue : s.warmDue x = true) :
    exec (.warmReset x) s = .next (warmBegun s).warmStart := if_neg (by simp [hmode, hdue])

/-- The reset is over, and the host interface of a proxied device has recovered (R481). -/
def warmEnded (s : State) : State :=
  let u := { s with hoop := { s.hoop with warmEnd := none } }
  if !s.tor.pcieEn && s.tor.boundTo.isSome then u.recoverHost else u

theorem warmEnded_hoop (s : State) : (warmEnded s).hoop.warmEnd = none := by
  unfold warmEnded
  extract_lets _ u
  have hrecovered : u.recoverHost.hoop = u.hoop := hoop_of_warm (recoverHost_writes u (Only.refl _ u) rfl rfl rfl rfl rfl rfl rfl rfl)
  split
  · rw [hrecovered]
  · rfl

/-- What follows the end of a warm reset: the regions leave self-refresh, or a wake under way has its clocks (R447, R480). -/
theorem execWarmResetEnd_due {s : State} {due : Nat} (hend : s.hoop.warmEnd = some due) (hdue : due ≤ s.now) : exec .warmResetEnd s =
    let w := warmEnded s
    if w.pwr.mode == .service || w.pwr.mode == .maintenance || (w.pwr.mode == .bringUp && w.pwr.step = 4) then .next (w.leaveSrAll 0 true none)
    else if w.pwr.mode == .retention && (w.pwr.change.any fun c => c.target == .service) && w.pwr.avs.isNone then .next w.clocksOn
    else .next w := by
  show execWarmResetEnd s = _
  unfold execWarmResetEnd
  rw [hend]
  exact if_neg (Nat.not_lt.2 hdue)

end Sys2Proof.Laws

/-! PROOF. O8: FIRMWARE_LOAD and its fallback. -/

namespace Sys2Proof.Proofs

open Sys2Proof Sys2Proof.Machine Sys2Proof.Laws

/-- A FIRMWARE_LOAD next to start, by its operands, another load and the host interface (R484). -/
theorem firmwareLoad_starts {n : Nat} (f : Fetch) {s : State} {d : Desc} (hd : s.startable n 0x4B = some d) (hidle : NotReading n s) :
    ∃ t, exec (.firmwareLoad n f) s = .next t ∧
      if loadFieldBad d = true then Answered n d.seq 0x0012 t
      else if s.hoop.load.isSome then Answered n d.seq 0x84 t
      else if s.hostUp = false then t = s
      else Begun n d.seq t ∧ t.hoop.load = some (n, d.seq, 0) ∧
        (s.tor.pcieEn = true → t.out = s.out ++ [.read (d.u64 0x10) (d.u32 0x18)]) := by
  have hrun := execFirmwareLoad_start (f := f) hd hidle
  by_cases hbad : loadFieldBad d = true
  · rw [if_pos hbad] at hrun
    refine ⟨_, hrun, ?_⟩
    rw [if_pos hbad]
    exact finish_startable hd _
  rw [if_neg hbad] at hrun
  by_cases hbusy : s.hoop.load.isSome
  · rw [if_pos hbusy] at hrun
    refine ⟨_, hrun, ?_⟩
    rw [if_neg hbad, if_pos hbusy]
    exact finish_startable hd _
  rw [if_neg hbusy] at hrun
  by_cases hup : s.hostUp = false
  · rw [if_pos (by simp [hup])] at hrun
    refine ⟨_, hrun, ?_⟩
    rw [if_neg hbad, if_neg hbusy, if_pos hup]
  · rw [if_neg (by simpa using hup)] at hrun
    refine ⟨_, hrun, ?_⟩
    rw [if_neg hbad, if_neg hbusy, if_neg hup]
    exact loadBegins_spec (startable_spec hd).1

/-- What the read of its image brings (R484, R485). -/
theorem firmwareLoad_image {n q : Nat} (f : Fetch) {s : State} {d : Desc} (hd : s.startedOp n 0x4B = some d)
    (hload : s.hoop.load = some (n, q, 0)) (hup : s.hostUp = true) (hrun : s.hoop.running = true) :
    ∃ t, exec (.firmwareLoad n f) s = .next t ∧
      (∀ b v, fetchData f = some b → checkFirmware (b.take (d.u32 0x18)) (d.u32 0x18) (d.u32 0x20) = .ok v →
        t.hoop.running = false ∧ t.hoop.bank = (if s.hoop.bank = 0 then 1 else 0) ∧
          t.hoop.load = some (n, d.seq, s.now + 1600000000)) ∧
      (∀ b st, fetchData f = some b → checkFirmware (b.take (d.u32 0x18)) (d.u32 0x18) (d.u32 0x20) = .error st →
        t.hoop = { s.hoop with load := none } ∧ Answered n d.seq st t) ∧
      (fetchData f = none → Answered n d.seq 0x82 t) := by
  obtain ⟨hmem, hphase, -⟩ := startedOp_spec hd
  have hopen : d.phase ≠ .done := by simp [hphase]
  refine ⟨_, execFirmwareLoad_image hd hload hup hrun, fun b v hf hv => ?_, fun b st hf hst => ?_, fun hf => ?_⟩
  · simp only [hf, hv]
    exact imageRuns_hoop (imageChecked_writes ..)
  · simp only [hf, hst]
    exact loadFails_spec (imageChecked_writes ..) hmem hopen
  · simp only [hf]
    exact (loadFails_spec (imageRead_writes ..) hmem hopen).2

/-- The fallback when the new image has not reported in time (R484). -/
theorem fwFallback_falls_back {n q due : Nat} {s : State} (hload : s.hoop.load = some (n, q, due)) (hpos : 0 < due) (hdue : due ≤ s.now)
    (hdown : s.hoop.running = false) :
    ∃ t, exec .fwFallback s = .next t ∧ t.hoop.bank = 1 - s.hoop.bank ∧ t.hoop.load = none ∧
      (logsOk s → Logged .fwFallback 0 s t) ∧
      ∀ d ∈ (s.ctx n).acc, d.seq = q → d.phase ≠ .done → Answered n q 0x83 t := by
  have hhoop : (((fellBack s).log .fwFallback 0).finish n q 0x83).hoop = restarted { s.hoop with load := none, bank := 1 - s.hoop.bank } := by
    rw [finish_hoop, log_hoop, fellBack, restartHoop_hoop]
  have hgrows : LogGrows s (fellBack s) := (restartHoop_grows _).from_flt rfl
  have hlogs (hs : logsOk s) : logsOk (fellBack s) :=
    (restartHoop_keeps _ (.refl { s with hoop := { s.hoop with load := none, bank := 1 - s.hoop.bank } })).logs hs
  refine ⟨_, execFwFallback_due hload hpos hdue hdown, by rw [hhoop]; rfl, by rw [hhoop]; rfl,
    fun hs => log_logged 0 0 0 false hs hgrows (hlogs hs) (finish_grows ..), fun d hd hq hp => ?_⟩
  have hawaited : Awaited n q { s with hoop := { s.hoop with load := none, bank := 1 - s.hoop.bank } } := ⟨d, hd, hq, hp⟩
  exact (hawaited.restartHoop.of_ctx (log_ctx ..)).finish ..

/-- Settles O8: the start of a load, what its read brings, and the fallback. That a load is two commands of one name, one for its start and
one for what its read gave, and ends with HOOP_RUNNING or FW_FALLBACK, is the model's choice (log 79). -/
theorem firmwareLoads : Obligations.FirmwareLoads :=
  ⟨fun _ f _ _ => firmwareLoad_starts f, fun _ f _ _ _ => firmwareLoad_image f, fun _ _ _ _ => fwFallback_falls_back,
    fun _ => execFwFallback_waits⟩

end Sys2Proof.Proofs

/-! PROOF. O14: warm resets and the hoop. -/

namespace Sys2Proof.Proofs

open Sys2Proof Sys2Proof.Machine Sys2Proof.Laws

/-- A warm reset whose source is present begins (R477, R478). -/
theorem warmReset_begins (x : WarmSrc) {s : State} (hmode : s.pwr.mode ≠ .save) (hdue : s.warmDue x = true) :
    ∃ t, exec (.warmReset x) s = .next t ∧ t.hoop.warmEnd = some (s.now + 16000) ∧ t.hoop.warmAt = none ∧
      t.hoop.running = false ∧ t.host.linkUp = false := by
  obtain ⟨htimes, hdown, hlink⟩ := warmStart_spec (warmBegun s)
  obtain ⟨hat, hend⟩ := Prod.mk.inj htimes
  exact ⟨_, execWarmReset_due hmode hdue, hend, hat, hdown, hlink⟩

/-- It ends 10 µs later (R477). -/
theorem warmReset_ends {s : State} {due : Nat} (hend : s.hoop.warmEnd = some due) (hdue : due ≤ s.now) :
    ∃ t, exec .warmResetEnd s = .next t ∧ t.hoop.warmEnd = none := by
  have hnone := warmEnded_hoop s
  rw [execWarmResetEnd_due hend hdue]
  dsimp only
  split
  · exact ⟨_, rfl, (congrArg Hoop.warmEnd (hoop_of_warm (leaveSrAll_writes 0 true none _ (Only.refl _ _) rfl))).trans hnone⟩
  · split
    · exact ⟨_, rfl, (congrArg Hoop.warmEnd (hoop_of_warm (clocksOn_writes _ (Only.refl _ _) rfl))).trans hnone⟩
    · exact ⟨_, rfl, hnone⟩

/-- An expiry of the watchdog restarts the hoop, the third within 10 s from the ROM image of bank A (R483). -/
theorem hoopWatchdog_restarts {s : State} (hmode : s.pwr.mode ≠ .save) (hstep : 2 ≤ s.pwr.step) :
    ∃ t, exec .hoopWatchdog s = .next t ∧ t.hoop.running = false ∧
      if 3 ≤ (recentExpiries s).length then
        t.hoop.bank = 0 ∧ t.hoop.verA = none ∧ t.hoop.expiries = [] ∧ (logsOk s → Logged .hoopFallback 0 s t)
      else t.hoop.expiries = recentExpiries s ∧ (logsOk s → Logged .hoopWatchdog 0 s t) := by
  by_cases hthird : 3 ≤ (recentExpiries s).length
  · have hhoop : (loadFellBack (watchdogBites s).hoop.load (romRuns s)).hoop =
        { restarted s.hoop with expiries := [], bank := 0, verA := none, load := none } := by
      rw [loadFellBack_hoop, romRuns, log_hoop, romBank, watchdogBites_hoop]
    refine ⟨_, execHoopWatchdog_third hmode hstep hthird, by rw [hhoop]; rfl, ?_⟩
    rw [if_pos hthird, hhoop]
    refine ⟨rfl, rfl, rfl, fun hs => ?_⟩
    have hgrows : LogGrows s (romBank s) := (watchdogBites_grows s).trans (.of_flt rfl)
    have hlogs : logsOk (romBank s) := watchdogBites_logs hs
    exact log_logged 0 0 0 false hs hgrows hlogs (loadFellBack_grows _ (romRuns s))
  · have hdown : (expiryKept s).hoop.running = false := by rw [expiryKept, watchdogBites_hoop]; rfl
    refine ⟨_, execHoopWatchdog_early hmode hstep hthird, hdown, ?_⟩
    rw [if_neg hthird]
    have hgrows : LogGrows (s.log .hoopWatchdog 0) (expiryKept s) := (restartHoop_grows (s.log .hoopWatchdog 0)).trans (.of_flt rfl)
    exact ⟨rfl, fun hs => log_logged 0 0 0 false hs (.refl s) hs hgrows⟩

/-- A hoop that reports runs, and the load that waited for it completes (R482, R484). -/
theorem hoopRunning_reports {s : State} (hdown : s.hoop.running = false) (hmode : s.pwr.mode ≠ .save) (hstep : 2 ≤ s.pwr.step) :
    ∃ t, exec .hoopRunning s = .next t ∧ t.hoop = { s.hoop with running := true, load := none } ∧
      ∀ n q x d, s.hoop.load = some (n, q, x) → d ∈ (s.ctx n).acc → d.seq = q → d.phase ≠ .done → Answered n q 0 t := by
  have hearly : ¬ s.pwr.step < 2 := by omega
  show ∃ t, execHoopRunning s = .next t ∧ _
  unfold execHoopRunning
  rw [if_neg (by simp [hdown, hmode, hearly])]
  cases hload : s.hoop.load with
  | none => exact ⟨_, rfl, rfl, by simp⟩
  | some l =>
    obtain ⟨n, q, x⟩ := l
    refine ⟨_, rfl, finish_hoop .., fun m p y d hl hd hq hp => ?_⟩
    obtain ⟨rfl, rfl, rfl⟩ := by simpa using hl
    have hawaited : Awaited n q { s with hoop := { s.hoop with running := true, load := none } } := ⟨d, hd, hq, hp⟩
    exact hawaited.finish ..

/-- Settles O14: a warm reset by its start and its end, the hoop by its restart, its watchdog and its report. That HOOP_RUNNING completes the
FIRMWARE_LOAD that waits is the model's choice (log 79), and so is that the third expiry reports the watchdog and the fallback (log 80). -/
theorem resetsRun : Obligations.ResetsRun := by
  refine ⟨fun s hmode => ⟨_, if_neg (by simp [hmode]), rfl⟩, fun x s => warmReset_begins x, fun s due => warmReset_ends,
    fun s hmode => ⟨_, if_neg (by simp [hmode]), ?_⟩, fun s hmode => ⟨_, if_neg (by simp [hmode]), ?_⟩,
    fun s => hoopWatchdog_restarts, fun s => hoopRunning_reports,
    fun x s => ⟨fun hmode => ?_, fun hdue => if_pos (by simp [hdue]), fun hend => ?_, fun hrun => if_pos (by simp [hrun])⟩⟩
  · rw [restartHoop_hoop]
    exact ⟨rfl, rfl⟩
  · rw [restartHoop_hoop]
    exact ⟨rfl, rfl⟩
  · exact ⟨if_pos (by simp [hmode]), if_pos (by simp [hmode]), if_pos (by simp [hmode]), if_pos (by simp [hmode]), if_pos (by simp [hmode]),
      if_pos (by simp [hmode])⟩
  · show execWarmResetEnd s = _
    unfold execWarmResetEnd
    rw [hend]

end Sys2Proof.Proofs

/-! PROOF. Which bobbins stay in service: the vector source, the end of Direct Access and of RUNs, and self-refresh leave the function of
every bobbin and its waiting retirement, and a bobbin that is RETIRED stays so (R6, R300, R525). -/

namespace Sys2Proof.Laws

open Sys2Proof Sys2Proof.Machine

/-- From `s` to `t` every bobbin keeps its function and its waiting retirement. -/
structure ServiceKept (s t : State) : Prop where
  same : ∀ k, Same servicePart k s t

theorem ServiceKept.refl (s : State) : ServiceKept s s := ⟨fun _ => .refl ..⟩

theorem ServiceKept.trans {a b c : State} (h : ServiceKept a b) (k : ServiceKept b c) : ServiceKept a c :=
  ⟨fun n => (h.same n).trans (k.same n)⟩

theorem ServiceKept.of_chans {s t : State} (h : t.chans = s.chans) : ServiceKept s t := ⟨fun k => .of_chan (chan_of_chans h k)⟩

theorem ServiceKept.ite {a s t : State} {p : Prop} [Decidable p] (h : ServiceKept a s) (k : ServiceKept a t) :
    ServiceKept a (if p then s else t) := ⟨fun n => (h.same n).ite (k.same n)⟩

theorem ServiceKept.foldl {α : Type} {f : State → α → State} (hf : ∀ s x, ServiceKept s (f s x)) (l : List α) (s : State) :
    ServiceKept s (l.foldl f s) := ⟨fun k => Same.foldl (fun s x => (hf s x).same k) l s⟩

theorem modChan_serviceKept {f : Chan → Chan} (ch : Nat) (s : State) (h : ∀ c, servicePart (f c) = servicePart c) :
    ServiceKept s (s.modChan ch f) := ⟨fun _ => modChan_same s h⟩

theorem log_serviceKept (c : Cause) (i : Nat) (s : State) (d0 d1 d2 : Nat) (a : Bool) : ServiceKept s (s.log c i d0 d1 d2 a) :=
  .of_chans (log_chans ..)

theorem finish_serviceKept (n q st i r : Nat) (s : State) : ServiceKept s (s.finish n q st i r) := ⟨fun _ => finish_same (fun _ _ _ => rfl) ..⟩

/-! ## The vector source (R186 to R199) -/

theorem modSrc_serviceKept (ch : Nat) (f : Source → Source) (s : State) : ServiceKept s (s.modSrc ch f) := modChan_serviceKept ch s fun _ => rfl

theorem leaveGran_serviceKept (ch : Nat) (d : Option Nat) (x : SrcGran) (s : State) : ServiceKept s (s.leaveGran ch d x) := by
  have hcount : ServiceKept s (s.count 0x00E (some ch) 1) := .of_chans (count_chans ..)
  unfold State.leaveGran
  dsimp only
  split
  · exact hcount
  · exact hcount.trans (modSrc_serviceKept ..)

theorem sweepGrans_serviceKept (ch g : Nat) (d : Option Nat) (s : State) : ServiceKept s (s.sweepGrans ch g d) :=
  (modSrc_serviceKept ..).trans (ServiceKept.foldl (fun s x => leaveGran_serviceKept ch d x s) _ _)

theorem dropGran_serviceKept (ch g id : Nat) (s : State) : ServiceKept s (s.dropGran ch g id) :=
  .ite (.refl s) ((modSrc_serviceKept ..).trans (modSrc_serviceKept ..))

theorem settleMarks_serviceKept (ch g : Nat) (s : State) : ServiceKept s (s.settleMarks ch g) :=
  .ite (.refl s) ((modSrc_serviceKept ..).trans (modChan_serviceKept ch _ fun _ => rfl))

theorem srcEvents_serviceKept (ch g : Nat) (e : SrcEvents) (s : State) : ServiceKept s (s.srcEvents ch g e) := by
  unfold State.srcEvents
  extract_lets s1 s2 s3
  have hdrops : ServiceKept s s1 := ServiceKept.foldl (fun s id => dropGran_serviceKept ch g id s) _ _
  have hheader : ServiceKept s s2 := .ite (hdrops.trans (log_serviceKept ..)) hdrops
  have hoverlaps : ServiceKept s s3 := hheader.trans (ServiceKept.foldl (fun s t => .of_chans (logAt_chans ..)) _ _)
  exact hoverlaps.trans ((settleMarks_serviceKept ..).trans (sweepGrans_serviceKept ..))

theorem srcPrep_serviceKept (n ch g : Nat) (s : State) : ServiceKept s (State.srcPrep n ch g s) := by
  induction n generalizing s with
  | zero => exact .refl s
  | succ n ih =>
    unfold State.srcPrep
    extract_lets c
    split
    · exact .refl s
    · exact ((modSrc_serviceKept ..).trans (srcEvents_serviceKept ..)).trans (ih _)

theorem stopStreams_serviceKept (ch : Nat) (s : State) : ServiceKept s (s.stopStreams ch) :=
  (modSrc_serviceKept ..).trans (ServiceKept.foldl (fun s g => (sweepGrans_serviceKept ch g none s).trans (srcPrep_serviceKept _ ch g _)) _ _)

theorem lastSlot_serviceKept (ch t : Nat) (s : State) : ServiceKept s (s.lastSlot ch t) := by
  unfold State.lastSlot
  refine ServiceKept.trans ?_ (stopStreams_serviceKept ..)
  exact modChan_serviceKept ch s fun _ => rfl

theorem haltSlots_serviceKept (ch cause : Nat) (s : State) : ServiceKept s (s.haltSlots ch cause) := by
  unfold State.haltSlots
  extract_lets c
  refine .ite (ServiceKept.trans ?_ (lastSlot_serviceKept ..)) (.refl s)
  exact modChan_serviceKept ch s fun _ => rfl

theorem endPanic_serviceKept (ch : Nat) (s : State) : ServiceKept s (s.endPanic ch) :=
  .ite ((modSrc_serviceKept ..).trans (log_serviceKept ..)) (.refl s)

theorem updatePanic_serviceKept (ch : Nat) (s : State) : ServiceKept s (s.updatePanic ch) := by
  unfold State.updatePanic
  extract_lets c cov u low
  have hcover : ServiceKept s u := by
    unfold u
    cases cov with
    | some v => exact modSrc_serviceKept ..
    | none => exact .refl s
  exact .ite (.ite (hcover.trans (modSrc_serviceKept ..)) hcover) (.ite (hcover.trans (endPanic_serviceKept ..)) hcover)

/-! ## A bobbin that is RETIRED stays so (R6, R525) -/

/-- From `s` to `t` no bobbin that is RETIRED comes back. -/
structure RetiredStays (s t : State) : Prop where
  stays : ∀ k, (s.chan k).func = .retired → (t.chan k).func = .retired

theorem RetiredStays.trans {a b c : State} (h : RetiredStays a b) (k : RetiredStays b c) : RetiredStays a c :=
  ⟨fun n hn => k.stays n (h.stays n hn)⟩

theorem ServiceKept.retired {s t : State} (h : ServiceKept s t) : RetiredStays s t :=
  ⟨fun k hk => (congrArg Prod.fst (h.same k : servicePart _ = servicePart _)).trans hk⟩

theorem RetiredStays.ite {a s t : State} {p : Prop} [Decidable p] (h : RetiredStays a s) (k : RetiredStays a t) :
    RetiredStays a (if p then s else t) := by
  split
  · exact h
  · exact k

theorem RetiredStays.foldl {α : Type} {f : State → α → State} (hf : ∀ s x, RetiredStays s (f s x)) (l : List α) (s : State) :
    RetiredStays s (l.foldl f s) := by
  induction l generalizing s with
  | nil => exact (ServiceKept.refl s).retired
  | cons x l ih => exact (hf s x).trans (ih _)

/-- A change that makes its bobbin RETIRED brings none back. -/
theorem modChan_retires {f : Chan → Chan} (ch : Nat) (s : State) (h : ∀ c, (f c).func = .retired) : RetiredStays s (s.modChan ch f) := by
  refine ⟨fun k hk => ?_⟩
  rw [chan_modChan]
  split
  · exact h _
  · exact hk

theorem loseDirect_serviceKept (ch : Nat) (s : State) : ServiceKept s (s.loseDirect ch) := ⟨fun _ => loseDirect_same (fun _ _ _ => rfl) ..⟩

theorem endRuns_serviceKept (ch st n : Nat) (b : Bool) (s : State) : ServiceKept s (State.endRuns ch st b n s) :=
  ⟨fun _ => endRuns_same (fun _ _ => rfl) (fun _ _ _ => rfl) ..⟩

theorem endStops_serviceKept (ch : Nat) (s : State) : ServiceKept s (s.endStops ch) := by
  unfold State.endStops
  extract_lets l
  refine ServiceKept.trans ?_ (ServiceKept.foldl (fun s x => finish_serviceKept ..) l _)
  exact modChan_serviceKept ch s fun _ => rfl

theorem abandonCrc_serviceKept (f : Crc → Bool) (s : State) : ServiceKept s (s.abandonCrc f) := by
  unfold State.abandonCrc
  refine ServiceKept.foldl (fun s u => ?_) _ s
  have hstop (g : Crc → Crc) : ServiceKept s (s.modCrc u g) := .of_chans rfl
  exact .ite ((hstop _).trans (log_serviceKept ..)) (.refl s)

theorem retire_retiredStays (ch : Nat) (s : State) : RetiredStays s (s.retire ch) := by
  unfold State.retire
  extract_lets s1 s2 s3 s4 held s5
  have h1 : ServiceKept s s1 := .of_chans rfl
  have h4 : ServiceKept s s4 :=
    h1.trans ((loseDirect_serviceKept ..).trans ((abandonCrc_serviceKept ..).trans ((endRuns_serviceKept ..).trans (endStops_serviceKept ..))))
  have h5 : RetiredStays s s5 := h4.retired.trans (modChan_retires ch s4 fun _ => rfl)
  cases held with
  | some h => exact h5.trans (finish_serviceKept ..).retired
  | none => exact h5

theorem retireNow_retiredStays (ch cause : Nat) (s : State) : RetiredStays s (s.retireNow ch cause) := by
  unfold State.retireNow
  extract_lets c
  have hpend : RetiredStays (s.haltSlots ch cause)
      ((s.haltSlots ch cause).modChan ch fun c => { c with retirePend := true, retireAtOnce := true }) := by
    refine ⟨fun k hk => ?_⟩
    rw [chan_modChan]
    split
    · next e => exact e ▸ hk
    · exact hk
  exact .ite ((haltSlots_serviceKept ..).retired.trans (hpend.trans (loseDirect_serviceKept ..).retired)) (retire_retiredStays ..)

theorem bistSlice_retiredStays (ch : Nat) (d : SliceDiff) (s : State) : RetiredStays s (s.bistSlice ch d) := by
  unfold State.bistSlice
  extract_lets b put s1 s2
  have h1 : ServiceKept s s1 := by exact modChan_serviceKept ch s fun _ => rfl
  have hput (f : Bist → Bist) : ServiceKept s (put f s1) := by
    refine h1.trans ?_
    exact modChan_serviceKept ch s1 fun _ => rfl
  clear_value put
  have h2 : ServiceKept s s2 := (hput _).trans (log_serviceKept ..)
  exact .ite (hput _).retired (.ite ((h2.trans (log_serviceKept ..)).retired.trans (retireNow_retiredStays ..)) h2.retired)

theorem restOfRound_retiredStays (ch : Nat) (l : List SliceDiff) (s : State) : RetiredStays s (State.restOfRound ch l s) := by
  induction l generalizing s with
  | nil => exact (ServiceKept.refl s).retired
  | cons d l ih =>
    have hslice := bistSlice_retiredStays ch d s
    exact .ite (ServiceKept.refl s).retired (.ite hslice (hslice.trans (ih _)))

/-- The self-test of a bobbin brings no RETIRED one back (R527). -/
theorem selftestBobbin_retiredStays (ch : Nat) (ds : List SliceDiff) (march : Bool) (s : State) :
    RetiredStays s (s.selftestBobbin ch ds march) := by
  unfold State.selftestBobbin
  extract_lets s1 s2 s3
  have hasleep : ServiceKept s (s.commandSr ch) := modChan_serviceKept ch s fun _ => rfl
  have h1 : ServiceKept s s1 := by
    refine hasleep.trans ?_
    exact modChan_serviceKept ch _ fun _ => rfl
  have h2 : RetiredStays s s2 := h1.retired.trans (restOfRound_retiredStays ..)
  have h3 : RetiredStays s s3 := .ite (h2.trans ((log_serviceKept ..).retired.trans (retireNow_retiredStays ..))) h2
  have hleft : ServiceKept s3 (s3.leaveSr ch 0) := by exact modChan_serviceKept ch s3 fun _ => rfl
  exact .ite h3 (h3.trans hleft.retired)

/-- When no RETIRED bobbin comes back, no more bobbins are served. -/
theorem served_length_le {s t : State} (hmembers : t.members = s.members) (h : RetiredStays s t) : t.served.length ≤ s.served.length := by
  unfold State.served State.channels
  rw [hmembers]
  refine (List.monotone_filter_right _ fun k hk => ?_).length_le
  simp only [bne_iff_ne, ne_eq] at hk ⊢
  exact mt (h.stays k) hk

/-! ## The full self-test (R527) -/

/-- Every bobbin has run its slices and its march. -/
def selftested (g : List (Nat × List SliceDiff)) (m : List Nat) (s : State) : State :=
  s.served.foldl (fun s ch => s.selftestBobbin ch (((g.find? (·.1 == ch)).map (·.2)).getD []) (m.contains ch)) s

/-- The self-test under way, begun with `n` bobbins in service. -/
def selftestLive (n : Nat) (s : State) : State := s.modOtp fun o => { o with stLive := some n }

theorem execSelftestGo_runs {g : List (Nat × List SliceDiff)} {m : List Nat} {s : State} (hmode : s.pwr.mode = .maintenance)
    (hidle : s.otp.stLive = none) : exec (.selftestGo g m) s = .next (selftestLive s.served.length (selftested g m s)).selftestEnd :=
  if_neg (by simp [hmode, hidle])

theorem execSelftestGo_ignored {g : List (Nat × List SliceDiff)} {m : List Nat} {s : State}
    (h : s.pwr.mode ≠ .maintenance ∨ s.otp.stLive.isSome) : exec (.selftestGo g m) s = .next s.writeIgnored :=
  if_pos (by simpa using h)

/-- A self-test whose bobbins are all out of self-refresh ends with its result; the others go on. -/
theorem selftestEnd_eq (n : Nat) (s : State) : (selftestLive n s).selftestEnd =
    if s.served.any fun ch => (s.chan ch).reg.inSr then selftestLive n s
    else (selftestLive n s).modOtp fun o => { o with
      stLive := none, stResult := if n - s.served.length = 0 then 1 else 2, stRetired := min (n - s.served.length) 0xFF } := rfl

/-- What a full self-test may write. -/
def selftestWork : Writes :=
  { chans := true, frozen := true, ctxs := true, journal := true, host := true, flt := true, cnt := true, tor := true, out := true }

theorem selftested_writes (g : List (Nat × List SliceDiff)) (m : List Nat) (s : State) : Only selftestWork s (selftested g m s) :=
  Only.foldl (Only.refl _ s) fun s ch h => selftestBobbin_writes ch _ _ s h rfl rfl rfl rfl rfl rfl rfl rfl rfl

theorem selftested_served_le (g : List (Nat × List SliceDiff)) (m : List Nat) (s : State) :
    (selftested g m s).served.length ≤ s.served.length :=
  served_length_le ((selftested_writes g m s).members.resolve_left Bool.false_ne_true)
    (RetiredStays.foldl (fun _ _ => selftestBobbin_retiredStays ..) _ s)

end Sys2Proof.Laws

/-! PROOF. O18: the test access port and the full self-test. -/

namespace Sys2Proof.Proofs

open Sys2Proof Sys2Proof.Machine Sys2Proof.Laws

/-- A full self-test ends when every region is out of self-refresh; its result says whether a channel was retired (R527). -/
theorem selftestGo_ends (g : List (Nat × List SliceDiff)) (m : List Nat) {s : State} (hmode : s.pwr.mode = .maintenance)
    (hidle : s.otp.stLive = none) : ∃ t, exec (.selftestGo g m) s = .next t ∧
    if ∃ ch ∈ t.served, (t.chan ch).reg.inSr = true then t.otp.stLive = some s.served.length
    else t.otp.stLive = none ∧ t.otp.stResult = (if s.served.length = t.served.length then 1 else 2) ∧
      t.otp.stRetired = min (s.served.length - t.served.length) 0xFF := by
  have hle := selftested_served_le g m s
  refine ⟨_, execSelftestGo_runs hmode hidle, ?_⟩
  rw [selftestEnd_eq]
  by_cases hsr : ∃ ch ∈ (selftested g m s).served, ((selftested g m s).chan ch).reg.inSr = true
  · have hany : ((selftested g m s).served.any fun ch => ((selftested g m s).chan ch).reg.inSr) = true := by simpa using hsr
    rw [if_pos hany]
    exact cast (if_pos hsr).symm rfl
  · have hall : ¬ ((selftested g m s).served.any fun ch => ((selftested g m s).chan ch).reg.inSr) = true := by simpa using hsr
    rw [if_neg hall]
    refine cast (if_neg hsr).symm ⟨rfl, ?_, rfl⟩
    exact if_congr (by show s.served.length - (selftested g m s).served.length = 0 ↔ _ = (selftested g m s).served.length; omega) rfl rfl

/-- Settles O18: the instructions by the life-cycle, the reset of the port, and the self-test by the bobbins that it leaves in service. That a
self-test is one command, which ends it or leaves it to the last exit from self-refresh, and that instructions are numbered in the order of
R516, are the model's choices (log 70, 72). -/
theorem testAccess : Obligations.TestAccess := by
  refine ⟨fun _ _ => tapInstruction_loads, fun k s hk => ?_, fun s => ⟨_, rfl, rfl⟩, fun g m s => selftestGo_ends g m, fun g m s h => ?_⟩
  · obtain ⟨t, ht, hotp, hlogged, -⟩ := tapInstruction_bypasses hk
    exact ⟨t, ht, hotp, hlogged⟩
  · exact ⟨_, execSelftestGo_ignored h, log_otp .., writeIgnored_logged s⟩

end Sys2Proof.Proofs

/-! PROOF. The jobs of the CRC units (R542 to R548). -/

namespace Sys2Proof.Laws

open Sys2Proof Sys2Proof.Machine

/-! ## Counting and logging leave the CRC units -/

theorem put_crc (k : Counters) (now n : Nat) (r : Counter × Bool) : (k.put now n r).1.crc = k.crc := by
  unfold Counters.put
  extract_lets old k1 logs up u
  split
  · rfl
  · rfl

theorem counters_count_crc (k : Counters) (now ev : Nat) (q : Nat → Bool) (b : Option Nat) (w : Nat) : (k.count now ev q b w).1.crc = k.crc := by
  unfold Counters.count
  refine List.foldlRecOn (motive := fun a : Counters × Nat => a.1.crc = k.crc) _ _ rfl fun a ha n _ => ?_
  dsimp only
  split
  · exact (put_crc ..).trans ha
  · exact ha

theorem crc_of_crcs {s t : State} (h : t.cnt.crc = s.cnt.crc) (u : Nat) : t.crc u = s.crc u := congrArg (fun l => Sparse.get ({} : Crc) l u) h

theorem crc_logOverflows (u n : Nat) (s : State) : (State.logOverflows n s).crc u = s.crc u := by
  induction n generalizing s with
  | zero => rfl
  | succ n ih => exact (ih _).trans (crc_of_crcs (counters_count_crc ..) u)

@[simp] theorem crc_log (u : Nat) (c : Cause) (i : Nat) (s : State) (d0 d1 d2 : Nat) (a : Bool) : (s.log c i d0 d1 d2 a).crc u = s.crc u :=
  (crc_logOverflows ..).trans (crc_of_crcs (counters_count_crc ..) u)

/-! ## START, FINISH and ABORT of a unit -/

section
variable {u : Nat} {s : State}

/-- START gives the unit a new job, which a device range that its checks refuse ends at once with its CAUSE (R544). -/
theorem crcBegin_crc : (s.crcBegin u).crc u =
    if (s.crc u).src ≠ 0 ∧ s.crcCause (s.crc u) ≠ 0 then { (s.crc u).begin.idle with cause := s.crcCause (s.crc u) } else (s.crc u).begin := by
  have hbegun : (s.modCrc u Crc.begin).crc u = (s.crc u).begin := crc_modCrc_same ..
  unfold State.crcBegin
  extract_lets s1 c k other
  have hc : c = (s.crc u).begin := hbegun
  have hk : k = s.crcCause (s.crc u) := by rw [show k = s.crcCause c from rfl, hc]; rfl
  have hsrc : c.src = (s.crc u).src := hc ▸ rfl
  rw [hsrc, hk]
  by_cases h0 : (s.crc u).src = 0
  · rw [if_pos h0, if_neg (by simp [h0])]
    exact hbegun
  · rw [if_neg h0]
    by_cases hbad : s.crcCause (s.crc u) = 0
    · rw [if_neg (by simp [hbad]), if_neg (by simp [hbad])]
      exact hbegun
    · rw [if_pos (by simpa using hbad), if_pos ⟨h0, hbad⟩, crc_modCrc_same, hbegun]

theorem crcBegin_flt : (s.crcBegin u).flt = s.flt := by
  unfold State.crcBegin
  extract_lets s1 c k other
  split
  · rfl
  · split
    · rfl
    · rfl

theorem crcBegin_pwr : (s.crcBegin u).pwr = s.pwr := by
  unfold State.crcBegin
  extract_lets s1 c k other
  split
  · rfl
  · split
    · rfl
    · rfl

theorem crcFinish_of_feed (hbusy : (s.crc u).busy = true) (hsrc : (s.crc u).src = 0) : s.crcFinish u = s.modCrc u Crc.complete :=
  if_pos (by simp [hbusy, hsrc])

theorem crcFinish_of_range (h : (s.crc u).src ≠ 0) : s.crcFinish u = s := if_neg (by simp [h])

theorem crcFinish_of_idle (h : (s.crc u).busy = false) : s.crcFinish u = s := if_neg (by simp [h])

theorem crcAbort_of_idle (h : (s.crc u).busy = false) : s.crcAbort u = s := if_neg (by simp [h])

theorem crcAbort_of_busy (h : (s.crc u).busy = true) :
    s.crcAbort u = (s.modCrc u fun c => { c.idle with abandoned := true }).log .crcAbandoned 0 := if_pos h

theorem crcAbort_crc (h : (s.crc u).busy = true) : (s.crcAbort u).crc u = { (s.crc u).idle with abandoned := true } := by
  rw [crcAbort_of_busy h, crc_log, crc_modCrc_same]

/-- A job that is abandoned is logged (R545). -/
theorem crcAbort_logged {s₀ : State} (h : (s.crc u).busy = true) (hflt : s.flt = s₀.flt) (hpwr : s.pwr = s₀.pwr) (hs : logsOk s₀) :
    Logged .crcAbandoned 0 s₀ (s.crcAbort u) := by
  rw [crcAbort_of_busy h]
  have hok : logsOk s := by rwa [logsOk, hflt, hpwr]
  exact log_logged 0 0 0 false hs (.of_flt hflt) (u := s.modCrc u fun c => { c.idle with abandoned := true }) hok (.refl _)

end

/-! ## Writes to CNT_CRCu_CTL (R543, R544, R561) -/

section
variable {u v : Nat} {s : State}

theorem writeCrcCtl_ignored (h : 3 ≤ u ∨ bit v 31 = true ∧ ((s.crc u).busy = true ∨ 2 ≤ bits v 28 27 ∨ s.daMode = false)) :
    s.writeCrcCtl u v = s.writeIgnored := by
  unfold State.writeCrcCtl
  extract_lets start busy s1 s2 s3
  by_cases hu : 3 ≤ u
  · exact if_pos hu
  · rw [if_neg hu, if_pos]
    simpa [start, busy, or_assoc] using h.resolve_left hu

/-- The unit with its new configuration: a unit with a job keeps its own. -/
def crcConfigured (u v : Nat) (s : State) : State := if (s.crc u).busy then s else s.modCrc u (Crc.config v)

/-- Without START, FINISH acts on the configured unit, and then ABORT. -/
theorem writeCrcCtl_of_not_start (hu : u < 3) (h : bit v 31 = false) : s.writeCrcCtl u v =
    let t := if bit v 30 then (crcConfigured u v s).crcFinish u else crcConfigured u v s
    if bit v 29 then t.crcAbort u else t := by
  unfold State.writeCrcCtl
  extract_lets start busy s1 s2 s3
  have hstart : start = false := h
  rw [if_neg (by omega), if_neg (by simp [hstart])]
  simp only [s3, s2, hstart]
  rfl

/-- START acts on the configured unit, then FINISH, then ABORT. -/
theorem writeCrcCtl_of_start (hu : u < 3) (h : bit v 31 = true) (hbusy : (s.crc u).busy = false) (hsrc : bits v 28 27 < 2)
    (hda : s.daMode = true) : s.writeCrcCtl u v =
    let b := (s.modCrc u (Crc.config v)).crcBegin u
    let t := if bit v 30 then b.crcFinish u else b
    if bit v 29 then t.crcAbort u else t := by
  unfold State.writeCrcCtl
  extract_lets start busy s1 s2 s3 b t
  have hstart : start = true := h
  have hidle : busy = false := hbusy
  rw [if_neg (by omega), if_neg (by simp [hidle, hda]; omega)]
  simp only [s3, s2, s1, hstart, hidle]
  rfl

end

theorem crcConfigured_of_busy {u v : Nat} {s : State} (h : (s.crc u).busy = true) : crcConfigured u v s = s := if_pos h

theorem crcConfigured_crc {u v : Nat} {s : State} (h : (s.crc u).busy = false) : (crcConfigured u v s).crc u = (s.crc u).config v := by
  rw [crcConfigured, if_neg (by simp [h]), crc_modCrc_same]

/-! ## Bits of the written value -/

theorem or_twoPow_mod (v : Word) {k : Nat} (hk : k < 32) (h6 : 6 ≤ k) : (v ||| BitVec.twoPow 32 k).toNat % 64 = v.toNat % 64 := by
  rw [BitVec.toNat_or, BitVec.toNat_twoPow_of_lt hk, show 64 = 2 ^ 6 from rfl, Nat.or_mod_two_pow,
    Nat.mod_eq_zero_of_dvd (Nat.pow_dvd_pow 2 h6), Nat.or_zero]

end Sys2Proof.Laws

/-! PROOF. O34: check values. -/

namespace Sys2Proof.Proofs

open Sys2Proof Sys2Proof.Machine Sys2Proof.Laws

/-- A START that is refused leaves every unit (R543, R544). -/
theorem crcStart_ignored {u : Nat} {v : Word} {s : State}
    (h : 3 ≤ u ∨ (s.crc u).busy = true ∨ 2 ≤ bits (v ||| 0x80000000#32).toNat 28 27 ∨ s.daMode = false) :
    exec (.crcStart u v) s = .next s.writeIgnored :=
  congrArg Host.Outcome.next (writeCrcCtl_ignored (h.imp_right fun h => ⟨(bit_or_twoPow v (k := 31) (by decide) 31).trans (Bool.or_true _), h⟩))

/-- START of an idle unit (R544, R548, R561). -/
theorem crcStart_begins {u x : Nat} {s : State} (hu : u < 3) (hstart : bit x 31 = true) (hidle : (s.crc u).busy = false)
    (hsrc : bits x 28 27 < 2) (hda : s.daMode = true) :
    let t := s.writeCrcCtl u x
    let c := { s.crc u with src := bits x 28 27, refin := bit x 26, refout := bit x 25, cls := bits x 24 23, wM1 := x % 64 }
    let k := s.crcCause (s.crc u)
    (t.crc u).src = c.src ∧ (t.crc u).refin = c.refin ∧ (t.crc u).refout = c.refout ∧ (t.crc u).wM1 = c.wM1 ∧
      if bits x 28 27 = 1 ∧ k ≠ 0 then (t.crc u).busy = false ∧ (t.crc u).cause = k ∧ (t.crc u).done = false
      else if bit x 30 = true ∧ bits x 28 27 = 0 then (t.crc u).busy = false ∧ (t.crc u).done = true
      else if bit x 29 = true then (t.crc u).busy = false ∧ (t.crc u).abandoned = true ∧ (logsOk s → Logged .crcAbandoned 0 s t)
      else (t.crc u).busy = true ∧ (t.crc u).reg = c.init % 2 ^ c.width ∧ (t.crc u).fed = 0 ∧ (t.crc u).done = false := by
  have hconf : (s.modCrc u (Crc.config x)).crc u = (s.crc u).config x := crc_modCrc_same ..
  have hbegin := crcBegin_crc (u := u) (s := s.modCrc u (Crc.config x))
  rw [hconf] at hbegin
  change _ = if bits x 28 27 ≠ 0 ∧ s.crcCause (s.crc u) ≠ 0 then { ((s.crc u).config x).begin.idle with cause := s.crcCause (s.crc u) }
    else ((s.crc u).config x).begin at hbegin
  rw [writeCrcCtl_of_start hu hstart hidle hsrc hda]
  have hflt : ((s.modCrc u (Crc.config x)).crcBegin u).flt = s.flt := crcBegin_flt
  have hpwr : ((s.modCrc u (Crc.config x)).crcBegin u).pwr = s.pwr := crcBegin_pwr
  generalize (s.modCrc u (Crc.config x)).crcBegin u = b at hbegin hflt hpwr
  intro t c k
  by_cases hbad : bits x 28 27 = 1 ∧ k ≠ 0
  · rw [if_pos ⟨by omega, hbad.2⟩] at hbegin
    have hstopped : (b.crc u).busy = false := by rw [hbegin]; rfl
    have ht : t = b := by simp only [t, crcFinish_of_idle hstopped, crcAbort_of_idle hstopped, ite_self]
    rw [if_pos hbad, ht, hbegin]
    exact ⟨rfl, rfl, rfl, rfl, rfl, rfl, rfl⟩
  · rw [if_neg fun h => hbad ⟨by omega, h.2⟩] at hbegin
    have hruns : (b.crc u).busy = true := by rw [hbegin]; rfl
    have hbsrc : (b.crc u).src = bits x 28 27 := by rw [hbegin]; rfl
    rw [if_neg hbad]
    by_cases hfin : bit x 30 = true ∧ bits x 28 27 = 0
    · have hdone : ((b.modCrc u Crc.complete).crc u) = (b.crc u).complete := crc_modCrc_same ..
      have hstopped : ((b.modCrc u Crc.complete).crc u).busy = false := by rw [hdone]; rfl
      have ht : t = b.modCrc u Crc.complete := by
        simp only [t, hfin.1, if_true, crcFinish_of_feed hruns (hbsrc.trans hfin.2), crcAbort_of_idle hstopped, ite_self]
      rw [if_pos hfin, ht, hdone, hbegin]
      exact ⟨rfl, rfl, rfl, rfl, rfl, rfl⟩
    · have hunfinished : (if bit x 30 then b.crcFinish u else b) = b := by
        by_cases h30 : bit x 30 = true
        · rw [if_pos h30, crcFinish_of_range fun h => hfin ⟨h30, hbsrc.symm.trans h⟩]
        · exact if_neg h30
      rw [if_neg hfin]
      by_cases h29 : bit x 29 = true
      · have ht : t = b.crcAbort u := by simp only [t, hunfinished, h29, if_true]
        rw [if_pos h29, ht, crcAbort_crc hruns, hbegin]
        exact ⟨rfl, rfl, rfl, rfl, rfl, rfl, crcAbort_logged hruns hflt hpwr⟩
      · have ht : t = b := by simp only [t, hunfinished, h29]; rfl
        rw [if_neg h29, ht, hbegin]
        exact ⟨rfl, rfl, rfl, rfl, rfl, rfl, rfl, rfl⟩

/-- A write without START and ABORT that has FINISH gives the result of a feed-register job (R544). -/
theorem crcFinish_completes {u x : Nat} {s : State} (hu : u < 3) (h31 : bit x 31 = false) (h30 : bit x 30 = true) (h29 : bit x 29 = false) :
    let t := s.writeCrcCtl u x
    if (s.crc u).busy = true ∧ (s.crc u).src = 0 then (t.crc u).busy = false ∧ (t.crc u).done = true ∧ (t.crc u).res = (s.crc u).result
    else if (s.crc u).busy = true then t.crc u = s.crc u
    else (t.crc u).busy = false ∧ (t.crc u).done = (s.crc u).done ∧ (t.crc u).wM1 = x % 64 := by
  intro t
  have ht : t = (crcConfigured u x s).crcFinish u := by
    simp only [t, writeCrcCtl_of_not_start hu h31, h30, h29, if_true]
    rfl
  rw [ht]
  by_cases hbusy : (s.crc u).busy = true
  · rw [crcConfigured_of_busy hbusy]
    by_cases hsrc : (s.crc u).src = 0
    · rw [if_pos ⟨hbusy, hsrc⟩, crcFinish_of_feed hbusy hsrc, crc_modCrc_same]
      exact ⟨rfl, rfl, rfl⟩
    · rw [if_neg (hsrc ·.2), if_pos hbusy, crcFinish_of_range hsrc]
  · have hidle : (s.crc u).busy = false := by simpa using hbusy
    have hconf := crcConfigured_crc (v := x) hidle
    rw [if_neg (hbusy ·.1), if_neg hbusy, crcFinish_of_idle (by rw [hconf]; exact hidle), hconf]
    exact ⟨hidle, rfl, rfl⟩

/-- A write without START and FINISH that has ABORT abandons a running job (R545). -/
theorem crcAbort_abandons {u x : Nat} {s : State} (hu : u < 3) (h31 : bit x 31 = false) (h30 : bit x 30 = false) (h29 : bit x 29 = true) :
    let t := s.writeCrcCtl u x
    if (s.crc u).busy = true then
      t.crc u = { s.crc u with busy := false, owner := 0, abandoned := true } ∧ (logsOk s → Logged .crcAbandoned 0 s t)
    else (t.crc u).busy = false ∧ (t.crc u).abandoned = (s.crc u).abandoned ∧ (t.crc u).wM1 = x % 64 := by
  intro t
  have ht : t = (crcConfigured u x s).crcAbort u := by
    simp only [t, writeCrcCtl_of_not_start hu h31, h30, h29, if_true]
    rfl
  rw [ht]
  by_cases hbusy : (s.crc u).busy = true
  · rw [if_pos hbusy, crcConfigured_of_busy hbusy]
    exact ⟨crcAbort_crc hbusy, crcAbort_logged hbusy rfl rfl⟩
  · have hidle : (s.crc u).busy = false := by simpa using hbusy
    have hconf := crcConfigured_crc (v := x) hidle
    rw [if_neg hbusy, crcAbort_of_idle (by rw [hconf]; exact hidle), hconf]
    exact ⟨hidle, rfl, rfl⟩

/-- Bits written together act as one write, whichever of them names the command (R561). -/
theorem crcBits_together (u : Nat) (v : Word) (s : State) :
    (bit v.toNat 31 = true → exec (.crcFinish u v) s = exec (.crcStart u (v ||| 0x40000000#32)) s ∧
      exec (.crcAbort u v) s = exec (.crcStart u (v ||| 0x20000000#32)) s) ∧
    (bit v.toNat 29 = true → exec (.crcFinish u v) s = exec (.crcAbort u (v ||| 0x40000000#32)) s) := by
  have hset {w y : Word} (hy : w ||| y = w) (z : Word) : w ||| z = w ||| z ||| y := by
    rw [BitVec.or_assoc, BitVec.or_comm z y, ← BitVec.or_assoc, hy]
  have hwrite {w y : Word} (h : w = y) : (.next (s.writeCrcCtl u w.toNat) : Res) = .next (s.writeCrcCtl u y.toNat) := by rw [h]
  refine ⟨fun h => ?_, fun h => hwrite (hset (or_twoPow_of_bit (i := 29) h) _)⟩
  have hstart := or_twoPow_of_bit (i := 31) h
  exact ⟨hwrite (hset hstart _), hwrite (hset hstart _)⟩

/-- The feed registers of a unit with a feed-register job take their bytes (R544). -/
theorem crcFeed_takes {u : Nat} {s : State} (h : u < 3 ∧ (s.crc u).busy = true ∧ (s.crc u).src = 0) (l : List Byte) :
    (s.crcFeed u l).crc u = l.foldl Crc.feed (s.crc u) := by
  obtain ⟨hu, hbusy, hsrc⟩ := h
  rw [State.crcFeed, if_pos (by simp [hu, hbusy, hsrc]), crc_modCrc_same]
  rfl

theorem crcFeed_ignored {u : Nat} {s : State} (h : ¬ (u < 3 ∧ (s.crc u).busy = true ∧ (s.crc u).src = 0)) (l : List Byte) :
    s.crcFeed u l = s.writeIgnored := if_neg (by simpa [and_assoc] using h)

/-- The low byte of a value is all that a byte write takes of it. -/
theorem leBytes_one (n : Nat) : leBytes 1 (n % 256) = [BitVec.ofNat 8 n] :=
  congrArg (fun b => [b]) (BitVec.eq_of_toNat_eq (by simp))

/-- Settles O34: the write to CTL by what START makes of the unit, which FINISH and ABORT then find. That a START which is not taken is
ignored and logged, and that bits written together act as START, FINISH, ABORT, are the model's choices (log 122, 124). -/
theorem checkValues : Obligations.CheckValues := by
  have hignored (s : State) (k : Nat) : s.writeIgnored.crc k = s.crc k := crc_log ..
  refine ⟨fun u v s => ?_, fun u v s hu h31 h29 => ?_, fun u v s hu h31 h30 => ?_, crcBits_together, fun u v s => ?_, fun u s => ?_⟩
  · intro x
    have hstart : bit x 31 = true := (bit_or_twoPow v (k := 31) (by decide) 31).trans (Bool.or_true _)
    split
    · next h => exact ⟨_, crcStart_ignored h, hignored s, writeIgnored_logged s⟩
    · next h =>
      simp only [not_or, Nat.not_le, Bool.not_eq_true, Bool.not_eq_false] at h
      obtain ⟨hu, hidle, hsrc, hda⟩ := h
      exact ⟨_, rfl, crcStart_begins hu hstart hidle hsrc hda⟩
  · have hbit := bit_or_twoPow v (k := 30) (by decide)
    have h := crcFinish_completes (s := s) (x := (v ||| BitVec.twoPow 32 30).toNat) hu (by rw [hbit, h31]; rfl) (by rw [hbit]; exact Bool.or_true _)
      (by rw [hbit, h29]; rfl)
    rw [or_twoPow_mod v (by decide) (by decide)] at h
    exact ⟨_, rfl, h⟩
  · have hbit := bit_or_twoPow v (k := 29) (by decide)
    have h := crcAbort_abandons (s := s) (x := (v ||| BitVec.twoPow 32 29).toNat) hu (by rw [hbit, h31]; rfl) (by rw [hbit, h30]; rfl)
      (by rw [hbit]; exact Bool.or_true _)
    rw [or_twoPow_mod v (by decide) (by decide)] at h
    exact ⟨_, rfl, h⟩
  · split
    · next h =>
      refine ⟨⟨_, rfl, crcFeed_takes h _⟩, _, rfl, ?_⟩
      rw [crcFeed_takes h, leBytes_one]
      rfl
    · next h =>
      intro c hc
      have hrun : exec c s = .next s.writeIgnored := by
        rcases List.mem_pair.mp hc with rfl | rfl
        · exact congrArg Host.Outcome.next (crcFeed_ignored h _)
        · exact congrArg Host.Outcome.next (crcFeed_ignored h _)
      exact ⟨_, hrun, hignored s, writeIgnored_logged s⟩
  · intro c
    split
    · next h =>
      obtain ⟨hu, hbusy, hsrc, hfed⟩ := h
      refine ⟨s.modCrc u Crc.complete, if_pos (by simp [c] at hbusy hsrc hfed; simp [*]), ?_⟩
      rw [crc_modCrc_same]
      exact ⟨rfl, rfl, rfl⟩
    · next h => exact if_neg (by simpa [c, and_assoc] using h)

end Sys2Proof.Proofs

/-! PROOF. What one ck leaves unchanged. -/

namespace Sys2Proof.Laws

open Sys2Proof Sys2Proof.Machine

/-- What one ck brings a bobbin before a retirement goes on. -/
def channelWork (ch : Nat) (s : State) : State :=
  let s := (s.bistLate ch).checkLate ch
  let s := if (s.chan ch).src.groups.isEmpty && !(s.chan ch).src.panic then s else s.updatePanic ch
  if (s.chan ch).ana.due.any fun x => x.1 ≤ s.now then s.modAna ch fun a => a.settle s.now else s

theorem channelTick_eq (ch : Nat) (s : State) : s.channelTick ch = (channelWork ch s).settleRetire ch := rfl

theorem channelWork_writes (ch : Nat) (s : State) : Only { chans := true, flt := true, cnt := true } s (channelWork ch s) := by
  unfold channelWork
  extract_lets s1 s2
  have h1 : Only { chans := true, flt := true, cnt := true } s s1 :=
    checkLate_writes ch _ (bistLate_writes ch s (Only.refl _ s) rfl rfl rfl) rfl rfl rfl
  have h2 : Only { chans := true, flt := true, cnt := true } s s2 := Only.ite h1 (updatePanic_writes ch s1 h1 rfl rfl rfl)
  exact Only.ite (modAna_writes ch _ s2 h2 rfl) h2

theorem bistLate_serviceKept (ch : Nat) (s : State) : ServiceKept s (s.bistLate ch) := by
  unfold State.bistLate
  extract_lets c
  refine .ite (.refl s) (ServiceKept.trans ?_ (log_serviceKept ..))
  exact modChan_serviceKept ch s fun _ => rfl

theorem checkLate_serviceKept (ch : Nat) (s : State) : ServiceKept s (s.checkLate ch) := by
  unfold State.checkLate
  extract_lets e
  refine .ite (ServiceKept.trans ?_ (log_serviceKept ..)) (.refl s)
  exact modChan_serviceKept ch s fun _ => rfl

theorem channelWork_serviceKept (ch : Nat) (s : State) : ServiceKept s (channelWork ch s) := by
  unfold channelWork
  extract_lets s1 s2
  have h1 : ServiceKept s s1 := (bistLate_serviceKept ..).trans (checkLate_serviceKept ..)
  have h2 : ServiceKept s s2 := .ite h1 (h1.trans (updatePanic_serviceKept ..))
  have hsettle : ServiceKept s2 (s2.modAna ch fun a => a.settle s2.now) := by exact modChan_serviceKept ch s2 fun _ => rfl
  exact .ite (h2.trans hsettle) h2

/-! ## No channel waits to be retired -/

/-- No channel waits to be retired. -/
def noneRetires (s : State) : Prop := ∀ ch, (s.chan ch).retirePend = false

theorem ServiceKept.noneRetires {s t : State} (h : ServiceKept s t) (hs : noneRetires s) : noneRetires t :=
  fun ch => (congrArg Prod.snd (h.same ch : servicePart _ = servicePart _)).trans (hs ch)

theorem settleRetire_of_none {s : State} (h : noneRetires s) (ch : Nat) : s.settleRetire ch = s := if_pos (by simp [h ch])

/-- Where no channel waits to be retired, a ck of the bobbins leaves the lanes. -/
theorem channelTicks_lanes (l : List Nat) {s : State} (h : noneRetires s) : (l.foldl (fun s ch => s.channelTick ch) s).lanes = s.lanes := by
  induction l generalizing s with
  | nil => rfl
  | cons ch l ih =>
    have hwork := (channelWork_serviceKept ch s).noneRetires h
    rw [List.foldl_cons, channelTick_eq, settleRetire_of_none hwork, ih hwork]
    exact (channelWork_writes ch s).lanes.resolve_left Bool.false_ne_true

/-! ## The parts of one ck -/

/-- The event CK is counted and the bobbins have gone on. -/
def bobbinsTicked (s : State) : State := s.countCk.channels.foldl (fun s ch => s.channelTick ch) s.countCk

/-- What follows a settled VDD. -/
def deviceTicked (s : State) : State := s.programRecords.sendIdents.driveCool

theorem tick_eq (s : State) : s.tick = deviceTicked (bobbinsTicked { s with now := s.now + 1 }).settleAvs := rfl

/-- What the bobbins' part of a ck may write. -/
def bobbinWork : Writes :=
  { chans := true, frozen := true, ctxs := true, journal := true, host := true, flt := true, cnt := true, lanes := true, tor := true, out := true }

theorem bobbinsTicked_writes (s : State) : Only bobbinWork s (bobbinsTicked s) :=
  Only.foldl (countCk_writes s (Only.refl _ s) rfl rfl) fun s ch h => channelTick_writes ch s h rfl rfl rfl rfl rfl rfl rfl rfl rfl rfl

theorem bobbinsTicked_lanes {s : State} (h : noneRetires s) : (bobbinsTicked s).lanes = s.lanes := by
  have hcount : Only { flt := true, cnt := true } s s.countCk := countCk_writes s (Only.refl _ s) rfl rfl
  have hchans : s.countCk.chans = s.chans := hcount.chans.resolve_left Bool.false_ne_true
  have hnone : noneRetires s.countCk := (ServiceKept.of_chans hchans).noneRetires h
  exact (channelTicks_lanes _ hnone).trans (hcount.lanes.resolve_left Bool.false_ne_true)

/-- What the rest of a ck may write. -/
def deviceWork : Writes :=
  { chans := true, ctxs := true, journal := true, host := true, flt := true, cnt := true, thm := true, tor := true, otp := true, out := true }

theorem deviceTicked_writes (s : State) : Only deviceWork s (deviceTicked s) :=
  driveCool_writes _ (sendIdents_writes _ (programRecords_writes s (Only.refl _ s) rfl rfl rfl rfl rfl rfl rfl rfl rfl rfl) rfl) rfl rfl

theorem settleAvs_of_none {s : State} (h : s.pwr.avs = none) : s.settleAvs = s := by rw [State.settleAvs, h]

/-- What a change of VDD may write. -/
def avsWork : Writes :=
  { chans := true, ctxs := true, journal := true, dram := true, host := true, flt := true, cnt := true, tor := true, pwr := true, out := true }

theorem settleAvs_only (s : State) : Only avsWork s s.settleAvs :=
  settleAvs_writes s (Only.refl _ s) rfl rfl rfl rfl rfl rfl rfl rfl rfl rfl

theorem tick_now (s : State) : s.tick.now = s.now + 1 := by
  rw [tick_eq, (deviceTicked_writes _).now.resolve_left Bool.false_ne_true, (settleAvs_only _).now.resolve_left Bool.false_ne_true,
    (bobbinsTicked_writes _).now.resolve_left Bool.false_ne_true]

/-- The stored array changes in a ck only through a change of VDD (R441). -/
theorem tick_dram {s : State} (h : s.pwr.avs = none) : s.tick.dram = s.dram := by
  have hbobbins := bobbinsTicked_writes { s with now := s.now + 1 }
  have hpwr : (bobbinsTicked { s with now := s.now + 1 }).pwr = s.pwr := hbobbins.pwr.resolve_left Bool.false_ne_true
  rw [tick_eq, settleAvs_of_none (by rw [hpwr, h]), (deviceTicked_writes _).dram.resolve_left Bool.false_ne_true,
    hbobbins.dram.resolve_left Bool.false_ne_true]

/-- The lanes change in a ck only through a retirement (R300). -/
theorem tick_lanes {s : State} (h : noneRetires s) : s.tick.lanes = s.lanes := by
  rw [tick_eq, (deviceTicked_writes _).lanes.resolve_left Bool.false_ne_true, (settleAvs_only _).lanes.resolve_left Bool.false_ne_true]
  exact bobbinsTicked_lanes (s := { s with now := s.now + 1 }) h

/-- What one ck may write. -/
def tickWork : Writes :=
  { now := true, chans := true, frozen := true, ctxs := true, journal := true, dram := true, host := true, flt := true, cnt := true,
    thm := true, lanes := true, tor := true, pwr := true, otp := true, out := true }

theorem tick_only (s : State) : Only tickWork s s.tick :=
  tick_writes s (Only.refl _ s) rfl rfl rfl rfl rfl rfl rfl rfl rfl rfl rfl rfl rfl rfl rfl

end Sys2Proof.Laws

/-! PROOF. O45: a step on an empty queue. -/

namespace Sys2Proof.Proofs

open Sys2Proof Sys2Proof.Machine Sys2Proof.Laws

/-- Settles O45, by what the parts of a ck may write. That a step on an empty queue is a ck is the model's choice (log 1). -/
theorem idleTick : Obligations.IdleTick := by
  intro s hs
  obtain ⟨-, hout, -, -⟩ := tick_keeps s (.refl s)
  have honly := tick_only s
  have hfree : ¬ false = true := Bool.false_ne_true
  exact ⟨s.tick, step_of_empty hs, tick_now s, honly.pending.trans hs, honly.hoop.resolve_left hfree, honly.smb.resolve_left hfree,
    honly.freeNo.resolve_left hfree, honly.members.resolve_left hfree, honly.gradeE.resolve_left hfree, honly.serial.resolve_left hfree,
    hout, tick_dram, tick_lanes⟩

end Sys2Proof.Proofs
